-- ==== Sys2Proof/Word.lean ====
section
/-!
DEFINITION. Word types of the Velral 3216 model: bytes, the 32-bit register word, byte strings in the manual's
little-endian order (R6), and the sparse table that holds everything the part keeps by number.
-/
namespace Sys2Proof

/-- One byte. -/
abbrev Byte := BitVec 8

/-- A set-up register word (R817). -/
abbrev Word := BitVec 32

/-- A 64-bit value: an Evidence Time (R11), a general register of a Dexar core (R521), an address. -/
abbrev W64 := BitVec 64

/-- A sparse table: pairs of a number and a value, the numbers strictly rising. What an unlisted number stands for is
said where the table is declared. -/
abbrev Tab (α : Type) := List (Nat × α)

end Sys2Proof
end

