-- ==== Sys2Proof/Operands.lean ====
section
/-!
DEFINITION. The operand types of commands: what the part takes from outside with a command.
-/
namespace Sys2Proof

/-- The quota fields of a function table entry (R58). -/
inductive Quota where
  | slots | sq | cq | vectors | streams
  deriving DecidableEq, Repr

/-- One value the sweep reads from a doorbell page: SQ_TAIL (`sub`) or CQ_HEAD of local ring `idx` (R71, R79). -/
structure DoorbellRead where
  f : Nat
  idx : Nat
  sub : Bool
  value : Nat
  deriving DecidableEq, Repr

/-- What the environment's timing made of a Class S command (R176, R177, R181): a host read over 2.0 µs; flow-control
credits withheld; a first read that failed hard decoding; a fault masked by retry. -/
structure Conduct where
  lateRead : Bool := false
  noCredit : Bool := false
  softRead : Bool := false
  masked : Bool := false
  deriving DecidableEq, Repr

/-- A read queued on a die since its last decision point: the command that it serves, or none for patrol and refresh, the block and page
group that it reads, and the time that it takes in a window in ns (R357). -/
structure QRead where
  id : Option Nat
  blk : Nat
  page : Nat
  dur : Nat
  deriving DecidableEq, Repr

/-- What a page-group read is for: a command, patrol, a margin read, the blank check of DEPOT, with the zero bits of the worst codeword's raw
read, or a MAINT command's work (R150, R330, R374, R376). -/
inductive ReadUse where
  | command (id : Nat)
  | patrol
  | margin
  | blank (zeros : Nat)
  | maint (id : Nat)
  deriving DecidableEq, Repr

/-- How the dies gave one codeword of a page-group read: its index, the outcome of the decode at ladder steps 0, 1, 2 and so on, none where it
failed, else the bits that it corrected and whether DCRC differs; and for a stripe rebuild the members of the row whose own codeword fails
step 8, and whether the DCRC of the rebuilt codeword differs (R390, R391, R396). -/
structure CwRead where
  cw : Nat
  tries : List (Option (Nat × Bool))
  fails : List Nat := []
  badSum : Bool := false
  deriving DecidableEq, Repr

/-- A request to a DRAM controller: its port, its channel address, whether it writes, and whether it carries Class S work (R644, R645). -/
structure DramReq where
  port : Nat
  addr : Nat
  write : Bool
  classS : Bool
  deriving DecidableEq, Repr

/-- Link states (R429 DT03, R717). -/
inductive Link where
  | down | training | l0 | l0p | l1 | l1sub | recovery
  deriving DecidableEq, Repr

/-- What the scrubber meets in an SRAM array: the array, `segment * 128 + index` or `512 + index` in the Rind, the row, and
whether two bits of a word are wrong (R405, R406). -/
structure SramFind where
  arr : Nat
  row : Nat
  dbl : Bool
  deriving DecidableEq, Repr

/-- What a reader meets in a Segment's DRAM: the byte address of the page, the codewords corrected, whether one is uncorrectable at its first read
alone, whether one stays so on a second read, and the record whose only copy in Stone that one holds, as stream and number (R407 to R409). -/
structure DramFind where
  page : Nat
  corr : Nat
  once : Bool := false
  bad : Bool
  stone : Option (Nat × Nat)
  deriving DecidableEq, Repr

/-- What a core meets beside its own state when it issues a bundle or runs a pass: a fetched word that is poisoned; the SLOTs
whose load or dual fetch reads a poisoned word, and those whose Segment-map access ends in a bus error (R405, R555); the SRAM words
corrected on read, each by the array of its part and the row, and the place of a poisoned one (R410), or the record whose only copy a poisoned
DRAM word holds (R408); a parity error of its registers (DT26); and the cycles since its last issue (R523). -/
structure Issue where
  fetchPoison : Bool := false
  poison : List Nat := []
  busErr : List Nat := []
  corr : List (Nat × Nat) := []
  word : Nat × Nat := (0, 0)
  stone : Option (Nat × Nat) := none
  parity : Bool := false
  cycles : Nat := 1
  deriving DecidableEq, Repr

/-- A unit of work that an event befalls (R412): that of a core, a Zest job or a crypto job by its number, the transfer of a Data
Mover channel by `segment * 64 + channel`, or a command in flight. -/
inductive Work where
  | core (k : Nat)
  | zest (j : Nat)
  | crypto (j : Nat)
  | chan (c : Nat)
  | command (id : Nat)
  deriving DecidableEq, Repr

/-- A NAND die that answers at power-on, by `channel * 16 + target * 2 + LUN`: capacity in Gb, planes, spare bytes a plane, blocks,
pages per block, rated endurance, worst multi-plane read time and suspend latency in µs, suspends per operation (0 for no limit), bits per
cell, whether it has a single-bit mode, data bytes of a page on each plane and its signalling family (0 NV-LPDDR4, 1 Toggle DDR) as its
parameter page gives them, and whether its Read ID and parameter page match the Segment's die profile and R339 (R346). -/
structure DieFind where
  die : Nat
  gb : Nat
  planes : Nat
  spare : Nat
  blocks : Nat
  pages : Nat
  rated : Nat
  tRead : Nat := 40
  tSusp : Nat := 20
  susps : Nat := 0
  cells : Nat := 3
  single : Bool := true
  data : Nat := 16384
  family : Nat := 0
  ok : Bool
  deriving DecidableEq, Repr

/-- A raw read of a page group at power-on: die, block, page group, and the zero bits of its worst codeword before any correction (R373,
R374). -/
structure RawRead where
  die : Nat
  block : Nat
  page : Nat
  zeros : Nat
  deriving DecidableEq, Repr

/-- What training of a Segment's DRAM channel finds: the highest rate code whose check passes, 0 for none, and RAAIMT and RAAMMT of
the components' mode registers (R634, R635). -/
structure DramTrain where
  seg : Nat
  pass : Nat
  raaimt : Nat := 0
  raammt : Nat := 0
  deriving DecidableEq, Repr

/-- What a boot sequence finds outside the part: the straps at their sampling (R763, R791), a bit of `segEn` being 0 as well where a
fuse disables the Segment (R2); VDD_RIND below 0.78 V (R679); the dies that answer (R348); for each channel the highest rate code at
which the training check passes on every die (R344); the DRAM channels' training; the page groups whose raw read at power-on
holds zero bits (R373 to R375); and the flushed records for which
every path of R456 fails, as stream and number. -/
structure BootEnv where
  segEn : Nat := 0xF
  plain : Bool := false
  rescueN : Bool := true
  testMode : Bool := false
  rindLow : Bool := false
  dies : List DieFind := []
  chans : List (Nat × Nat) := []
  drams : List DramTrain := []
  raws : List RawRead := []
  damaged : List (Nat × Nat) := []
  deriving DecidableEq, Repr

end Sys2Proof
end

