-- ==== Sys2Proof/Syntax.lean ====
section
/-!
DEFINITION. The commands and events of the Velral 3216: one constructor for each row of the table of operations and
events. Every command carries `t`, the instant of the Rind timebase in ns at which it happens; the further operands are
what the part takes from outside with it (a pin's level, a written word, bytes of host memory, a measurement).
-/
namespace Sys2Proof

/-- One command or event (one row of the table each). -/
inductive Instr where
  /-- POWER_ON (R453): VDD_RIND reaching power good resets everything, runs the boot sequence and replays the journal in the order of R453. -/
  | powerOn (t : Nat) (resetN : Bool) (perstN : Bool) (env : BootEnv)
  /-- RESET_N_ASSERT (R761): Assertion of RESET_N enters BRACE, flushes Stone, and then resets everything outside the AON domain at step 8 of the flush. -/
  | resetNAssert (t : Nat)
  /-- BOOT_WATCHDOG (R760): Full service not reached 20 s after the boot reference resets the device as RESET_N does. -/
  | bootWatchdog (t : Nat)
  /-- PERST_ASSERT (R760): PERST_N asserted resets the Host Link, the Ring Engine and every function, while Stone, media work and BAR2 continue. -/
  | perstAssert (t : Nat)
  /-- LINK_RESET (R760): A link hot reset or link down resets the Host Link, the Ring Engine and every function as PERST_N does. -/
  | linkReset (t : Nat) (hot : Bool)
  /-- CONFIG_READY (R775): Boot step 8 completes, after which configuration space, BAR0 of function 0 and BAR2 are decoded normally. -/
  | configReady (t : Nat)
  /-- CONFIG_REQUEST (R775): A PCIe configuration request is answered with Request Retry Status before step 8 and normally afterwards. -/
  | configRequest (t : Nat)
  /-- REPLAY_COMPLETE (R453): Step 9 of replay ends, waiting namespace and stream commands are released, and full service begins. -/
  | replayComplete (t : Nat) (pdev : Nat) (rate : Nat)
  /-- CAD_IN_EDGE (R18): A rising edge of CAD_IN is taken as a frame boundary, ignored, or counted toward locking, according to the lock state. -/
  | cadInEdge (t : Nat) (finds : List (Nat × DramFind))
  /-- UNIT_FRAME_BOUNDARY (R16): In FREE, ACQUIRE, HOLDOVER or MASTER, the adopted period P elapses and the Cadence Unit makes a frame boundary. -/
  | unitFrameBoundary (t : Nat) (finds : List (Nat × DramFind))
  /-- LATE_WINDOW_EXPIRY (R21): No CAD_IN edge arrives by P + W while LOCKED, so the unit makes a boundary and enters HOLDOVER. -/
  | lateWindowExpiry (t : Nat) (finds : List (Nat × DramFind))
  /-- EDGES_ABSENT (R830): No CAD_IN edge arrives within 2 × P, so ACQUIRE returns to HOLDOVER or FREE. -/
  | edgesAbsent (t : Nat)
  /-- HOLDOVER_LIMIT (R23): CAD_HOLD frames pass without an adoption, so the quality code becomes FREE and the state may become FREE. -/
  | holdoverLimit (t : Nat)
  /-- CAD_OUT_PULSE_END (R34): CAD_OUT_WIDTH µs, or P/2, after a boundary, CAD_OUT falls. -/
  | cadOutPulseEnd (t : Nat)
  /-- FRAME_EXHAUSTED (R31): A boundary at FRAME 0xFF_FFFF_FFFF holds Evidence Time at its maximum and sets EXHAUSTED. -/
  | frameExhausted (t : Nat)
  /-- CADENCE_RECORD_DUE (R28): FRAME reaches a multiple of 32,768, and a cadence record is queued for the journal. -/
  | cadenceRecordDue (t : Nat)
  /-- PPS_CAPTURE (R37): A PPS_IN rising edge writes a PPS record, updates CAD_PPS_HEAD and posts a Cadence notice of kind 3. -/
  | ppsCapture (t : Nat)
  /-- ODO_PULSE (R40): A filtered ODO_IN rising edge adds 1 to CAD_ODO_TOTAL. -/
  | odoPulse (t : Nat) (high : Nat)
  /-- INCIDENT_EDGE (R45): A qualified falling edge of INCIDENT_N sets, extends or overflows a fence and delivers it to the reclaim gates. -/
  | incidentEdge (t : Nat) (n : Nat) (low : Nat)
  /-- FENCE_END (R44): FRAME reaches a fence's end, and the fence passes from open to ended. -/
  | fenceEnd (t : Nat) (slot : Nat)
  /-- CAD_SNAP_NOW (R54): A write of 1 to CAD_SNAP.NOW copies Evidence Time, the pulse total and CAD_GLITCH into their read registers. -/
  | cadSnapNow (t : Nat)
  /-- FUNCTION_ENABLE (R59): A write of 1 to CTL.ENABLE of an absent or refused function checks and reserves its quotas, and the function becomes ready or refused. -/
  | functionEnable (t : Nat) (f : Nat) (ctl : Nat)
  /-- FUNCTION_DISABLE (R63): A write of 0 to CTL.ENABLE resets the function and returns its quotas, or clears a refused entry. -/
  | functionDisable (t : Nat) (f : Nat) (ctl : Nat)
  /-- QUOTA_WRITE (R62): A write to a quota field of a function table entry is applied, or is ignored with FN_BUSY_WR or RSVD_WR set. -/
  | quotaWrite (t : Nat) (f : Nat) (q : Quota) (v : Nat)
  /-- RING_CREATE (R67): FN_RING_CMD with OP 1 checks the staged configuration and creates the ring, or reports a result code. -/
  | ringCreate (t : Nat) (f : Nat) (i : Nat)
  /-- RING_DELETE (R69): FN_RING_CMD with OP 2 stops fetching from the ring or refuses the delete. -/
  | ringDelete (t : Nat) (f : Nat) (sub : Bool) (i : Nat)
  /-- RING_DELETE_DONE (R69): The last command fetched from a deleted SUB ring posts, and the ring and its pairings are freed. -/
  | ringDeleteDone (t : Nat) (f : Nat)
  /-- RING_QUERY (R70): FN_RING_CMD with OP 3 loads the staging registers with the named ring's configuration. -/
  | ringQuery (t : Nat) (f : Nat) (sub : Bool) (i : Nat)
  /-- DOORBELL_BASE_WRITE (R71): A write to FN_DB_LO or FN_DB_HI sets the doorbell page, or is ignored while rings exist. -/
  | doorbellBaseWrite (t : Nat) (f : Nat) (hi : Bool) (v : Word) (be : Nat)
  /-- PIP_SUBMISSION_TAIL (R76): A Pip of KIND 0 moves a SUB ring's known tail, or is counted as duplicate, stale or bad. -/
  | pipSubmissionTail (t : Nat) (f : Nat) (w : Word) (be : Nat)
  /-- PIP_COMPLETION_HEAD (R77): A Pip of KIND 1 moves a CMP or EVT ring's known head, or is bad. -/
  | pipCompletionHead (t : Nat) (f : Nat) (w : Word) (be : Nat)
  /-- SWEEP (R79): Every 50 µs the Ring Engine reads every doorbell entry and applies the values it finds as Pips would be applied. -/
  | sweep (t : Nat) (reads : List DoorbellRead)
  /-- DESCRIPTOR_FETCH (R83): Once a ring is chosen and R96 gives room, the Ring Engine fetches a descriptor and checks it in the order of R83. -/
  | descriptorFetch (t : Nat) (desc : Option (List Byte)) (segs : List (Option (List Byte)))
  /-- RING_STOPPED_NOTICE (R835): Once no command of a stopped ring remains in flight, a Ring notice with EVENT 4 is posted. -/
  | ringStoppedNotice (t : Nat) (f : Nat) (sub : Bool) (i : Nat) (bad : Bool)
  /-- NOTICE_WRITE_HELD (R94): An EVT ring gains room, and held notices are written in the order they were queued. -/
  | noticeWriteHeld (t : Nat) (f : Nat)
  /-- COALESCE_TIMER (R98): FN_RING_COAL.TIME µs pass since the first counting entry, and the ring's MSI-X vector is sent. -/
  | coalesceTimer (t : Nat) (f : Nat) (i : Nat)
  /-- FUNCTION_LEVEL_RESET (R99): A Function Level Reset starts the function reset sequence of R99. -/
  | functionLevelReset (t : Nat) (f : Nat)
  /-- SRIOV_VF_CHANGE (R99): A change of SR-IOV VF Enable or NumVFs makes virtual functions ready, or resets them. -/
  | sriovVfChange (t : Nat) (ve : Bool) (num : Nat)
  /-- FUNCTION_RESET_DONE (R99): The in-flight work of a resetting function ends, its rings and BAR0 are cleared, its STATE returns, and a Function notice is posted. -/
  | functionResetDone (t : Nat) (f : Nat)
  /-- FN_SNAP_NOW (R101): A write of 1 to FN_SNAP.NOW copies the function's Pip and notice counters. -/
  | fnSnapNow (t : Nat) (f : Nat)
  /-- IDENTIFY (R141): The command writes the device structure, a namespace structure or an NSID list according to CNS. -/
  | identify (t : Nat) (id : Nat)
  /-- NS_CREATE (R107): The command creates an empty block or timeline namespace and writes its key slot. -/
  | nsCreate (t : Nat) (id : Nat)
  /-- NS_DELETE (R108): The command disables the key slot, deallocates the namespace and returns its capacity. -/
  | nsDelete (t : Nat) (id : Nat)
  /-- STREAM_CREATE (R111): The command admits a stream to a Segment, reserves its Class S budget and sets the genesis chain head. -/
  | streamCreate (t : Nat) (id : Nat)
  /-- STREAM_DELETE (R112): The command deallocates a stream's records, retires its chain head and frees its reservations. -/
  | streamDelete (t : Nat) (id : Nat)
  /-- STREAM_QUERY (R113): The command writes the 128-byte structure that describes a stream. -/
  | streamQuery (t : Nat) (id : Nat)
  /-- GET_LOG (R142): The command writes LEN bytes of a log snapshot from the given offset. -/
  | getLog (t : Nat) (id : Nat)
  /-- ABORT (R146): The command completes a named command with 0x0109 if it has not yet begun to move data. -/
  | abortCmd (t : Nat) (id : Nat)
  /-- FENCE_RELEASE (R135): The command frees a fence slot and posts a Cadence notice of kind 5. -/
  | fenceRelease (t : Nat) (id : Nat)
  /-- PROG_LOAD (R612): The command checks a program image and stores it in a program slot of each Segment in the mask. -/
  | progLoad (t : Nat) (id : Nat) (data : Option (List Byte))
  /-- PROG_UNLOAD (R139): The command frees a program slot of the function. -/
  | progUnload (t : Nat) (id : Nat)
  /-- FW_DOWNLOAD (R151): The command copies image data into the firmware staging buffer at the given offset. -/
  | fwDownload (t : Nat) (id : Nat) (data : Option (List Byte))
  /-- FW_COMMIT_WRITE (R772): FW_COMMIT with ACTION 0 or 1 verifies the staged image, writes it to the slot and, for ACTION 1, activates it. -/
  | fwCommitWrite (t : Nat) (id : Nat)
  /-- FW_COMMIT_ACTIVATE (R773): FW_COMMIT with ACTION 2 writes an activation record for the image already in the slot. -/
  | fwCommitActivate (t : Nat) (id : Nat)
  /-- DEPOT_BEGIN (R147): DEPOT with ACTION 1 begins DEPOT, or sets its end afresh. -/
  | depotBegin (t : Nat) (id : Nat)
  /-- DEPOT_STOP (R147): DEPOT with ACTION 0 ends an active DEPOT at once. -/
  | depotStop (t : Nat) (id : Nat)
  /-- DEPOT_WINDOW_END (R147): FRAME reaches the end set by ACTION 1, so DEPOT ends and the work of R331 stops. -/
  | depotWindowEnd (t : Nat)
  /-- DIAG_READ (R148): The command returns a raw page from a die within one of the die's recall windows. -/
  | diagRead (t : Nat) (id : Nat) (flips : List Nat)
  /-- SEAL (R116): The command checks a Seal before reading, deducts Class S credit, reserves room and queues the record for its stream. -/
  | sealRec (t : Nat) (id : Nat)
  /-- SEAL_SERVICE_START (R195): The stream's previous Seal has folded, so the next Seal starts its payload reads into Stone. -/
  | sealServiceStart (t : Nat) (k : Nat)
  /-- SEAL_FOLD (R200): The payload is in Stone with header and index parse complete, and the stamp, record number, chain tag and head are taken as one act. -/
  | sealFold (t : Nat) (id : Nat) (data : Option (List Byte)) (d : Conduct) (postBad : Bool)
  /-- RECALL_TIME (R238): The command resolves a time in the Timeline Index, snaps to a key frame and returns records. -/
  | recallTime (t : Nat) (id : Nat) (d : Conduct)
  /-- RECALL_RECORD (R121): The command returns COUNT records starting at a record number. -/
  | recallRecord (t : Nat) (id : Nat) (d : Conduct)
  /-- RECALL_RANGE (R122): The command returns every stored record stamped from T0 to T1. -/
  | recallRange (t : Nat) (id : Nat)
  /-- WRITE (R128): The command stores blocks of a block namespace, merging partial grains and compressing if enabled. -/
  | writeBlocks (t : Nat) (id : Nat) (data : Option (List Byte)) (bad : List Nat)
  /-- READ (R130): The command returns blocks of a block namespace, with zeros for blocks never written. -/
  | readBlocks (t : Nat) (id : Nat)
  /-- DEALLOCATE (R129): The command deallocates a range of blocks of a block namespace. -/
  | deallocate (t : Nat) (id : Nat)
  /-- LOCK (R132): The command makes the stored records of a time range Hold records with a later expiry. -/
  | lockRange (t : Nat) (id : Nat)
  /-- RELEASE (R133): The command makes Hold records of a time range Loop records. -/
  | releaseRange (t : Nat) (id : Nat)
  /-- EXPORT (R136): The command checks the chain, then writes a signed manifest and the records, encrypted if asked. -/
  | exportRange (t : Nat) (id : Nat)
  /-- PROG_RUN (R613): The command queues a run of a loaded program on a guest ready list of a Segment. -/
  | progRun (t : Nat) (id : Nat)
  /-- MAINT_PATROL (R150): MAINT of kind 1 patrols every block of the namespace within the maintenance share. -/
  | maintPatrol (t : Nat) (id : Nat)
  /-- MAINT_COMPACT (R150): MAINT of kind 2 compacts the namespace during DEPOT. -/
  | maintCompact (t : Nat) (id : Nat)
  /-- MAINT_VERIFY (R150): MAINT of kind 3 verifies a stream's whole chain from media. -/
  | maintVerify (t : Nat) (id : Nat)
  /-- NVME_DELETE_IO_SQ (R156): The Plain admin command deletes an I/O submission queue. -/
  | nvmeDeleteIoSq (t : Nat) (cmd : List Byte)
  /-- NVME_CREATE_IO_SQ (R156): The Plain admin command creates a contiguous I/O submission queue. -/
  | nvmeCreateIoSq (t : Nat) (cmd : List Byte)
  /-- NVME_GET_LOG_PAGE (R156): The Plain admin command returns the Error, SMART / Health or Firmware Slot log. -/
  | nvmeGetLogPage (t : Nat) (cmd : List Byte)
  /-- NVME_DELETE_IO_CQ (R156): The Plain admin command deletes an I/O completion queue. -/
  | nvmeDeleteIoCq (t : Nat) (cmd : List Byte)
  /-- NVME_CREATE_IO_CQ (R156): The Plain admin command creates a contiguous I/O completion queue. -/
  | nvmeCreateIoCq (t : Nat) (cmd : List Byte)
  /-- NVME_IDENTIFY (R156): The Plain admin command returns Identify data for CNS 0x00 to 0x03. -/
  | nvmeIdentify (t : Nat) (cmd : List Byte)
  /-- NVME_ABORT (R156): The Plain admin command aborts a command under the rule of R146. -/
  | nvmeAbort (t : Nat) (cmd : List Byte)
  /-- NVME_SET_FEATURES (R157): The Plain admin command sets one of the supported features. -/
  | nvmeSetFeatures (t : Nat) (cmd : List Byte)
  /-- NVME_GET_FEATURES (R157): The Plain admin command reports one of the supported features. -/
  | nvmeGetFeatures (t : Nat) (cmd : List Byte)
  /-- NVME_ASYNC_EVENT_REQUEST (R156): The Plain admin command is held until a SMART / Health critical-warning event completes it. -/
  | nvmeAsyncEventRequest (t : Nat) (cmd : List Byte)
  /-- NVME_FIRMWARE_COMMIT (R156): The Plain admin command commits firmware to boot slot A or B with commit action 000b, 001b or 010b. -/
  | nvmeFirmwareCommit (t : Nat) (cmd : List Byte)
  /-- NVME_FW_IMAGE_DOWNLOAD (R156): The Plain admin command downloads image data as FW_DOWNLOAD does. -/
  | nvmeFwImageDownload (t : Nat) (cmd : List Byte) (data : Option (List Byte))
  /-- NVME_FLUSH (R156): The Plain I/O command completes at once, because completed writes are already durable. -/
  | nvmeFlush (t : Nat) (sq : Nat) (cmd : List Byte)
  /-- NVME_WRITE (R156): The Plain I/O command writes up to 65,536 blocks of namespace 1. -/
  | nvmeWrite (t : Nat) (sq : Nat) (cmd : List Byte) (data : Option (List Byte)) (bad : List Nat)
  /-- NVME_READ (R156): The Plain I/O command reads up to 65,536 blocks of namespace 1. -/
  | nvmeRead (t : Nat) (sq : Nat) (cmd : List Byte)
  /-- NVME_DATASET_MANAGEMENT (R156): The Plain I/O command deallocates up to 256 ranges. -/
  | nvmeDatasetManagement (t : Nat) (sq : Nat) (cmd : List Byte) (data : Option (List Byte))
  /-- CLASS_S_FETCH_STALL (R429): A Class S ring with fetchable descriptors stays unfetched for 5 µs, which raises DT24 and resets the arbiter. -/
  | classSFetchStall (t : Nat) (f : Nat) (i : Nat)
  /-- CLS_SNAP_NOW (R185): A write of 1 to CLS_SNAPn.NOW copies the Segment's Class S counters and maxima. -/
  | clsSnapNow (t : Nat) (n : Nat)
  /-- HOLD_EXPIRY (R209): FRAME reaches a Hold record's expiry, and the record becomes reclaimable. -/
  | holdExpiry (t : Nat)
  /-- RETENTION_NOTICE_DUE (R215): FRAME reaches a multiple of 64, and Retention notices for expiries and reclaims are posted per stream. -/
  | retentionNoticeDue (t : Nat)
  /-- IDX_SNAP_NOW (R244): A write of 1 to IDX_SNAPn.NOW copies the Segment's Indexer counters. -/
  | idxSnapNow (t : Nat) (n : Nat)
  /-- ZEST_COMPRESS_JOB (R270): A compression job submitted at the Zest job port is checked, queued and run block by block. -/
  | zestCompressJob (t : Nat) (k : Nat)
  /-- ZEST_DECOMPRESS_JOB (R254): A decompression job submitted at the Zest job port is checked, queued and decoded under the reference decoder. -/
  | zestDecompressJob (t : Nat) (k : Nat)
  /-- ZEST_JOB_COMPLETE (R268): A Zest job reaches the object's end or stops at a block boundary and writes its 16-byte result. -/
  | zestJobComplete (t : Nat) (seg : Nat) (comp : Bool) (bad : List Nat)
  /-- ZST_SNAP_NOW (R276): A write of 1 to ZST_SNAPn.NOW copies the Segment's Zest counters. -/
  | zstSnapNow (t : Nat) (n : Nat)
  /-- STONE_DRAIN (R293): The Media Manager drains Stone to media in fold order, compressing unless bypassed. -/
  | stoneDrain (t : Nat) (seg : Nat) (bad : List Nat) (finds : List DramFind)
  /-- RECORD_DRAIN_COMPLETE (R203): A record's drain to media completes, and a chain-head entry is queued for the journal. -/
  | recordDrainComplete (t : Nat) (seg : Nat)
  /-- PARTIAL_UNIT_TIMEOUT (R294): A stream's stripe unit is still partial 500 ms after its first byte, and it is programmed into the SLC buffer. -/
  | partialUnitTimeout (t : Nat) (k : Nat)
  /-- SLC_MOVE (R295): The SLC buffer exceeds its share S, and its oldest contents move to TLC bands. -/
  | slcMove (t : Nat) (seg : Nat) (bad : List (Nat × Nat × Nat))
  /-- MAP_CHECKPOINT (R289): The checkpoint interval or band count is reached, so the map, index, stubs and band table are checkpointed and the root pointer is written. -/
  | mapCheckpoint (t : Nat) (seg : Nat)
  /-- GARBAGE_COLLECTION (R305): Free bands fall below MED_GC.START, and valid data is moved from the emptiest band until STOP is reached. -/
  | garbageCollection (t : Nat) (seg : Nat) (bad : List (Nat × Nat × Nat))
  /-- WEAR_MOVE (R311): The band erase-count gap exceeds its limit, and the coldest band's data moves to the most-worn free band. -/
  | wearMove (t : Nat) (seg : Nat) (bad : List (Nat × Nat × Nat))
  /-- PATROL_PASS_END (R312): A patrol pass period ends, a Health notice of kind 7 is posted and a new pass begins. -/
  | patrolPassEnd (t : Nat) (seg : Nat) (finds : List DramFind)
  /-- RETENTION_REFRESH (R315): A block queued for refresh has its band's valid data rewritten. -/
  | retentionRefresh (t : Nat) (k : Nat)
  /-- AGE_REFRESH (R314): A block's data passes MED_RET.AGE days, and the block is queued for retention refresh. -/
  | ageRefresh (t : Nat) (k : Nat)
  /-- MAINT_TOKEN_HANDOFF (R325): A released maintenance token passes to the waiting start of highest precedence, which then begins. -/
  | maintTokenHandoff (t : Nat) (res : Nat)
  /-- MED_SNAP_NOW (R337): A write of 1 to MED_SNAPn.NOW copies the Segment's Media Manager counters. -/
  | medSnapNow (t : Nat) (n : Nat)
  /-- CHANNEL_RETRAIN (R345): A channel's drift, period or an interface error triggers incremental retraining between window positions. -/
  | channelRetrain (t : Nat) (c : Nat)
  /-- WINDOW_DECISION (R356): A die's decision point arrives, and the die skips the window or suspends its program or erase and opens the window. -/
  | windowDecision (t : Nat) (d : Nat) (reads : List QRead)
  /-- WINDOW_CLOSE (R357): The last read that may start in a window ends, and the window closes and the suspended operation resumes. -/
  | windowClose (t : Nat) (d : Nat)
  /-- PROTECTED_STRETCH_END (R361): An erase's 250 µs protected stretch ends, and the erase becomes suspendable. -/
  | protectedStretchEnd (t : Nat) (d : Nat)
  /-- ERASE_ISSUE (R369): The erase intent is durable and R362 permits the erase, so the sequencer issues it. -/
  | eraseIssue (t : Nat) (d : Nat) (b : Nat)
  /-- NAND_ERASE_COMPLETE (R370): An erase reports success and an erase-done entry is written, or it reports failure and the block is retired. -/
  | nandEraseComplete (t : Nat) (d : Nat) (ok : Bool) (raws : List (Nat × Nat))
  /-- NAND_PROGRAM_COMPLETE (R397): A page-group program ends, and its stripe row is verified or rewritten. -/
  | nandProgramComplete (t : Nat) (d : Nat) (ok : Bool) (parity : Option Bool)
  /-- NAND_READ_COMPLETE (R391): A page-group read ends, and its codewords are decoded, stepping through the read-retry ladder and stripe rebuild as needed. -/
  | nandReadComplete (t : Nat) (d : Nat) (b : Nat) (pg : Nat) (best : Nat) (cws : List CwRead) (use : ReadUse)
  /-- NAND_OP_TIMEOUT (R378): A die is not ready within its maximum operation time plus 10 %, which counts an interface error and resets the die. -/
  | nandOpTimeout (t : Nat) (d : Nat)
  /-- FLW_SNAP_NOW (R385): A write of 1 to FLW_SNAPn.NOW copies the Segment's flash counters and channel error counts. -/
  | flwSnapNow (t : Nat) (n : Nat)
  /-- DETECTOR_HOLDOFF_END (R421): A detector's notice hold-off interval ends, and one notice is posted for the raisings inside it. -/
  | detectorHoldoffEnd (t : Nat) (k : Nat)
  /-- INJECTION_ARM (R424): A write of 1 to INT_INJ.ARM arms an injection, or refuses it. -/
  | injectionArm (t : Nat) (w : Word) (be : Nat)
  /-- INJECTION_DISARM (R424): A write of 0 to INT_INJ.ARM disarms an armed injection. -/
  | injectionDisarm (t : Nat) (w : Word) (be : Nat)
  /-- BYPASS_OPEN (R428): A write of 1 to INT_BYPASS.OPEN bypasses a detector's checker for the window. -/
  | bypassOpen (t : Nat) (w : Word) (be : Nat)
  /-- BYPASS_WINDOW_END (R428): The bypass window of INT_BYPASS.WINDOW µs ends, and OPEN clears. -/
  | bypassWindowEnd (t : Nat)
  /-- INT_SNAP_NOW (R432): A write of 1 to INT_SNAP.NOW copies every detector tally. -/
  | intSnapNow (t : Nat)
  /-- SRAM_SCRUB (R406): Each scrub period every powered SRAM word is read, correcting, poisoning or repairing as needed. -/
  | sramScrub (t : Nat) (finds : List SramFind)
  /-- HEALTH_SAVE (R417): Every 60 minutes the health counters are saved to the Pith Array. -/
  | healthSave (t : Nat)
  /-- FABRIC_TIMEOUT (R412): An internal fabric transaction is unanswered for 10 µs, which raises DT08 and retries the unit of work. -/
  | fabricTimeout (t : Nat) (work : Work) (write : Bool) (units : Nat)
  /-- HEARTBEAT_MISS (R412): A house core misses its heartbeat for 1 ms, which raises DT27, resets the core and retries its work. -/
  | heartbeatMiss (t : Nat) (k : Nat)
  /-- HOST_READ_TIMEOUT (R666): A host read has no completion within 10 ms, which raises DT02 and ends its descriptor or command with 0x0108. -/
  | hostReadTimeout (t : Nat) (work : Work)
  /-- POWER_WARNING (R437): A qualified power warning enters BRACE and starts the Brace flush. -/
  | powerWarning (t : Nat) (vsys : Nat) (vhu : Nat) (warnN : Bool) (huOk : Bool)
  /-- BRACE_FLUSH_COMPLETE (R443): The Brace-complete entry becomes durable, FLUSHED is set and a Brace notice of kind 2 is queued. -/
  | braceFlushComplete (t : Nat) (pbrace : Nat) (t34 : Nat) (t37 : Nat) (v3 : Nat) (v7 : Nat) (low : Bool)
  /-- EXIT_WAIT_RESTART (R447): An exit condition fails during the 5 ms exit wait, and the wait restarts and is counted. -/
  | exitWaitRestart (t : Nat) (vsys : Nat) (vhu : Nat) (warnN : Bool) (huOk : Bool)
  /-- BRACE_EXIT (R448): The exit wait ends with the flush complete, so BRACE ends, the image is retired and deferred commands are served. -/
  | braceExit (t : Nat)
  /-- BRC_SNAP_NOW (R463): A write of 1 to BRC_SNAP.NOW copies the Brace counters. -/
  | brcSnapNow (t : Nat)
  /-- CRYPTO_INIT (R483): A Crypto job with OP 1 allocates a context and loads its key. -/
  | cryptoInit (t : Nat) (k : Nat)
  /-- CRYPTO_UPDATE (R483): A Crypto job with OP 2 adds input to a context. -/
  | cryptoUpdate (t : Nat) (k : Nat)
  /-- CRYPTO_FINAL (R483): A Crypto job with OP 3 completes and delivers the digest, MAC or tag and frees the context. -/
  | cryptoFinal (t : Nat) (k : Nat)
  /-- CRYPTO_FREE (R485): A Crypto job with OP 4 zeroes and frees a context. -/
  | cryptoFree (t : Nat) (k : Nat)
  /-- CRYPTO_ONESHOT (R483): A Crypto job with OP 5 performs INIT, UPDATE and FINAL in one job. -/
  | cryptoOneshot (t : Nat) (k : Nat)
  /-- CRYPTO_CHAIN_CHECK (R489): A Crypto job with OP 6 checks one record header's chain tag and reports through CMP. -/
  | cryptoChainCheck (t : Nat) (k : Nat)
  /-- CRYPTO_RANDOM (R483): A Crypto job with OP 7 writes random bytes from the generator. -/
  | cryptoRandom (t : Nat) (k : Nat)
  /-- GCM_HOLD_GRANT (R488): The GCM hold buffer gains room, and a waiting GCM decryption reserves it and starts. -/
  | gcmHoldGrant (t : Nat) (seg : Nat)
  /-- CRYPTO_JOB_COMPLETE (R486): A Crypto job finishes and writes its 16-byte result. -/
  | cryptoJobComplete (t : Nat) (n : Nat) (bus : Bool) (differ : Bool) (flags_ : Bool) (lane : Nat) (finds : List SramFind)
  /-- TAMPER_ALARM (R507): A tamper sensor alarms, and the Security Gate halts the engines and zeroizes every key and context. -/
  | tamperAlarm (t : Nat) (n : Nat)
  /-- KEY_REDERIVE (R508): After 100 µs without an alarm, the DRBG is reseeded and the keys are re-derived. -/
  | keyRederive (t : Nat)
  /-- RNG_HEALTH_FAIL (R505): A noise-source health test fails, which raises DT60 and withholds output. -/
  | rngHealthFail (t : Nat)
  /-- RNG_RECOVERED (R505): 1,024 consecutive samples pass, and the random generator gives output again. -/
  | rngRecovered (t : Nat)
  /-- DRBG_RESEED (R505): Every 1 ms the CTR_DRBG reseeds from the noise source. -/
  | drbgReseed (t : Nat)
  /-- EXPORT_KEY_SET (R499): A write of 1 to FNK_CTRL.SET installs the staged export key and zeroes the staging. -/
  | exportKeySet (t : Nat) (f : Nat)
  /-- EXPORT_KEY_CLEAR (R499): A write of 1 to FNK_CTRL.CLEAR erases the export key and the staging. -/
  | exportKeyClear (t : Nat) (f : Nat)
  /-- CRY_CTRL_WRITE (R511): A write to CRY_CTRL that clears DUMMY_EN or SHUFFLE_EN outside BLANK is ignored and sets CM_WR. -/
  | cryCtrlWrite (t : Nat) (w : Word) (be : Nat)
  /-- CRY_SNAP_NOW (R512): A write of 1 to CRY_SNAP.NOW copies the Crypto counters. -/
  | crySnapNow (t : Nat)
  /-- SPDM_GET_VERSION (R504): An SPDM GET_VERSION request over DOE is answered. -/
  | spdmGetVersion (t : Nat) (req : List Byte)
  /-- SPDM_GET_CAPABILITIES (R504): An SPDM GET_CAPABILITIES request is answered. -/
  | spdmGetCapabilities (t : Nat) (req : List Byte)
  /-- SPDM_NEGOTIATE_ALGORITHMS (R504): An SPDM NEGOTIATE_ALGORITHMS request is answered with P-384 and SHA-384. -/
  | spdmNegotiateAlgorithms (t : Nat) (req : List Byte)
  /-- SPDM_GET_DIGESTS (R504): An SPDM GET_DIGESTS request is answered for slot 0. -/
  | spdmGetDigests (t : Nat) (req : List Byte)
  /-- SPDM_GET_CERTIFICATE (R504): An SPDM GET_CERTIFICATE request returns the chain of slot 0. -/
  | spdmGetCertificate (t : Nat) (req : List Byte)
  /-- SPDM_CHALLENGE (R503): An SPDM CHALLENGE request is answered with a signature of the attestation key. -/
  | spdmChallenge (t : Nat) (req : List Byte)
  /-- SPDM_GET_MEASUREMENTS (R781): An SPDM GET_MEASUREMENTS request returns the five boot measurement blocks. -/
  | spdmGetMeasurements (t : Nat) (req : List Byte)
  /-- BUNDLE_ISSUE (R531): A Dexar core decodes and checks a bundle and executes its syllables together, committing all their writes at once. -/
  | bundleIssue (t : Nat) (k : Nat) (way : Issue)
  /-- REP_PASS (R546): One pass of a REP bundle executes, and REPC is decremented. -/
  | repPass (t : Nat) (k : Nat) (way : Issue)
  /-- BUDGET_EXCEPTION (R621): A run's budget expires, and its core takes exception 0x10. -/
  | budgetException (t : Nat) (k : Nat)
  /-- EVENT_EXCEPTION (R555): The Dispatcher signals an event while IE is 1 and EXL is 0, and the core takes exception 0x11. -/
  | eventException (t : Nat) (k : Nat)
  /-- CORE_CLOCK_GATE (R713): A core that waits in GET for more than 64 cycles has its clock gated. -/
  | coreClockGate (t : Nat) (k : Nat)
  /-- GET_DELIVER (R609): An eligible item becomes ready for a core waiting in GET, and the Dispatcher delivers its content and token. -/
  | getDeliver (t : Nat) (seg : Nat)
  /-- DISPATCHER_POST (R606): A store to POST posts the staged item to a ready or delay list, and POSTSTAT is written. -/
  | dispatcherPost (t : Nat) (k : Nat)
  /-- DISPATCHER_DONE (R607): A store of a token to DONE ends that item's service, or is ignored. -/
  | dispatcherDone (t : Nat) (k : Nat)
  /-- RUN_EXIT (R622): A guest store to EXIT ends the run with 0x0000 and the stored value. -/
  | runExit (t : Nat) (k : Nat)
  /-- DELAY_RELEASE (R604): A delay-list item's due time passes, and the item enters its ready list with SOURCE 6. -/
  | delayRelease (t : Nat) (seg : Nat)
  /-- RUN_START (R615): A guest core, the pools and the run-start window allow it, so a queued run is set up and released at ENTRY. -/
  | runStart (t : Nat) (seg : Nat) (k : Nat) (w3 : Nat) (w4 : Nat)
  /-- DSPF_HW_WRITE (R631): A write to a host-window register is applied, or is ignored while a run of the function is queued or running. -/
  | dspfHwWrite (t : Nat) (f : Nat) (o : Nat) (w : Word) (be : Nat)
  /-- DSP_SNAP_NOW (R629): A write of 1 to DSP_SNAPn.NOW copies the Segment's Dispatcher counters. -/
  | dspSnapNow (t : Nat) (n : Nat)
  /-- DRAM_ZERO_FILL (R636): From training step 9 the controller writes zeros over the whole channel. -/
  | dramZeroFill (t : Nat) (n : Nat)
  /-- DRAM_ZQ_CALIBRATION (R637): Every DRM_TRAIN.ZQ ms a channel in service runs ZQ calibration. -/
  | dramZqCalibration (t : Nat) (n : Nat)
  /-- DRAM_RECENTRE (R637): The component temperature drifts past DRM_TRAIN.DRIFT, and read and write DQ are re-centred. -/
  | dramRecentre (t : Nat) (n : Nat) (temp : Nat)
  /-- DRAM_REFRESH (R651): A refresh interval elapses, and REFsb or REFab refresh is issued. -/
  | dramRefresh (t : Nat) (n : Nat) (postpone : Bool)
  /-- DRAM_RFM (R652): A bank's rolling activation count reaches RAAIMT, and an RFM command is issued. -/
  | dramRfm (t : Nat) (n : Nat) (b : Nat)
  /-- NEIGHBOUR_REFRESH (R654): A row's activation count reaches DRM_RAT.THRESH, and its neighbouring rows are refreshed. -/
  | neighbourRefresh (t : Nat) (n : Nat) (b : Nat) (acts : List Nat) (reqs : List DramReq) (slots : Nat)
  /-- RAT_WINDOW_CLEAR (R653): At the start of each 32 ms refresh window the row-activation tables are cleared. -/
  | ratWindowClear (t : Nat) (n : Nat)
  /-- DM_COPY (R660): A Data Mover descriptor with OP 1 copies within the Segment map. -/
  | dmCopy (t : Nat) (k : Nat)
  /-- DM_HOST_READ (R660): A Data Mover descriptor with OP 2 reads host memory into the Segment map. -/
  | dmHostRead (t : Nat) (k : Nat)
  /-- DM_HOST_WRITE (R660): A Data Mover descriptor with OP 3 writes the Segment map to host memory. -/
  | dmHostWrite (t : Nat) (k : Nat)
  /-- DM_RECORD_READ (R661): A Data Mover descriptor with OP 4 reads a stored record, decrypted and decompressed. -/
  | dmRecordRead (t : Nat) (k : Nat)
  /-- DM_FILL (R660): A Data Mover descriptor with OP 5 fills a range with zeros. -/
  | dmFill (t : Nat) (k : Nat)
  /-- DM_DESCRIPTOR_COMPLETE (R663): A descriptor's last unit is written, and its 16-byte result is written. -/
  | dmDescriptorComplete (t : Nat) (seg : Nat) (c : Nat) (differ : Bool) (units : Nat) (dram : List DramFind) (sram : List SramFind)
  /-- DM_RESUME (R666): A store of 0 to RESUME restarts a halted channel with its next descriptor. -/
  | dmResume (t : Nat) (k : Nat)
  /-- DM_ABANDON (R666): A store of 1 to RESUME ends every queued descriptor with 0x0109. -/
  | dmAbandon (t : Nat) (k : Nat)
  /-- DRM_SNAP_NOW (R669): A write of 1 to DRM_SNAPn.NOW copies the Segment's DRAM counters. -/
  | drmSnapNow (t : Nat) (n : Nat)
  /-- DMV_SNAP_NOW (R669): A write of 1 to DMV_SNAPn.NOW copies the Segment's Data Mover counters. -/
  | dmvSnapNow (t : Nat) (n : Nat)
  /-- PTH_KEY_WRITE (R681): A write to a Pith port's key register advances, completes or breaks the unlock sequence. -/
  | pthKeyWrite (t : Nat) (p : Nat) (v : Word)
  /-- PITH_UNLOCK_TIMEOUT (R681): No command follows within 100 µs of the second key, and the port locks again. -/
  | pithUnlockTimeout (t : Nat) (p : Nat)
  /-- PAGE_PROGRAM (R673): The Pith command programs named units of one page from staging. -/
  | pageProgram (t : Nat) (p : Nat) (sector : Nat) (page : Nat) (units : List (Nat × List Byte))
  /-- SECTOR_ERASE (R678): The Pith command erases one sector. -/
  | sectorErase (t : Nat) (p : Nat) (sector : Nat)
  /-- ERASE_SUSPEND (R677): The Pith command suspends the named bank's erase. -/
  | eraseSuspend (t : Nat) (p : Nat) (b : Nat)
  /-- ERASE_RESUME (R682): The Pith command resumes a suspended erase. -/
  | eraseResume (t : Nat) (p : Nat) (b : Nat)
  /-- BLANK_CHECK (R682): The Pith command reports whether a sector is wholly erased. -/
  | blankCheck (t : Nat) (p : Nat) (sector : Nat)
  /-- PARAM_PUT (R697): The Pith command adds or replaces a parameter record by rewriting the other copy of the sector. -/
  | paramPut (t : Nat) (p : Nat) (typ : Nat) (ix : Nat) (data : List Byte)
  /-- PARAM_DELETE (R697): The Pith command deletes a parameter record by rewriting the other copy of the sector. -/
  | paramDelete (t : Nat) (p : Nat) (typ : Nat) (ix : Nat)
  /-- PARAM_GET (R682): The Pith command copies a parameter record into staging. -/
  | paramGet (t : Nat) (p : Nat) (typ : Nat) (ix : Nat)
  /-- PITH_ERASE_COMPLETE (R678): A Pith sector erase ends, the sector is blank-checked, and it is erased again or retired. -/
  | pithEraseComplete (t : Nat) (b : Nat) (clean : Bool)
  /-- PITH_PROGRAM_COMPLETE (R687): A Pith page program ends and is verified, making its entries durable. -/
  | pithProgramComplete (t : Nat) (b : Nat) (ok : Bool)
  /-- JOURNAL_PROGRAM (R687): The journal writer programs queued entries in priority order, within its rate limit. -/
  | journalProgram (t : Nat)
  /-- NEW_EPOCH (R689): Free journal sectors fall below PTH_JCFG.LOW, so a new epoch is started, live entries are rewritten and the epoch head is moved. -/
  | newEpoch (t : Nat)
  /-- PTH_SNAP_NOW (R703): A write of 1 to PTH_SNAP.NOW copies the Pith counters. -/
  | pthSnapNow (t : Nat)
  /-- GOVERNOR_DECISION (R709): Every PWM_GOV.INTERVAL ms each Segment's level is set from its busy fraction and the limits of R710. -/
  | governorDecision (t : Nat) (busy : List (Nat × Nat))
  /-- VREG_SETTLED (R712): The rail monitor reads the raised target voltage, and the core clock is switched. -/
  | vregSettled (t : Nat)
  /-- VREG_SETTLE_TIMEOUT (R713): PWM_VREG.SETTLE µs pass without the target voltage, so the old clock stays and VREG_SLOW is set. -/
  | vregSettleTimeout (t : Nat)
  /-- SEGMENT_SLEEP_ENTRY (R716): A Segment's idle conditions hold for their dwell time, and it enters the next deeper sleep state. -/
  | segmentSleepEntry (t : Nat) (n : Nat)
  /-- RIND_SLEEP_ENTRY (R717): RINDX's idle conditions hold, and it enters the next deeper sleep state. -/
  | rindSleepEntry (t : Nat)
  /-- DOMAIN_WAKE (R718): A wake event for a sleeping domain starts its wake, or stops an entry in progress. -/
  | domainWake (t : Nat) (d : Nat)
  /-- WAKE_COMPLETE (R720): A domain's wake finishes, its clamps open, and stalled accesses and held writes proceed. -/
  | wakeComplete (t : Nat) (d : Nat)
  /-- TEMP_SAMPLE (R723): Every 100 µs the junction sensors are read and CRIT.TEMP is updated. -/
  | tempSample (t : Nat) (reads : List Nat)
  /-- THROTTLE_STEP (R724): The 10 ms or 100 ms throttle interval elapses, and a Segment's throttle cap rises or falls by 1. -/
  | throttleStep (t : Nat) (n : Nat)
  /-- THERMAL_SHED_BEGIN (R725): A sensor reads above 112 °C for 1 ms, so thermal shed begins and DT29 is raised. -/
  | thermalShedBegin (t : Nat)
  /-- THERMAL_SHED_END (R725): Every sensor reads below 108 °C for 100 ms, and thermal shed ends. -/
  | thermalShedEnd (t : Nat)
  /-- PWM_SNAP_NOW (R729): A write of 1 to PWM_SNAP.NOW copies the Power Manager counters. -/
  | pwmSnapNow (t : Nat)
  /-- LCS_PREPARE (R737): Lifecycle command PREPARE draws an attestation salt and exposes Q in LCS_WIN. -/
  | lcsPrepare (t : Nat)
  /-- LCS_PROVISION (R738): Lifecycle command PROVISION checks the certificate chain and moves the device to PROVISIONED. -/
  | lcsProvision (t : Nat)
  /-- LCS_SEAL (R739): Lifecycle command SEAL moves the device from PROVISIONED to SEALED. -/
  | lcsSeal (t : Nat)
  /-- LCS_VAULT_ENTER (R746): Lifecycle command VAULT_ENTER sets the VAULT bit for the rest of the deployment. -/
  | lcsVaultEnter (t : Nat)
  /-- LCS_RETURN (R743): Lifecycle command RETURN moves the device to RETURNED and destroys every namespace key. -/
  | lcsReturn (t : Nat)
  /-- LCS_SCRAP (R744): Lifecycle command SCRAP cuts the DRK read path and moves the device to SCRAPPED. -/
  | lcsScrap (t : Nat)
  /-- LCS_CHALLENGE (R740): Lifecycle command CHALLENGE draws a new grant nonce. -/
  | lcsChallenge (t : Nat)
  /-- LCS_SNAP_NOW (R759): A write of 1 to LCS_SNAP.NOW copies LCS_REFUSED. -/
  | lcsSnapNow (t : Nat)
  /-- JTAG_EXTEST (R751): Selecting EXTEST drives boundary scan and acts on the device as RESET_N held low. -/
  | jtagExtest (t : Nat) (cap : Nat) (shift : Nat)
  /-- JTAG_SAMPLE_PRELOAD (R751): The SAMPLE/PRELOAD instruction captures or preloads the boundary-scan register. -/
  | jtagSamplePreload (t : Nat) (cap : Nat) (shift : Nat)
  /-- JTAG_IDCODE (R751): The IDCODE instruction shifts out 0x1321_654B. -/
  | jtagIdcode (t : Nat)
  /-- JTAG_BYPASS (R751): The BYPASS instruction, or any undefined code, selects the 1-bit bypass register. -/
  | jtagBypass (t : Nat)
  /-- DBG_STATUS (R751): The JTAG instruction returns lifecycle, VAULT, level and grant status. -/
  | dbgStatus (t : Nat)
  /-- DBG_CHAL (R740): The JTAG instruction draws and shifts out a new nonce. -/
  | dbgChal (t : Nat)
  /-- DBG_GRANT (R751): Each update of the JTAG data register appends 4 bytes to the grant buffer. -/
  | dbgGrant (t : Nat) (v : Word)
  /-- DBG_OPEN (R749): The JTAG instruction opens a debug session at Observe or Full if the state or a grant permits it. -/
  | dbgOpen (t : Nat) (v : Nat)
  /-- DBG_CLOSE (R750): The JTAG instruction returns the session to Closed and undoes Full. -/
  | dbgClose (t : Nat)
  /-- TAP_RESET (R750): TRST_N asserted, or the TAP entering Test-Logic-Reset, closes any debug session. -/
  | tapReset (t : Nat)
  /-- DAP_READ (R752): A DAP read request reads BAR2 or a core location. -/
  | dapRead (t : Nat) (who : Nat) (addr : Nat)
  /-- DAP_WRITE (R752): A DAP write request writes BAR2, a halted core's state or a breakpoint. -/
  | dapWrite (t : Nat) (who : Nat) (addr : Nat) (v : Nat)
  /-- DAP_HALT (R752): A DAP core control write of 1 halts a core between bundles. -/
  | dapHalt (t : Nat) (who : Nat)
  /-- DAP_RESUME (R752): A DAP core control write of 2 resumes a halted core. -/
  | dapResume (t : Nat) (who : Nat)
  /-- DAP_SINGLE_STEP (R752): A DAP core control write of 3 single-steps a halted core. -/
  | dapSingleStep (t : Nat) (who : Nat) (way : Issue)
  /-- DAP_SET_SSTEP (R752): A DAP core control write of 4 sets SSTEP. -/
  | dapSetSstep (t : Nat) (who : Nat)
  /-- DAP_CLEAR_SSTEP (R752): A DAP core control write of 5 clears SSTEP. -/
  | dapClearSstep (t : Nat) (who : Nat)
  /-- SMB_STATUS_BYTE (R808): An SMBus Read Byte of code 0x00 returns lifecycle, VAULT, mode and service bits. -/
  | smbStatusByte (t : Nat)
  /-- SMB_MODES (R808): An SMBus Read Byte of code 0x01 returns MODES. -/
  | smbModes (t : Nat)
  /-- SMB_CRIT (R809): An SMBus Read Byte of code 0x02 returns CRIT and releases SMB_ALERT_N. -/
  | smbCrit (t : Nat)
  /-- SMB_SENSOR_TEMP (R808): An SMBus Read Word of codes 0x08 to 0x0C returns a sensor reading. -/
  | smbSensorTemp (t : Nat) (n : Nat)
  /-- SMB_TEMP_NOW (R808): An SMBus Read Word of code 0x10 returns TEMP_NOW. -/
  | smbTempNow (t : Nat)
  /-- SMB_HEALTH_BLOCK (R808): An SMBus Block Read of code 0x20 returns bytes 0 to 15 of the Health log. -/
  | smbHealthBlock (t : Nat)
  /-- SMB_BRACE_SUMMARY (R808): An SMBus Block Read of code 0x21 returns bytes 0 to 15 of the Brace history summary. -/
  | smbBraceSummary (t : Nat)
  /-- SMB_SERIAL (R808): An SMBus Block Read of code 0x30 returns SERIAL. -/
  | smbSerial (t : Nat)
  /-- SMB_ALERT_RESPONSE (R809): A read of the Alert Response Address is answered with 0x5B and releases SMB_ALERT_N. -/
  | smbAlertResponse (t : Nat)
  /-- SMB_CLOCK_TIMEOUT (R807): SMB_CLK stays low for more than 30 ms, and the 3216 releases the bus. -/
  | smbClockTimeout (t : Nat)
  /-- BLOCK_LOCK (R821): A write of 1 to a block's LOCK bit applies the write's other fields and then locks the block's RWL fields until reset. -/
  | blockLock (t : Nat) (blk : Nat) (v : Word) (be : Nat)
  /-- REGISTER_WRITE (R817): A BAR0 or BAR2 write to a register without a row of its own is applied per byte enable under the common rules. -/
  | registerWrite (t : Nat) (a : Nat) (v : Word) (be : Nat)
  /-- POWER_LOSS (R796): The supply collapses or the rails are removed, ending the run braced or unbraced and leaving Pith units and triad copies in the states of R674 and R400. -/
  | powerLoss (t : Nat) (units : List (Nat × Nat)) (torn : Nat) (copies : List (Nat × Nat))
  /-- RESET_N_RELEASE (R763): Release of RESET_N samples the straps, checks TEST_MODE and starts the boot sequence after a reset that took effect. -/
  | resetNRelease (t : Nat) (env : BootEnv)
  /-- PERST_RELEASE (R775): Release of PERST_N lets the Host Link start link training once boot step 2 is done. -/
  | perstRelease (t : Nat)
  /-- LINK_STATE_CHANGE (R429): The link finishes training, enters or leaves L0, L0p, L1 or an L1 substate, enters Recovery or trains below its best rate or width, raising DT03 where it applies. -/
  | linkStateChange (t : Nat) (link : Link) (speed : Nat) (width : Nat)
  /-- HOST_READ_COMPLETION (R666): A read completion TLP arrives from the host, good, poisoned, malformed, Unsupported Request or Completer Abort, delivering data or failing the transfer with DT01 and 0x0108. -/
  | hostReadCompletion (t : Nat) (work : Work) (ok : Bool) (data : List Byte)
  /-- FLIT_CRC_ERROR (R429): A received FLIT fails its CRC, raising DT00, requesting replay and logging an AER correctable error. -/
  | flitCrcError (t : Nat)
  /-- EXIT_WAIT_START (R446): VSENSE_SYS rises to WARN + HYST or above, PWR_WARN_N goes high and the bank is ready during BRACE, so the 5 ms exit wait starts and EXIT_WAIT is set. -/
  | exitWaitStart (t : Nat) (vsys : Nat) (vhu : Nat) (warnN : Bool) (huOk : Bool)
  /-- WINDOW_OPEN (R356): A die whose program or erase was suspended at a decision point becomes idle, the recall window opens and its queued reads start, counting a late window under R359. -/
  | windowOpen (t : Nat) (d : Nat)
  /-- VPP_PITH_RANGE_CHANGE (R792): VPP_PITH leaves or re-enters its operating range, holding or releasing Pith programs and erases. -/
  | vppPithRangeChange (t : Nat) (ok : Bool)
  /-- MONITOR_OSCILLATOR_CHECK (R429): A measurement of the timebase against the on-die monitor oscillator raises DT13 when they differ by more than 500 ppm. -/
  | monitorOscillatorCheck (t : Nat) (ppm : Nat)
  deriving DecidableEq, Repr

end Sys2Proof
end

