-- ==== Sys2Proof/Config.lean ====
section
/-!
DEFINITION. What an implementation or a board fixes, and the free values: constants without a body, of which nothing can
be proved but what holds for every value.
-/
namespace Sys2Proof

/-- A free value: what the manual leaves open, one number for each draw (log 1). -/
opaque Config.free : Nat → Nat

/-- The 8 bytes of FWREV of the image that both boot slots hold when the part ships (R813 gives no text; log 5). -/
opaque Config.shippedFwrev : List Byte

/-- The bytes of that image, and those of the boot ROM (R781; log 5). -/
opaque Config.shippedImage : List Byte
opaque Config.rom : List Byte

/-- What a 4,096-byte block reads whose newest data an unbraced run has lost: draw and block (R458; log 51). -/
opaque Config.lostBlock : Nat → Nat → List Byte

/-- SERIAL of IDENTIFY, 20 bytes of the part's own (R741, R808). -/
opaque Config.serial : List Byte

/-- SHA-256, SHA-384 and HMAC-SHA-256 of a byte string (their standards, which the manual cites; log 7). -/
opaque Config.sha256 : List Byte → List Byte
opaque Config.sha384 : List Byte → List Byte
opaque Config.hmacSha256 : List Byte → List Byte → List Byte

/-- HMAC with the digest of a bit length (R468). -/
opaque Config.hmac : Nat → List Byte → List Byte → List Byte

/-- The Device Root Key, 32 bytes burned at manufacture (R491). -/
opaque Config.drk : List Byte

/-- CRC-32C, AES-256-GCM (key, IV, AAD, plaintext to ciphertext and tag), AES-256-XTS (key, tweak, data) and the SHA-3
digests, of the standards that the manual cites (log 7). -/
opaque Config.crc32cWord : List Byte → BitVec 32
opaque Config.gcmSeal : List Byte → List Byte → List Byte → List Byte → List Byte
opaque Config.gcmOpen : List Byte → List Byte → List Byte → List Byte → Option (List Byte)
opaque Config.xts : Bool → List Byte → List Byte → List Byte → List Byte
opaque Config.digest : Nat → List Byte → List Byte

/-- The LDPC parity of a codeword's DATA and META, for a parity size in bytes: the manual gives no parity-check matrix (R388; log 113). -/
opaque Config.ldpcParity : Nat → List Byte → List Byte

/-- An ECDSA P-384 signature of the attestation key that a seed determines: seed, nonce draw, message; 48 bytes of r and 48
of s, each little-endian (R220, R501, R503; log 7). -/
opaque Config.ecdsaSign : List Byte → Nat → List Byte → List Byte

/-- The random generator's output bytes: draw number and length (R505; log 7). -/
opaque Config.random : Nat → Nat → List Byte

/-- The match search of a level: hash table entries, candidates searched per position, lazy steps and the shortest match (R257). -/
structure ZestSearch where
  entries : Nat
  candidates : Nat
  lazySteps : Nat
  shortest : Nat
  deriving DecidableEq, Repr

/-- The token sequence that the encoder's match search finds for a block (R255 to R257): the manual does not define the hash, so the
sequence is a free value (log 14). -/
opaque Config.zestTokens : ZestSearch → List Byte → List Byte

/-- An ECDSA P-384 signature check: public key, message, signature (log 7). -/
opaque Config.ecdsaOk : List Byte → List Byte → List Byte → Bool

/-- A certificate chain in DER verifies to the root key whose digest is fused (R738, R742, R766; log 7). -/
opaque Config.chainOk : List Byte → Bool

/-- The public key of the first certificate of a chain, and its subject serialNumber (R738). -/
opaque Config.certKey : List Byte → List Byte
opaque Config.certSerial : List Byte → List Byte

/-- The attestation public key Q that an ATTEST_SALT determines, as the 97-byte point (R501, R737). -/
opaque Config.attestQ : List Byte → List Byte

/-- The certificate chain structure of SPDM that holds a chain of DER certificates (R504, whose standard the manual cites;
log 42). -/
opaque Config.spdmChain : List Byte → List Byte

/-- DataTransferSize and MaxSPDMmsgSize of the part's SPDM CAPABILITIES (R504 gives none; log 42). -/
opaque Config.spdmSizes : Nat × Nat

/-- Identify Controller data and the identification descriptors of namespace 1, where the manual gives nothing for them (log 47). -/
opaque Config.nvmeController : List Byte
opaque Config.nvmeNsId : List Byte

/-- What a register of the NVMe 2.0 layout reads where the manual gives nothing for it: draw and offset (R56; log 47). -/
opaque Config.nvmeReg : Nat → Nat → Nat

/-- CRC-32C of a byte string as a number below 2^32. -/
def Config.crc32c (l : List Byte) : Nat := (Config.crc32cWord l).toNat

end Sys2Proof
end

