-- ==== Sys2Proof/Machine/State.lean ====
section
/-!
DEFINITION. The state of the Velral 3216: every register, table, buffer, counter, mode and pin the chapters give it, as
plain data, with the values of reset as the fields' defaults (a field whose reset value the manual does not state says so
and names its log entry); the queue of waiting commands; faults and refusals; and `State.reset`.
-/
namespace Sys2Proof.Machine

/-! ## Cadence Unit (01) -/

/-- Lock states of the Cadence Unit (R16), in the order of `CAD_STATUS.STATE`. -/
inductive CadSt where
  | free | acquire | locked | holdover | master
  deriving DecidableEq, Repr

/-- Quality codes (R16), in the order of `CAD_STATUS.QUALITY`. -/
inductive Quality where
  | locked | holdover | free | master
  deriving DecidableEq, Repr

/-- Cadence modes of `CAD_CTRL.MODE`. -/
inductive CadMode where
  | slave | slaveEcho | master
  deriving DecidableEq, Repr

/-- A fence table entry (R44, R45). Its STATE (free, open, ended, overflow) follows from its presence, its slot and `ended`. -/
structure Fence where
  start : Nat
  stop : Nat
  edge : Nat
  group : Nat
  inputs : Nat
  ended : Bool := false
  deriving DecidableEq, Repr

/-- A PPS record (R39). -/
structure PpsRec where
  time : Nat
  interval : Nat
  seq : Nat
  valid : Bool
  first : Bool
  missed : Bool
  unlocked : Bool
  deriving DecidableEq, Repr

/-- The Cadence Unit. -/
structure Cad where
  /-- FRAME, 40 bits (R12, R27). -/
  frame : Nat := 0
  /-- Timebase instant of the last frame boundary (R13). DESIGN CHOICE: 0 at reset (log 2). -/
  frameStart : Nat := 0
  /-- The period mean M in ns (R15, R24). -/
  mean : Nat := 40000000
  /-- The adopted period P in ns (R15, `CAD_PERIOD`). -/
  period : Nat := 40000000
  /-- The stamp issued last (R14). DESIGN CHOICE: 0 at reset (log 2). -/
  lastStamp : Nat := 0
  st : CadSt := .free
  qual : Quality := .free
  /-- The mode in force (R36); the mode written is `CAD_CTRL.MODE`. -/
  mode : CadMode := .slave
  /-- Consecutive periods counted toward R17, newest first, at most 8. -/
  acq : List Nat := []
  /-- The last periods within `CAD_TOL` of M while LOCKED (R18), newest first, at most 8. -/
  track : List Nat := []
  /-- The run of R20, newest first, at most 8; `CAD_STATUS.RETUNE` reads 1 while it is not empty. -/
  retune : List Nat := []
  /-- Timebase instant of the last edge that was not ignored (a period ends there). -/
  lastEdge : Option Nat := none
  /-- Timebase instant of the last edge of any kind (R830). -/
  anyEdge : Option Nat := none
  /-- Frames passed in HOLDOVER, or in an ACQUIRE entered from it (R23). -/
  holdFrames : Nat := 0
  /-- ACQUIRE was entered from HOLDOVER (R16, R830). -/
  acqHold : Bool := false
  /-- `CAD_STATUS.EXHAUSTED` (R31). -/
  exhausted : Bool := false
  /-- PPS records, entry 0 to 15; unlisted entries read all zeros (R37). -/
  pps : Tab PpsRec := []
  ppsIndex : Nat := 0
  ppsSeq : Nat := 0
  /-- Timebase instant of the previous captured edge since PPS_EN was last set to 1 (R37). -/
  ppsLast : Option Nat := none
  /-- Intervals of the valid captures since MASTER was selected, newest first, at most 8 (R35). -/
  ppsValid : List Nat := []
  /-- Instant of an edge of incident input 0 that was applied with the edge of input 1 of the same cycle (R45; log 99). -/
  inc0At : Option Nat := none
  /-- Pulses counted in the present frame (R41). -/
  odoFrame : Nat := 0
  /-- `CAD_ODO_LAST`: DELTA and FRAME (R41). -/
  odoDelta : Nat := 0
  odoLastFrame : Nat := 0
  /-- Level of CAD_OUT and the instant at which it rose (R34). -/
  cadOut : Bool := false
  cadOutRise : Nat := 0
  /-- Evidence Time copied by R54. -/
  snapTime : Nat := 0
  /-- The fence table: slots 0 to 15, and the overflow fence at 16 (R45). -/
  fences : Tab Fence := []
  deriving DecidableEq, Repr

/-! ## Rings, Pips and functions (02) -/

/-- STATE of a function table entry (R58). -/
inductive FnSt where
  | absent | ready | refused | resetting
  deriving DecidableEq, Repr

/-- A notice: header and payload (R92); PHASE is given when it is written. -/
structure Notice where
  typ : Nat
  seq : Nat
  lost : Nat
  src : Nat
  time : Nat
  payload : List Byte
  deriving DecidableEq, Repr

/-- A function table entry and what the Ring Engine keeps for the function (R58, R71, R92, R94). -/
structure Func where
  slots : Nat := 0
  sq : Nat := 0
  cq : Nat := 0
  vectors : Nat := 0
  streams : Nat := 0
  enable : Bool := false
  sAllowed : Bool := false
  st : FnSt := .absent
  err : Nat := 0
  /-- CTL.ENABLE was cleared while the reset in progress ran (R63). -/
  disabling : Bool := false
  /-- The doorbell page is set (R71). -/
  dbSet : Bool := false
  /-- The SUB ring whose deletion is in progress (R69): `FN_RING_RESULT.BUSY`. -/
  deleting : Option Nat := none
  resCode : Nat := 0
  resGlobal : Nat := 0
  /-- Next notice SEQ (R92). -/
  seq : Nat := 0
  /-- Notices discarded for a full hold since the previous notice kept (R92, R94). -/
  lost : Nat := 0
  /-- Notices held (R94), oldest first. -/
  held : List Notice := []
  deriving DecidableEq, Repr

/-- Ring kinds (R65). -/
inductive RingKind where
  | sub | cmp | tag | evt
  deriving DecidableEq, Repr

/-- Service classes of a submission ring (`FN_RING_CFG.CLASS`). -/
inductive Cls where
  | s | a | b | z | admin
  deriving DecidableEq, Repr

/-- A move of a submission tail: the first slot and the number of slots it made fetchable, when, and whether a sweep
carried it (R76, R80). -/
structure Arrival where
  first : Nat
  count : Nat
  at_ : Nat
  swept : Bool
  deriving DecidableEq, Repr

/-- A created ring (R65 to R69). -/
structure Ring where
  fn : Nat
  idx : Nat
  kind : RingKind
  cls : Cls
  base : Nat
  depth : Nat
  cq : Nat
  tag : Nat
  tagEn : Bool
  vec : Nat
  intEn : Bool
  coalTime : Nat
  coalCount : Nat
  /-- Device-wide number within its pool. -/
  global : Nat
  /-- Device head H of a SUB ring; device tail U of a CMP or EVT ring (R68). -/
  dev : Nat := 0
  /-- Known tail T of a SUB ring; known head Q of a CMP or EVT ring (R68). -/
  known : Nat := 0
  phase : Bool := true
  /-- How the slots that are fetchable and not yet fetched became so, oldest first (R76, R80). -/
  arr : List Arrival := []
  /-- R96 has held the fetch of the ring's next slot at a fetch opportunity (R181, cause 7). -/
  held96 : Bool := false
  /-- Entries of a CMP ring reserved by commands in flight (R96). -/
  reserved : Nat := 0
  /-- Counting entries since the last message, and the instant of the first of them (R98). -/
  coalN : Nat := 0
  coalFirst : Option Nat := none
  stopped : Bool := false
  /-- The EVENT 4 notice of a stopped ring has been posted (R835). -/
  quiet : Bool := false
  deleting : Bool := false
  /-- Instant from which the ring has had fetchable descriptors and gone unfetched (R429, DT24). -/
  since : Option Nat := none
  deriving DecidableEq, Repr

/-- How a command in flight stands toward the Class S bound: not of a Class S ring, bounded, or served as Class A under R172
to R174. -/
inductive Bound where
  | notS | bounded | excess
  deriving DecidableEq, Repr

/-- A command in flight (R81, R96). -/
structure Flight where
  fn : Nat
  /-- Local index of its submission ring, and the slot it came from. -/
  ring : Nat
  slot : Nat
  cid : Nat
  opcode : Nat
  /-- The 64 bytes of the descriptor. -/
  desc : List Byte
  cls : Cls
  isSeal : Bool
  noInt : Bool
  /-- FENCE: every earlier command of the ring must have posted first (R81). -/
  fence : Bool
  fetched : Nat
  bound : Bound
  /-- The command has begun to move data (R99, R146). -/
  begun : Bool := false
  /-- Deferred by BRACE under R153. -/
  deferred : Bool := false
  /-- Scatter list entries as (address, length, BUCKET), or the one contiguous buffer (R84). -/
  sgl : List (Nat × Nat × Bool) := []
  /-- When the Pip or sweep that made it fetchable arrived, and whether it was a sweep (R175, R176). -/
  pipAt : Nat := 0
  swept : Bool := false
  /-- Causes of R181 that have applied to it so far. -/
  voids : List Nat := []
  /-- The Segment that serves it, for a stream's command. -/
  seg : Nat := 0
  /-- A Seal's checks of R116 have passed: content bytes, index slots and class reserved for it (R191, R241, R299). -/
  admitted : Bool := false
  resvSlots : Nat := 0
  resvHold : Bool := false
  /-- Bytes of Stone that it occupies from the start of its reads (R169, R195). -/
  stone : Nat := 0
  /-- Attempts at its data transfer that have failed (R412). -/
  tries : Nat := 0
  /-- Bytes of its read requests that are outstanding to host memory, and bytes that it has still to ask for (R165). -/
  reading : Nat := 0
  toRead : Nat := 0
  /-- A MAINT command's progress: the bands that it has still to work through, none before it begins, and its RESULT so far (R150, R329). -/
  todo : Option (List Nat) := none
  worked : Nat := 0
  deriving DecidableEq, Repr

/-- A standard completion (R86). -/
structure Completion where
  result : Nat
  cid : Nat
  sqhd : Nat
  status : Nat
  sqf : Nat
  deriving DecidableEq, Repr

/-- The Ring Engine and the Host Link's part of the functions. -/
structure Rge where
  /-- Function table; unlisted functions hold the reset entry `{}` (R62). -/
  funcs : Tab Func := [(0, { slots := 4096, sq := 16, cq := 16, vectors := 16, streams := 8192, enable := true, sAllowed := true, st := .ready })]
  /-- SR-IOV VF Enable and NumVFs in configuration space. PRESUMED 0 (the PCIe family's reset value, log 3). -/
  vfEnable : Bool := false
  numVfs : Nat := 0
  /-- Created rings, keyed by `ringKey`. -/
  rings : Tab Ring := []
  /-- Commands in flight, keyed by the order of their fetch. -/
  flights : Tab Flight := []
  nextFlight : Nat := 0
  /-- MSI-X table entries by `f * 4096 + vector`: address, data, masked. PRESUMED masked and zero at reset (log 3). -/
  msix : Tab (Nat × Nat × Bool) := []
  /-- MSI-X pending bits, the numbers `f * 4096 + vector` (R98). -/
  pba : List Nat := []
  /-- Smooth weighted round robin: cur(A), cur(B), cur(Z) (R161). -/
  curA : Int := 0
  curB : Int := 0
  curZ : Int := 0
  /-- The Class S ring served last, by `ringKey`; the function served last in each class, by the class's code; and the
  ring served last of each function, by `class * 256 + function` (R161). -/
  lastS : Nat := 0
  lastFn : Tab Nat := []
  lastRing : Tab Nat := []
  /-- The sweep's last start (R79). -/
  lastSweep : Nat := 0
  /-- When a command last went out of flight, by `opcode * 4 + Segment` (R716). -/
  ended : Tab Nat := []
  deriving DecidableEq, Repr

/-! ## Integrity Unit (10) -/

/-- An event entry of the detector log (R423). -/
structure Ev where
  time : Nat
  dt : Nat
  eflags : Nat
  seg : Nat
  unit : Nat
  func : Nat
  loc : Nat
  aux : Nat
  deriving DecidableEq, Repr

/-- The notice hold-off of a detector (R421). -/
structure Hold where
  until_ : Nat
  pend : Nat
  latest : Ev
  /-- The interval runs; one that ended with the enable bit 0 leaves its raisings for the next notice's COUNT. -/
  run : Bool := true
  deriving DecidableEq, Repr

/-- One copy of a triad word (R399): GEN, the 24 bytes of VALUE, and whether its CRC matches. -/
structure TCopy where
  gen : Nat
  value : List Byte
  ok : Bool := true
  deriving DecidableEq, Repr

/-- A triad word's three copies as R693 reads them, and the slots its array has used in the active half (R692). -/
structure Triad where
  c0 : Option TCopy := none
  c1 : Option TCopy := none
  c2 : Option TCopy := none
  used : Nat := 0
  /-- What the copies held before the last write, and the instant of that write (R400). -/
  o0 : Option TCopy := none
  o1 : Option TCopy := none
  o2 : Option TCopy := none
  at_ : Nat := 0
  deriving DecidableEq, Repr

/-- The lifecycle word as the part ships, in BLANK (R732, R813; log 50). -/
def Triad.shipped : Triad :=
  let c : TCopy := { gen := 0, value := List.replicate 24 0 }
  { c0 := some c, c1 := some c, c2 := some c, used := 1 }

/-- The Integrity Unit. -/
structure Integ where
  /-- Segments that a fuse disables, as bits (R2). DESIGN CHOICE: none is blown on the part that the model is (log 142). -/
  segFuse : Nat := 0
  /-- Hold-off intervals that run, by detector (R421). -/
  holds : Tab Hold := []
  /-- The detector log, newest first, at most 496 entries (R423). -/
  log : List Ev := []
  /-- `INT_INJ.RESULT` and the armed injection (R424). -/
  injResult : Nat := 0
  armed : Bool := false
  injDt : Nat := 0
  injSeg : Nat := 0
  injUnit : Nat := 0xFF
  injPos : Nat := 0
  injLeft : Nat := 0
  /-- Detectors whose next raising an injection that has already fired brings about (R426, R429). -/
  injDue : List Nat := []
  /-- Dies that a DT35 injection has reported inadmissible for the next power-on: channel, 0xFF for any, and position (R429; log 127). -/
  inadm : List (Nat × Nat) := []
  /-- The open bypass window: detector and the instant it ends (R428). -/
  bypass : Option (Nat × Nat) := none
  /-- `INT_STATUS.DEGRADED` (R415). -/
  degraded : Bool := false
  /-- The fuse map (R410): entry words, in order of entry. -/
  fuses : List Nat := []
  /-- Corrections of each SRAM row in the scrub period, by array·65536 + row (R410). -/
  sramCorr : Tab Nat := []
  /-- Spare rows used, by array (R410). -/
  sramSpare : Tab Nat := []
  /-- Corrections of each DRAM page in the patrol pass, by Segment·2^40 + page address (R409). -/
  dramCorr : Tab Nat := []
  /-- Quarantined units (R413). -/
  quarantined : List Nat := []
  /-- Guest cores made house cores until power-on under R414. -/
  promoted : List Nat := []
  /-- Segments with no core in service at all (R414). -/
  deadSeg : List Nat := []
  /-- Last save of the health counters (R417). -/
  lastHealthSave : Nat := 0
  /-- Last pass of the SRAM scrubber (R406). -/
  lastScrub : Nat := 0
  deriving DecidableEq, Repr

/-! ## Pith Array (17) -/

/-- A programmed 32-byte unit: its data, or a unit that reads uncorrectable (R672, R674). Unlisted units are erased. -/
inductive PUnit where
  | data (b : List Byte)
  | bad
  deriving DecidableEq, Repr

/-- A journal entry (R685, R686). -/
structure JEntry where
  etype : Nat
  src : Nat
  /-- The key that a newer entry of the same kind supersedes, if the kind has one (R686). -/
  key : Option Nat
  body : List Byte
  jseq : Nat := 0
  /-- Where it was programmed: sector and unit. -/
  sector : Nat := 0
  unit : Nat := 0
  /-- It reads uncorrectable or its CRC fails (R691). -/
  bad : Bool := false
  /-- Instant at which it was queued (R687). -/
  queued : Nat := 0
  deriving DecidableEq, Repr

/-- An open operation of a bank (R676). -/
inductive BankOp where
  | idle
  | program (sector page : Nat) (units : List (Nat × List Byte)) (port : Nat) (start : Nat)
  | erase (sector : Nat) (port : Nat) (start : Nat) (suspended : Bool) (again : Bool)
  deriving DecidableEq, Repr

/-- One of the four command ports (R681): the instants of its unlocks not used yet, oldest first, and whether the first key has been
written. -/
structure PPort where
  keys : List Nat := []
  firstKey : Bool := false
  busy : Bool := false
  done : Bool := false
  code : Nat := 0
  deriving DecidableEq, Repr

/-- A boot slot's image: the header fields that the part reads (R765), and whether it is valid but for its SVN (R766). -/
structure Image where
  bytes : List Byte := []
  len : Nat
  fwrev : List Byte
  svn : Nat
  mainLen : Nat := 4096
  recovLen : Nat := 4096
  mainDigest : List Byte := []
  recovDigest : List Byte := []
  /-- The layout and the reserved bytes of the header are as R765 gives. -/
  formOk : Bool := true
  /-- Chain and signature verify (R766). -/
  sigOk : Bool := true
  /-- The main and the recovery program match their digests (R766). -/
  mainOk : Bool := true
  recovOk : Bool := true
  deriving DecidableEq, Repr

/-- A state record of a boot slot (R768). -/
structure SlotRec where
  skind : Nat
  sgen : Nat
  frame : Nat
  fwrev : List Byte
  deriving DecidableEq, Repr

/-- A boot slot: its image and its state records, oldest first. -/
structure BootSlot where
  image : Option Image
  recs : List SlotRec := []
  deriving DecidableEq, Repr

/-- The Pith Array and its controller. -/
structure Pith where
  /-- Units of the sectors that hold neither journal, triads nor parameters, by `sector * 2048 + page * 8 + unit`. -/
  units : Tab PUnit := []
  ops : Tab BankOp := []
  /-- Operations that wait for a bank, in order of arrival: port and operation. -/
  waiting : List (Nat × Nat × BankOp) := []
  /-- The entry that the writer is programming (R687). -/
  jprog : Option JEntry := none
  retired : List Nat := []
  erases : Tab Nat := []
  ports : Tab PPort := []
  /-- Staging of each port (R682). -/
  stage : List Byte := []
  /-- Parameter records by `TYPE * 256 + INDEX` (R696), GEN, and whether a valid copy exists (R695). -/
  params : Tab (List Byte) := []
  pgen : Nat := 0
  pvalid : Bool := false
  /-- Updates of the parameter sector that wait for VPP_PITH: port, record, and the data of a put (R792). -/
  waitPuts : List (Nat × Nat × Option (List Byte)) := []
  /-- The header's HGEN of the active half (R692) and the triad words by `TTYPE * 65536 + INDEX`. -/
  hgen : Nat := 0
  triads : Tab Triad := [(65536, Triad.shipped)]
  /-- Journal entries queued, in programming order, and durable entries, oldest first. -/
  jq : List JEntry := []
  jd : List JEntry := []
  jseq : Nat := 1
  /-- The writer's position: index of the journal sector in ring order, and the next unit. -/
  jsec : Nat := 0
  junit : Nat := 0
  /-- Journal sectors after the writer's that are erased already (R688), and the banks whose erase the controller has suspended for
  a Brace program (R677). -/
  ready : Nat := 740
  autoSusp : List Nat := []
  /-- Index of the journal sector that holds the oldest live epoch start, and the EPOCH number. -/
  jhead : Nat := 0
  epoch : Nat := 0
  /-- Bytes programmed in the current second of the rate limit (R687) and its start. -/
  rateStart : Nat := 0
  rateBytes : Nat := 0
  /-- The boot slots. DESIGN CHOICE: both hold one valid image of the part's revision, as R813 says it ships (log 5). -/
  slotA : BootSlot := { image := some { bytes := Config.shippedImage, len := 4096, fwrev := Config.shippedFwrev, svn := 0 } }
  slotB : BootSlot := { image := some { bytes := Config.shippedImage, len := 4096, fwrev := Config.shippedFwrev, svn := 0 } }
  deriving DecidableEq, Repr

/-! ## Lifecycle and debug (19), start-up (20), pins and sideband (21) -/

/-- Lifecycle states (R731), in the order of their values. -/
inductive LState where
  | blank | provisioned | sealed | returned | scrapped
  deriving DecidableEq, Repr

/-- Debug levels (R747). -/
inductive DLevel where
  | closed | observe | full
  deriving DecidableEq, Repr

/-- The Security Gate's lifecycle part. -/
structure Life where
  lstate : LState := .blank
  vault : Bool := false
  since : Nat := 0
  vaultFrame : Nat := 0
  /-- The confirmation that `LCS_CONFIRM` holds (R735). -/
  confirm : Option Nat := none
  /-- `LCS_WIN` (R758 table); bytes beyond the list read 0. -/
  win : List Byte := []
  busy : Bool := false
  done : Bool := false
  code : Nat := 0
  /-- The command in progress, which waits for VPP_PITH or for the random generator (R505, R792). -/
  op : Nat := 0
  /-- A CHALLENGE waits for the random generator (R505, R740); it may do so beside a command in progress (R736). -/
  chal : Bool := false
  prepared : Bool := false
  /-- ATTEST_SALT held by PREPARE (R737). -/
  heldSalt : Option (List Byte) := none
  /-- The current nonce (R740), and whether one stands. -/
  nonce : List Byte := []
  nonceOk : Bool := false
  /-- Grants refused since power-on (R742). -/
  refusals : Nat := 0
  /-- The fuse that cuts the path to the Device Root Key is burned (R744). -/
  drkCut : Bool := false
  deriving DecidableEq, Repr

/-- What the JTAG port and the DAP hold (R751, R752). -/
structure Dbg where
  level : DLevel := .closed
  /-- The instruction selected; Test-Logic-Reset selects IDCODE. -/
  ir : Nat := 0x02
  /-- The data register as captured, for shifting out. -/
  dr : Nat := 0
  /-- Boundary-scan cells preloaded by SAMPLE/PRELOAD, and whether EXTEST drives them (R806). -/
  bsr : Nat := 0
  extest : Bool := false
  grant : List Byte := []
  /-- OP of the next DAP capture (R752). -/
  dapOp : Nat := 0
  dapData : Nat := 0
  dapTarget : Nat := 0
  dapAddr : Nat := 0
  deriving DecidableEq, Repr

/-- What runs on the Rind core (R780, RUNNING). -/
inductive Running where
  | mainA | mainB | recovB | recovA | rom
  deriving DecidableEq, Repr

/-- Start-up (20). -/
structure Boot where
  /-- The reset that is being taken is not RESET_N's, so that RS bits stay (R7, R824). -/
  soft : Bool := false
  /-- The last boot step completed, 0 before step 1 (`BOOT_STATUS.STEP`). -/
  step : Nat := 0
  cfgReady : Bool := false
  service : Bool := false
  running : Running := .mainA
  cause : Nat := 0
  attempts : Nat := 0
  /-- The reference instant of the boot sequence, and the instant of power-on. -/
  ref : Nat := 0
  powerAt : Nat := 0
  /-- Segments that are disabled as if by their strap: U is 0, no DRAM, or a fuse (R2, R350, R633), as bits. -/
  segOff : Nat := 0
  /-- Straps sampled under R763. DESIGN CHOICE: their pulls' levels before the first sampling (log 4). -/
  segEn : Nat := 0xF
  plain : Bool := false
  rescueN : Bool := true
  /-- TEST_MODE was high at the release of RESET_N (R791). -/
  testMode : Bool := false
  /-- The rollback floor (R767, R813). -/
  floor : Nat := 0
  /-- VDD_RIND is at power good. DESIGN CHOICE: off before the first POWER_ON (log 4). -/
  powered : Bool := false
  /-- No boot step has been taken since power good: the next boot is a power-on's. -/
  cold : Bool := true
  /-- The run before this boot ended braced, and the records that replay reloaded from its images (R453, R459). -/
  braced : Bool := false
  reloaded : Nat := 0
  /-- RESET_N and PERST_N as last seen. DESIGN CHOICE: low, their asserted level (log 4). -/
  resetN : Bool := false
  perstN : Bool := false
  /-- A reset under R761 waits for step 8 of the flush. -/
  resetPending : Bool := false
  /-- A reset has taken effect and waits for its release (R763). -/
  inReset : Bool := true
  /-- The boot measurements of R781, indexes 1 to 5, fixed at step 6. -/
  measurements : Tab (List Byte) := []
  deriving DecidableEq, Repr

/-- The Host Link, SMBus and the rails. -/
structure Pins where
  link : Link := .down
  speed : Nat := 0
  width : Nat := 0
  /-- Instant since which the link has met the condition of R176. -/
  fitFrom : Nat := 0
  /-- SMB_ALERT_N is driven low (R809). -/
  smbAlert : Bool := false
  /-- VPP_PITH lies in its range (R792). DESIGN CHOICE: true at reset (log 4). -/
  vppOk : Bool := true
  /-- VDD_RIND lies below 0.78 V (R679). DESIGN CHOICE: false at reset (log 4). -/
  rindLow : Bool := false
  /-- The AON copies of temperature and health that the sideband reads (R808), bytes 0 to 15 of the Health log and bits 15:0 of
  `PWM_TEMP0` to `PWM_TEMP4`; and their last update. None are taken before the first reading of the sensors. -/
  smbCopy : List Byte := []
  smbTime : Nat := 0
  deriving DecidableEq, Repr

/-! ## What the part has sent out -/

/-- Read levels of a page read: a block's tracked offsets, given as the ladder step that set them, the die's default levels, an entry of the
profile's retry table, that entry shifted by offset steps for a soft decode, or the shift of a margin read (R376, R391). -/
inductive Levels where
  | tracked (step : Nat)
  | default
  | retry (entry : Nat)
  | soft (entry : Nat) (shift : Int)
  | margin (shift : Nat)
  deriving DecidableEq, Repr

/-- What a channel's sequencer does on a die, of the features that R339 lists. -/
inductive NandCmd where
  | reset
  | readId
  | readParam
  | setFeatures (rate : Nat)
  | zqLong
  | zqShort
  | dqTrain
  | dqCentre
  | setLevels (l : Levels)
  | pageRead (block page : Nat) (l : Levels)
  | program (block page : Nat) (single : Bool)
  | erase (block : Nat) (single : Bool)
  | suspend
  | resume
  deriving DecidableEq, Repr

/-- What leaves the part. The list in `State.out` is the model's own record of it, newest first. -/
inductive Out where
  /-- A standard completion written to a CMP ring (R86). -/
  | completion (fn ring : Nat) (addr : Nat) (c : Completion)
  /-- The first 16 bytes of a chain tag written to a tag ring (R89). -/
  | tag (fn ring slot : Nat) (addr : Nat) (data : List Byte)
  /-- A notice written to an EVT ring, with its NFLAGS (R92). -/
  | notice (fn : Nat) (addr : Nat) (nflags : Nat) (n : Notice)
  | msix (fn vector : Nat)
  /-- Data written to host memory for a command. -/
  | host (fn : Nat) (addr : Nat) (data : List Byte)
  /-- A command's output data, in order: what each DATA entry of its buffer or scatter list receives (R84). -/
  | output (fn ring cid : Nat) (data : List (Nat × List Byte))
  | nvme (sq cid status result : Nat)
  | cadOut (level : Bool)
  /-- A configuration request's answer: Request Retry Status or normal completion (R775). -/
  | config (retry : Bool)
  | jtag (bits : Nat) (value : Nat)
  | smb (bytes : List Byte)
  | smbRelease
  | smbAlert (low : Bool)
  | doe (bytes : List Byte)
  | avs (millivolts : Nat)
  | result (seg : Nat) (addr : Nat) (bytes : List Byte)
  | nand (chan pos : Nat) (op : NandCmd)
  | dram (seg : Nat) (op : String)
  | aer (correctable : Bool) (dt : Nat)
  deriving DecidableEq, Repr

/-- An entry of a function's Error log (R144). -/
structure ErrEntry where
  count : Nat
  time : Nat
  cid : Nat
  sq : Nat
  status : Nat
  opcode : Nat
  param : Nat
  nsid : Nat
  stream : Nat
  detector : Nat
  loc : Nat
  deriving DecidableEq, Repr

/-- The health counters (R332, R333) and the figures kept since the first power-on. -/
structure Health where
  /-- Counter k, 0 to 19; unlisted counters are 0. -/
  ctr : Tab Nat := []
  atMax : Nat := 0
  /-- Highest and lowest junction temperature since the first power-on, in kelvin. DESIGN CHOICE: 0 at reset (log 6). -/
  tempMax : Nat := 0
  tempMin : Nat := 0
  tempNow : Nat := 0
  /-- TEMP_HIST bins in minutes. -/
  hist : Tab Nat := []
  /-- CRIT as last shown to the sideband (R809). -/
  crit : Nat := 0
  /-- Sub-unit remainders of the counters that count in units of 1,000,000 bytes, hours and minutes. -/
  rest : Tab Nat := []
  deriving DecidableEq, Repr


/-! ## Namespaces, streams and records (03 to 06) -/

/-- Where a part of a record, grain or structure lies: band, `row * 64 + member` of the unit, codeword in it, and the bytes (R284). -/
structure Piece where
  band : Nat
  unit : Nat
  cw : Nat
  len : Nat
  deriving DecidableEq, Repr

/-- A stored Evidence Record: the header as the fold left it, the payload, and what the map and the Timeline Index keep of
it (R188, R194, R234). -/
structure Rec where
  header : List Byte
  payload : List Byte
  /-- Present retention class and expiry (R194, R207). -/
  hold : Bool
  expiry : Nat
  /-- BACK, IFLAGS, UNITS and TYPES of its index entry (R234). -/
  back : Nat
  iflags : Nat
  units : Nat
  types : Nat
  /-- How many records before it the last ENTRY lies, whatever `IDX_SNAP_MAX` was at the fold, if one does (R236, R242). -/
  far : Option Nat := none
  /-- The chain head that it folded on: its predecessor's tag, or the genesis head (R199). -/
  prev : List Byte := []
  /-- STAMP of the next record when that one has folded and been reclaimed, else 0 (R235). -/
  endStamp : Nat := 0
  /-- Marked damaged: reads complete with 0x0203; and the detector that found it (R144, R408, R456). -/
  damaged : Bool := false
  cause : Nat := 0xFFFF
  /-- Its media data is beyond masking: reads complete with 0x0201 (R396, R415). -/
  lost : Bool := false
  /-- Stored length once drained, and whether it is a Zest object (R258, R284). -/
  stored : Nat := 0
  zobj : Bool := false
  /-- The Zest object as stored (R266). -/
  obj : List Byte := []
  /-- The band that holds it, `none` while its only copy is in Stone (R293). -/
  band : Option Nat := none
  /-- Where its stored bytes lie on media (R284), and the number of the drain that laid them. -/
  pieces : List Piece := []
  no : Nat := 0
  /-- It was stored raw under R260 or by a Brace flush, so that a later move compresses it (R261). -/
  rawBy : Bool := false
  /-- The class that stored it: 0 for Class S, 1 to 3 for A, B and Z (R296). -/
  cls : Nat := 1
  /-- The Seal came from a Seal ring (R169). -/
  sealRing : Bool := false
  deriving DecidableEq, Repr

/-- A stream (R109 to R113, R195 to R205). -/
structure Strm where
  nsid : Nat
  group : Nat
  seg : Nat
  codec : Nat
  retain : Nat
  zest : Nat
  holdPeriod : Nat
  rate : Nat
  recalls : Nat
  /-- NONCE, CREATED and the genesis head (R198). -/
  nonce : List Byte
  created : Nat
  genesis : List Byte
  head : List Byte
  /-- Next record number and STAMP of the newest record (R196, R202). -/
  next : Nat := 0
  lastStamp : Nat := 0
  /-- Stored records by number. -/
  recs : Tab Rec := []
  /-- Stubs: STAMP and TAG by record number (R205). -/
  stubs : Tab (Nat × List Byte) := []
  /-- reduced_still_picture_header of the AV1 parse state (R231). -/
  still : Bool := false
  /-- Seal credit in 10⁻⁹ byte and Recall credit in 10⁻⁹ Recall, as of `crAt` (R170, R171). -/
  sealCr : Nat := 0
  recCr : Nat := 0
  crAt : Nat := 0
  /-- The Seal in service (R195). -/
  inService : Option Nat := none
  /-- Records expired and reclaimed since the last boundary of R215: number and lowest record. -/
  expN : Nat := 0
  expFirst : Nat := 0
  recN : Nat := 0
  recFirst : Nat := 0
  /-- FRAME up to which expiry has been counted for R215. -/
  expSeen : Nat := 0
  /-- Next record number at the last map checkpoint (R242, R289). -/
  ckptNext : Nat := 0
  /-- The newest record that has drained, as its number plus 1, and its TAG (R203). -/
  drainN : Nat := 0
  drainTag : List Byte := []
  /-- GEN of the index view (R618). -/
  gen : Nat := 0
  deriving DecidableEq, Repr

/-- A grain of a block namespace on media: band, stored length, and whether it is a Zest object (R282). -/
structure Grain where
  band : Option Nat := none
  /-- Where its stored bytes lie on media (R282), and the number of the drain that laid them. -/
  pieces : List Piece := []
  no : Nat := 0
  stored : Nat
  zobj : Bool := false
  /-- The class that stored it: 1 to 3 for A, B and Z (R296). -/
  cls : Nat := 1
  /-- The Zest object as stored (R258). -/
  obj : List Byte := []
  lost : Bool := false
  deriving DecidableEq, Repr

/-- A namespace (R106). -/
structure Ns where
  nstype : Nat
  grain : Nat
  zest : Nat
  owner : Nat
  cap : Nat
  holdMax : Nat
  /-- Stored 4,096-byte blocks; unlisted blocks read zeros (R130). -/
  blocks : Tab (List Byte) := []
  /-- Map entries of the grains that hold stored blocks (R282). -/
  grains : Tab Grain := []
  deriving DecidableEq, Repr

/-- A selection that a resumed Recall returns to (R125). -/
structure Sel where
  fn : Nat
  opcode : Nat
  nsid : Nat
  /-- Descriptor bytes 24 to 31 and 40 to 63: every field of R118 but OFFSET. -/
  area : List Byte
  recs : List Nat
  deriving DecidableEq, Repr

/-- An export context (R224). -/
structure ExpCtx where
  fn : Nat
  stream : Nat
  from_ : Nat
  to_ : Nat
  xflags : Nat
  /-- Manifest, entries and signature block. -/
  front : List Byte
  exportId : List Byte
  recs : List Nat
  /-- The export key copied at its start (R500). -/
  key : List Byte
  /-- Entries, for the AAD of each record (R222). -/
  entries : List Byte
  deriving DecidableEq, Repr

/-- An NVMe queue of the Plain controller (R154): depth, base, and the completion queue or vector it names. -/
structure NvmeQ where
  depth : Nat
  base : Nat
  link : Nat
  /-- A completion queue sends its vector. -/
  ien : Bool := false
  deriving DecidableEq, Repr

/-- The Plain controller (R154 to R159). -/
structure Nvme where
  /-- CC, INTMS, AQA, ASQ and ACQ of the NVMe register layout (R56). PRESUMED: the standard's reset values (log 47). -/
  cc : Nat := 0
  intms : Nat := 0
  aqa : Nat := 0
  asq : Nat := 0
  acq : Nat := 0
  /-- The I/O queues that are created, by identifier (R156). -/
  sqs : Tab NvmeQ := []
  cqs : Tab NvmeQ := []
  /-- Features by number; unlisted features hold 0. DESIGN CHOICE (log 10). -/
  features : Tab Nat := []
  queuesSet : Bool := false
  /-- Outstanding Asynchronous Event Requests, oldest first. -/
  aers : List Nat := []
  /-- Critical warnings that no request has reported yet, oldest first, and whether they are masked until the SMART / Health log is
  read (log 47). -/
  events : List Nat := []
  masked : Bool := false
  /-- Commands fetched and waiting, oldest first: submission queue, 0 for the admin queue, and the 64 bytes (R153, R156, R159). -/
  held : List (Nat × List Byte) := []
  deriving DecidableEq, Repr

/-- Namespaces, streams and the state of the command set. -/
structure CmdSt where
  nss : Tab Ns := []
  streams : Tab Strm := []
  sels : List Sel := []
  exports : List ExpCtx := []
  /-- End FRAME of DEPOT while it is active (R147). -/
  depotEnd : Option Nat := none
  /-- Firmware staging buffer, 16 MiB (R151). DESIGN CHOICE: bytes beyond the list are 0 (log 11). -/
  staging : List Byte := []
  nvme : Nvme := {}
  /-- Bounded Seals ended of late, for the backlog of R176: Segment, LEN, Pip arrival, completion. -/
  done : List (Nat × Nat × Nat × Nat) := []
  /-- Blocks that a WRITE or DEALLOCATE has written while an earlier-fetched one was in flight, each with the writer (R129). -/
  wrote : Tab Nat := []
  /-- Bounded Recalls ended of late, for the backlog of R177: Segment, fetch, end. -/
  doneRec : List (Nat × Nat × Nat) := []
  /-- `CLS_VOID_CAUSEn`, `CLS_MAX_SEALn` and `CLS_MAX_RECALLn` as live values, by Segment (R181, R185). -/
  voidCause : Tab Nat := []
  maxSeal : Tab Nat := []
  maxRecall : Tab Nat := []
  /-- The instant at which a suspension of the bound last ended, by Segment (R178, R179). -/
  suspEnd : Tab Nat := []
  /-- Index region in force, in MiB, by Segment; read at power-on (R245). -/
  idxMiB : Tab Nat := []
  deriving DecidableEq, Repr

/-! ## Zest (07) -/

/-- A job in a Segment's Zest queue, and the attempts that have failed (R267, R272, R273, R412). -/
structure ZJob where
  seg : Nat
  core : Nat
  guest : Bool
  desc : List Byte
  tries : Nat := 0
  deriving DecidableEq, Repr

/-- The Zest engines. -/
structure Zst where
  /-- `ZST_STATUS.BYPASS` (R260). -/
  bypass : Nat := 0
  /-- Job slots in use, by order of submission (R272). -/
  jobs : Tab ZJob := []
  nextJob : Nat := 0
  deriving DecidableEq, Repr

/-! ## Media management (08) -/

/-- A codeword on media: its metadata, and the ciphertext of its 4,096 data bytes (R287, R388, R469). `mflags` holds ZOBJ in bit 0 and
START in bit 1. -/
structure Cw where
  seq : Nat
  nsid : Nat := 0
  kind : Nat := 0
  mflags : Nat := 0
  stream : Nat := 0
  laddr : Nat := 0
  xoff : Nat := 0
  xlen : Nat := 0
  data : List Byte
  deriving DecidableEq, Repr

/-- A stretch of one record, grain or structure in a stripe unit that fills: the item, what its codewords' metadata say of it, where the
stretch begins in the item (`xoff`) and in the unit (`off`), and its bytes (R284, R287). -/
structure Run where
  item : Nat
  nsid : Nat
  kind : Nat
  zobj : Bool
  stream : Nat
  laddr : Nat
  xlen : Nat
  xoff : Nat
  off : Nat
  len : Nat
  deriving DecidableEq, Repr

/-- A stripe unit that fills with drained data, which lies in Stone until it is programmed (R281, R293, R294): its Segment, its owner (a
stream, or 8192 and the class for block data), the instant at which its first byte was drained, its class (0 for Class S, 1 to 3 for A,
B and Z), its plaintext and the stretches in it. -/
structure Fill where
  seg : Nat
  owner : Nat
  since : Nat
  cls : Nat
  bytes : List Byte
  runs : List Run
  /-- The precedence of the maintenance that made it, 0 for none (R323), and that nothing more joins it, so that it goes out as it is. -/
  prec : Nat := 0
  last : Bool := false
  deriving DecidableEq, Repr

/-- A part of an item in a codeword of a stripe unit: the item, the codeword's index in the unit, the offset in the item, and the bytes. -/
structure CwPart where
  item : Nat
  cw : Nat
  xoff : Nat
  len : Nat
  deriving DecidableEq, Repr

/-- A stripe unit of a band: its codewords, what lies in them, and whether its program has reported success. The unit of a row's parity
member holds none of its own: it is the XOR of the others (R280, R395). -/
structure SUnit where
  cws : List Cw
  parts : List CwPart := []
  done : Bool := false
  /-- Codewords that are copies, by their index: band, unit and codeword of the source, which stays authoritative until the row is verified
  (R307, R308); and the precedence of the activity that moves them, 0 for none of R323. -/
  moved : Tab (Nat × Nat × Nat) := []
  prec : Nat := 0
  deriving DecidableEq, Repr

/-- A checkpoint that is kept: its number, the band and row where it begins, and its pieces (R289). -/
structure Ckpt where
  no : Nat
  band : Nat
  row : Nat
  pieces : List Piece
  /-- SHA-256 of its content, and the next record number of each stream that it holds (R242, R404). -/
  digest : List Byte := []
  nexts : Tab Nat := []
  deriving DecidableEq, Repr

/-- A checkpoint that is being written: its number, the item number and the bytes of its structures, its digest, and the next record
number of each stream that it holds (R242, R289). -/
structure CkptWip where
  no : Nat
  item : Nat
  len : Nat
  digest : List Byte
  nexts : Tab Nat
  deriving DecidableEq, Repr

/-- A record that a move compresses (R261): its Segment, stream and number, the item number of its object, the object, and where the record
lay, to which the map must still point when the object is verified (R307). -/
structure Squeeze where
  seg : Nat
  strm : Nat
  num : Nat
  no : Nat
  obj : List Byte
  was : List Piece
  deriving DecidableEq, Repr

/-- Undrained data in Stone (R293): a record of a stream, or a grain of a block namespace. -/
structure StoneItem where
  isRec : Bool
  /-- Stream and record number, or NSID and grain. -/
  a : Nat
  b : Nat
  len : Nat
  sealRing : Bool
  /-- Its drain has begun; `raw` says that it is stored raw under BYPASS (R260). -/
  draining : Bool := false
  raw : Bool := false
  since : Nat := 0
  /-- Its class, 0 for Class S and 1 to 3 for A, B and Z (R163), and the number that its drain took (R293). -/
  cls : Nat := 1
  no : Nat := 0
  deriving DecidableEq, Repr

/-- State of a band (R280). -/
inductive BandSt where
  | free | opened | closed | retired
  deriving DecidableEq, Repr

/-- A band, keyed by `segment * 2^24 + number` (R280, R305, R310). -/
structure Band where
  st : BandSt := .free
  /-- Its blocks are erased, or an erase of them has been asked for and `wait` lists the dies still to finish; `prep` says that
  it was taken and so prepared for the next opening (1) or for a wear move (5), 0 for neither (R309, R311, R369). -/
  erased : Bool := false
  wait : List Nat := []
  prep : Nat := 0
  /-- It is retired for want of a spare as soon as nothing is stored in it (R319); and, by die, the retired block in which its data still
  lies until its replacement is erased. -/
  dying : Bool := false
  old : Tab Nat := []
  /-- Used in single-bit mode (R295). -/
  slc : Bool := false
  /-- Kept erased as part of the Brace reserve (R297). -/
  brace : Bool := false
  erases : Nat := 0
  /-- Data capacity in bytes, and bytes written since it was opened. -/
  size : Nat
  filled : Nat := 0
  /-- Its stripe units by `row * 64 + member`, the SEQ of each row that has one, and the rows that are verified (R280, R287, R397). They
  stay until the band is erased. -/
  units : Tab SUnit := []
  seqs : Tab Nat := []
  okRows : List Nat := []
  /-- Channels, modulo 8, that were lost when it was opened under Die guard: it is a degraded band on the other dies (R381). -/
  skip : List Nat := []
  /-- Order of closing and of freeing (R305, R310). -/
  closedNo : Nat := 0
  freedNo : Nat := 0
  /-- Activity that claims it, by its precedence in R323; 0 for none (R326). -/
  claim : Nat := 0
  /-- Instant at which its oldest data was stored (R314), and that of its erase (R330). -/
  dataAt : Nat := 0
  erasedAt : Nat := 0
  deriving DecidableEq, Repr

/-- A patrol pass of a Segment: page groups written at its start, those queued, those read, as `die * 2^40 + block * 2^16 + page`, and how
many it is behind its schedule by a sleep (R312, R335). -/
structure Patrol where
  start : Nat := 0
  groups : Nat := 0
  queued : Nat := 0
  read : List Nat := []
  behind : Nat := 0
  unpaced : Bool := false
  /-- Bytes of the Segment's DRAM that the pass has read (R317). -/
  dram : Nat := 0
  deriving DecidableEq, Repr

/-- The Media Managers. -/
structure Med where
  /-- Advertised capacity computed at power-on, in units of 4,096 bytes (R290). -/
  capacity : Nat := 0
  /-- `MED_OP` in force: over-provisioning and spare percent, read at the last power-on without a namespace (R291). -/
  opPct : Nat := 7
  sparePct : Nat := 4
  harvest : Bool := false
  /-- Segments that met the condition of R322 when it was last reported, as bits (R334). -/
  floor : Nat := 0
  /-- Shortfall in bytes, spare blocks at the first power-on, by Segment (R319 to R321). -/
  shortfall : Tab Nat := []
  spareInit : Tab Nat := []
  bands : Tab Band := []
  /-- Undrained data in order, by Segment (R293); bytes of Stone that each Segment may use (R451). -/
  stone : Tab (List StoneItem) := []
  stoneLimit : Tab Nat := []
  /-- Map region in force in MiB, by Segment (R285). -/
  mapMiB : Tab Nat := []
  /-- Instant of the last checkpoint and bands opened since, by Segment (R289); checkpoints written. -/
  ckptAt : Tab Nat := []
  ckptBands : Tab Nat := []
  ckptNo : Tab Nat := []
  /-- Program sequence by Segment (R287), and the order counter of closings and freeings. -/
  seq : Tab Nat := []
  order : Nat := 0
  /-- Stripe units that fill, the number of the last drain, and the last dies that each owner's units went to, latest first, by
  `segment * 65536 + owner` (R281, R293). -/
  fills : List Fill := []
  drains : Nat := 0
  lastDies : Tab (List Nat) := []
  /-- The two latest checkpoints of each Segment (R289). -/
  ckpts : Tab (List Ckpt) := []
  /-- The checkpoint that each Segment is writing, and the records that moves compress (R261, R289). -/
  wips : Tab CkptWip := []
  squeezes : List Squeeze := []
  /-- Bytes that foreground relocation has moved for each write that waits for it, by the write and Segment (R306). -/
  fore : Tab Nat := []
  /-- Die time in ns that maintenance and Classes A, B and Z have taken while both wanted it, by Segment, and the weighted round robin among
  Classes A, B and Z, by `segment * 4 + class` (R163). -/
  dieMaint : Tab Nat := []
  dieWork : Tab Nat := []
  dieCur : Tab Int := []
  /-- Segments whose garbage collection runs (R305). -/
  gcOn : List Nat := []
  patrol : Tab Patrol := []
  /-- Segments that have completed a pass since every Segment last had (R333, k 15). -/
  passDone : List Nat := []
  /-- Bands queued for retention refresh; the blocks of them that were queued, and the instant at which each block was last queued, by
  `die * 2^24 + block` (R313 to R318). -/
  refresh : List Nat := []
  weak : List Nat := []
  refreshed : Tab Nat := []
  /-- Retired blocks, as die and block number. -/
  retired : List (Nat × Nat) := []
  /-- Maintenance tokens: the activity that holds each resource and whether its unit has started, and the starts that wait, as (precedence,
  resource), in order of arrival (R323 to R325). -/
  tokens : Tab (Nat × Bool) := []
  waiting : List (Nat × Nat) := []
  /-- Percent of the deep retention check done in DEPOT, and the pages of each block that it has read, by `die * 2^24 + block` (R330, R334,
  R376). -/
  deep : Nat := 0
  margins : Tab (List Nat) := []
  /-- House cores are halted at Full, so maintenance stops (R335). -/
  halted : Bool := false
  /-- PCT_USED and the low-spare condition as last reported (R334). -/
  pctSeen : Nat := 0
  spareLow : Bool := false
  deriving DecidableEq, Repr

/-! ## Flash channels and dies (09) -/

/-- A read queued on a die: Class S or not, the time that it takes in a window in ns, the command that it serves, if any, the block and page
group that it reads, whether it was queued at the last decision point, and the die around which it goes, if any (R304, R357, R363). -/
structure DRead where
  classS : Bool
  dur : Nat
  id : Option Nat := none
  blk : Nat := 0
  page : Nat := 0
  due : Bool := false
  part : Option Nat := none
  deriving DecidableEq, Repr

/-- A page-group program that waits for its die: band, stripe row, its class, 0 for Class S, 1 to 3 for A, B and Z and 4 for maintenance,
and then the precedence of the maintenance (R163, R323, R341). -/
structure ProgQ where
  band : Nat
  row : Nat
  cls : Nat
  prec : Nat := 0
  deriving DecidableEq, Repr

/-- The program or erase that a die has open (R341): when it started or last resumed, and whether it is suspended; for a program, what it
programs. -/
structure DieOp where
  erase : Bool
  block : Nat
  at_ : Nat
  susp : Bool := false
  prog : Option ProgQ := none
  deriving DecidableEq, Repr

/-- A fitted die (R341, R348), keyed by `channel * 16 + target * 2 + LUN`. -/
structure Die where
  /-- Position on its channel: its rank among the fitted dies. -/
  pos : Nat
  /-- Capacity in Gb, planes, spare bytes a plane, blocks and pages per block, and rated endurance (R346). -/
  gb : Nat
  planes : Nat
  spare : Nat
  blocks : Nat
  pages : Nat
  rated : Nat
  /-- Worst multi-plane read time of its profile in ns (R346). -/
  tread : Nat := 40000
  usable : Bool := true
  lost : Bool := false
  /-- It was found at the last power-on (R386). -/
  found : Bool := true
  /-- Spare blocks left, the blocks that replace a band's block, latest first, by the block's own number, and the erase counts of its blocks
  (R310, R319). -/
  spares : List Nat := []
  subst : Tab (List Nat) := []
  erases : Tab Nat := []
  op : Option DieOp := none
  /-- Reads queued, in order, and those that the open window serves (R357). -/
  queue : List DRead := []
  going : List DRead := []
  /-- Programs that wait for it, in order (R341). -/
  progs : List ProgQ := []
  /-- Decision point of a window that waits for the die to become idle; the instant at which a window opened and the time that
  its reads take (R356, R357). -/
  decided : Option Nat := none
  opened : Option (Nat × Nat) := none
  /-- The last window position taken (R353). -/
  lastPos : Nat := 0
  /-- The first position of the next frame, as predicted from the adopted period, once its decision has been taken (R354). -/
  ahead : Option Nat := none
  /-- A guard position whose decision has been taken before it is known whether another position comes sooner (R353). -/
  guard : Option Nat := none
  /-- Consecutive operations that ended in an interface error (R378). -/
  errs : Nat := 0
  deriving DecidableEq, Repr

/-- A channel: STATE and RATE of `FLW_CHSTATc`, its last training, and an interface error counted since (R345). -/
structure Chan where
  state : Nat := 0
  rate : Nat := 0
  trainAt : Nat := 0
  trainTemp : Nat := 0
  retrain : Bool := false
  /-- The instant at which the data that it transfers has passed (R340). -/
  xferEnd : Nat := 0
  deriving DecidableEq, Repr

/-- The flash channels. -/
structure Flw where
  dies : Tab Die := []
  chans : Tab Chan := []
  /-- The record of R348 exists: usable dies and layouts are fixed. -/
  fixed : Bool := false
  /-- Layout of each Segment's stripe groups: 0 Die guard, 1 Channel guard (R386). -/
  layout : Tab Nat := []
  /-- Tracked read-level offsets by `die * 2^24 + block`, as the ladder step that set them (R391, R392). -/
  offsets : Tab Nat := []
  /-- Blocks that failed a blank check and are to be erased again, as die and block (R375). -/
  blankFail : List (Nat × Nat) := []
  deriving DecidableEq, Repr
/-! ## Brace (11) -/

/-- An entry of the Brace history (R460). EXITED and OUTCOME are completed at the exit or at the next power-on. -/
structure BHist where
  entered : Nat
  exited : Nat := 0
  cause : Nat
  outcome : Nat := 0
  restarts : Nat := 0
  vsysMin : Nat
  vhuStart : Nat := 0
  vhuEnd : Nat := 0
  seq : Nat
  us : Nat := 0
  bytes : Nat := 0
  pbrace : Nat := 0
  deferred : Nat := 0
  deriving DecidableEq, Repr

/-- What the retained flush images hold (R439, R455): one flush generation, the Segments it names, and the Stone data that it
holds. -/
structure FImage where
  seq : Nat
  stone : Tab (List StoneItem)
  /-- The bands of the Brace reserve that it was programmed into (R297, R439). -/
  bands : List Nat := []
  deriving DecidableEq, Repr

/-- The Brace part of the Power Manager. -/
structure Brc where
  active : Bool := false
  flushing : Bool := false
  flushed : Bool := false
  /-- The instant from which every condition of R446 but the first has held (`BRC_STATUS.EXIT_WAIT`). -/
  exitWait : Option Nat := none
  /-- Generation of the newest flush (R444). DESIGN CHOICE: 0 at reset (log 20). -/
  flushSeq : Nat := 0
  /-- Timebase instant and Evidence Time of the entry, its cause, and the bytes of Stone then to flush. -/
  ref : Nat := 0
  entered : Nat := 0
  cause : Nat := 0
  bytes : Nat := 0
  /-- Last samples: VSENSE_SYS and VSENSE_HU in mV, PWR_WARN_N and HOLDUP_OK (R434). DESIGN CHOICE: 0, 0, high and high at
  reset (log 20). -/
  vsys : Nat := 0
  vhu : Nat := 0
  warnN : Bool := true
  huOk : Bool := true
  vsysMin : Nat := 0
  restarts : Nat := 0
  deferred : Nat := 0
  /-- P_dev in mW, R in MB/s and C_EFF in mF (R449, R450), and whether the journal holds a measurement. -/
  pbrace : Nat := 0
  rate : Nat := 0
  ceff : Nat := 0
  measured : Bool := false
  /-- The covered amount in bytes and e_avail in mJ (R451); `BRC_STATUS.HU_SHORT` (R452). -/
  cover : Nat := 0
  avail : Nat := 0
  short : Bool := false
  /-- History entries, newest first, at most 63 (R460). -/
  hist : List BHist := []
  /-- The retained flush images, in ascending FLUSH_SEQ (R455, R457). -/
  images : List FImage := []
  deriving DecidableEq, Repr


/-! ## Keys and the Crypto Unit (12) -/

/-- A saved context (R475, R476). -/
structure Ctx where
  page : Nat
  /-- The run that allocated it, by its item slot. -/
  run : Option Nat := none
  seq : Nat
  alg : Nat
  key : List Byte
  iv : List Byte := []
  aad : List Byte := []
  absorbed : List Byte := []
  poisoned : Bool := false
  deriving DecidableEq, Repr

/-- A job that has passed its checks (R484): Segment, submitting core, page, descriptor, the context slot that it allocated or
uses, the hold-buffer bytes that it has reserved (R488), and the attempts that have failed (R490). -/
structure CJob where
  seg : Nat
  core : Nat
  page : Nat
  desc : List Byte
  slot : Option Nat := none
  hold : Option Nat := none
  tries : Nat := 0
  deriving DecidableEq, Repr

/-- The Crypto Units and the Security Gate's key part. -/
structure Cry where
  /-- Saved contexts by `segment * 64 + slot`, and the sequence of each slot (R476). -/
  ctxs : Tab Ctx := []
  seqs : Tab Nat := []
  /-- Export keys and FN_SALTs by function (R496, R499). -/
  expKeys : Tab (List Byte) := []
  fnSalts : Tab (List Byte) := []
  /-- Jobs, by order of submission. -/
  jobs : Tab CJob := []
  nextJob : Nat := 0
  /-- Zeroizations since power-on, the last alarm's instant, and the state of R508 and R509. -/
  zeroized : Nat := 0
  lastAlarm : Nat := 0
  rederive : Bool := false
  closed : Bool := false
  /-- The SPDM messages since the last GET_VERSION, which a signature covers (R504; log 42). -/
  spdm : List Byte := []
  /-- The noise source's health tests pass (R505). -/
  rngOk : Bool := false
  deriving DecidableEq, Repr
/-! ## Dexar cores (13, 14) -/

/-- An address register (R522). STEP is held as its 24 bits. -/
structure AReg where
  ptr : BitVec 48 := 0
  base : BitVec 48 := 0
  len : BitVec 24 := 0
  step : BitVec 24 := 0
  mode : BitVec 2 := 0
  deriving DecidableEq, Repr

/-- What a core does (`DXR_COREk.STATE` 1 to 5); sleep, quarantine and absence follow from other state. -/
inductive CoreSt where
  | held | running | waiting | halted | stopped
  deriving DecidableEq, Repr

/-- A Dexar core (R521 to R524, R605, R659). Unlisted registers hold 0. -/
structure DCore where
  g : Tab W64 := []
  m : Tab (BitVec 80) := []
  a : Tab AReg := []
  /-- p1 to p7; p0 is hard-wired and never listed (R521). -/
  p : Tab Bool := []
  lb : Tab (BitVec 32) := []
  le : Tab (BitVec 32) := []
  lc : Tab (BitVec 32) := []
  pc : BitVec 32 := 0
  /-- `PSTATE`, its HOUSE bit aside, which follows from the role (R523). -/
  pstate : BitVec 32 := 0
  flags : BitVec 4 := 0
  epc : BitVec 32 := 0
  epstate : BitVec 32 := 0
  ecause : BitVec 11 := 0
  eaddr : W64 := 0
  evec : BitVec 32 := 0
  repc : BitVec 32 := 0
  mstat : BitVec 16 := 0
  cycle : BitVec 48 := 0
  retired : BitVec 48 := 0
  /-- Instant of its last bundle (R716). -/
  issuedAt : Nat := 0
  scratch0 : W64 := 0
  scratch1 : W64 := 0
  st : CoreSt := .held
  /-- Code of the last exception taken (`DXR_COREk.LASTEXC`). -/
  lastExc : Nat := 0
  /-- The Dispatcher mailbox (R552). -/
  mailbox : List Byte := []
  /-- Staging of the Zest and Crypto ports and of channel ports 0 to 3, by port number 0 to 5 (R519, R659). -/
  stage : Tab (List Byte) := []
  /-- STAGE, PHDR, DUE and POSTSTAT of the Dispatcher port (R605). -/
  dstage : List Byte := []
  phdr : W64 := 0
  due : W64 := 0
  poststat : Nat := 0
  /-- Destination and selector of a GET that waits, and since when (R552, R609). -/
  get : Option (Nat × Nat) := none
  waitAt : Nat := 0
  /-- The words of that GET's bundle, and what its memory operands read at its issue (R531). -/
  getWords : List Word := []
  getReads : Tab Nat := []
  /-- The clock is gated while it waits (R713). -/
  gated : Bool := false
  /-- Item slot in service on the core (R601). -/
  item : Option Nat := none
  /-- The run that a guest core executes, by its item slot (R615). -/
  run : Option Nat := none
  /-- Timebase instant of the last heartbeat (R516, DT27). -/
  beat : Nat := 0
  /-- Faults of a house core without an item since that heartbeat (R412). DESIGN CHOICE (log 146). -/
  tries : Nat := 0
  /-- The words of breakpoints 0 to 3 (R752). -/
  bps : Tab Nat := []
  deriving DecidableEq, Repr

/-- A hand-over from a core's port to its agent (R520, R659, R605): what was staged when SUBMIT, RESUME, POST, DONE or EXIT was
stored to, and the value stored. -/
inductive Hand where
  | zest (core : Nat) (desc : List Byte)
  | crypto (core : Nat) (desc : List Byte)
  | channel (core port : Nat) (desc : List Byte)
  | resume (core port value : Nat)
  | post (core : Nat) (content : List Byte) (phdr due : Nat)
  | done (core token : Nat)
  | exit (core value : Nat)
  deriving DecidableEq, Repr

/-- An 8-bit store to instruction memory that no FENCE.I of the storing core has followed (R537): the storing core, the memory
and address, and the old byte. -/
structure Stale where
  core : Nat
  mem : Nat
  addr : Nat
  old : Byte
  deriving DecidableEq, Repr

/-- The cores and their memories. -/
structure Dxr where
  /-- Cores 0 to 15, and the Rind core as 16. -/
  cores : Tab DCore := []
  /-- Memory by Segment, addressed in the Segment address map of R591; number 4 is the Rind core's, addressed in the core-local
  map of R516. Unlisted bytes read 0. DESIGN CHOICE: memories read 0 where the manual gives no reset value (log 21). -/
  mem : Tab (List Host.Cell) := []
  stale : List Stale := []
  hands : List Hand := []
  /-- When an engine job or a Data Mover descriptor of each Segment last ended (R716). -/
  jobAt : Tab Nat := []
  deriving DecidableEq, Repr

/-! ## Dispatcher (15) -/

/-- Where an item is: on a ready list since an order number, on the tick or the µs list, or in service on a core. -/
inductive Place where
  | ready (order : Nat)
  | tick (due order : Nat)
  | us (due order : Nat)
  | service (core : Nat)
  deriving DecidableEq, Repr

/-- An item slot in use (R594 to R599): the content and the token's fields; the run whose list it is on, none for house lists;
the one core that may take it (R596); and whether it is the run itself. -/
structure Item where
  content : List Byte
  kind : Nat
  flow : Nat
  prio : Nat
  seq : Nat
  source : Nat
  aff : Nat := 0
  only : Option Nat := none
  run : Option Nat := none
  place : Place
  /-- Order of entry into the ready lists, kept while in service, for the flow (R599, R602). -/
  order : Nat := 0
  deriving DecidableEq, Repr

/-- A run, queued or in progress (R613 to R624), keyed by its item slot. -/
structure DRun where
  fn : Nat
  /-- The PROG_RUN in flight. -/
  id : Nat
  slot : Nat
  seg : Nat
  args : List Nat
  budget : Nat
  cid : Nat
  ring : Nat
  core : Option Nat := none
  /-- Base and length of W3 and W4. -/
  w3 : Nat := 0
  w3len : Nat := 0
  w4 : Nat := 0
  w4len : Nat := 0
  /-- Instant of the release at ENTRY; nanoseconds that a debugger held the core halted, and since when. -/
  released : Nat := 0
  heldNs : Nat := 0
  heldAt : Option Nat := none
  retries : Nat := 0
  order : Nat := 0
  deriving DecidableEq, Repr

/-- A loaded program (R610, R612). -/
structure Prog where
  fn : Nat
  mask : Nat
  image : List Byte
  deriving DecidableEq, Repr

/-- The Dispatchers. -/
structure Dsp where
  /-- Item slots in use, by `segment * 4096 + slot`, and SEQ of each slot's next allocation (R595). -/
  items : Tab Item := []
  seqs : Tab Nat := []
  runs : Tab DRun := []
  progs : Tab Prog := []
  /-- Order counter of entries into lists. -/
  order : Nat := 0
  /-- Attempts that the work of an item has failed (R412), by its slot. -/
  retries : Tab Nat := []
  /-- House cores of each Segment and guest pools as read at power-on (R593, R630): `DSP_ROLEn` and `DSP_GPOOLn` in force. -/
  role : Tab Nat := []
  gpool : Tab Nat := []
  deriving DecidableEq, Repr

/-! ## DRAM Controllers and Data Movers (16) -/

/-- A row-activation table of a bank (R653), its rolling activation count (R652), and the neighbour refreshes queued. -/
structure DBank where
  rat : List (Nat × Nat) := []
  raa : Nat := 0
  queued : List Nat := []
  /-- The open row, and the requests that have hit it in a row (R647). -/
  row : Option Nat := none
  hits : Nat := 0
  deriving DecidableEq, Repr

/-- A request that waits at a DRAM controller, with its bank and row (R644 to R646). -/
structure DReq where
  port : Nat
  bank : Nat
  row : Nat
  write : Bool
  classS : Bool
  at_ : Nat
  deriving DecidableEq, Repr

/-- A Segment's DRAM channel (R632 to R637). -/
structure Dram where
  cap : Nat := 0
  rate : Nat := 0
  ranks : Nat := 0
  density : Nat := 0
  x8 : Bool := false
  trained : Bool := false
  filling : Bool := false
  /-- RAAIMT and RAAMMT of the components (R632, R652); 0 where they require no refresh management. -/
  raaimt : Nat := 0
  raammt : Nat := 0
  /-- Regions in force in MiB: Stone, shared pool; the interleave grain (R640, R641). -/
  stone : Nat := 0
  shared : Nat := 0
  grain : Nat := 8
  /-- Last ZQ calibration; component temperature at the last re-centring in kelvin (R637). -/
  zqAt : Nat := 0
  centred : Nat := 0
  /-- Retired pages: page and replacement (R409, R642). -/
  remap : Tab Nat := []
  banks : Tab DBank := []
  /-- Refresh intervals postponed (R651), and the start of the refresh window (R653). -/
  postponed : Nat := 0
  windowAt : Nat := 0
  /-- Waiting requests in order of arrival, the sub-channels that drain writes, and the last bank that each served (R646 to R648). -/
  reqs : List DReq := []
  drains : List Nat := []
  last : Tab Nat := []
  /-- When a request was last in the controller (R716). -/
  usedAt : Nat := 0
  deriving DecidableEq, Repr

/-- A descriptor queued on a channel, and what the host has answered of its read so far (R656, R660). -/
structure DmDesc where
  desc : List Byte
  func : Nat
  guest : Bool
  core : Nat
  run : Option Nat
  got : List Byte := []
  /-- Bytes of a host read that have been asked for (R165). -/
  asked : Nat := 0
  deriving DecidableEq, Repr

/-- A Data Mover channel, by `segment * 64 + channel` (R656, R666). -/
structure DmCh where
  halted : Bool := false
  queue : List DmDesc := []
  retries : Nat := 0
  deriving DecidableEq, Repr

/-- The DRAM channels and Data Movers. -/
structure Mov where
  drams : Tab Dram := []
  chans : Tab DmCh := []
  /-- The channel that each Segment's Data Mover serves, by Segment (R658). -/
  serving : Tab Nat := []
  deriving DecidableEq, Repr

/-! ## Power states (18) -/

/-- A voltage request in progress (R712): the level it is for, and its instant. -/
structure VReq where
  level : Nat
  at_ : Nat
  deriving DecidableEq, Repr

/-- The Power Manager. -/
structure Pwr where
  /-- Sleep state of each Segment, 0 awake; unlisted Segments are awake. -/
  sleep : Tab Nat := []
  rindSleep : Nat := 0
  /-- Instant at which each domain entered its present state, Segments 0 to 3 and RINDX as 4; domains that wake (R718). -/
  sleepAt : Tab Nat := []
  waking : List Nat := []
  /-- Performance level of each Segment; unlisted Segments run at P2 (R710). The governor's proposal, likewise. -/
  level : Tab Nat := []
  proposal : Tab Nat := []
  govAt : Nat := 0
  /-- Level whose voltage VDD_CORE has, and the raises that wait for it, by Segment (R708, R712). -/
  volt : Nat := 2
  raising : Tab VReq := []
  /-- Throttle caps; whether the sensor last read hot (1), cool (2) or between (0), and the instant of the last step (R724). -/
  cap : Tab Nat := []
  zone : Tab Nat := []
  stepAt : Tab Nat := []
  /-- Nanoseconds with a cap above 0 not yet counted in `PWM_THROTn`, and up to when they are counted. -/
  throtNs : Tab Nat := []
  throtAt : Tab Nat := []
  /-- Thermal shed is in force (R725); since when a sensor has read above 112 °C, by sensor; since when all read below 108 °C. -/
  shed : Bool := false
  hotSince : Tab Nat := []
  coolSince : Option Nat := none
  /-- Readings of the five sensors in 0.25 K (R723), the end of an injected rise (R429), and CRIT.TEMP (R726). -/
  temps : Tab Nat := []
  injUntil : Nat := 0
  crit : Bool := false
  tempAt : Nat := 0
  /-- Writes held for a sleeping Segment, in order: address, value and byte enables (R722). -/
  held : Tab (List (Nat × Word × Nat)) := []
  /-- `FLW_WHEELn` and `FLW_SPACEn` as they stood when Segment n entered S2 (R721). -/
  wheel : Tab (Nat × Nat) := []
  deriving DecidableEq, Repr

/-! ## The whole state -/

/-- The state of the 3216. -/
structure State where
  /-- Commands that wait, first in, first out. -/
  pending : List Instr := []
  /-- The Rind timebase in ns. DESIGN CHOICE: 0 at reset (log 2). -/
  now : Nat := 0
  /-- The model's own count of free values drawn. DESIGN CHOICE: 0 at reset (log 1); no statement rests on it. -/
  draws : Nat := 0
  /-- Stored words of set-up registers; an unlisted register holds its reset value. -/
  regs : Tab Word := []
  /-- Reset values taken from the parameter sector in place of the register map's (R825, R834). -/
  loaded : Tab Word := []
  /-- Live performance counters and fault tallies, by the address of their low read register; unlisted ones are 0. -/
  ctrs : Tab Nat := []
  /-- Their copies of the last SNAP strobe (R418); unlisted ones are 0. -/
  snaps : Tab Nat := []
  cad : Cad := {}
  rge : Rge := {}
  integ : Integ := {}
  pith : Pith := {}
  life : Life := {}
  dbg : Dbg := {}
  boot : Boot := {}
  pins : Pins := {}
  health : Health := {}
  cmd : CmdSt := {}
  cry : Cry := {}
  brc : Brc := {}
  zst : Zst := {}
  flw : Flw := {}
  med : Med := {}
  pwr : Pwr := {}
  dxr : Dxr := {}
  dsp : Dsp := {}
  mov : Mov := {}
  /-- Error logs by function, newest first, at most 256 entries, and their error counts (R144). -/
  errs : Tab (List ErrEntry) := []
  errCounts : Tab Nat := []
  /-- The notice history of function 0, newest first, at most 1,024 (R145). -/
  history : List Notice := []
  /-- What the part has sent out, newest first. -/
  out : List Out := []
  deriving DecidableEq, Repr

/-- Why the machine stops with a fault. No meaning of this model raises one: the manual gives every failure a status, a
detector or a result code. -/
inductive Fault where
  /-- Raised by no meaning. It stands for a stop the manual would give no outcome for; stopping there would be safe. -/
  | none
  deriving DecidableEq, Repr

/-- Why a command has no meaning in the model. -/
inductive Refusal where
  /-- Answered by the dispatch for a command whose meaning is not written yet: safe, since nothing is claimed of it. -/
  | notModelled (mnemonic : String)
  deriving DecidableEq, Repr

/-- The machine right after reset: every field at its default, the queue empty. -/
def State.reset : State := {}

end Sys2Proof.Machine
end

