-- ==== Sys2Proof/Machine/Tab.lean ====
section
/-!
DEFINITION. Sparse tables, bit fields of a number and little-endian byte strings: the plain-data helpers that every
meaning uses.
-/
namespace Sys2Proof.Machine

/-! ## Sparse tables -/

/-- The value listed for number `k`, if any. -/
def tget {α : Type} (k : Nat) : Tab α → Option α
  | [] => none
  | (j, a) :: t => if k = j then some a else if k < j then none else tget k t

/-- The value listed for `k`, or `d` where none is listed. -/
def tgetD {α : Type} (d : α) (k : Nat) (t : Tab α) : α := (tget k t).getD d

/-- List `a` for number `k`, in place of what was listed. -/
def tput {α : Type} (k : Nat) (a : α) : Tab α → Tab α
  | [] => [(k, a)]
  | (j, b) :: t => if k = j then (k, a) :: t else if k < j then (k, a) :: (j, b) :: t else (j, b) :: tput k a t

/-- Unlist number `k`. -/
def tdel {α : Type} (k : Nat) : Tab α → Tab α
  | [] => []
  | (j, b) :: t => if k = j then t else if k < j then (j, b) :: t else (j, b) :: tdel k t

/-- Write `a` at `k` in a table whose unlisted numbers stand for `d`: writing `d` unlists. -/
def tset {α : Type} [DecidableEq α] (d : α) (k : Nat) (a : α) (t : Tab α) : Tab α :=
  if a = d then tdel k t else tput k a t

/-- Change the value at `k`, if one is listed. -/
def tmod {α : Type} (k : Nat) (f : α → α) (t : Tab α) : Tab α :=
  match tget k t with
  | some a => tput k (f a) t
  | none => t

/-- Change every listed value. -/
def tmap {α : Type} (f : Nat → α → α) (t : Tab α) : Tab α := t.map fun p => (p.1, f p.1 p.2)

/-- Keep the listed values that pass. -/
def tfilter {α : Type} (f : Nat → α → Bool) (t : Tab α) : Tab α := t.filter fun p => f p.1 p.2

/-- How many listed values pass. -/
def tcount {α : Type} (f : Nat → α → Bool) (t : Tab α) : Nat := (tfilter f t).length

/-- Sum over the listed values. -/
def tsum {α : Type} (f : Nat → α → Nat) (t : Tab α) : Nat := t.foldl (fun n p => n + f p.1 p.2) 0

/-- Some listed value passes. -/
def tany {α : Type} (f : Nat → α → Bool) (t : Tab α) : Bool := t.any fun p => f p.1 p.2

/-- The first listed entry that passes. -/
def tfind {α : Type} (f : Nat → α → Bool) (t : Tab α) : Option (Nat × α) := t.find? fun p => f p.1 p.2

/-- The listed numbers. -/
def tkeys {α : Type} (t : Tab α) : List Nat := t.map Prod.fst

/-- The lowest number at or above `lo`, below `lo + n`, that is not listed. -/
def tfree {α : Type} (lo : Nat) : Nat → Tab α → Option Nat
  | 0, _ => none
  | n + 1, t => if (tget lo t).isNone then some lo else tfree (lo + 1) n t

/-- The table's canonical form: numbers strictly rising. -/
def TabWf {α : Type} : Tab α → Bool
  | [] => true
  | [_] => true
  | (j, _) :: (k, b) :: t => (j < k) && TabWf ((k, b) :: t)

/-! ## Bit fields of a number -/

/-- Bits `hi:lo` of a register word, as a number. -/
def bits (w : Word) (hi lo : Nat) : Nat := (w.toNat >>> lo) % 2 ^ (hi - lo + 1)

/-- Bits `hi:lo` of a number. -/
def nbits (w hi lo : Nat) : Nat := (w >>> lo) % 2 ^ (hi - lo + 1)

/-- Bit `i` of a number. -/
def nbit (w i : Nat) : Bool := (w >>> i) % 2 == 1

/-- Bits `hi:lo` of a register word replaced by `v`. -/
def setBits (w : Word) (hi lo v : Nat) : Word :=
  let m := 2 ^ (hi - lo + 1)
  BitVec.ofNat 32 (w.toNat - ((w.toNat >>> lo) % m) * 2 ^ lo + (v % m) * 2 ^ lo)

/-- A flag as a number. -/
def b2n (b : Bool) : Nat := if b then 1 else 0

/-- The lowest `n` bits of a list of flags as a number, first flag in bit 0. -/
def flags : List Bool → Nat
  | [] => 0
  | b :: t => b2n b + 2 * flags t

/-- Bit `i` of `w` set. -/
def orBit (w i : Nat) : Nat := if nbit w i then w else w + 2 ^ i

/-- Bit `i` of `w` cleared. -/
def clrBit (w i : Nat) : Nat := if nbit w i then w - 2 ^ i else w

/-! ## Byte strings, little-endian (R6) -/

/-- The `n` low bytes of `v`, least significant first (R6). -/
def le : Nat → Nat → List Byte
  | 0, _ => []
  | n + 1, v => BitVec.ofNat 8 v :: le n (v / 256)

/-- The number a little-endian byte string stands for (R6). -/
def unle : List Byte → Nat
  | [] => 0
  | b :: t => b.toNat + 256 * unle t

/-- `n` bytes of `l` from offset `o`, zero bytes beyond its end. -/
def slice (l : List Byte) (o n : Nat) : List Byte :=
  let s := (l.drop o).take n
  s ++ List.replicate (n - s.length) 0

/-- The little-endian number in `n` bytes of `l` at offset `o` (R6). -/
def fld (l : List Byte) (o n : Nat) : Nat := unle (slice l o n)

/-- Zero bytes. -/
def zeros (n : Nat) : List Byte := List.replicate n 0

/-- ASCII bytes of a text. -/
def ascii (t : String) : List Byte := t.toList.map fun c => BitVec.ofNat 8 c.toNat

/-- `l` with `d` written over it from offset `o`. -/
def patch (l : List Byte) (o : Nat) (d : List Byte) : List Byte :=
  slice l 0 o ++ d ++ l.drop (o + d.length)

/-- Cut or zero-fill to `n` bytes. -/
def fit (n : Nat) (l : List Byte) : List Byte := slice l 0 n

/-- Structure fields of given sizes, in order, as bytes. -/
def pack : List (Nat × Nat) → List Byte
  | [] => []
  | (n, v) :: t => le n v ++ pack t

/-! ## Arithmetic the chapters share -/

/-- A counter that holds at its maximum. -/
def satAdd (mx a n : Nat) : Nat := if a + n ≥ mx then mx else a + n

/-- The quotient rounded up. -/
def cdiv (a b : Nat) : Nat := (a + b - 1) / b

/-- `x` brought into `lo … hi`. -/
def clamp (lo hi x : Nat) : Nat := if x < lo then lo else if x > hi then hi else x

/-- The first number below `n` that passes. -/
def firstBelow (f : Nat → Bool) (n : Nat) : Option Nat := (List.range n).find? f

/-- Distance between two numbers. -/
def absDiff (a b : Nat) : Nat := if a ≤ b then b - a else a - b

/-- Mean of a list of numbers, rounded down (0 of none). -/
def meanOf (l : List Nat) : Nat := if l.length = 0 then 0 else l.foldl (· + ·) 0 / l.length

end Sys2Proof.Machine
end

