-- ==== Sys2Proof/Machine/Regs.lean ====
section
/-!
DEFINITION. The set-up registers of BAR0 and BAR2 as a table: address, field map, access type, reset value and range of
every register field, as the owning chapters' field maps give them (R814 to R829), and the reading and writing of a
register's stored word.
-/
namespace Sys2Proof.Machine

/-- Access types (R7). -/
inductive Access where
  | rw | ro | wo | w1c | rwl | rs
  deriving DecidableEq, Repr

/-- A bound of a field's range: a number, plus another field of the same word where the range depends on one (R822). -/
structure RegLimit where
  base : Int
  dep : Option (Nat × Nat)
  deriving DecidableEq, Repr

/-- The range of a field (R822): none stated, a span, some spans, or multiples within a span. -/
inductive Rng where
  | all
  | span (lo hi : RegLimit)
  | oneOf (l : List (Nat × Nat))
  | multiple (lo hi step : Nat)
  deriving DecidableEq, Repr

/-- A named field: its bits, access type, reset value and range. -/
structure RegField where
  hi : Nat
  lo : Nat
  acc : Access
  rst : Nat
  rng : Rng
  deriving DecidableEq, Repr

/-- A register: name, address of its first copy, distance of its copies and their number, and its named fields from the
highest bits down. Bits that no field names are reserved. -/
structure RegDef where
  name : String
  addr : Nat
  stride : Nat
  count : Nat
  fields : List RegField
  deriving DecidableEq, Repr

/-- The number from which the registers of function `f`'s BAR0 are named. -/
def bar0 (f : Nat) : Nat := 0x1000000 * (f + 1)

/-! ## Addresses

A BAR2 register is named by its BAR2 offset (R816). A register of BAR0 of function `f` is named by
`bar0 f + offset` (R815), so that one sparse table holds them all. `n`, `k`, `c` and `s` index a register's copies. -/

/-- `BOOT_ATTEMPTS`. -/
def Reg.bootAttempts : Nat := 0x000004
/-- `BOOT_STATUS`. -/
def Reg.bootStatus : Nat := 0x000000
/-- `LCS_LEN`. -/
def Reg.lcsLen : Nat := 0x010010
/-- `LCS_CONFIRM`. -/
def Reg.lcsConfirm : Nat := 0x010014
/-- `LCS_REFUSED`. -/
def Reg.lcsRefused : Nat := 0x010018
/-- `LCS_IDCODE`. -/
def Reg.lcsIdcode : Nat := 0x01001C
/-- `LCS_CHALk`. -/
def Reg.lcsChal (i : Nat) : Nat := 0x010020 + 0x4 * i
/-- `LCS_WIN`. -/
def Reg.lcsWin (i : Nat) : Nat := 0x011000 + 0x4 * i
/-- `LCS_CTRL`. -/
def Reg.lcsCtrl : Nat := 0x010000
/-- `LCS_STATUS`. -/
def Reg.lcsStatus : Nat := 0x010004
/-- `LCS_CMD`. -/
def Reg.lcsCmd : Nat := 0x010008
/-- `LCS_RESULT`. -/
def Reg.lcsResult : Nat := 0x01000C
/-- `LCS_SNAP`. -/
def Reg.lcsSnap : Nat := 0x010040
/-- `PWM_SHED_LO`. -/
def Reg.pwmShedLo : Nat := 0x020020
/-- `PWM_SHED_HI`. -/
def Reg.pwmShedHi : Nat := 0x020024
/-- `PWM_VLATE_LO`. -/
def Reg.pwmVlateLo : Nat := 0x020028
/-- `PWM_VLATE_HI`. -/
def Reg.pwmVlateHi : Nat := 0x02002C
/-- `PWM_TEMPs`. -/
def Reg.pwmTemp (i : Nat) : Nat := 0x020040 + 0x4 * i
/-- `PWM_LVLCHG_LOn`. -/
def Reg.pwmLvlchgLo (i : Nat) : Nat := 0x020108 + 0x80 * i
/-- `PWM_LVLCHG_HIn`. -/
def Reg.pwmLvlchgHi (i : Nat) : Nat := 0x02010C + 0x80 * i
/-- `PWM_WAKE_LOn`. -/
def Reg.pwmWakeLo (i : Nat) : Nat := 0x020110 + 0x80 * i
/-- `PWM_WAKE_HIn`. -/
def Reg.pwmWakeHi (i : Nat) : Nat := 0x020114 + 0x80 * i
/-- `PWM_THROT_LOn`. -/
def Reg.pwmThrotLo (i : Nat) : Nat := 0x020118 + 0x80 * i
/-- `PWM_THROT_HIn`. -/
def Reg.pwmThrotHi (i : Nat) : Nat := 0x02011C + 0x80 * i
/-- `PWM_CTRL`. -/
def Reg.pwmCtrl : Nat := 0x020000
/-- `PWM_STATUS`. -/
def Reg.pwmStatus : Nat := 0x020004
/-- `PWM_GOV`. -/
def Reg.pwmGov : Nat := 0x020008
/-- `PWM_THERM`. -/
def Reg.pwmTherm : Nat := 0x02000C
/-- `PWM_IDLE`. -/
def Reg.pwmIdle : Nat := 0x020010
/-- `PWM_VREG`. -/
def Reg.pwmVreg : Nat := 0x020014
/-- `PWM_RIND`. -/
def Reg.pwmRind : Nat := 0x020018
/-- `PWM_SNAP`. -/
def Reg.pwmSnap : Nat := 0x02001C
/-- `PWM_SEGCFGn`. -/
def Reg.pwmSegcfg (i : Nat) : Nat := 0x020100 + 0x80 * i
/-- `PWM_SEGSTn`. -/
def Reg.pwmSegst (i : Nat) : Nat := 0x020104 + 0x80 * i
/-- `CAD_PERIOD`. -/
def Reg.cadPeriod : Nat := 0x030008
/-- `CAD_DEF_PERIOD`. -/
def Reg.cadDefPeriod : Nat := 0x03000C
/-- `CAD_TOL`. -/
def Reg.cadTol : Nat := 0x030010
/-- `CAD_HOLD`. -/
def Reg.cadHold : Nat := 0x030014
/-- `CAD_OUT_PERIOD`. -/
def Reg.cadOutPeriod : Nat := 0x030018
/-- `CAD_OUT_WIDTH`. -/
def Reg.cadOutWidth : Nat := 0x03001C
/-- `CAD_INC_POST0`. -/
def Reg.cadIncPost0 : Nat := 0x030028
/-- `CAD_INC_POST1`. -/
def Reg.cadIncPost1 : Nat := 0x030030
/-- `CAD_NOW_LO`. -/
def Reg.cadNowLo : Nat := 0x030038
/-- `CAD_NOW_HI`. -/
def Reg.cadNowHi : Nat := 0x03003C
/-- `CAD_ODO_TOTAL_LO`. -/
def Reg.cadOdoTotalLo : Nat := 0x030040
/-- `CAD_ODO_TOTAL_HI`. -/
def Reg.cadOdoTotalHi : Nat := 0x030044
/-- `CAD_GLITCH`. -/
def Reg.cadGlitch : Nat := 0x03004C
/-- `CAD_PPS_WIN`. -/
def Reg.cadPpsWin (i : Nat) : Nat := 0x030100 + 0x4 * i
/-- `CAD_FENCE_WIN`. -/
def Reg.cadFenceWin (i : Nat) : Nat := 0x030200 + 0x4 * i
/-- `CAD_CTRL`. -/
def Reg.cadCtrl : Nat := 0x030000
/-- `CAD_STATUS`. -/
def Reg.cadStatus : Nat := 0x030004
/-- `CAD_FILT`. -/
def Reg.cadFilt : Nat := 0x030020
/-- `CAD_INC_CFG0`. -/
def Reg.cadIncCfg0 : Nat := 0x030024
/-- `CAD_INC_CFG1`. -/
def Reg.cadIncCfg1 : Nat := 0x03002C
/-- `CAD_SNAP`. -/
def Reg.cadSnap : Nat := 0x030034
/-- `CAD_ODO_LAST`. -/
def Reg.cadOdoLast : Nat := 0x030048
/-- `CAD_PPS_HEAD`. -/
def Reg.cadPpsHead : Nat := 0x030050
/-- `BRC_HU_CAP`. -/
def Reg.brcHuCap : Nat := 0x040014
/-- `BRC_HU_DIV`. -/
def Reg.brcHuDiv : Nat := 0x040018
/-- `BRC_BOARD_W`. -/
def Reg.brcBoardW : Nat := 0x04001C
/-- `BRC_PBRACE`. -/
def Reg.brcPbrace : Nat := 0x040020
/-- `BRC_RATE`. -/
def Reg.brcRate : Nat := 0x040024
/-- `BRC_CEFF`. -/
def Reg.brcCeff : Nat := 0x040028
/-- `BRC_COVER`. -/
def Reg.brcCover : Nat := 0x04002C
/-- `BRC_NEED`. -/
def Reg.brcNeed : Nat := 0x040030
/-- `BRC_AVAIL`. -/
def Reg.brcAvail : Nat := 0x040034
/-- `BRC_ENTRIES_LO`. -/
def Reg.brcEntriesLo : Nat := 0x04003C
/-- `BRC_ENTRIES_HI`. -/
def Reg.brcEntriesHi : Nat := 0x040040
/-- `BRC_RESTART_LO`. -/
def Reg.brcRestartLo : Nat := 0x040044
/-- `BRC_RESTART_HI`. -/
def Reg.brcRestartHi : Nat := 0x040048
/-- `BRC_SHORT`. -/
def Reg.brcShort : Nat := 0x04004C
/-- `BRC_REHEARSE`. -/
def Reg.brcRehearse : Nat := 0x040050
/-- `BRC_CTRL`. -/
def Reg.brcCtrl : Nat := 0x040000
/-- `BRC_STATUS`. -/
def Reg.brcStatus : Nat := 0x040004
/-- `BRC_SYS_THR`. -/
def Reg.brcSysThr : Nat := 0x040008
/-- `BRC_HU_THR`. -/
def Reg.brcHuThr : Nat := 0x04000C
/-- `BRC_FILT`. -/
def Reg.brcFilt : Nat := 0x040010
/-- `BRC_SNAP`. -/
def Reg.brcSnap : Nat := 0x040038
/-- `PTH_KEY`. -/
def Reg.pthKey : Nat := 0x050008
/-- `PTH_WAIT`. -/
def Reg.pthWait : Nat := 0x050014
/-- `PTH_JFREE`. -/
def Reg.pthJfree : Nat := 0x05001C
/-- `PTH_ERASES_LO`. -/
def Reg.pthErasesLo : Nat := 0x050024
/-- `PTH_ERASES_HI`. -/
def Reg.pthErasesHi : Nat := 0x050028
/-- `PTH_JBYTES_LO`. -/
def Reg.pthJbytesLo : Nat := 0x05002C
/-- `PTH_JBYTES_HI`. -/
def Reg.pthJbytesHi : Nat := 0x050030
/-- `PTH_FAIL`. -/
def Reg.pthFail : Nat := 0x050034
/-- `PTH_PGEN`. -/
def Reg.pthPgen : Nat := 0x050038
/-- `PTH_LEN`. -/
def Reg.pthLen : Nat := 0x05003C
/-- `PTH_STAGE_WIN`. -/
def Reg.pthStageWin (i : Nat) : Nat := 0x051000 + 0x4 * i
/-- `PTH_CTRL`. -/
def Reg.pthCtrl : Nat := 0x050000
/-- `PTH_STATUS`. -/
def Reg.pthStatus : Nat := 0x050004
/-- `PTH_CMD`. -/
def Reg.pthCmd : Nat := 0x05000C
/-- `PTH_RESULT`. -/
def Reg.pthResult : Nat := 0x050010
/-- `PTH_JCFG`. -/
def Reg.pthJcfg : Nat := 0x050018
/-- `PTH_SNAP`. -/
def Reg.pthSnap : Nat := 0x050020
/-- `RGE_FN_WIN`. -/
def Reg.rgeFnWin (i : Nat) : Nat := 0x061000 + 0x4 * i
/-- `RGE_CTRL`. -/
def Reg.rgeCtrl : Nat := 0x060000
/-- `RGE_STATUS`. -/
def Reg.rgeStatus : Nat := 0x060004
/-- `RGE_POOL0`. -/
def Reg.rgePool0 : Nat := 0x060008
/-- `RGE_POOL1`. -/
def Reg.rgePool1 : Nat := 0x06000C
/-- `RGE_POOL2`. -/
def Reg.rgePool2 : Nat := 0x060010
/-- `RGE_INFLIGHT`. -/
def Reg.rgeInflight : Nat := 0x060014
/-- `CLS_RD_CAP`. -/
def Reg.clsRdCap : Nat := 0x070008
/-- `CLS_BURST`. -/
def Reg.clsBurst : Nat := 0x07000C
/-- `CLS_SEAL_BUDGETn`. -/
def Reg.clsSealBudget (i : Nat) : Nat := 0x070100 + 0x80 * i
/-- `CLS_SEAL_RESVn`. -/
def Reg.clsSealResv (i : Nat) : Nat := 0x070104 + 0x80 * i
/-- `CLS_STONE_RESn`. -/
def Reg.clsStoneRes (i : Nat) : Nat := 0x07010C + 0x80 * i
/-- `CLS_SEALS_LOn`. -/
def Reg.clsSealsLo (i : Nat) : Nat := 0x070118 + 0x80 * i
/-- `CLS_SEALS_HIn`. -/
def Reg.clsSealsHi (i : Nat) : Nat := 0x07011C + 0x80 * i
/-- `CLS_RECALLS_LOn`. -/
def Reg.clsRecallsLo (i : Nat) : Nat := 0x070120 + 0x80 * i
/-- `CLS_RECALLS_HIn`. -/
def Reg.clsRecallsHi (i : Nat) : Nat := 0x070124 + 0x80 * i
/-- `CLS_EXCESS_LOn`. -/
def Reg.clsExcessLo (i : Nat) : Nat := 0x070128 + 0x80 * i
/-- `CLS_EXCESS_HIn`. -/
def Reg.clsExcessHi (i : Nat) : Nat := 0x07012C + 0x80 * i
/-- `CLS_VOID_LOn`. -/
def Reg.clsVoidLo (i : Nat) : Nat := 0x070130 + 0x80 * i
/-- `CLS_VOID_HIn`. -/
def Reg.clsVoidHi (i : Nat) : Nat := 0x070134 + 0x80 * i
/-- `CLS_OVERRUNn`. -/
def Reg.clsOverrun (i : Nat) : Nat := 0x070138 + 0x80 * i
/-- `CLS_MAX_SEALn`. -/
def Reg.clsMaxSeal (i : Nat) : Nat := 0x07013C + 0x80 * i
/-- `CLS_MAX_RECALLn`. -/
def Reg.clsMaxRecall (i : Nat) : Nat := 0x070140 + 0x80 * i
/-- `CLS_CTRL`. -/
def Reg.clsCtrl : Nat := 0x070000
/-- `CLS_STATUS`. -/
def Reg.clsStatus : Nat := 0x070004
/-- `CLS_WEIGHT`. -/
def Reg.clsWeight : Nat := 0x070010
/-- `CLS_MAINT`. -/
def Reg.clsMaint : Nat := 0x070014
/-- `CLS_RECALLn`. -/
def Reg.clsRecall (i : Nat) : Nat := 0x070108 + 0x80 * i
/-- `CLS_SNAPn`. -/
def Reg.clsSnap (i : Nat) : Nat := 0x070110 + 0x80 * i
/-- `CLS_VOID_CAUSEn`. -/
def Reg.clsVoidCause (i : Nat) : Nat := 0x070114 + 0x80 * i
/-- `DXR_PCk`. -/
def Reg.dxrPc (i : Nat) : Nat := 0x080104 + 0x10 * i
/-- `DXR_EXC_LOk`. -/
def Reg.dxrExcLo (i : Nat) : Nat := 0x080108 + 0x10 * i
/-- `DXR_EXC_HIk`. -/
def Reg.dxrExcHi (i : Nat) : Nat := 0x08010C + 0x10 * i
/-- `DXR_RIND_CORE`. -/
def Reg.dxrRindCore : Nat := 0x080200
/-- `DXR_RIND_PC`. -/
def Reg.dxrRindPc : Nat := 0x080204
/-- `DXR_RIND_EXC_LO`. -/
def Reg.dxrRindExcLo : Nat := 0x080208
/-- `DXR_RIND_EXC_HI`. -/
def Reg.dxrRindExcHi : Nat := 0x08020C
/-- `DXR_CTRL`. -/
def Reg.dxrCtrl : Nat := 0x080000
/-- `DXR_STATUS`. -/
def Reg.dxrStatus : Nat := 0x080004
/-- `DXR_SNAP`. -/
def Reg.dxrSnap : Nat := 0x080008
/-- `DXR_CFG`. -/
def Reg.dxrCfg : Nat := 0x08000C
/-- `DXR_COREk`. -/
def Reg.dxrCore (i : Nat) : Nat := 0x080100 + 0x10 * i
/-- `DSP_ROLEn`. -/
def Reg.dspRole (i : Nat) : Nat := 0x090100 + 0x80 * i
/-- `DSP_GPOOLn`. -/
def Reg.dspGpool (i : Nat) : Nat := 0x090104 + 0x80 * i
/-- `DSP_ITEMSn`. -/
def Reg.dspItems (i : Nat) : Nat := 0x090108 + 0x80 * i
/-- `DSP_DELAYn`. -/
def Reg.dspDelay (i : Nat) : Nat := 0x09010C + 0x80 * i
/-- `DSP_GETS_LOn`. -/
def Reg.dspGetsLo (i : Nat) : Nat := 0x090114 + 0x80 * i
/-- `DSP_GETS_HIn`. -/
def Reg.dspGetsHi (i : Nat) : Nat := 0x090118 + 0x80 * i
/-- `DSP_RUNS_LOn`. -/
def Reg.dspRunsLo (i : Nat) : Nat := 0x09011C + 0x80 * i
/-- `DSP_RUNS_HIn`. -/
def Reg.dspRunsHi (i : Nat) : Nat := 0x090120 + 0x80 * i
/-- `DSP_BUDGET_LOn`. -/
def Reg.dspBudgetLo (i : Nat) : Nat := 0x090124 + 0x80 * i
/-- `DSP_BUDGET_HIn`. -/
def Reg.dspBudgetHi (i : Nat) : Nat := 0x090128 + 0x80 * i
/-- `DSP_SANDBOXn`. -/
def Reg.dspSandbox (i : Nat) : Nat := 0x09012C + 0x80 * i
/-- `DSP_CTRL`. -/
def Reg.dspCtrl : Nat := 0x090000
/-- `DSP_STATUS`. -/
def Reg.dspStatus : Nat := 0x090004
/-- `DSP_GWIN`. -/
def Reg.dspGwin : Nat := 0x090008
/-- `DSP_FNQ`. -/
def Reg.dspFnq : Nat := 0x09000C
/-- `DSP_SNAPn`. -/
def Reg.dspSnap (i : Nat) : Nat := 0x090110 + 0x80 * i
/-- `DMV_HALT_LOn`. -/
def Reg.dmvHaltLo (i : Nat) : Nat := 0x0A0100 + 0x80 * i
/-- `DMV_HALT_HIn`. -/
def Reg.dmvHaltHi (i : Nat) : Nat := 0x0A0104 + 0x80 * i
/-- `DMV_RD_LOn`. -/
def Reg.dmvRdLo (i : Nat) : Nat := 0x0A010C + 0x80 * i
/-- `DMV_RD_HIn`. -/
def Reg.dmvRdHi (i : Nat) : Nat := 0x0A0110 + 0x80 * i
/-- `DMV_WR_LOn`. -/
def Reg.dmvWrLo (i : Nat) : Nat := 0x0A0114 + 0x80 * i
/-- `DMV_WR_HIn`. -/
def Reg.dmvWrHi (i : Nat) : Nat := 0x0A0118 + 0x80 * i
/-- `DMV_RETRYn`. -/
def Reg.dmvRetry (i : Nat) : Nat := 0x0A011C + 0x80 * i
/-- `DMV_CTRL`. -/
def Reg.dmvCtrl : Nat := 0x0A0000
/-- `DMV_STATUS`. -/
def Reg.dmvStatus : Nat := 0x0A0004
/-- `DMV_CFG`. -/
def Reg.dmvCfg : Nat := 0x0A0008
/-- `DMV_SNAPn`. -/
def Reg.dmvSnap (i : Nat) : Nat := 0x0A0108 + 0x80 * i
/-- `DRM_LAT0`. -/
def Reg.drmLat0 : Nat := 0x0B0040
/-- `DRM_LAT1`. -/
def Reg.drmLat1 : Nat := 0x0B0044
/-- `DRM_LAT2`. -/
def Reg.drmLat2 : Nat := 0x0B0048
/-- `DRM_LAT3`. -/
def Reg.drmLat3 : Nat := 0x0B004C
/-- `DRM_LAT4`. -/
def Reg.drmLat4 : Nat := 0x0B0050
/-- `DRM_LAT5`. -/
def Reg.drmLat5 : Nat := 0x0B0054
/-- `DRM_LAT6`. -/
def Reg.drmLat6 : Nat := 0x0B0058
/-- `DRM_STONEn`. -/
def Reg.drmStone (i : Nat) : Nat := 0x0B0104 + 0x80 * i
/-- `DRM_SHAREDn`. -/
def Reg.drmShared (i : Nat) : Nat := 0x0B0108 + 0x80 * i
/-- `DRM_SPAREn`. -/
def Reg.drmSpare (i : Nat) : Nat := 0x0B0110 + 0x80 * i
/-- `DRM_RD_LOn`. -/
def Reg.drmRdLo (i : Nat) : Nat := 0x0B0114 + 0x80 * i
/-- `DRM_RD_HIn`. -/
def Reg.drmRdHi (i : Nat) : Nat := 0x0B0118 + 0x80 * i
/-- `DRM_WR_LOn`. -/
def Reg.drmWrLo (i : Nat) : Nat := 0x0B011C + 0x80 * i
/-- `DRM_WR_HIn`. -/
def Reg.drmWrHi (i : Nat) : Nat := 0x0B0120 + 0x80 * i
/-- `DRM_NBR_LOn`. -/
def Reg.drmNbrLo (i : Nat) : Nat := 0x0B0124 + 0x80 * i
/-- `DRM_NBR_HIn`. -/
def Reg.drmNbrHi (i : Nat) : Nat := 0x0B0128 + 0x80 * i
/-- `DRM_RFM_LOn`. -/
def Reg.drmRfmLo (i : Nat) : Nat := 0x0B012C + 0x80 * i
/-- `DRM_RFM_HIn`. -/
def Reg.drmRfmHi (i : Nat) : Nat := 0x0B0130 + 0x80 * i
/-- `DRM_CTRL`. -/
def Reg.drmCtrl : Nat := 0x0B0000
/-- `DRM_STATUS`. -/
def Reg.drmStatus : Nat := 0x0B0004
/-- `DRM_SCHED`. -/
def Reg.drmSched : Nat := 0x0B0008
/-- `DRM_WMARK`. -/
def Reg.drmWmark : Nat := 0x0B000C
/-- `DRM_RAT`. -/
def Reg.drmRat : Nat := 0x0B0010
/-- `DRM_TRAIN`. -/
def Reg.drmTrain : Nat := 0x0B0014
/-- `DRM_ILV`. -/
def Reg.drmIlv : Nat := 0x0B0018
/-- `DRM_CFGn`. -/
def Reg.drmCfg (i : Nat) : Nat := 0x0B0100 + 0x80 * i
/-- `DRM_SNAPn`. -/
def Reg.drmSnap (i : Nat) : Nat := 0x0B010C + 0x80 * i
/-- `FLW_WHEELn`. -/
def Reg.flwWheel (i : Nat) : Nat := 0x0C0104 + 0x80 * i
/-- `FLW_SPACEn`. -/
def Reg.flwSpace (i : Nat) : Nat := 0x0C0108 + 0x80 * i
/-- `FLW_WINDOWS_LOn`. -/
def Reg.flwWindowsLo (i : Nat) : Nat := 0x0C0110 + 0x80 * i
/-- `FLW_WINDOWS_HIn`. -/
def Reg.flwWindowsHi (i : Nat) : Nat := 0x0C0114 + 0x80 * i
/-- `FLW_SUSPEND_LOn`. -/
def Reg.flwSuspendLo (i : Nat) : Nat := 0x0C0118 + 0x80 * i
/-- `FLW_SUSPEND_HIn`. -/
def Reg.flwSuspendHi (i : Nat) : Nat := 0x0C011C + 0x80 * i
/-- `FLW_AROUND_LOn`. -/
def Reg.flwAroundLo (i : Nat) : Nat := 0x0C0120 + 0x80 * i
/-- `FLW_AROUND_HIn`. -/
def Reg.flwAroundHi (i : Nat) : Nat := 0x0C0124 + 0x80 * i
/-- `FLW_GUARD_LOn`. -/
def Reg.flwGuardLo (i : Nat) : Nat := 0x0C0128 + 0x80 * i
/-- `FLW_GUARD_HIn`. -/
def Reg.flwGuardHi (i : Nat) : Nat := 0x0C012C + 0x80 * i
/-- `FLW_LATEn`. -/
def Reg.flwLate (i : Nat) : Nat := 0x0C0130 + 0x80 * i
/-- `FLW_REERASEn`. -/
def Reg.flwReerase (i : Nat) : Nat := 0x0C0134 + 0x80 * i
/-- `FLW_CHERRc`. -/
def Reg.flwCherr (i : Nat) : Nat := 0x0C0404 + 0x10 * i
/-- `FLW_CTRL`. -/
def Reg.flwCtrl : Nat := 0x0C0000
/-- `FLW_STATUS`. -/
def Reg.flwStatus : Nat := 0x0C0004
/-- `FLW_TRAIN`. -/
def Reg.flwTrain : Nat := 0x0C0008
/-- `FLW_BLANK`. -/
def Reg.flwBlank : Nat := 0x0C000C
/-- `FLW_MARGIN`. -/
def Reg.flwMargin : Nat := 0x0C0010
/-- `FLW_SEGCFGn`. -/
def Reg.flwSegcfg (i : Nat) : Nat := 0x0C0100 + 0x80 * i
/-- `FLW_SNAPn`. -/
def Reg.flwSnap (i : Nat) : Nat := 0x0C010C + 0x80 * i
/-- `FLW_CHSTATc`. -/
def Reg.flwChstat (i : Nat) : Nat := 0x0C0400 + 0x10 * i
/-- `MED_MAPn`. -/
def Reg.medMap (i : Nat) : Nat := 0x0D0100 + 0x80 * i
/-- `MED_FREEn`. -/
def Reg.medFree (i : Nat) : Nat := 0x0D0104 + 0x80 * i
/-- `MED_SPAREn`. -/
def Reg.medSpare (i : Nat) : Nat := 0x0D0108 + 0x80 * i
/-- `MED_GC_LOn`. -/
def Reg.medGcLo (i : Nat) : Nat := 0x0D0110 + 0x80 * i
/-- `MED_GC_HIn`. -/
def Reg.medGcHi (i : Nat) : Nat := 0x0D0114 + 0x80 * i
/-- `MED_PATROL_LOn`. -/
def Reg.medPatrolLo (i : Nat) : Nat := 0x0D0118 + 0x80 * i
/-- `MED_PATROL_HIn`. -/
def Reg.medPatrolHi (i : Nat) : Nat := 0x0D011C + 0x80 * i
/-- `MED_RECLAIM_LOn`. -/
def Reg.medReclaimLo (i : Nat) : Nat := 0x0D0120 + 0x80 * i
/-- `MED_RECLAIM_HIn`. -/
def Reg.medReclaimHi (i : Nat) : Nat := 0x0D0124 + 0x80 * i
/-- `MED_MOVEFAILn`. -/
def Reg.medMovefail (i : Nat) : Nat := 0x0D0128 + 0x80 * i
/-- `MED_CTRL`. -/
def Reg.medCtrl : Nat := 0x0D0000
/-- `MED_STATUS`. -/
def Reg.medStatus : Nat := 0x0D0004
/-- `MED_OP`. -/
def Reg.medOp : Nat := 0x0D0008
/-- `MED_SLC`. -/
def Reg.medSlc : Nat := 0x0D000C
/-- `MED_GC`. -/
def Reg.medGc : Nat := 0x0D0010
/-- `MED_WEAR`. -/
def Reg.medWear : Nat := 0x0D0014
/-- `MED_PATROL`. -/
def Reg.medPatrol : Nat := 0x0D0018
/-- `MED_RET`. -/
def Reg.medRet : Nat := 0x0D001C
/-- `MED_LOOP`. -/
def Reg.medLoop : Nat := 0x0D0020
/-- `MED_HARVEST`. -/
def Reg.medHarvest : Nat := 0x0D0024
/-- `MED_CKPT`. -/
def Reg.medCkpt : Nat := 0x0D0028
/-- `MED_SNAPn`. -/
def Reg.medSnap (i : Nat) : Nat := 0x0D010C + 0x80 * i
/-- `INT_NOTIFY_LO`. -/
def Reg.intNotifyLo : Nat := 0x0E0020
/-- `INT_NOTIFY_HI`. -/
def Reg.intNotifyHi : Nat := 0x0E0024
/-- `INT_FUSE_FREE`. -/
def Reg.intFuseFree : Nat := 0x0E0028
/-- `INT_TALLYk`. -/
def Reg.intTally (i : Nat) : Nat := 0x0E0100 + 0x4 * i
/-- `INT_FUSE_WIN`. -/
def Reg.intFuseWin (i : Nat) : Nat := 0x0E1000 + 0x4 * i
/-- `INT_CTRL`. -/
def Reg.intCtrl : Nat := 0x0E0000
/-- `INT_STATUS`. -/
def Reg.intStatus : Nat := 0x0E0004
/-- `INT_INJ`. -/
def Reg.intInj : Nat := 0x0E0008
/-- `INT_BYPASS`. -/
def Reg.intBypass : Nat := 0x0E000C
/-- `INT_NOTICE`. -/
def Reg.intNotice : Nat := 0x0E0010
/-- `INT_SCRUB`. -/
def Reg.intScrub : Nat := 0x0E0014
/-- `INT_REPAIR`. -/
def Reg.intRepair : Nat := 0x0E0018
/-- `INT_SNAP`. -/
def Reg.intSnap : Nat := 0x0E001C
/-- `IDX_SNAP_MAX`. -/
def Reg.idxSnapMax : Nat := 0x0F0008
/-- `IDX_REGIONn`. -/
def Reg.idxRegion (i : Nat) : Nat := 0x0F0100 + 0x80 * i
/-- `IDX_USEDn`. -/
def Reg.idxUsed (i : Nat) : Nat := 0x0F0104 + 0x80 * i
/-- `IDX_RECORDS_LOn`. -/
def Reg.idxRecordsLo (i : Nat) : Nat := 0x0F010C + 0x80 * i
/-- `IDX_RECORDS_HIn`. -/
def Reg.idxRecordsHi (i : Nat) : Nat := 0x0F0110 + 0x80 * i
/-- `IDX_UNPARSED_LOn`. -/
def Reg.idxUnparsedLo (i : Nat) : Nat := 0x0F0114 + 0x80 * i
/-- `IDX_UNPARSED_HIn`. -/
def Reg.idxUnparsedHi (i : Nat) : Nat := 0x0F0118 + 0x80 * i
/-- `IDX_STAY_LOn`. -/
def Reg.idxStayLo (i : Nat) : Nat := 0x0F011C + 0x80 * i
/-- `IDX_STAY_HIn`. -/
def Reg.idxStayHi (i : Nat) : Nat := 0x0F0120 + 0x80 * i
/-- `IDX_CTRL`. -/
def Reg.idxCtrl : Nat := 0x0F0000
/-- `IDX_STATUS`. -/
def Reg.idxStatus : Nat := 0x0F0004
/-- `IDX_SNAPn`. -/
def Reg.idxSnap (i : Nat) : Nat := 0x0F0108 + 0x80 * i
/-- `ZST_QUEUEn`. -/
def Reg.zstQueue (i : Nat) : Nat := 0x100100 + 0x80 * i
/-- `ZST_CIN_LOn`. -/
def Reg.zstCinLo (i : Nat) : Nat := 0x100108 + 0x80 * i
/-- `ZST_CIN_HIn`. -/
def Reg.zstCinHi (i : Nat) : Nat := 0x10010C + 0x80 * i
/-- `ZST_COUT_LOn`. -/
def Reg.zstCoutLo (i : Nat) : Nat := 0x100110 + 0x80 * i
/-- `ZST_COUT_HIn`. -/
def Reg.zstCoutHi (i : Nat) : Nat := 0x100114 + 0x80 * i
/-- `ZST_DOUT_LOn`. -/
def Reg.zstDoutLo (i : Nat) : Nat := 0x100118 + 0x80 * i
/-- `ZST_DOUT_HIn`. -/
def Reg.zstDoutHi (i : Nat) : Nat := 0x10011C + 0x80 * i
/-- `ZST_RAWBLK_LOn`. -/
def Reg.zstRawblkLo (i : Nat) : Nat := 0x100120 + 0x80 * i
/-- `ZST_RAWBLK_HIn`. -/
def Reg.zstRawblkHi (i : Nat) : Nat := 0x100124 + 0x80 * i
/-- `ZST_BYPASS_LOn`. -/
def Reg.zstBypassLo (i : Nat) : Nat := 0x100128 + 0x80 * i
/-- `ZST_BYPASS_HIn`. -/
def Reg.zstBypassHi (i : Nat) : Nat := 0x10012C + 0x80 * i
/-- `ZST_FORMATn`. -/
def Reg.zstFormat (i : Nat) : Nat := 0x100130 + 0x80 * i
/-- `ZST_CHECKn`. -/
def Reg.zstCheck (i : Nat) : Nat := 0x100134 + 0x80 * i
/-- `ZST_CTRL`. -/
def Reg.zstCtrl : Nat := 0x100000
/-- `ZST_STATUS`. -/
def Reg.zstStatus : Nat := 0x100004
/-- `ZST_CFG`. -/
def Reg.zstCfg : Nat := 0x100008
/-- `ZST_SNAPn`. -/
def Reg.zstSnap (i : Nat) : Nat := 0x100104 + 0x80 * i
/-- `CRY_ALARMS`. -/
def Reg.cryAlarms : Nat := 0x110010
/-- `CRY_RNGFAIL`. -/
def Reg.cryRngfail : Nat := 0x110014
/-- `CRY_CTXUSEn`. -/
def Reg.cryCtxuse (i : Nat) : Nat := 0x110100 + 0x80 * i
/-- `CRY_HOLDn`. -/
def Reg.cryHold (i : Nat) : Nat := 0x110104 + 0x80 * i
/-- `CRY_LANESn`. -/
def Reg.cryLanes (i : Nat) : Nat := 0x110108 + 0x80 * i
/-- `CRY_CIPHER_LOn`. -/
def Reg.cryCipherLo (i : Nat) : Nat := 0x11010C + 0x80 * i
/-- `CRY_CIPHER_HIn`. -/
def Reg.cryCipherHi (i : Nat) : Nat := 0x110110 + 0x80 * i
/-- `CRY_DIGEST_LOn`. -/
def Reg.cryDigestLo (i : Nat) : Nat := 0x110114 + 0x80 * i
/-- `CRY_DIGEST_HIn`. -/
def Reg.cryDigestHi (i : Nat) : Nat := 0x110118 + 0x80 * i
/-- `CRY_BUSY_LOn`. -/
def Reg.cryBusyLo (i : Nat) : Nat := 0x11011C + 0x80 * i
/-- `CRY_BUSY_HIn`. -/
def Reg.cryBusyHi (i : Nat) : Nat := 0x110120 + 0x80 * i
/-- `CRY_GCMFAIL_LOn`. -/
def Reg.cryGcmfailLo (i : Nat) : Nat := 0x110124 + 0x80 * i
/-- `CRY_GCMFAIL_HIn`. -/
def Reg.cryGcmfailHi (i : Nat) : Nat := 0x110128 + 0x80 * i
/-- `CRY_CTRL`. -/
def Reg.cryCtrl : Nat := 0x110000
/-- `CRY_STATUS`. -/
def Reg.cryStatus : Nat := 0x110004
/-- `CRY_CTXQ`. -/
def Reg.cryCtxq : Nat := 0x110008
/-- `CRY_SNAP`. -/
def Reg.crySnap : Nat := 0x11000C
/-- `FN_DB_LO` of function f. -/
def Reg.fnDbLo (f : Nat) : Nat := bar0 f + 0x010
/-- `FN_DB_HI` of function f. -/
def Reg.fnDbHi (f : Nat) : Nat := bar0 f + 0x014
/-- `FN_RING_BASE_LO` of function f. -/
def Reg.fnRingBaseLo (f : Nat) : Nat := bar0 f + 0x020
/-- `FN_RING_BASE_HI` of function f. -/
def Reg.fnRingBaseHi (f : Nat) : Nat := bar0 f + 0x024
/-- `FN_PIP_OK_LO` of function f. -/
def Reg.fnPipOkLo (f : Nat) : Nat := bar0 f + 0x044
/-- `FN_PIP_OK_HI` of function f. -/
def Reg.fnPipOkHi (f : Nat) : Nat := bar0 f + 0x048
/-- `FN_PIP_DUP_LO` of function f. -/
def Reg.fnPipDupLo (f : Nat) : Nat := bar0 f + 0x04C
/-- `FN_PIP_DUP_HI` of function f. -/
def Reg.fnPipDupHi (f : Nat) : Nat := bar0 f + 0x050
/-- `FN_SWEEP_FOUND_LO` of function f. -/
def Reg.fnSweepFoundLo (f : Nat) : Nat := bar0 f + 0x054
/-- `FN_SWEEP_FOUND_HI` of function f. -/
def Reg.fnSweepFoundHi (f : Nat) : Nat := bar0 f + 0x058
/-- `FN_PIP_BAD` of function f. -/
def Reg.fnPipBad (f : Nat) : Nat := bar0 f + 0x05C
/-- `FN_NOTICE_DROP` of function f. -/
def Reg.fnNoticeDrop (f : Nat) : Nat := bar0 f + 0x060
/-- `FN_STATUS` of function f. -/
def Reg.fnStatus (f : Nat) : Nat := bar0 f + 0x000
/-- `FN_QUOTA0` of function f. -/
def Reg.fnQuota0 (f : Nat) : Nat := bar0 f + 0x004
/-- `FN_QUOTA1` of function f. -/
def Reg.fnQuota1 (f : Nat) : Nat := bar0 f + 0x008
/-- `FN_SLOTS` of function f. -/
def Reg.fnSlots (f : Nat) : Nat := bar0 f + 0x00C
/-- `FN_RING_CFG` of function f. -/
def Reg.fnRingCfg (f : Nat) : Nat := bar0 f + 0x028
/-- `FN_RING_LINK` of function f. -/
def Reg.fnRingLink (f : Nat) : Nat := bar0 f + 0x02C
/-- `FN_RING_VEC` of function f. -/
def Reg.fnRingVec (f : Nat) : Nat := bar0 f + 0x030
/-- `FN_RING_COAL` of function f. -/
def Reg.fnRingCoal (f : Nat) : Nat := bar0 f + 0x034
/-- `FN_RING_CMD` of function f. -/
def Reg.fnRingCmd (f : Nat) : Nat := bar0 f + 0x038
/-- `FN_RING_RESULT` of function f. -/
def Reg.fnRingResult (f : Nat) : Nat := bar0 f + 0x03C
/-- `FN_SNAP` of function f. -/
def Reg.fnSnap (f : Nat) : Nat := bar0 f + 0x040
/-- `FNK_EXPKEYk` of function f. -/
def Reg.fnkExpkey (f i : Nat) : Nat := bar0 f + 0x100 + 0x4 * i
/-- `FNK_CTRL` of function f. -/
def Reg.fnkCtrl (f : Nat) : Nat := bar0 f + 0x120
/-- `FNK_STATUS` of function f. -/
def Reg.fnkStatus (f : Nat) : Nat := bar0 f + 0x124
/-- `DSPF_HWk_BASE_LO` of function f. -/
def Reg.dspfHwBaseLo (f i : Nat) : Nat := bar0 f + 0x200 + 0x10 * i
/-- `DSPF_HWk_BASE_HI` of function f. -/
def Reg.dspfHwBaseHi (f i : Nat) : Nat := bar0 f + 0x204 + 0x10 * i
/-- `DSPF_HWk_LEN` of function f. -/
def Reg.dspfHwLen (f i : Nat) : Nat := bar0 f + 0x208 + 0x10 * i
/-- `DSPF_HWk` of function f. -/
def Reg.dspfHw (f i : Nat) : Nat := bar0 f + 0x20C + 0x10 * i
/-- `DSPF_STATUS` of function f. -/
def Reg.dspfStatus (f : Nat) : Nat := bar0 f + 0x240

/-! ## Field maps -/

/-- Field maps of block BOOT. -/
def regsBoot : List RegDef :=
  [ ⟨"BOOT_ATTEMPTS", 0x4, 0x0, 1, [⟨1, 0, .ro, 0, .all⟩]⟩,
    ⟨"BOOT_STATUS", 0x0, 0x0, 1, [⟨31, 31, .w1c, 0, .all⟩, ⟨15, 12, .ro, 0, .all⟩, ⟨10, 8, .ro, 0, .all⟩, ⟨7, 4, .ro, 0, .all⟩, ⟨1, 1, .ro, 0, .all⟩, ⟨0, 0, .ro, 0, .all⟩]⟩ ]

/-- Field maps of block LCS. -/
def regsLcs : List RegDef :=
  [ ⟨"LCS_LEN", 0x10010, 0x0, 1, [⟨12, 0, .rw, 0, .span ⟨0, none⟩ ⟨4096, none⟩⟩]⟩,
    ⟨"LCS_CONFIRM", 0x10014, 0x0, 1, [⟨31, 0, .wo, 0, .all⟩]⟩,
    ⟨"LCS_REFUSED", 0x10018, 0x0, 1, [⟨31, 0, .ro, 0, .all⟩]⟩,
    ⟨"LCS_IDCODE", 0x1001C, 0x0, 1, [⟨31, 0, .ro, 320955723, .all⟩]⟩,
    ⟨"LCS_CHALk", 0x10020, 0x4, 8, [⟨31, 0, .ro, 0, .all⟩]⟩,
    ⟨"LCS_WIN", 0x11000, 0x4, 1024, [⟨31, 0, .rw, 0, .all⟩]⟩,
    ⟨"LCS_CTRL", 0x10000, 0x0, 1, [⟨31, 31, .rw, 0, .all⟩]⟩,
    ⟨"LCS_STATUS", 0x10004, 0x0, 1, [⟨31, 31, .w1c, 0, .all⟩, ⟨9, 9, .ro, 0, .all⟩, ⟨8, 8, .ro, 0, .all⟩, ⟨7, 6, .ro, 0, .all⟩, ⟨5, 5, .ro, 0, .all⟩, ⟨4, 4, .ro, 0, .all⟩, ⟨2, 0, .ro, 0, .all⟩]⟩,
    ⟨"LCS_CMD", 0x10008, 0x0, 1, [⟨7, 0, .wo, 0, .all⟩]⟩,
    ⟨"LCS_RESULT", 0x1000C, 0x0, 1, [⟨31, 31, .ro, 0, .all⟩, ⟨7, 0, .ro, 0, .all⟩]⟩,
    ⟨"LCS_SNAP", 0x10040, 0x0, 1, [⟨0, 0, .wo, 0, .all⟩]⟩ ]

/-- Field maps of block PWM. -/
def regsPwm : List RegDef :=
  [ ⟨"PWM_SHED_LO", 0x20020, 0x0, 1, [⟨31, 0, .ro, 0, .all⟩]⟩,
    ⟨"PWM_SHED_HI", 0x20024, 0x0, 1, [⟨15, 0, .ro, 0, .all⟩]⟩,
    ⟨"PWM_VLATE_LO", 0x20028, 0x0, 1, [⟨31, 0, .ro, 0, .all⟩]⟩,
    ⟨"PWM_VLATE_HI", 0x2002C, 0x0, 1, [⟨15, 0, .ro, 0, .all⟩]⟩,
    ⟨"PWM_TEMPs", 0x20040, 0x4, 5, [⟨15, 0, .ro, 0, .all⟩]⟩,
    ⟨"PWM_LVLCHG_LOn", 0x20108, 0x80, 4, [⟨31, 0, .ro, 0, .all⟩]⟩,
    ⟨"PWM_LVLCHG_HIn", 0x2010C, 0x80, 4, [⟨15, 0, .ro, 0, .all⟩]⟩,
    ⟨"PWM_WAKE_LOn", 0x20110, 0x80, 4, [⟨31, 0, .ro, 0, .all⟩]⟩,
    ⟨"PWM_WAKE_HIn", 0x20114, 0x80, 4, [⟨15, 0, .ro, 0, .all⟩]⟩,
    ⟨"PWM_THROT_LOn", 0x20118, 0x80, 4, [⟨31, 0, .ro, 0, .all⟩]⟩,
    ⟨"PWM_THROT_HIn", 0x2011C, 0x80, 4, [⟨15, 0, .ro, 0, .all⟩]⟩,
    ⟨"PWM_CTRL", 0x20000, 0x0, 1, [⟨31, 31, .rw, 0, .all⟩]⟩,
    ⟨"PWM_STATUS", 0x20004, 0x0, 1, [⟨31, 31, .w1c, 0, .all⟩, ⟨30, 30, .w1c, 0, .all⟩, ⟨9, 9, .ro, 0, .all⟩, ⟨8, 8, .ro, 0, .all⟩, ⟨7, 4, .ro, 0, .all⟩, ⟨3, 0, .ro, 0, .all⟩]⟩,
    ⟨"PWM_GOV", 0x20008, 0x0, 1, [⟨23, 16, .rwl, 1, .span ⟨1, none⟩ ⟨100, none⟩⟩, ⟨15, 8, .rwl, 80, .span ⟨10, some (7, 0)⟩ ⟨100, none⟩⟩, ⟨7, 0, .rwl, 30, .span ⟨0, none⟩ ⟨(-10), some (15, 8)⟩⟩]⟩,
    ⟨"PWM_THERM", 0x2000C, 0x0, 1, [⟨23, 16, .rwl, 24, .span ⟨0, none⟩ ⟨64, none⟩⟩, ⟨15, 8, .rwl, 5, .span ⟨2, none⟩ ⟨20, none⟩⟩, ⟨7, 0, .rwl, 100, .span ⟨80, none⟩ ⟨110, none⟩⟩]⟩,
    ⟨"PWM_IDLE", 0x20010, 0x0, 1, [⟨31, 24, .rwl, 60, .span ⟨1, none⟩ ⟨255, none⟩⟩, ⟨23, 16, .rwl, 10, .span ⟨1, none⟩ ⟨255, none⟩⟩, ⟨15, 0, .rwl, 50, .span ⟨10, none⟩ ⟨10000, none⟩⟩]⟩,
    ⟨"PWM_VREG", 0x20014, 0x0, 1, [⟨7, 0, .rwl, 100, .span ⟨20, none⟩ ⟨255, none⟩⟩]⟩,
    ⟨"PWM_RIND", 0x20018, 0x0, 1, [⟨5, 4, .ro, 0, .all⟩, ⟨1, 0, .rwl, 3, .all⟩]⟩,
    ⟨"PWM_SNAP", 0x2001C, 0x0, 1, [⟨0, 0, .wo, 0, .all⟩]⟩,
    ⟨"PWM_SEGCFGn", 0x20100, 0x80, 4, [⟨5, 4, .rwl, 3, .all⟩, ⟨1, 0, .rwl, 0, .all⟩]⟩,
    ⟨"PWM_SEGSTn", 0x20104, 0x80, 4, [⟨19, 19, .ro, 0, .all⟩, ⟨18, 18, .ro, 0, .all⟩, ⟨17, 17, .ro, 0, .all⟩, ⟨16, 16, .ro, 0, .all⟩, ⟨5, 4, .ro, 0, .all⟩, ⟨1, 0, .ro, 2, .all⟩]⟩ ]

/-- Field maps of block CAD. -/
def regsCad : List RegDef :=
  [ ⟨"CAD_PERIOD", 0x30008, 0x0, 1, [⟨31, 0, .ro, 40000000, .all⟩]⟩,
    ⟨"CAD_DEF_PERIOD", 0x3000C, 0x0, 1, [⟨31, 0, .rwl, 40000000, .span ⟨4166667, none⟩ ⟨100000000, none⟩⟩]⟩,
    ⟨"CAD_TOL", 0x30010, 0x0, 1, [⟨31, 0, .rwl, 1000, .span ⟨100, none⟩ ⟨10000, none⟩⟩]⟩,
    ⟨"CAD_HOLD", 0x30014, 0x0, 1, [⟨31, 0, .rwl, 1500, .span ⟨0, none⟩ ⟨65535, none⟩⟩]⟩,
    ⟨"CAD_OUT_PERIOD", 0x30018, 0x0, 1, [⟨31, 0, .rwl, 40000000, .span ⟨4166667, none⟩ ⟨100000000, none⟩⟩]⟩,
    ⟨"CAD_OUT_WIDTH", 0x3001C, 0x0, 1, [⟨31, 0, .rw, 100, .span ⟨1, none⟩ ⟨1000, none⟩⟩]⟩,
    ⟨"CAD_INC_POST0", 0x30028, 0x0, 1, [⟨17, 0, .rwl, 0, .all⟩]⟩,
    ⟨"CAD_INC_POST1", 0x30030, 0x0, 1, [⟨17, 0, .rwl, 0, .all⟩]⟩,
    ⟨"CAD_NOW_LO", 0x30038, 0x0, 1, [⟨31, 0, .ro, 0, .all⟩]⟩,
    ⟨"CAD_NOW_HI", 0x3003C, 0x0, 1, [⟨31, 0, .ro, 0, .all⟩]⟩,
    ⟨"CAD_ODO_TOTAL_LO", 0x30040, 0x0, 1, [⟨31, 0, .ro, 0, .all⟩]⟩,
    ⟨"CAD_ODO_TOTAL_HI", 0x30044, 0x0, 1, [⟨15, 0, .ro, 0, .all⟩]⟩,
    ⟨"CAD_GLITCH", 0x3004C, 0x0, 1, [⟨31, 0, .ro, 0, .all⟩]⟩,
    ⟨"CAD_PPS_WIN", 0x30100, 0x4, 64, [⟨31, 0, .ro, 0, .all⟩]⟩,
    ⟨"CAD_FENCE_WIN", 0x30200, 0x4, 136, [⟨31, 0, .ro, 0, .all⟩]⟩,
    ⟨"CAD_CTRL", 0x30000, 0x0, 1, [⟨31, 31, .rw, 0, .all⟩, ⟨10, 9, .rwl, 0, .all⟩, ⟨8, 8, .rwl, 0, .all⟩, ⟨7, 7, .rwl, 0, .all⟩, ⟨6, 6, .rwl, 0, .all⟩, ⟨1, 0, .rwl, 0, .all⟩]⟩,
    ⟨"CAD_STATUS", 0x30004, 0x0, 1, [⟨31, 31, .w1c, 0, .all⟩, ⟨8, 8, .w1c, 0, .all⟩, ⟨7, 7, .ro, 0, .all⟩, ⟨6, 6, .ro, 0, .all⟩, ⟨5, 5, .ro, 0, .all⟩, ⟨4, 3, .ro, 2, .all⟩, ⟨2, 0, .ro, 0, .all⟩]⟩,
    ⟨"CAD_FILT", 0x30020, 0x0, 1, [⟨23, 16, .rwl, 10, .span ⟨5, none⟩ ⟨20, none⟩⟩, ⟨9, 0, .rwl, 20, .span ⟨1, none⟩ ⟨1000, none⟩⟩]⟩,
    ⟨"CAD_INC_CFG0", 0x30024, 0x0, 1, [⟨31, 24, .rwl, 0, .all⟩, ⟨14, 0, .rwl, 0, .all⟩]⟩,
    ⟨"CAD_INC_CFG1", 0x3002C, 0x0, 1, [⟨31, 24, .rwl, 0, .all⟩, ⟨14, 0, .rwl, 0, .all⟩]⟩,
    ⟨"CAD_SNAP", 0x30034, 0x0, 1, [⟨0, 0, .wo, 0, .all⟩]⟩,
    ⟨"CAD_ODO_LAST", 0x30048, 0x0, 1, [⟨31, 16, .ro, 0, .all⟩, ⟨15, 0, .ro, 0, .all⟩]⟩,
    ⟨"CAD_PPS_HEAD", 0x30050, 0x0, 1, [⟨19, 16, .ro, 0, .all⟩, ⟨15, 0, .ro, 0, .all⟩]⟩ ]

/-- Field maps of block BRC. -/
def regsBrc : List RegDef :=
  [ ⟨"BRC_HU_CAP", 0x40014, 0x0, 1, [⟨31, 0, .rwl, 0, .span ⟨0, none⟩ ⟨100000, none⟩⟩]⟩,
    ⟨"BRC_HU_DIV", 0x40018, 0x0, 1, [⟨31, 0, .rwl, 12000, .span ⟨1000, none⟩ ⟨100000, none⟩⟩]⟩,
    ⟨"BRC_BOARD_W", 0x4001C, 0x0, 1, [⟨31, 0, .rwl, 0, .span ⟨0, none⟩ ⟨500000, none⟩⟩]⟩,
    ⟨"BRC_PBRACE", 0x40020, 0x0, 1, [⟨31, 0, .ro, 0, .all⟩]⟩,
    ⟨"BRC_RATE", 0x40024, 0x0, 1, [⟨31, 0, .ro, 0, .all⟩]⟩,
    ⟨"BRC_CEFF", 0x40028, 0x0, 1, [⟨31, 0, .ro, 0, .all⟩]⟩,
    ⟨"BRC_COVER", 0x4002C, 0x0, 1, [⟨31, 0, .ro, 0, .all⟩]⟩,
    ⟨"BRC_NEED", 0x40030, 0x0, 1, [⟨31, 0, .ro, 0, .all⟩]⟩,
    ⟨"BRC_AVAIL", 0x40034, 0x0, 1, [⟨31, 0, .ro, 0, .all⟩]⟩,
    ⟨"BRC_ENTRIES_LO", 0x4003C, 0x0, 1, [⟨31, 0, .ro, 0, .all⟩]⟩,
    ⟨"BRC_ENTRIES_HI", 0x40040, 0x0, 1, [⟨15, 0, .ro, 0, .all⟩]⟩,
    ⟨"BRC_RESTART_LO", 0x40044, 0x0, 1, [⟨31, 0, .ro, 0, .all⟩]⟩,
    ⟨"BRC_RESTART_HI", 0x40048, 0x0, 1, [⟨15, 0, .ro, 0, .all⟩]⟩,
    ⟨"BRC_SHORT", 0x4004C, 0x0, 1, [⟨31, 0, .ro, 0, .all⟩]⟩,
    ⟨"BRC_REHEARSE", 0x40050, 0x0, 1, [⟨31, 0, .rwl, 10, .span ⟨5, none⟩ ⟨50, none⟩⟩]⟩,
    ⟨"BRC_CTRL", 0x40000, 0x0, 1, [⟨31, 31, .rw, 0, .all⟩, ⟨2, 2, .rwl, 1, .all⟩, ⟨1, 0, .rwl, 0, .all⟩]⟩,
    ⟨"BRC_STATUS", 0x40004, 0x0, 1, [⟨31, 31, .w1c, 0, .all⟩, ⟨7, 7, .w1c, 0, .all⟩, ⟨6, 6, .ro, 0, .all⟩, ⟨5, 5, .ro, 0, .all⟩, ⟨4, 4, .ro, 0, .all⟩, ⟨3, 3, .ro, 0, .all⟩, ⟨2, 2, .ro, 0, .all⟩, ⟨1, 1, .ro, 0, .all⟩, ⟨0, 0, .ro, 0, .all⟩]⟩,
    ⟨"BRC_SYS_THR", 0x40008, 0x0, 1, [⟨26, 16, .rwl, 40, .span ⟨10, none⟩ ⟨200, none⟩⟩, ⟨10, 0, .rwl, 800, .span ⟨300, none⟩ ⟨1150, none⟩⟩]⟩,
    ⟨"BRC_HU_THR", 0x4000C, 0x0, 1, [⟨26, 16, .rwl, 500, .span ⟨100, none⟩ ⟨(-50), some (10, 0)⟩⟩, ⟨10, 0, .rwl, 900, .span ⟨300, none⟩ ⟨1150, none⟩⟩]⟩,
    ⟨"BRC_FILT", 0x40010, 0x0, 1, [⟨23, 16, .rwl, 100, .span ⟨10, none⟩ ⟨255, none⟩⟩, ⟨15, 8, .rwl, 20, .span ⟨5, none⟩ ⟨255, none⟩⟩, ⟨7, 0, .rwl, 20, .span ⟨1, none⟩ ⟨255, none⟩⟩]⟩,
    ⟨"BRC_SNAP", 0x40038, 0x0, 1, [⟨0, 0, .wo, 0, .all⟩]⟩ ]

/-- Field maps of block PTH. -/
def regsPth : List RegDef :=
  [ ⟨"PTH_KEY", 0x50008, 0x0, 1, [⟨31, 0, .wo, 0, .all⟩]⟩,
    ⟨"PTH_WAIT", 0x50014, 0x0, 1, [⟨4, 0, .ro, 17, .all⟩]⟩,
    ⟨"PTH_JFREE", 0x5001C, 0x0, 1, [⟨25, 16, .ro, 0, .all⟩, ⟨9, 0, .ro, 0, .all⟩]⟩,
    ⟨"PTH_ERASES_LO", 0x50024, 0x0, 1, [⟨31, 0, .ro, 0, .all⟩]⟩,
    ⟨"PTH_ERASES_HI", 0x50028, 0x0, 1, [⟨15, 0, .ro, 0, .all⟩]⟩,
    ⟨"PTH_JBYTES_LO", 0x5002C, 0x0, 1, [⟨31, 0, .ro, 0, .all⟩]⟩,
    ⟨"PTH_JBYTES_HI", 0x50030, 0x0, 1, [⟨15, 0, .ro, 0, .all⟩]⟩,
    ⟨"PTH_FAIL", 0x50034, 0x0, 1, [⟨31, 0, .ro, 0, .all⟩]⟩,
    ⟨"PTH_PGEN", 0x50038, 0x0, 1, [⟨31, 0, .ro, 0, .all⟩]⟩,
    ⟨"PTH_LEN", 0x5003C, 0x0, 1, [⟨12, 0, .rw, 0, .all⟩]⟩,
    ⟨"PTH_STAGE_WIN", 0x51000, 0x4, 1024, [⟨31, 0, .rw, 0, .all⟩]⟩,
    ⟨"PTH_CTRL", 0x50000, 0x0, 1, [⟨31, 31, .rw, 0, .all⟩, ⟨3, 0, .rwl, 0, .span ⟨0, none⟩ ⟨15, none⟩⟩]⟩,
    ⟨"PTH_STATUS", 0x50004, 0x0, 1, [⟨31, 31, .w1c, 0, .all⟩, ⟨30, 30, .w1c, 0, .all⟩, ⟨2, 2, .ro, 0, .all⟩, ⟨1, 1, .ro, 0, .all⟩, ⟨0, 0, .ro, 0, .all⟩]⟩,
    ⟨"PTH_CMD", 0x5000C, 0x0, 1, [⟨23, 16, .wo, 0, .all⟩, ⟨15, 8, .wo, 0, .all⟩, ⟨7, 0, .wo, 0, .all⟩]⟩,
    ⟨"PTH_RESULT", 0x50010, 0x0, 1, [⟨31, 31, .ro, 0, .all⟩, ⟨7, 0, .ro, 0, .all⟩]⟩,
    ⟨"PTH_JCFG", 0x50018, 0x0, 1, [⟨23, 16, .rwl, 64, .span ⟨32, none⟩ ⟨255, none⟩⟩, ⟨7, 0, .rwl, 16, .span ⟨12, none⟩ ⟨31, none⟩⟩]⟩,
    ⟨"PTH_SNAP", 0x50020, 0x0, 1, [⟨0, 0, .wo, 0, .all⟩]⟩ ]

/-- Field maps of block RGE. -/
def regsRge : List RegDef :=
  [ ⟨"RGE_FN_WIN", 0x61000, 0x4, 2048, [⟨31, 0, .rw, 0, .all⟩]⟩,
    ⟨"RGE_CTRL", 0x60000, 0x0, 1, [⟨31, 31, .rw, 0, .all⟩]⟩,
    ⟨"RGE_STATUS", 0x60004, 0x0, 1, [⟨31, 31, .w1c, 0, .all⟩, ⟨30, 30, .w1c, 0, .all⟩, ⟨0, 0, .ro, 0, .all⟩]⟩,
    ⟨"RGE_POOL0", 0x60008, 0x0, 1, [⟨31, 16, .ro, 4080, .all⟩, ⟨15, 0, .ro, 4080, .all⟩]⟩,
    ⟨"RGE_POOL1", 0x6000C, 0x0, 1, [⟨31, 16, .ro, 4080, .all⟩, ⟨15, 0, .ro, 0, .all⟩]⟩,
    ⟨"RGE_POOL2", 0x60010, 0x0, 1, [⟨16, 0, .ro, 61440, .all⟩]⟩,
    ⟨"RGE_INFLIGHT", 0x60014, 0x0, 1, [⟨16, 0, .ro, 0, .all⟩]⟩ ]

/-- Field maps of block CLS. -/
def regsCls : List RegDef :=
  [ ⟨"CLS_RD_CAP", 0x70008, 0x0, 1, [⟨31, 0, .rwl, 262144, .span ⟨16384, none⟩ ⟨1048576, none⟩⟩]⟩,
    ⟨"CLS_BURST", 0x7000C, 0x0, 1, [⟨31, 0, .rwl, 100, .span ⟨10, none⟩ ⟨1000, none⟩⟩]⟩,
    ⟨"CLS_SEAL_BUDGETn", 0x70100, 0x80, 4, [⟨31, 0, .rwl, 2000000000, .all⟩]⟩,
    ⟨"CLS_SEAL_RESVn", 0x70104, 0x80, 4, [⟨31, 0, .ro, 0, .all⟩]⟩,
    ⟨"CLS_STONE_RESn", 0x7010C, 0x80, 4, [⟨31, 0, .rwl, 128, .span ⟨16, none⟩ ⟨512, none⟩⟩]⟩,
    ⟨"CLS_SEALS_LOn", 0x70118, 0x80, 4, [⟨31, 0, .ro, 0, .all⟩]⟩,
    ⟨"CLS_SEALS_HIn", 0x7011C, 0x80, 4, [⟨15, 0, .ro, 0, .all⟩]⟩,
    ⟨"CLS_RECALLS_LOn", 0x70120, 0x80, 4, [⟨31, 0, .ro, 0, .all⟩]⟩,
    ⟨"CLS_RECALLS_HIn", 0x70124, 0x80, 4, [⟨15, 0, .ro, 0, .all⟩]⟩,
    ⟨"CLS_EXCESS_LOn", 0x70128, 0x80, 4, [⟨31, 0, .ro, 0, .all⟩]⟩,
    ⟨"CLS_EXCESS_HIn", 0x7012C, 0x80, 4, [⟨15, 0, .ro, 0, .all⟩]⟩,
    ⟨"CLS_VOID_LOn", 0x70130, 0x80, 4, [⟨31, 0, .ro, 0, .all⟩]⟩,
    ⟨"CLS_VOID_HIn", 0x70134, 0x80, 4, [⟨15, 0, .ro, 0, .all⟩]⟩,
    ⟨"CLS_OVERRUNn", 0x70138, 0x80, 4, [⟨31, 0, .ro, 0, .all⟩]⟩,
    ⟨"CLS_MAX_SEALn", 0x7013C, 0x80, 4, [⟨31, 0, .ro, 0, .all⟩]⟩,
    ⟨"CLS_MAX_RECALLn", 0x70140, 0x80, 4, [⟨31, 0, .ro, 0, .all⟩]⟩,
    ⟨"CLS_CTRL", 0x70000, 0x0, 1, [⟨31, 31, .rw, 0, .all⟩]⟩,
    ⟨"CLS_STATUS", 0x70004, 0x0, 1, [⟨31, 31, .w1c, 0, .all⟩, ⟨4, 4, .ro, 0, .all⟩, ⟨3, 3, .ro, 0, .all⟩, ⟨2, 2, .ro, 0, .all⟩, ⟨1, 1, .ro, 0, .all⟩, ⟨0, 0, .ro, 0, .all⟩]⟩,
    ⟨"CLS_WEIGHT", 0x70010, 0x0, 1, [⟨23, 16, .rwl, 1, .span ⟨1, none⟩ ⟨255, none⟩⟩, ⟨15, 8, .rwl, 4, .span ⟨1, none⟩ ⟨255, none⟩⟩, ⟨7, 0, .rwl, 8, .span ⟨1, none⟩ ⟨255, none⟩⟩]⟩,
    ⟨"CLS_MAINT", 0x70014, 0x0, 1, [⟨15, 8, .rwl, 75, .span ⟨5, none⟩ ⟨90, none⟩⟩, ⟨7, 0, .rwl, 25, .span ⟨5, none⟩ ⟨90, none⟩⟩]⟩,
    ⟨"CLS_RECALLn", 0x70108, 0x80, 4, [⟨31, 16, .ro, 0, .all⟩, ⟨15, 0, .rwl, 50000, .all⟩]⟩,
    ⟨"CLS_SNAPn", 0x70110, 0x80, 4, [⟨0, 0, .wo, 0, .all⟩]⟩,
    ⟨"CLS_VOID_CAUSEn", 0x70114, 0x80, 4, [⟨7, 0, .ro, 0, .all⟩]⟩ ]

/-- Field maps of block DXR. -/
def regsDxr : List RegDef :=
  [ ⟨"DXR_PCk", 0x80104, 0x10, 16, [⟨31, 0, .ro, 0, .all⟩]⟩,
    ⟨"DXR_EXC_LOk", 0x80108, 0x10, 16, [⟨31, 0, .ro, 0, .all⟩]⟩,
    ⟨"DXR_EXC_HIk", 0x8010C, 0x10, 16, [⟨15, 0, .ro, 0, .all⟩]⟩,
    ⟨"DXR_RIND_CORE", 0x80200, 0x0, 1, [⟨31, 0, .ro, 268435456, .all⟩]⟩,
    ⟨"DXR_RIND_PC", 0x80204, 0x0, 1, [⟨31, 0, .ro, 0, .all⟩]⟩,
    ⟨"DXR_RIND_EXC_LO", 0x80208, 0x0, 1, [⟨31, 0, .ro, 0, .all⟩]⟩,
    ⟨"DXR_RIND_EXC_HI", 0x8020C, 0x0, 1, [⟨31, 0, .ro, 0, .all⟩]⟩,
    ⟨"DXR_CTRL", 0x80000, 0x0, 1, [⟨31, 31, .rw, 0, .all⟩]⟩,
    ⟨"DXR_STATUS", 0x80004, 0x0, 1, [⟨31, 31, .w1c, 0, .all⟩]⟩,
    ⟨"DXR_SNAP", 0x80008, 0x0, 1, [⟨0, 0, .wo, 0, .all⟩]⟩,
    ⟨"DXR_CFG", 0x8000C, 0x0, 1, [⟨0, 0, .rwl, 1, .all⟩]⟩,
    ⟨"DXR_COREk", 0x80100, 0x10, 16, [⟨31, 29, .ro, 0, .all⟩, ⟨28, 28, .ro, 0, .all⟩, ⟨15, 8, .ro, 0, .all⟩]⟩ ]

/-- Field maps of block DSP. -/
def regsDsp : List RegDef :=
  [ ⟨"DSP_ROLEn", 0x90100, 0x80, 4, [⟨3, 0, .rwl, 3, .all⟩]⟩,
    ⟨"DSP_GPOOLn", 0x90104, 0x80, 4, [⟨31, 16, .rwl, 256, .span ⟨0, none⟩ ⟨512, none⟩⟩, ⟨6, 0, .rwl, 32, .span ⟨0, none⟩ ⟨64, none⟩⟩]⟩,
    ⟨"DSP_ITEMSn", 0x90108, 0x80, 4, [⟨12, 0, .ro, 0, .all⟩]⟩,
    ⟨"DSP_DELAYn", 0x9010C, 0x80, 4, [⟨26, 16, .ro, 0, .all⟩, ⟨10, 0, .ro, 0, .all⟩]⟩,
    ⟨"DSP_GETS_LOn", 0x90114, 0x80, 4, [⟨31, 0, .ro, 0, .all⟩]⟩,
    ⟨"DSP_GETS_HIn", 0x90118, 0x80, 4, [⟨15, 0, .ro, 0, .all⟩]⟩,
    ⟨"DSP_RUNS_LOn", 0x9011C, 0x80, 4, [⟨31, 0, .ro, 0, .all⟩]⟩,
    ⟨"DSP_RUNS_HIn", 0x90120, 0x80, 4, [⟨15, 0, .ro, 0, .all⟩]⟩,
    ⟨"DSP_BUDGET_LOn", 0x90124, 0x80, 4, [⟨31, 0, .ro, 0, .all⟩]⟩,
    ⟨"DSP_BUDGET_HIn", 0x90128, 0x80, 4, [⟨15, 0, .ro, 0, .all⟩]⟩,
    ⟨"DSP_SANDBOXn", 0x9012C, 0x80, 4, [⟨31, 0, .ro, 0, .all⟩]⟩,
    ⟨"DSP_CTRL", 0x90000, 0x0, 1, [⟨31, 31, .rw, 0, .all⟩]⟩,
    ⟨"DSP_STATUS", 0x90004, 0x0, 1, [⟨31, 31, .w1c, 0, .all⟩, ⟨30, 30, .w1c, 0, .all⟩, ⟨3, 0, .ro, 0, .all⟩]⟩,
    ⟨"DSP_GWIN", 0x90008, 0x0, 1, [⟨28, 16, .rwl, 3840, .span ⟨1, none⟩ ⟨4096, none⟩⟩, ⟨11, 0, .rwl, 256, .all⟩]⟩,
    ⟨"DSP_FNQ", 0x9000C, 0x0, 1, [⟨15, 8, .rwl, 8, .span ⟨1, none⟩ ⟨64, none⟩⟩, ⟨7, 0, .rwl, 4, .span ⟨1, none⟩ ⟨32, none⟩⟩]⟩,
    ⟨"DSP_SNAPn", 0x90110, 0x80, 4, [⟨0, 0, .wo, 0, .all⟩]⟩ ]

/-- Field maps of block DMV. -/
def regsDmv : List RegDef :=
  [ ⟨"DMV_HALT_LOn", 0xA0100, 0x80, 4, [⟨31, 0, .ro, 0, .all⟩]⟩,
    ⟨"DMV_HALT_HIn", 0xA0104, 0x80, 4, [⟨31, 0, .ro, 0, .all⟩]⟩,
    ⟨"DMV_RD_LOn", 0xA010C, 0x80, 4, [⟨31, 0, .ro, 0, .all⟩]⟩,
    ⟨"DMV_RD_HIn", 0xA0110, 0x80, 4, [⟨15, 0, .ro, 0, .all⟩]⟩,
    ⟨"DMV_WR_LOn", 0xA0114, 0x80, 4, [⟨31, 0, .ro, 0, .all⟩]⟩,
    ⟨"DMV_WR_HIn", 0xA0118, 0x80, 4, [⟨15, 0, .ro, 0, .all⟩]⟩,
    ⟨"DMV_RETRYn", 0xA011C, 0x80, 4, [⟨31, 0, .ro, 0, .all⟩]⟩,
    ⟨"DMV_CTRL", 0xA0000, 0x0, 1, [⟨31, 31, .rw, 0, .all⟩]⟩,
    ⟨"DMV_STATUS", 0xA0004, 0x0, 1, [⟨31, 31, .w1c, 0, .all⟩, ⟨3, 0, .ro, 0, .all⟩]⟩,
    ⟨"DMV_CFG", 0xA0008, 0x0, 1, [⟨24, 16, .rwl, 128, .span ⟨16, none⟩ ⟨256, none⟩⟩, ⟨6, 0, .rwl, 16, .span ⟨1, none⟩ ⟨64, none⟩⟩]⟩,
    ⟨"DMV_SNAPn", 0xA0108, 0x80, 4, [⟨0, 0, .wo, 0, .all⟩]⟩ ]

/-- Field maps of block DRM. -/
def regsDrm : List RegDef :=
  [ ⟨"DRM_LAT0", 0xB0040, 0x0, 1, [⟨15, 0, .rwl, 500, .span ⟨100, none⟩ ⟨60000, none⟩⟩]⟩,
    ⟨"DRM_LAT1", 0xB0044, 0x0, 1, [⟨15, 0, .rwl, 1000, .span ⟨100, none⟩ ⟨60000, none⟩⟩]⟩,
    ⟨"DRM_LAT2", 0xB0048, 0x0, 1, [⟨15, 0, .rwl, 300, .span ⟨100, none⟩ ⟨60000, none⟩⟩]⟩,
    ⟨"DRM_LAT3", 0xB004C, 0x0, 1, [⟨15, 0, .rwl, 2000, .span ⟨100, none⟩ ⟨60000, none⟩⟩]⟩,
    ⟨"DRM_LAT4", 0xB0050, 0x0, 1, [⟨15, 0, .rwl, 600, .span ⟨100, none⟩ ⟨60000, none⟩⟩]⟩,
    ⟨"DRM_LAT5", 0xB0054, 0x0, 1, [⟨15, 0, .rwl, 10000, .span ⟨100, none⟩ ⟨60000, none⟩⟩]⟩,
    ⟨"DRM_LAT6", 0xB0058, 0x0, 1, [⟨15, 0, .rwl, 1000, .span ⟨100, none⟩ ⟨60000, none⟩⟩]⟩,
    ⟨"DRM_STONEn", 0xB0104, 0x80, 4, [⟨31, 0, .rwl, 512, .multiple 64 1024 64⟩]⟩,
    ⟨"DRM_SHAREDn", 0xB0108, 0x80, 4, [⟨31, 0, .rwl, 64, .span ⟨32, none⟩ ⟨128, none⟩⟩]⟩,
    ⟨"DRM_SPAREn", 0xB0110, 0x80, 4, [⟨12, 0, .ro, 4096, .all⟩]⟩,
    ⟨"DRM_RD_LOn", 0xB0114, 0x80, 4, [⟨31, 0, .ro, 0, .all⟩]⟩,
    ⟨"DRM_RD_HIn", 0xB0118, 0x80, 4, [⟨15, 0, .ro, 0, .all⟩]⟩,
    ⟨"DRM_WR_LOn", 0xB011C, 0x80, 4, [⟨31, 0, .ro, 0, .all⟩]⟩,
    ⟨"DRM_WR_HIn", 0xB0120, 0x80, 4, [⟨15, 0, .ro, 0, .all⟩]⟩,
    ⟨"DRM_NBR_LOn", 0xB0124, 0x80, 4, [⟨31, 0, .ro, 0, .all⟩]⟩,
    ⟨"DRM_NBR_HIn", 0xB0128, 0x80, 4, [⟨15, 0, .ro, 0, .all⟩]⟩,
    ⟨"DRM_RFM_LOn", 0xB012C, 0x80, 4, [⟨31, 0, .ro, 0, .all⟩]⟩,
    ⟨"DRM_RFM_HIn", 0xB0130, 0x80, 4, [⟨15, 0, .ro, 0, .all⟩]⟩,
    ⟨"DRM_CTRL", 0xB0000, 0x0, 1, [⟨31, 31, .rw, 0, .all⟩, ⟨3, 0, .rwl, 6, .span ⟨1, none⟩ ⟨6, none⟩⟩]⟩,
    ⟨"DRM_STATUS", 0xB0004, 0x0, 1, [⟨31, 31, .w1c, 0, .all⟩, ⟨7, 4, .ro, 0, .all⟩, ⟨3, 0, .ro, 0, .all⟩]⟩,
    ⟨"DRM_SCHED", 0xB0008, 0x0, 1, [⟨7, 0, .rwl, 4, .span ⟨1, none⟩ ⟨32, none⟩⟩]⟩,
    ⟨"DRM_WMARK", 0xB000C, 0x0, 1, [⟨15, 8, .rwl, 96, .span ⟨8, some (7, 0)⟩ ⟨128, none⟩⟩, ⟨7, 0, .rwl, 32, .span ⟨0, none⟩ ⟨(-8), some (15, 8)⟩⟩]⟩,
    ⟨"DRM_RAT", 0xB0010, 0x0, 1, [⟨17, 16, .rwl, 2, .span ⟨1, none⟩ ⟨2, none⟩⟩, ⟨15, 0, .rwl, 2048, .span ⟨256, none⟩ ⟨32768, none⟩⟩]⟩,
    ⟨"DRM_TRAIN", 0xB0014, 0x0, 1, [⟨23, 16, .rwl, 10, .span ⟨2, none⟩ ⟨40, none⟩⟩, ⟨15, 0, .rwl, 128, .span ⟨16, none⟩ ⟨1000, none⟩⟩]⟩,
    ⟨"DRM_ILV", 0xB0018, 0x0, 1, [⟨3, 0, .rwl, 8, .span ⟨6, none⟩ ⟨12, none⟩⟩]⟩,
    ⟨"DRM_CFGn", 0xB0100, 0x80, 4, [⟨31, 24, .ro, 0, .all⟩, ⟨23, 20, .ro, 0, .all⟩, ⟨17, 16, .ro, 0, .all⟩, ⟨15, 8, .ro, 0, .all⟩, ⟨0, 0, .ro, 0, .all⟩]⟩,
    ⟨"DRM_SNAPn", 0xB010C, 0x80, 4, [⟨0, 0, .wo, 0, .all⟩]⟩ ]

/-- Field maps of block FLW. -/
def regsFlw : List RegDef :=
  [ ⟨"FLW_WHEELn", 0xC0104, 0x80, 4, [⟨8, 0, .ro, 178, .all⟩]⟩,
    ⟨"FLW_SPACEn", 0xC0108, 0x80, 4, [⟨17, 0, .ro, 224719, .all⟩]⟩,
    ⟨"FLW_WINDOWS_LOn", 0xC0110, 0x80, 4, [⟨31, 0, .ro, 0, .all⟩]⟩,
    ⟨"FLW_WINDOWS_HIn", 0xC0114, 0x80, 4, [⟨15, 0, .ro, 0, .all⟩]⟩,
    ⟨"FLW_SUSPEND_LOn", 0xC0118, 0x80, 4, [⟨31, 0, .ro, 0, .all⟩]⟩,
    ⟨"FLW_SUSPEND_HIn", 0xC011C, 0x80, 4, [⟨15, 0, .ro, 0, .all⟩]⟩,
    ⟨"FLW_AROUND_LOn", 0xC0120, 0x80, 4, [⟨31, 0, .ro, 0, .all⟩]⟩,
    ⟨"FLW_AROUND_HIn", 0xC0124, 0x80, 4, [⟨15, 0, .ro, 0, .all⟩]⟩,
    ⟨"FLW_GUARD_LOn", 0xC0128, 0x80, 4, [⟨31, 0, .ro, 0, .all⟩]⟩,
    ⟨"FLW_GUARD_HIn", 0xC012C, 0x80, 4, [⟨15, 0, .ro, 0, .all⟩]⟩,
    ⟨"FLW_LATEn", 0xC0130, 0x80, 4, [⟨31, 0, .ro, 0, .all⟩]⟩,
    ⟨"FLW_REERASEn", 0xC0134, 0x80, 4, [⟨31, 0, .ro, 0, .all⟩]⟩,
    ⟨"FLW_CHERRc", 0xC0404, 0x10, 32, [⟨31, 0, .ro, 0, .all⟩]⟩,
    ⟨"FLW_CTRL", 0xC0000, 0x0, 1, [⟨31, 31, .rw, 0, .all⟩, ⟨3, 0, .rwl, 9, .span ⟨2, none⟩ ⟨9, none⟩⟩]⟩,
    ⟨"FLW_STATUS", 0xC0004, 0x0, 1, [⟨31, 31, .w1c, 0, .all⟩, ⟨7, 4, .ro, 0, .all⟩, ⟨3, 0, .ro, 0, .all⟩]⟩,
    ⟨"FLW_TRAIN", 0xC0008, 0x0, 1, [⟨15, 8, .rwl, 60, .span ⟨1, none⟩ ⟨255, none⟩⟩, ⟨7, 0, .rwl, 20, .span ⟨5, none⟩ ⟨40, none⟩⟩]⟩,
    ⟨"FLW_BLANK", 0xC000C, 0x0, 1, [⟨23, 16, .rwl, 64, .span ⟨1, none⟩ ⟨255, none⟩⟩, ⟨9, 0, .rwl, 64, .span ⟨0, none⟩ ⟨512, none⟩⟩]⟩,
    ⟨"FLW_MARGIN", 0xC0010, 0x0, 1, [⟨15, 8, .rwl, 8, .span ⟨1, none⟩ ⟨32, none⟩⟩, ⟨7, 0, .rwl, 80, .span ⟨30, none⟩ ⟨100, none⟩⟩]⟩,
    ⟨"FLW_SEGCFGn", 0xC0100, 0x80, 4, [⟨20, 16, .ro, 0, .all⟩, ⟨0, 0, .rwl, 0, .all⟩]⟩,
    ⟨"FLW_SNAPn", 0xC010C, 0x80, 4, [⟨0, 0, .wo, 0, .all⟩]⟩,
    ⟨"FLW_CHSTATc", 0xC0400, 0x10, 32, [⟨31, 28, .ro, 0, .all⟩, ⟨27, 24, .ro, 0, .all⟩, ⟨20, 16, .ro, 0, .all⟩, ⟨15, 0, .ro, 0, .all⟩]⟩ ]

/-- Field maps of block MED. -/
def regsMed : List RegDef :=
  [ ⟨"MED_MAPn", 0xD0100, 0x80, 4, [⟨31, 0, .rwl, 0, .oneOf [(0, 0), (1024, 65536)]⟩]⟩,
    ⟨"MED_FREEn", 0xD0104, 0x80, 4, [⟨31, 0, .ro, 0, .all⟩]⟩,
    ⟨"MED_SPAREn", 0xD0108, 0x80, 4, [⟨31, 0, .ro, 0, .all⟩]⟩,
    ⟨"MED_GC_LOn", 0xD0110, 0x80, 4, [⟨31, 0, .ro, 0, .all⟩]⟩,
    ⟨"MED_GC_HIn", 0xD0114, 0x80, 4, [⟨15, 0, .ro, 0, .all⟩]⟩,
    ⟨"MED_PATROL_LOn", 0xD0118, 0x80, 4, [⟨31, 0, .ro, 0, .all⟩]⟩,
    ⟨"MED_PATROL_HIn", 0xD011C, 0x80, 4, [⟨15, 0, .ro, 0, .all⟩]⟩,
    ⟨"MED_RECLAIM_LOn", 0xD0120, 0x80, 4, [⟨31, 0, .ro, 0, .all⟩]⟩,
    ⟨"MED_RECLAIM_HIn", 0xD0124, 0x80, 4, [⟨15, 0, .ro, 0, .all⟩]⟩,
    ⟨"MED_MOVEFAILn", 0xD0128, 0x80, 4, [⟨31, 0, .ro, 0, .all⟩]⟩,
    ⟨"MED_CTRL", 0xD0000, 0x0, 1, [⟨31, 31, .rw, 0, .all⟩]⟩,
    ⟨"MED_STATUS", 0xD0004, 0x0, 1, [⟨31, 31, .w1c, 0, .all⟩, ⟨8, 8, .ro, 0, .all⟩, ⟨7, 4, .ro, 0, .all⟩, ⟨3, 0, .ro, 0, .all⟩]⟩,
    ⟨"MED_OP", 0xD0008, 0x0, 1, [⟨15, 8, .rwl, 7, .span ⟨4, none⟩ ⟨40, none⟩⟩, ⟨7, 0, .rwl, 4, .span ⟨2, none⟩ ⟨20, none⟩⟩]⟩,
    ⟨"MED_SLC", 0xD000C, 0x0, 1, [⟨31, 16, .rwl, 1200, .span ⟨50, none⟩ ⟨2000, none⟩⟩, ⟨15, 0, .rwl, 50, .span ⟨0, none⟩ ⟨0, some (31, 16)⟩⟩]⟩,
    ⟨"MED_GC", 0xD0010, 0x0, 1, [⟨23, 16, .rwl, 3, .span ⟨2, none⟩ ⟨(-1), some (15, 8)⟩⟩, ⟨15, 8, .rwl, 6, .span ⟨1, some (23, 16)⟩ ⟨(-1), some (7, 0)⟩⟩, ⟨7, 0, .rwl, 10, .span ⟨1, some (15, 8)⟩ ⟨64, none⟩⟩]⟩,
    ⟨"MED_WEAR", 0xD0014, 0x0, 1, [⟨31, 16, .rwl, 50, .span ⟨10, none⟩ ⟨0, some (15, 0)⟩⟩, ⟨15, 0, .rwl, 200, .span ⟨20, none⟩ ⟨5000, none⟩⟩]⟩,
    ⟨"MED_PATROL", 0xD0018, 0x0, 1, [⟨15, 8, .rwl, 60, .span ⟨30, none⟩ ⟨90, none⟩⟩, ⟨4, 0, .rwl, 7, .span ⟨1, none⟩ ⟨30, none⟩⟩]⟩,
    ⟨"MED_RET", 0xD001C, 0x0, 1, [⟨10, 0, .rwl, 365, .span ⟨30, none⟩ ⟨1095, none⟩⟩]⟩,
    ⟨"MED_LOOP", 0xD0020, 0x0, 1, [⟨11, 0, .rwl, 120, .span ⟨120, none⟩ ⟨3600, none⟩⟩]⟩,
    ⟨"MED_HARVEST", 0xD0024, 0x0, 1, [⟨15, 8, .rwl, 2, .span ⟨2, none⟩ ⟨8, none⟩⟩, ⟨7, 0, .rwl, 10, .span ⟨1, none⟩ ⟨50, none⟩⟩]⟩,
    ⟨"MED_CKPT", 0xD0028, 0x0, 1, [⟨31, 16, .rwl, 64, .span ⟨8, none⟩ ⟨1024, none⟩⟩, ⟨15, 0, .rwl, 60, .span ⟨10, none⟩ ⟨600, none⟩⟩]⟩,
    ⟨"MED_SNAPn", 0xD010C, 0x80, 4, [⟨0, 0, .wo, 0, .all⟩]⟩ ]

/-- Field maps of block INT. -/
def regsInt : List RegDef :=
  [ ⟨"INT_NOTIFY_LO", 0xE0020, 0x0, 1, [⟨31, 0, .rw, 4294967295, .all⟩]⟩,
    ⟨"INT_NOTIFY_HI", 0xE0024, 0x0, 1, [⟨31, 0, .rw, 4294967295, .all⟩]⟩,
    ⟨"INT_FUSE_FREE", 0xE0028, 0x0, 1, [⟨9, 0, .ro, 512, .all⟩]⟩,
    ⟨"INT_TALLYk", 0xE0100, 0x4, 64, [⟨31, 0, .ro, 0, .all⟩]⟩,
    ⟨"INT_FUSE_WIN", 0xE1000, 0x4, 512, [⟨31, 0, .ro, 0, .all⟩]⟩,
    ⟨"INT_CTRL", 0xE0000, 0x0, 1, [⟨31, 31, .rw, 0, .all⟩]⟩,
    ⟨"INT_STATUS", 0xE0004, 0x0, 1, [⟨31, 31, .w1c, 0, .all⟩, ⟨2, 2, .rs, 0, .all⟩, ⟨1, 1, .ro, 0, .all⟩, ⟨0, 0, .ro, 0, .all⟩]⟩,
    ⟨"INT_INJ", 0xE0008, 0x0, 1, [⟨31, 31, .rwl, 0, .all⟩, ⟨30, 29, .ro, 0, .all⟩, ⟨27, 24, .rwl, 0, .all⟩, ⟨23, 16, .rwl, 1, .span ⟨1, none⟩ ⟨255, none⟩⟩, ⟨15, 8, .rwl, 255, .all⟩, ⟨7, 6, .rwl, 0, .all⟩, ⟨5, 0, .rwl, 0, .all⟩]⟩,
    ⟨"INT_BYPASS", 0xE000C, 0x0, 1, [⟨31, 31, .rwl, 0, .all⟩, ⟨21, 16, .rwl, 0, .all⟩, ⟨9, 0, .rwl, 100, .span ⟨1, none⟩ ⟨1000, none⟩⟩]⟩,
    ⟨"INT_NOTICE", 0xE0010, 0x0, 1, [⟨15, 0, .rwl, 1000, .span ⟨1, none⟩ ⟨60000, none⟩⟩]⟩,
    ⟨"INT_SCRUB", 0xE0014, 0x0, 1, [⟨7, 0, .rwl, 60, .span ⟨1, none⟩ ⟨255, none⟩⟩]⟩,
    ⟨"INT_REPAIR", 0xE0018, 0x0, 1, [⟨15, 8, .rwl, 16, .span ⟨2, none⟩ ⟨255, none⟩⟩, ⟨7, 0, .rwl, 4, .span ⟨2, none⟩ ⟨255, none⟩⟩]⟩,
    ⟨"INT_SNAP", 0xE001C, 0x0, 1, [⟨0, 0, .wo, 0, .all⟩]⟩ ]

/-- Field maps of block IDX. -/
def regsIdx : List RegDef :=
  [ ⟨"IDX_SNAP_MAX", 0xF0008, 0x0, 1, [⟨31, 0, .rwl, 1500, .span ⟨1, none⟩ ⟨65534, none⟩⟩]⟩,
    ⟨"IDX_REGIONn", 0xF0100, 0x80, 4, [⟨31, 0, .rwl, 1024, .span ⟨64, none⟩ ⟨16384, none⟩⟩]⟩,
    ⟨"IDX_USEDn", 0xF0104, 0x80, 4, [⟨31, 0, .ro, 0, .all⟩]⟩,
    ⟨"IDX_RECORDS_LOn", 0xF010C, 0x80, 4, [⟨31, 0, .ro, 0, .all⟩]⟩,
    ⟨"IDX_RECORDS_HIn", 0xF0110, 0x80, 4, [⟨15, 0, .ro, 0, .all⟩]⟩,
    ⟨"IDX_UNPARSED_LOn", 0xF0114, 0x80, 4, [⟨31, 0, .ro, 0, .all⟩]⟩,
    ⟨"IDX_UNPARSED_HIn", 0xF0118, 0x80, 4, [⟨15, 0, .ro, 0, .all⟩]⟩,
    ⟨"IDX_STAY_LOn", 0xF011C, 0x80, 4, [⟨31, 0, .ro, 0, .all⟩]⟩,
    ⟨"IDX_STAY_HIn", 0xF0120, 0x80, 4, [⟨15, 0, .ro, 0, .all⟩]⟩,
    ⟨"IDX_CTRL", 0xF0000, 0x0, 1, [⟨31, 31, .rw, 0, .all⟩]⟩,
    ⟨"IDX_STATUS", 0xF0004, 0x0, 1, [⟨31, 31, .w1c, 0, .all⟩, ⟨3, 0, .ro, 0, .all⟩]⟩,
    ⟨"IDX_SNAPn", 0xF0108, 0x80, 4, [⟨0, 0, .wo, 0, .all⟩]⟩ ]

/-- Field maps of block ZST. -/
def regsZst : List RegDef :=
  [ ⟨"ZST_QUEUEn", 0x100100, 0x80, 4, [⟨6, 0, .ro, 0, .all⟩]⟩,
    ⟨"ZST_CIN_LOn", 0x100108, 0x80, 4, [⟨31, 0, .ro, 0, .all⟩]⟩,
    ⟨"ZST_CIN_HIn", 0x10010C, 0x80, 4, [⟨15, 0, .ro, 0, .all⟩]⟩,
    ⟨"ZST_COUT_LOn", 0x100110, 0x80, 4, [⟨31, 0, .ro, 0, .all⟩]⟩,
    ⟨"ZST_COUT_HIn", 0x100114, 0x80, 4, [⟨15, 0, .ro, 0, .all⟩]⟩,
    ⟨"ZST_DOUT_LOn", 0x100118, 0x80, 4, [⟨31, 0, .ro, 0, .all⟩]⟩,
    ⟨"ZST_DOUT_HIn", 0x10011C, 0x80, 4, [⟨15, 0, .ro, 0, .all⟩]⟩,
    ⟨"ZST_RAWBLK_LOn", 0x100120, 0x80, 4, [⟨31, 0, .ro, 0, .all⟩]⟩,
    ⟨"ZST_RAWBLK_HIn", 0x100124, 0x80, 4, [⟨15, 0, .ro, 0, .all⟩]⟩,
    ⟨"ZST_BYPASS_LOn", 0x100128, 0x80, 4, [⟨31, 0, .ro, 0, .all⟩]⟩,
    ⟨"ZST_BYPASS_HIn", 0x10012C, 0x80, 4, [⟨15, 0, .ro, 0, .all⟩]⟩,
    ⟨"ZST_FORMATn", 0x100130, 0x80, 4, [⟨31, 0, .ro, 0, .all⟩]⟩,
    ⟨"ZST_CHECKn", 0x100134, 0x80, 4, [⟨31, 0, .ro, 0, .all⟩]⟩,
    ⟨"ZST_CTRL", 0x100000, 0x0, 1, [⟨31, 31, .rw, 0, .all⟩]⟩,
    ⟨"ZST_STATUS", 0x100004, 0x0, 1, [⟨31, 31, .w1c, 0, .all⟩, ⟨3, 0, .ro, 0, .all⟩]⟩,
    ⟨"ZST_CFG", 0x100008, 0x0, 1, [⟨15, 8, .rwl, 75, .span ⟨50, none⟩ ⟨95, none⟩⟩, ⟨4, 0, .rwl, 16, .span ⟨12, none⟩ ⟨18, none⟩⟩]⟩,
    ⟨"ZST_SNAPn", 0x100104, 0x80, 4, [⟨0, 0, .wo, 0, .all⟩]⟩ ]

/-- Field maps of block CRY. -/
def regsCry : List RegDef :=
  [ ⟨"CRY_ALARMS", 0x110010, 0x0, 1, [⟨31, 0, .ro, 0, .all⟩]⟩,
    ⟨"CRY_RNGFAIL", 0x110014, 0x0, 1, [⟨31, 0, .ro, 0, .all⟩]⟩,
    ⟨"CRY_CTXUSEn", 0x110100, 0x80, 4, [⟨21, 16, .ro, 0, .all⟩, ⟨14, 8, .ro, 0, .all⟩, ⟨6, 0, .ro, 0, .all⟩]⟩,
    ⟨"CRY_HOLDn", 0x110104, 0x80, 4, [⟨31, 0, .ro, 0, .all⟩]⟩,
    ⟨"CRY_LANESn", 0x110108, 0x80, 4, [⟨3, 0, .ro, 15, .all⟩]⟩,
    ⟨"CRY_CIPHER_LOn", 0x11010C, 0x80, 4, [⟨31, 0, .ro, 0, .all⟩]⟩,
    ⟨"CRY_CIPHER_HIn", 0x110110, 0x80, 4, [⟨15, 0, .ro, 0, .all⟩]⟩,
    ⟨"CRY_DIGEST_LOn", 0x110114, 0x80, 4, [⟨31, 0, .ro, 0, .all⟩]⟩,
    ⟨"CRY_DIGEST_HIn", 0x110118, 0x80, 4, [⟨15, 0, .ro, 0, .all⟩]⟩,
    ⟨"CRY_BUSY_LOn", 0x11011C, 0x80, 4, [⟨31, 0, .ro, 0, .all⟩]⟩,
    ⟨"CRY_BUSY_HIn", 0x110120, 0x80, 4, [⟨15, 0, .ro, 0, .all⟩]⟩,
    ⟨"CRY_GCMFAIL_LOn", 0x110124, 0x80, 4, [⟨31, 0, .ro, 0, .all⟩]⟩,
    ⟨"CRY_GCMFAIL_HIn", 0x110128, 0x80, 4, [⟨15, 0, .ro, 0, .all⟩]⟩,
    ⟨"CRY_CTRL", 0x110000, 0x0, 1, [⟨31, 31, .rw, 0, .all⟩, ⟨1, 1, .rwl, 1, .all⟩, ⟨0, 0, .rwl, 1, .all⟩]⟩,
    ⟨"CRY_STATUS", 0x110004, 0x0, 1, [⟨31, 31, .w1c, 0, .all⟩, ⟨30, 30, .w1c, 0, .all⟩, ⟨3, 3, .ro, 0, .all⟩, ⟨2, 2, .ro, 0, .all⟩, ⟨1, 1, .rs, 0, .all⟩, ⟨0, 0, .ro, 0, .all⟩]⟩,
    ⟨"CRY_CTXQ", 0x110008, 0x0, 1, [⟨7, 0, .rwl, 8, .span ⟨1, none⟩ ⟨48, none⟩⟩]⟩,
    ⟨"CRY_SNAP", 0x11000C, 0x0, 1, [⟨0, 0, .wo, 0, .all⟩]⟩ ]

/-- Field maps of block FN. -/
def regsFn : List RegDef :=
  [ ⟨"FN_DB_LO", 0x10, 0x0, 1, [⟨31, 12, .rw, 0, .all⟩]⟩,
    ⟨"FN_DB_HI", 0x14, 0x0, 1, [⟨31, 0, .rw, 0, .all⟩]⟩,
    ⟨"FN_RING_BASE_LO", 0x20, 0x0, 1, [⟨31, 12, .rw, 0, .all⟩]⟩,
    ⟨"FN_RING_BASE_HI", 0x24, 0x0, 1, [⟨31, 0, .rw, 0, .all⟩]⟩,
    ⟨"FN_PIP_OK_LO", 0x44, 0x0, 1, [⟨31, 0, .ro, 0, .all⟩]⟩,
    ⟨"FN_PIP_OK_HI", 0x48, 0x0, 1, [⟨15, 0, .ro, 0, .all⟩]⟩,
    ⟨"FN_PIP_DUP_LO", 0x4C, 0x0, 1, [⟨31, 0, .ro, 0, .all⟩]⟩,
    ⟨"FN_PIP_DUP_HI", 0x50, 0x0, 1, [⟨15, 0, .ro, 0, .all⟩]⟩,
    ⟨"FN_SWEEP_FOUND_LO", 0x54, 0x0, 1, [⟨31, 0, .ro, 0, .all⟩]⟩,
    ⟨"FN_SWEEP_FOUND_HI", 0x58, 0x0, 1, [⟨15, 0, .ro, 0, .all⟩]⟩,
    ⟨"FN_PIP_BAD", 0x5C, 0x0, 1, [⟨31, 0, .ro, 0, .all⟩]⟩,
    ⟨"FN_NOTICE_DROP", 0x60, 0x0, 1, [⟨31, 0, .ro, 0, .all⟩]⟩,
    ⟨"FN_STATUS", 0x0, 0x0, 1, [⟨31, 31, .w1c, 0, .all⟩, ⟨30, 30, .w1c, 0, .all⟩, ⟨3, 3, .ro, 0, .all⟩, ⟨2, 2, .ro, 0, .all⟩, ⟨1, 1, .ro, 0, .all⟩, ⟨0, 0, .ro, 0, .all⟩]⟩,
    ⟨"FN_QUOTA0", 0x4, 0x0, 1, [⟨31, 16, .ro, 0, .all⟩, ⟨15, 0, .ro, 0, .all⟩]⟩,
    ⟨"FN_QUOTA1", 0x8, 0x0, 1, [⟨31, 16, .ro, 0, .all⟩, ⟨15, 0, .ro, 0, .all⟩]⟩,
    ⟨"FN_SLOTS", 0xC, 0x0, 1, [⟨16, 0, .ro, 0, .all⟩]⟩,
    ⟨"FN_RING_CFG", 0x28, 0x0, 1, [⟨31, 16, .rw, 0, .all⟩, ⟨10, 8, .rw, 0, .all⟩, ⟨1, 0, .rw, 0, .all⟩]⟩,
    ⟨"FN_RING_LINK", 0x2C, 0x0, 1, [⟨31, 20, .rw, 0, .all⟩, ⟨19, 8, .rw, 0, .all⟩, ⟨7, 7, .rw, 0, .all⟩]⟩,
    ⟨"FN_RING_VEC", 0x30, 0x0, 1, [⟨31, 31, .rw, 0, .all⟩, ⟨10, 0, .rw, 0, .all⟩]⟩,
    ⟨"FN_RING_COAL", 0x34, 0x0, 1, [⟨15, 8, .rw, 0, .all⟩, ⟨7, 0, .rw, 0, .all⟩]⟩,
    ⟨"FN_RING_CMD", 0x38, 0x0, 1, [⟨17, 16, .wo, 0, .all⟩, ⟨12, 12, .wo, 0, .all⟩, ⟨11, 0, .wo, 0, .all⟩]⟩,
    ⟨"FN_RING_RESULT", 0x3C, 0x0, 1, [⟨31, 31, .ro, 0, .all⟩, ⟨23, 16, .ro, 0, .all⟩, ⟨11, 0, .ro, 0, .all⟩]⟩,
    ⟨"FN_SNAP", 0x40, 0x0, 1, [⟨0, 0, .wo, 0, .all⟩]⟩ ]

/-- Field maps of block FNK. -/
def regsFnk : List RegDef :=
  [ ⟨"FNK_EXPKEYk", 0x100, 0x4, 8, [⟨31, 0, .wo, 0, .all⟩]⟩,
    ⟨"FNK_CTRL", 0x120, 0x0, 1, [⟨1, 1, .wo, 0, .all⟩, ⟨0, 0, .wo, 0, .all⟩]⟩,
    ⟨"FNK_STATUS", 0x124, 0x0, 1, [⟨31, 31, .w1c, 0, .all⟩, ⟨1, 1, .ro, 0, .all⟩, ⟨0, 0, .ro, 0, .all⟩]⟩ ]

/-- Field maps of block DSPF. -/
def regsDspf : List RegDef :=
  [ ⟨"DSPF_HWk_BASE_LO", 0x200, 0x10, 4, [⟨31, 12, .rw, 0, .all⟩]⟩,
    ⟨"DSPF_HWk_BASE_HI", 0x204, 0x10, 4, [⟨31, 0, .rw, 0, .all⟩]⟩,
    ⟨"DSPF_HWk_LEN", 0x208, 0x10, 4, [⟨31, 0, .rw, 0, .all⟩]⟩,
    ⟨"DSPF_HWk", 0x20C, 0x10, 4, [⟨1, 1, .rw, 0, .all⟩, ⟨0, 0, .rw, 0, .all⟩]⟩,
    ⟨"DSPF_STATUS", 0x240, 0x0, 1, [⟨31, 31, .w1c, 0, .all⟩, ⟨30, 30, .w1c, 0, .all⟩]⟩ ]

/-! ## Lookup and reset values -/

/-- The field maps of the block that holds BAR2 offset `a` (R816). -/
def blockRegs (a : Nat) : List RegDef :=
  match a / 0x10000 with
  | 0x0 => regsBoot | 0x1 => regsLcs | 0x2 => regsPwm | 0x3 => regsCad | 0x4 => regsBrc | 0x5 => regsPth
  | 0x6 => regsRge | 0x7 => regsCls | 0x8 => regsDxr | 0x9 => regsDsp | 0xA => regsDmv | 0xB => regsDrm
  | 0xC => regsFlw | 0xD => regsMed | 0xE => regsInt | 0xF => regsIdx | 0x10 => regsZst | 0x11 => regsCry
  | _ => []

/-- The field maps of the BAR0 block that holds offset `o` (R815). -/
def bar0Regs (o : Nat) : List RegDef :=
  match o / 0x100 with
  | 0 => regsFn | 1 => regsFnk | 2 => regsDspf | _ => []

/-- `r` has a copy at address `a`. -/
def RegDef.hits (r : RegDef) (a : Nat) : Bool :=
  if r.addr ≤ a then
    if r.stride = 0 then a == r.addr else (a - r.addr) % r.stride == 0 && (a - r.addr) / r.stride < r.count
  else false

/-- The register at an address, BAR2 or BAR0, if one is assigned (R820). -/
def regAt (a : Nat) : Option RegDef :=
  if a < 0x1000000 then (blockRegs a).find? (·.hits a)
  else (bar0Regs (a % 0x1000000)).find? (·.hits (a % 0x1000000))

/-- A register's reset word, assembled from its fields. -/
def RegDef.reset (r : RegDef) : Word :=
  BitVec.ofNat 32 (r.fields.foldl (fun w f => w + (f.rst % 2 ^ (f.hi - f.lo + 1)) * 2 ^ f.lo) 0)

/-- The reset word the register map gives for an address. -/
def mapReset (a : Nat) : Word := match regAt a with
  | some r => r.reset
  | none => 0

/-- The reset word in force: the value loaded from the parameter sector, or the register map's (R825). -/
def resetWord (s : State) (a : Nat) : Word := match tget a s.loaded with
  | some w => w
  | none => mapReset a

/-- The stored word of a register. -/
def word (s : State) (a : Nat) : Word := match tget a s.regs with
  | some w => w
  | none => resetWord s a

/-- A stored field of a register. -/
def fieldOf (s : State) (a hi lo : Nat) : Nat := bits (word s a) hi lo

/-- A stored flag of a register. -/
def flagOf (s : State) (a i : Nat) : Bool := fieldOf s a i i == 1

/-- Store a register's word. -/
def setWord (a : Nat) (w : Word) (s : State) : State := { s with regs := tset (resetWord s a) a w s.regs }

/-- Store a field of a register. -/
def setField (a hi lo v : Nat) (s : State) : State := setWord a (setBits (word s a) hi lo v) s

/-- Set a status bit. -/
def setFlag (a i : Nat) (s : State) : State := setField a i i 1 s

end Sys2Proof.Machine
end

