-- ==== Sys2Proof/Machine/Ops.lean ====
section
/-!
DEFINITION. The shared operations: the timebase and Evidence Time, counters, detectors and notices, the modes, and the
posting of completions.
-/
namespace Sys2Proof.Machine

/-! ## Time -/

/-- Bring the timebase to instant `t`. It never runs backwards. -/
def tick (t : Nat) (s : State) : State := { s with now := max s.now t }

/-- A free value (log 1): what the manual leaves open at this draw. -/
def freeVal (s : State) : Nat := Config.free s.draws

/-- Step to the next draw of a free value. -/
def draw (s : State) : State := { s with draws := s.draws + 1 }

/-- Change the Cadence Unit. -/
def onCad (f : Cad → Cad) (s : State) : State := { s with cad := f s.cad }

/-- Bits 23:0 of Evidence Time at instant `t` (R13). -/
def subFrame (c : Cad) (t : Nat) : Nat :=
  if t - c.frameStart ≥ c.period then 0xFFFFFF else 2 ^ 24 * (t - c.frameStart) / c.period

/-- Evidence Time at instant `t` of the present frame (R11, R13, R31). -/
def evAt (c : Cad) (t : Nat) : Nat :=
  if c.exhausted then 0xFFFFFFFFFFFFFFFF else c.frame * 2 ^ 24 + subFrame c t

/-- Evidence Time now. -/
def evTime (s : State) : Nat := evAt s.cad s.now

/-- The stamp the Cadence Unit issues for a record: Evidence Time, or the previous stamp plus 1 (R14). DESIGN CHOICE (log
148): past all ones it goes on, and a header takes its low 64 bits. -/
def stampNow (s : State) : Nat := if evTime s ≤ s.cad.lastStamp then s.cad.lastStamp + 1 else evTime s

/-- Issue a stamp (R14). -/
def issueStamp (s : State) : Nat × State :=
  (stampNow s, onCad (fun c => { c with lastStamp := stampNow s }) s)

/-- Code of a lock state in `CAD_STATUS.STATE`. -/
def CadSt.code : CadSt → Nat
  | .free => 0 | .acquire => 1 | .locked => 2 | .holdover => 3 | .master => 4

/-- Code of a quality (R16). -/
def Quality.code : Quality → Nat
  | .locked => 0 | .holdover => 1 | .free => 2 | .master => 3

/-! ## Outputs -/

/-- Record that something leaves the part. -/
def emit (o : Out) (s : State) : State := { s with out := o :: s.out }

/-! ## Modes -/

/-- Code of a lifecycle state (R731). -/
def LState.code : LState → Nat
  | .blank => 0 | .provisioned => 1 | .sealed => 2 | .returned => 3 | .scrapped => 4

/-- Code of a debug level (R757). -/
def DLevel.code : DLevel → Nat
  | .closed => 0 | .observe => 1 | .full => 2

/-- Segment `n` is enabled: its strap bit was sampled 1 (R2, R763). -/
def segOn (s : State) (n : Nat) : Bool := nbit s.boot.segEn n && decide (n < 4)

/-- Sleep state of Segment `n`. -/
def sleepOf (s : State) (n : Nat) : Nat := tgetD 0 n s.pwr.sleep

/-- RESCUE is active: no main program runs (R770, R771). -/
def rescue (s : State) : Bool := match s.boot.running with
  | .mainA => false
  | .mainB => false
  | _ => true

/-- DOZE is active: an enabled Segment or RINDX is in a sleep state (18). -/
def doze (s : State) : Bool := s.pwr.rindSleep != 0 || [0, 1, 2, 3].any fun n => segOn s n && sleepOf s n != 0

/-- The active modes, with the bits of IDENTIFY's MODES. -/
def modes (s : State) : Nat :=
  flags [s.brc.active, rescue s, s.med.harvest, s.life.vault, s.dbg.level != .closed, s.cmd.depotEnd.isSome, doze s]

/-! ## Armed injections (R423, R424) -/

/-- EFLAGS bits (R423). -/
def efInjected : Nat := 1
def efMasked : Nat := 2
def efExhausted : Nat := 4

/-- Change the Integrity Unit. -/
def onInt (f : Integ → Integ) (s : State) : State := { s with integ := f s.integ }

/-- Detectors whose injection point names a SEGMENT, and those whose point names a UNIT (R429). -/
def pointSeg (k : Nat) : Bool := [8, 19, 23, 50, 51, 52, 53, 54, 56, 57].contains k
def pointUnit (k : Nat) : Bool := [6, 9, 11, 18, 26, 27, 35, 36, 37, 38, 39, 43, 44, 45, 46, 50, 51, 54, 58].contains k

/-- The armed injection matches an event of detector `k` at Segment `seg` and unit `unit`. SEGMENT and UNIT are compared where
the catalogue's point names them, and UNIT 0xFF matches any (R424, R429; log 92). A `unit` of 0xFFFF is none in particular. -/
def injHits (s : State) (k seg unit : Nat) : Bool :=
  s.integ.armed && s.integ.injDt == k && (!pointSeg k || seg == 0xFF || s.integ.injSeg == seg)
    && (!pointUnit k || s.integ.injUnit == 0xFF || unit == 0xFFFF || s.integ.injUnit == unit)

/-- Clear `INT_INJ.ARM`. -/
def clearArm (s : State) : State := setField Reg.intInj 31 31 0 s

/-- One event fires: at the COUNT-th, RESULT becomes 2 and ARM clears (R424). -/
def fireOne (s : State) : State :=
  if s.integ.injLeft ≤ 1 then clearArm (onInt (fun i => { i with armed := false, injResult := 2, injLeft := 0 }) s)
  else onInt (fun i => { i with injLeft := i.injLeft - 1 }) s

/-- Meet an event of detector `k`: whether the fault is there, real or injected, the INJECTED flag, and the state with a
fired injection counted. -/
def meet (k seg unit : Nat) (real : Bool) (s : State) : Bool × Nat × State :=
  if injHits s k seg unit then (true, efInjected, fireOne s) else (real, 0, s)

/-- The same where the catalogue's point names a die by its POS too (R424, R429). -/
def meetPos (k seg unit pos : Nat) (real : Bool) (s : State) : Bool × Nat × State :=
  if s.integ.injPos == pos then meet k seg unit real s else (real, 0, s)

/-! ## Notices (R92 to R94) -/

/-- Key of a created ring. -/
def ringKey (f : Nat) (sub : Bool) (i : Nat) : Nat := f * 8192 + (if sub then 0 else 4096) + i

/-- The function table entry of `f`. -/
def funcOf (s : State) (f : Nat) : Func := tgetD {} f s.rge.funcs

/-- Change the Ring Engine. -/
def onRge (g : Rge → Rge) (s : State) : State := { s with rge := g s.rge }

/-- Change function `f`'s entry. -/
def onFunc (f : Nat) (g : Func → Func) (s : State) : State :=
  onRge (fun r => { r with funcs := tset {} f (g (funcOf s f)) r.funcs }) s

/-- A function is ready: its STATE is 1 and, for a virtual function, SR-IOV covers it (R61). -/
def fnReady (s : State) (f : Nat) : Bool :=
  (funcOf s f).st == .ready && (f == 0 || (s.rge.vfEnable && decide (f ≤ s.rge.numVfs)))

/-- The ring with a key. -/
def ringOf (s : State) (k : Nat) : Option Ring := tget k s.rge.rings

/-- Change a created ring. -/
def onRing (k : Nat) (g : Ring → Ring) (s : State) : State :=
  onRge (fun r => { r with rings := tmod k g r.rings }) s

/-- The EVT ring of a function, unless it has none or it is stopped (R94, R835). -/
def evtRing (s : State) (f : Nat) : Option (Nat × Ring) :=
  tfind (fun _ r => r.fn == f && r.kind == .evt && !r.stopped) s.rge.rings

/-- Entries of a CMP or EVT ring that hold no unconsumed entry: depth − 1 less those written and not yet consumed. -/
def ringRoom (r : Ring) : Nat := r.depth - 1 - (r.dev + r.depth - r.known) % r.depth

/-- The device tail after one entry, and the phase (R87). -/
def advance (r : Ring) : Ring :=
  { r with dev := (r.dev + 1) % r.depth, phase := if r.dev + 1 = r.depth then !r.phase else r.phase }

/-- Send a function's MSI-X vector, or set its pending bit while it is masked (R98). The interrupts of a function that is being reset are
discarded (step 5 of R99). -/
def sendVector (f v : Nat) (s : State) : State :=
  if (funcOf s f).st == .resetting then s else
  match tget (f * 4096 + v) s.rge.msix with
  | some (_, _, false) => emit (.msix f v) s
  | _ => onRge (fun r => { r with pba := if r.pba.contains (f * 4096 + v) then r.pba else (f * 4096 + v) :: r.pba }) s

/-- A counting entry has been written to a ring: coalescing and its message (R98). -/
def coalesce (k : Nat) (s : State) : State :=
  match ringOf s k with
  | none => s
  | some r =>
    if !r.intEn then s
    else
      let n := r.coalN + 1
      let fire := (r.coalCount == 0 && r.coalTime == 0) || (r.coalCount != 0 && decide (n ≥ r.coalCount))
      if fire then sendVector r.fn r.vec (onRing k (fun q => { q with coalN := 0, coalFirst := none }) s)
      else onRing k (fun q => { q with coalN := n, coalFirst := some (r.coalFirst.getD s.now) }) s

/-- NFLAGS of a notice as written: PHASE and LOST (R92). -/
def nflags (r : Ring) (n : Notice) : Nat := b2n r.phase + 2 * b2n (n.lost != 0)

/-- Write a notice to an EVT ring (R92). -/
def writeNotice (k : Nat) (r : Ring) (n : Notice) (s : State) : State :=
  coalesce k (onRing k advance (emit (.notice r.fn (r.base + 32 * r.dev) (nflags r n) n) s))

/-- How many notices a function's hold takes (R94). -/
def holdMax (f : Nat) : Nat := if f = 0 then 256 else 32

/-- The fetching of other than Seal rings and the writing of notices wait: BRACE is active (02, Modes). -/
def noticesWait (s : State) : Bool := s.brc.active

/-- Queue a notice for function `f`: write it, hold it or discard it (R94). A discarded one answers the EFLAGS of its DT12:
a full hold, or an injection on a notice of function 0 (R429). -/
def postCore (f typ src : Nat) (payload : List Byte) (s : State) : Option Nat × State :=
  let e := funcOf s f
  let n : Notice := { typ := typ, seq := e.seq, lost := e.lost, src := src, time := evTime s, payload := fit 16 payload }
  let s := if f = 0 then { s with history := (n :: s.history).take 1024 } else s
  if e.st != .ready then (none, s)
  else
    let s1 := onFunc f (fun e => { e with seq := (e.seq + 1) % 65536 }) s
    let lose := onFunc f fun e => { e with lost := satAdd 65535 e.lost 1 }
    if f = 0 && injHits s 12 0xFF 0xFFFF then (some efInjected, fireOne (lose s1)) else
    match evtRing s f with
    | some (k, r) =>
      if !noticesWait s && e.held.isEmpty && decide (ringRoom r > 0) then
        (none, writeNotice k r n (onFunc f (fun e => { e with lost := 0 }) s1))
      else if e.held.length < holdMax f then
        (none, onFunc f (fun e => { e with held := e.held ++ [n], lost := 0 }) s1)
      else (some 0, lose s1)
    | none =>
      if e.held.length < holdMax f then
        (none, onFunc f (fun e => { e with held := e.held ++ [n], lost := 0 }) s1)
      else (some 0, lose s1)

/-! ## Counters (R416, R418) -/

/-- Live value of a counter. -/
def ctr (s : State) (a : Nat) : Nat := tgetD 0 a s.ctrs

/-- Value of a counter's read register: its copy of the last SNAP strobe. -/
def snapOf (s : State) (a : Nat) : Nat := tgetD 0 a s.snaps

/-- Set a live counter. -/
def setCtr (a v : Nat) (s : State) : State := { s with ctrs := tset 0 a v s.ctrs }

/-- Copy the counters at the addresses `l` into their read registers (R418). -/
def snapAll (l : List Nat) (s : State) : State :=
  { s with snaps := l.foldl (fun m a => tset 0 a (ctr s a) m) s.snaps }

/-! ## Detectors (R420 to R423) -/

/-- Where and to what a detector's event happened (R423). -/
structure Site where
  seg : Nat := 0xFF
  unit : Nat := 0xFFFF
  func : Nat := 0xFFFF
  loc : Nat := 0
  aux : Nat := 0

/-- The bypass window is open for detector `k` (R428). -/
def bypassed (s : State) (k : Nat) : Bool := match s.integ.bypass with
  | some (d, e) => d == k && decide (s.now < e)
  | none => false

/-- Notices of detector `k` are enabled (R421). -/
def notifyOn (s : State) (k : Nat) : Bool :=
  if k < 32 then flagOf s Reg.intNotifyLo k else flagOf s Reg.intNotifyHi (k - 32)

/-- The Detector notice payload of an event, with its COUNT (R422). -/
def detPayload (e : Ev) (n : Nat) : List Byte :=
  pack [(1, e.dt), (1, 1), (1, e.seg), (1, e.eflags), (2, min n 65535), (2, e.unit), (8, e.loc)]

/-- Hold-off length in ns. -/
def holdoffNs (s : State) : Nat := fieldOf s Reg.intNotice 15 0 * 1000000

/-- An injection for detector `k` has been made whose event comes later: the raising it brings about is logged with INJECTED
(R426). -/
def injDue (k : Nat) (s : State) : State := onInt (fun i => { i with injDue := k :: i.injDue.filter (· != k) }) s

/-- The event that an injection was to bring about can no longer come of it. -/
def injPast (k : Nat) (s : State) : State := onInt (fun i => { i with injDue := i.injDue.filter (· != k) }) s

/-- One raising of detector `k`: tally, log and notice (R420, R421). What its notice answers is answered. With the checker bypassed it is
logged so, and no response masks it (R428; log 157). -/
def raiseCore (k : Nat) (x : Site) (ef : Nat) (s : State) : Option Nat × State :=
  let ef := if s.integ.injDue.contains k && ef % 2 == 0 then ef + efInjected else ef
  let s := injPast k s
  let tally := ctr s (Reg.intTally k)
  let t' := satAdd 0xFFFFFFFF tally 1
  let ef := (if bypassed s k then ef % 2 + 8 else ef) + (if t' = 0xFFFFFFFF then 16 else 0)
  let e : Ev := { time := evTime s, dt := k, eflags := ef, seg := x.seg, unit := x.unit, func := x.func, loc := x.loc, aux := x.aux }
  let s := setCtr (Reg.intTally k) t' s
  let s := onInt (fun i => { i with log := (e :: i.log).take 496 }) s
  if !notifyOn s k then (none, s)
  else
    let kept := ((tget k s.integ.holds).map (·.pend)).getD 0
    match (tget k s.integ.holds).filter (·.run) with
    | some h => (none, onInt (fun i => { i with holds := tput k { h with pend := h.pend + 1, latest := e } i.holds }) s)
    | none =>
      let s := onInt (fun i => { i with holds := tput k { until_ := s.now + holdoffNs s, pend := 0, latest := e } i.holds }) s
      postCore 0 0x09 0xFFFF (detPayload e (kept + 1)) s

/-- A notice of function `f` was discarded for a full hold: counted in `FN_NOTICE_DROP`, and DT12 is raised (R94, R429).
A discarded notice of DT12 itself counts too; its hold-off then keeps DT12 from posting again. -/
def dropped (f ef : Nat) (s : State) : State :=
  let s := setCtr (Reg.fnNoticeDrop f) (satAdd 0xFFFFFFFF (ctr s (Reg.fnNoticeDrop f)) 1) s
  let (d, s) := raiseCore 12 { func := f } ef s
  if d.isSome then
    (raiseCore 12 { func := 0 } 0 (setCtr (Reg.fnNoticeDrop 0) (satAdd 0xFFFFFFFF (ctr s (Reg.fnNoticeDrop 0)) 1) s)).2
  else s

/-- Raise detector `k` with EFLAGS `ef` (R420). -/
def raiseF (k : Nat) (x : Site) (ef : Nat) (s : State) : State :=
  match raiseCore k x ef s with
  | (some e, s) => dropped 0 e s
  | (none, s) => s

/-- Raise detector `k` (R420). -/
def raise (k : Nat) (x : Site) (s : State) : State := raiseF k x 0 s

/-- Queue a notice for function `f` (R93, R94). -/
def post (f typ src : Nat) (payload : List Byte) (s : State) : State :=
  match postCore f typ src payload s with
  | (some e, s) => dropped f e s
  | (none, s) => s

/-- The Segment that a BAR2 register belongs to, if it belongs to one (R816). -/
def regSeg (a : Nat) : Option Nat :=
  let b := a / 0x10000
  let o := a % 0x10000
  if b < 7 ∨ b = 0xE ∨ b > 0x11 then none
  else if b = 8 then (if 0x100 ≤ o ∧ o < 0x200 then some ((o - 0x100) / 0x40) else none)
  else if 0x100 ≤ o ∧ o < 0x300 then some ((o - 0x100) / 0x80)
  else if b = 0xC ∧ 0x400 ≤ o ∧ o < 0x600 then some ((o - 0x400) / 0x80)
  else none

/-- The Segment whose absence R2 answers for: that of R816, and of the per-Segment registers of block PWM. -/
def absentSeg (a : Nat) : Option Nat :=
  if 0x20100 ≤ a ∧ a < 0x20300 then some ((a - 0x20100) / 0x80) else regSeg a

/-- Add `n` to a performance counter: 48 bits, wrapping with a Detector notice of NKIND 2 that names the counter's Segment (R416, R422). -/
def bump (a n : Nat) (s : State) : State :=
  let v := ctr s a + n
  if v ≥ 2 ^ 48 then
    post 0 0x09 0xFFFF (pack [(1, 0xFF), (1, 2), (1, (absentSeg a).getD 0xFF), (1, 0), (2, 1), (2, 0xFFFF), (8, a % 0x1000000)])
      (setCtr a (v % 2 ^ 48) s)
  else setCtr a v s

/-- Add 1 to a fault tally: 32 bits, holding at its maximum, where it raises detector `k` once (R416). -/
def bumpTally (a k : Nat) (x : Site) (s : State) : State :=
  let v := ctr s a
  if v ≥ 0xFFFFFFFF then s
  else if v + 1 = 0xFFFFFFFF then raise k x (setCtr a (v + 1) s)
  else setCtr a (v + 1) s

/-- Add 1 to a fault tally at an event that raises the same detector itself, so that its maximum raises nothing further
(R78, R416). -/
def bumpTallyQuiet (a : Nat) (s : State) : State := setCtr a (satAdd 0xFFFFFFFF (ctr s a) 1) s

/-! ### Health counters (R333, R416) -/

/-- Change the health figures. -/
def onHealth (f : Health → Health) (s : State) : State := { s with health := f s.health }

/-- Add `n` to health counter `k`: 64 bits, holding at its maximum with its AT_MAX flag and a notice of NKIND 3. Its
low register's offset is the counter's byte in the Health log. -/
def bumpHealth (k n : Nat) (s : State) : State :=
  let v := tgetD 0 k s.health.ctr
  let v' := satAdd 0xFFFFFFFFFFFFFFFF v n
  let s := onHealth (fun h => { h with ctr := tset 0 k v' h.ctr }) s
  if v' = 0xFFFFFFFFFFFFFFFF ∧ v ≠ 0xFFFFFFFFFFFFFFFF then
    post 0 0x09 0xFFFF (pack [(1, 0xFF), (1, 3), (1, 0xFF), (1, 0), (2, 1), (2, 0xFFFF), (8, 16 + 8 * k)])
      (onHealth (fun h => { h with atMax := orBit h.atMax k }) s)
  else s

/-- Add to a health counter that counts whole units of `u`, keeping the rest for later. -/
def bumpHealthBy (k u n : Nat) (s : State) : State :=
  let r := tgetD 0 k s.health.rest + n
  bumpHealth k (r / u) (onHealth (fun h => { h with rest := tset 0 k (r % u) h.rest }) s)

/-- Post a Health notice (R334). -/
def healthNotice (kind seg arg value : Nat) (s : State) : State :=
  post 0 0x03 0xFFFF (pack [(1, kind), (1, seg), (2, 0), (4, arg), (8, value)]) s

/-- Drive SMB_ALERT_N low (R809). -/
def alertLow (s : State) : State :=
  if s.pins.smbAlert then s else emit (.smbAlert true) { s with pins := { s.pins with smbAlert := true } }

/-- A critical warning of the Plain controller: it completes the oldest Asynchronous Event Request, or is kept for one, where its
bit is enabled and no such event is masked (R156, R157; log 47). `bit` is its place in the critical-warning byte, and `info` says
what it is. -/
def critEvent (bit info : Nat) (s : State) : State :=
  let v := s.cmd.nvme
  if !s.boot.plain || v.masked || !nbit (tgetD 0 0x0B v.features) bit then s
  else
    let v := { v with masked := true }
    match v.aers with
    | cid :: rest =>
      emit (.nvme 0 cid 0 (1 + info * 256 + 2 * 65536)) { s with cmd := { s.cmd with nvme := { v with aers := rest } } }
    | [] => { s with cmd := { s.cmd with nvme := { v with events := v.events ++ [info] } } }

/-- Set `INT_STATUS.DEGRADED`; CRIT.DEGRADED changes with it (R332, R415, R809). -/
def setDegraded (s : State) : State :=
  if s.integ.degraded then s else critEvent 2 0 (alertLow (onInt (fun i => { i with degraded := true }) s))

/-- Masking is exhausted for a command that ends with `status` (R415); an event that an injection caused advances no health counter
(R419). -/
def exhaustF (ef status nsid : Nat) (s : State) : State :=
  let s := setDegraded s
  healthNotice 10 0xFF status nsid (if ef % 2 = 1 then s else bumpHealth 14 1 s)
def exhaust (status nsid : Nat) (s : State) : State := exhaustF 0 status nsid s

/-- Masking is exhausted for no one command: the notice's status is a free value (R398, R414, R415; log 155). -/
def exhaustNone (ef : Nat) (s : State) : State := draw (exhaustF ef (freeVal s) 0 s)

/-! ## Mode notices (R757) -/

/-- SLEEP byte of a Mode notice. -/
def sleepByte (s : State) : Nat :=
  flags [sleepOf s 0 != 0, sleepOf s 1 != 0, sleepOf s 2 != 0, sleepOf s 3 != 0, s.pwr.rindSleep != 0]

/-- The Mode notice payload (R757). -/
def modePayload (prev mcause : Nat) (s : State) : List Byte :=
  pack [(1, modes s), (1, prev), (1, s.life.lstate.code), (1, s.dbg.level.code), (1, sleepByte s), (1, mcause), (2, 0),
    (8, match s.cmd.depotEnd with | some e => e * 2 ^ 24 | none => 0)]

/-- Post a Mode notice to function 0 and to every ready function (R757). -/
def modeNotice (prev mcause : Nat) (s : State) : State :=
  let p := modePayload prev mcause s
  ((0 :: (tkeys s.rge.funcs).filter fun f => f != 0 && fnReady s f)).foldl (fun s f => post f 0x06 0xFFFF p s) s

/-- Apply a change of mode, and post the Mode notice that reports it; a change of DOZE alone posts none (R757). -/
def withModes (mcause : Nat) (f : State → State) (s : State) : State :=
  let s' := f s
  if clrBit (modes s) 6 = clrBit (modes s') 6 && mcause == 1 then s' else modeNotice (modes s) mcause s'

/-! ## Completions (R86 to R90, R144) -/

/-- Key of the CMP ring that a command's submission ring names. -/
def cqKey (s : State) (f ring : Nat) : Option Nat := match ringOf s (ringKey f true ring) with
  | some r => some (ringKey f false r.cq)
  | none => none

/-- Bytes `o … o + n − 1` of a command's descriptor as a number. -/
def dfld (c : Flight) (o n : Nat) : Nat := fld c.desc o n

/-- What an error entry says beside the command's own fields (R144). -/
structure ErrInfo where
  param : Nat := 0xFF
  stream : Nat := 0xFFFF
  detector : Nat := 0xFFFF
  loc : Nat := 0

/-- The status counts as an error of R144: outside group 0x00, and not 0x0109. -/
def isErr (status : Nat) : Bool := decide (status ≥ 0x100) && status != 0x0109

/-- The stream that a command names, in the field that its opcode has for it, or 0xFFFF (R109, R112 to R114, R118, R144, R150). -/
def errStream (c : Flight) : Nat :=
  if [0x04, 0x05, 0x06, 0x20, 0x21, 0x22, 0x23, 0x27, 0x28, 0x29].contains c.opcode then dfld c 24 2
  else if c.opcode = 0x2B ∧ dfld c 24 1 = 3 then dfld c 28 2
  else 0xFFFF

/-- The first block, record number or byte offset that an error of range or selection concerns, or 0 (R144). -/
def errPlace (c : Flight) (status : Nat) : Nat :=
  if status = 0x010C ∧ [0x24, 0x25, 0x26].contains c.opcode then dfld c 24 8
  else if (status = 0x010C ∨ status = 0x0207) ∧ c.opcode = 0x22 then dfld c 40 8
  else if status = 0x010C ∧ c.opcode = 0x07 then dfld c 32 8
  else if status = 0x010D ∧ c.opcode = 0x0C then dfld c 24 4
  else 0

/-- Add an Error log entry for a command that completes with an error (R144). -/
def logErr (c : Flight) (status : Nat) (x : ErrInfo) (s : State) : State :=
  let n := tgetD 0 c.fn s.errCounts + 1
  let e : ErrEntry := { count := n, time := evTime s, cid := c.cid, sq := c.ring, status := status, opcode := c.opcode,
                        param := x.param, nsid := dfld c 4 4, stream := if x.stream = 0xFFFF then errStream c else x.stream,
                        detector := x.detector, loc := if x.loc = 0 then errPlace c status else x.loc }
  { s with errs := tput c.fn ((e :: (tgetD [] c.fn s.errs)).take 256) s.errs, errCounts := tset 0 c.fn n s.errCounts }

/-- The Ring notice payload (R95). -/
def ringPayload (r : Ring) (event status addr : Nat) : List Byte :=
  pack [(2, r.idx), (2, r.global), (1, match r.kind with | .sub => 0 | .cmp => 1 | .tag => 2 | .evt => 3), (1, event),
    (2, status), (8, addr)]

/-- Write a completion to a CMP ring, unless the ring is gone or stopped (R86, R835). -/
def writeCompletion (k : Nat) (c : Flight) (sqhd result status : Nat) (s : State) : State :=
  match ringOf s k with
  | none => s
  | some r =>
    let s := onRing k (fun q => { q with reserved := q.reserved - 1 }) s
    if r.stopped then s
    else
      let e : Completion := { result := result, cid := c.cid, sqhd := sqhd, status := status,
                              sqf := c.ring + 4096 * b2n (isErr status) + 32768 * b2n r.phase }
      let s := onRing k advance (emit (.completion c.fn r.idx (r.base + 16 * r.dev) e) s)
      if c.noInt then s else coalesce k s

/-- A command that goes out of flight is noted (R716). -/
def noteEnd (now : Nat) (c : Flight) (t : Tab Nat) : Tab Nat := tset 0 (c.opcode * 4 + c.seg) now t

/-- Take the commands that pass out of flight without completions. -/
def dropFlights (p : Nat → Flight → Bool) (s : State) : State :=
  onRge (fun r => { r with flights := tfilter (fun i c => !p i c) r.flights
                           ended := r.flights.foldl (fun e q => if p q.1 q.2 then noteEnd s.now q.2 e else e) r.ended }) s

/-- Take a command out of flight without a completion. -/
def dropFlight (id : Nat) (s : State) : State :=
  onRge (fun r => { r with flights := tdel id r.flights
                           ended := match tget id r.flights with | some c => noteEnd s.now c r.ended | none => r.ended }) s

/-- The status a served command shows: 0x0004 in place of 0x0000 when BRACE deferred it (R153). -/
def shownStatus (c : Flight) (status : Nat) : Nat := if status = 0 && c.deferred then 4 else status

/-- Complete command `id` (R86, R144): error entry, completion to the CMP ring its ring names, and out of flight. While its
function is resetting the completion is discarded (R99). -/
def completeX (id status result : Nat) (x : ErrInfo) (s : State) : State :=
  match tget id s.rge.flights with
  | none => s
  | some c =>
    if (funcOf s c.fn).st == .resetting then dropFlight id s else
    let st := shownStatus c status
    let s := if isErr st then logErr c st x s else s
    let sqhd := match ringOf s (ringKey c.fn true c.ring) with | some r => r.dev | none => 0
    let s := match cqKey s c.fn c.ring with
      | some k => writeCompletion k c sqhd result st s
      | none => s
    dropFlight id s

/-- Complete command `id` with a status and a result. -/
def complete (id status result : Nat) (s : State) : State := completeX id status result {} s

/-- Complete a Seal of a Seal ring with its chain tag: the first 16 bytes of the tag go to the tag ring slot, and the
reserved status entry is released; an all-zero prefix gives status 0x0003 instead (R89, R90, R96). -/
def completeSeal (id record : Nat) (tag : List Byte) (s : State) : State :=
  match tget id s.rge.flights with
  | none => s
  | some c =>
    if (funcOf s c.fn).st == .resetting then dropFlight id s else
    if (slice tag 0 16).all (· == 0) then complete id 3 record s
    else match ringOf s (ringKey c.fn true c.ring) with
      | none => dropFlight id s
      | some r =>
        let s := onRing (ringKey c.fn false r.cq) (fun q => { q with reserved := q.reserved - 1 }) s
        let tk := ringKey c.fn false r.tag
        let s := match ringOf s tk with
          | none => s
          | some q =>
            if q.stopped then s
            else
              let s := emit (.tag c.fn q.idx c.slot (q.base + 16 * c.slot) (slice tag 0 16)) s
              if c.noInt then s else coalesce tk s
        dropFlight id s

/-- Output data laid out over the entries of a buffer or scatter list: what each DATA entry receives. The bytes that fall to a BUCKET
entry are discarded (R84). -/
def scatter : List (Nat × Nat × Bool) → List Byte → List (Nat × List Byte)
  | [], _ => []
  | (a, n, bucket) :: t, l => (if bucket || (l.take n).isEmpty then [] else [(a, l.take n)]) ++ scatter t (l.drop n)

/-- Send a command's output data to host memory (R84). -/
def output (c : Flight) (data : List Byte) (s : State) : State :=
  if (funcOf s c.fn).st == .resetting then s else
  let l := scatter c.sgl data
  bumpHealthBy 0 1000000 (l.foldl (fun n p => n + p.2.length) 0) (emit (.output c.fn c.ring c.cid l) s)

/-! ## The Pith journal's queue (R687) -/

/-- Change the Pith Array. -/
def onPith (f : Pith → Pith) (s : State) : State := { s with pith := f s.pith }

/-- Priority of an entry in the journal writer's queue: erase entries, then cadence records and fence tables, then the
others (R687). -/
def jprio (e : JEntry) : Nat := if e.etype = 1 then 0 else if e.etype = 4 ∨ e.etype = 6 then 1 else 2

/-- Insert in queue order: after every entry of the same or a higher priority. -/
def jinsert (e : JEntry) : List JEntry → List JEntry
  | [] => [e]
  | x :: t => if jprio e < jprio x then e :: x :: t else x :: jinsert e t

/-- A newer entry of the same kind and key drops a queued one (R687). -/
def jsupersedes (e x : JEntry) : Bool := e.key.isSome && e.etype == x.etype && e.key == x.key

/-- Queue a journal entry (R687). -/
def queueJ (etype src : Nat) (key : Option Nat) (body : List Byte) (s : State) : State :=
  let e : JEntry := { etype := etype, src := src, key := key, body := body, queued := s.now }
  onPith (fun p => { p with jq := jinsert e (p.jq.filter fun x => !jsupersedes e x) }) s

/-- Queue a retirement log entry (R411). -/
def queueRetire (rkind cause seg chan target lun loc : Nat) (s : State) : State :=
  queueJ 2 seg none (pack [(1, rkind), (1, cause), (1, seg), (1, chan), (1, target), (1, lun), (2, 0), (8, loc)]) s

end Sys2Proof.Machine
end

