-- ==== Sys2Proof/Machine/Inject.lean ====
section
/-!
DEFINITION. Fault injection and the checker bypass window: arming, firing and disarming, and how a detector's event is met
when an injection falls on it (R424 to R428).
-/
namespace Sys2Proof.Machine

/-- Injection code of a detector (R429): code D where the catalogue says D, code A otherwise. -/
def codeD (k : Nat) : Bool :=
  [1, 2, 3, 9, 11, 14, 15, 20, 24, 25, 27, 29, 35, 37, 38, 39, 45, 48, 49, 54, 58].contains k

/-- Injection for detector `k` is permitted in the present lifecycle state and modes (R425, R430). -/
def injPermitted (s : State) (k : Nat) : Bool :=
  match s.life.lstate with
  | .scrapped => false
  | .blank => true
  | .returned => true
  | _ => !codeD k || (s.dbg.level == .full && !s.life.vault)

/-- Disarm an armed injection: ARM clears, RESULT reads 0, and the events not yet fired are abandoned (R424). -/
def disarm (s : State) : State :=
  if s.integ.armed then clearArm (onInt (fun i => { i with armed := false, injResult := 0, injLeft := 0 }) s) else s

/-- An event of detector `k` that happens or not: the detector is raised when it does; the flag says whether its response
is taken, which a bypass window prevents (R428). -/
def detect (k : Nat) (x : Site) (real : Bool) (s : State) : Bool × State :=
  let (bad, ef, s) := meet k x.seg x.unit real s
  if bad then (!bypassed s k, raiseF k x ef s) else (false, s)

/-- The EFLAGS that `detect` raises such an event with: whether an injection is what it meets (R419, R426). -/
def detectEf (k : Nat) (x : Site) (real : Bool) (s : State) : Nat := (meet k x.seg x.unit real s).2.1

/-- Close the bypass window (R428). -/
def closeBypass (s : State) : State := setField Reg.intBypass 31 31 0 (onInt (fun i => { i with bypass := none }) s)

end Sys2Proof.Machine
end

