-- ==== Sys2Proof/Machine/Operands.lean ====
section
/-!
DEFINITION. The operand forms of a Dexar core: registers, immediates, and the addressing modes over an address register
(R521, R522, R527, R568, R579).
-/
namespace Sys2Proof.Machine

/-! ## Registers (R521) -/

def DCore.greg (c : DCore) (n : Nat) : W64 := tgetD 0 n c.g
def DCore.mreg (c : DCore) (n : Nat) : BitVec 80 := tgetD 0 n c.m
def DCore.areg (c : DCore) (n : Nat) : AReg := tgetD {} n c.a

/-- A predicate; p0 always reads 1 (R521). -/
def DCore.preg (c : DCore) (n : Nat) : Bool := n == 0 || tgetD false n c.p

def DCore.setG (n : Nat) (v : W64) (c : DCore) : DCore := { c with g := tset 0 n v c.g }
def DCore.setM (n : Nat) (v : BitVec 80) (c : DCore) : DCore := { c with m := tset 0 n v c.m }
def DCore.setA (n : Nat) (v : AReg) (c : DCore) : DCore := { c with a := tset {} n v c.a }

/-- Write a predicate; a write of p0 is discarded (R521). -/
def DCore.setP (n : Nat) (v : Bool) (c : DCore) : DCore := if n = 0 then c else { c with p := tset false n v c.p }

/-- Fields of `PSTATE` (R523). -/
def DCore.repact (c : DCore) : Bool := c.pstate.getLsbD 15
def DCore.ldepth (c : DCore) : Nat := bits c.pstate 14 13
def DCore.exl (c : DCore) : Bool := c.pstate.getLsbD 12
def DCore.ie (c : DCore) : Bool := c.pstate.getLsbD 11
def DCore.sstep (c : DCore) : Bool := c.pstate.getLsbD 10
def DCore.setPs (hi lo v : Nat) (c : DCore) : DCore := { c with pstate := setBits c.pstate hi lo v }

/-! ## Source operands -/

/-- A second source: a general register, or an immediate extended to 64 bits (R568). -/
inductive Src where
  | reg (n : Nat)
  | imm (v : W64)
  deriving DecidableEq, Repr

def Src.get (c : DCore) : Src → W64
  | .reg n => c.greg n
  | .imm v => v

/-- A number's low `n` bits, sign-extended to 64 bits. -/
def sx (n : Nat) (v : W64) : W64 := (v.setWidth n).signExtend 64

/-- A number's low `n` bits, zero-extended to 64 bits. -/
def zx (n : Nat) (v : W64) : W64 := (v.setWidth n).setWidth 64

/-! ## Address registers (R522) -/

/-- Reverse the order of the low `k` bits of `v`. -/
def revBits : Nat → Nat → Nat
  | 0, _ => 0
  | k + 1, v => (v % 2) * 2 ^ k + revBits k (v / 2)

/-- log2 of a power of two from 2 to 2^23, if it is one. -/
def pow2log (n : Nat) : Option Nat := ((List.range 24).drop 1).find? fun k => 2 ^ k == n

/-- A number reduced to a 64-bit signed integer (R522; log 30). -/
def wrap64 (x : Int) : Int := (BitVec.ofInt 64 x).toInt

/-- move(a, d): the new PTR of an address register after a move of `d` bytes (R522). -/
def AReg.move (a : AReg) (d : Int) : BitVec 48 :=
  let off : Int := (a.ptr.toNat : Int) - a.base.toNat
  let len : Int := a.len.toNat
  if a.mode = 1 ∧ a.len ≠ 0 then BitVec.ofInt 48 (a.base.toNat + wrap64 (off + d) % len)
  else match (if a.mode = 2 then pow2log a.len.toNat else none) with
    | some k =>
      let x := revBits k (off % len).toNat + revBits k (d % len).toNat
      BitVec.ofNat 48 (a.base.toNat + revBits k (x % a.len.toNat))
    | none => BitVec.ofInt 48 (a.ptr.toNat + d)

/-- STEP as a signed number. -/
def AReg.stepI (a : AReg) : Int := a.step.toInt

/-- A memory operand: address register, addressing mode and signed displacement in units of the access size (R527). -/
structure MemRef where
  ar : Nat
  am : Nat
  disp : Int
  deriving DecidableEq, Repr

/-- Effective address, and the PTR that the addressing mode leaves, if it moves the register (R527, R579). -/
def MemRef.ea (c : DCore) (m : MemRef) (size : Nat) : Nat × Option (BitVec 48) :=
  let a := c.areg m.ar
  match m.am with
  | 0 => ((BitVec.ofInt 48 (a.ptr.toNat + m.disp * size)).toNat, none)
  | 1 => (a.ptr.toNat, some (a.move a.stepI))
  | 2 => ((a.move a.stepI).toNat, some (a.move a.stepI))
  | _ => (a.ptr.toNat, some (a.move (m.disp * size)))

/-- Move an address register's PTR. -/
def DCore.setPtr (n : Nat) (p : BitVec 48) (c : DCore) : DCore := c.setA n { c.areg n with ptr := p }

/-- Fields of an address register by SETA's and GETA's selector (R582). -/
def AReg.field (a : AReg) (f : Nat) : W64 := match f with
  | 0 => a.ptr.setWidth 64
  | 1 => a.base.setWidth 64
  | 2 => a.len.setWidth 64
  | 3 => a.step.signExtend 64
  | _ => a.mode.setWidth 64

def AReg.setField (a : AReg) (f : Nat) (v : W64) : AReg := match f with
  | 0 => { a with ptr := v.setWidth 48 }
  | 1 => { a with base := v.setWidth 48 }
  | 2 => { a with len := v.setWidth 24 }
  | 3 => { a with step := v.setWidth 24 }
  | _ => { a with mode := if v.setWidth 2 = 3#2 then 0 else v.setWidth 2 }

end Sys2Proof.Machine
end

