-- ==== Sys2Proof/Machine/RegWrite.lean ====
section
/-!
DEFINITION. The common rules of register writes: byte enables, reserved bits, access types, the LOCK bit, and the bringing
of fields into range (R7, R8, R817 to R822).
-/
namespace Sys2Proof.Machine

/-- The block's LOCK bit reads 1 (R821); BOOT and the BAR0 blocks have none. -/
def blockLocked (s : State) (a : Nat) : Bool :=
  if a < 0x10000 ∨ a ≥ 0x1000000 then false else flagOf s (a / 0x10000 * 0x10000) 31

/-- The address of the status register whose bit 31 is the block's `RSVD_WR`. Outside every block it is `BOOT_STATUS`
(R820). -/
def statusReg (a : Nat) : Nat :=
  if a ≥ 0x1000000 then
    let f := a / 0x1000000 - 1
    match a % 0x1000000 / 0x100 with
    | 1 => Reg.fnkStatus f
    | 2 => Reg.dspfStatus f
    | _ => Reg.fnStatus f
  else if a < 0x10000 ∨ a ≥ 0x120000 then 0
  else a / 0x10000 * 0x10000 + 4

/-- Set the block's `RSVD_WR` (R8, R819). -/
def setRsvd (a : Nat) (s : State) : State := setFlag (statusReg a) 31 s

/-- The bits of the enabled bytes (R817). -/
def beMask (be : Nat) : Nat :=
  (if nbit be 0 then 0xFF else 0) + (if nbit be 1 then 0xFF00 else 0) + (if nbit be 2 then 0xFF0000 else 0)
    + (if nbit be 3 then 0xFF000000 else 0)

/-- The word with its enabled bytes taken from `v` (R817). -/
def merge (old v : Word) (be : Nat) : Word :=
  BitVec.ofNat 32 ((old.toNat &&& (0xFFFFFFFF - beMask be)) ||| (v.toNat &&& beMask be))

/-- Bits that a register's fields name. -/
def namedMask (r : RegDef) : Nat := r.fields.foldl (fun m f => m ||| ((2 ^ (f.hi - f.lo + 1) - 1) * 2 ^ f.lo)) 0

/-- The write sets a reserved bit (R819). -/
def setsReserved (r : RegDef) (v : Word) (be : Nat) : Bool :=
  (v.toNat &&& beMask be) &&& (0xFFFFFFFF - namedMask r) != 0

/-- The value of a range limit, from the word as the write has left it (R822). -/
def limitOf (w : Word) (l : RegLimit) : Nat := match l.dep with
  | none => l.base.toNat
  | some (hi, lo) => (l.base + (bits w hi lo : Int)).toNat

/-- The nearest number among spans, the higher of two equally near (R822). -/
def nearestSpan (x : Nat) (l : List (Nat × Nat)) : Nat :=
  (l.map fun p => clamp p.1 p.2 x).foldl (fun b c => if absDiff c x < absDiff b x ∨ (absDiff c x = absDiff b x ∧ c > b) then c else b)
    (match l with | p :: _ => clamp p.1 p.2 x | [] => x)

/-- A field's value brought into its range (R822). -/
def inRange (w : Word) (g : Rng) (x : Nat) : Nat := match g with
  | .all => x
  | .span lo hi => clamp (limitOf w lo) (limitOf w hi) x
  | .oneOf l => nearestSpan x l
  | .multiple lo hi st => clamp lo hi ((x + st / 2) / st * st)

/-- One field of a write: RW and RWL fields take the merged bits, W1C fields clear where an enabled 1 is written, the
others keep theirs (R7, R817). -/
def writeField (old v : Word) (be : Nat) (locked : Bool) (w : Word) (f : RegField) : Word :=
  match f.acc with
  | .rw => setBits w f.hi f.lo (bits (merge old v be) f.hi f.lo)
  | .rwl => if locked then w else setBits w f.hi f.lo (bits (merge old v be) f.hi f.lo)
  | .w1c => if nbit (v.toNat &&& beMask be) f.lo then setBits w f.hi f.lo 0 else w
  | _ => w

/-- The writable fields brought into range, from the highest bits down (R822). -/
def rangeField (locked : Bool) (w : Word) (f : RegField) : Word :=
  if f.acc == .rw || (f.acc == .rwl && !locked) then setBits w f.hi f.lo (inRange w f.rng (bits w f.hi f.lo)) else w

/-- The word that a write leaves in a register (R7, R817 to R822). The LOCK bit, once 1, stays 1 (R821), and the other
fields of the write that sets it take effect first. -/
def written (r : RegDef) (a : Nat) (old v : Word) (be : Nat) (locked : Bool) : Word :=
  let w := r.fields.foldl (rangeField locked) (r.fields.foldl (writeField old v be locked) old)
  if locked && a % 0x10000 == 0 && a ≥ 0x10000 && a < 0x1000000 then setBits w 31 31 1 else w

/-- A write to an assigned register under the common rules. -/
def writeAssigned (r : RegDef) (a : Nat) (v : Word) (be : Nat) (s : State) : State :=
  let s' := setWord a (written r a (word s a) v be (blockLocked s a)) s
  if setsReserved r v be then setRsvd a s' else s'

/-- A write that is ignored as a whole, its register being busy or locked, still flags reserved bits that it sets (R8). -/
def flagReserved (a : Nat) (v : Word) (be : Nat) (s : State) : State := match regAt a with
  | some r => if setsReserved r v be then setRsvd a s else s
  | none => s

/-- A write to any offset under the common rules; an unassigned offset ignores it and sets `RSVD_WR` (R820). -/
def writeCommon (a : Nat) (v : Word) (be : Nat) (s : State) : State := match regAt a with
  | some r => writeAssigned r a v be s
  | none => setRsvd a s

end Sys2Proof.Machine
end

