-- ==== Sys2Proof/Machine/Sleep.lean ====
section
/-!
DEFINITION. Sleeping domains: which Segment a register belongs to, the waking of domains, the writes held for a sleeping
Segment, and the per-Segment SNAP strobes (R2, R418, R718 to R722, R816, R823).
-/
namespace Sys2Proof.Machine

/-- Change the Power Manager. -/
def onPwr (f : Pwr → Pwr) (s : State) : State := { s with pwr := f s.pwr }

/-! ## Registers of Segments (R816, R823) -/

/-- The counters that the SNAP strobe at `a` of Segment `n` copies (R185, R244, R276, R337, R385, R512, R629, R669). -/
def segCounters (a n : Nat) : List Nat :=
  if a = Reg.clsSnap n then [Reg.clsSealsLo n, Reg.clsRecallsLo n, Reg.clsExcessLo n, Reg.clsVoidLo n, Reg.clsOverrun n]
  else if a = Reg.idxSnap n then [Reg.idxRecordsLo n, Reg.idxUnparsedLo n, Reg.idxStayLo n]
  else if a = Reg.medSnap n then [Reg.medGcLo n, Reg.medPatrolLo n, Reg.medReclaimLo n, Reg.medMovefail n]
  else if a = Reg.flwSnap n then
    [Reg.flwWindowsLo n, Reg.flwSuspendLo n, Reg.flwAroundLo n, Reg.flwGuardLo n, Reg.flwLate n, Reg.flwReerase n]
      ++ (List.range 8).map fun c => Reg.flwCherr (8 * n + c)
  else if a = Reg.zstSnap n then
    [Reg.zstCinLo n, Reg.zstCoutLo n, Reg.zstDoutLo n, Reg.zstRawblkLo n, Reg.zstBypassLo n, Reg.zstFormat n, Reg.zstCheck n]
  else if a = Reg.drmSnap n then [Reg.drmRdLo n, Reg.drmWrLo n, Reg.drmNbrLo n, Reg.drmRfmLo n]
  else if a = Reg.dmvSnap n then [Reg.dmvRdLo n, Reg.dmvWrLo n, Reg.dmvRetry n]
  else if a = Reg.dspSnap n then [Reg.dspGetsLo n, Reg.dspRunsLo n, Reg.dspBudgetLo n, Reg.dspSandbox n]
  else []

/-- Take the copy of a Segment's SNAP strobe (R418); block CLS copies its maxima as well (R185). -/
def takeSnap (a n : Nat) (s : State) : State :=
  let s := snapAll (segCounters a n) s
  if a = Reg.clsSnap n then
    { s with snaps := tset 0 (Reg.clsMaxSeal n) (tgetD 0 n s.cmd.maxSeal)
               (tset 0 (Reg.clsMaxRecall n) (tgetD 0 n s.cmd.maxRecall) s.snaps) }
  else s

/-! ## Writes to Segment registers -/

/-- Sum of RATE and of RECALLS of the admitted streams of a Segment (R167). -/
def sealResv (s : State) (seg : Nat) : Nat := tsum (fun _ x => if x.seg = seg then x.rate else 0) s.cmd.streams
def recallResv (s : State) (seg : Nat) : Nat := tsum (fun _ x => if x.seg = seg then x.recalls else 0) s.cmd.streams

/-- Bring bits `hi:lo` of a register into `lo' … hi'`. -/
def clampField (a hi lo l h : Nat) (s : State) : State := setField a hi lo (clamp l h (fieldOf s a hi lo)) s

/-- A write to a register of Segment `n` (R168, R186, R245, R593, R817 to R822): budgets stay between the reservation and their
limit, the Stone reserve within half the Segment's Stone, the index region within a quarter of its DRAM, and a Segment keeps a
house core; a SNAP strobe takes its copy. -/
def segRegWrite (n a : Nat) (v : Word) (be : Nat) (s : State) : State :=
  let s' := writeCommon a v be s
  if segCounters a n ≠ [] then (if nbit (v.toNat &&& beMask be) 0 then takeSnap a n s' else s')
  else if blockLocked s a then s'
  else if a = Reg.clsSealBudget n then clampField a 31 0 (sealResv s n) 2000000000 s'
  else if a = Reg.clsRecall n then clampField a 15 0 (recallResv s n) 50000 s'
  else if a = Reg.clsStoneRes n then clampField a 31 0 16 (min 512 ((tgetD {} n s.mov.drams).stone / 2)) s'
  else if a = Reg.idxRegion n then clampField a 31 0 64 (min 16384 ((tgetD {} n s.mov.drams).cap * 256)) s'
  else if a = Reg.dspRole n ∧ fieldOf s' a 3 0 = 0 then setRsvd a s
  else s'

/-! ## Waking (R718 to R722) -/

/-- Number of RINDX among the domains; Segments are 0 to 3. -/
def rindx : Nat := 4

/-- Sleep state of a domain. -/
def domSleep (s : State) (d : Nat) : Nat := if d = rindx then s.pwr.rindSleep else sleepOf s d

/-- Start the wake of a domain that sleeps; RINDX wakes first when it sleeps deeper (R718). -/
def startWake (d : Nat) (s : State) : State :=
  if domSleep s d = 0 then s
  else
    let add := fun (d : Nat) (l : List Nat) => if l.contains d then l else l ++ [d]
    onPwr (fun p => { p with waking := add d (if s.pwr.rindSleep > domSleep s d then add rindx p.waking else p.waking) }) s

/-- A held write takes effect (R722). -/
def applyHeld (n : Nat) (s : State) (w : Nat × Word × Nat) : State := segRegWrite n w.1 w.2.1 w.2.2 s

/-- ZQ calibration and DQ re-centring run before the first access to a DRAM channel that leaves self-refresh (R667). -/
def wakeDram (d : Nat) (s : State) : State :=
  if (tgetD {} d s.mov.drams).trained then
    emit (.dram d "DQ") (emit (.dram d "ZQ")
      { s with mov := { s.mov with drams := tmod d (fun x => { x with zqAt := s.now, centred := s.health.tempNow }) s.mov.drams } })
  else s

/-- A domain's wake finishes: it runs, its DRAM channel has been calibrated after S2 and S3 and its flash channels retrained after S3, and the held writes are applied in order
(R667, R714, R720, R722). -/
def wakeDone (d : Nat) (s : State) : State :=
  if domSleep s d = 0 then onPwr (fun p => { p with waking := p.waking.filter (· != d) }) s
  else if d = rindx then
    onPwr (fun p => { p with rindSleep := 0, waking := p.waking.filter (· != d), sleepAt := tput d s.now p.sleepAt }) s
  else
    let deep := sleepOf s d == 3
    let s := if sleepOf s d ≥ 2 then wakeDram d s else s
    let l := tgetD [] d s.pwr.held
    let s := onPwr (fun p => { p with sleep := tdel d p.sleep, waking := p.waking.filter (· != d), held := tdel d p.held,
                                      sleepAt := tput d s.now p.sleepAt }) s
    let s := if deep then
        { s with flw := { s.flw with chans := tmap (fun c x => if c / 8 = d ∧ x.state = 2 then
                          { x with trainAt := s.now, trainTemp := s.health.tempNow, retrain := false } else x) s.flw.chans } }
      else s
    l.foldl (applyHeld d) (bump (Reg.pwmWakeLo d) 1 s)

/-- Wake a domain and let the wake finish. -/
def wakeNow (d : Nat) (s : State) : State :=
  if domSleep s d = 0 then s
  else wakeDone d (if s.pwr.rindSleep > domSleep s d then wakeDone rindx s else s)

/-- Wake every sleeping domain (R180). -/
def wakeAll (s : State) : State := [0, 1, 2, 3].foldl (fun s d => wakeNow d s) (wakeNow rindx s)

/-- A write reaches a register of Segment `n` (R2, R721 to R723): of a disabled Segment it is discarded and logged; of a
Segment in S2 or S3 it updates the retention copy, is held, and wakes the Segment, and a full queue withholds it; otherwise it
has its effect `f`, a Segment in S1 waking for it. -/
def segWrite (n a : Nat) (v : Word) (be : Nat) (f : State → State) (s : State) : State :=
  if !segOn s n then raise 7 { seg := n, loc := a } s
  else if sleepOf s n < 2 then f (wakeNow n s)
  else
    let l := tgetD [] n s.pwr.held
    if l.length ≥ 64 then startWake n s
    else
      let s := if segCounters a n ≠ [] then s else segRegWrite n a v be s
      startWake n (onPwr (fun p => { p with held := tput n (l ++ [(a, v, be)]) p.held }) s)

/-- A write of 1 to the NOW bit of a Segment's SNAP register. -/
def strobe (n a : Nat) (s : State) : State := segWrite n a 1 15 (segRegWrite n a 1 15) s

end Sys2Proof.Machine
end

