-- ==== Sys2Proof/Machine/Tokens.lean ====
section
/-!
DEFINITION. Maintenance tokens: exclusive use of a die, a DRAM channel or a Pith bank for one unit of work, and what waits for it (R323 to
R325, R328).
-/
namespace Sys2Proof.Machine

/-- Change the Media Managers. -/
def onMed (f : Med → Med) (s : State) : State := { s with med := f s.med }

/-- Numbers of the resources: a die's key, 512 and the Segment for a DRAM channel, 520 and the bank for a Pith bank. Their order is that in
which an activity takes its tokens (R325). -/
def dramRes (seg : Nat) : Nat := 512 + seg
def pithRes (bank : Nat) : Nat := 520 + bank

/-- A start of precedence `prec` waits for a resource, once for each activity (R325). -/
def waitToken (prec res : Nat) (s : State) : State :=
  onMed (fun m => { m with waiting := if m.waiting.contains (prec, res) then m.waiting else m.waiting ++ [(prec, res)] }) s

/-- A start of precedence `prec` may have the token of a resource: it is free, or it has been passed to that activity (R325). -/
def tokenFree (s : State) (prec res : Nat) : Bool := match tget res s.med.tokens with
  | none => true
  | some (p, started) => p == prec && !started

/-- A unit of work of precedence `prec` takes a token, or waits for it; a holder is never preempted. The flag says that it starts (R325). -/
def takeToken (prec res : Nat) (s : State) : Bool × State :=
  if tokenFree s prec res then (true, onMed (fun m => { m with tokens := tput res (prec, true) m.tokens }) s)
  else (false, waitToken prec res s)

/-- The waiting start of highest precedence for a resource, the earliest on a tie (R325). -/
def nextStart (s : State) (res : Nat) : Option (Nat × Nat) :=
  (s.med.waiting.filter fun w => w.2 == res).foldl
    (fun (b : Option (Nat × Nat)) w => match b with | none => some w | some x => if w.1 < x.1 then some w else some x) none

/-- A token is released: it passes to the start that is next for it (R325). -/
def releaseToken (res : Nat) (s : State) : State := match nextStart s res with
  | some w => onMed (fun m => { m with tokens := tput res (w.1, false) m.tokens, waiting := m.waiting.erase w }) s
  | none => onMed (fun m => { m with tokens := tdel res m.tokens }) s

/-- Take the tokens of resources in ascending order, as far as they are free; those taken are kept (R325). -/
def takeAll (prec : Nat) : List Nat → State → Bool × State
  | [], s => (true, s)
  | d :: t, s =>
    if tget d s.med.tokens = some (prec, true) then takeAll prec t s
    else match takeToken prec d s with
      | (true, s) => takeAll prec t s
      | (false, s) => (false, s)

/-- Release the tokens of resources. -/
def releaseAll (l : List Nat) (s : State) : State := l.foldl (fun s d => releaseToken d s) s

/-- A unit of work that ends in the command that starts it: it takes its tokens and releases them, or waits for those that it cannot have
(R324, R325; log 133). -/
def useTokens (prec : Nat) (l : List Nat) (s : State) : Bool × State :=
  if l.all (tokenFree s prec) then (true, releaseAll l (l.foldl (fun s d => (takeToken prec d s).2) s))
  else (false, (l.filter fun d => !tokenFree s prec d).foldl (fun s d => waitToken prec d s) s)

end Sys2Proof.Machine
end

