-- ==== Sys2Proof/Machine/Pith.lean ====
section
/-!
DEFINITION. The Pith Array: its command ports, the parameter sector, triad words and the epoch journal (chapter 17, and
R399 to R403 of chapter 10).
-/
namespace Sys2Proof.Machine

/-! ## Triad words (R399 to R403, R692 to R694) -/

/-- Key of triad word (TTYPE, INDEX). -/
def triadKey (ty ix : Nat) : Nat := ty * 65536 + ix

/-- Slots of a word's array (R692). -/
def triadSlots (ty : Nat) : Nat := if ty ≤ 2 then 4 else 680

/-- Generation `a` is higher than `b` (R399). -/
def genHigher (a b : Nat) : Bool := decide (1 ≤ (a + 256 - b) % 256) && decide ((a + 256 - b) % 256 ≤ 127)

/-- The copies of a word whose CRC matches. -/
def cleanCopies (w : Triad) : List TCopy := ([w.c0, w.c1, w.c2].filterMap id).filter (·.ok)

/-- Outcome of a vote (R401): a value with its generation, or the safe default. -/
inductive Vote where
  | value (c : TCopy)
  | default
  deriving DecidableEq, Repr

/-- The vote of R401. Two copies agree when their bytes 0 to 27 are equal. -/
def vote (w : Triad) : Vote :=
  let cl := cleanCopies w
  match cl with
  | [] => .default
  | [a] => .value a
  | [a, b] => if a = b then .value a else if genHigher a.gen b.gen then .value a else if genHigher b.gen a.gen then .value b else .default
  | a :: b :: c :: _ =>
    if a = b ∨ a = c then .value a
    else if b = c then .value b
    else if genHigher a.gen b.gen && genHigher a.gen c.gen then .value a
    else if genHigher b.gen a.gen && genHigher b.gen c.gen then .value b
    else if genHigher c.gen a.gen && genHigher c.gen b.gen then .value c
    else .default

/-- Two copies of the list agree. -/
def someAgree : List TCopy → Bool
  | [] => false
  | a :: t => t.contains a || someAgree t

/-- The highest generation among clean copies (R403): each higher one in turn, from the first. -/
def topGen : List TCopy → Nat
  | [] => 255
  | a :: t => t.foldl (fun g c => if genHigher c.gen g then c.gen else g) a.gen

/-- A word written into its slot array; a full array moves every word into the alternate half first, whose 4 sectors
are erased in each of the 3 copy areas (R693, R694). -/
def putTriad (k : Nat) (w : Triad) (s : State) : State :=
  if w.used > triadSlots (k / 65536) then
    bump Reg.pthErasesLo 12 (onPith (fun p =>
      { p with hgen := p.hgen + 1, triads := tput k { w with used := 2 } (tmap (fun _ x => { x with used := 1 }) p.triads) }) s)
  else onPith (fun p => { p with triads := tput k w p.triads }) s

/-- The stored word, or one with no programmed slot. -/
def triadOf (s : State) (ty ix : Nat) : Triad := tgetD {} (triadKey ty ix) s.pith.triads

/-- Write a triad word: the new value with GEN one higher in copies 0, 1 and 2 in turn (R400). -/
def writeTriad (ty ix : Nat) (value : List Byte) (s : State) : State :=
  let w := triadOf s ty ix
  let g := match vote w with | .value c => (c.gen + 1) % 256 | .default => (topGen (cleanCopies w) + 1) % 256
  let c : TCopy := { gen := g, value := fit 24 value }
  putTriad (triadKey ty ix) { c0 := some c, c1 := some c, c2 := some c, used := w.used + 1, o0 := w.c0, o1 := w.c1, o2 := w.c2, at_ := s.now } s

/-- Read a triad word: the vote, its detectors, and the rewriting of copies that differ (R401 to R403). `dflt` is the safe
default's VALUE. The value read is returned. -/
def readTriad (ty ix : Nat) (dflt : List Byte) (s : State) : List Byte × State :=
  let w := triadOf s ty ix
  let cl := cleanCopies w
  let site : Site := {}
  let s := if cl.length < 3 then raise 40 site s else s
  let s := if cl.length ≥ 2 && !someAgree cl then raise 41 site s else s
  let s := if cl.isEmpty then raise 42 site s else s
  let c := match vote w with
    | .value c => c
    | .default => { gen := (topGen cl + 1) % 256, value := fit 24 dflt }
  if w.c0 = some c ∧ w.c1 = some c ∧ w.c2 = some c then (c.value, s)
  else (c.value, putTriad (triadKey ty ix)
    { c0 := some c, c1 := some c, c2 := some c, used := w.used + 1, o0 := w.c0, o1 := w.c1, o2 := w.c2, at_ := s.now } s)

/-! ## Ports and unlock keys (R681 to R683) -/

/-- A port's state. -/
def portOf (s : State) (p : Nat) : PPort := tgetD {} p s.pith.ports

/-- Unlocks that a port holds. -/
def PPort.unlocks (q : PPort) : Nat := q.keys.length

/-- Change a port. -/
def onPort (p : Nat) (g : PPort → PPort) (s : State) : State :=
  onPith (fun q => { q with ports := tput p (g (portOf s p)) q.ports }) s

/-- Set `PTH_STATUS.KEY_ERR` for port 0 (R681). -/
def keyErr (p : Nat) (s : State) : State := if p = 0 then setFlag Reg.pthStatus 30 s else s

/-- Lock a port, as a failed unlock does. -/
def lockPort (p : Nat) (s : State) : State := keyErr p (onPort p (fun q => { q with keys := [], firstKey := false }) s)

/-- PTH_KEY_WRITE: a key register is written (R681). -/
def execPthKeyWrite (t p : Nat) (v : Word) (s : State) : Host.Outcome State Fault Refusal :=
  let s := tick t s
  let q := portOf s p
  if v = 0x0000A5C3 ∧ !q.firstKey then .next (onPort p (fun q => { q with firstKey := true }) s)
  else if v = 0x00005A3C ∧ q.firstKey then
    .next (onPort p (fun q => { q with firstKey := false, keys := q.keys ++ [s.now] }) s)
  else .next (lockPort p s)

/-- Its oldest unlock has waited for its command for 100 µs or more (R681). -/
def keyStale (now : Nat) (q : PPort) : Bool := match q.keys with
  | k :: _ => decide (now - k ≥ 100000)
  | [] => false

/-- PITH_UNLOCK_TIMEOUT: 100 µs without a command after the second key of an unlock (R681). -/
def execPithUnlockTimeout (t p : Nat) (s : State) : Host.Outcome State Fault Refusal :=
  let s := tick t s
  .next (if keyStale s.now (portOf s p) then lockPort p s else s)

/-- The port holds the unlocks a command needs, within their time (R681). -/
def admitted (s : State) (p need : Nat) : Bool :=
  need == 0 || (decide ((portOf s p).unlocks ≥ need) && match (portOf s p).keys with | k :: _ => decide (s.now - k ≤ 100000) | [] => false)

/-- End a command of a port with a result code (R683). -/
def portResult (p code : Nat) (s : State) : State := onPort p (fun q => { q with busy := false, done := true, code := code }) s

/-- The ports a command code may come from (R682), as a test. -/
def portAllowed (code p : Nat) : Bool := match code with
  | 0x10 => p == 1 || p == 2 || p == 3
  | 0x20 | 0x21 | 0x22 | 0x30 => p == 1 || p == 2
  | 0x40 => p == 0 || p == 1 || p == 3
  | 0x41 => p == 0 || p == 1
  | 0x42 => p < 4
  | _ => false

/-- Unlocks a command needs (R682). -/
def unlocksFor (code : Nat) : Nat := match code with
  | 0x20 => 2 | 0x10 | 0x40 | 0x41 => 1 | _ => 0

/-- Another parameter command is in progress (R683). -/
def paramBusy (s : State) (code : Nat) : Bool := decide (0x40 ≤ code) && !s.pith.waitPuts.isEmpty

/-- The checks common to the Pith commands: code and port, then the unlock, then BRACE for port 0 or another parameter command (R681 to
R683, R701). A command that is not admitted locks the port; each unlock admits one command, an erase taking two. -/
def portGate (code p : Nat) (s : State) : Option Nat × State :=
  if !portAllowed code p then (some 2, s)
  else if !admitted s p (unlocksFor code) then (some 1, lockPort p s)
  else
    let s := if unlocksFor code = 0 then s else onPort p (fun q => { q with keys := q.keys.drop (unlocksFor code) }) s
    if (p = 0 ∧ s.brc.active) ∨ paramBusy s code then (some 7, s) else (none, s)

/-! ## Banks (R671 to R678, R684) -/

/-- The journal sectors in ring order (R680). -/
def journalSector (i : Nat) : Nat :=
  if i < 117 then 267 + i else if i < 237 then 392 + (i - 117) else if i < 357 then 520 + (i - 237) else 640 + (i - 357)

/-- Place of a sector in the ring, if it is a journal sector. -/
def journalIndex (s : Nat) : Option Nat :=
  if 267 ≤ s ∧ s < 384 then some (s - 267) else if 392 ≤ s ∧ s < 512 then some (117 + (s - 392))
  else if 520 ≤ s ∧ s < 640 then some (237 + (s - 520)) else if 640 ≤ s ∧ s < 1024 then some (357 + (s - 640)) else none

/-- The bank of journal sector `i`. -/
def journalBank (i : Nat) : Nat := journalSector i / 128

/-- The writer is programming an entry in bank `b`. -/
def writerIn (s : State) (b : Nat) : Bool := s.pith.jprog.any fun e => journalBank e.sector == b

/-- The port number of the journal writer's own erases. -/
def writerPort : Nat := 4

/-- Sector of an operation. -/
def BankOp.sector : BankOp → Nat
  | .idle => 0
  | .program se _ _ _ _ => se
  | .erase se _ _ _ _ => se

/-- The open operation of a bank. -/
def bankOp (s : State) (b : Nat) : BankOp := tgetD .idle b s.pith.ops

/-- Set a bank's open operation. -/
def setBank (b : Nat) (o : BankOp) (s : State) : State := onPith (fun p => { p with ops := tset .idle b o p.ops }) s

/-- Order in which ports are served when banks are contended (R684). -/
def portRank (p : Nat) : Nat := match p with
  | 2 => 0 | 3 => 1 | 1 => 2 | _ => 3

/-- The waiting operation of bank `b` that starts next. -/
def nextWaiting (s : State) (b : Nat) : Option (Nat × Nat × BankOp) :=
  (s.pith.waiting.filter fun w => w.2.1 == b).foldl
    (fun m w => match m with
      | none => some w
      | some x => if portRank w.1 < portRank x.1 then some w else some x) none

/-- The start instant of an operation. -/
def restart (now : Nat) : BankOp → BankOp
  | .idle => .idle
  | .program se pg us po _ => .program se pg us po now
  | .erase se po _ su ag => .erase se po now su ag

/-- An operation on a journal sector needs its bank's Pith token, which it holds from start to end (R324, R328, R684). -/
def opMayStart (s : State) (b : Nat) (o : BankOp) : Bool := (journalIndex o.sector).isNone || tokenFree s 4 (pithRes b)
def holdToken (b : Nat) (o : BankOp) (s : State) : State :=
  if (journalIndex o.sector).isSome then (takeToken 4 (pithRes b) s).2 else s

/-- It ends: the bank is idle, and its token is released. -/
def endOp (b : Nat) (s : State) : State :=
  setBank b .idle (if (journalIndex (bankOp s b).sector).isSome then releaseToken (pithRes b) s else s)

/-- Start what waits on an idle bank, while VPP_PITH is in range (R676, R684, R792). -/
def startNext (b : Nat) (s : State) : State :=
  if bankOp s b = .idle ∧ !writerIn s b ∧ s.pins.vppOk then
    match nextWaiting s b with
    | some w =>
      if opMayStart s b w.2.2 then holdToken b w.2.2 (setBank b (restart s.now w.2.2) (onPith (fun p => { p with waiting := p.waiting.erase w }) s))
      else waitToken 4 (pithRes b) s
    | none => s
  else s

/-- Give an operation to its bank: at once when the bank is idle, otherwise in its turn. -/
def startOp (p b : Nat) (o : BankOp) (s : State) : State :=
  startNext b (onPith (fun q => { q with waiting := q.waiting ++ [(p, b, o)] }) (onPort p (fun q => { q with busy := true, done := false }) s))

/-- Number of a unit. -/
def unitNo (sector page u : Nat) : Nat := sector * 2048 + page * 8 + u

/-- PAGE_PROGRAM: program the named units of a page (R673, R682). -/
def execPageProgram (t p sector page : Nat) (units : List (Nat × List Byte)) (s : State) :
    Host.Outcome State Fault Refusal :=
  let s := tick t s
  match portGate 0x10 p s with
  | (some c, s) => .next (portResult p c s)
  | (none, s) =>
    if sector ≥ 1024 ∨ page ≥ 256 ∨ units.any (fun u => decide (u.1 ≥ 8) || (tget (unitNo sector page u.1) s.pith.units).isSome) then
      .next (portResult p 2 s)
    else .next (startOp p (sector / 128) (.program sector page units p s.now) s)

/-- SECTOR_ERASE (R678, R682). -/
def execSectorErase (t p sector : Nat) (s : State) : Host.Outcome State Fault Refusal :=
  let s := tick t s
  match portGate 0x20 p s with
  | (some c, s) => .next (portResult p c s)
  | (none, s) =>
    if sector ≥ 1024 then .next (portResult p 2 s)
    else .next (startOp p (sector / 128) (.erase sector p s.now false false) s)

/-- ERASE_SUSPEND: the bank's erase is suspended; the row holds the wait until it has run 200 µs since its start or last resume (R677).
DEDUCED (log 131). -/
def execEraseSuspend (t p b : Nat) (s : State) : Host.Outcome State Fault Refusal :=
  let s := tick t s
  match portGate 0x21 p s with
  | (some c, s) => .next (portResult p c s)
  | (none, s) => match bankOp s b with
    | .erase se po st false ag => .next (portResult p 0 (setBank b (.erase se po st true ag) s))
    | _ => .next (portResult p 2 s)

/-- ERASE_RESUME (R677, R682). -/
def execEraseResume (t p b : Nat) (s : State) : Host.Outcome State Fault Refusal :=
  let s := tick t s
  match portGate 0x22 p s with
  | (some c, s) => .next (portResult p c s)
  | (none, s) => match bankOp s b with
    | .erase se po _ true ag =>
      .next (portResult p 0 (setBank b (.erase se po s.now false ag) (onPith (fun q => { q with autoSusp := q.autoSusp.erase b }) s)))
    | _ => .next (portResult p 2 s)

/-- Every unit of a sector is erased. -/
def sectorBlank (s : State) (sector : Nat) : Bool := !tany (fun u _ => u / 2048 == sector) s.pith.units

/-- BLANK_CHECK: reports whether a sector is wholly erased (R682). It ends with code 0 and the report as DLEN 1 or 0.
DESIGN CHOICE (log 9): the manual names no place for the report. -/
def execBlankCheck (t p sector : Nat) (s : State) : Host.Outcome State Fault Refusal :=
  let s := tick t s
  match portGate 0x30 p s with
  | (some c, s) => .next (portResult p c s)
  | (none, s) =>
    if sector ≥ 1024 then .next (portResult p 2 s)
    else .next (portResult p 0 (setWord Reg.pthLen (BitVec.ofNat 32 (b2n (sectorBlank s sector))) s))

/-- A verify failed: DT62, counted in `PTH_FAIL` (R683, R703). -/
def pithFail (sector : Nat) (s : State) : State := raise 62 { loc := sector } (if bypassed s 62 then s else bumpTallyQuiet Reg.pthFail s)

/-- Erase every unit of a sector; the journal entries of a journal sector go. The journal, the triad words and the parameter sector are
otherwise held apart from the units (log 130). -/
def eraseSector (sector : Nat) (s : State) : State :=
  bump Reg.pthErasesLo 1 (onPith (fun p => { p with units := tfilter (fun u _ => u / 2048 != sector) p.units,
                                                    jd := p.jd.filter (fun e => journalSector e.sector != sector),
                                                    erases := tput sector (tgetD 0 sector p.erases + 1) p.erases }) s)

/-! ### Erasing ahead (R688) -/

/-- The first sector of the ring from `i` on that is not retired (R678). -/
def liveFrom (retired : List Nat) : Nat → Nat → Nat
  | 0, i => i
  | f + 1, i => if retired.contains (journalSector i) then liveFrom retired f ((i + 1) % 741) else i

/-- The sector that the writer goes on to from sector `i`. -/
def nextSector (p : Pith) (i : Nat) : Nat := liveFrom p.retired 740 ((i + 1) % 741)

/-- The `n`th sector after sector `i`. -/
def sectorAfter (p : Pith) : Nat → Nat → Nat
  | 0, i => i
  | n + 1, i => sectorAfter p n (nextSector p i)

/-- Journal sectors live from the epoch head to the writer, and free ones. A retired sector is not free. -/
def liveSectors (s : State) : Nat := (s.pith.jsec + 741 - s.pith.jhead) % 741 + 1
def freeSectors (s : State) : Nat :=
  741 - liveSectors s - (s.pith.retired.filter fun r => match journalIndex r with
    | some i => decide ((i + 741 - s.pith.jhead) % 741 ≥ liveSectors s)
    | none => false).length

/-- The writer erases the next free sector when fewer than `PTH_JCFG.AHEAD` are erased ahead of it; it has one erase open at a time, and
starts none in BRACE (R688). -/
def eraseAhead (s : State) : State :=
  let se := journalSector (sectorAfter s.pith (s.pith.ready + 1) s.pith.jsec)
  let o : BankOp := .erase se writerPort s.now false false
  if decide (s.pith.ready < fieldOf s Reg.pthJcfg 7 0) && decide (s.pith.ready < freeSectors s) && !s.brc.active && s.pins.vppOk
      && bankOp s (se / 128) == .idle && !writerIn s (se / 128)
      && !tany (fun _ o => match o with | .erase _ po _ _ _ => po == writerPort | _ => false) s.pith.ops then
    if opMayStart s (se / 128) o then holdToken (se / 128) o (setBank (se / 128) o s) else waitToken 4 (pithRes (se / 128)) s
  else s

/-- The result of an operation goes to the port that commanded it; a sector that the writer erased is ready for it. -/
def opResult (po code : Nat) (s : State) : State :=
  if po = writerPort then (if code = 0 then onPith (fun p => { p with ready := p.ready + 1 }) s else s) else portResult po code s

/-- PITH_ERASE_COMPLETE: bank `b`'s erase ends; `clean` is the outcome of its blank check (R428, R678). -/
def execPithEraseComplete (t b : Nat) (clean : Bool) (s : State) : Host.Outcome State Fault Refusal :=
  let s := tick t s
  match bankOp s b with
  | .erase se po _ false ag =>
    let s := eraseSector se s
    if clean then .next (eraseAhead (startNext b (opResult po 0 (endOp b s))))
    else if !ag then .next (setBank b (.erase se po s.now false true) s)
    else if bypassed s 62 then .next (eraseAhead (startNext b (opResult po 0 (endOp b (pithFail se s)))))
    else .next (eraseAhead (startNext b (opResult po 5 (endOp b (onPith (fun p => { p with retired := se :: p.retired }) (pithFail se s))))))
  | _ => .next s

/-! ## The parameter sector (R695 to R698) -/

/-- DLEN of a record type: its one size, or 0 for a type not in the table of R698. -/
def paramLen (typ : Nat) : Nat := match typ with
  | 1 => 4 | 2 => 320 | 3 => 32 | 4 => 8 | 5 => 12 | 6 => 24 | 7 => 4092 | 8 => 20 | 9 => 12 | _ => 0

/-- The INDEX values of a record type (R698). -/
def paramIndexOk (typ ix : Nat) : Bool :=
  if typ = 2 ∨ typ = 3 ∨ typ = 4 ∨ typ = 5 ∨ typ = 8 then decide (ix < 4) else ix == 0

/-- DLEN is the size that R698 gives. -/
def paramLenOk (typ n : Nat) : Bool :=
  if typ = 7 then decide (1 ≤ n) && decide (n ≤ 4092) else n != 0 && n == paramLen typ

/-- The host may write a record type in the present lifecycle state and modes (R698, R701, R702). -/
def paramByHost (s : State) (typ : Nat) : Bool :=
  let st := s.life.lstate.code
  !flagOf s Reg.pthCtrl 31 && !(s.life.vault && (typ == 5 || typ == 8 || typ == 9)) &&
    (match typ with
      | 1 => decide (st ≤ 3)
      | 2 | 4 => decide (st ≤ 1)
      | 5 | 6 | 8 | 9 => decide (st ≤ 2)
      | _ => false)

/-- Bytes of the records (R696). -/
def paramBytes (p : Tab (List Byte)) : Nat := tsum (fun _ d => 4 + cdiv d.length 4 * 4) p

/-- Put the updated records in force with GEN one higher (R697). -/
def setParams (l : Tab (List Byte)) (s : State) : State :=
  onPith (fun p => { p with params := l, pgen := (p.pgen + 1) % 2 ^ 32, pvalid := true }) (bump Reg.pthErasesLo 1 s)

/-- A checked PARAM_PUT, or PARAM_DELETE, of a port: it updates the records at once, or waits while VPP_PITH is out of its range
(R682, R697, R792). -/
def paramUpdate (p key : Nat) (d : Option (List Byte)) (s : State) : State :=
  if !s.pins.vppOk then
    onPith (fun q => { q with waitPuts := q.waitPuts ++ [(p, key, d)] }) (onPort p (fun q => { q with busy := true, done := false }) s)
  else match d with
    | some d =>
      if paramBytes (tput key d s.pith.params) > 65504 then portResult p 4 s
      else portResult p 0 (setParams (tput key d s.pith.params) s)
    | none =>
      if (tget key s.pith.params).isNone then portResult p 6 s else portResult p 0 (setParams (tdel key s.pith.params) s)

/-- The updates that waited are made in order. -/
def runPuts (s : State) : State :=
  s.pith.waitPuts.foldl (fun s w => paramUpdate w.1 w.2.1 w.2.2 s) (onPith (fun q => { q with waitPuts := [] }) s)

/-- PARAM_PUT: record (typ, ix), the data from the port's staging; for port 0 it is `PTH_LEN` bytes of the stage window
(R682, R697, R698). -/
def execParamPut (t p typ ix : Nat) (data : List Byte) (s : State) : Host.Outcome State Fault Refusal :=
  let s := tick t s
  match portGate 0x40 p s with
  | (some c, s) => .next (portResult p c s)
  | (none, s) =>
    let d := if p = 0 then slice s.pith.stage 0 (bits (word s Reg.pthLen) 12 0) else data
    if !paramIndexOk typ ix ∨ !paramLenOk typ d.length then .next (portResult p 2 s)
    else if p = 0 ∧ !paramByHost s typ then .next (portResult p 3 s)
    else .next (paramUpdate p (typ * 256 + ix) (some d) s)

/-- PARAM_DELETE (R682, R697). -/
def execParamDelete (t p typ ix : Nat) (s : State) : Host.Outcome State Fault Refusal :=
  let s := tick t s
  match portGate 0x41 p s with
  | (some c, s) => .next (portResult p c s)
  | (none, s) =>
    if p = 0 ∧ !paramByHost s typ then .next (portResult p 3 s)
    else .next (paramUpdate p (typ * 256 + ix) none s)

/-- PARAM_GET: the record goes to staging, and for port 0 its DLEN to `PTH_LEN` (R682). -/
def execParamGet (t p typ ix : Nat) (s : State) : Host.Outcome State Fault Refusal :=
  let s := tick t s
  match portGate 0x42 p s with
  | (some c, s) => .next (portResult p c s)
  | (none, s) => match tget (typ * 256 + ix) s.pith.params with
    | none => .next (portResult p 6 s)
    | some d =>
      if p = 0 then
        .next (portResult 0 0 (setWord Reg.pthLen (BitVec.ofNat 32 d.length) (onPith (fun q => { q with stage := patch q.stage 0 d }) s)))
      else .next (portResult p 0 s)

/-! ## The epoch journal (R685 to R691) -/

/-- Units an entry takes: a 16-byte header and its body, from a unit boundary (R685). -/
def entryUnits (e : JEntry) : Nat := cdiv (16 + cdiv e.body.length 16 * 16) 32

/-- Bytes an entry takes of the journal. -/
def entryBytes (e : JEntry) : Nat := 32 * entryUnits e

/-- Place an entry at the writer's position: an entry that does not fit in the sector starts at the next (R685), one of those erased
ahead (R688). -/
def placeEntry (e : JEntry) (p : Pith) : JEntry × Pith :=
  let n := entryUnits e
  let fits := decide (p.junit + n ≤ 2048)
  let (sec, u) := if fits then (p.jsec, p.junit) else (nextSector p p.jsec, 0)
  ({ e with jseq := p.jseq, sector := sec, unit := u },
   { p with jsec := sec, junit := u + n, jseq := p.jseq + 1, ready := if fits then p.ready else p.ready - 1 })

/-- The rate limit lets the writer program `n` more bytes now; BRACE lifts it (R687, R688). -/
def rateOk (s : State) (n : Nat) : Bool :=
  s.brc.active || decide (s.now - s.pith.rateStart ≥ 1000000000) || decide (s.pith.rateBytes + n ≤ 2000000)

/-- Count programmed bytes toward the rate limit. -/
def rateCount (n : Nat) (s : State) : State :=
  onPith (fun p => if s.now - p.rateStart ≥ 1000000000 then { p with rateStart := s.now, rateBytes := n }
    else { p with rateBytes := p.rateBytes + n }) s

/-- The writer may program an entry in bank `b`: the bank is idle, or its erase is suspended for a Brace program (R676, R677). -/
def bankFree (s : State) (b : Nat) : Bool := match bankOp s b with
  | .idle => true
  | .program _ _ _ _ _ => false
  | .erase _ _ _ _ _ => s.brc.active

/-- An erase that is running in bank `b` is suspended for a Brace program (R677, R688). -/
def suspendFor (b : Nat) (s : State) : State := match bankOp s b with
  | .erase se po st false ag => setBank b (.erase se po st true ag) (onPith (fun p => { p with autoSusp := b :: p.autoSusp }) s)
  | _ => s

/-- The erase that the controller suspended in bank `b` resumes, no Brace program waiting there (R677). -/
def resumeAuto (b : Nat) (s : State) : State :=
  if s.pith.autoSusp.contains b then
    let s := onPith (fun p => { p with autoSusp := p.autoSusp.filter (· != b) }) s
    match bankOp s b with
    | .erase se po _ true ag => setBank b (.erase se po s.now false ag) s
    | _ => s
  else s

/-- JOURNAL_PROGRAM: the writer starts the program of the first queued entry, at a sector that is erased and in a bank that is free for it
(R676, R677, R687, R688). -/
def execJournalProgram (t : Nat) (s : State) : Host.Outcome State Fault Refusal :=
  let s := tick t s
  match s.pith.jq, s.pith.jprog with
  | e :: rest, none =>
    let (e', p') := placeEntry e { s.pith with jq := rest }
    if s.pins.vppOk && rateOk s (entryBytes e) && bankFree s (journalBank e'.sector) && (e'.sector == s.pith.jsec || decide (s.pith.ready > 0)) then
      let s := suspendFor (journalBank e'.sector) s
      .next (eraseAhead (rateCount (entryBytes e) { s with pith := { p' with jprog := some e', ops := s.pith.ops, autoSusp := s.pith.autoSusp } }))
    else .next (eraseAhead s)
  | _, _ => .next s

/-- Make an entry durable and count its bytes (R687, R703). -/
def durable (e : JEntry) (s : State) : State :=
  bump Reg.pthJbytesLo (entryBytes e) (onPith (fun p => { p with jprog := none, jd := p.jd ++ [e] }) s)

/-- PITH_PROGRAM_COMPLETE: a page program of bank `b` ends, `ok` being its verify. It makes the journal entry it carried
durable, or stores a port's units; a failed verify raises DT62, and a journal entry is programmed again further on, but for a bypass
window (R428, R687). -/
def execPithProgramComplete (t b : Nat) (ok : Bool) (s : State) : Host.Outcome State Fault Refusal :=
  let s := tick t s
  let (bad, ef, s) := meet 62 0xFF b (!ok) s
  match bankOp s b, s.pith.jprog with
  | .program se pg us po _, _ =>
    let s := endOp b s
    let s := if bad && bypassed s 62 then raiseF 62 { loc := se } ef s else s
    if bad && !bypassed s 62 then .next (startNext b (portResult po 5 (raiseF 62 { loc := se } ef (bumpTallyQuiet Reg.pthFail s))))
    else
      .next (startNext b (portResult po 0 (onPith (fun p =>
        { p with units := us.foldl (fun m u => tput (unitNo se pg u.1) (.data (fit 32 u.2)) m) p.units }) s)))
  | _, some e =>
    if journalBank e.sector ≠ b then .next s
    else if bad && bypassed s 62 then .next (startNext b (resumeAuto b (durable e (raiseF 62 { loc := e.sector } ef s))))
    else if bad then
      .next (startNext b (resumeAuto b (raiseF 62 { loc := e.sector } ef (bumpTallyQuiet Reg.pthFail
        (onPith (fun p => { p with jprog := none, jq := e :: p.jq }) s)))))
    else .next (startNext b (resumeAuto b (durable e s)))
  | _, _ => .next s

/-- Durable entries of a type. -/
def jOf (s : State) (ty : Nat) : List JEntry := s.pith.jd.filter fun e => e.etype == ty

/-- The newest `n` of a list kept oldest first. -/
def lastN {α : Type} (n : Nat) (l : List α) : List α := l.drop (l.length - n)

/-- The newest entry for each key of a type. -/
def newestByKey (l : List JEntry) : List JEntry :=
  l.foldl (fun acc e => acc.filter (fun x => x.key != e.key) ++ [e]) []

/-- Erase intents with no later erase-done entry for their block. Byte 0 of the body tells intent (1) from done (2), and
the block follows it (R369, R370). -/
def openIntents (l : List JEntry) : List JEntry :=
  l.foldl (fun acc e =>
    let rest := acc.filter fun x => slice x.body 1 7 != slice e.body 1 7
    if e.body.head? = some 1 then rest ++ [e] else rest) []

/-- Brace entries since the newest run-start entry, and the newest measurement entry (R444, R689). Byte 0 of the body is
JKIND: 1 run start, 5 measurement. -/
def keptBrace (l : List JEntry) : List JEntry :=
  let since := l.foldl (fun acc e => if e.body.head? = some 1 then [e] else acc ++ [e]) []
  let meas := lastN 1 (l.filter fun e => e.body.head? = some 5)
  meas.filter (fun e => !since.contains e) ++ since

/-- The two newest checkpoint roots of each Segment. -/
def keptRoots (l : List JEntry) : List JEntry := [0, 1, 2, 3].flatMap fun n => lastN 2 (l.filter fun e => e.src == n)

/-- The entries that a new epoch writes afresh (R689). -/
def epochEntries (s : State) : List JEntry :=
  lastN 1 (jOf s 4) ++ lastN 1 (jOf s 6) ++ lastN 1 (jOf s 7) ++ openIntents (jOf s 1) ++ jOf s 2
    ++ (newestByKey (jOf s 3)).filter (fun e => tany (fun k _ => e.key == some k) s.cmd.streams)
    ++ lastN 63 (jOf s 8) ++ keptRoots (jOf s 9) ++ keptBrace (jOf s 5)

/-- The JSEQ of the previous epoch's start, or 0. -/
def prevEpochStart (s : State) : Nat := match (lastN 1 (jOf s 10)) with
  | e :: _ => e.jseq
  | [] => 0

/-- VALUE of the epoch head (R690). -/
def epochHead (e : JEntry) (epoch : Nat) : List Byte :=
  pack [(2, journalSector e.sector), (2, e.unit), (8, e.jseq), (8, epoch), (4, 0)]

/-- NEW_EPOCH: fewer than `PTH_JCFG.LOW` sectors are free, so the live entries are written afresh and the head moves
(R689, R690). -/
def execNewEpoch (t : Nat) (s : State) : Host.Outcome State Fault Refusal :=
  let s := tick t s
  if freeSectors s < fieldOf s Reg.pthJcfg 23 16 ∧ s.pith.jprog = none ∧ s.pins.vppOk then
    let epoch := s.pith.epoch + 1
    let start : JEntry := { etype := 10, src := 0xFF, key := none, body := pack [(8, epoch), (8, prevEpochStart s)] }
    let (start, p) := placeEntry start s.pith
    let (l, p) := (epochEntries s).foldl (fun a e => let (e', q) := placeEntry e a.2; (a.1 ++ [e'], q)) ([], p)
    let short := p.jsec + 741 - s.pith.jsec
    let s := bump Reg.pthErasesLo ((if short ≥ 741 then short - 741 else short) - s.pith.ready) s
    let s := bump Reg.pthJbytesLo ((start :: l).foldl (fun n e => n + entryBytes e) 0)
      { s with pith := { p with jd := start :: l, jhead := start.sector, epoch := epoch } }
    .next (eraseAhead (writeTriad 4 0 (epochHead start epoch) s))
  else .next s

/-- PTH_SNAP_NOW (R703). -/
def execPthSnapNow (t : Nat) (s : State) : Host.Outcome State Fault Refusal :=
  .next (snapAll [Reg.pthErasesLo, Reg.pthJbytesLo, Reg.pthFail] (tick t s))

end Sys2Proof.Machine
end

