-- ==== Sys2Proof/Machine/Keys.lean ====
section
/-!
DEFINITION. Key derivation, key slots, random bytes and the attestation signature (chapter 12).
-/
namespace Sys2Proof.Machine

/-- Change the Crypto Units and the key store. -/
def onCry (f : Cry → Cry) (s : State) : State := { s with cry := f s.cry }

/-- `n` bytes of the random generator (R505). -/
def random (n : Nat) (s : State) : List Byte × State := (fit n (Config.random s.draws n), draw s)

/-- The random generator gives output: its health tests pass, and its DRBG is seeded (R505, R508). -/
def rngReady (s : State) : Bool := s.cry.rngOk && !s.cry.rederive

/-- A 32-bit big-endian number (R492). -/
def be32 (n : Nat) : List Byte := (le 4 n).reverse

/-- Key derivation (R492). -/
def derive (label : String) (ctx : List Byte) (nbits : Nat) : List Byte :=
  ((List.range (cdiv nbits 256)).flatMap fun i =>
    Config.hmacSha256 Config.drk (be32 (i + 1) ++ ascii label ++ [0] ++ ctx ++ be32 nbits)).take (nbits / 8)

/-- VALUE of a key slot (R494). -/
def slotValue (enabled : Bool) (role nsid : Nat) (salt : List Byte) : List Byte :=
  pack [(1, b2n enabled), (1, role), (2, 0), (4, nsid)] ++ fit 16 salt

/-- A key slot as the vote reads it: enabled, and its SALT (R401, R494). A slot with no clean copy is disabled. -/
def keySlot (s : State) (i : Nat) : Bool × List Byte := match vote (triadOf s 2 i) with
  | .value c => (fld c.value 0 1 == 1, slice c.value 8 16)
  | .default => (false, zeros 16)

/-- Write key slot `i` (R400, R495). -/
def writeSlot (i : Nat) (enabled : Bool) (role nsid : Nat) (salt : List Byte) (s : State) : State :=
  writeTriad 2 i (slotValue enabled role nsid salt) s

/-- The Security Gate derives keys of a kind in the present lifecycle state, `upTo` being the last state that does (R498),
and it is not closed (R509). -/
def gateOpen (s : State) (first upTo : Nat) : Bool :=
  !s.cry.closed && decide (first ≤ s.life.lstate.code) && decide (s.life.lstate.code ≤ upTo) && !s.life.drkCut

/-- The media and chain keys of namespace `n` may be used (R498, R832). -/
def nsKeyOk (s : State) (n : Nat) : Bool := gateOpen s 0 2 && (keySlot s (1 + n)).1

/-- Chain key and media key of namespace `n`; house media key; function key; attestation seed (R493). -/
def chainKey (s : State) (n : Nat) : List Byte := derive "VLR-NS-CHAIN" (le 4 n ++ (keySlot s (1 + n)).2) 256
def mediaKey (s : State) (n : Nat) : List Byte := derive "VLR-NS-XTS" (le 4 n ++ (keySlot s (1 + n)).2) 512
def houseKey (s : State) : List Byte := derive "VLR-HOUSE-XTS" (keySlot s 0).2 512
def fnKey (s : State) (f : Nat) : List Byte := derive "VLR-FN-PROG" (le 2 f ++ tgetD [] f s.cry.fnSalts) 256
def attestSeed (salt : List Byte) : List Byte := derive "VLR-ATTEST-P384" salt 448

/-- The attestation key exists and may be used (R498, R503). -/
def attestOk (s : State) : Bool := gateOpen s 1 3 && (keySlot s 1).1

/-- The attestation public key (R501). -/
def attestPub (s : State) : List Byte := Config.attestQ (keySlot s 1).2

/-- A signature of the attestation key: r and s, 48 bytes each, little-endian (R220, R503). -/
def attestSign (msg : List Byte) (s : State) : List Byte × State :=
  (fit 96 (Config.ecdsaSign (attestSeed (keySlot s 1).2) s.draws msg), draw s)

/-- The DER SubjectPublicKeyInfo of a P-384 public key point: its standard's 23 bytes, then the point (R220; log 7). -/
def spki (q : List Byte) : List Byte :=
  ([0x30, 0x76, 0x30, 0x10, 0x06, 0x07, 0x2A, 0x86, 0x48, 0xCE, 0x3D, 0x02, 0x01, 0x06, 0x05, 0x2B, 0x81, 0x04, 0x00, 0x22,
    0x03, 0x62, 0x00] : List Byte) ++ q

/-- KEY_ID (R220). -/
def keyId (s : State) : List Byte := fit 16 (Config.sha256 (spki (attestPub s)))

end Sys2Proof.Machine
end

