-- ==== Sys2Proof/Machine/Store.lean ====
section
/-!
DEFINITION. Namespaces, streams and stored records: room, reservations, expiry, reclaim, the Timeline Index and the Class S
credits (chapters 03 to 06 and 08).
-/
namespace Sys2Proof.Machine

/-! ## Access -/

/-- Change the command set's state. -/
def onCmd (f : CmdSt → CmdSt) (s : State) : State := { s with cmd := f s.cmd }

def nsOf (s : State) (n : Nat) : Option Ns := tget n s.cmd.nss
def strmOf (s : State) (k : Nat) : Option Strm := tget k s.cmd.streams
def onNs (n : Nat) (f : Ns → Ns) (s : State) : State := onCmd (fun c => { c with nss := tmod n f c.nss }) s
def onStrm (k : Nat) (f : Strm → Strm) (s : State) : State := onCmd (fun c => { c with streams := tmod k f c.streams }) s
def onRec (k n : Nat) (f : Rec → Rec) (s : State) : State := onStrm k (fun x => { x with recs := tmod n f x.recs }) s
def onFlight (id : Nat) (f : Flight → Flight) (s : State) : State := onRge (fun r => { r with flights := tmod id f r.flights }) s

/-- The owner of a stream is the owner of its namespace (R104). -/
def strmOwner (s : State) (x : Strm) : Nat := match nsOf s x.nsid with | some n => n.owner | none => 0

/-- Fields of a stored header (R188). -/
def Rec.stamp (r : Rec) : Nat := fld r.header 56 8
def Rec.tag (r : Rec) : List Byte := slice r.header 112 32
def Rec.len (r : Rec) : Nat := 160 + r.payload.length

/-- The number of enabled Segments, and the enabled Segments in ascending order. -/
def segs (s : State) : List Nat := [0, 1, 2, 3].filter fun n => segOn s n

/-- LEN, NSID and STREAM of a command. -/
def Flight.len (c : Flight) : Nat := dfld c 16 4
def Flight.nsid (c : Flight) : Nat := dfld c 4 4
def Flight.stream (c : Flight) : Nat := dfld c 24 2

/-- Number of a class where Class S is 0 and A, B and Z are 1 to 3; ADMIN counts as A (R160, R161). -/
def clsNo : Cls → Nat
  | .s => 0
  | .a => 1
  | .admin => 1
  | .b => 2
  | .z => 3

/-! ## Host reads (R165) -/

/-- A command of a Class S ring keeps the precedence of Class S while it is bounded; an excess Seal and a Recall over its credit are served as Class A
(R172, R174). -/
def servedS (c : Flight) : Bool := c.cls == .s && c.bound == .bounded

/-- Number of the class that a command is served as. -/
def servedCls (c : Flight) : Nat := if c.cls = .s then (if servedS c then 0 else 1) else clsNo c.cls

/-- A Class S command has host reads outstanding: a Seal of a Seal ring that has begun to read. -/
def classSReads (s : State) : Bool := tany (fun _ c => servedS c && decide (c.reading > 0)) s.rge.flights

/-- Bytes of Class A, B and Z read requests that are outstanding to host memory: those of commands, and those of Data Mover channels. -/
def readsOut (s : State) : Nat :=
  tsum (fun _ c => if servedS c then 0 else c.reading) s.rge.flights
    + tsum (fun _ y => match y.queue with | d :: _ => d.asked - d.got.length | [] => 0) s.mov.chans

/-- How many of `n` bytes may be asked of host memory now for other than Class S: while a Class S read is outstanding, at most
`CLS_RD_CAP` bytes stand outstanding (R165). -/
def readAllow (s : State) (n : Nat) : Nat :=
  if classSReads s then min n ((word s Reg.clsRdCap).toNat - readsOut s) else n

/-- A command asks host memory for more of its data, as far as R165 allows. -/
def askMore (id : Nat) (s : State) : State := match tget id s.rge.flights with
  | some c =>
    let n := if servedS c then c.toRead else readAllow s c.toRead
    onFlight id (fun c => { c with reading := c.reading + n, toRead := c.toRead - n }) s
  | none => s

/-- Bytes of its data that a command still has to ask of host memory. -/
def stillToAsk (s : State) (id : Nat) : Nat := match tget id s.rge.flights with
  | some c => c.toRead
  | none => 0

/-- A command that takes data from the host may go on with it: all of it lies within `CLS_RD_CAP`. While Class S reads hold it up it asks for its data as
they allow, and goes on when it has asked for all (R165). -/
def takesData (id : Nat) (c : Flight) (s : State) : Bool × State :=
  if c.begun then
    let s := askMore id s
    (decide (stillToAsk s id = 0), s)
  else if readAllow s c.len = c.len then (true, s)
  else
    let n := readAllow s c.len
    (false, onFlight id (fun c => { c with begun := true, reading := n, toRead := c.len - n }) s)

/-- A read of `n` bytes for a fetch may be outstanding to host memory: within `CLS_RD_CAP`, or in pieces of it with nothing else outstanding (R165). -/
def fetchFits (s : State) (n : Nat) : Bool := decide (readAllow s n = n) || readsOut s == 0

/-- N and S for the adopted period (R351). -/
def wheelN (s : State) : Nat := cdiv s.cad.period 225000
def wheelS (s : State) : Nat := s.cad.period / wheelN s

/-- Inline contexts of a Segment in use by Seals of its streams, those of Class S work counted or not (R472). -/
def inlineUse (s : State) (seg : Nat) (classS : Bool) : Nat :=
  tcount (fun id c => c.isSeal && c.seg == seg && (classS || c.bound != .bounded)
    && (match strmOf s c.stream with | some x => x.inService == some id | none => false)) s.rge.flights

/-- A Seal finds an inline context: 32 of its Segment, 8 of them kept for Class S work. A Seal that is not bounded is not Class S
work here (R472, R478). -/
def inlineRoom (s : State) (c : Flight) : Bool :=
  decide (inlineUse s c.seg true < 32) && (c.bound == .bounded || decide (inlineUse s c.seg false < 24))

/-- A Seal may begin to ask host memory for its data. -/
def mayRead (s : State) (c : Flight) : Bool := servedS c || c.len == 0 || decide (readAllow s c.len > 0)

/-! ## Grains (R279, R282, R283) -/

/-- Blocks of a grain, and its BSHIFT. -/
def grainBlocks (x : Ns) : Nat := if x.grain = 0 then 4 else 1
def grainShift (x : Ns) : Nat := if x.grain = 0 then 14 else 12

/-- The Segment that holds grain `g` (R279). -/
def segOfGrain (s : State) (x : Ns) (g : Nat) : Nat :=
  let l := segs s
  l.getD ((g * grainBlocks x * 4096 / 262144) % max 1 l.length) 0

/-- Grains that blocks `a … a + n − 1` touch. -/
def grainsOf (x : Ns) (a n : Nat) : List Nat :=
  let k := grainBlocks x
  if n = 0 then [] else (List.range ((a + n - 1) / k + 1 - a / k)).map (a / k + ·)

/-- A block's content: zeros where it was never written or has been deallocated (R130). -/
def blockOf (x : Ns) (b : Nat) : List Byte := tgetD (zeros 4096) b x.blocks

/-- Content of a grain. -/
def grainContent (x : Ns) (g : Nat) : List Byte := (List.range (grainBlocks x)).flatMap fun i => blockOf x (g * grainBlocks x + i)

/-! ## Expiry (R208, R209) -/

/-- A Hold record has expired. -/
def expired (s : State) (r : Rec) : Bool := r.hold && r.expiry != 0xFFFFFFFFFF && decide (s.cad.frame ≥ r.expiry)

/-- A record binds Hold room: it is Hold and has not expired (R209). -/
def heldNow (s : State) (r : Rec) : Bool := r.hold && !expired s r

/-! ## Fences (R47) -/

/-- A fence, open or ended, protects a record of stream group `g` with stamp `stamp` (R47, R49). -/
def fenced (s : State) (g stamp : Nat) : Bool :=
  tany (fun k x => (k == 16 || x.group == g) && decide (x.start ≤ stamp) && (!x.ended || decide (stamp ≤ x.stop))) s.cad.fences

/-! ## Room (R299, R321) -/

/-- Content bytes of a stream's stored records. -/
def strmBytes (x : Strm) : Nat := tsum (fun _ r => r.len) x.recs

/-- Seals that have passed their checks and not yet folded, as a sum over the flights of `g`. -/
def resvSum (s : State) (p : Flight → Bool) (g : Flight → Nat) : Nat :=
  tsum (fun _ c => if c.admitted && c.isSeal && p c then g c else 0) s.rge.flights

/-- Content bytes stored in a namespace, with the room that admitted Seals have reserved. -/
def usedBytes (s : State) (n : Nat) : Nat :=
  (match nsOf s n with | some x => 4096 * x.blocks.length | none => 0)
    + tsum (fun _ x => if x.nsid = n then strmBytes x else 0) s.cmd.streams
    + resvSum s (fun c => c.nsid == n) Flight.len

/-- Hold bytes of a namespace, reservations included (R209, R299). -/
def holdBytes (s : State) (n : Nat) : Nat :=
  tsum (fun _ x => if x.nsid = n then tsum (fun _ r => if heldNow s r then r.len else 0) x.recs else 0) s.cmd.streams
    + resvSum s (fun c => c.nsid == n && c.resvHold) Flight.len

/-- Key of band `b` of a Segment, and the Segment of a key. -/
def bandKey (seg b : Nat) : Nat := seg * 2 ^ 24 + b
def segOfBand (k : Nat) : Nat := k / 2 ^ 24

/-- Bytes that a record takes on media: as stored, and as it came until it has drained (R262). -/
def Rec.mediaLen (r : Rec) : Nat := if r.band.isSome then r.stored else r.len

/-- Bytes that the data of a Segment take on media as stored, with the room that admitted Seals have reserved (R262). -/
def storedBytes (s : State) (seg : Nat) : Nat :=
  tsum (fun _ x => if x.seg = seg then tsum (fun _ r => r.mediaLen) x.recs else 0) s.cmd.streams
    + tsum (fun _ x => tsum (fun _ g => g.stored) (tfilter (fun g _ => segOfGrain s x g == seg) x.grains)) s.cmd.nss
    + resvSum s (fun c => c.seg == seg) Flight.len

/-- Bytes that the bands of a Segment outside its Brace reserve and its SLC buffer can store. -/
def mediaBytes (s : State) (seg : Nat) : Nat :=
  tsum (fun k b => if segOfBand k = seg ∧ b.st ≠ .retired ∧ !b.brace ∧ !b.slc then b.size else 0) s.med.bands

/-- The free space of a Segment, which counts media bytes as stored, takes `len` more (R116, R262). -/
def mediaRoom (s : State) (seg len : Nat) : Bool := decide (storedBytes s seg + len ≤ mediaBytes s seg)

/-- The free space of a Segment can take the Hold records `l` beside the Hold records that it has, none of which can be reclaimed (R132, R262; log
111). -/
def mediaHolds (s : State) (seg : Nat) (l : Tab Rec) : Bool :=
  decide (tsum (fun _ x => if x.seg = seg then tsum (fun _ r => if heldNow s r then r.mediaLen else 0) x.recs else 0) s.cmd.streams
    + tsum (fun _ r => if heldNow s r then 0 else r.mediaLen) l ≤ mediaBytes s seg)

/-- The shortfall of R321 over all Segments, in bytes. -/
def shortfall (s : State) : Nat := tsum (fun _ n => n) s.med.shortfall

/-- Sum of CAPACITY over the timeline namespaces. -/
def timelineCap (s : State) : Nat := tsum (fun _ x => if x.nstype = 1 then x.cap else 0) s.cmd.nss

/-- Effective capacity of a namespace in bytes (R299, R321). -/
def effCap (s : State) (x : Ns) : Nat :=
  if x.nstype = 1 ∧ s.med.harvest then x.cap * 4096 - shortfall s * x.cap / timelineCap s else x.cap * 4096

/-- Runs of a Timeline Index: a run begins at each stored number whose predecessor is not stored (R233). -/
def runCount (x : Strm) : Nat := tcount (fun n _ => n = 0 || (tget (n - 1) x.recs).isNone) x.recs

/-- Bytes of a slice of the index view (R618), and those that a stream's whole index would take in it. -/
def sliceSize : Nat := 0x400000000
def sliceNeed (x : Strm) : Nat := 16 + 40 * runCount x + 16 * x.recs.length

/-- Index slots of a Segment in use: one for each entry, two for each run header, and those reserved (R240, R241). -/
def idxUsed (s : State) (seg : Nat) : Nat :=
  tsum (fun _ x => if x.seg = seg then x.recs.length + 2 * runCount x else 0) s.cmd.streams
    + resvSum s (fun c => c.seg == seg) (·.resvSlots)

/-- Index slots of a Segment (R240). -/
def idxSlots (s : State) (seg : Nat) : Nat := tgetD 1024 seg s.cmd.idxMiB * 65536

/-- Grains of a block namespace that lie in Segment `seg`: unit `u` of 262,144 bytes lies in the enabled Segment at position
`u` modulo their number, and the last unit may be partial (R279, R282). -/
def grainsIn (s : State) (seg : Nat) (x : Ns) : Nat :=
  let l := segs s
  let n := max 1 l.length
  let p := l.findIdx (· == seg)
  let full := x.cap / 64
  if !segOn s seg then 0
  else (full / n + (if full % n > p then 1 else 0)) * (64 / grainBlocks x) + (if full % n = p then cdiv (x.cap % 64) (grainBlocks x) else 0)

/-- Map bytes that a block namespace reserves in a Segment (R282, R286). -/
def nsMapBytes (s : State) (seg : Nat) (x : Ns) : Nat := if x.nstype = 1 then 0 else 8 * grainsIn s seg x

/-- Map bytes of a Segment in use (R284, R286). -/
def mapUsed (s : State) (seg : Nat) : Nat :=
  tsum (fun _ x => nsMapBytes s seg x) s.cmd.nss
    + tsum (fun _ x => if x.seg = seg then 16 * x.recs.length else 0) s.cmd.streams
    + resvSum s (fun c => c.seg == seg) (fun _ => 16)

/-- Map bytes of a Segment's map region (R285). -/
def mapBytes (s : State) (seg : Nat) : Nat := tgetD 0 seg s.med.mapMiB * 1048576

/-- Capacity not allocated to namespaces (R286, R290, R321). -/
def capNow (s : State) : Nat := if s.life.lstate = .scrapped then 0 else s.med.capacity - shortfall s / 4096
def capFree (s : State) : Nat := capNow s - tsum (fun _ x => x.cap) s.cmd.nss

/-- UNALLOC of IDENTIFY (R286): one map entry of 8 bytes maps a 16 KiB grain, which is 4 units. -/
def unalloc (s : State) : Nat :=
  let frees := (segs s).map fun n => (mapBytes s n - mapUsed s n) / 8 * 4
  min (capFree s) ((frees.foldl min (frees.headD 0)) * (segs s).length)

/-! ## Reclaim (R205, R299 to R303, R313) -/

/-- FRAMEs of the Loop reserve (R301). -/
def loopReserve (s : State) : Nat := cdiv (fieldOf s Reg.medLoop 11 0 * 1000000000) s.cad.period

/-- A record lies inside its stream's Loop reserve (R301). -/
def inReserve (s : State) (r : Rec) : Bool := decide (r.stamp / 2 ^ 24 + loopReserve s > s.cad.frame)

/-- A record of a group is reclaimable. -/
def reclaimable (s : State) (group : Nat) (r : Rec) : Bool :=
  !heldNow s r && !fenced s group r.stamp && !inReserve s r

/-- Unmap record `n` of stream `k`: its entry goes, its run splits, and a stub stays while the next record is stored (R205,
R233, R235). -/
def unmapRec (k n : Nat) (s : State) : State := match strmOf s k with
  | none => s
  | some x => match tget n x.recs with
    | none => s
    | some r =>
      onStrm k (fun x =>
        { x with
          recs := tmod (n - 1) (fun q => if n = 0 then q else { q with endStamp := r.stamp }) (tdel n x.recs)
          stubs := (fun t => if (tget (n + 1) x.recs).isSome then tput n (r.stamp, r.tag) t else t)
            (if n = 0 then x.stubs else tdel (n - 1) x.stubs)
          gen := x.gen + 1 }) s

/-- Reclaim record `n` of stream `k`: unmapped, counted, and noted for the next notice of kind 2; a Hold record whose expiry has not been
counted is noted for that of kind 1 (R215, R300). -/
def reclaimRec (k n : Nat) (s : State) : State := match strmOf s k with
  | none => s
  | some x =>
    let due := match tget n x.recs with | some r => expired s r && decide (r.expiry > x.expSeen) | none => false
    let s := if due then onStrm k (fun x => { x with expFirst := if x.expN = 0 then n else min n x.expFirst, expN := x.expN + 1 }) s else s
    let s := onStrm k (fun x => { x with recFirst := if x.recN = 0 then n else min n x.recFirst
                                         recN := x.recN + 1 }) (unmapRec k n s)
    bumpHealth 19 1 (bump (Reg.medReclaimLo x.seg) 1 s)

/-- The oldest reclaimable record, by STAMP, among the streams that pass. -/
def oldestReclaimable (s : State) (p : Strm → Bool) : Option (Nat × Nat × Nat) :=
  s.cmd.streams.foldl (fun best kx =>
    if p kx.2 then
      match tfind (fun _ r => reclaimable s kx.2.group r) kx.2.recs with
      | some (n, r) => match best with
        | some (b, _, _) => if r.stamp < b then some (r.stamp, kx.1, n) else best
        | none => some (r.stamp, kx.1, n)
      | none => best
    else best) none

/-- Reclaim the oldest reclaimable records of the streams that pass until `enough`, or until none is left; at most `fuel`
of them (R300). -/
def reclaimUntil (p : Strm → Bool) (enough : State → Bool) : Nat → State → State
  | 0, s => s
  | fuel + 1, s =>
    if enough s then s
    else match oldestReclaimable s p with
      | some (_, k, n) => reclaimUntil p enough fuel (reclaimRec k n s)
      | none => s

/-- Number of stored records. -/
def recCount (s : State) : Nat := tsum (fun _ x => x.recs.length) s.cmd.streams

/-- Index slots that the next Seal of a stream takes: one, or three when its entry would start a run (R241). Seals that
wait ahead of it fold first. -/
def sealSlots (s : State) (k : Nat) (x : Strm) : Nat :=
  if x.next > 0 ∧ (tget (x.next - 1) x.recs).isSome then 1
  else if tany (fun _ c => c.isSeal && c.admitted && c.stream == k) s.rge.flights then 1
  else 3

/-- Namespace room for `len` bytes (R299). -/
def nsRoom (s : State) (n : Nat) (x : Ns) (len : Nat) : Bool := decide (usedBytes s n + len ≤ effCap s x)

/-- Hold room of a namespace for `len` bytes (R299). -/
def holdRoom (s : State) (n : Nat) (x : Ns) (len : Nat) : Bool := decide (holdBytes s n + len ≤ x.holdMax * 4096)

/-- Segment room: index slots and one map entry (R241, R299). -/
def segRoom (s : State) (seg slots : Nat) : Bool :=
  decide (idxUsed s seg + slots ≤ idxSlots s seg) && decide (mapUsed s seg + 16 ≤ mapBytes s seg)

/-- Make room for a Seal: reclaim of the namespace's group for namespace room, then of the Segment's group for index slots
and map room (R300). -/
def makeRoom (k : Nat) (x : Strm) (ns : Ns) (len : Nat) (s : State) : State :=
  let s := reclaimUntil (fun y => y.nsid == x.nsid && y.group == x.group) (fun s => nsRoom s x.nsid ns len) (recCount s) s
  reclaimUntil (fun y => y.seg == x.seg && y.group == x.group)
    (fun s => match strmOf s k with | some x => segRoom s x.seg (sealSlots s k x) && mediaRoom s x.seg len | none => true) (recCount s) s

/-! ## Class S reservations and credit (R166 to R174) -/

/-- The budgets of a Segment (R166). -/
def sealBudget (s : State) (seg : Nat) : Nat := (word s (Reg.clsSealBudget seg)).toNat
def recallBudget (s : State) (seg : Nat) : Nat := fieldOf s (Reg.clsRecall seg) 15 0

/-- Depths of the credits, in bytes and in Recalls (R170, R171). -/
def sealDepth (s : State) (x : Strm) : Nat := max (x.rate * (word s Reg.clsBurst).toNat / 1000) 262144
def recallDepth (s : State) (x : Strm) : Nat := max (x.recalls * (word s Reg.clsBurst).toNat / 1000) 1

/-- The credits of a stream as they have grown to now (R170, R171). -/
def grow (s : State) (x : Strm) : Strm :=
  { x with sealCr := min (x.sealCr + x.rate * (s.now - x.crAt)) (sealDepth s x * 1000000000)
           recCr := min (x.recCr + x.recalls * (s.now - x.crAt)) (recallDepth s x * 1000000000)
           crAt := s.now }

/-- Full credits (R170, R171). -/
def fullCredit (s : State) (x : Strm) : Strm :=
  { x with sealCr := sealDepth s x * 1000000000, recCr := recallDepth s x * 1000000000, crAt := s.now }

/-- The bound is suspended: a mode of R178, or the Segment below P2 or in shed (R176, R179). -/
def boundSuspended (s : State) (seg : Nat) : Bool :=
  s.brc.active || rescue s || s.dbg.level == .full || s.pwr.shed || decide (tgetD 2 seg s.pwr.level > 2)

/-- Rank of a void cause in the order of R181. -/
def causeRank (c : Nat) : Nat := ([14, 9, 1, 2, 3, 4, 7, 8, 5, 6, 10, 11, 12, 13].findIdx? (· == c)).getD 14

/-- The first cause that applies, in the order of R181. -/
def firstCause (l : List Nat) : Option Nat :=
  l.foldl (fun b c => match b with | some d => if causeRank c < causeRank d then some c else b | none => some c) none

/-- Count a command that has lost its bound, once, with its cause (R181). -/
def voidBound (seg cause : Nat) (s : State) : State :=
  bump (Reg.clsVoidLo seg) 1 (onCmd (fun c => { c with voidCause := tset 0 seg cause c.voidCause }) s)

/-- Link condition of R176. Speeds are PCIe generations. -/
def linkFit (s : State) : Bool :=
  (s.pins.speed == 6 && decide (s.pins.width ≥ 8) && (s.pins.link == .l0 || s.pins.link == .l0p))
    || (s.pins.speed == 5 && s.pins.width == 16 && s.pins.link == .l0)

/-- The link has been fit for a bound since before the instant `t` (R176). -/
def fitSince (s : State) (t : Nat) : Bool := linkFit s && decide (s.pins.fitFrom ≤ t)

/-- Causes of R181 that the service of a command has shown. -/
def conductCauses (s : State) (c : Flight) (d : Conduct) : List Nat :=
  c.voids
    ++ (if boundSuspended s c.seg || (decide (c.pipAt ≤ tgetD 0 c.seg s.cmd.suspEnd) && (tget c.seg s.cmd.suspEnd).isSome) then [9]
        else [])
    ++ (if d.lateRead then [5] else []) ++ (if d.noCredit || !fitSince s c.pipAt then [6] else [])
    ++ (if d.softRead then [12] else [])
    ++ (if d.masked || decide (c.tries > 0) then [13] else [])

/-- The earliest arrival that still concerns a backlog. -/
def earliestPip (s : State) : Nat :=
  s.rge.rings.foldl (fun m r => r.2.arr.foldl (fun m a => min m a.at_) m) (s.rge.flights.foldl (fun m c => min m c.2.pipAt) s.now)

/-- Remember the end of a bounded command for the backlogs of commands whose Pips it followed: of a Seal its LEN and its Pip's arrival, of
a Recall its fetch (R176, R177). -/
def rememberDone (c : Flight) (s : State) : State :=
  let e := earliestPip s
  onCmd (fun q =>
    if c.isSeal then { q with done := ((c.seg, c.len, c.pipAt, s.now) :: q.done).filter fun d => decide (d.2.2.2 ≥ e) }
    else { q with doneRec := ((c.seg, c.fetched, s.now) :: q.doneRec).filter fun d => decide (d.2.2 ≥ e) }) s

/-- A Class S command ends with an error or is abandoned: a cause that has applied to it is counted, and the backlogs of later commands
remember it (R176, R181). -/
def endBoundFailed (id : Nat) (s : State) : State := match tget id s.rge.flights with
  | none => s
  | some c =>
    if c.bound = .notS then s
    else
      let s := if c.bound = .bounded then rememberDone c s else s
      match firstCause (conductCauses s c {}) with
      | some k => voidBound c.seg k s
      | none => s

/-! ## Stone occupancy (R169, R451) -/

/-- Stone of a Segment in bytes, as read at power-on, and of all enabled Segments (R451, R640). -/
def stoneBytes (s : State) (seg : Nat) : Nat := (tgetD {} seg s.mov.drams).stone * 1048576
def stoneTotal (s : State) : Nat := (segs s).foldl (fun n k => n + stoneBytes s k) 0

/-- Bytes that the erased bands of the Brace reserve hold, no retained flush image lying in them (R297, R451, R457). -/
def erasedReserve (s : State) : Nat :=
  tsum (fun k b => if b.brace && segOn s (segOfBand k) && b.erased && b.wait.isEmpty && !s.brc.images.any (·.bands.contains k) then b.size else 0)
    s.med.bands

/-- Bytes of a Segment's Stone share: that of the last measurement, bounded by what is erased of the Brace reserve now (R451, R457; log 24). -/
def stoneLimit (s : State) (seg : Nat) : Nat :=
  min (tgetD 0 seg s.med.stoneLimit) (erasedReserve s / max 1 (segs s).length)

/-- Undrained record and block bytes of a Segment in Stone. -/
def stoneUsed (s : State) (seg : Nat) : Nat :=
  tsum (fun _ l => l.foldl (fun n i => n + i.len) 0) (tfilter (fun k _ => k = seg) s.med.stone)
    + tsum (fun _ c => if c.seg = seg then c.stone else 0) s.rge.flights

/-- Of those, the bytes of Seals from Seal rings. -/
def stoneSealRing (s : State) (seg : Nat) : Nat :=
  tsum (fun _ l => l.foldl (fun n i => if i.sealRing then n + i.len else n) 0) (tfilter (fun k _ => k = seg) s.med.stone)
    + tsum (fun _ c => if c.seg = seg ∧ c.isSeal ∧ c.cls = .s then c.stone else 0) s.rge.flights

/-- The Class S Stone reserve of a Segment in bytes (R169). -/
def stoneReserve (s : State) (seg : Nat) : Nat := (word s (Reg.clsStoneRes seg)).toNat * 1048576

/-- Stone has room for `len` bytes: Seals of Seal rings take the reserve first and then the rest; nothing else takes the
reserve (R169). -/
def stoneRoom (s : State) (seg len : Nat) (sealRing : Bool) : Bool :=
  if sealRing then decide (stoneUsed s seg + len ≤ stoneLimit s seg)
  else
    let above := stoneSealRing s seg - stoneReserve s seg
    let other := stoneUsed s seg - stoneSealRing s seg
    decide (other + above + len ≤ stoneLimit s seg - stoneReserve s seg)

end Sys2Proof.Machine
end

