-- ==== Sys2Proof/Machine/Memory.lean ====
section
/-!
DEFINITION. The memories that cores, engines and Data Movers address: the Segment address map, the index view, the sandbox
windows of a run, and what the end of a run clears (R516, R591, R592, R616 to R620, R623).
-/
namespace Sys2Proof.Machine

/-- Change the cores and their memories; change a core. -/
def onDxr (f : Dxr → Dxr) (s : State) : State := { s with dxr := f s.dxr }
def coreOf (s : State) (k : Nat) : DCore := tgetD {} k s.dxr.cores
def onCore (k : Nat) (f : DCore → DCore) (s : State) : State :=
  onDxr (fun d => { d with cores := tset {} k (f (tgetD {} k d.cores)) d.cores }) s

/-- Change the Dispatchers; change the Data Movers and DRAM channels. -/
def onDsp (f : Dsp → Dsp) (s : State) : State := { s with dsp := f s.dsp }
def onMov (f : Mov → Mov) (s : State) : State := { s with mov := f s.mov }

/-! ## Cores (R514, R593, R413, R414) -/

/-- Number of the Rind core. -/
def rindCore : Nat := 16

/-- A core is in its role's set: not quarantined, and its Segment enabled. -/
def coreIn (s : State) (k : Nat) : Bool := !s.integ.quarantined.contains k && (k == rindCore || segOn s (k / 4))

/-- A house core (R593); a guest core that R414 has taken over counts until power-on. -/
def isHouse (s : State) (k : Nat) : Bool :=
  k == rindCore || nbit (tgetD 3 (k / 4) s.dsp.role) (k % 4) || s.integ.promoted.contains k

/-- Guest cores of a Segment in service. -/
def guestCores (s : State) (seg : Nat) : List Nat := ((List.range 4).map (seg * 4 + ·)).filter fun k => coreIn s k && !isHouse s k

/-! ## Bytes -/

/-- The bytes of memory `key` at `a`; unlisted bytes read 0 (log 21). -/
def memOfKey (s : State) (key : Nat) : List Host.Cell := tgetD [] key s.dxr.mem
def getBytes (m : List Host.Cell) (a : Nat) : Nat → List Byte
  | 0 => []
  | n + 1 => tgetD (0 : Byte) a m :: getBytes m (a + 1) n
def putBytes (a : Nat) : List Byte → List Host.Cell → List Host.Cell
  | [], m => m
  | b :: t, m => putBytes (a + 1) t (tset (0 : Byte) a b m)

/-- Zero bytes `a … a + n − 1`. -/
def clearBytes (a n : Nat) (m : List Host.Cell) : List Host.Cell := m.filter fun p => decide (p.1 < a) || decide (p.1 ≥ a + n)

/-- The canonical form of one memory: addresses strictly rising, and no byte listed that an unlisted address reads as. -/
def cellsWf (m : List Host.Cell) : Bool := TabWf m && m.all fun p => p.2 != 0

/-- The canonical form of all the memories: keys strictly rising, no memory listed that lists nothing. -/
def Memory.wf (t : Tab (List Host.Cell)) : Bool := TabWf t && t.all fun p => cellsWf p.2 && !p.2.isEmpty

def readMem (s : State) (key a n : Nat) : List Byte := getBytes (memOfKey s key) a n
def onMem (key : Nat) (f : List Host.Cell → List Host.Cell) (s : State) : State :=
  onDxr (fun d => { d with mem := tset [] key (f (tgetD [] key d.mem)) d.mem }) s
def writeMem (key a : Nat) (l : List Byte) (s : State) : State := onMem key (putBytes a l) s
def clearMem (key a n : Nat) (s : State) : State := onMem key (clearBytes a n) s

/-! ## The Segment address map (R591) -/

def sramBase : Nat := 0x10000000
def sramSize : Nat := 0x800000
def xAlias (j : Nat) : Nat := 0x20000000 + 0x1000000 * j
def yAlias (j : Nat) : Nat := xAlias j + 0x40000
def iAlias (j : Nat) : Nat := xAlias j + 0x80000
def dramBase : Nat := 0x10000000000
def viewBase : Nat := 0x800000000000

/-- Bytes of a Segment's fitted DRAM (R633). -/
def dramSize (s : State) (seg : Nat) : Nat := (tgetD {} seg s.mov.drams).cap * 2 ^ 30

/-- `a … a + n − 1` lies within `lo … lo + len − 1`. -/
def inside (a n lo len : Nat) : Bool := decide (lo ≤ a) && decide (a + n ≤ lo + len)

def inSram (a n : Nat) : Bool := inside a n sramBase sramSize
def inDram (s : State) (seg a n : Nat) : Bool := inside a n dramBase (dramSize s seg)
def inView (a n : Nat) : Bool := inside a n viewBase 0x800000000000
def inBank (a n : Nat) : Bool := (List.range 4).any fun j => inside a n (xAlias j) 0xC0000

/-- The Segment map assigns the range to loads, or to stores (R591). -/
def segOk (s : State) (seg a n : Nat) (write : Bool) : Bool :=
  inSram a n || inBank a n || inDram s seg a n || (!write && inView a n)

/-! ## The index view (R618 to R620) -/

/-- A run as the view shows it: its entries, and the END_STAMP of its last. -/
def runBytes (l : List (Nat × Rec)) : List Byte :=
  pack [(8, match l with | (n, _) :: _ => n | [] => 0), (4, l.length), (4, 0),
    (8, match l.getLast? with | some (_, r) => r.endStamp | none => 0), (8, 0)]
  ++ l.flatMap fun p => pack [(8, p.2.stamp), (2, p.2.back), (2, p.2.iflags), (2, p.2.units), (2, p.2.types)]

/-- Cut stored records into runs of consecutive numbers, oldest first (R233). -/
def cutRuns : Tab Rec → List (List (Nat × Rec))
  | [] => []
  | p :: t => match cutRuns t with
    | (q :: l) :: rest => if p.1 + 1 = q.1 then (p :: q :: l) :: rest else [p] :: (q :: l) :: rest
    | _ => [[p]]

/-- Bytes that a run takes in a slice, its RUNDIR entry included. -/
def runCost (n : Nat) : Nat := 40 + 16 * n

/-- The newest runs that fit whole in `room` bytes, and of the next older one its newest entries; newest first. The flag is
TRUNC (R619). -/
def fitRuns : Nat → List (List (Nat × Rec)) → List (List (Nat × Rec)) × Bool
  | _, [] => ([], false)
  | room, r :: t =>
    if runCost r.length ≤ room then
      let (l, c) := fitRuns (room - runCost r.length) t
      (r :: l, c)
    else
      let n := (room - 40) / 16
      (if n = 0 then [] else [r.drop (r.length - n)], true)

/-- Slice offsets of runs laid out from `o`. -/
def runDir : Nat → List (List (Nat × Rec)) → List Nat
  | _, [] => []
  | o, r :: t => o :: runDir (o + 32 + 16 * r.length) t

/-- The content of a stream's slice (R618, R619). -/
def sliceBytes (x : Strm) : List Byte :=
  let (l, trunc) := fitRuns (sliceSize - 16) (cutRuns x.recs).reverse
  let l := l.reverse
  pack [(8, x.gen), (4, l.length), (4, b2n trunc)] ++ (runDir (16 + 8 * l.length) l).flatMap (le 8) ++ l.flatMap runBytes

/-- The slice of stream `k` as a reader of Segment `seg` sees it: `fn` is the reader's function, none for house readers. -/
def sliceOf (s : State) (fn : Option Nat) (seg k : Nat) : List Byte := match strmOf s k with
  | none => []
  | some x =>
    let mine := match fn with | some f => strmOwner s x == f | none => true
    if x.seg = seg && mine then sliceBytes x else []

/-- `n` bytes of the view at `a`. -/
def viewBytes (s : State) (fn : Option Nat) (seg a n : Nat) : List Byte :=
  let k := (a - viewBase) / sliceSize
  let o := (a - viewBase) % sliceSize
  let m := min n (sliceSize - o)
  slice (sliceOf s fn seg k) o m ++ (if m < n then slice (sliceOf s fn seg (k + 1)) 0 (n - m) else [])

/-- Read the Segment map, on behalf of a function's run or of the house. -/
def segBytes (s : State) (fn : Option Nat) (seg a n : Nat) : List Byte :=
  if inView a n then viewBytes s fn seg a n else readMem s seg a n

/-! ## Sandbox windows (R616, R617) -/

/-- The run of a core, and its function. -/
def runOn (s : State) (k : Nat) : Option DRun := match (coreOf s k).run with
  | some r => tget r s.dsp.runs
  | none => none

/-- A range lies wholly within one window of a run on core `k`, and the window permits the access. -/
def inWindow (r : DRun) (k a n : Nat) (write amo : Bool) : Bool :=
  (!amo && (inside a n (xAlias (k % 4)) 0x40000 || inside a n (yAlias (k % 4)) 0x40000))
    || (r.w3len != 0 && inside a n r.w3 r.w3len)
    || (!amo && r.w4len != 0 && inside a n r.w4 r.w4len)
    || (!write && !amo && inView a n)

/-- A range that a job of core `k` names may be used: by its windows on a guest core. -/
def jobRange (s : State) (k a n : Nat) (write : Bool) : Bool :=
  if isHouse s k then true
  else match runOn s k with
    | some r => inWindow r k a n write false
    | none => false

/-- The function of the run on a core. -/
def coreFn (s : State) (k : Nat) : Option Nat := (runOn s k).map (·.fn)

/-! ## Items, results and the end of a run (R594 to R596, R601, R623) -/

/-- Key of an item slot. -/
def itemKey (seg slot : Nat) : Nat := seg * 4096 + slot

/-- Items of a Segment in use, and of its runs. -/
def itemsOf (s : State) (seg : Nat) : Tab Item := tfilter (fun k _ => k / 4096 == seg) s.dsp.items

/-- The token of an item (R595). -/
def tokenOf (key : Nat) (i : Item) : Nat :=
  key % 4096 + i.source * 2 ^ 12 + i.seq * 2 ^ 16 + i.prio * 2 ^ 29 + i.flow % 65536 * 2 ^ 32 + i.kind % 65536 * 2 ^ 48

/-- A free item slot of a Segment (R594): the lowest. -/
def freeItem (s : State) (seg : Nat) : Option Nat := tfree (itemKey seg 0) 4096 s.dsp.items

/-- Room for one more item of a run (R594). -/
def runItemRoom (s : State) (seg r : Nat) : Bool :=
  decide (tcount (fun _ i => i.run.isSome) (itemsOf s seg) < 1024) && decide (tcount (fun _ i => i.run == some r) (itemsOf s seg) < 64)

/-- Allocate an item slot: SEQ of the slot moves on (R595). -/
def putItem (key : Nat) (i : Item) (s : State) : State :=
  onDsp (fun d =>
    { d with items := tput key { i with seq := tgetD 0 key d.seqs, order := d.order } d.items
             seqs := tset 0 key ((tgetD 0 key d.seqs + 1) % 8192) d.seqs
             order := d.order + 1 }) s

def dropItem (key : Nat) (s : State) : State :=
  onDsp (fun d => { d with items := tdel key d.items, retries := tdel key d.retries }) s

/-- The item in service on a core ends its service (R601). -/
def endService (k : Nat) (s : State) : State := match (coreOf s k).item with
  | some key => onCore k (fun c => { c with item := none }) (dropItem key s)
  | none => s

/-- Free the saved contexts of a page of a Segment, or of every Segment (R479). -/
def freeContexts (p : Nat → Ctx → Bool) (s : State) : State :=
  { s with cry := { s.cry with ctxs := tfilter (fun k c => !p k c) s.cry.ctxs } }

/-- A page of a Segment may take one more saved context (R475). -/
def ctxRoom (s : State) (seg page : Nat) : Bool :=
  let mine := fun (p : Ctx → Bool) => tcount (fun k x => k / 64 == seg && p x) s.cry.ctxs
  decide (mine (fun _ => true) < 64)
    && (decide (page ≥ 256) || (decide (mine (fun x => decide (x.page < 256)) < 48)
          && decide (mine (·.page == page) < fieldOf s Reg.cryCtxq 7 0)))

/-- The core of a hand-over. -/
def Hand.core : Hand → Nat
  | .zest k _ => k
  | .crypto k _ => k
  | .channel k _ _ => k
  | .resume k _ _ => k
  | .post k _ _ _ => k
  | .done k _ => k
  | .exit k _ => k

/-- Clear a core for its next run: stopped, with its banks and instruction memory zero (R623). -/
def clearCore (k : Nat) (s : State) : State :=
  let s := onCore k (fun c => { beat := c.beat, bps := c.bps, issuedAt := c.issuedAt, st := if c.st = .halted then .halted else .held }) s
  clearMem (k / 4) (xAlias (k % 4)) 0xC0000 (onDxr (fun d => { d with stale := d.stale.filter fun x => !(x.mem == k / 4 && inside x.addr 1 (xAlias (k % 4)) 0xC0000) }) s)

/-- The steps of R623 for run `r`: its core stops, its work and items go at once, its saved contexts, its memory and its slot are cleared
(log 159). -/
def cleanRun (r : Nat) (s : State) : State := match tget r s.dsp.runs with
  | none => s
  | some x =>
    let s := match x.core with
      | some k =>
        let s := onDxr (fun d => { d with hands := d.hands.filter (fun h => h.core != k), jobAt := tset 0 (k / 4) s.now d.jobAt }) s
        let s := { s with zst := { s.zst with jobs := tfilter (fun _ j => !(j.guest && j.core == k)) s.zst.jobs }
                          cry := { s.cry with jobs := tfilter (fun _ j => j.core != k) s.cry.jobs } }
        let s := onMov (fun m => { m with chans := tmap (fun c y => if c / 64 = k / 4 && c % 64 / 4 = k % 4 && decide (c % 64 < 16)
                                    then { y with queue := [], halted := false, retries := 0 } else y) m.chans }) s
        let s := freeContexts (fun _ y => y.run == some r) s
        let s := clearMem x.seg x.w3 x.w3len (clearMem x.seg x.w4 x.w4len s)
        clearCore k s
      | none => s
    onDsp (fun d => { d with items := tdel r (tfilter (fun _ i => i.run != some r) d.items), runs := tdel r d.runs }) s

/-- End every run of a function without a completion, and free its program slots (R626). -/
def dropRuns (f : Nat) (s : State) : State :=
  let l := (s.dsp.runs.filter fun p => p.2.fn == f).map fun p => (p.1, p.2.id)
  let s := l.foldl (fun s p => cleanRun p.1 (dropFlight p.2 s)) s
  onDsp (fun d => { d with progs := tfilter (fun _ p => p.fn != f) d.progs }) s

/-- A queued run leaves the queue when its command is abandoned. -/
def dropQueuedRun (id : Nat) (s : State) : State :=
  onDsp (fun d =>
    let gone := tkeys (tfilter (fun _ r => r.id == id && r.core.isNone) d.runs)
    { d with runs := tfilter (fun k _ => !gone.contains k) d.runs, items := tfilter (fun k _ => !gone.contains k) d.items }) s

end Sys2Proof.Machine
end

