-- ==== Sys2Proof/Machine/Dram.lean ====
section
/-!
DEFINITION. The DRAM controller's address map, regions and scheduler (R638, R639, R642 to R648), and its row-activation tables (R652, R653).
-/
namespace Sys2Proof.Machine

/-- Change a Segment's DRAM channel. -/
def onDram (n : Nat) (f : Dram → Dram) (s : State) : State :=
  onMov (fun m => { m with drams := tput n (f (tgetD {} n m.drams)) m.drams }) s

def dramOf (s : State) (n : Nat) : Dram := tgetD {} n s.mov.drams

/-- A bank of a channel. -/
def onDBank (n b : Nat) (f : DBank → DBank) (s : State) : State :=
  onDram n (fun d => { d with banks := tput b (f (tgetD {} b d.banks)) d.banks }) s

/-! ## Addresses (R638, R639, R642, R643) -/

/-- Where a channel address lies (R638). -/
structure DPlace where
  sub : Nat
  rank : Nat
  bg : Nat
  ba : Nat
  row : Nat
  cb : Nat
  col : Nat
  deriving DecidableEq, Repr

/-- The map of R638. -/
def dramMap (d : Dram) (a : Nat) : DPlace :=
  let g := 2 ^ d.grain
  let p := if d.x8 then 4096 else 8192
  let x := a / (2 * g) * g + a % g
  let rest := x / (2048 * (p / 256))
  let row := rest / 4 / max 1 d.ranks
  { sub := a / g % 2, rank := rest / 4 % max 1 d.ranks, bg := Nat.xor (x / 256 % 8) (row % 8), ba := rest % 4, row := row,
    cb := x / 2048 % (p / 256), col := x % 256 }

/-- A bank of a channel as one number, in the order of R647: rank, bank group, bank, within its sub-channel. -/
def bankNo (p : DPlace) : Nat := ((p.sub * 2 + p.rank) * 8 + p.bg) * 4 + p.ba
def subOf (b : Nat) : Nat := b / 64

/-- The spare pool lies below the scratch page and 60 KiB at the channel's top, the shared pool region below it (R639). -/
def sparePool (d : Dram) : Nat := d.cap * 2 ^ 30 - 65536 - 16777216
def sharedPool (d : Dram) : Nat := sparePool d - d.shared * 1048576

/-- An access to a retired page goes to its replacement (R642). -/
def redirect (d : Dram) (a : Nat) : Nat := match tget (a / 4096) d.remap with
  | some i => sparePool d + i * 4096 + a % 4096
  | none => a

/-- Initiators outside the Segment reach the shared pool region only (R643). -/
def mayAddress (d : Dram) (r : DramReq) : Bool := r.port != 6 || (decide (sharedPool d ≤ r.addr) && decide (r.addr < sparePool d))

/-! ## The scheduler (R644 to R648, R651) -/

/-- `DRM_LATk`. -/
def latTarget (s : State) (k : Nat) : Nat :=
  fieldOf s ([Reg.drmLat0, Reg.drmLat1, Reg.drmLat2, Reg.drmLat3, Reg.drmLat4, Reg.drmLat5, Reg.drmLat6].getD k Reg.drmLat6) 15 0

/-- Urgency of a waiting request (R645). -/
def urgency (s : State) (r : DReq) : Nat :=
  let age := s.now - r.at_
  let t := latTarget s r.port
  if r.classS then 3 else if 2 * age < t then 0 else if 4 * age < 3 * t then 1 else if age < t then 2 else 3

/-- The queue that a request enters: its bank's read queue, or its sub-channel's write queue (R646). -/
def sameQueue (r q : DReq) : Bool := if r.write then q.write && subOf q.bank == subOf r.bank else !q.write && q.bank == r.bank

/-- The requests that stand in queues, of those that wait in order of arrival: a full queue holds back only its own (R646). -/
def inQueues (l : List DReq) : List DReq :=
  l.foldl (fun q r => if (q.filter (sameQueue r)).length < (if r.write then 128 else 16) then q ++ [r] else q) []

/-- Writes of a sub-channel in its queue. -/
def writesOf (l : List DReq) (sub : Nat) : Nat := (l.filter fun r => r.write && subOf r.bank == sub).length

/-- Whether a sub-channel drains writes now (R648). -/
def drainsNow (s : State) (d : Dram) (q : List DReq) (sub : Nat) : Bool :=
  let n := writesOf q sub
  if d.drains.contains sub then decide (n > fieldOf s Reg.drmWmark 7 0) else decide (n ≥ fieldOf s Reg.drmWmark 15 8)

/-- The requests of a list for the bank that comes first after `last` in rotating order (R647, rule 3). -/
def nextBank (last : Nat) (l : List DReq) : List DReq :=
  let dist := fun (r : DReq) => (r.bank % 64 + 64 - last - 1) % 64
  let m := l.foldl (fun m r => min m (dist r)) 64
  l.filter fun r => dist r == m

/-- The request of one bank that goes first: to the open row within the hit cap, else the oldest (R647, rule 4). -/
def rowFirst (s : State) (b : DBank) (l : List DReq) : Option DReq :=
  let hit := fun (r : DReq) => b.row == some r.row
  match l.find? hit with
  | some r => if b.hits < fieldOf s Reg.drmSched 7 0 || l.all hit then some r else l.find? fun r => !hit r
  | none => l.head?

/-- A bank's activation count has room for `k` more: it never reaches RAAMMT (R652). -/
def raaRoom (d : Dram) (k : Nat) (b : DBank) : Bool := d.raammt == 0 || decide (b.raa + k < d.raammt)

/-- A request may go to its bank: to the row that is open, or with room for an activation (R652). -/
def mayTouch (d : Dram) (r : DReq) : Bool :=
  let b := tgetD {} r.bank d.banks
  b.row == some r.row || raaRoom d 1 b

/-- The request that a sub-channel serves at a command slot (R647, R648). Postponed refreshes come before any request of urgency below 3
(R651), and a request waits whose activation its bank has no room for (R652). -/
def pickReq (s : State) (d : Dram) (sub : Nat) : Option DReq :=
  let q := inQueues d.reqs
  let mine := q.filter fun r => subOf r.bank == sub && mayTouch d r && (d.postponed == 0 || urgency s r == 3)
  let top := mine.foldl (fun m r => max m (urgency s r)) 0
  let l := mine.filter fun r => urgency s r == top
  let writes := l.filter (·.write)
  let reads := l.filter (!·.write)
  let first := if (drainsNow s d q sub && top != 3 && !writes.isEmpty) || reads.isEmpty then writes else reads
  match nextBank (tgetD 63 sub d.last) first with
  | [] => none
  | r :: t => rowFirst s (tgetD {} r.bank d.banks) (r :: t)

/-- The entry of lowest count of a row-activation table, the lowest index on a tie. -/
def ratLowest : List (Nat × Nat) → Option (Nat × Nat)
  | [] => none
  | p :: t => match ratLowest t with
    | some q => if p.2 ≤ q.2 then some p else some q
    | none => some p

/-- Change the first entry that passes. -/
def ratMap (f : Nat × Nat → Bool) (g : Nat × Nat → Nat × Nat) : List (Nat × Nat) → List (Nat × Nat)
  | [] => []
  | p :: t => if f p then g p :: t else p :: ratMap f g t

/-- One activation of a row (R652, R653). -/
def activate (thresh row : Nat) (b : DBank) : DBank :=
  let rat := if b.rat.any (·.1 == row) then ratMap (·.1 == row) (fun p => (p.1, p.2 + 1)) b.rat
    else if b.rat.length < 16 then b.rat ++ [(row, 1)]
    else match ratLowest b.rat with
      | some q => ratMap (· == q) (fun p => (row, p.2 + 1)) b.rat
      | none => b.rat
  let hit := rat.any fun p => p.1 == row && decide (p.2 ≥ thresh)
  { b with rat := if hit then ratMap (·.1 == row) (fun p => (p.1, 0)) rat else rat, raa := b.raa + 1,
           queued := if hit then b.queued ++ [row] else b.queued, row := some row, hits := 0 }

/-- A request is served in its bank: a hit of the open row, or an activation. -/
def touchRow (thresh row : Nat) (b : DBank) : DBank := if b.row = some row then { b with hits := b.hits + 1 } else activate thresh row b

/-- One command slot of a sub-channel: the request that R647 picks is served. -/
def serveSlot (n sub : Nat) (s : State) : State :=
  let d := dramOf s n
  let s := onDram n (fun d => { d with drains := if drainsNow s d (inQueues d.reqs) sub then (if d.drains.contains sub then d.drains else sub :: d.drains)
                                        else d.drains.filter (· != sub) }) s
  match pickReq s d sub with
  | none => s
  | some r =>
    onDBank n r.bank (touchRow (fieldOf s Reg.drmRat 15 0) r.row)
      (onDram n (fun d => { d with reqs := d.reqs.erase r, last := tset 63 sub (r.bank % 64) d.last }) s)

/-- `k` command slots of both sub-channels. -/
def serveSlots (n : Nat) : Nat → State → State
  | 0, s => s
  | k + 1, s => serveSlots n k (serveSlot n 1 (serveSlot n 0 s))

/-- A request reaches the controller: it waits for its queue and its turn. One from outside the Segment to any region but the shared pool
ends as a bus error with DT09 (R643, R646). -/
def arrive (n : Nat) (s : State) (r : DramReq) : State :=
  let d := dramOf s n
  if mayAddress d r then
    let p := dramMap d (redirect d r.addr)
    onDram n (fun d => { d with reqs := d.reqs ++ [{ port := r.port, bank := bankNo p, row := p.row, write := r.write, classS := r.classS, at_ := s.now }] }) s
  else raise 9 { seg := n, loc := r.addr } s

/-- Requests reach the controller of Segment `n`, and `k` command slots pass. -/
def dramServe (n : Nat) (reqs : List DramReq) (k : Nat) (s : State) : State :=
  let s := reqs.foldl (arrive n) s
  serveSlots n k (if (dramOf s n).reqs.isEmpty then s else onDram n (fun d => { d with usedAt := s.now }) s)

/-- A Class S request waits on some sub-channel, before which no training step starts (R637). -/
def classSWaits (d : Dram) : Bool := d.reqs.any (·.classS)

end Sys2Proof.Machine
end

