-- ==== Sys2Proof/Machine/Zest.lean ====
section
/-!
DEFINITION. The Zest format: the reference decoder, the encoder's block forms, and the objects the 3216 writes (chapter 07).
-/
namespace Sys2Proof.Machine

/-! ## The reference decoder (R254) -/

/-- Append `n` bytes of a match at `off`; the output is held last byte first. -/
def copyMatch (off : Nat) : Nat → List Byte → List Byte
  | 0, b => b
  | n + 1, b => copyMatch off n (b.getD (off - 1) 0 :: b)

/-- The extension E: its value and the bytes after it, or the reason code (R252). -/
def leb : List Byte → Except Nat (Nat × List Byte)
  | [] => .error 4
  | a :: t =>
    if a.toNat < 128 then .ok (a.toNat, t)
    else match t with
      | [] => .error 4
      | b :: t =>
        if b.toNat < 128 then (if b = 0 then .error 7 else .ok (a.toNat - 128 + b.toNat * 128, t))
        else match t with
          | [] => .error 4
          | c :: t =>
            if c.toNat < 128 then
              (if c = 0 then .error 7 else .ok (a.toNat - 128 + (b.toNat - 128) * 128 + c.toNat * 16384, t))
            else .error 7

/-- A literal run of `m` bytes. `out` is the output last byte first, `len` its length. -/
def literal (want m len : Nat) (body out : List Byte) : Except Nat (List Byte × List Byte) :=
  if m > body.length ∨ len + m > want then .error 4 else .ok (body.drop m, (body.take m).reverse ++ out)

/-- A match of `m` bytes at `off`. -/
def matchOf (want m off len : Nat) (body out : List Byte) : Except Nat (List Byte × List Byte) :=
  if off > len then .error 5 else if len + m > want then .error 6 else .ok (body, copyMatch off m out)

/-- One token: the rest of the body and the output after it (R251, R253). -/
def token (want : Nat) (c : Nat) (body out : List Byte) : Except Nat (List Byte × List Byte) :=
  let len := out.length
  if c < 0x40 then literal want (c + 1) len body out
  else if c < 0x80 then
    match body with
    | [] => .error 4
    | l :: t => literal want (c % 64 * 256 + l.toNat + 65) len t out
  else if c < 0xC0 then
    match body with
    | [] => .error 4
    | d :: t => matchOf want (c / 8 % 8 + 3) (c % 8 * 256 + d.toNat + 1) len t out
  else match body with
    | d0 :: d1 :: t =>
      let off := d0.toNat + 256 * d1.toNat + 1
      if c = 0xFF then
        match leb t with
        | .ok (e, t) => matchOf want (67 + e) off len t out
        | .error r => .error r
      else matchOf want (c % 64 + 4) off len t out
    | _ => .error 4

/-- The tokens of a body, at most `fuel` of them. -/
def tokens (want : Nat) : Nat → List Byte → List Byte → Except Nat (List Byte)
  | _, [], out => if out.length ≠ want then .error 6 else .ok out.reverse
  | 0, _ :: _, _ => .error 4
  | fuel + 1, c :: t, out => match token want c.toNat t out with
    | .ok (body, out) => tokens want fuel body out
    | .error r => .error r

/-- decode_block of R254. -/
def decodeBlock (ty : Nat) (body : List Byte) (want : Nat) : Except Nat (List Byte) :=
  if ty = 0 then (if body.length ≠ want then .error 3 else .ok body)
  else if ty = 2 then (if body.length ≠ 0 then .error 3 else .ok (zeros want))
  else if ty ≠ 1 ∨ body.length ≥ want then .error 3
  else tokens want body.length body []

/-- One block at the head of `z`, whose content is `want` bytes: its content and its length with the header. `last` and
`raw` say what BFLAGS and BTYPE must be. A check that reads past the end of the input fails with 4, in the order of the checks. -/
def decodeOne (z : List Byte) (want : Nat) (last raw : Bool) : Except Nat (List Byte × Nat) :=
  if z.length < 8 then .error 4
  else
    let blen := fld z 5 3
    if fld z 2 3 + 1 ≠ want ∨ fld z 1 1 ≠ b2n last ∨ (raw ∧ fld z 0 1 ≠ 0) then .error 3
    else if blen ≠ 0 ∧ z.length < 12 + blen then .error 4
    else match decodeBlock (fld z 0 1) (slice z 12 blen) want with
      | .error r => .error r
      | .ok b => if z.length < 12 then .error 4 else if Config.crc32c b ≠ fld z 8 4 then .error 8 else .ok (b, 12 + blen)

/-- `n` blocks of an object whose content has `left` bytes still to come. -/
def decodeBlocks (bsize : Nat) (raw : Bool) : Nat → Nat → List Byte → Except Nat (List Byte × Nat)
  | 0, _, _ => .ok ([], 0)
  | n + 1, left, z => match decodeOne z (min bsize left) (n == 0) raw with
    | .error r => .error r
    | .ok (b, k) => match decodeBlocks bsize raw n (left - bsize) (z.drop k) with
      | .error r => .error r
      | .ok (c, m) => .ok (b ++ c, k + m)

/-- The object header's fields BSHIFT, ULEN and STORED_RAW, or the reason code. -/
def decodeHeader (z : List Byte) : Except Nat (Nat × Nat × Bool) :=
  if z.length < 12 then .error 4
  else if fld z 0 4 ≠ 0x5453455A ∨ fld z 4 1 ≠ 1 ∨ fld z 5 1 > 9 then .error 1
  else if fld z 6 1 < 12 ∨ fld z 6 1 > 18 ∨ fld z 7 1 > 1 ∨ fld z 8 4 > 16777216 then .error 1
  else if z.length < 16 then .error 4
  else if fld z 12 4 ≠ Config.crc32c (slice z 0 12) then .error 2
  else .ok (fld z 6 1, fld z 8 4, fld z 7 1 == 1)

/-- decode_object of R254: the content and the object's length. -/
def decodeObject (z : List Byte) : Except Nat (List Byte × Nat) := match decodeHeader z with
  | .error r => .error r
  | .ok (sh, ulen, raw) => match decodeBlocks (2 ^ sh) raw (cdiv ulen (2 ^ sh)) ulen (z.drop 16) with
    | .error r => .error r
    | .ok (b, n) => .ok (b, 16 + n)

/-! ## The encoder (R248 to R250, R255, R256, R263) -/

/-- A block's header and body. -/
def blockBytes (ty : Nat) (last : Bool) (blk body : List Byte) : List Byte :=
  pack [(1, ty), (1, b2n last), (3, blk.length - 1), (3, body.length), (4, Config.crc32c blk)] ++ body

/-- The match search of a level (R257). -/
def zestSearch (level : Nat) : ZestSearch := match level with
  | 0 => { entries := 0, candidates := 0, lazySteps := 0, shortest := 0 }
  | 1 => { entries := 4096, candidates := 1, lazySteps := 0, shortest := 4 }
  | 2 => { entries := 8192, candidates := 2, lazySteps := 0, shortest := 4 }
  | 3 => { entries := 16384, candidates := 4, lazySteps := 0, shortest := 4 }
  | 4 => { entries := 16384, candidates := 8, lazySteps := 1, shortest := 4 }
  | 5 => { entries := 32768, candidates := 16, lazySteps := 1, shortest := 4 }
  | 6 => { entries := 32768, candidates := 32, lazySteps := 1, shortest := 3 }
  | 7 => { entries := 65536, candidates := 64, lazySteps := 2, shortest := 3 }
  | 8 => { entries := 65536, candidates := 128, lazySteps := 2, shortest := 3 }
  | _ => { entries := 65536, candidates := 256, lazySteps := 2, shortest := 3 }

/-- Every match of a body is in its short form wherever its length and offset allow it, and is not below the shortest (R251, R256,
R257). -/
def shortForms (shortest : Nat) : Nat → List Byte → Bool
  | _, [] => true
  | 0, _ :: _ => false
  | fuel + 1, a :: t =>
    let c := a.toNat
    if c < 0x40 then shortForms shortest fuel (t.drop (c + 1))
    else if c < 0x80 then shortForms shortest fuel (t.drop (c % 64 * 256 + (t.headD 0).toNat + 66))
    else if c < 0xC0 then decide (c / 8 % 8 + 3 ≥ shortest) && shortForms shortest fuel (t.drop 1)
    else if c = 0xFF then match leb (t.drop 2) with
      | .ok (_, t) => shortForms shortest fuel t
      | .error _ => false
    else !(decide (c % 64 + 4 ≤ 10) && decide (fld t 0 2 + 1 ≤ 2048)) && shortForms shortest fuel (t.drop 2)

/-- The ZEST form of a block, if the search's tokens are shorter than the block, stand for it and take the short forms (R255 to R257). -/
def zestForm (level : Nat) (blk : List Byte) : Option (List Byte) :=
  if level = 0 then none
  else
    let p := zestSearch level
    let b := Config.zestTokens p blk
    if decide (b.length < blk.length) && shortForms p.shortest b.length b
        && (match decodeBlock 1 b blk.length with | .ok c => c == blk | .error _ => false) then some b
    else none

/-- The form that R255 takes for a block; `bad` says that the self-check of R263 found a mismatch. The number is 1 for RAW
in place of a coded form at levels 1 to 9, and 2 where the self-check made it so. -/
def encodeBlock (level : Nat) (last bad : Bool) (blk : List Byte) : List Byte × Nat :=
  if blk.all (· == 0) then (blockBytes 2 last blk [], 0)
  else match zestForm level blk with
    | some b => if bad then (blockBytes 0 last blk blk, 2) else (blockBytes 1 last blk b, 0)
    | none => (blockBytes 0 last blk blk, if level = 0 then 0 else 1)

/-- Cut content into blocks, `n` of them. -/
def cutBlocks (bsize : Nat) : Nat → List Byte → List (List Byte)
  | 0, _ => []
  | n + 1, l => l.take bsize :: cutBlocks bsize n (l.drop bsize)

/-- The blocks of an object of content `l`. -/
def blocksOf (bshift : Nat) (l : List Byte) : List (List Byte) := cutBlocks (2 ^ bshift) (cdiv l.length (2 ^ bshift)) l

/-- The object header (R249). -/
def objHeader (level bshift oflags ulen : Nat) : List Byte :=
  let h := pack [(4, 0x5453455A), (1, 1), (1, level), (1, bshift), (1, oflags), (4, ulen)]
  h ++ le 4 (Config.crc32c h)

/-- Encode blocks; `bad` lists the blocks that the self-check of R263 replaces, by index from `k`. The numbers count RAW
blocks at levels 1 to 9 and replaced blocks. -/
def encodeBlocks (level : Nat) (bad : List Nat) : Nat → List (List Byte) → List Byte × Nat × Nat
  | _, [] => ([], 0, 0)
  | k, b :: t =>
    let (o, c) := encodeBlock level t.isEmpty (bad.contains k) b
    let (o', r, q) := encodeBlocks level bad (k + 1) t
    (o ++ o', r + (if c = 0 then 0 else 1), q + (if c = 2 then 1 else 0))

/-- The object of content `l` at a level, with its counts (R248, R255). -/
def encodeObject (level bshift : Nat) (bad : List Nat) (l : List Byte) : List Byte × Nat × Nat :=
  let (o, r, q) := encodeBlocks level bad 0 (blocksOf bshift l)
  (objHeader level bshift 0 l.length ++ o, r, q)

/-- The wrapper object of R266: LEVEL 0, BSHIFT 18, STORED_RAW, RAW blocks. -/
def wrapObject (l : List Byte) : List Byte :=
  let bs := blocksOf 18 l
  objHeader 0 18 1 l.length ++ (bs.zipIdx.flatMap fun p => blockBytes 0 (p.2 + 1 == bs.length) p.1 p.1)

/-- Count what a Segment's compression pipe has done: content in, object bytes out, RAW blocks, and blocks that the
self-check replaced, each of which raises DT31 (R263, R276). -/
def countCompress (seg cin cout raw chk : Nat) (ef : Nat) (s : State) : State :=
  let s := bump (Reg.zstRawblkLo seg) raw (bump (Reg.zstCoutLo seg) cout (bump (Reg.zstCinLo seg) cin s))
  (List.range chk).foldl (fun s _ => raiseF 31 { seg := seg } ef (if bypassed s 31 then s else bumpTallyQuiet (Reg.zstCheck seg) s)) s

/-- Compress content in a Segment at a level: the object, or nothing where it is not shorter than the content (R259). An
injection for DT31 falls on the first coded block. In a bypass window no block is replaced (R428, R429). -/
def compress (seg level bshift : Nat) (bad : List Nat) (l : List Byte) (s : State) : Option (List Byte) × State :=
  let (inj, ef, s) := meet 31 seg 0xFFFF false s
  let (o, r, q) := encodeObject level bshift (if inj then 0 :: bad else bad) l
  let (o, r) := if bypassed s 31 then (let p := encodeObject level bshift [] l; (p.1, p.2.1)) else (o, r)
  let s := countCompress seg l.length o.length r q ef s
  (if o.length < l.length then some o else none, s)

/-- The content of a Zest object, once every block's UCRC matches (R254, R264). -/
def unzip (z : List Byte) : Option (List Byte) := match decodeObject z with
  | .ok (c, _) => some c
  | .error _ => none

/-- A record is read as a Zest object: the object is on media. Until then Stone serves its payload (R264, R266). -/
def Rec.asObj (r : Rec) : Bool := r.zobj && r.band.isSome

/-- The payload of a record as a read path gives it: of a record stored as an object, what that decodes to (R264). -/
def recContent (r : Rec) : Option (List Byte) := if r.asObj then unzip r.obj else some r.payload

/-- The content of a grain as a read path gives it (R264). -/
def grainRead (x : Ns) (g : Nat) : Option (List Byte) := match tget g x.grains with
  | some r => if r.zobj then unzip r.obj else some (grainContent x g)
  | none => some (grainContent x g)

/-- A block as a read path gives it (R130, R264). -/
def readBlock (x : Ns) (b : Nat) : List Byte :=
  if (tget b x.blocks).isNone then blockOf x b
  else slice ((grainRead x (b / grainBlocks x)).getD []) (4096 * (b % grainBlocks x)) 4096

/-- The attempts to read an object, injections falling on it: DT30 for each that fails; the flag says that none of `n` was whole. In a bypass
window the first is taken as it is (R265, R428, R429). -/
def openTries (seg : Nat) : Nat → State → Bool × State
  | 0, s => (true, s)
  | n + 1, s =>
    let (a, ef, s) := meet 30 seg 0xFFFF false s
    if !a then (false, s)
    else if bypassed s 30 then (false, raiseF 30 { seg := seg } ef s)
    else openTries seg n (raiseF 30 { seg := seg } (if n = 0 then ef else ef + efMasked) (bumpTallyQuiet (Reg.zstFormat seg) s))

/-- A read decompresses an object of `n` content bytes. One that fails R254 (`shut`), or that an injection falls on, raises DT30 and is read again
through the ladder's steps and rebuild; the flag says that every path failed (R265, R277, R391). -/
def openObject (seg n : Nat) (shut : Bool) (s : State) : Bool × State :=
  if shut then
    let (a, ef, s) := meet 30 seg 0xFFFF true s
    (true, if a then raiseF 30 { seg := seg } ef (bumpTallyQuiet (Reg.zstFormat seg) s) else s)
  else
    let (bad, s) := openTries seg 10 s
    (bad, if bad then s else bump (Reg.zstDoutLo seg) n s)

/-- BSHIFT of objects made at drain (R258). -/
def drainShift (s : State) : Nat := fieldOf s Reg.zstCfg 4 0

/-- ZST_SNAP_NOW (R276). -/
def execZstSnapNow (t n : Nat) (s : State) : Host.Outcome State Fault Refusal :=
  .next (strobe n (Reg.zstSnap n) (tick t s))

end Sys2Proof.Machine
end

