-- ==== Sys2Proof/Machine/Layout.lean ====
section
/-!
DEFINITION. Bands, stripe rows and stripe units: where they lie on the dies, the codewords that they hold and the bytes of a page, the
units that fill in Stone, and the programs that wait for their dies (R163, R280, R281, R284, R287, R293, R388, R394, R395, R469 to R471).
-/
namespace Sys2Proof.Machine

/-! ## Bands -/

/-- Change a band. -/
def onBand (k : Nat) (f : Band → Band) (s : State) : State := onMed (fun m => { m with bands := tmod k f m.bands }) s

/-- Layout of a Segment, and the members of its stripe rows, which are the blocks of a band (R394). -/
def layoutOf (s : State) (seg : Nat) : Nat := tgetD 0 seg s.flw.layout
def width (s : State) (seg : Nat) : Nat := if layoutOf s seg = 0 then 32 else 8

/-- Usable dies of a Segment, and its stripe groups (R394). -/
def usableOf (s : State) (seg : Nat) : Tab Die := tfilter (fun k d => k / 128 == seg && d.usable) s.flw.dies
def groupOf (s : State) (seg pos : Nat) : Nat := if layoutOf s seg = 0 then pos / 4 else pos
def groupsOf (s : State) (seg : Nat) : Nat := (usableOf s seg).length / width s seg

/-- The stripe group and the block number of a band: bands are numbered group by group within each block number. -/
def bandGroup (s : State) (k : Nat) : Nat := (k % 2 ^ 24) % max 1 (groupsOf s (segOfBand k))
def bandBlk (s : State) (k : Nat) : Nat := (k % 2 ^ 24) / max 1 (groupsOf s (segOfBand k))

/-- Dies of a stripe group of a Segment, and of a band. -/
def groupDies (s : State) (seg g : Nat) : Tab Die := tfilter (fun _ d => groupOf s seg d.pos == g) (usableOf s seg)
def bandDies (s : State) (k : Nat) : Tab Die := groupDies s (segOfBand k) (bandGroup s k)

/-- Key of block `b` of die `d`. -/
def blkKey (d b : Nat) : Nat := d * 2 ^ 24 + b

/-- The block number under which bands know block `b` of a die: its own, or that of the block that it replaces; none for a spare (R319). -/
def homeOf (x : Die) (b : Nat) : Option Nat := match tfind (fun _ l => l.contains b) x.subst with
  | some (o, _) => some o
  | none => if x.spares.contains b then none else some b

/-- The band that holds a block of a die. -/
def bandOf (s : State) (d b : Nat) : Option Nat := match tget d s.flw.dies with
  | some x => if x.usable then (homeOf x b).map fun o => bandKey (d / 128) (o * groupsOf s (d / 128) + groupOf s (d / 128) x.pos) else none
  | none => none

/-- The block that a band has on a die: its own, or the latest that replaces it (R319). -/
def freshBlk (s : State) (k d : Nat) : Nat := match tget d s.flw.dies with
  | some x => (tgetD [] (bandBlk s k) x.subst).headD (bandBlk s k)
  | none => bandBlk s k

/-- The block of a die in which a band's data lies: a retired one until its replacement is erased (R318, R319; log 134). -/
def blkOf (s : State) (k d : Nat) : Nat := match (tget k s.med.bands).bind fun b => tget d b.old with
  | some b => b
  | none => freshBlk s k d

/-- The blocks of a band, as die and block number. -/
def bandBlocks (s : State) (k : Nat) : List (Nat × Nat) := (tkeys (bandDies s k)).map fun d => (d, blkOf s k d)

/-- Bytes of some pieces that lie in a band. -/
def pieceBytes (k : Nat) (l : List Piece) : Nat := l.foldl (fun n p => if p.band = k then n + p.len else n) 0

/-- Valid bytes of a band: what the maps and the kept checkpoints still point to (R289, R305). -/
def validBytes (s : State) (k : Nat) : Nat :=
  tsum (fun _ x => tsum (fun _ r => pieceBytes k r.pieces) x.recs) s.cmd.streams
    + tsum (fun _ x => tsum (fun _ g => pieceBytes k g.pieces) x.grains) s.cmd.nss
    + tsum (fun _ l => l.foldl (fun n c => n + pieceBytes k c.pieces) 0) s.med.ckpts

/-- Bands of a Segment. -/
def bandsOf (s : State) (seg : Nat) : Tab Band := tfilter (fun k _ => segOfBand k == seg) s.med.bands

/-- FREE_BANDS: free bands, less the Brace reserve and the SLC buffer (R305). -/
def freeBands (s : State) (seg : Nat) : Nat := tcount (fun _ b => b.st == .free && !b.slc && !b.brace) (bandsOf s seg)

/-- Free bands less the Brace reserve alone (R322). -/
def floorBands (s : State) (seg : Nat) : Nat := tcount (fun _ b => b.st == .free && !b.brace) (bandsOf s seg)

/-- Blocks in the SLC buffer: those used in single-bit mode, erased ones included, apart from the Brace reserve (R295, R332). -/
def slcBlocks (s : State) (seg : Nat) : Nat := tcount (fun _ b => b.slc && !b.brace && b.st != .retired) (bandsOf s seg) * width s seg

/-- Erase counts of a band's blocks: their sum and their number, so that means compare exactly (R310). -/
def eraseSum (s : State) (k : Nat) : Nat × Nat :=
  (tsum (fun d x => tgetD 0 (freshBlk s k d) x.erases) (bandDies s k), (bandDies s k).length)

/-- The free band that is taken next: one taken and prepared already, else the one with the lowest mean erase count, freed earliest on a tie
(R310; log 135). -/
def pickFree (s : State) (seg : Nat) (slc : Bool) : Option Nat :=
  let l := tfilter (fun _ b => b.st == .free && b.slc == slc && !b.brace && b.claim == 0 && b.prep != 5) (bandsOf s seg)
  match tfind (fun _ b => b.prep == 1) l with
  | some (k, _) => some k
  | none => (l.foldl
    (fun (m : Option (Nat × Band)) p => match m with
      | none => some p
      | some q =>
        let (a, n) := eraseSum s p.1
        let (c, i) := eraseSum s q.1
        if a * i < c * n ∨ (a * i = c * n ∧ p.2.freedNo < q.2.freedNo) then some p else some q)
    none).map (·.1)

/-- Body of an erase-intent (1) or erase-done (2) entry for a block of die `d`. -/
def eraseBody (kind d block erases mode : Nat) : List Byte :=
  pack [(1, kind), (1, d / 16), (1, d / 2 % 8), (1, d % 2), (4, block), (4, erases), (1, mode), (3, 0)]

/-- Ask for the erase of block `b` of die `d` in band `k`: its intent is queued (R309, R369). -/
def askErase (k d b : Nat) (s : State) : State :=
  let n := match tget d s.flw.dies with | some x => tgetD 0 b x.erases | none => 0
  let slc := match tget k s.med.bands with | some q => q.slc | none => false
  queueJ 1 (segOfBand k) none (eraseBody 1 d b (n + 1) (b2n slc)) s

/-- Ask for the erase of a band's blocks, the replacements of retired ones among them (R309, R319, R369). -/
def startErase (k : Nat) (s : State) : State := match tget k s.med.bands with
  | none => s
  | some _ =>
    let l := (bandDies s k).filter fun p => !p.2.lost
    let s := l.foldl (fun s p => askErase k p.1 (freshBlk s k p.1) s) s
    onBand k (fun b => { b with erased := true, wait := tkeys l, old := [], erases := b.erases + 1 }) s

/-- An erase entry concerns block `b` of die `d`. -/
def concerns (e : JEntry) (d b : Nat) : Bool :=
  e.etype == 1 && fld e.body 1 1 == d / 16 && fld e.body 2 1 == d / 2 % 8 && fld e.body 3 1 == d % 2 && fld e.body 4 4 == b

/-- A retirement entry concerns a block of die `d` (R411). -/
def retires (e : JEntry) (d : Nat) : Bool :=
  e.etype == 2 && fld e.body 0 1 == 1 && fld e.body 3 1 == d / 16 && fld e.body 4 1 == d / 2 % 8 && fld e.body 5 1 == d % 2

/-- Every block of a band is erased, its erase-done entry is durable, and so is the retirement of every block that one of them replaces
(R318, R370, R411). -/
def bandReady (s : State) (k : Nat) : Bool := match tget k s.med.bands with
  | none => false
  | some b =>
    let l := s.pith.jq ++ s.pith.jprog.toList
    b.erased && b.wait.isEmpty
      && !(bandDies s k).any fun p => l.any fun e => concerns e p.1 (freshBlk s k p.1)
          || (retires e p.1 && (tgetD [] (bandBlk s k) p.2.subst ++ [bandBlk s k]).contains (fld e.body 8 8))

/-- Prepare a free band that is taken, for the next opening (1) or a wear move (5): the erase of its blocks is asked for, once. -/
def prepare (k use : Nat) (s : State) : State := match tget k s.med.bands with
  | some b => onBand k (fun b => { b with prep := use }) (if b.erased then s else startErase k s)
  | none => s

/-- The channels of a Segment, modulo 8, that a new band leaves out: those that are lost under Die guard (R381). -/
def lostChans (s : State) (seg : Nat) : List Nat :=
  if layoutOf s seg ≠ 0 then [] else (List.range 8).filter fun c => (tgetD {} (seg * 8 + c) s.flw.chans).state == 3

/-- Open a free band for writing. -/
def openBand (k : Nat) (s : State) : State :=
  let fresh := fun (b : Band) => { b with units := [], seqs := [], okRows := [], skip := lostChans s (segOfBand k) }
  let s := onBand k (fun b => { fresh b with st := .opened, prep := if b.prep = 5 then 5 else 0, filled := 0, dataAt := s.now }) s
  onMed (fun m => { m with ckptBands := tset 0 (segOfBand k) (tgetD 0 (segOfBand k) m.ckptBands + 1) m.ckptBands }) s

/-- Close a band (R280). -/
def closeBand (k : Nat) (s : State) : State :=
  onBand k (fun b => { b with st := .closed, prep := 0, closedNo := s.med.order }) (onMed (fun m => { m with order := m.order + 1 }) s)

/-- A band that is retired for want of a spare gives its other blocks to their dies as spares (R319). -/
def retireBand (k : Nat) (s : State) : State :=
  let l := (bandDies s k).filter fun p => !p.2.lost && !s.med.retired.contains (p.1, freshBlk s k p.1)
  let s := l.foldl (fun (s : State) p =>
    { s with flw := { s.flw with dies := tmod p.1 (fun y => { y with spares := y.spares ++ [freshBlk s k p.1], subst := tdel (bandBlk s k) y.subst }) s.flw.dies } }) s
  onBand k (fun b => { b with st := .retired, erased := false, wait := [], dying := false, claim := 0, brace := false, prep := 0 }) s

/-- Free a band that holds nothing valid; one that has lost a block for which there is no spare is retired. The SLC buffer is kept erased
(R309, R319). -/
def freeBand (k : Nat) (s : State) : State :=
  let s := onBand k (fun b => { b with st := .free, erased := false, filled := 0, freedNo := s.med.order, claim := 0, prep := 0 })
    (onMed (fun m => { m with order := m.order + 1, refresh := m.refresh.filter (· != k),
                              weak := m.weak.filter fun q => !(bandBlocks s k).any fun p => blkKey p.1 p.2 == q }) s)
  match tget k s.med.bands with
  | some b => if b.dying then retireBand k s else if b.slc then startErase k s else s
  | none => s

/-- The open band of a Segment, of a kind. -/
def openOf (s : State) (seg : Nat) (slc : Bool) : Option (Nat × Band) :=
  tfind (fun _ b => b.st == .opened && b.slc == slc && b.prep != 5) (bandsOf s seg)


/-! ## Dies -/

/-- Change a die, and a channel. -/
def onDie (d : Nat) (f : Die → Die) (s : State) : State := { s with flw := { s.flw with dies := tmod d f s.flw.dies } }
def onChan (c : Nat) (f : Chan → Chan) (s : State) : State :=
  { s with flw := { s.flw with chans := tput c (f (tgetD {} c s.flw.chans)) s.flw.chans } }

/-- Channel and Segment of a die. -/
def chanOf (d : Nat) : Nat := d / 16
def segOfDie (d : Nat) : Nat := d / 128

/-- MT/s of a NAND rate code (R344). -/
def nandRate (c : Nat) : Nat := [0, 0, 800, 1600, 2400, 3200, 3600, 4000, 4400, 4800].getD c 0

/-- The time that a page group with its spare takes on a die's channel, and the time of its read, in ns (R340, R347). -/
def xferNs (s : State) (d : Nat) (x : Die) : Nat :=
  cdiv (x.planes * (16384 + x.spare) * 1000) (max 1 (nandRate (tgetD {} (chanOf d) s.flw.chans).rate))
def readNs (s : State) (d : Nat) (x : Die) : Nat := x.tread + xferNs s d x

/-- A page group passes on a die's channel from instant `a` on, as soon as the channel transfers for no other die (R340): the instant at which
it has passed. -/
def transfer (d : Nat) (a n : Nat) (s : State) : Nat × State :=
  let e := max a (tgetD {} (chanOf d) s.flw.chans).xferEnd + n
  (e, onChan (chanOf d) (fun c => { c with xferEnd := e }) s)

/-! ## Stripe rows (R280, R281, R394, R395) -/

/-- Planes of a Segment's dies, the data bytes of its stripe units and their codewords (R281, R387). -/
def planesOf (s : State) (seg : Nat) : Nat := match usableOf s seg with
  | [] => 1
  | p :: t => max 1 (t.foldl (fun m q => min m q.2.planes) p.2.planes)
def unitBytes (s : State) (seg : Nat) : Nat := 16384 * planesOf s seg
def unitCws (s : State) (seg : Nat) : Nat := 4 * planesOf s seg

/-- Index of a die within its stripe group (R394). -/
def memberOf (s : State) (d : Nat) (x : Die) : Nat :=
  if layoutOf s (segOfDie d) = 0 then 8 * (x.pos % 4) + chanOf d % 8 else chanOf d % 8

/-- Channels that a band leaves out, the members of its rows, and the member that a die is: in a degraded band the surviving dies in
ascending order of their index, and no member for a die of a lost channel (R381). -/
def skipOf (s : State) (k : Nat) : List Nat := match tget k s.med.bands with
  | some b => b.skip
  | none => []
def widthOf (s : State) (k : Nat) : Nat := width s (segOfBand k) - 4 * (skipOf s k).length
def memberIn (s : State) (k d : Nat) (x : Die) : Nat :=
  let l := skipOf s k
  let c := chanOf d % 8
  if l.isEmpty then memberOf s d x
  else if l.contains c then 63
  else (8 - l.length) * (x.pos % 4) + ((List.range c).filter fun i => !l.contains i).length

/-- The member that holds the parity of row `r` of a band (R395). -/
def parityAt (s : State) (k r : Nat) : Nat := (k % 2 ^ 24 + r) % max 1 (widthOf s k)

/-- The die that is member `m` of a band, if it is in service. -/
def memberDie (s : State) (k m : Nat) : Option Nat :=
  (tfind (fun d x => memberIn s k d x == m && !x.lost) (bandDies s k)).map (·.1)

/-- Data bytes of a band of a Segment, in TLC or single-bit mode (R346, R395). -/
def bandSize (s : State) (seg : Nat) (slc : Bool) : Nat := match (usableOf s seg) with
  | (_, d) :: _ => (width s seg - 1) * d.pages * d.planes * 16384 / (if slc then 3 else 1)
  | [] => 0

/-- Stripe rows of a band. -/
def rowsOf (s : State) (k : Nat) : Nat := match tget k s.med.bands with
  | some b => b.size / max 1 ((width s (segOfBand k) - 1) * unitBytes s (segOfBand k))
  | none => 0

/-- Key of the unit of member `m` in row `r`. -/
def unitKey (r m : Nat) : Nat := r * 64 + m

/-- The data members of row `r` of a band whose dies are in service, each with its die, in order. -/
def dataMembers (s : State) (k r : Nat) : List (Nat × Nat) :=
  (List.range (widthOf s k)).filterMap fun m => if m = parityAt s k r then none else (memberDie s k m).map fun d => (m, d)

/-- The units of a band. -/
def unitsOf (s : State) (k : Nat) : Tab SUnit := match tget k s.med.bands with
  | some b => b.units
  | none => []

/-- Every data member of a row has been programmed. -/
def rowFull (s : State) (k r : Nat) : Bool :=
  (dataMembers s k r).all fun p => match tget (unitKey r p.1) (unitsOf s k) with | some u => u.done | none => false

/-- The first free unit of a band on a die that is not in `avoid`: its row, member and die. -/
def freeUnit (s : State) (k : Nat) (avoid : List Nat) : Option (Nat × Nat × Nat) :=
  (List.range (rowsOf s k)).findSome? fun r => (dataMembers s k r).findSome? fun p =>
    if (tget (unitKey r p.1) (unitsOf s k)).isSome || avoid.contains p.2 then none else some (r, p.1, p.2)

/-- SEQ of a row: the Segment's program sequence, advanced once for each row (R287). -/
def rowSeq (k r : Nat) (s : State) : Nat × State :=
  match (tget k s.med.bands).bind fun b => tget r b.seqs with
  | some q => (q, s)
  | none =>
    let q := tgetD 0 (segOfBand k) s.med.seq + 1
    (q, onBand k (fun b => { b with seqs := tput r q b.seqs }) (onMed (fun m => { m with seq := tput (segOfBand k) q m.seq }) s))

/-- Put a unit into a band; programmed bytes, parity and pads included, are counted (R333). -/
def putUnit (k r m : Nat) (u : SUnit) (s : State) : State :=
  let n := unitBytes s (segOfBand k)
  let data := if m = parityAt s k r then 0 else n
  bumpHealthBy 2 1000000 n (onBand k (fun b => { b with units := tput (unitKey r m) u b.units, filled := b.filled + data }) s)

/-! ## Codewords (R287, R387, R388, R469 to R471) -/

/-- The tweak of a codeword, from its metadata (R470). -/
def cwTweak (c : Cw) : List Byte := pack [(8, c.laddr), (4, c.xoff), (1, c.kind), (1, 0), (2, c.stream)]

/-- The media key of a namespace, or the house media key (R469). -/
def cwKey (s : State) (nsid : Nat) : List Byte := if nsid = 0 then houseKey s else mediaKey s nsid

/-- A codeword whose `data` is plaintext, enciphered as one data unit (R469). -/
def encipher (s : State) (c : Cw) : Cw := { c with data := fit 4096 (Config.xts true (cwKey s c.nsid) (cwTweak c) (fit 4096 c.data)) }

/-- A pad codeword (R395, R471). -/
def padCw (s : State) (seq : Nat) : Cw := encipher s { seq := seq, data := zeros 4096 }

/-- The 64 metadata bytes (R287). -/
def cwMeta (c : Cw) : List Byte :=
  pack [(8, c.seq), (4, c.nsid), (1, c.kind), (1, c.mflags), (2, c.stream), (8, c.laddr), (4, c.xoff), (4, c.xlen),
    (4, Config.crc32c c.data), (28, 0)]

/-- Parity bytes of a die's codewords (R387). -/
def parityBytes (x : Die) : Nat := clamp 384 512 (16 * ((x.spare - 256) / 64))

/-- The bytes of a codeword with `p` parity bytes (R388). -/
def cwBytes (p : Nat) (c : Cw) : List Byte :=
  let l := fit 4096 c.data ++ cwMeta c
  l ++ fit p (Config.ldpcParity p l)

/-- The codewords of a page group as programmed, one after the other. -/
def unitImage (p : Nat) (u : SUnit) : List Byte := u.cws.flatMap (cwBytes p)

/-- XOR of byte strings, the shorter read as continued with zeros. -/
def xorBytes : List Byte → List Byte → List Byte
  | [], l => l
  | l, [] => l
  | a :: s, b :: t => (a ^^^ b) :: xorBytes s t

/-- The codewords of row `r` of a band on member `m`: its own, or for the parity member the XOR of the data members' (R395, R471). -/
def memberImage (s : State) (k r m p : Nat) : List Byte :=
  if m = parityAt s k r then
    (unitsOf s k).foldl (fun l u => if u.1 / 64 = r ∧ u.1 % 64 ≠ m then xorBytes l (unitImage p u.2) else l) []
  else match tget (unitKey r m) (unitsOf s k) with
    | some u => unitImage p u
    | none => []

/-- Cut the codewords of a page group into its plane pages: 4 codewords on each, and 0xFF beyond them (R388). -/
def planePages (p spare : Nat) : Nat → List Byte → List Byte
  | 0, _ => []
  | n + 1, l =>
    let c := fit (4 * (4160 + p)) l
    c ++ List.replicate (16384 + spare - c.length) 0xFF ++ planePages p spare n (l.drop (4 * (4160 + p)))

/-- A page group of a die as the die holds it, plane after plane: what was programmed, or the erased state (R148, R388; log 112). -/
def pageGroup (s : State) (d b r : Nat) (x : Die) : List Byte :=
  let blank := List.replicate (x.planes * (16384 + x.spare)) 0xFF
  match (bandOf s d b).bind fun k => if blkOf s k d = b then some k else none with
  | none => blank
  | some k =>
    let m := memberIn s k d x
    match tget (unitKey r m) (unitsOf s k) with
    | some u => if u.done then planePages (parityBytes x) x.spare x.planes (memberImage s k r m (parityBytes x)) else blank
    | none => blank

/-! ## Units that fill (R281, R284, R293) -/

/-- The last stretch that begins at or before offset `o` of a unit. -/
def runAt (f : Fill) (o : Nat) : Option Run := (f.runs.filter fun r => decide (r.off ≤ o)).getLast?

/-- Codeword `c` of a unit that fills, as it is programmed in a row with SEQ `q` (R287; log 114). -/
def fillCw (s : State) (q : Nat) (f : Fill) (c : Nat) : Cw :=
  let o := 4096 * c
  match (if o < f.bytes.length then runAt f o else none) with
  | none => padCw s q
  | some r =>
    let x := r.xoff + (o - r.off)
    let start := f.runs.any fun y => y.xoff == 0 && decide (o ≤ y.off) && decide (y.off < o + 4096)
    encipher s { seq := q, nsid := r.nsid, kind := r.kind, mflags := flags [r.zobj, start], stream := r.stream,
                 laddr := r.laddr + (if r.kind = 1 ∧ !r.zobj then x / 4096 else 0), xoff := x, xlen := r.xlen, data := slice f.bytes o 4096 }

/-- The parts of a stretch in each codeword of a unit of `n` codewords. -/
def runParts (n : Nat) (r : Run) : List CwPart :=
  (List.range n).filterMap fun c =>
    let a := max r.off (4096 * c)
    let e := min (r.off + r.len) (4096 * (c + 1))
    if a < e then some { item := r.item, cw := c, xoff := r.xoff + (a - r.off), len := e - a } else none

/-- The unit that a fill becomes in a row with SEQ `q`. -/
def unitOf (s : State) (q : Nat) (f : Fill) : SUnit :=
  let n := unitCws s f.seg
  { cws := (List.range n).map (fillCw s q f), parts := f.runs.flatMap (runParts n) }

/-- A unit of pads (R395). -/
def padUnit (s : State) (seg q : Nat) : SUnit := { cws := List.replicate (unitCws s seg) (padCw s q) }

/-- The next multiple of 16 (R284). -/
def align16 (n : Nat) : Nat := cdiv n 16 * 16

/-- Pour bytes into a unit of `u` bytes that fills, and into further units: those that become whole, and the last (R284). -/
def pour (u now : Nat) : Nat → Fill → Run → List Byte → List Fill × Fill
  | 0, f, _, _ => ([], f)
  | n + 1, f, r, l =>
    let o := f.bytes.length
    let k := min (u - o) l.length
    let f' := if k = 0 then f else { f with bytes := f.bytes ++ l.take k, runs := f.runs ++ [{ r with off := o, len := k }] }
    if f'.bytes.length < u then ([], f')
    else
      let (w, z) := pour u now n { f with bytes := [], runs := [], since := now } { r with xoff := r.xoff + k } (l.drop k)
      (f' :: w, z)

/-- The owner of block data of a class among the units that fill. -/
def blockOwner (cls : Nat) : Nat := 8192 + cls

/-- Drained bytes `l` of an item join the unit that its owner fills, at 16-byte alignment (R281, R284). -/
def drainInto (seg owner cls prec : Nat) (r : Run) (l : List Byte) (s : State) : State :=
  let u := unitBytes s seg
  let mine := fun (f : Fill) => f.seg == seg && f.owner == owner && !f.last && decide (f.bytes.length < u)
  let f := (s.med.fills.find? mine).getD { seg := seg, owner := owner, since := s.now, cls := cls, prec := prec, bytes := [], runs := [] }
  let f := { f with bytes := fit (align16 f.bytes.length) f.bytes, cls := min f.cls cls }
  let (w, z) := pour u s.now (l.length / u + 2) f r l
  onMed (fun m => { m with fills := (m.fills.filter fun g => !mine g) ++ w ++ (if z.bytes.isEmpty then [] else [z]) }) s

/-- Nothing more joins the unit that an owner fills: it goes out as it is. -/
def endFill (seg owner : Nat) (s : State) : State :=
  onMed (fun m => { m with fills := m.fills.map fun f => if f.seg = seg ∧ f.owner = owner then { f with last := true } else f }) s

/-! ## Programs (R163, R280, R341, R395) -/

/-- Weight of Class A, B or Z, 1 to 3 (R161, R163). -/
def dieWeight (s : State) (c : Nat) : Nat := fieldOf s Reg.clsWeight (8 * c - 1) (8 * c - 8)

/-- A program is work of Class A, B or Z. -/
def isWork (p : ProgQ) : Bool := p.prec == 0 && p.cls != 0

/-- Class A, B or Z work of a Segment waits for a die (R163). -/
def workWaits (s : State) (seg : Nat) : Bool := tany (fun _ x => x.progs.any isWork) (usableOf s seg)

/-- Account for `n` ns of die time that maintenance or other work has taken: it counts while work waits, and the account begins again
when none does (R163; log 117). -/
def chargeDie (seg : Nat) (maint : Bool) (n : Nat) (s : State) : State :=
  if workWaits s seg then
    if maint then onMed (fun m => { m with dieMaint := tput seg (tgetD 0 seg m.dieMaint + n) m.dieMaint }) s
    else onMed (fun m => { m with dieWork := tput seg (tgetD 0 seg m.dieWork + n) m.dieWork }) s
  else onMed (fun m => { m with dieMaint := tput seg 0 m.dieMaint, dieWork := tput seg 0 m.dieWork }) s

/-- Maintenance may take die time of a Segment: no other work waits, or its share is not used up (R163). -/
def maintShare (s : State) (seg : Nat) : Bool :=
  let pct := if s.cmd.depotEnd.isSome then fieldOf s Reg.clsMaint 15 8 else fieldOf s Reg.clsMaint 7 0
  let m := tgetD 0 seg s.med.dieMaint
  !workWaits s seg || decide (100 * m ≤ pct * (m + tgetD 0 seg s.med.dieWork))

/-- The modes let maintenance units of precedence `prec` start in a Segment: not in BRACE, in S2 or S3, nor while house cores are halted at
Full; in RESCUE only patrol and refresh, and retraining, run (R335, R383); in thermal shed only precedences 1 and 2 (R725). -/
def maintOn (s : State) (seg prec : Nat) : Bool :=
  !s.brc.active && decide (sleepOf s seg < 2) && (decide (prec ≤ 3) || !rescue s) && !s.med.halted && (decide (prec ≤ 2) || !s.pwr.shed)

/-- Maintenance units of precedence `prec` start in a Segment: the modes let them, within maintenance's share of die time (R163). -/
def maintRuns (s : State) (seg prec : Nat) : Bool := maintShare s seg && maintOn s seg prec

/-- New work other than Class S may be queued or started on a Segment's dies: not in BRACE, in S2 or S3, nor while house cores are halted at
Full (R335, R383). -/
def drainOn (s : State) (seg : Nat) : Bool := !s.brc.active && decide (sleepOf s seg < 2) && !s.med.halted

/-- The program of Class A, B or Z that a die of Segment `seg` takes next, by weighted round robin among the classes, in order within a class;
and the round robin after it (R163). -/
def pickWork (s : State) (seg : Nat) (l : List ProgQ) : Option ProgQ × Tab Int :=
  let e := [1, 2, 3].filter fun c => l.any fun p => p.prec == 0 && p.cls == c
  let cur := e.foldl (fun m c => tset 0 (seg * 4 + c) (tgetD 0 (seg * 4 + c) m + (dieWeight s c : Int)) m) s.med.dieCur
  let at_ := fun c => tgetD 0 (seg * 4 + c) cur
  let k := e.foldl (fun k c => if k = 0 ∨ at_ c > at_ k then c else k) 0
  let sum : Nat := e.foldl (fun n c => n + dieWeight s c) 0
  (l.find? (fun p => p.prec == 0 && p.cls == k), tset 0 (seg * 4 + k) (at_ k - (sum : Int)) cur)

/-- The waiting maintenance program of highest precedence, the earliest on a tie (R323). -/
def pickMaint (l : List ProgQ) : Option ProgQ :=
  (l.filter fun p => p.prec != 0).foldl (fun m p => match m with | none => some p | some q => if p.prec < q.prec then some p else some q) none

/-- The program that die `d` takes next: Class S first; then maintenance, with the die's token, where its share allows or no class claims the
die; then Classes A, B and Z (R163, R323). -/
def pickProg (d : Nat) (l : List ProgQ) (s : State) : Option ProgQ × State :=
  let seg := segOfDie d
  match l.find? fun p => p.prec == 0 && p.cls == 0 with
  | some p => (some p, s)
  | none =>
    let work := fun (s : State) => let (p, cur) := pickWork s seg l; (p, onMed (fun m => { m with dieCur := cur }) s)
    match pickMaint l with
    | none => work s
    | some p =>
      if maintOn s seg p.prec && (maintShare s seg || !l.any isWork) then
        match takeToken p.prec d s with
        | (true, s) => (some p, s)
        | (false, s) => work s
      else work s

/-- A program starts on a die: its data passes on the channel, and the die has it open (R339 to R341). -/
def startProg (d : Nat) (x : Die) (p : ProgQ) (s : State) : State :=
  let b := blkOf s p.band d
  let slc := match tget p.band s.med.bands with | some q => q.slc | none => false
  let s := (transfer d s.now (xferNs s d x) s).2
  emit (.nand (chanOf d) x.pos (.program b p.row slc))
    (onDie d (fun y => { y with op := some { erase := false, block := b, at_ := s.now, prog := some p }, progs := y.progs.erase p }) s)

/-- Start the next waiting program of die `d`, if the die is free: a program or erase is open on it at most once (R341). In BRACE no drain
starts. -/
def nextProgram (d : Nat) (s : State) : State := match tget d s.flw.dies with
  | none => s
  | some x =>
    if !x.usable ∨ x.lost ∨ x.op.isSome ∨ x.opened.isSome ∨ x.progs.isEmpty ∨ s.brc.active ∨ sleepOf s (segOfDie d) ≥ 2 then s
    else match pickProg d x.progs s with
      | (some p, s) => startProg d x p s
      | (none, s) => s

/-- Start waiting programs on every die of a Segment. -/
def startPrograms (seg : Nat) (s : State) : State := (tkeys (usableOf s seg)).foldl (fun s d => nextProgram d s) s

/-- Put a unit into row `r` of a band and queue its program on its die, for a class or for maintenance of precedence `prec`. -/
def programUnit (k r m d cls prec : Nat) (u : SUnit) (s : State) : State :=
  nextProgram d (onDie d (fun x => { x with progs := x.progs ++ [{ band := k, row := r, cls := cls, prec := prec }] }) (putUnit k r m u s))

/-- Fill the members of a row that have no data with pads (R395). -/
def padRow (k r cls prec : Nat) (s : State) : State :=
  let (q, s) := rowSeq k r s
  (dataMembers s k r).foldl (fun s p =>
    if (tget (unitKey r p.1) (unitsOf s k)).isSome then s else programUnit k r p.1 p.2 cls prec (padUnit s (segOfBand k) q) s) s

/-- Pad the rows of a band that have data and are not whole. -/
def padBand (k : Nat) (s : State) : State :=
  (((unitsOf s k).map fun u => u.1 / 64).dedup).foldl (fun s r => padRow k r 3 0 s) s

/-! ## Copies (R307, R308) -/

/-- Where a piece lies after codewords have moved: `l` gives source (band, unit, codeword) and place (unit, codeword in band `j`). -/
def movePiece (j : Nat) (l : List ((Nat × Nat × Nat) × (Nat × Nat))) (p : Piece) : Piece := match l.find? fun x => x.1 == (p.band, p.unit, p.cw) with
  | some x => { p with band := j, unit := x.2.1, cw := x.2.2 }
  | none => p

/-- The band that holds the first byte of an item with given pieces. -/
def firstBand (l : List Piece) (b : Option Nat) : Option Nat := match l with
  | [] => b
  | p :: _ => some p.band

/-- The maps follow codewords that have moved to band `j`: an entry that no longer points to the source is left as it is (R307). -/
def repoint (j : Nat) (l : List ((Nat × Nat × Nat) × (Nat × Nat))) (s : State) : State :=
  let f := fun (ps : List Piece) => ps.map (movePiece j l)
  onMed (fun m => { m with ckpts := tmap (fun _ c => c.map fun c => { c with pieces := f c.pieces }) m.ckpts })
    (onCmd (fun q =>
      { q with streams := tmap (fun _ x => { x with recs := tmap (fun _ r => { r with pieces := f r.pieces, band := firstBand (f r.pieces) r.band }) x.recs }) q.streams
               nss := tmap (fun _ x => { x with grains := tmap (fun _ g => { g with pieces := f g.pieces, band := firstBand (f g.pieces) g.band }) x.grains }) q.nss }) s)

/-- The pieces of the records, the grains and the kept checkpoints. -/
def allPieces (s : State) : List Piece :=
  (s.cmd.streams.flatMap fun x => x.2.recs.flatMap fun r => r.2.pieces) ++ (s.cmd.nss.flatMap fun x => x.2.grains.flatMap fun g => g.2.pieces)
    ++ s.med.ckpts.flatMap fun l => l.2.flatMap (·.pieces)

/-- The copies in row `r` of a band: source, and place. -/
def copiesIn (s : State) (k r : Nat) (p : SUnit → Bool) : List ((Nat × Nat × Nat) × (Nat × Nat)) :=
  (unitsOf s k).flatMap fun u => if u.1 / 64 = r ∧ p u.2 then u.2.moved.map fun c => (c.2, (u.1, c.1)) else []

/-- The row is verified: every member's program has reported success, and its parity has passed its read-back (R397). The maps follow the
copies in it, and those of garbage collection are counted (R307, R333, R337). -/
def verifyRow (k r : Nat) (s : State) : State :=
  let gc := copiesIn s k r fun u => u.prec == 4
  let l := if gc.isEmpty then [] else allPieces s
  let n := l.foldl (fun n p => if gc.any fun x => x.1 == (p.band, p.unit, p.cw) then n + p.len else n) 0
  let s := if n = 0 then s else bumpHealthBy 17 1000000 n (bump (Reg.medGcLo (segOfBand k)) n s)
  let s := repoint k (copiesIn s k r fun _ => true) s
  onBand k (fun b => { b with okRows := if b.okRows.contains r then b.okRows else r :: b.okRows,
                              units := tmap (fun u x => if u / 64 = r then { x with moved := [] } else x) b.units }) s

/-- The program of row `r` of a band on member `m` has reported success: the unit is on media, and once every data member is, the parity
member's program is queued (R280, R395). A row whose parity die is lost is verified then. -/
def unitDone (p : ProgQ) (m : Nat) (s : State) : State :=
  let s := onBand p.band (fun b => { b with units := tmod (unitKey p.row m) (fun u => { u with done := true }) b.units }) s
  let q := parityAt s p.band p.row
  if m = q ∨ !rowFull s p.band p.row ∨ (tget (unitKey p.row q) (unitsOf s p.band)).isSome then s
  else match memberDie s p.band q with
    | some d => programUnit p.band p.row q d p.cls p.prec { cws := [] } s
    | none => verifyRow p.band p.row s

/-- The numbers of the items of a Segment that drain, are compressed by a move or belong to a checkpoint in progress: nothing points to them on
media yet. -/
def unlanded (s : State) (seg : Nat) : List Nat :=
  ((tgetD [] seg s.med.stone).filter (·.draining)).map (·.no) ++ (s.med.squeezes.filter fun q => q.seg == seg).map (·.no)
    ++ (tget seg s.med.wips).toList.map (·.item)

/-- What a band holds to which no map entry points yet, in bytes: stretches in rows that are not verified, and those of items that have not
landed whole (R293, R305, R309). -/
def pendingBytes (s : State) (k : Nat) : Nat := match tget k s.med.bands with
  | none => 0
  | some b =>
    let l := unlanded s (segOfBand k)
    tsum (fun u x => x.parts.foldl (fun n p => if b.okRows.contains (u / 64) && !l.contains p.item then n else n + p.len) 0) b.units

/-- Members of row `r` of a band that hold a unit of it and whose dies are lost. -/
def lackOf (s : State) (k r : Nat) : List Nat :=
  (unitsOf s k).filterMap fun u => if u.1 / 64 = r ∧ (memberDie s k (u.1 % 64)).isNone then some (u.1 % 64) else none

/-- A unit of a band that neither its die nor a rebuild can give: its row lacks it, and another member or the parity too (R381, R382, R396). -/
def unitGone (s : State) (k u : Nat) : Bool :=
  let r := u / 64
  let l := lackOf s k r
  l.contains (u % 64) && !(l == [u % 64] && (tget (unitKey r (parityAt s k r)) (unitsOf s k)).isSome)

/-- The dies that a read of a unit takes, in ascending order: its own, or where that is lost those of the other members of its row, whose XOR
it is (R396); none where it is gone. -/
def sourceDies (s : State) (k u : Nat) : List Nat := match memberDie s k (u % 64) with
  | some d => [d]
  | none =>
    if unitGone s k u then []
    else
      let ms := (unitsOf s k).filterMap fun v => if v.1 / 64 = u / 64 then some (v.1 % 64) else none
      tkeys (tfilter (fun d x => !x.lost && ms.contains (memberIn s k d x)) (bandDies s k))

/-- An open band takes no more and nothing in its rows that are not verified counts: their copies are dropped, and their programs that wait are
withdrawn (R308, R397). -/
def abandonBand (k : Nat) (s : State) : State :=
  let s := { s with flw := { s.flw with dies := tmap (fun _ x => { x with progs := x.progs.filter fun p => p.band != k }) s.flw.dies } }
  let s := onBand k (fun b => { b with units := tmap (fun u x => if b.okRows.contains (u / 64) then x else { x with parts := [], moved := [] }) b.units }) s
  match tget k s.med.bands with
  | some b => if b.st = .opened then closeBand k s else s
  | none => s

/-! ## Bands for new data (R295, R297, R310) -/

/-- The SLC buffer may take one band more (R295). -/
def slcMayGrow (s : State) (seg limit : Nat) : Bool := decide (slcBlocks s seg + width s seg ≤ limit)

/-- A free band joins the SLC buffer, or leaves it for TLC use; its blocks are erased before they are used in the other mode (R295). -/
def setSlc (k : Nat) (slc : Bool) (s : State) : State :=
  onBand k (fun b => { b with slc := slc, erased := false, wait := [], prep := 0, size := bandSize s (segOfBand k) slc }) s

/-- A retained flush image lies in a band (R457). -/
def imageBand (s : State) (k : Nat) : Bool := s.brc.images.any fun i => i.bands.contains k

/-- What no retained image holds of a Segment's Brace reserve is erased (R297, R457). -/
def reserveReady (s : State) (seg : Nat) : Bool :=
  (bandsOf s seg).all fun p => !p.2.brace || p.2.st == .retired || imageBand s p.1 || bandReady s p.1

/-- An open band of a kind that `fits`, or the next free one, once its blocks are erased and the Brace reserve is restored; `limit` bounds
the SLC buffer, which takes a TLC band more where it has none free (R295, R297, R310). A band that no longer fits, or that was opened before a
channel was lost, is padded and closed (R280, R381, R395). -/
def openFor (seg : Nat) (slc : Bool) (limit : Nat) (fits : State → Nat → Bool) (s : State) : Option Nat × State :=
  let fresh := fun (s : State) =>
    if !reserveReady s seg then (none, s)
    else match pickFree s seg slc with
      | some k =>
        if bandReady s k then
          let s := openBand k s
          (if fits s k then some k else none, s)
        else (none, prepare k 1 s)
      | none =>
        if !slc ∨ !slcMayGrow s seg limit then (none, s)
        else match pickFree s seg false with
          | some k => (none, prepare k 1 (setSlc k true s))
          | none => (none, s)
  match openOf s seg slc with
  | some (k, b) => if fits s k ∧ b.skip = lostChans s seg then (some k, s) else fresh (closeBand k (padBand k s))
  | none => fresh s

/-- The last dies of an owner's units: a stream's next unit goes to none of its last four, so that five are visited before one repeats
(R281). -/
def avoidDies (s : State) (f : Fill) : List Nat :=
  if f.owner ≥ 8192 then [] else (tgetD [] (f.seg * 65536 + f.owner) s.med.lastDies).take 4

/-- Give a unit its place and queue its program; the answer says whether a band could take it (R281, R294). -/
def layFill (slc : Bool) (limit : Nat) (pad : Bool) (f : Fill) (s : State) : Bool × State :=
  let avoid := avoidDies s f
  match openFor f.seg slc limit (fun s k => (freeUnit s k avoid).isSome) s with
  | (none, s) => (false, s)
  | (some k, s) => match freeUnit s k avoid with
    | none => (false, s)
    | some (r, m, d) =>
      let (q, s) := rowSeq k r s
      let s := programUnit k r m d f.cls f.prec { unitOf s q f with prec := f.prec } s
      let note := onMed fun y => { y with lastDies := tput (f.seg * 65536 + f.owner) (d :: (tgetD [] (f.seg * 65536 + f.owner) y.lastDies).take 4) y.lastDies }
      let s := if f.owner < 8192 then note s else s
      (true, if pad || f.last then padRow k r f.cls f.prec s else s)

/-- Give each fill that `p` chooses its place, in order, as far as bands take them. -/
def layFills (slc : Bool) (limit : Nat) (pad : Bool) (p : Fill → Bool) (s : State) : State :=
  s.med.fills.foldl (fun s f =>
    if !p f then s
    else
      let (ok, s) := layFill slc limit pad f s
      if ok then onMed (fun m => { m with fills := m.fills.erase f }) s else s) s

/-- Where item `no` lies in verified rows of a Segment's bands. -/
def piecesOf (s : State) (seg no : Nat) : List Piece :=
  (bandsOf s seg).flatMap fun p => p.2.units.flatMap fun u =>
    if p.2.okRows.contains (u.1 / 64) then
      (u.2.parts.filter fun q => q.item == no).map fun q => { band := p.1, unit := u.1, cw := q.cw, len := q.len }
    else []

/-! ## Data laid at once: the Brace flush (R439) -/

/-- Rows of a band that hold no unit. -/
def emptyRows (s : State) (k : Nat) : List Nat :=
  (List.range (rowsOf s k)).filter fun r => !tany (fun u _ => u / 64 == r) (unitsOf s k)

/-- The units of a band's empty rows, as row and member. -/
def emptyUnits (s : State) (k : Nat) : List (Nat × Nat) := (emptyRows s k).flatMap fun r => (dataMembers s k r).map fun p => (r, p.1)

/-- Lay codewords into empty rows of a band, padded to whole rows with their parity, all verified; each takes the SEQ of its row (R287, R395,
R397, R439). -/
def layCws (k : Nat) (l : List Cw) (s : State) : State :=
  let n := max 1 (unitCws s (segOfBand k))
  let places := emptyUnits s k
  let rows := ((places.take (cdiv l.length n)).map (·.1)).dedup
  let slots := (places.filter fun p => rows.contains p.1)
  let s := slots.zipIdx.foldl (fun s x =>
    let (q, s) := rowSeq k x.1.1 s
    let mine := ((l.drop (x.2 * n)).take n).map fun c => { c with seq := q }
    putUnit k x.1.1 x.1.2 { cws := mine ++ List.replicate (n - mine.length) (padCw s q), done := true } s) s
  rows.foldl (fun s r => verifyRow k r (putUnit k r (parityAt s k r) { cws := [], done := true } s)) s

/-! ## The Brace flush in the reserve (R439 to R441) -/

/-- The bytes of undrained data as Stone holds it (R439). -/
def itemContent (s : State) (i : StoneItem) : List Byte :=
  if i.isRec then match strmOf s i.a with
    | some x => (match tget i.b x.recs with | some r => fit 160 r.header ++ r.payload | none => [])
    | none => []
  else match nsOf s i.a with
    | some x => grainContent x i.b
    | none => []

/-- Codewords of flushed data of a Segment: flush generation `g`, from codeword `n` of the flush on (R440; log 116). -/
def flushCws (s : State) (seg g n : Nat) (l : List StoneItem) : List Cw :=
  let b := l.flatMap (itemContent s)
  (List.range (cdiv b.length 4096)).map fun c =>
    encipher s { seq := 0, kind := 5, mflags := flags [false, n + c == 0], stream := seg, laddr := g * 2 ^ 32 + n + c,
                  xoff := 4096 * (n + c), xlen := 4096, data := slice b (4096 * c) 4096 }

/-- Lay flushed codewords into bands of the reserve, in single-bit mode and with stripe parity, one band after the other; the bands that
took some are answered (R297, R439). -/
def layFlush : List Nat → List Cw → State → List Nat × State
  | [], _, s => ([], s)
  | k :: t, l, s =>
    if l.isEmpty then ([], s)
    else
      let s := onBand k (fun b => if b.units.isEmpty then { b with skip := lostChans s (segOfBand k) } else b) s
      let n := (emptyUnits s k).length * unitCws s (segOfBand k)
      let s := onBand k (fun b => { b with erased := false }) (layCws k (l.take n) s)
      let (u, s) := layFlush t (l.drop n) s
      (k :: u, s)

/-- The bands of a Segment's reserve that a flush may write: those of its image so far, then the erased ones. -/
def reserveFor (s : State) (seg : Nat) (mine : List Nat) : List Nat :=
  (mine.filter fun k => segOfBand k == seg) ++ tkeys (tfilter (fun k b => b.brace && b.st != .retired && bandReady s k && !imageBand s k) (bandsOf s seg))

/-- Data that arrives after the flush of this BRACE goes to the Brace reserve by itself, into the newest image (R441). -/
def flushAlone (seg : Nat) (i : StoneItem) (s : State) : State :=
  if s.brc.active && s.brc.flushed then
    let x : FImage := s.brc.images.getLast?.getD { seq := s.brc.flushSeq, stone := [] }
    let n := cdiv ((tgetD [] seg x.stone).foldl (fun n i => n + i.len) 0) 4096
    let (u, s) := layFlush (reserveFor s seg x.bands) (flushCws s seg x.seq n [i]) s
    let y := { x with stone := tput seg (tgetD [] seg x.stone ++ [i]) x.stone, bands := (x.bands ++ u).dedup }
    { s with brc := { s.brc with images := s.brc.images.dropLast ++ [y] } }
  else s

/-- Add undrained data to a Segment's Stone, in order of arrival (R293). -/
def addStone (seg : Nat) (i : StoneItem) (s : State) : State :=
  flushAlone seg i { s with med := { s.med with stone := tput seg (tgetD [] seg s.med.stone ++ [i]) s.med.stone } }

end Sys2Proof.Machine
end

