-- ==== Sys2Proof/Machine/Wheel.lean ====
section
/-!
DEFINITION. The die wheel: window positions, guard positions and decision points, and when a read fits between them (R164, R327, R342, R351
to R355).
-/
namespace Sys2Proof.Machine

/-! ## Positions (R351 to R355) -/

/-- u(j) of the die at position `p` (R352). -/
def wheelU (s : State) (p j : Nat) : Nat := p * 2 ^ 24 / (16 * wheelN s) + j * 2 ^ 24 / wheelN s

/-- Instant of a value of u in the frame that begins at `b`. -/
def uTime (s : State) (b u : Nat) : Nat := b + cdiv (u * s.cad.period) (2 ^ 24)

/-- The first window position after instant `l` in the present frame, if it has one (R352). -/
def framePos (s : State) (p l : Nat) : Option Nat :=
  ((List.range (wheelN s)).find? fun j => decide (uTime s s.cad.frameStart (wheelU s p j) > l)).map fun j => uTime s s.cad.frameStart (wheelU s p j)

/-- The first position of the next frame, its boundary taken from the adopted period (R354). -/
def aheadPos (s : State) (p : Nat) : Nat := uTime s (s.cad.frameStart + s.cad.period) (wheelU s p 0)

/-- Positions of a die that no decision has been taken for in a long time begin again with the wheel. -/
def lastPosOf (s : State) (x : Die) : Nat := if x.lastPos + 450000 < s.now then s.now - 1 else x.lastPos

/-- A decision taken ahead for a guard position stands or falls with what came: no position of the present frame comes between the die's last
position and the guard (R353). `none`: that is not known yet. -/
def guardHeld (s : State) (x : Die) (g : Nat) : Option Bool := match framePos s x.pos x.lastPos with
  | some w => some (decide (g < w))
  | none => if s.now ≥ g then some true else none

/-- The die's decisions taken ahead, settled by what has come since: a guard position that was one, and the predicted first position of the
next frame, which is one if the boundary came as the adopted period told (R353, R354). The flag says that a guard position was taken. -/
def settleDie (s : State) (x : Die) : Bool × Die :=
  let (took, x) := match x.guard with
    | some g => (match guardHeld s x g with
        | some true => (true, { x with lastPos := g, guard := none })
        | some false => (false, { x with guard := none })
        | none => (false, x))
    | none => (false, x)
  match x.ahead, framePos s x.pos x.lastPos with
  | some q, some w => (took, { x with ahead := none, lastPos := if q = w then w else x.lastPos })
  | _, _ => (took, x)

/-- What kind of position a die's next one is: one of the present frame, the predicted first one of the next, or a guard position. -/
inductive PosKind where
  | frame | ahead | guard
  deriving DecidableEq, Repr

/-- The die's next position that no decision has been taken for, its decisions taken ahead being settled (R352 to R355). -/
def nextPos (s : State) (x : Die) : Nat × PosKind :=
  let l := lastPosOf s x
  let g := l + 225000
  let g := if x.guard = some g then g + 225000 else g
  match framePos s x.pos l with
  | some w => if g < w then (g, .guard) else (w, .frame)
  | none => if x.ahead.isNone && decide (aheadPos s x.pos ≤ g) then (aheadPos s x.pos, .ahead) else (g, .guard)

/-- The decision for a position is taken (R354). -/
def takePos (p : Nat × PosKind) (x : Die) : Die := match p.2 with
  | .frame => { x with lastPos := p.1, ahead := none, guard := none }
  | .ahead => { x with ahead := some p.1 }
  | .guard => { x with guard := some p.1 }

/-! ## Work between positions (R164, R327, R342) -/

/-- A die's recall window is open, or about to open: no maintenance unit starts on it (R164, R327). -/
def windowBusy (x : Die) : Bool := x.opened.isSome || x.decided.isSome

/-- Work of `n` ns that cannot be suspended ends on die `x` before its next window position, and none of its windows is open or decided (R164,
R327, R342). -/
def beforeWindow (s : State) (n : Nat) (x : Die) : Bool := !windowBusy x && decide (s.now + n ≤ (nextPos s (settleDie s x).2).1)

/-- A read of `n` ns that ends now on die `x` has passed between two positions, with no window and no program or erase in progress (R341,
R342). -/
def passedBetween (s : State) (n : Nat) (x : Die) : Bool :=
  let y := (settleDie s x).2
  !windowBusy x && (match x.op with | some o => o.susp | none => true) && decide (s.now ≤ (nextPos s y).1)
    && (decide (y.lastPos + n ≤ s.now) || decide (s.now ≤ y.lastPos))

/-- The erase of a die is in its protected stretch (R361). -/
def stretch (s : State) (x : Die) : Bool := match x.op with
  | some o => o.erase && !o.susp && decide (s.now < o.at_ + 250000)
  | none => false

end Sys2Proof.Machine
end

