-- ==== Sys2Proof/Machine/Media.lean ====
section
/-!
DEFINITION. Media management: bands, the drain of Stone, checkpoints, garbage collection, wear, patrol, refresh, retirement,
HARVEST and DEPOT (chapter 08).
-/
namespace Sys2Proof.Machine

/-! ## The minimum floor and HARVEST (R320 to R322) -/

/-- Spare blocks of a Segment now. -/
def spareNow (s : State) (seg : Nat) : Nat := tsum (fun k d => if k / 128 = seg ∧ !d.lost then d.spares.length else 0) s.flw.dies

/-- A band that holds a kept checkpoint: its root pointer names the place, so that it is no victim (R289). -/
def hasCkpt (s : State) (k : Nat) : Bool := tany (fun _ l => l.any fun c => c.pieces.any fun p => p.band == k) s.med.ckpts

/-- What a band holds, valid or on its way to be: garbage collection moves it, and only then frees the band (R305, R309). -/
def heldBytes (s : State) (k : Nat) : Nat := validBytes s k + pendingBytes s k

/-- A closed band of which garbage collection could make a victim (R305). -/
def isVictim (s : State) (k : Nat) (b : Band) : Bool := b.st == .closed && !b.slc && !hasCkpt s k

/-- Garbage collection can free a band: some victim holds less than it could, and RESCUE does not keep it from running (R322, R335, R755). -/
def gcCanFree (s : State) (seg : Nat) : Bool := !rescue s && tany (fun k b => isVictim s k b && decide (heldBytes s k < b.size)) (bandsOf s seg)

/-- A Segment meets the condition of R322. A sleeping one shows what it showed until its wake (R755). -/
def floorMet (s : State) (n : Nat) : Bool :=
  if domSleep s n ≠ 0 then nbit s.med.floor n
  else segOn s n && s.med.harvest && decide (floorBands s n < fieldOf s Reg.medHarvest 15 8) && !gcCanFree s n

/-- Segments that meet it, as bits. -/
def floorBits (s : State) : Nat := flags ([0, 1, 2, 3].map (floorMet s))

/-- The 3216 is below the minimum floor (R322). -/
def belowFloor (s : State) : Bool := floorBits s != 0

/-- Report that the minimum floor has been reached or left, where it has (R334, R809). -/
def updateFloor (s : State) : State :=
  let f := floorBits s
  let was : Bool := s.med.floor != 0
  let s := onMed (fun m => { m with floor := f }) s
  if was = (f != 0) then s else healthNotice (if was then 5 else 4) 0xFF 0 0 (alertLow (if was then s else critEvent 3 0 s))

/-- AVAIL_SPARE (R332). -/
def availSpare (s : State) : Nat :=
  ((segs s).map fun n => 100 * spareNow s n / max 1 (tgetD 0 n s.med.spareInit)).foldl min 100

/-- HARVEST is entered when a Segment's spares fall below their floor or run out (R320); the low-spare notice, and the alert that a
change of CRIT's SPARE bit brings (R334, R809). -/
def checkHarvest (s : State) : State :=
  let low := (segs s).any fun n =>
    (tget n s.med.spareInit).isSome
      && (spareNow s n == 0 || decide (100 * spareNow s n < fieldOf s Reg.medHarvest 7 0 * tgetD 0 n s.med.spareInit))
  let under := decide (availSpare s < fieldOf s Reg.medHarvest 7 0)
  let s := if under = s.med.spareLow then s
    else
      let s := alertLow (onMed (fun m => { m with spareLow := under }) s)
      if under then critEvent 0 2 (healthNotice 1 0xFF (availSpare s) 0 s) else s
  if low && !s.med.harvest then
    updateFloor (alertLow (healthNotice 3 0xFF 0 0 (withModes 1 (onMed fun m => { m with harvest := true }) s)))
  else updateFloor s

/-! ## The SLC buffer and the units that fill (R281, R293 to R295) -/

/-- Undrained bytes of a Segment. -/
def undrained (s : State) (seg : Nat) : Nat := (tgetD [] seg s.med.stone).foldl (fun n i => n + i.len) 0

/-- Change the Stone items of a Segment. -/
def onStone (seg : Nat) (f : List StoneItem → List StoneItem) (s : State) : State :=
  onMed (fun m => { m with stone := tput seg (f (tgetD [] seg m.stone)) m.stone }) s

/-- Valid content bytes of a Segment and its share of C in bytes (R295). -/
def segValid (s : State) (seg : Nat) : Nat :=
  tsum (fun _ x => if x.seg = seg then strmBytes x else 0) s.cmd.streams
    + tsum (fun _ x => 4096 * tcount (fun b _ => segOfGrain s x (b / grainBlocks x) == seg) x.blocks) s.cmd.nss
def segShare (s : State) (seg : Nat) : Nat := if segOn s seg then capNow s * 4096 / max 1 (segs s).length else 0

/-- The blocks that the SLC buffer may hold: the share S of the free blocks, rounded down at the end (R295). -/
def slcLimit (s : State) (seg : Nat) : Nat :=
  let mx := fieldOf s Reg.medSlc 31 16
  let mn := fieldOf s Reg.medSlc 15 0
  let sh := max 1 (segShare s seg)
  floorBands s seg * width s seg * (mx * sh - (mx - mn) * min (segValid s seg) sh) / (10000 * sh)

/-- Owners of units that hold no drained data: records that a move of a precedence compresses, and checkpoints (R261, R289). -/
def squeezeOwner (prec : Nat) : Nat := 8200 + prec
def ckptOwner : Nat := 8216
def isDrain (f : Fill) : Bool := decide (f.owner < 8200)

/-- Whole units of a Segment take their places and their programs start; while undrained data exceeds half the Stone all drain goes to the SLC
buffer (R281, R294). -/
def settleFills (seg : Nat) (s : State) : State :=
  let whole := fun (s : State) (f : Fill) => f.seg == seg && (f.last || decide (f.bytes.length ≥ unitBytes s seg))
  let s := layFills (decide (2 * undrained s seg > stoneBytes s seg)) (slcLimit s seg) false (fun f => whole s f && isDrain f) s
  startPrograms seg (layFills false 0 false (fun f => whole s f && !isDrain f) s)

/-- What has not been verified of a Segment drains again, into fresh units, and what its moves and its checkpoint had laid is laid anew (R308,
R397). -/
def restartDrain (seg : Nat) (s : State) : State :=
  let clear := fun (b : Band) => { b with units := tmap (fun u x => if b.okRows.contains (u / 64) || !x.moved.isEmpty then x else { x with parts := [] }) b.units }
  onMed (fun m => { m with fills := m.fills.filter fun f => f.seg != seg, squeezes := m.squeezes.filter fun q => q.seg != seg, wips := tdel seg m.wips,
                           bands := tmap (fun k b => if segOfBand k = seg then clear b else b) m.bands })
    (onStone seg (fun l => l.map fun i => { i with draining := false, no := 0 }) s)

/-! ## Retirement (R297, R318, R319, R321) -/

/-- Bands of the Brace reserve in each stripe group: enough for the Segment's Stone (R297). -/
def reserveBands (s : State) (seg : Nat) : Nat := cdiv (stoneBytes s seg) (max 1 (groupsOf s seg * bandSize s seg true))

/-- The free band that joins the Brace reserve next: one of the stripe group that has the fewest bands in it, so that the reserve stays
spread evenly over the dies (R297). -/
def nextReserve (s : State) (seg : Nat) : Option Nat :=
  let have_ := fun g => tcount (fun k b => b.brace && bandGroup s k == g) (bandsOf s seg)
  ((bandsOf s seg).filter fun p => p.2.st == .free && !p.2.brace && p.2.claim == 0).foldl (fun m p => match m with
    | none => some p.1
    | some k => if have_ (bandGroup s p.1) < have_ (bandGroup s k) then some p.1 else some k) none

/-- Up to `n` free bands join the Brace reserve. -/
def growReserve (seg : Nat) : Nat → State → State
  | 0, s => s
  | n + 1, s => match nextReserve s seg with
    | some k => growReserve seg n (onBand k (fun b =>
        { b with brace := true, slc := true, erased := b.erased && b.slc, prep := 0, size := bandSize s seg true }) s)
    | none => s

/-- The Brace reserve of a Segment is whole, and its free bands and those of the SLC buffer are erased or their erase is asked for (R297,
R309). -/
def keepErased (s : State) (seg : Nat) : State :=
  let need := reserveBands s seg * groupsOf s seg
  let s := growReserve seg (need - tcount (fun _ b => b.brace) (bandsOf s seg)) s
  ((bandsOf s seg).filter fun p => p.2.st == .free && (p.2.brace || p.2.slc) && !p.2.erased && !imageBand s p.1).foldl (fun s p => startErase p.1 s) s

/-- A band waits for its data to be rewritten (R313 to R316). -/
def queueBand (k : Nat) (s : State) : State := onMed (fun m => { m with refresh := if m.refresh.contains k then m.refresh else m.refresh ++ [k] }) s

/-- Spare block `n` of die `d` takes the place of block `b` in band `k`: in an erased band it is erased before use, and where data lies in the old
block it stays there until the band is erased (R318, R319; log 134). -/
def takeSpare (k d b n : Nat) (s : State) : State :=
  let home := bandBlk s k
  let s := onDie d (fun x => { x with spares := x.spares.drop 1, subst := tput home (n :: tgetD [] home x.subst) x.subst }) s
  match tget k s.med.bands with
  | none => s
  | some q =>
    if q.st = .opened ∨ q.st = .closed then onBand k (fun q => { q with old := if (tget d q.old).isSome then q.old else tput d b q.old }) s
    else if q.erased then onBand k (fun q => { q with wait := if q.wait.contains d then q.wait else q.wait ++ [d] }) (askErase k d n s)
    else s

/-- A band has lost a block for which its die has no spare: it is retired, at once or as soon as nothing is stored in it, and in HARVEST the
block's data capacity is missed (R319, R321). -/
def loseBand (k : Nat) (s : State) : State := match tget k s.med.bands with
  | none => s
  | some q =>
    let seg := segOfBand k
    let n := q.size / (width s seg - 1)
    let s := if s.med.harvest then onMed (fun m => { m with shortfall := tset 0 seg (tgetD 0 seg m.shortfall + n) m.shortfall }) s else s
    if q.st = .opened ∨ q.st = .closed then queueBand k (onBand k (fun q => { q with dying := true }) s)
    else
      let s := retireBand k s
      if q.brace then keepErased s seg else s

/-- Retire block `b` of die `d`, for an event with EFLAGS `ef` (R318, R319, R321, R419): journalled, replaced by a spare of the die, or its band retired for want of one. What an open
band has not verified goes to a fresh band, since nothing more is programmed into the block (log 134). -/
def retireBlockF (ef d b cause : Nat) (s : State) : State :=
  if s.med.retired.contains (d, b) then s
  else
    let k := bandOf s d b
    let seg := d / 128
    let s := queueRetire 1 cause seg (d / 16) (d / 2 % 8) (d % 2) b s
    let s := onMed (fun m => { m with retired := (d, b) :: m.retired }) s
    let s := if ef % 2 = 1 then s else bumpHealth 13 1 s
    match tget d s.flw.dies, k with
    | some x, some k =>
      let live : Bool := freshBlk s k d == b
      let s := match tget k s.med.bands with
        | some q => if live && q.st == .opened then restartDrain seg (abandonBand k s) else s
        | none => s
      let s := if !live then s else match x.spares with | n :: _ => takeSpare k d b n s | [] => loseBand k s
      checkHarvest s
    | some _, none => checkHarvest (onDie d (fun y => { y with spares := y.spares.filter (· != b) }) s)
    | none, _ => s
def retireBlock (d b cause : Nat) (s : State) : State := retireBlockF 0 d b cause s

/-! ## Wear as the Health log gives it (R332 to R334) -/

/-- Mean erase count of a Segment's blocks in service, the lowest rated endurance of its dies, and PCT_USED. -/
def eraseMean (s : State) (seg : Nat) : Nat := meanOf (((bandsOf s seg).filter fun p => p.2.st != .retired).map fun p => p.2.erases)
def ratedOf (s : State) (seg : Nat) : Nat := match tfilter (fun k _ => k / 128 == seg) s.flw.dies with
  | [] => 0
  | p :: t => t.foldl (fun m q => min m q.2.rated) p.2.rated
def pctUsed (s : State) : Nat := ((segs s).map fun n => min 255 (100 * eraseMean s n / max 1 (ratedOf s n))).foldl max 0

/-- PCT_USED has reached a further multiple of 10: a notice of kind 2 (R334). -/
def checkPct (s : State) : State :=
  let p := pctUsed s
  if p / 10 > s.med.pctSeen / 10 then healthNotice 2 0xFF p 0 (onMed (fun m => { m with pctSeen := p }) s) else s

/-! ## Moving data (R261, R306 to R308, R315, R324, R327) -/

/-- The pieces of band `k` to which a record, a grain or a kept checkpoint points, those of records that a move compresses aside. -/
def livePieces (s : State) (k : Nat) : List Piece :=
  ((s.cmd.streams.flatMap fun x => x.2.recs.flatMap fun r =>
      if s.med.squeezes.any fun q => q.strm == x.1 && q.num == r.1 then [] else r.2.pieces)
    ++ (s.cmd.nss.flatMap fun x => x.2.grains.flatMap fun g => g.2.pieces)
    ++ s.med.ckpts.flatMap fun l => l.2.flatMap (·.pieces)).filter fun p => p.band == k

/-- Codewords of which a copy waits to be verified, as band, unit and codeword. -/
def inCopy (s : State) (seg : Nat) : List (Nat × Nat × Nat) := (bandsOf s seg).flatMap fun p => p.2.units.flatMap fun u => u.2.moved.map (·.2)

/-- The codewords of band `k` that the maps point to and of which no copy is on its way, as unit and codeword, in order. -/
def liveCws (s : State) (k : Nat) : List (Nat × Nat) :=
  let l := livePieces s k
  let busy := inCopy s (segOfBand k)
  (unitsOf s k).flatMap fun u =>
    ((List.range u.2.cws.length).filter fun c => (l.any fun p => p.unit == u.1 && p.cw == c) && !busy.contains (k, u.1, c)).map (u.1, ·)

/-- Codeword of band `k`, with the parts that it holds. -/
def cwAt (s : State) (k : Nat) (x : Nat × Nat) : Cw × List CwPart := match tget x.1 (unitsOf s k) with
  | some u => (u.cws.getD x.2 { seq := 0, data := [] }, u.parts.filter fun p => p.cw == x.2)
  | none => ({ seq := 0, data := [] }, [])

/-- A page-group read fits on die `d` now: the die has no program or erase in progress, and the read ends before its next window position
(R164, R327, R341, R342). -/
def readFits (s : State) (d : Nat) : Bool := match tget d s.flw.dies with
  | some x => x.usable && !x.lost && x.op.isNone && beforeWindow s (readNs s d x) x
  | none => false

/-- Read levels of a block's first read: those tracked for it, else the die's default levels (R391). -/
def firstLevels (s : State) (d b : Nat) : Levels := match tget (blkKey d b) s.flw.offsets with
  | some n => .tracked n
  | none => .default

/-- Die `d` reads page group `r` of block `b` outside windows, for maintenance of precedence `prec` or for other work. -/
def readDie (d b r prec : Nat) (s : State) : State := match tget d s.flw.dies with
  | none => s
  | some x =>
    let n := readNs s d x
    let s := (transfer d (s.now + x.tread) (xferNs s d x) s).2
    emit (.nand (chanOf d) x.pos (.pageRead b r (firstLevels s d b))) (chargeDie (segOfDie d) (prec != 0) n s)

/-- Read a unit of band `k`, from its die or from the rest of its row: a unit of work on each die (R323, R324, R396). The flag says that it could
be read now. -/
def readUnit (k u prec : Nat) (s : State) : Bool × State :=
  let l := sourceDies s k u
  if l.isEmpty ∨ !l.all (readFits s) then (false, s)
  else
    let (ok, s) := if prec = 0 then (true, s) else useTokens prec l s
    (ok, if ok then l.foldl (fun s d => readDie d (blkOf s k d) (u / 64) prec s) s else s)

/-- Codewords of `l`, read unit by unit as far as they can be now, until there are `n`. -/
def gather (k prec n : Nat) (l : List (Nat × Nat)) (s : State) : List (Nat × Nat) × State :=
  let (a, s) := ((l.map (·.1)).dedup).foldl (fun (a : List (Nat × Nat) × State) u =>
    if a.1.length ≥ n then a
    else
      let (ok, s) := readUnit k u prec a.2
      (if ok then a.1 ++ l.filter (fun x => x.1 == u) else a.1, s)) ([], s)
  (a.take n, s)

/-- The unit that copies of codewords of band `k` make, with pads after them (R288, R395). -/
def copyUnit (s : State) (k prec q : Nat) (l : List (Nat × Nat)) : SUnit :=
  let n := unitCws s (segOfBand k)
  let c := l.map (cwAt s k)
  { cws := c.map (·.1) ++ List.replicate (n - l.length) (padCw s q)
    parts := c.zipIdx.flatMap fun y => y.1.2.map fun z => { z with cw := y.2 }
    moved := l.zipIdx.map fun y => (y.2, (k, y.1.1, y.1.2)), prec := prec }

/-- The class of the data in codewords of band `k`, the lowest where they differ (R296). -/
def dataCls (s : State) (k : Nat) (l : List (Nat × Nat)) : Nat :=
  let hit := fun (ps : List Piece) => ps.any fun p => p.band == k && l.contains (p.unit, p.cw)
  s.cmd.nss.foldl (fun m x => x.2.grains.foldl (fun m g => if hit g.2.pieces then min m g.2.cls else m) m)
    (s.cmd.streams.foldl (fun m x => x.2.recs.foldl (fun m r => if hit r.2.pieces then min m r.2.cls else m) m) 3)

/-- Pad the rows of a Segment that hold copies made for precedence `prec` and are not verified, so that they can be. -/
def padCopies (seg prec cls : Nat) (s : State) : State :=
  (tkeys (bandsOf s seg)).foldl (fun s k =>
    (((unitsOf s k).filterMap fun u => if !u.2.moved.isEmpty && u.2.prec == prec then some (u.1 / 64) else none).dedup).foldl
      (fun s r => padRow k r cls prec s) s) s

/-- Copies of a Segment's codewords for precedence `prec` that are not verified yet. -/
def copiesOut (s : State) (seg prec : Nat) : Bool := (bandsOf s seg).any fun p => p.2.units.any fun u => !u.2.moved.isEmpty && u.2.prec == prec

/-- Records that lie raw in band `k` under R260, or by a Brace flush, and that a move compresses: stream and record (R261). -/
def rawIn (s : State) (k : Nat) : List (Nat × Nat) :=
  if rescue s then []
  else s.cmd.streams.flatMap fun x =>
    if nbit x.2.zest 7 then
      (x.2.recs.filter fun r => r.2.rawBy && !r.2.zobj && r.2.payload != [] && (r.2.pieces.any fun p => p.band == k)
        && !s.med.squeezes.any fun q => q.strm == x.1 && q.num == r.1).map fun r => (x.1, r.1)
    else []

/-- Compress a raw record, stream and number, as it moves for precedence `prec`: where a shorter object takes its place, it fills units of its
own, and the record keeps its place until the object is verified. `bad` lists the blocks that the self-check replaces (R259, R261, R263,
R307). The flag says that the record could be read now. -/
def squeeze (prec : Nat) (bad : List (Nat × Nat × Nat)) (x : Nat × Nat) (s : State) : Bool × State :=
  match (strmOf s x.1).bind fun y => (tget x.2 y.recs).map fun r => (y, r) with
  | none => (true, s)
  | some (y, r) =>
    let units := (r.pieces.map fun p => (p.band, p.unit)).dedup
    if !units.all (fun u => !(sourceDies s u.1 u.2).isEmpty && (sourceDies s u.1 u.2).all (readFits s)) then (false, s)
    else
      let (ok, s) := units.foldl (fun (a : Bool × State) u => if a.1 then readUnit u.1 u.2 prec a.2 else a) (true, s)
      if !ok then (false, s)
      else
        let s := onRec x.1 x.2 (fun r => { r with rawBy := false }) s
        let mine := (bad.filter fun b => b.1 == x.1 && b.2.1 == x.2).map (·.2.2)
        match compress y.seg (y.zest % 16) (drainShift s) mine r.payload s with
        | (none, s) => (true, s)
        | (some o, s) =>
          let no := s.med.drains + 1
          let run : Run := { item := no, nsid := y.nsid, kind := 2, zobj := true, stream := x.1, laddr := x.2, xlen := 160 + o.length, xoff := 0, off := 0, len := 0 }
          let q : Squeeze := { seg := y.seg, strm := x.1, num := x.2, no := no, obj := o, was := r.pieces }
          let s := onMed (fun m => { m with drains := no, squeezes := m.squeezes ++ [q] }) s
          (true, settleFills y.seg (drainInto y.seg (squeezeOwner prec) 4 prec run (fit 160 r.header ++ o) s))

/-- The map still points to where a record lay when a move compressed it (R307). -/
def stillThere (s : State) (q : Squeeze) : Bool := match strmOf s q.strm with
  | some y => (match tget q.num y.recs with | some r => r.pieces == q.was | none => false)
  | none => false

/-- The map points to the objects of squeezed records that are verified whole, where it still points to their source; the others are discarded
(R307). -/
def settleSqueezes (seg : Nat) (s : State) : State :=
  (s.med.squeezes.filter fun q => q.seg == seg).foldl (fun s q =>
    let ps := piecesOf s seg q.no
    let n := 160 + q.obj.length
    let drop := onMed fun m => { m with squeezes := m.squeezes.erase q }
    if !stillThere s q then drop s
    else if ps.foldl (fun m p => m + p.len) 0 < n then s
    else drop (onRec q.strm q.num (fun r => { r with zobj := true, obj := q.obj, stored := n, pieces := ps, no := q.no, band := firstBand ps r.band }) s)) s

/-- The band that wear moves fill: the one taken for them, opened once it is erased and the Brace reserve is ready, or the free band with the
highest erase count (R297, R311). -/
def wearTarget (seg : Nat) (s : State) : Option Nat × State := match tfind (fun _ b => b.prep == 5) (bandsOf s seg) with
  | some (j, b) =>
    if b.st = .opened then
      if (freeUnit s j []).isSome then (some j, s) else (none, closeBand j (padBand j s))
    else if bandReady s j && reserveReady s seg then (some j, openBand j s)
    else (none, prepare j 5 s)
  | none =>
    let l := tfilter (fun _ b => b.st == .free && !b.slc && !b.brace && b.prep == 0 && b.claim == 0) (bandsOf s seg)
    match l.foldl (fun (m : Option (Nat × Band)) p => match m with | none => some p | some q => if p.2.erases > q.2.erases then some p else some q) none with
    | some (j, _) => (none, prepare j 5 s)
    | none => (none, s)

/-- The band that takes a unit of copies (R307, R311). -/
def moveTarget (seg prec : Nat) (s : State) : Option Nat × State :=
  if prec = 5 then wearTarget seg s else openFor seg false 0 (fun s k => (freeUnit s k []).isSome) s

/-- Copies of codewords `l` of band `k`, which have been read, take a unit of band `j`; the bytes copied are answered. -/
def layCopy (k j prec cls : Nat) (l : List (Nat × Nat)) (s : State) : Nat × State := match freeUnit s j [] with
  | none => (0, s)
  | some (r, m, d) =>
    let (q, s) := rowSeq j r s
    let u := copyUnit s k prec q l
    (u.parts.foldl (fun n p => n + p.len) 0, programUnit j r m d cls prec u s)

/-- One step of a move of band `k` for precedence `prec`, 0 for work that is not maintenance, in class `cls` or that of the data: a raw record is
compressed (`again`, R261), or a unit's worth of codewords is read and its copy queued; what can no longer be filled is padded; and once
nothing valid is left, the band is freed (R307 to R309, R324). A row's copies count once it is verified. The bytes copied are answered. -/
def moveStep (k prec : Nat) (cls : Option Nat) (again : Option (List (Nat × Nat × Nat))) (s : State) : Nat × State :=
  let seg := segOfBand k
  if heldBytes s k = 0 then (0, updateFloor (freeBand k s))
  else match again.bind fun bad => (rawIn s k).head?.map fun x => (bad, x) with
    | some (bad, x) => (0, (squeeze prec bad x s).2)
    | none =>
      let l := liveCws s k
      let c := cls.getD (if prec = 0 then dataCls s k l else 4)
      if l.isEmpty then (0, startPrograms seg (padCopies seg prec c (settleFills seg (endFill seg (squeezeOwner prec) s))))
      else match moveTarget seg prec s with
        | (none, s) => (0, s)
        | (some j, s) =>
          let n := unitCws s seg
          let (got, s) := gather k prec n l s
          if got.isEmpty ∨ (got.length < n ∧ got.length < l.length) then (0, s) else layCopy k j prec c got s

/-! ## What a reader meets in DRAM (R407 to R409, R415) -/

/-- Retire a DRAM page for detector `k`: its contents move to the spare pool of 4,096 pages; an empty pool, or an injection for
DT55, leaves it in service (R409, R411, R429). -/
def retirePage (seg page k : Nat) (s : State) : State :=
  let d := tgetD {} seg s.mov.drams
  let site : Site := { seg := seg, loc := page }
  if (tget (page / 4096) d.remap).isSome then s
  else
    let full := decide (d.remap.length ≥ 4096)
    let (bad, ef, s) := meet 55 seg 0xFFFF full s
    let s := if bad then raiseF 55 site ef s else s
    if full || (bad && !bypassed s 55) then s
    else
      queueRetire 4 k seg 0 0 0 (page / 4096 * 4096)
        { s with mov := { s.mov with drams := tput seg { d with remap := tput (page / 4096) d.remap.length d.remap } s.mov.drams } }

/-- Corrections of a page in the pass (R409). -/
def dramKey (seg page : Nat) : Nat := seg * 2 ^ 40 + page / 4096

/-- What a reader finds in a DRAM page: DT52 at each correction, DT53 for a codeword that is uncorrectable. One that stays so on a second read,
and holds the only copy of a record, leaves the record marked damaged, and masking is exhausted; other data is fetched or rebuilt from where
it also lies, before the command goes on (R407, R408, R415; log 136). The page is retired (R409). In a bypass window it is only raised
(R428). -/
def dramFinding (seg : Nat) (s : State) (x : DramFind) : State :=
  let site : Site := { seg := seg, loc := x.page }
  let s := (List.range x.corr).foldl (fun s _ => raise 52 site s) s
  let n := tgetD 0 (dramKey seg x.page) s.integ.dramCorr + (if bypassed s 52 then 0 else x.corr)
  let s := onInt (fun i => { i with dramCorr := tset 0 (dramKey seg x.page) n i.dramCorr }) s
  let s := if x.bad || x.once then raise 53 site s else s
  let s := match (if x.bad && !bypassed s 53 then x.stone else none) with
    | some (k, m) => exhaust 0x0203 (match strmOf s k with | some y => y.nsid | none => 0) (onRec k m (fun r => { r with damaged := true, cause := 53 }) s)
    | none => s
  if (x.bad || x.once) && !bypassed s 53 then retirePage seg x.page 53 s
  else if x.corr > 0 ∧ !bypassed s 52 ∧ n ≥ fieldOf s Reg.intRepair 15 8 then retirePage seg x.page 52 s
  else s

/-- Findings in the DRAM of a Segment that is enabled (R2). -/
def dramFindings (seg : Nat) (l : List DramFind) (s : State) : State := if segOn s seg then l.foldl (dramFinding seg) s else s

/-! ## Drain (R203, R260, R293 to R296) -/

/-- Recompute `ZST_STATUS.BYPASS` of a Segment (R260). -/
def updateBypass (seg : Nat) (s : State) : State :=
  let pct := fieldOf s Reg.zstCfg 15 8
  let u := 100 * undrained s seg
  let b := s.zst.bypass
  let b' := if u > pct * stoneBytes s seg then orBit b seg else if u < (pct - 10) * stoneBytes s seg then clrBit b seg else b
  { s with zst := { s.zst with bypass := b' } }

/-- The first item that has not begun begins its drain, with number `no`. -/
def beginFirst (raw : Bool) (now no : Nat) : List StoneItem → List StoneItem
  | [] => []
  | i :: t => if i.draining then i :: beginFirst raw now no t else { i with draining := true, raw := raw, since := now, no := no } :: t

/-- The bytes of an item as they are stored, and what their codewords' metadata say of them (R284, R287; log 114). -/
def itemRun (s : State) (i : StoneItem) (no : Nat) : Option (Nat × Run × List Byte) :=
  if i.isRec then match strmOf s i.a with
    | some x => (tget i.b x.recs).map fun r =>
        (i.a, { item := no, nsid := x.nsid, kind := 2, zobj := r.zobj, stream := i.a, laddr := i.b, xlen := r.stored, xoff := 0, off := 0, len := 0 },
          fit 160 r.header ++ (if r.zobj then r.obj else r.payload))
    | none => none
  else match nsOf s i.a with
    | some x => (tget i.b x.grains).map fun g =>
        (blockOwner i.cls, { item := no, nsid := i.a, kind := 1, zobj := g.zobj, stream := 0, laddr := i.b * grainBlocks x, xlen := g.stored, xoff := 0,
                             off := 0, len := 0 }, if g.zobj then g.obj else grainContent x i.b)
    | none => none

/-- An item whose stored form is settled joins the unit that its owner fills (R281, R284). -/
def layItem (seg : Nat) (i : StoneItem) (no : Nat) (s : State) : State := match itemRun s i no with
  | some (o, r, l) => settleFills seg (drainInto seg o i.cls 0 r l s)
  | none => settleFills seg s

/-- The stored form of a record that drains: an object where its stream asks for it, it is shorter, and neither BYPASS nor RESCUE stores it
raw; a record that BYPASS stores raw is marked for R261 (R258 to R261, R274). -/
def formRecord (seg : Nat) (raw by_ : Bool) (bad : List Nat) (i : StoneItem) (s : State) : State := match strmOf s i.a with
  | none => s
  | some x => match tget i.b x.recs with
    | none => s
    | some r =>
      let s := if by_ then bump (Reg.zstBypassLo seg) 1 s else s
      if raw ∨ !nbit x.zest 7 ∨ r.payload = [] then onRec i.a i.b (fun r => { r with stored := r.len, zobj := false, obj := [], rawBy := by_ }) s
      else match compress seg (x.zest % 16) (drainShift s) bad r.payload s with
        | (some o, s) => onRec i.a i.b (fun r => { r with zobj := true, obj := o, stored := 160 + o.length }) s
        | (none, s) => onRec i.a i.b (fun r => { r with stored := r.len, zobj := false, obj := [] }) s

/-- STONE_DRAIN: the next item of Segment `seg` drains, in order; a record is compressed unless BYPASS, RESCUE or its
stream's ZEST says otherwise. `bad` lists blocks that the self-check replaces, `finds` what its reads of Stone met in DRAM. Its bytes fill
stripe units, and whole units are programmed (R258 to R260, R263, R281, R284, R293, R341, R407 to R409). -/
def execStoneDrain (t seg : Nat) (bad : List Nat) (finds : List DramFind) (s : State) : Host.Outcome State Fault Refusal :=
  let s := updateBypass seg (tick t s)
  if !drainOn s seg then .next s
  else
    let s := dramFindings seg finds s
    match (tgetD [] seg s.med.stone).find? (!·.draining) with
    | none => .next (settleFills seg s)
    | some i =>
      let by_ := nbit s.zst.bypass seg
      let raw := by_ || rescue s
      let no := s.med.drains + 1
      let s := onMed (fun m => { m with drains := no }) (onStone seg (beginFirst raw s.now no) s)
      .next (layItem seg i no (if i.isRec then formRecord seg raw by_ bad i s else s))

/-- Body of a chain-head entry: stream, NSID, record number and tag of a record (R203, R686). -/
def chainHead (k : Nat) (x : Strm) (n : Nat) (tag : List Byte) : List Byte :=
  pack [(2, k), (2, 0), (4, x.nsid), (8, n % 2 ^ 48)] ++ fit 32 tag

/-- Record `n` of stream `k` has drained: the chain-head entry names the newest that has (R203). -/
def queueHead (k n : Nat) (s : State) : State := match strmOf s k with
  | none => s
  | some x =>
    let tag := match tget n x.recs with | some r => r.tag | none => []
    let s := if n < x.drainN then s else onStrm k (fun x => { x with drainN := n + 1, drainTag := tag }) s
    let top := if n < x.drainN then (x.drainN - 1, x.drainTag) else (n, tag)
    queueJ 3 x.seg (some k) (chainHead k x top.1 top.2) s

/-- Bytes that an item takes on media. -/
def storedLen (s : State) (i : StoneItem) : Nat :=
  if i.isRec then (match strmOf s i.a with
    | some x => (match tget i.b x.recs with | some r => r.stored | none => 0)
    | none => 0)
  else (match nsOf s i.a with
    | some x => (match tget i.b x.grains with | some g => g.stored | none => 0)
    | none => 0)

/-- An item of Segment `seg` is on media, in pieces `l`: the map points there, and a record's chain head is queued (R203, R284). -/
def landed (seg : Nat) (i : StoneItem) (l : List Piece) (s : State) : State :=
  let s := bump (Reg.cryCipherLo seg) (storedLen s i) s
  if i.isRec then queueHead i.a i.b (onRec i.a i.b (fun r => { r with pieces := l, no := i.no, cls := i.cls, band := firstBand l r.band }) s)
  else onNs i.a (fun x =>
    { x with grains := tmod i.b (fun g => { g with pieces := l, no := i.no, cls := i.cls, band := firstBand l g.band }) x.grains }) s

/-- Body of a Brace entry (R444). -/
def braceBody (jkind seg seq arg value : Nat) : List Byte := pack [(1, jkind), (1, seg), (2, seq), (4, arg), (8, value)]

/-- The same data. -/
def sameItem (i j : StoneItem) : Bool := i.isRec == j.isRec && i.a == j.a && i.b == j.b

/-- A retained flush image no longer holds data that is verified on media; when the last is gone, the images are retired
(R457; log 24). The blocks of an image that is gone are erased. -/
def dropImage (i : StoneItem) (s : State) : State :=
  if s.brc.images.isEmpty then s
  else
    let l := (s.brc.images.map fun x => { x with stone := tfilter (fun _ l => !l.isEmpty) (tmap (fun _ l => l.filter fun j => !sameItem i j) x.stone) }).filter
      fun x => !x.stone.isEmpty
    let gone := (s.brc.images.flatMap (·.bands)).filter fun k => !l.any fun x => x.bands.contains k
    let s := gone.foldl (fun s k => startErase k s) { s with brc := { s.brc with images := l } }
    if l.isEmpty then queueJ 5 0xFF none (braceBody 4 0xFF s.brc.flushSeq 0 0) s else s

/-- Every byte of a draining item lies in verified rows (R293, R397). -/
def itemDone (s : State) (seg : Nat) (i : StoneItem) : Bool :=
  i.draining && decide ((piecesOf s seg i.no).foldl (fun n p => n + p.len) 0 ≥ storedLen s i)

/-- Finish the drain of an item of Segment `seg`: its Stone is free (R293). -/
def finishDrain (seg : Nat) (i : StoneItem) (s : State) : State :=
  updateBypass seg (dropImage i (onStone seg (·.erase i) (landed seg i (piecesOf s seg i.no) s)))

/-- RECORD_DRAIN_COMPLETE: the programs of the oldest item of a Segment that is wholly drained, and of its rows' parity, are verified (R203,
R293). -/
def execRecordDrainComplete (t seg : Nat) (s : State) : Host.Outcome State Fault Refusal :=
  let s := tick t s
  match (tgetD [] seg s.med.stone).find? (itemDone s seg) with
  | some i => .next (updateFloor (finishDrain seg i s))
  | none => .next s

/-- PARTIAL_UNIT_TIMEOUT: the unit of stream `k` that is still partly filled 500 ms after its first byte was drained goes to the SLC buffer,
its row padded (R294, R395; log 115). Its Stone is freed as every other's is. -/
def execPartialUnitTimeout (t k : Nat) (s : State) : Host.Outcome State Fault Refusal :=
  let s := tick t s
  match strmOf s k with
  | none => .next s
  | some x =>
    if !drainOn s x.seg then .next s
    else .next (startPrograms x.seg (layFills true (slcLimit s x.seg) true
      (fun f => f.seg == x.seg && f.owner == k && decide (f.bytes.length < unitBytes s x.seg) && decide (s.now - f.since ≥ 500000000)) s))

/-- Claim a band; and the claims of an activity in a Segment end (R326). -/
def claim (k prec : Nat) (s : State) : State := onBand k (fun b => { b with claim := prec }) s
def endClaims (seg prec : Nat) (s : State) : State :=
  onMed (fun m => { m with bands := tmap (fun k b => if segOfBand k = seg ∧ b.claim = prec then { b with claim := 0 } else b) m.bands }) s

/-- The band of the SLC buffer that is moved next: the one whose move is in progress, else the one with the oldest contents (R295). -/
def oldestSlc (s : State) (seg : Nat) : Option (Nat × Band) :=
  let l := tfilter (fun _ b => b.slc && !b.brace && (b.st == .opened || b.st == .closed) && (b.claim == 0 || b.claim == 8)) (bandsOf s seg)
  match tfind (fun _ b => b.claim == 8) l with
  | some p => some p
  | none => l.foldl (fun (m : Option (Nat × Band)) p => match m with | none => some p | some q => if p.2.dataAt < q.2.dataAt then some p else some q) none

/-- An open band takes no more: its rows are padded, and it is closed (R280, R395). -/
def shutBand (k : Nat) (s : State) : State := match tget k s.med.bands with
  | some b => if b.st = .opened then closeBand k (padBand k s) else s
  | none => s

/-- One step of the SLC buffer's return to `limit` blocks: a free band leaves it, or its oldest contents move on to TLC bands, as the class of the
data and not as maintenance; in DEPOT it is emptied (R295, R296, R330). -/
def slcStep (seg limit : Nat) (empty : Bool) (s : State) : State :=
  if !empty && decide (slcBlocks s seg ≤ limit) then endClaims seg 8 s
  else match (if empty then none else tfind (fun _ b => b.slc && !b.brace && b.st == .free && b.claim == 0) (bandsOf s seg)) with
    | some (k, _) => updateFloor (setSlc k false s)
    | none => match oldestSlc s seg with
      | some (k, _) => (moveStep k 0 none none (claim k 8 (shutBand k s))).2
      | none => s

/-- The next raw record of a Segment, from R260 or a Brace flush, is compressed in DEPOT, as a unit of rebalancing (R274, R330). -/
def recompressNext (seg : Nat) (bad : List (Nat × Nat × Nat)) (s : State) : State :=
  match (tkeys (tfilter (fun _ b => b.claim == 0) (bandsOf s seg))).findSome? fun k => (rawIn s k).head? with
  | some x => (squeeze 5 bad x s).2
  | none => settleFills seg (endFill seg (squeezeOwner 5) s)

/-- SLC_MOVE: one step of the buffer's return to its limit; in DEPOT, within maintenance's share of die time, the buffer is emptied and raw records
are compressed, `bad` listing the blocks that the self-check replaces (R163, R263, R274, R295, R296, R330). -/
def execSlcMove (t seg : Nat) (bad : List (Nat × Nat × Nat)) (s : State) : Host.Outcome State Fault Refusal :=
  let s := tick t s
  if !drainOn s seg then .next s
  else if s.cmd.depotEnd.isSome ∧ maintRuns s seg 5 then .next (recompressNext seg bad (slcStep seg 0 true s))
  else .next (slcStep seg (slcLimit s seg) false s)

/-! ## Checkpoints (R242, R289) -/

/-- The newest durable or queued checkpoint root of a Segment. -/
def lastRoot (s : State) (seg : Nat) : Option JEntry :=
  ((s.pith.jd ++ s.pith.jq).filter fun e => e.etype == 9 && e.src == seg).getLast?

/-- The structures of a checkpoint, as KIND and bytes: the map region with the band table, the index region's entries, the stub tables
(R242, R287, R289; log 22). -/
def ckptSizes (s : State) (seg : Nat) : List (Nat × Nat) :=
  [(3, mapUsed s seg + 16 * (bandsOf s seg).length), (4, 16 * idxUsed s seg),
    (6, 48 * tsum (fun _ x => if x.seg = seg then x.stubs.length else 0) s.cmd.streams)].filter fun p => p.2 > 0

/-- The contents of checkpoint `n`: the manual gives no layout of the structures, so their bytes are free (log 22). -/
def ckptData (s : State) (seg : Nat) : List (Nat × List Byte) :=
  (ckptSizes s seg).map fun p => (p.1, fit p.2 (Config.random (s.draws + p.1) p.2))

/-- Body of a checkpoint root (R686): its place, its EPOCH, the digest of its content and that of the one before. -/
def rootBody (s : State) (seg band row epoch : Nat) (digest : List Byte) : List Byte :=
  pack [(1, seg), (3, 0), (4, band), (8, epoch)] ++ fit 32 digest
    ++ (match lastRoot s seg with | some e => slice e.body 16 32 | none => zeros 32) ++ pack [(4, row), (12, 0)]

/-- A checkpoint begins: its structures fill units of their own, as drain work of no class's own (R163, R289; log 137). -/
def beginCkpt (seg : Nat) (s : State) : State :=
  let n := tgetD 0 seg s.med.ckptNo + 1
  let no := s.med.drains + 1
  let l := ckptData s seg
  let nexts := (tfilter (fun _ x => x.seg == seg) s.cmd.streams).map fun x => (x.1, x.2.next)
  let w : CkptWip := { no := n, item := no, len := l.foldl (fun m p => m + p.2.length) 0, digest := Config.sha256 (l.flatMap (·.2)), nexts := nexts }
  let s := draw (onMed (fun m => { m with drains := no, wips := tput seg w m.wips }) s)
  let s := l.foldl (fun s p => drainInto seg ckptOwner 3 0
    { item := no, nsid := 0, kind := p.1, zobj := false, stream := 0, laddr := n, xlen := p.2.length, xoff := 0, off := 0, len := 0 } p.2 s) s
  settleFills seg (endFill seg ckptOwner (onMed (fun m => { m with ckptAt := tput seg s.now m.ckptAt, ckptBands := tset 0 seg 0 m.ckptBands }) s))

/-- VALUE of a map root pointer: the checkpoint's band and row, and its EPOCH. -/
def rootValue (k row epoch : Nat) : List Byte := pack [(4, k % 2 ^ 24), (4, row), (8, epoch), (8, 0)]

/-- A Segment's checkpoint is verified whole: its root pointer is journalled and voted as a triad word, whose VALUE the manual does not lay out
(log 22). The two latest are kept (R289). -/
def settleCkpt (seg : Nat) (s : State) : State := match tget seg s.med.wips with
  | none => s
  | some w =>
    let ps := piecesOf s seg w.item
    if ps.foldl (fun m p => m + p.len) 0 < w.len then s
    else
      let k := (firstBand ps none).getD 0
      let row := match ps with | p :: _ => p.unit / 64 | [] => 0
      let c : Ckpt := { no := w.no, band := k, row := row, pieces := ps, digest := w.digest, nexts := w.nexts }
      let s := onMed (fun m => { m with ckptNo := tput seg w.no m.ckptNo, wips := tdel seg m.wips,
                                        ckpts := tput seg (c :: (tgetD [] seg m.ckpts).take 1) m.ckpts }) s
      let s := onCmd (fun q => { q with streams := tmap (fun k x => match tget k w.nexts with | some n => { x with ckptNext := n } | none => x) q.streams }) s
      let body := rootBody s seg (k % 2 ^ 24) row w.no w.digest
      writeTriad 3 seg (rootValue k row w.no) (queueJ 9 seg none body s)

/-- What rows that have been verified settle in a Segment. -/
def settleSeg (seg : Nat) (s : State) : State := settleCkpt seg (settleSqueezes seg s)

/-- MAP_CHECKPOINT: the interval or the number of bands is reached, and no checkpoint is in progress (R289). -/
def execMapCheckpoint (t seg : Nat) (s : State) : Host.Outcome State Fault Refusal :=
  let s := tick t s
  if !drainOn s seg ∨ !s.pins.vppOk then .next s
  else if (tget seg s.med.wips).isSome then .next (settleCkpt seg (settleFills seg s))
  else if s.now - tgetD 0 seg s.med.ckptAt ≥ fieldOf s Reg.medCkpt 15 0 * 1000000000 ∨ tgetD 0 seg s.med.ckptBands ≥ fieldOf s Reg.medCkpt 31 16 then
    .next (settleCkpt seg (beginCkpt seg s))
  else .next s

/-! ## Garbage collection and wear (R305 to R311) -/

/-- The victim: the closed band with the fewest valid bytes, closed earliest on a tie, and not claimed (R305, R326). -/
def victim (s : State) (seg : Nat) : Option Nat :=
  ((tfilter (fun k b => isVictim s k b && b.claim == 0) (bandsOf s seg)).foldl
    (fun (m : Option (Nat × Nat × Nat)) p =>
      let v := heldBytes s p.1
      match m with
      | none => some (p.1, v, p.2.closedNo)
      | some q => if v < q.2.1 ∨ (v = q.2.1 ∧ p.2.closedNo < q.2.2) then some (p.1, v, p.2.closedNo) else some q)
    none).map (·.1)

/-- The band that an activity has claimed and not finished, or the one that it chooses now (R326). -/
def claimed (s : State) (seg prec : Nat) (pick : Option Nat) : Option Nat :=
  match tfind (fun _ b => b.claim == prec && b.st == .closed) (bandsOf s seg) with
  | some (k, _) => some k
  | none => pick

/-- GARBAGE_COLLECTION: one unit of work on the victim of a Segment that is below START, or on its way to STOP (R305, R307 to R309, R324). -/
def execGarbageCollection (t seg : Nat) (bad : List (Nat × Nat × Nat)) (s : State) : Host.Outcome State Fault Refusal :=
  let s := tick t s
  let free := freeBands s seg
  let on := decide (free < fieldOf s Reg.medGc 15 8) || (s.med.gcOn.contains seg && decide (free < fieldOf s Reg.medGc 7 0))
  let s := onMed (fun m => { m with gcOn := if on then (if m.gcOn.contains seg then m.gcOn else seg :: m.gcOn) else m.gcOn.filter (· != seg) }) s
  if !on then .next (endClaims seg 4 s)
  else if !maintRuns s seg 4 then .next s
  else match claimed s seg 4 (victim s seg) with
    | none => .next s
    | some k => .next (moveStep k 4 none (some bad) (claim k 4 s)).2

/-- Foreground relocation before a Class A, B or Z write of `n` bytes of class `cls` to a Segment at or below URGENT (R306): as many valid bytes
move first, a unit at a time and as work of that class; `key` names the write. The answer says that the write may go on: what has been moved
for it is verified, or there is nothing to move (log 120). -/
def foreground (key seg n cls : Nat) (s : State) : Bool × State :=
  let got := tgetD 0 key s.med.fore
  let go := fun (s : State) => (true, endClaims seg 9 (onMed (fun m => { m with fore := tdel key m.fore }) s))
  if freeBands s seg > fieldOf s Reg.medGc 23 16 then go s
  else if got ≥ n ∧ got > 0 then
    if copiesOut s seg 0 then (false, startPrograms seg (padCopies seg 0 cls s)) else go s
  else match claimed s seg 9 (victim s seg) with
    | none => go s
    | some k =>
      let (m, s) := moveStep k 0 (some cls) none (claim k 9 s)
      (false, onMed (fun x => { x with fore := tput key (got + m) x.fore }) s)

/-- The closed band with the lowest erase count. -/
def coldest (s : State) (seg : Nat) : Option (Nat × Band) :=
  (tfilter (fun k b => isVictim s k b && b.claim == 0) (bandsOf s seg)).foldl
    (fun m p => match m with | none => some p | some q => if p.2.erases < q.2.erases then some p else some q) none

/-- Lowest and highest erase count of a Segment's bands. -/
def eraseMin (s : State) (seg : Nat) : Nat := match bandsOf s seg with
  | [] => 0
  | p :: t => t.foldl (fun m q => min m q.2.erases) p.2.erases
def eraseMax (s : State) (seg : Nat) : Nat := (bandsOf s seg).foldl (fun m q => max m q.2.erases) 0

/-- WEAR_MOVE: a unit of work on the move of the closed band with the lowest erase count into the free band with the highest (R311, R324). -/
def execWearMove (t seg : Nat) (bad : List (Nat × Nat × Nat)) (s : State) : Host.Outcome State Fault Refusal :=
  let s := tick t s
  let gap := if s.cmd.depotEnd.isSome then fieldOf s Reg.medWear 31 16 else fieldOf s Reg.medWear 15 0
  let due : Bool := decide (eraseMax s seg - eraseMin s seg > gap)
  match (if maintRuns s seg 5 then claimed s seg 5 (if due then (coldest s seg).map (·.1) else none) else none) with
  | none => .next s
  | some k =>
    let s := (moveStep k 5 none (some bad) (claim k 5 s)).2
    let done : Bool := match tget k s.med.bands with | some b => b.st != .closed | none => false
    .next (if done then bumpHealth 18 1 (onMed (fun m => { m with bands := tmap (fun q b => if segOfBand q = seg ∧ b.prep = 5 then { b with prep := 0 } else b) m.bands }) s) else s)

/-! ## Patrol and refresh (R312 to R317, R330) -/

/-- Written page groups of a band, which are its programmed stripe units (R280, R312). -/
def bandGroups (b : Band) : Nat := tcount (fun _ u => u.done) b.units

/-- Written page groups of a Segment at a moment. -/
def writtenGroups (s : State) (seg : Nat) : Nat :=
  tsum (fun _ b => if b.st = .closed ∨ b.st = .opened then bandGroups b else 0) (bandsOf s seg)

/-- A pass of a Segment. -/
def patrolOf (s : State) (seg : Nat) : Patrol := tgetD {} seg s.med.patrol

/-- The length of a pass in ns (R312). -/
def patrolNs' (s : State) : Nat := fieldOf s Reg.medPatrol 4 0 * 86400000000000

/-- Begin a pass of a Segment; patrol's claims end with the old one. -/
def startPass (seg : Nat) (unpaced : Bool) (s : State) : State :=
  let p : Patrol := { start := s.now, groups := writtenGroups s seg, unpaced := unpaced }
  endClaims seg 3 (onMed (fun m => { m with patrol := tput seg p m.patrol }) s)

/-- Change a Segment's pass. -/
def onPatrol (seg : Nat) (f : Patrol → Patrol) (s : State) : State := onMed (fun m => { m with patrol := tput seg (f (patrolOf s seg)) m.patrol }) s

/-- Patrol's pace: ceil(G / F) page groups for each frame (R312). -/
def patrolPace (s : State) (seg : Nat) : Nat := cdiv (patrolOf s seg).groups (max 1 (patrolNs' s / s.cad.period))

/-- Patrol's share at a frame boundary: its pace, and as much again while it is behind its schedule, or all that is left of an unpaced pass
(R312, R330, R335). -/
def patrolShare (s : State) (seg : Nat) : Nat :=
  let p := patrolOf s seg
  let n := patrolPace s seg
  let left := p.groups - p.queued
  if p.unpaced then left else min left (n + min p.behind n)

/-- Frames of a pass at the adopted P (R312). -/
def passFrames (s : State) : Nat := max 1 (patrolNs' s / s.cad.period)

/-- Patrol's bursts of 4 KiB through a Segment's DRAM at a frame boundary, spread over the pass, each a unit that needs the channel's token (R317,
R324; log 138). -/
def dramPatrol (s : State) (seg : Nat) : State :=
  let cap := (tgetD {} seg s.mov.drams).cap
  let n := cdiv (cap / 4096) (passFrames s) * 4096
  if !maintOn s seg 3 ∨ (patrolOf s seg).dram ≥ cap then s
  else
    let (ok, s) := useTokens 3 [dramRes seg] s
    if ok then onPatrol seg (fun p => { p with dram := min cap (p.dram + n) }) s else s

/-- Patrol at a frame boundary: page groups are queued, and DRAM is read; in S2 and S3 the pass falls behind by its pace (R312, R317, R335). -/
def patrolStep (s : State) (seg : Nat) : State :=
  let n := patrolPace s seg
  if !segOn s seg then s
  else if sleepOf s seg ≥ 2 then onPatrol seg (fun p => { p with behind := min (p.groups - p.queued) (p.behind + n) }) s
  else dramPatrol (onPatrol seg (fun p => { p with queued := p.queued + patrolShare s seg, behind := p.behind - (patrolShare s seg - n) }) s) seg

/-- The number of a page group in a pass. -/
def groupKey (d b pg : Nat) : Nat := d * 2 ^ 40 + b * 2 ^ 16 + pg

/-- Page group `pg` of block `b` of die `d` holds programmed data of band `k`. -/
def writtenGroup (s : State) (d b pg : Nat) (x : Die) : Option Nat := match bandOf s d b with
  | some k => match tget k s.med.bands with
    | some q =>
      if (q.st == .opened || q.st == .closed) && blkOf s k d == b && (match tget (unitKey pg (memberIn s k d x)) q.units with | some u => u.done | none => false)
      then some k else none
    | none => none
  | none => none

/-- Patrol may read page group `pg` of block `b` of die `d`: one is queued, and it is written, not read in this pass, and in a band that no other
activity claims (R312, R326). -/
def mayPatrol (s : State) (d b pg : Nat) (x : Die) : Bool :=
  let p := patrolOf s (segOfDie d)
  decide (p.read.length < p.queued) && !p.read.contains (groupKey d b pg) && (match writtenGroup s d b pg x with
    | some k => (match tget k s.med.bands with | some q => q.claim == 0 || q.claim == 3 | none => false)
    | none => false)

/-- Patrol has read every written page group of a band in this pass. -/
def bandPatrolled (s : State) (k : Nat) : Bool := (unitsOf s k).all fun u => !u.2.done || (match memberDie s k (u.1 % 64) with
  | some d => (patrolOf s (segOfBand k)).read.contains (groupKey d (blkOf s k d) (u.1 / 64))
  | none => true)

/-- A page group has been patrolled; its band is claimed until all of it has been (R312, R326, R337). -/
def countPatrol (d b pg : Nat) (s : State) : State :=
  let s := bump (Reg.medPatrolLo (segOfDie d)) 1 (onPatrol (segOfDie d) (fun p => { p with read := groupKey d b pg :: p.read }) s)
  match bandOf s d b with
  | some k => claim k (if bandPatrolled s k then 0 else 3) s
  | none => s

/-- The pages that a blank check reads: the first, every one at a multiple of `FLW_BLANK.SAMPLE`, and the last (R374). -/
def sampled (s : State) (pages pg : Nat) : Bool := pg % max 1 (fieldOf s Reg.flwBlank 23 16) == 0 || pg + 1 == pages

/-- A raw read of so many zero bits in its worst codeword is erased-looking (R374). -/
def looksErased (s : State) (zeros : Nat) : Bool := decide (zeros ≤ fieldOf s Reg.flwBlank 9 0)

/-- The unpaced pass of DEPOT blank-checks the erased block `b` of die `d`, which has been held for more than a patrol period (R330). -/
def mayBlankCheck (s : State) (d b pg : Nat) (x : Die) : Bool :=
  (patrolOf s (segOfDie d)).unpaced && sampled s x.pages pg && (match bandOf s d b with
    | some k => (match tget k s.med.bands with
      | some q => q.st == .free && bandReady s k && decide (s.now - q.erasedAt > patrolNs' s)
      | none => false)
    | none => false)

/-- The block has failed its blank check: its band is erased anew before use, at once where it is kept erased, and the block is checked again after it
(R309, R375). -/
def blankFails (d b : Nat) (s : State) : State := match bandOf s d b with
  | some k =>
    let s := onBand k (fun q => { q with erased := false, prep := 0 }) s
    let s : State := { s with flw := { s.flw with blankFail := if s.flw.blankFail.contains (d, b) then s.flw.blankFail else (d, b) :: s.flw.blankFail } }
    match tget k s.med.bands with
    | some q => if q.brace || q.slc then startErase k s else s
    | none => s
  | none => s

/-- PATROL_PASS_END: a pass has lasted its period, or an unpaced pass has read everything; what it found in DRAM, a notice of
kind 7, and the next pass (R2, R312, R334, R407 to R409). -/
def execPatrolPassEnd (t seg : Nat) (finds : List DramFind) (s : State) : Host.Outcome State Fault Refusal :=
  let s := dramFindings seg finds (tick t s)
  let p := patrolOf s seg
  if segOn s seg ∧ (s.now - p.start ≥ patrolNs' s ∨ (p.unpaced ∧ p.read.length ≥ p.groups)) then
    let s := onInt (fun i => { i with dramCorr := tfilter (fun k _ => k / 2 ^ 40 != seg) i.dramCorr }) s
    let d := if s.med.passDone.contains seg then s.med.passDone else seg :: s.med.passDone
    let all := (segs s).all d.contains
    let s := onMed (fun m => { m with passDone := if all then [] else d }) s
    let s := if all then bumpHealth 15 1 s else s
    .next (startPass seg false (healthNotice 7 seg (tgetD 0 15 s.health.ctr % 2 ^ 32) 0 s))
  else .next s

/-- Queue blocks of a band for retention refresh; one that is queued a second time within a patrol period, the first having been served, is
retired (R313, R314, R318). -/
def queueRefresh (k : Nat) (l : List (Nat × Nat)) (s : State) : State :=
  let fresh := (l.map fun q => blkKey q.1 q.2).filter fun q => !s.med.weak.contains q
  let again := fresh.filter fun q => match tget q s.med.refreshed with | some t => decide (s.now - t ≤ patrolNs' s) | none => false
  let s := queueBand k (onMed (fun m => { m with weak := m.weak ++ fresh, refreshed := fresh.foldl (fun t q => tput q s.now t) m.refreshed }) s)
  again.foldl (fun s q => retireBlock (q / 2 ^ 24) (q % 2 ^ 24) 0xFF s) s

/-- RETENTION_REFRESH: a unit of work on the rewrite of a queued band's valid data, once no other activity claims it; an open band is padded and
closed first (R315, R316, R324, R326, R379). -/
def execRetentionRefresh (t k : Nat) (s : State) : Host.Outcome State Fault Refusal :=
  let s := tick t s
  match tget k s.med.bands with
  | some b =>
    if s.med.refresh.contains k ∧ (b.claim = 0 ∨ b.claim = 2) ∧ (b.st = .opened ∨ b.st = .closed) ∧ maintRuns s (segOfBand k) 2 then
      let some_ : Bool := b.claim == 2 || decide (heldBytes s k > 0)
      let s := (moveStep k 2 none none (claim k 2 (shutBand k s))).2
      let done : Bool := match tget k s.med.bands with | some b => b.st != .closed | none => false
      .next (if done && some_ then bumpHealth 16 (width s (segOfBand k)) s else s)
    else .next s
  | none => .next s

/-- AGE_REFRESH: data of band `k` has been stored for more than AGE days (R314). -/
def execAgeRefresh (t k : Nat) (s : State) : Host.Outcome State Fault Refusal :=
  let s := tick t s
  match tget k s.med.bands with
  | some b =>
    if (b.st = .closed ∨ b.st = .opened) ∧ s.now - b.dataAt > fieldOf s Reg.medRet 10 0 * 86400000000000 then .next (queueRefresh k (bandBlocks s k) s)
    else .next s
  | none => .next s

/-! ## Tokens (R323 to R325) -/

/-- The unit that holds a resource's token is in progress: a program or erase of the die, or an operation of the Pith bank; or the die's window is
open, so that no unit of maintenance starts on it (R164, R325, R327). -/
def unitOpen (s : State) (res : Nat) : Bool := match tget res s.flw.dies with
  | some d => d.op.isSome || windowBusy d
  | none => decide (520 ≤ res) && bankOp s (res - 520) != .idle

/-- MAINT_TOKEN_HANDOFF: the token of a resource whose unit has ended, or to which no unit has started, is released, and passes to the waiting start
of highest precedence, the earliest on a tie (R325). -/
def execMaintTokenHandoff (t res : Nat) (s : State) : Host.Outcome State Fault Refusal :=
  let s := tick t s
  if unitOpen s res then .next s else .next (releaseToken res s)

/-! ## DEPOT and MAINT (R150, R330, R331) -/

/-- The work that the start of DEPOT begins: unpaced patrol, and the deep check, which goes on where an earlier DEPOT left it unfinished
(R330, R331). -/
def depotStart (s : State) : State :=
  let s := (segs s).foldl (fun s n => if sleepOf s n ≥ 2 then startWake n s else s) s
  (segs s).foldl (fun s n => startPass n true s) (onMed (fun m => if m.deep < 100 then m else { m with deep := 0, margins := [] }) s)

/-- The page groups that the deep check reads of a written block of band `k`: those written in its first, middle and last word lines, each of three
pages in TLC bands and of one in single-bit mode (R330; log 139). -/
def deepPages (s : State) (k d : Nat) (x : Die) : List Nat :=
  let b := match tget k s.med.bands with | some q => q.slc | none => false
  let n := if b then 1 else 3
  let lines := cdiv (if b then cdiv x.pages 3 else x.pages) n
  (List.range (lines * n)).filter fun pg =>
    ([0, lines / 2, lines - 1].contains (pg / n)) && (writtenGroup s d (blkOf s k d) pg x).isSome

/-- Blocks of the part that the deep check reads, and those of them that it has read. -/
def deepBlocks (s : State) : Nat × Nat :=
  s.med.bands.foldl (fun a p => (bandDies s p.1).foldl (fun a q =>
    let l := deepPages s p.1 q.1 q.2
    if l.isEmpty ∨ q.2.lost then a
    else (a.1 + 1, if l.all (tgetD [] (blkKey q.1 (blkOf s p.1 q.1)) s.med.margins).contains then a.2 + 1 else a.2)) a) (0, 0)

/-- A margin read of page group `pg` of block `b` of die `d` counts in the deep check (R330, R334). -/
def countMargin (d b pg : Nat) (s : State) : State :=
  let l := tgetD [] (blkKey d b) s.med.margins
  let s := onMed (fun m => { m with margins := tput (blkKey d b) (if l.contains pg then l else pg :: l) m.margins }) s
  let (n, k) := deepBlocks s
  onMed (fun m => { m with deep := 100 * k / max 1 n }) s

/-- DEPOT has ended: an unpaced pass goes on at its pace, and a notice of kind 8 (R331). -/
def depotStop (s : State) : State :=
  healthNotice 8 0xFF s.med.deep 0 (onMed (fun m => { m with patrol := tmap (fun _ p =>
    if p.unpaced then { p with unpaced := false, queued := p.read.length } else p) m.patrol }) s)

/-- Bands that hold data of a namespace. -/
def nsBands (s : State) (n : Nat) : List Nat :=
  tkeys (tfilter (fun k _ =>
    tany (fun _ x => x.nsid == n && tany (fun _ r => r.band == some k) x.recs) s.cmd.streams
      || (match nsOf s n with | some x => tany (fun _ g => g.band == some k) x.grains | none => false)) s.med.bands)

/-- Blocks of those bands (R150). -/
def nsBlocks (s : State) (n : Nat) : Nat := (nsBands s n).foldl (fun m k => m + width s (segOfBand k)) 0

/-- MAINT kind 1: what is left to read of the written page groups of a namespace's bands, as `band * 2^16 + unit`. A group that patrol has read in
this pass counts as processed where patrol claims the band (R150, R328). -/
def patrolLeft (s : State) (l : List Nat) : List Nat := l.filter fun x =>
  let k := x / 2 ^ 16
  let u := x % 2 ^ 16
  match tget k s.med.bands with
  | some q => (q.st == .opened || q.st == .closed) && (match tget u q.units with | some v => v.done | none => false)
      && !(match memberDie s k (u % 64) with
        | some d => q.claim == 3 && (patrolOf s (segOfBand k)).read.contains (groupKey d (blkOf s k d) (u / 64))
        | none => true)
  | none => false

/-- The work of MAINT kind 1 on a namespace. -/
def patrolWork (s : State) (n : Nat) : List Nat :=
  patrolLeft s ((nsBands s n).flatMap fun k => (tkeys (unitsOf s k)).map fun u => k * 2 ^ 16 + u)

/-- Z work lets go of the bands of which no MAINT command has anything left to do (R326). -/
def endZ (s : State) : State :=
  let l := s.rge.flights.flatMap fun p => (p.2.todo.getD []).map (· / 2 ^ 16)
  onMed (fun m => { m with bands := tmap (fun k b => if b.claim = 7 ∧ !l.contains k then { b with claim := 0 } else b) m.bands }) s

/-- The work of MAINT kind 2 on a namespace: the closed bands that hold its data and could hold more, as `band * 2^16` (R150). -/
def compactWork (s : State) (n : Nat) : List Nat := ((nsBands s n).filter fun k => match tget k s.med.bands with
  | some b => b.st == .closed && decide (validBytes s k < b.size)
  | none => false).map (· * 2 ^ 16)

/-- A unit of work of MAINT kind 2: the first band that no other activity claims moves on, and leaves the list when it is free; the blocks of the band
so moved are answered (R150, R324, R326, R329). -/
def compactStep (l : List Nat) (s : State) : List Nat × Nat × State :=
  let here := fun (s : State) (x : Nat) => match tget (x / 2 ^ 16) s.med.bands with | some b => b.st == .closed | none => false
  let l := l.filter (here s)
  match l.find? fun x => match tget (x / 2 ^ 16) s.med.bands with
      | some b => (b.claim == 0 || b.claim == 7) && maintRuns s (segOfBand (x / 2 ^ 16)) 7
      | none => false with
  | none => (l, 0, s)
  | some x =>
    let k := x / 2 ^ 16
    let s := (moveStep k 7 none none (claim k 7 s)).2
    if here s x then (l, 0, s) else (l.erase x, width s (segOfBand k), s)

/-- MED_SNAP_NOW (R337). -/
def execMedSnapNow (t n : Nat) (s : State) : Host.Outcome State Fault Refusal :=
  .next (strobe n (Reg.medSnap n) (tick t s))

/-! ## Reclaim ahead (R302) and the work of a frame boundary -/

/-- Room that a stream's bounded Seals may ask for by the next boundary, in 10⁻⁹ byte (R302). -/
def aheadNano (s : State) (x : Strm) : Nat :=
  if x.rate = 0 then 0 else max (x.rate * (word s Reg.clsBurst).toNat * 1000000) (262144 * 1000000000) + x.rate * s.cad.period

/-- The room of the streams that pass, in bytes, rounded up once (R302). -/
def aheadRoom (s : State) (p : Strm → Bool) : Nat := cdiv (tsum (fun _ x => if p x then aheadNano s x else 0) s.cmd.streams) 1000000000

/-- Stream groups of the streams that pass, each once. -/
def groupsOfStreams (s : State) (p : Strm → Bool) : List Nat := ((tfilter (fun _ x => p x) s.cmd.streams).map fun x => x.2.group).dedup

/-- Reclaim ahead for a timeline namespace: room of R302, each stream group giving of its own records (R300). -/
def aheadNs (s : State) (p : Nat × Ns) : State :=
  let need := aheadRoom s fun x => x.nsid == p.1
  if p.2.nstype ≠ 1 ∨ need = 0 then s
  else (groupsOfStreams s fun x => x.nsid == p.1).foldl (fun s g =>
    reclaimUntil (fun y => y.nsid == p.1 && y.group == g) (fun s => nsRoom s p.1 p.2 need) (recCount s) s) s

/-- Reclaim ahead for a Segment: three index slots and map entries for each stream, and one for each 4,096 bytes of that room, each stream
group giving of its own records (R300, R302). -/
def aheadSeg (s : State) (seg : Nat) : State :=
  let l := tfilter (fun _ x => x.seg == seg) s.cmd.streams
  let n := 3 * l.length + cdiv (aheadRoom s fun x => x.seg == seg) 4096
  if l.isEmpty then s
  else (groupsOfStreams s fun x => x.seg == seg).foldl (fun s g =>
    reclaimUntil (fun y => y.seg == seg && y.group == g)
      (fun s => decide (idxUsed s seg + n ≤ idxSlots s seg) && decide (mapUsed s seg + 16 * n ≤ mapBytes s seg)) (recCount s) s) s

/-- What the manual ties to a frame boundary in the Media Manager: reclaim ahead and patrol (R302, R312); the floor is looked at with them
(R322). -/
def mediaBoundary (s : State) : State :=
  if !s.boot.service then s
  else updateFloor ([0, 1, 2, 3].foldl patrolStep ((segs s).foldl aheadSeg (s.cmd.nss.foldl aheadNs (endZ s))))

end Sys2Proof.Machine
end

