-- ==== Sys2Proof/Machine/Cadence.lean ====
section
/-!
DEFINITION. The Cadence Unit's commands and events: frame boundaries, the lock states, PPS and ODO capture, the incident
latch (chapter 01).
-/
namespace Sys2Proof.Machine

/-! ## Periods and windows -/

/-- The clamp D of R15. -/
def clampD (c : Cad) : Nat := absDiff c.mean c.period

/-- The late window W in ns (R21). -/
def lateW (s : State) : Nat := 10000 + s.cad.period * (word s Reg.cadTol).toNat / 1000000 + clampD s.cad

/-- Set M, and P with it (R15). -/
def setMean (m : Nat) (c : Cad) : Cad := { c with mean := m, period := clamp 4166667 100000000 m }

/-- `x` lies within `tol` parts per million of `m`. -/
def within (tol m x : Nat) : Bool := decide (absDiff m x * 1000000 ≤ m * tol)

/-- The tolerance `CAD_TOL`. -/
def tolOf (s : State) : Nat := (word s Reg.cadTol).toNat

/-- Push a value on a run of at most 8, newest first. -/
def push8 (x : Nat) (l : List Nat) : List Nat := (x :: l).take 8

/-- Eight periods qualify under R17: each in the capture range, each within tolerance of their mean. -/
def acquires (tol : Nat) (l : List Nat) : Bool :=
  l.length == 8 && l.all fun p => decide (4145834 ≤ p) && decide (p ≤ 100500000) && within tol (meanOf l) p

/-- Eight periods agree with their own mean (R20). -/
def agrees (tol : Nat) (l : List Nat) : Bool := l.length == 8 && l.all fun p => within tol (meanOf l) p

/-! ## Notices and journal records -/

/-- The Cadence notice payload (R52). -/
def cadPayload (s : State) (time kind arg : Nat) : List Byte :=
  pack [(8, time), (4, s.cad.period), (1, kind), (1, s.cad.st.code + 8 * s.cad.qual.code), (1, arg), (1, 0)]

/-- Post a Cadence notice (R25, R52). -/
def cadNotice (time kind arg : Nat) (s : State) : State := post 0 0x01 0xFFFF (cadPayload s time kind arg) s

/-- Body of a cadence record: FRAME, PERIOD, QUALITY and CFLAGS (R28, 17). -/
def cadRecord (s : State) (braced : Bool) : List Byte :=
  pack [(8, s.cad.frame), (4, s.cad.period), (1, s.cad.qual.code), (1, b2n braced), (2, 0)]

/-- Queue a cadence record (R28). -/
def queueCadence (s : State) : State := queueJ 4 0xFF (some 0) (cadRecord s false) s

/-- The 32 bytes of fence slot `k` (CAD_FENCE_WIN). DESIGN CHOICE (log 95): of a free slot the manual gives STATE 0 only, and every
other byte reads 0 as at reset. -/
def fenceBytes (s : State) (k : Nat) : List Byte :=
  match tget k s.cad.fences with
  | none => zeros 32
  | some x =>
    pack [(8, x.start), (8, x.stop), (8, x.edge), (1, if k = 16 then 0 else x.group), (1, x.inputs),
      (1, if k = 16 then 3 else if x.ended then 2 else 1), (5, 0)]

/-- The whole fence table, 17 entries of 32 bytes. -/
def fenceTable (s : State) : List Byte := (List.range 17).flatMap (fenceBytes s)

/-- Queue a fence-table entry (R50). -/
def queueFences (s : State) : State := queueJ 6 0xFF (some 0) (fenceTable s) s

/-! ## Frame boundaries (R12, R31) -/

/-- FRAME, its start and the frame counters at a boundary at instant `b`. -/
def nextFrame (b : Nat) (c : Cad) : Cad :=
  if c.frame ≥ 0xFFFFFFFFFF then { c with exhausted := true, frameStart := b }
  else { c with frame := c.frame + 1, frameStart := b }

/-- Latch the pulses of the ended frame (R41). -/
def odoLatch (c : Cad) : Cad :=
  { c with odoDelta := min 65535 c.odoFrame, odoLastFrame := c.frame % 65536, odoFrame := 0 }

/-- The mode written to `CAD_CTRL.MODE`. -/
def modeWritten (s : State) : CadMode := match fieldOf s Reg.cadCtrl 1 0 with
  | 1 => .slaveEcho
  | 2 => .master
  | _ => .slave

/-- A written change of mode takes effect (R33, R36). The flag says that the lock state changed. DESIGN CHOICE (log 96): a change out
of MASTER counts its boundary as the instant of an edge, so that the ACQUIRE it enters lasts 2 × P at least. -/
def adoptMode (s : State) : Bool × State :=
  let m := modeWritten s
  if m = s.cad.mode then (false, s)
  else if m = .master then
    (true, onCad (fun c => setMean (word s Reg.cadOutPeriod).toNat
      { c with mode := .master, st := .master, qual := .master, acq := [], retune := [] }) s)
  else if s.cad.mode = .master then
    (true, onCad (fun c => { c with mode := m, st := .acquire, qual := .free, acqHold := false, acq := [],
                                    lastEdge := none, anyEdge := some s.now, holdFrames := 0 }) s)
  else (false, onCad (fun c => { c with mode := m }) s)

/-- The steered mean of R35. -/
def steered (out : Nat) (l : List Nat) : Nat :=
  if l.length < 8 then out
  else clamp (out - out * 100 / 1000000) (out + out * 100 / 1000000) (out * meanOf l / 1000000000)

/-- PPS steering at a boundary in MASTER mode (R35). -/
def steer (s : State) : State :=
  if s.cad.mode = .master ∧ flagOf s Reg.cadCtrl 8 then
    onCad (setMean (steered (word s Reg.cadOutPeriod).toNat s.cad.ppsValid)) s
  else s

/-- CAD_OUT at a boundary (R34): it rises in MASTER and SLAVE_ECHO, and is low in SLAVE. -/
def driveOut (s : State) : State :=
  if s.cad.mode = .slave then
    if s.cad.cadOut then emit (.cadOut false) (onCad (fun c => { c with cadOut := false }) s) else s
  else emit (.cadOut true) (onCad (fun c => { c with cadOut := true, cadOutRise := c.frameStart }) s)

/-- Frames passed in HOLDOVER, or in an ACQUIRE entered from it (R23). -/
def countHold (c : Cad) : Cad :=
  if c.st = .holdover ∨ (c.st = .acquire ∧ c.acqHold) then { c with holdFrames := c.holdFrames + 1 } else c

/-- FRAME, the counters and the mode at a frame boundary at instant `b` (R12, R31, R33, R35, R36, R41). The flag says that a change of
mode changed the lock state. -/
def frameTurn (b : Nat) (s : State) : Bool × State :=
  let r := adoptMode (onCad (fun c => countHold (nextFrame b (odoLatch c))) s)
  (r.1, steer r.2)

/-- Evidence Time of the boundary just made: TICK and FINE are 0, and an exhausted count holds its maximum (R12, R31, R52). -/
def boundaryTime (c : Cad) : Nat := if c.exhausted then 0xFFFFFFFFFFFFFFFF else c.frame * 2 ^ 24

/-- Post the Cadence notice of a boundary just made (R25, R52). -/
def turnNotice (kind : Nat) (s : State) : State := cadNotice (boundaryTime s.cad) kind 0 s

/-- What follows a boundary: CAD_OUT, and the Media Manager's work (R34, R302, R312). -/
def afterTurn (s : State) : State := mediaBoundary (driveOut s)

/-- A frame boundary at instant `b` that no edge and no loss of the cadence makes. -/
def boundary (b : Nat) (s : State) : State :=
  let r := frameTurn b s
  afterTurn (if r.1 then turnNotice 1 r.2 else r.2)

/-! ## Lock states -/

/-- Edges are present at `t` (R830). -/
def present (c : Cad) (t : Nat) : Bool := match c.anyEdge with
  | some e => decide (t - e ≤ 2 * c.period)
  | none => false

/-- The quality becomes FREE when `CAD_HOLD` frames have passed; the state becomes FREE if no edges are present (R23). -/
def holdLimit (s : State) : State :=
  let hold := (word s Reg.cadHold).toNat
  let (inj, ef, s1) := meet 15 0xFF 0xFFFF false s
  let due := decide (s.cad.holdFrames ≥ hold) || inj
  if (s.cad.st = .holdover ∨ (s.cad.st = .acquire ∧ s.cad.acqHold)) ∧ s.cad.qual ≠ .free ∧ due then
    let s := onCad (fun c => { c with qual := .free }) s1
    let s := raiseF 15 {} ef s
    if s.cad.st = .holdover ∧ !present s.cad s.now then
      cadNotice (evTime s) 1 0 (onCad (fun c => { c with st := .free }) s)
    else s
  else s

/-- Enter HOLDOVER from LOCKED (R21): DT14 is raised and a notice of kind 1 posted. DESIGN CHOICE (log 97): with `CAD_HOLD` 0 the
notice carries quality 1, and the quality becomes FREE just after it. -/
def enterHoldover (s : State) : State :=
  let s := onCad (fun c => { c with st := .holdover, qual := .holdover, acq := [], track := [], retune := [], holdFrames := 0,
                                    acqHold := false }) s
  let s := raise 14 {} s
  let s := turnNotice 1 s
  if (word s Reg.cadHold).toNat = 0 then holdLimit s else s

/-- The late window expires: a boundary at the first cycle after P + W, and HOLDOVER (R21). DEDUCED (log 98): where the change to MASTER
takes effect at that boundary, the unit holds MASTER and enters no HOLDOVER (R33, R36). -/
def lateExpiry (s : State) : State :=
  let r := frameTurn (s.cad.frameStart + s.cad.period + lateW s + 1) s
  afterTurn (if r.2.cad.mode = .master then turnNotice 1 r.2 else enterHoldover r.2)

/-- Adopt the mean of eight periods and enter LOCKED; the edge is a frame boundary, and one notice reports both (R17, R22, R25). -/
def lock (m : Nat) (s : State) : State :=
  let s := onCad (fun c => { setMean m c with st := .locked, qual := .locked, track := c.acq, acq := [], retune := [],
                                              holdFrames := 0, acqHold := false }) s
  afterTurn (turnNotice 1 (frameTurn s.now s).2)

/-- An edge in FREE, ACQUIRE or HOLDOVER: it counts toward R17, and edges become present (R22, R830). DEDUCED (log 98): a HOLDOVER entered
while edges still count as present passes to ACQUIRE at the next edge. -/
def edgeUnlocked (s : State) : State :=
  let s := onCad (fun c => { c with
                             acq := match c.lastEdge with | some e => push8 (s.now - e) c.acq | none => c.acq
                             lastEdge := some s.now
                             anyEdge := some s.now }) s
  if acquires (tolOf s) s.cad.acq then lock (meanOf s.cad.acq) s
  else match s.cad.st with
    | .free =>
      cadNotice (evTime s) 1 0 (onCad (fun c => { c with st := .acquire, qual := .free, acqHold := false }) s)
    | .holdover =>
      cadNotice (evTime s) 1 0 (onCad (fun c => { c with st := .acquire, acqHold := true }) s)
    | _ => s

/-- After a period within tolerance of M, M follows the mean of the last 8 such; otherwise the run of R20 grows, and eight
agreeing periods adopt their mean (R18, R20). The flag says that a period was adopted. -/
def follow (p : Nat) (s : State) : Bool × State :=
  if within (tolOf s) s.cad.mean p then
    (false, onCad (fun c => setMean (meanOf (push8 p c.track)) { c with track := push8 p c.track, retune := [] }) s)
  else
    let run := push8 p s.cad.retune
    if agrees (tolOf s) run then
      (true, onCad (fun c => setMean (meanOf run) { c with track := run, retune := [] }) s)
    else (false, onCad (fun c => { c with retune := run }) s)

/-- The boundary of an edge that the period follower has taken. One notice reports it: a change of state, or else an adoption
(R18, R20, R25). -/
def edgeTaken (adopted : Bool) (s : State) : State :=
  let r := frameTurn s.now s
  afterTurn (if r.1 then turnNotice 1 r.2 else if adopted then turnNotice 2 r.2 else r.2)

/-- An edge while LOCKED within the late window: ignored below P/2 and counted, otherwise a frame boundary (R18, R19). -/
def edgeLocked (s : State) : State :=
  let dt := s.now - s.cad.frameStart
  if 2 * dt < s.cad.period then
    bumpTally Reg.cadGlitch 21 {} (onCad (fun c => { c with anyEdge := some s.now }) s)
  else
    let p := s.now - (s.cad.lastEdge.getD s.cad.frameStart)
    let s := onCad (fun c => { c with lastEdge := some s.now, anyEdge := some s.now }) s
    let r := follow p s
    edgeTaken r.1 r.2

/-- What the patrol's reads of DRAM meet at the frame boundary that a command has made, if it has made one: each finding with its Segment (R312,
R407 to R409). -/
def atBoundary (finds : List (Nat × DramFind)) (before s : State) : State :=
  if s.cad.frameStart = before.cad.frameStart then s else finds.foldl (fun s x => dramFindings x.1 [x.2] s) s

/-- CAD_IN_EDGE. -/
def execCadInEdge (t : Nat) (finds : List (Nat × DramFind)) (s : State) : Host.Outcome State Fault Refusal :=
  let s := tick t s
  let before := s
  if s.cad.mode = .master then .next s
  else
    let (supp, _, s) := meet 14 0xFF 0xFFFF false s
    if supp then .next (injDue 14 s)
    else if s.cad.st = .locked then
      if s.now - s.cad.frameStart ≤ s.cad.period + lateW s then .next (atBoundary finds before (injPast 14 (edgeLocked s)))
      else
        let s := lateExpiry s
        .next (atBoundary finds before (if s.cad.mode = .master then s else edgeUnlocked s))
    else .next (atBoundary finds before (edgeUnlocked s))

/-- UNIT_FRAME_BOUNDARY: outside LOCKED, P has elapsed since the last boundary (R16). -/
def execUnitFrameBoundary (t : Nat) (finds : List (Nat × DramFind)) (s : State) : Host.Outcome State Fault Refusal :=
  let s := tick t s
  if s.cad.st ≠ .locked ∧ s.now - s.cad.frameStart ≥ s.cad.period then
    .next (atBoundary finds s (boundary (s.cad.frameStart + s.cad.period) s))
  else .next s

/-- LATE_WINDOW_EXPIRY: no edge came by P + W while LOCKED (R21). -/
def execLateWindowExpiry (t : Nat) (finds : List (Nat × DramFind)) (s : State) : Host.Outcome State Fault Refusal :=
  let s := tick t s
  if s.cad.st = .locked ∧ s.now - s.cad.frameStart > s.cad.period + lateW s then .next (atBoundary finds s (lateExpiry s)) else .next s

/-- EDGES_ABSENT: no edge for 2 × P, so ACQUIRE returns to HOLDOVER or FREE, and a HOLDOVER past its limit becomes FREE
(R23, R830). The periods counted toward R17 stand. -/
def execEdgesAbsent (t : Nat) (s : State) : Host.Outcome State Fault Refusal :=
  let s := tick t s
  if present s.cad s.now then .next s
  else match s.cad.st with
    | .acquire =>
      let back := s.cad.acqHold && decide (s.cad.holdFrames < (word s Reg.cadHold).toNat)
      .next (cadNotice (evTime s) 1 0 (onCad (fun c =>
        if back then { c with st := .holdover, qual := .holdover, acqHold := false }
        else { c with st := .free, qual := .free, acqHold := false }) s))
    | .holdover =>
      if s.cad.qual = .free then
        .next (cadNotice (evTime s) 1 0 (onCad (fun c => { c with st := .free }) s))
      else .next s
    | _ => .next s

/-- HOLDOVER_LIMIT: `CAD_HOLD` frames have passed without an adoption (R23). -/
def execHoldoverLimit (t : Nat) (s : State) : Host.Outcome State Fault Refusal := .next (holdLimit (tick t s))

/-- CAD_OUT stays high for `CAD_OUT_WIDTH` µs, or for P/2 if that is shorter (R34). -/
def outHigh (s : State) : Nat := min ((word s Reg.cadOutWidth).toNat * 1000) (s.cad.period / 2)

/-- CAD_OUT_PULSE_END (R34). -/
def execCadOutPulseEnd (t : Nat) (s : State) : Host.Outcome State Fault Refusal :=
  let s := tick t s
  if s.cad.cadOut ∧ s.now - s.cad.cadOutRise ≥ outHigh s then
    .next (emit (.cadOut false) (onCad (fun c => { c with cadOut := false }) s))
  else .next s

/-- FRAME_EXHAUSTED: the boundary that falls due at FRAME 0xFF_FFFF_FFFF, P after the last one or, in LOCKED, at the end of the late
window (R16, R21, R31). -/
def execFrameExhausted (t : Nat) (s : State) : Host.Outcome State Fault Refusal :=
  let s := tick t s
  if s.cad.frame < 0xFFFFFFFFFF ∨ s.cad.exhausted then .next s
  else if s.cad.st = .locked then
    .next (if s.now - s.cad.frameStart > s.cad.period + lateW s then lateExpiry s else s)
  else .next (if s.now - s.cad.frameStart ≥ s.cad.period then boundary (s.cad.frameStart + s.cad.period) s else s)

/-- CADENCE_RECORD_DUE: FRAME is a multiple of 32,768 (R28). -/
def execCadenceRecordDue (t : Nat) (s : State) : Host.Outcome State Fault Refusal :=
  let s := tick t s
  if s.cad.frame % 32768 = 0 then .next (queueCadence s) else .next s

/-! ## PPS and ODO -/

/-- The PPS record of a capture now (R39). -/
def ppsRec (s : State) (seq : Nat) : PpsRec :=
  let first := s.cad.ppsLast.isNone
  let iv := s.now - s.cad.ppsLast.getD s.now
  let interval := if first then 0xFFFFFFFF else min iv 0xFFFFFFFF
  { time := evTime s, interval := interval, seq := seq,
    valid := !first && decide (999800000 ≤ interval) && decide (interval ≤ 1000200000),
    first := first, missed := !first && decide (interval > 1000200000), unlocked := s.cad.qual != .locked }

/-- PPS_CAPTURE (R37). -/
def execPpsCapture (t : Nat) (s : State) : Host.Outcome State Fault Refusal :=
  let s := tick t s
  if !flagOf s Reg.cadCtrl 7 then .next s
  else
    let (supp, _, s) := meet 16 0xFF 0xFFFF false s
    if supp then .next (injDue 16 s)
    else match s.cad.ppsLast with
    | some l =>
      if s.now - l < 500000000 then .next (bumpTally Reg.cadGlitch 21 {} s) else .next (capture s)
    | none => .next (capture s)
where
  /-- Take a capture: the record, the head, the notice of kind 3 and DT16 (R37, R39, R429). -/
  capture (s : State) : State :=
    let fresh := s.cad.pps.isEmpty
    let ix := if fresh then 0 else (s.cad.ppsIndex + 1) % 16
    let seq := if fresh then 0 else (s.cad.ppsSeq + 1) % 65536
    let r := ppsRec s seq
    let s := onCad (fun c => { c with pps := tput ix r c.pps, ppsIndex := ix, ppsSeq := seq, ppsLast := some s.now,
                                      ppsValid := if r.valid then push8 r.interval c.ppsValid else c.ppsValid }) s
    let s := cadNotice r.time 3 ix s
    if !r.first && (r.missed || !r.valid) then raise 16 { loc := ix } s else injPast 16 s

/-- ODO_PULSE: a rising edge that stayed high for `high` ns (R40 to R42). -/
def execOdoPulse (t high : Nat) (s : State) : Host.Outcome State Fault Refusal :=
  let s := tick t s
  if flagOf s Reg.cadCtrl 6 ∧ high ≥ fieldOf s Reg.cadFilt 9 0 * 100 then
    let wraps := decide (ctr s Reg.cadOdoTotalLo + 1 ≥ 2 ^ 48)
    let s := bump Reg.cadOdoTotalLo 1 (onCad (fun c => { c with odoFrame := c.odoFrame + 1 }) s)
    .next (if wraps then cadNotice (evTime s) 7 0 (setFlag Reg.cadStatus 8 s) else s)
  else .next s

/-! ## The incident latch (R43 to R51) -/

/-- The effective pre-window and post-window of input `n` in frames. -/
def preWindow (s : State) (n : Nat) : Nat :=
  min (fieldOf s (if n = 0 then Reg.cadIncCfg0 else Reg.cadIncCfg1) 14 0) (120000000000 / s.cad.period)
def postWindow (s : State) (n : Nat) : Nat :=
  min (fieldOf s (if n = 0 then Reg.cadIncPost0 else Reg.cadIncPost1) 17 0) (600000000000 / s.cad.period)

/-- Fence start and end of an incident edge on input `n` now (R44). DESIGN CHOICE (log 147): an end past the largest FRAME is all ones, as that of
an open fence. -/
def fenceStart (s : State) (n : Nat) : Nat :=
  (evTime s / 2 ^ 24 - preWindow s n) * 2 ^ 24 + evTime s % 2 ^ 24
def fenceStop (s : State) (n : Nat) : Nat :=
  if postWindow s n = 0 then 0xFFFFFFFFFFFFFFFF else min 0xFFFFFFFFFFFFFFFF (evTime s + postWindow s n * 2 ^ 24)

/-- Stream group of input `n`. -/
def incGroup (s : State) (n : Nat) : Nat := fieldOf s (if n = 0 then Reg.cadIncCfg0 else Reg.cadIncCfg1) 31 24

/-- A new fence for an edge on input `n` (R44). -/
def newFence (s : State) (n : Nat) : Fence :=
  { start := fenceStart s n, stop := fenceStop s n, edge := evTime s, group := incGroup s n, inputs := 2 ^ n }

/-- A fence extended by an edge on input `n` (R45). -/
def extendFence (s : State) (n : Nat) (x : Fence) : Fence :=
  { x with start := min x.start (fenceStart s n), stop := fenceStop s n, edge := evTime s, inputs := orBit x.inputs n,
           ended := false }

/-- The slot an incident edge on input `n` falls to, and its entry (R45): an open fence of the group, a free slot, or the
overflow fence. -/
def fenceFor (s : State) (n : Nat) (full : Bool) : Nat × Fence :=
  match tfind (fun k x => decide (k < 16) && !x.ended && x.group == incGroup s n) s.cad.fences with
  | some (k, x) => (k, extendFence s n x)
  | none =>
    match (if full then none else tfree 0 16 s.cad.fences) with
    | some k => (k, newFence s n)
    | none => match tget 16 s.cad.fences with
      | some x => (16, extendFence s n x)
      | none => (16, newFence s n)

/-- A falling edge on input `n` that stays low for `low` ns is an incident edge (R43). -/
def incidentOk (s : State) (n low : Nat) : Bool :=
  decide (n < 2) && nbit (fieldOf s Reg.cadCtrl 10 9) n && decide (low ≥ fieldOf s Reg.cadFilt 23 16 * 100)

/-- An incident edge on input `n` now sets or extends a fence (R45, R46, R50). -/
def incident (n : Nat) (s : State) : State :=
  let (full, ef, s) := meet 20 0xFF 0xFFFF false s
  let (k, x) := fenceFor s n full
  let s := onCad (fun c => { c with fences := tput k x c.fences }) s
  let s := if k = 16 then raiseF 20 {} ef s else s
  cadNotice x.edge 4 k (queueFences s)

/-- How long the edge of input 0 that waits behind this command and falls in the same cycle stays low, if there is one. -/
def edge0Waits (s : State) : Option Nat := s.pending.findSome? fun
  | .incidentEdge t 0 low => if max s.now t = s.now then some low else none
  | _ => none

/-- An edge of input 0 that waits and falls in the same cycle as this edge of input 1 is applied first (R45; log 99). -/
def edge0First (s : State) : State := match edge0Waits s with
  | some low => onCad (fun c => { c with inc0At := some s.now }) (if incidentOk s 0 low then incident 0 s else s)
  | none => s

/-- INCIDENT_EDGE: a falling edge on input `n` that stays low for `low` ns (R43 to R46, R50). An edge of input 0 that was applied with
one of input 1 has had its effect. -/
def execIncidentEdge (t n low : Nat) (s : State) : Host.Outcome State Fault Refusal :=
  let s := tick t s
  if n = 0 ∧ s.cad.inc0At = some s.now then .next s
  else
    let s := if n = 1 then edge0First s else s
    .next (if incidentOk s n low then incident n s else s)

/-- FENCE_END: FRAME has reached the end of the fence in `slot`; a fence of effective post-window 0 has no end (R44). -/
def execFenceEnd (t slot : Nat) (s : State) : Host.Outcome State Fault Refusal :=
  let s := tick t s
  match tget slot s.cad.fences with
  | some x =>
    if !x.ended ∧ x.stop ≠ 0xFFFFFFFFFFFFFFFF ∧ s.cad.frame ≥ x.stop / 2 ^ 24 then
      .next (onCad (fun c => { c with fences := tput slot { x with ended := true } c.fences }) s)
    else .next s
  | none => .next s

/-- CAD_SNAP_NOW (R54). -/
def execCadSnapNow (t : Nat) (s : State) : Host.Outcome State Fault Refusal :=
  let s := tick t s
  .next (snapAll [Reg.cadOdoTotalLo, Reg.cadGlitch] (onCad (fun c => { c with snapTime := evTime s }) s))

end Sys2Proof.Machine
end

