-- ==== Sys2Proof/Machine/Indexer.lean ====
section
/-!
DEFINITION. The Indexer: the parsing of payloads, index entries and the resolution of times and ranges (chapter 06).
-/
namespace Sys2Proof.Machine

/-- What parsing gives: KEY, PARAMS, UNPARSED, UNITS, TYPES and the stream's reduced_still_picture_header afterwards. -/
structure Parse where
  key : Bool := false
  params : Bool := false
  unparsed : Bool := false
  units : Nat := 0
  types : Nat := 0
  still : Bool := false
  deriving DecidableEq, Repr

/-- A payload that failed a check (R232). -/
def unparsed (still : Bool) : Parse := { unparsed := true, still := still }

/-! ## Annex B (R228 to R230) -/

/-- Cut a byte stream at its start codes 00 00 01: what comes before the first, then each unit. `acc` is the present piece,
last byte first. -/
def cutNal (acc : List Byte) : List Byte → List (List Byte)
  | [] => [acc.reverse]
  | b :: t =>
    if b = 1 then match acc with
      | y :: z :: r => if y = 0 ∧ z = 0 then r.reverse :: cutNal [] t else cutNal (b :: acc) t
      | _ => cutNal (b :: acc) t
    else cutNal (b :: acc) t

/-- A unit without its trailing zeros. -/
def trimNal (l : List Byte) : List Byte := (l.reverse.dropWhile (· == 0)).reverse

/-- nal_unit_type and nuh_layer_id of a unit, or nothing if a check of R232 fails. -/
def nalType (codec : Nat) (l : List Byte) : Option (Nat × Nat) := match l with
  | [] => none
  | a :: t =>
    if a.toNat ≥ 128 then none
    else if codec = 1 then some (a.toNat % 32, 0)
    else match t with
      | [] => none
      | b :: _ => if b.toNat % 8 = 0 then none else some (a.toNat / 2 % 64, a.toNat % 2 * 32 + b.toNat / 8)

/-- Types of the units with layer 0, or nothing if any unit fails a check. -/
def nalTypes (codec : Nat) : List (List Byte) → Option (List Nat)
  | [] => some []
  | u :: t => match nalType codec (trimNal u), nalTypes codec t with
    | some (ty, layer), some r => some (if layer = 0 then ty :: r else r)
    | _, _ => none

/-- A NAL unit type that sets KEY, and the types that PARAMS needs (R229, R230). -/
def nalKey (codec ty : Nat) : Bool := if codec = 1 then ty == 5 else decide (16 ≤ ty) && decide (ty ≤ 21)
def nalParams (codec : Nat) : List Nat := if codec = 1 then [7, 8] else [32, 33, 34]

/-- Parse an Annex B payload. -/
def parseNal (codec : Nat) (still : Bool) (p : List Byte) : Parse := match cutNal [] p with
  | [] => { still := still }
  | pre :: us =>
    if pre.any (· != 0) then unparsed still
    else match nalTypes codec us with
      | none => unparsed still
      | some tys =>
        { key := tys.any (nalKey codec), params := (nalParams codec).all tys.contains, units := min us.length 65535,
          still := still }

/-! ## AV1 (R231) -/

/-- A leb128 value and the bytes after it. -/
def leb128 : Nat → List Byte → Option (Nat × List Byte)
  | 0, _ => none
  | _, [] => none
  | n + 1, b :: t =>
    if b.toNat < 128 then some (b.toNat, t)
    else match leb128 n t with
      | some (v, r) => some (b.toNat - 128 + 128 * v, r)
      | none => none

/-- One OBU with type `ty` and payload `p` acting on the result so far, `x` being the bit taken where a sequence header
holds no byte. Nothing if it ends before the bits that are read. -/
def actObu (x : Bool) (ty : Nat) (p : List Byte) (r : Parse) : Option Parse :=
  if ty = 1 then
    some { r with params := true, still := match p with | a :: _ => nbit a.toNat 3 | [] => x }
  else if ty = 3 ∨ ty = 6 then
    if r.still then some { r with key := true }
    else match p with
      | [] => none
      | a :: _ => some { r with key := r.key || (!nbit a.toNat 7 && a.toNat / 32 % 4 == 0 && nbit a.toNat 4) }
  else some r

/-- Parse OBUs, at most `fuel` of them. -/
def parseObus (x : Bool) : Nat → List Byte → Parse → Parse
  | 0, _, r => r
  | _, [], r => r
  | fuel + 1, h :: t, r =>
    if h.toNat ≥ 128 then unparsed r.still
    else
      let ext := nbit h.toNat 2
      let sized := nbit h.toNat 1
      let spatial := if ext then (match t with | e :: _ => e.toNat / 8 % 4 | [] => 0) else 0
      let body := if ext then t.drop 1 else t
      if ext && t.isEmpty then unparsed r.still
      else
        let cut := if sized then
            match leb128 8 body with
            | some (n, q) => if n ≤ q.length then some (q.take n, q.drop n) else none
            | none => none
          else some (body, [])
        match cut with
        | none => unparsed r.still
        | some (p, rest) =>
          let r' := { r with units := min 65535 (r.units + 1) }
          match (if spatial ≠ 0 then some r' else actObu x (h.toNat / 8 % 16) p r') with
          | none => unparsed r.still
          | some r' => parseObus x fuel rest r'

/-! ## Telemetry -/

/-- Parse telemetry items, at most `fuel` of them. A payload that ends inside an item's padding counts as one whose item
runs past the end. DEDUCED (log 12). -/
def parseItems (still : Bool) : Nat → List Byte → Parse → Parse
  | 0, _, r => r
  | fuel + 1, p, r =>
    if p.isEmpty then r
    else if p.length < 4 then unparsed still
    else
      let ty := fld p 0 2
      let ln := fld p 2 2
      let n := 4 + cdiv ln 4 * 4
      if ty = 0 ∨ n > p.length ∨ (slice p (4 + ln) (n - 4 - ln)).any (· != 0) then unparsed still
      else parseItems still fuel (p.drop n) { r with units := min 65535 (r.units + 1), types := orBit r.types (min ty 15) }

/-- Parse a payload as CODEC directs (R226 to R232). `hostKey` is HFLAGS.KEY. -/
def parse (codec : Nat) (hostKey still x : Bool) (p : List Byte) : Parse :=
  if codec = 0 then { key := hostKey, params := true, still := still }
  else if codec = 1 ∨ codec = 2 then parseNal codec still p
  else if codec = 3 then parseObus x p.length p { still := still }
  else parseItems still p.length p { key := true, params := true, still := still }

/-- IFLAGS of an entry (R234). -/
def iflagsOf (r : Parse) (hostKey : Bool) : Nat := flags [r.key, r.params, r.key && r.params, r.unparsed, hostKey]

/-- Records from record `n` back to the last ENTRY of its run, if it has one (R236). -/
def farOf (x : Strm) (n : Nat) (r : Parse) : Option Nat :=
  if r.key && r.params then some 0
  else if n = 0 then none
  else ((tget (n - 1) x.recs).bind (·.far)).map (· + 1)

/-- BACK of record `n` (R236). -/
def backOf (s : State) (x : Strm) (n : Nat) (r : Parse) : Nat :=
  if r.key && r.params then 0
  else if n = 0 then 0xFFFF
  else match tget (n - 1) x.recs with
    | some q => if q.back ≠ 0xFFFF ∧ q.back + 1 ≤ (word s Reg.idxSnapMax).toNat then q.back + 1 else 0xFFFF
    | none => 0xFFFF

/-! ## Resolution (R237, R238) -/

/-- The key-frame record of `n`, and whether the selection stayed (R237). -/
def snap (x : Strm) (n : Nat) : Nat × Bool := match tget n x.recs with
  | some r =>
    if r.back ≠ 0xFFFF ∧ r.back ≤ n ∧ (tget (n - r.back) x.recs).isSome then (n - r.back, false) else (n, true)
  | none => (n, true)

/-- The last record of the run that holds `n`. -/
def runEnd (x : Strm) : Nat → Nat → Nat
  | 0, n => n
  | fuel + 1, n => if (tget (n + 1) x.recs).isSome then runEnd x fuel (n + 1) else n

/-- END_STAMP of the run that holds `n` (R235). -/
def endStampOf (x : Strm) (n : Nat) : Nat := match tget (runEnd x x.recs.length n) x.recs with
  | some r => r.endStamp
  | none => 0

/-- The newest stored record with STAMP at or before `T`. -/
def newestAt (x : Strm) (T : Nat) : Option (Nat × Rec) :=
  x.recs.foldl (fun b p => if p.2.stamp ≤ T then some p else b) none

/-- One frame in Evidence Time (R120). -/
def oneFrame : Nat := 2 ^ 24

/-- Resolution of a time: a status, or the record selected (R238). -/
def resolve (x : Strm) (T : Nat) : Nat × Nat :=
  if x.recs.isEmpty then (0x0204, 0)
  else match newestAt x T with
    | none => (0x0205, 0)
    | some (n, r) =>
      if endStampOf x n ≠ 0 ∧ T ≥ endStampOf x n then (0x0207, 0)
      else if n + 1 = x.next ∧ T > r.stamp + oneFrame then (0x0206, 0)
      else (0, n)

/-- Snap `n` unless NOSNAP, counting a selection that stays in `IDX_STAYn` (R237). -/
def snapSel (k : Nat) (nosnap : Bool) (n : Nat) (s : State) : Nat × State := match strmOf s k with
  | none => (n, s)
  | some x =>
    if nosnap then (n, s)
    else
      let (m, stay) := snap x n
      (m, if stay then bump (Reg.idxStayLo x.seg) 1 s else s)

/-- IDX_SNAP_NOW (R244). -/
def execIdxSnapNow (t n : Nat) (s : State) : Host.Outcome State Fault Refusal :=
  .next (strobe n (Reg.idxSnap n) (tick t s))

end Sys2Proof.Machine
end

