-- ==== Sys2Proof/Machine/Rings.lean ====
section
/-!
DEFINITION. Functions, rings, Pips, the sweep and function reset (chapter 02).
-/
namespace Sys2Proof.Machine

/-! ## Functions and quotas (R57 to R64) -/

/-- A function's quotas are reserved: its STATE is ready or resetting (R57, R63). -/
def reserves (e : Func) : Bool := e.st == .ready || e.st == .resetting

/-- What is left unreserved of a pool of `total`, `g` being the quota taken from each function (R57). -/
def poolFree (s : State) (total : Nat) (g : Func → Nat) : Nat :=
  total - tsum (fun _ e => if reserves e then g e else 0) s.rge.funcs

def slotFree (s : State) : Nat := poolFree s 65536 (·.slots)
def sqFree (s : State) : Nat := poolFree s 4096 (·.sq)
def cqFree (s : State) : Nat := poolFree s 4096 (·.cq)
def vecFree (s : State) : Nat := poolFree s 4096 (·.vectors)
def streamFree (s : State) : Nat := poolFree s 8192 (·.streams)

/-- The first resource, in the order of the ERROR values, whose quota lies outside its range or whose pool is short, or
0 (R59). -/
def quotaError (s : State) (e : Func) : Nat :=
  if e.slots < 1 ∨ e.slots > 65536 ∨ e.slots > slotFree s then 1
  else if e.sq < 1 ∨ e.sq > 4096 ∨ e.sq > sqFree s then 2
  else if e.cq < 2 ∨ e.cq > 4096 ∨ e.cq > cqFree s then 3
  else if e.vectors < 1 ∨ e.vectors > 2048 ∨ e.vectors > vecFree s then 4
  else if e.streams > 8192 ∨ e.streams > streamFree s then 5
  else 0

/-- Post a Function notice (02). -/
def fnNotice (f fevent err : Nat) (s : State) : State :=
  post 0 0x05 f (pack [(2, f), (1, fevent), (1, err), (12, 0)]) s

/-- The function table takes no write: RGE is locked, or only function 0 exists (R64, R828, R829). -/
def fnTableShut (s : State) (f : Nat) : Bool := flagOf s Reg.rgeCtrl 31 || ((s.boot.plain || rescue s) && f != 0)

/-- The bits of a CTL write beside ENABLE: S_ALLOWED, and reserved bits (R58, R8). DESIGN CHOICE (log 101): S_ALLOWED takes effect in every
STATE, though a write of 1 to a ready or resetting function changes nothing else (R63). -/
def ctlRest (f ctl : Nat) (s : State) : State :=
  let s := onFunc f (fun e => { e with sAllowed := nbit ctl 1 }) s
  if ctl / 4 % 64 ≠ 0 then setRsvd Reg.rgeStatus s else s

/-- A function becomes ready: FN_SALT is drawn, at once or when the random generator gives output again (R496, R505). -/
def drawSalt (f : Nat) (s : State) : State :=
  if rngReady s then
    let (b, s) := random 16 s
    { s with cry := { s.cry with fnSalts := tput f b s.cry.fnSalts } }
  else s

/-- FUNCTION_ENABLE: CTL of function `f` is written with bit 0 set (R59, R63). -/
def execFunctionEnable (t f ctl : Nat) (s : State) : Host.Outcome State Fault Refusal :=
  let s := tick t s
  if fnTableShut s f then .next s
  else
    let s := ctlRest f ctl s
    let e := funcOf s f
    if reserves e then .next s
    else
      let err := quotaError s e
      if err = 0 then
        .next (fnNotice f 1 0 (drawSalt f (onFunc f (fun e => { e with enable := true, st := .ready, err := 0, disabling := false }) s)))
      else .next (fnNotice f 2 err (onFunc f (fun e => { e with enable := false, st := .refused, err := err }) s))

/-- The commands in flight of a function. -/
def flightsOf (s : State) (f : Nat) : Tab Flight := tfilter (fun _ c => c.fn == f) s.rge.flights

/-- Steps 1 to 5 of a function reset (R99): STATE 3, the notice of FEVENT 3, no fetching, and every command that has not
begun to move data abandoned, runs too (R626). A further cause joins a reset in progress. -/
def resetFunction (f : Nat) (s : State) : State :=
  if (funcOf s f).st != .ready then s
  else
    let s := onFunc f (fun e => { e with st := .resetting, held := [], deleting := none }) s
    let s := dropRuns f (fnNotice f 3 0 s)
    let s := (tkeys (tfilter (fun _ c => c.fn == f && !c.begun) s.rge.flights)).foldl (fun s id => endBoundFailed id s) s
    dropFlights (fun _ c => c.fn == f && !c.begun) s

/-- FUNCTION_DISABLE: CTL of function `f` is written with bit 0 clear (R62, R63). DESIGN CHOICE (log 101): ENABLE reads 1 until the reset
that this starts has ended. -/
def execFunctionDisable (t f ctl : Nat) (s : State) : Host.Outcome State Fault Refusal :=
  let s := tick t s
  if fnTableShut s f then .next s
  else
    let s := ctlRest f ctl s
    if f = 0 then .next s
    else match (funcOf s f).st with
      | .ready => .next (resetFunction f (onFunc f (fun e => { e with disabling := true }) s))
      | .resetting => .next (onFunc f (fun e => { e with disabling := true }) s)
      | .refused => .next (onFunc f (fun e => { e with st := .absent, err := 0, enable := false }) s)
      | .absent => .next s

/-- Range of a quota (R58). -/
def quotaRange : Quota → Nat × Nat
  | .slots => (1, 65536) | .sq => (1, 4096) | .cq => (2, 4096) | .vectors => (1, 2048) | .streams => (0, 8192)

/-- Read and write a quota of an entry. -/
def getQuota : Quota → Func → Nat
  | .slots, e => e.slots | .sq, e => e.sq | .cq, e => e.cq | .vectors, e => e.vectors | .streams, e => e.streams
def putQuota : Quota → Nat → Func → Func
  | .slots, v, e => { e with slots := v } | .sq, v, e => { e with sq := v } | .cq, v, e => { e with cq := v }
  | .vectors, v, e => { e with vectors := v } | .streams, v, e => { e with streams := v }

/-- What is free of the pool that a quota draws on. -/
def quotaFree (s : State) : Quota → Nat
  | .slots => slotFree s | .sq => sqFree s | .cq => cqFree s | .vectors => vecFree s | .streams => streamFree s

/-- A function has a ring created. -/
def hasRing (s : State) (f : Nat) : Bool := tany (fun _ r => r.fn == f) s.rge.rings

/-- QUOTA_WRITE: a quota field of function `f`'s entry is written (R60, R62). -/
def execQuotaWrite (t f : Nat) (q : Quota) (v : Nat) (s : State) : Host.Outcome State Fault Refusal :=
  let s := tick t s
  if fnTableShut s f then .next s
  else
    let e := funcOf s f
    let busy := setFlag Reg.rgeStatus 30 s
    let out := decide (v < (quotaRange q).1) || decide (v > (quotaRange q).2)
    if reserves e ∧ (f ≠ 0 ∨ hasRing s 0) then .next (if out then setRsvd Reg.rgeStatus busy else busy)
    else if out then .next (setRsvd Reg.rgeStatus s)
    else if f = 0 ∧ v > getQuota q e + quotaFree s q then .next busy
    else .next (onFunc f (putQuota q v) s)

/-! ## Ring creation and deletion (R65 to R70, R836) -/

/-- Kind, class and link of the staging registers. -/
def kindOf (n : Nat) : RingKind := match n with
  | 0 => .sub | 1 => .cmp | 2 => .tag | _ => .evt
def clsOf (n : Nat) : Cls := match n with
  | 0 => .s | 1 => .a | 2 => .b | 3 => .z | _ => .admin

/-- The ring that the staging registers of function `f` describe at index `i`. -/
def stagedRing (s : State) (f i : Nat) : Ring :=
  let cfg := word s (Reg.fnRingCfg f)
  let lnk := word s (Reg.fnRingLink f)
  let vec := word s (Reg.fnRingVec f)
  let coal := word s (Reg.fnRingCoal f)
  { fn := f, idx := i, kind := kindOf (bits cfg 1 0), cls := clsOf (bits cfg 10 8),
    base := (word s (Reg.fnRingBaseHi f)).toNat * 2 ^ 32 + bits (word s (Reg.fnRingBaseLo f)) 31 12 * 4096,
    depth := bits cfg 31 16 + 1, cq := bits lnk 31 20, tag := bits lnk 19 8, tagEn := bits lnk 7 7 == 1,
    vec := bits vec 10 0, intEn := bits vec 31 31 == 1, coalTime := bits coal 15 8, coalCount := bits coal 7 0,
    global := 0 }

/-- The lowest device-wide number free in a ring's pool. DESIGN CHOICE (log 8). -/
def freeGlobal (s : State) (sub : Bool) : Nat :=
  (firstBelow (fun g => !tany (fun _ r => (r.kind == .sub) == sub && r.global == g) s.rge.rings) 4096).getD 0

/-- The quota of the pool that a ring draws on. -/
def poolQuota (s : State) (f : Nat) (sub : Bool) : Nat := if sub then (funcOf s f).sq else (funcOf s f).cq

/-- A ring of the function with this key, of this kind. -/
def isKind (s : State) (f i : Nat) (k : RingKind) : Bool := match ringOf s (ringKey f false i) with
  | some r => r.kind == k
  | none => false

/-- Code 5 of R67: the links of a SUB ring are invalid. -/
def linkBad (s : State) (r : Ring) : Bool :=
  r.kind == .sub &&
    (!isKind s r.fn r.cq .cmp
      || (r.tagEn && (r.cls != .s || !isKind s r.fn r.tag .tag
          || (match ringOf s (ringKey r.fn false r.tag) with | some q => q.depth != r.depth | none => true)
          || tany (fun _ q => q.fn == r.fn && q.kind == .sub && q.tagEn && q.tag == r.tag) s.rge.rings)))

/-- The function is not ready, or rings may not be created yet (R67 code 11, R776). -/
def ringsShut (s : State) (f : Nat) : Bool := !fnReady s f || s.boot.plain || !s.boot.cfgReady || (rescue s && f != 0)

/-- The result code of a create: the first condition of R67 that holds. -/
def createCode (s : State) (f i : Nat) (r : Ring) : Nat :=
  let sub := r.kind == .sub
  if i ≥ poolQuota s f sub then 1
  else if (ringOf s (ringKey f sub i)).isSome then 2
  else if r.depth < 2 ∨ (sub ∧ fieldOf s (Reg.fnRingCfg f) 10 8 > 4) then 4
  else if linkBad s r then 5
  else if r.kind = .evt ∧ tany (fun _ q => q.fn == f && q.kind == .evt) s.rge.rings then 7
  else if sub ∧ ((i = 0) ≠ (r.cls = .admin)) then 8
  else if sub ∧ r.cls = .s ∧ !(funcOf s f).sAllowed then 9
  else if !sub ∧ r.vec ≥ (funcOf s f).vectors then 10
  else if ringsShut s f then 11
  else 0

/-- Write `FN_RING_RESULT` (CODE, GLOBAL). DESIGN CHOICE (log 102): GLOBAL is 0 after a command that fails and after a delete. -/
def ringResult (f code global : Nat) (s : State) : State :=
  onFunc f (fun e => { e with resCode := code, resGlobal := global }) s

/-- `FN_RING_CMD` is written while BUSY reads 1: ignored, with BUSY_WR set (R836). -/
def ringBusy (s : State) (f : Nat) : Bool := (funcOf s f).deleting.isSome

/-- RING_CREATE: OP 1 with index `i` (R67, R68). In the Plain personality the registers ignore writes (R56). -/
def execRingCreate (t f i : Nat) (s : State) : Host.Outcome State Fault Refusal :=
  let s := tick t s
  if s.boot.plain then .next s
  else if ringBusy s f then .next (setFlag (Reg.fnStatus f) 30 s)
  else
    let r := stagedRing s f i
    let code := createCode s f i r
    if code ≠ 0 then .next (ringResult f code 0 s)
    else
      let g := freeGlobal s (r.kind == .sub)
      .next (ringResult f 0 g (onRge (fun q => { q with rings := tput (ringKey f (r.kind == .sub) i) { r with global := g } q.rings }) s))

/-- Some SUB ring of the function names completion-pool ring `i` (R67 code 6). -/
def namedBySub (s : State) (f i : Nat) : Bool :=
  tany (fun _ r => r.fn == f && r.kind == .sub && (r.cq == i || (r.tagEn && r.tag == i))) s.rge.rings

/-- Free a ring. -/
def freeRing (k : Nat) (s : State) : State := onRge (fun r => { r with rings := tdel k r.rings }) s

/-- Commands in flight that came from a SUB ring. -/
def ringFlights (s : State) (f i : Nat) : Nat := tcount (fun _ c => c.fn == f && c.ring == i) s.rge.flights

/-- RING_DELETE: OP 2 for index `i` of the submission pool (`sub`) or the completion pool (R69). -/
def execRingDelete (t f : Nat) (sub : Bool) (i : Nat) (s : State) : Host.Outcome State Fault Refusal :=
  let s := tick t s
  if s.boot.plain then .next s
  else if ringBusy s f then .next (setFlag (Reg.fnStatus f) 30 s)
  else
    let k := ringKey f sub i
    if i ≥ poolQuota s f sub then .next (ringResult f 1 0 s)
    else if (ringOf s k).isNone then .next (ringResult f 3 0 s)
    else if !sub ∧ namedBySub s f i then .next (ringResult f 6 0 s)
    else if ringsShut s f then .next (ringResult f 11 0 s)
    else if sub ∧ ringFlights s f i > 0 then
      .next (onRing k (fun r => { r with deleting := true }) (onFunc f (fun e => { e with deleting := some i }) s))
    else .next (ringResult f 0 0 (freeRing k s))

/-- RING_DELETE_DONE: the last command fetched from the deleted SUB ring has posted (R69). -/
def execRingDeleteDone (t f : Nat) (s : State) : Host.Outcome State Fault Refusal :=
  let s := tick t s
  match (funcOf s f).deleting with
  | some i =>
    if ringFlights s f i = 0 then
      .next (ringResult f 0 0 (onFunc f (fun e => { e with deleting := none }) (freeRing (ringKey f true i) s)))
    else .next s
  | none => .next s

/-- Code of a ring kind and of a class. -/
def RingKind.code : RingKind → Nat
  | .sub => 0 | .cmp => 1 | .tag => 2 | .evt => 3
def Cls.code : Cls → Nat
  | .s => 0 | .a => 1 | .b => 2 | .z => 3 | .admin => 4

/-- Load the staging registers with a ring's configuration (R70). -/
def loadStaging (f : Nat) (r : Ring) (s : State) : State :=
  let put := fun (a v : Nat) (s : State) => setWord a (BitVec.ofNat 32 v) s
  put (Reg.fnRingCoal f) (r.coalTime * 256 + r.coalCount)
    (put (Reg.fnRingVec f) (b2n r.intEn * 2 ^ 31 + r.vec)
      (put (Reg.fnRingLink f) (r.cq * 2 ^ 20 + r.tag * 256 + b2n r.tagEn * 128)
        (put (Reg.fnRingCfg f) ((r.depth - 1) * 65536 + r.cls.code * 256 + r.kind.code)
          (put (Reg.fnRingBaseHi f) (r.base / 2 ^ 32) (put (Reg.fnRingBaseLo f) (r.base % 2 ^ 32) s)))))

/-- RING_QUERY: OP 3 (R70). DESIGN CHOICE (log 103): a stopped ring, which accepts only deletion, is refused with code 11 (R835). -/
def execRingQuery (t f : Nat) (sub : Bool) (i : Nat) (s : State) : Host.Outcome State Fault Refusal :=
  let s := tick t s
  if s.boot.plain then .next s
  else if ringBusy s f then .next (setFlag (Reg.fnStatus f) 30 s)
  else if i ≥ poolQuota s f sub then .next (ringResult f 1 0 s)
  else match ringOf s (ringKey f sub i) with
    | none => .next (ringResult f 3 0 s)
    | some r =>
      if ringsShut s f ∨ r.stopped then .next (ringResult f 11 0 s) else .next (ringResult f 0 r.global (loadStaging f r s))

/-- DOORBELL_BASE_WRITE: `FN_DB_HI` (`hi`) or `FN_DB_LO` is written (R71, R73). -/
def execDoorbellBaseWrite (t f : Nat) (hi : Bool) (v : Word) (be : Nat) (s : State) :
    Host.Outcome State Fault Refusal :=
  let s := tick t s
  let a := if hi then Reg.fnDbHi f else Reg.fnDbLo f
  if s.boot.plain then .next s
  else if hasRing s f then .next (flagReserved a v be (setFlag (Reg.fnStatus f) 30 s))
  else
    let s := writeCommon a v be s
    .next (if fnReady s f then onFunc f (fun e => { e with dbSet := true }) s else s)

/-! ## Pips and the sweep (R74 to R80) -/

/-- Slots that a move of the tail from `a` to `b` makes fetchable. -/
def span (d a b : Nat) : Nat := (b + d - a) % d

/-- Post a Ring notice to the owning function (R95). -/
def ringNotice (r : Ring) (event status addr : Nat) (s : State) : State :=
  post r.fn 0x04 r.fn (ringPayload r event status addr) s

/-- A bad Pip: counted, DT10 raised, Ring notice with EVENT 3 (R78). Where it names no ring, the notice's GLOBAL and RKIND are
free values (log 91). In a bypass window it is only raised (R428). -/
def badPip (f i kind : Nat) (ef : Nat) (s : State) : State :=
  let g := match (if kind > 1 then none else ringOf s (ringKey f (kind == 0) i)) with | some r => (r.global, r.kind.code) | none => (freeVal s, freeVal (draw s))
  if bypassed s 10 then raiseF 10 { func := f } ef s else
  let s := raiseF 10 { func := f } ef (bumpTallyQuiet (Reg.fnPipBad f) (draw (draw s)))
  post f 0x04 f (pack [(2, i), (2, g.1), (1, g.2), (1, 3), (2, 0), (8, 0)]) s

/-- Move the known tail of a SUB ring (R76). -/
def moveTail (k pos : Nat) (swept : Bool) (s : State) : State :=
  onRing k (fun r => { r with known := pos, since := if r.known = r.dev then some s.now else r.since,
                              arr := r.arr ++ [{ first := r.known, count := span r.depth r.known pos, at_ := s.now, swept := swept }] }) s

/-- What a position does to a SUB ring (R76): duplicate or stale (false), or a move of T (true). -/
def tailMoves (r : Ring) (pos : Nat) : Bool :=
  pos != r.known && decide (span r.depth r.dev pos ≥ span r.depth r.dev r.known)

/-- A head position a CMP or EVT ring accepts (R77). -/
def headOk (r : Ring) (pos : Nat) : Bool := decide (span r.depth r.known pos ≤ span r.depth r.known r.dev)

/-- A Pip of KIND 0 at a good ring (R76, R835). -/
def pipTail (f k : Nat) (r : Ring) (pos : Nat) (s : State) : State :=
  if r.stopped then s
  else if tailMoves r pos then bump (Reg.fnPipOkLo f) 1 (moveTail k pos false s)
  else bump (Reg.fnPipDupLo f) 1 s

/-- Write held notices to a function's EVT ring while it has room, oldest first (R94). -/
def flushHeld (f : Nat) : Nat → State → State
  | 0, s => s
  | n + 1, s =>
    match (funcOf s f).held, evtRing s f with
    | x :: rest, some (k, r) =>
      if !noticesWait s && decide (ringRoom r > 0) then
        flushHeld f n (writeNotice k r x (onFunc f (fun e => { e with held := rest }) s))
      else s
    | _, _ => s

/-- A Pip of KIND 1 at a good ring that accepts the head (R77). -/
def pipHead (f k : Nat) (r : Ring) (pos : Nat) (s : State) : State :=
  if r.stopped then s
  else bump (if pos = r.known then Reg.fnPipDupLo f else Reg.fnPipOkLo f) 1 (onRing k (fun q => { q with known := pos }) s)

/-- A Pip: word `w` written to function `f`'s Pip window with byte enables `be` (R74 to R78). -/
def pip (f : Nat) (w : Word) (be : Nat) (s : State) : State :=
  let i := bits w 11 0
  let pos := bits w 31 16
  let kind := bits w 15 14
  if (funcOf s f).st == .resetting || s.boot.plain then s
  else
    let (inj, ef, s) := if f = 0 then meet 10 0xFF 0xFFFF false s else (false, 0, s)
    let s := if inj && bypassed s 10 then badPip f i kind ef s else s
    let ef := if bypassed s 10 then 0 else ef
    if (inj && !bypassed s 10) || be % 16 != 15 || !fnReady s f || decide (kind > 1) then badPip f i kind ef s
    else match ringOf s (ringKey f (kind == 0) i) with
      | none => badPip f i kind ef s
      | some r =>
        if r.stopped then s
        else if bits w 13 12 != 0 || r.kind == .tag || decide (pos ≥ r.depth) then badPip f i kind ef s
        else if kind = 0 then pipTail f (ringKey f true i) r pos s
        else if headOk r pos then pipHead f (ringKey f false i) r pos s
        else badPip f i kind ef s

/-- PIP_SUBMISSION_TAIL (R76). -/
def execPipSubmissionTail (t f : Nat) (w : Word) (be : Nat) (s : State) : Host.Outcome State Fault Refusal :=
  .next (pip f w be (tick t s))

/-- PIP_COMPLETION_HEAD (R77). -/
def execPipCompletionHead (t f : Nat) (w : Word) (be : Nat) (s : State) : Host.Outcome State Fault Refusal :=
  .next (pip f w be (tick t s))

/-- One doorbell value that the sweep reads: applied as a Pip would be, a bad one ignored (R79, R80). -/
def sweepOne (s : State) (d : DoorbellRead) : State :=
  let k := ringKey d.f d.sub d.idx
  let pos := d.value % 65536
  match ringOf s k with
  | none => s
  | some r =>
    if !(fnReady s d.f && (funcOf s d.f).dbSet) || r.stopped || r.kind == .tag || decide (pos ≥ r.depth) then s
    else if d.sub then
      if tailMoves r pos then
        bump (Reg.fnSweepFoundLo d.f) 1 (moveTail k pos true s)
      else s
    else if headOk r pos then onRing k (fun q => { q with known := pos }) s
    else s

/-- A sweep is due: 50 µs have passed since the last one started, or RINDX has woken since from S2 or S3 (R79, DOZE). -/
def sweepDue (s : State) : Bool :=
  decide (s.pwr.rindSleep < 2) && !s.boot.plain
    && (decide (s.now - s.rge.lastSweep ≥ 50000) || decide (tgetD 0 rindx s.pwr.sleepAt > s.rge.lastSweep))

/-- The sweep's read of the entries of the ring with key `k`. An entry that the operand does not list has not changed since the Ring
Engine last learned of it (log 104). -/
def sweepRing (reads : List DoorbellRead) (s : State) (k : Nat) : State :=
  match reads.find? fun d => ringKey d.f d.sub d.idx == k with
  | some d => sweepOne s d
  | none => s

/-- SWEEP: the doorbell entries of every created ring are read; `reads` is what they hold (R79, R80). The sweep does not run while RINDX is
in S2 or S3. -/
def execSweep (t : Nat) (reads : List DoorbellRead) (s : State) : Host.Outcome State Fault Refusal :=
  let s := tick t s
  if sweepDue s then .next ((tkeys s.rge.rings).foldl (sweepRing reads) (onRge (fun r => { r with lastSweep := s.now }) s))
  else .next s

/-! ## Stopped rings, held notices, coalescing (R94, R98, R835) -/

/-- Stop a ring whose own memory could not be read or written: DT11 and a Ring notice, but in a bypass window only DT11 (R428, R835). -/
def stopRing (k event addr : Nat) (ef : Nat) (s : State) : State := match ringOf s k with
  | none => s
  | some r =>
    let s := raiseF 11 { unit := r.idx, func := r.fn, loc := addr } ef s
    if bypassed s 11 then s else ringNotice r event 0x0108 addr (onRing k (fun q => { q with stopped := true }) s)

/-- Commands in flight that came from the ring, or whose completion is due on it (R835). -/
def dueOn (s : State) (r : Ring) : Nat :=
  tcount (fun _ c => c.fn == r.fn && (if r.kind == .sub then c.ring == r.idx else
    match ringOf s (ringKey r.fn true c.ring) with
    | some q => q.cq == r.idx || (q.tagEn && q.tag == r.idx)
    | none => false)) s.rge.flights

/-- RING_STOPPED_NOTICE: no command of stopped ring `i` remains in flight, so EVENT 4 is posted, once. With `bad` the failure of a post to
the ring's own memory has come in, and the ring stops; DESIGN CHOICE: ADDR of the notice and WHERE of DT11 are then the ring's base (R835; log
105). -/
def execRingStoppedNotice (t f : Nat) (sub : Bool) (i : Nat) (bad : Bool) (s : State) : Host.Outcome State Fault Refusal :=
  let s := tick t s
  let k := ringKey f sub i
  match ringOf s k with
  | some r =>
    if bad ∧ !sub ∧ !r.stopped then .next (stopRing k 2 r.base 0 s)
    else if r.stopped ∧ !r.quiet ∧ dueOn s r = 0 then .next (ringNotice r 4 0 0 (onRing k (fun q => { q with quiet := true }) s))
    else .next s
  | none => .next s

/-- NOTICE_WRITE_HELD: a function's EVT ring has room for held notices (R94). -/
def execNoticeWriteHeld (t f : Nat) (s : State) : Host.Outcome State Fault Refusal :=
  let s := tick t s
  .next (flushHeld f (funcOf s f).held.length s)

/-- COALESCE_TIMER: TIME µs since the first counting entry of ring `i` (R98). -/
def execCoalesceTimer (t f i : Nat) (s : State) : Host.Outcome State Fault Refusal :=
  let s := tick t s
  let k := ringKey f false i
  match ringOf s k with
  | some r => match r.coalFirst with
    | some t0 =>
      if r.coalTime ≠ 0 ∧ s.now - t0 ≥ r.coalTime * 1000 then
        .next (sendVector f r.vec (onRing k (fun q => { q with coalN := 0, coalFirst := none }) s))
      else .next s
    | none => .next s
  | none => .next s

/-! ## Function reset (R99) -/

/-- Reset every virtual function that is ready. -/
def resetVfs (p : Nat → Bool) (s : State) : State :=
  ((tkeys s.rge.funcs).filter fun f => f != 0 && p f).foldl (fun s f => resetFunction f s) s

/-- FUNCTION_LEVEL_RESET: of function 0 it resets every virtual function too, and clears VF Enable (R99). -/
def execFunctionLevelReset (t f : Nat) (s : State) : Host.Outcome State Fault Refusal :=
  let s := tick t s
  if f = 0 then .next (resetFunction 0 (onRge (fun r => { r with vfEnable := false }) (resetVfs (fun _ => true) s)))
  else .next (resetFunction f s)

/-- SRIOV_VF_CHANGE: VF Enable and NumVFs are written in configuration space (R61, R99). In RESCUE a write of 1 to VF Enable
is ignored, and in the Plain personality no virtual function can be enabled (R56). -/
def execSriovVfChange (t : Nat) (ve : Bool) (num : Nat) (s : State) : Host.Outcome State Fault Refusal :=
  let s := tick t s
  let ve := ve && !rescue s && !s.boot.plain
  let old := s.rge
  let s := if old.vfEnable then resetVfs (fun f => decide (f ≤ old.numVfs) && (!ve || decide (f > num))) s else s
  .next (onRge (fun r => { r with vfEnable := ve, numVfs := num }) s)

/-- The registers of function `f`'s BAR0 blocks return to their reset values, and its MSI-X table is reset (step 6). -/
def clearBar0 (f : Nat) (s : State) : State :=
  { s with regs := tfilter (fun a _ => decide (a < bar0 f) || decide (a ≥ bar0 (f + 1))) s.regs,
           ctrs := tfilter (fun a _ => decide (a < bar0 f) || decide (a ≥ bar0 (f + 1))) s.ctrs,
           snaps := tfilter (fun a _ => decide (a < bar0 f) || decide (a ≥ bar0 (f + 1))) s.snaps,
           rge := { s.rge with rings := tfilter (fun _ r => r.fn != f) s.rge.rings,
                               msix := tfilter (fun v _ => v / 4096 != f) s.rge.msix,
                               pba := s.rge.pba.filter fun v => v / 4096 != f } }

/-- What the function's reset clears beside its registers: saved contexts, function key and export key, export contexts and the
selections of Recalls (R224, R479); and of function 0 the Plain controller's queues. -/
def clearFn (f : Nat) (s : State) : State :=
  let s := freeContexts (fun _ y => y.page == f) s
  { s with cry := { s.cry with expKeys := tdel f s.cry.expKeys, fnSalts := tdel f s.cry.fnSalts }
           cmd := { s.cmd with exports := (s.cmd.exports.filter fun x => x.fn != f), sels := (s.cmd.sels.filter fun x => x.fn != f),
                               nvme := if f = 0 then {} else s.cmd.nvme } }

/-- FUNCTION_RESET_DONE: the in-flight work of the function has ended (steps 6 to 8 of R99, R63). DESIGN CHOICE (log 106): the function's
notice sequence and its count of discarded notices go on across the reset; a function's first SEQ is 0. -/
def execFunctionResetDone (t f : Nat) (s : State) : Host.Outcome State Fault Refusal :=
  let s := tick t s
  let e := funcOf s f
  if e.st = .resetting ∧ (flightsOf s f).isEmpty then
    let s := clearFn f (clearBar0 f s)
    let s := onFunc f (fun e => { e with st := if e.disabling then .absent else .ready, enable := !e.disabling, disabling := false,
                                         dbSet := false, deleting := none, resCode := 0, resGlobal := 0, held := [] }) s
    let s := fnNotice f 4 0 (if e.disabling then s else drawSalt f s)
    .next (if e.disabling then fnNotice f 5 0 s else s)
  else .next s

/-- FN_SNAP_NOW (R101); in the Plain personality the register ignores writes (R56). -/
def execFnSnapNow (t f : Nat) (s : State) : Host.Outcome State Fault Refusal :=
  let s := tick t s
  .next (if s.boot.plain then s
         else snapAll [Reg.fnPipOkLo f, Reg.fnPipDupLo f, Reg.fnSweepFoundLo f, Reg.fnPipBad f, Reg.fnNoticeDrop f] s)

end Sys2Proof.Machine
end

