-- ==== Sys2Proof/Machine/Fetch.lean ====
section
/-!
DEFINITION. The fetching of descriptors: arbitration (R161), the conditions of R96, and the checks of R83.
-/
namespace Sys2Proof.Machine

/-! ## Arbitration (R96, R161) -/

/-- A Seal ring. -/
def isSealRing (r : Ring) : Bool := r.kind == .sub && r.cls == .s && r.tagEn

/-- A SUB ring has descriptors that may be fetched but for R96: positions 02 and 03 of the modes. -/
def wants (s : State) (r : Ring) : Bool :=
  r.kind == .sub && !r.stopped && !r.deleting && r.dev != r.known && fnReady s r.fn && s.boot.cfgReady
    && (!s.brc.active || isSealRing r)

/-- The three conditions of R96: a free command slot, and a CMP or status entry not yet reserved. -/
def roomToFetch (s : State) (r : Ring) : Bool :=
  decide (tcount (fun _ c => c.fn == r.fn) s.rge.flights < (funcOf s r.fn).slots)
    && (match ringOf s (ringKey r.fn false r.cq) with
        | some q => decide (q.reserved < ringRoom q)
        | none => false)

/-- Fetchable under R96. -/
def eligible (s : State) (r : Ring) : Bool := wants s r && roomToFetch s r

/-- Class of a ring for arbitration: ADMIN counts as Class A (R160, R161). -/
def arbClass (r : Ring) : Nat := match r.cls with
  | .s => 0 | .a => 1 | .b => 2 | .z => 3 | .admin => 1

/-- The next number after `last` in a rising list, wrapping round. -/
def nextAfter (last : Nat) (l : List Nat) : Option Nat := match l.find? (last < ·) with
  | some k => some k
  | none => l.head?

/-- Eligible rings of a class. -/
def ringsOf (s : State) (c : Nat) : Tab Ring := tfilter (fun _ r => arbClass r == c && eligible s r) s.rge.rings

/-- The ring of class `c` that is taken: functions in turn, and the rings of a function in turn. -/
def takeRing (s : State) (c : Nat) : Option Nat :=
  let l := ringsOf s c
  let fs := (l.map fun p => p.2.fn).eraseDups
  match nextAfter (tgetD 256 c s.rge.lastFn) fs with
  | none => none
  | some f => nextAfter (tgetD 0x400000 (c * 256 + f) s.rge.lastRing) ((l.filter fun p => p.2.fn == f).map (·.1))

/-- Weight of a class (R161). -/
def weight (s : State) (c : Nat) : Nat := fieldOf s Reg.clsWeight (8 * c - 1) (8 * c - 8)

/-- cur of a class, and its setting. -/
def curOf (r : Rge) (c : Nat) : Int := if c = 1 then r.curA else if c = 2 then r.curB else r.curZ
def setCur (c : Nat) (v : Int) (r : Rge) : Rge :=
  if c = 1 then { r with curA := v } else if c = 2 then { r with curB := v } else { r with curZ := v }

/-- The smooth weighted round robin of R161 among the eligible classes `e`: the class taken and the new cur values. -/
def swrr (s : State) (e : List Nat) : Nat × Rge :=
  let r := e.foldl (fun r c => setCur c (curOf r c + (weight s c : Int)) r) s.rge
  let k := e.foldl (fun k c => if k = 0 ∨ curOf r c > curOf r k then c else k) 0
  (k, setCur k (curOf r k - ((e.foldl (fun n c => n + weight s c) 0 : Nat) : Int)) r)

/-- The ring chosen at a fetch opportunity, with the round-robin state moved on (R161). -/
def choose (s : State) : Option Nat × State :=
  match nextAfter s.rge.lastS (tkeys (ringsOf s 0)) with
  | some k => (some k, onRge (fun r => { r with lastS := k }) s)
  | none =>
    let e := [1, 2, 3].filter fun c => !(ringsOf s c).isEmpty
    if e.isEmpty then (none, s)
    else
      let (c, rge) := swrr s e
      match takeRing s c with
      | none => (none, s)
      | some k =>
        (some k, { s with rge := { rge with lastFn := tput c (k / 8192) rge.lastFn,
                                            lastRing := tput (c * 256 + k / 8192) k rge.lastRing } })

/-! ## Opcodes (R102, R831) -/

/-- How an opcode moves data. -/
inductive DataDir where
  | none | toHost | fromHost
  deriving DecidableEq, Repr

/-- What NSID and STREAM must name (R104, R831). -/
inductive Names where
  | nothing      -- NSID is reserved
  | request      -- NS_CREATE: the NSID asked for
  | anyNs        -- NS_DELETE: a namespace of any owner
  | ownNs        -- a namespace of either type
  | ownBlock
  | ownTimeline
  | ownStream    -- a timeline namespace, and a stream of it at offset 24
  deriving DecidableEq, Repr

/-- A row of R102: the ring classes (Seal rings apart), function 0 only, data, names, and the bits of the command-specific
area that are not reserved, as (first bit, number of bits) counted from offset 24. -/
structure OpRow where
  classes : List Cls
  sealRing : Bool := false
  fn0 : Bool := false
  data : DataDir := .none
  names : Names := .nothing
  used : List (Nat × Nat)
  deriving DecidableEq, Repr

/-- Bit `b` of the byte at descriptor offset `o`, counted from offset 24. -/
def at24 (o b : Nat) : Nat := (o - 24) * 8 + b

/-- The bits that R118 leaves to an opcode: STREAM, the XFLAGS bits, and the 8-byte or 4-byte fields at the offsets given. -/
def selUsed (xbits : Nat) (count : Bool) (offs : List Nat) : List (Nat × Nat) :=
  [(0, 16), (16, xbits)] ++ (if count then [(at24 28 0, 32)] else []) ++ offs.map fun o => (at24 o 0, 64)

/-- The table of R102. An undefined opcode has no row. A bit of the command-specific area that the command's own section
(R106 to R152) does not name counts as reserved, so that R9 gives a set one 0x0103 (DEDUCED, log 109: IDENTIFY, NS_DELETE,
PROG_UNLOAD and byte 26 of STREAM_QUERY). -/
def opRow : Nat → Option OpRow
  | 0x01 => some { classes := [.admin], data := .toHost, used := [(0, 8)] }
  | 0x02 => some { classes := [.admin], fn0 := true, names := .request,
                   used := [(0, 20), (at24 26 7, 1), (at24 28 0, 16), (at24 32 0, 128)] }
  | 0x03 => some { classes := [.admin], fn0 := true, names := .anyNs, used := [] }
  | 0x04 => some { classes := [.admin], names := .ownTimeline,
                   used := [(0, 41), (at24 30 0, 4), (at24 30 7, 1), (at24 32 0, 112)] }
  | 0x05 => some { classes := [.admin], names := .ownStream, used := [(0, 17)] }
  | 0x06 => some { classes := [.admin], data := .toHost, names := .ownStream, used := [(0, 16)] }
  | 0x07 => some { classes := [.admin], data := .toHost, used := [(0, 8), (at24 32 0, 64)] }
  | 0x08 => some { classes := [.admin], used := [(0, 12), (16, 16)] }
  | 0x09 => some { classes := [.admin], used := [(0, 8)] }
  | 0x0A => some { classes := [.admin], data := .fromHost, used := [(0, 4)] }
  | 0x0B => some { classes := [.admin], used := [(0, 8)] }
  | 0x0C => some { classes := [.admin], fn0 := true, data := .fromHost, used := [(0, 32)] }
  | 0x0D => some { classes := [.admin], fn0 := true, used := [(0, 16)] }
  | 0x0E => some { classes := [.admin], fn0 := true, used := [(0, 8), (32, 32)] }
  | 0x0F => some { classes := [.admin], fn0 := true, data := .toHost, used := [(0, 24), (32, 64)] }
  | 0x20 => some { classes := [.a, .b], sealRing := true, data := .fromHost, names := .ownStream,
                   used := [(0, 19), (at24 32 0, 64)] }
  | 0x21 => some { classes := [.s, .a, .b], data := .toHost, names := .ownStream, used := selUsed 4 true [32, 40] }
  | 0x22 => some { classes := [.s, .a, .b], data := .toHost, names := .ownStream, used := selUsed 4 true [32, 40] }
  | 0x23 => some { classes := [.a, .b], data := .toHost, names := .ownStream, used := selUsed 4 false [32, 40, 48] }
  | 0x24 => some { classes := [.a, .b], data := .fromHost, names := .ownBlock, used := [(0, 96)] }
  | 0x25 => some { classes := [.a, .b], data := .toHost, names := .ownBlock, used := [(0, 96)] }
  | 0x26 => some { classes := [.a, .b, .z], names := .ownBlock, used := [(0, 96)] }
  | 0x27 => some { classes := [.a], names := .ownStream, used := selUsed 0 false [40, 48, 56] }
  | 0x28 => some { classes := [.a], names := .ownStream, used := selUsed 1 false [40, 48] }
  | 0x29 => some { classes := [.b], data := .toHost, names := .ownStream, used := selUsed 2 false [32, 40, 48] }
  | 0x2A => some { classes := [.z], used := [(0, 16), (32, 288)] }
  | 0x2B => some { classes := [.z], names := .ownNs, used := [(0, 8), (32, 16)] }
  | _ => none

/-- A check's outcome: the status and the descriptor offset at fault (R144), if it fails. -/
abbrev Check := Option (Nat × Nat)

/-- Fail unless `ok`. -/
def need (ok : Bool) (status param : Nat) : Check := if ok then none else some (status, param)

/-- The first failure. -/
def firstFail : List Check → Check
  | [] => none
  | some x :: _ => some x
  | none :: t => firstFail t

/-- Step 2 of R83: ring class and kind, and function. -/
def ringCheck (r : Ring) (f : Nat) (o : OpRow) : Check :=
  need (if isSealRing r then o.sealRing else o.classes.contains r.cls && !(o.fn0 && f != 0)) 0x0102 0

/-- Opcodes that RESCUE serves (R778); the boot ROM serves only the second list. -/
def rescueServes (s : State) (op lid : Nat) : Bool :=
  if s.boot.running = .rom then op == 0x01 || (op == 0x07 && lid == 5) || op == 0x0C || op == 0x0D
  else [0x01, 0x07, 0x06, 0x08, 0x0C, 0x0D, 0x20, 0x24, 0x21, 0x22, 0x23, 0x25, 0x29, 0x0F, 0x2B].contains op

/-- Step 2 of R83: lifecycle state, then modes (R753, R743, R745, R772, R137). -/
def modeCheck (s : State) (op lid : Nat) : Check :=
  let st := s.life.lstate
  firstFail [
    need (!((st == .scrapped && op != 0x01 && op != 0x07) || (st == .returned && (op == 0x02 || op == 0x04 || op == 0x0D))
      || (st == .blank && op == 0x29))) 0x0404 0,
    need (!(rescue s && !rescueServes s op lid)) 0x0502 0]

/-- A reserved bit of the header or of the command-specific area is set (R82, R83, R831). -/
def reservedCheck (o : OpRow) (op : Nat) (d : List Byte) : Check :=
  let fl := fld d 1 1
  let cns1 := op == 0x01 && fld d 24 1 == 1
  let mask := o.used.foldl (fun m u => m ||| ((2 ^ u.2 - 1) * 2 ^ u.1)) 0
  let left := fld d 24 40 &&& (2 ^ 320 - 1 - mask)
  firstFail [
    need (fl &&& (if o.data = .none then 0xF3 else 0xF2) == 0) 0x0103 1,
    need (o.names != .nothing || cns1 || fld d 4 4 == 0) 0x0103 4,
    need (o.data != .none || fld d 8 8 == 0) 0x0103 8,
    need (o.data != .none || fld d 16 4 == 0) 0x0103 16,
    need ((o.data != .none && nbit fl 0) || fld d 20 2 == 0) 0x0103 20,
    need (fld d 22 2 == 0) 0x0103 22,
    need (left == 0) 0x0103 (24 + ((List.range 40).find? (fun i => nbits left (8 * i + 7) (8 * i) != 0)).getD 0)]

/-- LEN within its range: above the largest value 0x010D, otherwise off the rule 0x0106 (R105, R115). -/
def lenRange (n lo hi step : Nat) : Check :=
  firstFail [need (n ≤ hi) 0x010D 16, need (n ≥ lo && n % step == 0) 0x0106 16]

/-- The LEN rules of R105 and R115. -/
def lenCheck (op : Nat) (cls : Cls) (d : List Byte) : Check :=
  let n := fld d 16 4
  match op with
  | 0x01 => need (n == 4096) 0x0106 16
  | 0x06 => need (n == 128) 0x0106 16
  | 0x07 => lenRange n 4 1048576 4
  | 0x0C => lenRange n 4096 1048576 4096
  | 0x0F => lenRange n 1 32768 1
  | 0x20 => lenRange n 160 (if cls = .s then 262144 else 4194304) 1
  | 0x24 | 0x25 => need (n == fld d 32 4 * 4096) 0x0106 16
  | _ => none

/-- The namespace and stream of R104. -/
def nameCheck (s : State) (f : Nat) (m : Names) (d : List Byte) : Check :=
  let n := fld d 4 4
  let own := fun (x : Ns) => x.owner == f
  let bad : Check := some (0x010A, 4)
  match m with
  | .nothing => none
  | .request => none
  | .anyNs => if (nsOf s n).isSome then none else bad
  | .ownNs => match nsOf s n with | some x => if own x then none else bad | none => bad
  | .ownBlock => match nsOf s n with | some x => if own x && x.nstype == 0 then none else bad | none => bad
  | .ownTimeline => match nsOf s n with | some x => if own x && x.nstype == 1 then none else bad | none => bad
  | .ownStream => match nsOf s n with
    | some x =>
      if own x && x.nstype == 1 then
        match strmOf s (fld d 24 2) with
        | some y => if y.nsid = n then none else some (0x010B, 24)
        | none => some (0x010B, 24)
      else bad
    | none => bad

/-- ZEST of R106: level at most 9. -/
def zestOk (z : Nat) : Bool := decide (z % 16 ≤ 9)

/-- The time fields in their order (R119). -/
def timeCheck (s : State) (d : List Byte) (two : Bool) : Check :=
  let now := evTime s
  firstFail [
    need (fld d 40 8 ≤ now) 0x0702 40, need (!two || fld d 48 8 ≤ now) 0x0702 48,
    need (!two || fld d 40 8 ≤ fld d 48 8) 0x0703 48]

/-- The logs of R142: size, and whether any function may read it. -/
def logRow : Nat → Option (Nat × Bool)
  | 1 => some (16384, true)
  | 2 => some (4096, false)
  | 3 => some (16384, false)
  | 4 => some (4096, false)
  | 5 => some (512, false)
  | 6 => some (32768, false)
  | _ => none

/-- The opcode's own fields (step 5 of R83), in the order of its section. FROM of RECALL_RECORD is an 8-byte field whose
bits 63:48 R118 leaves open: a set one is a record number out of range, 0x0106 (DEDUCED, log 110). -/
def fieldCheck (s : State) (f op : Nat) (d : List Byte) : Check := match op with
  | 0x01 => firstFail [need (fld d 24 1 ≤ 2) 0x0106 24, if fld d 24 1 = 1 then nameCheck s f .ownNs d else none]
  | 0x02 =>
    let blk := fld d 24 1 == 0
    firstFail [need (fld d 24 1 ≤ 1) 0x0106 24, need (fld d 25 1 ≤ (if blk then 1 else 0)) 0x0106 25,
      need (zestOk (fld d 26 1)) 0x0106 26, need (fld d 28 2 < 256 && fnReady s (fld d 28 2)) 0x0106 28,
      need (fld d 32 8 ≥ 1) 0x0106 32, need (fld d 40 8 ≤ (if blk then 0 else fld d 32 8)) 0x0106 40]
  | 0x04 =>
    firstFail [need (fld d 24 2 ≤ 8191 || fld d 24 2 == 0xFFFF) 0x0106 24,
      need (fld d 27 1 == 0xFF || segOn s (fld d 27 1)) 0x0106 27, need (fld d 28 1 ≤ 4) 0x0106 28,
      need (zestOk (fld d 30 1)) 0x0106 30, need (1 ≤ fld d 32 8 && fld d 32 8 < 2 ^ 40) 0x0106 32]
  | 0x07 =>
    let lid := fld d 24 1
    match logRow lid with
    | none => some (0x0106, 24)
    | some (size, any) =>
      firstFail [need (any || f == 0) 0x0401 24, need (!(s.life.lstate == .scrapped && lid != 2 && lid != 3)) 0x0404 24,
        need (fld d 32 8 + fld d 16 4 ≤ size) 0x010C 32]
  | 0x0A => need (fld d 24 1 != 0 && [0, 1, 2, 3].all fun n => !nbit (fld d 24 1) n || segOn s n) 0x0106 24
  | 0x0C => firstFail [need (fld d 24 4 % 4096 == 0) 0x0106 24, need (fld d 24 4 + fld d 16 4 ≤ 16777216) 0x010D 24]
  | 0x0D => firstFail [need (fld d 24 1 ≤ 1) 0x0106 24, need (fld d 25 1 ≤ 2) 0x0106 25]
  | 0x0E => firstFail [need (fld d 24 1 ≤ 1) 0x0106 24, need (fld d 24 1 == 0 || fld d 28 4 != 0) 0x0106 28]
  | 0x0F => firstFail [need (fld d 24 1 < 32) 0x0106 24, need (fld d 25 1 < 8) 0x0106 25, need (fld d 26 1 < 2) 0x0106 26]
  | 0x20 =>
    let rc := fld d 26 1 % 4
    let hold := if rc = 0 then (match strmOf s (fld d 24 2) with | some x => nbit x.retain 0 | none => false) else rc == 2
    firstFail [need (rc != 3) 0x0106 26, need (hold || fld d 32 8 == 0) 0x0106 32]
  | 0x21 =>
    firstFail [need (nbit (fld d 26 1) 0 || fld d 28 4 == 1) 0x0106 26, need (1 ≤ fld d 28 4 && fld d 28 4 ≤ 65535) 0x0106 28,
      timeCheck s d false]
  | 0x22 =>
    firstFail [need (nbit (fld d 26 1) 0 || fld d 28 4 == 1) 0x0106 26, need (1 ≤ fld d 28 4 && fld d 28 4 ≤ 65535) 0x0106 28,
      need (fld d 40 8 < 2 ^ 48) 0x0106 40]
  | 0x23 => firstFail [need (nbit (fld d 26 1) 0) 0x0106 26, timeCheck s d true]
  | 0x24 | 0x25 => need (1 ≤ fld d 32 4 && fld d 32 4 ≤ 65536) 0x0106 32
  | 0x26 => need (1 ≤ fld d 32 4) 0x0106 32
  | 0x27 => firstFail [need (1 ≤ fld d 56 8 && fld d 56 8 < 2 ^ 40) 0x0106 56, timeCheck s d true]
  | 0x28 => timeCheck s d true
  | 0x29 => timeCheck s d true
  | 0x2A => need (fld d 28 4 != 0) 0x0106 28
  | 0x2B =>
    let k := fld d 24 1
    firstFail [need (1 ≤ k && k ≤ 3) 0x0106 24, need (!(rescue s && k != 3)) 0x0502 24,
      need (k != 2 || s.cmd.depotEnd.isSome) 0x0503 24,
      if k = 3 then
        match strmOf s (fld d 28 2) with
        | some y => need (y.nsid == fld d 4 4) 0x010B 28
        | none => some (0x010B, 28)
      else none]
  | _ => none

/-- Steps 1 to 5 of R83. -/
def checks15 (s : State) (r : Ring) (d : List Byte) : Check :=
  let op := fld d 0 1
  match opRow op with
  | none => some (0x0101, 0)
  | some o =>
    firstFail [ringCheck r r.fn o, modeCheck s op (fld d 24 1), reservedCheck o op d, need (fld d 16 4 ≤ 268435456) 0x010D 16,
      lenCheck op r.cls d, nameCheck s r.fn o.names d, fieldCheck s r.fn op d]

/-! ## Scatter lists (R84, R85) -/

/-- The entries of one segment: (address, LENGTH, TYPE, reserved bytes are 0). -/
def sglEntries : Nat → List Byte → List (Nat × Nat × Nat × Bool)
  | 0, _ => []
  | n + 1, l => (fld l 0 8, fld l 8 4, fld l 12 1, fld l 13 3 == 0) :: sglEntries n (l.drop 16)

/-- Walk a scatter list: status and the address of the segment at fault, or its DATA and BUCKET entries. `segs` are the segments as fetched, `none` where the fetch
failed; `n` counts the entries so far. -/
def walkSgl (fromHost : Bool) : Nat → Nat → Nat → Nat → List (Option (List Byte)) → (Nat × Nat) ⊕ List (Nat × Nat × Bool)
  | 0, addr, _, _, _ => .inl (0x0107, addr)
  | fuel + 1, addr, cnt, n, segs =>
    if addr % 16 ≠ 0 ∨ cnt = 0 ∨ cnt > 256 ∨ n + cnt > 4096 then .inl (0x0107, addr)
    else match segs with
      | [] => .inl (0x0108, addr)
      | none :: _ => .inl (0x0108, addr)
      | some l :: rest =>
        let es := sglEntries cnt l
        let body := es.dropLast
        let okData := fun (e : Nat × Nat × Nat × Bool) =>
          e.2.2.2 && (e.2.2.1 == 0 || (e.2.2.1 == 1 && !fromHost)) && e.2.1 != 0
        let items := fun (x : List (Nat × Nat × Nat × Bool)) => x.map fun e => (e.1, e.2.1, e.2.2.1 == 1)
        if !body.all okData then .inl (0x0107, addr)
        else match es.getLast? with
          | none => .inl (0x0107, addr)
          | some e =>
            if e.2.2.1 = 2 then
              if !e.2.2.2 ∨ e.2.1 % 16 ≠ 0 ∨ e.2.1 < 16 ∨ e.2.1 > 4096 then .inl (0x0107, addr)
              else match walkSgl fromHost fuel e.1 (e.2.1 / 16) (n + cnt) rest with
                | .inl c => .inl c
                | .inr t => .inr (items body ++ t)
            else if okData e then .inr (items es) else .inl (0x0107, addr)

/-- Steps 6 and 7 of R83. -/
def sglCheck (o : OpRow) (d : List Byte) (segs : List (Option (List Byte))) : (Nat × Nat) ⊕ List (Nat × Nat × Bool) :=
  if o.data = .none then .inr []
  else if !nbit (fld d 1 1) 0 then .inr [(fld d 8 8, fld d 16 4, false)]
  else match walkSgl (o.data == .fromHost) 8 (fld d 8 8) (fld d 20 2) 0 segs with
    | .inl c => .inl c
    | .inr l => if l.foldl (fun n e => n + e.2.1) 0 = fld d 16 4 then .inr l else .inl (0x0104, 0)

/-! ## The bound at the fetch (R172 to R174, R181) -/

/-- Causes of R181 that hold for a Class S command of a Segment at its fetch, beside those of credit. -/
def fetchCauses (s : State) (c : Flight) (held : Bool) : List Nat :=
  (if s.boot.service then [] else [14])
    ++ (if boundSuspended s c.seg || decide (c.pipAt ≤ tgetD 0 c.seg s.cmd.suspEnd) && (tget c.seg s.cmd.suspEnd).isSome then [9]
        else [])
    ++ (if c.swept then [1] else []) ++ (if held then [7] else []) ++ (if fitSince s c.pipAt then [] else [6])

/-- An excess Seal of the stream is in flight (R173). -/
def excessAhead (s : State) (k id : Nat) : Bool :=
  tany (fun j c => j != id && c.isSeal && c.stream == k && c.bound == .excess) s.rge.flights

/-- Credit of a Seal from a Seal ring (R172, R173). -/
def sealCredit (id : Nat) (c : Flight) (x : Strm) (s : State) : State :=
  let y := grow s x
  if !excessAhead s c.stream id ∧ x.rate ≠ 0 ∧ y.sealCr ≥ c.len * 1000000000 then
    bump (Reg.clsSealsLo x.seg) 1 (onFlight id (fun c => { c with bound := .bounded })
      (onStrm c.stream (fun _ => { y with sealCr := y.sealCr - c.len * 1000000000 }) s))
  else
    bump (Reg.clsExcessLo x.seg) 1 (onFlight id (fun c => { c with bound := .excess, voids := 2 :: c.voids })
      (onStrm c.stream (fun _ => y) s))

/-- Other bounded Recalls of the Segment in flight at the arrival of a Recall's Pip (R177). -/
def recallsBefore (s : State) (id : Nat) (c : Flight) : Nat :=
  tcount (fun j q => j != id && !q.isSeal && q.bound == .bounded && q.seg == c.seg && decide (q.fetched ≤ c.pipAt)) s.rge.flights
    + (s.cmd.doneRec.filter fun d => d.1 == c.seg && decide (d.2.1 ≤ c.pipAt) && decide (d.2.2 > c.pipAt)).length

/-- Credit of a Recall by time or record on a Class S ring (R174), with the causes 2, 3 and 4 of R181 that apply. -/
def recallCredit (id : Nat) (c : Flight) (x : Strm) (s : State) : State :=
  let y := grow s x
  let poor := decide (x.recalls = 0) || decide (y.recCr < 1000000000)
  if c.len > 131072 ∨ poor then
    onFlight id (fun c => { c with bound := .excess
                                   voids := (if poor then [2] else []) ++ (if c.len > 131072 then [3] else []) ++ c.voids })
      (onStrm c.stream (fun _ => y) s)
  else
    bump (Reg.clsRecallsLo x.seg) 1
      (onFlight id (fun q => { q with bound := .bounded, voids := if recallsBefore s id c > 15 then 4 :: q.voids else q.voids })
        (onStrm c.stream (fun _ => { y with recCr := y.recCr - 1000000000 }) s))

/-- What passing step 5 of R83 does for a command of a Class S ring. -/
def passStep5 (id : Nat) (held : Bool) (s : State) : State := match tget id s.rge.flights with
  | none => s
  | some c =>
    if c.cls ≠ .s then s
    else match strmOf s c.stream with
      | none => s
      | some x =>
        let s := onFlight id (fun c => { c with voids := fetchCauses s c held }) s
        if c.isSeal then sealCredit id c x s else recallCredit id c x s

/-! ## The fetch -/

/-- Take the next slot of a ring: the head moves on, the oldest arrival shrinks. -/
def takeSlot (now : Nat) (r : Ring) : Ring :=
  let h := (r.dev + 1) % r.depth
  { r with dev := h, since := if h = r.known then none else some now, held96 := false,
           arr := match r.arr with
             | a :: t => if a.count ≤ 1 then t else { a with first := (a.first + 1) % r.depth, count := a.count - 1 } :: t
             | [] => [] }

/-- The opcode names a stream at offset 24. -/
def namesStream (op : Nat) : Bool := match opRow op with
  | some o => o.names == .ownStream
  | none => false

/-- The flight of a descriptor fetched from ring `r`. -/
def flightOf (s : State) (r : Ring) (d : List Byte) : Flight :=
  let op := fld d 0 1
  let fl := fld d 1 1
  let a := r.arr.head?
  { fn := r.fn, ring := r.idx, slot := r.dev, cid := fld d 2 2, opcode := op, desc := d, cls := r.cls, isSeal := op == 0x20,
    noInt := nbit fl 2, fence := nbit fl 3, fetched := s.now, bound := .notS,
    pipAt := match a with | some a => a.at_ | none => s.now,
    swept := match a with | some a => a.swept | none => false,
    seg := if namesStream op then (match strmOf s (fld d 24 2) with | some x => x.seg | none => 0) else 0 }

/-- Flag every ring whose fetch R96 holds at this opportunity. -/
def markHeld (s : State) : State :=
  onRge (fun r => { r with rings := tmap (fun _ q => if wants s q && !roomToFetch s q then { q with held96 := true } else q) r.rings }) s

/-- End a fetched command with the status of a check that it fails. -/
def failCheck (id status param : Nat) (s : State) : State := match tget id s.rge.flights with
  | none => s
  | some c => completeX id status 0 { param := param, stream := if namesStream c.opcode then c.stream else 0xFFFF } s

/-- End a command whose scatter list is malformed or could not be fetched: a bound that its passing of step 5 began is counted as lost,
and a failed fetch is reported in a Ring notice after the completion (R83, R95, R97, R181). -/
def sglFail (id : Nat) (r : Ring) (x : Nat × Nat) (s : State) : State :=
  let s := failCheck id x.1 8 (endBoundFailed id s)
  if x.1 = 0x0108 then ringNotice r 1 0x0108 x.2 s else s

/-- A STREAM_CREATE that asks for Class S use (R180). -/
def asksClassS (d : List Byte) : Bool := fld d 0 1 == 0x04 && (fld d 40 4 != 0 || fld d 44 2 != 0)

/-- Fetch the descriptor `d` from the ring with key `k`, and check it (R83). A STREAM_CREATE with RATE or RECALLS ends DOZE, whatever
becomes of it (R180). -/
def fetchFrom (k : Nat) (r : Ring) (d : List Byte) (segs : List (Option (List Byte))) (s : State) : State :=
  let id := s.rge.nextFlight
  let c := flightOf s r d
  let s := onRing k (takeSlot s.now) s
  let s := onRing (ringKey r.fn false r.cq) (fun q => { q with reserved := q.reserved + 1 }) s
  let s := onRge (fun g => { g with flights := tput id c g.flights, nextFlight := id + 1 }) s
  let s := if asksClassS d then wakeAll s else s
  match checks15 s r d with
  | some (st, p) => failCheck id st p s
  | none =>
    let s := passStep5 id r.held96 s
    match opRow c.opcode with
    | none => s
    | some o => match sglCheck o d segs with
      | .inl x => sglFail id r x s
      | .inr l => onFlight id (fun c => { c with sgl := l }) s

/-- A fetch opportunity: the ring that R161 chooses is read. `desc` is the 64 bytes read, or nothing if the read failed; `segs` are the
scatter-list segments in order (R83, R835). A sleeping RINDX wakes first (R153, R718). The reads of a ring that is not of Class S, its
segments' among them, wait for room under R165. -/
def fetchNext (desc : Option (List Byte)) (segs : List (Option (List Byte))) (s : State) : State :=
  if s.pwr.rindSleep > 0 then (if tany (fun _ r => wants s r) s.rge.rings then startWake rindx s else s) else
  let s := markHeld s
  let s0 := s
  match choose s with
  | (none, s) => s
  | (some k, s) => match ringOf s k with
    | none => s
    | some r =>
      if r.cls ≠ .s ∧ !fetchFits s0 (segs.foldl (fun m l => max m ((l.getD []).length)) 64) then s0 else
      let (inj, ef, s) := if r.fn = 0 then meet 11 0xFF r.idx false s else (false, 0, s)
      let s := if inj && bypassed s 11 then raiseF 11 { unit := r.idx, func := r.fn, loc := r.base + 64 * r.dev } ef s else s
      match (if inj && !bypassed s 11 then none else desc) with
      | none => stopRing k 1 (r.base + 64 * r.dev) ef s
      | some d => fetchFrom k r (fit 64 d) segs s

/-- CLASS_S_FETCH_STALL: Class S ring `i` of function `f` has had fetchable descriptors for 5 µs unfetched: DT24, and the
arbiter is reset (R429). -/
def execClassSFetchStall (t f i : Nat) (s : State) : Host.Outcome State Fault Refusal :=
  let s := tick t s
  match ringOf s (ringKey f true i) with
  | some r => match r.since with
    | some t0 =>
      let (inj, ef, s1) := meet 24 0xFF 0xFFFF false s
      if r.cls = .s ∧ wants s r ∧ (s.now - t0 ≥ 5000 ∨ inj) then
        .next (raiseF 24 { func := f } ef (if bypassed s1 24 then s1 else
          onRge (fun g => { g with curA := 0, curB := 0, curZ := 0, lastS := 0, lastFn := [], lastRing := [] }) s1))
      else .next s
    | none => .next s
  | none => .next s

end Sys2Proof.Machine
end

