-- ==== Sys2Proof/Machine/Windows.lean ====
section
/-!
DEFINITION. Recall windows: the reads queued on dies, what a window serves, and reads that go around a die whose erase is in its protected
stretch (R177, R340, R356, R357, R359, R363 to R365, R368).
-/
namespace Sys2Proof.Machine

/-- The stripe group of a die. -/
def dieGroup (s : State) (d : Nat) (x : Die) : Tab Die := groupDies s (segOfDie d) (groupOf s (segOfDie d) x.pos)

/-- Lost dies of a stripe group. -/
def lostIn (g : Tab Die) : Nat := tcount (fun _ d => d.lost) g

/-- Site of an event on a die. -/
def dieSite (d loc aux : Nat) : Site := { seg := segOfDie d, unit := chanOf d, loc := loc, aux := aux }

/-! ## What a window serves (R340, R357) -/

/-- Class S reads before the others, each in queue order (R357). -/
def serveOrder (l : List DRead) : List DRead := l.filter (·.classS) ++ l.filter (!·.classS)

/-- What a window serves of a list of reads in order: those queued at its decision point, the first always, a further one only if it ends,
transfer included, within 60 µs of the opening `o`. A read's array time follows the one before; its page group then passes as soon as the
channel, busy until `c`, is free for it. The answer is when the last ends, until when the channel is busy, those served, and those that wait
(R340, R357). -/
def serveReads (o x : Nat) : Bool → Nat → Nat → List DRead → Nat × Nat × List DRead × List DRead
  | _, n, c, [] => (n, c, [], [])
  | first, n, c, r :: t =>
    let e := max (n + (r.dur - x)) c + min x r.dur
    if r.due ∧ (first ∨ e ≤ o + 60000) then
      let (m, k, g, l) := serveReads o x false e e t
      (m, k, r :: g, l)
    else
      let (m, k, g, l) := serveReads o x first n c t
      (m, k, g, r :: l)

/-- Open die `d`'s window, decided at `dp`: its reads start; a late window is counted (R357, R359, R368). -/
def openWindow (d dp : Nat) (s : State) : State := match tget d s.flw.dies with
  | none => s
  | some x =>
    let (late, ef, s) := meetPos 38 (segOfDie d) (chanOf d) x.pos (decide (s.now - dp > 25000)) s
    let (n, c, going, rest) := serveReads s.now (xferNs s d x) true s.now (tgetD {} (chanOf d) s.flw.chans).xferEnd (serveOrder x.queue)
    let s := onChan (chanOf d) (fun y => { y with xferEnd := c })
      (onDie d (fun y => { y with decided := none, opened := some (s.now, n - s.now), going := going, queue := rest }) s)
    let s := going.foldl (fun s r => emit (.nand (chanOf d) x.pos (.pageRead r.blk r.page (firstLevels s d r.blk))) s) s
    let s := bump (Reg.flwWindowsLo (segOfDie d)) 1 s
    if late then raiseF 38 (dieSite d x.pos 0) ef (if bypassed s 38 then s else bumpTallyQuiet (Reg.flwLate (segOfDie d)) s) else s

/-! ## Reads that are queued (R177, R362 to R365) -/

/-- A cause of R181 applies to command `id`. -/
def voidRead (id : Option Nat) (cause : Nat) (s : State) : State := match id with
  | some i => onFlight i (fun c => if c.voids.contains cause then c else { c with voids := cause :: c.voids }) s
  | none => s

/-- A read is a Class S read when it serves a bounded Recall: one outside its bound is served as Class A (R174). -/
def boundedRead (s : State) (id : Option Nat) : Bool := match id.bind fun i => tget i s.rge.flights with
  | some c => c.bound == .bounded && !c.isSeal
  | none => false

/-- A read joins the queue of die `d`. A Class S read that one of another command is ahead of costs its Recall the bound (R177, cause 10). -/
def joinQueue (d : Nat) (r : DRead) (s : State) : State := match tget d s.flw.dies with
  | none => s
  | some x =>
    let s := onDie d (fun y => { y with queue := y.queue ++ [r] }) s
    if r.classS && x.queue.any (fun y => y.classS && y.id != r.id) then voidRead r.id 10 s else s

/-- The decision point of a die's next position falls before the protected stretch of its erase ends (R363, R365). -/
def stretchBlocks (s : State) (x : Die) : Bool := match x.op with
  | some o => stretch s x && decide (max s.now ((nextPos s (settleDie s x).2).1 - 25000) < o.at_ + 250000)
  | none => false

/-- The reads that rebuild page group `pg` of block `b` of die `d`: on each other die of its stripe row, that die's block of the band (R363, R396). -/
def aroundReads (s : State) (d b pg : Nat) (x : Die) : List (Nat × Nat) := match bandOf s d b with
  | some k => (tkeys (bandDies s k)).filterMap fun e =>
      if e == d || (match tget e s.flw.dies with | some y => memberIn s k e y == 63 || (tget (unitKey pg (memberIn s k e y)) (unitsOf s k)).isNone | none => true)
      then none else some (e, blkOf s k e)
  | none => (tkeys (dieGroup s d x)).filterMap fun e => if e = d then none else some (e, b)

/-- Queue a read on die `d`. A Class S read that meets a protected stretch which the die's next decision point does not outlast goes around the die at
once; with a die of the group lost it waits, and its Recall loses the bound (R363, R364, cause 10). -/
def queueRead (d : Nat) (s : State) (q : QRead) : State := match tget d s.flw.dies with
  | none => s
  | some x =>
    let r : DRead := { classS := boundedRead s q.id, dur := q.dur, id := q.id, blk := q.blk, page := q.page }
    if !r.classS ∨ !stretchBlocks s x then joinQueue d r s
    else if lostIn (dieGroup s d x) = 0 then
      let s := (aroundReads s d q.blk q.page x).foldl (fun s e => joinQueue e.1 { r with blk := e.2, part := some d } s) s
      bump (Reg.flwAroundLo (segOfDie d)) 1 s
    else voidRead q.id 10 (joinQueue d r s)

/-- The page groups that the bytes of `l` pieces take, as die, block and page (R284). -/
def pieceGroups (s : State) (l : List Piece) : List (Nat × Nat × Nat) :=
  (l.filterMap fun p => (memberDie s p.band (p.unit % 64)).map fun d => (d, blkOf s p.band d, p.unit / 64)).dedup

/-- Queue the reads of page groups for command `id`, each on its die (R177, R357). -/
def queueReads (id : Nat) (l : List (Nat × Nat × Nat)) (s : State) : State :=
  l.foldl (fun s g => match tget g.1 s.flw.dies with
    | some x => queueRead g.1 s { id := some id, blk := g.2.1, page := g.2.2, dur := readNs s g.1 x }
    | none => s) s

end Sys2Proof.Machine
end

