-- ==== Sys2Proof/Machine/Power.lean ====
section
/-!
DEFINITION. The Power Manager: performance levels, sleep states, temperature, throttle and thermal shed (chapter 18).
-/
namespace Sys2Proof.Machine

/-! ## Suspension of the Class S bound (R178, R179) -/

/-- Apply `f`, and note the Segments whose suspension of the bound it ends. -/
def track (f : State → State) (s : State) : State :=
  let s' := f s
  (segs s).foldl (fun q n =>
    if boundSuspended s n && !boundSuspended s' n then onCmd (fun c => { c with suspEnd := tput n s'.now c.suspEnd }) q else q) s'

/-! ## Performance levels (R707 to R713) -/

/-- Level of a Segment, and the governor's proposal: P2 until the first decision. -/
def levelOf (s : State) (n : Nat) : Nat := tgetD 2 n s.pwr.level
def proposalOf (s : State) (n : Nat) : Nat := tgetD 2 n s.pwr.proposal
def capOf (s : State) (n : Nat) : Nat := tgetD 0 n s.pwr.cap

/-- A stream of the Segment has non-zero RATE or RECALLS (R179). -/
def hasClassS (s : State) (n : Nat) : Bool := tany (fun _ x => x.seg == n && (x.rate != 0 || x.recalls != 0)) s.cmd.streams

/-- The level of a Segment (R710). -/
def targetLevel (s : State) (n : Nat) : Nat :=
  let l := max (max (proposalOf s n) (fieldOf s (Reg.pwmSegcfg n) 1 0)) (capOf s n)
  let l := if hasClassS s n then min l 2 else l
  let l := if s.brc.active then 2 else l
  if s.pwr.shed then 3 else l

/-- VDD_CORE follows the highest level among the awake enabled Segments (R708). -/
def lowerVolt (s : State) : State :=
  match (segs s).filter fun n => sleepOf s n == 0 with
  | [] => s
  | h :: t => onPwr (fun p => { p with volt := t.foldl (fun m n => min m (levelOf s n)) (levelOf s h) }) s

/-- Switch a Segment's clock to level `l` (R712, step 3). -/
def switchLevel (n l : Nat) (s : State) : State :=
  if levelOf s n = l then s
  else bump (Reg.pwmLvlchgLo n) 1 (onPwr (fun p => { p with level := tset 2 n l p.level }) s)

/-- Take a Segment toward the level of R710: at once when its voltage is there, otherwise by a voltage request (R712). -/
def relevel (s : State) (n : Nat) : State :=
  let l := targetLevel s n
  if l ≥ s.pwr.volt then lowerVolt (switchLevel n l (onPwr (fun p => { p with raising := tdel n p.raising }) s))
  else match tget n s.pwr.raising with
    | some r => if r.level = l then s else onPwr (fun p => { p with raising := tput n { level := l, at_ := s.now } p.raising }) s
    | none => emit (.avs l) (onPwr (fun p => { p with raising := tput n { level := l, at_ := s.now } p.raising }) s)

/-- Bring every enabled Segment to its level. -/
def relevelAll (s : State) : State := track (fun s => (segs s).foldl relevel s) s

/-- The Segment reaches its level before the command that asked for it completes (R711). -/
def relevelNow (n : Nat) (s : State) : State :=
  let l := targetLevel s n
  track (fun s => switchLevel n l (onPwr (fun p => { p with volt := min p.volt l, raising := tdel n p.raising }) s)) s

/-- The governor's proposal for a Segment whose cores issued bundles in `b.1` of `b.2` cycles (R709). -/
def propose (s : State) (n : Nat) (b : Nat × Nat) : Nat :=
  let l := levelOf s n
  if 100 * b.1 > fieldOf s Reg.pwmGov 15 8 * b.2 then l - 1
  else if 100 * b.1 < fieldOf s Reg.pwmGov 7 0 * b.2 then min 3 (l + 1)
  else l

/-- GOVERNOR_DECISION: `busy` gives, for Segments 0 to 3, the cycles in which its cores issued a bundle and all cycles
(R709, R710). -/
def execGovernorDecision (t : Nat) (busy : List (Nat × Nat)) (s : State) : Host.Outcome State Fault Refusal :=
  let s := tick t s
  if s.now - s.pwr.govAt < fieldOf s Reg.pwmGov 23 16 * 1000000 then .next s
  else
    let s := onPwr (fun p => { p with govAt := s.now }) s
    .next (relevelAll ((segs s).foldl (fun s n =>
      onPwr (fun p => { p with proposal := tput n (propose s n (busy.getD n (0, 1))) p.proposal }) s) s))

/-- VREG_SETTLED: the rail monitor reads the target; the clocks that waited are switched (R712). -/
def execVregSettled (t : Nat) (s : State) : Host.Outcome State Fault Refusal :=
  let s := tick t s
  let l := s.pwr.raising
  let s := onPwr (fun p => { p with volt := l.foldl (fun m q => min m q.2.level) p.volt, raising := [] }) s
  .next (track (fun s => l.foldl (fun s q => relevel s q.1) s) s)

/-- VREG_SETTLE_TIMEOUT: SETTLE µs have passed; the Segments keep their clocks, and the next decision asks again (R713). -/
def execVregSettleTimeout (t : Nat) (s : State) : Host.Outcome State Fault Refusal :=
  let s := tick t s
  let lim := fieldOf s Reg.pwmVreg 7 0 * 1000
  let late := tfilter (fun _ r => decide (s.now - r.at_ ≥ lim)) s.pwr.raising
  if late.isEmpty then .next s
  else .next (bump Reg.pwmVlateLo 1 (setFlag Reg.pwmStatus 30
    (onPwr (fun p => { p with raising := tfilter (fun _ r => decide (s.now - r.at_ < lim)) p.raising }) s)))

/-! ## Sleep states (R714 to R720, R727) -/

/-- A command with an opcode and a Segment is for Segment `n`: it names one of its streams, or blocks, which lie in every Segment. -/
def cmdFor (n opcode seg : Nat) : Bool := match opRow opcode with
  | some o => if o.names = .ownStream then seg == n else o.names != .nothing || opcode == 0x0F
  | none => false

/-- A command in flight is for Segment `n`. -/
def flightFor (s : State) (n : Nat) : Bool := tany (fun _ c => cmdFor n c.opcode c.seg) s.rge.flights

/-- A stream has non-zero RATE or RECALLS (R180). -/
def anyClassS (s : State) : Bool := tany (fun _ x => x.rate != 0 || x.recalls != 0) s.cmd.streams

/-- A core of the Segment is halted by a debugger (R727). -/
def coreHalted (s : State) (n : Nat) : Bool := tany (fun k c => k / 4 == n && c.st == .halted) s.dxr.cores

/-- Engine jobs, DRAM requests, channel descriptors and hand-overs of a Segment. -/
def jobsOf (s : State) (n : Nat) : Bool :=
  tany (fun _ j => j.seg == n) s.zst.jobs || tany (fun _ j => j.seg == n) s.cry.jobs || !(tgetD {} n s.mov.drams).reqs.isEmpty
    || tany (fun k c => k / 64 == n && !c.queue.isEmpty && !c.halted) s.mov.chans || s.dxr.hands.any fun h => h.core / 4 == n

/-- Since when Segment `n` has been idle: its last bundle, the last end of a job, a descriptor, a DRAM request or a command for it, and its
own last wake (R716). -/
def idleSince (s : State) (n : Nat) : Nat :=
  let cmds := s.rge.ended.foldl (fun m e => if cmdFor n (e.1 / 4) (e.1 % 4) then max m e.2 else m) (tgetD 0 n s.pwr.sleepAt)
  s.dxr.cores.foldl (fun m c => if c.1 / 4 = n then max m c.2.issuedAt else m)
    (max cmds (max (tgetD 0 n s.dxr.jobAt) (tgetD {} n s.mov.drams).usedAt))

/-- Items and delay entries of a Segment's Dispatcher. -/
def itemCount (s : State) (n : Nat) : Nat := tcount (fun k _ => k / 4096 == n) s.dsp.items

/-- The deepest state that the modes leave a Segment (R727). -/
def modeDepth (s : State) (n : Nat) : Nat :=
  if s.brc.active then 0
  else if rescue s || s.cmd.depotEnd.isSome || (s.dbg.level == .full && coreHalted s n) then 1
  else 3

/-- A Segment may enter state `to` (R716). -/
def maySleep (s : State) (n depth : Nat) : Bool :=
  segOn s n && !s.pwr.waking.contains n && !anyClassS s && decide (depth ≤ fieldOf s (Reg.pwmSegcfg n) 5 4) && decide (depth ≤ modeDepth s n)
    && (match depth with
      | 1 => decide (s.now - idleSince s n ≥ fieldOf s Reg.pwmIdle 15 0 * 1000) && !flightFor s n && !jobsOf s n
      | 2 => decide (s.now - tgetD 0 n s.pwr.sleepAt ≥ fieldOf s Reg.pwmIdle 23 16 * 1000000)
          && !tany (fun k d => k / 128 == n && d.op.isSome) s.flw.dies && (tgetD [] n s.med.stone).isEmpty && !jobsOf s n
          && !tany (fun _ r => r.seg == n) s.dsp.runs
      | 3 => decide (s.now - tgetD 0 n s.pwr.sleepAt ≥ fieldOf s Reg.pwmIdle 31 24 * 1000000000) && decide (itemCount s n ≤ 192)
      | _ => false)

/-- SEGMENT_SLEEP_ENTRY: Segment `n`'s conditions have held for their time, and it enters the next deeper state (R716); in S2 its cadence registers stay as they are (R721). What its floor condition is then stands until it wakes, and is evaluated
again from then on (R755). -/
def execSegmentSleepEntry (t n : Nat) (s : State) : Host.Outcome State Fault Refusal :=
  let s := tick t s
  let depth := sleepOf s n + 1
  if maySleep s n depth then
    let s := updateFloor s
    .next (lowerVolt (onPwr (fun p => { p with sleep := tput n depth p.sleep, sleepAt := tput n s.now p.sleepAt
                                               wheel := if depth = 2 then tput n (wheelN s, wheelS s) p.wheel else p.wheel }) s))
  else .next s

/-- The notices held for any function. -/
def noticeHeld (s : State) : Bool := tany (fun _ e => !e.held.isEmpty) s.rge.funcs

/-- The link state that RINDX's sleep states need (R717). -/
def linkFor (s : State) (depth : Nat) : Bool := match depth with
  | 1 => true
  | 2 => s.pins.link == .l1 || s.pins.link == .l1sub
  | _ => s.pins.link == .l1sub

/-- RINDX may enter state `to` (R717, R727); before S3 the journal's queue is durable and no Pith erase is open (R701). -/
def rindMaySleep (s : State) (depth : Nat) : Bool :=
  decide (depth ≤ fieldOf s Reg.pwmRind 1 0) && decide (depth ≤ 3) && !s.brc.active && !s.pwr.waking.contains rindx
    && decide (depth ≤ (if s.dbg.level == .closed then 3 else 1))
    && (segs s).all (fun n => decide (sleepOf s n ≥ (if depth = 3 then 3 else depth)))
    && s.rge.flights.isEmpty && !noticeHeld s && (coreOf s rindCore).st == .waiting && linkFor s depth
    && (depth ≤ 2 || (s.pith.jq.isEmpty && s.pith.jprog.isNone && !tany (fun _ o => match o with | .erase _ _ _ _ _ => true | _ => false) s.pith.ops))
    && (depth ≤ 1 || decide (s.now - tgetD 0 rindx s.pwr.sleepAt ≥
      (if depth = 2 then fieldOf s Reg.pwmIdle 23 16 * 1000000 else fieldOf s Reg.pwmIdle 31 24 * 1000000000)))

/-- RIND_SLEEP_ENTRY (R717). -/
def execRindSleepEntry (t : Nat) (s : State) : Host.Outcome State Fault Refusal :=
  let s := tick t s
  let depth := s.pwr.rindSleep + 1
  if rindMaySleep s depth then .next (onPwr (fun p => { p with rindSleep := depth, sleepAt := tput rindx s.now p.sleepAt }) s) else .next s

/-- DOMAIN_WAKE: a wake event reaches domain `d` (R718). -/
def execDomainWake (t d : Nat) (s : State) : Host.Outcome State Fault Refusal := .next (startWake d (tick t s))

/-- WAKE_COMPLETE: the wake of domain `d` finishes, and its floor condition is evaluated (R720, R722, R755). -/
def execWakeComplete (t d : Nat) (s : State) : Host.Outcome State Fault Refusal :=
  let s := tick t s
  if s.pwr.waking.contains d then .next (lowerVolt (updateFloor (wakeDone d s))) else .next s

/-! ## Temperature (R723 to R726) -/

/-- A reading in 0.25 K lies at or above `c` °C, and at or below `c` − 64 °C. -/
def atLeast (q c : Nat) : Bool := decide (25 * q ≥ 100 * c + 27315)
def atMost64 (q c : Nat) : Bool := decide (25 * q ≤ 100 * c + 20915)
/-- A reading lies above `c` °C, and below it. -/
def above (q c : Nat) : Bool := decide (25 * q > 100 * c + 27315)
def belowC (q c : Nat) : Bool := decide (25 * q < 100 * c + 27315)

/-- Reading of sensor `n`. -/
def tempOf (s : State) (n : Nat) : Nat := tgetD 0 n s.pwr.temps

/-- Bring `PWM_THROTn` up to now (18, Registers). -/
def accrue (n : Nat) (s : State) : State :=
  let dt := if capOf s n > 0 then s.now - tgetD 0 n s.pwr.throtAt else 0
  let ns := tgetD 0 n s.pwr.throtNs + dt
  bump (Reg.pwmThrotLo n) (ns / 1000000)
    (onPwr (fun p => { p with throtNs := tset 0 n (ns % 1000000) p.throtNs, throtAt := tput n s.now p.throtAt }) s)

/-- A Segment's throttle cap takes a value, and its level follows (R710, R724). -/
def setCap (n v : Nat) (s : State) : State :=
  let s := accrue n s
  let s := onPwr (fun p => { p with cap := tset 0 n v p.cap, stepAt := tput n s.now p.stepAt }) s
  if segOn s n then track (fun s => relevel s n) s else s

/-- The throttle at a new reading of Segment `n`: hot raises the cap at once; turning hot or cool starts the interval (R724). -/
def throttleAt (s : State) (n : Nat) : State :=
  let q := tempOf s n
  let th := fieldOf s Reg.pwmTherm 7 0
  let z := if atLeast q th then 1 else if belowC q (th - fieldOf s Reg.pwmTherm 15 8) then 2 else 0
  let was := tgetD 0 n s.pwr.zone
  let s := onPwr (fun p => { p with zone := tset 0 n z p.zone }) s
  if z = was then s
  else if z = 1 then setCap n (min 3 (capOf s n + 1)) s
  else onPwr (fun p => { p with stepAt := tput n s.now p.stepAt }) s

/-- THROTTLE_STEP: 10 ms hot or 100 ms cool have passed since Segment `n`'s last step (R724). -/
def execThrottleStep (t n : Nat) (s : State) : Host.Outcome State Fault Refusal :=
  let s := tick t s
  let dt := s.now - tgetD 0 n s.pwr.stepAt
  match tgetD 0 n s.pwr.zone with
  | 1 => if dt ≥ 10000000 ∧ capOf s n < 3 then .next (setCap n (capOf s n + 1) s) else .next s
  | 2 => if dt ≥ 100000000 ∧ capOf s n > 0 then .next (setCap n (capOf s n - 1) s) else .next s
  | _ => .next s

/-- TEMP_NOW of the Health log: the highest of the five readings, in kelvin (R723). -/
def tempNow (s : State) : Nat := ((List.range 5).map (tempOf s)).foldl max 0 / 4

/-- The TEMP_HIST bin of a temperature in kelvin (R332). -/
def histBin (k : Nat) : Nat := if k < 234 then 0 else min 15 ((100 * k - 23315) / 1000)

/-- Add minutes to a bin of TEMP_HIST: a health counter whose offset is 176 + 8 × bin (R332, R416). -/
def bumpHist (b n : Nat) (s : State) : State :=
  let v := tgetD 0 b s.health.hist
  let v' := satAdd 0xFFFFFFFFFFFFFFFF v n
  let s := onHealth (fun h => { h with hist := tset 0 b v' h.hist }) s
  if v' = 0xFFFFFFFFFFFFFFFF ∧ v ≠ v' then
    post 0 0x09 0xFFFF (pack [(1, 0xFF), (1, 3), (1, 0xFF), (1, 0), (2, 1), (2, 0xFFFF), (8, 176 + 8 * b)]) s
  else s

/-- Time powered since the last sample: hours, and minutes at the temperature read then (R332, R333). -/
def accrueHealth (s : State) : State :=
  let dt := s.now - s.pwr.tempAt
  let b := histBin s.health.tempNow
  let r := tgetD 0 (100 + b) s.health.rest + dt
  let s := onHealth (fun h => { h with rest := tset 0 (100 + b) (r % 60000000000) h.rest }) s
  onPwr (fun p => { p with tempAt := s.now }) (bumpHealthBy 4 3600000000000 dt (bumpHist b (r / 60000000000) s))

/-- CRIT.TEMP is recomputed; a change posts a Health notice of kind 9 (R726, R809). -/
def updateCritTemp (s : State) : State :=
  let c := (List.range 5).any fun n => atLeast (tempOf s n) (fieldOf s Reg.pwmTherm 7 0) || atMost64 (tempOf s n) (fieldOf s Reg.pwmTherm 23 16)
  if c = s.pwr.crit then s
  else (if c then critEvent 1 1 else id) (alertLow (healthNotice 9 0xFF (tempNow s) 0 (onPwr (fun p => { p with crit := c }) s)))

/-- The run of readings that shed waits for (R725). -/
def shedRuns (s : State) : State :=
  let l := List.range 5
  onPwr (fun p =>
    { p with hotSince := l.foldl (fun m n => if above (tempOf s n) 112 then tput n (tgetD s.now n m) m else tdel n m) p.hotSince
             coolSince := if l.all fun n => belowC (tempOf s n) 108 then some (p.coolSince.getD s.now) else none }) s

/-- The sensors read `reads`, in units of 0.25 K (R723 to R726). An injection for DT29 raises the readings by
20 °C for 1 s (R429). -/
def takeReads (reads : List Nat) (s : State) : State :=
  let s := accrueHealth s
  let (inj, _, s) := meet 29 0xFF 0xFFFF false s
  let s := if inj then onPwr (fun p => { p with injUntil := s.now + 1000000000 }) s else s
  let add := if s.now < s.pwr.injUntil then 80 else 0
  let s := onPwr (fun p => { p with temps := (List.range 5).foldl (fun m n => tset 0 n (reads.getD n 0 + add) m) p.temps, tempAt := s.now }) s
  let k := reads.foldl max 0 / 4
  let s := onHealth (fun h => { h with tempNow := tempNow s, tempMax := max h.tempMax k,
                                       tempMin := if h.tempMin = 0 then k else min h.tempMin k }) s
  updateCritTemp (shedRuns ([0, 1, 2, 3].foldl throttleAt s))

/-- THERMAL_SHED_BEGIN: a sensor has read above 112 °C for 1 ms (R725). -/
def execThermalShedBegin (t : Nat) (s : State) : Host.Outcome State Fault Refusal :=
  let s := tick t s
  if !s.pwr.shed ∧ tany (fun _ a => decide (s.now - a ≥ 1000000)) s.pwr.hotSince then
    let s := bump Reg.pwmShedLo 1 (onPwr (fun p => { p with shed := true }) s)
    .next (relevelAll (raiseF 29 {} (if s.now < s.pwr.injUntil then efInjected else 0) s))
  else .next s

/-- THERMAL_SHED_END: every sensor has read below 108 °C for 100 ms (R725). -/
def execThermalShedEnd (t : Nat) (s : State) : Host.Outcome State Fault Refusal :=
  let s := tick t s
  match s.pwr.coolSince with
  | some a =>
    if s.pwr.shed ∧ s.now - a ≥ 100000000 then
      .next (track (fun s => relevelAll (onPwr (fun p => { p with shed := false }) s)) s)
    else .next s
  | none => .next s

/-- PWM_SNAP_NOW (R729). -/
def execPwmSnapNow (t : Nat) (s : State) : Host.Outcome State Fault Refusal :=
  let s := [0, 1, 2, 3].foldl (fun s n => accrue n s) (tick t s)
  .next (snapAll ([Reg.pwmShedLo, Reg.pwmVlateLo]
    ++ [0, 1, 2, 3].flatMap fun n => [Reg.pwmLvlchgLo n, Reg.pwmWakeLo n, Reg.pwmThrotLo n]) s)

/-! ## CORE_CLOCK_GATE (R713) -/

/-- CORE_CLOCK_GATE: core `k` has waited in GET for more than 64 cycles. Its clock is gated; no architectural state changes. -/
def execCoreClockGate (t k : Nat) (s : State) : Host.Outcome State Fault Refusal :=
  let s := tick t s
  match tget k s.dxr.cores with
  | some c =>
    if c.st = .waiting then .next { s with dxr := { s.dxr with cores := tput k { c with gated := true } s.dxr.cores } } else .next s
  | none => .next s

end Sys2Proof.Machine
end

