-- ==== Sys2Proof/Machine/Commands.lean ====
section
/-!
DEFINITION. Admin commands on namespaces, streams, fences and DEPOT, ABORT, and MAINT (chapter 03).
-/
namespace Sys2Proof.Machine

/-! ## Service -/

/-- The command reads or writes a namespace or stream, so it waits for step 9 of replay (R776; log 15). -/
def needsMap (op : Nat) : Bool := match opRow op with
  | some o => o.names != .nothing
  | none => false

/-- The command needs a key, so it waits while keys are re-derived (R508). -/
def needsKey (op : Nat) : Bool := [0x02, 0x04, 0x20, 0x21, 0x22, 0x23, 0x24, 0x25, 0x29, 0x2B].contains op

/-- A FENCE command waits for every earlier command of its ring (R81). -/
def fenceWaits (s : State) (id : Nat) (c : Flight) : Bool :=
  c.fence && tany (fun j q => decide (j < id) && q.fn == c.fn && q.ring == c.ring) s.rge.flights

/-- The Segments that a command needs: its stream's, those of the grains that it names, the addressed die's, or every one that may hold
data of its namespace (R153, R279). -/
def needsSegs (s : State) (c : Flight) : List Nat := match opRow c.opcode with
  | some o => match o.names with
    | .ownStream => [c.seg]
    | .ownBlock => match nsOf s c.nsid with
      | some x => ((grainsOf x (dfld c 24 8) (dfld c 32 4)).map (segOfGrain s x)).dedup
      | none => []
    | .ownNs | .anyNs => segs s
    | _ => if c.opcode = 0x0F then [dfld c 24 1 / 8] else if c.opcode = 0x0A then (segs s).filter fun n => nbit (dfld c 24 1) n else []
  | none => []

/-- Of those, the sleeping ones (R153, row DOZE). -/
def asleepFor (s : State) (c : Flight) : List Nat := (needsSegs s c).filter fun d => domSleep s d != 0

/-- A command that is otherwise ready wakes the Segments that it needs, and is served once they run (R153, R718). -/
def wakeFor (c : Flight) (s : State) : State := (asleepFor s c).foldl (fun s d => startWake d s) s

/-- A command in flight may start or go on. BRACE defers what has not begun, but for a Seal and for ABORT, which never
completes with 0x0004 (R146, R153). Sleeping Segments that it needs wake first. A command of a resetting function that has not begun is gone (R99). -/
def maySetOut (s : State) (id : Nat) (c : Flight) : Bool :=
  !fenceWaits s id c && (s.boot.service || !needsMap c.opcode) && (!s.cry.rederive || s.cry.closed || !needsKey c.opcode)
    && (!s.brc.active || c.isSeal || c.begun || c.opcode == 0x08) && (asleepFor s c).isEmpty

/-- The status of a read or a write that needs a Segment which has no core in service (R414). -/
def deadStatus (s : State) (c : Flight) : Option Nat :=
  let dead := match opRow c.opcode with
    | some o => (o.names == .ownStream || o.names == .ownBlock) && (needsSegs s c).any s.integ.deadSeg.contains
    | none => false
  if !dead then none
  else if c.opcode = 0x20 ∨ c.opcode = 0x24 then some 0x0202
  else if [0x21, 0x22, 0x23, 0x25, 0x29].contains c.opcode then some 0x0201
  else none

/-- Serve command `id`, of opcode `op`, with `f`; a command that is not in flight, or waits, is left as it is, but wakes the sleeping
Segments that it needs. A Segment that has no core in service ends it, and masking is exhausted after its completion (R97, R414). -/
def serve (op id : Nat) (f : Flight → State → State) (s : State) : Host.Outcome State Fault Refusal :=
  match tget id s.rge.flights with
  | some c =>
    if c.opcode = op ∧ maySetOut s id c then
      match deadStatus s c with
      | some st => .next (exhaust st c.nsid (complete id st 0 (endBoundFailed id s)))
      | none => .next (f c s)
    else .next (if c.opcode = op then wakeFor c s else s)
  | none => .next s

/-- The error information of a command that names a stream. -/
def strmInfo (c : Flight) : ErrInfo := { stream := c.stream }

/-! ## Namespaces (R106 to R108, R495) -/

/-- NS_CREATE (R107). DESIGN CHOICE (log 149): 0x0403 of R509 answers before the other checks. -/
def nsCreate (id : Nat) (c : Flight) (s : State) : State :=
  let want := c.nsid
  let n := if want = 0 then (tfree 1 1024 s.cmd.nss).getD 0 else want
  let x : Ns := { nstype := dfld c 24 1, grain := dfld c 25 1, zest := dfld c 26 1, owner := dfld c 28 2, cap := dfld c 32 8,
                  holdMax := dfld c 40 8 }
  if !gateOpen s 0 2 then complete id 0x0403 0 s
  else if want ≠ 0 ∧ (nsOf s want).isSome then complete id 0x010E 0 s
  else if want > 1024 then completeX id 0x0106 0 { param := 4 } s
  else if n = 0 then complete id 0x0305 0 s
  else if x.cap * (if x.nstype = 0 ∧ x.grain = 1 then 4 else 1) > unalloc s then completeX id 0x0305 0 { param := 32 } s
  else if !rngReady s ∨ !s.pins.vppOk then s
  else
    let (salt, s) := random 16 s
    let s := writeSlot (1 + n) true 3 n salt s
    complete id 0 n (onCmd (fun q => { q with nss := tput n x q.nss }) s)

/-- NS_CREATE. A salt comes from the random generator, and the slot goes to the Pith Array, so the command waits while either is
withheld (R505, R792). -/
def execNsCreate (t id : Nat) (s : State) : Host.Outcome State Fault Refusal := serve 0x02 id (nsCreate id) (tick t s)

/-- Some command in flight, beside `id`, names namespace `n` (R108). -/
def nsBusy (s : State) (id n : Nat) : Bool :=
  tany (fun j c => j != id && c.nsid == n && (match opRow c.opcode with
    | some o => o.names != .nothing || (c.opcode == 0x01 && dfld c 24 1 == 1)
    | none => false)) s.rge.flights

/-- Undrained items leave Stone, which may end the bypass of R260. -/
def dropStone (p : StoneItem → Bool) (s : State) : State :=
  [0, 1, 2, 3].foldl (fun s n => updateBypass n s) { s with med := { s.med with stone := tmap (fun _ l => l.filter fun i => !p i) s.med.stone } }

/-- NS_DELETE (R108, R495): the slot is disabled before anything is deallocated. -/
def nsDelete (id : Nat) (c : Flight) (s : State) : State :=
  let n := c.nsid
  if nsBusy s id n ∨ tany (fun _ x => x.nsid == n) s.cmd.streams then complete id 0x010E 0 s
  else if !s.pins.vppOk then s
  else
    let s := writeSlot (1 + n) false 3 n [] s
    complete id 0 0 (dropStone (fun i => !i.isRec && i.a == n) (onCmd (fun q => { q with nss := tdel n q.nss }) s))

/-- NS_DELETE. -/
def execNsDelete (t id : Nat) (s : State) : Host.Outcome State Fault Refusal := serve 0x03 id (nsDelete id) (tick t s)

/-! ## Streams (R109 to R113, R166 to R171, R198) -/

/-- The better of two Segments for a stream under R110: most unreserved Seal budget, then most unreserved Recall budget,
then the lowest number. -/
def betterSeg (s : State) (a b : Nat) : Bool :=
  let f := fun n => (sealBudget s n - sealResv s n, recallBudget s n - recallResv s n)
  decide ((f b).1 > (f a).1) || ((f b).1 == (f a).1 && decide ((f b).2 > (f a).2))

/-- The Segment that R110 assigns. -/
def chooseSeg (s : State) : Nat := match segs s with
  | [] => 0
  | h :: t => t.foldl (fun a b => if betterSeg s a b then b else a) h

/-- Streams that a function owns. -/
def ownedStreams (s : State) (f : Nat) : Nat := tcount (fun _ x => strmOwner s x == f) s.cmd.streams

/-- The genesis block of R198. -/
def genesisBlock (nsid stream created : Nat) (nonce : List Byte) : List Byte :=
  ascii "VELRAL-CHAIN-V1" ++ [0] ++ pack [(4, nsid), (2, stream), (2, 0), (8, created)] ++ fit 16 nonce ++ zeros 16

/-- End DOZE: every sleeping Segment and RINDX wake (R180). -/
def endDoze (s : State) : State := updateFloor (wakeAll s)

/-- STREAM_CREATE (R111, R167, R198). -/
def strmCreate (id : Nat) (c : Flight) (s : State) : State :=
  let want := c.stream
  let k := if want = 0xFFFF then tfree 0 8192 s.cmd.streams else some want
  let seg := if dfld c 27 1 = 0xFF then chooseSeg s else dfld c 27 1
  let rate := dfld c 40 4
  let recalls := dfld c 44 2
  match (if ownedStreams s c.fn ≥ (funcOf s c.fn).streams then none else k) with
  | none => complete id 0x0305 0 s
  | some k =>
    if (strmOf s k).isSome then completeX id 0x010E 0 { param := 24, stream := k } s
    else if sealResv s seg + rate > sealBudget s seg ∨ recallResv s seg + recalls > recallBudget s seg then
      completeX id 0x0504 0 { param := 40 } s
    else
      let (nonce, s) := random 16 s
      let created := evTime s
      let g := Config.hmacSha256 (chainKey s c.nsid) (genesisBlock c.nsid k created nonce)
      let x : Strm := { nsid := c.nsid, group := dfld c 26 1, seg := seg, codec := dfld c 28 1, retain := dfld c 29 1,
                        zest := dfld c 30 1, holdPeriod := dfld c 32 8, rate := rate, recalls := recalls, nonce := nonce,
                        created := created, genesis := g, head := g, expSeen := s.cad.frame }
      let s := if rate ≠ 0 ∨ recalls ≠ 0 then endDoze s else s
      let s := onCmd (fun q => { q with streams := tput k (fullCredit s x) q.streams }) s
      complete id 0 (k + seg * 65536) (if (rate ≠ 0 ∨ recalls ≠ 0) ∧ levelOf s seg > 2 then relevelNow seg s else s)

/-- STREAM_CREATE (R111). DESIGN CHOICE (log 149): 0x0403 of an unusable namespace key answers before items 2 to 4. -/
def execStreamCreate (t id : Nat) (s : State) : Host.Outcome State Fault Refusal :=
  let s := tick t s
  if rngReady s then serve 0x04 id (fun c s =>
    if nsKeyOk s c.nsid then strmCreate id c s else complete id 0x0403 0 s) s
  else .next s

/-- A command on stream `k`, beside `id`, is in flight. -/
def strmBusy (s : State) (id k : Nat) : Bool :=
  tany (fun j c => j != id && ((namesStream c.opcode && c.stream == k) || (c.opcode == 0x2B && dfld c 24 1 == 3 && dfld c 28 2 == k)))
    s.rge.flights

/-- A fence that is not free covers the stream's group and a stored record of it (R112). -/
def fenceCovers (s : State) (x : Strm) : Bool := tany (fun _ r => fenced s x.group r.stamp) x.recs

/-- STREAM_DELETE (R112, R743). The selections and exports kept of the stream go with it (R125, R224). -/
def strmDelete (id : Nat) (c : Flight) (s : State) : State :=
  let k := c.stream
  let force := nbit (dfld c 26 1) 0
  match strmOf s k with
  | none => completeX id 0x010B 0 (strmInfo c) s
  | some x =>
    if strmBusy s id k ∨ fenceCovers s x then completeX id 0x010E 0 (strmInfo c) s
    else if tany (fun _ r => heldNow s r) x.recs ∧ (!force ∨ s.life.vault) ∧ s.life.lstate ≠ .returned then
      completeX id 0x0302 0 (strmInfo c) s
    else
      let s := onCmd (fun q => { q with streams := tdel k q.streams
                                        sels := q.sels.filter fun e => fld e.area 0 2 != k
                                        exports := q.exports.filter fun e => e.stream != k }) s
      complete id 0 0 (dropStone (fun i => i.isRec && i.a == k) s)

/-- STREAM_DELETE. -/
def execStreamDelete (t id : Nat) (s : State) : Host.Outcome State Fault Refusal :=
  serve 0x05 id (strmDelete id) (tick t s)

/-- All ones in 8 bytes: none (R113). -/
def none8 : Nat := 0xFFFFFFFFFFFFFFFF

/-- The structure of R113. -/
def strmStruct (k : Nat) (x : Strm) : List Byte :=
  let oldest := x.recs.head?
  pack [(2, k), (1, x.group), (1, x.seg), (4, x.nsid), (1, x.codec), (1, x.retain), (1, x.zest), (1, 0), (4, x.rate),
    (8, match oldest with | some (n, _) => n | none => none8), (8, if x.next = 0 then none8 else x.next - 1),
    (8, match oldest with | some (_, r) => r.stamp | none => 0), (8, x.lastStamp)]
  ++ fit 32 x.head
  ++ pack [(8, tcount (fun _ r => r.hold) x.recs), (8, strmBytes x), (8, x.holdPeriod), (2, x.recalls), (22, 0)]

/-- STREAM_QUERY (R113). -/
def execStreamQuery (t id : Nat) (s : State) : Host.Outcome State Fault Refusal :=
  serve 0x06 id (fun c s => match strmOf s c.stream with
    | some x => complete id 0 0 (output c (strmStruct c.stream x) s)
    | none => completeX id 0x010B 0 (strmInfo c) s) (tick t s)

/-! ## Control (R135, R146, R147, R151) -/

/-- The oldest command in flight of a function with a ring and a CID. -/
def flightNamed (s : State) (f ring cid : Nat) : Option (Nat × Flight) :=
  tfind (fun _ c => c.fn == f && c.ring == ring && c.cid == cid) s.rge.flights

/-- A Seal that ends without folding leaves its stream's service (R192). -/
def leaveStream (id : Nat) (c : Flight) (s : State) : State :=
  if c.isSeal then
    onStrm c.stream (fun x => { x with inService := if x.inService = some id then none else x.inService }) s
  else s

/-- ABORT's RESULT, and the state after the named command's end (R146). -/
def abortNamed (f ring cid : Nat) (s : State) : Nat × State := match flightNamed s f ring cid with
  | none => (2, s)
  | some (j, q) => if q.begun ∨ q.opcode = 0x08 then (1, s)
    else (0, complete j 0x0109 0 (endBoundFailed j (dropQueuedRun j (leaveStream j q s))))

/-- ABORT (R146). -/
def execAbortCmd (t id : Nat) (s : State) : Host.Outcome State Fault Refusal :=
  serve 0x08 id (fun c s =>
    let (r, s) := abortNamed c.fn (dfld c 24 2 % 4096) (dfld c 26 2) s
    complete id 0 r s) (tick t s)

/-- Release fence slot `slot` (R135): freed at once, the table queued, and a Cadence notice of kind 5. -/
def releaseFence (slot : Nat) (s : State) : State :=
  cadNotice (evTime s) 5 slot (queueFences (onCad (fun c => { c with fences := tdel slot c.fences }) s))

/-- FENCE_RELEASE (R135). The notice follows the completion (R97). -/
def execFenceRelease (t id : Nat) (s : State) : Host.Outcome State Fault Refusal :=
  serve 0x09 id (fun c s =>
    let k := dfld c 24 1
    if c.fn ≠ 0 ∧ s.life.vault then complete id 0x0501 0 s
    else match (if k > 16 then none else tget k s.cad.fences) with
    | none => completeX id 0x0106 0 { param := 24 } s
    | some x =>
      if c.fn ≠ 0 ∧ (k = 16 ∨ !tany (fun _ y => y.group == x.group && strmOwner s y == c.fn) s.cmd.streams) then
        complete id 0x0401 0 s
      else releaseFence k (complete id 0 0 s)) (tick t s)

/-- DEPOT_BEGIN: ACTION 1 (R147). Its Mode notice follows the completion (R97). A window that reaches beyond the last FRAME ends there. -/
def execDepotBegin (t id : Nat) (s : State) : Host.Outcome State Fault Refusal :=
  serve 0x0E id (fun c s =>
    if dfld c 24 1 ≠ 1 then s
    else
      let e := s.cad.frame + dfld c 28 4
      let set := onCmd fun q => { q with depotEnd := some e }
      let active := s.cmd.depotEnd.isSome
      let s := complete id 0 (e * 2 ^ 24) s
      if active then withModes 4 set s else depotStart (withModes 1 set s)) (tick t s)

/-- End DEPOT (R147, R331). -/
def endDepot (s : State) : State := depotStop (withModes 1 (onCmd fun q => { q with depotEnd := none }) s)

/-- DEPOT_STOP: ACTION 0 (R147). -/
def execDepotStop (t id : Nat) (s : State) : Host.Outcome State Fault Refusal :=
  serve 0x0E id (fun c s =>
    if dfld c 24 1 ≠ 0 then s
    else if s.cmd.depotEnd.isNone then complete id 0x0306 0 s
    else endDepot (complete id 0 (evTime s) s)) (tick t s)

/-- DEPOT_WINDOW_END: FRAME has reached the end that ACTION 1 set (R147). -/
def execDepotWindowEnd (t : Nat) (s : State) : Host.Outcome State Fault Refusal :=
  let s := tick t s
  match s.cmd.depotEnd with
  | some e => if s.cad.frame ≥ e then .next (endDepot s) else .next s
  | none => .next s

/-- A read of host memory for command `c` is answered by an error or by poisoned data: AER and DT01 (R429, R666). -/
def readPoison (c : Flight) (s : State) : State := raise 1 { seg := c.seg, func := c.fn } (if bypassed s 1 then s else emit (.aer false 1) s)

/-- End a command whose data could not be read from host memory: 0x0108, to which DT01 contributed (R144, R429). -/
def hostReadFailed (id : Nat) (s : State) : State := match tget id s.rge.flights with
  | some c => completeX id 0x0108 0 { detector := 1 } (readPoison c s)
  | none => s

/-- FW_DOWNLOAD: `data` is what the host memory read gave, nothing where it failed (R151). -/
def execFwDownload (t id : Nat) (data : Option (List Byte)) (s : State) : Host.Outcome State Fault Refusal :=
  serve 0x0C id (fun c s => match data with
    | none => hostReadFailed id s
    | some d => match takesData id c s with
      | (false, s) => s
      | (true, s) => complete id 0 0 (onCmd (fun q => { q with staging := patch q.staging (dfld c 24 4) (fit c.len d) }) s)) (tick t s)

/-! ## MAINT (R150) -/

/-- The chain of a stream as its records give it: the number of the first record that fails, if any (R206). `prev` is the
tag before the first record of the list. -/
def chainFails (key prev : List Byte) : List (Nat × Rec) → Option Nat
  | [] => none
  | (n, r) :: t =>
    let h := patch r.header 112 (zeros 32)
    let l := (recContent r).getD []
    let d := Config.sha256 l
    if slice r.header 80 32 = fit 32 d ∧ fld r.header 76 4 = Config.crc32c l
        ∧ fit 32 r.tag = fit 32 (Config.hmacSha256 key (fit 32 prev ++ h ++ fit 32 d)) ∧ !r.damaged then
      chainFails key r.tag t
    else some n

/-- The tag before record `n`: of the stored record, of its stub, or the genesis head (R206). DESIGN CHOICE (log 151): where the record before was
reclaimed before `n` folded, so that R205 keeps no stub, it is the head that `n` folded on. -/
def tagBefore (x : Strm) (n : Nat) : List Byte :=
  if n = 0 then x.genesis
  else match tget (n - 1) x.recs with
    | some r => r.tag
    | none => match tget (n - 1) x.stubs with
      | some (_, g) => g
      | none => match tget n x.recs with
        | some r => r.prev
        | none => zeros 32

/-- The first record of the stored chain that fails, each run starting from its predecessor (R206). -/
def chainOf (key : List Byte) (x : Strm) : Tab Rec → Option Nat
  | [] => none
  | (n, r) :: t => match chainFails key (tagBefore x n) [(n, r)] with
    | some m => some m
    | none => chainOf key x t

/-- The check of a run that starts at record `first` of Segment `seg` ends, `fails` being the record that fails it: DT49, which
an injection raises at the run's first record (R206, R429). With the checker bypassed nothing fails. -/
def chainDetect (seg first : Nat) (fails : Option Nat) (s : State) : Option Nat × State :=
  let (inj, ef, s) := meet 49 seg 0xFFFF false s
  match (if inj then some first else fails) with
  | some n => (if bypassed s 49 then none else some n, raiseF 49 { seg := seg, loc := n } ef s)
  | none => (none, s)

/-- MAINT of a kind. -/
def maint (kind id : Nat) (f : Flight → State → State) (s : State) : Host.Outcome State Fault Refusal :=
  serve 0x2B id (fun c s => if dfld c 24 1 = kind then f c s else s) s

/-- What is left of a MAINT command's work, and its RESULT so far (R329). -/
def keepMaint (id : Nat) (l : List Nat) (n : Nat) (s : State) : State :=
  endZ (onFlight id (fun c => { c with todo := some l, worked := n }) s)

/-- A MAINT command completes when nothing is left of its work, with the blocks processed as RESULT; until then it waits (R150, R329). -/
def maintDone (id : Nat) (l : List Nat) (n : Nat) (s : State) : State :=
  let s := keepMaint id l n s
  if l.isEmpty then complete id 0 n s else s

/-- MAINT_PATROL (R150): the blocks of a namespace are read, a page group at a time as NAND_READ_COMPLETE reports; RESULT is the number of blocks
processed. -/
def execMaintPatrol (t id : Nat) (s : State) : Host.Outcome State Fault Refusal :=
  maint 1 id (fun c s =>
    if !nsKeyOk s c.nsid then complete id 0x0403 0 s
    else match c.todo with
      | none => maintDone id (patrolWork s c.nsid) (nsBlocks s c.nsid) s
      | some l => maintDone id (patrolLeft s l) c.worked s) (tick t s)

/-- MAINT_COMPACT (R150): a unit of work at a time. DEPOT is checked under R83, and again when the work would start. -/
def execMaintCompact (t id : Nat) (s : State) : Host.Outcome State Fault Refusal :=
  maint 2 id (fun c s =>
    if s.cmd.depotEnd.isNone ∧ c.todo.isNone then complete id 0x0503 0 s
    else if !nsKeyOk s c.nsid then complete id 0x0403 0 s
    else
      let (l, n, s) := compactStep (c.todo.getD (compactWork s c.nsid)) s
      maintDone id l (c.worked + n) s) (tick t s)

end Sys2Proof.Machine
end

