-- ==== Sys2Proof/Machine/Seal.lean ====
section
/-!
DEFINITION. Seals, their folds, expiry and Retention notices, and the counters of Class S (chapters 04 and 05).
-/
namespace Sys2Proof.Machine

/-! ## The end of a bound (R175 to R182) -/

/-- LEN total of the other bounded Seals of the Segment that stood before a Seal at its Pip's arrival (R176). -/
def backlog (s : State) (id : Nat) (c : Flight) : Nat :=
  tsum (fun j q => if j ≠ id ∧ q.isSeal ∧ q.bound = .bounded ∧ q.seg = c.seg ∧ q.pipAt ≤ c.pipAt then q.len else 0) s.rge.flights
    + s.cmd.done.foldl (fun n e => if e.1 = c.seg ∧ e.2.2.1 ≤ c.pipAt ∧ e.2.2.2 > c.pipAt then n + e.2.1 else n) 0

/-- The bound of a command in ns (R176, R177). -/
def boundNs (c : Flight) : Nat := if c.isSeal then (if c.len ≤ 65536 then 20000 else 40000) else 350000

/-- Note the interval of a bounded command in its Segment's maximum (R185). -/
def noteMax (c : Flight) (ns : Nat) (s : State) : State :=
  let v := min ns 0xFFFFFFFF
  onCmd (fun q =>
    if c.isSeal then { q with maxSeal := tset 0 c.seg (max v (tgetD 0 c.seg q.maxSeal)) q.maxSeal }
    else { q with maxRecall := tset 0 c.seg (max v (tgetD 0 c.seg q.maxRecall)) q.maxRecall }) s

/-- The bound of Class S command `id` ends now with success: its cause is counted, or its interval is held against the bound
(R181, R182). -/
def boundEnds (id : Nat) (c : Flight) (d : Conduct) (s : State) : State :=
  if c.bound = .notS then s
  else
    let cs := conductCauses s c d ++ (if c.isSeal && decide (backlog s id c > 131072) then [4] else [])
    let (inj, ef, s) := if c.isSeal && c.bound == .bounded then meet 25 c.seg 0xFFFF false s else (false, 0, s)
    let ns := s.now - c.pipAt + (if inj then 50000 else 0)
    let s := if c.bound = .bounded then noteMax c ns s else s
    let s := if c.bound = .bounded then rememberDone c s else s
    match firstCause cs with
    | some k => voidBound c.seg k s
    | none =>
      if ns > boundNs c then
        raiseF 25 { seg := c.seg, func := c.fn, aux := ns } ef (if bypassed s 25 then s else bumpTallyQuiet (Reg.clsOverrun c.seg) s)
      else s

/-- The completion `f` of command `id`, and then the end of its bound, whose report follows the completion (R97). -/
def endBound (id : Nat) (d : Conduct) (f : State → State) (s : State) : State := match tget id s.rge.flights with
  | none => f s
  | some c => boundEnds id c d (f s)

/-- A Seal ends without folding (R192). -/
def failSealX (id status : Nat) (c : Flight) (x : ErrInfo) (s : State) : State :=
  completeX id status 0 { x with stream := c.stream } (endBoundFailed id (leaveStream id c s))

/-- The same, no detector having contributed. -/
def failSeal (id status : Nat) (c : Flight) (s : State) : State := failSealX id status c {} s

/-! ## The Seal (R116, R191, R195 to R200) -/

/-- The retention class of a Seal (R207). -/
def sealHold (c : Flight) (x : Strm) : Bool :=
  let rc := dfld c 26 1 % 4
  if rc = 0 then nbit x.retain 0 else rc == 2

/-- Seals of the stream ahead of `id` that have been admitted: they take the numbers before it (R196). -/
def sealsAhead (s : State) (id k : Nat) : Nat :=
  tcount (fun j c => decide (j < id) && c.isSeal && c.admitted && c.stream == k) s.rge.flights

/-- Checks 1 to 5 of R116. -/
def sealChecks (s : State) (id : Nat) (c : Flight) (x : Strm) : Check :=
  firstFail [
    need (!(nbit (dfld c 26 1) 2 && s.cad.qual != .locked && s.cad.qual != .master)) 0x0704 26,
    need (!s.cad.exhausted) 0x0701 0xFF,
    need (x.next + sealsAhead s id c.stream != 0xFFFFFFFFFFFF) 0x0305 0xFF,
    need (nsKeyOk s c.nsid) 0x0403 4,
    need (!belowFloor s) 0x0304 0xFF]

/-- Check 6 of R116: reclaim under R300, then room for the record; if it has room, the room is reserved. -/
def sealRoom (id : Nat) (c : Flight) (x : Strm) (ns : Ns) (s : State) : State :=
  let hold := sealHold c x
  let s := makeRoom c.stream x ns c.len s
  match strmOf s c.stream with
  | none => failSeal id 0x010B c s
  | some x =>
    let slots := sealSlots s c.stream x
    if nsRoom s c.nsid ns c.len ∧ segRoom s x.seg slots ∧ mediaRoom s x.seg c.len ∧ (!hold || holdRoom s c.nsid ns c.len) then
      onFlight id (fun c => { c with admitted := true, resvSlots := slots, resvHold := hold }) s
    else failSeal id (if hold then 0x0301 else 0x0303) c s

/-- SEAL: checks 1 to 6 of R116, before anything is read. -/
def execSealRec (t id : Nat) (s : State) : Host.Outcome State Fault Refusal :=
  serve 0x20 id (fun c s =>
    if c.admitted then s
    else match strmOf s c.stream, nsOf s c.nsid with
      | some x, some ns => match sealChecks s id c x with
        | some (st, p) => completeX id st 0 { param := p, stream := c.stream } (endBoundFailed id s)
        | none => sealRoom id c x ns s
      | _, _ => failSeal id 0x010B c s) (tick t s)

/-- A Seal enters its stream's service and asks host memory for its record: all of it in Class S, else what R165 allows now (R97, R195). -/
def startSeal (k id : Nat) (c : Flight) (s : State) : State :=
  let n := if servedS c then c.len else readAllow s c.len
  onStrm k (fun x => { x with inService := some id })
    (onFlight id (fun c => { c with begun := true, stone := c.len, reading := n, toRead := c.len - n }) s)

/-- SEAL_SERVICE_START: no Seal of stream `k` is in service, so the earliest fetched one starts its reads, once Stone has
room for it and the Segment an inline context (R97, R169, R195, R472). One of a Class A or B ring is a write that waits for the relocation that goes before it (R306). -/
def execSealServiceStart (t k : Nat) (s : State) : Host.Outcome State Fault Refusal :=
  let s := tick t s
  match strmOf s k, tfind (fun _ c => c.isSeal && c.stream == k) s.rge.flights with
  | some x, some (id, c) =>
    if x.inService.isSome ∨ !c.admitted then .next s
    else if !maySetOut s id c then .next (wakeFor c s)
    else if !inlineRoom s c then .next s
    else if stoneRoom s c.seg c.len (c.cls == .s) then
      if c.cls = .s then .next (startSeal k id c s)
      else if !mayRead s c then .next s
      else match foreground (4 * id + c.seg) c.seg c.len (clsNo c.cls) s with
        | (false, s) => .next s
        | (true, s) => .next (startSeal k id c s)
    else if c.cls = .s ∧ !c.voids.contains 8 then .next (onFlight id (fun c => { c with voids := 8 :: c.voids }) s)
    else .next s
  | _, _ => .next s

/-- The record header agrees with the descriptor (R190). -/
def headerAgrees (c : Flight) (h : List Byte) : Bool :=
  fld h 0 4 == 0x52454C56 && fld h 4 2 == 1 && fld h 6 2 == 160 && 160 + fld h 8 4 == c.len

/-- The expiry of a Hold record sealed with a STAMP (R207). -/
def sealExpiry (c : Flight) (x : Strm) (stamp : Nat) : Nat :=
  min 0xFFFFFFFFFF (stamp / 2 ^ 24 + (if dfld c 32 8 = 0 then x.holdPeriod else dfld c 32 8))

/-- The header as the fold fills it but for TAG (R188, R189). -/
def foldHeader (s : State) (c : Flight) (x : Strm) (h payload : List Byte) (stamp : Nat) : List Byte :=
  let hold := sealHold c x
  let odo := flagOf s Reg.cadCtrl 6
  slice h 0 12
    ++ pack [(2, fld h 12 2 % 2), (2, flags [hold, c.cls == .s, s.brc.active, odo])]
    ++ slice h 16 24
    ++ pack [(4, c.nsid), (2, c.stream), (1, s.cad.qual.code), (1, x.codec), (8, x.next), (8, stamp),
         (8, if hold then sealExpiry c x stamp else 0), (2, if odo then s.cad.odoDelta else 0),
         (2, if odo then s.cad.odoLastFrame else 0), (4, Config.crc32c payload)]
    ++ fit 32 (Config.sha256 payload) ++ zeros 48

/-- The chain tag of a header with TAG zero (R199). -/
def chainTag (key head h : List Byte) : List Byte :=
  fit 32 (Config.hmacSha256 key (fit 32 head ++ h ++ slice h 80 32))

/-- The fold, as one act: stamp, number, tag, head, index entry, and the record in Stone (R196 to R200, R227, R236). -/
def fold (id : Nat) (c : Flight) (x : Strm) (h payload : List Byte) (s : State) : List Byte × State :=
  let free := freeVal s % 2 == 1
  let s := if x.codec = 3 then draw s else s
  let (stamp, s) := issueStamp s
  let h0 := foldHeader s c x h payload stamp
  let tag := chainTag (chainKey s c.nsid) x.head h0
  let hostKey := nbit (fld h0 12 2) 0
  let p := parse x.codec hostKey x.still free payload
  let r : Rec := { header := patch h0 112 tag, payload := payload, hold := sealHold c x, expiry := fld h0 64 8,
                   back := backOf s x x.next p, far := farOf x x.next p, prev := x.head, iflags := iflagsOf p hostKey, units := p.units, types := p.types,
                   sealRing := c.cls == .s }
  let s := onStrm c.stream (fun x =>
    let y := { x with recs := tput x.next r x.recs }
    { y with next := x.next + 1, head := tag, lastStamp := stamp, still := p.still, inService := none,
             gen := if sliceNeed y > sliceSize then x.gen + 1 else x.gen }) s
  let s := addStone x.seg { isRec := true, a := c.stream, b := x.next, len := r.len, sealRing := c.cls == .s, since := s.now, cls := servedCls c } s
  let s := onFlight id (fun c => { c with stone := 0, admitted := false }) s
  let s := bump (Reg.idxRecordsLo x.seg) 1 s
  let s := if p.unparsed then bump (Reg.idxUnparsedLo x.seg) 1 s else s
  let s := bump (Reg.cryDigestLo x.seg) payload.length s
  let (inj, ef, s) := if x.codec = 0 then (false, 0, s) else meet 32 x.seg 0xFFFF false s
  let s := if inj then raiseF 32 { seg := x.seg, loc := c.stream } (ef + efMasked) s else s
  (tag, bumpHealth 3 1 (bumpHealthBy 1 1000000 c.len s))

/-- The ring that a Seal's completion goes to: the tag ring of a Seal ring, otherwise the CMP ring. -/
def sealPostKey (s : State) (c : Flight) : Nat := match ringOf s (ringKey c.fn true c.ring) with
  | some r => ringKey c.fn false (if c.cls = .s then r.tag else r.cq)
  | none => 0

/-- The ring takes no post any more: it is stopped, or gone. -/
def shutRing (s : State) (k : Nat) : Bool := match ringOf s k with
  | some q => q.stopped
  | none => true

/-- Complete a folded Seal: by its tag on a Seal ring, otherwise by a standard completion (R89, R90, R117). Where the post
fails, the ring stops and the completion is lost; on a ring that has stopped before it is discarded (R835). -/
def completeFolded (id : Nat) (c : Flight) (record : Nat) (tag : List Byte) (postBad : Bool) (s : State) : State :=
  if postBad && !shutRing s (sealPostKey s c) then
    let k := sealPostKey s c
    let a := match ringOf s k with | some q => if q.kind = .tag then q.base + 16 * c.slot else q.base + 16 * q.dev | none => 0
    dropFlight id (stopRing k 2 a 0 s)
  else if c.cls = .s then completeSeal id record tag s
  else complete id 0 record s

/-- SEAL_FOLD: the record of Seal `id` has reached Stone (`data`, nothing where a host read failed), header and index parse
are done, and it folds (R190 to R200). -/
def execSealFold (t id : Nat) (data : Option (List Byte)) (d : Conduct) (postBad : Bool) (s : State) :
    Host.Outcome State Fault Refusal :=
  let s := tick t s
  match tget id s.rge.flights with
  | none => .next s
  | some c => match strmOf s c.stream with
    | none => .next s
    | some x =>
      if x.inService ≠ some id ∨ c.toRead ≠ 0 then .next s
      else match data with
        | none => .next (failSealX id 0x0108 c { detector := 1 } (readPoison c s))
        | some l =>
          let l := fit c.len l
          if !headerAgrees c l then .next (failSeal id 0x0105 c s)
          else if s.cad.exhausted then .next (failSeal id 0x0701 c s)
          else
            let (tag, s) := fold id c x (slice l 0 160) (l.drop 160) s
            .next (endBound id d (completeFolded id c x.next tag postBad) s)

/-- CLS_SNAP_NOW (R185). -/
def execClsSnapNow (t n : Nat) (s : State) : Host.Outcome State Fault Refusal :=
  .next (strobe n (Reg.clsSnap n) (tick t s))

/-! ## Expiry and Retention notices (R208, R209, R212, R215, R216) -/

/-- The Retention notice of R216, to the stream's owner. -/
def retentionNotice (k : Nat) (x : Strm) (kind count first : Nat) (s : State) : State :=
  post (strmOwner s x) 0x07 (strmOwner s x) (pack [(2, k), (1, kind), (1, 0), (4, min count 0xFFFFFFFF), (8, first)]) s

/-- The records of a stream that expired after the FRAME last counted. -/
def newlyExpired (s : State) (x : Strm) : List Nat :=
  (tfilter (fun _ r => expired s r && decide (r.expiry > x.expSeen)) x.recs).map (·.1)

/-- Count the records of a stream that have expired (R209, R215). -/
def countExpired (s : State) (x : Strm) : Strm :=
  let l := newlyExpired s x
  { x with expN := x.expN + l.length
           expFirst := if x.expN = 0 then l.headD 0 else min x.expFirst (l.headD x.expFirst)
           expSeen := s.cad.frame }

/-- Segment of a stream is awake, so its expiry is evaluated now (05, Modes). -/
def awake (s : State) (x : Strm) : Bool := sleepOf s x.seg == 0

/-- HOLD_EXPIRY: FRAME has reached the expiry of Hold records (R208, R209). -/
def execHoldExpiry (t : Nat) (s : State) : Host.Outcome State Fault Refusal :=
  let s := tick t s
  .next (onCmd (fun q => { q with streams := tmap (fun _ x => if awake s x then countExpired s x else x) q.streams }) s)

/-- The notices of kinds 1 and 2 of one stream, and its tallies cleared (R215). -/
def noticesOf (s : State) (kx : Nat × Strm) : State :=
  let x := countExpired s kx.2
  if !awake s x then s
  else
    let s := onStrm kx.1 (fun _ => { x with expN := 0, expFirst := 0, recN := 0, recFirst := 0 }) s
    let s := if x.expN > 0 then retentionNotice kx.1 x 1 x.expN x.expFirst s else s
    if x.recN > 0 then retentionNotice kx.1 x 2 x.recN x.recFirst s else s

/-- RETENTION_NOTICE_DUE: FRAME is a multiple of 64 (R215). -/
def execRetentionNoticeDue (t : Nat) (s : State) : Host.Outcome State Fault Refusal :=
  let s := tick t s
  if s.cad.frame % 64 = 0 then .next (s.cmd.streams.foldl noticesOf s) else .next s

/-! ## LOCK and RELEASE (R118, R119, R132 to R134, R210 to R213) -/

/-- The stored records of a stream with a stamp from T0 to T1. -/
def inRangeRecs (x : Strm) (t0 t1 : Nat) : Tab Rec := tfilter (fun _ r => decide (t0 ≤ r.stamp) && decide (r.stamp ≤ t1)) x.recs

/-- LOCK (R132). A range that holds no stored record counts as one whose every record is Hold already. DEDUCED (log 13). -/
def lockRecs (id : Nat) (c : Flight) (x : Strm) (ns : Ns) (s : State) : State :=
  let e := min 0xFFFFFFFFFF (s.cad.frame + dfld c 56 8)
  let l := inRangeRecs x (dfld c 40 8) (dfld c 48 8)
  let chg := tfilter (fun _ r => !r.hold || decide (r.expiry < e)) l
  let grow := tsum (fun _ r => if heldNow s r then 0 else r.len) chg
  if belowFloor s then completeX id 0x0304 0 (strmInfo c) s
  else if chg.isEmpty then completeX id 0x0306 0 (strmInfo c) s
  else if !holdRoom s c.nsid ns grow ∨ !mediaHolds s x.seg chg then completeX id 0x0301 0 (strmInfo c) s
  else
    let s := onStrm c.stream (fun x =>
      { x with recs := tmap (fun n r => if (tget n chg).isSome then { r with hold := true, expiry := if r.hold then max r.expiry e else e }
                                        else r) x.recs }) s
    complete id 0 chg.length s

/-- LOCK. -/
def execLockRange (t id : Nat) (s : State) : Host.Outcome State Fault Refusal :=
  serve 0x27 id (fun c s => match strmOf s c.stream, nsOf s c.nsid with
    | some x, some ns => lockRecs id c x ns s
    | _, _ => completeX id 0x010B 0 (strmInfo c) s) (tick t s)

/-- RELEASE (R133, R212, R213). -/
def releaseRecs (id : Nat) (c : Flight) (x : Strm) (s : State) : State :=
  let force := nbit (dfld c 26 1) 0
  let l := tfilter (fun _ r => r.hold) (inRangeRecs x (dfld c 40 8) (dfld c 48 8))
  let early := tfilter (fun _ r => !expired s r) l
  if !early.isEmpty ∧ (!force ∨ s.life.vault) then completeX id 0x0302 0 (strmInfo c) s
  else if l.isEmpty then completeX id 0x0306 0 (strmInfo c) s
  else
    let s := onStrm c.stream (fun x =>
      { x with recs := tmap (fun n r => if (tget n l).isSome then { r with hold := false, expiry := 0 } else r) x.recs }) s
    let s := complete id 0 l.length s
    early.foldl (fun s p => retentionNotice c.stream x 3 1 p.1 s) s

/-- RELEASE. -/
def execReleaseRange (t id : Nat) (s : State) : Host.Outcome State Fault Refusal :=
  serve 0x28 id (fun c s => match strmOf s c.stream with
    | some x => releaseRecs id c x s
    | none => completeX id 0x010B 0 (strmInfo c) s) (tick t s)

end Sys2Proof.Machine
end

