-- ==== Sys2Proof/Machine/Recall.lean ====
section
/-!
DEFINITION. Recalls and exports (chapters 03, 05 and 07), and the commands of block namespaces.
-/
namespace Sys2Proof.Machine

/-! ## Selection (R118 to R125, R238, R239) -/

/-- The descriptor bytes that make two Recalls or exports the same command: every field of R118 but OFFSET. -/
def selArea (c : Flight) : List Byte := slice c.desc 24 8 ++ slice c.desc 40 24

/-- The kept selection of the command (R125). -/
def keptSel (s : State) (c : Flight) : Option Sel :=
  s.cmd.sels.find? fun e => e.fn == c.fn && e.opcode == c.opcode && e.nsid == c.nsid && e.area == selArea c

/-- Keep a selection, in place of an earlier one of the same command. -/
def keepSel (c : Flight) (l : List Nat) (s : State) : State :=
  let e : Sel := { fn := c.fn, opcode := c.opcode, nsid := c.nsid, area := selArea c, recs := l }
  onCmd (fun q => { q with sels := e :: q.sels.filter fun x => !(x.fn == e.fn && x.opcode == e.opcode && x.nsid == e.nsid && x.area == e.area) }) s

/-- `n` consecutive record numbers from `a`, or fewer where the chain ends first (R120, R121). -/
def consecutive (x : Strm) (a n : Nat) : List Nat := (List.range (min n (x.next - a))).map (a + ·)

/-- The selection, or 0x0207 when one of it is not stored. -/
def stored (x : Strm) (l : List Nat) : Nat ⊕ List Nat :=
  if l.all fun n => (tget n x.recs).isSome then .inr l else .inl 0x0207

/-- NOSNAP, which Recalls and EXPORT carry in the same bit (R118). -/
def nosnap (c : Flight) : Bool := nbit (dfld c 26 1) 1

/-- The selection of RECALL_TIME (R120, R238). A record that has been reclaimed inside it gives 0x0207. DEDUCED (log 16). -/
def selTime (c : Flight) (x : Strm) (s : State) : (Nat ⊕ List Nat) × State :=
  match resolve x (dfld c 40 8) with
  | (0, n) =>
    let (m, s) := snapSel c.stream (nosnap c) n s
    (stored x (consecutive x m (dfld c 28 4)), s)
  | (e, _) => (.inl e, s)

/-- The selection of RECALL_RECORD (R121): from FROM, which is not snapped. -/
def selRecord (c : Flight) (x : Strm) (s : State) : (Nat ⊕ List Nat) × State :=
  let n := dfld c 40 8
  if n ≥ x.next then (.inl 0x010C, s)
  else if (tget n x.recs).isNone then (.inl 0x0207, s)
  else (stored x (consecutive x n (dfld c 28 4)), s)

/-- The selection of RECALL_RANGE and EXPORT (R122, R239). -/
def selRange (c : Flight) (x : Strm) (s : State) : (Nat ⊕ List Nat) × State :=
  match inRangeRecs x (dfld c 40 8) (dfld c 48 8) with
  | [] => (.inl 0x0204, s)
  | (n, r) :: t =>
    let last := (((n, r) :: t).getLast?.map (·.1)).getD n
    let (m, s) := snapSel c.stream (nosnap c) n s
    (stored x (consecutive x m (last + 1 - m)), s)

/-- The selection that a command works on: the first command's where it resumes one, a fresh one otherwise (R125). -/
def selection (sel : Flight → Strm → State → (Nat ⊕ List Nat) × State) (c : Flight) (x : Strm) (s : State) :
    (Nat ⊕ List Nat) × State :=
  match (if dfld c 32 8 = 0 then none else keptSel s c) with
  | some e => (stored x e.recs, s)
  | none => sel c x s

/-! ## The output of a Recall (R123 to R126, R264 to R266) -/

/-- A record as it is put out. -/
structure OutRec where
  num : Nat
  bytes : List Byte
  r : Rec

/-- The bytes of record `r` under the Recall flags (R118, R194, R266). -/
def recBytes (header rawz : Bool) (r : Rec) : List Byte :=
  (if header then r.header else [])
    ++ (if rawz then (if r.asObj then r.obj else wrapObject r.payload) else (recContent r).getD [])

/-- Zero bytes up to the next multiple of 8 (R123). -/
def pad8 (l : List Byte) : List Byte := l ++ zeros ((8 - l.length % 8) % 8)

/-- The output of some records, each at a multiple of 8 and padded to one, the last included (R123, R266, whose example pads
a record that stands alone; log 90). -/
def outputOf (l : List (List Byte)) : List Byte := l.flatMap pad8

/-- Offset of the record at index `i` of the output. -/
def offsetOf (l : List (List Byte)) (i : Nat) : Nat := (l.take i).foldl (fun n b => n + (pad8 b).length) 0

/-- The part of the output that a command writes: from OFFSET, at most LEN bytes (R124). -/
def window (out : List Byte) (off len : Nat) : List Byte := (out.drop off).take len

/-- RESULT of a Recall: bytes written and records selected (R124). -/
def recallResult (written sel : Nat) : Nat := written % 2 ^ 32 + sel * 2 ^ 32

/-- Why a record cannot be returned, as status and detector: its media data is beyond masking, it is damaged, its object fails where the read
decompresses it (`content`), or under VERIFY its digest or tag does not match (R126, R144, R265, R396, R408). -/
def recFault (s : State) (x : Strm) (verify content : Bool) (n : Nat) (r : Rec) : Option (Nat × Nat) :=
  if r.lost then some (0x0201, 45)
  else if r.damaged then some (0x0203, r.cause)
  else if content && (recContent r).isNone then some (0x0203, 30)
  else if verify ∧ (chainFails (chainKey s x.nsid) (tagBefore x n) [(n, r)]).isSome then some (0x0203, 49)
  else none

/-- What stops a command at a record: its index among those selected, its number, the status and the detector that contributed. -/
structure Bad where
  ix : Nat
  num : Nat
  status : Nat
  det : Nat
  deriving DecidableEq, Repr

/-- The first record that the command touches and cannot return. `i` counts records. -/
def firstFault (s : State) (x : Strm) (verify content : Bool) (l : List (List Byte)) (off len : Nat) :
    Nat → List (Nat × Rec) → Option Bad
  | _, [] => none
  | i, (n, r) :: t =>
    let a := offsetOf l i
    let touched := decide (a < off + len) && decide (a + (l.getD i []).length ≥ off)
    match (if touched then recFault s x verify content n r else none) with
    | some (e, k) => some { ix := i, num := n, status := e, det := k }
    | none => firstFault s x verify content l off len (i + 1) t

/-- How many of the next `n` output copies an injection for DT48 inverts, one after the other; in a bypass window the first goes out (R424, R428, R429). -/
def badCopies (seg : Nat) : Nat → State → Nat × State
  | 0, s => (0, s)
  | n + 1, s =>
    let (b, _, s) := meet 48 seg 0xFFFF false s
    if !b then (0, s) else if bypassed s 48 then (1, s) else let (k, s) := badCopies seg n s; (k + 1, s)

/-- Raise DT48 for each of `n` injected mismatches of record `loc`. -/
def raiseCopies (x : Site) (ef : Nat) : Nat → State → State
  | 0, s => s
  | n + 1, s => raiseCopies x ef n (raiseF 48 x ef s)

/-- Open the objects of some records; the answer is the first that every path leaves unread (R265). -/
def openAll (x : Strm) : Nat → List (Nat × Rec) → State → Option Bad × State
  | _, [], s => (none, s)
  | i, (n, r) :: t, s =>
    if !r.asObj then openAll x (i + 1) t s
    else
      let (bad, s) := openObject x.seg r.payload.length (recContent r).isNone s
      if bad then (some { ix := i, num := n, status := 0x0203, det := 30 }, s) else openAll x (i + 1) t s

/-- Events that fall on the copies of a read: its objects are decompressed (DT30), and an injection on the first record on its way out
(DT48), whose copy is made again through the ladder's nine steps, until one is whole (R265, R391, R429; log 94). The answer is the record whose
every copy failed. -/
def readEvents (x : Strm) (verify rawz : Bool) (rs : List (Nat × Rec)) (s : State) : Option Bad × State :=
  let (bad, s) := if !rawz ∨ verify then openAll x 0 rs s else (none, s)
  match rs with
  | [] => (bad, s)
  | (n, _) :: _ =>
    let (k, s) := badCopies x.seg 10 s
    let s := raiseCopies { seg := x.seg, loc := n } (efInjected + if k = 10 then 0 else efMasked) k s
    (if k = 10 then some { ix := 0, num := n, status := 0x0203, det := 48 } else bad, s)

/-- Count what the reads of records did: bytes deciphered, content decompressed, payloads digested. The answer is a record of which no whole
copy could be made. -/
def countReads (x : Strm) (verify rawz : Bool) (rs : List (Nat × Rec)) (s : State) : Option Bad × State :=
  let (bad, s) := readEvents x verify rawz rs s
  (bad, rs.foldl (fun s p =>
    let s := if p.2.band.isSome then bump (Reg.cryCipherLo x.seg) p.2.stored s else s
    if verify then bump (Reg.cryDigestLo x.seg) p.2.payload.length s else s) s)

/-- The first record that the command cannot return, with DT49 where VERIFY finds it (R126, R429). -/
def recallFault (x : Strm) (verify content : Bool) (l : List (List Byte)) (off len : Nat) (rs : List (Nat × Rec)) (s : State) :
    Option Bad × State :=
  let plain := firstFault s x false content l off len 0 rs
  if !verify ∨ rs.isEmpty then (plain, s)
  else
    let ix := fun n => (rs.findIdx? fun p => p.1 == n).getD 0
    let all := firstFault s x true content l off len 0 rs
    match chainDetect x.seg ((rs.head?.map (·.1)).getD 0) (if all = plain then none else all.map (·.num)) s with
    | (some n, s) => (some { ix := ix n, num := n, status := 0x0203, det := 49 }, s)
    | (none, s) => (plain, s)

/-- The end of a Recall whose records are read: `x` is what its first bad record gives, `out` its whole output. What its bound's end has to report follows
the completion (R97). -/
def recallEnd (id : Nat) (c : Flight) (l : List (List Byte)) (k off : Nat) (d : Conduct) (x : Option Bad) (s : State) : State :=
  let out := outputOf l
  match x with
  | some b =>
    let w := window (out.take (offsetOf l b.ix)) off c.len
    let s := completeX id b.status (recallResult w.length k) { stream := c.stream, loc := b.num, detector := b.det } (endBoundFailed id (output c w s))
    if b.status = 0x0201 then exhaust b.status c.nsid s else s
  | none =>
    let w := window out off c.len
    let rest := decide (out.length > off + c.len)
    endBound id d (fun s => complete id (if rest then 2 else 0) (recallResult w.length k) (output c w s)) s

/-- The pieces that hold bytes `a` to `e - 1` of stored data that begins at byte `o` of the first piece (R284). -/
def piecesIn (a e : Nat) : Nat → List Piece → List Piece
  | _, [] => []
  | o, p :: t => if o < e ∧ a < o + p.len then p :: piecesIn a e (o + p.len) t else piecesIn a e (o + p.len) t

/-- The pieces that a Recall of records reads for `len` bytes from `off` of its output, `l` being each record's output: of a Zest object all, and of a
raw record those of the bytes themselves, its header being stored before them where the output leaves it out (R177). -/
def recallPieces (raw headless : Bool) (l : List (List Byte)) (off len : Nat) (rs : List (Nat × Rec)) : List Piece :=
  (rs.zip (l.zip (List.range l.length))).flatMap fun x =>
    let b := offsetOf l x.2.2
    let a := max b off - b
    let e := min (b + x.2.1.length) (off + len) - b
    if e ≤ a then []
    else if x.1.2.asObj && !raw then x.1.2.pieces
    else piecesIn (if headless then a + 160 else a) (if headless then e + 160 else e) 0 x.1.2.pieces

/-- Pieces lie in more than one page group of some die, which costs their Recall the bound (R177, cause 11). -/
def spreadOut (s : State) (ps : List Piece) : Bool :=
  let l := (ps.map fun p => (p.band, p.unit)).dedup
  let dies := l.filterMap fun p => memberDie s p.1 (p.2 % 64)
  decide (dies.dedup.length < dies.length)

/-- A Recall of the records `sel` of stream `x` (R123 to R126, R832). `d` is what its timing showed. -/
def recallOut (id : Nat) (c : Flight) (x : Strm) (sel : List Nat) (d : Conduct) (s : State) : State :=
  if !nsKeyOk s c.nsid then completeX id 0x0403 0 (strmInfo c) (endBoundFailed id s)
  else
    let fl := dfld c 26 1
    let s := keepSel c sel s
    let rs := sel.filterMap fun n => (tget n x.recs).map fun r => (n, r)
    let l := rs.map fun p => recBytes (nbit fl 0) (nbit fl 2) p.2
    let off := dfld c 32 8
    let s := if spreadOut s (recallPieces (nbit fl 2) (!nbit fl 0) l off c.len rs) then onFlight id (fun c => { c with voids := 11 :: c.voids }) s else s
    let (bad, s) := countReads x (nbit fl 3) (nbit fl 2) rs s
    let (e, s) := if bad.isSome then (bad, s) else recallFault x (nbit fl 3) (!nbit fl 2 || nbit fl 3) l off c.len rs s
    recallEnd id c l sel.length off d e s

/-- A Recall by a selection. -/
def recallBy (op id : Nat) (sel : Flight → Strm → State → (Nat ⊕ List Nat) × State) (d : Conduct) (s : State) :
    Host.Outcome State Fault Refusal :=
  serve op id (fun c s => match strmOf s c.stream with
    | none => completeX id 0x010B 0 (strmInfo c) (endBoundFailed id s)
    | some x => match selection sel c x s with
      | (.inl e, s) => completeX id e 0 (strmInfo c) (endBoundFailed id s)
      | (.inr l, s) => recallOut id c x l d s) s

/-- The reads of a bounded Recall join the queues of their dies when it is fetched, as its selection then stands (R177, R357, R362, R363). -/
def bookReads (id : Nat) (s : State) : State := match tget id s.rge.flights with
  | none => s
  | some c =>
    if !boundedRead s (some id) ∨ (c.opcode ≠ 0x21 ∧ c.opcode ≠ 0x22) then s
    else match strmOf s c.stream with
      | none => s
      | some x => match (selection (if c.opcode = 0x21 then selTime else selRecord) c x s).1 with
        | .inl _ => s
        | .inr l =>
          let rs := l.filterMap fun n => (tget n x.recs).map fun r => (n, r)
          let fl := dfld c 26 1
          let out := rs.map fun p => recBytes (nbit fl 0) (nbit fl 2) p.2
          queueReads id (pieceGroups s (recallPieces (nbit fl 2) (!nbit fl 0) out (dfld c 32 8) c.len rs)) s

/-- DESCRIPTOR_FETCH: the fetch of R83, and the reads of a Recall that it brings. -/
def execDescriptorFetch (t : Nat) (desc : Option (List Byte)) (segs : List (Option (List Byte))) (s : State) :
    Host.Outcome State Fault Refusal :=
  let s := tick t s
  .next (updateFloor (bookReads s.rge.nextFlight (fetchNext desc segs s)))

/-- RECALL_TIME. -/
def execRecallTime (t id : Nat) (d : Conduct) (s : State) : Host.Outcome State Fault Refusal := recallBy 0x21 id selTime d (tick t s)

/-- RECALL_RECORD. -/
def execRecallRecord (t id : Nat) (d : Conduct) (s : State) : Host.Outcome State Fault Refusal :=
  recallBy 0x22 id selRecord d (tick t s)

/-- RECALL_RANGE. -/
def execRecallRange (t id : Nat) (s : State) : Host.Outcome State Fault Refusal := recallBy 0x23 id selRange {} (tick t s)

/-! ## Exports (R136, R137, R217 to R224) -/

/-- FWREV of the program that runs (R141, R778). -/
def fwrev (s : State) : List Byte :=
  let of := fun (b : BootSlot) => match b.image with | some i => fit 8 i.fwrev | none => zeros 8
  match s.boot.running with
  | .mainA => of s.pith.slotA
  | .recovA => of s.pith.slotA
  | .mainB => of s.pith.slotB
  | .recovB => of s.pith.slotB
  | .rom => ascii "ROM     "

/-- A plaintext record of an export (R221). -/
def plainRec (r : Rec) : List Byte := r.header ++ (recContent r).getD []

/-- Entries of R219. `off` is where the next record begins; `extra` is 16 with ENCRYPTED. -/
def exportEntries (s : State) (extra : Nat) : Nat → List (Nat × Rec) → List (List Byte)
  | _, [] => []
  | off, (n, r) :: t =>
    let len := r.len + extra
    (pack [(8, n), (8, r.stamp), (8, off), (4, len), (2, flags [r.hold, expired s r]), (2, 0)]
      ++ fit 32 (Config.sha256 (plainRec r)) ++ r.tag) :: exportEntries s extra (cdiv (off + len) 8 * 8) t

/-- The record at index `i` as the records section holds it: with ENCRYPTED its ciphertext and 16-byte tag (R221, R222). -/
def exportRec (e : ExpCtx) (i : Nat) (r : Rec) : List Byte :=
  if nbit e.xflags 0 then
    fit ((plainRec r).length + 16) (Config.gcmSeal e.key (e.exportId ++ le 4 i) (slice e.entries (96 * i) 96) (plainRec r))
  else plainRec r

/-- The manifest header of R218. -/
def manifest (s : State) (c : Flight) (x : Strm) (xid entries : List Byte) (rs : List (Nat × Rec)) (reclen : Nat) : List Byte :=
  let first := (rs.head?.map (·.1)).getD 0
  let last := (rs.getLast?.map (·.1)).getD 0
  ascii "VELRALXM" ++ pack [(2, 0x0100), (2, dfld c 26 1 % 4), (2, 96), (2, 0)] ++ fit 20 Config.serial ++ fwrev s
    ++ pack [(1, s.life.lstate.code), (3, 0), (4, c.nsid), (2, c.stream), (1, x.codec), (1, x.group)] ++ fit 8 xid
    ++ pack [(8, evTime s), (8, dfld c 40 8), (8, dfld c 48 8), (8, rs.length), (8, first), (8, last)]
    ++ fit 32 (tagBefore x first) ++ fit 32 ((rs.getLast?.map (·.2.tag)).getD []) ++ fit 16 x.nonce
    ++ pack [(8, x.created), (8, reclen)] ++ fit 48 (Config.sha384 entries)

/-- The signature block of R220. -/
def signatureBlock (s : State) (sig : List Byte) : List Byte := pack [(2, 1), (6, 0)] ++ keyId s ++ zeros 8 ++ fit 96 sig

/-- The export key of a function (R499). -/
def expKey (s : State) (f : Nat) : Option (List Byte) := tget f s.cry.expKeys

/-- Keep an export context; the function's oldest of four goes (R224). -/
def keepExport (e : ExpCtx) (s : State) : State :=
  onCmd (fun q => { q with exports := e :: (q.exports.filter fun x => x.fn != e.fn) ++ (q.exports.filter fun x => x.fn == e.fn).take 3 }) s

/-- Write part of an export from OFFSET (R124). -/
def exportOut (id : Nat) (c : Flight) (e : ExpCtx) (rs : List (Nat × Rec)) (s : State) : State :=
  let out := e.front ++ outputOf (rs.zipIdx.map fun p => exportRec e p.2 p.1.2)
  let off := dfld c 32 8
  let w := window out off c.len
  let rest := decide (out.length > off + c.len)
  complete id (if rest then 2 else 0) (recallResult w.length rs.length) (output c w s)

/-- The records of a list of numbers. -/
def recsOf (x : Strm) (l : List Nat) : List (Nat × Rec) := l.filterMap fun n => (tget n x.recs).map fun r => (n, r)

/-- A record of an export that cannot be read, its number, status and detector (R144, R265, R396, R408). -/
def exportFault (rs : List (Nat × Rec)) : Option Bad :=
  match rs.find? fun p => p.2.lost || p.2.damaged || (recContent p.2).isNone with
  | some p => some { ix := 0, num := p.1, status := if p.2.lost then 0x0201 else 0x0203,
                     det := if p.2.lost then 45 else if p.2.damaged then p.2.cause else 30 }
  | none => none

/-- The records up to the first that cannot be read, which is one of them where its object is what fails. -/
def tillFault : List (Nat × Rec) → List (Nat × Rec)
  | [] => []
  | p :: t => if p.2.lost || p.2.damaged then [] else if (recContent p.2).isNone then [p] else p :: tillFault t

/-- End an EXPORT that a record stops. -/
def exportFail (id : Nat) (b : Bad) (c : Flight) (s : State) : State :=
  let s := completeX id b.status 0 { stream := c.stream, loc := b.num, detector := b.det } s
  if b.status = 0x0201 then exhaust b.status c.nsid s else s

/-- The reads of an export's records: what they did, and the record that stops it (R144, R265). -/
def exportReads (x : Strm) (verify : Bool) (rs : List (Nat × Rec)) (s : State) : Option Bad × State :=
  let (bad, s) := countReads x verify false (tillFault rs) s
  (match exportFault rs with
    | some b => some (match bad with | some a => if a.num < b.num then a else b | none => b)
    | none => bad, s)

/-- Sign an export whose records passed every check, keep it and give its first window (R223, R224). -/
def exportSign (id : Nat) (c : Flight) (x : Strm) (l : List Nat) (s : State) : State :=
  let enc := nbit (dfld c 26 1) 0
  let rs := recsOf x l
  let (xid, s) := random 8 s
  let es := exportEntries s (if enc then 16 else 0) 0 rs
  let entries := es.flatten
  let reclen := match es.getLast? with | some e => cdiv (fld e 16 8 + fld e 24 4) 8 * 8 | none => 0
  let m := manifest s c x xid entries rs reclen
  let (sig, s) := attestSign m s
  let e : ExpCtx := { fn := c.fn, stream := c.stream, from_ := dfld c 40 8, to_ := dfld c 48 8, xflags := dfld c 26 1,
                      front := m ++ entries ++ signatureBlock s sig, exportId := fit 8 xid, recs := l,
                      key := (expKey s c.fn).getD [], entries := entries }
  exportOut id c e rs (keepExport e s)

/-- Build an export: the chain is checked, then the manifest, entries and signature are made and kept (R223, R224). -/
def exportBuild (id : Nat) (c : Flight) (x : Strm) (l : List Nat) (s : State) : State :=
  let enc := nbit (dfld c 26 1) 0
  let rs := recsOf x l
  if l.length > 262144 then completeX id 0x010D 0 (strmInfo c) s
  else if !nsKeyOk s c.nsid ∨ !attestOk s ∨ (enc ∧ (expKey s c.fn).isNone) then completeX id 0x0403 0 (strmInfo c) s
  else if enc ∧ !ctxRoom s x.seg c.fn then completeX id 0x0406 0 (strmInfo c) s
  else match exportReads x true rs s with
    | (some b, s) => exportFail id b c s
    | (none, s) => match chainDetect x.seg (l.headD 0) (chainFails (chainKey s x.nsid) (tagBefore x (l.headD 0)) rs) s with
      | (some n, s) => exportFail id { ix := 0, num := n, status := 0x0203, det := 49 } c s
      | (none, s) => exportSign id c x l s

/-- Resume an export from its kept context; with ENCRYPT it needs a free cipher context as the first command did (R125, R137, R224).
DESIGN CHOICE (log 154): of several contexts that match, the newest. -/
def exportResume (id : Nat) (c : Flight) (x : Strm) (s : State) : State :=
  match s.cmd.exports.find? fun e => e.fn == c.fn && e.stream == c.stream && e.from_ == dfld c 40 8 && e.to_ == dfld c 48 8
      && e.xflags == dfld c 26 1 with
  | none => completeX id 0x0106 0 { param := 32, stream := c.stream } s
  | some e =>
    let rs := recsOf x e.recs
    if rs.length ≠ e.recs.length then completeX id 0x0207 0 (strmInfo c) s
    else if !nsKeyOk s c.nsid then completeX id 0x0403 0 (strmInfo c) s
    else if nbit (dfld c 26 1) 0 ∧ !ctxRoom s x.seg c.fn then completeX id 0x0406 0 (strmInfo c) s
    else match exportReads x false rs s with
      | (some b, s) => exportFail id b c s
      | (none, s) => exportOut id c e rs s

/-- EXPORT. Its EXPORT_ID and signature need the random generator, without which it waits (R505). -/
def execExportRange (t id : Nat) (s : State) : Host.Outcome State Fault Refusal :=
  let s := tick t s
  if !rngReady s then .next s
  else serve 0x29 id (fun c s => match strmOf s c.stream with
    | none => completeX id 0x010B 0 (strmInfo c) s
    | some x =>
      if dfld c 32 8 ≠ 0 then exportResume id c x s
      else match selRange c x s with
        | (.inl e, s) => completeX id e 0 (strmInfo c) s
        | (.inr l, s) => exportBuild id c x l s) s

/-! ## Block I/O (R127 to R131, R279, R282, R283, R306) -/

/-- Store a grain in Stone: compressed inline where the namespace asks for it and RESCUE is not active, as one unit (R131,
R274, R283). The flag says that it became smaller. -/
def storeGrain (n : Nat) (x : Ns) (cls : Nat) (bad : List Nat) (g : Nat) (s : State) : Bool × State :=
  let seg := segOfGrain s x g
  let l := grainContent x g
  let (o, s) := if nbit x.zest 7 && !rescue s then compress seg (x.zest % 16) (grainShift x) bad l s else (none, s)
  let gr : Grain := match o with
    | some z => { stored := z.length, zobj := true, obj := z }
    | none => { stored := l.length }
  let s := onNs n (fun x => { x with grains := tput g gr x.grains }) s
  let s := onStone seg (·.filter fun i => i.isRec || i.a != n || i.b != g) s
  (o.isSome, addStone seg { isRec := false, a := n, b := g, len := l.length, sealRing := false, since := s.now, cls := cls } s)

/-- Store grains one by one; the flag says that one became smaller. -/
def storeGrains (n : Nat) (x : Ns) (cls : Nat) (bad : List Nat) (gs : List Nat) (s : State) : Bool × State :=
  gs.foldl (fun a g => let (o, s) := storeGrain n x cls bad g a.2; (a.1 || o, s)) (false, s)

/-- Key of a block of a namespace among the blocks written of late. -/
def wroteKey (n b : Nat) : Nat := n * 2 ^ 64 + b

/-- A command fetched after `id` has already written block `b` of namespace `n`, so that its content stands (R129). -/
def laterWrote (s : State) (id n b : Nat) : Bool := match tget (wroteKey n b) s.cmd.wrote with
  | some j => decide (id < j)
  | none => false

/-- Of blocks `a … a + k − 1`, those that a command fetched after `id` has written already. -/
def laterBlocks (s : State) (id n a k : Nat) : List Nat := ((List.range k).map (a + ·)).filter (laterWrote s id n)

/-- Some WRITE or DEALLOCATE in flight, beside `id`, was fetched before `j`. -/
def earlierWrites (s : State) (id j : Nat) : Bool :=
  tany (fun i c => decide (i < j) && i != id && (c.opcode == 0x24 || c.opcode == 0x26)) s.rge.flights

/-- Note which blocks command `id` has written, for the commands fetched before it that are still in flight; a note goes when none fetched before its own
command is left (R129). -/
def noteWrote (id n a k : Nat) (s : State) : State :=
  let put := fun m i => if laterWrote s id n (a + i) then m else tput (wroteKey n (a + i)) id m
  let w := (List.range k).foldl put s.cmd.wrote
  onCmd (fun q => { q with wrote := tfilter (fun _ j => earlierWrites s id j) w }) s

/-- Blocks written by a command: one 4,096-byte piece each, but for blocks `keep`, which a later command has written (R129). -/
def putBlocks (keep : List Nat) (a : Nat) (data : List Byte) : Nat → Tab (List Byte) → Tab (List Byte)
  | 0, t => t
  | n + 1, t => putBlocks keep (a + 1) (data.drop 4096) n (if keep.contains a then t else tput a (fit 4096 data) t)

/-- Stone has room for every grain (R169). -/
def grainsRoom (s : State) (x : Ns) (gs : List Nat) : Bool :=
  (segs s).all fun n => stoneRoom s n ((gs.filter fun g => segOfGrain s x g == n).length * grainBlocks x * 4096) false

/-- The checks of a block command's own (R128, R322, R832): status and PARAM. DESIGN CHOICE (log 149): of a WRITE, 0x0403 comes before 0x0304, as
R832 orders them for a Seal. -/
def blockChecks (s : State) (c : Flight) (x : Ns) (write key : Bool) : Check :=
  firstFail [need (dfld c 24 8 + dfld c 32 4 ≤ x.cap) 0x010C 24, need (!key || nsKeyOk s c.nsid) 0x0403 4,
    need (!(write && belowFloor s)) 0x0304 0xFF]

/-- Bytes of blocks `a … a + k − 1` that lie in Segment `m` (R279). -/
def bytesIn (s : State) (x : Ns) (a k m : Nat) : Nat :=
  4096 * ((List.range k).filter fun i => segOfGrain s x ((a + i) / grainBlocks x) == m).length

/-- The foreground relocation of write `key` of a class in each Segment that it touches; the answer says that it may go on (R306). -/
def makeWay (key cls : Nat) (x : Ns) (a k : Nat) (s : State) : Bool × State :=
  (segs s).foldl (fun p m =>
    if !p.1 ∨ bytesIn p.2 x a k m = 0 then p else foreground (4 * key + m) m (bytesIn p.2 x a k m) cls p.2) (true, s)

/-- Store the blocks of a WRITE of a class but `keep`: 0x0001 when every grain was stored raw (R131). -/
def writeData (n : Nat) (x : Ns) (cls a k : Nat) (keep : List Nat) (d : List Byte) (bad : List Nat) (s : State) : Nat × State :=
  let gs := grainsOf x a k
  let x := { x with blocks := putBlocks keep a d k x.blocks }
  let s := onNs n (fun y => { y with blocks := x.blocks }) s
  let (small, s) := storeGrains n x cls bad gs s
  (if nbit x.zest 7 && !rescue s && !small then 1 else 0, bumpHealthBy 1 1000000 (4096 * k) s)

/-- What stops a block command: the first block of the grain, the status and the detector that contributed (R144). -/
structure BadGrain where
  block : Nat
  status : Nat
  det : Nat
  deriving DecidableEq, Repr

/-- The first of some grains that cannot be read, beyond masking or for its object (R265, R396). -/
def grainFault (x : Ns) (gs : List Nat) : Option BadGrain :=
  (gs.find? fun g => (match tget g x.grains with | some r => r.lost | none => false) || (grainRead x g).isNone).map fun g =>
    let lost := match tget g x.grains with | some r => r.lost | none => false
    { block := g * grainBlocks x, status := if lost then 0x0201 else 0x0203, det := if lost then 45 else 30 }

/-- The grains that a write covers only in part, whose rest is read to be merged (R283). -/
def edgeGrains (x : Ns) (a k : Nat) : List Nat :=
  (grainsOf x a k).filter fun g => (decide (g * grainBlocks x < a) || decide ((g + 1) * grainBlocks x > a + k)) && (tget g x.grains).isSome

/-- What the reads of some grains did: bytes deciphered, and objects decompressed. The answer is the first grain that cannot be read (R264, R265, R277,
R396). -/
def readGrains (x : Ns) : List Nat → State → Option BadGrain × State
  | [], s => (none, s)
  | g :: t, s => match tget g x.grains with
    | none => readGrains x t s
    | some r =>
      if r.lost then (grainFault x [g], s)
      else
        let seg := segOfGrain s x g
        let s := if r.band.isSome then bump (Reg.cryCipherLo seg) r.stored s else s
        let (bad, s) := if r.zobj then openObject seg (grainContent x g).length (grainRead x g).isNone s else (false, s)
        if bad then (some { block := g * grainBlocks x, status := 0x0203, det := 30 }, s) else readGrains x t s

/-- The blocks of a grain as its stored object decodes, for the merge of R283 (R264). -/
def decodedGrain (x : Ns) (g : Nat) : Ns := match grainRead x g with
  | some l => { x with blocks := (List.range (grainBlocks x)).foldl (fun m i =>
      let b := g * grainBlocks x + i
      if (tget b m).isSome then tput b (slice l (4096 * i) 4096) m else m) x.blocks }
  | none => x

/-- The end of a command that a grain stops: masking is exhausted with 0x0201 (R396, R415). -/
def grainFail (id : Nat) (b : BadGrain) (c : Flight) (s : State) : State :=
  let s := completeX id b.status 0 { loc := b.block, detector := b.det } s
  if b.status = 0x0201 then exhaust b.status c.nsid s else s

/-- WRITE: `data` is what the host memory read gave; `bad` lists the blocks that the self-check of R263 replaces. It waits for
room in Stone, and for the relocation that goes before it; a grain that it covers in part is read and merged (R283, R306). -/
def execWriteBlocks (t id : Nat) (data : Option (List Byte)) (bad : List Nat) (s : State) : Host.Outcome State Fault Refusal :=
  serve 0x24 id (fun c s => match nsOf s c.nsid with
    | none => completeX id 0x010A 0 { param := 4 } s
    | some x => match blockChecks s c x true true with
      | some (e, p) => completeX id e 0 { param := p } s
      | none =>
        let a := dfld c 24 8
        let k := dfld c 32 4
        match data with
        | none => hostReadFailed id s
        | some d =>
          if !grainsRoom s x (grainsOf x a k) then s
          else match takesData id c s with
            | (false, s) => s
            | (true, s) => match makeWay id (clsNo c.cls) x a k s with
              | (false, s) => s
              | (true, s) => match readGrains x (edgeGrains x a k) s with
                | (some b, s) => grainFail id b c s
                | (none, s) =>
                  let x := (edgeGrains x a k).foldl decodedGrain x
                  let (st, s) := writeData c.nsid x (clsNo c.cls) a k (laterBlocks s id c.nsid a k) d bad (noteWrote id c.nsid a k s)
                  complete id st 0 s) (tick t s)

/-- READ (R130, R264, R265, R396). -/
def execReadBlocks (t id : Nat) (s : State) : Host.Outcome State Fault Refusal :=
  serve 0x25 id (fun c s => match nsOf s c.nsid with
    | none => completeX id 0x010A 0 { param := 4 } s
    | some x => match blockChecks s c x false true with
      | some (e, p) => completeX id e 0 { param := p } s
      | none =>
        let a := dfld c 24 8
        let k := dfld c 32 4
        match readGrains x (grainsOf x a k) s with
        | (some b, s) => grainFail id b c s
        | (none, s) => complete id 0 0 (output c ((List.range k).flatMap fun i => readBlock x (a + i)) s)) (tick t s)

/-- Deallocate blocks but `keep`, which a later command has written; grains left with no stored block leave the map and Stone. -/
def dealloc (n : Nat) (x : Ns) (a k : Nat) (keep : List Nat) (s : State) : State :=
  let bs := tfilter (fun b _ => decide (b < a) || decide (b ≥ a + k) || keep.contains b) x.blocks
  let gb := grainBlocks x
  let empty := fun g => !tany (fun b _ => b / gb == g) bs
  let s := onNs n (fun x => { x with blocks := bs, grains := tfilter (fun g _ => !empty g) x.grains }) s
  dropStone (fun i => !i.isRec && i.a == n && empty i.b) s

/-- DEALLOCATE (R128, R129). -/
def execDeallocate (t id : Nat) (s : State) : Host.Outcome State Fault Refusal :=
  serve 0x26 id (fun c s => match nsOf s c.nsid with
    | none => completeX id 0x010A 0 { param := 4 } s
    | some x => match blockChecks s c x false false with
      | some (e, p) => completeX id e 0 { param := p } s
      | none =>
        let a := dfld c 24 8
        let k := dfld c 32 4
        complete id 0 0 (dealloc c.nsid x a k (laterBlocks s id c.nsid a k) (noteWrote id c.nsid a k s))) (tick t s)

/-! ## MAINT of kind 3 (R150) -/

/-- The stored records of a stream before its first one beyond masking, and that one (R150, R396). -/
def readable : Tab Rec → Tab Rec × Option Nat
  | [] => ([], none)
  | (n, r) :: t => if r.lost then ([], some n) else ((n, r) :: (readable t).1, (readable t).2)

/-- The records that MAINT_VERIFY reads: up to the first that fails. -/
def readsUntil (key : List Byte) (x : Strm) (l : Tab Rec) : Tab Rec := match chainOf key x l with
  | some n => l.filter fun p => decide (p.1 ≤ n)
  | none => l

/-- The detector that found record `n` of a stream bad: that of its damage, or the chain's check. -/
def verifyDet (x : Strm) (n : Nat) : Nat := match tget n x.recs with
  | some r => if r.damaged then r.cause else 49
  | none => 49

/-- MAINT_VERIFY (R150): the whole stored chain of the stream is read, decompressed and checked, up to the first record that fails or is beyond masking
(R206, R264, R265, R277). -/
def execMaintVerify (t id : Nat) (s : State) : Host.Outcome State Fault Refusal :=
  maint 3 id (fun c s => match strmOf s (dfld c 28 2) with
    | none => complete id 0x010B 0 s
    | some x =>
      if !nsKeyOk s x.nsid then complete id 0x0403 0 s
      else
        let (l, lost) := readable x.recs
        let l := readsUntil (chainKey s x.nsid) x l
        let (bad, s) := countReads x true false (tillFault l) s
        match bad with
        | some b => completeX id 0x0203 b.num { loc := b.num, detector := b.det } s
        | none => match (if l.isEmpty then (none, s) else chainDetect x.seg ((l.head?.map (·.1)).getD 0) (chainOf (chainKey s x.nsid) x l) s) with
          | (some n, s) => completeX id 0x0203 n { loc := n, detector := verifyDet x n } s
          | (none, s) => match lost with
            | some n => exhaust 0x0201 x.nsid (completeX id 0x0201 0 { loc := n, detector := 45 } s)
            | none => complete id 0 0xFFFFFFFFFFFF s) (tick t s)

end Sys2Proof.Machine
end

