-- ==== Sys2Proof/Machine/Flash.lean ====
section
/-!
DEFINITION. Flash channels and the die wheel: windows, suspension, erases, reads through the ladder and rebuild, the loss of
dies and channels (chapter 09, and the ladder and stripes of chapter 10).
-/
namespace Sys2Proof.Machine

/-! ## Windows (R353, R356, R357, R359 to R362, R368) -/

/-- What a die does at its decision point (R356, R360, R361). -/
def decide_ (d : Nat) (s : State) : State := match tget d s.flw.dies with
  | none => s
  | some x =>
    if x.queue.isEmpty ∨ x.opened.isSome ∨ x.decided.isSome ∨ s.brc.active then s
    else
      let s := onDie d (fun y => { y with queue := y.queue.map fun r => { r with due := true } }) s
      match x.op with
      | none => openWindow d s.now s
      | some o =>
        if o.susp then openWindow d s.now s
        else if stretch s x then s
        else emit (.nand (chanOf d) x.pos .suspend) (bump (Reg.flwSuspendLo (segOfDie d)) 1
          (onDie d (fun y => { y with op := some { o with susp := true }, decided := some s.now }) s))

/-- WINDOW_DECISION: die `d` reaches the decision point of its next position; `reads` are the reads queued on it since the last
one. In BRACE the wheel skips every window (R353, R354, R356, R383). -/
def execWindowDecision (t d : Nat) (reads : List QRead) (s : State) : Host.Outcome State Fault Refusal :=
  let s := tick t s
  match tget d s.flw.dies with
  | none => .next s
  | some x =>
    if !x.usable ∨ x.lost ∨ sleepOf s (segOfDie d) ≥ 2 then .next s
    else
      let (took, y) := settleDie s x
      let p := nextPos s y
      if s.now + 25000 < p.1 then .next s
      else
        let s := reads.foldl (queueRead d) s
        let s := onDie d (fun z => takePos p { z with lastPos := lastPosOf s y, ahead := y.ahead, guard := y.guard }) s
        let s := if took then bump (Reg.flwGuardLo (segOfDie d)) 1 s else s
        .next (decide_ d s)

/-- WINDOW_OPEN: the die has become idle after the suspension at a decision point (R356, R359). -/
def execWindowOpen (t d : Nat) (s : State) : Host.Outcome State Fault Refusal :=
  let s := tick t s
  match tget d s.flw.dies with
  | some x => match x.decided with
    | some dp => .next (openWindow d dp s)
    | none => .next s
  | none => .next s

/-- An erase of block `b` may start or resume on die `d`: no Class S read is queued, no read that resolved into the block is in progress,
and no other die of the group is in a protected stretch (R304, R362). -/
def mayErase (s : State) (d b : Nat) (x : Die) : Bool :=
  !x.queue.any (·.classS) && !(x.queue ++ x.going).any (fun r => r.blk == b)
    && !(dieGroup s d x).any fun p => p.1 != d && stretch s p.2

/-- Resume die `d`'s suspended program or erase, if it may (R357, R361, R362). -/
def resumeOp (d : Nat) (s : State) : State := match tget d s.flw.dies with
  | none => s
  | some x => match x.op with
    | none => s
    | some o =>
      if !o.susp ∨ x.opened.isSome ∨ x.decided.isSome ∨ (o.erase ∧ !mayErase s d o.block x) then s
      else emit (.nand (chanOf d) x.pos .resume) (onDie d (fun y => { y with op := some { o with susp := false, at_ := s.now } }) s)

/-- WINDOW_CLOSE: the last read that could start has ended (R357). -/
def execWindowClose (t d : Nat) (s : State) : Host.Outcome State Fault Refusal :=
  let s := tick t s
  match tget d s.flw.dies with
  | some x => match x.opened with
    | some (o, n) =>
      if s.now ≥ o + n then .next (nextProgram d (resumeOp d (onDie d (fun y => { y with opened := none, going := [] }) s))) else .next s
    | none => .next s
  | none => .next s

/-- PROTECTED_STRETCH_END: the erase may be suspended, and other erases of the group may go on (R361, R362). -/
def execProtectedStretchEnd (t d : Nat) (s : State) : Host.Outcome State Fault Refusal :=
  let s := tick t s
  match tget d s.flw.dies with
  | some x => match x.op with
    | some o =>
      if o.erase ∧ !o.susp ∧ s.now - o.at_ ≥ 250000 then .next ((tkeys (dieGroup s d x)).foldl (fun s k => resumeOp k s) s)
      else .next s
    | none => .next s
  | none => .next s

/-! ## Erases (R309, R369 to R371, R375) -/

/-- The durable entries leave an open intent for block `b` of die `d` (R369). -/
def intentOpen (s : State) (d b : Nat) : Bool := (openIntents (jOf s 1)).any fun e => concerns e d b

/-- The precedence of a Segment's erases: retention refresh's where it needs fresh bands, else garbage collection's (R323; log 140). -/
def erasePrec (s : State) (seg : Nat) : Nat := if s.med.refresh.any (fun k => segOfBand k == seg) then 2 else 4

/-- ERASE_ISSUE: the intent for block `b` of die `d` is durable, and the erase is issued within maintenance's share of die time, behind the
programs of Class S (R163, R323, R335, R341, R362, R369). -/
def execEraseIssue (t d b : Nat) (s : State) : Host.Outcome State Fault Refusal :=
  let s := tick t s
  match tget d s.flw.dies with
  | none => .next s
  | some x =>
    let seg := segOfDie d
    if !x.usable ∨ x.lost ∨ x.op.isSome ∨ windowBusy x ∨ !intentOpen s d b ∨ !mayErase s d b x
        ∨ x.progs.any (fun p => p.prec == 0 && p.cls == 0) ∨ !maintRuns s seg (erasePrec s seg) then .next s
    else
      let (ok, s) := takeToken (erasePrec s seg) d s
      if ok then
        let slc := match (bandOf s d b).bind fun k => tget k s.med.bands with | some q => q.slc | none => false
        .next (emit (.nand (chanOf d) x.pos (.erase b slc))
          (onDie d (fun y => { y with op := some { erase := true, block := b, at_ := s.now } }) s))
      else .next s

/-- A die's block is done with its band's erase: the units of that member are gone. -/
def eraseDone (d b : Nat) (s : State) : State := match bandOf s d b, tget d s.flw.dies with
  | some k, some x =>
    let m := memberIn s k d x
    onMed (fun y => { y with margins := tdel (blkKey d b) y.margins })
      (onBand k (fun q => { q with wait := q.wait.filter (· != d), units := tfilter (fun u _ => u % 64 != m) q.units,
                                   seqs := [], okRows := [], erasedAt := s.now }) s)
  | _, _ => s

/-- The intent's ERASES and BMODE for a block, for its done entry. -/
def intentTail (s : State) (d b : Nat) : Nat × Nat :=
  match (openIntents (jOf s 1)).find? fun e => concerns e d b with
  | some e => (fld e.body 8 4, fld e.body 12 1)
  | none => (0, 0)

/-- The check of an erased block that stands in the list of blank-check failures: DT39 and retirement, or it leaves the list. -/
def eraseChecked (d b : Nat) (blank : Bool) (s : State) : State :=
  if !s.flw.blankFail.contains (d, b) then s
  else
    let s := { s with flw := { s.flw with blankFail := s.flw.blankFail.erase (d, b) } }
    let r := meet 39 (segOfDie d) (chanOf d) (!blank) s
    if r.1 && bypassed r.2.2 39 then raiseF 39 (dieSite d b 0) r.2.1 r.2.2
    else if r.1 then
      let s := raiseF 39 (dieSite d b 0) r.2.1 (bumpTallyQuiet (Reg.flwReerase (segOfDie d)) r.2.2)
      if r.2.1 = 0 then retireBlock d b 39 s else s
    else r.2.2

/-- A blank check passes on what its pages read, as page and zero bits of the worst codeword (R374). -/
def blankPasses (s : State) (pages : Nat) (l : List (Nat × Nat)) : Bool := l.all fun q => !sampled s pages q.1 || looksErased s q.2

/-- NAND_ERASE_COMPLETE: die `d`'s erase ends, `ok` being its report; `raws` is what the blank check of a block that failed one before
reads (R325, R370, R371, R375). -/
def execNandEraseComplete (t d : Nat) (ok : Bool) (raws : List (Nat × Nat)) (s : State) : Host.Outcome State Fault Refusal :=
  let s := tick t s
  match tget d s.flw.dies with
  | none => .next s
  | some x => match x.op with
    | none => .next s
    | some o =>
      if !o.erase ∨ o.susp then .next s
      else
        let b := o.block
        let s := releaseToken d (chargeDie (segOfDie d) true (s.now - o.at_) (onDie d (fun y => { y with op := none, errs := 0 }) s))
        if !ok then .next (nextProgram d (retireBlock d b 0xFF (eraseDone d b s)))
        else
          let (e, m) := intentTail s d b
          let s := onDie d (fun y => { y with erases := tput b e y.erases }) s
          let s := checkPct (bumpHealth 8 1 (queueJ 1 (segOfDie d) none (eraseBody 2 d b e m) (eraseDone d b s)))
          .next (nextProgram d (eraseChecked d b (blankPasses s x.pages raws) s))

/-! ## Programs (R280, R308, R318, R397) -/

/-- A program of row `p.row` of a band has failed, or the row's read-back: what the band has not verified is written anew into a fresh band, from Stone
or from the source of a copy, which stays authoritative (R308, R397). -/
def rewriteRows (p : ProgQ) (s : State) : State :=
  startPrograms (segOfBand p.band) (restartDrain (segOfBand p.band) (abandonBand p.band s))

/-- A failed program of copies is counted (R308). -/
def countMoveFail (p : ProgQ) (s : State) : State :=
  if (copiesIn s p.band p.row fun _ => true).isEmpty then s
  else bumpTally (Reg.medMovefail (segOfBand p.band)) 34 { seg := segOfBand p.band } s

/-- NAND_PROGRAM_COMPLETE: die `d`'s page-group program ends. `parity` is the outcome of its row's read-back, when it
completed one. A failure retires the block, or has the row rewritten into a fresh band. Once every data member is programmed the parity
follows, and the row is verified with it (R280, R308, R318, R325, R397). -/
def execNandProgramComplete (t d : Nat) (ok : Bool) (parity : Option Bool) (s : State) : Host.Outcome State Fault Refusal :=
  let s := tick t s
  match tget d s.flw.dies with
  | none => .next s
  | some x => match x.op with
    | none => .next s
    | some o =>
      if o.erase ∨ o.susp then .next s
      else
        let seg := segOfDie d
        let s := onDie d (fun y => { y with op := none, errs := 0 }) s
        match o.prog with
        | none => .next (nextProgram d s)
        | some p =>
          let s := chargeDie seg (p.prec != 0) (s.now - o.at_) s
          let s := if p.prec = 0 then s else releaseToken d s
          let m := memberIn s p.band d x
          if !ok then .next (rewriteRows p (retireBlock d o.block 0xFF (countMoveFail p s)))
          else
            let s := unitDone p m s
            if m ≠ parityAt s p.band p.row then .next (settleSeg seg (nextProgram d s))
            else
              let (bad, ef, s) := meet 46 seg (chanOf d) (!parity.getD true) s
              let s := if bad then raiseF 46 (dieSite d o.block 0) ef s else s
              .next (nextProgram d (if bad && !bypassed s 46 then rewriteRows p s else settleSeg seg (verifyRow p.band p.row s)))

/-! ## Reads: the ladder and rebuild (R313, R318, R389 to R393, R396) -/

/-- T of a die's codewords (R389). -/
def limitT (x : Die) : Nat := 5 * parityBytes x / 16

/-- How a codeword came out: the ladder step at which its decode stood, 9 for none; the bits that it corrected; and EFLAGS of what injections did. -/
structure CwOut where
  step : Nat
  corr : Nat
  ef : Nat

/-- Walk the decodes of a codeword from step `n` on: one stands when its DCRC agrees, else DT47 is raised and it counts as failed, but for
a bypass window (R390, R391, R428). -/
def walk (d ef : Nat) : Nat → List (Option (Nat × Bool)) → State → CwOut × State
  | _, [], s => ({ step := 9, corr := 0, ef := ef }, s)
  | n, none :: t, s => walk d ef (n + 1) t s
  | n, some (c, sum) :: t, s =>
    let (m47, e47, s) := meet 47 (segOfDie d) (chanOf d) sum s
    if m47 && bypassed s 47 then ({ step := n, corr := c, ef := max ef e47 }, raiseF 47 (dieSite d 0 n) e47 s)
    else if m47 then walk d (max ef e47) (n + 1) t (raiseF 47 (dieSite d 0 n) (e47 + efMasked) s)
    else ({ step := n, corr := c, ef := ef }, s)

/-- A codeword's way through the ladder, injections having fallen on it (R391, R429). -/
def ladder (d : Nat) (x : Die) (w : CwRead) (s : State) : CwOut × State :=
  let (i43, e43, s) := meet 43 (segOfDie d) (chanOf d) false s
  let (i44, e44, s) := meet 44 (segOfDie d) (chanOf d) false s
  let l := if x.lost || i44 then [] else if i43 then List.replicate 7 none ++ w.tries.drop 7 else w.tries
  walk d (max e43 e44) 0 l s

/-- The band of a block is queued for refresh. -/
def refreshOf (d b : Nat) (s : State) : State := match bandOf s d b with
  | some k => queueRefresh k [(d, b)] s
  | none => s

/-- Read levels of a ladder step, `best` being the best entry of steps 1 to 6 (R391). -/
def stepLevels (best n : Nat) : List Levels :=
  let entry := fun (k : Nat) (i : Int) => Levels.soft (k - 1) i
  if n = 1 then [.default]
  else if n ≤ 6 then [.retry (n - 1)]
  else if n = 7 then [entry best (-1), entry best 0, entry best 1]
  else if n = 8 then [entry best (-3), entry best (-2), entry best (-1), entry best 0, entry best 1, entry best 2, entry best 3]
  else []

/-- The reads of ladder steps 1 to `n`, each a read of its own on the die (R391, R392; log 141). -/
def ladderReads (d b pg best n : Nat) (x : Die) (s : State) : State :=
  ((List.range (min n 8)).flatMap fun i => stepLevels best (i + 1)).foldl (fun s l => emit (.nand (chanOf d) x.pos (.pageRead b pg l)) s) s

/-- What a page-group read whose codewords came out as `l` leaves behind: its counters, the levels kept for its block, DT43, and the refresh of a weak
block (R313, R333, R392, R393; `patrol` says that patrol read it). -/
def readWear (d b : Nat) (l : List CwOut) (patrol : Bool) (x : Die) (site : Site) (s : State) : State :=
  let s := onDie d (fun y => { y with errs := 0 }) s
  let n := (l.filter fun o => o.ef % 2 == 0 && decide (o.corr > 0) && decide (o.step < 9)).length
  let s := if n = 0 then s else bumpHealth 9 n s
  let s := if l.any (fun o => o.ef % 2 == 0 && decide (o.step ≥ 1)) && !x.lost then bumpHealth 10 1 s else s
  let kept := (l.filter fun o => decide (1 ≤ o.step) && decide (o.step ≤ 6)).foldl (fun m o => max m o.step) 0
  let s := if kept = 0 then s else { s with flw := { s.flw with offsets := tput (blkKey d b) kept s.flw.offsets } }
  let hard := l.filter fun o => decide (o.step ≥ 7)
  let s := if hard.isEmpty ∨ x.lost then s else raiseF 43 site (hard.foldl (fun m o => max m o.ef) 0 + efMasked) s
  let pct := fieldOf s Reg.medPatrol 15 8
  if l.any fun o => decide (o.step ≥ 2) || (patrol && decide (100 * o.corr > pct * limitT x)) then refreshOf d b s else s

/-- Namespace of the codeword `j` of page group `pg` of block `b` of die `d`, 0 where it has none. -/
def nsidAt (s : State) (d b pg j : Nat) (x : Die) : Nat := match bandOf s d b with
  | some k => (match tget (unitKey pg (memberIn s k d x)) (unitsOf s k) with | some u => (u.cws[j]?.map (·.nsid)).getD 0 | none => 0)
  | none => 0

/-- The rebuild of a codeword that steps 0 to 8 left unread stands: no other member of its row is lost or fails step 8, and its DCRC agrees (R396). -/
def rebuilds (s : State) (d b pg : Nat) (w : CwRead) (x : Die) : Bool :=
  w.fails.isEmpty && (match bandOf s d b with
    | some k =>
      let m := memberIn s k d x
      ((lackOf s k pg).filter (· != m)).isEmpty && (m == parityAt s k pg || (tget (unitKey pg (parityAt s k pg)) (unitsOf s k)).isSome)
    | none => lostIn (dieGroup s d x) ≤ (if x.lost then 1 else 0))

/-- The reads of the other members that a rebuild takes (R396). -/
def rebuildReads (d b pg : Nat) (x : Die) (s : State) : State :=
  (aroundReads s d b pg x).foldl (fun s e => match tget e.1 s.flw.dies with
    | some y => if y.lost then s else emit (.nand (chanOf e.1) y.pos (.pageRead e.2 pg (firstLevels s e.1 e.2))) s
    | none => s) s

/-- A codeword that every step of the ladder left unread is rebuilt, DT44, or lost, DT45: masking is exhausted, and command `id` fails. The block is
retired (R318, R396, R398, R415). A bypass window for DT45 withholds the failure (R428). -/
def readLost (d b pg : Nat) (w : CwRead) (ef : Nat) (id : Option Nat) (x : Die) (site : Site) (s : State) : State :=
  let whole := rebuilds s d b pg w x
  let (m47, e47, s) := if whole then meet 47 (segOfDie d) (chanOf d) w.badSum s else (false, 0, s)
  let s := if m47 then raiseF 47 (dieSite d 0 9) e47 s else s
  let (bad, e45, s) := meet 45 (segOfDie d) (chanOf d) (!whole || (m47 && !bypassed s 47)) s
  let e := max ef (max e47 e45)
  let s := if bad then raiseF 45 site (e + efExhausted) s else raiseF 44 site (ef + efMasked) s
  let s := if bad ∨ ef % 2 = 1 then s else bumpHealth 11 1 s
  let s := if x.lost then s else retireBlockF ef d b 44 s
  if !bad || bypassed s 45 then s
  else match id with
    | some i => match tget i s.rge.flights with
      | some c => exhaustF e 0x0201 c.nsid (completeX i 0x0201 0
          { stream := if namesStream c.opcode then c.stream else 0xFFFF, detector := 45, loc := b } (endBoundFailed i s))
      | none => s
    | none => exhaustF e 0x0201 (nsidAt s d b pg w.cw x) s

/-- A Recall of which a read needed more than its first hard decoding, or was masked by retry (R177, R181). A die that the stripe has lost
keeps the bound. -/
def readCauses (n : Nat) (x : Die) (id : Option Nat) (s : State) : State :=
  if x.lost ∨ n = 0 then s
  else
    let s := voidRead id 12 s
    if n ≥ 7 then voidRead id 13 s else s

/-- The codewords of a read through the ladder, in order. -/
def ladders (d : Nat) (x : Die) : List CwRead → State → List (CwRead × CwOut) × State
  | [], s => ([], s)
  | w :: t, s =>
    let (o, s) := ladder d x w s
    let (l, s) := ladders d x t s
    ((w, o) :: l, s)

/-- A page group has been read for a command, or for maintenance where `id` is none. -/
def pageRead (d b pg best : Nat) (l : List CwRead) (id : Option Nat) (x : Die) (s : State) : State :=
  let (l, s) := ladders d x l s
  let n := l.foldl (fun m o => max m o.2.step) 0
  let s := if x.lost then s else ladderReads d b pg best n x s
  let site := dieSite d (b * 65536 + pg) n
  let s := readCauses n x id (readWear d b (l.map (·.2)) id.isNone x site s)
  let lost := l.filter fun o => decide (o.2.step ≥ 9)
  if lost.isEmpty then s
  else lost.foldl (fun s o => readLost d b pg o.1 o.2.ef id x site s) (rebuildReads d b pg x s)

/-- A margin read of the deep check: the die's levels are shifted by `FLW_MARGIN.SHIFT` toward the erased state, and restored after it. A block of
which a codeword fails hard decoding, or corrects more than `FLW_MARGIN.LIMIT` percent of the limit, is queued for retention refresh (R330,
R376, R377). -/
def marginRead (d b pg : Nat) (l : List CwRead) (x : Die) (s : State) : State :=
  let lv := Levels.margin (fieldOf s Reg.flwMargin 15 8)
  let out := fun c s => emit (.nand (chanOf d) x.pos c) s
  let s := out (.setLevels (firstLevels s d b)) (out (.pageRead b pg lv) (out (.setLevels lv) (countMargin d b pg s)))
  let weak := fun (w : CwRead) => match w.tries with
    | some (c, sum) :: _ => sum || decide (100 * c > fieldOf s Reg.flwMargin 7 0 * limitT x)
    | _ => true
  if l.any weak then refreshOf d b s else s

/-- A maintenance read of precedence `prec` of die `d` has passed between the windows, within the share of die time and with the die's token; its time
is charged (R163, R164, R323, R327, R342). The flag says so. -/
def maintRead (d prec : Nat) (x : Die) (s : State) : Bool × State :=
  let n := readNs s d x
  if x.lost ∨ !passedBetween s n x ∨ !maintRuns s (segOfDie d) prec then (false, s)
  else
    let (ok, s) := useTokens prec [d] s
    (ok, if ok then chargeDie (segOfDie d) true n s else s)

/-- The first band of the group is one on which MAINT command `id` has this group still to read, and no other activity claims it (R326). -/
def maintGroup (s : State) (id d b pg : Nat) (x : Die) : Option (Nat × Nat) := match writtenGroup s d b pg x, tget id s.rge.flights with
  | some k, some c =>
    let key := k * 2 ^ 16 + unitKey pg (memberIn s k d x)
    (match tget k s.med.bands with | some q => if (q.claim = 0 ∨ q.claim = 7) ∧ (c.todo.getD []).contains key then some (k, key) else none | none => none)
  | _, _ => none

/-- NAND_READ_COMPLETE: a page-group read of block `b`, page `pg` of die `d` ends, `l` being its codewords and `best` the best entry of the retry
table. A maintenance read does not run in a recall window, and margin reads and blank checks only in DEPOT (R164, R327, R330, R374). -/
def execNandReadComplete (t d b pg best : Nat) (l : List CwRead) (use : ReadUse) (s : State) : Host.Outcome State Fault Refusal :=
  let s := tick t s
  match tget d s.flw.dies with
  | none => .next s
  | some x => match use with
    | .command id => .next (pageRead d b pg best l (some id) x s)
    | .patrol =>
      if !mayPatrol s d b pg x then .next s
      else
        let (ok, s) := maintRead d 3 x s
        .next (if ok then pageRead d b pg best l none x (countPatrol d b pg s) else s)
    | .maint id => match maintGroup s id d b pg x with
      | none => .next s
      | some (k, key) =>
        let (ok, s) := maintRead d 7 x s
        .next (if ok then pageRead d b pg best l none x (bump (Reg.medPatrolLo (segOfDie d)) 1
          (claim k 7 (onFlight id (fun c => { c with todo := c.todo.map (·.erase key) }) s))) else s)
    | .blank zeros =>
      if !mayBlankCheck s d b pg x then .next s
      else
        let (ok, s) := maintRead d 3 x s
        .next (if ok ∧ !looksErased s zeros then blankFails d b s else s)
    | .margin =>
      let deep := match bandOf s d b with | some k => (deepPages s k d x).contains pg | none => false
      if s.cmd.depotEnd.isNone ∨ !deep then .next s
      else
        let (ok, s) := maintRead d 3 x s
        .next (if ok then marginRead d b pg l x s else s)

/-! ## Loss of dies and channels (R378 to R382) -/

/-- A piece that nothing can give any more: its unit is gone (R381, R382). -/
def pieceGone (s : State) (p : Piece) : Bool := unitGone s p.band p.unit

/-- Mark the records and grains of a Segment that have lost a piece, and drop the pieces and checkpoints that are gone (R381, R382). -/
def markLost (seg : Nat) (s : State) : State :=
  let gone := fun (p : Piece) => segOfBand p.band == seg && pieceGone s p
  onMed (fun m => { m with ckpts := tmap (fun _ l => l.filter fun c => !c.pieces.any gone) m.ckpts }) (onCmd (fun q =>
    { q with streams := tmap (fun _ x => { x with recs := tmap (fun _ r =>
               if r.pieces.any gone then { r with lost := true, pieces := r.pieces.filter fun p => !gone p } else r) x.recs }) q.streams
             nss := tmap (fun _ x => { x with grains := tmap (fun _ g =>
               if g.pieces.any gone then { g with lost := true, pieces := g.pieces.filter fun p => !gone p } else g) x.grains }) q.nss }) s)

/-- A channel with no usable die left in service is lost (R380). -/
def checkChannel (c : Nat) (s : State) : State :=
  let l := tfilter (fun k d => chanOf k == c && d.usable) s.flw.dies
  if !l.isEmpty ∧ l.all (fun p => p.2.lost) ∧ (tgetD {} c s.flw.chans).state ≠ 3 then
    onChan c (fun x => { x with state := 3 }) (queueRetire 3 37 (c / 8) c 0 0 0 s)
  else s

/-- A die is lost, but for a bypass window (R379, R316, R428). What its Segment had not verified in bands that it is part of goes to fresh bands. -/
def loseDie (d ef : Nat) (s : State) : State := match tget d s.flw.dies with
  | none => s
  | some x =>
    if x.lost then s
    else
      let seg := segOfDie d
      let s := raiseF 37 (dieSite d x.pos 0) ef s
      if bypassed s 37 then s else
      let s := queueRetire 2 37 seg (chanOf d) (d / 2 % 8) (d % 2) 0 s
      let s := onDie d (fun y => { y with lost := true, op := none, queue := [], going := [], progs := [], decided := none, opened := none }) s
      let s := onMed (fun m => { m with tokens := tdel d m.tokens, waiting := m.waiting.filter (·.2 != d),
                                        bands := tmap (fun _ b => { b with wait := b.wait.filter (· != d) }) m.bands }) s
      let ks := tkeys (tfilter (fun k b => (b.st == .opened || b.st == .closed) && (tget d (bandDies s k)).isSome && memberIn s k d x != 63) (bandsOf s seg))
      let s := startPrograms seg (restartDrain seg (ks.foldl (fun s k => abandonBand k s) s))
      let s := healthNotice 6 seg 0 (chanOf d * 65536 + d / 2 % 8 * 256 + d % 2) s
      let s := if ef % 2 = 1 then s else bumpHealth 12 1 s
      let s := checkChannel (chanOf d) s
      checkHarvest (markLost seg (ks.foldl (fun s k => queueBand k s) s))

/-- NAND_OP_TIMEOUT: an interface error of die `d`: it is not ready in time, or a data-register check fails; counted, the die reset, and after the
third in a row lost (R345, R378). -/
def execNandOpTimeout (t d : Nat) (s : State) : Host.Outcome State Fault Refusal :=
  let s := tick t s
  match tget d s.flw.dies with
  | none => .next s
  | some x =>
    if !x.usable ∨ x.lost then .next s
    else
      let c := chanOf d
      let s := bumpTally (Reg.flwCherr c) 36 { seg := segOfDie d, unit := c } s
      let s := onChan c (fun y => { y with retrain := true }) s
      let s := if (match x.op with | some o => o.erase || (match o.prog with | some p => p.prec != 0 | none => false) | none => false) then releaseToken d s else s
      let s := emit (.nand c x.pos .reset) (onDie d (fun y =>
        { y with op := none, decided := none, opened := none, going := [], progs := (x.op.bind (·.prog)).toList ++ y.progs, errs := y.errs + 1 }) s)
      .next (if x.errs + 1 ≥ 3 then (if bypassed s 37 then nextProgram d (loseDie d 0 s) else loseDie d 0 s) else nextProgram d s)

/-! ## Training (R345), BRACE (R372), counters (R385) -/

/-- CHANNEL_RETRAIN: temperature, period or an interface error asks for it; it holds every die token of the channel, runs 40 µs at most
between the window positions of every die, calibrates by ZQ Short and re-centres the DQs, and leaves the rate as it is (R164, R323 to R325, R335,
R345, R383). -/
def execChannelRetrain (t c : Nat) (s : State) : Host.Outcome State Fault Refusal :=
  let s := tick t s
  let x := tgetD {} c s.flw.chans
  let temp := s.health.tempNow
  let due := x.retrain || decide (absDiff temp x.trainTemp > fieldOf s Reg.flwTrain 7 0)
    || decide (s.now - x.trainAt ≥ fieldOf s Reg.flwTrain 15 8 * 60000000000)
  let l := tfilter (fun k d => chanOf k == c && d.usable && !d.lost) s.flw.dies
  if x.state ≠ 2 ∨ !due ∨ !maintOn s (c / 8) 1 ∨ !l.all (fun p => beforeWindow s 40000 p.2) then .next s
  else
    let (ok, s) := takeAll 1 (tkeys l) s
    if !ok then .next s
    else
      let s := l.foldl (fun s p => emit (.nand c p.2.pos .dqCentre) (emit (.nand c p.2.pos .zqShort) s)) s
      .next (releaseAll (tkeys l) (onChan c (fun y => { y with trainAt := s.now, trainTemp := temp, retrain := false }) s))

/-- A die at the entry to BRACE (R372). -/
def braceDie (now : Nat) (x : Die) : Die :=
  let op := x.op.bind fun o => if o.erase then none else some { o with susp := false, at_ := now }
  { x with decided := none, opened := none, going := [], op := op }

/-- The dies whose open erase a Reset aborts at the entry to BRACE (R372). -/
def eraseOpen (s : State) : Tab Die := tfilter (fun _ x => match x.op with | some o => o.erase | none => false) s.flw.dies

/-- What the sequencers do at the entry to BRACE: open erases are aborted with a Reset of their dies, suspended programs go on, windows end
(R372). -/
def flashBrace (s : State) : State :=
  let s := (eraseOpen s).foldl (fun s p => releaseToken p.1 (emit (.nand (chanOf p.1) p.2.pos .reset) s)) s
  let s := (tfilter (fun _ x => match x.op with | some o => !o.erase && o.susp | none => false) s.flw.dies).foldl
    (fun s p => emit (.nand (chanOf p.1) p.2.pos .resume) s) s
  { s with flw := { s.flw with dies := tmap (fun _ x => braceDie s.now x) s.flw.dies } }

/-- FLW_SNAP_NOW (R385). -/
def execFlwSnapNow (t n : Nat) (s : State) : Host.Outcome State Fault Refusal :=
  .next (strobe n (Reg.flwSnap n) (tick t s))

/-! ## DIAG_READ (R148, R149) -/

/-- Change the bits of a page that read wrong; bit `n` is bit `n % 8` of byte `n / 8`. -/
def flipBits (l : List Byte) (flips : List Nat) : List Byte := flips.foldl (fun l n => l.modify (n / 8) (· ^^^ BitVec.ofNat 8 (2 ^ (n % 8)))) l

/-- The read of a DIAG_READ is in progress in an open window of its die (R149). -/
def diagGoing (x : Die) (id : Nat) : Bool := x.opened.isSome && x.going.any fun r => r.id == some id

/-- DIAG_READ: the first LEN bytes of the page as the die holds it, uncorrected; `flips` are the bits that read wrong. Before a recall window
of the die serves its read, the command waits (R148, R149; log 112). -/
def execDiagRead (t id : Nat) (flips : List Nat) (s : State) : Host.Outcome State Fault Refusal :=
  serve 0x0F id (fun c s =>
    let d := dfld c 24 1 * 16 + dfld c 25 1 * 2 + dfld c 26 1
    match tget d s.flw.dies with
    | none => completeX id 0x0208 0 { param := 24 } s
    | some x =>
      if dfld c 28 4 ≥ x.blocks then completeX id 0x0208 0 { param := 28 } s
      else if dfld c 32 4 ≥ x.pages then completeX id 0x0208 0 { param := 32 } s
      else if (match x.op with | some o => o.erase && o.block == dfld c 28 4 | none => false) then completeX id 0x0209 0 {} s
      else if !diagGoing x id then s
      else complete id 0 0 (output c (fit c.len (flipBits (pageGroup s d (dfld c 28 4) (dfld c 32 4) x) flips)) s)) (tick t s)

end Sys2Proof.Machine
end

