-- ==== Sys2Proof/Machine/Health.lean ====
section
/-!
DEFINITION. The Health log (R332, R333), and its save in the journal (R417).
-/
namespace Sys2Proof.Machine

/-- CRIT (R332). -/
def critByte (s : State) : Nat :=
  flags [decide (availSpare s < fieldOf s Reg.medHarvest 7 0), s.pwr.crit, s.integ.degraded, belowFloor s, s.brc.short, s.med.harvest]

/-- Section of Segment `n` in the Health log (R333). -/
def healthSeg (s : State) (n : Nat) : List Byte :=
  let dies := tfilter (fun k x => k / 128 == n && (x.found || x.usable)) s.flw.dies
  pack [(4, tgetD 0 n s.med.spareInit), (4, spareNow s n), (4, freeBands s n), (4, slcBlocks s n), (4, eraseMin s n), (4, eraseMax s n),
    (4, eraseMean s n), (4, ratedOf s n), (8, tgetD 0 n s.med.shortfall), (2, dies.length), (2, tcount (fun _ d => d.lost) dies),
    (1, layoutOf s n), (1, flags [decide (freeBands s n ≤ fieldOf s Reg.medGc 23 16), floorMet s n]), (18, 0)]

/-- Bytes 0 to 303 of the Health log, which the journal saves. -/
def healthHead (s : State) : List Byte :=
  pack [(1, critByte s), (1, availSpare s), (1, fieldOf s Reg.medHarvest 7 0), (1, pctUsed s), (2, s.health.tempNow),
    (2, s.health.tempMax), (2, s.health.tempMin), (2, 0), (4, s.health.atMax)]
  ++ pack ((List.range 20).map fun k => (8, tgetD 0 k s.health.ctr)) ++ pack ((List.range 16).map fun k => (8, tgetD 0 k s.health.hist))

/-- The Health log, 4,096 bytes (R332). -/
def healthLog (s : State) : List Byte := fit 4096 (healthHead s ++ [0, 1, 2, 3].flatMap (healthSeg s))

/-- Queue a health snapshot (R417). -/
def queueHealth (s : State) : State := queueJ 7 0xFF (some 0) (healthHead s) s

end Sys2Proof.Machine
end

