-- ==== Sys2Proof/Machine/Brace.lean ====
section
/-!
DEFINITION. Power warnings, BRACE, its flush and exit, the hold-up measurements and the covered Stone (chapter 11). What a
flush does after step 8 to a reset that waits for it stands in Boot.lean, with the row BRACE_FLUSH_COMPLETE.
-/
namespace Sys2Proof.Machine

/-- Change the Brace part of the Power Manager. -/
def onBrc (f : Brc → Brc) (s : State) : State := { s with brc := f s.brc }

/-! ## Inputs (R434 to R436) -/

/-- The bank is ready (R436). -/
def huReady (s : State) : Bool :=
  let v := decide (s.brc.vhu ≥ fieldOf s Reg.brcHuThr 10 0)
  match fieldOf s Reg.brcCtrl 1 0 with
  | 0 => v
  | 1 => s.brc.huOk
  | _ => v && s.brc.huOk

/-- VSENSE_SYS is back at WARN + HYST; PWR_WARN_N gives no warning (R446). -/
def sysBack (s : State) : Bool := decide (s.brc.vsys ≥ fieldOf s Reg.brcSysThr 10 0 + fieldOf s Reg.brcSysThr 26 16)
def warnOff (s : State) : Bool := s.brc.warnN || !flagOf s Reg.brcCtrl 2

/-- The Power Manager samples its inputs; in BRACE the lowest VSENSE_SYS is kept (R434, R460). -/
def sample (vsys vhu : Nat) (warnN huOk : Bool) (s : State) : State :=
  onBrc (fun b => { b with vsys := vsys, vhu := vhu, warnN := warnN, huOk := huOk,
                           vsysMin := if b.active then min b.vsysMin vsys else b.vsysMin }) s

/-- CAUSE of a qualified warning: which condition of R435 holds (R435, R459). -/
def warnCause (s : State) : Nat :=
  flags [decide (s.brc.vsys < fieldOf s Reg.brcSysThr 10 0), !warnOff s, !huReady s && !s.brc.active]

/-- Post a Brace notice (R459). -/
def brcNotice (kind seq value : Nat) (s : State) : State :=
  post 0 0x02 0xFFFF (pack [(1, kind), (1, s.brc.cause), (2, s.brc.vsys), (2, s.brc.vhu), (2, seq), (8, value)]) s

/-! ## Entry (R437 to R442) -/

/-- Stone data of a Segment that no retained image holds (R439, R457). -/
def toFlush (s : State) (n : Nat) : List StoneItem :=
  (tgetD [] n s.med.stone).filter fun i => !s.brc.images.any fun x => (tgetD [] n x.stone).any (sameItem i)

/-- Bytes of it over all Segments. -/
def flushBytes (s : State) : Nat := (segs s).foldl (fun n k => n + (toFlush s k).foldl (fun n i => n + i.len) 0) 0

/-- A command that BRACE defers: fetched, no Seal, and it has not begun to move data (R153). -/
def defers (c : Flight) : Bool := !c.isSeal && !c.begun && c.opcode != 0x08

/-- Enter BRACE with a CAUSE, unless it is active (R437, R438, R442, R745). In SCRAPPED, and while the
Security Gate is closed, no flush starts (R509, R745; log 23). -/
def enterBrace (cause : Nat) (s : State) : State :=
  if s.brc.active then s
  else
    let n := flushBytes s
    let flush := s.life.lstate != .scrapped && !s.cry.closed
    let set := onBrc fun b =>
      { b with active := true, flushing := flush, flushed := false, exitWait := none, ref := s.now, entered := evTime s,
               cause := cause, bytes := n, vsysMin := b.vsys, restarts := 0,
               flushSeq := if flush then (b.flushSeq + 1) % 65536 else b.flushSeq,
               deferred := tcount (fun _ c => defers c) s.rge.flights }
    let s := withModes 1 set s
    let s := onRge (fun r => { r with flights := tmap (fun _ c => if defers c then { c with deferred := true } else c) r.flights }) s
    let s := flashBrace (closeBypass (disarm (bump Reg.brcEntriesLo 1 s)))
    let s := updateFloor ((segs s).foldl (fun s k => if sleepOf s k = 1 then wakeNow k s else s) s)
    brcNotice 1 (if flush then s.brc.flushSeq else 0) n (alertLow (relevelAll s))

/-- POWER_WARNING: the inputs read so, and a condition of R435 has lasted its filter time. -/
def execPowerWarning (t vsys vhu : Nat) (warnN huOk : Bool) (s : State) : Host.Outcome State Fault Refusal :=
  let s := sample vsys vhu warnN huOk (tick t s)
  .next (if warnCause s = 0 then s else enterBrace (warnCause s) s)

/-! ## Covered Stone (R449 to R452) -/

/-- P_brace in mW. -/
def pBrace (s : State) : Nat := s.brc.pbrace + (word s Reg.brcBoardW).toNat

/-- (v_ready² − v_min²) in 10⁻¹² V². -/
def voltSpan (s : State) : Nat :=
  (fieldOf s Reg.brcHuThr 10 0 ^ 2 - fieldOf s Reg.brcHuThr 26 16 ^ 2) * (word s Reg.brcHuDiv).toNat ^ 2

/-- c in mF (R451). -/
def bankCap (s : State) : Nat :=
  let c := (word s Reg.brcHuCap).toNat
  if s.brc.ceff = 0 then c else min c s.brc.ceff

/-- The covered amount in bytes (R451); with no P_brace at all the manual gives none: a free value. -/
def coverOf (s : State) : Nat :=
  if pBrace s = 0 then freeVal s
  else (bankCap s * voltSpan s - 45000000000 * pBrace s) * s.brc.rate / (3000000 * pBrace s)

/-- `BRC_NEED` in mJ (R451's sizing formula); 0 before a rate is measured. -/
def needOf (s : State) : Nat :=
  if s.brc.rate = 0 then 0 else 3 * pBrace s * (15000 * s.brc.rate + stoneTotal s) / (2000000 * s.brc.rate)

/-- Compute the covered amount and each Segment's share (R451). -/
def setCover (s : State) : State :=
  let c := coverOf s
  let n := max 1 (segs s).length
  let lim := if s.brc.measured then min (stoneTotal s) c / n else 0
  let s := draw (onBrc (fun b => { b with cover := c, avail := bankCap s * voltSpan s / 2000000000000 }) s)
  onMed (fun m => { m with stoneLimit := [0, 1, 2, 3].foldl (fun l k => tset 0 k (if segOn s k then lim else 0) l) m.stoneLimit }) s

/-- What follows a measurement: the covered amount, and the short or covering report (R451, R452). An injection for DT63
halves the measured rate (R429). -/
def measure (pbrace rate : Nat) (ceff : Option Nat) (s : State) : State :=
  let (inj, ef, s) := meet 63 0xFF 0xFFFF false s
  let s := setCover (onBrc (fun b => { b with pbrace := pbrace, rate := if inj then rate / 2 else rate, ceff := ceff.getD b.ceff,
                                              measured := true }) s)
  if s.brc.cover < stoneTotal s then
    let s := bumpTallyQuiet Reg.brcShort (raiseF 63 {} ef s)
    let s := if s.brc.short || bypassed s 63 then s else alertLow (onBrc (fun b => { b with short := true }) s)
    brcNotice 7 0 s.brc.cover s
  else if s.brc.short then brcNotice 8 0 s.brc.cover (alertLow (onBrc (fun b => { b with short := false }) s))
  else s

/-- Queue a measurement entry (R444, R449). -/
def queueMeasure (seq : Nat) (s : State) : State :=
  queueJ 5 0xFF none (braceBody 5 0xFF seq s.brc.pbrace (s.brc.rate % 2 ^ 32 + 2 ^ 32 * (s.brc.ceff % 2 ^ 32))) s

/-! ## The flush (R439 to R444) -/

/-- The writer programs its whole queue, in order, and every entry is durable (R688). -/
def drainJournal (s : State) : State :=
  let l := s.pith.jq
  let s := match s.pith.jprog with | some e => durable e s | none => s
  l.foldl (fun s e =>
    let (e', p) := placeEntry e s.pith
    durable e' { s with pith := p }) (onPith (fun p => { p with jq := [] }) s)

/-- A quotient, or a free value where the divisor is not positive (log 26). -/
def quotient (s : State) (a b : Nat) : Nat := if b = 0 then freeVal s else a / b

/-- C_EFF in mF of a flush that the bank carried (R450). -/
def ceffOf (s : State) (pbrace t37 v3 v7 : Nat) : Nat :=
  quotient s (2000 * (pbrace + (word s Reg.brcBoardW).toNat) * t37) ((v3 ^ 2 - v7 ^ 2) * (word s Reg.brcHuDiv).toNat ^ 2)

/-- The 64 bytes of a history entry (R460). -/
def histBytes (h : BHist) : List Byte :=
  pack [(8, h.entered), (8, h.exited), (1, h.cause), (1, h.outcome), (2, h.restarts), (2, h.vsysMin), (2, h.vhuStart), (2, h.vhuEnd),
    (2, h.seq), (4, h.us), (8, h.bytes), (4, h.pbrace), (4, h.deferred), (16, 0)]

/-- Add a history entry (R460). -/
def addHist (h : BHist) (s : State) : State := onBrc (fun b => { b with hist := (h :: b.hist).take 63 }) s

/-- Steps 4 to 8 of a flush, in the order of R443: extents, chain heads, the cadence record, fences, health, the measurement and
the commit. DESIGN CHOICE (log 153): a stream that has never folded a record has no chain-head entry. -/
def flushJournal (seq pbrace rate : Nat) (ceff : Option Nat) (s : State) : State :=
  let s := (segs s).foldl (fun s k => queueJ 5 k none (braceBody 2 k seq (freeVal s) (freeVal (draw s))) (draw (draw s))) (draw s)
  let s := (tkeys s.cmd.streams).foldl (fun s k => match strmOf s k with
    | some x => if x.next = 0 then s else queueJ 3 x.seg (some k) (chainHead k x (x.next - 1) x.head) s
    | none => s) s
  let s := queueJ 4 0xFF (some 0) (cadRecord s true) s
  let s := queueHealth (queueFences s)
  let s := queueMeasure seq (measure pbrace rate ceff s)
  drainJournal (queueJ 5 0xFF none (braceBody 3 0xFF seq s.brc.ceff (evTime s)) s)

/-- Program the Stone data of each Segment into its Brace reserve; the bands that took some are answered (R439, R440). -/
def flushInto (g : Nat) (l : Tab (List StoneItem)) (s : State) : List Nat × State :=
  l.foldl (fun a p =>
    let (u, s) := layFlush (reserveFor a.2 p.1 []) (flushCws a.2 p.1 g 0 p.2) a.2
    (a.1 ++ u, s)) ([], s)

/-- A Segment's Stone is written into its Brace reserve without BRACE, as a flush writes it, with its extent entry (R414, R439, R444). -/
def flushSegment (seg : Nat) (s : State) : State :=
  if (toFlush s seg).isEmpty then s
  else
    let seq := (s.brc.flushSeq + 1) % 65536
    let stone := [(seg, toFlush s seg)]
    let (bands, s) := flushInto seq stone s
    let s := draw (draw (queueJ 5 seg none (braceBody 2 seg seq (freeVal s) (freeVal (draw s))) s))
    onBrc (fun b => { b with flushSeq := seq, images := b.images ++ [{ seq := seq, stone := stone, bands := bands }] }) s

/-- The flush has programmed and verified its data in `t34` ns from step 3 to step 4, and its Pith entries follow in the order
of R443 (steps 4 to 8). `t37` is the time from step 3 to step 7, `v3` and `v7` VSENSE_HU at them, and `low` says that the bank
carried the load (R449, R450). A flush of no Stone bytes
measures no R (log 26). An extent's blocks and SEQ, and the size of the state images, are free values (log 25). -/
def finishFlush (pbrace t34 t37 v3 v7 : Nat) (low : Bool) (s : State) : State :=
  let n := flushBytes s
  let seq := s.brc.flushSeq
  let stone := (segs s).filterMap fun k => if (toFlush s k).isEmpty then none else some (k, toFlush s k)
  let (bands, s) := flushInto seq stone s
  let image : FImage := { seq := seq, stone := stone, bands := bands }
  let rate := if n = 0 then s.brc.rate else quotient s (n * 1000) t34
  let ceff := if low then some (ceffOf s pbrace t37 v3 v7) else none
  let s := flushJournal seq pbrace rate ceff s
  let h : BHist := { entered := s.brc.entered, cause := s.brc.cause, restarts := s.brc.restarts, vsysMin := s.brc.vsysMin,
                     vhuStart := v3, vhuEnd := v7, seq := seq, us := (s.now - s.brc.ref) / 1000, bytes := n + freeVal s, pbrace := pbrace,
                     deferred := s.brc.deferred }
  let s := addHist h (draw (onBrc (fun b => { b with flushing := false, flushed := true,
                                                     images := if image.stone.isEmpty then b.images else b.images ++ [image] }) s))
  brcNotice 2 seq (s.now - s.brc.ref) s

/-! ## Exit (R446 to R448) -/

/-- The conditions of R446 but for the flush. -/
def exitOk (s : State) : Bool := sysBack s && warnOff s && huReady s

/-- EXIT_WAIT_START: the conditions hold, and the 5 ms begin (R446, R447). -/
def execExitWaitStart (t vsys vhu : Nat) (warnN huOk : Bool) (s : State) : Host.Outcome State Fault Refusal :=
  let s := sample vsys vhu warnN huOk (tick t s)
  .next (if s.brc.active ∧ s.brc.exitWait = none ∧ exitOk s then onBrc (fun b => { b with exitWait := some s.now }) s else s)

/-- EXIT_WAIT_RESTART: a condition fails while the wait runs (R447). -/
def execExitWaitRestart (t vsys vhu : Nat) (warnN huOk : Bool) (s : State) : Host.Outcome State Fault Refusal :=
  let s := sample vsys vhu warnN huOk (tick t s)
  if s.brc.active ∧ s.brc.exitWait.isSome ∧ !exitOk s then
    let s := onBrc (fun b => { b with exitWait := none, restarts := satAdd 65535 b.restarts 1 }) s
    .next (brcNotice 4 s.brc.flushSeq 0 (bump Reg.brcRestartLo 1 s))
  else .next s

/-- The Brace reserve is restored: the blocks that an image took are erased again (R297). -/
def restoreReserve (i : FImage) (s : State) : State := i.bands.foldl (fun s k => startErase k s) s

/-- Complete the newest history entry and journal it (R460). -/
def completeHist (exited outcome : Nat) (s : State) : State := match s.brc.hist with
  | h :: t =>
    if h.outcome ≠ 0 then s
    else
      let h := { h with exited := exited, outcome := outcome, restarts := s.brc.restarts, vsysMin := s.brc.vsysMin }
      queueJ 8 0xFF none (histBytes h) (onBrc (fun b => { b with hist := h :: t }) s)
  | [] => s

/-- The six steps of R448. -/
def exitBrace (s : State) : State :=
  let images := s.brc.images
  let s := if s.brc.flushed then drainJournal (queueJ 5 0xFF none (braceBody 4 0xFF s.brc.flushSeq 0 0) s) else s
  let flushed := s.brc.flushed
  let s := track (fun s => relevelAll (withModes 1 (onBrc fun b => { b with active := false, exitWait := none, flushed := false }) s)) s
  let s := alertLow (brcNotice 3 (if flushed then s.brc.flushSeq else 0) s.brc.deferred s)
  let s := images.foldl (fun s i => restoreReserve i s) s
  let s := (segs s).foldl (fun s n => startPrograms n s) s
  completeHist (evTime s) 1 (onBrc (fun b => { b with images := [] }) s)

/-- BRACE_EXIT: the flush is complete, and the wait has lasted 5 ms (R446, R448). -/
def execBraceExit (t : Nat) (s : State) : Host.Outcome State Fault Refusal :=
  let s := tick t s
  match s.brc.exitWait with
  | some a => if s.brc.active ∧ !s.brc.flushing ∧ s.now - a ≥ 5000000 then .next (exitBrace s) else .next s
  | none => .next s

/-- BRC_SNAP_NOW (R463). -/
def execBrcSnapNow (t : Nat) (s : State) : Host.Outcome State Fault Refusal :=
  .next (snapAll [Reg.brcEntriesLo, Reg.brcRestartLo, Reg.brcShort] (tick t s))

end Sys2Proof.Machine
end

