-- ==== Sys2Proof/Machine/Integrity.lean ====
section
/-!
DEFINITION. The Integrity Unit: notice hold-off, injection and the bypass window, SRAM scrub and repair, the save of the health
counters, and the checks of the link and of the timebase (chapter 10).
-/
namespace Sys2Proof.Machine

/-! ## Hold-off (R421) -/

/-- DETECTOR_HOLDOFF_END: the interval of detector `k` ends; one notice reports what was raised inside it. While the enable bit is 0 those
raisings wait for the next notice, and no interval runs (R421). -/
def execDetectorHoldoffEnd (t k : Nat) (s : State) : Host.Outcome State Fault Refusal :=
  let s := tick t s
  match tget k s.integ.holds with
  | none => .next s
  | some h =>
    if s.now < h.until_ then .next s
    else if !h.run then .next s
    else if h.pend > 0 ∧ notifyOn s k then
      .next (post 0 0x09 0xFFFF (detPayload h.latest h.pend)
        (onInt (fun i => { i with holds := tput k { h with until_ := s.now + holdoffNs s, pend := 0 } i.holds }) s))
    else if h.pend > 0 then .next (onInt (fun i => { i with holds := tput k { h with run := false } i.holds }) s)
    else .next (onInt (fun i => { i with holds := tdel k i.holds }) s)

/-! ## Injection (R424 to R426, R429) -/

/-- Preset a tally to 0xFFFF_FFFE (R426). -/
def presetTally (a : Nat) (s : State) : State := setCtr a 0xFFFFFFFE (injDue s.integ.injDt s)

/-- The units that an injection's UNIT names among `n`. -/
def injUnits (s : State) (n : Nat) : List Nat := if s.integ.injUnit = 0xFF then List.range n else (List.range n).filter (· == s.integ.injUnit)

/-- The test triad is read with the copies that an injection gives it. A safe default is written with GEN one higher; any other
outcome leaves the stored word as it is (R401 to R403, R426). -/
def testTriad (k pos : Nat) (s : State) : State :=
  let site : Site := {}
  let toDefault := fun (s : State) => writeTriad 5 0 (zeros 24) s
  if k = 40 then raiseF 40 site efInjected s
  else if k = 41 then (if nbit pos 0 then toDefault else id) (raiseF 41 site efInjected s)
  else toDefault (raiseF 42 site efInjected (raiseF 40 site efInjected s))

/-- Detectors whose injection point is passed at once: internal copies that the part reads all the time, tallies that are preset,
the scratch rows and pages that exist for it, and what is reported of a die (R426, R429; log 127). -/
def instant (k : Nat) : Bool := [4, 5, 6, 17, 18, 19, 21, 22, 23, 28, 34, 35, 36, 37, 40, 41, 42, 50, 51, 52, 53, 54].contains k

/-- The next die in service at the position and on the channel of an injection (R429). -/
def dieHit (s : State) : Option Nat :=
  (tkeys (tfilter (fun d x => x.usable && !x.lost && x.pos == s.integ.injPos
    && (s.integ.injUnit == 0xFF || s.integ.injUnit == chanOf d)) s.flw.dies)).head?

/-- One event of such an injection. -/
def fireInstant (s : State) : State :=
  let k := s.integ.injDt
  let u := if s.integ.injUnit = 0xFF then 0xFFFF else s.integ.injUnit
  let seg := s.integ.injSeg
  let site : Site := { seg := if [19, 22, 23, 28, 50, 51, 52, 53, 54].contains k then seg else 0xFF,
                       unit := if [6, 18, 50, 51, 54].contains k then u else 0xFFFF }
  fireOne (if k = 21 then presetTally Reg.cadGlitch s
    else if k = 34 then presetTally (Reg.medMovefail seg) s
    else if k = 36 then (injUnits s 32).foldl (fun s c => presetTally (Reg.flwCherr c) s) s
    else if k = 35 then onInt (fun i => { i with inadm := i.inadm ++ [(i.injUnit, i.injPos)] }) s
    else if k = 37 then (match dieHit s with | some d => loseDie d efInjected s | none => s)
    else if k = 40 ∨ k = 41 ∨ k = 42 then testTriad k s.integ.injPos s
    else if k = 51 ∧ !bypassed s 51 then exhaustNone efInjected (raiseF k site efInjected s)
    else raiseF k site efInjected s)

/-- Fire as many as are left. -/
def fireAll : Nat → State → State
  | 0, s => s
  | n + 1, s => if s.integ.armed && instant s.integ.injDt then fireAll n (fireInstant s) else s

/-- A write of `INT_INJ` with ARM 1: what is armed is disarmed, and the injection of the write is armed or refused (R424, R425,
R430). -/
def arm (s : State) : State :=
  let s := onInt (fun i => { i with armed := false, injResult := 0, injLeft := 0 }) s
  let k := fieldOf s Reg.intInj 5 0
  if s.brc.active ∨ !injPermitted s k then clearArm (onInt (fun i => { i with injResult := 3 }) s)
  else
    let n := fieldOf s Reg.intInj 23 16
    fireAll n (onInt (fun i => { i with armed := true, injResult := 1, injDt := k, injSeg := fieldOf s Reg.intInj 7 6,
                                        injUnit := fieldOf s Reg.intInj 15 8, injPos := fieldOf s Reg.intInj 27 24, injLeft := n }) s)

/-- A write of `INT_INJ` (R424, R431). -/
def intInjWrite (w : Word) (be : Nat) (s : State) : State :=
  let a := Reg.intInj
  match regAt a with
  | none => s
  | some r =>
    if blockLocked s a then writeAssigned r a w be s
    else if !nbit be 3 then writeAssigned r a w be s
    else if nbit w.toNat 31 then arm (writeAssigned r a w be s)
    else writeAssigned r a w be (disarm s)

/-- INJECTION_ARM: `INT_INJ` is written with ARM 1. -/
def execInjectionArm (t : Nat) (w : Word) (be : Nat) (s : State) : Host.Outcome State Fault Refusal := .next (intInjWrite w be (tick t s))

/-- INJECTION_DISARM: `INT_INJ` is written with ARM 0. -/
def execInjectionDisarm (t : Nat) (w : Word) (be : Nat) (s : State) : Host.Outcome State Fault Refusal :=
  .next (intInjWrite w be (tick t s))

/-! ## The bypass window (R428) -/

/-- The detector may not be bypassed (R428). -/
def bypassShut (s : State) (k : Nat) : Bool :=
  !injPermitted s k || (decide (40 ≤ k) && decide (k ≤ 42)) || (decide (56 ≤ k) && decide (k ≤ 61)) || s.life.vault

/-- A write of `INT_BYPASS` (R428, R430, R431). -/
def intBypassWrite (w : Word) (be : Nat) (s : State) : State :=
  let a := Reg.intBypass
  match regAt a with
  | none => s
  | some r =>
    if blockLocked s a then writeAssigned r a w be s
    else
      let k := bits (merge (word s a) w be) 21 16
      if nbit be 3 && nbit w.toNat 31 then
        if bypassShut s k then setRsvd a s
        else
          let s := writeAssigned r a w be s
          if s.brc.active then closeBypass s
          else onInt (fun i => { i with bypass := some (k, s.now + fieldOf s a 9 0 * 1000) }) s
      else
        let s := writeAssigned r a w be s
        if nbit be 3 && s.integ.bypass.isSome then setField a 31 31 1 s else s

/-- BYPASS_OPEN: `INT_BYPASS` is written with OPEN 1. -/
def execBypassOpen (t : Nat) (w : Word) (be : Nat) (s : State) : Host.Outcome State Fault Refusal := .next (intBypassWrite w be (tick t s))

/-- BYPASS_WINDOW_END. -/
def execBypassWindowEnd (t : Nat) (s : State) : Host.Outcome State Fault Refusal :=
  let s := tick t s
  match s.integ.bypass with
  | some (_, e) => if s.now ≥ e then .next (closeBypass s) else .next s
  | none => .next s

/-- INT_SNAP_NOW (R432). -/
def execIntSnapNow (t : Nat) (s : State) : Host.Outcome State Fault Refusal :=
  .next (snapAll ((List.range 64).map Reg.intTally) (tick t s))

/-! ## SRAM (R405, R406, R410) -/

/-- Segment of an array, 0xFF in the Rind, and its index there. -/
def arrSeg (arr : Nat) : Nat := if arr < 512 then arr / 128 else 0xFF
def arrIdx (arr : Nat) : Nat := arr % 128

/-- An array is powered: its Segment is enabled and not in S2 or S3. -/
def arrOn (s : State) (arr : Nat) : Bool := decide (arr ≥ 512) || (segOn s (arr / 128) && decide (sleepOf s (arr / 128) < 2))

/-- A fuse map entry (R410). -/
def fuseEntry (arr spare row : Nat) : Nat :=
  2 ^ 31 + 2 ^ 30 + (if arr < 512 then arr / 128 * 2 ^ 28 else 2 ^ 27) + arrIdx arr * 2 ^ 20 + spare * 2 ^ 18 + row % 65536

/-- Repair a row for detector `k`, or leave it in service for want of a spare (R410, R411, R429). -/
def repairRow (arr row k : Nat) (s : State) : State :=
  let n := tgetD 0 arr s.integ.sramSpare
  let site : Site := { seg := arrSeg arr, unit := arrIdx arr, loc := row }
  let full := decide (n ≥ 4) || decide (s.integ.fuses.length ≥ 512)
  let (bad, ef, s) := meet 55 (arrSeg arr) (arrIdx arr) full s
  let s := if bad then raiseF 55 site ef s else s
  if full || (bad && !bypassed s 55) then s
  else
    let e := fuseEntry arr n row
    let s := onInt (fun i => { i with fuses := i.fuses ++ [e], sramSpare := tput arr (n + 1) i.sramSpare,
                                      sramCorr := tdel (arr * 65536 + row) i.sramCorr }) s
    queueRetire 5 k (arrSeg arr) 0 0 0 e (raise 54 site s)

/-- What a reader of SRAM finds, the scrubber or another: a word corrected, DT50, or one that is uncorrectable, DT51, with which SECDED's
masking is exhausted (R398, R405, R406, R410). -/
def scrubFinding (s : State) (x : SramFind) : State :=
  let site : Site := { seg := arrSeg x.arr, unit := arrIdx x.arr, loc := x.row }
  if !arrOn s x.arr then s
  else if x.dbl then (if bypassed s 51 then raise 51 site s else repairRow x.arr x.row 51 (exhaustNone 0 (raise 51 site s)))
  else if bypassed s 50 then raise 50 { site with aux := 1 } s
  else
    let key := x.arr * 65536 + x.row
    let n := tgetD 0 key s.integ.sramCorr + 1
    let s := onInt (fun i => { i with sramCorr := tput key n i.sramCorr }) (raise 50 { site with aux := 1 } s)
    if n ≥ fieldOf s Reg.intRepair 7 0 then repairRow x.arr x.row 50 s else s

/-- SRAM_SCRUB: the scrubber reads every word once each `INT_SCRUB.PERIOD` seconds. -/
def execSramScrub (t : Nat) (finds : List SramFind) (s : State) : Host.Outcome State Fault Refusal :=
  let s := tick t s
  if s.now - s.integ.lastScrub < fieldOf s Reg.intScrub 7 0 * 1000000000 then .next s
  else
    let s := finds.foldl scrubFinding s
    .next (onInt (fun i => { i with lastScrub := s.now, sramCorr := [] }) s)

/-! ## Health, link and timebase (R417, R429) -/

/-- HEALTH_SAVE: 60 minutes have passed since the last save. -/
def execHealthSave (t : Nat) (s : State) : Host.Outcome State Fault Refusal :=
  let s := tick t s
  if s.now - s.integ.lastHealthSave < 3600000000000 then .next s
  else .next (queueHealth (onInt (fun i => { i with lastHealthSave := s.now }) (accrueHealth s)))

/-- MONITOR_OSCILLATOR_CHECK: the timebase and the monitor differ by `ppm`. -/
def execMonitorOscillatorCheck (t ppm : Nat) (s : State) : Host.Outcome State Fault Refusal :=
  let s := tick t s
  let (inj, ef, s) := meet 13 0xFF 0xFFFF false s
  .next (if ppm + (if inj then 1000 else 0) > 500 then raiseF 13 { aux := ppm } ef s else s)

/-- FLIT_CRC_ERROR: replay, and an AER correctable error. -/
def execFlitCrcError (t : Nat) (s : State) : Host.Outcome State Fault Refusal :=
  let s := tick t s
  let (_, ef, s) := meet 0 0xFF 0xFFFF true s
  .next (raiseF 0 {} (ef + efMasked) (if bypassed s 0 then s else emit (.aer true 0) s))

/-- The link works: it carries transactions. -/
def linkUp (l : Link) : Bool := l == .l0 || l == .l0p

/-- Every bounded command in flight loses its bound for a cause (R181). -/
def voidAll (cause : Nat) (s : State) : State :=
  onRge (fun r => { r with flights := tmap (fun _ c => if c.bound != .notS && !c.voids.contains cause then { c with voids := cause :: c.voids } else c) r.flights }) s

/-- LINK_STATE_CHANGE: the link is in state `link` at a speed and width. Recovery, and training that ends below Gen6 x16, raise
DT03; an injection forces Recovery once (R429). -/
def execLinkStateChange (t : Nat) (link : Link) (speed width : Nat) (s : State) : Host.Outcome State Fault Refusal :=
  let s := tick t s
  let was := s.pins.link
  let (inj, ef, s) := if linkUp link then meet 3 0xFF 0xFFFF false s else (false, 0, s)
  let link := if inj then .recovery else link
  let fit := linkFit s
  let s := { s with pins := { s.pins with link := link, speed := speed, width := width } }
  let s := if !fit && linkFit s then { s with pins := { s.pins with fitFrom := s.now } } else s
  let worse := link == .recovery || (linkUp link && (was == .training || was == .down) && (speed != 6 || width != 16))
  let s := if linkUp link && decide (s.pwr.rindSleep > 0) then startWake rindx s else s
  let s := if worse then raiseF 3 { loc := speed * 256 + width } ef s else s
  .next (if worse && !bypassed s 3 then voidAll 6 s else s)

end Sys2Proof.Machine
end

