-- ==== Sys2Proof/Machine/Dispatcher.lean ====
section
/-!
DEFINITION. The Dispatchers: work items, posts, delay lists, GET, and the runs of host programs (chapter 15).
-/
namespace Sys2Proof.Machine

/-! ## Finding an item (R597 to R599, R608) -/

/-- The item is the head of its flow: none of the flow is in service, and none entered the ready lists earlier (R599). -/
def flowHead (s : State) (key : Nat) (i : Item) : Bool :=
  i.flow == 0 || !tany (fun j x => j != key && j / 4096 == key / 4096 && x.flow == i.flow && x.run == i.run && (match x.place with
    | .service _ => true
    | .ready o => (match i.place with | .ready p => decide (o < p) | _ => false)
    | _ => false)) s.dsp.items

/-- The item may be taken by core `k` with a priority mask (R598). -/
def eligibleItem (s : State) (k mask key : Nat) (i : Item) : Bool :=
  (match i.place with | .ready _ => true | _ => false) && (tget key s.dsp.runs).isNone && key / 4096 == k / 4
    && i.run == (coreOf s k).run && (mask == 0 || nbit mask i.prio)
    && (i.aff == 0 || nbit i.aff (k % 4)) && (match i.only with | some c => c == k | none => true)
    && flowHead s key i

/-- Order of entry of a ready item. -/
def readyOrder (i : Item) : Nat := match i.place with | .ready o => o | _ => 0

/-- The oldest eligible item of the highest eligible priority (R598). -/
def findItem (s : State) (k mask : Nat) : Option (Nat × Item) :=
  (tfilter (eligibleItem s k mask) s.dsp.items).foldl
    (fun (b : Option (Nat × Item)) p => match b with
      | none => some p
      | some q => if p.2.prio < q.2.prio ∨ (p.2.prio = q.2.prio ∧ readyOrder p.2 < readyOrder q.2) then some p else some q) none

/-- Deliver an item to a core: its content is in the mailbox, and the item is in service; the token is answered (R552, R601,
R609). -/
def deliver (k key : Nat) (i : Item) (s : State) : Nat × State :=
  let s := onDsp (fun d => { d with items := tput key { i with place := .service k } d.items }) s
  (tokenOf key i, bump (Reg.dspGetsLo (k / 4)) 1 (onCore k (fun c => { c with mailbox := fit 64 i.content, item := some key }) s))

/-! ## Posts (R603 to R607) -/

/-- Entries of a delay list. -/
def tickCount (s : State) (seg : Nat) : Nat := tcount (fun _ i => match i.place with | .tick _ _ => true | _ => false) (itemsOf s seg)
def usCount (s : State) (seg : Nat) : Nat := tcount (fun _ i => match i.place with | .us _ _ => true | _ => false) (itemsOf s seg)

/-- NOWUS: timebase time in µs since power-on (R605). -/
def nowUs (s : State) : Nat := (s.now - s.boot.powerAt) / 1000

/-- A reserved field of PHDR is not 0 for this core, or DELAY is 3 (R605, R606). -/
def phdrBad (guest : Bool) (p : Nat) : Bool :=
  nbits p 15 11 != 0 || nbit p 3 || nbits p 9 8 == 3 || (nbit p 10 && guest) || (nbits p 63 48 != 0 && (guest || !nbit p 10))

/-- Where a post of core `k` goes: the run on whose list it is put, none for the house list; nothing where RUN names none. -/
def postRun (s : State) (k p : Nat) : Option (Option Nat) :=
  if !isHouse s k then some (coreOf s k).run
  else if nbit p 10 then
    let r := itemKey (k / 4) (nbits p 63 48)
    if nbits p 63 48 < 4096 ∧ (tget r s.dsp.runs).isSome then some (some r) else none
  else some none

/-- The place that a post's DELAY and DUE give it (R603). -/
def postPlace (s : State) (delay due : Nat) : Place :=
  if delay = 1 ∧ due > evTime s then .tick due s.dsp.order
  else if delay = 2 ∧ due > nowUs s then .us due s.dsp.order
  else .ready s.dsp.order

/-- The delay list that a place stands for is full. -/
def listFull (s : State) (seg : Nat) : Place → Bool
  | .tick _ _ => decide (tickCount s seg ≥ 1024)
  | .us _ _ => decide (usCount s seg ≥ 1024)
  | _ => false

/-- A post of core `k`: its status, and the state with the item on its list (R606). -/
def postItem (k : Nat) (content : List Byte) (p due : Nat) (s : State) : Nat × State :=
  if phdrBad (!isHouse s k) p then (0x0103, s)
  else match postRun s k p with
    | none => (0x0106, s)
    | some run =>
      let seg := k / 4
      let place := postPlace s (nbits p 9 8) due
      let room := match run with | some r => runItemRoom s seg r | none => true
      match (if room && !listFull s seg place then freeItem s seg else none) with
      | none => (0x0406, s)
      | some key =>
        (0, putItem key { content := fit 64 content, kind := nbits p 47 32, flow := nbits p 31 16, prio := nbits p 2 0, seq := 0,
                          source := 0, aff := if isHouse s k then nbits p 7 4 else 0, run := run, place := place } s)

/-- The first hand-over that passes, and the list without it. -/
def takeHand (f : Hand → Bool) : List Hand → Option Hand × List Hand
  | [] => (none, [])
  | h :: t => if f h then (some h, t) else ((takeHand f t).1, h :: (takeHand f t).2)

/-- Take a hand-over from the ports. -/
def popHand (f : Hand → Bool) (s : State) : Option Hand × State :=
  let (h, l) := takeHand f s.dxr.hands
  (h, onDxr (fun d => { d with hands := l }) s)

/-- DISPATCHER_POST: core `k` has stored to POST. On the Rind core, which has no Segment, POSTSTAT is a free value (log 33). -/
def execDispatcherPost (t k : Nat) (s : State) : Host.Outcome State Fault Refusal :=
  let s := tick t s
  match popHand (fun h => match h with | .post c _ _ _ => c == k | _ => false) s with
  | (some (.post _ content p due), s) =>
    if k = rindCore then .next (draw (onCore k (fun c => { c with poststat := freeVal s }) s))
    else
      let (st, s) := postItem k content p due s
      .next (onCore k (fun c => { c with poststat := st }) s)
  | _ => .next s

/-- DISPATCHER_DONE: core `k` has stored a token to DONE (R601, R607). -/
def execDispatcherDone (t k : Nat) (s : State) : Host.Outcome State Fault Refusal :=
  let s := tick t s
  match popHand (fun h => match h with | .done c _ => c == k | _ => false) s with
  | (some (.done _ token), s) =>
    let mine := match (coreOf s k).item with
      | some key => (match tget key s.dsp.items with | some i => tokenOf key i == token | none => false)
      | none => false
    .next (if mine then endService k s else setFlag Reg.dspStatus 30 s)
  | _ => .next s

/-- An item of an engine or channel: a job's result for the submitting core (R596). DESIGN CHOICE (log 129): without a free slot for the run
it is not posted. -/
def notifyItem (k source : Nat) (result : List Byte) (res : Nat) (s : State) : State :=
  let room := match (coreOf s k).run with | some r => runItemRoom s (k / 4) r | none => true
  match (if room then freeItem s (k / 4) else none) with
  | some key =>
    putItem key { content := fit 64 (fit 16 result ++ le 8 res), kind := source, flow := 0, prio := 0, seq := 0, source := source,
                  only := some k, run := (coreOf s k).run, place := .ready s.dsp.order } s
  | none => s

/-- Items whose due time has passed enter their ready lists, in order of due time and then of posting. -/
def releaseOne (s : State) (key : Nat) : State := match tget key s.dsp.items with
  | some i => onDsp (fun d => { d with items := tput key { i with source := 6, place := .ready d.order } d.items, order := d.order + 1 }) s
  | none => s

/-- Insert by due time, behind equal ones. -/
def dueInsert (x : Nat × Nat × Nat) : List (Nat × Nat × Nat) → List (Nat × Nat × Nat)
  | [] => [x]
  | y :: t => if x.1 < y.1 ∨ (x.1 = y.1 ∧ x.2.1 < y.2.1) then x :: y :: t else y :: dueInsert x t

/-- Due entries of a delay list as (due, posting order, key), sorted. -/
def dueItems (s : State) (seg : Nat) (f : Place → Option (Nat × Nat)) : List Nat :=
  ((itemsOf s seg).foldl (fun l p => match f p.2.place with | some (d, o) => dueInsert (d, o, p.1) l | none => l) []).map (·.2.2)

/-- DELAY_RELEASE: the due items of Segment `seg` are released. A sleeping Segment wakes first (R603, R604, R627). -/
def execDelayRelease (t seg : Nat) (s : State) : Host.Outcome State Fault Refusal :=
  let s := tick t s
  let l := dueItems s seg (fun p => match p with | .tick d o => if d ≤ evTime s then some (d, o) else none | _ => none)
    ++ dueItems s seg (fun p => match p with | .us d o => if d ≤ nowUs s then some (d, o) else none | _ => none)
  if l.isEmpty then .next s
  else if sleepOf s seg ≠ 0 then .next (startWake seg s)
  else .next (l.foldl releaseOne s)

/-! ## Runs (R610 to R626) -/

/-- Fields of a program image's header (R610). -/
def imgEntry (b : List Byte) : Nat := fld b 12 4
def imgText (b : List Byte) : Nat := fld b 16 4
def imgX (b : List Byte) : Nat := fld b 20 4
def imgY (b : List Byte) : Nat := fld b 24 4
def imgSram (b : List Byte) : Nat := fld b 28 4
def imgDram (b : List Byte) : Nat := fld b 32 4

/-- A Program notice (R625). -/
def progNotice (x : DRun) (pkind code epc eaddr : Nat) (s : State) : State :=
  post x.fn 0x08 x.fn (pack [(1, pkind), (1, x.slot), (1, x.seg), (1, code), (2, x.cid), (2, x.ring), (4, epc), (4, eaddr)]) s

/-- A run ends (R622, R623, R625, R626). -/
def endRun (r status result code epc eaddr ef : Nat) (s : State) : State := match tget r s.dsp.runs with
  | none => s
  | some x =>
    let k := x.core.getD 0
    let s := complete x.id status result (cleanRun r s)
    let s := (List.range x.retries).foldl (fun s _ => progNotice x 4 0 0 0 s) s
    let s := if status = 0x0605 then
        bumpTallyQuiet (Reg.dspSandbox x.seg) (raiseF 9 { seg := x.seg, unit := k, func := x.fn, loc := eaddr } ef s)
      else if status = 0x0604 then bump (Reg.dspBudgetLo x.seg) 1 s else s
    if status = 0 then s
    else progNotice x (if status = 0x0604 then 2 else if status = 0x0605 then 3 else 1) code epc eaddr s

/-- RUN_EXIT: guest core `k` has stored a value to EXIT (R622). -/
def execRunExit (t k : Nat) (s : State) : Host.Outcome State Fault Refusal :=
  let s := tick t s
  match popHand (fun h => match h with | .exit c _ => c == k | _ => false) s with
  | (some (.exit _ v), s) => match (coreOf s k).run with
    | some r => .next (endRun r 0 v 0 0 0 0 s)
    | none => .next s
  | _ => .next s

/-- The run at the head of a Segment's queue (R613, R614). -/
def headRun (s : State) (seg : Nat) : Option (Nat × DRun) :=
  (tfilter (fun _ x => x.seg == seg && x.core.isNone) s.dsp.runs).foldl
    (fun (b : Option (Nat × DRun)) p => match b with | none => some p | some q => if p.2.order < q.2.order then some p else some q) none

/-- TICK (R11) lies in the run-start window (R614). -/
def inStartWindow (s : State) : Bool :=
  let tick := evTime s / 4096 % 4096
  decide ((tick + 4096 - fieldOf s Reg.dspGwin 11 0) % 4096 < fieldOf s Reg.dspGwin 28 16)

/-- Guest pools in force, in bytes (R630). -/
def gpoolOf (s : State) (seg : Nat) : Nat := tgetD 0x01000020 seg s.dsp.gpool
def sramPool (s : State) (seg : Nat) : Nat := nbits (gpoolOf s seg) 6 0 * 65536
def dramPool (s : State) (seg : Nat) : Nat := nbits (gpoolOf s seg) 31 16 * 1048576

/-- The first address above the guest pool's DRAM (R639). -/
def dramPoolTop (s : State) (seg : Nat) : Nat :=
  dramBase + dramSize s seg - 65536 - 16777216 - (tgetD {} seg s.mov.drams).shared * 1048576

/-- Runs of a Segment in progress. -/
def liveRuns (s : State) (seg : Nat) : Tab DRun := tfilter (fun _ x => x.seg == seg && x.core.isSome) s.dsp.runs

/-- A grant of `len` bytes at `a` is free in Segment SRAM within the guest pool's size (R614, R616). -/
def grantW3 (s : State) (seg a len : Nat) : Bool :=
  len == 0 || (a % 4096 == 0 && inSram a len && decide (tsum (fun _ x => x.w3len) (liveRuns s seg) + len ≤ sramPool s seg)
    && !tany (fun _ x => decide (a < x.w3 + x.w3len) && decide (x.w3 < a + len)) (liveRuns s seg))

/-- The same in the guest pool's DRAM. -/
def grantW4 (s : State) (seg a len : Nat) : Bool :=
  len == 0 || (a % 65536 == 0 && inside a len (dramPoolTop s seg - dramPool s seg) (dramPool s seg)
    && !tany (fun _ x => decide (a < x.w4 + x.w4len) && decide (x.w4 < a + len)) (liveRuns s seg))

/-- The core is powered and not held by a debugger. -/
def corePowered (s : State) (k : Nat) : Bool := coreIn s k && (if k = rindCore then s.pwr.rindSleep == 0 else sleepOf s (k / 4) == 0)

/-- The steps of R615 for run `r` on core `k`, and the release at ENTRY. -/
def setupRun (r k : Nat) (x : DRun) (img : List Byte) (s : State) : State :=
  let j := k % 4
  let s := clearCore k s
  let s := writeMem x.seg (iAlias j) (slice img 128 (imgText img)) s
  let s := writeMem x.seg (xAlias j) (slice img (128 + imgText img) (imgX img)) s
  let s := writeMem x.seg (yAlias j) (slice img (128 + imgText img + imgX img) (imgY img)) s
  let s := clearMem x.seg x.w3 x.w3len (clearMem x.seg x.w4 x.w4len s)
  let tok := match tget r s.dsp.items with | some i => tokenOf r i | none => 0
  let gs := x.args ++ [tok, x.w3, x.w3len, x.w4, x.w4len, x.fn + x.seg * 2 ^ 16 + j * 2 ^ 24]
  let s := onCore k (fun c => { c with g := (gs.zipIdx).foldl (fun m p => tset 0 p.2 (BitVec.ofNat 64 p.1) m) [],
                                       pc := BitVec.ofNat 32 (imgEntry img), run := some r, waitAt := s.now,
                                       st := if c.st = .halted then .halted else .running }) s
  onDsp (fun d => { d with runs := tput r { x with core := some k, released := s.now, heldNs := 0,
                                                   heldAt := if (coreOf s k).st = .halted then some s.now else none } d.runs }) s

/-- RUN_START: the run at the head of Segment `seg`'s queue starts on guest core `k`, with W3 at `w3` and W4 at `w4`, where the
pools grant them (R614, R615). The choice among free cores and free places is the Dispatcher's, so it comes with the event
(log 34). -/
def execRunStart (t seg k w3 w4 : Nat) (s : State) : Host.Outcome State Fault Refusal :=
  let s := tick t s
  match headRun s seg with
  | none => .next s
  | some (r, x) => match tget x.slot s.dsp.progs with
    | none => .next s
    | some p =>
      let x := { x with w3 := w3, w3len := imgSram p.image, w4 := w4, w4len := imgDram p.image }
      if rescue s ∨ s.brc.active ∨ s.pwr.shed ∨ !(guestCores s seg).contains k ∨ (coreOf s k).run.isSome ∨ !corePowered s k ∨ !inStartWindow s
          ∨ !grantW3 s seg w3 x.w3len ∨ !grantW4 s seg w4 x.w4len then .next s
      else
        let s := onFlight x.id (fun c => { c with begun := true }) s
        .next (bump (Reg.dspRunsLo seg) 1 (setupRun r k x p.image s))

/-- A run starts again from ENTRY (R414, R615, R624): what its earlier attempt queued goes first (log 32). -/
def restartRun (r : Nat) (s : State) : State := match tget r s.dsp.runs with
  | none => s
  | some x => match x.core, tget x.slot s.dsp.progs with
    | some k, some p =>
      let tok := tget r s.dsp.items
      let s := cleanRun r s
      let s := onDsp (fun d => { d with runs := tput r x d.runs, items := match tok with | some i => tput r i d.items | none => d.items }) s
      setupRun r k x p.image s
    | _, _ => s

/-- DSP_SNAP_NOW (R629). -/
def execDspSnapNow (t n : Nat) (s : State) : Host.Outcome State Fault Refusal :=
  .next (strobe n (Reg.dspSnap n) (tick t s))

end Sys2Proof.Machine
end

