-- ==== Sys2Proof/Machine/Access.lean ====
section
/-!
DEFINITION. The data accesses of a core: what an effective address reaches, the ports, and the reading and storing of bytes
(R516 to R520, R537, R541, R605, R617, R659).
-/
namespace Sys2Proof.Machine

/-- Kinds of access. -/
inductive Kind where
  | load | store | amo
  deriving DecidableEq, Repr

/-- What an access reaches: bytes of a memory, the mailbox, a job or channel port (0 Zest, 1 Crypto, 2 to 5 channels), the
Dispatcher port, the heartbeat, or the index view. -/
inductive Target where
  | mem (key a : Nat)
  | mailbox (o : Nat)
  | port (p o : Nat)
  | disp (o : Nat)
  | beat
  | view (a : Nat)
  deriving DecidableEq, Repr

/-- The fields of a job port or channel port permit the access (R517, R519, R659). -/
def portOk (p : Nat) (kd : Kind) (o n : Nat) : Bool :=
  (n == 4 || n == 8) && ((kd != .amo && decide (o + n ≤ 0x40)) || (kd == .store && n == 4 && o == 0x78)
    || (decide (p ≥ 2) && ((kd == .load && decide (0x40 ≤ o) && decide (o + n ≤ 0x48)) || (kd == .store && n == 4 && o == 0x48))))

/-- The fields of the Dispatcher port permit the access (R605). -/
def dispOk (guest : Bool) (kd : Kind) (o n : Nat) : Bool :=
  (n == 4 || n == 8) && ((kd != .amo && decide (o + n ≤ 0x50))
    || (kd == .store && ((n == 4 && o == 0x50) || (decide (0x58 ≤ o) && decide (o + n ≤ 0x60))
          || (guest && decide (0x60 ≤ o) && decide (o + n ≤ 0x68))))
    || (kd == .load && decide (0x68 ≤ o) && decide (o + n ≤ 0x80)))

/-- Where a core-local address of one of its memories lies: the Segment map's alias, or the Rind core's own memory. -/
def localMem (k a : Nat) (alias_ : Nat → Nat) (base : Nat) : Target :=
  if k = rindCore then .mem 4 a else .mem (k / 4) (alias_ (k % 4) + (a - base))

/-- An access of the core-local region (R516). -/
def localTarget (k : Nat) (guest : Bool) (kd : Kind) (a n : Nat) : Option Target :=
  let bank := if k = rindCore then 0x20000 else 0x40000
  if inside a n 0 0x40000 then (if guest ∨ kd = .amo then none else some (localMem k a iAlias 0))
  else if inside a n 0x100000 bank then (if kd = .amo then none else some (localMem k a xAlias 0x100000))
  else if inside a n 0x140000 bank then (if kd = .amo then none else some (localMem k a yAlias 0x140000))
  else if inside a n 0x200000 0x300 ∧ k ≠ rindCore then
    let p := (a - 0x200000) / 0x80
    if portOk p kd (a % 0x80) n then some (.port p (a % 0x80)) else none
  else if inside a n 0x200400 0x40 then (if kd = .load then some (.mailbox (a - 0x200400)) else none)
  else if inside a n 0x200480 0x80 then (if dispOk guest kd (a - 0x200480) n then some (.disp (a - 0x200480)) else none)
  else if a = 0x200500 ∧ n = 8 ∧ kd = .store ∧ !guest then some .beat
  else none

/-- An access of the Segment address map (R541, R591, R617); the Rind core has none there (log 35). -/
def mapTarget (s : State) (k : Nat) (guest : Bool) (kd : Kind) (a n : Nat) : Option Target :=
  let seg := k / 4
  let ok := if k = rindCore then false
    else if guest then (match runOn s k with | some r => inWindow r k a n (kd != .load) (kd == .amo) | none => false)
    else if kd = .amo then inSram a n else segOk s seg a n (kd == .store)
  if !ok then none else if inView a n then some (.view a) else some (.mem seg a)

/-- What an access of core `k` reaches; nothing where it raises 0x09. -/
def target (s : State) (k : Nat) (kd : Kind) (a n : Nat) : Option Target :=
  if a < 0x1000000 then localTarget k (!isHouse s k) kd a n else mapTarget s k (!isHouse s k) kd a n

/-! ## Reading -/

/-- STATE of a channel port (R659). -/
def chanState (c : DmCh) : Nat := (if c.halted then 2 else if c.queue.isEmpty then 0 else 1) + 2 ^ 8 * c.queue.length

/-- Key of the channel of a port of core `k`. -/
def chanKey (k p : Nat) : Nat := k / 4 * 64 + 4 * (k % 4) + p

/-- BUDGET in µs (R605, R621): what is left of the run's budget. -/
def budgetLeft (s : State) (k : Nat) : Nat := match runOn s k with
  | some r =>
    let held := r.heldNs + (match r.heldAt with | some a => s.now - a | none => 0)
    r.budget - (s.now - r.released - held) / 1000
  | none => 0

/-- The number that a load of `n` bytes gives core `k`. -/
def loadAt (s : State) (k : Nat) (x : Target) (n : Nat) : Nat :=
  let c := coreOf s k
  match x with
  | .mem key a => unle (readMem s key a n)
  | .mailbox o => fld c.mailbox o n
  | .port p o =>
    if o < 0x40 then fld (tgetD [] p c.stage) o n else fld (le 8 (chanState (tgetD {} (chanKey k (p - 2)) s.mov.chans))) (o - 0x40) n
  | .disp o =>
    if o < 0x40 then fld c.dstage o n
    else fld (pack [(8, c.phdr.toNat), (8, c.due.toNat), (24, 0), (8, c.poststat), (8, budgetLeft s k), (8, nowUs s)]) (o - 0x40) n
  | .beat => 0
  | .view a => unle (viewBytes s (coreFn s k) (k / 4) a n)

/-! ## Storing -/

/-- Queue a hand-over from a port (R520). -/
def hand (h : Hand) (s : State) : State := onDxr (fun d => { d with hands := d.hands ++ [h] }) s

/-- Old bytes of a store to instruction memory, which fetches may still see (R537). -/
def markStale (k key a : Nat) : List Byte → State → State
  | [], s => s
  | _ :: t, s =>
    let known := s.dxr.stale.any fun x => x.mem == key && x.addr == a
    let x : Stale := { core := k, mem := key, addr := a, old := tgetD 0 a (memOfKey s key) }
    markStale k key (a + 1) t (if known then s else onDxr (fun d => { d with stale := d.stale ++ [x] }) s)

/-- The bytes lie in an instruction memory. -/
def inImem (key a n : Nat) : Bool :=
  if key = 4 then inside a n 0 0x40000 else (List.range 4).any fun j => inside a n (iAlias j) 0x40000

/-- A 64-bit register of a port with some of its bytes written. -/
def patch8 (v : W64) (o : Nat) (l : List Byte) : W64 := BitVec.ofNat 64 (unle (patch (le 8 v.toNat) o l))

/-- The value of a store to a register of which `o` bytes come before it; the bytes not stored are 0 (log 36). -/
def partVal (o : Nat) (l : List Byte) : Nat := unle (patch (zeros 8) o l)

/-- A store to a job or channel port. -/
def portStore (k p o : Nat) (l : List Byte) (s : State) : State :=
  let st := tgetD [] p (coreOf s k).stage
  if o < 0x40 then onCore k (fun c => { c with stage := tput p (fit 64 (patch (fit 64 st) o l)) c.stage }) s
  else if o = 0x48 then hand (.resume k (p - 2) (unle l)) s
  else match p with
    | 0 => hand (.zest k (fit 48 st)) s
    | 1 => hand (.crypto k (fit 64 st)) s
    | _ => hand (.channel k (p - 2) (fit 64 st)) s

/-- A store to the Dispatcher port. -/
def dispStore (k o : Nat) (l : List Byte) (s : State) : State :=
  let c := coreOf s k
  if o < 0x40 then onCore k (fun c => { c with dstage := fit 64 (patch (fit 64 c.dstage) o l) }) s
  else if o < 0x48 then onCore k (fun c => { c with phdr := patch8 c.phdr (o - 0x40) l }) s
  else if o < 0x50 then onCore k (fun c => { c with due := patch8 c.due (o - 0x48) l }) s
  else if o = 0x50 then hand (.post k (fit 64 c.dstage) c.phdr.toNat c.due.toNat) s
  else if o < 0x60 then hand (.done k (partVal (o - 0x58) l)) s
  else hand (.exit k (partVal (o - 0x60) l)) s

/-- Store bytes for core `k`. -/
def storeAt (k : Nat) (x : Target) (l : List Byte) (s : State) : State := match x with
  | .mem key a => writeMem key a l (if inImem key a l.length then markStale k key a l s else s)
  | .port p o => portStore k p o l s
  | .disp o => dispStore k o l s
  | .beat => onCore k (fun c => { c with beat := s.now, tries := 0 }) s
  | _ => s

end Sys2Proof.Machine
end

