-- ==== Sys2Proof/Machine/Flags.lean ====
section
/-!
DEFINITION. The condition flags of a Dexar core: what the flag-setting forms write, and the conditions that PFLAG evaluates
(R523, R571, R572).
-/
namespace Sys2Proof.Machine

/-- `FLAGS` with the given N, Z, C and V (R523). -/
def mkFlags (n z c v : Bool) : BitVec 4 := BitVec.ofNat 4 (flags [v, c, z, n])

def flagN (f : BitVec 4) : Bool := f.getLsbD 3
def flagZ (f : BitVec 4) : Bool := f.getLsbD 2
def flagC (f : BitVec 4) : Bool := f.getLsbD 1
def flagV (f : BitVec 4) : Bool := f.getLsbD 0

/-- An exact signed result lies outside 64 bits. -/
def overflows64 (x : Int) : Bool := decide (x < -(2 ^ 63)) || decide (x > 2 ^ 63 - 1)

/-- N and Z of a result. -/
def withNZ (r : W64) (c v : Bool) : BitVec 4 := mkFlags r.msb (r == 0) c v

/-- A sum with an incoming carry, and its flags: carry out of bit 63, signed overflow (R571). -/
def addFlags (a b : W64) (cin : Nat) : W64 × BitVec 4 :=
  let r := BitVec.ofNat 64 (a.toNat + b.toNat + cin)
  (r, withNZ r (decide (a.toNat + b.toNat + cin ≥ 2 ^ 64)) (overflows64 (a.toInt + b.toInt + cin)))

/-- A difference with an incoming borrow, and its flags: C is 1 when there is no borrow (R571). -/
def subFlags (a b : W64) (bin : Nat) : W64 × BitVec 4 :=
  let r := BitVec.ofInt 64 (a.toInt - b.toInt - bin)
  (r, withNZ r (decide (a.toNat ≥ b.toNat + bin)) (overflows64 (a.toInt - b.toInt - bin)))

/-- Flags of a logical result (R571). -/
def logicFlags (r : W64) : BitVec 4 := withNZ r false false

/-- The condition that PFLAG's IMM6 selects (R572). -/
def condOf (f : BitVec 4) (k : Nat) : Bool :=
  let n := flagN f
  let z := flagZ f
  let c := flagC f
  let v := flagV f
  match k with
  | 0 => z
  | 1 => !z
  | 2 => c
  | 3 => !c
  | 4 => n
  | 5 => !n
  | 6 => v
  | 7 => !v
  | 8 => c && !z
  | 9 => !c || z
  | 10 => n == v
  | 11 => n != v
  | 12 => !z && n == v
  | _ => z || n != v

end Sys2Proof.Machine
end

