-- ==== Sys2Proof/Machine/Dexar.lean ====
section
/-!
DEFINITION. The Dexar encoding: syllables, bundles and the checks made when a bundle is decoded (R525 to R533, R546 to R549,
R567 to R590).
-/
namespace Sys2Proof.Machine

/-! ## Operations -/

/-- Two-operand integer operations of the A slots (R570). -/
inductive AluOp where
  | add | sub | adc | sbc | and | or | xor | andn | shl | shr | sar | ror | min | max | minu | maxu
  deriving DecidableEq, Repr

/-- One-operand integer operations; the number of `sext` and `zext` is the width in bits. -/
inductive UnOp where
  | sext (w : Nat) | zext (w : Nat) | clz | popc | bswap | mov
  deriving DecidableEq, Repr

/-- Compares, which write predicates. -/
inductive CmpOp where
  | eq | ne | lt | le | ltu | leu | tst
  deriving DecidableEq, Repr

/-- Predicate logic. -/
inductive PLog where
  | and | or | xor | andn
  deriving DecidableEq, Repr

/-- Multiplies and divides of the M slots (R573). -/
inductive MulOp where
  | mul | mulh | mulhu | mulhsu | div | divu | rem | remu
  deriving DecidableEq, Repr

/-- Multiply-accumulates. -/
inductive AccOp where
  | mac | macu | msu | msuu | mula
  deriving DecidableEq, Repr

/-- The dual-fetch family (R576). -/
inductive DualOp where
  | dmac | dmsu | dmul
  deriving DecidableEq, Repr

/-- Atomics (R578). -/
inductive AmoOp where
  | swap | add | and | or | cas
  deriving DecidableEq, Repr

/-- Fences (R537, R538). -/
inductive FenceOp where
  | r | w | rw | i
  deriving DecidableEq, Repr

/-- A decoded operation. -/
inductive Dx where
  | alu (op : AluOp) (f : Bool) (d a : Nat) (b : Src)
  | un (op : UnOp) (d a : Nat)
  | movi (d : Nat) (v : W64)
  | movhi (d a : Nat) (v : W64)
  | cmp (op : CmpOp) (p a : Nat) (b : Src)
  | plog (op : PLog) (p a b : Nat)
  | pflag (p cond : Nat)
  | movpg (d : Nat)
  | movgp (a : Nat)
  | mul (op : MulOp) (d a b : Nat)
  | acc (op : AccOp) (m a b : Nat)
  | mclr (m : Nat)
  | movgm (m a : Nat)
  | movmg (d m : Nat)
  | movmgh (d m : Nat)
  | movgmh (m a : Nat)
  | msat (round : Bool) (d m n : Nat)
  | madd (m a b : Nat)
  | dual (op : DualOp) (m ax ay : Nat) (px py : Bool) (sub : Nat)
  | load (size : Nat) (signed : Bool) (t : Nat) (r : MemRef)
  | store (size : Nat) (t : Nat) (r : MemRef)
  | ldm (m : Nat) (r : MemRef)
  | stm (m : Nat) (r : MemRef)
  | amo (op : AmoOp) (t : Nat) (r : MemRef)
  | seta (r f t : Nat)
  | geta (t r f : Nat)
  | movea (r t : Nat)
  | lea (t : Nat) (r : MemRef)
  | copya (r q : Nat)
  | br (off : Int) (call : Bool)
  | jr (a : Nat) (call : Bool)
  | loop (count : Src) (stop : Nat)
  | get (d a : Nat)
  | gett (d a p : Nat)
  | movcR (g cr : Nat)
  | movcW (cr g : Nat)
  | fence (op : FenceOp)
  | brk (v : Nat)
  | trap (v : Nat)
  | rte
  | nop
  deriving DecidableEq, Repr

/-- A syllable: slot, guard (predicate and N), operation (R525). -/
structure Syl where
  slot : Nat
  pred : Nat
  neg : Bool
  op : Dx
  deriving DecidableEq, Repr

/-- A decoded bundle: its length in words, its REP count if it has the prefix, and its syllables. -/
structure Bundle where
  words : Nat
  rep : Option Src
  syls : List Syl
  deriving DecidableEq, Repr

/-! ## Operand fields (R525, R527, R528, R567, R568) -/

def Syl.isC (x : Syl) : Bool := x.slot == 5

/-- Fields of a syllable word. -/
def wS (w : Word) : Bool := w.getLsbD 31
def wSlot (w : Word) : Nat := bits w 30 28
def wG (w : Word) : Nat := bits w 27 24
def wOp (w : Word) : Nat := bits w 23 18
def wD (w : Word) : Nat := bits w 17 12
def wA (w : Word) : Nat := bits w 11 6
def wB (w : Word) : Nat := bits w 5 0

/-- A field that names a predicate or an accumulator: its high bits are 0. -/
def low3 (n : Nat) : Option Nat := if n < 8 then some n else none

/-- `x` where the condition holds. -/
def guardO {α : Type} (b : Bool) (x : α) : Option α := if b then some x else none

/-- The immediate of an I6 syllable, extended by sign or zero (R568). -/
def immOf (w : Word) (ext : Option Word) (signed : Bool) : W64 :=
  let (n, v) : Nat × Nat := match ext with
    | none => (6, wB w)
    | some e => (32, bits e 25 0 * 64 + wB w)
  let b := BitVec.ofNat 64 v
  if signed then sx n b else b

/-- The memory operand of format MA. -/
def memOf (w : Word) : MemRef :=
  { ar := bits w 11 8, am := bits w 7 6, disp := (BitVec.ofNat 6 (wB w)).toInt }

/-- Opcode 0x01 to 0x10 of the A slots. -/
def aluOf : Nat → Option AluOp
  | 1 => some .add | 2 => some .sub | 3 => some .adc | 4 => some .sbc | 5 => some .and | 6 => some .or | 7 => some .xor
  | 8 => some .andn | 9 => some .shl | 10 => some .shr | 11 => some .sar | 12 => some .ror | 13 => some .min | 14 => some .max
  | 15 => some .minu | 16 => some .maxu | _ => none

/-- An A-slot syllable (R570, R571). `ext` is the extension that follows it. -/
def decA (w : Word) (ext : Option Word) : Option Dx :=
  let d := wD w
  let a := wA w
  let b := wB w
  let r3 := fun (x : Option Dx) => if ext.isSome then none else x
  let si := Src.imm (immOf w ext true)
  let zi := Src.imm (immOf w ext false)
  match wOp w with
  | 0x11 => some (.alu .add false d a si)
  | 0x12 => some (.alu .and false d a si)
  | 0x13 => some (.alu .or false d a zi)
  | 0x14 => some (.alu .xor false d a zi)
  | 0x15 => r3 (some (.alu .shl false d a (.imm (BitVec.ofNat 64 b))))
  | 0x16 => r3 (some (.alu .shr false d a (.imm (BitVec.ofNat 64 b))))
  | 0x17 => r3 (some (.alu .sar false d a (.imm (BitVec.ofNat 64 b))))
  | 0x18 => guardO (a == 0) (.movi d (immOf w ext true))
  | 0x19 => some (.movhi d a (immOf w ext false))
  | 0x1A => r3 (guardO (b ≤ 2) (.un (.sext (8 * 2 ^ b)) d a))
  | 0x1B => r3 (guardO (b ≤ 2) (.un (.zext (8 * 2 ^ b)) d a))
  | 0x1C => r3 (guardO (b == 0) (.un .clz d a))
  | 0x1D => r3 (guardO (b == 0) (.un .popc d a))
  | 0x1E => r3 (guardO (b == 0) (.un .bswap d a))
  | 0x1F => r3 (guardO (b == 0) (.un .mov d a))
  | 0x20 => r3 ((low3 d).map fun p => .cmp .eq p a (.reg b))
  | 0x21 => r3 ((low3 d).map fun p => .cmp .ne p a (.reg b))
  | 0x22 => r3 ((low3 d).map fun p => .cmp .lt p a (.reg b))
  | 0x23 => r3 ((low3 d).map fun p => .cmp .le p a (.reg b))
  | 0x24 => r3 ((low3 d).map fun p => .cmp .ltu p a (.reg b))
  | 0x25 => r3 ((low3 d).map fun p => .cmp .leu p a (.reg b))
  | 0x26 => (low3 d).map fun p => .cmp .eq p a si
  | 0x27 => (low3 d).map fun p => .cmp .lt p a si
  | 0x28 => (low3 d).map fun p => .cmp .ltu p a zi
  | 0x29 => r3 ((low3 d).map fun p => .cmp .tst p a (.reg b))
  | 0x2A => r3 (guardO (d < 8 && a < 8 && b < 8) (.plog .and d a b))
  | 0x2B => r3 (guardO (d < 8 && a < 8 && b < 8) (.plog .or d a b))
  | 0x2C => r3 (guardO (d < 8 && a < 8 && b < 8) (.plog .xor d a b))
  | 0x2D => r3 (guardO (d < 8 && a < 8 && b < 8) (.plog .andn d a b))
  | 0x2E => r3 (guardO (d < 8 && a == 0 && b ≤ 13) (.pflag d b))
  | 0x2F => r3 (guardO (a == 0 && b == 0) (.movpg d))
  | 0x30 => r3 (guardO (d == 0 && b == 0) (.movgp a))
  | 0x31 => r3 (some (.alu .add true d a (.reg b)))
  | 0x32 => r3 (some (.alu .sub true d a (.reg b)))
  | 0x33 => r3 (some (.alu .adc true d a (.reg b)))
  | 0x34 => r3 (some (.alu .sbc true d a (.reg b)))
  | 0x35 => r3 (some (.alu .and true d a (.reg b)))
  | 0x36 => r3 (some (.alu .or true d a (.reg b)))
  | 0x37 => r3 (some (.alu .xor true d a (.reg b)))
  | 0x38 => some (.alu .add true d a si)
  | n => r3 ((aluOf n).map fun o => .alu o false d a (.reg b))

/-- An M-slot syllable (R573, R576, R577). None takes an extension. -/
def decM (w : Word) : Option Dx :=
  let d := wD w
  let a := wA w
  let b := wB w
  let df := fun (o : DualOp) =>
    let ax := bits w 11 8
    let ay := bits w 7 4
    guardO (bits w 14 12 == 0 && ax != ay) (.dual o (bits w 17 15) ax ay (w.getLsbD 3) (w.getLsbD 2) (bits w 1 0))
  match wOp w with
  | 0x01 => some (.mul .mul d a b)
  | 0x02 => some (.mul .mulh d a b)
  | 0x03 => some (.mul .mulhu d a b)
  | 0x04 => some (.mul .mulhsu d a b)
  | 0x05 => some (.mul .div d a b)
  | 0x06 => some (.mul .divu d a b)
  | 0x07 => some (.mul .rem d a b)
  | 0x08 => some (.mul .remu d a b)
  | 0x10 => guardO (d < 8) (.acc .mac d a b)
  | 0x11 => guardO (d < 8) (.acc .macu d a b)
  | 0x12 => guardO (d < 8) (.acc .msu d a b)
  | 0x13 => guardO (d < 8) (.acc .msuu d a b)
  | 0x14 => guardO (d < 8) (.acc .mula d a b)
  | 0x18 => guardO (d < 8 && a == 0 && b == 0) (.mclr d)
  | 0x19 => guardO (d < 8 && b == 0) (.movgm d a)
  | 0x1A => guardO (a < 8 && b == 0) (.movmg d a)
  | 0x1B => guardO (a < 8 && b == 0) (.movmgh d a)
  | 0x1C => guardO (d < 8 && b == 0) (.movgmh d a)
  | 0x1D => guardO (a < 8) (.msat false d a b)
  | 0x1E => guardO (a < 8) (.msat true d a b)
  | 0x1F => guardO (d < 8 && a < 8 && b < 8) (.madd d a b)
  | 0x20 => df .dmac
  | 0x21 => df .dmsu
  | 0x22 => df .dmul
  | _ => none

/-- An X-slot syllable (R578, R580 to R582). None takes an extension. -/
def decX (w : Word) : Option Dx :=
  let t := wD w
  let r := memOf w
  let d := wB w
  match wOp w with
  | 0x01 => some (.load 1 false t r)
  | 0x02 => some (.load 1 true t r)
  | 0x03 => some (.load 2 false t r)
  | 0x04 => some (.load 2 true t r)
  | 0x05 => some (.load 4 false t r)
  | 0x06 => some (.load 4 true t r)
  | 0x07 => some (.load 8 false t r)
  | 0x08 => some (.store 1 t r)
  | 0x09 => some (.store 2 t r)
  | 0x0A => some (.store 4 t r)
  | 0x0B => some (.store 8 t r)
  | 0x0C => guardO (t < 8) (.ldm t r)
  | 0x0D => guardO (t < 8) (.stm t r)
  | 0x10 => some (.amo .swap t r)
  | 0x11 => some (.amo .add t r)
  | 0x12 => some (.amo .and t r)
  | 0x13 => some (.amo .or t r)
  | 0x14 => guardO (t % 2 == 0) (.amo .cas t r)
  | 0x18 => guardO (r.am == 0 && d ≤ 4) (.seta r.ar d t)
  | 0x19 => guardO (r.am == 0 && d ≤ 4) (.geta t r.ar d)
  | 0x1A => guardO (r.am == 0 && d == 0) (.movea r.ar t)
  | 0x1B => some (.lea t r)
  | 0x1C => guardO (r.am == 0 && d == 0 && t < 16) (.copya r.ar t)
  | _ => none

/-- A control register number of R523. -/
def crOk (n : Nat) : Bool := n ≤ 13 || (decide (16 ≤ n) && decide (n ≤ 24))

/-- A C-slot syllable (R583). Only LOOPI takes an extension. -/
def decC (w : Word) (ext : Option Word) : Option Dx :=
  let d := wD w
  let a := wA w
  let b := wB w
  let off : Int := 4 * (BitVec.ofNat 18 (bits w 17 0)).toInt
  let r3 := fun (x : Option Dx) => if ext.isSome then none else x
  let bare := d == 0 && a == 0 && b == 0
  let imm := match ext with
    | none => d
    | some e => bits e 25 0 * 64 + d
  match wOp w with
  | 0x01 => r3 (some (.br off false))
  | 0x02 => r3 (some (.br off true))
  | 0x03 => r3 (guardO (d == 0 && b == 0) (.jr a false))
  | 0x04 => r3 (guardO (d == 0 && b == 0) (.jr a true))
  | 0x05 => r3 (guardO (d == 0 && b == 0) (.jr a false))
  | 0x08 => r3 (some (.loop (.reg d) (bits w 11 0)))
  | 0x09 => some (.loop (.imm (BitVec.ofNat 64 imm)) (bits w 11 0))
  | 0x0C => r3 (guardO (b == 0) (.get d a))
  | 0x0D => r3 ((low3 b).map fun p => .gett d a p)
  | 0x10 => r3 (guardO (b == 0 && crOk a) (.movcR d a))
  | 0x11 => r3 (guardO (b == 0 && crOk a) (.movcW a d))
  | 0x14 => r3 (guardO bare (.fence .r))
  | 0x15 => r3 (guardO bare (.fence .w))
  | 0x16 => r3 (guardO bare (.fence .rw))
  | 0x17 => r3 (guardO bare (.fence .i))
  | 0x18 => r3 (some (.brk (bits w 17 0)))
  | 0x19 => r3 (some (.trap (bits w 17 0)))
  | 0x1C => r3 (guardO bare .rte)
  | 0x1F => r3 (guardO bare .nop)
  | _ => none

/-- A PFX syllable: REP (R527, R587). -/
def decRep (w : Word) : Option Src :=
  if wOp w ≠ 1 ∨ wG w ≠ 0 ∨ w.getLsbD 16 then none
  else if w.getLsbD 17 then some (.imm (BitVec.ofNat 64 (bits w 15 0)))
  else guardO (bits w 15 6 == 0) (.reg (bits w 5 0))

/-- A syllable of slots 0 to 5. -/
def decSyl (w : Word) (ext : Option Word) : Option Syl :=
  let op := match wSlot w with
    | 0 => decA w ext
    | 1 => decA w ext
    | 2 => if ext.isSome then none else decM w
    | 3 => if ext.isSome then none else decM w
    | 4 => if ext.isSome then none else decX w
    | 5 => decC w ext
    | _ => none
  if wG w = 8 then none
  else op.map fun o => { slot := wSlot w, pred := wG w % 8, neg := wG w ≥ 8, op := o }

/-! ## Bundles (R529, R530) -/

/-- An item of a bundle: a syllable, a prefix, or one that is illegal, with its SLOT value. -/
inductive Part where
  | syl (x : Syl)
  | rep (c : Src)
  | bad (slot : Nat)

/-- A word that stands alone: a prefix, a misplaced extension, or a syllable that no extension follows. -/
def partOf (w : Word) : Part :=
  if wSlot w = 6 then .bad 6
  else if wSlot w = 7 then (match decRep w with | some c => .rep c | none => .bad 7)
  else match decSyl w none with | some x => .syl x | none => .bad (wSlot w)

/-- A syllable and the extension that follows it (R528). -/
def partExt (w e : Word) : Part :=
  if bits e 27 26 ≠ 0 then .bad 6
  else match decSyl w (some e) with | some x => .syl x | none => .bad (wSlot w)

/-- The parts of a bundle's words, each extension joined to the syllable before it (R528). -/
def parts : List Word → List Part
  | [] => []
  | [w] => [partOf w]
  | w :: e :: t => if wSlot e = 6 ∧ wSlot w < 6 then partExt w e :: parts t else partOf w :: parts (e :: t)

/-- The least of some numbers. -/
def least : List Nat → Option Nat
  | [] => none
  | a :: t => some (t.foldl min a)

def badSlots (l : List Part) : List Nat := l.filterMap fun p => match p with | .bad n => some n | _ => none
def sylsOf (l : List Part) : List Syl := l.filterMap fun p => match p with | .syl x => some x | _ => none
def isRep : Part → Bool
  | .rep _ => true
  | _ => false

/-- Numbers that stand twice in a list. -/
def doubles : List Nat → List Nat
  | [] => []
  | a :: t => if t.contains a then a :: doubles t else doubles t

/-- A register as a destination (R533). -/
inductive Dest where
  | g (n : Nat) | m (n : Nat) | a (n : Nat) | p (n : Nat) | cr (n : Nat) | flags
  deriving DecidableEq, Repr

/-- The address register that an addressing mode moves. -/
def MemRef.moved (r : MemRef) : List Dest := if r.am = 0 then [] else [.a r.ar]

/-- What an operation names as destinations (R533, R569, R570, R575, R584). -/
def Dx.dests : Dx → List Dest
  | .alu _ f d _ _ => if f then [.g d, .flags] else [.g d]
  | .un _ d _ => [.g d]
  | .movi d _ => [.g d]
  | .movhi d _ _ => [.g d]
  | .cmp _ p _ _ => [.p p]
  | .plog _ p _ _ => [.p p]
  | .pflag p _ => [.p p]
  | .movpg d => [.g d]
  | .movgp _ => [.p 1, .p 2, .p 3, .p 4, .p 5, .p 6, .p 7]
  | .mul _ d _ _ => [.g d]
  | .acc _ m _ _ => [.m m]
  | .mclr m => [.m m]
  | .movgm m _ => [.m m]
  | .movmg d _ => [.g d]
  | .movmgh d _ => [.g d]
  | .movgmh m _ => [.m m]
  | .msat _ d _ _ => [.g d]
  | .madd m _ _ => [.m m]
  | .dual _ m ax ay px py _ => .m m :: ((if px then [.a ax] else []) ++ (if py then [.a ay] else []))
  | .load _ _ t r => .g t :: r.moved
  | .store _ _ r => r.moved
  | .ldm m r => .m m :: r.moved
  | .stm _ r => r.moved
  | .amo _ t r => .g t :: r.moved
  | .seta r _ _ => [.a r]
  | .geta t _ _ => [.g t]
  | .movea r _ => [.a r]
  | .lea t r => .g t :: r.moved
  | .copya r _ => [.a r]
  | .br _ c => if c then [.g 63] else []
  | .jr _ c => if c then [.g 63] else []
  | .loop _ _ => []
  | .get d _ => [.g d]
  | .gett d _ p => [.g d, .p p]
  | .movcR g _ => [.g g]
  | .movcW cr _ => [if cr = 1 then .flags else .cr cr]
  | .fence _ => []
  | .brk _ => []
  | .trap _ => []
  | .rte => []
  | .nop => []

/-- Two syllables write the same register (R533). -/
def conflict (x y : Syl) : Bool :=
  x.op.dests.any y.op.dests.contains && !(x.pred == y.pred && x.neg != y.neg)

/-- SLOT values of the syllables that conflict with another. -/
def conflicts : List Syl → List Nat
  | [] => []
  | x :: t => (t.filter (conflict x)).flatMap (fun y => [x.slot, y.slot]) ++ conflicts t

/-- A house-only syllable (R588). -/
def Dx.houseOnly : Dx → Bool
  | .fence .i => true
  | .rte => true
  | _ => false

/-- Checks 3 to 7 of R530 on the words of a bundle: the bundle, or the code and SLOT of the first failing check. -/
def checkBundle (guest : Bool) (ws : List Word) : Except (Nat × Nat) Bundle :=
  let ps := parts ws
  let syls := sylsOf ps
  let reps := ps.filterMap fun p => match p with | .rep c => some c | _ => none
  let misplaced := (ps.drop 1).any isRep
  match least (badSlots ps) with
  | some n => .error (1, n)
  | none => match least (doubles (syls.map (·.slot)) ++ (if misplaced then [7] else [])) with
    | some n => .error (2, n)
    | none => match least (conflicts syls) with
      | some n => .error (3, n)
      | none =>
        if !reps.isEmpty && syls.any Syl.isC then .error (5, 5)
        else if guest && syls.any (·.op.houseOnly) then .error (4, 5)
        else .ok { words := ws.length, rep := reps.head?, syls := syls }

/-- The words of the bundle that begins a list of fetched words, through the first with S = 1, at most 8. The words stop where
instruction memory does; the flag says that the stop was found. -/
def bundleWords : Nat → List Word → List Word × Bool
  | 0, _ => ([], false)
  | _ + 1, [] => ([], false)
  | n + 1, w :: t => if wS w then ([w], true) else ((w :: (bundleWords n t).1), (bundleWords n t).2)

/-- Decode the bundle at the head of the words that instruction memory holds from the PC on, at most 8 (R530). -/
def decodeBundle (guest : Bool) (ws : List Word) : Except (Nat × Nat) Bundle :=
  match bundleWords 8 ws with
  | (l, true) => checkBundle guest l
  | (_, false) => if ws.length < 8 then .error (7, 7) else .error (1, 7)

end Sys2Proof.Machine
end

