-- ==== Sys2Proof/Machine/DexExec.lean ====
section
/-!
DEFINITION. The execution of a Dexar bundle: results of every operation, exceptions and their order, loops, REP, GET, and
exception entry (R521 to R524, R531 to R562, R567 to R590).
-/
namespace Sys2Proof.Machine

/-! ## Results of the A slots (R570, R571) -/

/-- Leading zero bits, of `n` bits. -/
def clzN : Nat → W64 → Nat
  | 0, _ => 0
  | n + 1, v => if v.getLsbD n then 0 else 1 + clzN n v

/-- 1 bits among the low `n`. -/
def popN : Nat → W64 → Nat
  | 0, _ => 0
  | n + 1, v => b2n (v.getLsbD n) + popN n v

/-- An ALU operation: the result, and the flags that its flag-setting form writes. `c` is the incoming C. -/
def aluRes (op : AluOp) (a b : W64) (c : Bool) : W64 × BitVec 4 :=
  let sh := b.toNat % 64
  let lg := fun (r : W64) => (r, logicFlags r)
  match op with
  | .add => addFlags a b 0
  | .sub => subFlags a b 0
  | .adc => addFlags a b (b2n c)
  | .sbc => subFlags a b (1 - b2n c)
  | .and => lg (a &&& b)
  | .or => lg (a ||| b)
  | .xor => lg (a ^^^ b)
  | .andn => lg (a &&& ~~~b)
  | .shl => lg (a <<< sh)
  | .shr => lg (a >>> sh)
  | .sar => lg (a.sshiftRight sh)
  | .ror => lg (a.rotateRight sh)
  | .min => lg (if a.toInt ≤ b.toInt then a else b)
  | .max => lg (if a.toInt ≥ b.toInt then a else b)
  | .minu => lg (if a.toNat ≤ b.toNat then a else b)
  | .maxu => lg (if a.toNat ≥ b.toNat then a else b)

def unRes (op : UnOp) (a : W64) : W64 := match op with
  | .sext w => sx w a
  | .zext w => zx w a
  | .clz => BitVec.ofNat 64 (clzN 64 a)
  | .popc => BitVec.ofNat 64 (popN 64 a)
  | .bswap => BitVec.ofNat 64 (unle (le 8 a.toNat).reverse)
  | .mov => a

def cmpRes (op : CmpOp) (a b : W64) : Bool := match op with
  | .eq => a == b
  | .ne => a != b
  | .lt => decide (a.toInt < b.toInt)
  | .le => decide (a.toInt ≤ b.toInt)
  | .ltu => decide (a.toNat < b.toNat)
  | .leu => decide (a.toNat ≤ b.toNat)
  | .tst => a &&& b != 0

def plogRes (op : PLog) (a b : Bool) : Bool := match op with
  | .and => a && b
  | .or => a || b
  | .xor => a != b
  | .andn => a && !b

/-! ## Results of the M slots (R573 to R576) -/

/-- Multiply and divide. Division by zero gives what R535 gives where it does not trap. -/
def mulRes (op : MulOp) (a b : W64) : W64 := match op with
  | .mul => a * b
  | .mulh => BitVec.ofInt 64 (a.toInt * b.toInt / 2 ^ 64)
  | .mulhu => BitVec.ofNat 64 (a.toNat * b.toNat / 2 ^ 64)
  | .mulhsu => BitVec.ofInt 64 (a.toInt * (b.toNat : Int) / 2 ^ 64)
  | .div => if b = 0 then BitVec.allOnes 64 else BitVec.ofInt 64 (a.toInt.tdiv b.toInt)
  | .divu => if b = 0 then BitVec.allOnes 64 else BitVec.ofNat 64 (a.toNat / b.toNat)
  | .rem => if b = 0 then a else BitVec.ofInt 64 (a.toInt.tmod b.toInt)
  | .remu => if b = 0 then a else BitVec.ofNat 64 (a.toNat % b.toNat)

def MulOp.divides : MulOp → Bool
  | .div => true
  | .divu => true
  | .rem => true
  | .remu => true
  | _ => false

/-- An exact accumulator result, wrapped to 80 bits; the flag says that it did not fit (R521). -/
def acc80 (x : Int) : BitVec 80 × Bool :=
  let r := BitVec.ofInt 80 x
  (r, r.toInt != x)

/-- The exact result of a multiply-accumulate. -/
def accRes (op : AccOp) (m : BitVec 80) (a b : W64) : Int :=
  let p := (sx 32 a).toInt * (sx 32 b).toInt
  let u : Int := (zx 32 a).toNat * (zx 32 b).toNat
  match op with
  | .mac => m.toInt + p
  | .macu => m.toInt + u
  | .msu => m.toInt - p
  | .msuu => m.toInt - u
  | .mula => p

/-- Lane `i` of `w` bits, signed and unsigned. -/
def laneS (w i : Nat) (v : W64) : Int := ((v >>> (w * i)).setWidth w).toInt
def laneU (w i : Nat) (v : W64) : Int := ((v >>> (w * i)).setWidth w).toNat

/-- s of R576. -/
def dualSum (sub : Nat) (x y : W64) : Int :=
  let sum := fun (n : Nat) (f : Nat → Int) => (List.range n).foldl (fun t i => t + f i) 0
  match sub with
  | 0 => sum 2 fun i => laneS 32 i x * laneS 32 i y
  | 1 => sum 4 fun i => laneS 16 i x * laneS 16 i y
  | 2 => sum 8 fun i => laneU 8 i x * laneS 8 i y
  | _ => sum 8 fun i => (laneU 8 i x - laneU 8 i y).natAbs

/-- The exact result of a dual-fetch operation. -/
def dualRes (op : DualOp) (m : BitVec 80) (s : Int) : Int := match op with
  | .dmac => m.toInt + s
  | .dmsu => m.toInt - s
  | .dmul => s

/-- MSAT and MSATR: the saturated value, and whether it saturated (R573). -/
def msatRes (round : Bool) (m : BitVec 80) (n : Nat) : W64 × Bool :=
  let v := (m.toInt + (if round && n != 0 then 2 ^ (n - 1) else 0)) / 2 ^ n
  if v > 2 ^ 63 - 1 then (BitVec.ofInt 64 (2 ^ 63 - 1), true)
  else if v < -(2 ^ 63) then (BitVec.ofInt 64 (-(2 ^ 63)), true)
  else (BitVec.ofInt 64 v, false)

/-- The word that an atomic writes: `t` is gT and `u` is g(T+1) (R578). -/
def amoRes (op : AmoOp) (old t u : W64) : Option W64 := match op with
  | .swap => some t
  | .add => some (old + t)
  | .and => some (old &&& t)
  | .or => some (old ||| t)
  | .cas => if old = t then some u else none

/-! ## Control registers (R523, R524) -/

/-- Loop register `n − 16`: its level, and which of LB, LE and LC. -/
def loopReg (c : DCore) (n : Nat) : BitVec 32 :=
  let k := (n - 16) / 3
  match (n - 16) % 3 with
  | 0 => tgetD 0 k c.lb
  | 1 => tgetD 0 k c.le
  | _ => tgetD 0 k c.lc

/-- PSTATE with HOUSE, which follows from the role. -/
def pstateOf (house : Bool) (c : DCore) : BitVec 32 := setBits c.pstate 0 0 (b2n house)

/-- The value of a control register on core `k`, zero-extended. COREID's Segment bits read 0 on the Rind core (log 37). -/
def crRead (k : Nat) (house : Bool) (c : DCore) (n : Nat) : W64 := match n with
  | 0 => (pstateOf house c).setWidth 64
  | 1 => c.flags.setWidth 64
  | 2 => c.epc.setWidth 64
  | 3 => c.epstate.setWidth 64
  | 4 => c.ecause.setWidth 64
  | 5 => c.eaddr
  | 6 => c.evec.setWidth 64
  | 7 => c.repc.setWidth 64
  | 8 => c.mstat.setWidth 64
  | 9 => BitVec.ofNat 64 (k + k / 4 % 4 * 32 + b2n house * 128)
  | 10 => c.cycle.setWidth 64
  | 11 => c.retired.setWidth 64
  | 12 => c.scratch0
  | 13 => c.scratch1
  | _ => (loopReg c n).setWidth 64

/-- Write a control register: RO registers, and reserved and RO fields, keep their values (R523, R524, R586). -/
def crWrite (n : Nat) (v : W64) (c : DCore) : DCore :=
  let v32 := v.setWidth 32
  let lv := (n - 16) / 3
  match n with
  | 0 => c.setPs 15 11 (bits v32 15 11)
  | 1 => { c with flags := v.setWidth 4 }
  | 2 => { c with epc := v32 }
  | 3 => { c with epstate := v32 &&& 0xFC01#32 }
  | 4 => { c with ecause := v.setWidth 11 }
  | 5 => { c with eaddr := v }
  | 6 => { c with evec := v32 &&& 0xFFFFF000#32 }
  | 7 => { c with repc := v32 }
  | 8 => { c with mstat := v.setWidth 16 }
  | 12 => { c with scratch0 := v }
  | 13 => { c with scratch1 := v }
  | n => if n < 16 then c
    else match (n - 16) % 3 with
      | 0 => { c with lb := tset 0 lv v32 c.lb }
      | 1 => { c with le := tset 0 lv v32 c.le }
      | _ => { c with lc := tset 0 lv v32 c.lc }

/-- A guest core may read the register; may write it (R523). -/
def guestReads (n : Nat) : Bool := n != 6 && n != 12 && n != 13
def guestWrites (n : Nat) : Bool := n == 1 || n == 8 || decide (16 ≤ n)

/-! ## Exceptions of a bundle (R555 to R557) -/

/-- An exception: its code, SLOT, and EADDR where the manual gives one. -/
structure Exc where
  code : Nat
  slot : Nat
  eaddr : Option Nat

/-- Rank of a synchronous code in the order of R557. -/
def excRank (c : Nat) : Nat := ([0x0E, 7, 1, 2, 3, 5, 6, 4, 8, 9, 0xA, 0xB, 0xC, 0xD, 0xF].findIdx? (· == c)).getD 15

/-- The exception that is raised: first by code, then by SLOT (R557). -/
def firstExc (l : List Exc) : Option Exc :=
  l.foldl (fun b e => match b with
    | none => some e
    | some x => if excRank e.code < excRank x.code ∨ (excRank e.code = excRank x.code ∧ e.slot < x.slot) then some e else b) none

/-- The parts of memory that an operation accesses on its core: kind, effective address and size. -/
def Dx.accesses (c : DCore) : Dx → List (Kind × Nat × Nat)
  | .load n _ _ r => [(.load, (r.ea c n).1, n)]
  | .store n _ r => [(.store, (r.ea c n).1, n)]
  | .ldm _ r => [(.load, (r.ea c 16).1, 8), (.load, (r.ea c 16).1 + 8, 2)]
  | .stm _ r => [(.store, (r.ea c 16).1, 8), (.store, (r.ea c 16).1 + 8, 2)]
  | .amo _ _ r => [(.amo, (r.ea c 8).1, 8)]
  | _ => []

/-- The bank of a core holds the 8 bytes at `a` (R556). -/
def inXBank (k a : Nat) : Bool := inside a 8 0x100000 (if k = rindCore then 0x20000 else 0x40000)
def inYBank (k a : Nat) : Bool := inside a 8 0x140000 (if k = rindCore then 0x20000 else 0x40000)

/-- Exceptions of one access: misaligned, access fault, bus error, poison (R517, R541, R555). `flagged` is an access that an
injection for DT09 flags. -/
def accessExc (s : State) (k slot : Nat) (way : Issue) (flagged : Bool) (x : Kind × Nat × Nat) : List Exc :=
  let e := fun (code : Nat) => [({ code := code, slot := slot, eaddr := some x.2.1 } : Exc)]
  let map := decide (x.2.1 ≥ 0x1000000)
  (if x.2.1 % x.2.2 ≠ 0 then e 8 else [])
    ++ (if flagged ∨ (target s k x.1 x.2.1 x.2.2).isNone then e 9 else [])
    ++ (if way.busErr.contains slot ∧ map then e 0xB else [])
    ++ (if way.poison.contains slot ∧ x.1 ≠ .store then e 0xA else [])

/-- LB, LE and LC of a level. -/
def lbOf (c : DCore) (n : Nat) : Nat := (tgetD 0 n c.lb).toNat
def leOf (c : DCore) (n : Nat) : Nat := (tgetD 0 n c.le).toNat
def lcOf (c : DCore) (n : Nat) : Nat := (tgetD 0 n c.lc).toNat

/-- A LOOP at `pc` that ends at `stop` may not open (R542, R545). -/
def loopBad (c : DCore) (pc stop : Nat) : Bool :=
  stop == 0 || c.ldepth == 3 || (c.ldepth != 0 && decide (pc + 4 * stop > leOf c (c.ldepth - 1)))
    || (List.range c.ldepth).any fun n => pc == leOf c n

/-- Exceptions of a syllable whose guard is true, beside those of R530. -/
def sylExc (s : State) (k : Nat) (c : DCore) (way : Issue) (flagged : Bool) (x : Syl) : List Exc :=
  let house := isHouse s k
  let one := fun (code : Nat) (a : Option Nat) => [({ code := code, slot := x.slot, eaddr := a } : Exc)]
  match x.op with
  | .dual _ _ ax ay _ _ _ =>
    let px := (c.areg ax).ptr.toNat
    let py := (c.areg ay).ptr.toNat
    (if px % 8 ≠ 0 then one 8 (some px) else if py % 8 ≠ 0 then one 8 (some py) else [])
      ++ (if flagged ∨ !inXBank k px then one 9 (some px) else if !inYBank k py then one 9 (some py) else [])
      ++ (if way.poison.contains x.slot then one 0xA (some px) else [])
  | .mul op _ _ b => if op.divides ∧ c.greg b = 0 ∧ flagOf s Reg.dxrCfg 0 then one 0xC none else []
  | .loop _ stop => if loopBad c c.pc.toNat stop then one 6 none else []
  | .movcR _ n => if !house ∧ !guestReads n then one 4 (some c.pc.toNat) else []
  | .movcW n _ => if !house ∧ !guestWrites n then one 4 (some c.pc.toNat) else []
  | .brk v => one 0xD (some v)
  | .trap v => one 0xF (some v)
  | op => (op.accesses c).flatMap (accessExc s k x.slot way flagged)

/-- The guard of a syllable is true (R525, R532). -/
def Syl.acts (c : DCore) (x : Syl) : Bool := c.preg x.pred != x.neg

/-- The operation accesses data memory. -/
def Dx.touches : Dx → Bool
  | .dual .. => true
  | .load .. => true
  | .store .. => true
  | .ldm .. => true
  | .stm .. => true
  | .amo .. => true
  | _ => false

/-! ## What a bundle reads from memory (R531) -/

/-- A read of `n` bytes, 0 where nothing is reached. -/
def readEA (s : State) (k : Nat) (kd : Kind) (a n : Nat) : Nat := match target s k kd a n with
  | some x => loadAt s k x n
  | none => 0

/-- What a syllable's memory operands read, by SLOT doubled and part. -/
def sylReads (s : State) (k : Nat) (c : DCore) (x : Syl) : List (Nat × Nat) := match x.op with
  | .load n _ _ r => [(2 * x.slot, readEA s k .load (r.ea c n).1 n)]
  | .ldm _ r => [(2 * x.slot, readEA s k .load (r.ea c 16).1 8), (2 * x.slot + 1, readEA s k .load ((r.ea c 16).1 + 8) 2)]
  | .amo _ _ r => [(2 * x.slot, readEA s k .amo (r.ea c 8).1 8)]
  | .dual _ _ ax ay _ _ _ =>
    [(2 * x.slot, readEA s k .load (c.areg ax).ptr.toNat 8), (2 * x.slot + 1, readEA s k .load (c.areg ay).ptr.toNat 8)]
  | _ => []

/-- What a bundle's acting syllables read. -/
def bundleReads (s : State) (k : Nat) (c : DCore) (l : List Syl) : Tab Nat :=
  (l.flatMap (sylReads s k c)).foldl (fun m p => tset 0 p.1 p.2 m) []

/-! ## Writing registers -/

/-- Apply the move of an addressing mode. -/
def applyMove (c : DCore) (r : MemRef) (size : Nat) (n : DCore) : DCore := match (r.ea c size).2 with
  | some p => n.setPtr r.ar p
  | none => n

/-- Registers that a syllable writes: `c` holds the operands, `m` what memory gave, `n` takes the writes. -/
def sylWrite (k : Nat) (house : Bool) (c : DCore) (m : Tab Nat) (x : Syl) (n : DCore) : DCore :=
  let w0 := BitVec.ofNat 64 (tgetD 0 (2 * x.slot) m)
  let w1 := tgetD 0 (2 * x.slot + 1) m
  match x.op with
  | .alu op f d a b =>
    let (r, fl) := aluRes op (c.greg a) (b.get c) (flagC c.flags)
    let n := n.setG d r
    if f then { n with flags := fl } else n
  | .un op d a => n.setG d (unRes op (c.greg a))
  | .movi d v => n.setG d v
  | .movhi d a v => n.setG d (zx 32 (c.greg a) ||| (v <<< 32))
  | .cmp op p a b => n.setP p (cmpRes op (c.greg a) (b.get c))
  | .plog op p a b => n.setP p (plogRes op (c.preg a) (c.preg b))
  | .pflag p k => n.setP p (condOf c.flags k)
  | .movpg d => n.setG d (BitVec.ofNat 64 (flags ((List.range 8).map c.preg)))
  | .movgp a => [1, 2, 3, 4, 5, 6, 7].foldl (fun n i => n.setP i ((c.greg a).getLsbD i)) n
  | .mul op d a b => n.setG d (mulRes op (c.greg a) (c.greg b))
  | .acc op i a b => n.setM i (acc80 (accRes op (c.mreg i) (c.greg a) (c.greg b))).1
  | .mclr i => n.setM i 0
  | .movgm i a => n.setM i ((c.greg a).signExtend 80)
  | .movmg d i => n.setG d ((c.mreg i).setWidth 64)
  | .movmgh d i => n.setG d ((c.mreg i >>> 64).setWidth 64)
  | .movgmh i a => n.setM i (((c.mreg i).setWidth 64).setWidth 80 ||| (((c.greg a).setWidth 16).setWidth 80 <<< 64))
  | .msat rd d i sh => n.setG d (msatRes rd (c.mreg i) sh).1
  | .madd i a b => n.setM i (acc80 ((c.mreg a).toInt + (c.mreg b).toInt)).1
  | .dual op i ax ay px py sub =>
    let n := n.setM i (acc80 (dualRes op (c.mreg i) (dualSum sub w0 (BitVec.ofNat 64 w1)))).1
    let n := if px then n.setPtr ax ((c.areg ax).move (c.areg ax).stepI) else n
    if py then n.setPtr ay ((c.areg ay).move (c.areg ay).stepI) else n
  | .load size sg t r => (applyMove c r size n).setG t (if sg then sx (8 * size) w0 else w0)
  | .store size _ r => applyMove c r size n
  | .ldm i r => (applyMove c r 16 n).setM i (BitVec.ofNat 80 (w0.toNat + w1 * 2 ^ 64))
  | .stm _ r => applyMove c r 16 n
  | .amo _ t r => (applyMove c r 8 n).setG t w0
  | .seta r f t => n.setA r ((c.areg r).setField f (c.greg t))
  | .geta t r f => n.setG t ((c.areg r).field f)
  | .movea r t => n.setPtr r ((c.areg r).move (c.greg t).toInt)
  | .lea t r => (applyMove c r 1 n).setG t (BitVec.ofNat 64 (r.ea c 1).1)
  | .copya r q => n.setA r (c.areg q)
  | .movcR g cr => n.setG g (crRead k house c cr)
  | .movcW cr g => crWrite cr (c.greg g) n
  | _ => n

/-- Bits of MSTAT that a syllable sets: OV in 7:0, SAT in 15:8 (R521, R575). -/
def sylMstat (c : DCore) (m : Tab Nat) (x : Syl) : BitVec 16 :=
  let ov := fun (i : Nat) (b : Bool) => if b then (1#16 <<< i) else 0
  match x.op with
  | .acc op i a b => ov i (acc80 (accRes op (c.mreg i) (c.greg a) (c.greg b))).2
  | .madd i a b => ov i (acc80 ((c.mreg a).toInt + (c.mreg b).toInt)).2
  | .dual op i _ _ _ _ sub =>
    ov i (acc80 (dualRes op (c.mreg i) (dualSum sub (BitVec.ofNat 64 (tgetD 0 (2 * x.slot) m))
      (BitVec.ofNat 64 (tgetD 0 (2 * x.slot + 1) m))))).2
  | .msat rd _ i sh => ov (i + 8) (msatRes rd (c.mreg i) sh).2
  | _ => 0

/-- The registers after the acting syllables `l` have written them, control transfers aside (R531, R575). -/
def writeAll (k : Nat) (house : Bool) (c : DCore) (m : Tab Nat) (l : List Syl) : DCore :=
  let n := l.foldl (fun n x => sylWrite k house c m x n) c
  { n with mstat := l.foldl (fun b x => b ||| sylMstat c m x) n.mstat }

/-! ## Stores -/

/-- The stores of a syllable: effective address and bytes. -/
def sylStores (c : DCore) (m : Tab Nat) (x : Syl) : List (Kind × Nat × List Byte) := match x.op with
  | .store n t r => [(.store, (r.ea c n).1, le n (c.greg t).toNat)]
  | .stm i r =>
    [(.store, (r.ea c 16).1, le 8 ((c.mreg i).toNat % 2 ^ 64)), (.store, (r.ea c 16).1 + 8, le 2 ((c.mreg i).toNat / 2 ^ 64))]
  | .amo op t r => match amoRes op (BitVec.ofNat 64 (tgetD 0 (2 * x.slot) m)) (c.greg t) (c.greg (t + 1)) with
    | some v => [(.amo, (r.ea c 8).1, le 8 v.toNat)]
    | none => []
  | _ => []

/-- Make the stores of a bundle. -/
def doStores (k : Nat) (l : List (Kind × Nat × List Byte)) (s : State) : State :=
  l.foldl (fun s x => match target s k x.1 x.2.1 x.2.2.length with
    | some y => storeAt k y x.2.2 s
    | none => s) s

/-! ## Fetching (R516, R530, R537) -/

/-- The memory and base address of core `k`'s instruction memory. -/
def imemOf (k : Nat) : Nat × Nat := if k = rindCore then (4, 0) else (k / 4, iAlias (k % 4))

/-- A syllable as fetched: where a store to it still waits for FENCE.I, its old or its new contents, which a free value
chooses (R537). `i` numbers the syllable. -/
def fetchWord (s : State) (key a i : Nat) : Word :=
  let new := readMem s key a 4
  let touched := s.dxr.stale.filter fun x => x.mem == key && inside x.addr 1 a 4
  let old := touched.foldl (fun l x => patch l (x.addr - a) [x.old]) new
  BitVec.ofNat 32 (unle (if !touched.isEmpty && Config.free (s.draws + i) % 2 == 1 then old else new))

/-- The words of instruction memory from a PC on, at most `n`. -/
def fetchFromPc (s : State) (k pc : Nat) : Nat → List Word
  | 0 => []
  | n + 1 => if pc + 4 ≤ 0x40000 then fetchWord s (imemOf k).1 ((imemOf k).2 + pc) (8 - n) :: fetchFromPc s k (pc + 4) n else []

/-- Draw past the free values of a fetch, where it used any. -/
def afterFetch (s : State) : State := if s.dxr.stale.isEmpty then s else { s with draws := s.draws + 9 }

/-- The address after the bundle that starts at `a`; a free value where no stop is found there (log 38). -/
def afterBundle (s : State) (k a : Nat) : Nat := match bundleWords 8 (fetchFromPc s k a 8) with
  | (l, true) => a + 4 * l.length
  | _ => freeVal s % 2 ^ 30 * 4

/-! ## Control (R534, R542 to R545, R583, R584) -/

/-- Set a level of the loop registers, and open it. -/
def openLoop (lb le cnt : Nat) (c : DCore) : DCore :=
  let n := c.ldepth
  { c with lb := tset 0 n (BitVec.ofNat 32 lb) c.lb, le := tset 0 n (BitVec.ofNat 32 le) c.le,
           lc := tset 0 n (BitVec.ofNat 32 cnt) c.lc }.setPs 14 13 (n + 1)

/-- End the levels that a transfer to `pc` leaves (R544); three at most. -/
def leaveLoops (pc : Nat) : Nat → DCore → DCore
  | 0, c => c
  | n + 1, c =>
    if c.ldepth ≠ 0 ∧ (pc < lbOf c (c.ldepth - 1) ∨ pc > leOf c (c.ldepth - 1)) then leaveLoops pc n (c.setPs 14 13 (c.ldepth - 1)) else c

/-- The check of R543 at the end of the bundle at `at_`. -/
def loopCheck (at_ : Nat) : Nat → DCore → DCore
  | 0, c => c
  | n + 1, c =>
    if c.ldepth = 0 then c
    else
      let k := c.ldepth - 1
      if at_ ≠ leOf c k then c
      else if lcOf c k > 1 then { c with lc := tset 0 k (BitVec.ofNat 32 (lcOf c k - 1)) c.lc, pc := tgetD 0 k c.lb &&& 0xFFFFFFFC#32 }
      else loopCheck at_ n (c.setPs 14 13 k)

/-- The target of a taken branch, call or return. -/
def branchOf (c : DCore) (x : Syl) : Option Nat := match x.op with
  | .br off _ => some (BitVec.ofInt 32 (c.pc.toNat + off)).toNat
  | .jr a _ => some (bits ((c.greg a).setWidth 32) 31 2 * 4)
  | _ => none

/-- The C-slot syllable's effect on control, after the bundle's registers are written; `c` holds the operands and `next` the
address of the next bundle. -/
def control (s : State) (k : Nat) (house : Bool) (c : DCore) (next : Nat) (cs : Option Syl) (n : DCore) : DCore :=
  let seq := fun (n : DCore) => loopCheck c.pc.toNat 3 { n with pc := BitVec.ofNat 32 next }
  match cs with
  | none => seq n
  | some x => match x.op with
    | .br off call => match branchOf c x with
      | some p => leaveLoops p 3 { (if call then n.setG 63 (BitVec.ofNat 64 next) else n) with pc := BitVec.ofInt 32 (c.pc.toNat + off) }
      | none => n
    | .jr _ call => match branchOf c x with
      | some p => leaveLoops p 3 { (if call then n.setG 63 (BitVec.ofNat 64 next) else n) with pc := BitVec.ofNat 32 p }
      | none => n
    | .loop cnt stop =>
      let m := ((cnt.get c).setWidth 32).toNat
      let le := c.pc.toNat + 4 * stop
      if m = 0 then { n with pc := BitVec.ofNat 32 (afterBundle s k le) } else seq (openLoop next le m n)
    | .rte => { n with pstate := setBits c.epstate 0 0 (b2n house), pc := c.epc &&& 0xFFFFFFFC#32 }
    | _ => seq n

/-! ## Exception entry (R558 to R562) -/

/-- Add to a 48-bit counter of a core; its wrap posts a Detector notice of NKIND 2, whose WHERE the manual leaves open for a
counter that is no BAR2 register (R416, R524; log 39). -/
def wrapNotice (k old new : Nat) (s : State) : State :=
  if new < old then draw (post 0 0x09 0xFFFF (pack [(1, 0xFF), (1, 2), (1, if k = rindCore then 0xFF else k / 4), (1, 0), (2, 1), (2, 0xFFFF), (8, freeVal s)]) s) else s

/-- Count cycles of core `k` (R523). -/
def addCycles (k n : Nat) (s : State) : State :=
  let c := coreOf s k
  let v := c.cycle + BitVec.ofNat 48 n
  wrapNotice k c.cycle.toNat v.toNat (onCore k (fun c => { c with cycle := v, issuedAt := s.now }) s)

/-- Count a completed bundle or pass. -/
def addRetired (k n : Nat) (s : State) : State :=
  let c := coreOf s k
  let v := c.retired + BitVec.ofNat 48 n
  wrapNotice k c.retired.toNat v.toNat (onCore k (fun c => { c with retired := v }) s)

/-- The exception counter of a core (R566). -/
def excCtr (k : Nat) : Nat := if k = rindCore then Reg.dxrRindExcLo else Reg.dxrExcLo k

/-- Core `k` takes an exception: the saved registers are written, and a house core goes to its vector (R559), while a guest core
is handed to the Dispatcher, which ends its run (R562, R622). A waiting GET ends without an item (R554). -/
def takeExc (k : Nat) (e : Exc) (epc : Nat) (ef : Nat) (s : State) : State :=
  let house := isHouse s k
  let sync := decide (e.code < 0x10)
  let c := coreOf s k
  if house ∧ sync ∧ c.exl then onCore k (fun c => { c with st := .stopped }) s
  else
    let addr := match e.eaddr with | some a => a | none => freeVal s
    let s := if e.eaddr.isNone then draw s else s
    let s := bump (excCtr k) 1 s
    let s := onCore k (fun c =>
      { c with epstate := pstateOf house c, epc := BitVec.ofNat 32 epc, ecause := BitVec.ofNat 11 (e.slot * 256 + e.code),
               eaddr := BitVec.ofNat 64 addr, lastExc := e.code, get := none, getWords := [], getReads := [],
               st := if c.st = .waiting then .running else c.st }) s
    if house then
      onCore k (fun c => { ((((c.setPs 12 12 1).setPs 11 11 0).setPs 14 13 0).setPs 15 15 0) with
                           pc := BitVec.ofNat 32 (c.evec.toNat + 0x40 * e.code) }) s
    else match c.run with
      | some r =>
        let st := if e.code = 0x10 then 0x0604 else if e.code = 9 then 0x0605 else 0x0603
        endRun r st 0 e.code epc (addr % 2 ^ 32) ef s
      | none => onCore k (fun c => { c with st := .held }) s

/-- Core `k` meets a word of SRAM, in the array and row `p` of its part, that is corrected or uncorrectable (R405, R410). -/
def coreSram (k : Nat) (p : Nat × Nat) (dbl : Bool) (s : State) : State :=
  scrubFinding s { arr := min (k / 4) 4 * 128 + p.1 % 128, row := p.2, dbl := dbl }

/-- Detectors that go with a core's exception: DT51 or DT53 for a poisoned word, by where it lies (R405, R407 to R410); DT09 for an
access of a house core that an injection flags. A guest core's DT09 is raised as its run ends. -/
def excDetectors (k : Nat) (way : Issue) (e : Exc) (ef : Nat) (s : State) : State :=
  let a := e.eaddr.getD 0
  let site : Site := { seg := if k = rindCore then 0xFF else k / 4, loc := a }
  if e.code = 0xA then
    (if a ≥ dramBase ∧ a < viewBase then dramFindings (k / 4) [{ page := (a - dramBase) / 4096 * 4096, corr := 0, bad := true, stone := way.stone }] s
    else coreSram k way.word true s)
  else if e.code = 9 ∧ isHouse s k ∧ ef ≠ 0 then raiseF 9 { site with unit := k } ef s
  else s

/-! ## GET and GETT (R552, R553, R601, R608) -/

/-- The selector of a GET: its mask; reserved bits that are 1 set `DSP_STATUS.RSVD_WR` (R608). -/
def selMask (sel : Nat) (s : State) : State := if sel / 256 % 2 ^ 24 ≠ 0 then setRsvd Reg.dspStatus s else s

/-- GETT: the item in service ends, and one that is ready is delivered (R553, R601). -/
def doGett (k d a p : Nat) (c : DCore) (s : State) : State :=
  let sel := (c.greg a).toNat
  let s := endService k (selMask sel s)
  match (if k = rindCore then none else findItem s k (sel % 256)) with
  | some (key, i) =>
    let (tok, s) := deliver k key i s
    onCore k (fun c => (c.setG d (BitVec.ofNat 64 tok)).setP p true) s
  | none => onCore k (fun c => c.setP p false) s

/-! ## A bundle and a pass -/

/-- The C-slot syllable of the acting ones. -/
def cOf (l : List Syl) : Option Syl := l.find? Syl.isC

/-- The effects of a bundle's acting syllables, with what memory gave them: registers, then stores, then what the C slot asks of
others (R531). `next` is the next bundle's address. -/
def commit (k : Nat) (c : DCore) (m : Tab Nat) (l : List Syl) (next : Nat) (s : State) : State :=
  let house := isHouse s k
  let n := control s k house c next (cOf l) (writeAll k house c m l)
  let s := doStores k (l.flatMap (sylStores c m)) (onCore k (fun _ => n) s)
  match (cOf l).map Syl.op with
  | some (Dx.fence FenceOp.i) => onDxr (fun d => { d with stale := d.stale.filter fun x => x.core != k }) s
  | some (Dx.gett d a p) => doGett k d a p c s
  | _ => s

/-- The exceptions of the acting syllables. -/
def actExcs (s : State) (k : Nat) (c : DCore) (way : Issue) (flagged : Bool) (l : List Syl) : List Exc :=
  l.flatMap (sylExc s k c way flagged)

/-- An access that an injection for DT09 flags; in a bypass window it goes on (R428, R429). -/
def flagAccess (k : Nat) (l : List Syl) (s : State) : Bool × Nat × State :=
  if l.any (·.op.touches) then
    let r := meet 9 (if k = rindCore then 0xFF else k / 4) k false s
    if r.1 && bypassed r.2.2 9 then (false, 0, raiseF 9 { seg := if k = rindCore then 0xFF else k / 4, unit := k } r.2.1 r.2.2) else r
  else (false, 0, s)

/-- Complete a bundle at its C slot's wish: BRK and TRAP raise their exception after it (R558, R585). -/
def finish (k : Nat) (e : Option Exc) (s : State) : State := match e with
  | some e => takeExc k e (coreOf s k).pc.toNat 0 s
  | none => s

/-- Registers of a loop end after a REP bundle: the next bundle, and the check of R543 (R546, R550). -/
def endRep (k words : Nat) (s : State) : State :=
  addRetired k 1 (onCore k (fun c =>
    loopCheck c.pc.toNat 3 { c.setPs 15 15 0 with pc := BitVec.ofNat 32 (c.pc.toNat + 4 * words) }) s)

/-- A breakpoint of the core matches the bundle at `pc` (R752). -/
def bpHits (c : DCore) : Bool := (List.range 4).any fun b =>
  let w := tgetD 0 b c.bps
  nbit w 0 && w / 4 * 4 == c.pc.toNat

/-- What the bundle at the PC decodes to, or its exception: 0x0E first, then the checks of R530 (R557). -/
def decodeAt (s : State) (k : Nat) (way : Issue) : Except Exc Bundle :=
  let c := coreOf s k
  if c.sstep ∨ bpHits c then .error { code := 0xE, slot := 7, eaddr := none }
  else if way.fetchPoison then .error { code := 7, slot := 7, eaddr := some c.pc.toNat }
  else match decodeBundle (!isHouse s k) (fetchFromPc s k c.pc.toNat 8) with
    | .ok b => .ok b
    | .error (code, slot) => .error { code := code, slot := slot, eaddr := some c.pc.toNat }

/-- Core `k` may issue: powered, in service, running, with a run if it is a guest core, and no Dispatcher hand-over of its own
still to be taken (R520, R606; log 40). -/
def mayIssue (s : State) (k : Nat) : Bool :=
  let c := coreOf s k
  corePowered s k && c.st == .running && (isHouse s k || (c.run.isSome && !rescue s))
    && !s.dxr.hands.any fun h => h.core == k && (match h with | .post .. => true | .done .. => true | .exit .. => true | _ => false)

/-- Execute the syllables of a bundle or of a pass that does not transfer control to a GET, or take the first exception. The
flag says that it completed. -/
def execSyls (k : Nat) (way : Issue) (b : Bundle) (next : Nat) (s : State) : Bool × State :=
  let c := coreOf s k
  let acts := b.syls.filter (·.acts c)
  let (flagged, ef, s) := flagAccess k acts s
  match firstExc (actExcs s k c way flagged acts) with
  | some e =>
    if e.code = 0xD ∨ e.code = 0xF then
      (true, finish k (some e) (addRetired k 1 (commit k c (bundleReads s k c acts) acts next s)))
    else (false, takeExc k e c.pc.toNat ef (excDetectors k way e ef s))
  | none => (true, commit k c (bundleReads s k c acts) acts next s)

/-- The operation is a GET that waits. -/
def getOf (l : List Syl) : Option (Nat × Nat) := match cOf l with
  | some x => (match x.op with | .get d a => some (d, a) | _ => none)
  | none => none

/-- A GET's bundle issues: what its other syllables read is kept, the item in service ends, and the core waits (R531, R552,
R601). -/
def startGet (k d a : Nat) (c : DCore) (words : List Word) (acts : List Syl) (s : State) : State :=
  let sel := (c.greg a).toNat % 2 ^ 32
  let m := bundleReads s k c acts
  onCore k (fun c => { c with st := .waiting, get := some (d, sel), waitAt := s.now, getWords := words, getReads := m, gated := false })
    (endService k (selMask sel s))

/-- Issue a bundle that has no REP prefix. -/
def issuePlain (k : Nat) (way : Issue) (b : Bundle) (words : List Word) (s : State) : State :=
  let s := onCore k (fun c => c.setPs 15 15 0) s
  let c := coreOf s k
  let next := c.pc.toNat + 4 * b.words
  let acts := b.syls.filter (·.acts c)
  match getOf acts with
  | some (d, a) =>
    let (flagged, ef, s) := flagAccess k acts s
    (match firstExc (actExcs s k c way flagged acts) with
    | some e => takeExc k e c.pc.toNat ef (excDetectors k way e ef s)
    | none => startGet k d a c words acts s)
  | none =>
    let brk := acts.any fun x => match x.op with | .brk _ => true | .trap _ => true | _ => false
    let (done, s) := execSyls k way b next s
    if done && !brk then addRetired k 1 s else s

/-- Issue a REP bundle: the count is captured unless REPACT is 1; a count of 0 ends it at once (R546, R547, R551). -/
def issueRep (k : Nat) (n : Src) (b : Bundle) (s : State) : State :=
  let c := coreOf s k
  let cnt := if c.repact then c.repc else (n.get c).setWidth 32
  let s := onCore k (fun c => { c.setPs 15 15 1 with repc := cnt }) s
  if cnt = 0 then endRep k b.words s else s

/-- One pass of the REP bundle at the PC (R546, R548, R551). The check of R543 follows the last pass alone (R550), so that a pass, which
holds no C-slot syllable, leaves the PC, `PSTATE` and the loop counts as they were. -/
def repPass (k : Nat) (way : Issue) (b : Bundle) (s : State) : State :=
  let o := coreOf s k
  let (done, s) := execSyls k way b o.pc.toNat s
  if !done then s
  else
    let s := addRetired k 1 (onCore k (fun c => { c with pc := o.pc, pstate := o.pstate, lc := o.lc, repc := c.repc - 1 }) s)
    if (coreOf s k).repc = 0 then endRep k b.words s else s

end Sys2Proof.Machine
end

