-- ==== Sys2Proof/Machine/Cores.lean ====
section
/-!
DEFINITION. What moves the Dexar cores: the issue of a bundle, a pass of REP, the delivery of an item, the asynchronous
exceptions, and the reset, retry and quarantine of a core (R412 to R414, R531, R546, R552 to R562, R602, R609, R621, R624).
-/
namespace Sys2Proof.Machine

/-! ## Reset, retry and quarantine of a core -/

/-- Where a core's detectors place it. -/
def coreSite (s : State) (k : Nat) : Site :=
  { seg := if k = rindCore then 0xFF else k / 4, unit := k, func := (coreFn s k).getD 0xFFFF }

/-- Reset a house core: its registers as R563 gives, at address 0; a debugger's hold and breakpoints stand. -/
def resetCore (k : Nat) (s : State) : State :=
  onDxr (fun d => { d with hands := d.hands.filter fun h => h.core != k })
    (onCore k (fun c => { bps := c.bps, beat := s.now, issuedAt := c.issuedAt, st := if c.st = .halted then .halted else .running }) s)

/-- The house core's item goes back to its ready list, where its order of entry makes it the head of its flow (R602). -/
def returnItem (k : Nat) (s : State) : State := match (coreOf s k).item with
  | some key => match tget key s.dsp.items with
    | some i => onDsp (fun d => { d with items := tput key { i with place := .ready i.order } d.items }) s
    | none => s
  | none => s

/-- A run goes back to the head of its Segment's queue (R414). -/
def requeueRun (r : Nat) (s : State) : State := match tget r s.dsp.runs with
  | none => s
  | some x =>
    let tok := tget r s.dsp.items
    let s := cleanRun r s
    onDsp (fun d =>
      { d with runs := tput r { x with core := none, order := 0, w3len := 0, w4len := 0 } (tmap (fun _ y => { y with order := y.order + 1 }) d.runs)
               items := (match tok with | some i => tput r i d.items | none => d.items)
               order := d.order + 1 }) s

/-- House cores of a Segment in service. -/
def houseCores (s : State) (seg : Nat) : List Nat := ((List.range 4).map (seg * 4 + ·)).filter fun k => coreIn s k && isHouse s k

/-- A Segment has lost its last house core: its lowest guest core takes the role until power-on, or the Segment has no core in
service at all, and its Stone is flushed without BRACE (R414). -/
def lastHouse (seg : Nat) (s : State) : State :=
  if !(houseCores s seg).isEmpty then s
  else match guestCores s seg with
    | k :: _ =>
      let s := match (coreOf s k).run with | some r => requeueRun r s | none => s
      resetCore k (onInt (fun i => { i with promoted := k :: i.promoted }) s)
    | [] =>
      exhaustNone 0 (flushSegment seg (onInt (fun i => { i with deadSeg := seg :: i.deadSeg }) s))

/-- Quarantine a core (R413). -/
def quarantineCore (k : Nat) (s : State) : State :=
  let s := onInt (fun i => { i with quarantined := k :: i.quarantined }) s
  lastHouse (k / 4) (onCore k (fun c => { c with st := .stopped, get := none, item := none }) s)

/-- The Seal that a house item serves: the oldest in flight of the stream that its FLOW names (R600). -/
def itemSeal (s : State) (key : Nat) : Option (Nat × Flight) := match tget key s.dsp.items with
  | some i => tfind (fun _ c => c.isSeal && c.seg == key / 4096 && c.stream + 1 == i.flow) s.rge.flights
  | none => none

/-- The command of a house item fails with its third attempt: its Seal completes with 0x0202. DEDUCED (log 146): an item that serves no Seal has no
command that the manual names. -/
def failItem (k key dt ef : Nat) (s : State) : State := match itemSeal s key with
  | some (id, c) => exhaustF ef 0x0202 c.nsid (failSealX id 0x0202 c { detector := dt } (resetCore k (dropItem key s)))
  | none => exhaustNone ef (resetCore k (dropItem key s))

/-- A house core at no item fails: its third failure since its last heartbeat exhausts masking. DESIGN CHOICE (log 146). The Rind core is alone
in its part and stays in service (R412, R413). -/
def idleFault (k ef : Nat) (s : State) : State :=
  let n := (coreOf s k).tries
  if n < 2 then onCore k (fun c => { c with tries := n + 1 }) (resetCore k s) else exhaustNone ef (resetCore k s)

/-- Detector `dt`, DT08, DT26 or DT27, has been raised against core `k` with EFLAGS `ef`: it is reset and its work retried, twice at most; then
the core is quarantined, and the work fails. The notices of a run's retries follow its completion (R97, R412 to R414, R602, R624, R625; log
145). -/
def coreFault (k dt ef : Nat) (s : State) : State :=
  let c := coreOf s k
  if k = rindCore then idleFault k ef s
  else match c.run, c.item with
    | some r, _ => match tget r s.dsp.runs with
      | some x =>
        if x.retries < 2 then
          restartRun r (onDsp (fun d => { d with runs := tput r { x with retries := x.retries + 1 } d.runs }) s)
        else quarantineCore k (exhaustF ef 0x0603 0 (endRun r 0x0603 0 0 0 0 0 s))
      | none => clearCore k s
    | none, some key =>
      let n := tgetD 0 key s.dsp.retries
      if n < 2 then resetCore k (returnItem k (onDsp (fun d => { d with retries := tput key (n + 1) d.retries }) s))
      else quarantineCore k (failItem k key dt ef s)
    | none, none =>
      if !isHouse s k then clearCore k s else if c.tries < 2 then idleFault k ef s else quarantineCore k (idleFault k ef s)

/-! ## Issue (R530, R531, R546) -/

/-- A core reads its register file, which the parity of DT26 protects, and single-bit errors of its memories are corrected
(R405, R410). The flag says that it goes on. -/
def issueChecks (k : Nat) (way : Issue) (s : State) : Bool × State :=
  let ef := detectEf 26 (coreSite s k) way.parity s
  let (hit, s) := detect 26 (coreSite s k) way.parity s
  if hit then (false, coreFault k 26 ef s)
  else
    let s := way.corr.foldl (fun s p => coreSram k p false s) s
    (true, addCycles k way.cycles s)

/-- Core `k`, which may issue, issues the bundle at its PC. -/
def issueBundle (k : Nat) (way : Issue) (s : State) : State :=
  let (go, s) := issueChecks k way s
  if !go then s
  else
    let x := decodeAt s k way
    let c := coreOf s k
    let words := fetchFromPc s k c.pc.toNat 8
    let s := afterFetch s
    match x with
    | .error e =>
      let s := if way.fetchPoison ∧ e.code = 7 then coreSram k way.word true s else s
      takeExc k e c.pc.toNat 0 (excDetectors k way e 0 s)
    | .ok b => match b.rep with
      | some n => issueRep k n b s
      | none => issuePlain k way b (words.take b.words) s

/-- BUNDLE_ISSUE: core `k` issues the bundle at its PC (R515 to R562, R567 to R590). -/
def execBundleIssue (t k : Nat) (way : Issue) (s : State) : Host.Outcome State Fault Refusal :=
  let s := tick t s
  .next (if mayIssue s k then issueBundle k way s else s)

/-- Core `k` is amid the passes of a REP bundle (R546). -/
def repeating (c : DCore) : Bool := c.repact && c.repc != 0

/-- One pass of the REP bundle that core `k` repeats. -/
def issuePass (k : Nat) (way : Issue) (s : State) : State :=
  let (go, s) := issueChecks k way s
  if !go then s
  else match decodeBundle (!isHouse s k) (fetchFromPc s k (coreOf s k).pc.toNat 8) with
    | .ok b => if b.rep.isSome then repPass k way b (afterFetch s) else s
    | .error _ => s

/-- REP_PASS: one pass of the REP bundle that core `k` repeats (R546, R548, R551). -/
def execRepPass (t k : Nat) (way : Issue) (s : State) : Host.Outcome State Fault Refusal :=
  let s := tick t s
  .next (if mayIssue s k && repeating (coreOf s k) then issuePass k way s else s)

/-! ## GET (R552, R609) -/

/-- A core that waits in GET and may be given an item: clocked or gated, powered and not held. -/
def awaits (s : State) (k : Nat) : Bool := (coreOf s k).st == .waiting && (coreOf s k).get.isSome && corePowered s k

/-- The core of a Segment that has waited longest among those with an eligible item (R609). -/
def longestWait (s : State) (seg : Nat) : Option Nat :=
  ((List.range 4).map (seg * 4 + ·)).foldl (fun b k =>
    if awaits s k && (findItem s k ((coreOf s k).get.getD (0, 0)).2).isSome then
      (match b with
      | none => some k
      | some j => if (coreOf s k).waitAt < (coreOf s j).waitAt then some k else some j)
    else b) none

/-- The bundle of a GET completes with the item's token: its other syllables take effect with what they read at its issue
(R531, R552). -/
def finishGet (k tok : Nat) (s : State) : State :=
  let c := coreOf s k
  match decodeBundle (!isHouse s k) c.getWords, c.get with
  | .ok b, some (d, _) =>
    let acts := b.syls.filter (·.acts c)
    let m := c.getReads
    let s := commit k c m acts (c.pc.toNat + 4 * b.words) s
    addRetired k 1 (onCore k (fun x =>
      { x.setG d (BitVec.ofNat 64 tok) with st := .running, get := none, getWords := [], getReads := [], gated := false }) s)
  | _, _ => s

/-- GET_DELIVER: the Dispatcher of Segment `seg` gives an eligible item to the core that has waited longest (R597 to R601,
R608, R609). -/
def execGetDeliver (t seg : Nat) (s : State) : Host.Outcome State Fault Refusal :=
  let s := tick t s
  match longestWait s seg with
  | some k => match findItem s k ((coreOf s k).get.getD (0, 0)).2 with
    | some (key, i) =>
      let (tok, s) := deliver k key i s
      .next (finishGet k tok s)
    | none => .next s
  | none => .next s

/-! ## Asynchronous exceptions (R554, R555, R621) -/

/-- Core `k` is between bundles and may take an asynchronous exception. -/
def mayBreak (s : State) (k : Nat) : Bool := corePowered s k && ((coreOf s k).st == .running || (coreOf s k).st == .waiting)

/-- BUDGET_EXCEPTION: the budget of the run on guest core `k` is spent (R621, R622). -/
def execBudgetException (t k : Nat) (s : State) : Host.Outcome State Fault Refusal :=
  let s := tick t s
  if (runOn s k).isSome ∧ !isHouse s k ∧ mayBreak s k ∧ budgetLeft s k = 0 then
    .next (takeExc k { code := 0x10, slot := 7, eaddr := none } (coreOf s k).pc.toNat 0 s)
  else .next s

/-- EVENT_EXCEPTION: the Dispatcher signals an event to house core `k`, whose IE is 1 and EXL 0 (R555). -/
def execEventException (t k : Nat) (s : State) : Host.Outcome State Fault Refusal :=
  let s := tick t s
  let c := coreOf s k
  if isHouse s k ∧ mayBreak s k ∧ c.ie ∧ !c.exl then
    .next (takeExc k { code := 0x11, slot := 7, eaddr := none } c.pc.toNat 0 s)
  else .next s

end Sys2Proof.Machine
end

