-- ==== Sys2Proof/Machine/ZestJobs.lean ====
section
/-!
DEFINITION. Jobs of the Zest engine, and what the engines share: job results, their events, and the run that a sandbox
violation ends (R267 to R273, R592, R596, R622).
-/
namespace Sys2Proof.Machine

/-! ## Results -/

/-- An engine may reach `n` bytes at `a` of a Segment's map; otherwise its access ends as a bus error (R591, R592). -/
def mapOk (s : State) (seg a n : Nat) (write : Bool) : Bool := n == 0 || segOk s seg a n write

/-- A job of core `k` writes its 16-byte result and posts its event (R268, R486, R596, R663). A result range that the submitter
may not use, or that no memory answers, is not written. A job that ends with 0x0605 ends its run (R622). -/
def jobResult (k source status : Nat) (result : List Byte) (res : Nat) (notify : Bool) (s : State) : State :=
  let s := if jobRange s k res 16 true && mapOk s (k / 4) res 16 true then writeMem (k / 4) res result s else s
  let s := onDxr (fun d => { d with jobAt := tset 0 (k / 4) s.now d.jobAt }) s
  let s := if notify then notifyItem k source result res s else s
  if status = 0x0605 then
    match (coreOf s k).run with
    | some r => endRun r 0x0605 0 0 0 0 0 s
    | none => s
  else s

/-! ## Checks (R269, R272) -/

def zjOp (d : List Byte) : Nat := fld d 0 1
def zjHdr (d : List Byte) : Bool := nbit (fld d 1 1) 0
def zjLevel (d : List Byte) : Nat := fld d 2 1
def zjShift (d : List Byte) : Nat := fld d 3 1
def zjInLen (d : List Byte) : Nat := fld d 4 4
def zjCap (d : List Byte) : Nat := fld d 8 4
def zjTotal (d : List Byte) : Nat := fld d 12 4
def zjIn (d : List Byte) : Nat := fld d 16 8
def zjOut (d : List Byte) : Nat := fld d 24 8
def zjRes (d : List Byte) : Nat := fld d 32 8

/-- No slot is free for a job of core `k` (R272). -/
def zjFull (s : State) (k : Nat) : Bool :=
  let mine := fun (p : ZJob → Bool) => tcount (fun _ j => j.seg == k / 4 && p j) s.zst.jobs
  decide (mine (fun _ => true) ≥ 64) || (!isHouse s k && decide (mine (·.guest) ≥ 48))

/-- The op, level, shift and lengths are valid (item 3 of R269). -/
def zjValid (d : List Byte) : Bool :=
  let len := fun (n : Nat) => decide (1 ≤ n) && decide (n ≤ 16777216)
  let sh := decide (12 ≤ zjShift d) && decide (zjShift d ≤ 18)
  len (zjInLen d) && (match zjOp d with
    | 1 => decide (zjLevel d ≤ 9) && sh && len (zjTotal d) && decide (zjInLen d ≤ zjTotal d)
    | 2 => zjLevel d == 0 && (if zjHdr d then zjShift d == 0 && zjTotal d == 0 else sh && len (zjTotal d))
    | _ => false)

/-- The status of R269 that ends a job of core `k` before it moves any byte. -/
def zjCheck (s : State) (k : Nat) (d : List Byte) : Option Nat :=
  let blk := 2 ^ zjShift d
  if zjFull s k then some 0x0406
  else if fld d 1 1 / 4 ≠ 0 ∨ zjLevel d / 16 ≠ 0 ∨ fld d 40 8 ≠ 0 then some 0x0103
  else if !zjValid d then some 0x0106
  else if zjOp d = 1 ∧ zjCap d < blk + 12 + (if zjHdr d then 16 else 0) then some 0x0106
  else if zjOp d = 2 ∧ !zjHdr d ∧ zjCap d < blk then some 0x0106
  else if zjOp d = 1 ∧ zjInLen d < min (zjTotal d) blk then some 0x0106
  else if !jobRange s k (zjIn d) (zjInLen d) false ∨ !jobRange s k (zjOut d) (zjCap d) true ∨ !jobRange s k (zjRes d) 16 true then
    some 0x0605
  else none

/-- The 16 bytes of a result (R268). -/
def zjBytes (status reason inDone outDone crc : Nat) : List Byte :=
  pack [(2, status), (1, reason), (1, 0), (4, inDone), (4, outDone), (4, crc)]

/-- A job ends: its result and its event. -/
def zjEnd (k : Nat) (d : List Byte) (status reason inDone outDone crc : Nat) (s : State) : State :=
  jobResult k 3 status (zjBytes status reason inDone outDone crc) (zjRes d) (nbit (fld d 1 1) 1) s

/-- Take the first job that core `k` handed over, if its op passes. -/
def zjTake (k : Nat) (f : Nat → Bool) (s : State) : Option (List Byte) × State :=
  match s.dxr.hands.find? (fun h => match h with | .zest c _ => c == k | _ => false) with
  | some (.zest _ d) => if f (zjOp d) then (some d, (popHand (fun h => match h with | .zest c _ => c == k | _ => false) s).2) else (none, s)
  | _ => (none, s)

/-- A job enters the queue of its Segment, which it wakes, or ends at once (R269, R272, R274). CRC-32C of no content is that of the empty string. -/
def zjSubmit (k : Nat) (d : List Byte) (s : State) : State := match zjCheck s k d with
  | some st => zjEnd k d st 0 0 0 (Config.crc32c []) s
  | none =>
    let s := if sleepOf s (k / 4) = 0 then s else startWake (k / 4) s
    { s with zst := { s.zst with jobs := tput s.zst.nextJob { seg := k / 4, core := k, guest := !isHouse s k, desc := d } s.zst.jobs
                                 nextJob := s.zst.nextJob + 1 } }

/-- ZEST_COMPRESS_JOB: core `k` has submitted a job of OP 1, or of an op that is none (R267, R269). -/
def execZestCompressJob (t k : Nat) (s : State) : Host.Outcome State Fault Refusal :=
  match zjTake k (· != 2) (tick t s) with
  | (some d, s) => .next (zjSubmit k d s)
  | (none, s) => .next s

/-- ZEST_DECOMPRESS_JOB: core `k` has submitted a job of OP 2. -/
def execZestDecompressJob (t k : Nat) (s : State) : Host.Outcome State Fault Refusal :=
  match zjTake k (· == 2) (tick t s) with
  | (some d, s) => .next (zjSubmit k d s)
  | (none, s) => .next s

/-! ## Compression (R270, R271) -/

/-- What a pipe has done: output, content, input consumed, and counts. -/
structure ZDone where
  out : List Byte := []
  content : List Byte := []
  used : Nat := 0
  raw : Nat := 0
  repl : Nat := 0
  status : Nat := 0
  reason : Nat := 0

/-- Compress blocks of `blk` bytes from `inp`, of an object with `left` content bytes still to come, into `cap` bytes; at most
`fuel` of them. `bad` lists the blocks that the self-check replaces, by index from `i`. -/
def zjCompress (level blk : Nat) (bad : List Nat) : Nat → Nat → Nat → Nat → List Byte → ZDone → ZDone
  | 0, _, _, _, _, r => r
  | fuel + 1, i, left, cap, inp, r =>
    if left = 0 then r
    else
      let n := min blk left
      if inp.length < n then { r with status := 2 }
      else
        let b := inp.take n
        let (o, c) := encodeBlock level (n == left) (bad.contains i) b
        if o.length > cap then { r with status := 2 }
        else zjCompress level blk bad fuel (i + 1) (left - n) (cap - o.length) (inp.drop n)
          { r with out := r.out ++ o, content := r.content ++ b, used := r.used + n, raw := r.raw + (if c = 0 then 0 else 1),
                   repl := r.repl + (if c = 2 then 1 else 0) }

/-- Decompress blocks: `raw` says that every block must be RAW. The job stops before a block whose content would not fit, or whose input is
not wholly within IN_LEN, whatever that block holds (R254, R270). -/
def zjDecompress (blk : Nat) (raw : Bool) : Nat → Nat → Nat → List Byte → ZDone → ZDone
  | 0, _, _, _, r => r
  | fuel + 1, left, cap, inp, r =>
    if left = 0 then r
    else
      let n := min blk left
      if n > cap ∨ inp.length < 12 ∨ inp.length < 12 + fld inp 5 3 then { r with status := 2 }
      else match decodeOne inp n (n == left) raw with
      | .error e => { r with status := 0x0203, reason := e }
      | .ok (b, k) => zjDecompress blk raw fuel (left - n) (cap - n) (inp.drop k)
          { r with out := r.out ++ b, content := r.content ++ b, used := r.used + k }

/-- The work of a job on its input. -/
def zjWork (d inp : List Byte) (bad : List Nat) : ZDone :=
  if zjOp d = 1 then
    let h := if zjHdr d then objHeader (zjLevel d) (zjShift d) 0 (zjTotal d) else []
    zjCompress (zjLevel d) (2 ^ zjShift d) bad 4096 0 (zjTotal d) (zjCap d - h.length) inp { out := h }
  else if zjHdr d then
    match decodeHeader inp with
    | .error e => { status := 0x0203, reason := e }
    | .ok (sh, ulen, raw) =>
      if zjCap d < 2 ^ sh then { status := 0x0106 } else zjDecompress (2 ^ sh) raw 4097 ulen (zjCap d) (inp.drop 16) { used := 16 }
  else zjDecompress (2 ^ zjShift d) false 4097 (zjTotal d) (zjCap d) inp {}

/-- A job finishes: its output is written, counted and reported. A range that no memory answers ends as a bus error, which the
retries of R412 cannot mend: 0x0201 for the input and 0x0202 for the output. -/
def zjFinish (j : ZJob) (bad : List Nat) (s : State) : State :=
  let d := j.desc
  if !mapOk s j.seg (zjIn d) (zjInLen d) false then
    zjEnd j.core d 0x0201 0 0 0 (Config.crc32c []) (exhaust 0x0201 0 s)
  else
    let (inj, ef, s) := if zjOp d = 1 then meet 31 j.seg 0xFFFF false s else (false, 0, s)
    let r := zjWork d (segBytes s (if j.guest then coreFn s j.core else none) j.seg (zjIn d) (zjInLen d)) (if inj then 0 :: bad else bad)
    if !mapOk s j.seg (zjOut d) r.out.length true then
      zjEnd j.core d 0x0202 0 0 0 (Config.crc32c []) (exhaust 0x0202 0 s)
    else
      let s := writeMem j.seg (zjOut d) r.out s
      let s := if zjOp d = 1 then countCompress j.seg r.used r.out.length r.raw r.repl ef s
        else bump (Reg.zstDoutLo j.seg) r.out.length s
      zjEnd j.core d r.status r.reason r.used r.out.length (Config.crc32c r.content) s

/-- The job that a pipe of Segment `seg` works on: house jobs before guest jobs, in submission order within each group; in BRACE guest jobs
are held (R273, R274). -/
def zjNext (s : State) (seg : Nat) (comp : Bool) : Option (Nat × ZJob) :=
  let mine := fun (g : Bool) => tfind (fun _ j => j.seg == seg && (zjOp j.desc == 1) == comp && j.guest == g) s.zst.jobs
  match mine false with
  | some j => some j
  | none => if s.brc.active then none else mine true

/-- ZEST_JOB_COMPLETE: a pipe of Segment `seg` finishes the job that it works on. The compression pipe when `comp`; `bad` lists the blocks
whose self-check found a mismatch (R263, R268, R270, R273). -/
def execZestJobComplete (t seg : Nat) (comp : Bool) (bad : List Nat) (s : State) : Host.Outcome State Fault Refusal :=
  let s := tick t s
  match zjNext s seg comp with
  | none => .next s
  | some (n, j) =>
    if sleepOf s seg ≠ 0 then .next s
    else .next (zjFinish j bad { s with zst := { s.zst with jobs := tdel n s.zst.jobs } })

end Sys2Proof.Machine
end

