-- ==== Sys2Proof/Machine/Crypto.lean ====
section
/-!
DEFINITION. Jobs of the Crypto Units: saved contexts, checks, algorithms, results, retries (R467, R468, R473 to R490).
-/
namespace Sys2Proof.Machine

/-! ## Descriptors (R480 to R483) -/

def cjOp (d : List Byte) : Nat := fld d 0 1
def cjAlg (d : List Byte) : Nat := fld d 1 1
def cjKs (d : List Byte) : Nat := fld d 2 1
def cjCmp (d : List Byte) : Bool := nbit (fld d 3 1) 1
def cjCtx (d : List Byte) : Nat := fld d 4 2
def cjLast (d : List Byte) : Nat := fld d 6 1
def cjWords (d : List Byte) : Nat := fld d 8 4
def cjAux (d : List Byte) : Nat := fld d 12 4
def cjIn (d : List Byte) : Nat := fld d 16 8
def cjOut (d : List Byte) : Nat := fld d 24 8
def cjRes (d : List Byte) : Nat := fld d 32 8
def cjKeyAt (d : List Byte) : Nat := fld d 40 8
def cjAuxAt (d : List Byte) : Nat := fld d 48 8
def cjNsid (d : List Byte) : Nat := fld d 56 4

/-- A digest or MAC; its length; XTS; GCM (R481). -/
def algHash (a : Nat) : Bool := decide (1 ≤ a) && decide (a ≤ 8)
def algMac (a : Nat) : Bool := decide (6 ≤ a) && decide (a ≤ 8)
def algXts (a : Nat) : Bool := a == 16 || a == 17
def algGcm (a : Nat) : Bool := a == 18 || a == 19
def hashLen (a : Nat) : Nat := match a with
  | 1 => 32 | 2 => 48 | 3 => 64 | 4 => 32 | 5 => 64 | 6 => 32 | 7 => 48 | _ => 64

/-- Bytes of a key at KEY_ADDR (R482). -/
def keyLen (a : Nat) : Nat := if algXts a then 64 else if algGcm a then 32 else hashLen a

/-- The input length (R480). -/
def cjInLen (d : List Byte) : Nat :=
  if cjWords d = 0 then 0 else 8 * (cjWords d - 1) + (if cjLast d % 16 = 0 then 8 else cjLast d % 16)

/-- The op takes input; takes a context by its handle; loads a key. -/
def opIn (op : Nat) : Bool := op == 2 || op == 3 || op == 5 || op == 6
def opCtx (op : Nat) : Bool := op == 2 || op == 3 || op == 4
def opKey (op : Nat) : Bool := op == 1 || op == 5 || op == 6 || op == 7

/-- The op delivers a digest or tag that COMPARE may check. -/
def opTag (op a : Nat) : Bool := (op == 3 || op == 5) && (algHash a || a == 18)

/-- Bytes at OUT_ADDR. -/
def cjOutLen (d : List Byte) : Nat :=
  let op := cjOp d
  let a := cjAlg d
  if op = 7 then 8 * cjWords d
  else
    (if (op = 2 ∨ op = 3 ∨ op = 5) ∧ (algXts a ∨ algGcm a) then cjInLen d else 0)
      + (if opTag op a ∧ !cjCmp d then (if algHash a then hashLen a else 16) else 0)

/-- Bytes of the parameter block at AUX_ADDR. -/
def cjParLen (d : List Byte) : Nat :=
  let op := cjOp d
  let a := cjAlg d
  if (op = 1 ∨ op = 5) ∧ algGcm a then 32 + cjAux d
  else if op = 5 ∧ algXts a then 16
  else if opTag op a ∧ cjCmp d then (if algHash a then hashLen a else 16) else 0

/-- A reserved bit, or a field that the op does not use, is not 0 (item 2 of R484). -/
def cjReserved (d : List Byte) : Bool :=
  let op := cjOp d
  let a := cjAlg d
  let ks := cjKs d
  let inUse := opIn op || op == 7
  fld d 3 1 / 4 != 0 || cjLast d / 16 != 0 || fld d 7 1 != 0 || fld d 60 4 != 0
    || (decide (1 ≤ op) && decide (op ≤ 7)
        && ((cjCmp d && !opTag op a) || (cjCtx d != 0 && !opCtx op) || (ks != 0 && !opKey op) || (cjLast d != 0 && !opIn op)
            || (cjWords d != 0 && !inUse) || (cjIn d != 0 && !opIn op) || (cjAux d != 0 && !((op == 1 || op == 5) && algGcm a))
            || (cjOut d != 0 && cjOutLen d == 0 && !((op == 2 || op == 3 || op == 5) && (algXts a || algGcm a)))
            || (cjKeyAt d != 0 && !(opKey op && ks == 1)) || (cjAuxAt d != 0 && cjParLen d == 0)
            || (cjNsid d != 0 && !(opKey op && (ks == 4 || ks == 5)))))

/-- OP, ALG and KEY_SEL are valid together (item 3 of R484, R482, R483). -/
def cjValid (d : List Byte) : Bool :=
  let op := cjOp d
  let a := cjAlg d
  let ks := cjKs d
  let keys := match ks with
    | 0 => decide (1 ≤ a) && decide (a ≤ 5)
    | 1 => algMac a || algXts a || algGcm a
    | 2 => a == 6 || a == 18 || a == 19
    | 3 => a == 18
    | 5 => algXts a
    | 6 => algXts a
    | _ => false
  match op with
  | 1 => (algHash a || a == 18) && keys
  | 2 => algHash a || a == 18
  | 3 => algHash a || a == 18
  | 4 => algHash a || a == 18
  | 5 => (algHash a || algXts a || algGcm a) && keys
  | 6 => a == 0 && ks == 4
  | 7 => a == 0 && ks == 0
  | _ => false

/-- KEY_SEL is permitted for a page (item 4 of R484, R482). -/
def cjPageOk (s : State) (page : Nat) (d : List Byte) : Bool :=
  let fn := decide (page < 256)
  match (if opKey (cjOp d) then cjKs d else 0) with
  | 2 => fn
  | 3 => fn
  | 4 => !fn || (match nsOf s (cjNsid d) with | some n => n.owner == page | none => false)
  | 5 => !fn
  | 6 => !fn
  | _ => true

/-- The slot that a handle names for a page of a Segment (R476). -/
def ctxOf (s : State) (seg page h : Nat) : Option (Nat × Ctx) := match tget (seg * 64 + h % 64) s.cry.ctxs with
  | some x => if x.page = page ∧ x.seq = h / 64 then some (seg * 64 + h % 64, x) else none
  | none => none

/-- The lengths are in range (item 8 of R484). -/
def cjLengthOk (d : List Byte) : Bool :=
  let op := cjOp d
  let a := cjAlg d
  let n := cjInLen d
  decide (cjWords d ≤ 2097152) && decide (cjAux d ≤ 65536) && (match op with
    | 2 => n != 0
    | 5 => (!algXts a || decide (16 ≤ n)) && (a != 19 || decide (n ≤ 262144))
    | 6 => n == 192
    | 7 => decide (1 ≤ cjWords d) && decide (cjWords d ≤ 512)
    | _ => true)

/-- A range of a job lies in a window of its guest core, or the core is a house core (item 9 of R484). -/
def cjRange (s : State) (k a n : Nat) (write : Bool) : Bool := n == 0 || jobRange s k a n write

/-- Every range of the job does. -/
def cjRangesOk (s : State) (k : Nat) (d : List Byte) : Bool :=
  cjRange s k (cjIn d) (if opIn (cjOp d) then cjInLen d else 0) false && cjRange s k (cjOut d) (cjOutLen d) true
    && cjRange s k (cjKeyAt d) (if opKey (cjOp d) && cjKs d == 1 then keyLen (cjAlg d) else 0) false
    && cjRange s k (cjAuxAt d) (cjParLen d) false && cjRange s k (cjRes d) 16 true

/-- The key may be used (item 10 of R484, R498, R509). -/
def cjKeyOk (s : State) (page : Nat) (d : List Byte) : Bool :=
  match (if opKey (cjOp d) then cjKs d else 0) with
  | 0 => true
  | 1 => !s.cry.closed
  | 2 => gateOpen s 0 2 && (tget page s.cry.fnSalts).isSome
  | 3 => gateOpen s 1 2 && (tget page s.cry.expKeys).isSome
  | 6 => gateOpen s 0 3
  | _ => nsKeyOk s (cjNsid d)

/-- The first status of R484 that applies. -/
def cjCheck (s : State) (k page : Nat) (d : List Byte) : Option Nat :=
  let op := cjOp d
  let c := ctxOf s (k / 4) page (cjCtx d)
  let named := opCtx op
  if (op = 1 ∨ op = 5 ∨ op = 6) ∧ !ctxRoom s (k / 4) page then some 0x0406
  else if cjReserved d then some 0x0103
  else if !cjValid d then some 0x0106
  else if !cjPageOk s page d then some 0x0401
  else if named && (match c with | some (_, x) => x.alg != cjAlg d | none => true) then some 0x0106
  else if named && op != 4 && (match c with | some (_, x) => x.poisoned | none => false) then some 0x0407
  else if cjLast d % 16 > 8 then some 0x0407
  else if !cjLengthOk d then some 0x0106
  else if !cjRangesOk s k d then some 0x0605
  else if !cjKeyOk s page d then some 0x0403
  else none

/-! ## Results (R486, R487) -/

/-- CMP and CMP_N: none, match or mismatch (R487). -/
def cmpBytes : Option Bool → Nat
  | none => 0xFF00
  | some true => 0xC33C
  | some false => 0x3CC3

/-- The 16 bytes of a result. -/
def cjBytes (status : Nat) (cmp : Option Bool) (h inDone outDone : Nat) : List Byte :=
  pack [(2, status), (2, cmpBytes cmp), (2, h), (2, 0), (4, inDone), (4, outDone)]

/-- A job ends: counters of the Segment, result and event. -/
def cjEnd (k : Nat) (d : List Byte) (status : Nat) (cmp : Option Bool) (h inDone outDone : Nat) (s : State) : State :=
  let s := if status = 0x0406 then bump (Reg.cryBusyLo (k / 4)) 1 s
    else if status = 0x0405 then bump (Reg.cryGcmfailLo (k / 4)) 1 s else s
  jobResult k 4 status (cjBytes status cmp h inDone outDone) (cjRes d) (nbit (fld d 3 1) 0) s

/-! ## Contexts (R475, R476, R479, R485) -/

/-- Change a saved context. -/
def onCtx (key : Nat) (f : Ctx → Ctx) (s : State) : State := onCry (fun c => { c with ctxs := tmod key f c.ctxs }) s

/-- Free a saved context. -/
def freeCtx (key : Nat) (s : State) : State := onCry (fun c => { c with ctxs := tdel key c.ctxs }) s

/-- Overwrite a context with zeros and poison it. -/
def poisonCtx (key : Nat) (s : State) : State :=
  onCtx key (fun x => { x with key := [], iv := [], aad := [], absorbed := [], poisoned := true }) s

/-- Allocate the lowest free slot of a Segment for a page; the slot's sequence changes (R476). -/
def allocCtx (k page alg : Nat) (s : State) : Option Nat × State :=
  match tfree (k / 4 * 64) 64 s.cry.ctxs with
  | none => (none, s)
  | some key =>
    let q := (tgetD 0 key s.cry.seqs + 1) % 1024
    (some key, onCry (fun c =>
      { c with ctxs := tput key { page := page, run := (coreOf s k).run, seq := q, alg := alg, key := [] } c.ctxs
               seqs := tset 0 key q c.seqs }) s)

/-- The handle of a slot (R476). -/
def handleOf (s : State) (key : Nat) : Nat := key % 64 + 64 * tgetD 0 key s.cry.seqs

/-! ## Submission -/

/-- The user page of a core: its run's function, or a firmware page of its own (R474; log 158). -/
def pageOf (s : State) (k : Nat) : Nat := (coreFn s k).getD (256 + k % 16)

/-- Bytes of hold buffer that a GCM decryption reserves (R488). -/
def holdNeed (d : List Byte) : Nat := cdiv (cjInLen d) 4096 * 4096

/-- Bytes reserved in a Segment. -/
def holdUsed (s : State) (seg : Nat) : Nat := tsum (fun _ j => if j.seg = seg then j.hold.getD 0 else 0) s.cry.jobs

/-- The job waits for hold-buffer room. -/
def waitsHold (j : CJob) : Bool := cjOp j.desc == 5 && cjAlg j.desc == 19 && j.hold.isNone

/-- The first waiting GCM decryption of a Segment reserves its room, if there is room (R488). -/
def grantHold (seg : Nat) (s : State) : State := match tfind (fun _ j => j.seg == seg && waitsHold j) s.cry.jobs with
  | some (n, j) =>
    if holdUsed s seg + holdNeed j.desc ≤ 262144 then
      onCry (fun c => { c with jobs := tput n { j with hold := some (holdNeed j.desc) } c.jobs }) s
    else s
  | none => s

/-- A job is checked, and queued if it passes (R484). -/
def cjSubmit (k : Nat) (d : List Byte) (s : State) : State :=
  let page := pageOf s k
  let c := ctxOf s (k / 4) page (cjCtx d)
  let h := if opCtx (cjOp d) && c.isSome then cjCtx d else 0
  match cjCheck s k page d with
  | some st =>
    let s := if st = 0x0407 ∧ opCtx (cjOp d) then (match c with | some (key, _) => poisonCtx key s | none => s) else s
    cjEnd k d st none h 0 0 s
  | none =>
    let op := cjOp d
    let (slot, s) := if op = 1 ∨ op = 5 ∨ op = 6 then allocCtx k page (cjAlg d) s else (c.map (·.1), s)
    let j : CJob := { seg := k / 4, core := k, page := page, desc := d, slot := slot }
    grantHold (k / 4) (onCry (fun c => { c with jobs := tput c.nextJob j c.jobs, nextJob := c.nextJob + 1 }) s)

/-- The job that core `k` handed over first, if its op passes. While keys are re-derived, a job that needs a derived key waits
at the port (R508). -/
def cjTake (k : Nat) (f : Nat → Bool) (s : State) : Option (List Byte) × State :=
  match s.dxr.hands.find? (fun h => match h with | .crypto c _ => c == k | _ => false) with
  | some (.crypto _ d) =>
    if f (cjOp d) && !(s.cry.rederive && !s.cry.closed && opKey (cjOp d) && decide (cjKs d ≥ 2)) then
      (some d, (popHand (fun h => match h with | .crypto c _ => c == k | _ => false) s).2)
    else (none, s)
  | _ => (none, s)

/-- Take and submit a job of core `k`. -/
def cjRow (t k : Nat) (f : Nat → Bool) (s : State) : Host.Outcome State Fault Refusal :=
  match cjTake k f (tick t s) with
  | (some d, s) => .next (cjSubmit k d s)
  | (none, s) => .next s

/-- The op is `n`, or none of R483's. -/
def opIs (n op : Nat) : Bool := op == n || op == 0 || decide (op > 7)

/-- CRYPTO_INIT. -/
def execCryptoInit (t k : Nat) (s : State) : Host.Outcome State Fault Refusal := cjRow t k (opIs 1) s

/-- CRYPTO_UPDATE. -/
def execCryptoUpdate (t k : Nat) (s : State) : Host.Outcome State Fault Refusal := cjRow t k (opIs 2) s

/-- CRYPTO_FINAL. -/
def execCryptoFinal (t k : Nat) (s : State) : Host.Outcome State Fault Refusal := cjRow t k (opIs 3) s

/-- CRYPTO_FREE. -/
def execCryptoFree (t k : Nat) (s : State) : Host.Outcome State Fault Refusal := cjRow t k (opIs 4) s

/-- CRYPTO_ONESHOT. -/
def execCryptoOneshot (t k : Nat) (s : State) : Host.Outcome State Fault Refusal := cjRow t k (opIs 5) s

/-- CRYPTO_CHAIN_CHECK. -/
def execCryptoChainCheck (t k : Nat) (s : State) : Host.Outcome State Fault Refusal := cjRow t k (opIs 6) s

/-- CRYPTO_RANDOM. -/
def execCryptoRandom (t k : Nat) (s : State) : Host.Outcome State Fault Refusal := cjRow t k (opIs 7) s

/-- GCM_HOLD_GRANT: the hold buffer of Segment `seg` has room for the GCM decryption that waits first (R488). -/
def execGcmHoldGrant (t seg : Nat) (s : State) : Host.Outcome State Fault Refusal := .next (grantHold seg (tick t s))

/-! ## The algorithms (R468) -/

/-- A digest or MAC of a message. -/
def hashOf (a : Nat) (key msg : List Byte) : List Byte := fit (hashLen a) (match a with
  | 1 => Config.sha256 msg
  | 2 => Config.sha384 msg
  | 6 => Config.hmacSha256 key msg
  | 7 => Config.hmac 384 key msg
  | 8 => Config.hmac 512 key msg
  | a => Config.digest a msg)

/-- GCM encryption: ciphertext and tag. -/
def gcmCt (key iv aad pt : List Byte) : List Byte := slice (Config.gcmSeal key iv aad pt) 0 pt.length
def gcmTag (key iv aad pt : List Byte) : List Byte := slice (Config.gcmSeal key iv aad pt) pt.length 16

/-- What a job does: output, comparison, the context it leaves, and bytes ciphered and digested. -/
structure CDone where
  status : Nat := 0
  out : List Byte := []
  cmp : Option Bool := none
  ctx : Option Ctx := none
  ciphered : Nat := 0
  digested : Nat := 0

/-- The key that a job loads. -/
def cjKey (s : State) (j : CJob) : List Byte := match cjKs j.desc with
  | 1 => segBytes s none j.seg (cjKeyAt j.desc) (keyLen (cjAlg j.desc))
  | 2 => fnKey s j.page
  | 3 => tgetD [] j.page s.cry.expKeys
  | 4 => chainKey s (cjNsid j.desc)
  | 5 => mediaKey s (cjNsid j.desc)
  | 6 => houseKey s
  | _ => []

/-- Deliver a digest or tag: written, or compared with what the parameter block gives (R483). -/
def deliverTag (cmp : Bool) (v want : List Byte) : List Byte × Option Bool :=
  if cmp then ([], some (v == want)) else (v, none)

/-- Add input to a context of a digest, MAC or GCM: its output, and the context after it. -/
def cjAbsorb (x : Ctx) (inp : List Byte) : List Byte × Ctx :=
  let m := x.absorbed ++ inp
  (if x.alg = 18 then (gcmCt x.key x.iv x.aad m).drop x.absorbed.length else [], { x with absorbed := m })

/-- Finish a context: the input's output and the digest or tag. -/
def cjFinal (cmp : Bool) (want : List Byte) (x : Ctx) (inp : List Byte) : List Byte × Option Bool :=
  let (o, y) := cjAbsorb x inp
  let v := if x.alg = 18 then gcmTag y.key y.iv y.aad y.absorbed else hashOf y.alg y.key y.absorbed
  let (t, c) := deliverTag cmp v want
  (o ++ t, c)

/-- The context that an INIT or a ONESHOT loads (R483). -/
def cjLoad (x : Ctx) (key par : List Byte) (aux : Nat) : Ctx :=
  if algGcm x.alg then { x with key := key, iv := slice par 0 12, aad := slice par 32 aux } else { x with key := key }

/-- The work of a job with context `x`, input and parameter block (R483, R488, R489). `rnd` is what RANDOM gives. -/
def cjWork (d : List Byte) (x : Ctx) (key inp par rnd : List Byte) : CDone :=
  let a := cjAlg d
  let n := inp.length
  let gcm := x.alg == 18
  let cnt := fun (r : CDone) => { r with ciphered := if gcm ∨ algXts a ∨ a = 19 then n else 0, digested := if algHash x.alg then n else 0 }
  match cjOp d with
  | 1 => { ctx := some (cjLoad x key par (cjAux d)) }
  | 2 => let (o, y) := cjAbsorb x inp; cnt { out := o, ctx := some y }
  | 3 => let (o, c) := cjFinal (cjCmp d) par x inp; cnt { out := o, cmp := c }
  | 5 =>
    if algXts a then cnt { out := fit n (Config.xts (a == 16) key par inp) }
    else if a = 19 then
      (match Config.gcmOpen key (slice par 0 12) (slice par 32 (cjAux d)) (inp ++ slice par 16 16) with
      | some p => cnt { out := fit n p, cmp := some true }
      | none => cnt { status := 0x0405, cmp := some false })
    else
      let want := if a = 18 then slice par 16 16 else par
      let (o, c) := cjFinal (cjCmp d) want (cjLoad x key par (cjAux d)) inp
      cnt { out := o, cmp := c }
  | 6 =>
    let h := slice inp 32 160
    let tag := chainTag key (slice inp 0 32) (patch h 112 (zeros 32))
    { cmp := some (tag == slice h 112 32), digested := n }
  | 7 => { out := rnd }
  | _ => {}

/-! ## Completion (R467, R486 to R490) -/

/-- Unit number of an AES lane. -/
def laneUnit (seg lane : Nat) : Nat := 32 + 4 * seg + lane % 4

/-- Quarantine an AES lane, unless it is the last of its cluster (R413, R467). -/
def quarantineLane (seg lane : Nat) (s : State) : State :=
  let left := (List.range 4).filter fun l => l != lane % 4 && !s.integ.quarantined.contains (laneUnit seg l)
  if left.isEmpty then s else onInt (fun i => { i with quarantined := laneUnit seg lane :: i.quarantined }) s

/-- The context of a job goes: freed with a job that has no handle, poisoned otherwise. -/
def dropSlot (j : CJob) (s : State) : State := match j.slot with
  | some key => if opCtx (cjOp j.desc) ∨ cjOp j.desc = 1 then poisonCtx key s else freeCtx key s
  | none => s

/-- The handle that a job's result names. -/
def cjHandle (s : State) (j : CJob) : Nat := match j.slot with
  | some key => if opCtx (cjOp j.desc) ∨ cjOp j.desc = 1 then handleOf s key else 0
  | none => 0

/-- Take a job out of the queue. -/
def dropJob (n : Nat) (s : State) : State := onCry (fun c => { c with jobs := tdel n c.jobs }) s

/-- A job ends with 0x0407, its context zeroed and poisoned (R490, R508). -/
def cjFail (n : Nat) (j : CJob) (s : State) : State :=
  let h := cjHandle s j
  cjEnd j.core j.desc 0x0407 none h 0 0 (dropSlot j (dropJob n s))

/-- An attempt fails, with EFLAGS `ef`: the job is retried, or ends after the third attempt, and a lane that failed it is quarantined (R412,
R413, R419, R490). -/
def cjRetry (n : Nat) (j : CJob) (lane : Option Nat) (ef : Nat) (s : State) : State :=
  if j.tries < 2 then onCry (fun c => { c with jobs := tput n { j with tries := j.tries + 1 } c.jobs }) s
  else
    let s := match lane with | some l => quarantineLane j.seg l s | none => s
    cjFail n j (exhaustF ef 0x0407 0 s)

/-- The ranges of a job that no memory answers end as a bus error (R592). -/
def cjBusOk (s : State) (j : CJob) : Bool :=
  let d := j.desc
  mapOk s j.seg (cjIn d) (if opIn (cjOp d) then cjInLen d else 0) false && mapOk s j.seg (cjOut d) (cjOutLen d) true
    && mapOk s j.seg (cjKeyAt d) (if opKey (cjOp d) && cjKs d == 1 then keyLen (cjAlg d) else 0) false
    && mapOk s j.seg (cjAuxAt d) (cjParLen d) false

/-- Store a finished job's result `r`: its output, its context, the byte counters and its end (R486, R488). -/
def cjStore (n : Nat) (j : CJob) (r : CDone) (read : Nat) (s : State) : State :=
  let d := j.desc
  let h := cjHandle s j
  let s := dropJob n (writeMem j.seg (cjOut d) r.out s)
  let s := match j.slot with
    | some key => (match r.ctx with | some y => onCtx key (fun _ => y) s | none => freeCtx key s)
    | none => s
  let s := bump (Reg.cryCipherLo j.seg) r.ciphered (bump (Reg.cryDigestLo j.seg) r.digested s)
  cjEnd j.core d r.status r.cmp h read r.out.length s

/-- A finished attempt's effects (R486, R488). -/
def cjFinish (n : Nat) (j : CJob) (flags_ : Bool) (s : State) : State :=
  let d := j.desc
  let fn := if j.page < 256 then some j.page else none
  let x : Ctx := match j.slot with
    | some key => (tget key s.cry.ctxs).getD { page := j.page, seq := 0, alg := cjAlg d, key := [] }
    | none => { page := j.page, seq := 0, alg := cjAlg d, key := [] }
  let inp := if opIn (cjOp d) then segBytes s fn j.seg (cjIn d) (cjInLen d) else []
  let par := segBytes s fn j.seg (cjAuxAt d) (cjParLen d)
  let (rnd, s) := if cjOp d = 7 then random (8 * cjWords d) s else ([], s)
  let r := cjWork d x (if opKey (cjOp d) then cjKey s j else []) inp par rnd
  let (bad, s) := if r.cmp.isSome then detect 59 { seg := j.seg } flags_ s else (false, s)
  let r := if bad then { r with cmp := some false, status := if cjAlg d = 19 then 0x0405 else r.status
                                out := if cjAlg d = 19 then [] else r.out } else r
  cjStore n j r inp.length s

/-- An earlier job of the same context is still queued. -/
def ctxBusy (s : State) (n : Nat) (j : CJob) : Bool :=
  j.slot.isSome && tany (fun m x => decide (m < n) && x.slot == j.slot) s.cry.jobs

/-- The engine's detector for a job: DT56 for a cipher, DT57 for a digest (R467). -/
def cjDet (d : List Byte) : Nat := if algXts (cjAlg d) || algGcm (cjAlg d) then 56 else 57

/-- The engine that a job runs on: the AES lanes, the SHA-2 engine, the SHA-3 engine, or none (R465, R483). -/
inductive Engine where
  | aes | sha2 | sha3 | none
  deriving DecidableEq, Repr

/-- The engine of a job. -/
def cjEngine (d : List Byte) : Engine :=
  if cjOp d = 6 then .sha2
  else if cjOp d = 2 ∨ cjOp d = 3 ∨ cjOp d = 5 then
    (if algXts (cjAlg d) || algGcm (cjAlg d) then .aes else if cjAlg d = 4 ∨ cjAlg d = 5 then .sha3 else .sha2)
  else .none

/-- Engines of a kind in a Segment's service: its AES lanes that are not quarantined, or the one digest engine (R465, R467). -/
def engineCount (s : State) (seg : Nat) : Engine → Nat
  | .aes => ((List.range 4).filter fun l => !s.integ.quarantined.contains (laneUnit seg l)).length
  | _ => 1

/-- Jobs of a Segment that wait for an engine and could go on it, with the user pages that `p` names. -/
def jobsFor (s : State) (seg : Nat) (e : Engine) (p : Nat → Bool) : List Nat :=
  (tfilter (fun n j => j.seg == seg && cjEngine j.desc == e && p j.page && !waitsHold j && !ctxBusy s n j) s.cry.jobs).map (·.1)

/-- Job `n` is on an engine: those of firmware pages stand before those of function pages, each group in submission order, and
the first of the line are on the engines (R478). DEDUCED: the changes in the midst of a job leave no trace (log 128). -/
def onEngine (s : State) (n : Nat) (j : CJob) : Bool :=
  cjEngine j.desc == .none
    || ((jobsFor s j.seg (cjEngine j.desc) (fun p => decide (256 ≤ p)) ++ jobsFor s j.seg (cjEngine j.desc) (fun p => decide (p < 256))).take
          (engineCount s j.seg (cjEngine j.desc))).contains n

/-- CRYPTO_JOB_COMPLETE: job `n` finishes an attempt. `bus` is a bus error, `finds` what its reads of SRAM met, a poisoned word failing the
attempt (R405), `differ` a difference from the redundant computation, on AES lane `lane` for a cipher, and `flags_` compare flags that are not complementary. In BRACE queued
jobs are held, RANDOM waits for the random generator, a context serves its jobs in order, and a job that no engine has taken yet
waits (R467, R477, R478, R486 to R490, R510). -/
def execCryptoJobComplete (t n : Nat) (bus differ flags_ : Bool) (lane : Nat) (finds : List SramFind) (s : State) :
    Host.Outcome State Fault Refusal :=
  let s := tick t s
  match tget n s.cry.jobs with
  | none => .next s
  | some j =>
    if s.brc.active ∨ sleepOf s j.seg ≠ 0 ∨ waitsHold j ∨ ctxBusy s n j ∨ !onEngine s n j ∨ (cjOp j.desc = 7 ∧ !rngReady s) then .next s
    else if opCtx (cjOp j.desc) ∧ (ctxOf s j.seg j.page (cjCtx j.desc)).isNone then
      .next (cjEnd j.core j.desc 0x0106 none 0 0 0 (dropJob n s))
    else if opCtx (cjOp j.desc) && cjOp j.desc != 4
        && (match ctxOf s j.seg j.page (cjCtx j.desc) with | some (_, x) => x.poisoned | none => false) then
      .next (cjEnd j.core j.desc 0x0407 none (cjCtx j.desc) 0 0 (dropJob n s))
    else if bus ∨ !cjBusOk s j ∨ finds.any (·.dbl) then .next (cjRetry n j none 0 (finds.foldl scrubFinding s))
    else if cjOp j.desc = 7 ∨ cjOp j.desc = 4 ∨ cjOp j.desc = 1 then .next (cjFinish n j flags_ (finds.foldl scrubFinding s))
    else
      let s := finds.foldl scrubFinding s
      let k := cjDet j.desc
      let (inj, ef, s) := meet k j.seg 0xFFFF differ s
      let s := if inj then raiseF k { seg := j.seg } ef s else s
      if inj && !bypassed s k then .next (cjRetry n j (if k = 56 then some lane else none) ef s) else .next (cjFinish n j flags_ s)

end Sys2Proof.Machine
end

