-- ==== Sys2Proof/Machine/Lifecycle.lean ====
section
/-!
DEFINITION. Lifecycle states and commands, grants, the debug level, and what waits for VPP_PITH (chapter 19, R792).
-/
namespace Sys2Proof.Machine

/-- Change the Security Gate's lifecycle part; change the debug port. -/
def onLife (f : Life → Life) (s : State) : State := { s with life := f s.life }
def onDbg (f : Dbg → Dbg) (s : State) : State := { s with dbg := f s.dbg }

/-! ## The debug level (R747, R750) -/

/-- Maintenance stops while a house core of a Segment is halted (R335). -/
def noteHalted (s : State) : State :=
  { s with med := { s.med with halted := (List.range 16).any fun k => coreIn s k && isHouse s k && (coreOf s k).st == .halted } }

/-- A debugger halts core `k`: its run's budget stops (R621, R747). -/
def haltCore (k : Nat) (s : State) : State :=
  let s := match (coreOf s k).run with
    | some r => onDsp (fun d => { d with runs := tmod r (fun x => { x with heldAt := some (x.heldAt.getD s.now) }) d.runs }) s
    | none => s
  noteHalted (onCore k (fun c => { c with st := .halted }) s)

/-- A halted core goes on at its PC: a GET continues to wait, and a guest core without a run stays held (R750). -/
def resumeCore (k : Nat) (s : State) : State :=
  let c := coreOf s k
  if c.st ≠ .halted then s
  else
    let s := match c.run with
      | some r => onDsp (fun d => { d with runs := tmod r (fun x =>
                                    { x with heldNs := x.heldNs + (match x.heldAt with | some a => s.now - a | none => 0), heldAt := none }) d.runs }) s
      | none => s
    let st : CoreSt := if c.get.isSome then .waiting else if isHouse s k || c.run.isSome then .running else .held
    noteHalted (onCore k (fun c => { c with st := st }) s)

/-- What leaving Full does: breakpoints and SSTEP clear, halted cores resume, and a code D injection is disarmed (R750). -/
def leaveFull (s : State) : State :=
  let s := (tkeys s.dxr.cores).foldl (fun s k => resumeCore k (onCore k (fun c => { c.setPs 10 10 0 with bps := [] }) s)) s
  if s.integ.armed && codeD s.integ.injDt then disarm s else s

/-- RINDX sleeps no deeper than S1 while a debugger is attached (R727). -/
def sleepShallow (l : DLevel) (s : State) : State := if l ≠ .closed ∧ s.pwr.rindSleep > 1 then startWake rindx s else s

/-- Change the debug level, with its Mode notice (R750, R757). -/
def setLevel (l : DLevel) (s : State) : State :=
  if s.dbg.level = l then s
  else
    let full := s.dbg.level == .full
    track (withModes 3 fun s => (if full then leaveFull else id) (onDbg (fun d => { d with level := l }) (sleepShallow l s))) s

/-! ## Nonces, grants and chains (R738, R740 to R742) -/

/-- Draw a new nonce (R740). -/
def newNonce (s : State) : State :=
  let (n, s) := random 32 s
  onLife (fun l => { l with nonce := n, nonceOk := true }) s

/-- Grants are refused until power-on (R742). -/
def grantsOff (s : State) : Bool := decide (s.life.refusals ≥ 8)

/-- A grant passes but for its nonce's state: layout, SERIAL, NONCE, chain, signature and ACTION (R741, R742). -/
def grantFits (s : State) (g : List Byte) (actions : List Nat) : Bool :=
  let n := fld g 12 4
  let chain := slice g 192 n
  slice g 0 8 == ascii "VLRGRANT" && fld g 8 2 == 1 && fld g 11 1 == 0 && decide (1 ≤ n) && decide (n ≤ 3904)
    && decide (192 + n ≤ g.length) && slice g 36 12 == zeros 12 && slice g 80 16 == zeros 16
    && slice g 16 20 == fit 20 Config.serial && s.life.nonceOk && slice g 48 32 == fit 32 s.life.nonce
    && Config.chainOk chain && Config.ecdsaOk (Config.certKey chain) (slice g 0 96) (slice g 96 96)
    && actions.contains (fld g 10 1)

/-- A grant or chain is refused: DT61, and its count (R742, R759). -/
def refuseAuth (ef : Nat) (s : State) : State := raiseF 61 {} ef (bumpTallyQuiet Reg.lcsRefused s)

/-- Check a grant whose ACTION is to be one of `actions`: whether it passes. The check consumes the nonce; after 8 refusals nothing
is checked (R740, R742). -/
def checkGrant (g : List Byte) (actions : List Nat) (s : State) : Bool × State :=
  if grantsOff s then (false, refuseAuth 0 s)
  else
    let (bad, ef, s) := meet 61 0xFF 0xFFFF (!grantFits s g actions) s
    let s := onLife (fun l => { l with nonceOk := false }) s
    if bad then (false, refuseAuth ef (onLife (fun l => { l with refusals := l.refusals + 1 }) s)) else (true, s)

/-- The certificate chain of PROVISION is accepted (R738). -/
def chainFits (s : State) (c : List Byte) : Bool :=
  Config.chainOk c && s.life.heldSalt.isSome && Config.certKey c == Config.attestQ (s.life.heldSalt.getD [])
    && Config.certSerial c == fit 20 Config.serial

/-! ## The lifecycle word (R732, R739) -/

/-- VALUE of the lifecycle triad word (R732). -/
def lifeValue (l : Life) : List Byte :=
  pack [(1, l.lstate.code), (1, b2n l.vault), (2, 0), (8, l.since), (8, l.vaultFrame), (4, 0)]

/-- Write the lifecycle word with what the state now holds (R739). -/
def commitLife (s : State) : State := writeTriad 1 0 (lifeValue s.life) s

/-- Take a new lifecycle state, from the word's commit on (R732, R739). -/
def enterLife (l : LState) (s : State) : State :=
  commitLife (onLife (fun x => { x with lstate := l, since := s.cad.frame }) s)

/-- A lifecycle transition: the word, the end of any debug session, and the Mode notice (R739, R750, R757). -/
def transition (l : LState) (s : State) : State := modeNotice (modes s) 2 (setLevel .closed (enterLife l s))

/-- Disable every enabled namespace key slot (R498, R743). -/
def disableSlots (s : State) : State :=
  (tkeys s.pith.triads).foldl (fun s k =>
    if k / 65536 = 2 ∧ k % 65536 ≥ 2 ∧ (keySlot s (k % 65536)).1 then writeSlot (k % 65536) false 3 (k % 65536 - 1) [] s else s) s

/-- Entry to RETURNED (R743). -/
def enterReturned (s : State) : State :=
  let prev := modes s
  let s := enterLife .returned (onLife (fun l => { l with vault := false }) s)
  modeNotice prev 2 (setLevel .closed (disableSlots s))

/-! ## Commands (R734 to R739) -/

/-- The lifecycle commands of R734. -/
def lcsListed (s : State) (op : Nat) : Bool :=
  let l := s.life.lstate
  match op with
  | 1 => l == .blank
  | 2 => l == .blank
  | 3 => l == .provisioned
  | 4 => l == .provisioned || l == .sealed
  | 5 => l == .blank || l == .provisioned || l == .sealed
  | 6 => l == .returned
  | 7 => l != .scrapped
  | _ => false

/-- The value of R735 that confirms a command, if it needs one. -/
def lcsConfirmValue (op : Nat) : Option Nat := match op with
  | 3 => some 0x4C414553
  | 4 => some 0x544C4156
  | 5 => some 0x4E525452
  | 6 => some 0x50415253
  | _ => none

/-- R736 holds: the command is busy. -/
def lcsBusy (s : State) (op : Nat) : Bool :=
  op != 7 && (s.brc.active || s.life.busy || s.life.chal || ((op == 5 || op == 6) && (!s.rge.flights.isEmpty || !s.cmd.nvme.held.isEmpty || !s.dsp.runs.isEmpty)))

/-- End a lifecycle command with a result code. -/
def lcsEnd (code : Nat) (s : State) : State := onLife (fun l => { l with busy := false, op := 0, done := true, code := code }) s

/-- End a refused command, leaving one that is in progress as it is. -/
def lcsStop (code : Nat) (s : State) : State := onLife (fun l => { l with done := true, code := code }) s

/-- The bytes of `LCS_WIN` that a command takes. -/
def lcsBytes (s : State) (most : Nat) : List Byte := slice s.life.win 0 (min most (bits (word s Reg.lcsLen) 12 0))

/-- The effect of a command whose checks have passed (R737 to R740, R743, R744, R746). -/
def lcsEffect (op : Nat) (s : State) : State := match op with
  | 1 =>
    let (salt, s) := random 16 s
    setWord Reg.lcsLen 97 (onLife (fun l =>
      { l with prepared := true, heldSalt := some salt, win := patch l.win 0 (fit 97 (Config.attestQ salt)) }) s)
  | 2 =>
    let salt := s.life.heldSalt.getD []
    let s := setParams (tput 0x700 (lcsBytes s 4092) s.pith.params) s
    transition .provisioned (writeSlot 1 true 2 0 salt s)
  | 3 => transition .sealed s
  | 4 =>
    if s.life.vault then s
    else
      let s := withModes 1 (fun s => commitLife (onLife (fun l => { l with vault := true, vaultFrame := s.cad.frame }) s)) s
      if s.dbg.level = .full then setLevel .observe s else s
  | 5 => enterReturned s
  | 6 => transition .scrapped (onLife (fun l => { l with drkCut := true }) s)
  | _ => s

/-- What a command must wait for: the Pith Array's supply where it writes there, the random generator where it draws (R505,
R792). -/
def lcsWaits (s : State) (op : Nat) : Bool :=
  if op = 1 then !rngReady s else !s.pins.vppOk && !(op == 4 && s.life.vault)

/-- CHALLENGE draws its nonce, or waits for the random generator; a command in progress goes on beside it (R736, R740). -/
def challenge (s : State) : State :=
  if rngReady s then lcsStop 0 (newNonce (onLife (fun l => { l with chal := false }) s))
  else onLife (fun l => { l with chal := true, done := false }) s

/-- Carry a command out, or leave it in progress until what it needs is there. One that went on past a reset into a state R734 does
not list ends with code 1; a PROVISION whose held salt a zeroization or a reset took away meanwhile ends with code 2: its chain is no
longer one over that salt's key (R738). -/
def lcsRun (op : Nat) (s : State) : State :=
  if op = 7 then challenge s
  else if !lcsListed s op then lcsEnd 1 s
  else if op = 2 ∧ s.life.heldSalt.isNone then lcsEnd 2 s
  else if lcsWaits s op then onLife (fun l => { l with busy := true, op := op, done := false }) s else lcsEnd 0 (lcsEffect op s)

/-- The command in progress goes on, and a CHALLENGE that waits. -/
def lcsContinue (s : State) : State :=
  let s := if s.life.chal then challenge s else s
  if s.life.busy then lcsRun s.life.op s else s

/-- The chain or grant that a command needs (R734): whether it passes. -/
def lcsAuth (op : Nat) (s : State) : Bool × State :=
  if op = 2 then
    let (bad, ef, s) := meet 61 0xFF 0xFFFF (!chainFits s (lcsBytes s 4092)) s
    if bad then (false, refuseAuth ef s) else (true, s)
  else if op = 5 ∧ s.life.vault then checkGrant (lcsBytes s 4096) [3] s
  else (true, s)

/-- A lifecycle command: its result code in the order of R833, and its effect. The command clears `LCS_CONFIRM`, whatever its
outcome (R735). -/
def lcsCommand (op : Nat) (s : State) : State :=
  let conf := s.life.confirm
  let s := onLife (fun l => { l with confirm := none }) s
  if !lcsListed s op ∨ (op = 2 ∧ !s.life.prepared) then lcsStop 1 s
  else if (lcsConfirmValue op).isSome ∧ conf ≠ lcsConfirmValue op then lcsStop 4 s
  else if lcsBusy s op then lcsStop 3 s
  else
    let (ok, s) := lcsAuth op s
    if ok then lcsRun op s else lcsStop 2 s

/-- A write of `LCS_CMD`: under LOCK only CHALLENGE is taken (R758). -/
def lcsCmdWrite (op : Nat) (s : State) : State :=
  if flagOf s Reg.lcsCtrl 31 ∧ op ≠ 7 then setRsvd Reg.lcsCmd (onLife (fun l => { l with confirm := none }) s) else lcsCommand op s

/-- LCS_PREPARE: OP 1 (R737). -/
def execLcsPrepare (t : Nat) (s : State) : Host.Outcome State Fault Refusal := .next (lcsCmdWrite 1 (tick t s))

/-- LCS_PROVISION: OP 2 (R738). -/
def execLcsProvision (t : Nat) (s : State) : Host.Outcome State Fault Refusal := .next (lcsCmdWrite 2 (tick t s))

/-- LCS_SEAL: OP 3 (R739). -/
def execLcsSeal (t : Nat) (s : State) : Host.Outcome State Fault Refusal := .next (lcsCmdWrite 3 (tick t s))

/-- LCS_VAULT_ENTER: OP 4 (R739, R746). -/
def execLcsVaultEnter (t : Nat) (s : State) : Host.Outcome State Fault Refusal := .next (lcsCmdWrite 4 (tick t s))

/-- LCS_RETURN: OP 5 (R739, R743). -/
def execLcsReturn (t : Nat) (s : State) : Host.Outcome State Fault Refusal := .next (lcsCmdWrite 5 (tick t s))

/-- LCS_SCRAP: OP 6 (R739, R744). -/
def execLcsScrap (t : Nat) (s : State) : Host.Outcome State Fault Refusal := .next (lcsCmdWrite 6 (tick t s))

/-- LCS_CHALLENGE: OP 7 (R740). -/
def execLcsChallenge (t : Nat) (s : State) : Host.Outcome State Fault Refusal := .next (lcsCmdWrite 7 (tick t s))

/-- LCS_SNAP_NOW: the copy of R759. The write is one to block LCS, so a confirmation no longer holds (R735). -/
def execLcsSnapNow (t : Nat) (s : State) : Host.Outcome State Fault Refusal :=
  .next (snapAll [Reg.lcsRefused] (onLife (fun l => { l with confirm := none }) (tick t s)))

/-- VPP_PITH_RANGE_CHANGE: programs and erases wait while VPP_PITH is outside its range, and go on when it is back (R792). -/
def execVppPithRangeChange (t : Nat) (ok : Bool) (s : State) : Host.Outcome State Fault Refusal :=
  let s := { tick t s with pins := { s.pins with vppOk := ok } }
  .next (if ok then lcsContinue (runPuts ((List.range 8).foldl (fun s b => startNext b s) s)) else s)

end Sys2Proof.Machine
end

