-- ==== Sys2Proof/Machine/Gate.lean ====
section
/-!
DEFINITION. The Security Gate's part of chapter 12: zeroization, re-derivation, the random generator, export keys, the Crypto
control register, and SPDM (R496, R499 to R512).
-/
namespace Sys2Proof.Machine

/-! ## Zeroization (R507 to R509) -/

/-- A status bit of a register that reads live state is kept in its stored word as well, where it is sticky (RS). -/
def setAlarm (s : State) : State := setFlag Reg.cryStatus 1 s

/-- The staging registers of a function's export key are zeroed. -/
def clearStaging (f : Nat) (s : State) : State := (List.range 8).foldl (fun s i => setWord (Reg.fnkExpkey f i) 0 s) s

/-- Every key, context and buffer is overwritten with zeros: saved contexts are poisoned, jobs in flight end with 0x0407, and
the export contexts that hold a copy of an export key go (R507, R508; log 43). -/
def zeroize (s : State) : State :=
  let fs := tkeys s.rge.funcs
  let s := s.cry.jobs.foldl (fun s p => cjFail p.1 p.2 s) s
  let s := (tkeys s.cry.ctxs).foldl (fun s k => poisonCtx k s) s
  let s := fs.foldl (fun s f => clearStaging f s) s
  let s := onCmd (fun q => { q with exports := q.exports.filter (·.key.isEmpty) }) s
  let s := { s with life := { s.life with heldSalt := none } }
  onCry (fun c => { c with expKeys := [], fnSalts := [], zeroized := c.zeroized + 1, rederive := true,
                           closed := c.closed || decide (c.zeroized + 1 ≥ 4) }) s

/-- TAMPER_ALARM: sensor `n` alarms (R507). -/
def execTamperAlarm (t n : Nat) (s : State) : Host.Outcome State Fault Refusal :=
  let s := tick t s
  let (_, ef, s) := meet 58 0xFF n true s
  let s := zeroize (onCry (fun c => { c with lastAlarm := s.now }) (setAlarm s))
  .next (bumpTallyQuiet Reg.cryAlarms (raiseF 58 { unit := n } ef s))

/-- KEY_REDERIVE: no sensor has alarmed for 100 µs. The DRBG is reseeded and the FN_SALTs are drawn anew; the keys of R493
follow from their slots (R508). A closed Security Gate derives nothing (R509). -/
def execKeyRederive (t : Nat) (s : State) : Host.Outcome State Fault Refusal :=
  let s := tick t s
  if !s.cry.rederive ∨ s.now - s.cry.lastAlarm < 100000 then .next s
  else
    let s := draw (onCry (fun c => { c with rederive := false }) s)
    if s.cry.closed then .next (lcsContinue s)
    else .next (lcsContinue (((tkeys s.rge.funcs).filter fun f => (funcOf s f).st == .ready).foldl (fun s f => drawSalt f s) s))

/-! ## The random generator (R505) -/

/-- RNG_HEALTH_FAIL: a health test fails, and output is withheld. -/
def execRngHealthFail (t : Nat) (s : State) : Host.Outcome State Fault Refusal :=
  let (go, s) := detect 60 {} true (tick t s)
  let s := bumpTallyQuiet Reg.cryRngfail s
  .next (if go then onCry (fun c => { c with rngOk := false }) s else s)

/-- RNG_RECOVERED: 1,024 consecutive samples pass. Functions that became ready meanwhile draw their FN_SALT (R496). -/
def execRngRecovered (t : Nat) (s : State) : Host.Outcome State Fault Refusal :=
  let s := onCry (fun c => { c with rngOk := true }) (tick t s)
  let s := ((tkeys s.rge.funcs).filter fun f => (funcOf s f).st == .ready && (tget f s.cry.fnSalts).isNone).foldl (fun s f => drawSalt f s) s
  .next (lcsContinue s)

/-- DRBG_RESEED: what the generator gives from now on comes from fresh noise. -/
def execDrbgReseed (t : Nat) (s : State) : Host.Outcome State Fault Refusal := .next (draw (tick t s))

/-! ## Registers (R499, R511, R512) -/

/-- EXPORT_KEY_SET: FNK_CTRL.SET of function `f` is written with 1 (R499). -/
def execExportKeySet (t f : Nat) (s : State) : Host.Outcome State Fault Refusal :=
  let s := tick t s
  if !fnReady s f || s.boot.plain then .next s
  else
    let key := (List.range 8).flatMap fun i => le 4 (word s (Reg.fnkExpkey f i)).toNat
    .next (clearStaging f (onCry (fun c => { c with expKeys := tput f key c.expKeys }) s))

/-- EXPORT_KEY_CLEAR: FNK_CTRL.CLEAR of function `f` is written with 1 (R499). -/
def execExportKeyClear (t f : Nat) (s : State) : Host.Outcome State Fault Refusal :=
  let s := tick t s
  if !fnReady s f || s.boot.plain then .next s else .next (clearStaging f (onCry (fun c => { c with expKeys := tdel f c.expKeys }) s))

/-- A write to CRY_CTRL: a 0 for DUMMY_EN or SHUFFLE_EN outside BLANK leaves that field and sets CM_WR (R511). -/
def cryCtrlWrite (w : Word) (be : Nat) (s : State) : State :=
  let low := nbit be 0 && s.life.lstate != .blank
  let keep := fun (i : Nat) => low && !nbit w.toNat i
  let w' := if keep 0 then setBits w 0 0 (fieldOf s Reg.cryCtrl 0 0) else w
  let w' := if keep 1 then setBits w' 1 1 (fieldOf s Reg.cryCtrl 1 1) else w'
  let s := writeCommon Reg.cryCtrl w' be s
  if keep 0 || keep 1 then setFlag Reg.cryStatus 30 s else s

/-- CRY_CTRL_WRITE. -/
def execCryCtrlWrite (t : Nat) (w : Word) (be : Nat) (s : State) : Host.Outcome State Fault Refusal :=
  .next (cryCtrlWrite w be (tick t s))

/-- CRY_SNAP_NOW (R512). -/
def execCrySnapNow (t : Nat) (s : State) : Host.Outcome State Fault Refusal :=
  .next (snapAll ([Reg.cryAlarms, Reg.cryRngfail]
    ++ [0, 1, 2, 3].flatMap fun n => [Reg.cryCipherLo n, Reg.cryDigestLo n, Reg.cryBusyLo n, Reg.cryGcmfailLo n]) (tick t s))

/-! ## SPDM (R503, R504, R781)

The message formats are those of DSP0274, which R504 cites. PRESUMED (log 42). -/

/-- The certificate chain of slot 0 (R502, R698). -/
def certChain (s : State) : List Byte := tgetD [] 0x700 s.pith.params

/-- A response is sent, and joins the messages that a later signature covers. -/
def spdmSend (req resp : List Byte) (s : State) : State :=
  emit (.doe resp) (onCry (fun c => { c with spdm := c.spdm ++ req ++ resp }) s)

/-- ERROR with a code. -/
def spdmError (req : List Byte) (code : Nat) (s : State) : State :=
  emit (.doe (pack [(1, fld req 0 1), (1, 0x7F), (1, code), (1, fld req 1 1)])) s

/-- A response's header. -/
def spdmHead (req : List Byte) (code p1 p2 : Nat) : List Byte := pack [(1, fld req 0 1), (1, code), (1, p1), (1, p2)]

/-- The version of a request is one that R504 supports. -/
def spdmVersion (req : List Byte) : Bool := fld req 0 1 == 0x12 || fld req 0 1 == 0x13

/-- Answer a request from boot step 8 on, when its version is supported. -/
def spdmServe (req : List Byte) (f : State → State) (s : State) : Host.Outcome State Fault Refusal :=
  if !s.boot.cfgReady then .next s
  else if !spdmVersion req then .next (spdmError req 0x41 s)
  else .next (f s)

/-- A request that needs the attestation key: UnsupportedRequest without one (R504). -/
def spdmKeyed (req : List Byte) (f : State → State) (s : State) : Host.Outcome State Fault Refusal :=
  spdmServe req (fun s => if attestOk s then f s else spdmError req 7 s) s

/-- SPDM_GET_VERSION: versions 1.2 and 1.3. -/
def execSpdmGetVersion (t : Nat) (req : List Byte) (s : State) : Host.Outcome State Fault Refusal :=
  let s := tick t s
  if !s.boot.cfgReady then .next s
  else .next (spdmSend req (pack [(1, 0x10), (1, 4), (1, 0), (1, 0), (1, 0), (1, 2), (2, 0x1200), (2, 0x1300)])
    (onCry (fun c => { c with spdm := [] }) s))

/-- SPDM_GET_CAPABILITIES: CERT_CAP, CHAL_CAP, and MEAS_CAP with signature. -/
def execSpdmGetCapabilities (t : Nat) (req : List Byte) (s : State) : Host.Outcome State Fault Refusal :=
  spdmServe req (spdmSend req (spdmHead req 0x61 0 0
    ++ pack [(1, 0), (1, 0), (2, 0), (4, 0x16), (4, Config.spdmSizes.1), (4, Config.spdmSizes.2)])) (tick t s)

/-- SPDM_NEGOTIATE_ALGORITHMS: ECDSA P-384 and SHA-384. -/
def execSpdmNegotiateAlgorithms (t : Nat) (req : List Byte) (s : State) : Host.Outcome State Fault Refusal :=
  spdmServe req (spdmSend req (spdmHead req 0x63 0 0
    ++ pack [(2, 36), (1, 1), (1, 0), (4, 4), (4, 0x80), (4, 2), (12, 0), (1, 0), (1, 0), (2, 0)])) (tick t s)

/-- SPDM_GET_DIGESTS. -/
def execSpdmGetDigests (t : Nat) (req : List Byte) (s : State) : Host.Outcome State Fault Refusal :=
  spdmKeyed req (fun s => spdmSend req (spdmHead req 1 0 1 ++ fit 48 (Config.sha384 (Config.spdmChain (certChain s)))) s) (tick t s)

/-- SPDM_GET_CERTIFICATE: a portion of the chain of slot 0. -/
def execSpdmGetCertificate (t : Nat) (req : List Byte) (s : State) : Host.Outcome State Fault Refusal :=
  spdmKeyed req (fun s =>
    let chain := Config.spdmChain (certChain s)
    let off := fld req 4 2
    let part := (chain.drop off).take (fld req 6 2)
    if fld req 2 1 % 16 ≠ 0 ∨ off ≥ chain.length then spdmError req 1 s
    else spdmSend req (spdmHead req 2 0 0 ++ pack [(2, part.length), (2, chain.length - off - part.length)] ++ part) s) (tick t s)

/-- A signature as SPDM carries it: r and s big-endian. -/
def spdmSign (msg : List Byte) (s : State) : List Byte × State :=
  let (g, s) := attestSign msg s
  ((slice g 0 48).reverse ++ (slice g 48 48).reverse, s)

/-- DMTF measurement value type of a block of R781. -/
def measType (i : Nat) : Nat := if i = 1 then 0 else if i ≤ 3 then 1 else 2

/-- A measurement block. -/
def measBlock (s : State) (i : Nat) : List Byte :=
  pack [(1, i), (1, 1), (2, 51), (1, measType i), (2, 48)] ++ fit 48 (tgetD [] i s.boot.measurements)

/-- What follows the blocks: the requester's context in version 1.3. -/
def reqContext (req : List Byte) (o : Nat) : List Byte := if fld req 0 1 = 0x13 then slice req o 8 else []

/-- SPDM_CHALLENGE: signed with the attestation key. It waits while the random generator gives no output (R503, R505). -/
def execSpdmChallenge (t : Nat) (req : List Byte) (s : State) : Host.Outcome State Fault Refusal :=
  let s := tick t s
  if !rngReady s then .next s
  else spdmKeyed req (fun s =>
    if fld req 2 1 ≠ 0 then spdmError req 1 s
    else
      let (nonce, s) := random 32 s
      let sum := if fld req 3 1 = 0 then [] else fit 48 (Config.sha384 ([1, 2, 3, 4, 5].flatMap (measBlock s)))
      let body := spdmHead req 3 0 1 ++ fit 48 (Config.sha384 (Config.spdmChain (certChain s))) ++ nonce ++ sum ++ pack [(2, 0)]
        ++ reqContext req 36
      let (sig, s) := spdmSign (s.cry.spdm ++ req ++ body) s
      spdmSend req (body ++ sig) s) s

/-- SPDM_GET_MEASUREMENTS: the five boot measurement blocks, signed on request where an attestation key exists (R504, R781). -/
def execSpdmGetMeasurements (t : Nat) (req : List Byte) (s : State) : Host.Outcome State Fault Refusal :=
  let s := tick t s
  if !rngReady s then .next s
  else spdmServe req (fun s =>
    let op := fld req 3 1
    let l := if op = 0 then [] else if op = 0xFF then [1, 2, 3, 4, 5] else if op ≤ 5 then [op] else []
    if op > 5 ∧ op ≠ 0xFF then spdmError req 1 s
    else
      let rec_ := l.flatMap (measBlock s)
      let (nonce, s) := random 32 s
      let sign := nbit (fld req 2 1) 0
      let body := spdmHead req 0x60 (if op = 0 then 5 else 0) 0 ++ pack [(1, l.length), (3, rec_.length)] ++ rec_ ++ nonce
        ++ pack [(2, 0)] ++ reqContext req (if sign then 37 else 4)
      if sign && attestOk s then
        let (sig, s) := spdmSign (s.cry.spdm ++ req ++ body) s
        spdmSend req (body ++ sig) s
      else spdmSend req body s) s

end Sys2Proof.Machine
end

