-- ==== Sys2Proof/Machine/DataMovers.lean ====
section
/-!
DEFINITION. Data Mover channels (R655 to R667), host windows (R617, R631), and the DRAM channels' own work (R634 to R637, R651 to
R654).
-/
namespace Sys2Proof.Machine

/-! ## Descriptors (R660, R662) -/

def dmOp (d : List Byte) : Nat := fld d 0 1
def dmFlag (d : List Byte) (i : Nat) : Bool := nbit (fld d 1 1) i
def dmFunc (d : List Byte) : Nat := fld d 2 2
def dmLen (d : List Byte) : Nat := fld d 4 4
def dmSrc (d : List Byte) : Nat := fld d 8 8
def dmDst (d : List Byte) : Nat := fld d 16 8
def dmRes (d : List Byte) : Nat := fld d 24 8
def dmStream (d : List Byte) : Nat := fld d 36 2
def dmRecord (d : List Byte) : Nat := fld d 40 6
def dmRoff (d : List Byte) : Nat := fld d 48 8

/-- A reserved bit, or a field that the OP or the channel does not use, is not 0 (item 2 of R662). -/
def dmReserved (guest : Bool) (d : List Byte) : Bool :=
  let op := dmOp d
  fld d 1 1 / 4 % 16 != 0 || (guest && fld d 1 1 / 64 != 0) || fld d 38 2 != 0 || fld d 46 2 != 0 || fld d 56 8 != 0
    || (guest && dmFunc d != 0)
    || (decide (1 ≤ op) && decide (op ≤ 5)
        && ((dmFunc d != 0 && !(op == 2 || op == 3 || op == 4)) || (dmSrc d != 0 && (op == 4 || op == 5))
            || (fld d 32 4 != 0 && !dmFlag d 1) || (op != 4 && (dmStream d != 0 || dmRecord d != 0 || dmRoff d != 0))))

/-- `n` bytes of host memory at `a` lie in an enabled host window of function `f` (R617). -/
def hostWindow (s : State) (f a n : Nat) (write : Bool) : Bool := (List.range 4).any fun i =>
  let base := (word s (Reg.dspfHwBaseLo f i)).toNat + (word s (Reg.dspfHwBaseHi f i)).toNat * 2 ^ 32
  flagOf s (Reg.dspfHw f i) 0 && (!write || flagOf s (Reg.dspfHw f i) 1)
    && inside a n base ((word s (Reg.dspfHwLen f i)).toNat * 4096)

/-- Every range of a guest channel's descriptor is permitted (item 4 of R662, R617). -/
def dmRangesOk (s : State) (k : Nat) (d : List Byte) : Bool :=
  let n := dmLen d
  let f := (coreFn s k).getD 0
  isHouse s k || (jobRange s k (dmRes d) 16 true && (match dmOp d with
    | 1 => jobRange s k (dmSrc d) n false && jobRange s k (dmDst d) n true
    | 2 => hostWindow s f (dmSrc d) n false && jobRange s k (dmDst d) n true
    | 3 => jobRange s k (dmSrc d) n false && hostWindow s f (dmDst d) n true
    | _ => jobRange s k (dmDst d) n true))

/-- Checks 5 to 7 of R662 on a record read for function `f` in Segment `seg`. -/
def dmRecCheck (s : State) (seg f : Nat) (d : List Byte) : Option Nat := match strmOf s (dmStream d) with
  | none => some 0x010B
  | some x =>
    if x.seg ≠ seg ∨ strmOwner s x ≠ f then some 0x010B
    else if dmRecord d ≥ x.next then some 0x010C
    else match tget (dmRecord d) x.recs with
      | none => some 0x0207
      | some r => if dmRoff d ≥ r.len then some 0x010C else none

/-- The function of a descriptor of core `k` (R660). -/
def dmFn (s : State) (k : Nat) (d : List Byte) : Nat := if isHouse s k then dmFunc d else (coreFn s k).getD 0

/-- The first status of R662 that applies to a descriptor of core `k` for channel `c`. -/
def dmCheck (s : State) (k c : Nat) (d : List Byte) : Option Nat :=
  if (tgetD {} c s.mov.chans).queue.length ≥ 8 then some 0x0406
  else if dmReserved (!isHouse s k) d then some 0x0103
  else if dmOp d < 1 ∨ dmOp d > 5 ∨ dmLen d < 1 ∨ dmLen d > 16777216 then some 0x0106
  else if !dmRangesOk s k d then some 0x0605
  else if dmOp d = 4 then dmRecCheck s (k / 4) (dmFn s k d) d
  else none

/-- The 16 bytes of a result (R663). -/
def dmBytes (status : Nat) (cmp : Option Bool) (done crc : Nat) : List Byte :=
  pack [(2, status), (2, cmpBytes cmp), (4, done), (4, crc), (4, 0)]

/-- A descriptor ends: result and event (R596, R663). -/
def dmEnd (k : Nat) (d : List Byte) (status : Nat) (cmp : Option Bool) (done crc : Nat) (s : State) : State :=
  jobResult k 5 status (dmBytes status cmp done crc) (dmRes d) (dmFlag d 0) s

/-- Change a channel. -/
def onChannel (c : Nat) (f : DmCh → DmCh) (s : State) : State :=
  onMov (fun m => { m with chans := tput c (f (tgetD {} c m.chans)) m.chans }) s

/-- A channel whose head is a host read asks host memory for more of it, as far as R165 allows. -/
def askHost (c : Nat) (s : State) : State := match (tgetD {} c s.mov.chans).queue with
  | x :: _ =>
    if dmOp x.desc ≠ 2 then s
    else
      let n := readAllow s (dmLen x.desc - x.asked)
      onChannel c (fun y => { y with queue := match y.queue with | x :: t => { x with asked := x.asked + n } :: t | [] => [] }) s
  | [] => s

/-- A channel's host read takes the bytes that have come, of those it has asked for (R666). -/
def dmTake (data : List Byte) (y : DmCh) : DmCh :=
  { y with queue := match y.queue with
      | x :: t => (if dmOp x.desc = 2 then { x with got := x.got ++ data.take (x.asked - x.got.length) } else x) :: t
      | [] => [] }

/-- Take a descriptor into a channel's queue, or end it with the status of a check that it fails. -/
def dmSubmit (k p : Nat) (d : List Byte) (s : State) : State :=
  let c := chanKey k p
  match dmCheck s k c d with
  | some st => dmEnd k d st none 0 (Config.crc32c []) s
  | none =>
    onChannel c (fun y => { y with queue := y.queue ++ [{ desc := d, func := dmFn s k d, guest := !isHouse s k, core := k,
                                                          run := (coreOf s k).run }] }) s

/-- The descriptor that core `k` submitted first is queued, if its OP passes. -/
def dmRow (t k : Nat) (f : Nat → Bool) (s : State) : Host.Outcome State Fault Refusal :=
  let s := tick t s
  match s.dxr.hands.find? (fun h => match h with | .channel c _ _ => c == k | _ => false) with
  | some (.channel _ p d) =>
    if f (dmOp d) then .next (dmSubmit k p d (popHand (fun h => match h with | .channel c _ _ => c == k | _ => false) s).2)
    else .next s
  | _ => .next s

/-- The OP is `n`, or none of R660's. -/
def dmIs (n op : Nat) : Bool := op == n || op == 0 || decide (op > 5)

/-- DM_COPY. -/
def execDmCopy (t k : Nat) (s : State) : Host.Outcome State Fault Refusal := dmRow t k (dmIs 1) s

/-- DM_HOST_READ. -/
def execDmHostRead (t k : Nat) (s : State) : Host.Outcome State Fault Refusal := dmRow t k (dmIs 2) s

/-- DM_HOST_WRITE. -/
def execDmHostWrite (t k : Nat) (s : State) : Host.Outcome State Fault Refusal := dmRow t k (dmIs 3) s

/-- DM_RECORD_READ. -/
def execDmRecordRead (t k : Nat) (s : State) : Host.Outcome State Fault Refusal := dmRow t k (dmIs 4) s

/-- DM_FILL. -/
def execDmFill (t k : Nat) (s : State) : Host.Outcome State Fault Refusal := dmRow t k (dmIs 5) s

/-! ## Transfers (R657, R661, R663 to R666) -/

/-- What a descriptor reads from its source; nothing where the source ends as a bus error, or is not there any more. -/
def dmSource (s : State) (seg : Nat) (x : DmDesc) : Nat ⊕ List Byte :=
  let d := x.desc
  let n := dmLen d
  match dmOp d with
  | 2 => .inr (fit n x.got)
  | 4 => match strmOf s (dmStream d) with
    | some y => (match tget (dmRecord d) y.recs with
      | some r => if r.lost then .inl 0x0201 else if r.damaged || (recContent r).isNone then .inl 0x0203
        else .inr (((recBytes true false r).drop (dmRoff d)).take n)
      | none => .inl 0x0207)
    | none => .inl 0x010B
  | 5 => .inr (zeros n)
  | _ => if mapOk s seg (dmSrc d) n false then .inr (segBytes s (if x.guest then some x.func else none) seg (dmSrc d) n) else .inl 0x0201

/-- The head of a channel leaves its queue; the channel halts or goes on. -/
def dmPop (c : Nat) (halt : Bool) (s : State) : State :=
  onChannel c (fun y => { y with queue := y.queue.drop 1, halted := halt, retries := 0 }) s

/-- Whole units of 4 KiB among `n` bytes, of a transfer of `len`. -/
def dmWhole (n len : Nat) : Nat := if n ≥ len then len else n / 4096 * 4096

/-- A descriptor fails after `done` bytes: it ends, and its channel halts. A third failure of R412, which raised with EFLAGS `third`, on a guest
channel ends its run (R419, R666). -/
def dmFail (c : Nat) (x : DmDesc) (status done : Nat) (third : Option Nat) (s : State) : State :=
  let s := dmEnd x.core x.desc status none done
    (Config.crc32c (match dmSource s (c / 64) x with | .inr l => l.take done | .inl _ => [])) (dmPop c true s)
  match third with
  | none => s
  | some ef =>
    let s := exhaustF ef status 0 s
    match (if x.guest then x.run else none) with
    | some r => endRun r 0x0603 0 0 0 0 0 s
    | none => s

/-- One attempt at a unit fails with detector `dt`, raised with EFLAGS `ef`: it is read again, twice at most. The count of units read again raises
DT33 at its maximum, unless DT33 has just been raised for it (R412, R416, R666, R669). -/
def dmRetry (c : Nat) (x : DmDesc) (status done dt ef : Nat) (s : State) : State :=
  let y := tgetD {} c s.mov.chans
  if y.retries < 2 then
    let s := onChannel c (fun y => { y with retries := y.retries + 1 }) s
    if dt = 33 then bumpTallyQuiet (Reg.dmvRetry (c / 64)) s else bumpTally (Reg.dmvRetry (c / 64)) 33 { seg := c / 64 } s
  else dmFail c x status done (some ef) s

/-- A transfer ends well: its bytes are written, then its result (R663). -/
def dmFinish (c : Nat) (x : DmDesc) (l : List Byte) (s : State) : State :=
  let d := x.desc
  let seg := c / 64
  let s := if dmOp d = 3 then emit (.host x.func (dmDst d) l) s else writeMem seg (dmDst d) l s
  let s := bump (Reg.dmvWrLo seg) l.length (bump (Reg.dmvRdLo seg) (if dmOp d = 5 then 0 else l.length) s)
  let crc := Config.crc32c l
  let ok := crc == fld d 32 4
  dmEnd x.core d (if dmFlag d 1 && !ok then 0x0203 else 0) (if dmFlag d 1 then some ok else none) l.length crc (dmPop c false s)

/-- What a record read does on its way: deciphering, decompression, the copy of the record (R264, R265). The flag says that no whole copy
could be made. -/
def dmRead (x : DmDesc) (s : State) : Bool × State :=
  match (if dmOp x.desc = 4 then strmOf s (dmStream x.desc) else none) with
  | none => (false, s)
  | some y => match tget (dmRecord x.desc) y.recs with
    | some r =>
      let (bad, s) := countReads y false false [(dmRecord x.desc, r)] s
      (bad.isSome, s)
    | none => (false, s)

/-- The order of a descriptor's units: Class S, then house, then guest (R658). -/
def dmGroup (x : DmDesc) : Nat := if x.guest then 2 else if fld x.desc 1 1 / 64 = 0 then 0 else 1

/-- The descriptor at a channel's head that can go on: the channel is not halted, and a host read has its data. -/
def dmRunnable (y : DmCh) : Option DmDesc := match y.queue with
  | x :: _ => if y.halted ∨ (dmOp x.desc = 2 ∧ x.got.length < dmLen x.desc) then none else some x
  | [] => none

/-- Channels of a Segment that can go on, as channel and group. -/
def dmReady (s : State) (seg : Nat) : List (Nat × Nat) :=
  (tfilter (fun k _ => k / 64 == seg) s.mov.chans).filterMap fun p => (dmRunnable p.2).map fun x => (p.1, dmGroup x)

/-- The engines may be at the end of a descriptor of channel `k` with `units` units written before: no channel of an earlier group can go on, so
that the unit boundary gave it its turn; or they serve it, and Class S work takes them only after the unit in progress, which is its last
(R162, R658). -/
def dmTurn (s : State) (seg k units : Nat) (x : DmDesc) : Bool :=
  let l := dmReady s seg
  (l.all fun c => decide (dmGroup x ≤ c.2))
    || (tget seg s.mov.serving == some k && (!(l.any fun c => c.2 == 0) || decide (dmLen x.desc ≤ (units + 1) * 4096)))

/-- The channel that the engines turn to next: of the earliest group, the one after `k` in turn (R658). -/
def dmNext (seg k : Nat) (s : State) : State :=
  let l := dmReady s seg
  let g := l.foldl (fun m c => min m c.2) 3
  let dist := fun (c : Nat × Nat) => (c.1 + 64 - k % 64 - 1) % 64
  let pick := (l.filter fun c => c.2 == g).foldl (fun (m : Option (Nat × Nat)) c => match m with
    | none => some c
    | some b => if dist c < dist b then some c else some b) none
  onMov (fun m => { m with serving := match pick with | some c => tput seg c.1 m.serving | none => tdel seg m.serving }) s

/-- What a descriptor's reads met in the Segment's DRAM and SRAM (R405, R407). The flag says that a word was uncorrectable, which fails the
attempt. DEDUCED (log 136): data in DRAM that no other copy can mend fails it as a poisoned word of SRAM does. -/
def dmFinds (seg : Nat) (dram : List DramFind) (sram : List SramFind) (s : State) : Bool × State :=
  (dram.any (·.bad) || sram.any (·.dbl), sram.foldl scrubFinding (dramFindings seg dram s))

/-- DM_DESCRIPTOR_COMPLETE: channel `c` of Segment `seg` ends an attempt at the descriptor at its head. `differ` says that a
unit's CRC differed at the destination; `units` units were written before that one, or before Class S work came; `dram` and `sram` are what its
reads met. A host read has to have all its data, which HOST_READ_COMPLETION brings, and the channel its turn (R405, R407, R658, R662 to R667). -/
def execDmDescriptorComplete (t seg c : Nat) (differ : Bool) (units : Nat) (dram : List DramFind) (sram : List SramFind) (s : State) :
    Host.Outcome State Fault Refusal :=
  let s := tick t s
  let k := seg * 64 + c % 64
  let y := tgetD {} k s.mov.chans
  match y.queue with
  | [] => .next s
  | x :: _ =>
    let n := dmLen x.desc
    if (dmRunnable y).isNone ∨ sleepOf s seg ≠ 0 ∨ !dmTurn s seg k units x then .next s
    else
      let s := dmNext seg k s
      let done := dmWhole (min (units * 4096) (n - 1)) n
      let (lost, s) := dmFinds seg dram sram s
      let ef := detectEf 33 { seg := seg, func := x.func } differ s
      let (bad, s) := detect 33 { seg := seg, func := x.func } differ s
      if bad then .next (dmRetry k x 0x0202 done 33 ef s)
      else if lost then .next (dmRetry k x 0x0201 done 51 0 s)
      else
        let (torn, s) := dmRead x s
        match dmSource s seg x with
        | .inl st =>
          if st = 0x0201 ∧ dmOp x.desc ≠ 4 then .next (dmRetry k x st done 8 0 (raise 8 { seg := seg, func := x.func } s))
          else .next (dmFail k x st 0 none s)
        | .inr l =>
          if torn then .next (dmFail k x 0x0203 0 none s)
          else if dmOp x.desc ≠ 3 ∧ !mapOk s seg (dmDst x.desc) l.length true then
            .next (dmRetry k x 0x0202 0 8 0 (raise 8 { seg := seg, func := x.func } s))
          else .next (dmFinish k x l s)

/-- The value that core `k` stored to RESUME of a channel port, when it passes. -/
def takeResume (k : Nat) (f : Nat → Bool) (s : State) : Option Nat × State :=
  match s.dxr.hands.find? (fun h => match h with | .resume c _ _ => c == k | _ => false) with
  | some (.resume _ p v) =>
    if f v then (some (chanKey k p), (popHand (fun h => match h with | .resume c _ _ => c == k | _ => false) s).2) else (none, s)
  | _ => (none, s)

/-- DM_RESUME: a store of 0 to RESUME restarts a halted channel. A value other than 0 and 1 has no effect (R666). -/
def execDmResume (t k : Nat) (s : State) : Host.Outcome State Fault Refusal :=
  let s := tick t s
  match s.dxr.hands.find? (fun h => match h with | .resume c _ _ => c == k | _ => false) with
  | some (.resume _ _ v) => match takeResume k (· != 1) s with
    | (some c, s) => .next (if v = 0 then onChannel c (fun y => { y with halted := false }) s else s)
    | (none, s) => .next s
  | _ => .next s

/-- DM_ABANDON: a store of 1 to RESUME ends every queued descriptor with 0x0109 and leaves the channel idle (R666). -/
def execDmAbandon (t k : Nat) (s : State) : Host.Outcome State Fault Refusal :=
  match takeResume k (· == 1) (tick t s) with
  | (some c, s) =>
    let l := (tgetD {} c s.mov.chans).queue
    let s := onChannel c (fun y => { y with queue := [], halted := false, retries := 0 }) s
    .next (l.foldl (fun s x => dmEnd x.core x.desc 0x0109 none 0 (Config.crc32c []) s) s)
  | (none, s) => .next s

/-- DMV_SNAP_NOW (R669). -/
def execDmvSnapNow (t n : Nat) (s : State) : Host.Outcome State Fault Refusal := .next (strobe n (Reg.dmvSnap n) (tick t s))

/-! ## Host windows (R631) -/

/-- A write to a host-window register of function `f`, at offset `o` of block DSPF. -/
def hwWrite (f o : Nat) (w : Word) (be : Nat) (s : State) : State :=
  let a := bar0 f + 0x200 + o % 0x40 / 4 * 4
  if tany (fun _ x => x.fn == f) s.dsp.runs then flagReserved a w be (setFlag (Reg.dspfStatus f) 30 s)
  else writeCommon a w be s

/-- DSPF_HW_WRITE. -/
def execDspfHwWrite (t f o : Nat) (w : Word) (be : Nat) (s : State) : Host.Outcome State Fault Refusal :=
  let s := tick t s
  .next (if fnReady s f && !s.boot.plain then hwWrite f o w be s else s)

/-! ## The DRAM channels (R634 to R637, R651 to R654) -/

/-- DRAM_ZERO_FILL: the zeros that the controller writes from training step 9 on reach the channel's end (R636). -/
def execDramZeroFill (t n : Nat) (s : State) : Host.Outcome State Fault Refusal :=
  let s := tick t s
  if (dramOf s n).filling then .next (onDram n (fun d => { d with filling := false }) s) else .next s

/-- A training step is a unit of work of the DRAM channel's token (R323 to R325); BRACE lets none start, nor does a waiting Class S request (R637,
R667). -/
def dramTrain (n : Nat) (due : Bool) (name : String) (f : Dram → Dram) (s : State) : State :=
  if !(dramOf s n).trained ∨ !due ∨ s.brc.active ∨ sleepOf s n > 1 ∨ classSWaits (dramOf s n) then s
  else match useTokens 1 [dramRes n] s with
    | (true, s) => emit (.dram n name) (onDram n f s)
    | (false, s) => s

/-- DRAM_ZQ_CALIBRATION: `DRM_TRAIN.ZQ` ms have passed (R637). -/
def execDramZqCalibration (t n : Nat) (s : State) : Host.Outcome State Fault Refusal :=
  let s := tick t s
  .next (dramTrain n (decide (s.now - (dramOf s n).zqAt ≥ fieldOf s Reg.drmTrain 15 0 * 1000000)) "ZQ" (fun d => { d with zqAt := s.now }) s)

/-- DRAM_RECENTRE: the components are at `temp` kelvin, more than `DRM_TRAIN.DRIFT` from their last re-centring (R637). -/
def execDramRecentre (t n temp : Nat) (s : State) : Host.Outcome State Fault Refusal :=
  let s := tick t s
  .next (dramTrain n (decide (absDiff temp (dramOf s n).centred > fieldOf s Reg.drmTrain 23 16)) "DQ" (fun d => { d with centred := temp }) s)

/-- DRAM_REFRESH: a refresh interval elapses. It may be postponed, four at most; otherwise it and those postponed are issued, and
each bank's activation count falls and its row closes as JEDEC gives (R651, R652; PRESUMED by RAAIMT for each, log 44). -/
def execDramRefresh (t n : Nat) (postpone : Bool) (s : State) : Host.Outcome State Fault Refusal :=
  let s := tick t s
  let d := dramOf s n
  if !d.trained ∨ sleepOf s n > 1 then .next s
  else if postpone ∧ d.postponed < 4 then .next (onDram n (fun d => { d with postponed := d.postponed + 1 }) s)
  else
    let k := d.postponed + 1
    .next (emit (.dram n "REF") (onDram n (fun d =>
      { d with postponed := 0, banks := tmap (fun _ b => { b with raa := b.raa - k * d.raaimt, row := none, hits := 0 }) d.banks }) s))

/-- DRAM_RFM: bank `b` has reached RAAIMT (R652). -/
def execDramRfm (t n b : Nat) (s : State) : Host.Outcome State Fault Refusal :=
  let s := tick t s
  let d := dramOf s n
  if d.raaimt = 0 ∨ (tgetD {} b d.banks).raa < d.raaimt then .next s
  else .next (bump (Reg.drmRfmLo n) 1 (emit (.dram n "RFM") (onDBank n b (fun x => { x with raa := x.raa - d.raaimt }) s)))

/-- The neighbours of the first row that waits in bank `b` are refreshed, `r` rows on each side; each such activation counts, and waits for
room (R652, R654). -/
def refreshOne (n r b : Nat) (s : State) : State :=
  let x := tgetD {} b (dramOf s n).banks
  match x.queued with
  | _ :: l =>
    if raaRoom (dramOf s n) (2 * r) x then
      emit (.dram n "NBR") (bump (Reg.drmNbrLo n) 1 (onDBank n b (fun x => { x with queued := l, raa := x.raa + 2 * r }) s))
    else s
  | [] => s

/-- Those of all its rows that wait. -/
def refreshNear (n r b : Nat) (s : State) : State :=
  (tgetD {} b (dramOf s n).banks).queued.foldl (fun s _ => refreshOne n r b s) s

/-- NEIGHBOUR_REFRESH: the requests `reqs` have reached the controller, `slots` command slots have passed, and the rows `acts` of bank `b`
have been activated beside; the neighbours of each row that reached `DRM_RAT.THRESH` are refreshed, RADIUS rows on each side (R645 to R648,
R652 to R654). A Segment that is disabled or whose channel is not trained has none (R2). -/
def execNeighbourRefresh (t n b : Nat) (acts : List Nat) (reqs : List DramReq) (slots : Nat) (s : State) : Host.Outcome State Fault Refusal :=
  let s := tick t s
  if !segOn s n ∨ !(dramOf s n).trained then .next s else
  let r := fieldOf s Reg.drmRat 17 16
  let s := dramServe n reqs slots s
  let s := onDBank n b (fun x => acts.foldl (fun y row => if raaRoom (dramOf s n) 1 y then activate (fieldOf s Reg.drmRat 15 0) row y else y) x) s
  .next ((tkeys (dramOf s n).banks).foldl (fun s b => refreshNear n r b s) s)

/-- RAT_WINDOW_CLEAR: a 32 ms refresh window starts (R653). -/
def execRatWindowClear (t n : Nat) (s : State) : Host.Outcome State Fault Refusal :=
  let s := tick t s
  if s.now - (dramOf s n).windowAt < 32000000 then .next s
  else .next (onDram n (fun d => { d with windowAt := s.now, banks := tmap (fun _ b => { b with rat := [] }) d.banks }) s)

/-- Bring the counters of a channel's bursts up to date (R669; log 45). -/
def drmCount (n : Nat) (s : State) : State :=
  let s := draw (bump (Reg.drmRdLo n) (freeVal s % 2 ^ 48) s)
  draw (bump (Reg.drmWrLo n) (freeVal s % 2 ^ 48) s)

/-- DRM_SNAP_NOW (R669). The bursts read and written since the last strobe are those of all the part's traffic, which the manual
does not fix: free values (log 45). -/
def execDrmSnapNow (t n : Nat) (s : State) : Host.Outcome State Fault Refusal :=
  let s := tick t s
  .next (strobe n (Reg.drmSnap n) (if segOn s n then drmCount n s else s))

end Sys2Proof.Machine
end

