-- ==== Sys2Proof/Machine/Programs.lean ====
section
/-!
DEFINITION. Host programs: PROG_LOAD, PROG_UNLOAD and PROG_RUN (R138 to R140, R610 to R613).
-/
namespace Sys2Proof.Machine

/-- The Segments of a load mask. -/
def maskSegs (m : Nat) : List Nat := [0, 1, 2, 3].filter (nbit m ·)

/-- An image of `n` bytes is valid for the Segments of a mask (R610, R611). -/
def imageOk (s : State) (mask n : Nat) (b : List Byte) : Bool :=
  let len := fld b 8 4
  let data := fun (x : Nat) => decide (x ≤ 262144) && x % 8 == 0
  fld b 0 4 == 0x50525844 && fld b 4 2 == 1 && fld b 6 2 == 128
    && len == 128 + imgText b + imgX b + imgY b && len == n
    && imgEntry b % 4 == 0 && decide (imgEntry b < imgText b)
    && decide (4 ≤ imgText b) && decide (imgText b ≤ 262144) && imgText b % 4 == 0 && data (imgX b) && data (imgY b)
    && decide (imgSram b ≤ 1048576) && imgSram b % 4096 == 0 && decide (imgDram b ≤ 268435456) && imgDram b % 65536 == 0
    && fld b 36 12 == 0 && fld b 96 32 == 0
    && slice b 64 32 == fit 32 (Config.sha256 (slice b 128 (len - 128)))
    && (maskSegs mask).all fun k => decide (imgSram b ≤ sramPool s k) && decide (imgDram b ≤ dramPool s k)

/-- Program slots of a function. -/
def slotsOf (s : State) (f : Nat) : Nat := tcount (fun _ p => p.fn == f) s.dsp.progs

/-- PROG_LOAD: `data` is what the host memory read gave (R138, R611, R612). -/
def execProgLoad (t id : Nat) (data : Option (List Byte)) (s : State) : Host.Outcome State Fault Refusal :=
  serve 0x0A id (fun c s => match data with
    | none => hostReadFailed id s
    | some d => match takesData id c s with
    | (false, s) => s
    | (true, s) =>
      let b := fit c.len d
      let mask := dfld c 24 1 % 16
      if !imageOk s mask c.len b then complete id 0x0601 0 s
      else match (if slotsOf s c.fn < fieldOf s Reg.dspFnq 7 0 then tfree 0 32 s.dsp.progs else none) with
        | none => complete id 0x0606 0 s
        | some n => complete id 0 n (onDsp (fun q => { q with progs := tput n { fn := c.fn, mask := mask, image := b } q.progs }) s))
    (tick t s)

/-- The program of a slot, if it is the function's. -/
def progOf (s : State) (f n : Nat) : Option Prog := match tget n s.dsp.progs with
  | some p => if p.fn = f then some p else none
  | none => none

/-- PROG_UNLOAD (R139). The saved contexts of the program's page are cleared (R479). -/
def execProgUnload (t id : Nat) (s : State) : Host.Outcome State Fault Refusal :=
  serve 0x0B id (fun c s =>
    let n := dfld c 24 1
    if (progOf s c.fn n).isNone then complete id 0x0602 0 s
    else if tany (fun j x => j != id && x.fn == c.fn && x.opcode == 0x2A && dfld x 24 1 == n) s.rge.flights then complete id 0x010E 0 s
    else complete id 0 0 (onDsp (fun q => { q with progs := tdel n q.progs }) s)) (tick t s)

/-- Free guest cores of a Segment, and its queued runs. -/
def freeGuests (s : State) (seg : Nat) : Nat := ((guestCores s seg).filter fun k => (coreOf s k).run.isNone).length
def queuedRuns (s : State) (seg : Nat) : Nat := tcount (fun _ x => x.seg == seg && x.core.isNone) s.dsp.runs

/-- The Segment that R613 chooses among those of a mask: most free guest cores, fewest queued runs, lowest number. -/
def chooseRunSeg (s : State) (mask : Nat) : Option Nat := (maskSegs mask).foldl (fun b k => match b with
  | none => some k
  | some j =>
    if freeGuests s k > freeGuests s j ∨ (freeGuests s k = freeGuests s j ∧ queuedRuns s k < queuedRuns s j) then some k else some j) none

/-- Queue a run as an item of SOURCE 2 at priority 4 (R595, R613). Nothing where no item slot is free. -/
def queueRun (id : Nat) (c : Flight) (seg : Nat) (s : State) : Option State := match freeItem s seg with
  | none => none
  | some key =>
    let x : DRun := { fn := c.fn, id := id, slot := dfld c 24 1, seg := seg, args := [dfld c 32 8, dfld c 40 8, dfld c 48 8, dfld c 56 8],
                      budget := dfld c 28 4, cid := c.cid, ring := c.ring, order := s.dsp.order }
    let i : Item := { content := zeros 64, kind := 0, flow := 0, prio := 4, seq := 0, source := 2, place := .ready s.dsp.order }
    some (onDsp (fun q => { q with runs := tput key x q.runs }) (putItem key i s))

/-- PROG_RUN (R140, R613). A Segment none of whose 4,096 item slots is free refuses as one whose run quota is full does. A
sleeping Segment wakes first (R153). -/
def execProgRun (t id : Nat) (s : State) : Host.Outcome State Fault Refusal :=
  let s := tick t s
  if tany (fun _ x => x.id == id) s.dsp.runs then .next s
  else serve 0x2A id (fun c s =>
    let g := dfld c 25 1
    match progOf s c.fn (dfld c 24 1) with
    | none => complete id 0x0602 0 s
    | some p =>
      if g < 4 ∧ !nbit p.mask g then complete id 0x0602 0 s
      else if g ≠ 0xFF ∧ !segOn s g then completeX id 0x0106 0 { param := 25 } s
      else match (if g = 0xFF then chooseRunSeg s p.mask else some g) with
        | none => complete id 0x0602 0 s
        | some k =>
          if (guestCores s k).isEmpty then complete id 0x0606 0 s
          else if tcount (fun _ x => x.fn == c.fn && x.seg == k) s.dsp.runs ≥ fieldOf s Reg.dspFnq 15 8 then complete id 0x0606 0 s
          else if domSleep s k ≠ 0 then startWake k s
          else match queueRun id c k s with
            | some s => s
            | none => complete id 0x0606 0 s) s

end Sys2Proof.Machine
end

