-- ==== Sys2Proof/Machine/Logs.lean ====
section
/-!
DEFINITION. IDENTIFY and GET_LOG: the structures and the six logs (R141 to R145, R332, R423, R460, R780).
-/
namespace Sys2Proof.Machine

/-- Text padded with spaces to `n` bytes. -/
def spaced (n : Nat) (l : List Byte) : List Byte := l.take n ++ List.replicate (n - l.length) 0x20

/-! ## IDENTIFY (R141) -/

/-- The device structure. -/
def deviceStruct (s : State) : List Byte :=
  fit 4096 (spaced 16 (ascii "NWL3216") ++ spaced 20 Config.serial ++ fwrev s
    ++ pack [(1, flags ([0, 1, 2, 3].map (segOn s))), (1, s.life.lstate.code), (2, 0x0100), (8, capNow s), (8, unalloc s),
         (2, s.flw.dies.length), (2, 1024), (4, 4194304), (4, 262144), (4, s.cad.period), (8, evTime s), (1, modes s)])

/-- The structure of namespace `n`. -/
def nsStruct (s : State) (n : Nat) (x : Ns) : List Byte :=
  fit 4096 (pack [(4, n), (1, x.nstype), (1, x.grain), (1, x.zest), (1, 0), (2, x.owner), (2, tcount (fun _ y => y.nsid == n) s.cmd.streams),
    (4, 0), (8, x.cap), (8, cdiv (usedBytes s n) 4096), (8, x.holdMax), (8, cdiv (holdBytes s n) 4096)])

/-- The NSIDs that a function owns. -/
def nsList (s : State) (f : Nat) : List Byte :=
  fit 4096 ((s.cmd.nss.filter fun p => p.2.owner == f).flatMap fun p => le 4 p.1)

/-- IDENTIFY. -/
def execIdentify (t id : Nat) (s : State) : Host.Outcome State Fault Refusal :=
  serve 0x01 id (fun c s => match dfld c 24 1 with
    | 0 => complete id 0 0 (output c (deviceStruct s) s)
    | 1 => (match nsOf s c.nsid with
      | some x => complete id 0 0 (output c (nsStruct s c.nsid x) s)
      | none => completeX id 0x010A 0 { param := 4 } s)
    | _ => complete id 0 0 (output c (nsList s c.fn) s)) (tick t s)

/-! ## Logs (R142 to R145) -/

/-- An entry of the Error log (R144). -/
def errBytes (e : ErrEntry) : List Byte :=
  pack [(8, e.count), (8, e.time), (2, e.cid), (2, e.sq), (2, e.status), (1, e.opcode), (1, e.param), (4, e.nsid), (2, e.stream),
    (2, e.detector), (8, e.loc), (24, 0)]

/-- An event entry of the detector log (R423). -/
def evBytes (e : Ev) : List Byte :=
  pack [(8, e.time), (1, e.dt), (1, e.eflags), (1, e.seg), (1, 0), (2, e.unit), (2, e.func), (8, e.loc), (8, e.aux)]

/-- Summary entry `k` of the detector log (R423). -/
def detSummary (s : State) (k : Nat) : List Byte :=
  let tally := ctr s (Reg.intTally k)
  pack [(4, tally), (1, flags [tally == 0xFFFFFFFF, s.integ.armed && s.integ.injDt == k, bypassed s k]), (3, 0)]

/-- A notice as the history shows it: the 32 bytes of R92 with PHASE 0 (R145). -/
def noticeBytes (n : Notice) : List Byte :=
  pack [(1, n.typ), (1, 2 * b2n (n.lost != 0)), (2, n.seq), (2, n.lost), (2, n.src), (8, n.time)] ++ fit 16 n.payload

/-- The Brace history log (R460). -/
def braceLog (s : State) : List Byte :=
  pack [(4, s.brc.pbrace + (word s Reg.brcBoardW).toNat), (4, s.brc.rate), (4, s.brc.ceff), (4, s.brc.avail), (4, needOf s),
    (4, s.brc.cover / 1048576), (40, 0)] ++ s.brc.hist.flatMap histBytes

/-! ### Firmware slots (R780) -/

/-- Code of what runs. -/
def Running.code : Running → Nat
  | .mainA => 0 | .mainB => 1 | .recovB => 2 | .recovA => 3 | .rom => 4

/-- An image's form and signature hold, and its SVN is at or above the rollback floor (R766). -/
def imageValid (s : State) (i : Image) : Bool := i.formOk && i.sigOk && decide (i.svn ≥ s.boot.floor)

/-- The slot's image is valid. -/
def slotValid (s : State) (b : BootSlot) : Bool := match b.image with
  | some i => imageValid s i
  | none => false

def slotOf (s : State) (n : Nat) : BootSlot := if n = 0 then s.pith.slotA else s.pith.slotB

/-- The generation of a slot's newest record of a kind, 0 without one. -/
def newestRec (b : BootSlot) (kind : Nat) : Nat := b.recs.foldl (fun m r => if r.skind = kind then max m r.sgen else m) 0

/-- The active slot (R768); with no valid image at all the manual names none, and slot A is shown (log 46). -/
def activeSlot (s : State) : Nat :=
  let a := s.pith.slotA
  let b := s.pith.slotB
  let act := fun (x : BootSlot) => if slotValid s x then newestRec x 2 else 0
  if act a = 0 ∧ act b = 0 then 0
  else if act a ≥ act b then 0 else 1

/-- STATE of a slot. -/
def slotState (s : State) (b : BootSlot) : Nat := match b.image with
  | none => if b.recs.isEmpty then 0 else 1
  | some i => if !imageValid s i then 1 else if b.recs.any (·.skind == 4) then 3 else 2

/-- A slot's part of the log. -/
def slotBytes (s : State) (b : BootSlot) : List Byte :=
  pack [(1, slotState s b), (7, 0)] ++ (match b.image with
    | some i => fit 8 i.fwrev ++ pack [(4, i.svn), (4, i.len)] ++ fit 48 i.mainDigest ++ fit 48 i.recovDigest
    | none => [])

/-- The Firmware slots log. -/
def firmwareLog (s : State) : List Byte :=
  fit 64 (pack [(1, activeSlot s), (1, s.boot.running.code), (1, s.boot.floor), (1, if rescue s then s.boot.cause else 0), (1, s.boot.attempts)])
    ++ fit 128 (slotBytes s s.pith.slotA) ++ fit 128 (slotBytes s s.pith.slotB)

/-- The contents of a log for function `f` (R142, R143). -/
def logBytes (s : State) (f : Nat) : Nat → List Byte
  | 1 => (tgetD [] f s.errs).flatMap errBytes
  | 2 => healthLog s
  | 3 => (List.range 64).flatMap (detSummary s) ++ s.integ.log.flatMap evBytes
  | 4 => braceLog s
  | 5 => firmwareLog s
  | 6 => s.history.reverse.flatMap noticeBytes
  | _ => []

/-- GET_LOG. The Health log's counters of hours and minutes are brought up to date first. -/
def execGetLog (t id : Nat) (s : State) : Host.Outcome State Fault Refusal :=
  serve 0x07 id (fun c s =>
    let s := if dfld c 24 1 = 2 then accrueHealth s else s
    complete id 0 0 (output c (slice (logBytes s c.fn (dfld c 24 1)) (dfld c 32 8) c.len) s)) (tick t s)

end Sys2Proof.Machine
end

