-- ==== Sys2Proof/Machine/Firmware.lean ====
section
/-!
DEFINITION. Firmware images, their commit and activation (R152, R765 to R768, R772, R773, R779).
-/
namespace Sys2Proof.Machine

/-- An image as its bytes give it (R765, R766). The chain and signature are checked by functions that the model leaves open
(log 7). -/
def imageOf (b : List Byte) : Image :=
  let len := fld b 12 4
  let part := fun (o : Nat) => decide (256 ≤ fld b o 4) && decide (fld b o 4 + fld b (o + 4) 4 ≤ len)
  let chain := slice b (fld b 48 4) (fld b 52 4)
  { bytes := fit len b, len := len, fwrev := slice b 16 8, svn := fld b 24 4, mainLen := fld b 36 4, recovLen := fld b 44 4,
    mainDigest := slice b 64 48, recovDigest := slice b 112 48,
    formOk := slice b 0 8 == ascii "VLRFWIMG" && fld b 8 2 == 1 && fld b 10 2 == 256 && fld b 28 4 == 0x3216 && fld b 56 8 == 0
      && decide (4096 ≤ len) && decide (len ≤ 8323072) && len % 4096 == 0 && decide (fld b 24 4 ≤ 63)
      && part 32 && part 40 && part 48 && decide (1 ≤ fld b 52 4) && decide (fld b 52 4 ≤ 4092),
    sigOk := Config.chainOk chain && Config.ecdsaOk (Config.certKey chain) (slice b 0 160) (slice b 160 96),
    mainOk := fit 48 (Config.sha384 (slice b (fld b 32 4) (fld b 36 4))) == slice b 64 48,
    recovOk := fit 48 (Config.sha384 (slice b (fld b 40 4) (fld b 44 4))) == slice b 112 48 }

/-- Post a Firmware notice (R779). -/
def fwNotice (kind slot cause svn : Nat) (rev : List Byte) (s : State) : State :=
  post 0 0x0A 0xFFFF (pack [(1, kind), (1, slot), (1, cause), (1, svn), (4, 0)] ++ fit 8 rev) s

/-- Change a boot slot. -/
def onSlot (n : Nat) (f : BootSlot → BootSlot) (s : State) : State :=
  onPith (fun p => if n = 0 then { p with slotA := f p.slotA } else { p with slotB := f p.slotB }) s

/-- The SGEN of the next record (R768). -/
def nextGen (s : State) : Nat := (s.pith.slotA.recs ++ s.pith.slotB.recs).foldl (fun m r => max m r.sgen) 0 + 1

/-- Write a state record in a slot (R768). -/
def slotRecord (n kind : Nat) (s : State) : State :=
  let rev := match (slotOf s n).image with | some i => fit 8 i.fwrev | none => zeros 8
  onSlot n (fun b => { b with recs := b.recs ++ [{ skind := kind, sgen := nextGen s, frame := s.cad.frame, fwrev := rev }] }) s

/-- The slot that runs (20, Update); none when the boot ROM serves. -/
def runningSlot (s : State) : Option Nat := match s.boot.running with
  | .mainA => some 0
  | .recovA => some 0
  | .mainB => some 1
  | .recovB => some 1
  | .rom => none

/-- Erase the 128 sectors of a slot (R772). -/
def eraseSlot (n : Nat) (s : State) : State :=
  let s := onSlot n (fun _ => { image := none, recs := [] }) s
  bump Reg.pthErasesLo 128 (onPith (fun p =>
    { p with erases := (List.range 128).foldl (fun m i => tput (128 * n + i) (tgetD 0 (128 * n + i) m + 1) m) p.erases }) s)

/-- FW_COMMIT of ACTION 0 or 1: the status, the notices that follow the completion, and the state before it (R97, R152, R772). -/
def commitWrite (n : Nat) (act : Bool) (s : State) : Nat × (State → State) × State :=
  let i := imageOf s.cmd.staging
  if runningSlot s = some n then (0x010E, id, s)
  else if !i.formOk ∨ !i.sigOk then (0x0402, id, s)
  else if i.svn < s.boot.floor then (0x0408, id, s)
  else
    let s := slotRecord n 1 (onSlot n (fun b => { b with image := some i }) (eraseSlot n s))
    let note := fwNotice 1 n 0 i.svn i.fwrev
    if act then (0, fun s => fwNotice 2 n 0 i.svn i.fwrev (note s), slotRecord n 2 s) else (0, note, s)

/-- FW_COMMIT of ACTION 2, in the same form (R97, R773). -/
def commitActivate (n : Nat) (s : State) : Nat × (State → State) × State :=
  let b := slotOf s n
  if runningSlot s = some n then (0x010E, id, s)
  else if !slotValid s b then (0x0402, id, s)
  else if b.recs.length > 2040 then (0x010E, id, s)
  else match b.image with
    | some i => (0, fwNotice 2 n 0 i.svn i.fwrev, slotRecord n 2 s)
    | none => (0x0402, id, s)

/-- The unit of work of a firmware update that writes boot slot `n`: it holds the token of its Pith bank, or waits for it (R323 to R325, R328). -/
def slotUnit (n : Nat) (s : State) : Bool × State := useTokens 6 [pithRes n] s

/-- FW_COMMIT_WRITE: ACTION 0 or 1. It waits while VPP_PITH is out of range (R792). -/
def execFwCommitWrite (t id : Nat) (s : State) : Host.Outcome State Fault Refusal :=
  let s := tick t s
  if !s.pins.vppOk then .next s
  else serve 0x0D id (fun c s =>
    if dfld c 25 1 > 1 then s
    else
      match slotUnit (dfld c 24 1) s with
      | (false, s) => s
      | (true, s) =>
        let (st, note, s) := commitWrite (dfld c 24 1) (dfld c 25 1 == 1) s
        note (complete id st 0 s)) s

/-- FW_COMMIT_ACTIVATE: ACTION 2. -/
def execFwCommitActivate (t id : Nat) (s : State) : Host.Outcome State Fault Refusal :=
  let s := tick t s
  if !s.pins.vppOk then .next s
  else serve 0x0D id (fun c s =>
    if dfld c 25 1 ≠ 2 then s
    else
      match slotUnit (dfld c 24 1) s with
      | (false, s) => s
      | (true, s) =>
        let (st, note, s) := commitActivate (dfld c 24 1) s
        note (complete id st 0 s)) s

end Sys2Proof.Machine
end

