-- ==== Sys2Proof/Machine/Nvme.lean ====
section
/-!
DEFINITION. The Plain personality's NVMe controller (R154 to R159). The manual cites NVMe 2.0 for the formats of commands, logs and
Identify data and for the codes of its statuses (PRESUMED, log 47). A row is the service of one command, `cmd` being its 64 bytes;
queue 0 is the admin queue.
-/
namespace Sys2Proof.Machine

/-! ## Service -/

/-- Change the Plain controller. -/
def onNvme (f : Nvme → Nvme) (s : State) : State := onCmd (fun c => { c with nvme := f c.nvme }) s

/-- NVMe status of an outcome (R158): status code type and code in bits 10:0. -/
def nvStatus : Nat → Nat
  | 0x0000 => 0 | 0x0001 => 0 | 0x0002 => 0 | 0x0003 => 0 | 0x0004 => 0
  | 0x0101 => 0x01 | 0x0103 => 0x02 | 0x0106 => 0x02 | 0x0104 => 0x0F | 0x0107 => 0x0F | 0x0108 => 0x04 | 0x0109 => 0x07
  | 0x010A => 0x0B | 0x010C => 0x80 | 0x0201 => 0x281 | 0x0202 => 0x280 | 0x0304 => 0x280 | 0x0305 => 0x81
  | 0x0402 => 0x107 | 0x0408 => 0x107 | 0x0404 => 0x15
  | _ => 0x06

/-- A dword of a command. -/
def cdw (cmd : List Byte) (i : Nat) : Nat := fld cmd (4 * i) 4

/-- The vector of a submission queue's completion queue: queue 0 sends vector 0. -/
def nvVector (s : State) (sq : Nat) : Option Nat :=
  if sq = 0 then some 0
  else match tget sq s.cmd.nvme.sqs with
    | some q => (match tget q.link s.cmd.nvme.cqs with
      | some c => if c.ien then some c.link else none
      | none => none)
    | none => none

/-- Complete a command with an NVMe status: the Error log takes a failure, and the completion queue sends its vector. -/
def nvEnd (sq : Nat) (cmd : List Byte) (status result : Nat) (s : State) : State :=
  let n := tgetD 0 0 s.errCounts + 1
  let e : ErrEntry := { count := n, time := evTime s, cid := fld cmd 2 2, sq := sq, status := status, opcode := fld cmd 0 1, param := 0xFF,
                        nsid := cdw cmd 1, stream := 0xFFFF, detector := 0xFFFF,
                        loc := if status = 0x80 ∧ fld cmd 0 1 ≠ 9 then fld cmd 40 8 else 0 }
  let s := if status = 0 then s
    else { s with errs := tput 0 ((e :: (tgetD [] 0 s.errs)).take 256) s.errs, errCounts := tset 0 0 n s.errCounts }
  let s := emit (.nvme sq (fld cmd 2 2) status result) s
  match nvVector s sq with
  | some v => sendVector 0 v s
  | none => s

/-- Complete a command with an outcome of the native command set (R158). -/
def nvDone (sq : Nat) (cmd : List Byte) (outcome : Nat) (s : State) : State := nvEnd sq cmd (nvStatus outcome) 0 s

/-- Opcodes of the two kinds of queue (R156). -/
def nvAdmin : List Nat := [0x00, 0x01, 0x02, 0x04, 0x05, 0x06, 0x08, 0x09, 0x0A, 0x0C, 0x10, 0x11]
def nvIo : List Nat := [0x00, 0x01, 0x02, 0x09]

/-- The lifecycle state forbids an admin command: in SCRAPPED, all but Identify and the SMART / Health log (R745). -/
def nvBarred (s : State) (admin : Bool) (cmd : List Byte) : Bool :=
  s.life.lstate == .scrapped && !(admin && (fld cmd 0 1 == 0x06 || (fld cmd 0 1 == 0x02 && cdw cmd 10 % 256 == 2)))

/-- Hold a fetched command that waits, once. -/
def nvHold (sq : Nat) (cmd : List Byte) (s : State) : State :=
  onNvme (fun v => { v with held := if v.held.contains (sq, cmd) then v.held else v.held ++ [(sq, cmd)] }) s

/-- A command that was held is taken up. -/
def nvTake (sq : Nat) (cmd : List Byte) (s : State) : State := onNvme (fun v => { v with held := v.held.erase (sq, cmd) }) s

/-- A fetched command waits: I/O for step 9 of replay, and in BRACE everything that has not begun, Abort apart (R153, R159, R776). -/
def nvWaits (s : State) (admin : Bool) (cmd : List Byte) : Bool :=
  (!admin && !s.boot.service) || (s.brc.active && !(admin && fld cmd 0 1 == 0x08))

/-- The controller takes commands: it is enabled, and step 8 is done (CSTS.RDY; R56, R776). -/
def nvReady (s : State) : Bool := s.boot.plain && s.boot.cfgReady && nbit s.cmd.nvme.cc 0

/-- Serve a command of opcode `op`. Nothing is served before step 8 or while the controller is disabled; a command that waits is held, and served when it is commanded
again, with Successful Completion (R153, R159, R776). A command of no opcode of its queue completes with Invalid Command Opcode. -/
def nvServe (admin : Bool) (op sq : Nat) (cmd : List Byte) (f : State → State) (s : State) : Host.Outcome State Fault Refusal :=
  let o := fld cmd 0 1
  let known := if admin then nvAdmin else nvIo
  let queue := if admin then true else (tget sq s.cmd.nvme.sqs).isSome
  if !nvReady s ∨ !queue ∨ (o ≠ op ∧ known.contains o) then .next s
  else if nvWaits s admin cmd then .next (nvHold sq cmd s)
  else if o ≠ op then .next (nvDone sq cmd 0x0101 (nvTake sq cmd s))
  else if nvBarred s admin cmd then .next (nvDone sq cmd 0x0404 (nvTake sq cmd s))
  else .next (f (nvTake sq cmd s))

/-- An admin command. -/
def nvAdm (op : Nat) (cmd : List Byte) (f : State → State) (s : State) : Host.Outcome State Fault Refusal := nvServe true op 0 cmd f s

/-! ## Queues (R154) -/

/-- Queues of each kind: 15, or what Number of Queues has set, 0-based (R157). -/
def nvQueues (s : State) (cq : Bool) : Nat :=
  let v := tgetD 0x000E000E 7 s.cmd.nvme.features
  (if cq then v / 65536 else v % 65536) + 1

/-- The checks that both Create commands make on dwords 10 and 11. -/
def nvCreateBad (s : State) (cq : Bool) (cmd : List Byte) : Option Nat :=
  let q := cdw cmd 10 % 65536
  let l := if cq then s.cmd.nvme.cqs else s.cmd.nvme.sqs
  if q = 0 ∨ q > nvQueues s cq ∨ (tget q l).isSome then some 0x101
  else if cdw cmd 10 / 65536 = 0 then some 0x102
  else if !nbit (cdw cmd 11) 0 then some 0x02
  else none

/-- The queue that a Create command describes. -/
def nvQueueOf (cmd : List Byte) : NvmeQ :=
  { depth := cdw cmd 10 / 65536 + 1, base := fld cmd 24 8, link := cdw cmd 11 / 65536, ien := nbit (cdw cmd 11) 1 }

/-- NVME_CREATE_IO_CQ: physically contiguous queues only. -/
def execNvmeCreateIoCq (t : Nat) (cmd : List Byte) (s : State) : Host.Outcome State Fault Refusal :=
  nvAdm 0x05 cmd (fun s => match nvCreateBad s true cmd with
    | some e => nvEnd 0 cmd e 0 s
    | none =>
      if (nvQueueOf cmd).link ≥ (funcOf s 0).vectors then nvEnd 0 cmd 0x108 0 s
      else nvEnd 0 cmd 0 0 (onNvme (fun v => { v with cqs := tput (cdw cmd 10 % 65536) (nvQueueOf cmd) v.cqs }) s)) (tick t s)

/-- NVME_CREATE_IO_SQ: physically contiguous queues only. -/
def execNvmeCreateIoSq (t : Nat) (cmd : List Byte) (s : State) : Host.Outcome State Fault Refusal :=
  nvAdm 0x01 cmd (fun s => match nvCreateBad s false cmd with
    | some e => nvEnd 0 cmd e 0 s
    | none =>
      if (tget (nvQueueOf cmd).link s.cmd.nvme.cqs).isNone then nvEnd 0 cmd 0x100 0 s
      else nvEnd 0 cmd 0 0 (onNvme (fun v => { v with sqs := tput (cdw cmd 10 % 65536) { nvQueueOf cmd with ien := false } v.sqs }) s)) (tick t s)

/-- The held commands of a submission queue that is deleted complete with Command Aborted due to SQ Deletion. -/
def nvDrain (q : Nat) (s : State) : State :=
  (s.cmd.nvme.held.filter fun h => h.1 == q).foldl (fun s h => nvEnd q h.2 0x08 0 (nvTake q h.2 s)) s

/-- NVME_DELETE_IO_SQ: what the queue still holds completes first (R154, R156). -/
def execNvmeDeleteIoSq (t : Nat) (cmd : List Byte) (s : State) : Host.Outcome State Fault Refusal :=
  nvAdm 0x00 cmd (fun s =>
    let q := cdw cmd 10 % 65536
    if (tget q s.cmd.nvme.sqs).isNone then nvEnd 0 cmd 0x101 0 s
    else nvEnd 0 cmd 0 0 (onNvme (fun v => { v with sqs := tdel q v.sqs }) (nvDrain q s))) (tick t s)

/-- NVME_DELETE_IO_CQ: a queue that a submission queue names stays. -/
def execNvmeDeleteIoCq (t : Nat) (cmd : List Byte) (s : State) : Host.Outcome State Fault Refusal :=
  nvAdm 0x04 cmd (fun s =>
    let q := cdw cmd 10 % 65536
    if (tget q s.cmd.nvme.cqs).isNone then nvEnd 0 cmd 0x101 0 s
    else if tany (fun _ x => x.link == q) s.cmd.nvme.sqs then nvEnd 0 cmd 0x10C 0 s
    else nvEnd 0 cmd 0 0 (onNvme (fun v => { v with cqs := tdel q v.cqs }) s)) (tick t s)

/-! ## Identify and logs -/

/-- The Plain namespace: block namespace 1, but in RETURNED and SCRAPPED (R155, R743, R745). -/
def nvNs (s : State) : Option Ns := match nsOf s 1 with
  | some x => if x.nstype = 0 ∧ s.life.lstate.code ≤ 2 then some x else none
  | none => none

/-- A command as the block operations take it: NSID, first block and number of blocks. -/
def nvFlight (s : State) (sq : Nat) (cmd : List Byte) (a n : Nat) : Flight :=
  { fn := 0, ring := sq, slot := 0, cid := fld cmd 2 2, opcode := fld cmd 0 1, desc := pack [(4, 0), (4, cdw cmd 1), (16, 0), (8, a), (4, n), (28, 0)],
    cls := .a, isSeal := false, noInt := false, fence := false, fetched := s.now, bound := .notS, begun := true,
    sgl := [(fld cmd 24 8, 2 ^ 32, false)] }

/-- Identify Controller. What the manual does not give is the template's. -/
def nvController (s : State) : List Byte :=
  let put := fun (o n v : Nat) (l : List Byte) => patch l o (le n v)
  let l := patch (fit 4096 Config.nvmeController) 4 (spaced 20 Config.serial ++ spaced 40 (ascii "NWL3216") ++ fwrev s)
  put 525 1 0 (put 520 2 4 (put 516 4 1 (put 512 2 0x4466 (put 263 1 0 (put 260 1 4 (put 259 1 3 (put 256 2 4 (put 80 4 0x00020000 l))))))))

/-- Identify Namespace: one LBA format of 4,096 bytes, no metadata, no protection. -/
def nvNamespace (s : State) : List Byte := match nvNs s with
  | none => zeros 4096
  | some x => patch (fit 4096 (pack [(8, x.cap), (8, x.cap), (8, cdiv (usedBytes s 1) 4096), (8, 0)])) 128 (pack [(2, 0), (1, 12), (1, 0)])

/-- NVME_IDENTIFY: CNS 0x00 to 0x03. -/
def execNvmeIdentify (t : Nat) (cmd : List Byte) (s : State) : Host.Outcome State Fault Refusal :=
  nvAdm 0x06 cmd (fun s =>
    let send := fun (l : List Byte) => nvEnd 0 cmd 0 0 (output (nvFlight s 0 cmd 0 0) l s)
    match cdw cmd 10 % 256 with
    | 0 => if cdw cmd 1 = 1 then send (nvNamespace s) else nvDone 0 cmd 0x010A s
    | 1 => send (nvController s)
    | 2 => send (fit 4096 (if (nvNs s).isSome && cdw cmd 1 == 0 then le 4 1 else []))
    | 3 => if cdw cmd 1 = 1 ∧ (nvNs s).isSome then send (fit 4096 Config.nvmeNsId) else nvDone 0 cmd 0x010A s
    | _ => nvDone 0 cmd 0x0106 s) (tick t s)

/-- The critical-warning byte: spare, temperature, reliability, read-only (R332). -/
def nvWarning (s : State) : Nat := critByte s % 16

/-- The SMART / Health log, from the Health log: data units are of 512,000 bytes. -/
def nvSmart (s : State) : List Byte :=
  let h := fun k => tgetD 0 k s.health.ctr
  let units := fun n => cdiv (n * 1000000) 512000
  fit 512 (pack [(1, nvWarning s), (2, s.health.tempNow), (1, availSpare s), (1, fieldOf s Reg.medHarvest 7 0), (1, pctUsed s), (26, 0),
    (16, units (h 0)), (16, units (h 1)), (16, freeVal s), (16, freeVal (draw s)), (16, freeVal (draw (draw s))), (16, h 5), (16, h 4),
    (16, h 7), (16, h 14), (16, tgetD 0 0 s.errCounts), (8, 0)] ++ pack ((List.range 5).map fun n => (2, tempOf s n / 4)))

/-- The Error Information log: 64 bytes an entry, newest first. -/
def nvErrors (s : State) : List Byte :=
  (tgetD [] 0 s.errs).flatMap fun e => pack [(8, e.count), (2, e.sq), (2, e.cid), (2, 2 * e.status), (2, 0xFFFF), (8, e.loc), (4, e.nsid), (36, 0)]

/-- The Firmware Slot log: slots 1 and 2 are boot slots A and B. -/
def nvFirmware (s : State) : List Byte :=
  let rev := fun (b : BootSlot) => match b.image with | some i => fit 8 i.fwrev | none => zeros 8
  let run := match runningSlot s with | some n => n + 1 | none => 0
  fit 512 (pack [(1, run + 16 * (if activeSlot s + 1 = run then 0 else activeSlot s + 1)), (7, 0)] ++ rev s.pith.slotA ++ rev s.pith.slotB)

/-- NVME_GET_LOG_PAGE: logs 0x01 to 0x03. The figures that no rule gives are free values. Reading the SMART / Health log without
RAE unmasks its events. -/
def execNvmeGetLogPage (t : Nat) (cmd : List Byte) (s : State) : Host.Outcome State Fault Refusal :=
  nvAdm 0x02 cmd (fun s =>
    let lid := cdw cmd 10 % 256
    let n := 4 * (cdw cmd 10 / 65536 + 65536 * (cdw cmd 11 % 65536) + 1)
    let o := fld cmd 48 8
    let s := if lid = 2 then accrueHealth s else s
    let send := fun (l : List Byte) (s : State) => if o > l.length then nvDone 0 cmd 0x0106 s
      else nvEnd 0 cmd 0 0 (output (nvFlight s 0 cmd 0 0) (slice l o n) s)
    match lid with
    | 1 => send (fit 16384 (nvErrors s)) s
    | 2 => send (nvSmart s) ((if nbit (cdw cmd 10) 15 then id else onNvme (fun v => { v with masked := false })) (draw (draw (draw s))))
    | 3 => send (nvFirmware s) s
    | _ => nvDone 0 cmd 0x0106 s) (tick t s)

/-! ## Abort, features, events -/

/-- NVME_ABORT: a command that has not begun to move data ends with Command Abort Requested (R146). What waits in the controller
is held commands and the requests for events; every other command is served whole. DESIGN CHOICE (log 150): DW0 for a command that is not found
is 1. -/
def execNvmeAbort (t : Nat) (cmd : List Byte) (s : State) : Host.Outcome State Fault Refusal :=
  nvAdm 0x08 cmd (fun s =>
    let cid := cdw cmd 10 / 65536
    let sq := cdw cmd 10 % 65536
    match s.cmd.nvme.held.find? fun h => h.1 == sq && fld h.2 2 2 == cid with
    | some h => nvEnd 0 cmd 0 0 (nvDone sq h.2 0x0109 (nvTake sq h.2 s))
    | none =>
      if sq = 0 ∧ s.cmd.nvme.aers.contains cid then
        let s := onNvme (fun v => { v with aers := v.aers.erase cid }) s
        nvEnd 0 cmd 0 0 (nvEnd 0 (pack [(2, 0x0C), (2, cid), (60, 0)]) (nvStatus 0x0109) 0 s)
      else nvEnd 0 cmd 0 1 s) (tick t s)

/-- Where a feature is kept: the threshold by sensor and type, the vector configuration by vector. -/
def nvKey (cmd : List Byte) : Nat :=
  let fid := cdw cmd 10 % 256
  fid + 256 * (if fid = 4 then cdw cmd 11 / 65536 % 64 else if fid = 9 then cdw cmd 11 % 65536 else 0)

/-- NVME_SET_FEATURES (R157). -/
def execNvmeSetFeatures (t : Nat) (cmd : List Byte) (s : State) : Host.Outcome State Fault Refusal :=
  nvAdm 0x09 cmd (fun s =>
    let d := cdw cmd 11
    let put := fun (v r : Nat) => nvEnd 0 cmd 0 r (onNvme (fun x => { x with features := tset 0 (nvKey cmd) v x.features }) s)
    let bad := nvDone 0 cmd 0x0106 s
    if !([0x02, 0x04, 0x07, 0x08, 0x09, 0x0B].contains (cdw cmd 10 % 256)) then bad
    else if nbit (cdw cmd 10) 31 then nvEnd 0 cmd 0x10D 0 s
    else match cdw cmd 10 % 256 with
      | 0x02 => if d % 32 = 0 then nvEnd 0 cmd 0 0 s else bad
      | 0x04 => put (d % 65536) 0
      | 0x07 =>
        if d % 65536 = 65535 ∨ d / 65536 = 65535 then bad
        else if s.cmd.nvme.queuesSet then nvEnd 0 cmd 0x0C 0 s
        else
          let v := min 14 (d % 65536) + 65536 * min 14 (d / 65536)
          nvEnd 0 cmd 0 v (onNvme (fun x => { x with features := tput 7 v x.features, queuesSet := true }) s)
      | 0x08 => put (d % 65536) 0
      | 0x09 => if d % 65536 < (funcOf s 0).vectors then put (d / 65536 % 2) 0 else bad
      | 0x0B => if d / 256 = 0 then put d 0 else bad
      | _ => bad) (tick t s)

/-- NVME_GET_FEATURES (R157). -/
def execNvmeGetFeatures (t : Nat) (cmd : List Byte) (s : State) : Host.Outcome State Fault Refusal :=
  nvAdm 0x0A cmd (fun s =>
    let v := tgetD 0 (nvKey cmd) s.cmd.nvme.features
    let d := cdw cmd 11
    match cdw cmd 10 % 256 with
    | 0x02 => nvEnd 0 cmd 0 0 s
    | 0x04 => nvEnd 0 cmd 0 v s
    | 0x06 => nvEnd 0 cmd 0 0 s
    | 0x07 => nvEnd 0 cmd 0 (nvQueues s false - 1 + 65536 * (nvQueues s true - 1)) s
    | 0x08 => nvEnd 0 cmd 0 v s
    | 0x09 => if d % 65536 < (funcOf s 0).vectors then nvEnd 0 cmd 0 (d % 65536 + 65536 * v) s else nvDone 0 cmd 0x0106 s
    | 0x0B => nvEnd 0 cmd 0 v s
    | _ => nvDone 0 cmd 0x0106 s) (tick t s)

/-- NVME_ASYNC_EVENT_REQUEST: held until a critical warning completes it; one that is kept does so at once. Four at most. -/
def execNvmeAsyncEventRequest (t : Nat) (cmd : List Byte) (s : State) : Host.Outcome State Fault Refusal :=
  nvAdm 0x0C cmd (fun s => match s.cmd.nvme.events with
    | e :: rest => nvEnd 0 cmd 0 (1 + e * 256 + 2 * 65536) (onNvme (fun v => { v with events := rest }) s)
    | [] =>
      if s.cmd.nvme.aers.length ≥ 4 then nvEnd 0 cmd 0x105 0 s
      else onNvme (fun v => { v with aers := v.aers ++ [fld cmd 2 2] }) s) (tick t s)

/-! ## Firmware -/

/-- NVME_FIRMWARE_COMMIT: slots 1 and 2 are boot slots A and B; actions 000b, 001b and 010b are ACTION 0, 1 and 2 of FW_COMMIT. It
waits, held, while VPP_PITH is out of range or its Pith bank is in use (R146, R325, R792). -/
def execNvmeFirmwareCommit (t : Nat) (cmd : List Byte) (s : State) : Host.Outcome State Fault Refusal :=
  nvAdm 0x10 cmd (fun s =>
    let slot := cdw cmd 10 % 8
    let act := cdw cmd 10 / 8 % 8
    if s.life.lstate.code ≥ 3 then nvDone 0 cmd 0x0404 s
    else if act > 2 then nvDone 0 cmd 0x0106 s
    else if slot ≠ 1 ∧ slot ≠ 2 then nvDone 0 cmd 0x0106 s
    else if !s.pins.vppOk then nvHold 0 cmd s
    else match slotUnit (slot - 1) s with
      | (false, s) => nvHold 0 cmd s
      | (true, s) =>
        let (st, note, s) := if act = 2 then commitActivate (slot - 1) s else commitWrite (slot - 1) (act == 1) s
        note (nvDone 0 cmd st s)) (tick t s)

/-- NVME_FW_IMAGE_DOWNLOAD: as FW_DOWNLOAD, the length and the offset being in dwords (R151). -/
def execNvmeFwImageDownload (t : Nat) (cmd : List Byte) (data : Option (List Byte)) (s : State) : Host.Outcome State Fault Refusal :=
  nvAdm 0x11 cmd (fun s =>
    let n := 4 * (cdw cmd 10 + 1)
    let o := 4 * cdw cmd 11
    if s.life.lstate.code ≥ 3 then nvDone 0 cmd 0x0404 s
    else if n > 1048576 then nvDone 0 cmd 0x010D s
    else if n % 4096 ≠ 0 ∨ o % 4096 ≠ 0 then nvDone 0 cmd 0x0106 s
    else if o + n > 16777216 then nvDone 0 cmd 0x010D s
    else match data with
      | none => nvDone 0 cmd 0x0108 s
      | some d => nvDone 0 cmd 0 (onCmd (fun q => { q with staging := patch q.staging o (fit n d) }) s)) (tick t s)

/-! ## I/O (R156) -/

/-- Segments that hold the blocks of a command. -/
def nvSegs (s : State) (x : Ns) (a n : Nat) : List Nat := ((grainsOf x a n).map (segOfGrain s x)).dedup

/-- A command whose Segments sleep wakes them, and is held until they run (R153, row DOZE). -/
def nvWake (l : List Nat) (sq : Nat) (cmd : List Byte) (f : State → State) (s : State) : State :=
  let z := l.filter fun d => domSleep s d != 0
  if z.isEmpty then f s else nvHold sq cmd (z.foldl (fun s d => startWake d s) s)

/-- A block command: NSID 1, its range and key, the floor for a write, and a Segment without cores (R128, R322, R414, R832). It
waits while keys are derived anew (R508). -/
def nvBlock (op sq : Nat) (cmd : List Byte) (write key : Bool) (f : Flight → Ns → State → State) (s : State) :
    Host.Outcome State Fault Refusal :=
  if key ∧ s.cry.rederive ∧ !s.cry.closed ∧ nvReady s ∧ (tget sq s.cmd.nvme.sqs).isSome ∧ fld cmd 0 1 = op then
    .next (nvHold sq cmd s)
  else nvServe false op sq cmd (fun s =>
    let c := nvFlight s sq cmd (fld cmd 40 8) (cdw cmd 12 % 65536 + 1)
    match (if cdw cmd 1 = 1 then nvNs s else none) with
    | none => nvDone sq cmd 0x010A s
    | some x => match blockChecks s c x write key with
      | some (e, _) => nvDone sq cmd e s
      | none =>
        let l := nvSegs s x (dfld c 24 8) (dfld c 32 4)
        if !l.any s.integ.deadSeg.contains then nvWake l sq cmd (f c x) s
        else
          let st := if write then 0x0202 else 0x0201
          exhaust st 1 (nvDone sq cmd st s)) s

/-- NVME_FLUSH: completed Writes are durable, so it completes at once. -/
def execNvmeFlush (t sq : Nat) (cmd : List Byte) (s : State) : Host.Outcome State Fault Refusal :=
  nvServe false 0x00 sq cmd (fun s => nvDone sq cmd 0 s) (tick t s)

/-- A command that a grain stops (R396, R415). -/
def nvBad (sq : Nat) (cmd : List Byte) (b : BadGrain) (s : State) : State :=
  let s := nvDone sq cmd b.status s
  if b.status = 0x0201 then exhaust b.status 1 s else s

/-- NVME_WRITE: `data` is what the host memory read gave; `bad` lists the blocks that the self-check of R263 replaces. It waits
for room in Stone and for the relocation that goes before it; a grain that it covers in part is read and merged (R283, R306). -/
def execNvmeWrite (t sq : Nat) (cmd : List Byte) (data : Option (List Byte)) (bad : List Nat) (s : State) :
    Host.Outcome State Fault Refusal :=
  nvBlock 0x01 sq cmd true true (fun c x s => match data with
    | none => nvDone sq cmd 0x0108 s
    | some d =>
      let a := dfld c 24 8
      let n := dfld c 32 4
      if !grainsRoom s x (grainsOf x a n) ∨ !fetchFits s (4096 * n) then nvHold sq cmd s
      else match makeWay (2 ^ 40 + sq * 65536 + fld cmd 2 2) 1 x a n s with
        | (false, s) => nvHold sq cmd s
        | (true, s) => match readGrains x (edgeGrains x a n) s with
          | (some b, s) => nvBad sq cmd b s
          | (none, s) => nvDone sq cmd 0 (writeData 1 ((edgeGrains x a n).foldl decodedGrain x) 1 a n [] d bad s).2) (tick t s)

/-- NVME_READ. -/
def execNvmeRead (t sq : Nat) (cmd : List Byte) (s : State) : Host.Outcome State Fault Refusal :=
  nvBlock 0x02 sq cmd false true (fun c x s =>
    let a := dfld c 24 8
    let n := dfld c 32 4
    match readGrains x (grainsOf x a n) s with
    | (some b, s) => nvBad sq cmd b s
    | (none, s) => nvDone sq cmd 0 (output c ((List.range n).flatMap fun i => readBlock x (a + i)) s)) (tick t s)

/-- The ranges of a Dataset Management command as (length, first block). -/
def nvRanges : Nat → List Byte → List (Nat × Nat)
  | 0, _ => []
  | n + 1, l => (fld l 4 4, fld l 8 8) :: nvRanges n (l.drop 16)

/-- NVME_DATASET_MANAGEMENT: attribute Deallocate only; without it the command has nothing to do. -/
def execNvmeDatasetManagement (t sq : Nat) (cmd : List Byte) (data : Option (List Byte)) (s : State) : Host.Outcome State Fault Refusal :=
  nvServe false 0x09 sq cmd (fun s => match (if cdw cmd 1 = 1 then nvNs s else none), data with
    | none, _ => nvDone sq cmd 0x010A s
    | some _, none => nvDone sq cmd 0x0108 s
    | some x, some d =>
      let l := nvRanges (cdw cmd 10 % 256 + 1) d
      if !nbit (cdw cmd 11) 2 then nvDone sq cmd 0 s
      else if l.any fun r => decide (r.2 + r.1 > x.cap) then nvDone sq cmd 0x010C s
      else nvWake ((l.flatMap fun r => nvSegs s x r.2 r.1).dedup) sq cmd (fun s =>
        nvDone sq cmd 0 (l.foldl (fun s r => match nsOf s 1 with | some x => dealloc 1 x r.2 r.1 [] s | none => s) s)) s) (tick t s)

/-! ## Registers (R56, R154, R828) -/

/-- A controller reset of NVMe: the queues and what they hold are gone; AQA, ASQ and ACQ stay. -/
def nvReset (s : State) : State := onNvme (fun v => { intms := 0, aqa := v.aqa, asq := v.asq, acq := v.acq }) s

/-- CAP: MQES 65,535, contiguous queues required, the NVM command set; the time limit and the page size are the part's own. -/
def nvCap : Nat := 0xFFFF + 2 ^ 16 + Config.nvmeReg 0 0 % 256 * 2 ^ 24 + 2 ^ 37 + Config.nvmeReg 0 4 % 16 * 2 ^ 52

/-- What function 0's BAR0 reads in the Plain personality at offset `o` (R56, R154, R828; log 47). A write-only doorbell and a register that the
controller does not support read 0. -/
def nvmeReg (s : State) (o : Nat) : Nat :=
  let v := s.cmd.nvme
  match o with
  | 0x00 => nvCap % 2 ^ 32
  | 0x04 => nvCap / 2 ^ 32
  | 0x08 => 0x00020000
  | 0x0C => v.intms
  | 0x10 => v.intms
  | 0x14 => v.cc
  | 0x1C => b2n (nvReady s) + (if nbits v.cc 15 14 = 0 then 0 else 8)
  | 0x24 => v.aqa
  | 0x28 => v.asq % 2 ^ 32
  | 0x2C => v.asq / 2 ^ 32
  | 0x30 => v.acq % 2 ^ 32
  | 0x34 => v.acq / 2 ^ 32
  | _ => 0

/-- A write of `w`, the register's bytes merged, to that layout: CC.EN cleared resets the controller, and the admin queue's registers
stand while it is enabled. -/
def nvmeWrite (o w : Nat) (s : State) : State :=
  let v := s.cmd.nvme
  let en := nbit v.cc 0
  let adm := fun (f : Nvme → Nvme) => if en then s else onNvme f s
  match o with
  | 0x0C => onNvme (fun v => { v with intms := v.intms ||| w }) s
  | 0x10 => onNvme (fun v => { v with intms := v.intms &&& (0xFFFFFFFF - w) }) s
  | 0x14 => onNvme (fun v => { v with cc := w &&& 0xFFFFF1 }) (if en && !nbit w 0 then nvReset s else s)
  | 0x24 => adm fun v => { v with aqa := w &&& 0x0FFF0FFF }
  | 0x28 => adm fun v => { v with asq := v.asq / 2 ^ 32 * 2 ^ 32 + w / 4096 * 4096 }
  | 0x2C => adm fun v => { v with asq := v.asq % 2 ^ 32 + w * 2 ^ 32 }
  | 0x30 => adm fun v => { v with acq := v.acq / 2 ^ 32 * 2 ^ 32 + w / 4096 * 4096 }
  | 0x34 => adm fun v => { v with acq := v.acq % 2 ^ 32 + w * 2 ^ 32 }
  | _ => s

end Sys2Proof.Machine
end

