-- ==== Sys2Proof/Machine/Faults.lean ====
section
/-!
DEFINITION. Faults of the fabric, of house cores and of host reads: DT01, DT02, DT08 and DT27 (R412 to R415, R429, R666).
-/
namespace Sys2Proof.Machine

/-- The status of a transfer whose read or write side failed (R412). -/
def sideStatus (write : Bool) : Nat := if write then 0x0202 else 0x0201

/-- Whole units written before a transfer of `n` bytes failed, of `units` that had been. -/
def doneUnits (units n : Nat) : Nat := dmWhole (min (units * 4096) (n - 1)) n

/-- A Zest job's attempt fails, on the side of its output or of its input: it is retried twice; then a guest's run ends with 0x0603, and a house
job with its side's status. The engine is alone in its Segment and stays in service (R412, R413). -/
def zestFault (n : Nat) (j : ZJob) (write : Bool) (ef : Nat) (s : State) : State :=
  if j.tries < 2 then { s with zst := { s.zst with jobs := tput n { j with tries := j.tries + 1 } s.zst.jobs } }
  else
    let s := { s with zst := { s.zst with jobs := tdel n s.zst.jobs } }
    match (if j.guest then (coreOf s j.core).run else none) with
    | some r => exhaustF ef 0x0603 0 (endRun r 0x0603 0 0 0 0 0 s)
    | none => zjEnd j.core j.desc (sideStatus write) 0 0 0 (Config.crc32c []) (exhaustF ef (sideStatus write) 0 s)

/-- The status of a command whose third attempt failed: 0x0202 when it takes data from the host, else 0x0201 (R412). -/
def workStatus (c : Flight) : Nat := match opRow c.opcode with
  | some o => if o.data = .fromHost then 0x0202 else 0x0201
  | none => 0x0201

/-- A command's attempt fails (R412, R415). A run is its core's matter. -/
def commandFault (id : Nat) (c : Flight) (ef : Nat) (s : State) : State :=
  if c.opcode = 0x2A then s
  else if c.tries < 2 then onFlight id (fun c => { c with tries := c.tries + 1 }) s
  else exhaustF ef (workStatus c) c.nsid (failSealX id (workStatus c) c { detector := 8 } s)

/-- FABRIC_TIMEOUT: a transaction of `work` is unanswered for 10 µs: DT08 and a bus error, and the work is retried. `write` says that it is one of
the side that the work writes, and `units` how many whole units a transfer had written (R412, R624, R666). -/
def execFabricTimeout (t : Nat) (work : Work) (write : Bool) (units : Nat) (s : State) : Host.Outcome State Fault Refusal :=
  let s := tick t s
  match work with
  | .core k =>
    if corePowered s k then
      let ef := detectEf 8 (coreSite s k) true s
      let (hit, s) := detect 8 (coreSite s k) true s
      .next (if hit then coreFault k 8 ef s else s)
    else .next s
  | .zest n => match tget n s.zst.jobs with
    | some j =>
      let ef := detectEf 8 { seg := j.seg } true s
      let (hit, s) := detect 8 { seg := j.seg } true s
      .next (if hit then zestFault n j write ef s else s)
    | none => .next s
  | .crypto n => match tget n s.cry.jobs with
    | some j =>
      let ef := detectEf 8 { seg := j.seg } true s
      let (hit, s) := detect 8 { seg := j.seg } true s
      .next (if hit then cjRetry n j none ef s else s)
    | none => .next s
  | .chan c => match (tgetD {} c s.mov.chans).queue, (tgetD {} c s.mov.chans).halted with
    | x :: _, false =>
      let ef := detectEf 8 { seg := c / 64, func := x.func } true s
      let (hit, s) := detect 8 { seg := c / 64, func := x.func } true s
      .next (if hit then dmRetry c x (sideStatus write) (doneUnits units (dmLen x.desc)) 8 ef s else s)
    | _, _ => .next s
  | .command id => match tget id s.rge.flights with
    | some c =>
      let ef := detectEf 8 { seg := c.seg, func := c.fn } true s
      let (hit, s) := detect 8 { seg := c.seg, func := c.fn } true s
      .next (if hit then commandFault id c ef s else s)
    | none => .next s

/-- HEARTBEAT_MISS: house core `k` has not stored to its heartbeat for 1 ms, or an injection has suppressed its next one: DT27, the
core is reset, and its work retried. A core that a debugger holds misses none. -/
def execHeartbeatMiss (t k : Nat) (s : State) : Host.Outcome State Fault Refusal :=
  let s := tick t s
  if !isHouse s k ∨ !corePowered s k ∨ (coreOf s k).st = .halted ∨ (coreOf s k).st = .held then .next s
  else
    let missed := decide (s.now - (coreOf s k).beat ≥ 1000000)
    let ef := detectEf 27 (coreSite s k) missed s
    let (hit, s) := detect 27 (coreSite s k) missed s
    .next (if hit then coreFault k 27 ef s else s)

/-- A host read of `work` fails with detector `k`: AER, and the descriptor or command ends with 0x0108, but in a bypass window nothing more
happens (R192, R428, R429, R666). -/
def hostReadBad (k ef : Nat) (work : Work) (s : State) : State := match work with
  | .chan c => match (tgetD {} c s.mov.chans).queue with
    | x :: _ =>
      if dmOp x.desc = 2 then
        let s := raiseF k { seg := c / 64, func := x.func } ef s
        if bypassed s k then s else dmFail c x 0x0108 (dmWhole x.got.length (dmLen x.desc)) none (emit (.aer false k) s)
      else s
    | [] => s
  | .command id => match tget id s.rge.flights with
    | some c => (match opRow c.opcode with
      | some o =>
        if o.data = .fromHost then
          let s := raiseF k { seg := c.seg, func := c.fn } ef s
          if bypassed s k then s else failSealX id 0x0108 c { detector := k } (emit (.aer false k) s)
        else s
      | none => s)
    | none => s
  | _ => s

/-- HOST_READ_COMPLETION: a completion for a read of `work` arrives: good (`ok`), with its data, or poisoned, malformed, Unsupported
Request or Completer Abort. A command takes its data with its own row. While an injection for DT02 is armed the completion is
discarded, and its read runs out of time (R429, R666). -/
def execHostReadCompletion (t : Nat) (work : Work) (ok : Bool) (data : List Byte) (s : State) : Host.Outcome State Fault Refusal :=
  let s := tick t s
  if injHits s 2 0xFF 0xFFFF then .next s
  else
    let (bad, ef, s) := match work with
      | .chan c => meet 1 (c / 64) (c % 64) (!ok) s
      | _ => (!ok, 0, s)
    let s := if bad then hostReadBad 1 ef work s else s
    if bad && !bypassed s 1 then .next s
    else match work with
      | .chan c => .next (askHost c (onChannel c (dmTake data) (askHost c s)))
      | .command id => .next (askMore id (onFlight id (fun c => { c with reading := c.reading - data.length }) s))
      | _ => .next s

/-- HOST_READ_TIMEOUT: a read of `work` has no completion within 10 ms: DT02 (R429, R666). -/
def execHostReadTimeout (t : Nat) (work : Work) (s : State) : Host.Outcome State Fault Refusal :=
  let s := tick t s
  let (_, ef, s) := meet 2 0xFF 0xFFFF true s
  .next (hostReadBad 2 ef work s)

end Sys2Proof.Machine
end

