-- ==== Sys2Proof/Machine/RegFile.lean ====
section
/-!
DEFINITION. The reading and writing of set-up registers as the bus and the DAP see them: live values, windows, counters' copies, and
the writes that act (R2, R7, R814 to R827, and the register rules of the owning chapters).
-/
namespace Sys2Proof.Machine

/-! ## Reading (R817, R818, R826) -/

/-- The low registers of the 48-bit counters, whose high half lies 4 bytes above (R416, R418). -/
def longCtrs : List Nat :=
  [Reg.cadOdoTotalLo, Reg.brcEntriesLo, Reg.brcRestartLo, Reg.pwmShedLo, Reg.pwmVlateLo, Reg.pthErasesLo, Reg.pthJbytesLo,
   Reg.dxrRindExcLo] ++ (List.range 16).map Reg.dxrExcLo
  ++ [0, 1, 2, 3].flatMap fun n =>
    [Reg.clsSealsLo n, Reg.clsRecallsLo n, Reg.clsExcessLo n, Reg.clsVoidLo n, Reg.idxRecordsLo n, Reg.idxUnparsedLo n, Reg.idxStayLo n,
     Reg.zstCinLo n, Reg.zstCoutLo n, Reg.zstDoutLo n, Reg.zstRawblkLo n, Reg.zstBypassLo n, Reg.medGcLo n, Reg.medPatrolLo n,
     Reg.medReclaimLo n, Reg.flwWindowsLo n, Reg.flwSuspendLo n, Reg.flwAroundLo n, Reg.flwGuardLo n, Reg.cryCipherLo n,
     Reg.cryDigestLo n, Reg.cryBusyLo n, Reg.cryGcmfailLo n, Reg.dspGetsLo n, Reg.dspRunsLo n, Reg.dspBudgetLo n, Reg.drmRdLo n,
     Reg.drmWrLo n, Reg.drmNbrLo n, Reg.drmRfmLo n, Reg.dmvRdLo n, Reg.dmvWrLo n, Reg.pwmLvlchgLo n, Reg.pwmWakeLo n, Reg.pwmThrotLo n]

/-- The read registers of the fault tallies and of the Class S maxima, which have 32 bits (R185, R416). -/
def shortCtrs : List Nat :=
  [Reg.cadGlitch, Reg.brcShort, Reg.cryAlarms, Reg.cryRngfail, Reg.pthFail, Reg.lcsRefused]
  ++ ([0, 1, 2, 3].flatMap fun n => [Reg.clsOverrun n, Reg.clsMaxSeal n, Reg.clsMaxRecall n, Reg.medMovefail n, Reg.flwLate n,
      Reg.flwReerase n, Reg.zstFormat n, Reg.zstCheck n, Reg.dmvRetry n, Reg.dspSandbox n])
  ++ (List.range 32).map Reg.flwCherr ++ (List.range 64).map Reg.intTally

/-- The same of a function's BAR0. -/
def fnLongCtrs (f : Nat) : List Nat := [Reg.fnPipOkLo f, Reg.fnPipDupLo f, Reg.fnSweepFoundLo f]
def fnShortCtrs (f : Nat) : List Nat := [Reg.fnPipBad f, Reg.fnNoticeDrop f]

/-- What a counter's read register shows, if `a` is one (R418). -/
def ctrRead (s : State) (a : Nat) : Option Nat :=
  let f := a / 0x1000000 - 1
  let (long, short) := if a < 0x1000000 then (longCtrs, shortCtrs) else (fnLongCtrs f, fnShortCtrs f)
  if long.contains a ∨ short.contains a then some (snapOf s a % 2 ^ 32)
  else if a ≥ 4 ∧ long.contains (a - 4) then some (snapOf s (a - 4) / 2 ^ 32 % 2 ^ 16)
  else none

/-- The number in the 4 bytes of a window at offset `o`. -/
def win4 (l : List Byte) (o : Nat) : Nat := fld l o 4

/-- 16 bytes of PPS entry `k` (R37, R39). -/
def ppsBytes (s : State) (k : Nat) : List Byte := match tget k s.cad.pps with
  | none => zeros 16
  | some r => pack [(8, r.time), (4, r.interval), (2, r.seq), (1, flags [r.valid, r.first, r.missed, r.unlocked]), (1, 0)]

/-- Code of a function table entry's STATE. -/
def FnSt.code : FnSt → Nat
  | .absent => 0 | .ready => 1 | .refused => 2 | .resetting => 3

/-- The 32 bytes of function `f`'s table entry (R58); where only function 0 exists, the other entries read 0 (R828, R829). DESIGN CHOICE
(log 107): ERROR, which is valid in STATE 2 only, reads 0 in every other. -/
def fnEntryBytes (s : State) (f : Nat) : List Byte :=
  let e := funcOf s f
  if (s.boot.plain || rescue s) && f != 0 then zeros 32 else
  pack [(4, e.slots), (2, e.sq), (2, e.cq), (2, e.vectors), (2, e.streams), (1, flags [e.enable, e.sAllowed]), (1, e.st.code),
    (1, if e.st = .refused then e.err else 0), (17, 0)]

/-- STATE of `DXR_COREk`: off, held, running, waiting, halted, stopped, quarantined, asleep. -/
def coreState (s : State) (k : Nat) : Nat :=
  if k ≠ rindCore ∧ !segOn s (k / 4) then 0
  else if s.integ.quarantined.contains k then 6
  else if !corePowered s k then 7
  else match (coreOf s k).st with
    | .held => 1
    | .running => 2
    | .waiting => 3
    | .halted => 4
    | .stopped => 5

/-- `DXR_COREk`. -/
def coreWord (s : State) (k : Nat) : Nat :=
  coreState s k * 2 ^ 29 + b2n (isHouse s k) * 2 ^ 28 + (coreOf s k).lastExc * 256

/-- Wait states of the Pith Array at the Rind fabric clock and VDD_RIND in force (R679, R717). -/
def pithWait (s : State) : Nat :=
  let base := match s.pwr.rindSleep with
    | 0 => if s.pins.rindLow then 23 else 17
    | 1 => if s.pins.rindLow then 11 else 8
    | _ => if s.pins.rindLow then 5 else 4
  base + fieldOf s Reg.pthCtrl 3 0

/-- The read-only fields of a BAR2 register that show live state, of the blocks without a part for each Segment. -/
def liveRind (s : State) (a : Nat) : Nat :=
  if a = Reg.bootStatus then
    s.boot.cause * 4096 + s.boot.running.code * 256 + s.boot.step * 16 + b2n s.boot.service * 2 + b2n s.boot.cfgReady
  else if a = Reg.bootAttempts then min 3 s.boot.attempts
  else if a = Reg.lcsStatus then
    b2n (grantsOff s) * 512 + b2n s.life.prepared * 256 + s.dbg.level.code * 64 + b2n (s.life.busy || s.life.chal) * 32 + b2n s.life.vault * 16
      + s.life.lstate.code
  else if a = Reg.lcsResult then b2n s.life.done * 2 ^ 31 + s.life.code
  else if a = Reg.lcsIdcode then 0x1321654B
  else if Reg.lcsChal 0 ≤ a ∧ a ≤ Reg.lcsChal 7 then win4 s.life.nonce (a - Reg.lcsChal 0)
  else if a = Reg.pwmStatus then
    b2n s.pwr.crit * 512 + b2n s.pwr.shed * 256
      + flags ([0, 1, 2, 3].map fun n => capOf s n != 0) + 16 * flags ([0, 1, 2, 3].map fun n => segOn s n && sleepOf s n != 0)
  else if a = Reg.pwmRind then s.pwr.rindSleep * 16
  else if Reg.pwmTemp 0 ≤ a ∧ a ≤ Reg.pwmTemp 4 then tempOf s ((a - Reg.pwmTemp 0) / 4)
  else if a = Reg.cadPeriod then s.cad.period
  else if a = Reg.cadStatus then
    b2n ((tget 16 s.cad.fences).isSome) * 128 + b2n s.cad.exhausted * 64 + b2n (!s.cad.retune.isEmpty) * 32 + s.cad.qual.code * 8
      + s.cad.st.code
  else if a = Reg.cadNowLo then s.cad.snapTime % 2 ^ 32
  else if a = Reg.cadNowHi then s.cad.snapTime / 2 ^ 32
  else if a = Reg.cadOdoLast then s.cad.odoDelta * 65536 + s.cad.odoLastFrame % 65536
  else if a = Reg.cadPpsHead then s.cad.ppsIndex * 65536 + s.cad.ppsSeq
  else if Reg.cadPpsWin 0 ≤ a ∧ a < Reg.cadPpsWin 64 then
    win4 (ppsBytes s ((a - Reg.cadPpsWin 0) / 16)) ((a - Reg.cadPpsWin 0) % 16)
  else if Reg.cadFenceWin 0 ≤ a ∧ a < Reg.cadFenceWin 136 then
    win4 (fenceBytes s ((a - Reg.cadFenceWin 0) / 32)) ((a - Reg.cadFenceWin 0) % 32)
  else if a = Reg.brcStatus then
    flags [s.brc.active, s.brc.flushing, s.brc.flushed, s.brc.exitWait.isSome, !sysBack s, huReady s, s.brc.short]
  else if a = Reg.brcPbrace then s.brc.pbrace
  else if a = Reg.brcRate then s.brc.rate
  else if a = Reg.brcCeff then s.brc.ceff
  else if a = Reg.brcCover then s.brc.cover / 1048576
  else if a = Reg.brcNeed then needOf s
  else if a = Reg.brcAvail then s.brc.avail
  else if a = Reg.pthStatus then flags [(portOf s 0).busy, s.pith.pvalid, decide ((portOf s 0).unlocks > 0)]
  else if a = Reg.pthResult then b2n (portOf s 0).done * 2 ^ 31 + (portOf s 0).code
  else if a = Reg.pthWait then pithWait s
  else if a = Reg.pthJfree then liveSectors s * 65536 + freeSectors s
  else if a = Reg.pthPgen then s.pith.pgen
  else if a = Reg.rgeStatus then b2n s.boot.plain
  else if a = Reg.rgePool0 then cqFree s * 65536 + sqFree s
  else if a = Reg.rgePool1 then vecFree s * 65536 + streamFree s
  else if a = Reg.rgePool2 then slotFree s
  else if a = Reg.rgeInflight then s.rge.flights.length
  else if a = Reg.clsStatus then
    flags [s.brc.active, rescue s, s.dbg.level == .full, s.pwr.shed, (segs s).any fun n => hasClassS s n && decide (levelOf s n > 2)]
  else if a = Reg.idxStatus then flags ([0, 1, 2, 3].map fun n => segOn s n && decide (idxUsed s n ≥ idxSlots s n))
  else if a = Reg.zstStatus then s.zst.bypass
  else if a = Reg.medStatus then
    b2n s.med.harvest * 256 + floorBits s * 16
      + flags ([0, 1, 2, 3].map fun n => segOn s n && decide (freeBands s n ≤ fieldOf s Reg.medGc 23 16))
  else if a = Reg.flwStatus then
    flags ([0, 1, 2, 3].map fun n => segOn s n && !tany (fun c x => c / 8 == n && x.state == 1) s.flw.chans)
      + 16 * flags ([0, 1, 2, 3].map fun n => tany (fun _ x => x.lost) (usableOf s n))
  else if a = Reg.intStatus then flags [s.integ.armed, s.integ.bypass.isSome, s.integ.degraded]
  else if a = Reg.intInj then s.integ.injResult * 2 ^ 29
  else if a = Reg.intFuseFree then 512 - s.integ.fuses.length
  else if Reg.intFuseWin 0 ≤ a ∧ a < Reg.intFuseWin 512 then s.integ.fuses.getD ((a - Reg.intFuseWin 0) / 4) 0
  else if a = Reg.cryStatus then flags [rngReady s, flagOf s Reg.cryStatus 1, s.cry.rederive, s.cry.closed]
  else if a = Reg.dspStatus then flags ([0, 1, 2, 3].map fun n => segOn s n && (guestCores s n).isEmpty)
  else if a = Reg.drmStatus then
    flags (([0, 1, 2, 3].map fun n => (tgetD {} n s.mov.drams).trained) ++ [0, 1, 2, 3].map fun n => (tgetD {} n s.mov.drams).filling)
  else if a = Reg.dmvStatus then flags ([0, 1, 2, 3].map fun n => tany (fun c x => c / 64 == n && x.halted) s.mov.chans)
  else if a = Reg.dxrRindCore then coreWord s rindCore
  else if a = Reg.dxrRindPc then (coreOf s rindCore).pc.toNat
  else 0

/-- The same of the registers of Segment `n`. -/
def liveSeg (s : State) (n a : Nat) : Nat :=
  let d := tgetD {} n s.mov.drams
  if a = Reg.clsSealResv n then sealResv s n
  else if a = Reg.clsRecall n then recallResv s n * 65536
  else if a = Reg.clsVoidCause n then tgetD 0 n s.cmd.voidCause
  else if a = Reg.idxUsed n then idxUsed s n
  else if a = Reg.zstQueue n then tcount (fun _ j => j.seg == n) s.zst.jobs
  else if a = Reg.medFree n then freeBands s n
  else if a = Reg.medSpare n then spareNow s n
  else if a = Reg.flwWheel n then (if sleepOf s n ≥ 2 then (tgetD (0, 0) n s.pwr.wheel).1 else wheelN s)
  else if a = Reg.flwSpace n then (if sleepOf s n ≥ 2 then (tgetD (0, 0) n s.pwr.wheel).2 else wheelS s)
  else if a = Reg.flwSegcfg n then (usableOf s n).length / 8 * 65536
  else if Reg.flwChstat 0 ≤ a ∧ a ≤ Reg.flwChstat 31 then
    let c := (a - Reg.flwChstat 0) / 16
    let x := tgetD {} c s.flw.chans
    let l := tfilter (fun k _ => k / 16 == c) s.flw.dies
    x.state * 2 ^ 28 + x.rate * 2 ^ 24 + tcount (fun _ y => y.found) l * 2 ^ 16 + flags ((List.range 16).map fun p => tany (fun _ y => y.pos == p && y.lost) l)
  else if a = Reg.cryCtxuse n then
    let l := tfilter (fun k _ => k / 64 == n) s.cry.ctxs
    l.length + tcount (fun _ x => decide (x.page < 256)) l * 256
      + inlineUse s n true * 65536
  else if a = Reg.cryHold n then holdUsed s n
  else if a = Reg.cryLanes n then flags ((List.range 4).map fun l => !s.integ.quarantined.contains (laneUnit n l))
  else if a = Reg.dspItems n then itemCount s n
  else if a = Reg.dspDelay n then usCount s n * 65536 + tickCount s n
  else if a = Reg.drmSpare n then 4096 - d.remap.length
  else if a = Reg.drmCfg n then d.cap * 2 ^ 24 + d.rate * 2 ^ 20 + d.ranks * 2 ^ 16 + d.density * 256 + b2n d.x8
  else if a = Reg.dmvHaltLo n then flags ((List.range 32).map fun c => (tgetD {} (n * 64 + c) s.mov.chans).halted)
  else if a = Reg.dmvHaltHi n then flags ((List.range 32).map fun c => (tgetD {} (n * 64 + 32 + c) s.mov.chans).halted)
  else if a = Reg.pwmSegst n then
    levelOf s n + sleepOf s n * 16
      + 65536 * flags [hasClassS s n && decide (max (max (proposalOf s n) (fieldOf s (Reg.pwmSegcfg n) 1 0)) (capOf s n) > 2)
                         && !s.brc.active && !s.pwr.shed,
                       decide (capOf s n > max (proposalOf s n) (fieldOf s (Reg.pwmSegcfg n) 1 0)), s.pwr.shed, s.brc.active]
  else if Reg.dxrCore 0 ≤ a ∧ a < Reg.dxrCore 16 then
    let k := (a - Reg.dxrCore 0) / 16
    if (a - Reg.dxrCore 0) % 16 = 0 then coreWord s k else if (a - Reg.dxrCore 0) % 16 = 4 then (coreOf s k).pc.toNat else 0
  else 0

/-- The same of a function's BAR0 blocks. -/
def liveFn (s : State) (f a : Nat) : Nat :=
  let e := funcOf s f
  if a = Reg.fnStatus f then flags [fnReady s f, e.st == .resetting, e.dbSet && fnReady s f, s.boot.plain]
  else if a = Reg.fnQuota0 f then e.cq * 65536 + e.sq
  else if a = Reg.fnQuota1 f then e.vectors * 65536 + e.streams
  else if a = Reg.fnSlots f then e.slots
  else if a = Reg.fnRingResult f then b2n e.deleting.isSome * 2 ^ 31 + e.resCode * 65536 + e.resGlobal
  else if a = Reg.fnkStatus f then flags [(tget f s.cry.expKeys).isSome, (tget f s.cry.fnSalts).isSome]
  else 0

/-- Live fields of a register. -/
def liveWord (s : State) (a : Nat) : Nat :=
  if a ≥ 0x1000000 then liveFn s (a / 0x1000000 - 1) a
  else match absentSeg a with
    | some n => liveSeg s n a
    | none => liveRind s a

/-- Bits of a register's fields of some access types. -/
def accMask (p : Access → Bool) (r : RegDef) : Nat := namedMask { r with fields := r.fields.filter fun f => p f.acc }

/-- The windows of BAR2 that software writes as well (R758, R682, R58), if `a` lies in one. -/
def winRead (s : State) (a : Nat) : Option Nat :=
  if 0x11000 ≤ a ∧ a < 0x12000 then some (win4 s.life.win (a - 0x11000))
  else if 0x51000 ≤ a ∧ a < 0x52000 then some (win4 s.pith.stage (a - 0x51000))
  else if 0x61000 ≤ a ∧ a < 0x63000 then some (win4 (fnEntryBytes s ((a - 0x61000) / 32)) (a % 32))
  else none

/-- What a function's MSI-X table and pending-bit array read (R98). -/
def msixRead (s : State) (f o : Nat) : Nat :=
  if o < 0x8000 then (List.range 32).foldl (fun m i => if s.rge.pba.contains (f * 4096 + (o - 0x2000) * 8 + i) then m + 2 ^ i else m) 0
  else if (o - 0x8000) / 16 ≥ (funcOf s f).vectors then 0
  else
    let (addr, data, masked) := tgetD (0, 0, true) (f * 4096 + (o - 0x8000) / 16) s.rge.msix
    match o % 16 with
    | 0 => addr % 2 ^ 32
    | 4 => addr / 2 ^ 32
    | 8 => data
    | _ => b2n masked

/-- An offset of BAR0 lies in the MSI-X table or the pending-bit array. -/
def inMsix (o : Nat) : Bool := (decide (0x8000 ≤ o) && decide (o < 0x10000)) || (decide (0x2000 ≤ o) && decide (o < 0x2100))

/-- What a read of an assigned or unassigned register returns (R7, R818, R820, R826). The BAR0 of a virtual function does not exist in
the Plain personality. -/
def readReg (s : State) (a : Nat) : Nat :=
  if a ≥ 0x1000000 ∧ inMsix (a % 0x1000000) ∧ !(s.boot.plain && decide (a ≥ 0x2000000)) then msixRead s (a / 0x1000000 - 1) (a % 0x1000000) else
  if s.boot.plain && decide (a ≥ 0x1000000) then (if a < 0x2000000 then nvmeReg s (a - 0x1000000) else 0) else
  match winRead s a, ctrRead s a, regAt a with
  | some v, _, _ => v
  | _, some v, _ => v
  | _, _, some r =>
    ((word s a).toNat &&& accMask (fun x => x == .rw || x == .rwl || x == .w1c) r)
      ||| (liveWord s a &&& accMask (fun x => x == .ro || x == .rs) r)
  | _, _, none => 0

/-- A read of BAR2 over the link or the DAP: of a disabled Segment it returns all ones, and DT07 logs it; an injection for DT07
answers the next read so, but for a bypass window (R2, R428, R429; log 157). A register of a domain that sleeps wakes it, but one of a Segment in S2 or S3 is answered from
its retention copy (R718, R721, R823). -/
def bar2Read (a : Nat) (s : State) : Option Nat × State :=
  let (off, ef, s) := meet 7 0xFF 0xFFFF (match absentSeg a with | some n => !segOn s n | none => false) s
  let s := if off then raiseF 7 { seg := (absentSeg a).getD 0xFF, loc := a } ef s else s
  if off && !(bypassed s 7 && ef == efInjected) then (none, s)
  else
    let s := match regSeg a with
      | some n => if sleepOf s n = 1 then updateFloor (wakeNow n s) else s
      | none => if a ≥ 0x60000 ∧ a < 0x120000 then wakeNow rindx s else s
    (some (readReg s a), s)

/-! ## Writing (R817 to R823) -/

/-- The state after a meaning. -/
def after (o : Host.Outcome State Fault Refusal) (s : State) : State := match o with
  | .next s' => s'
  | _ => s

/-- The enabled bytes of `v` written over a window (R817). -/
def patchWord (l : List Byte) (o : Nat) (v : Word) (be : Nat) : List Byte :=
  [0, 1, 2, 3].foldl (fun l i => if nbit be i then patch l (o + i) [BitVec.ofNat 8 (v.toNat / 256 ^ i)] else l) l

/-- A strobe at bit 0: it acts only when its byte is enabled and it is written with 1 (R817). -/
def strobed (v : Word) (be : Nat) : Bool := nbit (v.toNat &&& beMask be) 0

/-- A write to block LCS (R735, R758, R759). -/
def lcsWrite (a : Nat) (v : Word) (be : Nat) (s : State) : State :=
  if a = Reg.lcsCmd then
    let s := writeCommon a v be s
    if nbit be 0 then lcsCmdWrite (bits v 7 0) s else onLife (fun l => { l with confirm := none }) s
  else if a = Reg.lcsConfirm then
    onLife (fun l => { l with confirm := some (merge (BitVec.ofNat 32 (l.confirm.getD 0)) v be).toNat }) s
  else
    let s := onLife (fun l => { l with confirm := none }) s
    if 0x11000 ≤ a ∧ a < 0x12000 then onLife (fun l => { l with win := patchWord l.win (a - 0x11000) v be }) s
    else
      let s := writeCommon a v be s
      if a = Reg.lcsSnap ∧ strobed v be then snapAll [Reg.lcsRefused] s else s

/-- A write to block PWM: a shallower MAXSLEEP wakes its domain, and CEIL moves the level (R710, R718, R728 to R730). -/
def pwmWrite (a : Nat) (v : Word) (be : Nat) (s : State) : State :=
  let s' := writeCommon a v be s
  if a = Reg.pwmSnap then (if strobed v be then after (execPwmSnapNow s.now s') s' else s')
  else if a = Reg.pwmRind then
    if fieldOf s' a 1 0 < fieldOf s a 1 0 then startWake rindx s' else s'
  else match [0, 1, 2, 3].find? fun n => a == Reg.pwmSegcfg n with
    | some n => relevelAll (if fieldOf s' a 5 4 < fieldOf s a 5 4 then startWake n s' else s')
    | none => s'

/-- A write to block CAD: MODE 3 is reserved, and setting PPS_EN starts a new series of captures (R37, R53). -/
def cadWrite (a : Nat) (v : Word) (be : Nat) (s : State) : State :=
  let s' := writeCommon a v be s
  if a = Reg.cadSnap then (if strobed v be then after (execCadSnapNow s.now s') s' else s')
  else if a = Reg.cadCtrl then
    let s' := if fieldOf s' a 1 0 = 3 then setRsvd a (setField a 1 0 (fieldOf s a 1 0) s') else s'
    let s' := if fieldOf s' a 1 0 = 2 ∧ fieldOf s a 1 0 ≠ 2 then onCad (fun c => { c with ppsValid := [] }) s' else s'
    if flagOf s' a 7 && !flagOf s a 7 then onCad (fun c => { c with ppsLast := none }) s' else s'
  else s'

/-- A write to block BRC: HU_SRC 3 is ignored (R463, R464). -/
def brcWrite (a : Nat) (v : Word) (be : Nat) (s : State) : State :=
  let s' := writeCommon a v be s
  if a = Reg.brcSnap ∧ strobed v be then after (execBrcSnapNow s.now s') s'
  else if a = Reg.brcCtrl ∧ fieldOf s' a 1 0 = 3 then setRsvd a (setField a 1 0 (fieldOf s a 1 0) s')
  else s'

/-- A command written to `PTH_CMD` (R681 to R683). -/
def pthCommand (v : Word) (s : State) : State :=
  let ty := bits v 15 8
  let ix := bits v 23 16
  match bits v 7 0 with
  | 0x40 => after (execParamPut s.now 0 ty ix [] s) s
  | 0x41 => after (execParamDelete s.now 0 ty ix s) s
  | 0x42 => after (execParamGet s.now 0 ty ix s) s
  | _ => portResult 0 2 s

/-- A write to block PTH (R681, R682, R703). -/
def pthWrite (a : Nat) (v : Word) (be : Nat) (s : State) : State :=
  if 0x51000 ≤ a ∧ a < 0x52000 then onPith (fun p => { p with stage := patchWord p.stage (a - 0x51000) v be }) s
  else if a = Reg.pthKey then after (execPthKeyWrite s.now 0 (merge 0 v be) s) s
  else
    let s := writeCommon a v be s
    if a = Reg.pthCmd then (if nbit be 0 then pthCommand (merge 0 v be) s else s)
    else if a = Reg.pthSnap ∧ strobed v be then after (execPthSnapNow s.now s) s
    else s

/-- A write to the function table (R58 to R64): each quota field of which a byte is enabled, then CTL; reserved bytes keep 0. -/
def fnWinWrite (a : Nat) (v : Word) (be : Nat) (s : State) : State :=
  let f := (a - 0x61000) / 32
  let w := merge (BitVec.ofNat 32 (win4 (fnEntryBytes s f) (a % 32))) v be
  let quota := fun (q : Quota) (x : Nat) (on : Bool) (s : State) => if on then after (execQuotaWrite s.now f q x s) s else s
  let spare := if a % 32 < 12 then 0 else if a % 32 = 12 then bits (merge 0 v be) 31 24 else (merge 0 v be).toNat
  let s := if spare ≠ 0 ∧ (f = 0 ∨ (!s.boot.plain ∧ !rescue s)) then setRsvd Reg.rgeStatus s else s
  if fnTableShut s f then s else
  let lo := nbit be 0 || nbit be 1
  let hi := nbit be 2 || nbit be 3
  match a % 32 with
  | 0 => quota .slots w.toNat (lo || hi) s
  | 4 => quota .cq (bits w 31 16) hi (quota .sq (bits w 15 0) lo s)
  | 8 => quota .streams (bits w 31 16) hi (quota .vectors (bits w 15 0) lo s)
  | 12 =>
    if !nbit be 0 then s
    else if nbit v.toNat 0 then after (execFunctionEnable s.now f (bits v 7 0) s) s
    else after (execFunctionDisable s.now f (bits v 7 0) s) s
  | _ => s

/-- A write to a register of the Rind part of the blocks RGE to CRY. Credits are settled before a new `CLS_BURST` applies (R170, R171). (R161, R320, R428, R431, R432, R511, R512, R566). -/
def rindWrite (a : Nat) (v : Word) (be : Nat) (s : State) : State :=
  if 0x61000 ≤ a ∧ a < 0x63000 then fnWinWrite a v be s
  else if a = Reg.intInj then intInjWrite v be s
  else if a = Reg.intBypass then intBypassWrite v be s
  else if a = Reg.cryCtrl then cryCtrlWrite v be s
  else
    let s := if a = Reg.clsBurst then onCmd (fun q => { q with streams := tmap (fun _ x => grow s x) q.streams }) s else s
    let s' := writeCommon a v be s
    if a = Reg.clsWeight then
      (if blockLocked s a then s' else onRge (fun r => { r with curA := 0, curB := 0, curZ := 0 }) s')
    else if a = Reg.dxrSnap ∧ strobed v be then snapAll (Reg.dxrRindExcLo :: (List.range 16).map Reg.dxrExcLo) s'
    else if a = Reg.intSnap ∧ strobed v be then after (execIntSnapNow s.now s') s'
    else if a = Reg.crySnap ∧ strobed v be then after (execCrySnapNow s.now s') s'
    else if a = Reg.medHarvest then checkHarvest s'
    else s'

/-- A write to a BAR2 offset (R2, R816 to R823, R827). -/
def bar2Write (a : Nat) (v : Word) (be : Nat) (s : State) : State := match regSeg a with
  | some n =>
    let q := segWrite n a v be (segRegWrite n a v be) (if a = Reg.drmSnap n ∧ strobed v be ∧ segOn s n then drmCount n s else s)
    if sleepOf s n = 1 then updateFloor q else q
  | none =>
    match absentSeg a with
    | some n => if segOn s n then pwmWrite a v be s else raise 7 { seg := n, loc := a } s
    | none => match a / 0x10000 with
      | 1 => lcsWrite a v be s
      | 2 => pwmWrite a v be s
      | 3 => cadWrite a v be s
      | 4 => brcWrite a v be s
      | 5 => pthWrite a v be s
      | b => if 6 ≤ b ∧ b ≤ 0x11 then rindWrite a v be (wakeNow rindx s) else writeCommon a v be s

/-! ## BAR0 (R815, R836) -/

/-- A write to function `f`'s MSI-X table; unmasking a vector whose pending bit is set sends its message (R98, R820). -/
def msixWrite (f o : Nat) (v : Word) (be : Nat) (s : State) : State :=
  let n := (o - 0x8000) / 16
  let k := f * 4096 + n
  if n ≥ (funcOf s f).vectors then setFlag (Reg.fnStatus f) 31 s
  else
    let (addr, data, masked) := tgetD (0, 0, true) k s.rge.msix
    let m := fun (old : Nat) => (merge (BitVec.ofNat 32 old) v be).toNat
    let e := match o % 16 with
      | 0 => (addr / 2 ^ 32 * 2 ^ 32 + m (addr % 2 ^ 32), data, masked)
      | 4 => (addr % 2 ^ 32 + m (addr / 2 ^ 32) * 2 ^ 32, data, masked)
      | 8 => (addr, m data, masked)
      | _ => (addr, data, nbit (m (b2n masked)) 0)
    let s := onRge (fun r => { r with msix := tput k e r.msix }) s
    if masked && !e.2.2 && s.rge.pba.contains k then
      sendVector f n (onRge (fun r => { r with pba := r.pba.filter (· != k) }) s)
    else s

/-- A write to `FN_RING_CMD` (R67, R69, R70, R836). -/
def ringCommand (f : Nat) (v : Word) (s : State) : State :=
  let i := bits v 11 0
  let sub := bits v 12 12 == 0
  match bits v 17 16 with
  | 1 => after (execRingCreate s.now f i s) s
  | 2 => after (execRingDelete s.now f sub i s) s
  | 3 => after (execRingQuery s.now f sub i s) s
  | _ => s

/-- A write to the blocks FN, FNK and DSPF of function `f` (R71, R73, R101, R499, R631, R836). -/
def fnWrite (f a : Nat) (v : Word) (be : Nat) (s : State) : State :=
  if a = Reg.fnDbLo f then after (execDoorbellBaseWrite s.now f false v be s) s
  else if a = Reg.fnDbHi f then after (execDoorbellBaseWrite s.now f true v be s) s
  else if (List.range 8).any (fun i => a == Reg.fnkExpkey f i) then setWord a (merge (word s a) v be) s
  else if (List.range 4).any (fun i => a == Reg.dspfHwBaseLo f i || a == Reg.dspfHwBaseHi f i || a == Reg.dspfHwLen f i || a == Reg.dspfHw f i) then
    hwWrite f a v be s
  else if a = Reg.fnRingCmd f ∧ ringBusy s f then flagReserved a v be (setFlag (Reg.fnStatus f) 30 s)
  else
    let s := writeCommon a v be s
    if a = Reg.fnRingCfg f then
      (if (be / 4 != 0 && fieldOf s a 31 16 == 0) || (nbit be 1 && decide (fieldOf s a 10 8 ≥ 5)) then setRsvd a s else s)
    else if a = Reg.fnRingCmd f then (if nbit be 2 then ringCommand f (merge 0 v be) s else s)
    else if a = Reg.fnSnap f ∧ strobed v be then after (execFnSnapNow s.now f s) s
    else if a = Reg.fnkCtrl f then
      let w := v.toNat &&& beMask be
      let s := if nbit w 0 then after (execExportKeySet s.now f s) s else s
      if nbit w 1 then after (execExportKeyClear s.now f s) s else s
    else s

/-- A write to BAR0 of function `f` at an offset (R74, R815, R820). A BAR0 that does not exist takes none; the Plain controller's is laid out by
NVMe, beside the MSI-X table (R56, R828). -/
def bar0Write (f o : Nat) (v : Word) (be : Nat) (s : State) : State :=
  if f ≠ 0 ∧ (s.boot.plain ∨ !s.rge.vfEnable ∨ f > s.rge.numVfs) then s
  else if s.boot.plain ∧ !inMsix o then
    nvmeWrite o (merge (if o = 0x0C ∨ o = 0x10 then 0 else BitVec.ofNat 32 (nvmeReg s o)) v be).toNat s
  else if 0x1000 ≤ o ∧ o < 0x2000 then pip f v be s
  else if 0x8000 ≤ o ∧ o < 0x10000 then msixWrite f o v be s
  else if 0x2000 ≤ o ∧ o < 0x2100 then (if (o - 0x2000) * 8 ≥ (funcOf s f).vectors then setFlag (Reg.fnStatus f) 31 s else s)
  else fnWrite f (bar0 f + o) v be (wakeNow rindx s)

/-- A write to the register at an address of the register file. -/
def regWrite (a : Nat) (v : Word) (be : Nat) (s : State) : State :=
  if a ≥ 0x1000000 then bar0Write (a / 0x1000000 - 1) (a % 0x1000000) v be s else bar2Write a v be s

/-- REGISTER_WRITE: a write over the link, decoded from boot step 8 on (R775, R817). The address is a BAR2 offset, or
`bar0 f` plus an offset of function `f`'s BAR0. -/
def execRegisterWrite (t a : Nat) (v : Word) (be : Nat) (s : State) : Host.Outcome State Fault Refusal :=
  let s := tick t s
  .next (if s.boot.cfgReady then regWrite a v be s else s)

/-- BLOCK_LOCK: a write of 1 to the LOCK bit of BAR2 block `blk` (R821). -/
def execBlockLock (t blk : Nat) (v : Word) (be : Nat) (s : State) : Host.Outcome State Fault Refusal :=
  let s := tick t s
  .next (if s.boot.cfgReady && nbit v.toNat 31 && nbit be 3 then regWrite (0x10000 * blk) v be s else s)

end Sys2Proof.Machine
end

