-- ==== Sys2Proof/Machine/Reset.lean ====
section
/-!
DEFINITION. Resets: what each source resets, the power loss, PERST_N and the link, and the flush that a reset waits for
(R29, R99, R400, R445, R458, R674, R760 to R762, R775, R796, R824).
-/
namespace Sys2Proof.Machine

/-- Change the start-up state; the pins. -/
def onBoot (f : Boot → Boot) (s : State) : State := { s with boot := f s.boot }
def onPins (f : Pins → Pins) (s : State) : State := { s with pins := f s.pins }

/-! ## What Stone loses (R439, R458) -/

/-- A block that lay only in Stone is lost: what it then reads is a free value (log 51). -/
def loseBlock (n b : Nat) (s : State) : State :=
  match nsOf s n with
  | some x => if (tget b x.blocks).isSome then
      draw (onNs n (fun x => { x with blocks := tput b (fit 4096 (Config.lostBlock s.draws b)) x.blocks }) s)
    else s
  | none => s

/-- An item that is neither verified on media nor in a retained flush image is lost (R458). -/
def loseItem (s : State) (i : StoneItem) : State :=
  if i.isRec then onStrm i.a (fun x => { x with recs := tdel i.b x.recs }) s
  else match nsOf s i.a with
    | some x => (List.range (grainBlocks x)).foldl (fun s j => loseBlock i.a (i.b * grainBlocks x + j) s) s
    | none => s

/-- Stone is gone: what no image holds is lost. -/
def loseStone (s : State) : State :=
  let l := [0, 1, 2, 3].flatMap (toFlush s)
  onMed (fun m => { m with stone := [] }) (l.foldl loseItem s)

/-! ## What every reset takes (R760, R762, R824) -/

/-- A die without what it was doing. -/
def quietDie (x : Die) : Die :=
  { x with op := none, queue := [], going := [], progs := [], decided := none, opened := none, errs := 0, ahead := none, guard := none }

/-- A band without the activity that claimed it and the units that were not programmed; a row that is not verified gives nothing, and an erase that had
not finished is pending again (R373, R397). -/
def quietBand (b : Band) : Band :=
  { b with claim := 0, erased := b.erased && b.wait.isEmpty, wait := [], prep := if b.wait.isEmpty then b.prep else 0,
           units := tmap (fun u x => if b.okRows.contains (u / 64) then x else { x with parts := [], moved := [] }) (tfilter (fun _ u => u.done) b.units) }

/-- The media state that no reset takes: bands, HARVEST and its figures, retirements, sizes in force, the dies that each owner's units went to last, and
what is queued for refresh (R281, R316, R379). -/
def quietMed (m : Med) : Med :=
  { capacity := m.capacity, opPct := m.opPct, sparePct := m.sparePct, harvest := m.harvest, floor := m.floor, shortfall := m.shortfall,
    lastDies := m.lastDies, refresh := m.refresh, weak := m.weak, refreshed := m.refreshed,
    spareInit := m.spareInit, bands := tmap (fun _ b => quietBand b) m.bands, mapMiB := m.mapMiB, ckptNo := m.ckptNo, seq := m.seq, drains := m.drains, ckpts := m.ckpts,
    order := m.order, retired := m.retired, pctSeen := m.pctSeen, spareLow := m.spareLow }

/-- Everything outside the AON domain at its reset value; what media and the Pith Array hold stays (R760, R824). The debug session
ends, and the JTAG port keeps its instruction (R750). -/
def wipe (s : State) : State :=
  { s with
    regs := []
    rge := {}
    integ := { segFuse := s.integ.segFuse, fuses := s.integ.fuses, sramSpare := s.integ.sramSpare, quarantined := s.integ.quarantined, promoted := s.integ.promoted,
               deadSeg := s.integ.deadSeg, inadm := s.integ.inadm }
    dbg := { ir := s.dbg.ir, dr := s.dbg.dr, bsr := s.dbg.bsr, extest := s.dbg.extest }
    pins := { s.pins with link := .down, speed := 0, width := 0 }
    cmd := { nss := s.cmd.nss, idxMiB := s.cmd.idxMiB,
             streams := tmap (fun _ x => { x with inService := none }) s.cmd.streams }
    zst := {}
    flw := { dies := tmap (fun _ x => quietDie x) s.flw.dies, fixed := s.flw.fixed, layout := s.flw.layout, offsets := s.flw.offsets,
             blankFail := s.flw.blankFail }
    med := quietMed s.med
    dxr := {}
    dsp := { role := s.dsp.role, gpool := s.dsp.gpool }
    mov := { drams := tmap (fun _ d => { stone := d.stone, shared := d.shared, grain := d.grain }) s.mov.drams }
    errs := []
    errCounts := []
    history := [] }

/-- What a reset loses, but for the RS bits `INT_STATUS.DEGRADED` and `CRY_STATUS.ALARM`, which a watchdog or EXTEST reset that
came while RESET_N was high leaves set (R7, R824). -/
def wipeSoft (s : State) : State :=
  let soft := s.boot.soft && s.boot.resetN
  let u := wipe (loseStone s)
  let u := if soft && s.integ.degraded then onInt (fun i => { i with degraded := true }) u else u
  if soft && flagOf s Reg.cryStatus 1 then setFlag Reg.cryStatus 1 u else u

/-- A reset under R761 takes effect: Stone is gone, everything outside AON is reset, and the AON blocks' fields return to their
reset values while their live state runs on. BRACE, DEPOT and the debug session end; a salt that PREPARE held is discarded (R737,
R750, R754, R824). The part then waits for the release of the reset. -/
def resetNow (s : State) : State :=
  let aon := fun (m : Tab Nat) => tfilter (fun a _ => decide (a < 0x60000)) m
  let prev := modes s
  let level := s.dbg.level
  let s := wipeSoft s
  let tries := if s.boot.service then s.boot.attempts else min 3 (s.boot.attempts + 1)
  let s : State := { s with ctrs := aon s.ctrs, snaps := aon s.snaps,
                            life := { s.life with confirm := none, win := [], prepared := false, heldSalt := none } }
  let s : State := { s with cry := { zeroized := s.cry.zeroized, lastAlarm := s.cry.lastAlarm, rederive := s.cry.rederive,
                                     closed := s.cry.closed, rngOk := s.cry.rngOk },
                            brc := { s.brc with active := false, flushing := false, flushed := false, exitWait := none, measured := false } }
  let s : State := { s with pwr := { s.pwr with sleep := [], rindSleep := 0, waking := [], held := [] },
                            boot := { s.boot with step := 0, cfgReady := false, service := false, resetPending := false, inReset := true,
                                                  measurements := [], attempts := tries } }
  if level ≠ .closed then modeNotice prev 3 s else if clrBit prev 6 = clrBit (modes s) 6 then s else modeNotice prev 1 s

/-- A reset source of R761 acts: outside BRACE the 3216 enters BRACE with CAUSE 0, and the reset takes effect at step 8 of the
flush; where no flush runs, it takes effect at once (R445, R509, R745, R761). -/
def resetRequest (soft : Bool) (s : State) : State :=
  let s := if s.boot.resetPending then s else onBoot (fun b => { b with soft := soft }) s
  if s.boot.inReset then s
  else if s.boot.testMode then onBoot (fun b => { b with inReset := true }) s
  else
    let s := enterBrace 0 s
    if s.brc.flushing then onBoot (fun b => { b with resetPending := true }) s else resetNow s

/-- RESET_N_ASSERT. While a flush is in progress it is held off until step 8, and acts then if the ball is still low (R445,
R761). -/
def execResetNAssert (t : Nat) (s : State) : Host.Outcome State Fault Refusal :=
  let s := onBoot (fun b => { b with resetN := false }) (tick t s)
  .next (if s.brc.flushing then s else resetRequest false s)

/-- BOOT_WATCHDOG: full service has not been reached 20 s after the reference; it acts as RESET_N (R760). -/
def execBootWatchdog (t : Nat) (s : State) : Host.Outcome State Fault Refusal :=
  let s := tick t s
  .next (if s.boot.powered && !s.boot.inReset && !s.boot.testMode && !s.boot.service && decide (s.now - s.boot.ref ≥ 20000000000)
    then resetRequest true s else s)

/-- BRACE_FLUSH_COMPLETE: the Brace-complete entry is durable. The measured figures are P_dev in mW, the times from step 3 to
step 4 and from step 3 to step 7 in ns, VSENSE_HU at steps 3 and 7, and whether VSENSE_SYS stayed below WARN between them. A reset
that waits for step 8 then takes effect (R443, R445, R449, R450, R761). -/
def execBraceFlushComplete (t pbrace t34 t37 v3 v7 : Nat) (low : Bool) (s : State) : Host.Outcome State Fault Refusal :=
  let s := tick t s
  if s.brc.active ∧ s.brc.flushing then
    let s := finishFlush pbrace t34 t37 v3 v7 low s
    .next (if s.boot.resetPending || !s.boot.resetN || s.dbg.extest then resetNow s else s)
  else .next s

/-! ## Power loss (R400, R458, R460, R674, R796) -/

/-- The units of an open program, or of a sector under erase, that power loss leaves: 0 erased, 1 programmed, 2 uncorrectable. A
unit that a program does not name stays, and so does a unit under erase that is left as it was (R674). -/
def tornUnits (l : List (Nat × Nat)) (p : Pith) : Tab PUnit :=
  l.foldl (fun m u =>
    let open_ := p.ops.find? fun o => match o.2 with
      | .program se pg us _ _ => us.any fun v => unitNo se pg v.1 == u.1
      | .erase se _ _ _ _ => u.1 / 2048 == se
      | .idle => false
    match open_ with
    | some (_, .program se pg us _ _) =>
      (match us.find? (fun v => unitNo se pg v.1 == u.1), u.2 with
        | some v, 1 => tput u.1 (.data (fit 32 v.2)) m
        | some _, 2 => tput u.1 .bad m
        | _, _ => m)
    | some (_, .erase _ _ _ _ _) => if u.2 = 0 then tdel u.1 m else if u.2 = 2 then tput u.1 .bad m else m
    | _ => m) p.units

/-- The journal entry whose program was open: not written, durable, or left uncorrectable. -/
def tornEntry (torn : Nat) (p : Pith) : List JEntry := match p.jprog, torn with
  | some e, 1 => p.jd ++ [e]
  | some e, 2 => p.jd ++ [{ e with bad := true }]
  | _, _ => p.jd

/-- Copy `n` of a triad word may still be unwritten, or open, at `now`: a page program takes at most 2 µs, and a copy is written once the one before it
is verified (R400, R675; log 143). -/
def copyOpen (now : Nat) (w : Triad) (n : Nat) : Bool := decide (now < w.at_ + 2000 * (n + 1))

/-- What a power loss leaves of the last write of a triad word: copy 0, 1 or 2 with a CRC that fails, or, from 3 on, that copy and those after it as
they were (R400, R693). -/
def tornCopy (now : Nat) (m : Tab Triad) (k : Nat × Nat) : Tab Triad :=
  let bad := Option.map fun c : TCopy => { c with ok := false }
  tmod k.1 (fun w =>
    if !copyOpen now w (k.2 % 3) then w
    else match k.2 with
    | 0 => { w with c0 := bad w.c0 }
    | 1 => { w with c1 := bad w.c1 }
    | 2 => { w with c2 := bad w.c2 }
    | 3 => { w with c0 := w.o0, c1 := w.o1, c2 := w.o2 }
    | 4 => { w with c1 := w.o1, c2 := w.o2 }
    | _ => { w with c2 := w.o2 }) m

/-- The Pith Array after a power loss: what it holds, and nothing of its controller. -/
def lostPith (now : Nat) (units : List (Nat × Nat)) (torn : Nat) (copies : List (Nat × Nat)) (p : Pith) : Pith :=
  { units := tornUnits units p, retired := p.retired, erases := p.erases, params := p.params, pgen := p.pgen, pvalid := p.pvalid,
    hgen := p.hgen, triads := copies.foldl (tornCopy now) p.triads, jd := tornEntry torn p, jseq := p.jseq, jsec := p.jsec, junit := p.junit,
    jhead := p.jhead, ready := p.ready, epoch := p.epoch, slotA := p.slotA, slotB := p.slotB }

/-- A power loss before the flush is complete leaves a history entry of OUTCOME 3; the figures that only the flush measures are
free values (R460; log 52). -/
def lostHist (s : State) : State :=
  if s.brc.active && s.brc.flushing then
    addHist { entered := s.brc.entered, cause := s.brc.cause, outcome := 3, restarts := s.brc.restarts, vsysMin := s.brc.vsysMin,
              vhuStart := freeVal s % 65536, vhuEnd := freeVal (draw s) % 65536, seq := s.brc.flushSeq, us := freeVal (draw (draw s)) % 2 ^ 32,
              bytes := freeVal (draw (draw (draw s))) % 2 ^ 64, pbrace := freeVal (draw (draw (draw (draw s)))) % 2 ^ 32,
              deferred := s.brc.deferred } (draw (draw (draw (draw (draw s)))))
  else s

/-- What is left when VDD_RIND is gone: media, the Pith Array and the fuses, at rest. -/
def powerOff (s : State) : State :=
  let s := wipe (loseStone (lostHist s))
  { s with
    loaded := []
    ctrs := []
    snaps := []
    cad := {}
    integ := { segFuse := s.integ.segFuse, fuses := s.integ.fuses, sramSpare := s.integ.sramSpare, inadm := s.integ.inadm }
    flw := { s.flw with offsets := [], blankFail := [] }
    med := { s.med with lastDies := [], refresh := [], weak := [], refreshed := [] }
    life := { drkCut := s.life.drkCut }
    dbg := {}
    boot := { floor := s.boot.floor }
    pins := {}
    health := { ctr := s.health.ctr, atMax := s.health.atMax, tempMax := s.health.tempMax, tempMin := s.health.tempMin, hist := s.health.hist }
    cry := {}
    brc := { flushSeq := s.brc.flushSeq, hist := s.brc.hist, images := s.brc.images }
    pwr := {} }

/-- POWER_LOSS: `units` gives the units of open programs and erases, `torn` the state of the journal entry under program, and
`copies` what is left of triad copies under write, as word and copy. -/
def execPowerLoss (t : Nat) (units : List (Nat × Nat)) (torn : Nat) (copies : List (Nat × Nat)) (s : State) :
    Host.Outcome State Fault Refusal :=
  let s := tick t s
  if s.boot.powered then .next (onPith (lostPith s.now units torn copies) (powerOff s)) else .next s

/-! ## PERST_N and the link (R99, R760, R775) -/

/-- The Host Link, the Ring Engine and every function are reset; no BAR2 register changes (R99, R760, R762). -/
def linkReset (link : Link) (s : State) : State :=
  let s := resetFunction 0 (onRge (fun r => { r with vfEnable := false, numVfs := 0, curA := 0, curB := 0, curZ := 0, lastS := 0, lastFn := [],
                                                     lastRing := [] }) (resetVfs (fun _ => true) s))
  onPins (fun p => { p with link := link, speed := 0, width := 0 }) s

/-- PERST_ASSERT. -/
def execPerstAssert (t : Nat) (s : State) : Host.Outcome State Fault Refusal :=
  .next (linkReset .down (onBoot (fun b => { b with perstN := false }) (tick t s)))

/-- The Host Link trains: PERST_N is high, and boot step 2 is done (R775). -/
def startLink (s : State) : State :=
  if s.boot.perstN && decide (s.boot.step ≥ 2) && s.pins.link == .down then onPins (fun p => { p with link := .training }) s else s

/-- PERST_RELEASE. -/
def execPerstRelease (t : Nat) (s : State) : Host.Outcome State Fault Refusal :=
  .next (startLink (onBoot (fun b => { b with perstN := true }) (tick t s)))

/-- LINK_RESET: a hot reset, or, where `hot` is false, the link goes down. -/
def execLinkReset (t : Nat) (hot : Bool) (s : State) : Host.Outcome State Fault Refusal :=
  .next (linkReset (if hot then .training else .down) (tick t s))

/-- CONFIG_REQUEST: answered with Request Retry Status until boot step 8. While PERST_N is low no request arrives (R775). -/
def execConfigRequest (t : Nat) (s : State) : Host.Outcome State Fault Refusal :=
  let s := tick t s
  .next (if s.boot.perstN then emit (.config (!s.boot.cfgReady)) s else s)

end Sys2Proof.Machine
end

