-- ==== Sys2Proof/Machine/Boot.lean ====
section
/-!
DEFINITION. The boot sequence and replay: votes, training, the choice of what runs, the steps of R453, and readiness (R24 to R31,
R242, R290, R343 to R350, R373 to R375, R404, R453 to R460, R634 to R642, R763 to R776, R824, R825, R834).
-/
namespace Sys2Proof.Machine

/-! ## Registers from the parameter sector (R640, R698, R825, R834) -/

/-- The registers whose images the records of a type hold for an INDEX, in order. -/
def imageRegs (typ n : Nat) : List Nat := match typ with
  | 5 => [Reg.drmStone n, Reg.drmShared n, Reg.drmIlv]
  | 6 => [Reg.brcSysThr, Reg.brcHuThr, Reg.brcFilt, Reg.brcHuCap, Reg.brcHuDiv, Reg.brcBoardW]
  | 8 => [Reg.idxRegion n, Reg.medMap n, Reg.flwSegcfg n, Reg.dspRole n, Reg.dspGpool n]
  | 9 => [Reg.medOp, Reg.flwCtrl, Reg.drmCtrl]
  | _ => []

/-- The word that an image gives a register: in range, its LOCK bit and RO fields ignored (R698). -/
def imageWord (a v : Nat) : Word := match regAt a with
  | some r => written r a r.reset (BitVec.ofNat 32 (if a % 0x10000 = 0 then v % 2 ^ 31 else v)) 15 false
  | none => 0

/-- Load the images of one record. One that would leave a Segment with no house core is not taken (R593). -/
def loadImage (m : Tab Word) (k : Nat) (d : List Byte) : Tab Word :=
  ((imageRegs (k / 256) (k % 256)).zip (List.range 6)).foldl (fun m p =>
    let w := imageWord p.1 (fld d (4 * p.2) 4)
    if k / 256 = 8 ∧ p.2 = 3 ∧ bits w 3 0 = 0 then m else tput p.1 w m) m

/-- Every register takes the value that its record gives, or its reset value (R834). -/
def loadParams (s : State) : State :=
  { s with loaded := s.pith.params.foldl (fun m p => loadImage m p.1 p.2) [] }

/-! ## Votes of step 3 (R401, R402, R497, R743, R744) -/

/-- The safe default of the lifecycle word (R402). -/
def lifeDefault (w : Triad) : List Byte := match cleanCopies w with
  | [] => pack [(1, 2)]
  | c :: l => (l.foldl (fun m x => if fld x.value 0 1 > fld m.value 0 1 then x else m) c).value

/-- The lifecycle state of a code; one that R731 does not list counts as SEALED, the default (log 50). -/
def lifeOf (n : Nat) : LState := match n with
  | 0 => .blank | 1 => .provisioned | 2 => .sealed | 3 => .returned | 4 => .scrapped | _ => .sealed

/-- Vote the lifecycle word and take its state. -/
def voteLife (s : State) : State :=
  let (v, s) := readTriad 1 0 (lifeDefault (triadOf s 1 0)) s
  onLife (fun l => { l with lstate := lifeOf (fld v 0 1), vault := fld v 1 1 % 2 == 1 && (fld v 0 1 == 1 || fld v 0 1 == 2),
                            since := fld v 4 8, vaultFrame := fld v 12 8 }) s

/-- The value named by the clean copy with the lowest number in 8 bytes at `o`: the older checkpoint or head (R402). -/
def olderOf (o : Nat) (w : Triad) : List Byte := match cleanCopies w with
  | [] => []
  | c :: l => (l.foldl (fun m x => if fld x.value o 8 < fld m.value o 8 then x else m) c).value

/-- The words that have ever been written of a TTYPE. -/
def wordsOf (s : State) (ty : Nat) : List Nat := ((tkeys s.pith.triads).filter fun k => k / 65536 == ty).map (· % 65536)

/-- The first entry of the journal as an epoch head, the safe default where no copy of the word is clean (R402). -/
def firstHead (s : State) : List Byte := match s.pith.jd with
  | e :: _ => epochHead e s.pith.epoch
  | [] => zeros 24

/-- Vote key slots and epoch head, which the journal's oldest sector then follows. A word never written raises nothing and reads as its safe default
(R402; log 50). -/
def voteSlots (s : State) : State :=
  let s := (wordsOf s 2).foldl (fun s i => (readTriad 2 i (slotValue false (if i = 0 then 1 else if i = 1 then 2 else 3)
    (if i ≥ 2 then i - 1 else 0) []) s).2) s
  (wordsOf s 4).foldl (fun s i =>
    let w := triadOf s 4 i
    let (v, s) := readTriad 4 i (if (cleanCopies w).isEmpty then firstHead s else olderOf 12 w) s
    match journalIndex (fld v 0 2) with
    | some h => onPith (fun p => { p with jhead := h }) s
    | none => s) s

/-- What follows the votes: SCRAP is completed where the path to the DRK is cut, a RETURNED part disables its slots, and the first
power-on in BLANK draws DEVICE_SALT (R495, R743, R744). -/
def afterVotes (s : State) : State :=
  let s := if s.life.drkCut && s.life.lstate == .returned then enterLife .scrapped s else s
  let s := if s.life.lstate = .returned then disableSlots s else s
  if s.life.lstate = .blank ∧ (tget (triadKey 2 0) s.pith.triads).isNone ∧ rngReady s then
    let (salt, s) := random 16 s
    writeSlot 0 true 1 0 salt s
  else s

/-- SOFT entries of the fuse map are burned, unless the part is SCRAPPED (R410). -/
def burnFuses (s : State) : State :=
  if s.life.lstate = .scrapped then s else onInt (fun i => { i with fuses := i.fuses.map fun w => clrBit w 30 }) s

/-! ## What runs (R764, R766 to R771) -/

/-- A slot may be started: its image is valid, and step 6 has not found its program wrong. -/
def mayStart (s : State) (bad : List Nat) (n : Nat) : Bool := slotValid s (slotOf s n) && !bad.contains n

/-- The active slot among those that may be started: without an activation only slot A can be it (R768). -/
def startSlot (s : State) (bad : List Nat) : Option Nat :=
  let act := fun n => if mayStart s bad n then newestRec (slotOf s n) 2 else 0
  if act 0 = 0 ∧ act 1 = 0 then (if mayStart s bad 0 then some 0 else none) else if act 0 ≥ act 1 then some 0 else some 1

/-- A Firmware notice about the image of a slot. -/
def slotNotice (kind n cause : Nat) (s : State) : State := match (slotOf s n).image with
  | some i => fwNotice kind n cause i.svn i.fwrev s
  | none => fwNotice kind n cause 0 (zeros 8) s

/-- The recovery program of a slot may run: the image is valid and the program matches its digest. -/
def recovFits (s : State) (n : Nat) : Bool :=
  slotValid s (slotOf s n) && (match (slotOf s n).image with | some i => i.recovOk | none => false)

/-- Enter RESCUE for a cause (R770, R771, R779). -/
def enterRescue (cause : Nat) (s : State) : State :=
  let s := onBoot (fun b => { b with cause := cause }) s
  if recovFits s 1 then slotNotice 5 1 cause (onBoot (fun b => { b with running := .recovB }) s)
  else if recovFits s 0 then slotNotice 5 0 cause (onBoot (fun b => { b with running := .recovA }) s)
  else fwNotice 5 0 cause 0 (ascii "ROM     ") (onBoot (fun b => { b with running := .rom }) s)

/-- Attempts that a slot's records hold since its newest activation (R769). -/
def attemptsOf (b : BootSlot) : Nat := (b.recs.filter fun r => r.skind == 3 && decide (r.sgen > newestRec b 2)).length

/-- The slot's main program has booted since its newest activation (R769). -/
def bootedSince (b : BootSlot) : Bool := b.recs.any fun r => r.skind == 4 && decide (r.sgen > newestRec b 2)

/-- Steps 5 and 6: choose a program under R769 and R770; a main program whose digest does not match makes its slot invalid, and the
choice is made again (R764). Where no slot is active, the rules for it do not hold, and the other slot is slot B (R768, R769). -/
def chooseProgram : Nat → List Nat → State → State
  | 0, _, s => enterRescue 3 s
  | fuel + 1, bad, s =>
    let start := fun (n : Nat) (s : State) =>
      match (slotOf s n).image with
      | some i => if i.mainOk then onBoot (fun b => { b with running := if n = 0 then .mainA else .mainB, cause := 0 }) s
                  else chooseProgram fuel (n :: bad) s
      | none => enterRescue 2 s
    if !s.boot.rescueN then enterRescue 1 s
    else if !mayStart s bad 0 && !mayStart s bad 1 then enterRescue 2 s
    else if s.boot.attempts ≥ 3 then enterRescue 4 s
    else
      let other := fun (o : Nat) => if mayStart s bad o && (slotOf s o).recs.any (·.skind == 4) then start o (slotNotice 4 o 0 s) else enterRescue 3 s
      match startSlot s bad with
      | none => other 1
      | some n =>
        if bootedSince (slotOf s n) then start n s
        else if attemptsOf (slotOf s n) < 3 then start n (slotRecord n 3 s)
        else other (1 - n)

/-- The image and the program that run, none for the boot ROM. -/
def runningImage (s : State) : Option (Image × List Byte) :=
  (runningSlot s).bind fun n => (slotOf s n).image.map fun i =>
    (i, if rescue s then slice i.bytes (fld i.bytes 40 4) i.recovLen else slice i.bytes (fld i.bytes 32 4) i.mainLen)

/-- The parameter sector in force, as its records lie in it (R696). -/
def paramImage (p : Tab (List Byte)) : List Byte :=
  p.flatMap fun r => pack [(1, r.1 / 256), (1, r.1 % 256), (2, r.2.length)] ++ r.2 ++ zeros ((4 - r.2.length % 4) % 4)

/-- The measurements of R781. The manual does not say how block 5 joins its parts: one byte each after the lifecycle word, in the
order given (log 53). -/
def measureBoot (env : BootEnv) (s : State) : State :=
  let fw := match runningImage s with
    | some (i, prog) => [(2, Config.sha384 (slice i.bytes 0 256)), (3, Config.sha384 prog)]
    | none => []
  let life := (match vote (triadOf s 1 0) with | .value c => c.value | .default => zeros 24)
    ++ pack [(1, s.boot.floor), (1, env.segEn), (1, b2n env.plain), (1, b2n env.rescueN), (1, s.boot.running.code)]
  onBoot (fun b => { b with measurements := [(1, Config.sha384 Config.rom)] ++ fw
                              ++ [(4, Config.sha384 (paramImage s.pith.params)), (5, Config.sha384 life)] }) s

/-! ## NAND channels and dies (R343 to R350, R378) -/

/-- The Segment's die profile, if one is stored (R698). -/
def dieProfile (s : State) (seg : Nat) : Option (List Byte) := tget (0x200 + seg) s.pith.params

/-- The first fitted die of a Segment, whose parameter page is the profile where the parameter sector holds none. -/
def firstDie (env : BootEnv) (seg : Nat) : Option DieFind :=
  (env.dies.filter fun x => x.die / 128 == seg).foldl (fun m x => match m with
    | none => some x
    | some y => if x.die < y.die then some x else some y) none

/-- Read time, suspend latency and suspends per operation of a Segment's die profile: the record's, or those of the first fitted die. -/
def profTimes (env : BootEnv) (s : State) (seg : Nat) : Nat × Nat × Nat := match dieProfile s seg, firstDie env seg with
  | some p, _ => (fld p 264 1, fld p 265 1, fld p 266 1)
  | none, some x => (x.tRead, x.tSusp, x.susps)
  | none, none => (0, 0, 0)

/-- A die is admissible (R346): all that its finding and the profile's times say, `family` being the signalling family of its channel's first die.
DEDUCED (log 144). -/
def admissible (prof : Nat × Nat × Nat) (family : Nat) (x : DieFind) : Bool :=
  x.ok && x.cells == 3 && x.single && x.data == 16384 && x.family == family && decide (512 ≤ x.gb) && decide (x.gb ≤ 4096) && decide (1792 ≤ x.spare) && decide (x.spare ≤ 2304)
    && (x.planes == 2 || x.planes == 4) && decide (prof.1 ≤ 40) && decide (prof.2.1 ≤ 20) && (prof.2.2 == 0 || decide (prof.2.2 ≥ 64))

/-- A die is window-capable at a rate code (R347). -/
def windowCapable (tRead planes spare code : Nat) : Bool :=
  decide (tRead * 1000 * nandRate code + planes * (16384 + spare) * 1000 ≤ 58000 * nandRate code)

/-- The findings of a channel in order of position. -/
def findsOn (env : BootEnv) (c : Nat) : List DieFind :=
  (env.dies.filter fun x => x.die / 16 == c).foldl (fun l x =>
    l.takeWhile (fun y => decide (y.die < x.die)) ++ [x] ++ l.dropWhile fun y => decide (y.die < x.die)) []

/-- The signalling family of a channel: its first fitted die's. -/
def familyOf (env : BootEnv) (c : Nat) : Nat := match findsOn env c with
  | x :: _ => x.family
  | [] => 0

/-- The admissible dies found on a channel. -/
def admissibleOn (env : BootEnv) (prof : Nat × Nat × Nat) (c : Nat) : List DieFind := (findsOn env c).filter (admissible prof (familyOf env c))

/-- U of a Segment (R348). -/
def usableCount (env : BootEnv) (prof : Nat × Nat × Nat) (seg layout : Nat) : Nat :=
  let n := ((List.range 8).map fun c => (admissibleOn env prof (8 * seg + c)).length)
  let u := n.foldl min (n.headD 0)
  if layout = 0 then u / 4 * 4 else u

/-- A die as found, at a position of its channel; the profile record may set its rated endurance. -/
def newDie (s : State) (tRead : Nat) (x : DieFind) (pos : Nat) (usable : Bool) : Die :=
  let r := fld ((dieProfile s (segOfDie x.die)).getD []) 268 4
  { pos := pos, gb := x.gb, planes := x.planes, spare := x.spare, blocks := x.blocks, pages := x.pages,
    rated := if r = 0 then x.rated else r, usable := usable, tread := 1000 * tRead }

/-- The dies of a channel: the first `u` admissible ones are usable. -/
def fixChannel (env : BootEnv) (s : State) (prof : Nat × Nat × Nat) (u c : Nat) (m : Tab Die) : Tab Die :=
  let l := findsOn env c
  let use := (admissibleOn env prof c).take u
  ((l.zip (List.range l.length)).foldl (fun m p => tput p.1.die (newDie s prof.1 p.1 p.2 (use.contains p.1)) m) m)

/-- A Segment is disabled as if by its strap, until the next power-on (R2, R350, R633). -/
def disableSeg (n : Nat) (s : State) : State := onBoot (fun b => { b with segEn := clrBit b.segEn n, segOff := b.segOff ||| 2 ^ n }) s

/-- The usable-dies record of a Segment (R834). -/
def usableRecord (s : State) (seg u : Nat) : List Byte :=
  pack [(1, u), (1, layoutOf s seg)] ++ pack ((List.range 8).map fun c =>
    (2, ((usableOf s seg).filter fun p => p.1 / 16 == 8 * seg + c).foldl (fun n p => n + 2 ^ (p.1 % 16)) 0)) ++ zeros 14

/-- The dies that injections report inadmissible at this power-on: for each, the first found at its position (R429; log 127). -/
def misreported (env : BootEnv) (s : State) : List Nat :=
  let at_ := fun (u p : Nat) => (List.range 32).filterMap fun c => if u = 0xFF ∨ u = c then ((findsOn env c)[p]?).map (·.die) else none
  s.integ.inadm.foldl (fun l e => match (at_ e.1 e.2).find? (!l.contains ·) with | some d => l ++ [d] | none => l) []

/-- The findings of a power-on as they are reported. -/
def asReported (env : BootEnv) (s : State) : BootEnv :=
  { env with dies := env.dies.map fun x => { x with ok := x.ok && !(misreported env s).contains x.die } }

/-- DT35 for a die that is never used (R349). -/
def unusedDie (inj : List Nat) (s : State) (d : Nat) : State :=
  raiseF 35 (dieSite d (match tget d s.flw.dies with | some x => x.pos | none => 0) 0) (if inj.contains d then efInjected else 0) s

/-- Fix the usable dies of a Segment, at a power-on with no namespace (R348, R349, R350). -/
def fixDies (env : BootEnv) (s : State) (seg : Nat) : State :=
  let inj := misreported env s
  let env := asReported env s
  let prof := profTimes env s seg
  let layout := fieldOf s (Reg.flwSegcfg seg) 0 0
  let u := usableCount env prof seg layout
  let dies := (List.range 8).foldl (fun m c => fixChannel env s prof u (8 * seg + c) m) (tfilter (fun k _ => k / 128 != seg) s.flw.dies)
  let s := { s with flw := { s.flw with dies := dies, fixed := true, layout := tset 0 seg layout s.flw.layout } }
  let s := (tkeys (tfilter (fun k d => k / 128 == seg && !d.usable) s.flw.dies)).foldl (unusedDie inj) s
  let s := setParams (tput (0x300 + seg) (usableRecord s seg u) s.pith.params) s
  if u = 0 then disableSeg seg s else s

/-- At a later power-on the record stands: a usable die that is not found, or is inadmissible, is lost, and one beyond the record is
unused (R348, R349, R378). -/
def findDies (env : BootEnv) (s : State) (seg : Nat) : State :=
  let inj := misreported env s
  let env := asReported env s
  let prof := profTimes env s seg
  let fits := fun (x : DieFind) => admissible prof (familyOf env (x.die / 16)) x
  let here := fun d => env.dies.any fun x => x.die == d && fits x
  let more := env.dies.filter fun x => x.die / 128 == seg && (tget x.die s.flw.dies).isNone
  let known := tmap (fun d y => if d / 128 = seg then { y with found := env.dies.any (·.die == d), tread := 1000 * prof.1 } else y) s.flw.dies
  let put := fun (m : Tab Die) (x : DieFind) => tput x.die (newDie s prof.1 x ((findsOn env (x.die / 16)).findIdx (·.die == x.die)) false) m
  let s := { s with flw := { s.flw with dies := more.foldl put known } }
  let used := fun (x : DieFind) => match tget x.die s.flw.dies with | some y => y.usable && fits x | none => false
  let s := (env.dies.filter fun x => x.die / 128 == seg && !used x).foldl (fun s x => unusedDie inj s x.die) s
  let s := (tkeys (tfilter (fun d x => x.usable && !x.lost && !here d) (tfilter (fun k _ => k / 128 == seg) s.flw.dies))).foldl
    (fun s d => loseDie d (if inj.contains d then efInjected else 0) s) s
  if (usableOf s seg).isEmpty then disableSeg seg s else s

/-- The rate at which a channel's training ends: at `FLW_CTRL.RATE_CAP` where every die passes there; else the first rate below it that passes, which is
no lower than every die is window-capable at (R343, R344). `pass` is the highest rate code at which every die passes the check. -/
def trainedRate (s : State) (l : Tab Die) (pass : Nat) : Option Nat :=
  let cap := fieldOf s Reg.flwCtrl 3 0
  if pass < 2 then none
  else if cap ≤ pass then some cap
  else if l.all fun p => windowCapable (p.2.tread / 1000) p.2.planes p.2.spare pass then some pass
  else none

/-- Commands that training sends to the dies of a channel: each is reset and identified, and set to each trial rate, calibrated and trained (R343). -/
def trainCmds (c cap last : Nat) (l : Tab Die) (s : State) : State :=
  let each := fun (k : NandCmd) (s : State) => l.foldl (fun s p => emit (.nand c p.2.pos k) s) s
  let trial := fun (s : State) (i : Nat) => each .dqTrain (each .zqLong (each (.setFeatures (cap - i)) s))
  (List.range (cap + 1 - last)).foldl trial (each .readParam (each .readId (each .reset s)))

/-- Train a channel (R343, R344, R380). One whose every usable die is lost stays lost. -/
def trainChannel (env : BootEnv) (s : State) (c : Nat) : State :=
  let l := tfilter (fun k x => chanOf k == c && x.found) s.flw.dies
  let use := tfilter (fun k x => chanOf k == c && x.usable) s.flw.dies
  let cap := fieldOf s Reg.flwCtrl 3 0
  let rate := trainedRate s l (((env.chans.find? fun p => p.1 == c).map (·.2)).getD 0)
  if (l.isEmpty && use.isEmpty) ∨ !segOn s (c / 8) then s
  else if !use.isEmpty && use.all (fun p => p.2.lost) then onChan c (fun x => { x with state := 3 }) s
  else
    let s := trainCmds c cap (match rate with | some r => min r cap | none => 2) l s
    match rate with
    | some r => onChan c (fun _ => { state := 2, rate := r, trainAt := s.now, trainTemp := s.health.tempNow }) s
    | none => (tkeys (tfilter (fun _ d => !d.lost) use)).foldl (fun s d => loseDie d 0 s)
        (onChan c (fun x => { x with state := 3 }) (queueRetire 3 37 (c / 8) c 0 0 0 s))

/-! ## Bands (R290, R295, R297, R373 to R375) -/

/-- Blocks of each usable die that are its spares: the highest `MED_OP.SPARE_PCT` of its blocks, less those retired (R291, R319; log 54). -/
def dieSpares (s : State) (d : Nat) (x : Die) : List Nat :=
  let n := x.blocks * s.med.sparePct / 100
  ((List.range n).map (x.blocks - n + ·)).filter fun b => !s.med.retired.contains (d, b)

/-- Blocks of each die of a Segment that bands take (R319; log 54). -/
def bandRows (s : State) (seg : Nat) : Nat :=
  let per := (usableOf s seg).map fun p => p.2.blocks - p.2.blocks * s.med.sparePct / 100
  per.foldl min (per.headD 0)

/-- Give the usable dies of a Segment, just fixed, the spare blocks that are not retired (R318, R319). -/
def giveSpares (s : State) (seg : Nat) : State :=
  { s with flw := { s.flw with dies := tmap (fun d x => if d / 128 = seg ∧ x.usable then { x with spares := dieSpares s d x } else x) s.flw.dies } }

/-- Class of a block at power-on, the first that applies of R373's: pending, retired, written, and blank-check or stale as its first page group
reads. -/
inductive BlockClass where
  | pending | retired | written | blank | stale
  deriving DecidableEq, Repr

def classOf (env : BootEnv) (s : State) (d b : Nat) : BlockClass :=
  let written : Bool := match (bandOf s d b).bind fun k => tget k s.med.bands with
    | some q => q.st == .opened || q.st == .closed
    | none => false
  if intentOpen s d b then .pending
  else if s.med.retired.contains (d, b) then .retired
  else if written then .written
  else if env.raws.any fun r => r.die == d && r.block == b && r.page == 0 && !looksErased s r.zeros then .stale
  else .blank

/-- The blocks that a power-on finds pending or stale, and the blank-check blocks that fail (R373 to R375). -/
def staleBlocks (env : BootEnv) (s : State) : List (Nat × Nat) :=
  ((openIntents (jOf s 1)).map fun e => (fld e.body 1 1 * 16 + fld e.body 2 1 * 2 + fld e.body 3 1, fld e.body 4 4))
    ++ ((env.raws.filter fun r => classOf env s r.die r.block == .stale).map fun r => (r.die, r.block)).dedup
def blankBad (env : BootEnv) (s : State) : List (Nat × Nat) :=
  ((env.raws.filter fun r => !looksErased s r.zeros && sampled s (match tget r.die s.flw.dies with | some x => x.pages | none => 0) r.page
    && classOf env s r.die r.block == .blank).map fun r => (r.die, r.block)).dedup

/-- A band with such a block is erased before use. -/
def dirtyBand (env : BootEnv) (s : State) (k : Nat) : Bool := (staleBlocks env s ++ blankBad env s).any fun q => bandOf s q.1 q.2 == some k

/-- Lay out the bands of a Segment over its fresh dies: in each stripe group the Brace reserve first, then the SLC buffer, then the
TLC bands, the highest blocks being spares (log 54). -/
def layBands (env : BootEnv) (s : State) (seg : Nat) : State :=
  let g := groupsOf s seg
  let n := bandRows s seg
  let nr := reserveBands s seg
  let ns := n * fieldOf s Reg.medSlc 31 16 / 10000
  let mk := fun (b : Nat) =>
    let slc := decide (b / g < nr + ns)
    ({ slc := slc, brace := decide (b / g < nr), erased := true, erasedAt := s.now, size := bandSize s seg slc } : Band)
  let fresh := (List.range (n * g)).map fun b => (bandKey seg b, mk b)
  let bands := fresh.map fun p => if dirtyBand env s p.1 then (p.1, { p.2 with erased := false }) else p
  onMed (fun m => { m with bands := bands.foldl (fun t p => tput p.1 p.2 t) (tfilter (fun k _ => segOfBand k != seg) m.bands) }) s

/-- Classify the blocks of a Segment's bands at a later power-on: a free band with a block that fails the blank check, or with a pending or stale
block, is erased before use (R373 to R375). -/
def classify (env : BootEnv) (s : State) (seg : Nat) : State :=
  onMed (fun m => { m with bands := tmap (fun k b => if segOfBand k = seg ∧ b.st = .free ∧ dirtyBand env s k then { b with erased := false } else b) m.bands }) s

/-- The advertised capacity C in units of 4,096 bytes (R290). -/
def capacityOf (s : State) : Nat :=
  let part := fun (seg : Nat) =>
    let raw := tsum (fun k d => if k / 128 = seg then d.gb * 125000000 else 0) s.flw.dies
    raw * (width s seg - 1) * (100 - s.med.opPct - s.med.sparePct) / (width s seg * 100)
  ((segs s).foldl (fun n k => n + part k) 0 - 3 * stoneTotal s) / 4096

/-! ## DRAM (R632 to R642) -/

/-- Capacity in GiB of a channel: WIDTH, RANKS and density of its profile (R633). -/
def dramGiB (p : List Byte) : Nat := 2 * fld p 1 1 * (if fld p 0 1 = 1 then 4 else 8) * fld p 2 1 / 8

/-- The remap table of a Segment, rebuilt from its retirement entries (R411, R642). -/
def remapOf (s : State) (seg : Nat) : Tab Nat :=
  ((jOf s 2).filter fun e => fld e.body 0 1 == 4 && fld e.body 2 1 == seg).foldl (fun m e =>
    let p := fld e.body 8 8 / 4096
    if (tget p m).isSome then m else tput p m.length m) []

/-- Train a Segment's DRAM channel and lay it out; without a usable channel the Segment is disabled (R633 to R635, R639 to R641). A
power-on takes the register's sizes; one that reloads a flush image keeps the Stone size and grain of the run it came from. -/
def trainDram (env : BootEnv) (cold : Bool) (s : State) (seg : Nat) : State :=
  if !segOn s seg then s
  else match tget (0x400 + seg) s.pith.params with
    | none => disableSeg seg s
    | some p =>
      let cap := dramGiB p
      let fit := (env.drams.find? fun x => x.seg == seg).getD { seg := seg, pass := 0 }
      let rate := min (min (fld p 3 1) (fieldOf s Reg.drmCtrl 3 0)) fit.pass
      if cap < 16 ∨ cap > 64 ∨ rate = 0 then disableSeg seg s
      else
        let old := tgetD {} seg s.mov.drams
        let keep := !cold || (!s.brc.images.isEmpty && old.stone != 0)
        let d : Dram :=
          { cap := cap, rate := rate, ranks := fld p 1 1, density := fld p 2 1, x8 := fld p 0 1 == 1, trained := true, filling := true,
            raaimt := fit.raaimt, raammt := fit.raammt, stone := if keep then old.stone else (word s (Reg.drmStone seg)).toNat,
            shared := if cold then (word s (Reg.drmShared seg)).toNat else old.shared,
            grain := if keep then old.grain else fieldOf s Reg.drmIlv 3 0, zqAt := s.now, centred := s.health.tempNow,
            remap := remapOf s seg, windowAt := s.now }
        onMov (fun m => { m with drams := tput seg d m.drams }) s

/-- The index region's and the Stone reserve's registers take the nearest value within the range that the DRAM found allows, whatever a parameter
record has loaded (R186, R245, R698). -/
def clampRegions (s : State) (seg : Nat) : State :=
  let d := tgetD {} seg s.mov.drams
  clampField (Reg.idxRegion seg) 31 0 64 (min 16384 (d.cap * 256)) (clampField (Reg.clsStoneRes seg) 31 0 16 (min 512 (d.stone / 2)) s)

/-- Index and map regions of a Segment in MiB, read at power-on; a register that a parameter record loaded takes the nearest value within
the range that the DRAM found allows (R186, R245, R285, R639, R698). -/
def readRegions (s : State) (seg : Nat) : State :=
  let d := tgetD {} seg s.mov.drams
  let s := clampRegions s seg
  let idx := clamp 64 (min 16384 (d.cap * 256)) (word s (Reg.idxRegion seg)).toNat
  let room := d.cap * 1024 - d.stone - idx - 1024
  let map := (word s (Reg.medMap seg)).toNat
  onMed (fun m => { m with mapMiB := tput seg (if map = 0 then room else min map room) m.mapMiB })
    (onCmd (fun q => { q with idxMiB := tput seg idx q.idxMiB }) s)

/-- Roles and guest pools of a Segment, read at power-on (R593, R630). -/
def readRoles (s : State) (seg : Nat) : State :=
  onDsp (fun d => { d with role := tput seg (word s (Reg.dspRole seg)).toNat d.role,
                           gpool := tput seg (word s (Reg.dspGpool seg)).toNat d.gpool }) s

/-! ## Replay (R453) -/

/-- Brace entries in the journal since the newest run start, by JKIND. -/
def lastIdx (s : State) (jkind : Nat) : Option Nat :=
  let l := (jOf s 5).filter fun e => fld e.body 0 1 == jkind
  l.getLast?.map (·.jseq)

/-- The last run ended braced: its newest Brace-complete entry follows its run start, and no image-retired entry follows it
(R443, R448, R458). -/
def endedBraced (s : State) : Bool := match lastIdx s 3 with
  | none => false
  | some k => decide ((lastIdx s 1).getD 0 < k) && decide ((lastIdx s 4).getD 0 < k)

/-- The entries that the scan finds: one that cannot be read is skipped with the rest of its page (R691). -/
def scanned (skip : Option (Nat × Nat)) : List JEntry → List JEntry
  | [] => []
  | e :: t => if e.bad then scanned (some (e.sector, e.unit / 8)) t
      else if skip = some (e.sector, e.unit / 8) then scanned skip t else e :: scanned skip t

/-- The writer goes on at the first erased page after the last entry, JSEQ one higher than the last found (R685, R691). -/
def resumeWriter (p : Pith) : Pith := match p.jprog, p.jd.getLast? with
  | none, some e =>
    let last := (scanned none p.jd).getLast?
    { p with jsec := e.sector, junit := cdiv (e.unit + entryUnits e) 8 * 8, jseq := match last with | some x => x.jseq + 1 | none => p.jseq }
  | _, _ => p

/-- The journal scan: entries that cannot be read raise DT62 and are skipped (R672, R691). -/
def scanJournal (s : State) : State :=
  let bad := s.pith.jd.filter (·.bad)
  bad.foldl (fun s e => pithFail e.sector s) (onPith (fun p => { resumeWriter p with jd := scanned none p.jd }) s)

/-- FRAME at a power-on (R27, R29): at most its largest value. -/
def resumeFrame (s : State) : Nat := match (jOf s 4).getLast? with
  | some e => min 0xFFFFFFFFFF (fld e.body 0 8 + (if endedBraced s && fld e.body 13 1 % 2 == 1 then 1 else 65536))
  | none => if s.life.lstate = .blank then 0 else 65536

/-- P at a power-on (R24). -/
def resumePeriod (s : State) : Nat := match (jOf s 4).getLast? with
  | some e => fld e.body 8 4
  | none => (word s Reg.cadDefPeriod).toNat

/-- FRAME resumes, the unit in FREE, with its notice (R24, R29). -/
def resumeCadence (s : State) : State :=
  let p := resumePeriod s
  let s := { s with cad := { frame := resumeFrame s, frameStart := s.now, mean := p, period := p, lastStamp := resumeFrame s * 2 ^ 24 } }
  cadNotice (evTime s) 6 0 s

/-- The run-start entry, made durable at once (R444, R453). -/
def runStart (s : State) : State := drainJournal (queueJ 5 0xFF none (braceBody 1 0xFF 0 0 s.cad.frame) s)

/-- A checkpoint is whole: all that it lies in can be read, and so matches its digest (R404). -/
def ckptWhole (s : State) (c : Ckpt) : Bool := !c.pieces.isEmpty && !c.pieces.any (pieceGone s)

/-- A checkpoint verifies: it is whole, and its predecessor is, or is no longer kept (R404). -/
def ckptVerifies (s : State) (l : List Ckpt) (c : Ckpt) : Bool := ckptWhole s c && (match l.find? fun p => p.no + 1 == c.no with
  | some p => ckptWhole s p
  | none => true)

/-- The checkpoint of a Segment that replay uses: of those kept, the one with the highest EPOCH that verifies (R404). -/
def ckptUsed (s : State) (seg : Nat) : Option Ckpt :=
  let l := tgetD [] seg s.med.ckpts
  (l.filter (ckptVerifies s l)).foldl (fun (m : Option Ckpt) c => match m with
    | none => some c
    | some b => if b.no < c.no then some c else some b) none

/-- The pointer that a checkpoint search gives, the default where no copy of the word is clean (R402). -/
def searchedRoot (s : State) (seg : Nat) : List Byte := match ckptUsed s seg with
  | some c => rootValue c.band c.row c.no
  | none => zeros 24

/-- Step 4: the vote on each map root pointer, and the checkpoint that replay uses of each Segment, the records after it being indexed anew
(R242, R402, R404). -/
def voteRoots (s : State) : State :=
  let s := (wordsOf s 3).foldl (fun s i =>
    let w := triadOf s 3 i
    (readTriad 3 i (if (cleanCopies w).isEmpty then searchedRoot s i else olderOf 8 w) s).2) s
  let next := fun (k : Nat) (x : Strm) => match ckptUsed s x.seg with | some c => tgetD 0 k c.nexts | none => 0
  onCmd (fun q => { q with streams := tmap (fun k x => { x with ckptNext := min x.ckptNext (next k x) }) q.streams }) s

/-- Stone data of a Segment that the retained images hold, in ascending FLUSH_SEQ, each item once (R455). -/
def imageItems (s : State) (n : Nat) : List StoneItem :=
  (s.brc.images.flatMap fun x => tgetD [] n x.stone).foldl (fun l i => if l.any (sameItem i) then l else l ++ [{ i with draining := false, no := 0 }]) []

/-- Record `n` of a stream does not verify against its predecessor's tag, its stub's, or the genesis head. Without the namespace's key nothing
can be verified (R204, R206, R455). -/
def tagFails (s : State) (k n : Nat) : Bool := match strmOf s k with
  | some x => nsKeyOk s x.nsid && (match tget n x.recs with
    | some r => !r.damaged && !r.lost && (chainFails (chainKey s x.nsid) (tagBefore x n) [(n, r)]).isSome
    | none => false)
  | none => false

/-- A record that fails is marked damaged; the chain goes on from its TAG (R204, R456; log 118). -/
def markDamaged (k n : Nat) (s : State) : State :=
  setDegraded (raise 48 { func := 0xFFFF, loc := n } (onRec k n (fun r => { r with damaged := true, cause := 48 }) s))

/-- Step 6: reload the flush images; each record in Stone is verified, and one for which every path fails is marked damaged (R455, R456). -/
def reload (env : BootEnv) (s : State) : State :=
  let s := onMed (fun m => { m with stone := [0, 1, 2, 3].foldl (fun t n => if (imageItems s n).isEmpty then t else tput n (imageItems s n) t) [] }) s
  let recs := [0, 1, 2, 3].flatMap fun n => (imageItems s n).filter (·.isRec)
  let s := onBoot (fun b => { b with reloaded := recs.length }) s
  recs.foldl (fun s i => if env.damaged.contains (i.a, i.b) ∨ tagFails s i.a i.b then markDamaged i.a i.b s else s) s

/-- The parts of drain `no` of a Segment that lie in verified rows of written bands, but for blocks with an erase intent that no done entry
follows, each with its piece, the SEQ of its codeword and the order of its band's closing, an open band's being the last (R288). -/
def copiesOf (s : State) (seg no : Nat) : List (Nat × Piece × Nat × Nat) :=
  (bandsOf s seg).flatMap fun p =>
    if p.2.st != .opened && p.2.st != .closed then []
    else p.2.units.flatMap fun u =>
      let pending : Bool := match memberDie s p.1 (u.1 % 64) with | some d => intentOpen s d (blkOf s p.1 d) | none => false
      if pending || !p.2.okRows.contains (u.1 / 64) then []
      else (u.2.parts.filter fun q => q.item == no).map fun q =>
        (q.xoff, ({ band := p.1, unit := u.1, cw := q.cw, len := q.len } : Piece), (match u.2.cws[q.cw]? with | some c => c.seq | none => 0),
          if p.2.st = .opened then s.med.order else p.2.closedNo)

/-- Of several copies of each part, the one with the highest SEQ, and among those the one in the band that closed last (R288). -/
def bestCopies (l : List (Nat × Piece × Nat × Nat)) : List Piece :=
  ((l.map (·.1)).dedup.insertionSort (· ≤ ·)).filterMap fun x =>
    ((l.filter fun c => c.1 == x).foldl (fun m c => match m with
      | none => some c
      | some b => if c.2.2.1 > b.2.2.1 ∨ (c.2.2.1 = b.2.2.1 ∧ c.2.2.2 > b.2.2.2) then some c else some b) none).map (·.2.1)

/-- Where replay finds what drain `no` laid: the copies that it keeps, when they hold `n` bytes (R288, R453). -/
def replayed (s : State) (seg no n : Nat) (l : List Piece) : List Piece :=
  let c := bestCopies (copiesOf s seg no)
  if l.isEmpty ∨ c.foldl (fun n p => n + p.len) 0 < n then l else c

/-- Step 5: the map points to the copies that replay keeps (R288). -/
def replayCopies (s : State) : State :=
  let rec_ := fun (seg : Nat) (r : Rec) => let l := replayed s seg r.no r.stored r.pieces; { r with pieces := l, band := firstBand l r.band }
  let grain := fun (seg : Nat) (g : Grain) => let l := replayed s seg g.no g.stored g.pieces; { g with pieces := l, band := firstBand l g.band }
  onCmd (fun q =>
    { q with streams := tmap (fun _ x => { x with recs := tmap (fun _ r => rec_ x.seg r) x.recs }) q.streams
             nss := tmap (fun _ x => { x with grains := tmap (fun g r => grain (segOfGrain s x g) r) x.grains }) q.nss }) s

/-- Head, next record number and last stamp of a stream as its records, or the newest stub, give them (R204). DESIGN CHOICE (log 152): the next number
follows that record's, and a stream of which neither a record nor a stub is found begins again at number 0. Its credits are full (R170, R171). -/
def resumeStream (s : State) (x : Strm) : Strm :=
  let x := fullCredit s x
  match x.recs.getLast?, x.stubs.getLast? with
  | some (n, r), _ => { x with next := n + 1, head := r.tag, lastStamp := r.stamp, ckptNext := min x.ckptNext (n + 1) }
  | none, some (n, st, tag) => { x with next := n + 1, head := tag, lastStamp := st, ckptNext := min x.ckptNext (n + 1) }
  | none, none => { x with next := 0, head := x.genesis, lastStamp := 0, ckptNext := 0 }

/-- The newest record of each stream verifies against its predecessor (R204). -/
def verifyHeads (s : State) : State := s.cmd.streams.foldl (fun s p => match p.2.recs.getLast? with
  | some (n, _) => if tagFails s p.1 n then markDamaged p.1 n s else s
  | none => s) s

/-- Step 7: the streams' heads; at a power-on, FRAME passes the newest stamp found (R30, R204). -/
def resumeStreams (cold : Bool) (s : State) : State :=
  let s := onCmd (fun q => { q with streams := tmap (fun _ x => resumeStream s x) q.streams }) s
  let top := s.cmd.streams.foldl (fun m p => p.2.recs.foldl (fun m q => max m (q.2.stamp / 2 ^ 24)) m) 0
  if cold ∧ top ≥ s.cad.frame ∧ tany (fun _ x => !x.recs.isEmpty) s.cmd.streams then
    let s := onCad (fun c => { c with frame := min 0xFFFFFFFFFF (top + 1) }) s
    cadNotice (evTime s) 6 0 s
  else s

/-- A fence table entry as the journal holds it, at FRAME `now`. The overflow fence, whose STATE is 3 open or ended, is ended where FRAME
has reached its END (R44, R50; log 100). -/
def fenceOf (now : Nat) (l : List Byte) (k : Nat) : Option Fence :=
  let st := fld l (32 * k + 26) 1
  let stop := fld l (32 * k + 8) 8
  if st = 0 then none
  else some { start := fld l (32 * k) 8, stop := stop, edge := fld l (32 * k + 16) 8, group := fld l (32 * k + 24) 1,
              inputs := fld l (32 * k + 25) 1,
              ended := st == 2 || (st == 3 && stop != 0xFFFFFFFFFFFFFFFF && decide (now ≥ stop / 2 ^ 24)) }

/-- Restore the newest durable fence table (R50). -/
def restoreFences (s : State) : State := match (jOf s 6).getLast? with
  | some e => onCad (fun c => { c with fences := (List.range 17).filterMap fun k => (fenceOf c.frame e.body k).map fun f => (k, f) }) s
  | none => onCad (fun c => { c with fences := [] }) s

/-- Restore the health counters from the newest snapshot (R332, R417). -/
def restoreHealth (s : State) : State :=
  let b := match (jOf s 7).getLast? with | some e => e.body | none => []
  onHealth (fun h => { h with ctr := (List.range 20).foldl (fun t k => tset 0 k (fld b (16 + 8 * k) 8) t) [],
                              hist := (List.range 16).foldl (fun t k => tset 0 k (fld b (176 + 8 * k) 8) t) [],
                              atMax := fld b 12 4, tempMax := fld b 6 2, tempMin := fld b 8 2, rest := [] }) s

/-- The entry of the run that ended is completed and journalled (R460). -/
def closeHist (s : State) : State := match s.brc.hist with
  | h :: _ =>
    if h.outcome = 0 then completeHist 0 2 s
    else if h.outcome = 3 ∧ !(jOf s 8).any (fun e => e.body == histBytes h) then queueJ 8 0xFF none (histBytes h) s
    else s
  | [] => s

/-- P_dev, R and C_EFF of the newest entries that give them (R449). -/
def resumeMeasure (s : State) : State :=
  let m := ((jOf s 5).filter fun e => fld e.body 0 1 == 5).getLast?
  let c := ((jOf s 5).filter fun e => fld e.body 0 1 == 3).getLast?
  match m with
  | none => s
  | some e =>
    let ceff := match c with | some x => if x.jseq > e.jseq then fld x.body 4 4 else fld e.body 12 4 | none => fld e.body 12 4
    setCover (onBrc (fun b => { b with pbrace := fld e.body 4 4, rate := fld e.body 8 4, ceff := ceff, measured := true }) s)

/-- Steps 1 to 8 of replay, the votes of step 1 aside (R453). The run that ended is judged before its run-start entry is written;
no run ended before the part's first power-on, so that one is neither counted nor flagged (log 93). -/
def replay (env : BootEnv) (cold : Bool) (s : State) : State :=
  let braced := endedBraced s
  let first := (lastIdx s 1).isNone
  let s := onBoot (fun b => { b with braced := braced }) s
  let s := runStart (if cold then resumeCadence s else s)
  let s := resumeMeasure (closeHist s)
  let s := voteRoots s
  let s := restoreHealth (resumeStreams cold (verifyHeads (reload env (if cold then replayCopies s else s))))
  let s := if cold then bumpHealth 5 1 (restoreFences s) else s
  let s := if first ∨ !cold then s else if braced then bumpHealth 6 1 s else setFlag Reg.brcStatus 7 (bumpHealth 7 1 s)
  checkHarvest s

/-! ## The sequence (R763, R775) -/

/-- The bands of a Segment in which a lost die holds a unit are queued anew for the rewrite that the loss asked for (R316, R379). -/
def requeueHurt (s : State) (seg : Nat) : State :=
  ((bandsOf s seg).filter fun p => (p.2.st == .opened || p.2.st == .closed)
    && (bandDies s p.1).any fun d => d.2.lost && p.2.units.any fun u => u.1 % 64 == memberIn s p.1 d.1 d.2).foldl (fun s p => queueBand p.1 s) s

/-- Steps that only a power-on takes: the sizes and settings read there, the dies and their bands (R290, R291, R348, R593). -/
def powerUp (env : BootEnv) (s : State) : State :=
  let fresh := s.cmd.nss.isEmpty
  let s := if fresh then onMed (fun m => { m with opPct := fieldOf s Reg.medOp 15 8, sparePct := fieldOf s Reg.medOp 7 0 }) s else s
  let s := (segs s).foldl (trainDram env true) s
  let s := (segs s).foldl (fun s n => readRoles (readRegions s n) n) s
  let s := (segs s).foldl (fun s n => if fresh then giveSpares (fixDies env s n) n else findDies env s n) s
  let s := (segs s).foldl (fun s n =>
    if fresh && (bandsOf s n).length != bandRows s n * groupsOf s n then layBands env s n else classify env s n) s
  let s := onInt (fun i => { i with inadm := [] }) { s with flw := { s.flw with blankFail := blankBad env s } }
  let s := (segs s).foldl requeueHurt s
  let s := (segs s).foldl keepErased s
  onMed (fun m => { m with capacity := capacityOf s,
                           spareInit := (segs s).foldl (fun t n => if (tget n t).isSome then t else tput n (spareNow s n) t) m.spareInit,
                           ckptAt := (segs s).map fun n => (n, s.now) }) s

/-- Steps 2 to 6: the parameter sector and the journal are read, the triad words voted, and the program chosen, with its Mode notice
where RESCUE is entered (R757, R764, R769). -/
def bootVotes (env : BootEnv) (cold : Bool) (s : State) : State :=
  let s := onBoot (fun b => { b with cold := false }) s
  let s := onPins (fun p => { p with rindLow := env.rindLow }) (onCry (fun c => { c with rngOk := if cold then true else c.rngOk }) s)
  let s := voteSlots (voteLife (loadParams (scanJournal s)))
  let s := if cold then burnFuses (afterVotes s) else s
  let q := chooseProgram 3 [] s
  if clrBit (modes s) 6 = clrBit (modes q) 6 then q else modeNotice (modes s) 1 q

/-- Step 7 and replay: the main program is measured, the memories and channels trained, the media found, the log replayed, and the
cores, maintenance and the link started (R453, R763, R771, R778). -/
def bootDevice (env : BootEnv) (cold : Bool) (s : State) : State :=
  let strap := env.plain || fld (tgetD [] 0x100 s.pith.params) 0 1 % 2 == 1
  let s := measureBoot env (onBoot (fun b => { b with plain := strap && !rescue s }) s)
  let s := if cold then powerUp env s
    else (segs s).foldl keepErased ((segs s).foldl clampRegions ((segs s).foldl (trainDram env false) s))
  let s := (List.range 32).foldl (trainChannel env) s
  let s := onBoot (fun b => { b with step := 7 }) (drawSalt 0 s)
  let s := if s.boot.running = .rom then (if cold then resumeCadence s else s) else replay env cold s
  let cores := if s.boot.running = .rom then [] else (List.range 16).filter fun k => coreIn s k && isHouse s k
  let s := cores.foldl (fun s k => resetCore k s) (resetCore rindCore s)
  let s := (segs s).foldl (fun s n => startPass n false s) s
  let s := onMed (fun m => { m with pctSeen := pctUsed s, ckptAt := (segs s).map fun n => (n, s.now) }) s
  startLink (onPwr (fun p => { p with tempAt := s.now }) s)

/-- Start the boot sequence: the straps are sampled, and steps 1 to 7 and replay's steps 1 to 8 are taken as one (log 55). With
TEST_MODE high no step starts (R791). When the boot ROM serves RESCUE itself, nothing is replayed but FRAME (R771, R778). -/
def startBoot (env : BootEnv) (s : State) : State :=
  let cold := s.boot.cold
  let off := (if cold then 0 else s.boot.segOff) ||| s.integ.segFuse
  let s := onBoot (fun b => { b with inReset := false, ref := s.now, segOff := if cold then 0 else b.segOff,
                                     segEn := [0, 1, 2, 3].foldl (fun m n => if nbit off n then clrBit m n else m) (env.segEn % 16), rescueN := env.rescueN,
                                     testMode := env.testMode, cause := 0, running := .mainA, plain := false }) s
  if env.testMode then s else bootDevice env cold (bootVotes env cold s)

/-- POWER_ON: VDD_RIND reaches power good, with RESET_N at a level. With RESET_N high the boot sequence starts; otherwise it
starts at the release (R453, R760, R763). -/
def execPowerOn (t : Nat) (resetN perstN : Bool) (env : BootEnv) (s : State) : Host.Outcome State Fault Refusal :=
  let s := tick t s
  if s.boot.powered then .next s
  else
    let s := onBoot (fun b => { b with powered := true, powerAt := s.now, resetN := resetN, perstN := perstN, inReset := true, attempts := 0 }) s
    .next (if resetN then startBoot env s else s)

/-- RESET_N_RELEASE: the ball rises, or the reset that the watchdog, EXTEST or a short pulse caused is released inside; the boot
sequence starts after a reset that has taken effect (R763, R791). The first boot after power good is a power-on's. -/
def execResetNRelease (t : Nat) (env : BootEnv) (s : State) : Host.Outcome State Fault Refusal :=
  let s := onBoot (fun b => { b with resetN := true }) (tick t s)
  if s.boot.powered && s.boot.inReset && !s.dbg.extest then
    .next (startBoot env s)
  else .next s

/-- CONFIG_READY: boot step 8 is done, with PERST_N released (R775). -/
def execConfigReady (t : Nat) (s : State) : Host.Outcome State Fault Refusal :=
  let s := tick t s
  .next (if s.boot.step = 7 && s.boot.perstN && !s.boot.inReset then onBoot (fun b => { b with step := 8, cfgReady := true }) s else s)

/-! ## Step 9 (R242, R449, R453, R767, R776) -/

/-- BACK of a rebuilt entry: as at the fold, with the `IDX_SNAP_MAX` in force now; where the record before has been reclaimed since, by
how far the last ENTRY lay before it at the fold (R242). -/
def rebuiltBack (s : State) (x : Strm) (n : Nat) (r : Rec) : Nat :=
  let p : Parse := { key := nbit r.iflags 0, params := nbit r.iflags 1, still := x.still }
  if n = 0 ∨ (tget (n - 1) x.recs).isSome ∨ (p.key && p.params) then backOf s x n p
  else match r.far with
    | some d => if d ≤ (word s Reg.idxSnapMax).toNat then d else 0xFFFF
    | none => 0xFFFF

/-- Rebuild BACK of the records of a stream that folded after the last checkpoint, in order (R236, R242). -/
def rebuildIndex (s : State) (x : Strm) : Strm :=
  (tkeys x.recs).foldl (fun x n =>
    if n < x.ckptNext then x
    else match tget n x.recs with
      | some r => { x with recs := tput n { r with back := rebuiltBack s x n r } x.recs }
      | none => x) x

/-- The blocks that the rehearsal programmed are erased under intents: one band of the Brace reserve in each stripe group (R449;
log 54). -/
def eraseRehearsed (s : State) (seg : Nat) : State :=
  let l := (bandsOf s seg).filter fun p => p.2.brace
  ((l.drop (l.length - groupsOf s seg)).foldl (fun s p => startErase p.1 s)) s

/-- The first arrival of a main program at step 9 since its slot's activation: SKIND 4, and the rollback floor rises to its SVN
(R767, R769). -/
def firstArrival (s : State) : State :=
  match runningSlot s with
  | none => s
  | some n => match (slotOf s n).image with
    | none => s
    | some i =>
      if rescue s ∨ bootedSince (slotOf s n) then s
      else
        let s := slotNotice 3 n 0 (slotRecord n 4 s)
        if i.svn > s.boot.floor ∧ s.life.lstate ≠ .scrapped then
          fwNotice 6 n 0 i.svn i.fwrev (onBoot (fun b => { b with floor := i.svn }) s)
        else s

/-- At entry to the Plain personality, namespace 1 is created where none exists: block, fine grain, all the unallocated
capacity; DEDUCED: the moment is the end of step 9. While no key slot can be written its data stays beyond reach (R155, R495; log 57). -/
def enterPlain (s : State) : State :=
  if s.boot.plain && (nsOf s 1).isNone then
    let x : Ns := { nstype := 0, grain := 1, zest := 0, owner := 0, cap := capFree s, holdMax := 0, blocks := [], grains := [] }
    let s := onCmd (fun q => { q with nss := tput 1 x q.nss }) s
    if gateOpen s 0 2 then
      let (salt, s) := random 16 s
      writeSlot 2 true 3 1 salt s
    else s
  else s

/-- REPLAY_COMPLETE: step 9 ends. The rehearsal has measured P_dev in mW and R in MB/s; waiting commands are released (R449, R453,
R776). The boot ROM replays nothing, and its step 9 is only the start of its service (R778; log 56). -/
def execReplayComplete (t pdev rate : Nat) (s : State) : Host.Outcome State Fault Refusal :=
  let s := tick t s
  if s.boot.step ≠ 8 then .next s
  else
    let done := onBoot fun b => { b with step := 9, service := true, attempts := 0 }
    if s.boot.running = .rom then .next (done s)
    else
      let s := onCmd (fun q => { q with streams := tmap (fun _ x => rebuildIndex s x) q.streams }) s
      let s := queueMeasure 0 (measure pdev rate none s)
      let s := (segs s).foldl eraseRehearsed s
      let s := brcNotice (if s.boot.braced then 5 else 6) (if s.boot.braced then s.brc.flushSeq else 0) s.boot.reloaded s
      .next (done (firstArrival (enterPlain s)))

end Sys2Proof.Machine
end

