-- ==== Sys2Proof/Machine/Debug.lean ====
section
/-!
DEFINITION. The JTAG port, the debug session and the DAP (R740, R747 to R752, R791, R806).
-/
namespace Sys2Proof.Machine

/-! ## The port (R751) -/

/-- The data register shifts out `n` bits of a captured value. -/
def jtagOut (n v : Nat) (s : State) : State := emit (.jtag n v) (onDbg (fun d => { d with dr := v }) s)

/-- Select an instruction: EXTEST, and what it drives, ends with the selection of another. -/
def selectIr (code : Nat) (s : State) : State := onDbg (fun d => { d with ir := code, extest := code == 0 }) s

/-- The debug instructions are there: not in SCRAPPED, not with TEST_MODE high, and not before step 3 of the boot sequence, which
reads the lifecycle word, nor in reset (R745, R751, R791; log 58). -/
def debugThere (s : State) : Bool := s.boot.powered && !s.boot.inReset && !s.boot.testMode && s.life.lstate != .scrapped

/-- A command of the port: nothing without power. -/
def jtag (t code : Nat) (f : State → State) (s : State) : State :=
  let s := tick t s
  if s.boot.powered then f (selectIr code s) else s

/-- A debug instruction: it acts as BYPASS where it is not available (R751). -/
def jtagDebug (t code : Nat) (f : State → State) (s : State) : State :=
  jtag t code (fun s => if debugThere s then f s else jtagOut 1 0 s) s

/-- Number of boundary-scan cells (R806). -/
def bsrCells : Nat := 4380

/-- JTAG_EXTEST: the cells drive the balls, `cap` is captured and `shift` shifted in; while selected it acts as RESET_N held low
(R751, R761). -/
def execJtagExtest (t cap shift : Nat) (s : State) : Host.Outcome State Fault Refusal :=
  .next (jtag t 0x00 (fun s =>
    let s := onDbg (fun d => { d with bsr := shift % 2 ^ bsrCells }) (jtagOut bsrCells (cap % 2 ^ bsrCells) s)
    if s.brc.flushing then s else resetRequest true s) s)

/-- JTAG_SAMPLE_PRELOAD. -/
def execJtagSamplePreload (t cap shift : Nat) (s : State) : Host.Outcome State Fault Refusal :=
  .next (jtag t 0x01 (fun s => onDbg (fun d => { d with bsr := shift % 2 ^ bsrCells }) (jtagOut bsrCells (cap % 2 ^ bsrCells) s)) s)

/-- JTAG_IDCODE: version 1, part number 0x3216, manufacturer identity 0x2A5 (R751). -/
def execJtagIdcode (t : Nat) (s : State) : Host.Outcome State Fault Refusal := .next (jtag t 0x02 (jtagOut 32 0x1321654B) s)

/-- JTAG_BYPASS, and every code that is not listed. -/
def execJtagBypass (t : Nat) (s : State) : Host.Outcome State Fault Refusal := .next (jtag t 0xFF (jtagOut 1 0) s)

/-- TAP_RESET: IDCODE is selected and the session closes (R750, R751). -/
def execTapReset (t : Nat) (s : State) : Host.Outcome State Fault Refusal := .next (jtag t 0x02 (setLevel .closed) s)

/-! ## The session (R740, R749, R750) -/

/-- DBG_STATUS. -/
def dbgStatus (s : State) : Nat :=
  s.life.lstate.code + b2n s.life.vault * 8 + s.dbg.level.code * 16 + b2n (s.life.busy || s.life.chal) * 64 + b2n (grantsOff s) * 128

/-- DBG_STATUS (R751). -/
def execDbgStatus (t : Nat) (s : State) : Host.Outcome State Fault Refusal :=
  .next (jtagDebug t 0x10 (fun s => jtagOut 32 (dbgStatus s) s) s)

/-- DBG_CHAL: a new nonce; it waits for the random generator (R505, R740). -/
def execDbgChal (t : Nat) (s : State) : Host.Outcome State Fault Refusal :=
  .next (jtagDebug t 0x11 (fun s =>
    if rngReady s then
      let s := newNonce s
      jtagOut 256 (unle s.life.nonce) s
    else s) s)

/-- DBG_GRANT: an update appends 4 bytes, while the buffer of 4,096 has room (R751). -/
def execDbgGrant (t : Nat) (v : Word) (s : State) : Host.Outcome State Fault Refusal :=
  .next (jtagDebug t 0x12 (onDbg (fun d => if d.grant.length < 4096 then { d with grant := d.grant ++ le 4 v.toNat } else d)) s)

/-- The ACTIONs of a grant that permit a level: none where the state permits it without one (R733, R749). -/
def levelNeeds (s : State) (l : DLevel) : List Nat := match s.life.lstate with
  | .blank => []
  | .provisioned => if l = .full then [2] else []
  | _ => if l = .full then [2] else [1, 2]

/-- The level that a request opens: Observe for Full while VAULT is active (R749). -/
def levelFor (s : State) (v : Nat) : Option DLevel := match v with
  | 1 => some .observe
  | 2 => some (if s.life.vault then .observe else .full)
  | _ => none

/-- Open a session, if the state permits it or a staged grant passes; with nothing staged no grant is checked (R749). -/
def openSession (v : Nat) (s : State) : State := match levelFor s v with
  | none => s
  | some l =>
    if levelNeeds s l = [] then setLevel l s
    else if s.dbg.grant = [] then s
    else
      let (ok, s) := checkGrant s.dbg.grant (levelNeeds s l) s
      if ok then setLevel l s else s

/-- The grant buffer starts again from byte 0. -/
def emptyGrant (s : State) : State := onDbg (fun d => { d with grant := [] }) s

/-- DBG_OPEN: 1 Observe, 2 Full. -/
def execDbgOpen (t v : Nat) (s : State) : Host.Outcome State Fault Refusal :=
  .next (jtagDebug t 0x13 (fun s => emptyGrant (openSession (v % 256) s)) s)

/-- DBG_CLOSE. -/
def execDbgClose (t : Nat) (s : State) : Host.Outcome State Fault Refusal :=
  .next (jtagDebug t 0x14 (fun s => setLevel .closed (emptyGrant s)) s)

/-! ## The DAP (R752) -/

/-- Outcomes of a request. -/
inductive DapOp where
  | done | busy | refused | busError
  deriving DecidableEq, Repr

/-- OP on capture. -/
def DapOp.code : DapOp → Nat
  | .done => 0 | .busy => 1 | .refused => 2 | .busError => 3

/-- A request's outcome, and the data of a read, for the next capture. -/
def dapEnd (op : DapOp) (data : Nat) (s : State) : State := onDbg (fun d => { d with dapOp := op.code, dapData := data }) s

/-- A DAP scan: the outcome of the request before is captured, and the request runs at Update-DR. -/
def dap (t who addr data : Nat) (f : State → State) (s : State) : State :=
  jtagDebug t 0x20 (fun s =>
    if s.dbg.level = .closed then jtagOut 1 0 s
    else
      let d := s.dbg
      let s := jtagOut 136 (d.dapOp * 2 ^ 134 + d.dapTarget * 2 ^ 128 + d.dapAddr * 2 ^ 64 + d.dapData) s
      f (onDbg (fun d => { d with dapTarget := who % 64, dapAddr := addr % 2 ^ 64, dapData := data % 2 ^ 64 }) s)) s

/-- Wake the domain of core `k` for a debugger's access (R718). -/
def wakeCore (k : Nat) (s : State) : State :=
  let d := if k = rindCore then rindx else k / 4
  if domSleep s d = 0 then s else updateFloor (wakeNow d s)

/-- An access to a core: refused unless the level is Full and the core exists; its domain wakes. -/
def coreAccess (k : Nat) (f : State → State) (s : State) : State :=
  if s.dbg.level ≠ .full ∨ k > rindCore then dapEnd .refused 0 s
  else f (if segOn s (k / 4) ∨ k = rindCore then wakeCore k s else s)

/-- An access that requires the core to be halted. -/
def haltedAccess (k : Nat) (f : State → State) (s : State) : State :=
  coreAccess k (fun s => if coreIn s k && (coreOf s k).st == .halted then f s else dapEnd .refused 0 s) s

/-- What an ADDR selects in a core. -/
inductive CoreSel where
  | mem (a : Nat)
  | g (n : Nat)
  | mLow (n : Nat)
  | mHigh (n : Nat)
  | a (n f : Nat)
  | preds
  | pc
  | cr (n : Nat)
  | bp (b : Nat)
  deriving DecidableEq, Repr

/-- Register `r` of the selectors at 0x0100_0000. -/
def regSel (r : Nat) : Option CoreSel :=
  if r < 64 then some (.g r)
  else if r < 72 then some (.mLow (r - 64))
  else if r < 80 then some (.mHigh (r - 72))
  else if r < 160 then some (.a ((r - 80) / 5) ((r - 80) % 5))
  else if r = 160 then some .preds
  else if r = 161 then some .pc
  else if 192 ≤ r ∧ r < 256 ∧ crOk (r - 192) then some (.cr (r - 192))
  else none

/-- The selector of an ADDR; nothing where it is a reserved value. -/
def coreSel (addr : Nat) : Option CoreSel :=
  if addr % 8 ≠ 0 then none
  else if addr < 0x1000000 then some (.mem addr)
  else if addr < 0x1000800 then regSel ((addr - 0x1000000) / 8)
  else if addr < 0x1000820 then some (.bp ((addr - 0x1000800) / 8))
  else none

/-- Replace the low 64 bits, or bits 79:64, of an accumulator. -/
def withLow (m : BitVec 80) (v : Nat) : BitVec 80 := BitVec.ofNat 80 (m.toNat / 2 ^ 64 * 2 ^ 64 + v % 2 ^ 64)
def withHigh (m : BitVec 80) (v : Nat) : BitVec 80 := BitVec.ofNat 80 (v % 65536 * 2 ^ 64 + m.toNat % 2 ^ 64)

/-- What a register selector reads. -/
def selRead (s : State) (k : Nat) (x : CoreSel) : Nat :=
  let c := coreOf s k
  match x with
  | .g n => (c.greg n).toNat
  | .mLow n => (c.mreg n).toNat % 2 ^ 64
  | .mHigh n => (c.mreg n).toNat / 2 ^ 64
  | .a n f => ((c.areg n).field f).toNat
  | .preds => flags ((List.range 8).map c.preg)
  | .pc => c.pc.toNat
  | .cr n => (crRead k (isHouse s k) c n).toNat
  | .bp b => tgetD 0 b c.bps
  | .mem _ => 0

/-- Write a register selector; a write to p0, or to an RO register, is discarded (R524). -/
def selWrite (x : CoreSel) (v : Nat) (c : DCore) : DCore :=
  let w := BitVec.ofNat 64 v
  match x with
  | .g n => c.setG n w
  | .mLow n => c.setM n (withLow (c.mreg n) v)
  | .mHigh n => c.setM n (withHigh (c.mreg n) v)
  | .a n f => c.setA n ((c.areg n).setField f w)
  | .preds => [1, 2, 3, 4, 5, 6, 7].foldl (fun c i => c.setP i (w.getLsbD i)) c
  | .pc => { c with pc := w.setWidth 32 &&& 0xFFFFFFFC#32 }
  | .cr n => crWrite n w c
  | .bp b => { c with bps := tset 0 b (v % 2 ^ 32 &&& 0xFFFFFFFD) c.bps }
  | .mem _ => c

/-- Read of a halted core. A memory that the core-local map does not give, and a port, is refused; the mailbox is read like a
memory. -/
def dapCoreRead (k addr : Nat) (s : State) : State := match coreSel addr with
  | none => dapEnd .refused 0 s
  | some (.mem a) => (match localTarget k false .load a 8 with
    | some (.mem key o) => dapEnd .done (unle (readMem s key o 8)) s
    | some (.mailbox o) => dapEnd .done (loadAt s k (.mailbox o) 8) s
    | _ => dapEnd .refused 0 s)
  | some x => dapEnd .done (selRead s k x) s

/-- Write to a halted core. -/
def dapCoreWrite (k addr v : Nat) (s : State) : State := match coreSel addr with
  | none => dapEnd .refused 0 s
  | some (.mem a) => (match localTarget k false .store a 8 with
    | some (.mem key o) => dapEnd .done 0 (writeMem key o (le 8 v) s)
    | _ => dapEnd .refused 0 s)
  | some x => dapEnd .done 0 (onCore k (selWrite x v) s)

/-- A BAR2 offset that TARGET 32 takes. -/
def dapOffset (addr : Nat) : Bool := addr % 4 == 0 && decide (addr < 0x1000000)

/-- The control selector. -/
def ctlSel : Nat := 0x1000FF8

/-- DAP_READ. Of a register of a disabled Segment, the outcome is a bus error and the data all ones (R2, R752). -/
def execDapRead (t who addr : Nat) (s : State) : Host.Outcome State Fault Refusal :=
  .next (dap t who addr 0 (fun s =>
    if who = 32 then
      (if !dapOffset addr then dapEnd .refused 0 s
       else match bar2Read addr s with
        | (some v, s) => dapEnd .done v s
        | (none, s) => dapEnd .busError 0xFFFFFFFF s)
    else if addr = ctlSel then coreAccess who (fun s => dapEnd .done (coreState s who) s) s
    else haltedAccess who (dapCoreRead who addr) s) s)

/-! ## Core control (R747, R750, R752) -/

/-- Control write 1: a core that runs, waits or is held halts; the Rind core only from boot step 8. One that is off, stopped or
quarantined is refused. -/
def ctlHalt (k : Nat) (s : State) : State :=
  if !coreIn s k || (k == rindCore && decide (s.boot.step < 8)) then dapEnd .refused 0 s
  else match (coreOf s k).st with
    | .halted => dapEnd .done 0 s
    | .stopped => dapEnd .refused 0 s
    | _ => dapEnd .done 0 (haltCore k s)

/-- Control write 2. -/
def ctlResume (k : Nat) (s : State) : State :=
  if coreIn s k && (coreOf s k).st == .halted then dapEnd .done 0 (resumeCore k s) else dapEnd .refused 0 s

/-- Control write 3: one bundle, or one REP pass, of a halted core, which is then halted again. A guest core without a run is
refused; a core that waits in GET, or whose hand-over waits, is busy. -/
def ctlStep (k : Nat) (way : Issue) (s : State) : State :=
  let c := coreOf s k
  if !coreIn s k || c.st != .halted || (!isHouse s k && c.run.isNone) then dapEnd .refused 0 s
  else
    let s' := onCore k (fun c => { c with st := .running }) s
    if c.get.isSome || !mayIssue s' k then dapEnd .busy 0 s
    else
      let s' := if repeating c then issuePass k way s'
        else
          let s' := issueBundle k way s'
          if repeating (coreOf s' k) && mayIssue s' k && (coreOf s' k).pc == c.pc then issuePass k { way with cycles := 0 } s' else s'
      dapEnd .done 0 (if (coreOf s' k).st = .running ∨ (coreOf s' k).st = .waiting then haltCore k s' else s')

/-- Control writes 4 and 5. -/
def ctlSstep (on : Bool) (k : Nat) (s : State) : State :=
  if coreIn s k then dapEnd .done 0 (onCore k (fun c => c.setPs 10 10 (b2n on)) s) else dapEnd .refused 0 s

/-- DAP_HALT. -/
def execDapHalt (t who : Nat) (s : State) : Host.Outcome State Fault Refusal :=
  .next (dap t who ctlSel 1 (coreAccess who (ctlHalt who)) s)

/-- DAP_RESUME. -/
def execDapResume (t who : Nat) (s : State) : Host.Outcome State Fault Refusal :=
  .next (dap t who ctlSel 2 (coreAccess who (ctlResume who)) s)

/-- DAP_SINGLE_STEP; `way` is what the core meets when it issues. -/
def execDapSingleStep (t who : Nat) (way : Issue) (s : State) : Host.Outcome State Fault Refusal :=
  .next (dap t who ctlSel 3 (coreAccess who (ctlStep who way)) s)

/-- DAP_SET_SSTEP. -/
def execDapSetSstep (t who : Nat) (s : State) : Host.Outcome State Fault Refusal :=
  .next (dap t who ctlSel 4 (coreAccess who (ctlSstep true who)) s)

/-- DAP_CLEAR_SSTEP. -/
def execDapClearSstep (t who : Nat) (s : State) : Host.Outcome State Fault Refusal :=
  .next (dap t who ctlSel 5 (coreAccess who (ctlSstep false who)) s)

/-- A write to the control selector. -/
def ctlWrite (k v : Nat) (s : State) : State := match v with
  | 1 => ctlHalt k s
  | 2 => ctlResume k s
  | 3 => ctlStep k {} s
  | 4 => ctlSstep true k s
  | 5 => ctlSstep false k s
  | _ => dapEnd .refused 0 s

/-- DAP_WRITE. A BAR2 write requires Full; one to a register of a disabled Segment is discarded, with a bus error (R2, R747,
R752). -/
def execDapWrite (t who addr v : Nat) (s : State) : Host.Outcome State Fault Refusal :=
  .next (dap t who addr v (fun s =>
    if who = 32 then
      (if !dapOffset addr || s.dbg.level != .full then dapEnd .refused 0 s
       else match absentSeg addr with
        | some n => dapEnd (if segOn s n then .done else .busError) 0 (regWrite addr (BitVec.ofNat 32 v) 15 s)
        | none => dapEnd .done 0 (regWrite addr (BitVec.ofNat 32 v) 15 s))
    else if addr = ctlSel then coreAccess who (ctlWrite who v) s
    else haltedAccess who (dapCoreWrite who addr v) s) s)

end Sys2Proof.Machine
end

