-- ==== Sys2Proof/Machine/Smbus.lean ====
section
/-!
DEFINITION. The SMBus sideband: its copies, its reads and its alert (R723, R807 to R809).
-/
namespace Sys2Proof.Machine

/-! ## The copies of temperature and health (R808) -/

/-- Bytes 0 to 15 of the Health log, then bits 15:0 of `PWM_TEMP0` to `PWM_TEMP4`. -/
def sideband (s : State) : List Byte := slice (healthHead s) 0 16 ++ pack ((List.range 5).map fun n => (2, tempOf s n))

/-- The copies of temperature and health are updated every 100 ms, at a reading of the sensors. -/
def refreshCopies (s : State) : State :=
  if s.pins.smbCopy = [] ∨ s.now - s.pins.smbTime ≥ 100000000 then
    onPins (fun p => { p with smbCopy := sideband s, smbTime := s.now }) s
  else s

/-- TEMP_SAMPLE: the sensors read `reads`, in units of 0.25 K, every 100 µs (R723 to R726, R808). -/
def execTempSample (t : Nat) (reads : List Nat) (s : State) : Host.Outcome State Fault Refusal :=
  .next (refreshCopies (takeReads reads (tick t s)))

/-! ## Reads (R807, R808) -/

/-- One bit of the PEC's CRC-8, whose polynomial SMBus 2.0 gives as x⁸ + x² + x + 1 (log 59). -/
def pecBit (c : Byte) : Byte := if c.getLsbD 7 then (c <<< 1) ^^^ 0x07#8 else c <<< 1

/-- The CRC-8 after a further byte. -/
def pecByte (c b : Byte) : Byte := pecBit (pecBit (pecBit (pecBit (pecBit (pecBit (pecBit (pecBit (c ^^^ b))))))))

/-- The PEC over the bytes of a transfer. -/
def pec (l : List Byte) : Byte := l.foldl pecByte 0

/-- The 8-bit forms of the target address 0x5B, to write and to read. -/
def smbWriteAddr : Byte := 0xB6#8
def smbReadAddr : Byte := 0xB7#8

/-- The sideband answers: powered and started once, since it lies in AON, which a later reset leaves running (R760, R807), and not with
TEST_MODE high (R791). -/
def smbThere (s : State) : Bool := s.boot.powered && !(s.boot.inReset && s.boot.cold) && !s.boot.testMode

/-- A read of a command code: the data bytes, a Block Read's count before them, and the PEC byte that is offered after the last
(R807). -/
def smbRead (t code : Nat) (block : Bool) (data : State → List Byte) (s : State) : State :=
  let s := tick t s
  if !smbThere s then s
  else
    let d := (if block then [BitVec.ofNat 8 (data s).length] else []) ++ data s
    emit (.smb (d ++ [pec ([smbWriteAddr, BitVec.ofNat 8 code, smbReadAddr] ++ d)])) s

/-- SMB_STATUS_BYTE: code 0x00. -/
def execSmbStatusByte (t : Nat) (s : State) : Host.Outcome State Fault Refusal :=
  .next (smbRead t 0x00 false (fun s => pack [(1, s.life.lstate.code
    + 8 * flags [s.life.vault, s.brc.active, rescue s, s.med.harvest, s.boot.service])]) s)

/-- SMB_MODES: code 0x01. -/
def execSmbModes (t : Nat) (s : State) : Host.Outcome State Fault Refusal :=
  .next (smbRead t 0x01 false (fun s => pack [(1, modes s)]) s)

/-- The 3216 releases SMB_ALERT_N. -/
def alertHigh (s : State) : State := if s.pins.smbAlert then emit (.smbAlert false) (onPins (fun p => { p with smbAlert := false }) s) else s

/-- SMB_CRIT: code 0x02; the read releases SMB_ALERT_N (R808, R809). -/
def execSmbCrit (t : Nat) (s : State) : Host.Outcome State Fault Refusal :=
  let s := smbRead t 0x02 false (fun s => slice s.pins.smbCopy 0 1) s
  .next (if smbThere s then alertHigh s else s)

/-- SMB_SENSOR_TEMP: codes 0x08 to 0x0C, of sensor `n`. -/
def execSmbSensorTemp (t n : Nat) (s : State) : Host.Outcome State Fault Refusal :=
  .next (smbRead t (0x08 + n) false (fun s => slice s.pins.smbCopy (16 + 2 * n) 2) s)

/-- SMB_TEMP_NOW: code 0x10. -/
def execSmbTempNow (t : Nat) (s : State) : Host.Outcome State Fault Refusal :=
  .next (smbRead t 0x10 false (fun s => slice s.pins.smbCopy 4 2) s)

/-- SMB_HEALTH_BLOCK: code 0x20. -/
def execSmbHealthBlock (t : Nat) (s : State) : Host.Outcome State Fault Refusal :=
  .next (smbRead t 0x20 true (fun s => slice s.pins.smbCopy 0 16) s)

/-- SMB_BRACE_SUMMARY: code 0x21. -/
def execSmbBraceSummary (t : Nat) (s : State) : Host.Outcome State Fault Refusal :=
  .next (smbRead t 0x21 true (fun s => slice (braceLog s) 0 16) s)

/-- SMB_SERIAL: code 0x30. -/
def execSmbSerial (t : Nat) (s : State) : Host.Outcome State Fault Refusal :=
  .next (smbRead t 0x30 true (fun _ => spaced 20 Config.serial) s)

/-! ## The alert and the bus (R807, R809) -/

/-- SMB_ALERT_RESPONSE: while it drives SMB_ALERT_N low, the 3216 answers a read of the Alert Response Address with its own
address, and releases the alert. -/
def execSmbAlertResponse (t : Nat) (s : State) : Host.Outcome State Fault Refusal :=
  let s := tick t s
  .next (if smbThere s && s.pins.smbAlert then alertHigh (emit (.smb [smbWriteAddr]) s) else s)

/-- SMB_CLOCK_TIMEOUT: the 3216 lets go of the bus. A transfer is one command here, so that none is left open. -/
def execSmbClockTimeout (t : Nat) (s : State) : Host.Outcome State Fault Refusal :=
  let s := tick t s
  .next (if smbThere s then emit .smbRelease s else s)

end Sys2Proof.Machine
end

