-- ==== Sys2Proof/Machine/Dispatch.lean ====
section
/-!
DEFINITION. The dispatch: one arm for each command, each one direct call of its meaning.
-/
namespace Sys2Proof.Machine

def exec (i : Instr) (s : State) : Host.Outcome State Fault Refusal :=
  match i with
  | .powerOn t resetN perstN env => Sys2Proof.Machine.execPowerOn t resetN perstN env s
  | .resetNAssert t => Sys2Proof.Machine.execResetNAssert t s
  | .bootWatchdog t => Sys2Proof.Machine.execBootWatchdog t s
  | .perstAssert t => Sys2Proof.Machine.execPerstAssert t s
  | .linkReset t hot => Sys2Proof.Machine.execLinkReset t hot s
  | .configReady t => Sys2Proof.Machine.execConfigReady t s
  | .configRequest t => Sys2Proof.Machine.execConfigRequest t s
  | .replayComplete t pdev rate => Sys2Proof.Machine.execReplayComplete t pdev rate s
  | .cadInEdge t finds => Sys2Proof.Machine.execCadInEdge t finds s
  | .unitFrameBoundary t finds => Sys2Proof.Machine.execUnitFrameBoundary t finds s
  | .lateWindowExpiry t finds => Sys2Proof.Machine.execLateWindowExpiry t finds s
  | .edgesAbsent t => Sys2Proof.Machine.execEdgesAbsent t s
  | .holdoverLimit t => Sys2Proof.Machine.execHoldoverLimit t s
  | .cadOutPulseEnd t => Sys2Proof.Machine.execCadOutPulseEnd t s
  | .frameExhausted t => Sys2Proof.Machine.execFrameExhausted t s
  | .cadenceRecordDue t => Sys2Proof.Machine.execCadenceRecordDue t s
  | .ppsCapture t => Sys2Proof.Machine.execPpsCapture t s
  | .odoPulse t high => Sys2Proof.Machine.execOdoPulse t high s
  | .incidentEdge t n low => Sys2Proof.Machine.execIncidentEdge t n low s
  | .fenceEnd t slot => Sys2Proof.Machine.execFenceEnd t slot s
  | .cadSnapNow t => Sys2Proof.Machine.execCadSnapNow t s
  | .functionEnable t f ctl => Sys2Proof.Machine.execFunctionEnable t f ctl s
  | .functionDisable t f ctl => Sys2Proof.Machine.execFunctionDisable t f ctl s
  | .quotaWrite t f q v => Sys2Proof.Machine.execQuotaWrite t f q v s
  | .ringCreate t f ix => Sys2Proof.Machine.execRingCreate t f ix s
  | .ringDelete t f sub ix => Sys2Proof.Machine.execRingDelete t f sub ix s
  | .ringDeleteDone t f => Sys2Proof.Machine.execRingDeleteDone t f s
  | .ringQuery t f sub ix => Sys2Proof.Machine.execRingQuery t f sub ix s
  | .doorbellBaseWrite t f hi v be => Sys2Proof.Machine.execDoorbellBaseWrite t f hi v be s
  | .pipSubmissionTail t f w be => Sys2Proof.Machine.execPipSubmissionTail t f w be s
  | .pipCompletionHead t f w be => Sys2Proof.Machine.execPipCompletionHead t f w be s
  | .sweep t reads => Sys2Proof.Machine.execSweep t reads s
  | .descriptorFetch t desc segs => Sys2Proof.Machine.execDescriptorFetch t desc segs s
  | .ringStoppedNotice t f sub ix bad => Sys2Proof.Machine.execRingStoppedNotice t f sub ix bad s
  | .noticeWriteHeld t f => Sys2Proof.Machine.execNoticeWriteHeld t f s
  | .coalesceTimer t f ix => Sys2Proof.Machine.execCoalesceTimer t f ix s
  | .functionLevelReset t f => Sys2Proof.Machine.execFunctionLevelReset t f s
  | .sriovVfChange t ve num => Sys2Proof.Machine.execSriovVfChange t ve num s
  | .functionResetDone t f => Sys2Proof.Machine.execFunctionResetDone t f s
  | .fnSnapNow t f => Sys2Proof.Machine.execFnSnapNow t f s
  | .identify t id => Sys2Proof.Machine.execIdentify t id s
  | .nsCreate t id => Sys2Proof.Machine.execNsCreate t id s
  | .nsDelete t id => Sys2Proof.Machine.execNsDelete t id s
  | .streamCreate t id => Sys2Proof.Machine.execStreamCreate t id s
  | .streamDelete t id => Sys2Proof.Machine.execStreamDelete t id s
  | .streamQuery t id => Sys2Proof.Machine.execStreamQuery t id s
  | .getLog t id => Sys2Proof.Machine.execGetLog t id s
  | .abortCmd t id => Sys2Proof.Machine.execAbortCmd t id s
  | .fenceRelease t id => Sys2Proof.Machine.execFenceRelease t id s
  | .progLoad t id data => Sys2Proof.Machine.execProgLoad t id data s
  | .progUnload t id => Sys2Proof.Machine.execProgUnload t id s
  | .fwDownload t id data => Sys2Proof.Machine.execFwDownload t id data s
  | .fwCommitWrite t id => Sys2Proof.Machine.execFwCommitWrite t id s
  | .fwCommitActivate t id => Sys2Proof.Machine.execFwCommitActivate t id s
  | .depotBegin t id => Sys2Proof.Machine.execDepotBegin t id s
  | .depotStop t id => Sys2Proof.Machine.execDepotStop t id s
  | .depotWindowEnd t => Sys2Proof.Machine.execDepotWindowEnd t s
  | .diagRead t id flips => Sys2Proof.Machine.execDiagRead t id flips s
  | .sealRec t id => Sys2Proof.Machine.execSealRec t id s
  | .sealServiceStart t k => Sys2Proof.Machine.execSealServiceStart t k s
  | .sealFold t id data d postBad => Sys2Proof.Machine.execSealFold t id data d postBad s
  | .recallTime t id d => Sys2Proof.Machine.execRecallTime t id d s
  | .recallRecord t id d => Sys2Proof.Machine.execRecallRecord t id d s
  | .recallRange t id => Sys2Proof.Machine.execRecallRange t id s
  | .writeBlocks t id data bad => Sys2Proof.Machine.execWriteBlocks t id data bad s
  | .readBlocks t id => Sys2Proof.Machine.execReadBlocks t id s
  | .deallocate t id => Sys2Proof.Machine.execDeallocate t id s
  | .lockRange t id => Sys2Proof.Machine.execLockRange t id s
  | .releaseRange t id => Sys2Proof.Machine.execReleaseRange t id s
  | .exportRange t id => Sys2Proof.Machine.execExportRange t id s
  | .progRun t id => Sys2Proof.Machine.execProgRun t id s
  | .maintPatrol t id => Sys2Proof.Machine.execMaintPatrol t id s
  | .maintCompact t id => Sys2Proof.Machine.execMaintCompact t id s
  | .maintVerify t id => Sys2Proof.Machine.execMaintVerify t id s
  | .nvmeDeleteIoSq t cmd => Sys2Proof.Machine.execNvmeDeleteIoSq t cmd s
  | .nvmeCreateIoSq t cmd => Sys2Proof.Machine.execNvmeCreateIoSq t cmd s
  | .nvmeGetLogPage t cmd => Sys2Proof.Machine.execNvmeGetLogPage t cmd s
  | .nvmeDeleteIoCq t cmd => Sys2Proof.Machine.execNvmeDeleteIoCq t cmd s
  | .nvmeCreateIoCq t cmd => Sys2Proof.Machine.execNvmeCreateIoCq t cmd s
  | .nvmeIdentify t cmd => Sys2Proof.Machine.execNvmeIdentify t cmd s
  | .nvmeAbort t cmd => Sys2Proof.Machine.execNvmeAbort t cmd s
  | .nvmeSetFeatures t cmd => Sys2Proof.Machine.execNvmeSetFeatures t cmd s
  | .nvmeGetFeatures t cmd => Sys2Proof.Machine.execNvmeGetFeatures t cmd s
  | .nvmeAsyncEventRequest t cmd => Sys2Proof.Machine.execNvmeAsyncEventRequest t cmd s
  | .nvmeFirmwareCommit t cmd => Sys2Proof.Machine.execNvmeFirmwareCommit t cmd s
  | .nvmeFwImageDownload t cmd data => Sys2Proof.Machine.execNvmeFwImageDownload t cmd data s
  | .nvmeFlush t sq cmd => Sys2Proof.Machine.execNvmeFlush t sq cmd s
  | .nvmeWrite t sq cmd data bad => Sys2Proof.Machine.execNvmeWrite t sq cmd data bad s
  | .nvmeRead t sq cmd => Sys2Proof.Machine.execNvmeRead t sq cmd s
  | .nvmeDatasetManagement t sq cmd data => Sys2Proof.Machine.execNvmeDatasetManagement t sq cmd data s
  | .classSFetchStall t f ix => Sys2Proof.Machine.execClassSFetchStall t f ix s
  | .clsSnapNow t n => Sys2Proof.Machine.execClsSnapNow t n s
  | .holdExpiry t => Sys2Proof.Machine.execHoldExpiry t s
  | .retentionNoticeDue t => Sys2Proof.Machine.execRetentionNoticeDue t s
  | .idxSnapNow t n => Sys2Proof.Machine.execIdxSnapNow t n s
  | .zestCompressJob t k => Sys2Proof.Machine.execZestCompressJob t k s
  | .zestDecompressJob t k => Sys2Proof.Machine.execZestDecompressJob t k s
  | .zestJobComplete t seg comp bad => Sys2Proof.Machine.execZestJobComplete t seg comp bad s
  | .zstSnapNow t n => Sys2Proof.Machine.execZstSnapNow t n s
  | .stoneDrain t seg bad finds => Sys2Proof.Machine.execStoneDrain t seg bad finds s
  | .recordDrainComplete t seg => Sys2Proof.Machine.execRecordDrainComplete t seg s
  | .partialUnitTimeout t k => Sys2Proof.Machine.execPartialUnitTimeout t k s
  | .slcMove t seg bad => Sys2Proof.Machine.execSlcMove t seg bad s
  | .mapCheckpoint t seg => Sys2Proof.Machine.execMapCheckpoint t seg s
  | .garbageCollection t seg bad => Sys2Proof.Machine.execGarbageCollection t seg bad s
  | .wearMove t seg bad => Sys2Proof.Machine.execWearMove t seg bad s
  | .patrolPassEnd t seg finds => Sys2Proof.Machine.execPatrolPassEnd t seg finds s
  | .retentionRefresh t k => Sys2Proof.Machine.execRetentionRefresh t k s
  | .ageRefresh t k => Sys2Proof.Machine.execAgeRefresh t k s
  | .maintTokenHandoff t res => Sys2Proof.Machine.execMaintTokenHandoff t res s
  | .medSnapNow t n => Sys2Proof.Machine.execMedSnapNow t n s
  | .channelRetrain t c => Sys2Proof.Machine.execChannelRetrain t c s
  | .windowDecision t d reads => Sys2Proof.Machine.execWindowDecision t d reads s
  | .windowClose t d => Sys2Proof.Machine.execWindowClose t d s
  | .protectedStretchEnd t d => Sys2Proof.Machine.execProtectedStretchEnd t d s
  | .eraseIssue t d b => Sys2Proof.Machine.execEraseIssue t d b s
  | .nandEraseComplete t d ok raws => Sys2Proof.Machine.execNandEraseComplete t d ok raws s
  | .nandProgramComplete t d ok parity => Sys2Proof.Machine.execNandProgramComplete t d ok parity s
  | .nandReadComplete t d b pg best cws use => Sys2Proof.Machine.execNandReadComplete t d b pg best cws use s
  | .nandOpTimeout t d => Sys2Proof.Machine.execNandOpTimeout t d s
  | .flwSnapNow t n => Sys2Proof.Machine.execFlwSnapNow t n s
  | .detectorHoldoffEnd t k => Sys2Proof.Machine.execDetectorHoldoffEnd t k s
  | .injectionArm t w be => Sys2Proof.Machine.execInjectionArm t w be s
  | .injectionDisarm t w be => Sys2Proof.Machine.execInjectionDisarm t w be s
  | .bypassOpen t w be => Sys2Proof.Machine.execBypassOpen t w be s
  | .bypassWindowEnd t => Sys2Proof.Machine.execBypassWindowEnd t s
  | .intSnapNow t => Sys2Proof.Machine.execIntSnapNow t s
  | .sramScrub t finds => Sys2Proof.Machine.execSramScrub t finds s
  | .healthSave t => Sys2Proof.Machine.execHealthSave t s
  | .fabricTimeout t work write units => Sys2Proof.Machine.execFabricTimeout t work write units s
  | .heartbeatMiss t k => Sys2Proof.Machine.execHeartbeatMiss t k s
  | .hostReadTimeout t work => Sys2Proof.Machine.execHostReadTimeout t work s
  | .powerWarning t vsys vhu warnN huOk => Sys2Proof.Machine.execPowerWarning t vsys vhu warnN huOk s
  | .braceFlushComplete t pbrace t34 t37 v3 v7 low => Sys2Proof.Machine.execBraceFlushComplete t pbrace t34 t37 v3 v7 low s
  | .exitWaitRestart t vsys vhu warnN huOk => Sys2Proof.Machine.execExitWaitRestart t vsys vhu warnN huOk s
  | .braceExit t => Sys2Proof.Machine.execBraceExit t s
  | .brcSnapNow t => Sys2Proof.Machine.execBrcSnapNow t s
  | .cryptoInit t k => Sys2Proof.Machine.execCryptoInit t k s
  | .cryptoUpdate t k => Sys2Proof.Machine.execCryptoUpdate t k s
  | .cryptoFinal t k => Sys2Proof.Machine.execCryptoFinal t k s
  | .cryptoFree t k => Sys2Proof.Machine.execCryptoFree t k s
  | .cryptoOneshot t k => Sys2Proof.Machine.execCryptoOneshot t k s
  | .cryptoChainCheck t k => Sys2Proof.Machine.execCryptoChainCheck t k s
  | .cryptoRandom t k => Sys2Proof.Machine.execCryptoRandom t k s
  | .gcmHoldGrant t seg => Sys2Proof.Machine.execGcmHoldGrant t seg s
  | .cryptoJobComplete t n bus differ flags_ lane finds => Sys2Proof.Machine.execCryptoJobComplete t n bus differ flags_ lane finds s
  | .tamperAlarm t n => Sys2Proof.Machine.execTamperAlarm t n s
  | .keyRederive t => Sys2Proof.Machine.execKeyRederive t s
  | .rngHealthFail t => Sys2Proof.Machine.execRngHealthFail t s
  | .rngRecovered t => Sys2Proof.Machine.execRngRecovered t s
  | .drbgReseed t => Sys2Proof.Machine.execDrbgReseed t s
  | .exportKeySet t f => Sys2Proof.Machine.execExportKeySet t f s
  | .exportKeyClear t f => Sys2Proof.Machine.execExportKeyClear t f s
  | .cryCtrlWrite t w be => Sys2Proof.Machine.execCryCtrlWrite t w be s
  | .crySnapNow t => Sys2Proof.Machine.execCrySnapNow t s
  | .spdmGetVersion t req => Sys2Proof.Machine.execSpdmGetVersion t req s
  | .spdmGetCapabilities t req => Sys2Proof.Machine.execSpdmGetCapabilities t req s
  | .spdmNegotiateAlgorithms t req => Sys2Proof.Machine.execSpdmNegotiateAlgorithms t req s
  | .spdmGetDigests t req => Sys2Proof.Machine.execSpdmGetDigests t req s
  | .spdmGetCertificate t req => Sys2Proof.Machine.execSpdmGetCertificate t req s
  | .spdmChallenge t req => Sys2Proof.Machine.execSpdmChallenge t req s
  | .spdmGetMeasurements t req => Sys2Proof.Machine.execSpdmGetMeasurements t req s
  | .bundleIssue t k way => Sys2Proof.Machine.execBundleIssue t k way s
  | .repPass t k way => Sys2Proof.Machine.execRepPass t k way s
  | .budgetException t k => Sys2Proof.Machine.execBudgetException t k s
  | .eventException t k => Sys2Proof.Machine.execEventException t k s
  | .coreClockGate t k => Sys2Proof.Machine.execCoreClockGate t k s
  | .getDeliver t seg => Sys2Proof.Machine.execGetDeliver t seg s
  | .dispatcherPost t k => Sys2Proof.Machine.execDispatcherPost t k s
  | .dispatcherDone t k => Sys2Proof.Machine.execDispatcherDone t k s
  | .runExit t k => Sys2Proof.Machine.execRunExit t k s
  | .delayRelease t seg => Sys2Proof.Machine.execDelayRelease t seg s
  | .runStart t seg k w3 w4 => Sys2Proof.Machine.execRunStart t seg k w3 w4 s
  | .dspfHwWrite t f o w be => Sys2Proof.Machine.execDspfHwWrite t f o w be s
  | .dspSnapNow t n => Sys2Proof.Machine.execDspSnapNow t n s
  | .dramZeroFill t n => Sys2Proof.Machine.execDramZeroFill t n s
  | .dramZqCalibration t n => Sys2Proof.Machine.execDramZqCalibration t n s
  | .dramRecentre t n temp => Sys2Proof.Machine.execDramRecentre t n temp s
  | .dramRefresh t n postpone => Sys2Proof.Machine.execDramRefresh t n postpone s
  | .dramRfm t n b => Sys2Proof.Machine.execDramRfm t n b s
  | .neighbourRefresh t n b acts reqs slots => Sys2Proof.Machine.execNeighbourRefresh t n b acts reqs slots s
  | .ratWindowClear t n => Sys2Proof.Machine.execRatWindowClear t n s
  | .dmCopy t k => Sys2Proof.Machine.execDmCopy t k s
  | .dmHostRead t k => Sys2Proof.Machine.execDmHostRead t k s
  | .dmHostWrite t k => Sys2Proof.Machine.execDmHostWrite t k s
  | .dmRecordRead t k => Sys2Proof.Machine.execDmRecordRead t k s
  | .dmFill t k => Sys2Proof.Machine.execDmFill t k s
  | .dmDescriptorComplete t seg c differ units dram sram => Sys2Proof.Machine.execDmDescriptorComplete t seg c differ units dram sram s
  | .dmResume t k => Sys2Proof.Machine.execDmResume t k s
  | .dmAbandon t k => Sys2Proof.Machine.execDmAbandon t k s
  | .drmSnapNow t n => Sys2Proof.Machine.execDrmSnapNow t n s
  | .dmvSnapNow t n => Sys2Proof.Machine.execDmvSnapNow t n s
  | .pthKeyWrite t p v => Sys2Proof.Machine.execPthKeyWrite t p v s
  | .pithUnlockTimeout t p => Sys2Proof.Machine.execPithUnlockTimeout t p s
  | .pageProgram t p sector page units => Sys2Proof.Machine.execPageProgram t p sector page units s
  | .sectorErase t p sector => Sys2Proof.Machine.execSectorErase t p sector s
  | .eraseSuspend t p b => Sys2Proof.Machine.execEraseSuspend t p b s
  | .eraseResume t p b => Sys2Proof.Machine.execEraseResume t p b s
  | .blankCheck t p sector => Sys2Proof.Machine.execBlankCheck t p sector s
  | .paramPut t p typ ix data => Sys2Proof.Machine.execParamPut t p typ ix data s
  | .paramDelete t p typ ix => Sys2Proof.Machine.execParamDelete t p typ ix s
  | .paramGet t p typ ix => Sys2Proof.Machine.execParamGet t p typ ix s
  | .pithEraseComplete t b clean => Sys2Proof.Machine.execPithEraseComplete t b clean s
  | .pithProgramComplete t b ok => Sys2Proof.Machine.execPithProgramComplete t b ok s
  | .journalProgram t => Sys2Proof.Machine.execJournalProgram t s
  | .newEpoch t => Sys2Proof.Machine.execNewEpoch t s
  | .pthSnapNow t => Sys2Proof.Machine.execPthSnapNow t s
  | .governorDecision t busy => Sys2Proof.Machine.execGovernorDecision t busy s
  | .vregSettled t => Sys2Proof.Machine.execVregSettled t s
  | .vregSettleTimeout t => Sys2Proof.Machine.execVregSettleTimeout t s
  | .segmentSleepEntry t n => Sys2Proof.Machine.execSegmentSleepEntry t n s
  | .rindSleepEntry t => Sys2Proof.Machine.execRindSleepEntry t s
  | .domainWake t d => Sys2Proof.Machine.execDomainWake t d s
  | .wakeComplete t d => Sys2Proof.Machine.execWakeComplete t d s
  | .tempSample t reads => Sys2Proof.Machine.execTempSample t reads s
  | .throttleStep t n => Sys2Proof.Machine.execThrottleStep t n s
  | .thermalShedBegin t => Sys2Proof.Machine.execThermalShedBegin t s
  | .thermalShedEnd t => Sys2Proof.Machine.execThermalShedEnd t s
  | .pwmSnapNow t => Sys2Proof.Machine.execPwmSnapNow t s
  | .lcsPrepare t => Sys2Proof.Machine.execLcsPrepare t s
  | .lcsProvision t => Sys2Proof.Machine.execLcsProvision t s
  | .lcsSeal t => Sys2Proof.Machine.execLcsSeal t s
  | .lcsVaultEnter t => Sys2Proof.Machine.execLcsVaultEnter t s
  | .lcsReturn t => Sys2Proof.Machine.execLcsReturn t s
  | .lcsScrap t => Sys2Proof.Machine.execLcsScrap t s
  | .lcsChallenge t => Sys2Proof.Machine.execLcsChallenge t s
  | .lcsSnapNow t => Sys2Proof.Machine.execLcsSnapNow t s
  | .jtagExtest t cap shift => Sys2Proof.Machine.execJtagExtest t cap shift s
  | .jtagSamplePreload t cap shift => Sys2Proof.Machine.execJtagSamplePreload t cap shift s
  | .jtagIdcode t => Sys2Proof.Machine.execJtagIdcode t s
  | .jtagBypass t => Sys2Proof.Machine.execJtagBypass t s
  | .dbgStatus t => Sys2Proof.Machine.execDbgStatus t s
  | .dbgChal t => Sys2Proof.Machine.execDbgChal t s
  | .dbgGrant t v => Sys2Proof.Machine.execDbgGrant t v s
  | .dbgOpen t v => Sys2Proof.Machine.execDbgOpen t v s
  | .dbgClose t => Sys2Proof.Machine.execDbgClose t s
  | .tapReset t => Sys2Proof.Machine.execTapReset t s
  | .dapRead t who addr => Sys2Proof.Machine.execDapRead t who addr s
  | .dapWrite t who addr v => Sys2Proof.Machine.execDapWrite t who addr v s
  | .dapHalt t who => Sys2Proof.Machine.execDapHalt t who s
  | .dapResume t who => Sys2Proof.Machine.execDapResume t who s
  | .dapSingleStep t who way => Sys2Proof.Machine.execDapSingleStep t who way s
  | .dapSetSstep t who => Sys2Proof.Machine.execDapSetSstep t who s
  | .dapClearSstep t who => Sys2Proof.Machine.execDapClearSstep t who s
  | .smbStatusByte t => Sys2Proof.Machine.execSmbStatusByte t s
  | .smbModes t => Sys2Proof.Machine.execSmbModes t s
  | .smbCrit t => Sys2Proof.Machine.execSmbCrit t s
  | .smbSensorTemp t n => Sys2Proof.Machine.execSmbSensorTemp t n s
  | .smbTempNow t => Sys2Proof.Machine.execSmbTempNow t s
  | .smbHealthBlock t => Sys2Proof.Machine.execSmbHealthBlock t s
  | .smbBraceSummary t => Sys2Proof.Machine.execSmbBraceSummary t s
  | .smbSerial t => Sys2Proof.Machine.execSmbSerial t s
  | .smbAlertResponse t => Sys2Proof.Machine.execSmbAlertResponse t s
  | .smbClockTimeout t => Sys2Proof.Machine.execSmbClockTimeout t s
  | .blockLock t blk v be => Sys2Proof.Machine.execBlockLock t blk v be s
  | .registerWrite t a v be => Sys2Proof.Machine.execRegisterWrite t a v be s
  | .powerLoss t units torn copies => Sys2Proof.Machine.execPowerLoss t units torn copies s
  | .resetNRelease t env => Sys2Proof.Machine.execResetNRelease t env s
  | .perstRelease t => Sys2Proof.Machine.execPerstRelease t s
  | .linkStateChange t link speed width => Sys2Proof.Machine.execLinkStateChange t link speed width s
  | .hostReadCompletion t work ok data => Sys2Proof.Machine.execHostReadCompletion t work ok data s
  | .flitCrcError t => Sys2Proof.Machine.execFlitCrcError t s
  | .exitWaitStart t vsys vhu warnN huOk => Sys2Proof.Machine.execExitWaitStart t vsys vhu warnN huOk s
  | .windowOpen t d => Sys2Proof.Machine.execWindowOpen t d s
  | .vppPithRangeChange t ok => Sys2Proof.Machine.execVppPithRangeChange t ok s
  | .monitorOscillatorCheck t ppm => Sys2Proof.Machine.execMonitorOscillatorCheck t ppm s

end Sys2Proof.Machine
end

