-- ==== Sys2Proof/Machine/Step.lean ====
section
/-!
DEFINITION. The step: the command at the front of the queue is taken and carried out.
-/
namespace Sys2Proof.Machine

/-- One step: take the command at the front of the queue and carry it out with the queue's rest. On an empty queue the part idles:
what its clocks bring about has rows of its own in the table (log 60). -/
def step (s : State) : Host.Outcome State Fault Refusal :=
  match s.pending with
  | [] => .next s
  | c :: rest => exec c { s with pending := rest }

/-- The state with the command that a word spells put at the front of the queue. The table gives no row any bits, so that no word
spells a command (log 61). -/
def State.withFetchWord (s : State) (nbits w : Nat) : State :=
  match decodeTableWord nbits w with
  | some c => { s with pending := c :: s.pending }
  | none => s

end Sys2Proof.Machine
end

