-- ==== Sys2Proof/Safety.lean ====
section
/-!
DEFINITION. What a safe run keeps, and the words in which statements speak of a command: that it completes, and which parts of the
state it leaves as they were.
-/
namespace Sys2Proof.Machine

/-- A command answers a next state, of which `P` holds. -/
def Completes (c : Instr) (s : State) (P : State → Prop) : Prop := ∃ t, exec c s = .next t ∧ P t

/-- The completion of command `c` with a status and a RESULT has been written to a CMP ring (R86, R153). -/
def Posted (c : Flight) (status result : Nat) (u : State) : Prop :=
  ∃ ring addr e, Out.completion c.fn ring addr e ∈ u.out ∧ e.cid = c.cid ∧ e.status = shownStatus c status ∧ e.result = result

/-- Where completions of command `c` go stands open: its function is not resetting, and the CMP ring that its submission ring names is
not stopped (R99, R835). -/
def CanPost (s : State) (c : Flight) : Prop :=
  (funcOf s c.fn).st ≠ .resetting ∧ ∃ k r, cqKey s c.fn c.ring = some k ∧ ringOf s k = some r ∧ r.stopped = false

/-- Host command `id`, of opcode `op`, is in flight as `c` and may be served: it may set out, what it needs has a core in service, and
its completion can be written. -/
structure InService (op id : Nat) (c : Flight) (s : State) : Prop where
  flight : tget id s.rge.flights = some c
  code : c.opcode = op
  may : maySetOut s id c = true
  alive : deadStatus s c = none
  post : CanPost s c

/-- An NVMe command has completed with a status and dword 0 of the completion (R156). -/
def NvDone (sq : Nat) (cmd : List Byte) (status result : Nat) (u : State) : Prop := Out.nvme sq (fld cmd 2 2) status result ∈ u.out

/-- The Plain controller serves admin command `cmd`, of opcode `op` (R153, R156, R745, R776). -/
structure NvAdmin (op : Nat) (cmd : List Byte) (s : State) : Prop where
  ready : nvReady s = true
  brace : s.brc.active = false
  code : fld cmd 0 1 = op
  allowed : nvBarred s true cmd = false

/-- The Plain controller serves I/O command `cmd`, of opcode `op`, from queue `sq`. -/
structure NvIo (op sq : Nat) (cmd : List Byte) (s : State) : Prop where
  ready : nvReady s = true
  service : s.boot.service = true
  brace : s.brc.active = false
  queue : (tget sq s.cmd.nvme.sqs).isSome
  code : fld cmd 0 1 = op
  allowed : nvBarred s false cmd = false

/-- Core `k` may issue, and nothing outside the bundle interferes: no error of its memories or its register file, no injection and
no bypass window, no store to instruction memory that FENCE.I has not made visible, and no wrap of its counters. -/
structure Issues (k : Nat) (way : Issue) (s : State) : Prop where
  may : mayIssue s k = true
  unarmed : s.integ.armed = false ∧ s.integ.bypass = none
  sound : way.parity = false ∧ way.corr = [] ∧ way.poison = [] ∧ way.busErr = [] ∧ way.fetchPoison = false
  fresh : s.dxr.stale = []
  count : (coreOf s k).cycle.toNat + way.cycles < 2 ^ 48 ∧ (coreOf s k).retired.toNat + 2 < 2 ^ 48

/-- A core as a bundle without REP finds it: its cycles counted and the time of its issue kept, `PSTATE.REPACT` 0 (R523, R551, R716). -/
def issuedCore (now : Nat) (way : Issue) (c : DCore) : DCore :=
  { c.setPs 15 15 0 with cycle := c.cycle + BitVec.ofNat 48 way.cycles, issuedAt := now }

/-- A core after a bundle of so many words, which found it as `c` and left its registers as in `n` without a transfer of control: the
next bundle follows or its innermost loops begin again, and RETIRED counts it (R523, R543). -/
def passedCore (words : Nat) (c n : DCore) : DCore :=
  let m := loopCheck c.pc.toNat 3 { n with pc := BitVec.ofNat 32 (c.pc.toNat + 4 * words) }
  { m with retired := m.retired + 1 }

/-- A house core that has taken exception `e` at `epc`, with EADDR at `a`, in which it was as `c`: the saved registers are written, EXL
is 1, IE, LDEPTH and REPACT are 0, and it continues at its vector (R555, R559). -/
def trappedCore (e : Exc) (a epc : Nat) (c : DCore) : DCore :=
  { c with epstate := setBits c.pstate 0 0 1, epc := BitVec.ofNat 32 epc, ecause := BitVec.ofNat 11 (e.slot * 256 + e.code),
           eaddr := BitVec.ofNat 64 a, lastExc := e.code, get := none, getWords := [], getReads := [],
           pstate := setBits (setBits (setBits (setBits c.pstate 12 12 1) 11 11 0) 14 13 0) 15 15 0,
           pc := BitVec.ofNat 32 (c.evec.toNat + 0x40 * e.code) }

/-- A debugger can reach core `k`: the debug instructions are there, the level is Full, and the core is in its role's set with its
domain awake (R748, R751, R752). -/
structure Reachable (k : Nat) (s : State) : Prop where
  there : debugThere s = true
  level : s.dbg.level = .full
  core : coreIn s k = true ∧ k ≤ rindCore
  awake : domSleep s (if k = rindCore then rindx else k / 4) = 0

/-- An event of detector `k` is among those the detector log holds (R423). -/
def Logged (k : Nat) (u : State) : Prop := ∃ e ∈ u.integ.log, e.dt = k

/-- A notice of type `typ` whose payload begins with these bytes is among the notices posted to function 0. -/
def Noticed (typ : Nat) (payload : List Byte) (u : State) : Prop := ∃ n ∈ u.history, n.typ = typ ∧ n.payload = fit 16 payload

/-- The parts of the state that a frame tells apart: every field of `State`, and the fields within a field that rules single out. -/
inductive Area where
  /-- The queue of commands that wait. -/
  | pending
  /-- The time of the newest command. -/
  | now
  /-- The count of free values drawn. -/
  | draws
  /-- The stored register fields. -/
  | regs
  /-- The values loaded at power-on. -/
  | loaded
  /-- The counters. -/
  | ctrs
  /-- The copies that SNAP strobes took. -/
  | snaps
  /-- The Cadence Unit. -/
  | cad
  /-- The Ring Engine: functions, rings, Pips and commands in flight. -/
  | rge
  /-- The integrity state: injection, spares, quarantine. -/
  | integ
  /-- The Pith Array. -/
  | pith
  /-- The lifecycle part of the Security Gate. -/
  | life
  /-- The debug port. -/
  | dbg
  /-- Start-up, firmware slots and personality. -/
  | boot
  /-- Link, sideband and supply pins. -/
  | pins
  /-- The health log. -/
  | health
  /-- Namespaces, streams, exports and the NVMe controller. -/
  | cmd
  /-- The crypto engines, contexts and keys in use. -/
  | cry
  /-- The Brace Unit. -/
  | brc
  /-- The Zest engines. -/
  | zst
  /-- The Flash Wheel and its dies. -/
  | flw
  /-- Stone, bands and maintenance. -/
  | med
  /-- The Power Manager. -/
  | pwr
  /-- The cores and their memories. -/
  | dxr
  /-- The Dispatchers, runs and programs. -/
  | dsp
  /-- The Data Movers and DRAM channels. -/
  | mov
  /-- The error logs. -/
  | errs
  /-- Their counts. -/
  | errCounts
  /-- The notices posted of late. -/
  | history
  /-- What the device has sent out. -/
  | out
  /-- Power is good. -/
  | powered
  /-- A reset holds. -/
  | inReset
  /-- TEST_MODE was high at the start. -/
  | testMode
  /-- The rollback floor. -/
  | floor
  /-- VAULT. -/
  | vault
  /-- The lifecycle state. -/
  | lstate
  /-- The fuse of the Device Root Key. -/
  | drkCut
  /-- The debug level. -/
  | level
  /-- The Harvest mode. -/
  | harvest
  /-- The bytes of the cores' and engines' memories. -/
  | mem
  deriving DecidableEq, Repr

/-- A part of the state reads in `t` as it does in `s`. -/
def Area.same (a : Area) (s t : State) : Prop := match a with
  | .pending => t.pending = s.pending
  | .now => t.now = s.now
  | .draws => t.draws = s.draws
  | .regs => t.regs = s.regs
  | .loaded => t.loaded = s.loaded
  | .ctrs => t.ctrs = s.ctrs
  | .snaps => t.snaps = s.snaps
  | .cad => t.cad = s.cad
  | .rge => t.rge = s.rge
  | .integ => t.integ = s.integ
  | .pith => t.pith = s.pith
  | .life => t.life = s.life
  | .dbg => t.dbg = s.dbg
  | .boot => t.boot = s.boot
  | .pins => t.pins = s.pins
  | .health => t.health = s.health
  | .cmd => t.cmd = s.cmd
  | .cry => t.cry = s.cry
  | .brc => t.brc = s.brc
  | .zst => t.zst = s.zst
  | .flw => t.flw = s.flw
  | .med => t.med = s.med
  | .pwr => t.pwr = s.pwr
  | .dxr => t.dxr = s.dxr
  | .dsp => t.dsp = s.dsp
  | .mov => t.mov = s.mov
  | .errs => t.errs = s.errs
  | .errCounts => t.errCounts = s.errCounts
  | .history => t.history = s.history
  | .out => t.out = s.out
  | .powered => t.boot.powered = s.boot.powered
  | .inReset => t.boot.inReset = s.boot.inReset
  | .testMode => t.boot.testMode = s.boot.testMode
  | .floor => t.boot.floor = s.boot.floor
  | .vault => t.life.vault = s.life.vault
  | .lstate => t.life.lstate = s.life.lstate
  | .drkCut => t.life.drkCut = s.life.drkCut
  | .level => t.dbg.level = s.dbg.level
  | .harvest => t.med.harvest = s.med.harvest
  | .mem => t.dxr.mem = s.dxr.mem

/-- From `s` to `t` no part of the state changes but those listed. A part within a part that is listed changes only if it is listed
itself. -/
def Only (l : List Area) (s t : State) : Prop := ∀ a, a ∉ l → a.same s t

/-- The parts of the state that a command may change, by what its rules let it do at most. -/
def changes (c : Instr) : List Area := match c with
  | .powerOn .. =>
    [.now, .draws, .regs, .loaded, .ctrs, .cad, .rge, .integ, .pith, .life, .boot, .pins, .health, .cmd, .cry, .brc, .flw,
     .med, .pwr, .dxr, .dsp, .mov, .history, .out, .powered, .inReset, .testMode, .vault, .lstate, .harvest]
  | .resetNAssert .. | .bootWatchdog .. | .jtagExtest .. =>
    [.now, .draws, .regs, .ctrs, .snaps, .rge, .integ, .life, .dbg, .boot, .pins, .cmd, .cry, .brc, .zst, .flw, .med, .pwr,
     .dxr, .dsp, .mov, .errs, .errCounts, .history, .out, .inReset, .level, .mem]
  | .perstAssert .. =>
    [.now, .regs, .ctrs, .rge, .integ, .boot, .pins, .cmd, .cry, .zst, .dxr, .dsp, .mov, .history, .out, .mem]
  | .linkReset .. =>
    [.now, .regs, .ctrs, .rge, .integ, .pins, .cmd, .cry, .zst, .dxr, .dsp, .mov, .history, .out, .mem]
  | .configReady .. =>
    [.now, .boot]
  | .configRequest .. | .smbStatusByte .. | .smbModes .. | .smbSensorTemp .. | .smbTempNow .. | .smbHealthBlock ..
  | .smbBraceSummary .. | .smbSerial .. | .smbClockTimeout .. =>
    [.now, .out]
  | .replayComplete .. =>
    [.now, .draws, .regs, .ctrs, .rge, .integ, .pith, .boot, .pins, .cmd, .brc, .med, .history, .out, .floor]
  | .cadInEdge .. | .unitFrameBoundary .. | .lateWindowExpiry .. =>
    [.now, .regs, .ctrs, .cad, .rge, .integ, .pith, .pins, .health, .cmd, .med, .mov, .history, .out]
  | .frameExhausted .. =>
    [.now, .regs, .ctrs, .cad, .rge, .integ, .pins, .health, .cmd, .med, .history, .out]
  | .edgesAbsent .. | .holdoverLimit .. | .ppsCapture .. | .odoPulse .. =>
    [.now, .regs, .ctrs, .cad, .rge, .integ, .history, .out]
  | .cadOutPulseEnd .. =>
    [.now, .cad, .out]
  | .cadenceRecordDue .. =>
    [.now, .pith]
  | .incidentEdge .. =>
    [.now, .regs, .ctrs, .cad, .rge, .integ, .pith, .history, .out]
  | .fenceEnd .. =>
    [.now, .cad]
  | .cadSnapNow .. =>
    [.now, .snaps, .cad]
  | .functionEnable .. =>
    [.now, .draws, .regs, .ctrs, .rge, .integ, .cry, .history, .out]
  | .functionDisable .. | .functionLevelReset .. | .sriovVfChange .. =>
    [.now, .regs, .ctrs, .rge, .integ, .cmd, .cry, .zst, .dxr, .dsp, .mov, .history, .out, .mem]
  | .quotaWrite .. | .ringCreate .. | .ringDelete .. | .ringQuery .. | .doorbellBaseWrite .. =>
    [.now, .regs, .rge]
  | .ringDeleteDone .. =>
    [.now, .rge]
  | .pipSubmissionTail .. | .pipCompletionHead .. =>
    [.now, .draws, .regs, .ctrs, .rge, .integ, .history, .out]
  | .sweep .. | .ringStoppedNotice .. | .classSFetchStall .. | .detectorHoldoffEnd .. | .flitCrcError ..
  | .monitorOscillatorCheck .. =>
    [.now, .regs, .ctrs, .rge, .integ, .history, .out]
  | .descriptorFetch .. =>
    [.now, .regs, .ctrs, .snaps, .rge, .integ, .pins, .cmd, .flw, .med, .pwr, .mov, .errs, .errCounts, .history, .out]
  | .noticeWriteHeld .. | .coalesceTimer .. =>
    [.now, .rge, .out]
  | .functionResetDone .. =>
    [.now, .draws, .regs, .ctrs, .snaps, .rge, .integ, .cmd, .cry, .history, .out]
  | .fnSnapNow .. | .intSnapNow .. | .brcSnapNow .. | .crySnapNow .. | .pthSnapNow .. =>
    [.now, .snaps]
  | .identify .. | .streamQuery .. | .fwDownload .. | .diagRead .. | .sealRec .. | .recallTime .. | .recallRecord ..
  | .recallRange .. | .readBlocks .. | .lockRange .. | .releaseRange .. | .maintVerify .. | .getLog .. | .nvmeRead .. =>
    [.now, .regs, .ctrs, .rge, .integ, .pins, .health, .cmd, .pwr, .errs, .errCounts, .history, .out]
  | .maintPatrol .. | .depotBegin .. | .depotStop .. =>
    [.now, .regs, .ctrs, .rge, .integ, .pins, .health, .cmd, .med, .pwr, .errs, .errCounts, .history, .out]
  | .nsCreate .. =>
    [.now, .draws, .regs, .ctrs, .rge, .integ, .pith, .pins, .health, .cmd, .pwr, .errs, .errCounts, .history, .out]
  | .nsDelete .. =>
    [.now, .regs, .ctrs, .rge, .integ, .pith, .pins, .health, .cmd, .zst, .med, .pwr, .errs, .errCounts, .history, .out]
  | .streamCreate .. =>
    [.now, .draws, .regs, .ctrs, .snaps, .rge, .integ, .pins, .health, .cmd, .flw, .med, .pwr, .mov, .errs, .errCounts,
     .history, .out]
  | .streamDelete .. | .deallocate .. =>
    [.now, .regs, .ctrs, .rge, .integ, .pins, .health, .cmd, .zst, .med, .pwr, .errs, .errCounts, .history, .out]
  | .abortCmd .. | .progLoad .. | .progUnload .. | .progRun .. =>
    [.now, .regs, .ctrs, .rge, .integ, .pins, .health, .cmd, .pwr, .dsp, .errs, .errCounts, .history, .out]
  | .fenceRelease .. =>
    [.now, .regs, .ctrs, .cad, .rge, .integ, .pith, .pins, .health, .cmd, .pwr, .errs, .errCounts, .history, .out]
  | .fwCommitWrite .. | .fwCommitActivate .. =>
    [.now, .regs, .ctrs, .rge, .integ, .pith, .pins, .health, .cmd, .med, .pwr, .errs, .errCounts, .history, .out]
  | .depotWindowEnd .. =>
    [.now, .regs, .ctrs, .rge, .integ, .cmd, .med, .history, .out]
  | .sealServiceStart .. =>
    [.now, .regs, .ctrs, .rge, .integ, .pith, .pins, .health, .cmd, .flw, .med, .pwr, .history, .out, .harvest]
  | .sealFold .. =>
    [.now, .draws, .regs, .ctrs, .cad, .rge, .integ, .health, .cmd, .brc, .med, .errs, .errCounts, .history, .out]
  | .writeBlocks .. | .nvmeWrite .. =>
    [.now, .regs, .ctrs, .rge, .integ, .pith, .pins, .health, .cmd, .brc, .flw, .med, .pwr, .errs, .errCounts, .history, .out,
     .harvest]
  | .exportRange .. =>
    [.now, .draws, .regs, .ctrs, .rge, .integ, .pins, .health, .cmd, .pwr, .errs, .errCounts, .history, .out]
  | .maintCompact .. =>
    [.now, .regs, .ctrs, .rge, .integ, .pith, .pins, .health, .cmd, .flw, .med, .pwr, .errs, .errCounts, .history, .out,
     .harvest]
  | .nandReadComplete .. =>
    [.now, .regs, .ctrs, .rge, .integ, .pith, .pins, .health, .cmd, .flw, .med, .errs, .errCounts, .history, .out, .harvest]
  | .nvmeDeleteIoSq .. | .nvmeCreateIoSq .. | .nvmeDeleteIoCq .. | .nvmeCreateIoCq .. | .nvmeAbort .. | .nvmeSetFeatures ..
  | .nvmeAsyncEventRequest .. | .nvmeFwImageDownload .. | .nvmeGetFeatures .. | .nvmeFlush .. =>
    [.now, .rge, .cmd, .errs, .errCounts, .out]
  | .nvmeGetLogPage .. =>
    [.now, .draws, .regs, .ctrs, .rge, .integ, .health, .cmd, .pwr, .errs, .errCounts, .history, .out]
  | .nvmeIdentify .. =>
    [.now, .regs, .ctrs, .rge, .integ, .health, .cmd, .errs, .errCounts, .history, .out]
  | .nvmeFirmwareCommit .. =>
    [.now, .regs, .ctrs, .rge, .integ, .pith, .cmd, .med, .errs, .errCounts, .history, .out]
  | .nvmeDatasetManagement .. =>
    [.now, .rge, .cmd, .zst, .med, .pwr, .errs, .errCounts, .out]
  | .clsSnapNow .. | .idxSnapNow .. | .zstSnapNow .. | .medSnapNow .. | .flwSnapNow .. | .dspSnapNow .. | .dmvSnapNow .. =>
    [.now, .regs, .ctrs, .snaps, .rge, .integ, .flw, .pwr, .mov, .history, .out]
  | .wakeComplete .. =>
    [.now, .regs, .ctrs, .snaps, .rge, .integ, .pins, .cmd, .flw, .med, .pwr, .mov, .history, .out]
  | .holdExpiry .. =>
    [.now, .cmd]
  | .retentionNoticeDue .. =>
    [.now, .regs, .ctrs, .rge, .integ, .cmd, .history, .out]
  | .zestCompressJob .. | .zestDecompressJob .. =>
    [.now, .regs, .ctrs, .rge, .integ, .cry, .zst, .pwr, .dxr, .dsp, .mov, .errs, .errCounts, .history, .out, .mem]
  | .cryptoInit .. | .cryptoUpdate .. | .cryptoFinal .. | .cryptoFree .. | .cryptoOneshot .. | .cryptoChainCheck ..
  | .cryptoRandom .. | .runExit .. | .dmCopy .. | .dmHostRead .. | .dmHostWrite .. | .dmRecordRead .. | .dmFill ..
  | .dmAbandon .. =>
    [.now, .regs, .ctrs, .rge, .integ, .cry, .zst, .dxr, .dsp, .mov, .errs, .errCounts, .history, .out, .mem]
  | .zestJobComplete .. | .hostReadTimeout .. | .hostReadCompletion .. =>
    [.now, .regs, .ctrs, .rge, .integ, .pins, .health, .cmd, .cry, .zst, .dxr, .dsp, .mov, .errs, .errCounts, .history, .out,
     .mem]
  | .dmDescriptorComplete .. | .cryptoJobComplete .. =>
    [.now, .draws, .regs, .ctrs, .rge, .integ, .pith, .pins, .health, .cmd, .cry, .zst, .dxr, .dsp, .mov, .errs, .errCounts,
     .history, .out, .mem]
  | .stoneDrain .. =>
    [.now, .regs, .ctrs, .rge, .integ, .pith, .pins, .health, .cmd, .zst, .flw, .med, .mov, .history, .out]
  | .recordDrainComplete .. =>
    [.now, .regs, .ctrs, .rge, .integ, .pith, .pins, .health, .cmd, .brc, .zst, .med, .history, .out]
  | .partialUnitTimeout .. =>
    [.now, .regs, .ctrs, .rge, .integ, .pith, .pins, .health, .cmd, .brc, .zst, .flw, .med, .history, .out]
  | .slcMove .. | .garbageCollection .. | .wearMove .. | .retentionRefresh .. | .ageRefresh .. | .nandEraseComplete ..
  | .nandProgramComplete .. | .nandOpTimeout .. =>
    [.now, .regs, .ctrs, .rge, .integ, .pith, .pins, .health, .cmd, .flw, .med, .history, .out, .harvest]
  | .injectionArm .. | .injectionDisarm .. =>
    [.now, .draws, .regs, .ctrs, .rge, .integ, .pith, .pins, .health, .cmd, .flw, .med, .history, .out, .harvest]
  | .mapCheckpoint .. =>
    [.now, .draws, .regs, .ctrs, .rge, .integ, .pith, .health, .cmd, .flw, .med, .history, .out]
  | .patrolPassEnd .. =>
    [.now, .regs, .ctrs, .rge, .integ, .pith, .pins, .health, .cmd, .med, .mov, .history, .out]
  | .maintTokenHandoff .. =>
    [.now, .med]
  | .channelRetrain .. | .windowClose .. | .eraseIssue .. =>
    [.now, .flw, .med, .out]
  | .windowDecision .. | .windowOpen .. =>
    [.now, .regs, .ctrs, .rge, .integ, .flw, .history, .out]
  | .protectedStretchEnd .. =>
    [.now, .flw, .out]
  | .sramScrub .. =>
    [.now, .draws, .regs, .ctrs, .rge, .integ, .pith, .pins, .health, .cmd, .history, .out]
  | .paramPut .. | .paramDelete .. =>
    [.now, .regs, .ctrs, .rge, .integ, .pith, .history, .out]
  | .pithEraseComplete .. | .pithProgramComplete .. | .journalProgram .. | .newEpoch .. =>
    [.now, .regs, .ctrs, .rge, .integ, .pith, .med, .history, .out]
  | .bypassOpen .. | .bypassWindowEnd .. =>
    [.now, .regs, .integ]
  | .healthSave .. =>
    [.now, .regs, .ctrs, .rge, .integ, .pith, .health, .pwr, .history, .out]
  | .fabricTimeout .. | .heartbeatMiss .. | .bundleIssue .. | .repPass .. =>
    [.now, .draws, .regs, .ctrs, .rge, .integ, .pith, .pins, .health, .cmd, .cry, .brc, .zst, .med, .dxr, .dsp, .mov, .errs,
     .errCounts, .history, .out, .mem]
  | .powerWarning .. =>
    [.now, .regs, .ctrs, .snaps, .rge, .integ, .pins, .cmd, .brc, .flw, .med, .pwr, .mov, .history, .out]
  | .braceFlushComplete .. =>
    [.now, .draws, .regs, .ctrs, .snaps, .rge, .integ, .pith, .life, .dbg, .boot, .pins, .health, .cmd, .cry, .brc, .zst, .flw,
     .med, .pwr, .dxr, .dsp, .mov, .errs, .errCounts, .history, .out, .inReset, .level, .mem]
  | .exitWaitRestart .. =>
    [.now, .regs, .ctrs, .rge, .integ, .brc, .history, .out]
  | .braceExit .. =>
    [.now, .regs, .ctrs, .rge, .integ, .pith, .pins, .cmd, .brc, .flw, .med, .pwr, .history, .out]
  | .gcmHoldGrant .. =>
    [.now, .cry]
  | .tamperAlarm .. =>
    [.now, .regs, .ctrs, .rge, .integ, .life, .cmd, .cry, .zst, .dxr, .dsp, .mov, .errs, .errCounts, .history, .out, .mem]
  | .keyRederive .. | .rngRecovered .. =>
    [.now, .draws, .regs, .ctrs, .rge, .integ, .pith, .life, .dbg, .cmd, .cry, .med, .pwr, .dxr, .dsp, .history, .out, .vault,
     .lstate, .drkCut, .level]
  | .rngHealthFail .. =>
    [.now, .regs, .ctrs, .rge, .integ, .cry, .history, .out]
  | .drbgReseed .. =>
    [.now, .draws]
  | .exportKeySet .. | .exportKeyClear .. =>
    [.now, .regs, .cry]
  | .cryCtrlWrite .. | .dspfHwWrite .. =>
    [.now, .regs]
  | .spdmGetVersion .. | .spdmGetCapabilities .. | .spdmNegotiateAlgorithms .. | .spdmGetDigests .. | .spdmGetCertificate .. =>
    [.now, .cry, .out]
  | .spdmChallenge .. | .spdmGetMeasurements .. =>
    [.now, .draws, .cry, .out]
  | .budgetException .. | .eventException .. =>
    [.now, .draws, .regs, .ctrs, .rge, .integ, .cry, .zst, .dxr, .dsp, .mov, .errs, .errCounts, .history, .out, .mem]
  | .coreClockGate .. =>
    [.now, .dxr]
  | .getDeliver .. =>
    [.now, .draws, .regs, .ctrs, .rge, .integ, .dxr, .dsp, .history, .out, .mem]
  | .dispatcherPost .. =>
    [.now, .draws, .dxr, .dsp]
  | .dispatcherDone .. =>
    [.now, .regs, .dxr, .dsp]
  | .delayRelease .. =>
    [.now, .pwr, .dsp]
  | .runStart .. =>
    [.now, .regs, .ctrs, .rge, .integ, .dxr, .dsp, .history, .out, .mem]
  | .dramZeroFill .. | .ratWindowClear .. =>
    [.now, .mov]
  | .dramZqCalibration .. | .dramRecentre .. =>
    [.now, .med, .mov, .out]
  | .dramRefresh .. =>
    [.now, .mov, .out]
  | .dramRfm .. | .neighbourRefresh .. =>
    [.now, .regs, .ctrs, .rge, .integ, .mov, .history, .out]
  | .dmResume .. =>
    [.now, .dxr, .mov]
  | .drmSnapNow .. =>
    [.now, .draws, .regs, .ctrs, .snaps, .rge, .integ, .flw, .pwr, .mov, .history, .out]
  | .pthKeyWrite .. | .pithUnlockTimeout .. | .eraseSuspend .. | .eraseResume .. | .blankCheck .. | .paramGet .. =>
    [.now, .regs, .pith]
  | .pageProgram .. | .sectorErase .. =>
    [.now, .regs, .pith, .med]
  | .governorDecision .. | .vregSettled .. | .throttleStep .. | .thermalShedBegin .. | .thermalShedEnd .. =>
    [.now, .regs, .ctrs, .rge, .integ, .cmd, .pwr, .history, .out]
  | .vregSettleTimeout .. =>
    [.now, .regs, .ctrs, .rge, .integ, .pwr, .history, .out]
  | .segmentSleepEntry .. =>
    [.now, .regs, .ctrs, .rge, .integ, .pins, .cmd, .med, .pwr, .history, .out]
  | .rindSleepEntry .. | .domainWake .. =>
    [.now, .pwr]
  | .tempSample .. =>
    [.now, .regs, .ctrs, .rge, .integ, .pins, .health, .cmd, .pwr, .history, .out]
  | .pwmSnapNow .. =>
    [.now, .regs, .ctrs, .snaps, .rge, .integ, .pwr, .history, .out]
  | .lcsPrepare .. | .lcsProvision .. | .lcsSeal .. | .lcsVaultEnter .. | .lcsReturn .. | .lcsScrap .. | .lcsChallenge .. =>
    [.now, .draws, .regs, .ctrs, .rge, .integ, .pith, .life, .dbg, .cmd, .med, .pwr, .dxr, .dsp, .history, .out, .vault,
     .lstate, .drkCut, .level]
  | .lcsSnapNow .. =>
    [.now, .snaps, .life]
  | .jtagSamplePreload .. | .jtagIdcode .. | .jtagBypass .. | .dbgStatus .. | .dbgGrant .. =>
    [.now, .dbg, .out]
  | .dbgChal .. =>
    [.now, .draws, .life, .dbg, .out]
  | .dbgOpen .. =>
    [.now, .regs, .ctrs, .rge, .integ, .life, .dbg, .cmd, .med, .pwr, .dxr, .dsp, .history, .out, .level]
  | .dbgClose .. | .tapReset .. =>
    [.now, .regs, .ctrs, .rge, .integ, .dbg, .cmd, .med, .pwr, .dxr, .dsp, .history, .out, .level]
  | .dapRead .. =>
    [.now, .regs, .ctrs, .snaps, .rge, .integ, .dbg, .pins, .cmd, .flw, .med, .pwr, .mov, .history, .out]
  | .dapWrite .. =>
    [.now, .draws, .regs, .ctrs, .snaps, .cad, .rge, .integ, .pith, .life, .dbg, .pins, .health, .cmd, .cry, .brc, .zst, .flw,
     .med, .pwr, .dxr, .dsp, .mov, .errs, .errCounts, .history, .out, .vault, .lstate, .drkCut, .level, .harvest, .mem]
  | .dapHalt .. | .dapResume .. =>
    [.now, .regs, .ctrs, .snaps, .rge, .integ, .dbg, .pins, .cmd, .flw, .med, .pwr, .dxr, .dsp, .mov, .history, .out]
  | .dapSingleStep .. =>
    [.now, .draws, .regs, .ctrs, .snaps, .rge, .integ, .pith, .dbg, .pins, .health, .cmd, .cry, .brc, .zst, .flw, .med, .pwr,
     .dxr, .dsp, .mov, .errs, .errCounts, .history, .out, .mem]
  | .dapSetSstep .. | .dapClearSstep .. =>
    [.now, .regs, .ctrs, .snaps, .rge, .integ, .dbg, .pins, .cmd, .flw, .med, .pwr, .dxr, .mov, .history, .out]
  | .smbCrit .. | .smbAlertResponse .. =>
    [.now, .pins, .out]
  | .blockLock .. | .registerWrite .. =>
    [.now, .draws, .regs, .ctrs, .snaps, .cad, .rge, .integ, .pith, .life, .dbg, .pins, .health, .cmd, .cry, .zst, .flw, .med,
     .pwr, .dxr, .dsp, .mov, .history, .out, .vault, .lstate, .drkCut, .level, .harvest, .mem]
  | .powerLoss .. =>
    [.now, .draws, .regs, .loaded, .ctrs, .snaps, .cad, .rge, .integ, .pith, .life, .dbg, .boot, .pins, .health, .cmd, .cry,
     .brc, .zst, .flw, .med, .pwr, .dxr, .dsp, .mov, .errs, .errCounts, .history, .powered, .inReset, .testMode, .floor,
     .vault, .lstate, .drkCut, .level, .mem]
  | .resetNRelease .. =>
    [.now, .draws, .regs, .loaded, .ctrs, .cad, .rge, .integ, .pith, .life, .boot, .pins, .health, .cmd, .cry, .brc, .flw,
     .med, .pwr, .dxr, .dsp, .mov, .history, .out, .inReset, .testMode, .vault, .lstate, .harvest]
  | .perstRelease .. =>
    [.now, .boot, .pins]
  | .linkStateChange .. =>
    [.now, .regs, .ctrs, .rge, .integ, .pins, .pwr, .history, .out]
  | .exitWaitStart .. =>
    [.now, .brc]
  | .vppPithRangeChange .. =>
    [.now, .draws, .regs, .ctrs, .rge, .integ, .pith, .life, .dbg, .pins, .cmd, .med, .pwr, .dxr, .dsp, .history, .out, .vault,
     .lstate, .drkCut, .level]

/-- The instant that a command carries. -/
def timeOf (c : Instr) : Nat := match c with
  | .powerOn t .. | .resetNAssert t .. | .bootWatchdog t .. | .perstAssert t .. | .linkReset t .. | .configReady t ..
  | .configRequest t .. | .replayComplete t .. | .cadInEdge t .. | .unitFrameBoundary t .. | .lateWindowExpiry t ..
  | .edgesAbsent t .. | .holdoverLimit t .. | .cadOutPulseEnd t .. | .frameExhausted t .. | .cadenceRecordDue t ..
  | .ppsCapture t .. | .odoPulse t .. | .incidentEdge t .. | .fenceEnd t .. | .cadSnapNow t .. | .functionEnable t ..
  | .functionDisable t .. | .quotaWrite t .. | .ringCreate t .. | .ringDelete t .. | .ringDeleteDone t .. | .ringQuery t ..
  | .doorbellBaseWrite t .. | .pipSubmissionTail t .. | .pipCompletionHead t .. | .sweep t .. | .descriptorFetch t ..
  | .ringStoppedNotice t .. | .noticeWriteHeld t .. | .coalesceTimer t .. | .functionLevelReset t .. | .sriovVfChange t ..
  | .functionResetDone t .. | .fnSnapNow t .. | .identify t .. | .nsCreate t .. | .nsDelete t .. | .streamCreate t ..
  | .streamDelete t .. | .streamQuery t .. | .getLog t .. | .abortCmd t .. | .fenceRelease t .. | .progLoad t ..
  | .progUnload t .. | .fwDownload t .. | .fwCommitWrite t .. | .fwCommitActivate t .. | .depotBegin t .. | .depotStop t ..
  | .depotWindowEnd t .. | .diagRead t .. | .sealRec t .. | .sealServiceStart t .. | .sealFold t .. | .recallTime t ..
  | .recallRecord t .. | .recallRange t .. | .writeBlocks t .. | .readBlocks t .. | .deallocate t .. | .lockRange t ..
  | .releaseRange t .. | .exportRange t .. | .progRun t .. | .maintPatrol t .. | .maintCompact t .. | .maintVerify t ..
  | .nvmeDeleteIoSq t .. | .nvmeCreateIoSq t .. | .nvmeGetLogPage t .. | .nvmeDeleteIoCq t .. | .nvmeCreateIoCq t ..
  | .nvmeIdentify t .. | .nvmeAbort t .. | .nvmeSetFeatures t .. | .nvmeGetFeatures t .. | .nvmeAsyncEventRequest t ..
  | .nvmeFirmwareCommit t .. | .nvmeFwImageDownload t .. | .nvmeFlush t .. | .nvmeWrite t .. | .nvmeRead t ..
  | .nvmeDatasetManagement t .. | .classSFetchStall t .. | .clsSnapNow t .. | .holdExpiry t .. | .retentionNoticeDue t ..
  | .idxSnapNow t .. | .zestCompressJob t .. | .zestDecompressJob t .. | .zestJobComplete t .. | .zstSnapNow t ..
  | .stoneDrain t .. | .recordDrainComplete t .. | .partialUnitTimeout t .. | .slcMove t .. | .mapCheckpoint t ..
  | .garbageCollection t .. | .wearMove t .. | .patrolPassEnd t .. | .retentionRefresh t .. | .ageRefresh t ..
  | .maintTokenHandoff t .. | .medSnapNow t .. | .channelRetrain t .. | .windowDecision t .. | .windowClose t ..
  | .protectedStretchEnd t .. | .eraseIssue t .. | .nandEraseComplete t .. | .nandProgramComplete t .. | .nandReadComplete t ..
  | .nandOpTimeout t .. | .flwSnapNow t .. | .detectorHoldoffEnd t .. | .injectionArm t .. | .injectionDisarm t ..
  | .bypassOpen t .. | .bypassWindowEnd t .. | .intSnapNow t .. | .sramScrub t .. | .healthSave t .. | .fabricTimeout t ..
  | .heartbeatMiss t .. | .hostReadTimeout t .. | .powerWarning t .. | .braceFlushComplete t .. | .exitWaitRestart t ..
  | .braceExit t .. | .brcSnapNow t .. | .cryptoInit t .. | .cryptoUpdate t .. | .cryptoFinal t .. | .cryptoFree t ..
  | .cryptoOneshot t .. | .cryptoChainCheck t .. | .cryptoRandom t .. | .gcmHoldGrant t .. | .cryptoJobComplete t ..
  | .tamperAlarm t .. | .keyRederive t .. | .rngHealthFail t .. | .rngRecovered t .. | .drbgReseed t .. | .exportKeySet t ..
  | .exportKeyClear t .. | .cryCtrlWrite t .. | .crySnapNow t .. | .spdmGetVersion t .. | .spdmGetCapabilities t ..
  | .spdmNegotiateAlgorithms t .. | .spdmGetDigests t .. | .spdmGetCertificate t .. | .spdmChallenge t ..
  | .spdmGetMeasurements t .. | .bundleIssue t .. | .repPass t .. | .budgetException t .. | .eventException t ..
  | .coreClockGate t .. | .getDeliver t .. | .dispatcherPost t .. | .dispatcherDone t .. | .runExit t .. | .delayRelease t ..
  | .runStart t .. | .dspfHwWrite t .. | .dspSnapNow t .. | .dramZeroFill t .. | .dramZqCalibration t .. | .dramRecentre t ..
  | .dramRefresh t .. | .dramRfm t .. | .neighbourRefresh t .. | .ratWindowClear t .. | .dmCopy t .. | .dmHostRead t ..
  | .dmHostWrite t .. | .dmRecordRead t .. | .dmFill t .. | .dmDescriptorComplete t .. | .dmResume t .. | .dmAbandon t ..
  | .drmSnapNow t .. | .dmvSnapNow t .. | .pthKeyWrite t .. | .pithUnlockTimeout t .. | .pageProgram t .. | .sectorErase t ..
  | .eraseSuspend t .. | .eraseResume t .. | .blankCheck t .. | .paramPut t .. | .paramDelete t .. | .paramGet t ..
  | .pithEraseComplete t .. | .pithProgramComplete t .. | .journalProgram t .. | .newEpoch t .. | .pthSnapNow t ..
  | .governorDecision t .. | .vregSettled t .. | .vregSettleTimeout t .. | .segmentSleepEntry t .. | .rindSleepEntry t ..
  | .domainWake t .. | .wakeComplete t .. | .tempSample t .. | .throttleStep t .. | .thermalShedBegin t ..
  | .thermalShedEnd t .. | .pwmSnapNow t .. | .lcsPrepare t .. | .lcsProvision t .. | .lcsSeal t .. | .lcsVaultEnter t ..
  | .lcsReturn t .. | .lcsScrap t .. | .lcsChallenge t .. | .lcsSnapNow t .. | .jtagExtest t .. | .jtagSamplePreload t ..
  | .jtagIdcode t .. | .jtagBypass t .. | .dbgStatus t .. | .dbgChal t .. | .dbgGrant t .. | .dbgOpen t .. | .dbgClose t ..
  | .tapReset t .. | .dapRead t .. | .dapWrite t .. | .dapHalt t .. | .dapResume t .. | .dapSingleStep t .. | .dapSetSstep t ..
  | .dapClearSstep t .. | .smbStatusByte t .. | .smbModes t .. | .smbCrit t .. | .smbSensorTemp t .. | .smbTempNow t ..
  | .smbHealthBlock t .. | .smbBraceSummary t .. | .smbSerial t .. | .smbAlertResponse t .. | .smbClockTimeout t ..
  | .blockLock t .. | .registerWrite t .. | .powerLoss t .. | .resetNRelease t .. | .perstRelease t .. | .linkStateChange t ..
  | .hostReadCompletion t .. | .flitCrcError t .. | .exitWaitStart t .. | .windowOpen t .. | .vppPithRangeChange t ..
  | .monitorOscillatorCheck t .. => t

/-- What every step keeps: the memories' canonical form; no debug session at Full while VAULT is active (R749, R750); none at all in
SCRAPPED, in reset, without power or in test mode (R745, R750, R751); VAULT only in PROVISIONED and SEALED (R734, R743). -/
structure Safe (s : State) : Prop where
  mem : Memory.wf s.dxr.mem = true
  vaultLevel : s.life.vault = true → s.dbg.level ≠ .full
  scrapLevel : s.life.lstate = .scrapped → s.dbg.level = .closed
  resetLevel : s.boot.inReset = true → s.dbg.level = .closed
  offLevel : s.boot.powered = false → s.dbg.level = .closed
  testLevel : s.boot.testMode = true → s.dbg.level = .closed
  vaultState : s.life.vault = true → s.life.lstate = .provisioned ∨ s.life.lstate = .sealed

/-- What only grows from `s` to `t`: the burnt fuse stays burnt (R744), the rollback floor never falls (R767), and Harvest never
ends (R320). -/
structure Grows (s t : State) : Prop where
  drkCut : s.life.drkCut = true → t.life.drkCut = true
  floor : s.boot.floor ≤ t.boot.floor
  harvest : s.med.harvest = true → t.med.harvest = true

end Sys2Proof.Machine
end

