-- ==== Sys2Proof/Certificates/Slice0/Obligations.lean ====
section
/-! DEFINITION. The statements about the machine, for the provers: first those about every step, then those about the commands, chapter by
chapter of the manual, and last the rules stated as a whole. `Completes c s P` says that the command answers a next state of which `P` holds. -/

open Sys2Proof Sys2Proof.Machine

/-- A step takes the command at the front of the queue and runs it on the state with the queue's rest; with no command waiting, the block
idles and keeps its state (log 60). -/
def Obligations.StepTakesTheFront : Prop :=
  (∀ (c : Instr) (q : List Instr) (s : State), step { s with pending := c :: q } = exec c { s with pending := q })
  ∧ ∀ s : State, s.pending = [] → step s = .next s

/-- The state after reset (R13, R58, R731, R747, R825; the values that the manual leaves open are the model's choice, logs 2 to 6, 20, 21 and 50):
it is safe, no command waits, no function but function 0 has an entry, memories list nothing, and the registers read as the register map says. -/
def Obligations.StateAfterReset : Prop :=
  Safe State.reset ∧ State.reset.pending = [] ∧ State.reset.dxr.mem = [] ∧ State.reset.life.lstate = .blank ∧ State.reset.dbg.level = .closed
  ∧ State.reset.cad.frame = 0 ∧ State.reset.boot.inReset = true ∧ State.reset.brc.active = false ∧ State.reset.cad.fences = []
  ∧ (∀ a v, (a, v) ∈ [(Reg.cadDefPeriod, 40000000), (Reg.cadTol, 1000), (Reg.cadHold, 1500), (Reg.pthCtrl, 0), (Reg.lcsCtrl, 0),
      (Reg.pwmCtrl, 0), (Reg.dspCtrl, 0), (Reg.medCtrl, 0)] → (word State.reset a).toNat = v)

/-- Every command of the table completes in every state (the model's reading of each row; no stop anywhere): the queue is left as it was,
and the time of the newest command becomes the command's own instant unless it is earlier (log 2). -/
def Obligations.EveryCommandCompletes : Prop := ∀ (c : Instr) (s : State), Completes c s fun u => u.pending = s.pending ∧ u.now = max s.now (timeOf c)

/-- The frame of every command: a next state differs from the one before only in the parts that `changes` lists for the command, and in
the debug level, the lifecycle state, VAULT, the fuse, the rollback floor, Harvest, the pins of power and reset and the memories' bytes only where
it lists these by name. -/
def Obligations.Frames : Prop := ∀ (c : Instr) (s u : State), exec c s = .next u → Only (changes c) s u

/-- Every step keeps `Safe` (R734, R743, R745, R747, R749 to R751): from any safe state, whatever commands wait, the next state is safe. -/
def Obligations.StepsKeepSafe : Prop := ∀ s u : State, Safe s → step s = .next u → Safe u

/-- What only grows, in every step from a safe state (R320, R744, R767): the fuse of the Device Root Key stays cut, the rollback floor never falls, and
Harvest never ends. -/
def Obligations.StepsGrow : Prop := ∀ s u : State, Safe s → step s = .next u → Grows s u

/-- Outside LOCKED a boundary comes when P has elapsed (R16); in LOCKED an edge from P/2 after the last boundary to P + W is one
(R18, R19); with no edge by then a boundary comes just after P + W and the unit leaves LOCKED, for MASTER where that mode was chosen
(R21, R33). Each adds 1 to FRAME (R12). At the last FRAME the boundary at its end leaves the count as it is (R31). -/
def Obligations.FrameBoundaries : Prop := ∀ (t : Nat) (s : State),
  (s.cad.st ≠ .locked → s.cad.period ≤ max s.now t - s.cad.frameStart → s.cad.frame < 0xFFFFFFFFFF →
    ∀ finds, Completes (.unitFrameBoundary t finds) s fun u =>
      u.cad.frame = s.cad.frame + 1 ∧ u.cad.frameStart = s.cad.frameStart + s.cad.period)
  ∧ (s.cad.frame = 0xFFFFFFFFFF → s.cad.exhausted = false →
    (if s.cad.st = .locked then s.cad.period + lateW (tick t s) < max s.now t - s.cad.frameStart
      else s.cad.period ≤ max s.now t - s.cad.frameStart) →
    Completes (.frameExhausted t) s fun u => u.cad.exhausted = true ∧ u.cad.frame = s.cad.frame)
  ∧ (s.cad.mode ≠ .master → s.integ.armed = false → s.cad.st = .locked → s.cad.frame < 0xFFFFFFFFFF →
    s.cad.period ≤ 2 * (max s.now t - s.cad.frameStart) →
    max s.now t - s.cad.frameStart ≤ s.cad.period + lateW (tick t s) →
    ∀ finds, Completes (.cadInEdge t finds) s fun u => u.cad.frame = s.cad.frame + 1 ∧ u.cad.frameStart = max s.now t)
  ∧ (s.cad.mode ≠ .master → s.cad.st = .locked → s.cad.frame < 0xFFFFFFFFFF →
    s.cad.period + lateW (tick t s) < max s.now t - s.cad.frameStart →
    ∀ finds, Completes (.lateWindowExpiry t finds) s fun u => u.cad.frame = s.cad.frame + 1 ∧
      u.cad.frameStart = s.cad.frameStart + s.cad.period + lateW (tick t s) + 1 ∧
      if u.cad.mode = .master then u.cad.st = .master else u.cad.st = .holdover ∨ u.cad.st = .free)

/-- What the lock state does without edges: past its limit the quality of HOLDOVER becomes FREE (R23); an ACQUIRE whose edges stop
goes back to the HOLDOVER it came from while that has frames left, and otherwise to FREE (R23, R830). -/
def Obligations.CadenceWithoutEdges : Prop := ∀ (t : Nat) (s : State),
  (s.cad.st = .holdover → s.cad.qual ≠ .free → (word s Reg.cadHold).toNat ≤ s.cad.holdFrames →
    Completes (.holdoverLimit t) s fun u => u.cad.qual = .free)
  ∧ (s.cad.st = .acquire → present s.cad (max s.now t) = false →
    Completes (.edgesAbsent t) s fun u =>
      if s.cad.acqHold = true ∧ s.cad.holdFrames < (word s Reg.cadHold).toNat then u.cad.st = .holdover ∧ u.cad.qual = .holdover
      else u.cad.st = .free ∧ u.cad.qual = .free)

/-- The Cadence Unit's inputs, outputs and records: the end of a CAD_OUT pulse (R34); the cadence record at every 32,768th FRAME
(R28); a PPS capture (R37); an ODO pulse wide enough (R40); an incident edge's fence (R43 to R45), a fence's end (R44), and the copies
of CAD_SNAP (R54). -/
def Obligations.CadenceInputs : Prop := ∀ (t : Nat) (s : State),
  (s.cad.cadOut = true → outHigh s ≤ max s.now t - s.cad.cadOutRise →
    Completes (.cadOutPulseEnd t) s fun u => u.cad.cadOut = false ∧ u.out = .cadOut false :: s.out)
  ∧ (s.cad.frame % 32768 = 0 →
    Completes (.cadenceRecordDue t) s fun u => ∃ e ∈ u.pith.jq, e.etype = 4 ∧ e.body = cadRecord s false)
  ∧ (flagOf s Reg.cadCtrl 7 = true → s.integ.armed = false → (∀ l, s.cad.ppsLast = some l → 500000000 ≤ max s.now t - l) →
    Completes (.ppsCapture t) s fun u => u.cad.ppsLast = some (max s.now t) ∧
      (tget u.cad.ppsIndex u.cad.pps).map (·.time) = some (evTime (tick t s)))
  ∧ (∀ high, flagOf s Reg.cadCtrl 6 = true → fieldOf s Reg.cadFilt 9 0 * 100 ≤ high →
    Completes (.odoPulse t high) s fun u => u.cad.odoFrame = s.cad.odoFrame + 1)
  ∧ (∀ n low, n < 2 → nbit (fieldOf s Reg.cadCtrl 10 9) n = true → s.integ.armed = false → fieldOf s Reg.cadFilt 23 16 * 100 ≤ low →
    (n = 0 → s.cad.inc0At ≠ some (max s.now t)) → (n = 1 → edge0Waits (tick t s) = none) →
    Completes (.incidentEdge t n low) s fun u => ∃ k x, tget k u.cad.fences = some x ∧ k ≤ 16 ∧ x.edge = evTime (tick t s) ∧
      x.ended = false ∧ x.stop = fenceStop (tick t s) n)
  ∧ (∀ slot x, tget slot s.cad.fences = some x → x.ended = false → x.stop ≠ 0xFFFFFFFFFFFFFFFF → x.stop / 2 ^ 24 ≤ s.cad.frame →
    Completes (.fenceEnd t slot) s fun u => tget slot u.cad.fences = some { x with ended := true })
  ∧ Completes (.cadSnapNow t) s fun u => u.cad.snapTime = evTime (tick t s) ∧
      u.snaps = (snapAll [Reg.cadOdoTotalLo, Reg.cadGlitch] s).snaps

/-- The function table: a write of 1 to CTL.ENABLE with quotas that fit makes the function ready (R59); a write of 0 to a ready
function's resets it toward absent (R63); a quota of a function whose STATE is neither ready nor resetting takes a value in its range
(R60, R62); nothing is taken while the table is shut (R64). -/
def Obligations.FunctionTable : Prop := ∀ (t f : Nat) (s : State), fnTableShut s f = false →
  (∀ ctl, reserves (funcOf (ctlRest f ctl (tick t s)) f) = false →
    quotaError (ctlRest f ctl (tick t s)) (funcOf (ctlRest f ctl (tick t s)) f) = 0 →
    Completes (.functionEnable t f ctl) s fun u => (funcOf u f).st = .ready ∧ (funcOf u f).enable = true ∧ (funcOf u f).err = 0)
  ∧ (∀ ctl, f ≠ 0 → (funcOf s f).st = .ready →
    Completes (.functionDisable t f ctl) s fun u => (funcOf u f).st = .resetting ∧ (funcOf u f).disabling = true)
  ∧ (∀ q v, f ≠ 0 → reserves (funcOf s f) = false → (quotaRange q).1 ≤ v → v ≤ (quotaRange q).2 →
    exec (.quotaWrite t f q v) s = .next (onFunc f (putQuota q v) (tick t s)))

/-- Reset of a function (R99, R63): a Function Level Reset takes a ready function to resetting; a change of SR-IOV sets VF Enable and
NumVFs; when its in-flight work has ended the function is ready again, or absent if it was disabled, with no ring left. -/
def Obligations.FunctionReset : Prop := ∀ (t f : Nat) (s : State),
  (f ≠ 0 → (funcOf s f).st = .ready → Completes (.functionLevelReset t f) s fun u => (funcOf u f).st = .resetting)
  ∧ (∀ ve num, rescue s = false → s.boot.plain = false →
    Completes (.sriovVfChange t ve num) s fun u => u.rge.vfEnable = ve ∧ u.rge.numVfs = num)
  ∧ ((funcOf s f).st = .resetting → (funcOf s f).slots ≠ 0 → flightsOf s f = [] →
    Completes (.functionResetDone t f) s fun u =>
      (funcOf u f).st = (if (funcOf s f).disabling then .absent else .ready) ∧ ∀ k r, ringOf u k = some r → r.fn ≠ f)
  ∧ (s.boot.plain = false → exec (.fnSnapNow t f) s =
      .next (snapAll [Reg.fnPipOkLo f, Reg.fnPipDupLo f, Reg.fnSweepFoundLo f, Reg.fnPipBad f, Reg.fnNoticeDrop f] (tick t s)))

/-- Ring commands in their good form (R67 to R71): a create that meets no condition of R67 makes the staged ring with a device-wide
number of its own, a delete frees the ring at once or when its last command has posted, a query loads the staging registers, or ends with
code 11 for a stopped ring (R835), and the doorbell page is set. -/
def Obligations.RingCommands : Prop := ∀ (t f i : Nat) (s : State), ringBusy s f = false →
  (createCode s f i (stagedRing s f i) = 0 →
    Completes (.ringCreate t f i) s fun u =>
      ringOf u (ringKey f ((stagedRing s f i).kind == .sub) i) =
        some { stagedRing s f i with global := freeGlobal s ((stagedRing s f i).kind == .sub) }
      ∧ (funcOf u f).resCode = 0 ∧ (funcOf u f).resGlobal = freeGlobal s ((stagedRing s f i).kind == .sub))
  ∧ (∀ sub r, i < poolQuota s f sub → ringOf s (ringKey f sub i) = some r → (sub = false → namedBySub s f i = false) →
      ringsShut s f = false → ringFlights s f i = 0 →
    Completes (.ringDelete t f sub i) s fun u => u.rge.rings = tdel (ringKey f sub i) s.rge.rings)
  ∧ (∀ sub r, i < poolQuota s f sub → ringOf s (ringKey f sub i) = some r → ringsShut s f = false →
    exec (.ringQuery t f sub i) s =
      .next (if r.stopped then ringResult f 11 0 (tick t s) else ringResult f 0 r.global (loadStaging f r (tick t s))))
  ∧ (∀ hi v be, s.boot.plain = false → hasRing s f = false → fnReady s f = true →
    Completes (.doorbellBaseWrite t f hi v be) s fun u => (funcOf u f).dbSet = true ∧
      u.regs = (writeCommon (if hi then Reg.fnDbHi f else Reg.fnDbLo f) v be (tick t s)).regs)

/-- The end of a delete that waited for commands in flight (R69). -/
def Obligations.RingDeleteEnds : Prop := ∀ (t f i : Nat) (s : State),
  (funcOf s f).deleting = some i → ringFlights s f i = 0 →
    Completes (.ringDeleteDone t f) s fun u => u.rge.rings = tdel (ringKey f true i) s.rge.rings

/-- Pips and the sweep (R76, R77, R79): a good Pip moves the known tail of a SUB ring, or the known head of a CMP or EVT ring, to its
POS, and the sweep does the same with the doorbell values it reads. -/
def Obligations.PipsAndSweep : Prop := ∀ (t f k : Nat) (w : Word) (r : Ring) (s : State),
  fnReady s f = true → s.boot.plain = false → r.stopped = false →
  ((f ≠ 0 ∨ s.integ.armed = false) → bits w 13 12 = 0 → k = ringKey f true (bits w 11 0) → bits w 15 14 = 0 → ringOf s k = some r → r.kind = .sub →
    bits w 31 16 < r.depth → tailMoves r (bits w 31 16) = true →
    Completes (.pipSubmissionTail t f w 15) s fun u => (ringOf u k).map (·.known) = some (bits w 31 16))
  ∧ ((f ≠ 0 ∨ s.integ.armed = false) → bits w 13 12 = 0 → k = ringKey f false (bits w 11 0) → bits w 15 14 = 1 → ringOf s k = some r →
    (r.kind = .cmp ∨ r.kind = .evt) → bits w 31 16 < r.depth → headOk r (bits w 31 16) = true →
    Completes (.pipCompletionHead t f w 15) s fun u => (ringOf u k).map (·.known) = some (bits w 31 16))
  ∧ (∀ d : DoorbellRead, d.f = f → k = ringKey f d.sub d.idx → ringOf s k = some r → (funcOf s f).dbSet = true → s.pwr.rindSleep < 2 →
    50000 ≤ max s.now t - s.rge.lastSweep → r.kind ≠ .tag → d.value % 65536 < r.depth →
    (if d.sub then tailMoves r (d.value % 65536) else headOk r (d.value % 65536)) = true →
    Completes (.sweep t [d]) s fun u => (ringOf u k).map (·.known) = some (d.value % 65536) ∧ u.rge.lastSweep = max s.now t)

/-- Power and the reset ball (R453, R760, R761, R763): at power good with RESET_N high, and at the release of RESET_N after a reset
that took effect, the part leaves reset with its straps sampled; with RESET_N low it waits in reset. RESET_N asserted, and the boot
watchdog, enter BRACE whose flush holds the reset off, or reset at once where no flush runs. When power goes, everything volatile is
gone and the rollback floor stays. -/
def Obligations.PowerAndReset : Prop := ∀ (t : Nat) (s : State),
  (∀ perstN env, s.boot.powered = false →
    Completes (.powerOn t true perstN env) s fun u =>
      u.boot.powered = true ∧ u.boot.inReset = false ∧ u.boot.testMode = env.testMode)
  ∧ (∀ perstN env, s.boot.powered = false →
    Completes (.powerOn t false perstN env) s fun u => u.boot.powered = true ∧ u.boot.inReset = true ∧ u.boot.perstN = perstN)
  ∧ (∀ env, s.boot.powered = true → s.boot.inReset = true → s.dbg.extest = false →
    Completes (.resetNRelease t env) s fun u => u.boot.inReset = false ∧ u.boot.testMode = env.testMode)
  ∧ (s.boot.inReset = false → s.boot.testMode = false → s.brc.flushing = false →
    Completes (.resetNAssert t) s fun u =>
      u.boot.resetPending = true ∧ u.brc.flushing = true ∨ u.boot.inReset = true ∧ u.med.stone = [])
  ∧ (s.boot.powered = true → s.boot.inReset = false → s.boot.testMode = false → s.boot.service = false →
    20000000000 ≤ max s.now t - s.boot.ref →
    Completes (.bootWatchdog t) s fun u =>
      u.boot.resetPending = true ∧ u.brc.flushing = true ∨ u.boot.inReset = true ∧ u.med.stone = [])
  ∧ (∀ units torn copies, s.boot.powered = true →
    Completes (.powerLoss t units torn copies) s fun u =>
      u.boot = { floor := s.boot.floor } ∧ u.rge = {} ∧ u.regs = [] ∧ u.med.stone = [] ∧ u.dbg.level = .closed)

/-- The Host Link (R99, R760, R775): PERST_N asserted, a hot reset and a link down reset every function and the link; at the release
of PERST_N the link trains once boot step 2 is done; boot step 8 makes configuration ready; a configuration request is answered with
Request Retry Status before it and normally afterwards. -/
def Obligations.HostLink : Prop := ∀ (t : Nat) (s : State),
  ((funcOf s 0).st = .ready → Completes (.perstAssert t) s fun u =>
      u.boot.perstN = false ∧ u.pins.link = .down ∧ u.rge.vfEnable = false ∧ (funcOf u 0).st = .resetting)
  ∧ (∀ hot, (funcOf s 0).st = .ready → Completes (.linkReset t hot) s fun u =>
      u.pins.link = (if hot then .training else .down) ∧ u.rge.vfEnable = false ∧ (funcOf u 0).st = .resetting)
  ∧ (2 ≤ s.boot.step → s.pins.link = .down → Completes (.perstRelease t) s fun u => u.boot.perstN = true ∧ u.pins.link = .training)
  ∧ (s.boot.step = 7 → s.boot.perstN = true → s.boot.inReset = false →
    exec (.configReady t) s = .next (onBoot (fun b => { b with step := 8, cfgReady := true }) (tick t s)))
  ∧ (s.boot.perstN = true → exec (.configRequest t) s = .next (emit (.config (!s.boot.cfgReady)) (tick t s)))

/-- Namespaces (R107, R108): a create with room takes the NSID asked for, or the lowest free one, and answers it; a delete of a
namespace that nothing names removes it. Each posts its completion. -/
def Obligations.Namespaces : Prop := ∀ (t id : Nat) (c : Flight) (s : State),
  (∀ n, InService 0x02 id c s → n = (if c.nsid = 0 then (tfree 1 1024 s.cmd.nss).getD 0 else c.nsid) → n ≠ 0 → c.nsid ≤ 1024 →
    (c.nsid ≠ 0 → nsOf s c.nsid = none) → gateOpen s 0 2 = true → rngReady s = true → s.pins.vppOk = true →
    dfld c 32 8 * (if dfld c 24 1 = 0 ∧ dfld c 25 1 = 1 then 4 else 1) ≤ unalloc s →
    Completes (.nsCreate t id) s fun u => Posted c 0 n u ∧
      (nsOf u n).map (fun x => (x.nstype, x.grain, x.zest, x.owner, x.cap, x.holdMax)) =
        some (dfld c 24 1, dfld c 25 1, dfld c 26 1, dfld c 28 2, dfld c 32 8, dfld c 40 8))
  ∧ (InService 0x03 id c s → nsBusy s id c.nsid = false → tany (fun _ x => x.nsid == c.nsid) s.cmd.streams = false →
      s.pins.vppOk = true →
    Completes (.nsDelete t id) s fun u => Posted c 0 0 u ∧ u.cmd.nss = tdel c.nsid s.cmd.nss)

/-- Streams (R110 to R113): a create with room in its Segment's Class S budgets makes the stream with the figures asked for and the
genesis head; a delete of a stream that is idle, that no fence covers and that holds no Hold record removes it; a query sends the
structure of R113. -/
def Obligations.Streams : Prop := ∀ (t id : Nat) (c : Flight) (s : State),
  (∀ k seg, InService 0x04 id c s → rngReady s = true → nsKeyOk s c.nsid = true →
    ownedStreams s c.fn < (funcOf s c.fn).streams → (if c.stream = 0xFFFF then tfree 0 8192 s.cmd.streams else some c.stream) = some k →
    strmOf s k = none → seg = (if dfld c 27 1 = 0xFF then chooseSeg s else dfld c 27 1) →
    sealResv s seg + dfld c 40 4 ≤ sealBudget s seg → recallResv s seg + dfld c 44 2 ≤ recallBudget s seg →
    Completes (.streamCreate t id) s fun u =>
      (strmOf u k).map (fun x => (x.nsid, x.group, x.seg, x.codec, x.rate, x.recalls, x.next)) =
        some (c.nsid, dfld c 26 1, seg, dfld c 28 1, dfld c 40 4, dfld c 44 2, 0)
      ∧ (strmOf u k).map (·.head) = (strmOf u k).map (·.genesis))
  ∧ (∀ x, InService 0x05 id c s → strmOf s c.stream = some x → strmBusy s id c.stream = false → fenceCovers s x = false →
    tany (fun _ r => heldNow s r) x.recs = false →
    Completes (.streamDelete t id) s fun u => Posted c 0 0 u ∧ u.cmd.streams = tdel c.stream s.cmd.streams)
  ∧ (∀ x, InService 0x06 id c s → strmOf s c.stream = some x →
    Completes (.streamQuery t id) s fun u => Posted c 0 0 u ∧ Out.output c.fn c.ring c.cid (scatter c.sgl (strmStruct c.stream x)) ∈ u.out)

/-- IDENTIFY and GET_LOG send the structure or the part of the log asked for, to the addresses of the command's scatter list (R141, R142,
R84); DIAG_READ sends the first bytes of the page as its die holds it, the bits of `flips` read wrong, when a recall window of the die has its
read in progress (R148, R149). -/
def Obligations.ReadingCommands : Prop := ∀ (t id : Nat) (c : Flight) (s : State),
  (InService 0x01 id c s → dfld c 24 1 = 0 → Completes (.identify t id) s fun u =>
      Posted c 0 0 u ∧ Out.output c.fn c.ring c.cid (scatter c.sgl (deviceStruct (tick t s))) ∈ u.out)
  ∧ (∀ x, InService 0x01 id c s → dfld c 24 1 = 1 → nsOf s c.nsid = some x → Completes (.identify t id) s fun u =>
      Posted c 0 0 u ∧ Out.output c.fn c.ring c.cid (scatter c.sgl (nsStruct (tick t s) c.nsid x)) ∈ u.out)
  ∧ (InService 0x01 id c s → 2 ≤ dfld c 24 1 → Completes (.identify t id) s fun u =>
      Posted c 0 0 u ∧ Out.output c.fn c.ring c.cid (scatter c.sgl (nsList (tick t s) c.fn)) ∈ u.out)
  ∧ (InService 0x07 id c s → dfld c 24 1 ≠ 2 → Completes (.getLog t id) s fun u => Posted c 0 0 u ∧
      Out.output c.fn c.ring c.cid (scatter c.sgl (slice (logBytes (tick t s) c.fn (dfld c 24 1)) (dfld c 32 8) c.len)) ∈ u.out)
  ∧ (∀ flips d x, InService 0x0F id c s → d = dfld c 24 1 * 16 + dfld c 25 1 * 2 + dfld c 26 1 → tget d s.flw.dies = some x →
      dfld c 28 4 < x.blocks → dfld c 32 4 < x.pages → (∀ o, x.op = some o → o.erase = true → o.block ≠ dfld c 28 4) → diagGoing x id = true →
    Completes (.diagRead t id flips) s fun u => Posted c 0 0 u ∧ Out.output c.fn c.ring c.cid
      (scatter c.sgl (fit c.len (flipBits (pageGroup s d (dfld c 28 4) (dfld c 32 4) x) flips))) ∈ u.out)

/-- ABORT ends a named command that has not begun to move data with 0x0109 (R146); FENCE_RELEASE frees the slot (R135); DEPOT begins
with its end set, and ends by ACTION 0 or when FRAME reaches that end (R147). -/
def Obligations.ControlCommands : Prop := ∀ (t id : Nat) (c : Flight) (s : State),
  (∀ j q, InService 0x08 id c s → flightNamed s c.fn (dfld c 24 2 % 4096) (dfld c 26 2) = some (j, q) → tget j s.rge.flights = some q →
    q.begun = false → q.opcode ≠ 0x08 → CanPost s q →
    Completes (.abortCmd t id) s fun u => Posted q 0x0109 0 u)
  ∧ (∀ x, InService 0x09 id c s → c.fn = 0 → dfld c 24 1 ≤ 16 → tget (dfld c 24 1) s.cad.fences = some x →
    Completes (.fenceRelease t id) s fun u => Posted c 0 0 u ∧ u.cad.fences = tdel (dfld c 24 1) s.cad.fences)
  ∧ (InService 0x0E id c s → dfld c 24 1 = 1 → Completes (.depotBegin t id) s fun u => u.cmd.depotEnd = some (s.cad.frame + dfld c 28 4))
  ∧ (∀ e, InService 0x0E id c s → dfld c 24 1 = 0 → s.cmd.depotEnd = some e →
    Completes (.depotStop t id) s fun u => u.cmd.depotEnd = none)
  ∧ (∀ e, s.cmd.depotEnd = some e → e ≤ s.cad.frame → Completes (.depotWindowEnd t) s fun u => u.cmd.depotEnd = none)

/-- Firmware and programs in their good form, their data taken (R165): a download patches the staging buffer (R151); a commit writes the staged image to a slot
that does not run, and activates it for ACTION 1 (R152, R772); ACTION 2 writes an activation record (R773); a load takes a free
program slot, an unload frees it, and a run is queued (R612, R613). -/
def Obligations.FirmwareAndPrograms : Prop := ∀ (t id : Nat) (c : Flight) (s : State),
  (∀ d w, InService 0x0C id c s → takesData id c (tick t s) = (true, w) → Completes (.fwDownload t id (some d)) s fun u =>
      Posted c 0 0 u ∧ u.cmd.staging = patch s.cmd.staging (dfld c 24 4) (fit c.len d))
  ∧ (InService 0x0D id c s → s.pins.vppOk = true → dfld c 25 1 ≤ 1 → runningSlot s ≠ some (dfld c 24 1) →
      (imageOf s.cmd.staging).formOk = true → (imageOf s.cmd.staging).sigOk = true → s.boot.floor ≤ (imageOf s.cmd.staging).svn →
      tokenFree s 6 (pithRes (dfld c 24 1)) = true → Completes (.fwCommitWrite t id) s fun u => (slotOf u (dfld c 24 1)).image = some (imageOf s.cmd.staging) ∧
        (slotOf u (dfld c 24 1)).recs.map (·.skind) = if dfld c 25 1 = 1 then [1, 2] else [1])
  ∧ (InService 0x0D id c s → s.pins.vppOk = true → dfld c 25 1 = 2 → runningSlot s ≠ some (dfld c 24 1) →
      slotValid s (slotOf s (dfld c 24 1)) = true → (slotOf s (dfld c 24 1)).image.isSome → (slotOf s (dfld c 24 1)).recs.length ≤ 2040 →
      tokenFree s 6 (pithRes (dfld c 24 1)) = true → Completes (.fwCommitActivate t id) s fun u =>
        (slotOf u (dfld c 24 1)).recs.map (·.skind) = (slotOf s (dfld c 24 1)).recs.map (·.skind) ++ [2])
  ∧ (∀ d n w, InService 0x0A id c s → takesData id c (tick t s) = (true, w) → imageOk s (dfld c 24 1 % 16) c.len (fit c.len d) = true →
      slotsOf s c.fn < fieldOf s Reg.dspFnq 7 0 → tfree 0 32 s.dsp.progs = some n →
      Completes (.progLoad t id (some d)) s fun u => Posted c 0 n u ∧
        tget n u.dsp.progs = some { fn := c.fn, mask := dfld c 24 1 % 16, image := fit c.len d })
  ∧ (InService 0x0B id c s → (progOf s c.fn (dfld c 24 1)).isSome →
      tany (fun j x => j != id && x.fn == c.fn && x.opcode == 0x2A && dfld x 24 1 == dfld c 24 1) s.rge.flights = false →
      Completes (.progUnload t id) s fun u => Posted c 0 0 u ∧ u.dsp.progs = tdel (dfld c 24 1) s.dsp.progs)
  ∧ (∀ p g key, InService 0x2A id c s → tany (fun _ x => x.id == id) s.dsp.runs = false → g = dfld c 25 1 → g < 4 →
      progOf s c.fn (dfld c 24 1) = some p → nbit p.mask g = true → segOn s g = true → (guestCores s g).isEmpty = false →
      tcount (fun _ x => x.fn == c.fn && x.seg == g) s.dsp.runs < fieldOf s Reg.dspFnq 15 8 → freeItem s g = some key → domSleep s g = 0 →
      Completes (.progRun t id) s fun u => (tget key u.dsp.runs).map (fun x => (x.fn, x.id, x.slot, x.seg, x.budget, x.core)) =
        some (c.fn, id, dfld c 24 1, g, dfld c 28 4, none))

/-- MAINT (R150, R326, R328, R329): kind 1 keeps the page groups of the namespace that a patrol read has still to take, and kind 2 the
bands that it has still to rewrite, of which each service moves a step where the maintenance share allows it; each completes with the blocks that
it processed once nothing is left. Kind 3 answers all ones when the whole chain holds and every record can be read and decoded. -/
def Obligations.Maintenance : Prop := ∀ (t id : Nat) (c : Flight) (s : State), InService 0x2B id c s →
  (∀ l n, dfld c 24 1 = 1 → nsKeyOk s c.nsid = true →
    (c.todo = none ∧ l = patrolWork (tick t s) c.nsid ∧ n = nsBlocks (tick t s) c.nsid ∨ ∃ m, c.todo = some m ∧ l = patrolLeft (tick t s) m ∧ n = c.worked) →
    (l ≠ [] → exec (.maintPatrol t id) s = .next (keepMaint id l n (tick t s)))
    ∧ (l = [] → exec (.maintPatrol t id) s = .next (complete id 0 n (keepMaint id [] n (tick t s)))))
  ∧ (∀ l n w, dfld c 24 1 = 2 → (s.cmd.depotEnd.isSome ∨ c.todo.isSome) → nsKeyOk s c.nsid = true →
    compactStep (c.todo.getD (compactWork (tick t s) c.nsid)) (tick t s) = (l, n, w) →
    (l ≠ [] → exec (.maintCompact t id) s = .next (keepMaint id l (c.worked + n) w))
    ∧ (l = [] → exec (.maintCompact t id) s = .next (complete id 0 (c.worked + n) (keepMaint id [] (c.worked + n) w))))
  ∧ (∀ x, dfld c 24 1 = 3 → s.integ.armed = false → strmOf s (dfld c 28 2) = some x → nsKeyOk s x.nsid = true →
    (∀ n r, (n, r) ∈ x.recs → r.lost = false ∧ r.damaged = false ∧ (recContent r).isNone = false) → chainOf (chainKey s x.nsid) x x.recs = none →
    Completes (.maintVerify t id) s fun u => Posted c 0 0xFFFFFFFFFFFF u)

/-- A Seal (R116, R165, R195 to R200, R306): admitted when it passes the checks and reclaim leaves room for it; started when its stream is free,
the inline commands leave it a place (R472) and Stone has room, and, outside Class S, when the read cap admits its payload and foreground collection has a target; folded when its record is there: the stream's next record number goes up by 1, and its head becomes the chain tag of
the record's header with the stamp the Cadence Unit issues. -/
def Obligations.Seals : Prop := ∀ (t id : Nat) (c : Flight) (x : Strm) (s : State), strmOf s c.stream = some x →
  (∀ ns y, InService 0x20 id c s → c.admitted = false → nsOf s c.nsid = some ns → sealChecks (tick t s) id c x = none →
    strmOf (makeRoom c.stream x ns c.len (tick t s)) c.stream = some y →
    nsRoom (makeRoom c.stream x ns c.len (tick t s)) c.nsid ns c.len = true →
    segRoom (makeRoom c.stream x ns c.len (tick t s)) y.seg (sealSlots (makeRoom c.stream x ns c.len (tick t s)) c.stream y) = true →
    mediaRoom (makeRoom c.stream x ns c.len (tick t s)) y.seg c.len = true →
    (sealHold c x = true → holdRoom (makeRoom c.stream x ns c.len (tick t s)) c.nsid ns c.len = true) →
    tget id (makeRoom c.stream x ns c.len (tick t s)).rge.flights = some c →
    Completes (.sealRec t id) s fun u => (tget id u.rge.flights).map (·.admitted) = some true)
  ∧ (tfind (fun _ q => q.isSeal && q.stream == c.stream) s.rge.flights = some (id, c) → x.inService = none → c.admitted = true →
    maySetOut s id c = true → inlineRoom s c = true → stoneRoom s c.seg c.len (c.cls == .s) = true → tget id s.rge.flights = some c →
    (c.cls = .s ∨ mayRead s c = true ∧ (foreground (4 * id + c.seg) c.seg c.len (clsNo c.cls) (tick t s)).1 = true) →
    Completes (.sealServiceStart t c.stream) s fun u => (strmOf u c.stream).map (·.inService) = some (some id) ∧
      (tget id u.rge.flights).map (fun q => (q.begun, q.stone)) = some (true, c.len))
  ∧ (∀ l d postBad, tget id s.rge.flights = some c → x.inService = some id → c.toRead = 0 → headerAgrees c (fit c.len l) = true →
    s.cad.exhausted = false →
    Completes (.sealFold t id (some l) d postBad) s fun u =>
      (strmOf u c.stream).map (fun y => (y.next, y.lastStamp, y.head)) =
        some (x.next + 1, stampNow (tick t s), chainTag (chainKey s c.nsid) x.head
          (foldHeader (tick t s) c x (slice (fit c.len l) 0 160) ((fit c.len l).drop 160) (stampNow (tick t s)))))

/-- A Recall by time, by record or by range (R120 to R126, R264) whose selection holds, which does not ask for VERIFY, and whose records can
all be read and decoded: the window of the selected records' output goes to the addresses of the command's scatter list. -/
def Obligations.Recalls : Prop := ∀ (t id : Nat) (c : Flight) (x : Strm) (l : List Nat) (w s : State),
  w.integ.armed = false → strmOf s c.stream = some x → nsKeyOk w c.nsid = true → nbit (dfld c 26 1) 3 = false →
  (∀ n r, n ∈ l → tget n x.recs = some r → r.lost = false ∧ r.damaged = false ∧ (recContent r).isNone = false) →
  (∀ d, InService 0x21 id c s → selection selTime c x (tick t s) = (.inr l, w) →
    Completes (.recallTime t id d) s fun u => Out.output c.fn c.ring c.cid
      (scatter c.sgl (window (outputOf ((recsOf x l).map fun p => recBytes (nbit (dfld c 26 1) 0) (nbit (dfld c 26 1) 2) p.2)) (dfld c 32 8) c.len)) ∈ u.out)
  ∧ (∀ d, InService 0x22 id c s → selection selRecord c x (tick t s) = (.inr l, w) →
    Completes (.recallRecord t id d) s fun u => Out.output c.fn c.ring c.cid
      (scatter c.sgl (window (outputOf ((recsOf x l).map fun p => recBytes (nbit (dfld c 26 1) 0) (nbit (dfld c 26 1) 2) p.2)) (dfld c 32 8) c.len)) ∈ u.out)
  ∧ (InService 0x23 id c s → selection selRange c x (tick t s) = (.inr l, w) →
    Completes (.recallRange t id) s fun u => Out.output c.fn c.ring c.cid
      (scatter c.sgl (window (outputOf ((recsOf x l).map fun p => recBytes (nbit (dfld c 26 1) 0) (nbit (dfld c 26 1) 2) p.2)) (dfld c 32 8) c.len)) ∈ u.out)

/-- LOCK makes the records of its range Hold with the later expiry, where HOLD_MAX and the media of its Segment (log 111) take them, and answers how many it
changed (R132); RELEASE makes the expired
Hold records of its range Loop (R133). -/
def Obligations.LockAndRelease : Prop := ∀ (t id : Nat) (c : Flight) (x : Strm) (s : State), strmOf s c.stream = some x →
  (∀ ns chg e, InService 0x27 id c s → nsOf s c.nsid = some ns → e = min 0xFFFFFFFFFF (s.cad.frame + dfld c 56 8) →
    chg = tfilter (fun _ r => !r.hold || decide (r.expiry < e)) (inRangeRecs x (dfld c 40 8) (dfld c 48 8)) → chg ≠ [] →
    belowFloor s = false → holdRoom s c.nsid ns (tsum (fun _ r => if heldNow s r then 0 else r.len) chg) = true →
    mediaHolds s x.seg chg = true →
    Completes (.lockRange t id) s fun u => Posted c 0 chg.length u ∧
      ∀ n r, tget n chg = some r → tget n x.recs = some r →
        ((strmOf u c.stream).bind fun y => tget n y.recs) = some { r with hold := true, expiry := if r.hold then max r.expiry e else e })
  ∧ (∀ l, InService 0x28 id c s → l = tfilter (fun _ r => r.hold) (inRangeRecs x (dfld c 40 8) (dfld c 48 8)) → l ≠ [] →
    tfilter (fun _ r => !expired s r) l = [] →
    Completes (.releaseRange t id) s fun u => Posted c 0 l.length u ∧
      ∀ n r, tget n l = some r → tget n x.recs = some r →
        ((strmOf u c.stream).bind fun y => tget n y.recs) = some { r with hold := false, expiry := 0 })

/-- Expiry and the notices due at every 64th FRAME (R208, R209, R215). -/
def Obligations.Retention : Prop := ∀ (t n : Nat) (s : State),
  (∀ k x, strmOf s k = some x → awake s x = true →
    Completes (.holdExpiry t) s fun u => strmOf u k = some (countExpired s x))
  ∧ (s.cad.frame % 64 = 0 → exec (.retentionNoticeDue t) s = .next (s.cmd.streams.foldl noticesOf (tick t s)))
  ∧ exec (.clsSnapNow t n) s = .next (strobe n (Reg.clsSnap n) (tick t s))

/-- EXPORT and the commands of block namespaces in their good form (R128 to R131, R136, R223, R264, R283, R306): an export whose chain holds is
signed, kept and begun; a write whose data has been taken (R165), for which reclaim has made room, and whose partly covered grains decode, stores its blocks, a read whose grains decode sends them, and a
deallocation takes them away, each but for the blocks that a later fetched command wrote (R129). -/
def Obligations.ExportsAndBlocks : Prop := ∀ (t id : Nat) (c : Flight) (s : State),
  (∀ x l w, InService 0x29 id c s → strmOf s c.stream = some x → rngReady s = true → dfld c 32 8 = 0 →
    selRange c x (tick t s) = (.inr l, w) → w.integ.armed = false → l.length ≤ 262144 → nsKeyOk w c.nsid = true → attestOk w = true →
    nbit (dfld c 26 1) 0 = false → exportFault (recsOf x l) = none →
    chainFails (chainKey w x.nsid) (tagBefore x (l.headD 0)) (recsOf x l) = none →
    Completes (.exportRange t id) s fun u => u.cmd.exports.head?.map (fun e => (e.fn, e.stream, e.recs)) = some (c.fn, c.stream, l))
  ∧ (∀ x d bad v w z, InService 0x24 id c s → nsOf s c.nsid = some x → blockChecks s c x true true = none →
    grainsRoom (tick t s) x (grainsOf x (dfld c 24 8) (dfld c 32 4)) = true → takesData id c (tick t s) = (true, v) →
    makeWay id (clsNo c.cls) x (dfld c 24 8) (dfld c 32 4) v = (true, w) →
    readGrains x (edgeGrains x (dfld c 24 8) (dfld c 32 4)) w = (none, z) →
    exec (.writeBlocks t id (some d) bad) s = .next
      (let r := writeData c.nsid ((edgeGrains x (dfld c 24 8) (dfld c 32 4)).foldl decodedGrain x) (clsNo c.cls) (dfld c 24 8) (dfld c 32 4)
        (laterBlocks z id c.nsid (dfld c 24 8) (dfld c 32 4)) d bad (noteWrote id c.nsid (dfld c 24 8) (dfld c 32 4) z)
      complete id r.1 0 r.2))
  ∧ (∀ x z, InService 0x25 id c s → nsOf s c.nsid = some x → blockChecks s c x false true = none →
    readGrains x (grainsOf x (dfld c 24 8) (dfld c 32 4)) (tick t s) = (none, z) →
    Completes (.readBlocks t id) s fun u => Posted c 0 0 u ∧ Out.output c.fn c.ring c.cid
      (scatter c.sgl ((List.range (dfld c 32 4)).flatMap fun i => readBlock x (dfld c 24 8 + i))) ∈ u.out)
  ∧ (∀ x, InService 0x26 id c s → nsOf s c.nsid = some x → blockChecks s c x false false = none →
    Completes (.deallocate t id) s fun u => Posted c 0 0 u ∧ (nsOf u c.nsid).map (·.blocks) =
      some (tfilter (fun b _ => decide (b < dfld c 24 8) || decide (b ≥ dfld c 24 8 + dfld c 32 4)
        || (laterBlocks (tick t s) id c.nsid (dfld c 24 8) (dfld c 32 4)).contains b) x.blocks))

/-- SNAP strobes (R101, R244, R276, R418 and the strobe rule of each block): of an enabled Segment that is awake, the strobe
copies every counter of its block, which counts on; a strobe of the whole device copies that block's counters. SNAP of DRM first
takes up the bursts counted, whose number the spec leaves open; LCS_SNAP drops a pending CONFIRM, as every LCS write does. -/
def Obligations.SnapStrobes : Prop := ∀ (t n : Nat) (s : State),
  (segOn s n = true → domSleep s n = 0 → n < 4 →
    (Completes (.idxSnapNow t n) s fun u => u.ctrs = s.ctrs ∧ u.snaps = (snapAll (segCounters (Reg.idxSnap n) n) s).snaps)
    ∧ (Completes (.zstSnapNow t n) s fun u => u.ctrs = s.ctrs ∧ u.snaps = (snapAll (segCounters (Reg.zstSnap n) n) s).snaps)
    ∧ (Completes (.medSnapNow t n) s fun u => u.ctrs = s.ctrs ∧ u.snaps = (snapAll (segCounters (Reg.medSnap n) n) s).snaps)
    ∧ (Completes (.flwSnapNow t n) s fun u => u.ctrs = s.ctrs ∧ u.snaps = (snapAll (segCounters (Reg.flwSnap n) n) s).snaps)
    ∧ (Completes (.dspSnapNow t n) s fun u => u.ctrs = s.ctrs ∧ u.snaps = (snapAll (segCounters (Reg.dspSnap n) n) s).snaps)
    ∧ (Completes (.dmvSnapNow t n) s fun u => u.ctrs = s.ctrs ∧ u.snaps = (snapAll (segCounters (Reg.dmvSnap n) n) s).snaps)
    ∧ (Completes (.drmSnapNow t n) s fun u => u.draws = s.draws + 2 ∧ ∃ v w, u.ctrs = (bump (Reg.drmWrLo n) w (draw (bump (Reg.drmRdLo n) v (tick t s)))).ctrs
        ∧ u.snaps = (snapAll (segCounters (Reg.drmSnap n) n) (bump (Reg.drmWrLo n) w (draw (bump (Reg.drmRdLo n) v (tick t s))))).snaps))
  ∧ exec (.intSnapNow t) s = .next (snapAll ((List.range 64).map Reg.intTally) (tick t s))
  ∧ exec (.brcSnapNow t) s = .next (snapAll [Reg.brcEntriesLo, Reg.brcRestartLo, Reg.brcShort] (tick t s))
  ∧ exec (.pthSnapNow t) s = .next (snapAll [Reg.pthErasesLo, Reg.pthJbytesLo, Reg.pthFail] (tick t s))
  ∧ exec (.crySnapNow t) s = .next (snapAll ([Reg.cryAlarms, Reg.cryRngfail] ++ [0, 1, 2, 3].flatMap fun n =>
      [Reg.cryCipherLo n, Reg.cryDigestLo n, Reg.cryBusyLo n, Reg.cryGcmfailLo n]) (tick t s))
  ∧ exec (.pwmSnapNow t) s = .next (snapAll ([Reg.pwmShedLo, Reg.pwmVlateLo] ++ [0, 1, 2, 3].flatMap fun n =>
      [Reg.pwmLvlchgLo n, Reg.pwmWakeLo n, Reg.pwmThrotLo n]) ([0, 1, 2, 3].foldl (fun s n => accrue n s) (tick t s)))
  ∧ (Completes (.lcsSnapNow t) s fun u => u.life.confirm = none ∧ u.snaps = (snapAll [Reg.lcsRefused] s).snaps)

/-- The JTAG port (R751): what each instruction shifts out, the boundary-scan register, and the reset that EXTEST acts as. -/
def Obligations.JtagPort : Prop := ∀ (t : Nat) (s : State), s.boot.powered = true →
  (Completes (.jtagIdcode t) s fun u => u.out = .jtag 32 0x1321654B :: s.out ∧ u.dbg.ir = 2)
  ∧ (Completes (.jtagBypass t) s fun u => u.out = .jtag 1 0 :: s.out)
  ∧ (∀ cap shift, Completes (.jtagSamplePreload t cap shift) s fun u =>
      u.out = .jtag 4380 (cap % 2 ^ bsrCells) :: s.out ∧ u.dbg.bsr = shift % 2 ^ bsrCells)
  ∧ (∀ cap shift, s.boot.inReset = false → s.boot.testMode = false → s.brc.flushing = false →
    Completes (.jtagExtest t cap shift) s fun u =>
      u.boot.resetPending = true ∧ u.brc.flushing = true ∨ u.boot.inReset = true ∧ u.med.stone = [])
  ∧ (Completes (.tapReset t) s fun u => u.dbg.level = .closed)

/-- The debug session (R740, R749, R750, R751). -/
def Obligations.DebugSession : Prop := ∀ (t : Nat) (s : State), debugThere s = true →
  (Completes (.dbgStatus t) s fun u => u.out = .jtag 32 (dbgStatus s) :: s.out)
  ∧ (rngReady s = true → Completes (.dbgChal t) s fun u => u.out = .jtag 256 (unle u.life.nonce) :: s.out ∧ u.life.nonceOk = true)
  ∧ (∀ v, s.dbg.grant.length < 4096 → Completes (.dbgGrant t v) s fun u => u.dbg.grant = s.dbg.grant ++ le 4 v.toNat)
  ∧ (∀ v l, levelFor s (v % 256) = some l → levelNeeds s l = [] → Completes (.dbgOpen t v) s fun u =>
      u.dbg.level = l ∧ u.dbg.grant = [])
  ∧ (∀ v l, levelFor s (v % 256) = some l → levelNeeds s l ≠ [] → s.dbg.grant ≠ [] → s.integ.armed = false → grantsOff s = false →
      grantFits s s.dbg.grant (levelNeeds s l) = true → Completes (.dbgOpen t v) s fun u =>
      u.dbg.level = l ∧ u.dbg.grant = [] ∧ u.life.nonceOk = false)
  ∧ (Completes (.dbgClose t) s fun u => u.dbg.level = .closed ∧ u.dbg.grant = [])

/-- The DAP at Full, on a core that it can reach (R752): a read of a general register of a halted core, a write of one, halt,
resume, a single step, and SSTEP. -/
def Obligations.DebugAccess : Prop := ∀ (t k : Nat) (s : State), Reachable k s →
  (∀ addr n, (coreOf s k).st = .halted → k ≠ 32 → addr ≠ ctlSel → coreSel addr = some (.g n) →
    Completes (.dapRead t k addr) s fun u => u.dbg.dapOp = 0 ∧ u.dbg.dapData = ((coreOf s k).greg n).toNat)
  ∧ (∀ addr n v, (coreOf s k).st = .halted → k ≠ 32 → addr ≠ ctlSel → coreSel addr = some (.g n) →
    Completes (.dapWrite t k addr v) s fun u => u.dbg.dapOp = 0 ∧ coreOf u k = (coreOf s k).setG n (BitVec.ofNat 64 v))
  ∧ ((k = rindCore → 8 ≤ s.boot.step) → (coreOf s k).st ≠ .stopped → (coreOf s k).st ≠ .halted →
    Completes (.dapHalt t k) s fun u => u.dbg.dapOp = 0 ∧ (coreOf u k).st = .halted)
  ∧ ((coreOf s k).st = .halted → (coreOf s k).get = none → (isHouse s k = true ∨ (coreOf s k).run.isSome) →
    Completes (.dapResume t k) s fun u => u.dbg.dapOp = 0 ∧ (coreOf u k).st = .running)
  ∧ (∀ way, (coreOf s k).st = .halted → (coreOf s k).get = none → (isHouse s k = true ∨ (coreOf s k).run.isSome) →
    mayIssue (onCore k (fun c => { c with st := .running }) s) k = true →
    Completes (.dapSingleStep t k way) s fun u => u.dbg.dapOp = 0)
  ∧ ((coreOf s k).st ≠ .held → Completes (.dapSetSstep t k) s fun u => u.dbg.dapOp = 0 ∧ coreOf u k = (coreOf s k).setPs 10 10 1)
  ∧ ((coreOf s k).st ≠ .held → Completes (.dapClearSstep t k) s fun u => u.dbg.dapOp = 0 ∧ coreOf u k = (coreOf s k).setPs 10 10 0)

/-- The SMBus sideband (R807 to R809): what each read sends with its PEC, the alert, and the release of the bus. -/
def Obligations.Sideband : Prop := ∀ (t : Nat) (s : State), smbThere s = true →
  (Completes (.smbStatusByte t) s fun u => u.out = .smb (pack [(1, s.life.lstate.code
      + 8 * flags [s.life.vault, s.brc.active, rescue s, s.med.harvest, s.boot.service])]
    ++ [pec ([smbWriteAddr, 0x00#8, smbReadAddr] ++ pack [(1, s.life.lstate.code
      + 8 * flags [s.life.vault, s.brc.active, rescue s, s.med.harvest, s.boot.service])])]) :: s.out)
  ∧ (Completes (.smbModes t) s fun u => u.out = .smb (pack [(1, modes s)] ++ [pec ([smbWriteAddr, 0x01#8, smbReadAddr] ++ pack [(1, modes s)])]) :: s.out)
  ∧ (Completes (.smbCrit t) s fun u => u.pins.smbAlert = false ∧
      .smb (slice s.pins.smbCopy 0 1 ++ [pec ([smbWriteAddr, 0x02#8, smbReadAddr] ++ slice s.pins.smbCopy 0 1)]) ∈ u.out)
  ∧ (∀ n, Completes (.smbSensorTemp t n) s fun u => u.out = .smb (slice s.pins.smbCopy (16 + 2 * n) 2
      ++ [pec ([smbWriteAddr, BitVec.ofNat 8 (0x08 + n), smbReadAddr] ++ slice s.pins.smbCopy (16 + 2 * n) 2)]) :: s.out)
  ∧ (Completes (.smbTempNow t) s fun u => u.out = .smb (slice s.pins.smbCopy 4 2
      ++ [pec ([smbWriteAddr, 0x10#8, smbReadAddr] ++ slice s.pins.smbCopy 4 2)]) :: s.out)
  ∧ (Completes (.smbHealthBlock t) s fun u => u.out = .smb ([16#8] ++ slice s.pins.smbCopy 0 16
      ++ [pec ([smbWriteAddr, 0x20#8, smbReadAddr] ++ ([16#8] ++ slice s.pins.smbCopy 0 16))]) :: s.out)
  ∧ (Completes (.smbBraceSummary t) s fun u => u.out = .smb ([16#8] ++ slice (braceLog s) 0 16
      ++ [pec ([smbWriteAddr, 0x21#8, smbReadAddr] ++ ([16#8] ++ slice (braceLog s) 0 16))]) :: s.out)
  ∧ (Completes (.smbSerial t) s fun u => ∃ l, u.out = .smb l :: s.out ∧ (l.drop 1).take (spaced 20 Config.serial).length = spaced 20 Config.serial)
  ∧ (s.pins.smbAlert = true → Completes (.smbAlertResponse t) s fun u =>
      u.pins.smbAlert = false ∧ u.out = .smbAlert false :: .smb [smbWriteAddr] :: s.out)
  ∧ exec (.smbClockTimeout t) s = .next (emit .smbRelease (tick t s))

/-- The admin commands of the Plain controller (R154, R156, R157, R158, R159): queues are made and deleted, with what a deleted queue held ended, Identify and the logs send
their data, a request for events is held, an Abort ends it or a command that waits, and the settable features are kept and read back. A command
that is served no longer waits. -/
def Obligations.NvmeAdmin : Prop := ∀ (t : Nat) (cmd : List Byte) (s : State),
  (NvAdmin 0x05 cmd s → nvCreateBad s true cmd = none → (nvQueueOf cmd).link < (funcOf s 0).vectors →
    Completes (.nvmeCreateIoCq t cmd) s fun u => NvDone 0 cmd 0 0 u
      ∧ u.cmd.nvme = { (nvTake 0 cmd s).cmd.nvme with cqs := tput (cdw cmd 10 % 65536) (nvQueueOf cmd) s.cmd.nvme.cqs })
  ∧ (NvAdmin 0x01 cmd s → nvCreateBad s false cmd = none → (tget (nvQueueOf cmd).link s.cmd.nvme.cqs).isSome →
    Completes (.nvmeCreateIoSq t cmd) s fun u => NvDone 0 cmd 0 0 u
      ∧ u.cmd.nvme = { (nvTake 0 cmd s).cmd.nvme with sqs := tput (cdw cmd 10 % 65536) { nvQueueOf cmd with ien := false } s.cmd.nvme.sqs })
  ∧ (NvAdmin 0x00 cmd s → (tget (cdw cmd 10 % 65536) s.cmd.nvme.sqs).isSome →
    Completes (.nvmeDeleteIoSq t cmd) s fun u => NvDone 0 cmd 0 0 u
      ∧ u.cmd.nvme = { (nvTake 0 cmd s).cmd.nvme with sqs := tdel (cdw cmd 10 % 65536) s.cmd.nvme.sqs, held := (nvTake 0 cmd s).cmd.nvme.held.filter (·.1 != cdw cmd 10 % 65536) }
      ∧ ∀ h ∈ (nvTake 0 cmd s).cmd.nvme.held, h.1 = cdw cmd 10 % 65536 → NvDone h.1 h.2 0x08 0 u)
  ∧ (NvAdmin 0x04 cmd s → (tget (cdw cmd 10 % 65536) s.cmd.nvme.cqs).isSome →
    tany (fun _ x => x.link == cdw cmd 10 % 65536) s.cmd.nvme.sqs = false →
    Completes (.nvmeDeleteIoCq t cmd) s fun u => NvDone 0 cmd 0 0 u
      ∧ u.cmd.nvme = { (nvTake 0 cmd s).cmd.nvme with cqs := tdel (cdw cmd 10 % 65536) s.cmd.nvme.cqs })
  ∧ (NvAdmin 0x06 cmd s → cdw cmd 10 % 256 = 1 → (funcOf s 0).st ≠ .resetting →
    Completes (.nvmeIdentify t cmd) s fun u => NvDone 0 cmd 0 0 u ∧ Out.output 0 0 (fld cmd 2 2) (scatter [(fld cmd 24 8, 2 ^ 32, false)] (nvController s)) ∈ u.out)
  ∧ (∀ n, NvAdmin 0x02 cmd s → cdw cmd 10 % 256 = 3 → fld cmd 48 8 ≤ 512 → (funcOf s 0).st ≠ .resetting →
    n = 4 * (cdw cmd 10 / 65536 + 65536 * (cdw cmd 11 % 65536) + 1) →
    Completes (.nvmeGetLogPage t cmd) s fun u => NvDone 0 cmd 0 0 u
      ∧ Out.output 0 0 (fld cmd 2 2) (scatter [(fld cmd 24 8, 2 ^ 32, false)] (slice (nvFirmware s) (fld cmd 48 8) n)) ∈ u.out)
  ∧ (NvAdmin 0x0C cmd s → s.cmd.nvme.events = [] → s.cmd.nvme.aers.length < 4 →
    Completes (.nvmeAsyncEventRequest t cmd) s fun u => u.cmd.nvme = { (nvTake 0 cmd s).cmd.nvme with aers := s.cmd.nvme.aers ++ [fld cmd 2 2] } ∧ u.out = s.out)
  ∧ (NvAdmin 0x08 cmd s → cdw cmd 10 % 65536 = 0 → cdw cmd 10 / 65536 ∈ s.cmd.nvme.aers →
    ((nvTake 0 cmd s).cmd.nvme.held.find? fun h => h.1 == 0 && fld h.2 2 2 == cdw cmd 10 / 65536) = none →
    Completes (.nvmeAbort t cmd) s fun u => NvDone 0 cmd 0 0 u
      ∧ u.cmd.nvme = { (nvTake 0 cmd s).cmd.nvme with aers := s.cmd.nvme.aers.erase (cdw cmd 10 / 65536) }
      ∧ ∃ cid, Out.nvme 0 cid 0x07 0 ∈ u.out)
  ∧ (∀ h, NvAdmin 0x08 cmd s →
    ((nvTake 0 cmd s).cmd.nvme.held.find? fun h => h.1 == cdw cmd 10 % 65536 && fld h.2 2 2 == cdw cmd 10 / 65536) = some h →
    Completes (.nvmeAbort t cmd) s fun u => NvDone 0 cmd 0 0 u ∧ NvDone h.1 h.2 0x07 0 u
      ∧ u.cmd.nvme = (nvTake h.1 h.2 (nvTake 0 cmd s)).cmd.nvme)
  ∧ (NvAdmin 0x09 cmd s → nbit (cdw cmd 10) 31 = false → cdw cmd 10 % 256 = 0x04 →
    Completes (.nvmeSetFeatures t cmd) s fun u => NvDone 0 cmd 0 0 u
      ∧ u.cmd.nvme = { (nvTake 0 cmd s).cmd.nvme with features := tset 0 (nvKey cmd) (cdw cmd 11 % 65536) s.cmd.nvme.features })
  ∧ (NvAdmin 0x0A cmd s → cdw cmd 10 % 256 = 0x04 →
    Completes (.nvmeGetFeatures t cmd) s fun u => NvDone 0 cmd 0 (tgetD 0 (nvKey cmd) s.cmd.nvme.features) u ∧ u.cmd.nvme = (nvTake 0 cmd s).cmd.nvme)

/-- Firmware and I/O of the Plain controller (R151, R152, R154, R156, R158): an image is staged and written to a boot slot; a Flush
completes at once; a Write stores its blocks, a Read sends them, and Dataset Management without Deallocate has nothing to do. -/
def Obligations.NvmeIo : Prop := ∀ (t sq : Nat) (cmd : List Byte) (s : State),
  (∀ d n, NvAdmin 0x11 cmd s → s.life.lstate.code < 3 → n = 4 * (cdw cmd 10 + 1) → n ≤ 1048576 → n % 4096 = 0 → 4 * cdw cmd 11 % 4096 = 0 →
    4 * cdw cmd 11 + n ≤ 16777216 →
    Completes (.nvmeFwImageDownload t cmd (some d)) s fun u => NvDone 0 cmd 0 0 u
      ∧ u.cmd.staging = patch s.cmd.staging (4 * cdw cmd 11) (fit n d))
  ∧ (∀ n, NvAdmin 0x10 cmd s → s.pins.vppOk = true → s.life.lstate.code < 3 → cdw cmd 10 / 8 % 8 = 0 → cdw cmd 10 % 8 = n + 1 → n < 2 →
    runningSlot s ≠ some n → (imageOf s.cmd.staging).formOk = true → (imageOf s.cmd.staging).sigOk = true →
    s.boot.floor ≤ (imageOf s.cmd.staging).svn → tokenFree s 6 (pithRes n) = true →
    Completes (.nvmeFirmwareCommit t cmd) s fun u => NvDone 0 cmd 0 0 u ∧ (slotOf u n).image = some (imageOf s.cmd.staging)
      ∧ (slotOf u n).recs.map (·.skind) = [1])
  ∧ (NvIo 0x00 sq cmd s → Completes (.nvmeFlush t sq cmd) s fun u => NvDone sq cmd 0 0 u ∧ u.cmd = (nvTake sq cmd s).cmd ∧ u.med = s.med)
  ∧ (∀ d bad x w z, NvIo 0x01 sq cmd s → s.cry.rederive = false → cdw cmd 1 = 1 → nvNs s = some x → s.integ.deadSeg = [] → (∀ m, domSleep s m = 0) →
    blockChecks s (nvFlight s sq cmd (fld cmd 40 8) (cdw cmd 12 % 65536 + 1)) x true true = none →
    grainsRoom (nvTake sq cmd (tick t s)) x (grainsOf x (fld cmd 40 8) (cdw cmd 12 % 65536 + 1)) = true →
    fetchFits (nvTake sq cmd (tick t s)) (4096 * (cdw cmd 12 % 65536 + 1)) = true →
    makeWay (2 ^ 40 + sq * 65536 + fld cmd 2 2) 1 x (fld cmd 40 8) (cdw cmd 12 % 65536 + 1) (nvTake sq cmd (tick t s)) = (true, w) →
    readGrains x (edgeGrains x (fld cmd 40 8) (cdw cmd 12 % 65536 + 1)) w = (none, z) →
    exec (.nvmeWrite t sq cmd (some d) bad) s = .next (nvDone sq cmd 0
      (writeData 1 ((edgeGrains x (fld cmd 40 8) (cdw cmd 12 % 65536 + 1)).foldl decodedGrain x) 1 (fld cmd 40 8) (cdw cmd 12 % 65536 + 1) [] d bad z).2))
  ∧ (∀ x z, NvIo 0x02 sq cmd s → s.cry.rederive = false → cdw cmd 1 = 1 → nvNs s = some x → s.integ.deadSeg = [] → (∀ m, domSleep s m = 0) →
    blockChecks s (nvFlight s sq cmd (fld cmd 40 8) (cdw cmd 12 % 65536 + 1)) x false true = none →
    readGrains x (grainsOf x (fld cmd 40 8) (cdw cmd 12 % 65536 + 1)) (nvTake sq cmd (tick t s)) = (none, z) → (funcOf s 0).st ≠ .resetting →
    Completes (.nvmeRead t sq cmd) s fun u => NvDone sq cmd 0 0 u ∧ Out.output 0 sq (fld cmd 2 2) (scatter [(fld cmd 24 8, 2 ^ 32, false)]
      ((List.range (cdw cmd 12 % 65536 + 1)).flatMap fun i => readBlock x (fld cmd 40 8 + i))) ∈ u.out)
  ∧ (∀ x d, NvIo 0x09 sq cmd s → cdw cmd 1 = 1 → nvNs s = some x → nbit (cdw cmd 11) 2 = false →
    Completes (.nvmeDatasetManagement t sq cmd (some d)) s fun u => NvDone sq cmd 0 0 u ∧ u.cmd = (nvTake sq cmd s).cmd)

/-- What the Ring Engine does of its own (R83, R84, R94, R98, R161, R165, R429, R835): at a fetch opportunity the chosen ring's next
descriptor becomes a command in flight with its slot taken, its scatter list read and, in Class S, its bound settled, or its ring stops if the
read failed; outside Class S the read cap must have room for the read; a stopped ring reports once that none of its commands remains; a failed
post stops its ring, as a failed read does, no bypass window being open for it; a held notice is written when there is room; the coalescing time sends the vector; the stall detector resets the arbiter. -/
def Obligations.RingEngine : Prop := ∀ (t : Nat) (s : State),
  (∀ d segs k r w v o l, s.pwr.rindSleep = 0 → choose (markHeld (tick t s)) = (some k, w) → ringOf w k = some r → w.integ.armed = false →
    (r.cls = .s ∨ fetchFits (markHeld (tick t s)) (segs.foldl (fun m l => max m ((l.getD []).length)) 64) = true) →
    v = onRge (fun g => { g with flights := tput w.rge.nextFlight (flightOf w r (fit 64 d)) g.flights, nextFlight := w.rge.nextFlight + 1 })
      (onRing (ringKey r.fn false r.cq) (fun q => { q with reserved := q.reserved + 1 }) (onRing k (takeSlot w.now) w)) →
    checks15 (if asksClassS (fit 64 d) then wakeAll v else v) r (fit 64 d) = none → opRow (fld (fit 64 d) 0 1) = some o →
    sglCheck o (fit 64 d) segs = .inr l →
    Completes (.descriptorFetch t (some d) segs) s fun u => u.rge.nextFlight = w.rge.nextFlight + 1
      ∧ (r.cls ≠ .s → tget w.rge.nextFlight u.rge.flights = some { flightOf w r (fit 64 d) with sgl := l })
      ∧ ∃ b c, tget w.rge.nextFlight u.rge.flights = some { flightOf w r (fit 64 d) with sgl := l, bound := b, voids := c })
  ∧ (∀ segs k r w, s.pwr.rindSleep = 0 → choose (markHeld (tick t s)) = (some k, w) → ringOf w k = some r → w.integ.armed = false →
    (r.cls = .s ∨ fetchFits (markHeld (tick t s)) (segs.foldl (fun m l => max m ((l.getD []).length)) 64) = true) →
    bypassed w 11 = false → Completes (.descriptorFetch t none segs) s fun u => (ringOf u k).map (·.stopped) = some true)
  ∧ (∀ f i r, ringOf s (ringKey f false i) = some r → r.stopped = false → bypassed (tick t s) 11 = false →
    Completes (.ringStoppedNotice t f false i true) s fun u => (ringOf u (ringKey f false i)).map (·.stopped) = some true)
  ∧ (∀ f sub i r bad, ringOf s (ringKey f sub i) = some r → r.stopped = true → r.quiet = false → dueOn s r = 0 → r.fn = 0 →
    Completes (.ringStoppedNotice t f sub i bad) s fun u =>
      (ringOf u (ringKey f sub i)).map (·.quiet) = some true ∧ Noticed 0x04 (ringPayload r 4 0 0) u)
  ∧ (∀ f x rest k r, (funcOf s f).held = x :: rest → evtRing s f = some (k, r) → s.brc.active = false → 0 < ringRoom r →
    Completes (.noticeWriteHeld t f) s fun u => Out.notice r.fn (r.base + 32 * r.dev) (nflags r x) x ∈ u.out)
  ∧ (∀ f i r t0, ringOf s (ringKey f false i) = some r → r.coalFirst = some t0 → r.coalTime ≠ 0 → r.coalTime * 1000 ≤ max s.now t - t0 →
    (funcOf s f).st ≠ .resetting → Completes (.coalesceTimer t f i) s fun u => (Out.msix f r.vec ∈ u.out ∨ f * 4096 + r.vec ∈ u.rge.pba)
      ∧ (ringOf u (ringKey f false i)).map (fun q => (q.coalN, q.coalFirst)) = some (0, none))
  ∧ (∀ f i r t0, ringOf s (ringKey f true i) = some r → r.since = some t0 → r.cls = .s → wants s r = true → 5000 ≤ max s.now t - t0 →
    s.integ.armed = false → bypassed (tick t s) 24 = false → exec (.classSFetchStall t f i) s = .next (raiseF 24 { func := f } 0
      (onRge (fun g => { g with curA := 0, curB := 0, curZ := 0, lastS := 0, lastFn := [], lastRing := [] }) (tick t s))))
  ∧ (∀ pdev rate, s.boot.step = 8 → Completes (.replayComplete t pdev rate) s fun u => u.boot.step = 9 ∧ u.boot.service = true ∧ u.boot.attempts = 0)

/-- The Zest engine's jobs (R267 to R270, R273): a core's job that passes its checks takes a place in its Segment's queue; the next
decompression job, those of house cores before those of guest cores, leaves the queue, decodes its input and writes its 16-byte result. -/
def Obligations.ZestEngine : Prop := ∀ (t : Nat) (s : State),
  (∀ k d, (zjTake k (· != 2) (tick t s)).1 = some d → zjCheck s k d = none →
    Completes (.zestCompressJob t k) s fun u =>
      tget s.zst.nextJob u.zst.jobs = some { seg := k / 4, core := k, guest := !isHouse s k, desc := d } ∧ u.zst.nextJob = s.zst.nextJob + 1)
  ∧ (∀ k d, (zjTake k (· == 2) (tick t s)).1 = some d → zjCheck s k d = none →
    Completes (.zestDecompressJob t k) s fun u =>
      tget s.zst.nextJob u.zst.jobs = some { seg := k / 4, core := k, guest := !isHouse s k, desc := d } ∧ u.zst.nextJob = s.zst.nextJob + 1)
  ∧ (∀ seg bad n j r, zjNext s seg false = some (n, j) → sleepOf s seg = 0 → zjOp j.desc ≠ 1 → jobRange s j.core (zjRes j.desc) 16 true = true → mapOk s j.seg (zjIn j.desc) (zjInLen j.desc) false = true →
    r = zjWork j.desc (segBytes s (if j.guest then coreFn s j.core else none) j.seg (zjIn j.desc) (zjInLen j.desc)) bad → mapOk s j.seg (zjOut j.desc) r.out.length true = true →
    mapOk s (j.core / 4) (zjRes j.desc) 16 true = true → r.status ≠ 0x0605 → Memory.wf s.dxr.mem = true →
    Completes (.zestJobComplete t seg false bad) s fun u => u.zst.jobs = tdel n s.zst.jobs ∧
      readMem u (j.core / 4) (zjRes j.desc) 16 = zjBytes r.status r.reason r.used r.out.length (Config.crc32c r.content))

/-- Draining and maintenance of media (R163, R203, R258, R261, R281, R289, R293 to R296, R305 to R315, R325, R326), where its Segment may start
such work: the drain of an item starts and lays its bytes on stripe units; an item whose bytes are all verified leaves Stone; partial units
whose time is up are laid in SLC and programmed; SLC data moves; a checkpoint that is due begins, and its root is journaled once all of it is
verified; a victim, the coldest band and a band to refresh are claimed and moved a step at a time; and a token goes to the work that waits
for it with the highest precedence, or is free. -/
def Obligations.MediaWork : Prop := ∀ (t seg : Nat) (s : State), drainOn s seg = true →
  (∀ bad finds i x r z, dramFindings seg finds (updateBypass seg (tick t s)) = z → (tgetD [] seg z.med.stone).find? (!·.draining) = some i → i.isRec = true →
    strmOf z i.a = some x → tget i.b x.recs = some r → nbit x.zest 7 = false →
    Completes (.stoneDrain t seg bad finds) s fun u => (strmOf u i.a).map (fun x => (tget i.b x.recs).map fun r => r.stored) = some (some r.len)
      ∧ tgetD [] seg u.med.stone = beginFirst (nbit z.zst.bypass seg || rescue z) z.now (z.med.drains + 1) (tgetD [] seg z.med.stone))
  ∧ (∀ i, (tgetD [] seg s.med.stone).find? (itemDone s seg) = some i →
    exec (.recordDrainComplete t seg) s = .next (updateFloor (finishDrain seg i (tick t s))))
  ∧ (∀ k x, strmOf s k = some x → x.seg = seg → exec (.partialUnitTimeout t k) s =
      .next (startPrograms seg (layFills true (slcLimit (tick t s) seg) true
        (fun f => f.seg == seg && f.owner == k && decide (f.bytes.length < unitBytes s seg) && decide (max s.now t - f.since ≥ 500000000)) (tick t s))))
  ∧ (∀ bad, s.cmd.depotEnd = none → exec (.slcMove t seg bad) s = .next (slcStep seg (slcLimit (tick t s) seg) false (tick t s)))
  ∧ (∀ bad e, s.cmd.depotEnd = some e → maintRuns s seg 5 = true →
    exec (.slcMove t seg bad) s = .next (recompressNext seg bad (slcStep seg 0 true (tick t s))))
  ∧ (s.pins.vppOk = true → tget seg s.med.wips = none →
    (fieldOf s Reg.medCkpt 15 0 * 1000000000 ≤ max s.now t - tgetD 0 seg s.med.ckptAt ∨ fieldOf s Reg.medCkpt 31 16 ≤ tgetD 0 seg s.med.ckptBands) →
    exec (.mapCheckpoint t seg) s = .next (settleCkpt seg (beginCkpt seg (tick t s))))
  ∧ (∀ w z, s.pins.vppOk = true → tget seg s.med.wips = some w → settleFills seg (tick t s) = z → tget seg z.med.wips = some w →
    w.len ≤ (piecesOf z seg w.item).foldl (fun n p => n + p.len) 0 → Completes (.mapCheckpoint t seg) s fun u => tget seg u.med.ckptNo = some w.no ∧ (tgetD [] seg u.med.ckpts).head?.map (·.no) = some w.no
      ∧ tget seg u.med.wips = none ∧ ∃ e ∈ u.pith.jq, e.etype = 9 ∧ e.src = seg)
  ∧ (∀ bad k, freeBands s seg < fieldOf s Reg.medGc 15 8 → maintRuns s seg 4 = true → claimed s seg 4 (victim s seg) = some k → s.med.gcOn.contains seg = true →
    exec (.garbageCollection t seg bad) s = .next (moveStep k 4 none (some bad) (claim k 4 (tick t s))).2)
  ∧ (∀ bad k w, s.cmd.depotEnd = none → fieldOf s Reg.medWear 15 0 < eraseMax s seg - eraseMin s seg → maintRuns s seg 5 = true →
    claimed s seg 5 ((coldest s seg).map (·.1)) = some k → (moveStep k 5 none (some bad) (claim k 5 (tick t s))).2 = w →
    ((tget k w.med.bands).map (·.st) = some .closed → exec (.wearMove t seg bad) s = .next w)
    ∧ (∀ b, tget k w.med.bands = some b → b.st ≠ .closed → exec (.wearMove t seg bad) s = .next (bumpHealth 18 1
      (onMed (fun m => { m with bands := tmap (fun q b => if segOfBand q = seg ∧ b.prep = 5 then { b with prep := 0 } else b) m.bands }) w))))
  ∧ ((patrolOf s seg).unpaced = true → (patrolOf s seg).groups ≤ (patrolOf s seg).read.length → segOn s seg = true → (∃ m, m ≠ seg ∧ m ∈ segs s ∧ m ∉ s.med.passDone) →
    Completes (.patrolPassEnd t seg []) s fun u =>
      tget seg u.med.patrol = some { start := max s.now t, groups := writtenGroups s seg, unpaced := false }
      ∧ Noticed 0x03 (pack [(1, 7), (1, seg), (2, 0), (4, tgetD 0 15 s.health.ctr % 2 ^ 32), (8, 0)]) u)
  ∧ (∀ k b, tget k s.med.bands = some b → (b.st = .closed ∨ b.st = .opened) → fieldOf s Reg.medRet 10 0 * 86400000000000 < max s.now t - b.dataAt →
    exec (.ageRefresh t k) s = .next (queueRefresh k (bandBlocks (tick t s) k) (tick t s)))
  ∧ (∀ k b w, tget k s.med.bands = some b → k ∈ s.med.refresh → b.claim = 0 ∨ b.claim = 2 → b.st = .opened ∨ b.st = .closed → maintRuns s (segOfBand k) 2 = true →
    (moveStep k 2 none none (claim k 2 (shutBand k (tick t s)))).2 = w →
    ((tget k w.med.bands).map (·.st) = some .closed → exec (.retentionRefresh t k) s = .next w)
    ∧ (∀ y, tget k w.med.bands = some y → y.st ≠ .closed → b.claim = 2 ∨ 0 < heldBytes (tick t s) k →
      exec (.retentionRefresh t k) s = .next (bumpHealth 16 (width w (segOfBand k)) w)))
  ∧ (∀ res, unitOpen s res = false →
    (nextStart s res = none → Completes (.maintTokenHandoff t res) s fun u => u.med.tokens = tdel res s.med.tokens ∧ u.med.waiting = s.med.waiting)
    ∧ (∀ w, nextStart s res = some w → Completes (.maintTokenHandoff t res) s fun u => u.med.tokens = tput res (w.1, false) s.med.tokens
      ∧ u.med.waiting = s.med.waiting.erase w))

/-- The Flash Wheel (R149, R163, R304, R330, R339, R341, R345, R353, R356, R357, R359 to R362, R368 to R371, R376, R378, R390): a channel retrains
before its dies' windows with ZQ Short and DQ re-centring on each; a die takes its window position, opens its window and serves the reads whose turn
it is, closes it, ends a protected stretch, takes an erase whose intent is durable and its token, and ends an erase, a program, a read whose
codewords decode at once, a patrol or margin read that may be taken, or an operation that timed out. A die that becomes free may start the next
program that waits. -/
def Obligations.FlashWheel : Prop := ∀ (t d : Nat) (x : Die) (s : State), tget d s.flw.dies = some x →
  (∀ c w, let l := tfilter (fun k d => chanOf k == c && d.usable && !d.lost) s.flw.dies
    (tgetD {} c s.flw.chans).state = 2 → (tgetD {} c s.flw.chans).retrain = true → maintOn s (c / 8) 1 = true →
    l.all (fun p => beforeWindow (tick t s) 40000 p.2) = true → takeAll 1 (tkeys l) (tick t s) = (true, w) →
    let z := l.foldl (fun s p => emit (.nand c p.2.pos .dqCentre) (emit (.nand c p.2.pos .zqShort) s)) w
    exec (.channelRetrain t c) s = .next (releaseAll (tkeys l)
      (onChan c (fun y => { y with trainAt := z.now, trainTemp := s.health.tempNow, retrain := false }) z)))
  ∧ (∀ reads, let y := (settleDie (tick t s) x).2
    let p := takePos (nextPos (tick t s) y) { y with lastPos := lastPosOf (tick t s) y }
    x.usable = true → x.lost = false → sleepOf s (segOfDie d) < 2 → (nextPos (tick t s) y).1 ≤ max s.now t + 25000 →
    Completes (.windowDecision t d reads) s fun u =>
      (tget d u.flw.dies).map (fun q => (q.lastPos, q.ahead, q.guard)) = some (p.lastPos, p.ahead, p.guard))
  ∧ (∀ dp, let q := serveReads (max s.now t) (xferNs s d x) true (max s.now t) (tgetD {} (chanOf d) s.flw.chans).xferEnd (serveOrder x.queue)
    x.decided = some dp → Completes (.windowOpen t d) s fun u => (tget d u.flw.dies).map (fun y => (y.decided, y.opened, y.going, y.queue)) =
      some (none, some (max s.now t, q.1 - max s.now t), q.2.2.1, q.2.2.2))
  ∧ (∀ o n, x.opened = some (o, n) → o + n ≤ max s.now t → Completes (.windowClose t d) s fun u =>
      (tget d u.flw.dies).map (fun y => (y.opened, y.going)) = some (none, []))
  ∧ (∀ o, x.op = some o → o.erase = true → o.susp = false → 250000 ≤ max s.now t - o.at_ →
    exec (.protectedStretchEnd t d) s = .next ((tkeys (dieGroup (tick t s) d x)).foldl (fun s k => resumeOp k s) (tick t s))
    ∧ Completes (.protectedStretchEnd t d) s fun u => tget d u.flw.dies = some x)
  ∧ (∀ b, x.usable = true → x.lost = false → x.op = none → windowBusy x = false → intentOpen s d b = true → mayErase (tick t s) d b x = true →
    x.progs.any (fun p => p.prec == 0 && p.cls == 0) = false → maintRuns s (segOfDie d) (erasePrec s (segOfDie d)) = true → tget d s.med.tokens = none →
    Completes (.eraseIssue t d b) s fun u =>
      (∃ slc, (∀ k q, bandOf s d b = some k → tget k s.med.bands = some q → slc = q.slc) ∧ u.out = .nand (chanOf d) x.pos (.erase b slc) :: s.out)
      ∧ u.med.tokens = tput d (erasePrec s (segOfDie d), true) s.med.tokens
      ∧ (tget d u.flw.dies).map (·.op) = some (some { erase := true, block := b, at_ := max s.now t }))
  ∧ (∀ o raws, x.op = some o → o.erase = true → o.susp = false → (d, o.block) ∉ s.flw.blankFail →
    Completes (.nandEraseComplete t d true raws) s fun u => (∃ e ∈ u.pith.jq, e.etype = 1 ∧ e.src = segOfDie d)
      ∧ ∃ y, tget d u.flw.dies = some y ∧ y.errs = 0 ∧ ∀ p, y.op = some p → p.erase = false ∧ p.at_ = max s.now t)
  ∧ (∀ o w, x.op = some o → o.erase = false → o.susp = false → w = onDie d (fun y => { y with op := none, errs := 0 }) (tick t s) →
    (o.prog = none → exec (.nandProgramComplete t d true none) s = .next (nextProgram d w))
    ∧ (∀ p v, o.prog = some p → chargeDie (segOfDie d) (p.prec != 0) (max s.now t - o.at_) w = v → let z := if p.prec = 0 then v else releaseToken d v
      let m := memberIn z p.band d x
      m ≠ parityAt (unitDone p m z) p.band p.row → exec (.nandProgramComplete t d true none) s = .next (settleSeg (segOfDie d) (nextProgram d (unitDone p m z)))))
  ∧ (∀ b pg best l id, x.lost = false → s.integ.armed = false → (∀ w ∈ l, w.tries.head? = some (some (0, false))) →
    exec (.nandReadComplete t d b pg best l (.command id)) s = .next (onDie d (fun y => { y with errs := 0 }) (tick t s)))
  ∧ (∀ b pg best l w, mayPatrol s d b pg x = true → maintRead d 3 x (tick t s) = (true, w) →
    exec (.nandReadComplete t d b pg best l .patrol) s = .next (pageRead d b pg best l none x (countPatrol d b pg w)))
  ∧ (∀ b pg best l k e w, s.cmd.depotEnd = some e → bandOf s d b = some k → (deepPages s k d x).contains pg = true → maintRead d 3 x (tick t s) = (true, w) →
    exec (.nandReadComplete t d b pg best l .margin) s = .next (marginRead d b pg l x w))
  ∧ (x.usable = true → x.lost = false → x.errs < 2 →
    Completes (.nandOpTimeout t d) s fun u => Out.nand (chanOf d) x.pos .reset ∈ u.out
      ∧ (∃ y, tget d u.flw.dies = some y ∧ y.decided = none ∧ y.errs = x.errs + 1 ∧ ∀ p, y.op = some p → p.erase = false ∧ p.at_ = max s.now t)
      ∧ (tgetD {} (chanOf d) u.flw.chans).retrain = true)

/-- The Integrity Unit and the Host Link's detectors (R405, R406, R410, R417, R421, R424, R428, R429, R431): the end of a hold-off
interval, arming and disarming an injection, the bypass window, the scrubber, the health save, and the events of the link and of the
monitor oscillator; a FLIT error sends its AER message but for a bypass window. -/
def Obligations.IntegrityUnit : Prop := ∀ (t : Nat) (s : State),
  (∀ k h, tget k s.integ.holds = some h → h.until_ ≤ max s.now t → h.run = true → h.pend = 0 →
    exec (.detectorHoldoffEnd t k) s = .next (onInt (fun i => { i with holds := tdel k i.holds }) (tick t s)))
  ∧ (∀ k h, tget k s.integ.holds = some h → h.until_ ≤ max s.now t → h.run = true → 0 < h.pend →
    (notifyOn s k = true → Completes (.detectorHoldoffEnd t k) s fun u => Noticed 0x09 (detPayload h.latest h.pend) u)
    ∧ (notifyOn s k = false → Completes (.detectorHoldoffEnd t k) s fun u => tget k u.integ.holds = some { h with run := false }))
  ∧ (∀ w be r, regAt Reg.intInj = some r → blockLocked s Reg.intInj = false → nbit be 3 = true → nbit w.toNat 31 = true →
    exec (.injectionArm t w be) s = .next (arm (writeAssigned r Reg.intInj w be (tick t s))))
  ∧ (∀ w be r, regAt Reg.intInj = some r → blockLocked s Reg.intInj = false → nbit be 3 = true → nbit w.toNat 31 = false → s.integ.armed = true →
    Completes (.injectionDisarm t w be) s fun u => u.integ.armed = false ∧ u.integ.injResult = 0 ∧ u.integ.injLeft = 0)
  ∧ (∀ w be r, regAt Reg.intBypass = some r → blockLocked s Reg.intBypass = false → nbit be 3 = true → nbit w.toNat 31 = true → s.brc.active = false →
    bypassShut s (bits (merge (word s Reg.intBypass) w be) 21 16) = false →
    Completes (.bypassOpen t w be) s fun u => ∃ e, u.integ.bypass = some (bits (merge (word s Reg.intBypass) w be) 21 16, e))
  ∧ (∀ k e, s.integ.bypass = some (k, e) → e ≤ max s.now t → Completes (.bypassWindowEnd t) s fun u => u.integ.bypass = none)
  ∧ (fieldOf s Reg.intScrub 7 0 * 1000000000 ≤ max s.now t - s.integ.lastScrub →
    exec (.sramScrub t []) s = .next (onInt (fun i => { i with lastScrub := max s.now t, sramCorr := [] }) (tick t s)))
  ∧ (3600000000000 ≤ max s.now t - s.integ.lastHealthSave →
    Completes (.healthSave t) s fun u => u.integ.lastHealthSave = max s.now t ∧ ∃ e ∈ u.pith.jq, e.etype = 7)
  ∧ (∀ link speed width, s.integ.armed = false → Completes (.linkStateChange t link speed width) s fun u =>
      (link = .recovery → Logged 3 u) ∧ u.pins.link = link ∧ u.pins.speed = speed ∧ u.pins.width = width)
  ∧ (Completes (.flitCrcError t) s fun u => Logged 0 u ∧ (bypassed (tick t s) 0 = false → Out.aer true 0 ∈ u.out))
  ∧ (∀ ppm, 500 < ppm → s.integ.armed = false → Completes (.monitorOscillatorCheck t ppm) s fun u => Logged 13 u)

/-- Faults of work in progress (R165, R412, R429, R624, R666): a fabric timeout raises DT08 and the work is tried again; a house core that
misses its heartbeat raises DT27 and is reset with its work; a host read that fails raises its detector and ends its command with
0x0108; a good completion delivers what was asked for, and asks for more as the read cap allows. -/
def Obligations.FaultHandling : Prop := ∀ (t : Nat) (s : State), s.integ.armed = false → s.integ.bypass = none →
  (∀ n j write units, tget n s.zst.jobs = some j → j.tries < 2 → Completes (.fabricTimeout t (.zest n) write units) s fun u =>
      Logged 8 u ∧ tget n u.zst.jobs = some { j with tries := j.tries + 1 })
  ∧ (∀ id c write units, tget id s.rge.flights = some c → c.opcode ≠ 0x2A → c.tries < 2 → Completes (.fabricTimeout t (.command id) write units) s fun u =>
      Logged 8 u ∧ tget id u.rge.flights = some { c with tries := c.tries + 1 })
  ∧ (∀ k, isHouse s k = true → corePowered s k = true → (coreOf s k).st ≠ .halted → (coreOf s k).st ≠ .held →
    1000000 ≤ max s.now t - (coreOf s k).beat →
    exec (.heartbeatMiss t k) s = .next (coreFault k 27 0 (raiseF 27 (coreSite s k) 0 (tick t s))))
  ∧ (∀ id c o, tget id s.rge.flights = some c → opRow c.opcode = some o → o.data = .fromHost →
    exec (.hostReadTimeout t (.command id)) s =
      .next (failSealX id 0x0108 c { detector := 2 } (emit (.aer false 2) (raiseF 2 { seg := c.seg, func := c.fn } 0 (tick t s)))))
  ∧ (∀ c x rest data n, (tgetD {} c s.mov.chans).queue = x :: rest → dmOp x.desc = 2 → n = x.asked + readAllow s (dmLen x.desc - x.asked) →
    Completes (.hostReadCompletion t (.chan c) true data) s fun u => ∃ m, n ≤ m ∧
      (tgetD {} c u.mov.chans).queue = { x with got := x.got ++ data.take (n - x.got.length), asked := m } :: rest)
  ∧ (∀ id c data, tget id s.rge.flights = some c → Completes (.hostReadCompletion t (.command id) true data) s fun u =>
      ∃ n, (servedS c = true → n = c.toRead) ∧ tget id u.rge.flights = some { c with reading := c.reading - data.length + n, toRead := c.toRead - n })

/-- BRACE (R434 to R438, R442, R444, R446 to R448): a qualified warning enters it and starts a flush of the next generation; the flush
completes; the exit wait starts, starts again, and after 5 ms BRACE ends. -/
def Obligations.BraceRun : Prop := ∀ (t : Nat) (s : State),
  (∀ vsys vhu warnN huOk, s.brc.active = false → s.life.lstate ≠ .scrapped → s.cry.closed = false →
    warnCause (sample vsys vhu warnN huOk s) ≠ 0 → Completes (.powerWarning t vsys vhu warnN huOk) s fun u =>
      u.brc.active = true ∧ u.brc.flushing = true ∧ u.brc.cause = warnCause (sample vsys vhu warnN huOk s)
      ∧ u.brc.flushSeq = (s.brc.flushSeq + 1) % 65536 ∧ u.brc.ref = max s.now t ∧ u.brc.exitWait = none)
  ∧ (∀ pbrace t34 t37 v3 v7 low, s.brc.active = true → s.brc.flushing = true → s.boot.resetPending = false → s.boot.resetN = true → s.dbg.extest = false →
    Completes (.braceFlushComplete t pbrace t34 t37 v3 v7 low) s fun u => u.brc.flushing = false ∧ u.brc.flushed = true)
  ∧ (∀ vsys vhu warnN huOk, s.brc.active = true → s.brc.exitWait = none → exitOk (sample vsys vhu warnN huOk s) = true →
    Completes (.exitWaitStart t vsys vhu warnN huOk) s fun u => u.brc.exitWait = some (max s.now t) ∧ u.brc.active = true)
  ∧ (∀ vsys vhu warnN huOk a, s.brc.active = true → s.brc.exitWait = some a → exitOk (sample vsys vhu warnN huOk s) = false →
    Completes (.exitWaitRestart t vsys vhu warnN huOk) s fun u => u.brc.exitWait = none ∧ u.brc.restarts = satAdd 65535 s.brc.restarts 1)
  ∧ (∀ a, s.brc.exitWait = some a → s.brc.active = true → s.brc.flushing = false → 5000000 ≤ max s.now t - a →
    Completes (.braceExit t) s fun u => u.brc.active = false ∧ u.brc.exitWait = none ∧ u.brc.images = [])

/-- Jobs of the Crypto Units (R474 to R477, R483 to R488): a job of each operation that passes its checks is queued with the context
that it allocates or names; a GCM decryption gets its hold buffer; a job for random bytes leaves the queue with its result written. -/
def Obligations.CryptoJobs : Prop := ∀ (t k : Nat) (d : List Byte) (s : State),
  (cjCheck s k (pageOf s k) d = none → tfind (fun _ j => j.seg == k / 4 && waitsHold j) s.cry.jobs = none →
    ((cjTake k (opIs 1) (tick t s)).1 = some d → Completes (.cryptoInit t k) s fun u => ∃ j, tget s.cry.nextJob u.cry.jobs = some j
      ∧ j.desc = d ∧ j.core = k ∧ j.page = pageOf s k ∧ (cjOp d = 1 → j.slot = tfree (k / 4 * 64) 64 s.cry.ctxs))
    ∧ ((cjTake k (opIs 2) (tick t s)).1 = some d → Completes (.cryptoUpdate t k) s fun u => ∃ j, tget s.cry.nextJob u.cry.jobs = some j
      ∧ j.desc = d ∧ j.core = k ∧ j.page = pageOf s k ∧ (cjOp d = 2 → j.slot = (ctxOf s (k / 4) (pageOf s k) (cjCtx d)).map (·.1)))
    ∧ ((cjTake k (opIs 3) (tick t s)).1 = some d → Completes (.cryptoFinal t k) s fun u => ∃ j, tget s.cry.nextJob u.cry.jobs = some j
      ∧ j.desc = d ∧ j.core = k ∧ j.page = pageOf s k ∧ (cjOp d = 3 → j.slot = (ctxOf s (k / 4) (pageOf s k) (cjCtx d)).map (·.1)))
    ∧ ((cjTake k (opIs 4) (tick t s)).1 = some d → Completes (.cryptoFree t k) s fun u => ∃ j, tget s.cry.nextJob u.cry.jobs = some j
      ∧ j.desc = d ∧ j.core = k ∧ j.page = pageOf s k ∧ (cjOp d = 4 → j.slot = (ctxOf s (k / 4) (pageOf s k) (cjCtx d)).map (·.1)))
    ∧ ((cjTake k (opIs 5) (tick t s)).1 = some d → Completes (.cryptoOneshot t k) s fun u => ∃ j, tget s.cry.nextJob u.cry.jobs = some j
      ∧ j.desc = d ∧ j.core = k ∧ j.page = pageOf s k ∧ (cjOp d = 5 → j.slot = tfree (k / 4 * 64) 64 s.cry.ctxs))
    ∧ ((cjTake k (opIs 6) (tick t s)).1 = some d → Completes (.cryptoChainCheck t k) s fun u => ∃ j, tget s.cry.nextJob u.cry.jobs = some j
      ∧ j.desc = d ∧ j.core = k ∧ j.page = pageOf s k ∧ (cjOp d = 6 → j.slot = tfree (k / 4 * 64) 64 s.cry.ctxs))
    ∧ ((cjTake k (opIs 7) (tick t s)).1 = some d → Completes (.cryptoRandom t k) s fun u => ∃ j, tget s.cry.nextJob u.cry.jobs = some j
      ∧ j.desc = d ∧ j.core = k ∧ j.page = pageOf s k ∧ j.hold = none))
  ∧ (∀ seg n j, tfind (fun _ j => j.seg == seg && waitsHold j) s.cry.jobs = some (n, j) → holdUsed s seg + holdNeed j.desc ≤ 262144 →
    Completes (.gcmHoldGrant t seg) s fun u => tget n u.cry.jobs = some { j with hold := some (holdNeed j.desc) })
  ∧ (∀ n j differ flags lane finds, finds.any (·.dbl) = false → tget n s.cry.jobs = some j → cjOp j.desc = 7 → j.slot = none → onEngine s n j = true → s.brc.active = false → sleepOf s j.seg = 0 → rngReady s = true →
    cjBusOk s j = true → mapOk s (j.core / 4) (cjRes j.desc) 16 true = true → nbit (tgetD 3 (j.core / 4) s.dsp.role) (j.core % 4) = true →
    Memory.wf s.dxr.mem = true → Completes (.cryptoJobComplete t n false differ flags lane finds) s fun u => u.cry.jobs = tdel n s.cry.jobs
      ∧ readMem u (j.core / 4) (cjRes j.desc) 16 = cjBytes 0 none 0 0 (8 * cjWords j.desc))

/-- Zeroization, the random generator, export keys and the Crypto control register (R496, R499, R505, R507 to R509, R511): an alarm
raises DT58, destroys the export keys and FN_SALTs and starts the re-derivation, which ends 100 µs after the last alarm; a failed
health test raises DT60 and withholds output until the tests pass again; a function's export key is set and cleared. -/
def Obligations.KeysAndNoise : Prop := ∀ (t : Nat) (s : State),
  (∀ n, Completes (.tamperAlarm t n) s fun u => Logged 58 u ∧ u.cry.expKeys = [] ∧ u.cry.fnSalts = [] ∧ u.cry.rederive = true ∧ u.life.heldSalt = none)
  ∧ (s.cry.rederive = true → 100000 ≤ max s.now t - s.cry.lastAlarm → s.life.busy = false → s.life.chal = false →
    Completes (.keyRederive t) s fun u => u.cry.rederive = false ∧ u.cry.expKeys = s.cry.expKeys)
  ∧ (s.integ.armed = false → s.integ.bypass = none → Completes (.rngHealthFail t) s fun u => Logged 60 u ∧ u.cry.rngOk = false)
  ∧ (s.life.busy = false → s.life.chal = false → Completes (.rngRecovered t) s fun u => u.cry.rngOk = true)
  ∧ exec (.drbgReseed t) s = .next (draw (tick t s))
  ∧ (∀ f, s.boot.plain = false → fnReady s f = true → Completes (.exportKeySet t f) s fun u =>
      tget f u.cry.expKeys = some ((List.range 8).flatMap fun i => le 4 (word s (Reg.fnkExpkey f i)).toNat))
  ∧ (∀ f, s.boot.plain = false → fnReady s f = true → Completes (.exportKeyClear t f) s fun u => u.cry.expKeys = tdel f s.cry.expKeys)
  ∧ (∀ w be, s.life.lstate = .blank → exec (.cryCtrlWrite t w be) s = .next (writeCommon Reg.cryCtrl w be (tick t s)))

/-- SPDM over DOE (R502 to R504, R781; the formats are those of DSP0274, which the manual cites; log 42): each request of a supported
version is answered from boot step 8 on, and request and answer join what a later signature covers. -/
def Obligations.Attestation : Prop := ∀ (t : Nat) (req : List Byte) (s : State), s.boot.cfgReady = true →
  (Completes (.spdmGetVersion t req) s fun u =>
    u.out = .doe (pack [(1, 0x10), (1, 4), (1, 0), (1, 0), (1, 0), (1, 2), (2, 0x1200), (2, 0x1300)]) :: s.out
    ∧ u.cry.spdm = req ++ pack [(1, 0x10), (1, 4), (1, 0), (1, 0), (1, 0), (1, 2), (2, 0x1200), (2, 0x1300)])
  ∧ (spdmVersion req = true → Completes (.spdmGetCapabilities t req) s fun u => u.out = .doe (spdmHead req 0x61 0 0
      ++ pack [(1, 0), (1, 0), (2, 0), (4, 0x16), (4, Config.spdmSizes.1), (4, Config.spdmSizes.2)]) :: s.out)
  ∧ (spdmVersion req = true → Completes (.spdmNegotiateAlgorithms t req) s fun u => u.out = .doe (spdmHead req 0x63 0 0
      ++ pack [(2, 36), (1, 1), (1, 0), (4, 4), (4, 0x80), (4, 2), (12, 0), (1, 0), (1, 0), (2, 0)]) :: s.out)
  ∧ (spdmVersion req = true → attestOk s = true → Completes (.spdmGetDigests t req) s fun u =>
      u.out = .doe (spdmHead req 1 0 1 ++ fit 48 (Config.sha384 (Config.spdmChain (certChain s)))) :: s.out)
  ∧ (∀ chain part, spdmVersion req = true → attestOk s = true → chain = Config.spdmChain (certChain s) → fld req 2 1 % 16 = 0 → fld req 4 2 < chain.length →
      part = (chain.drop (fld req 4 2)).take (fld req 6 2) → Completes (.spdmGetCertificate t req) s fun u =>
      u.out = .doe (spdmHead req 2 0 0 ++ pack [(2, part.length), (2, chain.length - fld req 4 2 - part.length)] ++ part) :: s.out)
  ∧ (spdmVersion req = true → attestOk s = true → rngReady s = true → fld req 2 1 = 0 → Completes (.spdmChallenge t req) s fun u =>
      ∃ nonce sig, nonce.length = 32 ∧ sig.length = 96 ∧ u.out = .doe (spdmHead req 3 0 1 ++ fit 48 (Config.sha384 (Config.spdmChain (certChain s))) ++ nonce
        ++ (if fld req 3 1 = 0 then [] else fit 48 (Config.sha384 ([1, 2, 3, 4, 5].flatMap (measBlock s)))) ++ pack [(2, 0)] ++ reqContext req 36 ++ sig) :: s.out)
  ∧ (spdmVersion req = true → rngReady s = true → fld req 3 1 = 0xFF → nbit (fld req 2 1) 0 = false → Completes (.spdmGetMeasurements t req) s fun u =>
      ∃ nonce, nonce.length = 32 ∧ u.out = .doe (spdmHead req 0x60 0 0 ++ pack [(1, 5), (3, ([1, 2, 3, 4, 5].flatMap (measBlock s)).length)]
        ++ [1, 2, 3, 4, 5].flatMap (measBlock s) ++ nonce ++ pack [(2, 0)] ++ reqContext req 4) :: s.out)

/-- BUNDLE_ISSUE of a bundle that holds one syllable (R525, R531, R532, R543, R567, R570 to R573, R577, R580): a syllable whose guard is
false does nothing, an ALU operation, a move, a compare and a multiply write their result register, a store writes memory at its
effective address, a load reads it, and a branch transfers control. No other core's registers change. -/
def Obligations.DexarBundles : Prop := ∀ (t k : Nat) (way : Issue) (w : Nat) (x : Syl) (s : State),
  Issues k way s → decodeAt s k way = .ok { words := w, rep := none, syls := [x] } →
  let c := issuedCore (max s.now t) way (coreOf s k)
  (x.acts c = false → Completes (.bundleIssue t k way) s fun u => coreOf u k = passedCore w c c ∧ u.dxr.mem = s.dxr.mem)
  ∧ (x.acts c = true → x.slot ≠ 5 →
    (∀ op f d a b, x.op = .alu op f d a b → Completes (.bundleIssue t k way) s fun u =>
      coreOf u k = passedCore w c { c.setG d (aluRes op (c.greg a) (b.get c) (flagC c.flags)).1 with
        flags := if f then (aluRes op (c.greg a) (b.get c) (flagC c.flags)).2 else c.flags }
      ∧ u.dxr.mem = s.dxr.mem ∧ ∀ j, j ≠ k → coreOf u j = coreOf s j)
    ∧ (∀ d v, x.op = .movi d v → Completes (.bundleIssue t k way) s fun u =>
      coreOf u k = passedCore w c (c.setG d v) ∧ u.dxr.mem = s.dxr.mem)
    ∧ (∀ op p a b, x.op = .cmp op p a b → Completes (.bundleIssue t k way) s fun u =>
      coreOf u k = passedCore w c (c.setP p (cmpRes op (c.greg a) (b.get c))) ∧ u.dxr.mem = s.dxr.mem)
    ∧ (∀ d a b, x.op = .mul .mul d a b → Completes (.bundleIssue t k way) s fun u =>
      coreOf u k = passedCore w c (c.setG d (c.greg a * c.greg b)) ∧ u.dxr.mem = s.dxr.mem)
    ∧ (∀ n v r key a, x.op = .store n v r → (r.ea c n).1 % n = 0 → (r.ea c n).1 < 0x1000000 →
      localTarget k (!isHouse s k) .store (r.ea c n).1 n = some (.mem key a) → Memory.wf s.dxr.mem = true →
      Completes (.bundleIssue t k way) s fun u =>
        readMem u key a n = le n (c.greg v).toNat ∧ coreOf u k = passedCore w c (applyMove c r n c)
        ∧ (∀ b m, b + m ≤ a ∨ a + n ≤ b → readMem u key b m = readMem s key b m) ∧ (∀ j b m, j ≠ key → readMem u j b m = readMem s j b m)
        ∧ ∀ j, j ≠ k → coreOf u j = coreOf s j)
    ∧ (∀ n sg d r key a, x.op = .load n sg d r → (r.ea c n).1 % n = 0 → (r.ea c n).1 < 0x1000000 →
      localTarget k (!isHouse s k) .load (r.ea c n).1 n = some (.mem key a) →
      Completes (.bundleIssue t k way) s fun u =>
        coreOf u k = passedCore w c ((applyMove c r n c).setG d
          (if sg then sx (8 * n) (BitVec.ofNat 64 (unle (readMem s key a n))) else BitVec.ofNat 64 (unle (readMem s key a n))))
        ∧ u.dxr.mem = s.dxr.mem))
  ∧ (∀ off, x.acts c = true → x.slot = 5 → x.op = .br off false → c.ldepth = 0 → Completes (.bundleIssue t k way) s fun u =>
      coreOf u k = { c with pc := BitVec.ofInt 32 (c.pc.toNat + off), retired := c.retired + 1 } ∧ u.dxr.mem = s.dxr.mem)

/-- Exceptions of a house core, the end of a run whose budget is spent, passes of REP, and GET (R543, R546, R552, R555, R558, R559, R561,
R609, R622): a bundle that may not issue, or an event, saves the core's state and continues at its vector, and inside a handler the
core stops; the expiry of a budget completes PROG_RUN with 0x0604; a REP bundle captures its count, a pass counts it down, and the
last pass goes on to the next bundle; and a core that waits in GET receives the item's token and content. -/
def Obligations.CoreEvents : Prop := ∀ (t k : Nat) (way : Issue) (s : State),
  (∀ e, Issues k way s → isHouse s k = true → decodeAt s k way = .error e → e.code < 0x10 → e.code ≠ 0xA → e.code ≠ 9 →
    let c := { coreOf s k with cycle := (coreOf s k).cycle + BitVec.ofNat 48 way.cycles, issuedAt := max s.now t }
    (c.exl = false → Completes (.bundleIssue t k way) s fun u => ∃ a, (∀ x, e.eaddr = some x → a = x) ∧ coreOf u k = trappedCore e a c.pc.toNat c)
    ∧ (c.exl = true → Completes (.bundleIssue t k way) s fun u => coreOf u k = { c with st := .stopped }))
  ∧ (isHouse s k = true → mayBreak s k = true → (coreOf s k).ie = true → (coreOf s k).exl = false →
    Completes (.eventException t k) s fun u => ∃ a, coreOf u k = { trappedCore { code := 0x11, slot := 7, eaddr := none } a (coreOf s k).pc.toNat (coreOf s k) with
      st := .running })
  ∧ (∀ r x c, (coreOf s k).run = some r → tget r s.dsp.runs = some x → isHouse s k = false → mayBreak s k = true → budgetLeft (tick t s) k = 0 →
    tget x.id s.rge.flights = some c → CanPost s c →
    Completes (.budgetException t k) s fun u => Posted c 0x0604 0 u ∧ u.dsp.runs = tdel r s.dsp.runs)
  ∧ (∀ b n, Issues k way s → decodeAt s k way = .ok b → b.rep = some n → (coreOf s k).repact = false →
    let c := { coreOf s k with cycle := (coreOf s k).cycle + BitVec.ofNat 48 way.cycles, issuedAt := max s.now t }
    (n.get c).setWidth 32 ≠ 0#32 → Completes (.bundleIssue t k way) s fun u => coreOf u k = { c.setPs 15 15 1 with repc := (n.get c).setWidth 32 })
  ∧ (∀ w n x op f d a b, Issues k way s → repeating (coreOf s k) = true →
    decodeBundle (!isHouse s k) (fetchFromPc s k (coreOf s k).pc.toNat 8) = .ok { words := w, rep := some n, syls := [x] } →
    x.op = .alu op f d a b → x.slot ≠ 5 →
    let c := { coreOf s k with cycle := (coreOf s k).cycle + BitVec.ofNat 48 way.cycles, issuedAt := max s.now t }
    x.acts c = true →
    let m := { c.setG d (aluRes op (c.greg a) (b.get c) (flagC c.flags)).1 with
      flags := if f then (aluRes op (c.greg a) (b.get c) (flagC c.flags)).2 else c.flags, repc := c.repc - 1, retired := c.retired + 1 }
    (c.repc ≠ 1 → Completes (.repPass t k way) s fun u => coreOf u k = m)
    ∧ (c.repc = 1 → Completes (.repPass t k way) s fun u => coreOf u k = passedCore w c (m.setPs 15 15 0)))
  ∧ (∀ seg key i w x d a, longestWait (tick t s) seg = some k → findItem (tick t s) k ((coreOf s k).get.getD (0, 0)).2 = some (key, i) →
    decodeBundle (!isHouse s k) (coreOf s k).getWords = .ok { words := w, rep := none, syls := [x] } → x.op = .get d a → x.slot = 5 → x.acts (coreOf s k) = true →
    (coreOf s k).get = some (d, ((coreOf s k).greg a).toNat % 2 ^ 32) →
    Completes (.getDeliver t seg) s fun u =>
      (coreOf u k).g = ((coreOf s k).setG d (BitVec.ofNat 64 (tokenOf key i))).g
      ∧ (coreOf u k).mailbox = fit 64 i.content ∧ (coreOf u k).item = some key ∧ (coreOf u k).st = .running
      ∧ tget key u.dsp.items = some { i with place := .service k })

/-- The Dispatcher's hand-overs and runs (R595, R601, R603 to R607, R614, R615, R622): a post enters its list under a token and writes
POSTSTAT, or writes the status that refuses it; DONE ends the service of the token's item, and another token sets TOKEN_WR; a due
item is released with SOURCE 6, or its sleeping Segment wakes; a run at the head of its queue starts at ENTRY with its arguments and
windows; and a store to EXIT completes its PROG_RUN with the value. -/
def Obligations.DispatcherWork : Prop := ∀ (t k : Nat) (s : State),
  (∀ pre post content p due, s.dxr.hands = pre ++ Hand.post k content p due :: post → (∀ h ∈ pre, h.core ≠ k) → k ≠ rindCore →
    (coreOf s k).st ≠ .held →
    (phdrBad (!isHouse s k) p = true → Completes (.dispatcherPost t k) s fun u => (coreOf u k).poststat = 0x0103 ∧ u.dsp = s.dsp)
    ∧ (phdrBad (!isHouse s k) p = false → postRun s k p = none → Completes (.dispatcherPost t k) s fun u => (coreOf u k).poststat = 0x0106 ∧ u.dsp = s.dsp)
    ∧ (∀ run key, phdrBad (!isHouse s k) p = false → postRun s k p = some run → (∀ r, run = some r → runItemRoom s (k / 4) r = true) →
      listFull s (k / 4) (postPlace (tick t s) (nbits p 9 8) due) = false → freeItem s (k / 4) = some key →
      Completes (.dispatcherPost t k) s fun u => (coreOf u k).poststat = 0
        ∧ tget key u.dsp.items = some { content := fit 64 content, kind := nbits p 47 32, flow := nbits p 31 16, prio := nbits p 2 0, seq := tgetD 0 key s.dsp.seqs, source := 0, aff := if run.isSome then 0 else nbits p 7 4, run := run, place := postPlace (tick t s) (nbits p 9 8) due, order := s.dsp.order }
        ∧ u.dxr.hands = pre ++ post))
  ∧ (∀ pre post token key i, s.dxr.hands = pre ++ Hand.done k token :: post → (∀ h ∈ pre, h.core ≠ k) → (coreOf s k).st ≠ .held →
    (coreOf s k).item = some key → tget key s.dsp.items = some i →
    (token = tokenOf key i → Completes (.dispatcherDone t k) s fun u => (coreOf u k).item = none ∧ u.dsp.items = tdel key s.dsp.items)
    ∧ (token ≠ tokenOf key i → Completes (.dispatcherDone t k) s fun u => u.regs = (setFlag Reg.dspStatus 30 s).regs ∧ u.dsp = s.dsp))
  ∧ (∀ seg key i d o, tget key s.dsp.items = some i → key / 4096 = seg → i.place = .tick d o → d ≤ evTime (tick t s) →
    (sleepOf s seg = 0 → Completes (.delayRelease t seg) s fun u => ∃ n, tget key u.dsp.items = some { i with source := 6, place := .ready n })
    ∧ (sleepOf s seg ≠ 0 → seg ≠ rindx → Completes (.delayRelease t seg) s fun u => seg ∈ u.pwr.waking ∧ u.dsp = s.dsp))
  ∧ (∀ seg w3 w4 r x p, headRun s seg = some (r, x) → tget x.slot s.dsp.progs = some p → rescue s = false → s.brc.active = false → s.pwr.shed = false →
    k ∈ guestCores s seg → (coreOf s k).run = none → corePowered s k = true → inStartWindow (tick t s) = true →
    grantW3 s seg w3 (imgSram p.image) = true → grantW4 s seg w4 (imgDram p.image) = true → (coreOf (clearCore k s) k).st = .held →
    Completes (.runStart t seg k w3 w4) s fun u => (coreOf u k).run = some r ∧ (coreOf u k).pc = BitVec.ofNat 32 (imgEntry p.image)
      ∧ (coreOf u k).st = .running
      ∧ tget r u.dsp.runs = some { x with w3 := w3, w3len := imgSram p.image, w4 := w4, w4len := imgDram p.image, core := some k, released := max s.now t, heldNs := 0, heldAt := none })
  ∧ (∀ pre post v r x c, s.dxr.hands = pre ++ Hand.exit k v :: post → (∀ h ∈ pre, h.core ≠ k) → (coreOf s k).run = some r →
    tget r s.dsp.runs = some x → tget x.id s.rge.flights = some c → CanPost s c →
    Completes (.runExit t k) s fun u => Posted c 0 v u ∧ u.dsp.runs = tdel r s.dsp.runs)

/-- The Power Manager (R708 to R713, R716 to R720, R723 to R725): a clock is gated and nothing else; the governor decides once per
interval for each enabled Segment; a settled rail switches the Segment that waited, and one that does not settle in time sets its
flag and gives the request up; a domain enters the next deeper state, wakes, and runs; the sensors' readings are kept; and the throttle steps
a cap by one and shed begins and ends. -/
def Obligations.PowerManager : Prop := ∀ (t n : Nat) (s : State),
  (∀ c, tget n s.dxr.cores = some c → c.st = .waiting → Completes (.coreClockGate t n) s fun u =>
    u.dxr = { s.dxr with cores := tput n { c with gated := true } s.dxr.cores } ∧ u.pwr = s.pwr)
  ∧ (∀ busy, fieldOf s Reg.pwmGov 23 16 * 1000000 ≤ max s.now t - s.pwr.govAt → Completes (.governorDecision t busy) s fun u =>
    u.pwr.govAt = max s.now t ∧ ∀ k, k ∈ segs s → tget k u.pwr.proposal = some (propose s k (busy.getD k (0, 1))))
  ∧ (∀ r, s.pwr.raising = [(n, r)] → targetLevel s n = r.level → levelOf s n ≠ r.level → r.level ≤ s.pwr.volt →
    Completes (.vregSettled t) s fun u => u.pwr.level = tset 2 n r.level s.pwr.level ∧ u.pwr.raising = [])
  ∧ (∀ r, tget n s.pwr.raising = some r → fieldOf s Reg.pwmVreg 7 0 * 1000 ≤ max s.now t - r.at_ → ctr s Reg.pwmVlateLo + 1 < 2 ^ 48 →
    Completes (.vregSettleTimeout t) s fun u => u.regs = (setFlag Reg.pwmStatus 30 s).regs ∧ ctr u Reg.pwmVlateLo = ctr s Reg.pwmVlateLo + 1
      ∧ u.pwr = { s.pwr with raising := tfilter (fun _ r => decide (max s.now t - r.at_ < fieldOf s Reg.pwmVreg 7 0 * 1000)) s.pwr.raising })
  ∧ (maySleep (tick t s) n (sleepOf s n + 1) = true → Completes (.segmentSleepEntry t n) s fun u =>
    sleepOf u n = sleepOf s n + 1 ∧ ∀ k, k ≠ n → sleepOf u k = sleepOf s k)
  ∧ (rindMaySleep (tick t s) (s.pwr.rindSleep + 1) = true → Completes (.rindSleepEntry t) s fun u =>
    u.pwr = { s.pwr with rindSleep := s.pwr.rindSleep + 1, sleepAt := tput rindx (max s.now t) s.pwr.sleepAt })
  ∧ (domSleep s n ≠ 0 → Completes (.domainWake t n) s fun u => n ∈ u.pwr.waking ∧ domSleep u n = domSleep s n)
  ∧ (n ∈ s.pwr.waking → n ≠ rindx → domSleep s n ≠ 0 → Completes (.wakeComplete t n) s fun u =>
    u.pwr.sleep = tdel n s.pwr.sleep ∧ u.pwr.held = tdel n s.pwr.held ∧ n ∉ u.pwr.waking)
  ∧ (rindx ∈ s.pwr.waking → s.pwr.rindSleep ≠ 0 → Completes (.wakeComplete t rindx) s fun u => u.pwr.rindSleep = 0 ∧ rindx ∉ u.pwr.waking)
  ∧ (tgetD 0 n s.pwr.zone = 1 → 10000000 ≤ max s.now t - tgetD 0 n s.pwr.stepAt → capOf s n < 3 → Completes (.throttleStep t n) s fun u =>
    u.pwr.cap = tset 0 n (capOf s n + 1) s.pwr.cap)
  ∧ (tgetD 0 n s.pwr.zone = 2 → 100000000 ≤ max s.now t - tgetD 0 n s.pwr.stepAt → 0 < capOf s n → Completes (.throttleStep t n) s fun u =>
    u.pwr.cap = tset 0 n (capOf s n - 1) s.pwr.cap)
  ∧ (∀ a, tget n s.pwr.hotSince = some a → 1000000 ≤ max s.now t - a → s.pwr.shed = false → Completes (.thermalShedBegin t) s fun u => u.pwr.shed = true)
  ∧ (∀ a, s.pwr.coolSince = some a → 100000000 ≤ max s.now t - a → s.pwr.shed = true → Completes (.thermalShedEnd t) s fun u => u.pwr.shed = false)
  ∧ (∀ reads, Completes (.tempSample t reads) s fun u => u.pwr.tempAt = max s.now t ∧ ∃ add, (add = 0 ∨ add = 80) ∧
      u.pwr.temps = (List.range 5).foldl (fun m k => tset 0 k (reads.getD k 0 + add) m) s.pwr.temps)

/-- The Data Mover channels (R412, R658, R660 to R666): a descriptor that passes its checks is queued on its channel, and one that fails
ends with its status in its result; the descriptor at a channel's head, when its channel has its turn, writes its bytes, then its result; a unit whose CRC differs is
read again; and a failure of a record halts the channel. -/
def Obligations.DataMoverChannels : Prop := ∀ (t k : Nat) (s : State),
  (∀ c op pre post p d, (c, op) ∈ [(Instr.dmCopy t k, 1), (.dmHostRead t k, 2), (.dmHostWrite t k, 3), (.dmRecordRead t k, 4), (.dmFill t k, 5)] →
    s.dxr.hands = pre ++ Hand.channel k p d :: post → (∀ h ∈ pre, h.core ≠ k) →
    (dmOp d = op → dmCheck s k (chanKey k p) d = none → Completes c s fun u =>
      (tgetD {} (chanKey k p) u.mov.chans).queue = (tgetD {} (chanKey k p) s.mov.chans).queue
        ++ [{ desc := d, func := dmFn s k d, guest := !isHouse s k, core := k, run := (coreOf s k).run }]
      ∧ u.dxr.hands = pre ++ post)
    ∧ (∀ st, (dmOp d = op ∨ dmOp d = 0 ∨ 5 < dmOp d) → dmCheck s k (chanKey k p) d = some st → st ≠ 0x0605 → nbit (tgetD 3 (k / 4) s.dsp.role) (k % 4) = true →
      mapOk s (k / 4) (dmRes d) 16 true = true → Memory.wf s.dxr.mem = true → Completes c s fun u =>
      readMem u (k / 4) (dmRes d) 16 = dmBytes st none 0 (Config.crc32c []) ∧ u.mov.chans = s.mov.chans))
  ∧ (∀ seg n x l differ units dram sram w tn z, let c := seg * 64 + n % 64
    (tgetD {} c s.mov.chans).queue = x :: l → (dmRunnable (tgetD {} c s.mov.chans)).isSome → sleepOf s seg = 0 → dmTurn s seg c units x = true →
    dmFinds seg dram sram (dmNext seg c (tick t s)) = (false, w) → w.integ.armed = false → w.integ.bypass = none → dmRead x w = (tn, z) →
    (differ = true → (tgetD {} c w.mov.chans).retries < 2 → Completes (.dmDescriptorComplete t seg n differ units dram sram) s fun u =>
      tgetD {} c u.mov.chans = { tgetD {} c w.mov.chans with retries := (tgetD {} c w.mov.chans).retries + 1 })
    ∧ (∀ b, differ = false → tn = false → dmSource z seg x = .inr b → (dmOp x.desc = 3 ∨ mapOk z seg (dmDst x.desc) b.length true = true) →
      nbit (tgetD 3 (x.core / 4) z.dsp.role) (x.core % 4) = true → x.core / 4 = seg → mapOk z seg (dmRes x.desc) 16 true = true → Memory.wf z.dxr.mem = true →
      (tgetD {} c z.mov.chans).queue = x :: l →
      Completes (.dmDescriptorComplete t seg n differ units dram sram) s fun u =>
        tgetD {} c u.mov.chans = { queue := l, halted := false, retries := 0 }
        ∧ readMem u seg (dmRes x.desc) 16 = dmBytes (if dmFlag x.desc 1 && Config.crc32c b != fld x.desc 32 4 then 0x0203 else 0)
            (if dmFlag x.desc 1 then some (Config.crc32c b == fld x.desc 32 4) else none) b.length (Config.crc32c b)
        ∧ (dmOp x.desc = 3 → Out.host x.func (dmDst x.desc) b ∈ u.out)
        ∧ (dmOp x.desc ≠ 3 → dmRes x.desc + 16 ≤ dmDst x.desc ∨ dmDst x.desc + b.length ≤ dmRes x.desc → readMem u seg (dmDst x.desc) b.length = b))
    ∧ (∀ st, differ = false → dmSource z seg x = .inl st → dmOp x.desc = 4 → (tgetD {} c z.mov.chans).queue = x :: l →
      Completes (.dmDescriptorComplete t seg n differ units dram sram) s fun u =>
        tgetD {} c u.mov.chans = { queue := l, halted := true, retries := 0 }))

/-- The control of Data Mover channels, the host windows and the DRAM channels (R631, R636, R637, R651 to R654, R666): RESUME restarts a
channel or ends all it has queued; a host-window register is written while no run of the function is under way; zero-filling ends;
a training step that is due and has the channel's token runs; refreshes are postponed or issued; RFM lowers a bank's activation
count; an activated row is counted and opened and its neighbours are refreshed at the threshold (after the requests that came before it, R645 to R648); and a refresh window clears the tables. -/
def Obligations.ChannelControlAndDram : Prop := ∀ (t k : Nat) (s : State),
  (∀ pre post p v, s.dxr.hands = pre ++ Hand.resume k p v :: post → (∀ h ∈ pre, h.core ≠ k) →
    (v = 0 → Completes (.dmResume t k) s fun u => tgetD {} (chanKey k p) u.mov.chans = { tgetD {} (chanKey k p) s.mov.chans with halted := false })
    ∧ (1 < v → Completes (.dmResume t k) s fun u => u.mov = s.mov)
    ∧ (v = 1 → Completes (.dmAbandon t k) s fun u =>
      tgetD {} (chanKey k p) u.mov.chans = { queue := [], halted := false, retries := 0 }))
  ∧ (∀ f o w be, s.boot.plain = false → fnReady s f = true →
    (tany (fun _ x => x.fn == f) s.dsp.runs = true → Completes (.dspfHwWrite t f o w be) s fun u => u.regs = (setFlag (Reg.dspfStatus f) 30 s).regs)
    ∧ (tany (fun _ x => x.fn == f) s.dsp.runs = false → Completes (.dspfHwWrite t f o w be) s fun u =>
      u.regs = (writeCommon (bar0 f + 0x200 + o % 0x40 / 4 * 4) w be s).regs))
  ∧ ((dramOf s k).filling = true → Completes (.dramZeroFill t k) s fun u => dramOf u k = { dramOf s k with filling := false })
  ∧ ((dramOf s k).trained = true → s.brc.active = false → sleepOf s k ≤ 1 → classSWaits (dramOf s k) = false → tokenFree s 1 (dramRes k) = true →
    (fieldOf s Reg.drmTrain 15 0 * 1000000 ≤ max s.now t - (dramOf s k).zqAt → Completes (.dramZqCalibration t k) s fun u =>
      dramOf u k = { dramOf s k with zqAt := max s.now t } ∧ Out.dram k "ZQ" ∈ u.out)
    ∧ (∀ temp, fieldOf s Reg.drmTrain 23 16 < absDiff temp (dramOf s k).centred → Completes (.dramRecentre t k temp) s fun u =>
      dramOf u k = { dramOf s k with centred := temp } ∧ Out.dram k "DQ" ∈ u.out))
  ∧ ((dramOf s k).trained = true → sleepOf s k ≤ 1 →
    ((dramOf s k).postponed < 4 → Completes (.dramRefresh t k true) s fun u => dramOf u k = { dramOf s k with postponed := (dramOf s k).postponed + 1 })
    ∧ Completes (.dramRefresh t k false) s fun u => Out.dram k "REF" ∈ u.out ∧ (dramOf u k).postponed = 0
      ∧ ∀ b x, tget b (dramOf s k).banks = some x → tget b (dramOf u k).banks = some { x with raa := x.raa - ((dramOf s k).postponed + 1) * (dramOf s k).raaimt, row := none, hits := 0 })
  ∧ (∀ b, 0 < (dramOf s k).raaimt → (dramOf s k).raaimt ≤ (tgetD {} b (dramOf s k).banks).raa → Completes (.dramRfm t k b) s fun u =>
      tgetD {} b (dramOf u k).banks = { tgetD {} b (dramOf s k).banks with raa := (tgetD {} b (dramOf s k).banks).raa - (dramOf s k).raaimt } ∧ Out.dram k "RFM" ∈ u.out)
  ∧ (∀ b row reqs slots, segOn s k = true → (dramOf s k).trained = true → let z := dramOf (dramServe k reqs slots (tick t s)) k
      let x := tgetD {} b z.banks
      x.queued = [] → x.rat.length < 16 → (∀ p ∈ x.rat, p.1 ≠ row) → raaRoom z 1 x = true →
      (1 < fieldOf s Reg.drmRat 15 0 → Completes (.neighbourRefresh t k b [row] reqs slots) s fun u =>
        tgetD {} b (dramOf u k).banks = { x with rat := x.rat ++ [(row, 1)], raa := x.raa + 1, row := some row, hits := 0 })
      ∧ (fieldOf s Reg.drmRat 15 0 ≤ 1 → raaRoom z (1 + 2 * fieldOf s Reg.drmRat 17 16) x = true → Completes (.neighbourRefresh t k b [row] reqs slots) s fun u =>
        (tgetD {} b (dramOf u k).banks).raa = x.raa + 1 + 2 * fieldOf s Reg.drmRat 17 16 ∧ Out.dram k "NBR" ∈ u.out))
  ∧ (32000000 ≤ max s.now t - (dramOf s k).windowAt → Completes (.ratWindowClear t k) s fun u =>
      (dramOf u k).windowAt = max s.now t ∧ ∀ b x, tget b (dramOf s k).banks = some x → tget b (dramOf u k).banks = some { x with rat := [] })

/-- The Pith Array's command ports (R676 to R678, R681 to R684): two keys in a row add an unlock, any other value or 100 µs without a
command locks the port; a command from a port not listed for it ends with code 2, one without its unlocks with code 1; an admitted
one uses the unlocks that it needs and starts its operation on the idle bank; an erase is suspended, and resumes anew. -/
def Obligations.PithPorts : Prop := ∀ (t p : Nat) (s : State),
  ((portOf s p).firstKey = false → Completes (.pthKeyWrite t p 0x0000A5C3) s fun u =>
    (portOf u p).firstKey = true ∧ (portOf u p).keys = (portOf s p).keys ∧ u.regs = s.regs)
  ∧ ((portOf s p).firstKey = true → Completes (.pthKeyWrite t p 0x00005A3C) s fun u =>
    (portOf u p).firstKey = false ∧ (portOf u p).keys = (portOf s p).keys ++ [max s.now t] ∧ u.regs = s.regs)
  ∧ (∀ v, v ≠ 0x0000A5C3 → v ≠ 0x00005A3C → Completes (.pthKeyWrite t p v) s fun u =>
    (portOf u p).firstKey = false ∧ (portOf u p).keys = [] ∧ u.regs = (if p = 0 then setFlag Reg.pthStatus 30 s else s).regs)
  ∧ (∀ a l, (portOf s p).keys = a :: l → 100000 ≤ max s.now t - a → Completes (.pithUnlockTimeout t p) s fun u =>
    (portOf u p).firstKey = false ∧ (portOf u p).keys = [] ∧ u.regs = (if p = 0 then setFlag Reg.pthStatus 30 s else s).regs)
  ∧ (∀ code c sec page us b typ ix data, (code, c) ∈ [(0x10, Instr.pageProgram t p sec page us), (0x20, .sectorErase t p sec), (0x21, .eraseSuspend t p b),
      (0x22, .eraseResume t p b), (0x30, .blankCheck t p sec), (0x40, .paramPut t p typ ix data), (0x41, .paramDelete t p typ ix), (0x42, .paramGet t p typ ix)] →
    (portAllowed code p = false → Completes c s fun u => (portOf u p).code = 2 ∧ (portOf u p).done = true ∧ (portOf u p).busy = false)
    ∧ (portAllowed code p = true → admitted (tick t s) p (unlocksFor code) = false → Completes c s fun u =>
      (portOf u p).code = 1 ∧ (portOf u p).done = true ∧ (portOf u p).keys = [] ∧ (portOf u p).firstKey = false
        ∧ u.regs = (if p = 0 then setFlag Reg.pthStatus 30 s else s).regs))
  ∧ (∀ sec page us, portAllowed 0x10 p = true → admitted (tick t s) p 1 = true → sec < 1024 → page < 256 →
      (∀ x ∈ us, x.1 < 8 ∧ tget (unitNo sec page x.1) s.pith.units = none) → bankOp s (sec / 128) = .idle → writerIn s (sec / 128) = false →
      s.pins.vppOk = true → (∀ w ∈ s.pith.waiting, w.2.1 ≠ sec / 128) → ((journalIndex sec).isSome → tokenFree s 4 (pithRes (sec / 128)) = true) →
      Completes (.pageProgram t p sec page us) s fun u =>
      bankOp u (sec / 128) = .program sec page us p (max s.now t) ∧ (portOf u p).busy = true ∧ (portOf u p).keys = (portOf s p).keys.drop 1)
  ∧ (∀ sec, portAllowed 0x20 p = true → admitted (tick t s) p 2 = true → sec < 1024 → bankOp s (sec / 128) = .idle → writerIn s (sec / 128) = false →
      s.pins.vppOk = true → (∀ w ∈ s.pith.waiting, w.2.1 ≠ sec / 128) → ((journalIndex sec).isSome → tokenFree s 4 (pithRes (sec / 128)) = true) →
      Completes (.sectorErase t p sec) s fun u =>
      bankOp u (sec / 128) = .erase sec p (max s.now t) false false ∧ (portOf u p).busy = true ∧ (portOf u p).keys = (portOf s p).keys.drop 2)
  ∧ (∀ b se po st ag, portAllowed 0x21 p = true → bankOp s b = .erase se po st false ag →
      Completes (.eraseSuspend t p b) s fun u => bankOp u b = .erase se po st true ag ∧ (portOf u p).code = 0 ∧ (portOf u p).done = true)
  ∧ (∀ b se po st ag, portAllowed 0x22 p = true → bankOp s b = .erase se po st true ag →
      Completes (.eraseResume t p b) s fun u => bankOp u b = .erase se po (max s.now t) false ag ∧ (portOf u p).code = 0 ∧ (portOf u p).done = true)
  ∧ (∀ sec, portAllowed 0x30 p = true → sec < 1024 → Completes (.blankCheck t p sec) s fun u =>
      (portOf u p).code = 0 ∧ (portOf u p).done = true ∧ u.regs = (setWord Reg.pthLen (BitVec.ofNat 32 (b2n (sectorBlank s sec))) s).regs)

/-- What the Pith Array's operations leave (R678, R683, R687, R689, R690, R697, R698): a completed erase leaves the sector blank, or is
repeated once and then retires it with DT62; a program stores its units or raises DT62; parameter records are put, deleted and read;
the journal's first entry is programmed and becomes durable; a new epoch rewrites the live entries and moves the head. -/
def Obligations.PithContents : Prop := ∀ (t : Nat) (s : State),
  (∀ b se po st, bankOp s b = .erase se po st false false →
    (Completes (.pithEraseComplete t b true) s fun u => sectorBlank u se = true
      ∧ (po ≠ writerPort → (portOf u po).code = 0 ∧ (portOf u po).done = true) ∧ (po = writerPort → u.pith.ready = s.pith.ready + 1)
      ∧ tget se u.pith.erases = some (tgetD 0 se s.pith.erases + 1)
      ∧ u.pith.units = tfilter (fun n _ => n / 2048 != se) s.pith.units ∧ u.pith.jd = s.pith.jd.filter (fun e => journalSector e.sector != se))
    ∧ Completes (.pithEraseComplete t b false) s fun u => bankOp u b = .erase se po (max s.now t) false true)
  ∧ (∀ b se po st, bankOp s b = .erase se po st false true → bypassed (tick t s) 62 = false → Completes (.pithEraseComplete t b false) s fun u =>
      Logged 62 u ∧ se ∈ u.pith.retired ∧ (po ≠ writerPort → (portOf u po).code = 5 ∧ (portOf u po).done = true))
  ∧ (∀ b se pg po st us, bankOp s b = .program se pg us po st → s.integ.armed = false →
    (Completes (.pithProgramComplete t b true) s fun u => (portOf u po).code = 0
      ∧ u.pith.units = us.foldl (fun m x => tput (unitNo se pg x.1) (.data (fit 32 x.2)) m) s.pith.units)
    ∧ (bypassed (tick t s) 62 = false → Completes (.pithProgramComplete t b false) s fun u => (portOf u po).code = 5 ∧ Logged 62 u ∧ u.pith.units = s.pith.units))
  ∧ (∀ b e, (∀ se pg us po st, bankOp s b ≠ .program se pg us po st) → s.pith.jprog = some e → journalBank e.sector = b → s.integ.armed = false →
    (Completes (.pithProgramComplete t b true) s fun u => u.pith.jd = s.pith.jd ++ [e] ∧ u.pith.jprog = none)
    ∧ (bypassed (tick t s) 62 = false → Completes (.pithProgramComplete t b false) s fun u =>
      Logged 62 u ∧ u.pith.jd = s.pith.jd ∧ u.pith.jq = e :: s.pith.jq ∧ u.pith.jprog = none))
  ∧ (∀ e rest n, s.pith.jq = e :: rest → s.pith.jprog = none → s.pins.vppOk = true → rateOk (tick t s) (entryBytes e) = true →
      n = (placeEntry e { s.pith with jq := rest }).1.sector → bankFree s (journalBank n) = true → (n = s.pith.jsec ∨ 0 < s.pith.ready) →
      Completes (.journalProgram t) s fun u => u.pith.jq = rest ∧ u.pith.jseq = s.pith.jseq + 1 ∧
        (∃ e', u.pith.jprog = some e' ∧ e'.jseq = s.pith.jseq ∧ e'.etype = e.etype ∧ e'.src = e.src ∧ e'.body = e.body ∧ e'.sector = u.pith.jsec)
        ∧ ∀ se po st ag, bankOp s (journalBank n) = .erase se po st false ag → bankOp u (journalBank n) = .erase se po st true ag)
  ∧ (freeSectors s < fieldOf s Reg.pthJcfg 23 16 → s.pith.jprog = none → s.pins.vppOk = true → Completes (.newEpoch t) s fun u =>
      ∃ e l, u.pith.jd = e :: l ∧ e.etype = 10 ∧ e.jseq = s.pith.jseq ∧ e.body = pack [(8, s.pith.epoch + 1), (8, prevEpochStart s)]
        ∧ l.map (fun x => (x.etype, x.src, x.body)) = (epochEntries s).map (fun x => (x.etype, x.src, x.body))
        ∧ u.pith.epoch = s.pith.epoch + 1 ∧ u.pith.jhead = e.sector
        ∧ ∃ c, vote (triadOf u 4 0) = .value c ∧ c.value = fit 24 (epochHead e (s.pith.epoch + 1)))
  ∧ (∀ p typ ix data d, portAllowed 0x40 p = true → admitted (tick t s) p 1 = true → (p = 0 → s.brc.active = false ∧ paramByHost s typ = true) →
      d = (if p = 0 then slice s.pith.stage 0 (bits (word s Reg.pthLen) 12 0) else data) → paramIndexOk typ ix = true → paramLenOk typ d.length = true →
      s.pins.vppOk = true → s.pith.waitPuts = [] → paramBytes (tput (typ * 256 + ix) d s.pith.params) ≤ 65504 → Completes (.paramPut t p typ ix data) s fun u =>
        u.pith.params = tput (typ * 256 + ix) d s.pith.params ∧ u.pith.pgen = (s.pith.pgen + 1) % 2 ^ 32 ∧ u.pith.pvalid = true
        ∧ (portOf u p).code = 0 ∧ (portOf u p).done = true ∧ (portOf u p).keys = (portOf s p).keys.drop 1)
  ∧ (∀ p typ ix, portAllowed 0x41 p = true → admitted (tick t s) p 1 = true → (p = 0 → s.brc.active = false ∧ paramByHost s typ = true) →
      s.pins.vppOk = true → s.pith.waitPuts = [] →
      (tget (typ * 256 + ix) s.pith.params = none → Completes (.paramDelete t p typ ix) s fun u => u.pith.params = s.pith.params ∧ (portOf u p).code = 6)
      ∧ (tget (typ * 256 + ix) s.pith.params ≠ none → Completes (.paramDelete t p typ ix) s fun u =>
        u.pith.params = tdel (typ * 256 + ix) s.pith.params ∧ u.pith.pgen = (s.pith.pgen + 1) % 2 ^ 32 ∧ (portOf u p).code = 0))
  ∧ (∀ p typ ix, portAllowed 0x42 p = true → (p = 0 → s.brc.active = false) → s.pith.waitPuts = [] →
      (tget (typ * 256 + ix) s.pith.params = none → Completes (.paramGet t p typ ix) s fun u => (portOf u p).code = 6 ∧ u.pith.stage = s.pith.stage)
      ∧ (∀ d, tget (typ * 256 + ix) s.pith.params = some d → Completes (.paramGet t p typ ix) s fun u => (portOf u p).code = 0 ∧
        (p = 0 → u.pith.stage = patch s.pith.stage 0 d ∧ u.regs = (setWord Reg.pthLen (BitVec.ofNat 32 d.length) s).regs)))

/-- The lifecycle commands (R733 to R740, R742 to R744, R746, R750): one not listed for the state ends with code 1, one without its
confirmation with code 4, one issued while another is in progress or under BRACE with code 3, each with nothing changed but the cleared
confirmation; one that its checks pass takes the part to its state, writes the lifecycle word, and closes any debug session. -/
def Obligations.LifecycleCommands : Prop := ∀ (t : Nat) (s : State), flagOf s Reg.lcsCtrl 31 = false →
  (∀ c op, (c, op) ∈ [(Instr.lcsPrepare t, 1), (.lcsProvision t, 2), (.lcsSeal t, 3), (.lcsVaultEnter t, 4), (.lcsReturn t, 5), (.lcsScrap t, 6), (.lcsChallenge t, 7)] →
    (lcsListed s op = false → Completes c s fun u =>
      u.life = { s.life with confirm := none, done := true, code := 1 } ∧ u.pith = s.pith ∧ u.dbg = s.dbg ∧ u.history = s.history)
    ∧ (lcsListed s op = true → (op = 2 → s.life.prepared = true) → (lcsConfirmValue op).isSome = true → s.life.confirm ≠ lcsConfirmValue op → Completes c s fun u =>
      u.life = { s.life with confirm := none, done := true, code := 4 } ∧ u.pith = s.pith ∧ u.dbg = s.dbg ∧ u.history = s.history)
    ∧ (lcsListed s op = true → (op = 2 → s.life.prepared = true) → (lcsConfirmValue op = none ∨ s.life.confirm = lcsConfirmValue op) →
      op ≠ 7 → (s.brc.active = true ∨ s.life.busy = true) → Completes c s fun u =>
      u.life = { s.life with confirm := none, done := true, code := 3 } ∧ u.pith = s.pith ∧ u.dbg = s.dbg ∧ u.history = s.history))
  ∧ (s.life.lstate = .blank → lcsBusy s 1 = false → rngReady s = true → Completes (.lcsPrepare t) s fun u =>
    ∃ salt, salt.length = 16 ∧ u.life.heldSalt = some salt ∧ u.life.prepared = true ∧ u.life.win = patch s.life.win 0 (fit 97 (Config.attestQ salt))
      ∧ u.life.lstate = .blank ∧ u.life.code = 0 ∧ u.life.done = true ∧ u.pith = s.pith ∧ u.regs = (setWord Reg.lcsLen 97 s).regs)
  ∧ (s.life.lstate = .blank → s.life.prepared = true → lcsBusy s 2 = false → s.integ.armed = false →
    (chainFits s (lcsBytes s 4092) = true → s.pins.vppOk = true → Completes (.lcsProvision t) s fun u => u.life.lstate = .provisioned ∧ u.life.since = s.cad.frame
      ∧ tget 0x700 u.pith.params = some (lcsBytes s 4092) ∧ u.dbg.level = .closed ∧ u.life.code = 0 ∧ u.life.done = true)
    ∧ (chainFits s (lcsBytes s 4092) = false → Completes (.lcsProvision t) s fun u => Logged 61 u ∧ u.life.lstate = .blank ∧ u.life.code = 2 ∧ u.pith = s.pith))
  ∧ (s.life.lstate = .provisioned → s.life.confirm = some 0x4C414553 → lcsBusy s 3 = false → s.pins.vppOk = true → Completes (.lcsSeal t) s fun u =>
    u.life.lstate = .sealed ∧ u.life.since = s.cad.frame ∧ u.life.vault = s.life.vault ∧ u.dbg.level = .closed ∧ u.life.code = 0 ∧ u.life.done = true
    ∧ ∃ c, vote (triadOf u 1 0) = .value c ∧ c.value = fit 24 (lifeValue { s.life with lstate := .sealed, since := s.cad.frame }))
  ∧ ((s.life.lstate = .provisioned ∨ s.life.lstate = .sealed) → s.life.confirm = some 0x544C4156 → lcsBusy s 4 = false →
    (s.life.vault = true → Completes (.lcsVaultEnter t) s fun u => u.life = { s.life with confirm := none, busy := false, op := 0, done := true, code := 0 }
      ∧ u.pith = s.pith ∧ u.history = s.history)
    ∧ (s.life.vault = false → s.pins.vppOk = true → Completes (.lcsVaultEnter t) s fun u => u.life.vault = true ∧ u.life.vaultFrame = s.cad.frame
      ∧ u.life.lstate = s.life.lstate ∧ u.dbg.level ≠ .full ∧ u.life.code = 0 ∧ u.life.done = true
      ∧ ∃ c, vote (triadOf u 1 0) = .value c ∧ c.value = fit 24 (lifeValue { s.life with vault := true, vaultFrame := s.cad.frame })))
  ∧ (lcsListed s 5 = true → s.life.confirm = some 0x4E525452 → lcsBusy s 5 = false → s.integ.armed = false →
    (s.life.vault = false → s.pins.vppOk = true → Completes (.lcsReturn t) s fun u => u.life.lstate = .returned ∧ u.life.since = s.cad.frame
      ∧ u.life.vault = false ∧ u.dbg.level = .closed ∧ u.life.code = 0 ∧ u.life.done = true)
    ∧ (s.life.vault = true → s.pins.vppOk = true → grantsOff s = false → grantFits s (lcsBytes s 4096) [3] = true → Completes (.lcsReturn t) s fun u =>
      u.life.lstate = .returned ∧ u.life.vault = false ∧ u.life.nonceOk = false ∧ u.dbg.level = .closed ∧ u.life.code = 0)
    ∧ (s.life.vault = true → grantsOff s = false → grantFits s (lcsBytes s 4096) [3] = false → Completes (.lcsReturn t) s fun u => Logged 61 u
      ∧ u.life.lstate = s.life.lstate ∧ u.life.vault = true ∧ u.life.nonceOk = false ∧ u.life.refusals = s.life.refusals + 1 ∧ u.life.code = 2 ∧ u.pith = s.pith))
  ∧ (s.life.lstate = .returned → s.life.confirm = some 0x50415253 → lcsBusy s 6 = false → s.pins.vppOk = true → Completes (.lcsScrap t) s fun u =>
    u.life.lstate = .scrapped ∧ u.life.drkCut = true ∧ u.dbg.level = .closed ∧ u.life.code = 0 ∧ u.life.done = true
    ∧ ∃ c, vote (triadOf u 1 0) = .value c ∧ c.value = fit 24 (lifeValue { s.life with lstate := .scrapped, since := s.cad.frame }))
  ∧ (s.life.lstate ≠ .scrapped →
    (rngReady s = true → Completes (.lcsChallenge t) s fun u => u.life.nonceOk = true ∧ u.life.nonce = fit 32 (Config.random s.draws 32)
      ∧ u.draws = s.draws + 1 ∧ u.life.code = 0 ∧ u.life.done = true ∧ u.life.lstate = s.life.lstate)
    ∧ (rngReady s = false → Completes (.lcsChallenge t) s fun u => u.life.chal = true ∧ u.life.done = false ∧ u.life.nonce = s.life.nonce))

/-- The Pith Array's supply (R792): while it is out of range a lifecycle command and a parameter record wait; when it returns, the operation
that waits for an idle bank starts, and the command in progress ends. -/
def Obligations.PithSupply : Prop := ∀ (t : Nat) (s : State),
  exec (.vppPithRangeChange t false) s = .next { tick t s with pins := { s.pins with vppOk := false } }
  ∧ (s.life.chal = false → s.life.busy = false → s.pith.waitPuts = [] → ∀ p b o, b < 8 → bankOp s b = .idle → s.pith.waiting = [(p, b, o)] → o ≠ .idle → opMayStart s b o = true →
    Completes (.vppPithRangeChange t true) s fun u => u.pins.vppOk = true ∧ bankOp u b = restart (max s.now t) o ∧ u.pith.waiting = [])
  ∧ (flagOf s Reg.lcsCtrl 31 = false → s.life.lstate = .provisioned → s.life.confirm = some 0x4C414553 → lcsBusy s 3 = false → s.pins.vppOk = false →
    Completes (.lcsSeal t) s fun u => u.life.busy = true ∧ u.life.op = 3 ∧ u.life.done = false ∧ u.life.lstate = .provisioned)
  ∧ (s.life.chal = false → s.life.busy = true → s.life.op = 3 → s.life.lstate = .provisioned → s.pith.waitPuts = [] → s.pith.waiting = [] →
    Completes (.vppPithRangeChange t true) s fun u => u.life.lstate = .sealed ∧ u.life.busy = false ∧ u.life.done = true ∧ u.life.code = 0)

/-- Register writes over the link (R2, R8, R721, R775, R817, R819 to R822): none has an effect before boot step 8; one to an absent
Segment is discarded and logged by DT07, one to a sleeping Segment is held; an unassigned offset sets `RSVD_WR`; a writable field takes
the nearest value of its range, an RWL field of a locked block keeps its value; a write of 1 to LOCK sets it. -/
def Obligations.RegisterWrites : Prop := ∀ (t a be : Nat) (v : Word) (s : State),
  (s.boot.cfgReady = false → exec (.registerWrite t a v be) s = .next (tick t s) ∧ ∀ blk, exec (.blockLock t blk v be) s = .next (tick t s))
  ∧ (s.boot.cfgReady = true →
    (∀ n, a < 0x1000000 → regSeg a = some n → segOn s n = false → Completes (.registerWrite t a v be) s fun u => Logged 7 u)
    ∧ (∀ n, a < 0x1000000 → regSeg a = some n → segOn s n = true → 2 ≤ sleepOf s n → (tgetD [] n s.pwr.held).length < 64 →
      Completes (.registerWrite t a v be) s fun u => tgetD [] n u.pwr.held = tgetD [] n s.pwr.held ++ [(a, v, be)])
    ∧ (a / 0x10000 = 3 → regAt a = none → Completes (.registerWrite t a v be) s fun u => u.regs = (setFlag Reg.cadStatus 31 s).regs ∧ Only [.now, .regs] s u)
    ∧ (flagOf s Reg.cadCtrl 31 = false → Completes (.registerWrite t Reg.cadTol v 15) s fun u =>
      u.regs = (setWord Reg.cadTol (BitVec.ofNat 32 (clamp 100 10000 v.toNat)) s).regs ∧ Only [.now, .regs] s u)
    ∧ (flagOf s Reg.cadCtrl 31 = true → Completes (.registerWrite t Reg.cadTol v be) s fun u =>
      u.regs = (setWord Reg.cadTol (word s Reg.cadTol) s).regs ∧ Only [.now, .regs] s u)
    ∧ (∀ blk, nbit v.toNat 31 = true → nbit be 3 = true → exec (.blockLock t blk v be) s = exec (.registerWrite t (0x10000 * blk) v be) s)
    ∧ Completes (.blockLock t 1 0x80000000 8) s fun u => ∃ w : Word, nbit w.toNat 31 = true ∧ u.regs = (setWord Reg.lcsCtrl w s).regs
      ∧ u.life = { s.life with confirm := none } ∧ Only [.now, .regs, .life] s u)

/-- While the Cadence Unit is LOCKED, an edge that arrives before half of the adopted period has passed since the last boundary changes nothing
but the note of the last edge seen (R830) and `CAD_GLITCH`, which counts it (R19). The unit is LOCKED in the modes that follow CAD_IN only. -/
def Obligations.GlitchEdge : Prop := ∀ (t : Nat) (s : State), s.cad.st = .locked → s.cad.mode ≠ .master → s.integ.armed = false →
  2 * (max s.now t - s.cad.frameStart) < s.cad.period → ctr s Reg.cadGlitch < 0xFFFFFFFE →
  ∀ finds, Completes (.cadInEdge t finds) s fun u => u.cad = { s.cad with anyEdge := some (max s.now t) } ∧ ctr u Reg.cadGlitch = ctr s Reg.cadGlitch + 1
    ∧ u.integ.log = s.integ.log
    ∧ Only [.now, .cad, .ctrs, .integ] s u

/-- A doorbell base register written while the function has a ring created: the write is ignored and `FN_STATUS.BUSY_WR` is set (R73);
a write of 1 to a reserved bit also sets `RSVD_WR`, as any such write does (R8). The Plain controller has no such registers. -/
def Obligations.DoorbellBaseBusy : Prop := ∀ (t f be : Nat) (hi : Bool) (v : Word) (s : State), s.boot.plain = false → hasRing s f = true →
  Completes (.doorbellBaseWrite t f hi v be) s fun u =>
    u.regs = (flagReserved (if hi then Reg.fnDbHi f else Reg.fnDbLo f) v be (setFlag (Reg.fnStatus f) 30 s)).regs ∧ Only [.now, .regs] s u

/-- A lifecycle command other than CHALLENGE that its state lists and its confirmation admits ends with result code 3 while BRACE is active,
while another lifecycle command is in progress, and, for RETURN and SCRAP, while any command is in flight or any guest run is queued or
running (R736). -/
def Obligations.LifecycleBusy : Prop := ∀ (t op : Nat) (c : Instr) (s : State),
  (c, op) ∈ [(Instr.lcsPrepare t, 1), (.lcsProvision t, 2), (.lcsSeal t, 3), (.lcsVaultEnter t, 4), (.lcsReturn t, 5), (.lcsScrap t, 6)] →
  flagOf s Reg.lcsCtrl 31 = false → lcsListed s op = true → (op = 2 → s.life.prepared = true) →
  (lcsConfirmValue op = none ∨ s.life.confirm = lcsConfirmValue op) →
  (s.brc.active = true ∨ s.life.busy = true ∨ ((op = 5 ∨ op = 6) ∧ (s.rge.flights ≠ [] ∨ s.cmd.nvme.held ≠ [] ∨ s.dsp.runs ≠ []))) →
  Completes c s fun u => u.life = { s.life with confirm := none, done := true, code := 3 } ∧ Only [.now, .life] s u

/-- A PAGE_PROGRAM that its port admits and that names a unit which is not erased ends with result code 2; the unit and every other unit keep their
contents, and no bank starts an operation (R673). -/
def Obligations.UnitProgrammedOnce : Prop := ∀ (t p sec page : Nat) (us : List (Nat × List Byte)) (s : State),
  portAllowed 0x10 p = true → admitted (tick t s) p 1 = true → (∃ x ∈ us, tget (unitNo sec page x.1) s.pith.units ≠ none) →
  Completes (.pageProgram t p sec page us) s fun u => (portOf u p).code = 2 ∧ (portOf u p).done = true ∧ u.pith.units = s.pith.units
    ∧ u.pith.ops = s.pith.ops ∧ u.pith.waiting = s.pith.waiting
end

