-- ==== Sys2Proof/Laws/Shown.lean ====
section
/-!
SUPPORT. How frames are proved. `shown kp s` is the state with every part masked that `kp` does not keep; two states that show the
same agree on every part kept. An operation that changes only masked parts shows the same after as before, and such equations chain
by rewriting.
-/

namespace Sys2Proof.Machine

/-- A part, if it is kept. -/
def keep {α : Type} (b : Bool) (x : α) : Option α := if b then some x else none

/-- The parts of a state, each kept or masked. -/
structure Shown where
  pending : Option (List Instr)
  now : Option (Nat)
  draws : Option (Nat)
  regs : Option (Tab Word)
  loaded : Option (Tab Word)
  ctrs : Option (Tab Nat)
  snaps : Option (Tab Nat)
  cad : Option (Cad)
  rge : Option (Rge)
  integ : Option (Integ)
  pith : Option (Pith)
  life : Option (Life)
  dbg : Option (Dbg)
  boot : Option (Boot)
  pins : Option (Pins)
  health : Option (Health)
  cmd : Option (CmdSt)
  cry : Option (Cry)
  brc : Option (Brc)
  zst : Option (Zst)
  flw : Option (Flw)
  med : Option (Med)
  pwr : Option (Pwr)
  dxr : Option (Dxr)
  dsp : Option (Dsp)
  mov : Option (Mov)
  errs : Option (Tab (List ErrEntry))
  errCounts : Option (Tab Nat)
  history : Option (List Notice)
  out : Option (List Out)
  powered : Option (Bool)
  inReset : Option (Bool)
  testMode : Option (Bool)
  floor : Option (Nat)
  vault : Option (Bool)
  lstate : Option (LState)
  drkCut : Option (Bool)
  level : Option (DLevel)
  harvest : Option (Bool)
  mem : Option (Tab (List Host.Cell))

/-- What a mask leaves of a state. -/
def shown (k : Area → Bool) (s : State) : Shown :=
  { pending := keep (k .pending) s.pending,
    now := keep (k .now) s.now,
    draws := keep (k .draws) s.draws,
    regs := keep (k .regs) s.regs,
    loaded := keep (k .loaded) s.loaded,
    ctrs := keep (k .ctrs) s.ctrs,
    snaps := keep (k .snaps) s.snaps,
    cad := keep (k .cad) s.cad,
    rge := keep (k .rge) s.rge,
    integ := keep (k .integ) s.integ,
    pith := keep (k .pith) s.pith,
    life := keep (k .life) s.life,
    dbg := keep (k .dbg) s.dbg,
    boot := keep (k .boot) s.boot,
    pins := keep (k .pins) s.pins,
    health := keep (k .health) s.health,
    cmd := keep (k .cmd) s.cmd,
    cry := keep (k .cry) s.cry,
    brc := keep (k .brc) s.brc,
    zst := keep (k .zst) s.zst,
    flw := keep (k .flw) s.flw,
    med := keep (k .med) s.med,
    pwr := keep (k .pwr) s.pwr,
    dxr := keep (k .dxr) s.dxr,
    dsp := keep (k .dsp) s.dsp,
    mov := keep (k .mov) s.mov,
    errs := keep (k .errs) s.errs,
    errCounts := keep (k .errCounts) s.errCounts,
    history := keep (k .history) s.history,
    out := keep (k .out) s.out,
    powered := keep (k .powered) s.boot.powered,
    inReset := keep (k .inReset) s.boot.inReset,
    testMode := keep (k .testMode) s.boot.testMode,
    floor := keep (k .floor) s.boot.floor,
    vault := keep (k .vault) s.life.vault,
    lstate := keep (k .lstate) s.life.lstate,
    drkCut := keep (k .drkCut) s.life.drkCut,
    level := keep (k .level) s.dbg.level,
    harvest := keep (k .harvest) s.med.harvest,
    mem := keep (k .mem) s.dxr.mem }

/-- A mask keeps none of these parts. -/
def Off (k : Area → Bool) (l : List Area) : Prop := ∀ p ∈ l, k p = false

theorem off_nil {k : Area → Bool} : Off k [] = True := by simp [Off]
theorem off_cons {k : Area → Bool} {p : Area} {l : List Area} : Off k (p :: l) = (k p = false ∧ Off k l) := by simp [Off]

@[simp] theorem off_nil_iff {k : Area → Bool} : Off k [] := by simp [Off]
@[simp] theorem off_cons_iff {k : Area → Bool} {p : Area} {l : List Area} : Off k (p :: l) ↔ k p = false ∧ Off k l := by simp [Off]

@[simp] theorem keep_false {α : Type} (x : α) : keep false x = none := rfl

@[simp] theorem after_next (u s : State) : after (.next u) s = u := rfl
@[simp] theorem after_ite (c : Prop) [Decidable c] (a b : Host.Outcome State Fault Refusal) (s : State) : after (if c then a else b) s = if c then after a s else after b s := by
  split <;> rfl
@[simp] theorem shown_ite {k : Area → Bool} (c : Prop) [Decidable c] (a b : State) : shown k (if c then a else b) = if c then shown k a else shown k b := by
  split <;> rfl
@[simp] theorem snd_ite {α β : Type} (c : Prop) [Decidable c] (a b : α × β) : (if c then a else b).2 = if c then a.2 else b.2 := by
  split <;> rfl
@[simp] theorem shown_foldl {k : Area → Bool} {α : Type} (f : State → α → State) (l : List α) (h : ∀ s a, shown k (f s a) = shown k s) (s : State) :
    shown k (l.foldl f s) = shown k s := by
  induction l generalizing s with
  | nil => rfl
  | cons a t ih => simp [ih, h]
@[simp] theorem shown_foldl_snd {k : Area → Bool} {α β : Type} (f : β × State → α → β × State) (l : List α) (h : ∀ a x, shown k (f a x).2 = shown k a.2) (a : β × State) :
    shown k (l.foldl f a).2 = shown k a.2 := by
  induction l generalizing a with
  | nil => rfl
  | cons x t ih => simp [ih, h]
/-- What the state of a pair shows, where the pair has been taken apart. -/
theorem shown_of_pair {k : Area → Bool} {α : Type} {p : α × State} {a : α} {b s : State} (h : p = (a, b)) (e : shown k p.2 = shown k s) : shown k b = shown k s := by
  rw [h] at e; exact e
@[simp] theorem shown_id {k : Area → Bool} (f : State → State) (c : Prop) [Decidable c] (s : State) : shown k ((if c then f else id) s) = if c then shown k (f s) else shown k s := by
  split <;> rfl

@[simp] theorem shown_set_pending {kp : Area → Bool} (s : State) (v : List Instr) (hk : kp .pending = false)  : shown kp { s with pending := v } = shown kp s := by
  simp [shown, hk]

@[simp] theorem shown_set_now {kp : Area → Bool} (s : State) (v : Nat) (hk : kp .now = false)  : shown kp { s with now := v } = shown kp s := by
  simp [shown, hk]

@[simp] theorem shown_set_draws {kp : Area → Bool} (s : State) (v : Nat) (hk : kp .draws = false)  : shown kp { s with draws := v } = shown kp s := by
  simp [shown, hk]

@[simp] theorem shown_set_regs {kp : Area → Bool} (s : State) (v : Tab Word) (hk : kp .regs = false)  : shown kp { s with regs := v } = shown kp s := by
  simp [shown, hk]

@[simp] theorem shown_set_loaded {kp : Area → Bool} (s : State) (v : Tab Word) (hk : kp .loaded = false)  : shown kp { s with loaded := v } = shown kp s := by
  simp [shown, hk]

@[simp] theorem shown_set_ctrs {kp : Area → Bool} (s : State) (v : Tab Nat) (hk : kp .ctrs = false)  : shown kp { s with ctrs := v } = shown kp s := by
  simp [shown, hk]

@[simp] theorem shown_set_snaps {kp : Area → Bool} (s : State) (v : Tab Nat) (hk : kp .snaps = false)  : shown kp { s with snaps := v } = shown kp s := by
  simp [shown, hk]

@[simp] theorem shown_set_cad {kp : Area → Bool} (s : State) (v : Cad) (hk : kp .cad = false)  : shown kp { s with cad := v } = shown kp s := by
  simp [shown, hk]

@[simp] theorem shown_set_rge {kp : Area → Bool} (s : State) (v : Rge) (hk : kp .rge = false)  : shown kp { s with rge := v } = shown kp s := by
  simp [shown, hk]

@[simp] theorem shown_set_integ {kp : Area → Bool} (s : State) (v : Integ) (hk : kp .integ = false)  : shown kp { s with integ := v } = shown kp s := by
  simp [shown, hk]

@[simp] theorem shown_set_pith {kp : Area → Bool} (s : State) (v : Pith) (hk : kp .pith = false)  : shown kp { s with pith := v } = shown kp s := by
  simp [shown, hk]

@[simp] theorem shown_set_life {kp : Area → Bool} (s : State) (v : Life) (hk : kp .life = false) (h0 : kp .vault = false ∨ v.vault = s.life.vault) (h1 : kp .lstate = false ∨ v.lstate = s.life.lstate) (h2 : kp .drkCut = false ∨ v.drkCut = s.life.drkCut) : shown kp { s with life := v } = shown kp s := by
  have e0 : keep (kp .vault) v.vault = keep (kp .vault) s.life.vault := by rcases h0 with e | e <;> simp [e]
  have e1 : keep (kp .lstate) v.lstate = keep (kp .lstate) s.life.lstate := by rcases h1 with e | e <;> simp [e]
  have e2 : keep (kp .drkCut) v.drkCut = keep (kp .drkCut) s.life.drkCut := by rcases h2 with e | e <;> simp [e]
  simp [shown, hk, e0, e1, e2]

@[simp] theorem shown_set_dbg {kp : Area → Bool} (s : State) (v : Dbg) (hk : kp .dbg = false) (h0 : kp .level = false ∨ v.level = s.dbg.level) : shown kp { s with dbg := v } = shown kp s := by
  have e0 : keep (kp .level) v.level = keep (kp .level) s.dbg.level := by rcases h0 with e | e <;> simp [e]
  simp [shown, hk, e0]

@[simp] theorem shown_set_boot {kp : Area → Bool} (s : State) (v : Boot) (hk : kp .boot = false) (h0 : kp .powered = false ∨ v.powered = s.boot.powered) (h1 : kp .inReset = false ∨ v.inReset = s.boot.inReset) (h2 : kp .testMode = false ∨ v.testMode = s.boot.testMode) (h3 : kp .floor = false ∨ v.floor = s.boot.floor) : shown kp { s with boot := v } = shown kp s := by
  have e0 : keep (kp .powered) v.powered = keep (kp .powered) s.boot.powered := by rcases h0 with e | e <;> simp [e]
  have e1 : keep (kp .inReset) v.inReset = keep (kp .inReset) s.boot.inReset := by rcases h1 with e | e <;> simp [e]
  have e2 : keep (kp .testMode) v.testMode = keep (kp .testMode) s.boot.testMode := by rcases h2 with e | e <;> simp [e]
  have e3 : keep (kp .floor) v.floor = keep (kp .floor) s.boot.floor := by rcases h3 with e | e <;> simp [e]
  simp [shown, hk, e0, e1, e2, e3]

@[simp] theorem shown_set_pins {kp : Area → Bool} (s : State) (v : Pins) (hk : kp .pins = false)  : shown kp { s with pins := v } = shown kp s := by
  simp [shown, hk]

@[simp] theorem shown_set_health {kp : Area → Bool} (s : State) (v : Health) (hk : kp .health = false)  : shown kp { s with health := v } = shown kp s := by
  simp [shown, hk]

@[simp] theorem shown_set_cmd {kp : Area → Bool} (s : State) (v : CmdSt) (hk : kp .cmd = false)  : shown kp { s with cmd := v } = shown kp s := by
  simp [shown, hk]

@[simp] theorem shown_set_cry {kp : Area → Bool} (s : State) (v : Cry) (hk : kp .cry = false)  : shown kp { s with cry := v } = shown kp s := by
  simp [shown, hk]

@[simp] theorem shown_set_brc {kp : Area → Bool} (s : State) (v : Brc) (hk : kp .brc = false)  : shown kp { s with brc := v } = shown kp s := by
  simp [shown, hk]

@[simp] theorem shown_set_zst {kp : Area → Bool} (s : State) (v : Zst) (hk : kp .zst = false)  : shown kp { s with zst := v } = shown kp s := by
  simp [shown, hk]

@[simp] theorem shown_set_flw {kp : Area → Bool} (s : State) (v : Flw) (hk : kp .flw = false)  : shown kp { s with flw := v } = shown kp s := by
  simp [shown, hk]

@[simp] theorem shown_set_med {kp : Area → Bool} (s : State) (v : Med) (hk : kp .med = false) (h0 : kp .harvest = false ∨ v.harvest = s.med.harvest) : shown kp { s with med := v } = shown kp s := by
  have e0 : keep (kp .harvest) v.harvest = keep (kp .harvest) s.med.harvest := by rcases h0 with e | e <;> simp [e]
  simp [shown, hk, e0]

@[simp] theorem shown_set_pwr {kp : Area → Bool} (s : State) (v : Pwr) (hk : kp .pwr = false)  : shown kp { s with pwr := v } = shown kp s := by
  simp [shown, hk]

@[simp] theorem shown_set_dxr {kp : Area → Bool} (s : State) (v : Dxr) (hk : kp .dxr = false) (h0 : kp .mem = false ∨ v.mem = s.dxr.mem) : shown kp { s with dxr := v } = shown kp s := by
  have e0 : keep (kp .mem) v.mem = keep (kp .mem) s.dxr.mem := by rcases h0 with e | e <;> simp [e]
  simp [shown, hk, e0]

@[simp] theorem shown_set_dsp {kp : Area → Bool} (s : State) (v : Dsp) (hk : kp .dsp = false)  : shown kp { s with dsp := v } = shown kp s := by
  simp [shown, hk]

@[simp] theorem shown_set_mov {kp : Area → Bool} (s : State) (v : Mov) (hk : kp .mov = false)  : shown kp { s with mov := v } = shown kp s := by
  simp [shown, hk]

@[simp] theorem shown_set_errs {kp : Area → Bool} (s : State) (v : Tab (List ErrEntry)) (hk : kp .errs = false)  : shown kp { s with errs := v } = shown kp s := by
  simp [shown, hk]

@[simp] theorem shown_set_errCounts {kp : Area → Bool} (s : State) (v : Tab Nat) (hk : kp .errCounts = false)  : shown kp { s with errCounts := v } = shown kp s := by
  simp [shown, hk]

@[simp] theorem shown_set_history {kp : Area → Bool} (s : State) (v : List Notice) (hk : kp .history = false)  : shown kp { s with history := v } = shown kp s := by
  simp [shown, hk]

@[simp] theorem shown_set_out {kp : Area → Bool} (s : State) (v : List Out) (hk : kp .out = false)  : shown kp { s with out := v } = shown kp s := by
  simp [shown, hk]

@[simp] theorem keep_true {α : Type} (x : α) : keep true x = some x := rfl

theorem keep_inj {α : Type} {b : Bool} (h : b = true) {x y : α} (e : keep b x = keep b y) : x = y := by
  subst h; simpa using e

/-- States that show the same agree on every part kept. -/
theorem same_of_shown {k : Area → Bool} {s t : State} (e : shown k t = shown k s) (a : Area) (h : k a = true) : a.same s t := by
  simp only [shown, Shown.mk.injEq] at e
  cases a <;> simp only [Area.same] <;> exact keep_inj h (by simp_all)

/-- The mask that keeps every part but those listed. -/
def allBut (l : List Area) (a : Area) : Bool := !l.contains a

theorem off_allBut {l m : List Area} (h : ∀ a ∈ m, a ∈ l) : Off (allBut l) m := fun a ha => by simp [allBut, h a ha]

/-- The mask that keeps one part. -/
def one (a b : Area) : Bool := decide (a = b)
@[simp] theorem one_self (a : Area) : one a a = true := by simp [one]
@[simp] theorem one_ne {a b : Area} (h : a ≠ b) : one a b = false := by simp [one, h]

/-- A part that an operation leaves, from what the mask of it alone shows. -/
theorem of_one {a : Area} {s t : State} (e : shown (one a) t = shown (one a) s) : a.same s t := same_of_shown e a (one_self a)

/-- A frame, from what the mask of its list shows. -/
theorem only_of_shown {l : List Area} {s t : State} (e : shown (allBut l) t = shown (allBut l) s) : Only l s t := fun a h =>
  same_of_shown e a (by simp [allBut, h])

end Sys2Proof.Machine
end

