-- ==== Sys2Proof/Laws/FrameBase.lean ====
section
/-!
SUPPORT. What each operation leaves as it was: the shared operations, injection, register writes, sleep, the Pith Array and the Stone store. A lemma `f_shown` says that `f` changes
no part of the state outside the list it names; commands have theirs in this form too, of the state after them.
-/
set_option linter.unusedSimpArgs false
set_option linter.unusedVariables false
set_option linter.unusedTactic false
set_option linter.unreachableTactic false

namespace Sys2Proof.Machine

@[simp] theorem setWord_shown {kp : Area → Bool} (a : Nat) (w : Word) (s : State)
    (hk : Off kp [.regs]) : shown kp (setWord a w s) = shown kp s := by
  simp only [off_cons, off_nil, and_true] at hk
  simp (maxDischargeDepth := 9) [setWord, hk]

@[simp] theorem setField_shown {kp : Area → Bool} (a : Nat) (hi : Nat) (lo : Nat) (v : Nat) (s : State)
    (hk : Off kp [.regs]) : shown kp (setField a hi lo v s) = shown kp s := by
  simp only [off_cons, off_nil, and_true] at hk
  simp (maxDischargeDepth := 9) [setField, hk]

@[simp] theorem setFlag_shown {kp : Area → Bool} (a : Nat) (i : Nat) (s : State)
    (hk : Off kp [.regs]) : shown kp (setFlag a i s) = shown kp s := by
  simp only [off_cons, off_nil, and_true] at hk
  simp (maxDischargeDepth := 9) [setFlag, hk]

@[simp] theorem tick_shown {kp : Area → Bool} (t : Nat) (s : State) (hk : Off kp [.now]) : shown kp (tick t s) = shown kp s := by
  simp only [off_cons, off_nil, and_true] at hk
  simp (maxDischargeDepth := 9) [tick, hk]

@[simp] theorem draw_shown {kp : Area → Bool} (s : State) (hk : Off kp [.draws]) : shown kp (draw s) = shown kp s := by
  simp only [off_cons, off_nil, and_true] at hk
  simp (maxDischargeDepth := 9) [draw, hk]

@[simp] theorem onCad_shown {kp : Area → Bool} (f : Cad → Cad) (s : State)
    (hk : Off kp [.cad]) : shown kp (onCad f s) = shown kp s := by
  simp only [off_cons, off_nil, and_true] at hk
  simp (maxDischargeDepth := 9) [onCad, hk]

@[simp] theorem issueStamp_shown {kp : Area → Bool} (s : State) (hk : Off kp [.cad]) : shown kp (issueStamp s).2 = shown kp s := by
  simp only [off_cons, off_nil, and_true] at hk
  simp (maxDischargeDepth := 9) [issueStamp, hk]

@[simp] theorem emit_shown {kp : Area → Bool} (o : Out) (s : State) (hk : Off kp [.out]) : shown kp (emit o s) = shown kp s := by
  simp only [off_cons, off_nil, and_true] at hk
  simp (maxDischargeDepth := 9) [emit, hk]

@[simp] theorem onInt_shown {kp : Area → Bool} (f : Integ → Integ) (s : State)
    (hk : Off kp [.integ]) : shown kp (onInt f s) = shown kp s := by
  simp only [off_cons, off_nil, and_true] at hk
  simp (maxDischargeDepth := 9) [onInt, hk]

@[simp] theorem clearArm_shown {kp : Area → Bool} (s : State) (hk : Off kp [.regs]) : shown kp (clearArm s) = shown kp s := by
  simp only [off_cons, off_nil, and_true] at hk
  simp (maxDischargeDepth := 9) [clearArm, hk]

@[simp] theorem fireOne_shown {kp : Area → Bool} (s : State) (hk : Off kp [.regs, .integ]) : shown kp (fireOne s) = shown kp s := by
  simp only [off_cons, off_nil, and_true] at hk
  simp (maxDischargeDepth := 9) [fireOne, hk]

@[simp] theorem meet_shown {kp : Area → Bool} (k : Nat) (seg : Nat) (unit : Nat) (real : Bool) (s : State)
    (hk : Off kp [.regs, .integ]) : shown kp (meet k seg unit real s).2.2 = shown kp s := by
  simp only [off_cons, off_nil, and_true] at hk
  simp (maxDischargeDepth := 9) [meet, hk]

@[simp] theorem meetPos_shown {kp : Area → Bool} (k : Nat) (seg : Nat) (unit : Nat) (pos : Nat) (real : Bool) (s : State)
    (hk : Off kp [.regs, .integ]) : shown kp (meetPos k seg unit pos real s).2.2 = shown kp s := by
  simp only [off_cons, off_nil, and_true] at hk
  simp (maxDischargeDepth := 9) [meetPos, hk]

@[simp] theorem onRge_shown {kp : Area → Bool} (g : Rge → Rge) (s : State)
    (hk : Off kp [.rge]) : shown kp (onRge g s) = shown kp s := by
  simp only [off_cons, off_nil, and_true] at hk
  simp (maxDischargeDepth := 9) [onRge, hk]

@[simp] theorem onFunc_shown {kp : Area → Bool} (f : Nat) (g : Func → Func) (s : State)
    (hk : Off kp [.rge]) : shown kp (onFunc f g s) = shown kp s := by
  simp only [off_cons, off_nil, and_true] at hk
  simp (maxDischargeDepth := 9) [onFunc, hk]

@[simp] theorem onRing_shown {kp : Area → Bool} (k : Nat) (g : Ring → Ring) (s : State)
    (hk : Off kp [.rge]) : shown kp (onRing k g s) = shown kp s := by
  simp only [off_cons, off_nil, and_true] at hk
  simp (maxDischargeDepth := 9) [onRing, hk]

@[simp] theorem sendVector_shown {kp : Area → Bool} (f : Nat) (v : Nat) (s : State)
    (hk : Off kp [.rge, .out]) : shown kp (sendVector f v s) = shown kp s := by
  simp only [off_cons, off_nil, and_true] at hk
  unfold sendVector
  (repeat' split) <;> simp_all (maxDischargeDepth := 9)

@[simp] theorem coalesce_shown {kp : Area → Bool} (k : Nat) (s : State)
    (hk : Off kp [.rge, .out]) : shown kp (coalesce k s) = shown kp s := by
  simp only [off_cons, off_nil, and_true] at hk
  unfold coalesce
  (repeat' split) <;> simp_all (maxDischargeDepth := 9)

@[simp] theorem writeNotice_shown {kp : Area → Bool} (k : Nat) (r : Ring) (n : Notice) (s : State)
    (hk : Off kp [.rge, .out]) : shown kp (writeNotice k r n s) = shown kp s := by
  simp only [off_cons, off_nil, and_true] at hk
  simp (maxDischargeDepth := 9) [writeNotice, hk]

@[simp] theorem postCore_shown {kp : Area → Bool} (f : Nat) (typ : Nat) (src : Nat) (payload : List Byte) (s : State)
    (hk : Off kp [.regs, .rge, .integ, .history, .out]) : shown kp (postCore f typ src payload s).2 = shown kp s := by
  simp only [off_cons, off_nil, and_true] at hk
  have e : ∀ s : State, shown kp (if f = 0 then { s with history := ({ typ := typ, seq := (funcOf s f).seq, lost := (funcOf s f).lost, src := src, time := evTime s, payload := fit 16 payload } :: s.history).take 1024 } else s) = shown kp s := by
    intro s; split <;> simp [hk]
  simp only [← e s]
  unfold postCore
  simp only
  generalize (if f = 0 then { s with history := ({ typ := typ, seq := (funcOf s f).seq, lost := (funcOf s f).lost, src := src, time := evTime s, payload := fit 16 payload } :: s.history).take 1024 } else s) = s'
  (repeat' split) <;> simp [hk]

@[simp] theorem setCtr_shown {kp : Area → Bool} (a : Nat) (v : Nat) (s : State)
    (hk : Off kp [.ctrs]) : shown kp (setCtr a v s) = shown kp s := by
  simp only [off_cons, off_nil, and_true] at hk
  simp (maxDischargeDepth := 9) [setCtr, hk]

@[simp] theorem snapAll_shown {kp : Area → Bool} (l : List Nat) (s : State)
    (hk : Off kp [.snaps]) : shown kp (snapAll l s) = shown kp s := by
  simp only [off_cons, off_nil, and_true] at hk
  simp (maxDischargeDepth := 9) [snapAll, hk]

@[simp] theorem injDue_shown {kp : Area → Bool} (k : Nat) (s : State) (hk : Off kp [.integ]) : shown kp (injDue k s) = shown kp s := by
  simp only [off_cons, off_nil, and_true] at hk
  simp (maxDischargeDepth := 9) [injDue, hk]

@[simp] theorem injPast_shown {kp : Area → Bool} (k : Nat) (s : State)
    (hk : Off kp [.integ]) : shown kp (injPast k s) = shown kp s := by
  simp only [off_cons, off_nil, and_true] at hk
  simp (maxDischargeDepth := 9) [injPast, hk]

@[simp] theorem raiseCore_shown {kp : Area → Bool} (k : Nat) (x : Site) (ef : Nat) (s : State)
    (hk : Off kp [.regs, .ctrs, .rge, .integ, .history, .out]) : shown kp (raiseCore k x ef s).2 = shown kp s := by
  simp only [off_cons, off_nil, and_true] at hk
  simp (maxDischargeDepth := 9) [raiseCore, hk]
  (repeat' split) <;> simp_all (maxDischargeDepth := 9)

@[simp] theorem dropped_shown {kp : Area → Bool} (f : Nat) (ef : Nat) (s : State)
    (hk : Off kp [.regs, .ctrs, .rge, .integ, .history, .out]) : shown kp (dropped f ef s) = shown kp s := by
  simp only [off_cons, off_nil, and_true] at hk
  simp (maxDischargeDepth := 9) [dropped, hk]

@[simp] theorem raiseF_shown {kp : Area → Bool} (k : Nat) (x : Site) (ef : Nat) (s : State)
    (hk : Off kp [.regs, .ctrs, .rge, .integ, .history, .out]) : shown kp (raiseF k x ef s) = shown kp s := by
  simp only [off_cons, off_nil, and_true] at hk
  unfold raiseF
  have e := raiseCore_shown (kp := kp) k x ef s (by simp [hk])
  split <;> rename_i heq <;> simp [heq] at e <;> simp [e, hk]

@[simp] theorem raise_shown {kp : Area → Bool} (k : Nat) (x : Site) (s : State)
    (hk : Off kp [.regs, .ctrs, .rge, .integ, .history, .out]) : shown kp (raise k x s) = shown kp s := by
  simp only [off_cons, off_nil, and_true] at hk
  simp (maxDischargeDepth := 9) [raise, hk]

@[simp] theorem post_shown {kp : Area → Bool} (f : Nat) (typ : Nat) (src : Nat) (payload : List Byte) (s : State)
    (hk : Off kp [.regs, .ctrs, .rge, .integ, .history, .out]) : shown kp (post f typ src payload s) = shown kp s := by
  simp only [off_cons, off_nil, and_true] at hk
  unfold post
  have e := postCore_shown (kp := kp) f typ src payload s (by simp [hk])
  split <;> rename_i heq <;> simp [heq] at e <;> simp [e, hk]

@[simp] theorem bump_shown {kp : Area → Bool} (a : Nat) (n : Nat) (s : State)
    (hk : Off kp [.regs, .ctrs, .rge, .integ, .history, .out]) : shown kp (bump a n s) = shown kp s := by
  simp only [off_cons, off_nil, and_true] at hk
  simp (maxDischargeDepth := 9) [bump, hk]

@[simp] theorem bumpTally_shown {kp : Area → Bool} (a : Nat) (k : Nat) (x : Site) (s : State)
    (hk : Off kp [.regs, .ctrs, .rge, .integ, .history, .out]) : shown kp (bumpTally a k x s) = shown kp s := by
  simp only [off_cons, off_nil, and_true] at hk
  simp (maxDischargeDepth := 9) [bumpTally, hk]

@[simp] theorem bumpTallyQuiet_shown {kp : Area → Bool} (a : Nat) (s : State)
    (hk : Off kp [.ctrs]) : shown kp (bumpTallyQuiet a s) = shown kp s := by
  simp only [off_cons, off_nil, and_true] at hk
  simp (maxDischargeDepth := 9) [bumpTallyQuiet, hk]

@[simp] theorem onHealth_shown {kp : Area → Bool} (f : Health → Health) (s : State)
    (hk : Off kp [.health]) : shown kp (onHealth f s) = shown kp s := by
  simp only [off_cons, off_nil, and_true] at hk
  simp (maxDischargeDepth := 9) [onHealth, hk]

@[simp] theorem bumpHealth_shown {kp : Area → Bool} (k : Nat) (n : Nat) (s : State)
    (hk : Off kp [.regs, .ctrs, .rge, .integ, .health, .history, .out]) : shown kp (bumpHealth k n s) = shown kp s := by
  simp only [off_cons, off_nil, and_true] at hk
  simp (maxDischargeDepth := 9) [bumpHealth, hk]

@[simp] theorem bumpHealthBy_shown {kp : Area → Bool} (k : Nat) (u : Nat) (n : Nat) (s : State)
    (hk : Off kp [.regs, .ctrs, .rge, .integ, .health, .history, .out]) : shown kp (bumpHealthBy k u n s) = shown kp s := by
  simp only [off_cons, off_nil, and_true] at hk
  simp (maxDischargeDepth := 9) [bumpHealthBy, hk]

@[simp] theorem healthNotice_shown {kp : Area → Bool} (kind : Nat) (seg : Nat) (arg : Nat) (value : Nat) (s : State)
    (hk : Off kp [.regs, .ctrs, .rge, .integ, .history, .out]) : shown kp (healthNotice kind seg arg value s) = shown kp s := by
  simp only [off_cons, off_nil, and_true] at hk
  simp (maxDischargeDepth := 9) [healthNotice, hk]

@[simp] theorem alertLow_shown {kp : Area → Bool} (s : State) (hk : Off kp [.pins, .out]) : shown kp (alertLow s) = shown kp s := by
  simp only [off_cons, off_nil, and_true] at hk
  simp (maxDischargeDepth := 9) [alertLow, hk]

@[simp] theorem critEvent_shown {kp : Area → Bool} (bit : Nat) (info : Nat) (s : State)
    (hk : Off kp [.cmd, .out]) : shown kp (critEvent bit info s) = shown kp s := by
  simp only [off_cons, off_nil, and_true] at hk
  simp (maxDischargeDepth := 9) [critEvent, hk]
  (repeat' split) <;> simp_all (maxDischargeDepth := 9)

@[simp] theorem setDegraded_shown {kp : Area → Bool} (s : State)
    (hk : Off kp [.integ, .pins, .cmd, .out]) : shown kp (setDegraded s) = shown kp s := by
  simp only [off_cons, off_nil, and_true] at hk
  simp (maxDischargeDepth := 9) [setDegraded, hk]

@[simp] theorem exhaustF_shown {kp : Area → Bool} (ef : Nat) (status : Nat) (nsid : Nat) (s : State)
    (hk : Off kp [.regs, .ctrs, .rge, .integ, .pins, .health, .cmd, .history, .out]) : shown kp (exhaustF ef status nsid s) = shown kp s := by
  simp only [off_cons, off_nil, and_true] at hk
  simp (maxDischargeDepth := 9) [exhaustF, hk]

@[simp] theorem exhaust_shown {kp : Area → Bool} (status : Nat) (nsid : Nat) (s : State)
    (hk : Off kp [.regs, .ctrs, .rge, .integ, .pins, .health, .cmd, .history, .out]) :
    shown kp (exhaust status nsid s) = shown kp s := by
  simp only [off_cons, off_nil, and_true] at hk
  simp (maxDischargeDepth := 9) [exhaust, hk]

@[simp] theorem exhaustNone_shown {kp : Area → Bool} (ef : Nat) (s : State)
    (hk : Off kp [.draws, .regs, .ctrs, .rge, .integ, .pins, .health, .cmd, .history, .out]) : shown kp (exhaustNone ef s) = shown kp s := by
  simp only [off_cons, off_nil, and_true] at hk
  simp (maxDischargeDepth := 9) [exhaustNone, hk]

@[simp] theorem modeNotice_shown {kp : Area → Bool} (prev : Nat) (mcause : Nat) (s : State)
    (hk : Off kp [.regs, .ctrs, .rge, .integ, .history, .out]) : shown kp (modeNotice prev mcause s) = shown kp s := by
  simp only [off_cons, off_nil, and_true] at hk
  simp (maxDischargeDepth := 9) [modeNotice, hk]

@[simp] theorem withModes_shown {kp : Area → Bool} (mcause : Nat) (f : State → State) (s : State) (hf : ∀ s, shown kp (f s) = shown kp s)
    (hk : Off kp [.regs, .ctrs, .rge, .integ, .history, .out]) : shown kp (withModes mcause f s) = shown kp s := by
  simp only [off_cons, off_nil, and_true] at hk
  simp (maxDischargeDepth := 9) [withModes, hk, hf]

@[simp] theorem logErr_shown {kp : Area → Bool} (c : Flight) (status : Nat) (x : ErrInfo) (s : State)
    (hk : Off kp [.errs, .errCounts]) : shown kp (logErr c status x s) = shown kp s := by
  simp only [off_cons, off_nil, and_true] at hk
  simp [logErr, shown, hk]

@[simp] theorem writeCompletion_shown {kp : Area → Bool} (k : Nat) (c : Flight) (sqhd : Nat) (result : Nat) (status : Nat) (s : State)
    (hk : Off kp [.rge, .out]) : shown kp (writeCompletion k c sqhd result status s) = shown kp s := by
  simp only [off_cons, off_nil, and_true] at hk
  unfold writeCompletion
  (repeat' split) <;> simp_all (maxDischargeDepth := 9)

@[simp] theorem dropFlights_shown {kp : Area → Bool} (p : Nat → Flight → Bool) (s : State)
    (hk : Off kp [.rge]) : shown kp (dropFlights p s) = shown kp s := by
  simp only [off_cons, off_nil, and_true] at hk
  simp (maxDischargeDepth := 9) [dropFlights, hk]

@[simp] theorem dropFlight_shown {kp : Area → Bool} (id : Nat) (s : State)
    (hk : Off kp [.rge]) : shown kp (dropFlight id s) = shown kp s := by
  simp only [off_cons, off_nil, and_true] at hk
  simp (maxDischargeDepth := 9) [dropFlight, hk]

@[simp] theorem completeX_shown {kp : Area → Bool} (id : Nat) (status : Nat) (result : Nat) (x : ErrInfo) (s : State)
    (hk : Off kp [.rge, .errs, .errCounts, .out]) : shown kp (completeX id status result x s) = shown kp s := by
  simp only [off_cons, off_nil, and_true] at hk
  simp (maxDischargeDepth := 9) [completeX, hk]
  (repeat' split) <;> simp_all (maxDischargeDepth := 9)

@[simp] theorem complete_shown {kp : Area → Bool} (id : Nat) (status : Nat) (result : Nat) (s : State)
    (hk : Off kp [.rge, .errs, .errCounts, .out]) : shown kp (complete id status result s) = shown kp s := by
  simp only [off_cons, off_nil, and_true] at hk
  simp (maxDischargeDepth := 9) [complete, hk]

@[simp] theorem completeSeal_shown {kp : Area → Bool} (id : Nat) (record : Nat) (tag : List Byte) (s : State)
    (hk : Off kp [.rge, .errs, .errCounts, .out]) : shown kp (completeSeal id record tag s) = shown kp s := by
  simp only [off_cons, off_nil, and_true] at hk
  simp (maxDischargeDepth := 9) [completeSeal, hk]
  (repeat' split) <;> simp_all (maxDischargeDepth := 9)

@[simp] theorem output_shown {kp : Area → Bool} (c : Flight) (data : List Byte) (s : State)
    (hk : Off kp [.regs, .ctrs, .rge, .integ, .health, .history, .out]) : shown kp (output c data s) = shown kp s := by
  simp only [off_cons, off_nil, and_true] at hk
  simp (maxDischargeDepth := 9) [output, hk]

@[simp] theorem onPith_shown {kp : Area → Bool} (f : Pith → Pith) (s : State)
    (hk : Off kp [.pith]) : shown kp (onPith f s) = shown kp s := by
  simp only [off_cons, off_nil, and_true] at hk
  simp (maxDischargeDepth := 9) [onPith, hk]

@[simp] theorem queueJ_shown {kp : Area → Bool} (etype : Nat) (src : Nat) (key : Option Nat) (body : List Byte) (s : State)
    (hk : Off kp [.pith]) : shown kp (queueJ etype src key body s) = shown kp s := by
  simp only [off_cons, off_nil, and_true] at hk
  simp (maxDischargeDepth := 9) [queueJ, hk]

@[simp] theorem queueRetire_shown {kp : Area → Bool} (rkind : Nat) (cause : Nat) (seg : Nat) (chan : Nat) (target : Nat) (lun : Nat) (loc : Nat) (s : State)
    (hk : Off kp [.pith]) : shown kp (queueRetire rkind cause seg chan target lun loc s) = shown kp s := by
  simp only [off_cons, off_nil, and_true] at hk
  simp (maxDischargeDepth := 9) [queueRetire, hk]

@[simp] theorem disarm_shown {kp : Area → Bool} (s : State) (hk : Off kp [.regs, .integ]) : shown kp (disarm s) = shown kp s := by
  simp only [off_cons, off_nil, and_true] at hk
  simp (maxDischargeDepth := 9) [disarm, hk]

@[simp] theorem detect_shown {kp : Area → Bool} (k : Nat) (x : Site) (real : Bool) (s : State)
    (hk : Off kp [.regs, .ctrs, .rge, .integ, .history, .out]) : shown kp (detect k x real s).2 = shown kp s := by
  simp only [off_cons, off_nil, and_true] at hk
  simp (maxDischargeDepth := 9) [detect, hk]

@[simp] theorem closeBypass_shown {kp : Area → Bool} (s : State)
    (hk : Off kp [.regs, .integ]) : shown kp (closeBypass s) = shown kp s := by
  simp only [off_cons, off_nil, and_true] at hk
  simp (maxDischargeDepth := 9) [closeBypass, hk]

@[simp] theorem setRsvd_shown {kp : Area → Bool} (a : Nat) (s : State) (hk : Off kp [.regs]) : shown kp (setRsvd a s) = shown kp s := by
  simp only [off_cons, off_nil, and_true] at hk
  simp (maxDischargeDepth := 9) [setRsvd, hk]

@[simp] theorem writeAssigned_shown {kp : Area → Bool} (r : RegDef) (a : Nat) (v : Word) (be : Nat) (s : State)
    (hk : Off kp [.regs]) : shown kp (writeAssigned r a v be s) = shown kp s := by
  simp only [off_cons, off_nil, and_true] at hk
  simp (maxDischargeDepth := 9) [writeAssigned, hk]

@[simp] theorem flagReserved_shown {kp : Area → Bool} (a : Nat) (v : Word) (be : Nat) (s : State)
    (hk : Off kp [.regs]) : shown kp (flagReserved a v be s) = shown kp s := by
  simp only [off_cons, off_nil, and_true] at hk
  unfold flagReserved
  try dsimp only
  (repeat' split) <;> (try simp (maxDischargeDepth := 9) [hk]) <;> (repeat (refine shown_of_pair (by assumption) ?_; simp (maxDischargeDepth := 9) [hk]))

@[simp] theorem writeCommon_shown {kp : Area → Bool} (a : Nat) (v : Word) (be : Nat) (s : State)
    (hk : Off kp [.regs]) : shown kp (writeCommon a v be s) = shown kp s := by
  simp only [off_cons, off_nil, and_true] at hk
  unfold writeCommon
  (repeat' split) <;> simp_all (maxDischargeDepth := 9)

@[simp] theorem onPwr_shown {kp : Area → Bool} (f : Pwr → Pwr) (s : State)
    (hk : Off kp [.pwr]) : shown kp (onPwr f s) = shown kp s := by
  simp only [off_cons, off_nil, and_true] at hk
  simp (maxDischargeDepth := 9) [onPwr, hk]

@[simp] theorem takeSnap_shown {kp : Area → Bool} (a : Nat) (n : Nat) (s : State)
    (hk : Off kp [.snaps]) : shown kp (takeSnap a n s) = shown kp s := by
  simp only [off_cons, off_nil, and_true] at hk
  simp (maxDischargeDepth := 9) [takeSnap, hk]

@[simp] theorem clampField_shown {kp : Area → Bool} (a : Nat) (hi : Nat) (lo : Nat) (l : Nat) (h : Nat) (s : State)
    (hk : Off kp [.regs]) : shown kp (clampField a hi lo l h s) = shown kp s := by
  simp only [off_cons, off_nil, and_true] at hk
  simp (maxDischargeDepth := 9) [clampField, hk]

@[simp] theorem segRegWrite_shown {kp : Area → Bool} (n : Nat) (a : Nat) (v : Word) (be : Nat) (s : State)
    (hk : Off kp [.regs, .snaps]) : shown kp (segRegWrite n a v be s) = shown kp s := by
  simp only [off_cons, off_nil, and_true] at hk
  simp (maxDischargeDepth := 9) [segRegWrite, hk]

@[simp] theorem startWake_shown {kp : Area → Bool} (d : Nat) (s : State)
    (hk : Off kp [.pwr]) : shown kp (startWake d s) = shown kp s := by
  simp only [off_cons, off_nil, and_true] at hk
  simp (maxDischargeDepth := 9) [startWake, hk]

@[simp] theorem applyHeld_shown {kp : Area → Bool} (n : Nat) (s : State) (w : Nat × Word × Nat)
    (hk : Off kp [.regs, .snaps]) : shown kp (applyHeld n s w) = shown kp s := by
  simp only [off_cons, off_nil, and_true] at hk
  simp (maxDischargeDepth := 9) [applyHeld, hk]

@[simp] theorem wakeDram_shown {kp : Area → Bool} (d : Nat) (s : State)
    (hk : Off kp [.mov, .out]) : shown kp (wakeDram d s) = shown kp s := by
  simp only [off_cons, off_nil, and_true] at hk
  simp (maxDischargeDepth := 9) [wakeDram, hk]

@[simp] theorem wakeDone_shown {kp : Area → Bool} (d : Nat) (s : State)
    (hk : Off kp [.regs, .ctrs, .snaps, .rge, .integ, .flw, .pwr, .mov, .history, .out]) : shown kp (wakeDone d s) = shown kp s := by
  simp only [off_cons, off_nil, and_true] at hk
  simp (maxDischargeDepth := 9) [wakeDone, hk]

@[simp] theorem wakeNow_shown {kp : Area → Bool} (d : Nat) (s : State)
    (hk : Off kp [.regs, .ctrs, .snaps, .rge, .integ, .flw, .pwr, .mov, .history, .out]) : shown kp (wakeNow d s) = shown kp s := by
  simp only [off_cons, off_nil, and_true] at hk
  simp (maxDischargeDepth := 9) [wakeNow, hk]

@[simp] theorem wakeAll_shown {kp : Area → Bool} (s : State)
    (hk : Off kp [.regs, .ctrs, .snaps, .rge, .integ, .flw, .pwr, .mov, .history, .out]) : shown kp (wakeAll s) = shown kp s := by
  simp only [off_cons, off_nil, and_true] at hk
  simp (maxDischargeDepth := 9) [wakeAll, hk]

@[simp] theorem segWrite_shown {kp : Area → Bool} (n : Nat) (a : Nat) (v : Word) (be : Nat) (f : State → State) (s : State) (hf : ∀ s, shown kp (f s) = shown kp s)
    (hk : Off kp [.regs, .ctrs, .snaps, .rge, .integ, .flw, .pwr, .mov, .history, .out]) :
    shown kp (segWrite n a v be f s) = shown kp s := by
  simp only [off_cons, off_nil, and_true] at hk
  simp (maxDischargeDepth := 9) [segWrite, hk, hf]

@[simp] theorem strobe_shown {kp : Area → Bool} (n : Nat) (a : Nat) (s : State)
    (hk : Off kp [.regs, .ctrs, .snaps, .rge, .integ, .flw, .pwr, .mov, .history, .out]) : shown kp (strobe n a s) = shown kp s := by
  simp only [off_cons, off_nil, and_true] at hk
  simp (maxDischargeDepth := 9) [strobe, hk]

@[simp] theorem onMed_shown {kp : Area → Bool} (f : Med → Med) (s : State)
    (hk : Off kp [.med]) (h0 : kp .harvest = false ∨ ∀ x, (f x).harvest = x.harvest) : shown kp (onMed f s) = shown kp s := by
  simp only [off_cons, off_nil, and_true] at hk
  have e0 : keep (kp .harvest) (f s.med).harvest = keep (kp .harvest) s.med.harvest := by rcases h0 with e | e <;> simp [e]
  simp [onMed, shown, hk, e0]

@[simp] theorem waitToken_shown {kp : Area → Bool} (prec : Nat) (res : Nat) (s : State)
    (hk : Off kp [.med]) : shown kp (waitToken prec res s) = shown kp s := by
  simp only [off_cons, off_nil, and_true] at hk
  simp (maxDischargeDepth := 9) [waitToken, hk]

@[simp] theorem takeToken_shown {kp : Area → Bool} (prec : Nat) (res : Nat) (s : State)
    (hk : Off kp [.med]) : shown kp (takeToken prec res s).2 = shown kp s := by
  simp only [off_cons, off_nil, and_true] at hk
  unfold takeToken
  (repeat' split) <;> simp_all (maxDischargeDepth := 9)

@[simp] theorem releaseToken_shown {kp : Area → Bool} (res : Nat) (s : State)
    (hk : Off kp [.med]) : shown kp (releaseToken res s) = shown kp s := by
  simp only [off_cons, off_nil, and_true] at hk
  unfold releaseToken
  try dsimp only
  (repeat' split) <;> (try simp (maxDischargeDepth := 9) [hk]) <;> (repeat (refine shown_of_pair (by assumption) ?_; simp (maxDischargeDepth := 9) [hk]))

@[simp] theorem takeAll_shown {kp : Area → Bool} (prec : Nat) (x1 : List Nat) (x2 : State)
    (hk : Off kp [.med]) : shown kp (takeAll prec x1 x2).2 = shown kp x2 := by
  simp only [off_cons, off_nil, and_true] at hk
  induction x1 generalizing x2 with
  | nil => rfl
  | cons d t ih =>
    have e := takeToken_shown (kp := kp) prec d x2 (by simp [hk])
    simp only [takeAll]
    split; · exact ih _
    split <;> rename_i heq <;> simp [heq] at e <;> simp [e, ih]

@[simp] theorem releaseAll_shown {kp : Area → Bool} (l : List Nat) (s : State)
    (hk : Off kp [.med]) : shown kp (releaseAll l s) = shown kp s := by
  simp only [off_cons, off_nil, and_true] at hk
  simp (maxDischargeDepth := 9) [releaseAll, hk]

@[simp] theorem useTokens_shown {kp : Area → Bool} (prec : Nat) (l : List Nat) (s : State)
    (hk : Off kp [.med]) : shown kp (useTokens prec l s).2 = shown kp s := by
  simp only [off_cons, off_nil, and_true] at hk
  simp (maxDischargeDepth := 9) [useTokens, hk]

@[simp] theorem putTriad_shown {kp : Area → Bool} (k : Nat) (w : Triad) (s : State)
    (hk : Off kp [.regs, .ctrs, .rge, .integ, .pith, .history, .out]) : shown kp (putTriad k w s) = shown kp s := by
  simp only [off_cons, off_nil, and_true] at hk
  simp (maxDischargeDepth := 9) [putTriad, hk]

@[simp] theorem writeTriad_shown {kp : Area → Bool} (ty : Nat) (ix : Nat) (value : List Byte) (s : State)
    (hk : Off kp [.regs, .ctrs, .rge, .integ, .pith, .history, .out]) : shown kp (writeTriad ty ix value s) = shown kp s := by
  simp only [off_cons, off_nil, and_true] at hk
  simp (maxDischargeDepth := 9) [writeTriad, hk]

@[simp] theorem readTriad_shown {kp : Area → Bool} (ty : Nat) (ix : Nat) (dflt : List Byte) (s : State)
    (hk : Off kp [.regs, .ctrs, .rge, .integ, .pith, .history, .out]) : shown kp (readTriad ty ix dflt s).2 = shown kp s := by
  simp only [off_cons, off_nil, and_true] at hk
  simp (maxDischargeDepth := 9) [readTriad, hk]

@[simp] theorem onPort_shown {kp : Area → Bool} (p : Nat) (g : PPort → PPort) (s : State)
    (hk : Off kp [.pith]) : shown kp (onPort p g s) = shown kp s := by
  simp only [off_cons, off_nil, and_true] at hk
  simp (maxDischargeDepth := 9) [onPort, hk]

@[simp] theorem keyErr_shown {kp : Area → Bool} (p : Nat) (s : State) (hk : Off kp [.regs]) : shown kp (keyErr p s) = shown kp s := by
  simp only [off_cons, off_nil, and_true] at hk
  simp (maxDischargeDepth := 9) [keyErr, hk]

@[simp] theorem lockPort_shown {kp : Area → Bool} (p : Nat) (s : State)
    (hk : Off kp [.regs, .pith]) : shown kp (lockPort p s) = shown kp s := by
  simp only [off_cons, off_nil, and_true] at hk
  simp (maxDischargeDepth := 9) [lockPort, hk]

@[simp] theorem execPthKeyWrite_shown {kp : Area → Bool} (t : Nat) (p : Nat) (v : Word) (s : State) (s0 : State)
    (hk : Off kp [.now, .regs, .pith]) : shown kp (after (execPthKeyWrite t p v s) s0) = shown kp s := by
  simp only [off_cons, off_nil, and_true] at hk
  simp (maxDischargeDepth := 9) [execPthKeyWrite, hk]

theorem execPithUnlockTimeout_shown {kp : Area → Bool} (t : Nat) (p : Nat) (s : State) (s0 : State)
    (hk : Off kp [.now, .regs, .pith]) : shown kp (after (execPithUnlockTimeout t p s) s0) = shown kp s := by
  simp only [off_cons, off_nil, and_true] at hk
  simp (maxDischargeDepth := 9) [execPithUnlockTimeout, hk]

@[simp] theorem portResult_shown {kp : Area → Bool} (p : Nat) (code : Nat) (s : State)
    (hk : Off kp [.pith]) : shown kp (portResult p code s) = shown kp s := by
  simp only [off_cons, off_nil, and_true] at hk
  simp (maxDischargeDepth := 9) [portResult, hk]

@[simp] theorem portGate_shown {kp : Area → Bool} (code : Nat) (p : Nat) (s : State)
    (hk : Off kp [.regs, .pith]) : shown kp (portGate code p s).2 = shown kp s := by
  simp only [off_cons, off_nil, and_true] at hk
  simp (maxDischargeDepth := 9) [portGate, hk]

@[simp] theorem setBank_shown {kp : Area → Bool} (b : Nat) (o : BankOp) (s : State)
    (hk : Off kp [.pith]) : shown kp (setBank b o s) = shown kp s := by
  simp only [off_cons, off_nil, and_true] at hk
  simp (maxDischargeDepth := 9) [setBank, hk]

@[simp] theorem holdToken_shown {kp : Area → Bool} (b : Nat) (o : BankOp) (s : State)
    (hk : Off kp [.med]) : shown kp (holdToken b o s) = shown kp s := by
  simp only [off_cons, off_nil, and_true] at hk
  simp (maxDischargeDepth := 9) [holdToken, hk]

@[simp] theorem endOp_shown {kp : Area → Bool} (b : Nat) (s : State)
    (hk : Off kp [.pith, .med]) : shown kp (endOp b s) = shown kp s := by
  simp only [off_cons, off_nil, and_true] at hk
  simp (maxDischargeDepth := 9) [endOp, hk]

@[simp] theorem startNext_shown {kp : Area → Bool} (b : Nat) (s : State)
    (hk : Off kp [.pith, .med]) : shown kp (startNext b s) = shown kp s := by
  simp only [off_cons, off_nil, and_true] at hk
  unfold startNext
  (repeat' split) <;> simp_all (maxDischargeDepth := 9)

@[simp] theorem startOp_shown {kp : Area → Bool} (p : Nat) (b : Nat) (o : BankOp) (s : State)
    (hk : Off kp [.pith, .med]) : shown kp (startOp p b o s) = shown kp s := by
  simp only [off_cons, off_nil, and_true] at hk
  simp (maxDischargeDepth := 9) [startOp, hk]

theorem execPageProgram_shown {kp : Area → Bool} (t : Nat) (p : Nat) (sector : Nat) (page : Nat) (units : List (Nat × List Byte)) (s : State) (s0 : State)
    (hk : Off kp [.now, .regs, .pith, .med]) : shown kp (after (execPageProgram t p sector page units s) s0) = shown kp s := by
  simp only [off_cons, off_nil, and_true] at hk
  unfold execPageProgram
  simp only
  have e := portGate_shown (kp := kp) 0x10 p (tick t s) (by simp [hk])
  split <;> rename_i heq <;> simp [heq, hk] at e <;> (repeat' split) <;> simp (maxDischargeDepth := 9) [e, hk]

theorem execSectorErase_shown {kp : Area → Bool} (t : Nat) (p : Nat) (sector : Nat) (s : State) (s0 : State)
    (hk : Off kp [.now, .regs, .pith, .med]) : shown kp (after (execSectorErase t p sector s) s0) = shown kp s := by
  simp only [off_cons, off_nil, and_true] at hk
  unfold execSectorErase
  simp only
  have e := portGate_shown (kp := kp) 0x20 p (tick t s) (by simp [hk])
  split <;> rename_i heq <;> simp [heq, hk] at e <;> (repeat' split) <;> simp (maxDischargeDepth := 9) [e, hk]

theorem execEraseSuspend_shown {kp : Area → Bool} (t : Nat) (p : Nat) (b : Nat) (s : State) (s0 : State)
    (hk : Off kp [.now, .regs, .pith]) : shown kp (after (execEraseSuspend t p b s) s0) = shown kp s := by
  simp only [off_cons, off_nil, and_true] at hk
  unfold execEraseSuspend
  simp only
  have e := portGate_shown (kp := kp) 0x21 p (tick t s) (by simp [hk])
  split <;> rename_i heq <;> simp [heq, hk] at e <;> (repeat' split) <;> simp (maxDischargeDepth := 9) [e, hk]

theorem execEraseResume_shown {kp : Area → Bool} (t : Nat) (p : Nat) (b : Nat) (s : State) (s0 : State)
    (hk : Off kp [.now, .regs, .pith]) : shown kp (after (execEraseResume t p b s) s0) = shown kp s := by
  simp only [off_cons, off_nil, and_true] at hk
  unfold execEraseResume
  simp only
  have e := portGate_shown (kp := kp) 0x22 p (tick t s) (by simp [hk])
  split <;> rename_i heq <;> simp [heq, hk] at e <;> (repeat' split) <;> simp (maxDischargeDepth := 9) [e, hk]

theorem execBlankCheck_shown {kp : Area → Bool} (t : Nat) (p : Nat) (sector : Nat) (s : State) (s0 : State)
    (hk : Off kp [.now, .regs, .pith]) : shown kp (after (execBlankCheck t p sector s) s0) = shown kp s := by
  simp only [off_cons, off_nil, and_true] at hk
  unfold execBlankCheck
  simp only
  have e := portGate_shown (kp := kp) 0x30 p (tick t s) (by simp [hk])
  split <;> rename_i heq <;> simp [heq, hk] at e <;> (repeat' split) <;> simp (maxDischargeDepth := 9) [e, hk]

@[simp] theorem pithFail_shown {kp : Area → Bool} (sector : Nat) (s : State)
    (hk : Off kp [.regs, .ctrs, .rge, .integ, .history, .out]) : shown kp (pithFail sector s) = shown kp s := by
  simp only [off_cons, off_nil, and_true] at hk
  simp (maxDischargeDepth := 9) [pithFail, hk]

@[simp] theorem eraseSector_shown {kp : Area → Bool} (sector : Nat) (s : State)
    (hk : Off kp [.regs, .ctrs, .rge, .integ, .pith, .history, .out]) : shown kp (eraseSector sector s) = shown kp s := by
  simp only [off_cons, off_nil, and_true] at hk
  simp (maxDischargeDepth := 9) [eraseSector, hk]

@[simp] theorem eraseAhead_shown {kp : Area → Bool} (s : State)
    (hk : Off kp [.pith, .med]) : shown kp (eraseAhead s) = shown kp s := by
  simp only [off_cons, off_nil, and_true] at hk
  simp (maxDischargeDepth := 9) [eraseAhead, hk]

@[simp] theorem opResult_shown {kp : Area → Bool} (po : Nat) (code : Nat) (s : State)
    (hk : Off kp [.pith]) : shown kp (opResult po code s) = shown kp s := by
  simp only [off_cons, off_nil, and_true] at hk
  simp (maxDischargeDepth := 9) [opResult, hk]

theorem execPithEraseComplete_shown {kp : Area → Bool} (t : Nat) (b : Nat) (clean : Bool) (s : State) (s0 : State)
    (hk : Off kp [.now, .regs, .ctrs, .rge, .integ, .pith, .med, .history, .out]) :
    shown kp (after (execPithEraseComplete t b clean s) s0) = shown kp s := by
  simp only [off_cons, off_nil, and_true] at hk
  simp (maxDischargeDepth := 9) [execPithEraseComplete, hk]
  (repeat' split) <;> simp_all (maxDischargeDepth := 9)

@[simp] theorem setParams_shown {kp : Area → Bool} (l : Tab (List Byte)) (s : State)
    (hk : Off kp [.regs, .ctrs, .rge, .integ, .pith, .history, .out]) : shown kp (setParams l s) = shown kp s := by
  simp only [off_cons, off_nil, and_true] at hk
  simp (maxDischargeDepth := 9) [setParams, hk]

@[simp] theorem paramUpdate_shown {kp : Area → Bool} (p : Nat) (key : Nat) (d : Option (List Byte)) (s : State)
    (hk : Off kp [.regs, .ctrs, .rge, .integ, .pith, .history, .out]) : shown kp (paramUpdate p key d s) = shown kp s := by
  simp only [off_cons, off_nil, and_true] at hk
  unfold paramUpdate
  (repeat' split) <;> simp_all (maxDischargeDepth := 9)

@[simp] theorem runPuts_shown {kp : Area → Bool} (s : State)
    (hk : Off kp [.regs, .ctrs, .rge, .integ, .pith, .history, .out]) : shown kp (runPuts s) = shown kp s := by
  simp only [off_cons, off_nil, and_true] at hk
  simp (maxDischargeDepth := 9) [runPuts, hk]

@[simp] theorem execParamPut_shown {kp : Area → Bool} (t : Nat) (p : Nat) (typ : Nat) (ix : Nat) (data : List Byte) (s : State) (s0 : State)
    (hk : Off kp [.now, .regs, .ctrs, .rge, .integ, .pith, .history, .out]) :
    shown kp (after (execParamPut t p typ ix data s) s0) = shown kp s := by
  simp only [off_cons, off_nil, and_true] at hk
  unfold execParamPut
  simp only
  have e := portGate_shown (kp := kp) 0x40 p (tick t s) (by simp [hk])
  split <;> rename_i heq <;> simp [heq, hk] at e <;> (repeat' split) <;> simp (maxDischargeDepth := 9) [e, hk]

@[simp] theorem execParamDelete_shown {kp : Area → Bool} (t : Nat) (p : Nat) (typ : Nat) (ix : Nat) (s : State) (s0 : State)
    (hk : Off kp [.now, .regs, .ctrs, .rge, .integ, .pith, .history, .out]) :
    shown kp (after (execParamDelete t p typ ix s) s0) = shown kp s := by
  simp only [off_cons, off_nil, and_true] at hk
  unfold execParamDelete
  simp only
  have e := portGate_shown (kp := kp) 0x41 p (tick t s) (by simp [hk])
  split <;> rename_i heq <;> simp [heq, hk] at e <;> (repeat' split) <;> simp (maxDischargeDepth := 9) [e, hk]

@[simp] theorem execParamGet_shown {kp : Area → Bool} (t : Nat) (p : Nat) (typ : Nat) (ix : Nat) (s : State) (s0 : State)
    (hk : Off kp [.now, .regs, .pith]) : shown kp (after (execParamGet t p typ ix s) s0) = shown kp s := by
  simp only [off_cons, off_nil, and_true] at hk
  unfold execParamGet
  simp only
  have e := portGate_shown (kp := kp) 0x42 p (tick t s) (by simp [hk])
  split <;> rename_i heq <;> simp [heq, hk] at e <;> (repeat' split) <;> simp (maxDischargeDepth := 9) [e, hk]

@[simp] theorem rateCount_shown {kp : Area → Bool} (n : Nat) (s : State)
    (hk : Off kp [.pith]) : shown kp (rateCount n s) = shown kp s := by
  simp only [off_cons, off_nil, and_true] at hk
  simp (maxDischargeDepth := 9) [rateCount, hk]

@[simp] theorem suspendFor_shown {kp : Area → Bool} (b : Nat) (s : State)
    (hk : Off kp [.pith]) : shown kp (suspendFor b s) = shown kp s := by
  simp only [off_cons, off_nil, and_true] at hk
  unfold suspendFor
  try dsimp only
  (repeat' split) <;> (try simp (maxDischargeDepth := 9) [hk]) <;> (repeat (refine shown_of_pair (by assumption) ?_; simp (maxDischargeDepth := 9) [hk]))

@[simp] theorem resumeAuto_shown {kp : Area → Bool} (b : Nat) (s : State)
    (hk : Off kp [.pith]) : shown kp (resumeAuto b s) = shown kp s := by
  simp only [off_cons, off_nil, and_true] at hk
  unfold resumeAuto
  try dsimp only
  (repeat' split) <;> (try simp (maxDischargeDepth := 9) [hk]) <;> (repeat (refine shown_of_pair (by assumption) ?_; simp (maxDischargeDepth := 9) [hk]))

theorem execJournalProgram_shown {kp : Area → Bool} (t : Nat) (s : State) (s0 : State)
    (hk : Off kp [.now, .regs, .ctrs, .rge, .integ, .pith, .med, .history, .out]) :
    shown kp (after (execJournalProgram t s) s0) = shown kp s := by
  simp only [off_cons, off_nil, and_true] at hk
  simp (maxDischargeDepth := 9) [execJournalProgram, hk]
  (repeat' split) <;> simp_all (maxDischargeDepth := 9)

@[simp] theorem durable_shown {kp : Area → Bool} (e : JEntry) (s : State)
    (hk : Off kp [.regs, .ctrs, .rge, .integ, .pith, .history, .out]) : shown kp (durable e s) = shown kp s := by
  simp only [off_cons, off_nil, and_true] at hk
  simp (maxDischargeDepth := 9) [durable, hk]

theorem execPithProgramComplete_shown {kp : Area → Bool} (t : Nat) (b : Nat) (ok : Bool) (s : State) (s0 : State)
    (hk : Off kp [.now, .regs, .ctrs, .rge, .integ, .pith, .med, .history, .out]) :
    shown kp (after (execPithProgramComplete t b ok s) s0) = shown kp s := by
  simp only [off_cons, off_nil, and_true] at hk
  simp (maxDischargeDepth := 9) [execPithProgramComplete, hk]
  (repeat' split) <;> simp_all (maxDischargeDepth := 9)

theorem execNewEpoch_shown {kp : Area → Bool} (t : Nat) (s : State) (s0 : State)
    (hk : Off kp [.now, .regs, .ctrs, .rge, .integ, .pith, .med, .history, .out]) : shown kp (after (execNewEpoch t s) s0) = shown kp s := by
  simp only [off_cons, off_nil, and_true] at hk
  simp (maxDischargeDepth := 9) [execNewEpoch, hk]

@[simp] theorem execPthSnapNow_shown {kp : Area → Bool} (t : Nat) (s : State) (s0 : State)
    (hk : Off kp [.now, .snaps]) : shown kp (after (execPthSnapNow t s) s0) = shown kp s := by
  simp only [off_cons, off_nil, and_true] at hk
  simp (maxDischargeDepth := 9) [execPthSnapNow, hk]

@[simp] theorem onCry_shown {kp : Area → Bool} (f : Cry → Cry) (s : State)
    (hk : Off kp [.cry]) : shown kp (onCry f s) = shown kp s := by
  simp only [off_cons, off_nil, and_true] at hk
  simp (maxDischargeDepth := 9) [onCry, hk]

@[simp] theorem random_shown {kp : Area → Bool} (n : Nat) (s : State)
    (hk : Off kp [.draws]) : shown kp (random n s).2 = shown kp s := by
  simp only [off_cons, off_nil, and_true] at hk
  simp (maxDischargeDepth := 9) [random, hk]

@[simp] theorem writeSlot_shown {kp : Area → Bool} (i : Nat) (enabled : Bool) (role : Nat) (nsid : Nat) (salt : List Byte) (s : State)
    (hk : Off kp [.regs, .ctrs, .rge, .integ, .pith, .history, .out]) : shown kp (writeSlot i enabled role nsid salt s) = shown kp s := by
  simp only [off_cons, off_nil, and_true] at hk
  simp (maxDischargeDepth := 9) [writeSlot, hk]

@[simp] theorem attestSign_shown {kp : Area → Bool} (msg : List Byte) (s : State)
    (hk : Off kp [.draws]) : shown kp (attestSign msg s).2 = shown kp s := by
  simp only [off_cons, off_nil, and_true] at hk
  simp (maxDischargeDepth := 9) [attestSign, hk]

@[simp] theorem onCmd_shown {kp : Area → Bool} (f : CmdSt → CmdSt) (s : State)
    (hk : Off kp [.cmd]) : shown kp (onCmd f s) = shown kp s := by
  simp only [off_cons, off_nil, and_true] at hk
  simp (maxDischargeDepth := 9) [onCmd, hk]

@[simp] theorem onNs_shown {kp : Area → Bool} (n : Nat) (f : Ns → Ns) (s : State)
    (hk : Off kp [.cmd]) : shown kp (onNs n f s) = shown kp s := by
  simp only [off_cons, off_nil, and_true] at hk
  simp (maxDischargeDepth := 9) [onNs, hk]

@[simp] theorem onStrm_shown {kp : Area → Bool} (k : Nat) (f : Strm → Strm) (s : State)
    (hk : Off kp [.cmd]) : shown kp (onStrm k f s) = shown kp s := by
  simp only [off_cons, off_nil, and_true] at hk
  simp (maxDischargeDepth := 9) [onStrm, hk]

@[simp] theorem onRec_shown {kp : Area → Bool} (k : Nat) (n : Nat) (f : Rec → Rec) (s : State)
    (hk : Off kp [.cmd]) : shown kp (onRec k n f s) = shown kp s := by
  simp only [off_cons, off_nil, and_true] at hk
  simp (maxDischargeDepth := 9) [onRec, hk]

@[simp] theorem onFlight_shown {kp : Area → Bool} (id : Nat) (f : Flight → Flight) (s : State)
    (hk : Off kp [.rge]) : shown kp (onFlight id f s) = shown kp s := by
  simp only [off_cons, off_nil, and_true] at hk
  simp (maxDischargeDepth := 9) [onFlight, hk]

@[simp] theorem askMore_shown {kp : Area → Bool} (id : Nat) (s : State)
    (hk : Off kp [.rge]) : shown kp (askMore id s) = shown kp s := by
  simp only [off_cons, off_nil, and_true] at hk
  unfold askMore
  try dsimp only
  (repeat' split) <;> (try simp (maxDischargeDepth := 9) [hk]) <;> (repeat (refine shown_of_pair (by assumption) ?_; simp (maxDischargeDepth := 9) [hk]))

@[simp] theorem takesData_shown {kp : Area → Bool} (id : Nat) (c : Flight) (s : State)
    (hk : Off kp [.rge]) : shown kp (takesData id c s).2 = shown kp s := by
  simp only [off_cons, off_nil, and_true] at hk
  simp (maxDischargeDepth := 9) [takesData, hk]

@[simp] theorem unmapRec_shown {kp : Area → Bool} (k : Nat) (n : Nat) (s : State)
    (hk : Off kp [.cmd]) : shown kp (unmapRec k n s) = shown kp s := by
  simp only [off_cons, off_nil, and_true] at hk
  unfold unmapRec
  (repeat' split) <;> simp_all (maxDischargeDepth := 9)

@[simp] theorem reclaimRec_shown {kp : Area → Bool} (k : Nat) (n : Nat) (s : State)
    (hk : Off kp [.regs, .ctrs, .rge, .integ, .health, .cmd, .history, .out]) : shown kp (reclaimRec k n s) = shown kp s := by
  simp only [off_cons, off_nil, and_true] at hk
  unfold reclaimRec
  (repeat' split) <;> simp_all (maxDischargeDepth := 9)

@[simp] theorem reclaimUntil_shown {kp : Area → Bool} (p : Strm → Bool) (enough : State → Bool) (x2 : Nat) (x3 : State)
    (hk : Off kp [.regs, .ctrs, .rge, .integ, .health, .cmd, .history, .out]) :
    shown kp (reclaimUntil p enough x2 x3) = shown kp x3 := by
  simp only [off_cons, off_nil, and_true] at hk
  fun_induction reclaimUntil p enough x2 x3 <;> simp_all (maxDischargeDepth := 9)

@[simp] theorem makeRoom_shown {kp : Area → Bool} (k : Nat) (x : Strm) (ns : Ns) (len : Nat) (s : State)
    (hk : Off kp [.regs, .ctrs, .rge, .integ, .health, .cmd, .history, .out]) : shown kp (makeRoom k x ns len s) = shown kp s := by
  simp only [off_cons, off_nil, and_true] at hk
  simp (maxDischargeDepth := 9) [makeRoom, hk]

@[simp] theorem voidBound_shown {kp : Area → Bool} (seg : Nat) (cause : Nat) (s : State)
    (hk : Off kp [.regs, .ctrs, .rge, .integ, .cmd, .history, .out]) : shown kp (voidBound seg cause s) = shown kp s := by
  simp only [off_cons, off_nil, and_true] at hk
  simp (maxDischargeDepth := 9) [voidBound, hk]

@[simp] theorem rememberDone_shown {kp : Area → Bool} (c : Flight) (s : State)
    (hk : Off kp [.cmd]) : shown kp (rememberDone c s) = shown kp s := by
  simp only [off_cons, off_nil, and_true] at hk
  simp (maxDischargeDepth := 9) [rememberDone, hk]

@[simp] theorem endBoundFailed_shown {kp : Area → Bool} (id : Nat) (s : State)
    (hk : Off kp [.regs, .ctrs, .rge, .integ, .cmd, .history, .out]) : shown kp (endBoundFailed id s) = shown kp s := by
  simp only [off_cons, off_nil, and_true] at hk
  unfold endBoundFailed
  try dsimp only
  (repeat' split) <;> (try simp (maxDischargeDepth := 9) [hk]) <;> (repeat (refine shown_of_pair (by assumption) ?_; simp (maxDischargeDepth := 9) [hk]))

end Sys2Proof.Machine
end

