-- ==== Sys2Proof/Laws/FrameMedia.lean ====
section
/-!
SUPPORT. What each operation leaves as it was: memories, the Zest engines, media management, the indexer and the Cadence Unit. A lemma `f_shown` says that `f` changes
no part of the state outside the list it names; commands have theirs in this form too, of the state after them.
-/
set_option linter.unusedSimpArgs false
set_option linter.unusedVariables false
set_option linter.unusedTactic false
set_option linter.unreachableTactic false

namespace Sys2Proof.Machine

@[simp] theorem onDxr_shown {kp : Area → Bool} (f : Dxr → Dxr) (s : State)
    (hk : Off kp [.dxr]) (h0 : kp .mem = false ∨ ∀ x, (f x).mem = x.mem) : shown kp (onDxr f s) = shown kp s := by
  simp only [off_cons, off_nil, and_true] at hk
  have e0 : keep (kp .mem) (f s.dxr).mem = keep (kp .mem) s.dxr.mem := by rcases h0 with e | e <;> simp [e]
  simp [onDxr, shown, hk, e0]

@[simp] theorem onCore_shown {kp : Area → Bool} (k : Nat) (f : DCore → DCore) (s : State)
    (hk : Off kp [.dxr]) : shown kp (onCore k f s) = shown kp s := by
  simp only [off_cons, off_nil, and_true] at hk
  simp (maxDischargeDepth := 9) [onCore, hk]

@[simp] theorem onDsp_shown {kp : Area → Bool} (f : Dsp → Dsp) (s : State)
    (hk : Off kp [.dsp]) : shown kp (onDsp f s) = shown kp s := by
  simp only [off_cons, off_nil, and_true] at hk
  simp (maxDischargeDepth := 9) [onDsp, hk]

@[simp] theorem onMov_shown {kp : Area → Bool} (f : Mov → Mov) (s : State)
    (hk : Off kp [.mov]) : shown kp (onMov f s) = shown kp s := by
  simp only [off_cons, off_nil, and_true] at hk
  simp (maxDischargeDepth := 9) [onMov, hk]

@[simp] theorem onMem_shown {kp : Area → Bool} (key : Nat) (f : List Host.Cell → List Host.Cell) (s : State)
    (hk : Off kp [.dxr, .mem]) : shown kp (onMem key f s) = shown kp s := by
  simp only [off_cons, off_nil, and_true] at hk
  simp (maxDischargeDepth := 9) [onMem, hk]

@[simp] theorem writeMem_shown {kp : Area → Bool} (key : Nat) (a : Nat) (l : List Byte) (s : State)
    (hk : Off kp [.dxr, .mem]) : shown kp (writeMem key a l s) = shown kp s := by
  simp only [off_cons, off_nil, and_true] at hk
  simp (maxDischargeDepth := 9) [writeMem, hk]

@[simp] theorem clearMem_shown {kp : Area → Bool} (key : Nat) (a : Nat) (n : Nat) (s : State)
    (hk : Off kp [.dxr, .mem]) : shown kp (clearMem key a n s) = shown kp s := by
  simp only [off_cons, off_nil, and_true] at hk
  simp (maxDischargeDepth := 9) [clearMem, hk]

@[simp] theorem putItem_shown {kp : Area → Bool} (key : Nat) (i : Item) (s : State)
    (hk : Off kp [.dsp]) : shown kp (putItem key i s) = shown kp s := by
  simp only [off_cons, off_nil, and_true] at hk
  simp (maxDischargeDepth := 9) [putItem, hk]

@[simp] theorem dropItem_shown {kp : Area → Bool} (key : Nat) (s : State)
    (hk : Off kp [.dsp]) : shown kp (dropItem key s) = shown kp s := by
  simp only [off_cons, off_nil, and_true] at hk
  simp (maxDischargeDepth := 9) [dropItem, hk]

@[simp] theorem endService_shown {kp : Area → Bool} (k : Nat) (s : State)
    (hk : Off kp [.dxr, .dsp]) : shown kp (endService k s) = shown kp s := by
  simp only [off_cons, off_nil, and_true] at hk
  unfold endService
  (repeat' split) <;> simp_all (maxDischargeDepth := 9)

@[simp] theorem freeContexts_shown {kp : Area → Bool} (p : Nat → Ctx → Bool) (s : State)
    (hk : Off kp [.cry]) : shown kp (freeContexts p s) = shown kp s := by
  simp only [off_cons, off_nil, and_true] at hk
  simp (maxDischargeDepth := 9) [freeContexts, hk]

@[simp] theorem clearCore_shown {kp : Area → Bool} (k : Nat) (s : State)
    (hk : Off kp [.dxr, .mem]) : shown kp (clearCore k s) = shown kp s := by
  simp only [off_cons, off_nil, and_true] at hk
  simp (maxDischargeDepth := 9) [clearCore, hk]

@[simp] theorem cleanRun_shown {kp : Area → Bool} (r : Nat) (s : State)
    (hk : Off kp [.cry, .zst, .dxr, .dsp, .mov, .mem]) : shown kp (cleanRun r s) = shown kp s := by
  simp only [off_cons, off_nil, and_true] at hk
  have h2 : ∀ (s : State) (a : Zst) (b : Cry), shown kp { s with zst := a, cry := b } = shown kp s := by intro s a b; simp [shown, hk]
  unfold cleanRun
  (repeat' split) <;> simp (maxDischargeDepth := 9) [h2, hk]

@[simp] theorem dropRuns_shown {kp : Area → Bool} (f : Nat) (s : State)
    (hk : Off kp [.rge, .cry, .zst, .dxr, .dsp, .mov, .mem]) : shown kp (dropRuns f s) = shown kp s := by
  simp only [off_cons, off_nil, and_true] at hk
  simp (maxDischargeDepth := 9) [dropRuns, hk]

@[simp] theorem dropQueuedRun_shown {kp : Area → Bool} (id : Nat) (s : State)
    (hk : Off kp [.dsp]) : shown kp (dropQueuedRun id s) = shown kp s := by
  simp only [off_cons, off_nil, and_true] at hk
  simp (maxDischargeDepth := 9) [dropQueuedRun, hk]

@[simp] theorem countCompress_shown {kp : Area → Bool} (seg : Nat) (cin : Nat) (cout : Nat) (raw : Nat) (chk : Nat) (ef : Nat) (s : State)
    (hk : Off kp [.regs, .ctrs, .rge, .integ, .history, .out]) : shown kp (countCompress seg cin cout raw chk ef s) = shown kp s := by
  simp only [off_cons, off_nil, and_true] at hk
  simp (maxDischargeDepth := 9) [countCompress, hk]

@[simp] theorem compress_shown {kp : Area → Bool} (seg : Nat) (level : Nat) (bshift : Nat) (bad : List Nat) (l : List Byte) (s : State)
    (hk : Off kp [.regs, .ctrs, .rge, .integ, .history, .out]) : shown kp (compress seg level bshift bad l s).2 = shown kp s := by
  simp only [off_cons, off_nil, and_true] at hk
  simp (maxDischargeDepth := 9) [compress, hk]

@[simp] theorem openTries_shown {kp : Area → Bool} (seg : Nat) (x1 : Nat) (x2 : State)
    (hk : Off kp [.regs, .ctrs, .rge, .integ, .history, .out]) : shown kp (openTries seg x1 x2).2 = shown kp x2 := by
  simp only [off_cons, off_nil, and_true] at hk
  induction x1 generalizing x2 with
  | zero => rfl
  | succ n ih =>
    have e := meet_shown (kp := kp) 30 seg 0xFFFF false x2 (by simp [hk])
    unfold openTries
    split <;> rename_i heq <;> rw [heq] at e <;> dsimp only at e ⊢ <;>
      (repeat' split) <;> simp_all (maxDischargeDepth := 9)

@[simp] theorem openObject_shown {kp : Area → Bool} (seg : Nat) (n : Nat) (shut : Bool) (s : State)
    (hk : Off kp [.regs, .ctrs, .rge, .integ, .history, .out]) : shown kp (openObject seg n shut s).2 = shown kp s := by
  simp only [off_cons, off_nil, and_true] at hk
  simp (maxDischargeDepth := 9) [openObject, hk]

theorem execZstSnapNow_shown {kp : Area → Bool} (t : Nat) (n : Nat) (s : State) (s0 : State)
    (hk : Off kp [.now, .regs, .ctrs, .snaps, .rge, .integ, .flw, .pwr, .mov, .history, .out]) :
    shown kp (after (execZstSnapNow t n s) s0) = shown kp s := by
  simp only [off_cons, off_nil, and_true] at hk
  simp (maxDischargeDepth := 9) [execZstSnapNow, hk]

@[simp] theorem snapSel_shown {kp : Area → Bool} (k : Nat) (nosnap : Bool) (n : Nat) (s : State)
    (hk : Off kp [.regs, .ctrs, .rge, .integ, .history, .out]) : shown kp (snapSel k nosnap n s).2 = shown kp s := by
  simp only [off_cons, off_nil, and_true] at hk
  unfold snapSel
  (repeat' split) <;> simp_all (maxDischargeDepth := 9)

theorem execIdxSnapNow_shown {kp : Area → Bool} (t : Nat) (n : Nat) (s : State) (s0 : State)
    (hk : Off kp [.now, .regs, .ctrs, .snaps, .rge, .integ, .flw, .pwr, .mov, .history, .out]) :
    shown kp (after (execIdxSnapNow t n s) s0) = shown kp s := by
  simp only [off_cons, off_nil, and_true] at hk
  simp (maxDischargeDepth := 9) [execIdxSnapNow, hk]

@[simp] theorem onBand_shown {kp : Area → Bool} (k : Nat) (f : Band → Band) (s : State)
    (hk : Off kp [.med]) : shown kp (onBand k f s) = shown kp s := by
  simp only [off_cons, off_nil, and_true] at hk
  simp (maxDischargeDepth := 9) [onBand, hk]

@[simp] theorem askErase_shown {kp : Area → Bool} (k : Nat) (d : Nat) (b : Nat) (s : State)
    (hk : Off kp [.pith]) : shown kp (askErase k d b s) = shown kp s := by
  simp only [off_cons, off_nil, and_true] at hk
  simp (maxDischargeDepth := 9) [askErase, hk]

@[simp] theorem startErase_shown {kp : Area → Bool} (k : Nat) (s : State)
    (hk : Off kp [.pith, .med]) : shown kp (startErase k s) = shown kp s := by
  simp only [off_cons, off_nil, and_true] at hk
  unfold startErase
  (repeat' split) <;> simp_all (maxDischargeDepth := 9)

@[simp] theorem prepare_shown {kp : Area → Bool} (k : Nat) (use : Nat) (s : State)
    (hk : Off kp [.pith, .med]) : shown kp (prepare k use s) = shown kp s := by
  simp only [off_cons, off_nil, and_true] at hk
  unfold prepare
  (repeat' split) <;> simp_all (maxDischargeDepth := 9)

@[simp] theorem openBand_shown {kp : Area → Bool} (k : Nat) (s : State)
    (hk : Off kp [.med]) : shown kp (openBand k s) = shown kp s := by
  simp only [off_cons, off_nil, and_true] at hk
  simp (maxDischargeDepth := 9) [openBand, hk]

@[simp] theorem closeBand_shown {kp : Area → Bool} (k : Nat) (s : State)
    (hk : Off kp [.med]) : shown kp (closeBand k s) = shown kp s := by
  simp only [off_cons, off_nil, and_true] at hk
  simp (maxDischargeDepth := 9) [closeBand, hk]

@[simp] theorem retireBand_shown {kp : Area → Bool} (k : Nat) (s : State)
    (hk : Off kp [.flw, .med]) : shown kp (retireBand k s) = shown kp s := by
  simp only [off_cons, off_nil, and_true] at hk
  simp (maxDischargeDepth := 9) [retireBand, hk]

@[simp] theorem freeBand_shown {kp : Area → Bool} (k : Nat) (s : State)
    (hk : Off kp [.pith, .flw, .med]) : shown kp (freeBand k s) = shown kp s := by
  simp only [off_cons, off_nil, and_true] at hk
  simp (maxDischargeDepth := 9) [freeBand, hk]
  (repeat' split) <;> simp_all (maxDischargeDepth := 9)

@[simp] theorem onDie_shown {kp : Area → Bool} (d : Nat) (f : Die → Die) (s : State)
    (hk : Off kp [.flw]) : shown kp (onDie d f s) = shown kp s := by
  simp only [off_cons, off_nil, and_true] at hk
  simp (maxDischargeDepth := 9) [onDie, hk]

@[simp] theorem onChan_shown {kp : Area → Bool} (c : Nat) (f : Chan → Chan) (s : State)
    (hk : Off kp [.flw]) : shown kp (onChan c f s) = shown kp s := by
  simp only [off_cons, off_nil, and_true] at hk
  simp (maxDischargeDepth := 9) [onChan, hk]

@[simp] theorem transfer_shown {kp : Area → Bool} (d : Nat) (a : Nat) (n : Nat) (s : State)
    (hk : Off kp [.flw]) : shown kp (transfer d a n s).2 = shown kp s := by
  simp only [off_cons, off_nil, and_true] at hk
  simp (maxDischargeDepth := 9) [transfer, hk]

@[simp] theorem rowSeq_shown {kp : Area → Bool} (k : Nat) (r : Nat) (s : State)
    (hk : Off kp [.med]) : shown kp (rowSeq k r s).2 = shown kp s := by
  simp only [off_cons, off_nil, and_true] at hk
  unfold rowSeq
  try dsimp only
  (repeat' split) <;> (try simp (maxDischargeDepth := 9) [hk]) <;> (repeat (refine shown_of_pair (by assumption) ?_; simp (maxDischargeDepth := 9) [hk]))

@[simp] theorem putUnit_shown {kp : Area → Bool} (k : Nat) (r : Nat) (m : Nat) (u : SUnit) (s : State)
    (hk : Off kp [.regs, .ctrs, .rge, .integ, .health, .med, .history, .out]) : shown kp (putUnit k r m u s) = shown kp s := by
  simp only [off_cons, off_nil, and_true] at hk
  simp (maxDischargeDepth := 9) [putUnit, hk]

@[simp] theorem drainInto_shown {kp : Area → Bool} (seg : Nat) (owner : Nat) (cls : Nat) (prec : Nat) (r : Run) (l : List Byte) (s : State)
    (hk : Off kp [.med]) : shown kp (drainInto seg owner cls prec r l s) = shown kp s := by
  simp only [off_cons, off_nil, and_true] at hk
  simp (maxDischargeDepth := 9) [drainInto, hk]

@[simp] theorem endFill_shown {kp : Area → Bool} (seg : Nat) (owner : Nat) (s : State)
    (hk : Off kp [.med]) : shown kp (endFill seg owner s) = shown kp s := by
  simp only [off_cons, off_nil, and_true] at hk
  simp (maxDischargeDepth := 9) [endFill, hk]

@[simp] theorem chargeDie_shown {kp : Area → Bool} (seg : Nat) (maint : Bool) (n : Nat) (s : State)
    (hk : Off kp [.med]) : shown kp (chargeDie seg maint n s) = shown kp s := by
  simp only [off_cons, off_nil, and_true] at hk
  simp (maxDischargeDepth := 9) [chargeDie, hk]

@[simp] theorem pickProg_shown {kp : Area → Bool} (d : Nat) (l : List ProgQ) (s : State)
    (hk : Off kp [.med]) : shown kp (pickProg d l s).2 = shown kp s := by
  simp only [off_cons, off_nil, and_true] at hk
  unfold pickProg
  try dsimp only
  (repeat' split) <;> (try simp (maxDischargeDepth := 9) [hk]) <;> (repeat (refine shown_of_pair (by assumption) ?_; simp (maxDischargeDepth := 9) [hk]))

@[simp] theorem startProg_shown {kp : Area → Bool} (d : Nat) (x : Die) (p : ProgQ) (s : State)
    (hk : Off kp [.flw, .out]) : shown kp (startProg d x p s) = shown kp s := by
  simp only [off_cons, off_nil, and_true] at hk
  simp (maxDischargeDepth := 9) [startProg, hk]

@[simp] theorem nextProgram_shown {kp : Area → Bool} (d : Nat) (s : State)
    (hk : Off kp [.flw, .med, .out]) : shown kp (nextProgram d s) = shown kp s := by
  simp only [off_cons, off_nil, and_true] at hk
  unfold nextProgram
  try dsimp only
  (repeat' split) <;> (try simp (maxDischargeDepth := 9) [hk]) <;> (repeat (refine shown_of_pair (by assumption) ?_; simp (maxDischargeDepth := 9) [hk]))

@[simp] theorem startPrograms_shown {kp : Area → Bool} (seg : Nat) (s : State)
    (hk : Off kp [.flw, .med, .out]) : shown kp (startPrograms seg s) = shown kp s := by
  simp only [off_cons, off_nil, and_true] at hk
  simp (maxDischargeDepth := 9) [startPrograms, hk]

@[simp] theorem programUnit_shown {kp : Area → Bool} (k : Nat) (r : Nat) (m : Nat) (d : Nat) (cls : Nat) (prec : Nat) (u : SUnit) (s : State)
    (hk : Off kp [.regs, .ctrs, .rge, .integ, .health, .flw, .med, .history, .out]) : shown kp (programUnit k r m d cls prec u s) = shown kp s := by
  simp only [off_cons, off_nil, and_true] at hk
  simp (maxDischargeDepth := 9) [programUnit, hk]

@[simp] theorem padRow_shown {kp : Area → Bool} (k : Nat) (r : Nat) (cls : Nat) (prec : Nat) (s : State)
    (hk : Off kp [.regs, .ctrs, .rge, .integ, .health, .flw, .med, .history, .out]) : shown kp (padRow k r cls prec s) = shown kp s := by
  simp only [off_cons, off_nil, and_true] at hk
  simp (maxDischargeDepth := 9) [padRow, hk]

@[simp] theorem padBand_shown {kp : Area → Bool} (k : Nat) (s : State)
    (hk : Off kp [.regs, .ctrs, .rge, .integ, .health, .flw, .med, .history, .out]) : shown kp (padBand k s) = shown kp s := by
  simp only [off_cons, off_nil, and_true] at hk
  simp (maxDischargeDepth := 9) [padBand, hk]

@[simp] theorem repoint_shown {kp : Area → Bool} (j : Nat) (l : List ((Nat × Nat × Nat) × (Nat × Nat))) (s : State)
    (hk : Off kp [.cmd, .med]) : shown kp (repoint j l s) = shown kp s := by
  simp only [off_cons, off_nil, and_true] at hk
  simp (maxDischargeDepth := 9) [repoint, hk]

@[simp] theorem verifyRow_shown {kp : Area → Bool} (k : Nat) (r : Nat) (s : State)
    (hk : Off kp [.regs, .ctrs, .rge, .integ, .health, .cmd, .med, .history, .out]) : shown kp (verifyRow k r s) = shown kp s := by
  simp only [off_cons, off_nil, and_true] at hk
  simp (maxDischargeDepth := 9) [verifyRow, hk]

@[simp] theorem unitDone_shown {kp : Area → Bool} (p : ProgQ) (m : Nat) (s : State)
    (hk : Off kp [.regs, .ctrs, .rge, .integ, .health, .cmd, .flw, .med, .history, .out]) : shown kp (unitDone p m s) = shown kp s := by
  simp only [off_cons, off_nil, and_true] at hk
  unfold unitDone
  try dsimp only
  (repeat' split) <;> (try simp (maxDischargeDepth := 9) [hk]) <;> (repeat (refine shown_of_pair (by assumption) ?_; simp (maxDischargeDepth := 9) [hk]))

@[simp] theorem abandonBand_shown {kp : Area → Bool} (k : Nat) (s : State)
    (hk : Off kp [.flw, .med]) : shown kp (abandonBand k s) = shown kp s := by
  simp only [off_cons, off_nil, and_true] at hk
  unfold abandonBand
  try dsimp only
  (repeat' split) <;> (try simp (maxDischargeDepth := 9) [hk]) <;> (repeat (refine shown_of_pair (by assumption) ?_; simp (maxDischargeDepth := 9) [hk]))

@[simp] theorem setSlc_shown {kp : Area → Bool} (k : Nat) (slc : Bool) (s : State)
    (hk : Off kp [.med]) : shown kp (setSlc k slc s) = shown kp s := by
  simp only [off_cons, off_nil, and_true] at hk
  simp (maxDischargeDepth := 9) [setSlc, hk]

@[simp] theorem openFor_shown {kp : Area → Bool} (seg : Nat) (slc : Bool) (limit : Nat) (fits : State → Nat → Bool) (s : State)
    (hk : Off kp [.regs, .ctrs, .rge, .integ, .pith, .health, .flw, .med, .history, .out]) : shown kp (openFor seg slc limit fits s).2 = shown kp s := by
  simp only [off_cons, off_nil, and_true] at hk
  unfold openFor
  try dsimp only
  (repeat' split) <;> (try simp (maxDischargeDepth := 9) [hk]) <;> (repeat (refine shown_of_pair (by assumption) ?_; simp (maxDischargeDepth := 9) [hk]))

@[simp] theorem layFill_shown {kp : Area → Bool} (slc : Bool) (limit : Nat) (pad : Bool) (f : Fill) (s : State)
    (hk : Off kp [.regs, .ctrs, .rge, .integ, .pith, .health, .flw, .med, .history, .out]) : shown kp (layFill slc limit pad f s).2 = shown kp s := by
  simp only [off_cons, off_nil, and_true] at hk
  unfold layFill
  dsimp only
  have h2 : ∀ (c : Prop) [Decidable c] (f : Med → Med) (u : State), (∀ x, (f x).harvest = x.harvest) → shown kp (if c then onMed f u else u) = shown kp u := by
    intro c _ f u h; split <;> simp [hk, h]
  (repeat' split) <;> (try simp (maxDischargeDepth := 9) [hk]) <;> (repeat (refine shown_of_pair (by assumption) ?_; simp (maxDischargeDepth := 9) [hk]))

@[simp] theorem layFills_shown {kp : Area → Bool} (slc : Bool) (limit : Nat) (pad : Bool) (p : Fill → Bool) (s : State)
    (hk : Off kp [.regs, .ctrs, .rge, .integ, .pith, .health, .flw, .med, .history, .out]) : shown kp (layFills slc limit pad p s) = shown kp s := by
  simp only [off_cons, off_nil, and_true] at hk
  simp (maxDischargeDepth := 9) [layFills, hk]

@[simp] theorem layCws_shown {kp : Area → Bool} (k : Nat) (l : List Cw) (s : State)
    (hk : Off kp [.regs, .ctrs, .rge, .integ, .health, .cmd, .med, .history, .out]) : shown kp (layCws k l s) = shown kp s := by
  simp only [off_cons, off_nil, and_true] at hk
  simp (maxDischargeDepth := 9) [layCws, hk]

@[simp] theorem layFlush_shown {kp : Area → Bool} (x0 : List Nat) (x1 : List Cw) (x2 : State)
    (hk : Off kp [.regs, .ctrs, .rge, .integ, .health, .cmd, .med, .history, .out]) : shown kp (layFlush x0 x1 x2).2 = shown kp x2 := by
  simp only [off_cons, off_nil, and_true] at hk
  fun_induction layFlush x0 x1 x2 <;> simp_all +zetaDelta (maxDischargeDepth := 9)

@[simp] theorem flushAlone_shown {kp : Area → Bool} (seg : Nat) (i : StoneItem) (s : State)
    (hk : Off kp [.regs, .ctrs, .rge, .integ, .health, .cmd, .brc, .med, .history, .out]) : shown kp (flushAlone seg i s) = shown kp s := by
  simp only [off_cons, off_nil, and_true] at hk
  simp (maxDischargeDepth := 9) [flushAlone, hk]

@[simp] theorem addStone_shown {kp : Area → Bool} (seg : Nat) (i : StoneItem) (s : State)
    (hk : Off kp [.regs, .ctrs, .rge, .integ, .health, .cmd, .brc, .med, .history, .out]) : shown kp (addStone seg i s) = shown kp s := by
  simp only [off_cons, off_nil, and_true] at hk
  simp (maxDischargeDepth := 9) [addStone, hk]

@[simp] theorem updateFloor_shown {kp : Area → Bool} (s : State)
    (hk : Off kp [.regs, .ctrs, .rge, .integ, .pins, .cmd, .med, .history, .out]) : shown kp (updateFloor s) = shown kp s := by
  simp only [off_cons, off_nil, and_true] at hk
  simp (maxDischargeDepth := 9) [updateFloor, hk]

@[simp] theorem checkHarvest_shown {kp : Area → Bool} (s : State)
    (hk : Off kp [.regs, .ctrs, .rge, .integ, .pins, .cmd, .med, .history, .out, .harvest]) :
    shown kp (checkHarvest s) = shown kp s := by
  simp only [off_cons, off_nil, and_true] at hk
  simp (maxDischargeDepth := 9) [checkHarvest, hk]

@[simp] theorem onStone_shown {kp : Area → Bool} (seg : Nat) (f : List StoneItem → List StoneItem) (s : State)
    (hk : Off kp [.med]) : shown kp (onStone seg f s) = shown kp s := by
  simp only [off_cons, off_nil, and_true] at hk
  simp (maxDischargeDepth := 9) [onStone, hk]

@[simp] theorem settleFills_shown {kp : Area → Bool} (seg : Nat) (s : State)
    (hk : Off kp [.regs, .ctrs, .rge, .integ, .pith, .health, .flw, .med, .history, .out]) : shown kp (settleFills seg s) = shown kp s := by
  simp only [off_cons, off_nil, and_true] at hk
  simp (maxDischargeDepth := 9) [settleFills, hk]

@[simp] theorem restartDrain_shown {kp : Area → Bool} (seg : Nat) (s : State)
    (hk : Off kp [.med]) : shown kp (restartDrain seg s) = shown kp s := by
  simp only [off_cons, off_nil, and_true] at hk
  simp (maxDischargeDepth := 9) [restartDrain, hk]

@[simp] theorem growReserve_shown {kp : Area → Bool} (seg : Nat) (x1 : Nat) (x2 : State)
    (hk : Off kp [.med]) : shown kp (growReserve seg x1 x2) = shown kp x2 := by
  simp only [off_cons, off_nil, and_true] at hk
  fun_induction growReserve seg x1 x2 <;> simp_all (maxDischargeDepth := 9)

@[simp] theorem keepErased_shown {kp : Area → Bool} (s : State) (seg : Nat)
    (hk : Off kp [.pith, .med]) : shown kp (keepErased s seg) = shown kp s := by
  simp only [off_cons, off_nil, and_true] at hk
  simp (maxDischargeDepth := 9) [keepErased, hk]

@[simp] theorem queueBand_shown {kp : Area → Bool} (k : Nat) (s : State)
    (hk : Off kp [.med]) : shown kp (queueBand k s) = shown kp s := by
  simp only [off_cons, off_nil, and_true] at hk
  simp (maxDischargeDepth := 9) [queueBand, hk]

@[simp] theorem takeSpare_shown {kp : Area → Bool} (k : Nat) (d : Nat) (b : Nat) (n : Nat) (s : State)
    (hk : Off kp [.pith, .flw, .med]) : shown kp (takeSpare k d b n s) = shown kp s := by
  simp only [off_cons, off_nil, and_true] at hk
  unfold takeSpare
  try dsimp only
  (repeat' split) <;> (try simp (maxDischargeDepth := 9) [hk]) <;> (repeat (refine shown_of_pair (by assumption) ?_; simp (maxDischargeDepth := 9) [hk]))

@[simp] theorem loseBand_shown {kp : Area → Bool} (k : Nat) (s : State)
    (hk : Off kp [.pith, .flw, .med]) : shown kp (loseBand k s) = shown kp s := by
  simp only [off_cons, off_nil, and_true] at hk
  unfold loseBand
  try dsimp only
  (repeat' split) <;> (try simp (maxDischargeDepth := 9) [hk]) <;> (repeat (refine shown_of_pair (by assumption) ?_; simp (maxDischargeDepth := 9) [hk]))

@[simp] theorem retireBlockF_shown {kp : Area → Bool} (ef : Nat) (d : Nat) (b : Nat) (cause : Nat) (s : State)
    (hk : Off kp [.regs, .ctrs, .rge, .integ, .pith, .pins, .health, .cmd, .flw, .med, .history, .out, .harvest]) : shown kp (retireBlockF ef d b cause s) = shown kp s := by
  simp only [off_cons, off_nil, and_true] at hk
  unfold retireBlockF
  try dsimp only
  (repeat' split) <;> (try simp (maxDischargeDepth := 9) [hk]) <;> (repeat (refine shown_of_pair (by assumption) ?_; simp (maxDischargeDepth := 9) [hk]))

@[simp] theorem retireBlock_shown {kp : Area → Bool} (d : Nat) (b : Nat) (cause : Nat) (s : State)
    (hk : Off kp [.regs, .ctrs, .rge, .integ, .pith, .pins, .health, .cmd, .flw, .med, .history, .out, .harvest]) :
    shown kp (retireBlock d b cause s) = shown kp s := by
  simp only [off_cons, off_nil, and_true] at hk
  simp (maxDischargeDepth := 9) [retireBlock, hk]

@[simp] theorem checkPct_shown {kp : Area → Bool} (s : State)
    (hk : Off kp [.regs, .ctrs, .rge, .integ, .med, .history, .out]) : shown kp (checkPct s) = shown kp s := by
  simp only [off_cons, off_nil, and_true] at hk
  simp (maxDischargeDepth := 9) [checkPct, hk]

@[simp] theorem readDie_shown {kp : Area → Bool} (d : Nat) (b : Nat) (r : Nat) (prec : Nat) (s : State)
    (hk : Off kp [.flw, .med, .out]) : shown kp (readDie d b r prec s) = shown kp s := by
  simp only [off_cons, off_nil, and_true] at hk
  unfold readDie
  try dsimp only
  (repeat' split) <;> (try simp (maxDischargeDepth := 9) [hk]) <;> (repeat (refine shown_of_pair (by assumption) ?_; simp (maxDischargeDepth := 9) [hk]))

@[simp] theorem readUnit_shown {kp : Area → Bool} (k : Nat) (u : Nat) (prec : Nat) (s : State)
    (hk : Off kp [.flw, .med, .out]) : shown kp (readUnit k u prec s).2 = shown kp s := by
  simp only [off_cons, off_nil, and_true] at hk
  simp (maxDischargeDepth := 9) [readUnit, hk]

@[simp] theorem gather_shown {kp : Area → Bool} (k : Nat) (prec : Nat) (n : Nat) (l : List (Nat × Nat)) (s : State)
    (hk : Off kp [.flw, .med, .out]) : shown kp (gather k prec n l s).2 = shown kp s := by
  simp only [off_cons, off_nil, and_true] at hk
  simp (maxDischargeDepth := 9) [gather, hk]

@[simp] theorem padCopies_shown {kp : Area → Bool} (seg : Nat) (prec : Nat) (cls : Nat) (s : State)
    (hk : Off kp [.regs, .ctrs, .rge, .integ, .health, .flw, .med, .history, .out]) : shown kp (padCopies seg prec cls s) = shown kp s := by
  simp only [off_cons, off_nil, and_true] at hk
  simp (maxDischargeDepth := 9) [padCopies, hk]

@[simp] theorem squeeze_shown {kp : Area → Bool} (prec : Nat) (bad : List (Nat × Nat × Nat)) (x : Nat × Nat) (s : State)
    (hk : Off kp [.regs, .ctrs, .rge, .integ, .pith, .health, .cmd, .flw, .med, .history, .out]) : shown kp (squeeze prec bad x s).2 = shown kp s := by
  simp only [off_cons, off_nil, and_true] at hk
  unfold squeeze
  try dsimp only
  (repeat' split) <;> (try simp (maxDischargeDepth := 9) [hk]) <;> (repeat (refine shown_of_pair (by assumption) ?_; simp (maxDischargeDepth := 9) [hk]))

@[simp] theorem settleSqueezes_shown {kp : Area → Bool} (seg : Nat) (s : State)
    (hk : Off kp [.cmd, .med]) : shown kp (settleSqueezes seg s) = shown kp s := by
  simp only [off_cons, off_nil, and_true] at hk
  simp (maxDischargeDepth := 9) [settleSqueezes, hk]

@[simp] theorem wearTarget_shown {kp : Area → Bool} (seg : Nat) (s : State)
    (hk : Off kp [.regs, .ctrs, .rge, .integ, .pith, .health, .flw, .med, .history, .out]) : shown kp (wearTarget seg s).2 = shown kp s := by
  simp only [off_cons, off_nil, and_true] at hk
  unfold wearTarget
  try dsimp only
  (repeat' split) <;> (try simp (maxDischargeDepth := 9) [hk]) <;> (repeat (refine shown_of_pair (by assumption) ?_; simp (maxDischargeDepth := 9) [hk]))

@[simp] theorem moveTarget_shown {kp : Area → Bool} (seg : Nat) (prec : Nat) (s : State)
    (hk : Off kp [.regs, .ctrs, .rge, .integ, .pith, .health, .flw, .med, .history, .out]) : shown kp (moveTarget seg prec s).2 = shown kp s := by
  simp only [off_cons, off_nil, and_true] at hk
  simp (maxDischargeDepth := 9) [moveTarget, hk]

@[simp] theorem layCopy_shown {kp : Area → Bool} (k : Nat) (j : Nat) (prec : Nat) (cls : Nat) (l : List (Nat × Nat)) (s : State)
    (hk : Off kp [.regs, .ctrs, .rge, .integ, .health, .flw, .med, .history, .out]) : shown kp (layCopy k j prec cls l s).2 = shown kp s := by
  simp only [off_cons, off_nil, and_true] at hk
  unfold layCopy
  try dsimp only
  (repeat' split) <;> (try simp (maxDischargeDepth := 9) [hk]) <;> (repeat (refine shown_of_pair (by assumption) ?_; simp (maxDischargeDepth := 9) [hk]))

@[simp] theorem moveStep_shown {kp : Area → Bool} (k : Nat) (prec : Nat) (cls : Option Nat) (again : Option (List (Nat × Nat × Nat))) (s : State)
    (hk : Off kp [.regs, .ctrs, .rge, .integ, .pith, .pins, .health, .cmd, .flw, .med, .history, .out]) : shown kp (moveStep k prec cls again s).2 = shown kp s := by
  simp only [off_cons, off_nil, and_true] at hk
  unfold moveStep
  try dsimp only
  (repeat' split) <;> (try simp (maxDischargeDepth := 9) [hk]) <;> (repeat (refine shown_of_pair (by assumption) ?_; simp (maxDischargeDepth := 9) [hk]))

@[simp] theorem retirePage_shown {kp : Area → Bool} (seg : Nat) (page : Nat) (k : Nat) (s : State)
    (hk : Off kp [.regs, .ctrs, .rge, .integ, .pith, .mov, .history, .out]) : shown kp (retirePage seg page k s) = shown kp s := by
  simp only [off_cons, off_nil, and_true] at hk
  simp (maxDischargeDepth := 9) [retirePage, hk]

@[simp] theorem dramFinding_shown {kp : Area → Bool} (seg : Nat) (s : State) (x : DramFind)
    (hk : Off kp [.regs, .ctrs, .rge, .integ, .pith, .pins, .health, .cmd, .mov, .history, .out]) :
    shown kp (dramFinding seg s x) = shown kp s := by
  simp only [off_cons, off_nil, and_true] at hk
  unfold dramFinding
  try dsimp only
  (repeat' split) <;> simp_all (maxDischargeDepth := 9)

@[simp] theorem dramFindings_shown {kp : Area → Bool} (seg : Nat) (l : List DramFind) (s : State)
    (hk : Off kp [.regs, .ctrs, .rge, .integ, .pith, .pins, .health, .cmd, .mov, .history, .out]) : shown kp (dramFindings seg l s) = shown kp s := by
  simp only [off_cons, off_nil, and_true] at hk
  simp (maxDischargeDepth := 9) [dramFindings, hk]

@[simp] theorem updateBypass_shown {kp : Area → Bool} (seg : Nat) (s : State)
    (hk : Off kp [.zst]) : shown kp (updateBypass seg s) = shown kp s := by
  simp only [off_cons, off_nil, and_true] at hk
  simp (maxDischargeDepth := 9) [updateBypass, hk]

@[simp] theorem layItem_shown {kp : Area → Bool} (seg : Nat) (i : StoneItem) (no : Nat) (s : State)
    (hk : Off kp [.regs, .ctrs, .rge, .integ, .pith, .health, .flw, .med, .history, .out]) : shown kp (layItem seg i no s) = shown kp s := by
  simp only [off_cons, off_nil, and_true] at hk
  unfold layItem
  try dsimp only
  (repeat' split) <;> (try simp (maxDischargeDepth := 9) [hk]) <;> (repeat (refine shown_of_pair (by assumption) ?_; simp (maxDischargeDepth := 9) [hk]))

@[simp] theorem formRecord_shown {kp : Area → Bool} (seg : Nat) (raw : Bool) (by_ : Bool) (bad : List Nat) (i : StoneItem) (s : State)
    (hk : Off kp [.regs, .ctrs, .rge, .integ, .cmd, .history, .out]) : shown kp (formRecord seg raw by_ bad i s) = shown kp s := by
  simp only [off_cons, off_nil, and_true] at hk
  unfold formRecord
  try dsimp only
  (repeat' split) <;> (try simp (maxDischargeDepth := 9) [hk]) <;> (repeat (refine shown_of_pair (by assumption) ?_; simp (maxDischargeDepth := 9) [hk]))

theorem execStoneDrain_shown {kp : Area → Bool} (t : Nat) (seg : Nat) (bad : List Nat) (finds : List DramFind) (s : State) (s0 : State)
    (hk : Off kp [.now, .regs, .ctrs, .rge, .integ, .pith, .pins, .health, .cmd, .zst, .flw, .med, .mov, .history, .out]) : shown kp (after (execStoneDrain t seg bad finds s) s0) = shown kp s := by
  simp only [off_cons, off_nil, and_true] at hk
  unfold execStoneDrain
  try dsimp only
  (repeat' split) <;> (try simp (maxDischargeDepth := 9) [hk]) <;> (repeat (refine shown_of_pair (by assumption) ?_; simp (maxDischargeDepth := 9) [hk]))

@[simp] theorem queueHead_shown {kp : Area → Bool} (k : Nat) (n : Nat) (s : State)
    (hk : Off kp [.pith, .cmd]) : shown kp (queueHead k n s) = shown kp s := by
  simp only [off_cons, off_nil, and_true] at hk
  unfold queueHead
  (repeat' split) <;> simp_all (maxDischargeDepth := 9)

@[simp] theorem landed_shown {kp : Area → Bool} (seg : Nat) (i : StoneItem) (l : List Piece) (s : State)
    (hk : Off kp [.regs, .ctrs, .rge, .integ, .pith, .cmd, .history, .out]) : shown kp (landed seg i l s) = shown kp s := by
  simp only [off_cons, off_nil, and_true] at hk
  simp (maxDischargeDepth := 9) [landed, hk]

@[simp] theorem dropImage_shown {kp : Area → Bool} (i : StoneItem) (s : State)
    (hk : Off kp [.pith, .brc, .med]) : shown kp (dropImage i s) = shown kp s := by
  simp only [off_cons, off_nil, and_true] at hk
  simp (maxDischargeDepth := 9) [dropImage, hk]

@[simp] theorem finishDrain_shown {kp : Area → Bool} (seg : Nat) (i : StoneItem) (s : State)
    (hk : Off kp [.regs, .ctrs, .rge, .integ, .pith, .health, .cmd, .brc, .zst, .med, .history, .out]) : shown kp (finishDrain seg i s) = shown kp s := by
  simp only [off_cons, off_nil, and_true] at hk
  unfold finishDrain
  try dsimp only
  (repeat' split) <;> (try simp (maxDischargeDepth := 9) [hk]) <;> (repeat (refine shown_of_pair (by assumption) ?_; simp (maxDischargeDepth := 9) [hk]))

theorem execRecordDrainComplete_shown {kp : Area → Bool} (t : Nat) (seg : Nat) (s : State) (s0 : State)
    (hk : Off kp [.now, .regs, .ctrs, .rge, .integ, .pith, .pins, .health, .cmd, .brc, .zst, .med, .history, .out]) :
    shown kp (after (execRecordDrainComplete t seg s) s0) = shown kp s := by
  simp only [off_cons, off_nil, and_true] at hk
  simp (maxDischargeDepth := 9) [execRecordDrainComplete, hk]
  (repeat' split) <;> simp_all (maxDischargeDepth := 9)

theorem execPartialUnitTimeout_shown {kp : Area → Bool} (t : Nat) (k : Nat) (s : State) (s0 : State)
    (hk : Off kp [.now, .regs, .ctrs, .rge, .integ, .pith, .pins, .health, .cmd, .brc, .zst, .flw, .med, .history, .out]) :
    shown kp (after (execPartialUnitTimeout t k s) s0) = shown kp s := by
  simp only [off_cons, off_nil, and_true] at hk
  simp (maxDischargeDepth := 9) [execPartialUnitTimeout, hk]
  (repeat' split) <;> simp_all (maxDischargeDepth := 9)

@[simp] theorem claim_shown {kp : Area → Bool} (k : Nat) (prec : Nat) (s : State)
    (hk : Off kp [.med]) : shown kp (claim k prec s) = shown kp s := by
  simp only [off_cons, off_nil, and_true] at hk
  simp (maxDischargeDepth := 9) [claim, hk]

@[simp] theorem endClaims_shown {kp : Area → Bool} (seg : Nat) (prec : Nat) (s : State)
    (hk : Off kp [.med]) : shown kp (endClaims seg prec s) = shown kp s := by
  simp only [off_cons, off_nil, and_true] at hk
  simp (maxDischargeDepth := 9) [endClaims, hk]

@[simp] theorem shutBand_shown {kp : Area → Bool} (k : Nat) (s : State)
    (hk : Off kp [.regs, .ctrs, .rge, .integ, .health, .flw, .med, .history, .out]) : shown kp (shutBand k s) = shown kp s := by
  simp only [off_cons, off_nil, and_true] at hk
  unfold shutBand
  try dsimp only
  (repeat' split) <;> (try simp (maxDischargeDepth := 9) [hk]) <;> (repeat (refine shown_of_pair (by assumption) ?_; simp (maxDischargeDepth := 9) [hk]))

@[simp] theorem slcStep_shown {kp : Area → Bool} (seg : Nat) (limit : Nat) (empty : Bool) (s : State)
    (hk : Off kp [.regs, .ctrs, .rge, .integ, .pith, .pins, .health, .cmd, .flw, .med, .history, .out]) : shown kp (slcStep seg limit empty s) = shown kp s := by
  simp only [off_cons, off_nil, and_true] at hk
  unfold slcStep
  try dsimp only
  (repeat' split) <;> (try simp (maxDischargeDepth := 9) [hk]) <;> (repeat (refine shown_of_pair (by assumption) ?_; simp (maxDischargeDepth := 9) [hk]))

@[simp] theorem recompressNext_shown {kp : Area → Bool} (seg : Nat) (bad : List (Nat × Nat × Nat)) (s : State)
    (hk : Off kp [.regs, .ctrs, .rge, .integ, .pith, .health, .cmd, .flw, .med, .history, .out]) : shown kp (recompressNext seg bad s) = shown kp s := by
  simp only [off_cons, off_nil, and_true] at hk
  unfold recompressNext
  try dsimp only
  (repeat' split) <;> (try simp (maxDischargeDepth := 9) [hk]) <;> (repeat (refine shown_of_pair (by assumption) ?_; simp (maxDischargeDepth := 9) [hk]))

theorem execSlcMove_shown {kp : Area → Bool} (t : Nat) (seg : Nat) (bad : List (Nat × Nat × Nat)) (s : State) (s0 : State)
    (hk : Off kp [.now, .regs, .ctrs, .rge, .integ, .pith, .pins, .health, .cmd, .flw, .med, .history, .out, .harvest]) : shown kp (after (execSlcMove t seg bad s) s0) = shown kp s := by
  simp only [off_cons, off_nil, and_true] at hk
  simp (maxDischargeDepth := 9) [execSlcMove, hk]

@[simp] theorem beginCkpt_shown {kp : Area → Bool} (seg : Nat) (s : State)
    (hk : Off kp [.draws, .regs, .ctrs, .rge, .integ, .pith, .health, .flw, .med, .history, .out]) : shown kp (beginCkpt seg s) = shown kp s := by
  simp only [off_cons, off_nil, and_true] at hk
  simp (maxDischargeDepth := 9) [beginCkpt, hk]

@[simp] theorem settleCkpt_shown {kp : Area → Bool} (seg : Nat) (s : State)
    (hk : Off kp [.regs, .ctrs, .rge, .integ, .pith, .cmd, .med, .history, .out]) : shown kp (settleCkpt seg s) = shown kp s := by
  simp only [off_cons, off_nil, and_true] at hk
  unfold settleCkpt
  try dsimp only
  (repeat' split) <;> (try simp (maxDischargeDepth := 9) [hk]) <;> (repeat (refine shown_of_pair (by assumption) ?_; simp (maxDischargeDepth := 9) [hk]))

@[simp] theorem settleSeg_shown {kp : Area → Bool} (seg : Nat) (s : State)
    (hk : Off kp [.regs, .ctrs, .rge, .integ, .pith, .cmd, .med, .history, .out]) : shown kp (settleSeg seg s) = shown kp s := by
  simp only [off_cons, off_nil, and_true] at hk
  simp (maxDischargeDepth := 9) [settleSeg, hk]

theorem execMapCheckpoint_shown {kp : Area → Bool} (t : Nat) (seg : Nat) (s : State) (s0 : State)
    (hk : Off kp [.now, .draws, .regs, .ctrs, .rge, .integ, .pith, .health, .cmd, .flw, .med, .history, .out]) : shown kp (after (execMapCheckpoint t seg s) s0) = shown kp s := by
  simp only [off_cons, off_nil, and_true] at hk
  unfold execMapCheckpoint
  try dsimp only
  (repeat' split) <;> (try simp (maxDischargeDepth := 9) [hk]) <;> (repeat (refine shown_of_pair (by assumption) ?_; simp (maxDischargeDepth := 9) [hk]))

theorem execGarbageCollection_shown {kp : Area → Bool} (t : Nat) (seg : Nat) (bad : List (Nat × Nat × Nat)) (s : State) (s0 : State)
    (hk : Off kp [.now, .regs, .ctrs, .rge, .integ, .pith, .pins, .health, .cmd, .flw, .med, .history, .out, .harvest]) : shown kp (after (execGarbageCollection t seg bad s) s0) = shown kp s := by
  simp only [off_cons, off_nil, and_true] at hk
  simp (maxDischargeDepth := 9) [execGarbageCollection, hk]
  (repeat' split) <;> simp_all (maxDischargeDepth := 9)

@[simp] theorem foreground_shown {kp : Area → Bool} (key : Nat) (seg : Nat) (n : Nat) (cls : Nat) (s : State)
    (hk : Off kp [.regs, .ctrs, .rge, .integ, .pith, .pins, .health, .cmd, .flw, .med, .history, .out, .harvest]) : shown kp (foreground key seg n cls s).2 = shown kp s := by
  simp only [off_cons, off_nil, and_true] at hk
  unfold foreground
  try dsimp only
  (repeat' split) <;> (try simp (maxDischargeDepth := 9) [hk]) <;> (repeat (refine shown_of_pair (by assumption) ?_; simp (maxDischargeDepth := 9) [hk]))

theorem execWearMove_shown {kp : Area → Bool} (t : Nat) (seg : Nat) (bad : List (Nat × Nat × Nat)) (s : State) (s0 : State)
    (hk : Off kp [.now, .regs, .ctrs, .rge, .integ, .pith, .pins, .health, .cmd, .flw, .med, .history, .out, .harvest]) : shown kp (after (execWearMove t seg bad s) s0) = shown kp s := by
  simp only [off_cons, off_nil, and_true] at hk
  simp (maxDischargeDepth := 9) [execWearMove, hk]
  (repeat' split) <;> simp_all (maxDischargeDepth := 9)

@[simp] theorem startPass_shown {kp : Area → Bool} (seg : Nat) (unpaced : Bool) (s : State)
    (hk : Off kp [.med]) : shown kp (startPass seg unpaced s) = shown kp s := by
  simp only [off_cons, off_nil, and_true] at hk
  simp (maxDischargeDepth := 9) [startPass, hk]

@[simp] theorem onPatrol_shown {kp : Area → Bool} (seg : Nat) (f : Patrol → Patrol) (s : State)
    (hk : Off kp [.med]) : shown kp (onPatrol seg f s) = shown kp s := by
  simp only [off_cons, off_nil, and_true] at hk
  simp (maxDischargeDepth := 9) [onPatrol, hk]

@[simp] theorem dramPatrol_shown {kp : Area → Bool} (s : State) (seg : Nat)
    (hk : Off kp [.med]) : shown kp (dramPatrol s seg) = shown kp s := by
  simp only [off_cons, off_nil, and_true] at hk
  simp (maxDischargeDepth := 9) [dramPatrol, hk]

@[simp] theorem patrolStep_shown {kp : Area → Bool} (s : State) (seg : Nat)
    (hk : Off kp [.regs, .ctrs, .rge, .integ, .med, .history, .out]) : shown kp (patrolStep s seg) = shown kp s := by
  simp only [off_cons, off_nil, and_true] at hk
  simp (maxDischargeDepth := 9) [patrolStep, hk]

@[simp] theorem countPatrol_shown {kp : Area → Bool} (d : Nat) (b : Nat) (pg : Nat) (s : State)
    (hk : Off kp [.regs, .ctrs, .rge, .integ, .med, .history, .out]) : shown kp (countPatrol d b pg s) = shown kp s := by
  simp only [off_cons, off_nil, and_true] at hk
  unfold countPatrol
  try dsimp only
  (repeat' split) <;> (try simp (maxDischargeDepth := 9) [hk]) <;> (repeat (refine shown_of_pair (by assumption) ?_; simp (maxDischargeDepth := 9) [hk]))

@[simp] theorem blankFails_shown {kp : Area → Bool} (d : Nat) (b : Nat) (s : State)
    (hk : Off kp [.pith, .flw, .med]) : shown kp (blankFails d b s) = shown kp s := by
  simp only [off_cons, off_nil, and_true] at hk
  unfold blankFails
  try dsimp only
  (repeat' split) <;> (try simp (maxDischargeDepth := 9) [hk]) <;> (repeat (refine shown_of_pair (by assumption) ?_; simp (maxDischargeDepth := 9) [hk]))

theorem execPatrolPassEnd_shown {kp : Area → Bool} (t : Nat) (seg : Nat) (finds : List DramFind) (s : State) (s0 : State)
    (hk : Off kp [.now, .regs, .ctrs, .rge, .integ, .pith, .pins, .health, .cmd, .med, .mov, .history, .out]) :
    shown kp (after (execPatrolPassEnd t seg finds s) s0) = shown kp s := by
  simp only [off_cons, off_nil, and_true] at hk
  simp (maxDischargeDepth := 9) [execPatrolPassEnd, hk]

@[simp] theorem queueRefresh_shown {kp : Area → Bool} (k : Nat) (l : List (Nat × Nat)) (s : State)
    (hk : Off kp [.regs, .ctrs, .rge, .integ, .pith, .pins, .health, .cmd, .flw, .med, .history, .out, .harvest]) : shown kp (queueRefresh k l s) = shown kp s := by
  simp only [off_cons, off_nil, and_true] at hk
  unfold queueRefresh
  (repeat' split) <;> simp_all (maxDischargeDepth := 9)

theorem execRetentionRefresh_shown {kp : Area → Bool} (t : Nat) (k : Nat) (s : State) (s0 : State)
    (hk : Off kp [.now, .regs, .ctrs, .rge, .integ, .pith, .pins, .health, .cmd, .flw, .med, .history, .out, .harvest]) : shown kp (after (execRetentionRefresh t k s) s0) = shown kp s := by
  simp only [off_cons, off_nil, and_true] at hk
  simp (maxDischargeDepth := 9) [execRetentionRefresh, hk]
  (repeat' split) <;> simp_all (maxDischargeDepth := 9)

theorem execAgeRefresh_shown {kp : Area → Bool} (t : Nat) (k : Nat) (s : State) (s0 : State)
    (hk : Off kp [.now, .regs, .ctrs, .rge, .integ, .pith, .pins, .health, .cmd, .flw, .med, .history, .out, .harvest]) :
    shown kp (after (execAgeRefresh t k s) s0) = shown kp s := by
  simp only [off_cons, off_nil, and_true] at hk
  simp (maxDischargeDepth := 9) [execAgeRefresh, hk]
  (repeat' split) <;> simp_all (maxDischargeDepth := 9)

theorem execMaintTokenHandoff_shown {kp : Area → Bool} (t : Nat) (res : Nat) (s : State) (s0 : State)
    (hk : Off kp [.now, .med]) : shown kp (after (execMaintTokenHandoff t res s) s0) = shown kp s := by
  simp only [off_cons, off_nil, and_true] at hk
  simp (maxDischargeDepth := 9) [execMaintTokenHandoff, hk]

@[simp] theorem depotStart_shown {kp : Area → Bool} (s : State) (hk : Off kp [.med, .pwr]) : shown kp (depotStart s) = shown kp s := by
  simp only [off_cons, off_nil, and_true] at hk
  unfold depotStart
  have h1 : ∀ (l : List Nat) (s : State), shown kp (l.foldl (fun s n => if sleepOf s n ≥ 2 then startWake n s else s) s) = shown kp s := by
    intro l s; refine shown_foldl _ _ (fun s n => ?_) _; split <;> simp [hk]
  have h2 : ∀ (l : List Nat) (s : State), shown kp (l.foldl (fun s n => startPass n true s) s) = shown kp s := by
    intro l s; exact shown_foldl _ _ (fun s n => by simp [hk]) _
  have h3 : ∀ (f : Med → Med) (u : State), (∀ m, (f m).harvest = m.harvest) → shown kp (onMed f u) = shown kp u := by
    intro f u hf; simp [hk, hf]
  dsimp only
  rw [h2, h3 _ _ (fun m => by split <;> rfl), h1]

@[simp] theorem countMargin_shown {kp : Area → Bool} (d : Nat) (b : Nat) (pg : Nat) (s : State)
    (hk : Off kp [.med]) : shown kp (countMargin d b pg s) = shown kp s := by
  simp only [off_cons, off_nil, and_true] at hk
  simp (maxDischargeDepth := 9) [countMargin, hk]

@[simp] theorem depotStop_shown {kp : Area → Bool} (s : State)
    (hk : Off kp [.regs, .ctrs, .rge, .integ, .med, .history, .out]) : shown kp (depotStop s) = shown kp s := by
  simp only [off_cons, off_nil, and_true] at hk
  simp (maxDischargeDepth := 9) [depotStop, hk]

@[simp] theorem endZ_shown {kp : Area → Bool} (s : State)
    (hk : Off kp [.med]) : shown kp (endZ s) = shown kp s := by
  simp only [off_cons, off_nil, and_true] at hk
  simp (maxDischargeDepth := 9) [endZ, hk]

@[simp] theorem compactStep_shown {kp : Area → Bool} (l : List Nat) (s : State)
    (hk : Off kp [.regs, .ctrs, .rge, .integ, .pith, .pins, .health, .cmd, .flw, .med, .history, .out]) : shown kp (compactStep l s).2.2 = shown kp s := by
  simp only [off_cons, off_nil, and_true] at hk
  unfold compactStep
  try dsimp only
  (repeat' split) <;> (try simp (maxDischargeDepth := 9) [hk]) <;> (repeat (refine shown_of_pair (by assumption) ?_; simp (maxDischargeDepth := 9) [hk]))

theorem execMedSnapNow_shown {kp : Area → Bool} (t : Nat) (n : Nat) (s : State) (s0 : State)
    (hk : Off kp [.now, .regs, .ctrs, .snaps, .rge, .integ, .flw, .pwr, .mov, .history, .out]) :
    shown kp (after (execMedSnapNow t n s) s0) = shown kp s := by
  simp only [off_cons, off_nil, and_true] at hk
  simp (maxDischargeDepth := 9) [execMedSnapNow, hk]

@[simp] theorem aheadNs_shown {kp : Area → Bool} (s : State) (p : Nat × Ns)
    (hk : Off kp [.regs, .ctrs, .rge, .integ, .health, .cmd, .history, .out]) : shown kp (aheadNs s p) = shown kp s := by
  simp only [off_cons, off_nil, and_true] at hk
  simp (maxDischargeDepth := 9) [aheadNs, hk]

@[simp] theorem aheadSeg_shown {kp : Area → Bool} (s : State) (seg : Nat)
    (hk : Off kp [.regs, .ctrs, .rge, .integ, .health, .cmd, .history, .out]) : shown kp (aheadSeg s seg) = shown kp s := by
  simp only [off_cons, off_nil, and_true] at hk
  simp (maxDischargeDepth := 9) [aheadSeg, hk]

@[simp] theorem mediaBoundary_shown {kp : Area → Bool} (s : State)
    (hk : Off kp [.regs, .ctrs, .rge, .integ, .pins, .health, .cmd, .med, .history, .out]) : shown kp (mediaBoundary s) = shown kp s := by
  simp only [off_cons, off_nil, and_true] at hk
  simp (maxDischargeDepth := 9) [mediaBoundary, hk]

@[simp] theorem openWindow_shown {kp : Area → Bool} (d : Nat) (dp : Nat) (s : State)
    (hk : Off kp [.regs, .ctrs, .rge, .integ, .flw, .history, .out]) : shown kp (openWindow d dp s) = shown kp s := by
  simp only [off_cons, off_nil, and_true] at hk
  simp (maxDischargeDepth := 9) [openWindow, hk]
  (repeat' split) <;> simp_all (maxDischargeDepth := 9)

@[simp] theorem voidRead_shown {kp : Area → Bool} (id : Option Nat) (cause : Nat) (s : State)
    (hk : Off kp [.rge]) : shown kp (voidRead id cause s) = shown kp s := by
  simp only [off_cons, off_nil, and_true] at hk
  unfold voidRead
  try dsimp only
  (repeat' split) <;> (try simp (maxDischargeDepth := 9) [hk]) <;> (repeat (refine shown_of_pair (by assumption) ?_; simp (maxDischargeDepth := 9) [hk]))

@[simp] theorem joinQueue_shown {kp : Area → Bool} (d : Nat) (r : DRead) (s : State)
    (hk : Off kp [.rge, .flw]) : shown kp (joinQueue d r s) = shown kp s := by
  simp only [off_cons, off_nil, and_true] at hk
  unfold joinQueue
  try dsimp only
  (repeat' split) <;> (try simp (maxDischargeDepth := 9) [hk]) <;> (repeat (refine shown_of_pair (by assumption) ?_; simp (maxDischargeDepth := 9) [hk]))

@[simp] theorem queueRead_shown {kp : Area → Bool} (d : Nat) (s : State) (q : QRead)
    (hk : Off kp [.regs, .ctrs, .rge, .integ, .flw, .history, .out]) : shown kp (queueRead d s q) = shown kp s := by
  simp only [off_cons, off_nil, and_true] at hk
  unfold queueRead
  (repeat' split) <;> simp (maxDischargeDepth := 9) [hk]

@[simp] theorem queueReads_shown {kp : Area → Bool} (id : Nat) (l : List (Nat × Nat × Nat)) (s : State)
    (hk : Off kp [.regs, .ctrs, .rge, .integ, .flw, .history, .out]) : shown kp (queueReads id l s) = shown kp s := by
  simp only [off_cons, off_nil, and_true] at hk
  unfold queueReads
  refine shown_foldl _ _ (fun s a => ?_) _
  try dsimp only
  (repeat' split) <;> (try simp (maxDischargeDepth := 9) [hk]) <;> (repeat (refine shown_of_pair (by assumption) ?_; simp (maxDischargeDepth := 9) [hk]))

end Sys2Proof.Machine
end

