-- ==== Sys2Proof/Laws/FrameHost.lean ====
section
/-!
SUPPORT. What each operation leaves as it was: rings and fetches, power, lifecycle, commands, Seals, Recalls and the Flash Wheel. A lemma `f_shown` says that `f` changes
no part of the state outside the list it names; commands have theirs in this form too, of the state after them.
-/
set_option linter.unusedSimpArgs false
set_option linter.unusedVariables false
set_option linter.unusedTactic false
set_option linter.unreachableTactic false

namespace Sys2Proof.Machine

@[simp] theorem fnNotice_shown {kp : Area → Bool} (f : Nat) (fevent : Nat) (err : Nat) (s : State)
    (hk : Off kp [.regs, .ctrs, .rge, .integ, .history, .out]) : shown kp (fnNotice f fevent err s) = shown kp s := by
  simp only [off_cons, off_nil, and_true] at hk
  simp (maxDischargeDepth := 9) [fnNotice, hk]

@[simp] theorem ctlRest_shown {kp : Area → Bool} (f : Nat) (ctl : Nat) (s : State)
    (hk : Off kp [.regs, .rge]) : shown kp (ctlRest f ctl s) = shown kp s := by
  simp only [off_cons, off_nil, and_true] at hk
  simp (maxDischargeDepth := 9) [ctlRest, hk]

@[simp] theorem drawSalt_shown {kp : Area → Bool} (f : Nat) (s : State)
    (hk : Off kp [.draws, .cry]) : shown kp (drawSalt f s) = shown kp s := by
  simp only [off_cons, off_nil, and_true] at hk
  simp (maxDischargeDepth := 9) [drawSalt, hk]

@[simp] theorem execFunctionEnable_shown {kp : Area → Bool} (t : Nat) (f : Nat) (ctl : Nat) (s : State) (s0 : State)
    (hk : Off kp [.now, .draws, .regs, .ctrs, .rge, .integ, .cry, .history, .out]) :
    shown kp (after (execFunctionEnable t f ctl s) s0) = shown kp s := by
  simp only [off_cons, off_nil, and_true] at hk
  simp (maxDischargeDepth := 9) [execFunctionEnable, hk]

@[simp] theorem resetFunction_shown {kp : Area → Bool} (f : Nat) (s : State)
    (hk : Off kp [.regs, .ctrs, .rge, .integ, .cmd, .cry, .zst, .dxr, .dsp, .mov, .history, .out, .mem]) :
    shown kp (resetFunction f s) = shown kp s := by
  simp only [off_cons, off_nil, and_true] at hk
  simp (maxDischargeDepth := 9) [resetFunction, hk]

@[simp] theorem execFunctionDisable_shown {kp : Area → Bool} (t : Nat) (f : Nat) (ctl : Nat) (s : State) (s0 : State)
    (hk : Off kp [.now, .regs, .ctrs, .rge, .integ, .cmd, .cry, .zst, .dxr, .dsp, .mov, .history, .out, .mem]) :
    shown kp (after (execFunctionDisable t f ctl s) s0) = shown kp s := by
  simp only [off_cons, off_nil, and_true] at hk
  simp (maxDischargeDepth := 9) [execFunctionDisable, hk]
  (repeat' split) <;> simp_all (maxDischargeDepth := 9)

@[simp] theorem execQuotaWrite_shown {kp : Area → Bool} (t : Nat) (f : Nat) (q : Quota) (v : Nat) (s : State) (s0 : State)
    (hk : Off kp [.now, .regs, .rge]) : shown kp (after (execQuotaWrite t f q v s) s0) = shown kp s := by
  simp only [off_cons, off_nil, and_true] at hk
  simp (maxDischargeDepth := 9) [execQuotaWrite, hk]

@[simp] theorem ringResult_shown {kp : Area → Bool} (f : Nat) (code : Nat) (global : Nat) (s : State)
    (hk : Off kp [.rge]) : shown kp (ringResult f code global s) = shown kp s := by
  simp only [off_cons, off_nil, and_true] at hk
  simp (maxDischargeDepth := 9) [ringResult, hk]

@[simp] theorem execRingCreate_shown {kp : Area → Bool} (t : Nat) (f : Nat) (i : Nat) (s : State) (s0 : State)
    (hk : Off kp [.now, .regs, .rge]) : shown kp (after (execRingCreate t f i s) s0) = shown kp s := by
  simp only [off_cons, off_nil, and_true] at hk
  simp (maxDischargeDepth := 9) [execRingCreate, hk]

@[simp] theorem freeRing_shown {kp : Area → Bool} (k : Nat) (s : State)
    (hk : Off kp [.rge]) : shown kp (freeRing k s) = shown kp s := by
  simp only [off_cons, off_nil, and_true] at hk
  simp (maxDischargeDepth := 9) [freeRing, hk]

@[simp] theorem execRingDelete_shown {kp : Area → Bool} (t : Nat) (f : Nat) (sub : Bool) (i : Nat) (s : State) (s0 : State)
    (hk : Off kp [.now, .regs, .rge]) : shown kp (after (execRingDelete t f sub i s) s0) = shown kp s := by
  simp only [off_cons, off_nil, and_true] at hk
  simp (maxDischargeDepth := 9) [execRingDelete, hk]

theorem execRingDeleteDone_shown {kp : Area → Bool} (t : Nat) (f : Nat) (s : State) (s0 : State)
    (hk : Off kp [.now, .rge]) : shown kp (after (execRingDeleteDone t f s) s0) = shown kp s := by
  simp only [off_cons, off_nil, and_true] at hk
  simp (maxDischargeDepth := 9) [execRingDeleteDone, hk]
  (repeat' split) <;> simp_all (maxDischargeDepth := 9)

@[simp] theorem loadStaging_shown {kp : Area → Bool} (f : Nat) (r : Ring) (s : State)
    (hk : Off kp [.regs]) : shown kp (loadStaging f r s) = shown kp s := by
  simp only [off_cons, off_nil, and_true] at hk
  simp (maxDischargeDepth := 9) [loadStaging, hk]

@[simp] theorem execRingQuery_shown {kp : Area → Bool} (t : Nat) (f : Nat) (sub : Bool) (i : Nat) (s : State) (s0 : State)
    (hk : Off kp [.now, .regs, .rge]) : shown kp (after (execRingQuery t f sub i s) s0) = shown kp s := by
  simp only [off_cons, off_nil, and_true] at hk
  simp (maxDischargeDepth := 9) [execRingQuery, hk]
  (repeat' split) <;> simp_all (maxDischargeDepth := 9)

@[simp] theorem execDoorbellBaseWrite_shown {kp : Area → Bool} (t : Nat) (f : Nat) (hi : Bool) (v : Word) (be : Nat) (s : State) (s0 : State)
    (hk : Off kp [.now, .regs, .rge]) : shown kp (after (execDoorbellBaseWrite t f hi v be s) s0) = shown kp s := by
  simp only [off_cons, off_nil, and_true] at hk
  simp (maxDischargeDepth := 9) [execDoorbellBaseWrite, hk]

@[simp] theorem ringNotice_shown {kp : Area → Bool} (r : Ring) (event : Nat) (status : Nat) (addr : Nat) (s : State)
    (hk : Off kp [.regs, .ctrs, .rge, .integ, .history, .out]) : shown kp (ringNotice r event status addr s) = shown kp s := by
  simp only [off_cons, off_nil, and_true] at hk
  simp (maxDischargeDepth := 9) [ringNotice, hk]

@[simp] theorem badPip_shown {kp : Area → Bool} (f : Nat) (i : Nat) (kind : Nat) (ef : Nat) (s : State)
    (hk : Off kp [.draws, .regs, .ctrs, .rge, .integ, .history, .out]) : shown kp (badPip f i kind ef s) = shown kp s := by
  simp only [off_cons, off_nil, and_true] at hk
  simp (maxDischargeDepth := 9) [badPip, hk]

@[simp] theorem moveTail_shown {kp : Area → Bool} (k : Nat) (pos : Nat) (swept : Bool) (s : State)
    (hk : Off kp [.rge]) : shown kp (moveTail k pos swept s) = shown kp s := by
  simp only [off_cons, off_nil, and_true] at hk
  simp (maxDischargeDepth := 9) [moveTail, hk]

@[simp] theorem pipTail_shown {kp : Area → Bool} (f : Nat) (k : Nat) (r : Ring) (pos : Nat) (s : State)
    (hk : Off kp [.regs, .ctrs, .rge, .integ, .history, .out]) : shown kp (pipTail f k r pos s) = shown kp s := by
  simp only [off_cons, off_nil, and_true] at hk
  simp (maxDischargeDepth := 9) [pipTail, hk]

@[simp] theorem flushHeld_shown {kp : Area → Bool} (f : Nat) (x1 : Nat) (x2 : State)
    (hk : Off kp [.rge, .out]) : shown kp (flushHeld f x1 x2) = shown kp x2 := by
  simp only [off_cons, off_nil, and_true] at hk
  fun_induction flushHeld f x1 x2 <;> simp_all (maxDischargeDepth := 9)

@[simp] theorem pipHead_shown {kp : Area → Bool} (f : Nat) (k : Nat) (r : Ring) (pos : Nat) (s : State)
    (hk : Off kp [.regs, .ctrs, .rge, .integ, .history, .out]) : shown kp (pipHead f k r pos s) = shown kp s := by
  simp only [off_cons, off_nil, and_true] at hk
  simp (maxDischargeDepth := 9) [pipHead, hk]

@[simp] theorem pip_shown {kp : Area → Bool} (f : Nat) (w : Word) (be : Nat) (s : State)
    (hk : Off kp [.draws, .regs, .ctrs, .rge, .integ, .history, .out]) : shown kp (pip f w be s) = shown kp s := by
  simp only [off_cons, off_nil, and_true] at hk
  simp (maxDischargeDepth := 9) [pip, hk]
  (repeat' split) <;> simp_all (maxDischargeDepth := 9)

theorem execPipSubmissionTail_shown {kp : Area → Bool} (t : Nat) (f : Nat) (w : Word) (be : Nat) (s : State) (s0 : State)
    (hk : Off kp [.now, .draws, .regs, .ctrs, .rge, .integ, .history, .out]) :
    shown kp (after (execPipSubmissionTail t f w be s) s0) = shown kp s := by
  simp only [off_cons, off_nil, and_true] at hk
  simp (maxDischargeDepth := 9) [execPipSubmissionTail, hk]

theorem execPipCompletionHead_shown {kp : Area → Bool} (t : Nat) (f : Nat) (w : Word) (be : Nat) (s : State) (s0 : State)
    (hk : Off kp [.now, .draws, .regs, .ctrs, .rge, .integ, .history, .out]) :
    shown kp (after (execPipCompletionHead t f w be s) s0) = shown kp s := by
  simp only [off_cons, off_nil, and_true] at hk
  simp (maxDischargeDepth := 9) [execPipCompletionHead, hk]

@[simp] theorem sweepOne_shown {kp : Area → Bool} (s : State) (d : DoorbellRead)
    (hk : Off kp [.regs, .ctrs, .rge, .integ, .history, .out]) : shown kp (sweepOne s d) = shown kp s := by
  simp only [off_cons, off_nil, and_true] at hk
  simp (maxDischargeDepth := 9) [sweepOne, hk]
  (repeat' split) <;> simp_all (maxDischargeDepth := 9)

@[simp] theorem sweepRing_shown {kp : Area → Bool} (reads : List DoorbellRead) (s : State) (k : Nat)
    (hk : Off kp [.regs, .ctrs, .rge, .integ, .history, .out]) : shown kp (sweepRing reads s k) = shown kp s := by
  simp only [off_cons, off_nil, and_true] at hk
  unfold sweepRing
  try dsimp only
  (repeat' split) <;> (try simp (maxDischargeDepth := 9) [hk]) <;> (repeat (refine shown_of_pair (by assumption) ?_; simp (maxDischargeDepth := 9) [hk]))

theorem execSweep_shown {kp : Area → Bool} (t : Nat) (reads : List DoorbellRead) (s : State) (s0 : State)
    (hk : Off kp [.now, .regs, .ctrs, .rge, .integ, .history, .out]) : shown kp (after (execSweep t reads s) s0) = shown kp s := by
  simp only [off_cons, off_nil, and_true] at hk
  simp (maxDischargeDepth := 9) [execSweep, hk]

@[simp] theorem stopRing_shown {kp : Area → Bool} (k : Nat) (event : Nat) (addr : Nat) (ef : Nat) (s : State)
    (hk : Off kp [.regs, .ctrs, .rge, .integ, .history, .out]) : shown kp (stopRing k event addr ef s) = shown kp s := by
  simp only [off_cons, off_nil, and_true] at hk
  unfold stopRing
  (repeat' split) <;> simp_all (maxDischargeDepth := 9)

theorem execRingStoppedNotice_shown {kp : Area → Bool} (t : Nat) (f : Nat) (sub : Bool) (i : Nat) (bad : Bool) (s : State) (s0 : State)
    (hk : Off kp [.now, .regs, .ctrs, .rge, .integ, .history, .out]) : shown kp (after (execRingStoppedNotice t f sub i bad s) s0) = shown kp s := by
  simp only [off_cons, off_nil, and_true] at hk
  simp (maxDischargeDepth := 9) [execRingStoppedNotice, hk]
  (repeat' split) <;> simp_all (maxDischargeDepth := 9)

theorem execNoticeWriteHeld_shown {kp : Area → Bool} (t : Nat) (f : Nat) (s : State) (s0 : State)
    (hk : Off kp [.now, .rge, .out]) : shown kp (after (execNoticeWriteHeld t f s) s0) = shown kp s := by
  simp only [off_cons, off_nil, and_true] at hk
  simp (maxDischargeDepth := 9) [execNoticeWriteHeld, hk]

theorem execCoalesceTimer_shown {kp : Area → Bool} (t : Nat) (f : Nat) (i : Nat) (s : State) (s0 : State)
    (hk : Off kp [.now, .rge, .out]) : shown kp (after (execCoalesceTimer t f i s) s0) = shown kp s := by
  simp only [off_cons, off_nil, and_true] at hk
  simp (maxDischargeDepth := 9) [execCoalesceTimer, hk]
  (repeat' split) <;> simp_all (maxDischargeDepth := 9)

@[simp] theorem resetVfs_shown {kp : Area → Bool} (p : Nat → Bool) (s : State)
    (hk : Off kp [.regs, .ctrs, .rge, .integ, .cmd, .cry, .zst, .dxr, .dsp, .mov, .history, .out, .mem]) :
    shown kp (resetVfs p s) = shown kp s := by
  simp only [off_cons, off_nil, and_true] at hk
  simp (maxDischargeDepth := 9) [resetVfs, hk]

theorem execFunctionLevelReset_shown {kp : Area → Bool} (t : Nat) (f : Nat) (s : State) (s0 : State)
    (hk : Off kp [.now, .regs, .ctrs, .rge, .integ, .cmd, .cry, .zst, .dxr, .dsp, .mov, .history, .out, .mem]) :
    shown kp (after (execFunctionLevelReset t f s) s0) = shown kp s := by
  simp only [off_cons, off_nil, and_true] at hk
  simp (maxDischargeDepth := 9) [execFunctionLevelReset, hk]

theorem execSriovVfChange_shown {kp : Area → Bool} (t : Nat) (ve : Bool) (num : Nat) (s : State) (s0 : State)
    (hk : Off kp [.now, .regs, .ctrs, .rge, .integ, .cmd, .cry, .zst, .dxr, .dsp, .mov, .history, .out, .mem]) :
    shown kp (after (execSriovVfChange t ve num s) s0) = shown kp s := by
  simp only [off_cons, off_nil, and_true] at hk
  simp (maxDischargeDepth := 9) [execSriovVfChange, hk]

@[simp] theorem clearBar0_shown {kp : Area → Bool} (f : Nat) (s : State)
    (hk : Off kp [.regs, .ctrs, .snaps, .rge]) : shown kp (clearBar0 f s) = shown kp s := by
  simp only [off_cons, off_nil, and_true] at hk
  simp [clearBar0, shown, hk]

@[simp] theorem clearFn_shown {kp : Area → Bool} (f : Nat) (s : State)
    (hk : Off kp [.cmd, .cry]) : shown kp (clearFn f s) = shown kp s := by
  simp only [off_cons, off_nil, and_true] at hk
  have h2 : ∀ (s : State) (a : CmdSt) (b : Cry), shown kp { s with cry := b, cmd := a } = shown kp s := by intro s a b; simp [shown, hk]
  simp (maxDischargeDepth := 9) [clearFn, h2, hk]

theorem execFunctionResetDone_shown {kp : Area → Bool} (t : Nat) (f : Nat) (s : State) (s0 : State)
    (hk : Off kp [.now, .draws, .regs, .ctrs, .snaps, .rge, .integ, .cmd, .cry, .history, .out]) :
    shown kp (after (execFunctionResetDone t f s) s0) = shown kp s := by
  simp only [off_cons, off_nil, and_true] at hk
  simp (maxDischargeDepth := 9) [execFunctionResetDone, hk]

@[simp] theorem execFnSnapNow_shown {kp : Area → Bool} (t : Nat) (f : Nat) (s : State) (s0 : State)
    (hk : Off kp [.now, .snaps]) : shown kp (after (execFnSnapNow t f s) s0) = shown kp s := by
  simp only [off_cons, off_nil, and_true] at hk
  simp (maxDischargeDepth := 9) [execFnSnapNow, hk]

@[simp] theorem choose_shown {kp : Area → Bool} (s : State) (hk : Off kp [.rge]) : shown kp (choose s).2 = shown kp s := by
  simp only [off_cons, off_nil, and_true] at hk
  simp (maxDischargeDepth := 9) [choose, hk]
  (repeat' split) <;> simp_all (maxDischargeDepth := 9)

@[simp] theorem sealCredit_shown {kp : Area → Bool} (id : Nat) (c : Flight) (x : Strm) (s : State)
    (hk : Off kp [.regs, .ctrs, .rge, .integ, .cmd, .history, .out]) : shown kp (sealCredit id c x s) = shown kp s := by
  simp only [off_cons, off_nil, and_true] at hk
  simp (maxDischargeDepth := 9) [sealCredit, hk]

@[simp] theorem recallCredit_shown {kp : Area → Bool} (id : Nat) (c : Flight) (x : Strm) (s : State)
    (hk : Off kp [.regs, .ctrs, .rge, .integ, .cmd, .history, .out]) : shown kp (recallCredit id c x s) = shown kp s := by
  simp only [off_cons, off_nil, and_true] at hk
  simp (maxDischargeDepth := 9) [recallCredit, hk]

@[simp] theorem passStep5_shown {kp : Area → Bool} (id : Nat) (held : Bool) (s : State)
    (hk : Off kp [.regs, .ctrs, .rge, .integ, .cmd, .history, .out]) : shown kp (passStep5 id held s) = shown kp s := by
  simp only [off_cons, off_nil, and_true] at hk
  unfold passStep5
  (repeat' split) <;> simp_all (maxDischargeDepth := 9)

@[simp] theorem markHeld_shown {kp : Area → Bool} (s : State) (hk : Off kp [.rge]) : shown kp (markHeld s) = shown kp s := by
  simp only [off_cons, off_nil, and_true] at hk
  simp (maxDischargeDepth := 9) [markHeld, hk]

@[simp] theorem failCheck_shown {kp : Area → Bool} (id : Nat) (status : Nat) (param : Nat) (s : State)
    (hk : Off kp [.rge, .errs, .errCounts, .out]) : shown kp (failCheck id status param s) = shown kp s := by
  simp only [off_cons, off_nil, and_true] at hk
  unfold failCheck
  (repeat' split) <;> simp_all (maxDischargeDepth := 9)

@[simp] theorem sglFail_shown {kp : Area → Bool} (id : Nat) (r : Ring) (x : Nat × Nat) (s : State)
    (hk : Off kp [.regs, .ctrs, .rge, .integ, .cmd, .errs, .errCounts, .history, .out]) : shown kp (sglFail id r x s) = shown kp s := by
  simp only [off_cons, off_nil, and_true] at hk
  simp (maxDischargeDepth := 9) [sglFail, hk]

@[simp] theorem fetchFrom_shown {kp : Area → Bool} (k : Nat) (r : Ring) (d : List Byte) (segs : List (Option (List Byte))) (s : State)
    (hk : Off kp [.regs, .ctrs, .snaps, .rge, .integ, .cmd, .flw, .pwr, .mov, .errs, .errCounts, .history, .out]) :
    shown kp (fetchFrom k r d segs s) = shown kp s := by
  simp only [off_cons, off_nil, and_true] at hk
  simp (maxDischargeDepth := 9) [fetchFrom, hk]
  (repeat' split) <;> simp_all (maxDischargeDepth := 9)

@[simp] theorem fetchNext_shown {kp : Area → Bool} (desc : Option (List Byte)) (segs : List (Option (List Byte))) (s : State)
    (hk : Off kp [.regs, .ctrs, .snaps, .rge, .integ, .cmd, .flw, .pwr, .mov, .errs, .errCounts, .history, .out]) : shown kp (fetchNext desc segs s) = shown kp s := by
  simp only [off_cons, off_nil, and_true] at hk
  unfold fetchNext
  try dsimp only
  (repeat' split) <;> (try simp (maxDischargeDepth := 9) [hk]) <;> (repeat (refine shown_of_pair (by assumption) ?_; simp (maxDischargeDepth := 9) [hk]))

theorem execClassSFetchStall_shown {kp : Area → Bool} (t : Nat) (f : Nat) (i : Nat) (s : State) (s0 : State)
    (hk : Off kp [.now, .regs, .ctrs, .rge, .integ, .history, .out]) :
    shown kp (after (execClassSFetchStall t f i s) s0) = shown kp s := by
  simp only [off_cons, off_nil, and_true] at hk
  simp (maxDischargeDepth := 9) [execClassSFetchStall, hk]
  (repeat' split) <;> simp_all (maxDischargeDepth := 9)

@[simp] theorem track_shown {kp : Area → Bool} (f : State → State) (s : State) (hf : ∀ s, shown kp (f s) = shown kp s)
    (hk : Off kp [.cmd]) : shown kp (track f s) = shown kp s := by
  simp only [off_cons, off_nil, and_true] at hk
  simp (maxDischargeDepth := 9) [track, hk, hf]

@[simp] theorem lowerVolt_shown {kp : Area → Bool} (s : State) (hk : Off kp [.pwr]) : shown kp (lowerVolt s) = shown kp s := by
  simp only [off_cons, off_nil, and_true] at hk
  unfold lowerVolt
  (repeat' split) <;> simp_all (maxDischargeDepth := 9)

@[simp] theorem switchLevel_shown {kp : Area → Bool} (n : Nat) (l : Nat) (s : State)
    (hk : Off kp [.regs, .ctrs, .rge, .integ, .pwr, .history, .out]) : shown kp (switchLevel n l s) = shown kp s := by
  simp only [off_cons, off_nil, and_true] at hk
  simp (maxDischargeDepth := 9) [switchLevel, hk]

@[simp] theorem relevel_shown {kp : Area → Bool} (s : State) (n : Nat)
    (hk : Off kp [.regs, .ctrs, .rge, .integ, .pwr, .history, .out]) : shown kp (relevel s n) = shown kp s := by
  simp only [off_cons, off_nil, and_true] at hk
  unfold relevel
  (repeat' split) <;> simp_all (maxDischargeDepth := 9)

@[simp] theorem relevelAll_shown {kp : Area → Bool} (s : State)
    (hk : Off kp [.regs, .ctrs, .rge, .integ, .cmd, .pwr, .history, .out]) : shown kp (relevelAll s) = shown kp s := by
  simp only [off_cons, off_nil, and_true] at hk
  simp (maxDischargeDepth := 9) [relevelAll, hk]

@[simp] theorem relevelNow_shown {kp : Area → Bool} (n : Nat) (s : State)
    (hk : Off kp [.regs, .ctrs, .rge, .integ, .cmd, .pwr, .history, .out]) : shown kp (relevelNow n s) = shown kp s := by
  simp only [off_cons, off_nil, and_true] at hk
  simp (maxDischargeDepth := 9) [relevelNow, hk]

theorem execGovernorDecision_shown {kp : Area → Bool} (t : Nat) (busy : List (Nat × Nat)) (s : State) (s0 : State)
    (hk : Off kp [.now, .regs, .ctrs, .rge, .integ, .cmd, .pwr, .history, .out]) :
    shown kp (after (execGovernorDecision t busy s) s0) = shown kp s := by
  simp only [off_cons, off_nil, and_true] at hk
  simp (maxDischargeDepth := 9) [execGovernorDecision, hk]

theorem execVregSettled_shown {kp : Area → Bool} (t : Nat) (s : State) (s0 : State)
    (hk : Off kp [.now, .regs, .ctrs, .rge, .integ, .cmd, .pwr, .history, .out]) :
    shown kp (after (execVregSettled t s) s0) = shown kp s := by
  simp only [off_cons, off_nil, and_true] at hk
  simp (maxDischargeDepth := 9) [execVregSettled, hk]

theorem execVregSettleTimeout_shown {kp : Area → Bool} (t : Nat) (s : State) (s0 : State)
    (hk : Off kp [.now, .regs, .ctrs, .rge, .integ, .pwr, .history, .out]) :
    shown kp (after (execVregSettleTimeout t s) s0) = shown kp s := by
  simp only [off_cons, off_nil, and_true] at hk
  simp (maxDischargeDepth := 9) [execVregSettleTimeout, hk]

theorem execSegmentSleepEntry_shown {kp : Area → Bool} (t : Nat) (n : Nat) (s : State) (s0 : State)
    (hk : Off kp [.now, .regs, .ctrs, .rge, .integ, .pins, .cmd, .med, .pwr, .history, .out]) : shown kp (after (execSegmentSleepEntry t n s) s0) = shown kp s := by
  simp only [off_cons, off_nil, and_true] at hk
  simp (maxDischargeDepth := 9) [execSegmentSleepEntry, hk]

theorem execRindSleepEntry_shown {kp : Area → Bool} (t : Nat) (s : State) (s0 : State)
    (hk : Off kp [.now, .pwr]) : shown kp (after (execRindSleepEntry t s) s0) = shown kp s := by
  simp only [off_cons, off_nil, and_true] at hk
  simp (maxDischargeDepth := 9) [execRindSleepEntry, hk]

theorem execDomainWake_shown {kp : Area → Bool} (t : Nat) (d : Nat) (s : State) (s0 : State)
    (hk : Off kp [.now, .pwr]) : shown kp (after (execDomainWake t d s) s0) = shown kp s := by
  simp only [off_cons, off_nil, and_true] at hk
  simp (maxDischargeDepth := 9) [execDomainWake, hk]

theorem execWakeComplete_shown {kp : Area → Bool} (t : Nat) (d : Nat) (s : State) (s0 : State)
    (hk : Off kp [.now, .regs, .ctrs, .snaps, .rge, .integ, .pins, .cmd, .flw, .med, .pwr, .mov, .history, .out]) :
    shown kp (after (execWakeComplete t d s) s0) = shown kp s := by
  simp only [off_cons, off_nil, and_true] at hk
  simp (maxDischargeDepth := 9) [execWakeComplete, hk]

@[simp] theorem accrue_shown {kp : Area → Bool} (n : Nat) (s : State)
    (hk : Off kp [.regs, .ctrs, .rge, .integ, .pwr, .history, .out]) : shown kp (accrue n s) = shown kp s := by
  simp only [off_cons, off_nil, and_true] at hk
  simp (maxDischargeDepth := 9) [accrue, hk]

@[simp] theorem setCap_shown {kp : Area → Bool} (n : Nat) (v : Nat) (s : State)
    (hk : Off kp [.regs, .ctrs, .rge, .integ, .cmd, .pwr, .history, .out]) : shown kp (setCap n v s) = shown kp s := by
  simp only [off_cons, off_nil, and_true] at hk
  simp (maxDischargeDepth := 9) [setCap, hk]

@[simp] theorem throttleAt_shown {kp : Area → Bool} (s : State) (n : Nat)
    (hk : Off kp [.regs, .ctrs, .rge, .integ, .cmd, .pwr, .history, .out]) : shown kp (throttleAt s n) = shown kp s := by
  simp only [off_cons, off_nil, and_true] at hk
  simp (maxDischargeDepth := 9) [throttleAt, hk]

theorem execThrottleStep_shown {kp : Area → Bool} (t : Nat) (n : Nat) (s : State) (s0 : State)
    (hk : Off kp [.now, .regs, .ctrs, .rge, .integ, .cmd, .pwr, .history, .out]) :
    shown kp (after (execThrottleStep t n s) s0) = shown kp s := by
  simp only [off_cons, off_nil, and_true] at hk
  simp (maxDischargeDepth := 9) [execThrottleStep, hk]
  (repeat' split) <;> simp_all (maxDischargeDepth := 9)

@[simp] theorem bumpHist_shown {kp : Area → Bool} (b : Nat) (n : Nat) (s : State)
    (hk : Off kp [.regs, .ctrs, .rge, .integ, .health, .history, .out]) : shown kp (bumpHist b n s) = shown kp s := by
  simp only [off_cons, off_nil, and_true] at hk
  simp (maxDischargeDepth := 9) [bumpHist, hk]

@[simp] theorem accrueHealth_shown {kp : Area → Bool} (s : State)
    (hk : Off kp [.regs, .ctrs, .rge, .integ, .health, .pwr, .history, .out]) : shown kp (accrueHealth s) = shown kp s := by
  simp only [off_cons, off_nil, and_true] at hk
  simp (maxDischargeDepth := 9) [accrueHealth, hk]

@[simp] theorem updateCritTemp_shown {kp : Area → Bool} (s : State)
    (hk : Off kp [.regs, .ctrs, .rge, .integ, .pins, .cmd, .pwr, .history, .out]) : shown kp (updateCritTemp s) = shown kp s := by
  simp only [off_cons, off_nil, and_true] at hk
  simp (maxDischargeDepth := 9) [updateCritTemp, hk]

@[simp] theorem shedRuns_shown {kp : Area → Bool} (s : State) (hk : Off kp [.pwr]) : shown kp (shedRuns s) = shown kp s := by
  simp only [off_cons, off_nil, and_true] at hk
  simp (maxDischargeDepth := 9) [shedRuns, hk]

@[simp] theorem takeReads_shown {kp : Area → Bool} (reads : List Nat) (s : State)
    (hk : Off kp [.regs, .ctrs, .rge, .integ, .pins, .health, .cmd, .pwr, .history, .out]) :
    shown kp (takeReads reads s) = shown kp s := by
  simp only [off_cons, off_nil, and_true] at hk
  simp (maxDischargeDepth := 9) [takeReads, hk]

theorem execThermalShedBegin_shown {kp : Area → Bool} (t : Nat) (s : State) (s0 : State)
    (hk : Off kp [.now, .regs, .ctrs, .rge, .integ, .cmd, .pwr, .history, .out]) :
    shown kp (after (execThermalShedBegin t s) s0) = shown kp s := by
  simp only [off_cons, off_nil, and_true] at hk
  simp (maxDischargeDepth := 9) [execThermalShedBegin, hk]

theorem execThermalShedEnd_shown {kp : Area → Bool} (t : Nat) (s : State) (s0 : State)
    (hk : Off kp [.now, .regs, .ctrs, .rge, .integ, .cmd, .pwr, .history, .out]) :
    shown kp (after (execThermalShedEnd t s) s0) = shown kp s := by
  simp only [off_cons, off_nil, and_true] at hk
  simp (maxDischargeDepth := 9) [execThermalShedEnd, hk]
  (repeat' split) <;> simp_all (maxDischargeDepth := 9)

@[simp] theorem execPwmSnapNow_shown {kp : Area → Bool} (t : Nat) (s : State) (s0 : State)
    (hk : Off kp [.now, .regs, .ctrs, .snaps, .rge, .integ, .pwr, .history, .out]) :
    shown kp (after (execPwmSnapNow t s) s0) = shown kp s := by
  simp only [off_cons, off_nil, and_true] at hk
  simp (maxDischargeDepth := 9) [execPwmSnapNow, hk]

theorem execCoreClockGate_shown {kp : Area → Bool} (t : Nat) (k : Nat) (s : State) (s0 : State)
    (hk : Off kp [.now, .dxr]) : shown kp (after (execCoreClockGate t k s) s0) = shown kp s := by
  simp only [off_cons, off_nil, and_true] at hk
  simp (maxDischargeDepth := 9) [execCoreClockGate, hk]
  (repeat' split) <;> simp_all (maxDischargeDepth := 9)

@[simp] theorem onLife_shown {kp : Area → Bool} (f : Life → Life) (s : State)
    (hk : Off kp [.life]) (h0 : kp .vault = false ∨ ∀ x, (f x).vault = x.vault) (h1 : kp .lstate = false ∨ ∀ x, (f x).lstate = x.lstate) (h2 : kp .drkCut = false ∨ ∀ x, (f x).drkCut = x.drkCut) :
    shown kp (onLife f s) = shown kp s := by
  simp only [off_cons, off_nil, and_true] at hk
  have e0 : keep (kp .vault) (f s.life).vault = keep (kp .vault) s.life.vault := by rcases h0 with e | e <;> simp [e]
  have e1 : keep (kp .lstate) (f s.life).lstate = keep (kp .lstate) s.life.lstate := by rcases h1 with e | e <;> simp [e]
  have e2 : keep (kp .drkCut) (f s.life).drkCut = keep (kp .drkCut) s.life.drkCut := by rcases h2 with e | e <;> simp [e]
  simp [onLife, shown, hk, e0, e1, e2]

@[simp] theorem onDbg_shown {kp : Area → Bool} (f : Dbg → Dbg) (s : State)
    (hk : Off kp [.dbg]) (h0 : kp .level = false ∨ ∀ x, (f x).level = x.level) : shown kp (onDbg f s) = shown kp s := by
  simp only [off_cons, off_nil, and_true] at hk
  have e0 : keep (kp .level) (f s.dbg).level = keep (kp .level) s.dbg.level := by rcases h0 with e | e <;> simp [e]
  simp [onDbg, shown, hk, e0]

@[simp] theorem noteHalted_shown {kp : Area → Bool} (s : State) (hk : Off kp [.med]) : shown kp (noteHalted s) = shown kp s := by
  simp only [off_cons, off_nil, and_true] at hk
  simp (maxDischargeDepth := 9) [noteHalted, hk]

@[simp] theorem haltCore_shown {kp : Area → Bool} (k : Nat) (s : State)
    (hk : Off kp [.med, .dxr, .dsp]) : shown kp (haltCore k s) = shown kp s := by
  simp only [off_cons, off_nil, and_true] at hk
  unfold haltCore
  (repeat' split) <;> simp_all (maxDischargeDepth := 9)

@[simp] theorem resumeCore_shown {kp : Area → Bool} (k : Nat) (s : State)
    (hk : Off kp [.med, .dxr, .dsp]) : shown kp (resumeCore k s) = shown kp s := by
  simp only [off_cons, off_nil, and_true] at hk
  simp (maxDischargeDepth := 9) [resumeCore, hk]
  (repeat' split) <;> simp_all (maxDischargeDepth := 9)

@[simp] theorem leaveFull_shown {kp : Area → Bool} (s : State)
    (hk : Off kp [.regs, .integ, .med, .dxr, .dsp]) : shown kp (leaveFull s) = shown kp s := by
  simp only [off_cons, off_nil, and_true] at hk
  simp (maxDischargeDepth := 9) [leaveFull, hk]

@[simp] theorem sleepShallow_shown {kp : Area → Bool} (l : DLevel) (s : State)
    (hk : Off kp [.pwr]) : shown kp (sleepShallow l s) = shown kp s := by
  simp only [off_cons, off_nil, and_true] at hk
  simp (maxDischargeDepth := 9) [sleepShallow, hk]

@[simp] theorem setLevel_shown {kp : Area → Bool} (l : DLevel) (s : State)
    (hk : Off kp [.regs, .ctrs, .rge, .integ, .dbg, .cmd, .med, .pwr, .dxr, .dsp, .history, .out, .level]) :
    shown kp (setLevel l s) = shown kp s := by
  simp only [off_cons, off_nil, and_true] at hk
  simp (maxDischargeDepth := 9) [setLevel, hk]

@[simp] theorem newNonce_shown {kp : Area → Bool} (s : State) (hk : Off kp [.draws, .life]) : shown kp (newNonce s) = shown kp s := by
  simp only [off_cons, off_nil, and_true] at hk
  simp (maxDischargeDepth := 9) [newNonce, hk]

@[simp] theorem refuseAuth_shown {kp : Area → Bool} (ef : Nat) (s : State)
    (hk : Off kp [.regs, .ctrs, .rge, .integ, .history, .out]) : shown kp (refuseAuth ef s) = shown kp s := by
  simp only [off_cons, off_nil, and_true] at hk
  simp (maxDischargeDepth := 9) [refuseAuth, hk]

@[simp] theorem checkGrant_shown {kp : Area → Bool} (g : List Byte) (actions : List Nat) (s : State)
    (hk : Off kp [.regs, .ctrs, .rge, .integ, .life, .history, .out]) : shown kp (checkGrant g actions s).2 = shown kp s := by
  simp only [off_cons, off_nil, and_true] at hk
  simp (maxDischargeDepth := 9) [checkGrant, hk]

@[simp] theorem commitLife_shown {kp : Area → Bool} (s : State) (hk : Off kp [.regs, .ctrs, .rge, .integ, .pith, .history, .out]) : shown kp (commitLife s) = shown kp s := by
  simp only [off_cons, off_nil, and_true] at hk
  simp (maxDischargeDepth := 9) [commitLife, hk]

@[simp] theorem enterLife_shown {kp : Area → Bool} (l : LState) (s : State)
    (hk : Off kp [.regs, .ctrs, .rge, .integ, .pith, .life, .history, .out, .lstate]) : shown kp (enterLife l s) = shown kp s := by
  simp only [off_cons, off_nil, and_true] at hk
  simp (maxDischargeDepth := 9) [enterLife, hk]

@[simp] theorem transition_shown {kp : Area → Bool} (l : LState) (s : State)
    (hk : Off kp [.regs, .ctrs, .rge, .integ, .pith, .life, .dbg, .cmd, .med, .pwr, .dxr, .dsp, .history, .out, .lstate, .level]) :
    shown kp (transition l s) = shown kp s := by
  simp only [off_cons, off_nil, and_true] at hk
  simp (maxDischargeDepth := 9) [transition, hk]

@[simp] theorem disableSlots_shown {kp : Area → Bool} (s : State) (hk : Off kp [.regs, .ctrs, .rge, .integ, .pith, .history, .out]) : shown kp (disableSlots s) = shown kp s := by
  simp only [off_cons, off_nil, and_true] at hk
  simp (maxDischargeDepth := 9) [disableSlots, hk]

@[simp] theorem enterReturned_shown {kp : Area → Bool} (s : State)
    (hk : Off kp [.regs, .ctrs, .rge, .integ, .pith, .life, .dbg, .cmd, .med, .pwr, .dxr, .dsp, .history, .out, .vault, .lstate, .level]) :
    shown kp (enterReturned s) = shown kp s := by
  simp only [off_cons, off_nil, and_true] at hk
  simp (maxDischargeDepth := 9) [enterReturned, hk]

@[simp] theorem lcsEnd_shown {kp : Area → Bool} (code : Nat) (s : State)
    (hk : Off kp [.life]) : shown kp (lcsEnd code s) = shown kp s := by
  simp only [off_cons, off_nil, and_true] at hk
  simp (maxDischargeDepth := 9) [lcsEnd, hk]

@[simp] theorem lcsStop_shown {kp : Area → Bool} (code : Nat) (s : State)
    (hk : Off kp [.life]) : shown kp (lcsStop code s) = shown kp s := by
  simp only [off_cons, off_nil, and_true] at hk
  simp (maxDischargeDepth := 9) [lcsStop, hk]

@[simp] theorem lcsEffect_shown {kp : Area → Bool} (op : Nat) (s : State)
    (hk : Off kp [.draws, .regs, .ctrs, .rge, .integ, .pith, .life, .dbg, .cmd, .med, .pwr, .dxr, .dsp, .history, .out, .vault, .lstate, .drkCut, .level]) :
    shown kp (lcsEffect op s) = shown kp s := by
  simp only [off_cons, off_nil, and_true] at hk
  unfold lcsEffect
  split <;> simp (maxDischargeDepth := 9) [hk]

@[simp] theorem challenge_shown {kp : Area → Bool} (s : State) (hk : Off kp [.draws, .life]) : shown kp (challenge s) = shown kp s := by
  simp only [off_cons, off_nil, and_true] at hk
  simp (maxDischargeDepth := 9) [challenge, hk]

@[simp] theorem lcsRun_shown {kp : Area → Bool} (op : Nat) (s : State)
    (hk : Off kp [.draws, .regs, .ctrs, .rge, .integ, .pith, .life, .dbg, .cmd, .med, .pwr, .dxr, .dsp, .history, .out, .vault, .lstate, .drkCut, .level]) :
    shown kp (lcsRun op s) = shown kp s := by
  simp only [off_cons, off_nil, and_true] at hk
  simp (maxDischargeDepth := 9) [lcsRun, hk]

@[simp] theorem lcsContinue_shown {kp : Area → Bool} (s : State)
    (hk : Off kp [.draws, .regs, .ctrs, .rge, .integ, .pith, .life, .dbg, .cmd, .med, .pwr, .dxr, .dsp, .history, .out, .vault, .lstate, .drkCut, .level]) :
    shown kp (lcsContinue s) = shown kp s := by
  simp only [off_cons, off_nil, and_true] at hk
  simp (maxDischargeDepth := 9) [lcsContinue, hk]

@[simp] theorem lcsAuth_shown {kp : Area → Bool} (op : Nat) (s : State)
    (hk : Off kp [.regs, .ctrs, .rge, .integ, .life, .history, .out]) : shown kp (lcsAuth op s).2 = shown kp s := by
  simp only [off_cons, off_nil, and_true] at hk
  simp (maxDischargeDepth := 9) [lcsAuth, hk]

@[simp] theorem lcsCommand_shown {kp : Area → Bool} (op : Nat) (s : State)
    (hk : Off kp [.draws, .regs, .ctrs, .rge, .integ, .pith, .life, .dbg, .cmd, .med, .pwr, .dxr, .dsp, .history, .out, .vault, .lstate, .drkCut, .level]) :
    shown kp (lcsCommand op s) = shown kp s := by
  simp only [off_cons, off_nil, and_true] at hk
  simp (maxDischargeDepth := 9) [lcsCommand, hk]

@[simp] theorem lcsCmdWrite_shown {kp : Area → Bool} (op : Nat) (s : State)
    (hk : Off kp [.draws, .regs, .ctrs, .rge, .integ, .pith, .life, .dbg, .cmd, .med, .pwr, .dxr, .dsp, .history, .out, .vault, .lstate, .drkCut, .level]) :
    shown kp (lcsCmdWrite op s) = shown kp s := by
  simp only [off_cons, off_nil, and_true] at hk
  simp (maxDischargeDepth := 9) [lcsCmdWrite, hk]

theorem execLcsPrepare_shown {kp : Area → Bool} (t : Nat) (s : State) (s0 : State)
    (hk : Off kp [.now, .draws, .regs, .ctrs, .rge, .integ, .pith, .life, .dbg, .cmd, .med, .pwr, .dxr, .dsp, .history, .out, .vault, .lstate, .drkCut, .level]) :
    shown kp (after (execLcsPrepare t s) s0) = shown kp s := by
  simp only [off_cons, off_nil, and_true] at hk
  simp (maxDischargeDepth := 9) [execLcsPrepare, hk]

theorem execLcsProvision_shown {kp : Area → Bool} (t : Nat) (s : State) (s0 : State)
    (hk : Off kp [.now, .draws, .regs, .ctrs, .rge, .integ, .pith, .life, .dbg, .cmd, .med, .pwr, .dxr, .dsp, .history, .out, .vault, .lstate, .drkCut, .level]) :
    shown kp (after (execLcsProvision t s) s0) = shown kp s := by
  simp only [off_cons, off_nil, and_true] at hk
  simp (maxDischargeDepth := 9) [execLcsProvision, hk]

theorem execLcsSeal_shown {kp : Area → Bool} (t : Nat) (s : State) (s0 : State)
    (hk : Off kp [.now, .draws, .regs, .ctrs, .rge, .integ, .pith, .life, .dbg, .cmd, .med, .pwr, .dxr, .dsp, .history, .out, .vault, .lstate, .drkCut, .level]) :
    shown kp (after (execLcsSeal t s) s0) = shown kp s := by
  simp only [off_cons, off_nil, and_true] at hk
  simp (maxDischargeDepth := 9) [execLcsSeal, hk]

theorem execLcsVaultEnter_shown {kp : Area → Bool} (t : Nat) (s : State) (s0 : State)
    (hk : Off kp [.now, .draws, .regs, .ctrs, .rge, .integ, .pith, .life, .dbg, .cmd, .med, .pwr, .dxr, .dsp, .history, .out, .vault, .lstate, .drkCut, .level]) :
    shown kp (after (execLcsVaultEnter t s) s0) = shown kp s := by
  simp only [off_cons, off_nil, and_true] at hk
  simp (maxDischargeDepth := 9) [execLcsVaultEnter, hk]

theorem execLcsReturn_shown {kp : Area → Bool} (t : Nat) (s : State) (s0 : State)
    (hk : Off kp [.now, .draws, .regs, .ctrs, .rge, .integ, .pith, .life, .dbg, .cmd, .med, .pwr, .dxr, .dsp, .history, .out, .vault, .lstate, .drkCut, .level]) :
    shown kp (after (execLcsReturn t s) s0) = shown kp s := by
  simp only [off_cons, off_nil, and_true] at hk
  simp (maxDischargeDepth := 9) [execLcsReturn, hk]

theorem execLcsScrap_shown {kp : Area → Bool} (t : Nat) (s : State) (s0 : State)
    (hk : Off kp [.now, .draws, .regs, .ctrs, .rge, .integ, .pith, .life, .dbg, .cmd, .med, .pwr, .dxr, .dsp, .history, .out, .vault, .lstate, .drkCut, .level]) :
    shown kp (after (execLcsScrap t s) s0) = shown kp s := by
  simp only [off_cons, off_nil, and_true] at hk
  simp (maxDischargeDepth := 9) [execLcsScrap, hk]

theorem execLcsChallenge_shown {kp : Area → Bool} (t : Nat) (s : State) (s0 : State)
    (hk : Off kp [.now, .draws, .regs, .ctrs, .rge, .integ, .pith, .life, .dbg, .cmd, .med, .pwr, .dxr, .dsp, .history, .out, .vault, .lstate, .drkCut, .level]) :
    shown kp (after (execLcsChallenge t s) s0) = shown kp s := by
  simp only [off_cons, off_nil, and_true] at hk
  simp (maxDischargeDepth := 9) [execLcsChallenge, hk]

theorem execLcsSnapNow_shown {kp : Area → Bool} (t : Nat) (s : State) (s0 : State)
    (hk : Off kp [.now, .snaps, .life]) : shown kp (after (execLcsSnapNow t s) s0) = shown kp s := by
  simp only [off_cons, off_nil, and_true] at hk
  simp (maxDischargeDepth := 9) [execLcsSnapNow, hk]

theorem execVppPithRangeChange_shown {kp : Area → Bool} (t : Nat) (ok : Bool) (s : State) (s0 : State)
    (hk : Off kp [.now, .draws, .regs, .ctrs, .rge, .integ, .pith, .life, .dbg, .pins, .cmd, .med, .pwr, .dxr, .dsp, .history, .out, .vault, .lstate, .drkCut, .level]) :
    shown kp (after (execVppPithRangeChange t ok s) s0) = shown kp s := by
  simp only [off_cons, off_nil, and_true] at hk
  simp (maxDischargeDepth := 9) [execVppPithRangeChange, hk]

@[simp] theorem cadNotice_shown {kp : Area → Bool} (time : Nat) (kind : Nat) (arg : Nat) (s : State)
    (hk : Off kp [.regs, .ctrs, .rge, .integ, .history, .out]) : shown kp (cadNotice time kind arg s) = shown kp s := by
  simp only [off_cons, off_nil, and_true] at hk
  simp (maxDischargeDepth := 9) [cadNotice, hk]

@[simp] theorem queueCadence_shown {kp : Area → Bool} (s : State) (hk : Off kp [.pith]) : shown kp (queueCadence s) = shown kp s := by
  simp only [off_cons, off_nil, and_true] at hk
  simp (maxDischargeDepth := 9) [queueCadence, hk]

@[simp] theorem queueFences_shown {kp : Area → Bool} (s : State) (hk : Off kp [.pith]) : shown kp (queueFences s) = shown kp s := by
  simp only [off_cons, off_nil, and_true] at hk
  simp (maxDischargeDepth := 9) [queueFences, hk]

@[simp] theorem adoptMode_shown {kp : Area → Bool} (s : State) (hk : Off kp [.cad]) : shown kp (adoptMode s).2 = shown kp s := by
  simp only [off_cons, off_nil, and_true] at hk
  simp (maxDischargeDepth := 9) [adoptMode, hk]

@[simp] theorem steer_shown {kp : Area → Bool} (s : State) (hk : Off kp [.cad]) : shown kp (steer s) = shown kp s := by
  simp only [off_cons, off_nil, and_true] at hk
  simp (maxDischargeDepth := 9) [steer, hk]

@[simp] theorem driveOut_shown {kp : Area → Bool} (s : State) (hk : Off kp [.cad, .out]) : shown kp (driveOut s) = shown kp s := by
  simp only [off_cons, off_nil, and_true] at hk
  simp (maxDischargeDepth := 9) [driveOut, hk]

@[simp] theorem frameTurn_shown {kp : Area → Bool} (b : Nat) (s : State)
    (hk : Off kp [.cad]) : shown kp (frameTurn b s).2 = shown kp s := by
  simp only [off_cons, off_nil, and_true] at hk
  simp (maxDischargeDepth := 9) [frameTurn, hk]

@[simp] theorem turnNotice_shown {kp : Area → Bool} (kind : Nat) (s : State)
    (hk : Off kp [.regs, .ctrs, .rge, .integ, .history, .out]) : shown kp (turnNotice kind s) = shown kp s := by
  simp only [off_cons, off_nil, and_true] at hk
  simp (maxDischargeDepth := 9) [turnNotice, hk]

@[simp] theorem afterTurn_shown {kp : Area → Bool} (s : State)
    (hk : Off kp [.regs, .ctrs, .cad, .rge, .integ, .pins, .health, .cmd, .med, .history, .out]) : shown kp (afterTurn s) = shown kp s := by
  simp only [off_cons, off_nil, and_true] at hk
  simp (maxDischargeDepth := 9) [afterTurn, hk]

@[simp] theorem boundary_shown {kp : Area → Bool} (b : Nat) (s : State)
    (hk : Off kp [.regs, .ctrs, .cad, .rge, .integ, .pins, .health, .cmd, .med, .history, .out]) : shown kp (boundary b s) = shown kp s := by
  simp only [off_cons, off_nil, and_true] at hk
  simp (maxDischargeDepth := 9) [boundary, hk]

@[simp] theorem holdLimit_shown {kp : Area → Bool} (s : State)
    (hk : Off kp [.regs, .ctrs, .cad, .rge, .integ, .history, .out]) : shown kp (holdLimit s) = shown kp s := by
  simp only [off_cons, off_nil, and_true] at hk
  simp (maxDischargeDepth := 9) [holdLimit, hk]

@[simp] theorem enterHoldover_shown {kp : Area → Bool} (s : State)
    (hk : Off kp [.regs, .ctrs, .cad, .rge, .integ, .history, .out]) : shown kp (enterHoldover s) = shown kp s := by
  simp only [off_cons, off_nil, and_true] at hk
  simp (maxDischargeDepth := 9) [enterHoldover, hk]

@[simp] theorem lateExpiry_shown {kp : Area → Bool} (s : State)
    (hk : Off kp [.regs, .ctrs, .cad, .rge, .integ, .pins, .health, .cmd, .med, .history, .out]) : shown kp (lateExpiry s) = shown kp s := by
  simp only [off_cons, off_nil, and_true] at hk
  simp (maxDischargeDepth := 9) [lateExpiry, hk]

@[simp] theorem lock_shown {kp : Area → Bool} (m : Nat) (s : State)
    (hk : Off kp [.regs, .ctrs, .cad, .rge, .integ, .pins, .health, .cmd, .med, .history, .out]) : shown kp (lock m s) = shown kp s := by
  simp only [off_cons, off_nil, and_true] at hk
  simp (maxDischargeDepth := 9) [lock, hk]

@[simp] theorem edgeUnlocked_shown {kp : Area → Bool} (s : State)
    (hk : Off kp [.regs, .ctrs, .cad, .rge, .integ, .pins, .health, .cmd, .med, .history, .out]) :
    shown kp (edgeUnlocked s) = shown kp s := by
  simp only [off_cons, off_nil, and_true] at hk
  simp (maxDischargeDepth := 9) [edgeUnlocked, hk]
  (repeat' split) <;> simp_all (maxDischargeDepth := 9)

@[simp] theorem follow_shown {kp : Area → Bool} (p : Nat) (s : State) (hk : Off kp [.cad]) : shown kp (follow p s).2 = shown kp s := by
  simp only [off_cons, off_nil, and_true] at hk
  simp (maxDischargeDepth := 9) [follow, hk]

@[simp] theorem edgeTaken_shown {kp : Area → Bool} (adopted : Bool) (s : State)
    (hk : Off kp [.regs, .ctrs, .cad, .rge, .integ, .pins, .health, .cmd, .med, .history, .out]) :
    shown kp (edgeTaken adopted s) = shown kp s := by
  simp only [off_cons, off_nil, and_true] at hk
  simp (maxDischargeDepth := 9) [edgeTaken, hk]

@[simp] theorem edgeLocked_shown {kp : Area → Bool} (s : State)
    (hk : Off kp [.regs, .ctrs, .cad, .rge, .integ, .pins, .health, .cmd, .med, .history, .out]) : shown kp (edgeLocked s) = shown kp s := by
  simp only [off_cons, off_nil, and_true] at hk
  unfold edgeLocked
  simp only
  split <;> simp (maxDischargeDepth := 9) [hk]

@[simp] theorem atBoundary_shown {kp : Area → Bool} (finds : List (Nat × DramFind)) (before : State) (s : State)
    (hk : Off kp [.regs, .ctrs, .rge, .integ, .pith, .pins, .health, .cmd, .mov, .history, .out]) : shown kp (atBoundary finds before s) = shown kp s := by
  simp only [off_cons, off_nil, and_true] at hk
  simp (maxDischargeDepth := 9) [atBoundary, hk]

theorem execCadInEdge_shown {kp : Area → Bool} (t : Nat) (finds : List (Nat × DramFind)) (s : State) (s0 : State)
    (hk : Off kp [.now, .regs, .ctrs, .cad, .rge, .integ, .pith, .pins, .health, .cmd, .med, .mov, .history, .out]) : shown kp (after (execCadInEdge t finds s) s0) = shown kp s := by
  simp only [off_cons, off_nil, and_true] at hk
  simp (maxDischargeDepth := 9) [execCadInEdge, hk]

theorem execUnitFrameBoundary_shown {kp : Area → Bool} (t : Nat) (finds : List (Nat × DramFind)) (s : State) (s0 : State)
    (hk : Off kp [.now, .regs, .ctrs, .cad, .rge, .integ, .pith, .pins, .health, .cmd, .med, .mov, .history, .out]) : shown kp (after (execUnitFrameBoundary t finds s) s0) = shown kp s := by
  simp only [off_cons, off_nil, and_true] at hk
  simp (maxDischargeDepth := 9) [execUnitFrameBoundary, hk]

theorem execLateWindowExpiry_shown {kp : Area → Bool} (t : Nat) (finds : List (Nat × DramFind)) (s : State) (s0 : State)
    (hk : Off kp [.now, .regs, .ctrs, .cad, .rge, .integ, .pith, .pins, .health, .cmd, .med, .mov, .history, .out]) : shown kp (after (execLateWindowExpiry t finds s) s0) = shown kp s := by
  simp only [off_cons, off_nil, and_true] at hk
  simp (maxDischargeDepth := 9) [execLateWindowExpiry, hk]

theorem execEdgesAbsent_shown {kp : Area → Bool} (t : Nat) (s : State) (s0 : State)
    (hk : Off kp [.now, .regs, .ctrs, .cad, .rge, .integ, .history, .out]) :
    shown kp (after (execEdgesAbsent t s) s0) = shown kp s := by
  simp only [off_cons, off_nil, and_true] at hk
  simp (maxDischargeDepth := 9) [execEdgesAbsent, hk]
  (repeat' split) <;> simp_all (maxDischargeDepth := 9)

theorem execHoldoverLimit_shown {kp : Area → Bool} (t : Nat) (s : State) (s0 : State)
    (hk : Off kp [.now, .regs, .ctrs, .cad, .rge, .integ, .history, .out]) :
    shown kp (after (execHoldoverLimit t s) s0) = shown kp s := by
  simp only [off_cons, off_nil, and_true] at hk
  simp (maxDischargeDepth := 9) [execHoldoverLimit, hk]

theorem execCadOutPulseEnd_shown {kp : Area → Bool} (t : Nat) (s : State) (s0 : State)
    (hk : Off kp [.now, .cad, .out]) : shown kp (after (execCadOutPulseEnd t s) s0) = shown kp s := by
  simp only [off_cons, off_nil, and_true] at hk
  simp (maxDischargeDepth := 9) [execCadOutPulseEnd, hk]

theorem execFrameExhausted_shown {kp : Area → Bool} (t : Nat) (s : State) (s0 : State)
    (hk : Off kp [.now, .regs, .ctrs, .cad, .rge, .integ, .pins, .health, .cmd, .med, .history, .out]) :
    shown kp (after (execFrameExhausted t s) s0) = shown kp s := by
  simp only [off_cons, off_nil, and_true] at hk
  simp (maxDischargeDepth := 9) [execFrameExhausted, hk]

theorem execCadenceRecordDue_shown {kp : Area → Bool} (t : Nat) (s : State) (s0 : State)
    (hk : Off kp [.now, .pith]) : shown kp (after (execCadenceRecordDue t s) s0) = shown kp s := by
  simp only [off_cons, off_nil, and_true] at hk
  simp (maxDischargeDepth := 9) [execCadenceRecordDue, hk]

theorem execPpsCapture_shown {kp : Area → Bool} (t : Nat) (s : State) (s0 : State)
    (hk : Off kp [.now, .regs, .ctrs, .cad, .rge, .integ, .history, .out]) :
    shown kp (after (execPpsCapture t s) s0) = shown kp s := by
  simp only [off_cons, off_nil, and_true] at hk
  have hc : ∀ s, shown kp (execPpsCapture.capture s) = shown kp s := by
    intro s; unfold execPpsCapture.capture; simp only; (repeat' split) <;> simp (maxDischargeDepth := 9) [hk]
  unfold execPpsCapture
  simp only
  (repeat' split) <;> simp (maxDischargeDepth := 9) [hk, hc]

theorem execPpsCapture.capture_shown {kp : Area → Bool} (s : State)
    (hk : Off kp [.regs, .ctrs, .cad, .rge, .integ, .history, .out]) : shown kp (execPpsCapture.capture s) = shown kp s := by
  simp only [off_cons, off_nil, and_true] at hk
  simp (maxDischargeDepth := 9) [execPpsCapture.capture, hk]

theorem execOdoPulse_shown {kp : Area → Bool} (t : Nat) (high : Nat) (s : State) (s0 : State)
    (hk : Off kp [.now, .regs, .ctrs, .cad, .rge, .integ, .history, .out]) :
    shown kp (after (execOdoPulse t high s) s0) = shown kp s := by
  simp only [off_cons, off_nil, and_true] at hk
  simp (maxDischargeDepth := 9) [execOdoPulse, hk]

@[simp] theorem incident_shown {kp : Area → Bool} (n : Nat) (s : State)
    (hk : Off kp [.regs, .ctrs, .cad, .rge, .integ, .pith, .history, .out]) : shown kp (incident n s) = shown kp s := by
  simp only [off_cons, off_nil, and_true] at hk
  simp (maxDischargeDepth := 9) [incident, hk]

@[simp] theorem edge0First_shown {kp : Area → Bool} (s : State)
    (hk : Off kp [.regs, .ctrs, .cad, .rge, .integ, .pith, .history, .out]) : shown kp (edge0First s) = shown kp s := by
  simp only [off_cons, off_nil, and_true] at hk
  unfold edge0First
  try dsimp only
  (repeat' split) <;> (try simp (maxDischargeDepth := 9) [hk]) <;> (repeat (refine shown_of_pair (by assumption) ?_; simp (maxDischargeDepth := 9) [hk]))

theorem execIncidentEdge_shown {kp : Area → Bool} (t : Nat) (n : Nat) (low : Nat) (s : State) (s0 : State)
    (hk : Off kp [.now, .regs, .ctrs, .cad, .rge, .integ, .pith, .history, .out]) :
    shown kp (after (execIncidentEdge t n low s) s0) = shown kp s := by
  simp only [off_cons, off_nil, and_true] at hk
  simp (maxDischargeDepth := 9) [execIncidentEdge, hk]

theorem execFenceEnd_shown {kp : Area → Bool} (t : Nat) (slot : Nat) (s : State) (s0 : State)
    (hk : Off kp [.now, .cad]) : shown kp (after (execFenceEnd t slot s) s0) = shown kp s := by
  simp only [off_cons, off_nil, and_true] at hk
  simp (maxDischargeDepth := 9) [execFenceEnd, hk]
  (repeat' split) <;> simp_all (maxDischargeDepth := 9)

@[simp] theorem execCadSnapNow_shown {kp : Area → Bool} (t : Nat) (s : State) (s0 : State)
    (hk : Off kp [.now, .snaps, .cad]) : shown kp (after (execCadSnapNow t s) s0) = shown kp s := by
  simp only [off_cons, off_nil, and_true] at hk
  simp (maxDischargeDepth := 9) [execCadSnapNow, hk]

@[simp] theorem wakeFor_shown {kp : Area → Bool} (c : Flight) (s : State)
    (hk : Off kp [.pwr]) : shown kp (wakeFor c s) = shown kp s := by
  simp only [off_cons, off_nil, and_true] at hk
  simp (maxDischargeDepth := 9) [wakeFor, hk]

@[simp] theorem serve_shown {kp : Area → Bool} (op : Nat) (id : Nat) (f : Flight → State → State) (s : State) (s0 : State) (hf : ∀ c s, shown kp (f c s) = shown kp s)
    (hk : Off kp [.regs, .ctrs, .rge, .integ, .pins, .health, .cmd, .pwr, .errs, .errCounts, .history, .out]) :
    shown kp (after (serve op id f s) s0) = shown kp s := by
  simp only [off_cons, off_nil, and_true] at hk
  unfold serve
  (repeat' split) <;> simp_all (maxDischargeDepth := 9)

@[simp] theorem nsCreate_shown {kp : Area → Bool} (id : Nat) (c : Flight) (s : State)
    (hk : Off kp [.draws, .regs, .ctrs, .rge, .integ, .pith, .cmd, .errs, .errCounts, .history, .out]) : shown kp (nsCreate id c s) = shown kp s := by
  simp only [off_cons, off_nil, and_true] at hk
  simp (maxDischargeDepth := 9) [nsCreate, hk]

theorem execNsCreate_shown {kp : Area → Bool} (t : Nat) (id : Nat) (s : State) (s0 : State)
    (hk : Off kp [.now, .draws, .regs, .ctrs, .rge, .integ, .pith, .pins, .health, .cmd, .pwr, .errs, .errCounts, .history, .out]) :
    shown kp (after (execNsCreate t id s) s0) = shown kp s := by
  simp only [off_cons, off_nil, and_true] at hk
  simp (maxDischargeDepth := 9) [execNsCreate, hk]

@[simp] theorem dropStone_shown {kp : Area → Bool} (p : StoneItem → Bool) (s : State)
    (hk : Off kp [.zst, .med]) : shown kp (dropStone p s) = shown kp s := by
  simp only [off_cons, off_nil, and_true] at hk
  simp (maxDischargeDepth := 9) [dropStone, hk]

@[simp] theorem nsDelete_shown {kp : Area → Bool} (id : Nat) (c : Flight) (s : State)
    (hk : Off kp [.regs, .ctrs, .rge, .integ, .pith, .cmd, .zst, .med, .errs, .errCounts, .history, .out]) : shown kp (nsDelete id c s) = shown kp s := by
  simp only [off_cons, off_nil, and_true] at hk
  simp (maxDischargeDepth := 9) [nsDelete, hk]

theorem execNsDelete_shown {kp : Area → Bool} (t : Nat) (id : Nat) (s : State) (s0 : State)
    (hk : Off kp [.now, .regs, .ctrs, .rge, .integ, .pith, .pins, .health, .cmd, .zst, .med, .pwr, .errs, .errCounts, .history, .out]) :
    shown kp (after (execNsDelete t id s) s0) = shown kp s := by
  simp only [off_cons, off_nil, and_true] at hk
  simp (maxDischargeDepth := 9) [execNsDelete, hk]

@[simp] theorem endDoze_shown {kp : Area → Bool} (s : State)
    (hk : Off kp [.regs, .ctrs, .snaps, .rge, .integ, .pins, .cmd, .flw, .med, .pwr, .mov, .history, .out]) : shown kp (endDoze s) = shown kp s := by
  simp only [off_cons, off_nil, and_true] at hk
  simp (maxDischargeDepth := 9) [endDoze, hk]

@[simp] theorem strmCreate_shown {kp : Area → Bool} (id : Nat) (c : Flight) (s : State)
    (hk : Off kp [.draws, .regs, .ctrs, .snaps, .rge, .integ, .pins, .cmd, .flw, .med, .pwr, .mov, .errs, .errCounts, .history, .out]) :
    shown kp (strmCreate id c s) = shown kp s := by
  simp only [off_cons, off_nil, and_true] at hk
  simp (maxDischargeDepth := 9) [strmCreate, hk]
  (repeat' split) <;> simp_all (maxDischargeDepth := 9)

theorem execStreamCreate_shown {kp : Area → Bool} (t : Nat) (id : Nat) (s : State) (s0 : State)
    (hk : Off kp [.now, .draws, .regs, .ctrs, .snaps, .rge, .integ, .pins, .health, .cmd, .flw, .med, .pwr, .mov, .errs, .errCounts, .history, .out]) :
    shown kp (after (execStreamCreate t id s) s0) = shown kp s := by
  simp only [off_cons, off_nil, and_true] at hk
  simp (maxDischargeDepth := 9) [execStreamCreate, hk]

@[simp] theorem strmDelete_shown {kp : Area → Bool} (id : Nat) (c : Flight) (s : State)
    (hk : Off kp [.rge, .cmd, .zst, .med, .errs, .errCounts, .out]) : shown kp (strmDelete id c s) = shown kp s := by
  simp only [off_cons, off_nil, and_true] at hk
  simp (maxDischargeDepth := 9) [strmDelete, hk]
  (repeat' split) <;> simp_all (maxDischargeDepth := 9)

theorem execStreamDelete_shown {kp : Area → Bool} (t : Nat) (id : Nat) (s : State) (s0 : State)
    (hk : Off kp [.now, .regs, .ctrs, .rge, .integ, .pins, .health, .cmd, .zst, .med, .pwr, .errs, .errCounts, .history, .out]) :
    shown kp (after (execStreamDelete t id s) s0) = shown kp s := by
  simp only [off_cons, off_nil, and_true] at hk
  simp (maxDischargeDepth := 9) [execStreamDelete, hk]

theorem execStreamQuery_shown {kp : Area → Bool} (t : Nat) (id : Nat) (s : State) (s0 : State)
    (hk : Off kp [.now, .regs, .ctrs, .rge, .integ, .pins, .health, .cmd, .pwr, .errs, .errCounts, .history, .out]) :
    shown kp (after (execStreamQuery t id s) s0) = shown kp s := by
  simp only [off_cons, off_nil, and_true] at hk
  unfold execStreamQuery
  refine (serve_shown _ _ _ _ _ (fun c s => ?_) (by simp [hk])).trans (by simp [hk])
  (repeat' split) <;> simp (maxDischargeDepth := 9) [hk]

@[simp] theorem leaveStream_shown {kp : Area → Bool} (id : Nat) (c : Flight) (s : State)
    (hk : Off kp [.cmd]) : shown kp (leaveStream id c s) = shown kp s := by
  simp only [off_cons, off_nil, and_true] at hk
  simp (maxDischargeDepth := 9) [leaveStream, hk]

@[simp] theorem abortNamed_shown {kp : Area → Bool} (f : Nat) (ring : Nat) (cid : Nat) (s : State)
    (hk : Off kp [.regs, .ctrs, .rge, .integ, .cmd, .dsp, .errs, .errCounts, .history, .out]) : shown kp (abortNamed f ring cid s).2 = shown kp s := by
  simp only [off_cons, off_nil, and_true] at hk
  unfold abortNamed
  (repeat' split) <;> simp_all (maxDischargeDepth := 9)

theorem execAbortCmd_shown {kp : Area → Bool} (t : Nat) (id : Nat) (s : State) (s0 : State)
    (hk : Off kp [.now, .regs, .ctrs, .rge, .integ, .pins, .health, .cmd, .pwr, .dsp, .errs, .errCounts, .history, .out]) :
    shown kp (after (execAbortCmd t id s) s0) = shown kp s := by
  simp only [off_cons, off_nil, and_true] at hk
  simp (maxDischargeDepth := 9) [execAbortCmd, hk]

@[simp] theorem releaseFence_shown {kp : Area → Bool} (slot : Nat) (s : State)
    (hk : Off kp [.regs, .ctrs, .cad, .rge, .integ, .pith, .history, .out]) : shown kp (releaseFence slot s) = shown kp s := by
  simp only [off_cons, off_nil, and_true] at hk
  simp (maxDischargeDepth := 9) [releaseFence, hk]

theorem execFenceRelease_shown {kp : Area → Bool} (t : Nat) (id : Nat) (s : State) (s0 : State)
    (hk : Off kp [.now, .regs, .ctrs, .cad, .rge, .integ, .pith, .pins, .health, .cmd, .pwr, .errs, .errCounts, .history, .out]) :
    shown kp (after (execFenceRelease t id s) s0) = shown kp s := by
  simp only [off_cons, off_nil, and_true] at hk
  unfold execFenceRelease
  refine (serve_shown _ _ _ _ _ (fun c s => ?_) (by simp [hk])).trans (by simp [hk])
  simp only
  (repeat' split) <;> simp (maxDischargeDepth := 9) [hk]

theorem execDepotBegin_shown {kp : Area → Bool} (t : Nat) (id : Nat) (s : State) (s0 : State)
    (hk : Off kp [.now, .regs, .ctrs, .rge, .integ, .pins, .health, .cmd, .med, .pwr, .errs, .errCounts, .history, .out]) :
    shown kp (after (execDepotBegin t id s) s0) = shown kp s := by
  simp only [off_cons, off_nil, and_true] at hk
  simp (maxDischargeDepth := 9) [execDepotBegin, hk]

@[simp] theorem endDepot_shown {kp : Area → Bool} (s : State)
    (hk : Off kp [.regs, .ctrs, .rge, .integ, .cmd, .med, .history, .out]) : shown kp (endDepot s) = shown kp s := by
  simp only [off_cons, off_nil, and_true] at hk
  simp (maxDischargeDepth := 9) [endDepot, hk]

theorem execDepotStop_shown {kp : Area → Bool} (t : Nat) (id : Nat) (s : State) (s0 : State)
    (hk : Off kp [.now, .regs, .ctrs, .rge, .integ, .pins, .health, .cmd, .med, .pwr, .errs, .errCounts, .history, .out]) :
    shown kp (after (execDepotStop t id s) s0) = shown kp s := by
  simp only [off_cons, off_nil, and_true] at hk
  simp (maxDischargeDepth := 9) [execDepotStop, hk]

theorem execDepotWindowEnd_shown {kp : Area → Bool} (t : Nat) (s : State) (s0 : State)
    (hk : Off kp [.now, .regs, .ctrs, .rge, .integ, .cmd, .med, .history, .out]) :
    shown kp (after (execDepotWindowEnd t s) s0) = shown kp s := by
  simp only [off_cons, off_nil, and_true] at hk
  simp (maxDischargeDepth := 9) [execDepotWindowEnd, hk]
  (repeat' split) <;> simp_all (maxDischargeDepth := 9)

@[simp] theorem readPoison_shown {kp : Area → Bool} (c : Flight) (s : State)
    (hk : Off kp [.regs, .ctrs, .rge, .integ, .history, .out]) : shown kp (readPoison c s) = shown kp s := by
  simp only [off_cons, off_nil, and_true] at hk
  simp (maxDischargeDepth := 9) [readPoison, hk]

@[simp] theorem hostReadFailed_shown {kp : Area → Bool} (id : Nat) (s : State)
    (hk : Off kp [.regs, .ctrs, .rge, .integ, .errs, .errCounts, .history, .out]) : shown kp (hostReadFailed id s) = shown kp s := by
  simp only [off_cons, off_nil, and_true] at hk
  unfold hostReadFailed
  try dsimp only
  (repeat' split) <;> (try simp (maxDischargeDepth := 9) [hk]) <;> (repeat (refine shown_of_pair (by assumption) ?_; simp (maxDischargeDepth := 9) [hk]))

theorem execFwDownload_shown {kp : Area → Bool} (t : Nat) (id : Nat) (data : Option (List Byte)) (s : State) (s0 : State)
    (hk : Off kp [.now, .regs, .ctrs, .rge, .integ, .pins, .health, .cmd, .pwr, .errs, .errCounts, .history, .out]) :
    shown kp (after (execFwDownload t id data s) s0) = shown kp s := by
  simp only [off_cons, off_nil, and_true] at hk
  unfold execFwDownload
  refine (serve_shown _ _ _ _ _ (fun c s => ?_) (by simp [hk])).trans (by simp [hk])
  try dsimp only
  (repeat' split) <;> (try simp (maxDischargeDepth := 9) [hk]) <;> (repeat (refine shown_of_pair (by assumption) ?_; simp (maxDischargeDepth := 9) [hk]))

@[simp] theorem chainDetect_shown {kp : Area → Bool} (seg : Nat) (first : Nat) (fails : Option Nat) (s : State)
    (hk : Off kp [.regs, .ctrs, .rge, .integ, .history, .out]) : shown kp (chainDetect seg first fails s).2 = shown kp s := by
  simp only [off_cons, off_nil, and_true] at hk
  simp (maxDischargeDepth := 9) [chainDetect, hk]
  (repeat' split) <;> simp_all (maxDischargeDepth := 9)

@[simp] theorem maint_shown {kp : Area → Bool} (kind : Nat) (id : Nat) (f : Flight → State → State) (s : State) (s0 : State) (hf : ∀ c s, shown kp (f c s) = shown kp s)
    (hk : Off kp [.regs, .ctrs, .rge, .integ, .pins, .health, .cmd, .pwr, .errs, .errCounts, .history, .out]) :
    shown kp (after (maint kind id f s) s0) = shown kp s := by
  simp only [off_cons, off_nil, and_true] at hk
  simp (maxDischargeDepth := 9) [maint, hk, hf]

@[simp] theorem keepMaint_shown {kp : Area → Bool} (id : Nat) (l : List Nat) (n : Nat) (s : State)
    (hk : Off kp [.rge, .med]) : shown kp (keepMaint id l n s) = shown kp s := by
  simp only [off_cons, off_nil, and_true] at hk
  simp (maxDischargeDepth := 9) [keepMaint, hk]

@[simp] theorem maintDone_shown {kp : Area → Bool} (id : Nat) (l : List Nat) (n : Nat) (s : State)
    (hk : Off kp [.rge, .med, .errs, .errCounts, .out]) : shown kp (maintDone id l n s) = shown kp s := by
  simp only [off_cons, off_nil, and_true] at hk
  simp (maxDischargeDepth := 9) [maintDone, hk]

theorem execMaintPatrol_shown {kp : Area → Bool} (t : Nat) (id : Nat) (s : State) (s0 : State)
    (hk : Off kp [.now, .regs, .ctrs, .rge, .integ, .pins, .health, .cmd, .med, .pwr, .errs, .errCounts, .history, .out]) :
    shown kp (after (execMaintPatrol t id s) s0) = shown kp s := by
  simp only [off_cons, off_nil, and_true] at hk
  unfold execMaintPatrol
  refine (maint_shown _ _ _ _ _ (fun c s => ?_) (by simp [hk])).trans (by simp [hk])
  try dsimp only
  (repeat' split) <;> (try simp (maxDischargeDepth := 9) [hk]) <;> (repeat (refine shown_of_pair (by assumption) ?_; simp (maxDischargeDepth := 9) [hk]))

theorem execMaintCompact_shown {kp : Area → Bool} (t : Nat) (id : Nat) (s : State) (s0 : State)
    (hk : Off kp [.now, .regs, .ctrs, .rge, .integ, .pith, .pins, .health, .cmd, .flw, .med, .pwr, .errs, .errCounts, .history, .out, .harvest]) :
    shown kp (after (execMaintCompact t id s) s0) = shown kp s := by
  simp only [off_cons, off_nil, and_true] at hk
  simp (maxDischargeDepth := 9) [execMaintCompact, hk]

@[simp] theorem noteMax_shown {kp : Area → Bool} (c : Flight) (ns : Nat) (s : State)
    (hk : Off kp [.cmd]) : shown kp (noteMax c ns s) = shown kp s := by
  simp only [off_cons, off_nil, and_true] at hk
  simp (maxDischargeDepth := 9) [noteMax, hk]

@[simp] theorem boundEnds_shown {kp : Area → Bool} (id : Nat) (c : Flight) (d : Conduct) (s : State)
    (hk : Off kp [.regs, .ctrs, .rge, .integ, .cmd, .history, .out]) : shown kp (boundEnds id c d s) = shown kp s := by
  simp only [off_cons, off_nil, and_true] at hk
  unfold boundEnds
  try dsimp only
  (repeat' split) <;> (try simp (maxDischargeDepth := 9) [hk]) <;> (repeat (refine shown_of_pair (by assumption) ?_; simp (maxDischargeDepth := 9) [hk]))

@[simp] theorem endBound_shown {kp : Area → Bool} (id : Nat) (d : Conduct) (f : State → State) (s : State)
    (hf : shown kp (f s) = shown kp s)
    (hk : Off kp [.regs, .ctrs, .rge, .integ, .cmd, .history, .out]) : shown kp (endBound id d f s) = shown kp s := by
  simp only [off_cons, off_nil, and_true] at hk
  unfold endBound
  split <;> simp (maxDischargeDepth := 9) [hf, hk]

@[simp] theorem failSealX_shown {kp : Area → Bool} (id : Nat) (status : Nat) (c : Flight) (x : ErrInfo) (s : State)
    (hk : Off kp [.regs, .ctrs, .rge, .integ, .cmd, .errs, .errCounts, .history, .out]) : shown kp (failSealX id status c x s) = shown kp s := by
  simp only [off_cons, off_nil, and_true] at hk
  simp (maxDischargeDepth := 9) [failSealX, hk]

@[simp] theorem failSeal_shown {kp : Area → Bool} (id : Nat) (status : Nat) (c : Flight) (s : State)
    (hk : Off kp [.regs, .ctrs, .rge, .integ, .cmd, .errs, .errCounts, .history, .out]) :
    shown kp (failSeal id status c s) = shown kp s := by
  simp only [off_cons, off_nil, and_true] at hk
  simp (maxDischargeDepth := 9) [failSeal, hk]

@[simp] theorem sealRoom_shown {kp : Area → Bool} (id : Nat) (c : Flight) (x : Strm) (ns : Ns) (s : State)
    (hk : Off kp [.regs, .ctrs, .rge, .integ, .health, .cmd, .errs, .errCounts, .history, .out]) :
    shown kp (sealRoom id c x ns s) = shown kp s := by
  simp only [off_cons, off_nil, and_true] at hk
  simp (maxDischargeDepth := 9) [sealRoom, hk]
  (repeat' split) <;> simp_all (maxDischargeDepth := 9)

theorem execSealRec_shown {kp : Area → Bool} (t : Nat) (id : Nat) (s : State) (s0 : State)
    (hk : Off kp [.now, .regs, .ctrs, .rge, .integ, .pins, .health, .cmd, .pwr, .errs, .errCounts, .history, .out]) :
    shown kp (after (execSealRec t id s) s0) = shown kp s := by
  simp only [off_cons, off_nil, and_true] at hk
  unfold execSealRec
  refine (serve_shown _ _ _ _ _ (fun c s => ?_) (by simp [hk])).trans (by simp [hk])
  (repeat' split) <;> simp (maxDischargeDepth := 9) [hk]

@[simp] theorem startSeal_shown {kp : Area → Bool} (k : Nat) (id : Nat) (c : Flight) (s : State)
    (hk : Off kp [.rge, .cmd]) : shown kp (startSeal k id c s) = shown kp s := by
  simp only [off_cons, off_nil, and_true] at hk
  simp (maxDischargeDepth := 9) [startSeal, hk]

theorem execSealServiceStart_shown {kp : Area → Bool} (t : Nat) (k : Nat) (s : State) (s0 : State)
    (hk : Off kp [.now, .regs, .ctrs, .rge, .integ, .pith, .pins, .health, .cmd, .flw, .med, .pwr, .history, .out, .harvest]) : shown kp (after (execSealServiceStart t k s) s0) = shown kp s := by
  simp only [off_cons, off_nil, and_true] at hk
  unfold execSealServiceStart
  try dsimp only
  (repeat' split) <;> (try simp (maxDischargeDepth := 9) [hk]) <;> (repeat (refine shown_of_pair (by assumption) ?_; simp (maxDischargeDepth := 9) [hk]))

@[simp] theorem fold_shown {kp : Area → Bool} (id : Nat) (c : Flight) (x : Strm) (h : List Byte) (payload : List Byte) (s : State)
    (hk : Off kp [.draws, .regs, .ctrs, .cad, .rge, .integ, .health, .cmd, .brc, .med, .history, .out]) :
    shown kp (fold id c x h payload s).2 = shown kp s := by
  simp only [off_cons, off_nil, and_true] at hk
  simp (maxDischargeDepth := 9) [fold, hk]

@[simp] theorem completeFolded_shown {kp : Area → Bool} (id : Nat) (c : Flight) (record : Nat) (tag : List Byte) (postBad : Bool) (s : State)
    (hk : Off kp [.regs, .ctrs, .rge, .integ, .errs, .errCounts, .history, .out]) :
    shown kp (completeFolded id c record tag postBad s) = shown kp s := by
  simp only [off_cons, off_nil, and_true] at hk
  simp (maxDischargeDepth := 9) [completeFolded, hk]

theorem execSealFold_shown {kp : Area → Bool} (t : Nat) (id : Nat) (data : Option (List Byte)) (d : Conduct) (postBad : Bool) (s : State) (s0 : State)
    (hk : Off kp [.now, .draws, .regs, .ctrs, .cad, .rge, .integ, .health, .cmd, .brc, .med, .errs, .errCounts, .history, .out]) :
    shown kp (after (execSealFold t id data d postBad s) s0) = shown kp s := by
  simp only [off_cons, off_nil, and_true] at hk
  simp (maxDischargeDepth := 9) [execSealFold, hk]
  (repeat' split) <;> simp_all (maxDischargeDepth := 9)

theorem execClsSnapNow_shown {kp : Area → Bool} (t : Nat) (n : Nat) (s : State) (s0 : State)
    (hk : Off kp [.now, .regs, .ctrs, .snaps, .rge, .integ, .flw, .pwr, .mov, .history, .out]) :
    shown kp (after (execClsSnapNow t n s) s0) = shown kp s := by
  simp only [off_cons, off_nil, and_true] at hk
  simp (maxDischargeDepth := 9) [execClsSnapNow, hk]

@[simp] theorem retentionNotice_shown {kp : Area → Bool} (k : Nat) (x : Strm) (kind : Nat) (count : Nat) (first : Nat) (s : State)
    (hk : Off kp [.regs, .ctrs, .rge, .integ, .history, .out]) : shown kp (retentionNotice k x kind count first s) = shown kp s := by
  simp only [off_cons, off_nil, and_true] at hk
  simp (maxDischargeDepth := 9) [retentionNotice, hk]

theorem execHoldExpiry_shown {kp : Area → Bool} (t : Nat) (s : State) (s0 : State)
    (hk : Off kp [.now, .cmd]) : shown kp (after (execHoldExpiry t s) s0) = shown kp s := by
  simp only [off_cons, off_nil, and_true] at hk
  simp (maxDischargeDepth := 9) [execHoldExpiry, hk]

@[simp] theorem noticesOf_shown {kp : Area → Bool} (s : State) (kx : Nat × Strm)
    (hk : Off kp [.regs, .ctrs, .rge, .integ, .cmd, .history, .out]) : shown kp (noticesOf s kx) = shown kp s := by
  simp only [off_cons, off_nil, and_true] at hk
  simp (maxDischargeDepth := 9) [noticesOf, hk]

theorem execRetentionNoticeDue_shown {kp : Area → Bool} (t : Nat) (s : State) (s0 : State)
    (hk : Off kp [.now, .regs, .ctrs, .rge, .integ, .cmd, .history, .out]) :
    shown kp (after (execRetentionNoticeDue t s) s0) = shown kp s := by
  simp only [off_cons, off_nil, and_true] at hk
  simp (maxDischargeDepth := 9) [execRetentionNoticeDue, hk]

@[simp] theorem lockRecs_shown {kp : Area → Bool} (id : Nat) (c : Flight) (x : Strm) (ns : Ns) (s : State)
    (hk : Off kp [.rge, .cmd, .errs, .errCounts, .out]) : shown kp (lockRecs id c x ns s) = shown kp s := by
  simp only [off_cons, off_nil, and_true] at hk
  simp (maxDischargeDepth := 9) [lockRecs, hk]

theorem execLockRange_shown {kp : Area → Bool} (t : Nat) (id : Nat) (s : State) (s0 : State)
    (hk : Off kp [.now, .regs, .ctrs, .rge, .integ, .pins, .health, .cmd, .pwr, .errs, .errCounts, .history, .out]) :
    shown kp (after (execLockRange t id s) s0) = shown kp s := by
  simp only [off_cons, off_nil, and_true] at hk
  unfold execLockRange
  refine (serve_shown _ _ _ _ _ (fun c s => ?_) (by simp [hk])).trans (by simp [hk])
  (repeat' split) <;> simp (maxDischargeDepth := 9) [hk]

@[simp] theorem releaseRecs_shown {kp : Area → Bool} (id : Nat) (c : Flight) (x : Strm) (s : State)
    (hk : Off kp [.regs, .ctrs, .rge, .integ, .cmd, .errs, .errCounts, .history, .out]) :
    shown kp (releaseRecs id c x s) = shown kp s := by
  simp only [off_cons, off_nil, and_true] at hk
  simp (maxDischargeDepth := 9) [releaseRecs, hk]

theorem execReleaseRange_shown {kp : Area → Bool} (t : Nat) (id : Nat) (s : State) (s0 : State)
    (hk : Off kp [.now, .regs, .ctrs, .rge, .integ, .pins, .health, .cmd, .pwr, .errs, .errCounts, .history, .out]) :
    shown kp (after (execReleaseRange t id s) s0) = shown kp s := by
  simp only [off_cons, off_nil, and_true] at hk
  unfold execReleaseRange
  refine (serve_shown _ _ _ _ _ (fun c s => ?_) (by simp [hk])).trans (by simp [hk])
  (repeat' split) <;> simp (maxDischargeDepth := 9) [hk]

@[simp] theorem keepSel_shown {kp : Area → Bool} (c : Flight) (l : List Nat) (s : State)
    (hk : Off kp [.cmd]) : shown kp (keepSel c l s) = shown kp s := by
  simp only [off_cons, off_nil, and_true] at hk
  simp (maxDischargeDepth := 9) [keepSel, hk]

@[simp] theorem selTime_shown {kp : Area → Bool} (c : Flight) (x : Strm) (s : State)
    (hk : Off kp [.regs, .ctrs, .rge, .integ, .history, .out]) : shown kp (selTime c x s).2 = shown kp s := by
  simp only [off_cons, off_nil, and_true] at hk
  simp (maxDischargeDepth := 9) [selTime, hk]
  (repeat' split) <;> simp_all (maxDischargeDepth := 9)

@[simp] theorem selRecord_shown {kp : Area → Bool} (c : Flight) (x : Strm) (s : State)
    (hk : Off kp []) : shown kp (selRecord c x s).2 = shown kp s := by
  simp (maxDischargeDepth := 9) [selRecord]

@[simp] theorem selRange_shown {kp : Area → Bool} (c : Flight) (x : Strm) (s : State)
    (hk : Off kp [.regs, .ctrs, .rge, .integ, .history, .out]) : shown kp (selRange c x s).2 = shown kp s := by
  simp only [off_cons, off_nil, and_true] at hk
  simp (maxDischargeDepth := 9) [selRange, hk]
  (repeat' split) <;> simp_all (maxDischargeDepth := 9)

@[simp] theorem selection_shown {kp : Area → Bool} (sel : Flight → Strm → State → (Nat ⊕ List Nat) × State) (c : Flight) (x : Strm) (s : State)
    (hsel : shown kp (sel c x s).2 = shown kp s) : shown kp (selection sel c x s).2 = shown kp s := by
  unfold selection
  split <;> simp [hsel]

@[simp] theorem badCopies_shown {kp : Area → Bool} (seg : Nat) (x1 : Nat) (x2 : State)
    (hk : Off kp [.regs, .integ]) : shown kp (badCopies seg x1 x2).2 = shown kp x2 := by
  simp only [off_cons, off_nil, and_true] at hk
  induction x1 generalizing x2 with
  | zero => rfl
  | succ n ih => simp only [badCopies]; split <;> simp [ih, hk]

@[simp] theorem raiseCopies_shown {kp : Area → Bool} (x : Site) (ef : Nat) (x2 : Nat) (x3 : State)
    (hk : Off kp [.regs, .ctrs, .rge, .integ, .history, .out]) : shown kp (raiseCopies x ef x2 x3) = shown kp x3 := by
  simp only [off_cons, off_nil, and_true] at hk
  fun_induction raiseCopies x ef x2 x3 <;> simp_all (maxDischargeDepth := 9)

@[simp] theorem openAll_shown {kp : Area → Bool} (x : Strm) (x1 : Nat) (x2 : List (Nat × Rec)) (x3 : State)
    (hk : Off kp [.regs, .ctrs, .rge, .integ, .history, .out]) : shown kp (openAll x x1 x2 x3).2 = shown kp x3 := by
  simp only [off_cons, off_nil, and_true] at hk
  induction x2 generalizing x1 x3 with
  | nil => rfl
  | cons p t ih =>
    obtain ⟨n, r⟩ := p
    have e := openObject_shown (kp := kp) x.seg r.payload.length (recContent r).isNone x3 (by simp [hk])
    simp only [openAll]
    split; · exact ih _ _
    split; · exact e
    · simp [e, ih]

@[simp] theorem readEvents_shown {kp : Area → Bool} (x : Strm) (verify : Bool) (rawz : Bool) (rs : List (Nat × Rec)) (s : State)
    (hk : Off kp [.regs, .ctrs, .rge, .integ, .history, .out]) : shown kp (readEvents x verify rawz rs s).2 = shown kp s := by
  simp only [off_cons, off_nil, and_true] at hk
  simp (maxDischargeDepth := 9) [readEvents, hk]
  (repeat' split) <;> simp_all (maxDischargeDepth := 9)

@[simp] theorem countReads_shown {kp : Area → Bool} (x : Strm) (verify : Bool) (rawz : Bool) (rs : List (Nat × Rec)) (s : State)
    (hk : Off kp [.regs, .ctrs, .rge, .integ, .history, .out]) : shown kp (countReads x verify rawz rs s).2 = shown kp s := by
  simp only [off_cons, off_nil, and_true] at hk
  simp (maxDischargeDepth := 9) [countReads, hk]

@[simp] theorem recallFault_shown {kp : Area → Bool} (x : Strm) (verify : Bool) (content : Bool) (l : List (List Byte)) (off : Nat) (len : Nat) (rs : List (Nat × Rec)) (s : State)
    (hk : Off kp [.regs, .ctrs, .rge, .integ, .history, .out]) : shown kp (recallFault x verify content l off len rs s).2 = shown kp s := by
  simp only [off_cons, off_nil, and_true] at hk
  unfold recallFault
  split
  · rfl
  · have e := fun a b => chainDetect_shown (kp := kp) x.seg a b s (by simp [hk])
    simp only
    split <;> rename_i heq <;> have e := congrArg (shown kp ·.2) heq |>.symm.trans (e _ _) <;> simpa using e

@[simp] theorem recallEnd_shown {kp : Area → Bool} (id : Nat) (c : Flight) (l : List (List Byte)) (k : Nat) (off : Nat) (d : Conduct) (x : Option Bad) (s : State)
    (hk : Off kp [.regs, .ctrs, .rge, .integ, .pins, .health, .cmd, .errs, .errCounts, .history, .out]) : shown kp (recallEnd id c l k off d x s) = shown kp s := by
  simp only [off_cons, off_nil, and_true] at hk
  unfold recallEnd
  (repeat' split) <;> simp_all (maxDischargeDepth := 9)

@[simp] theorem recallOut_shown {kp : Area → Bool} (id : Nat) (c : Flight) (x : Strm) (sel : List Nat) (d : Conduct) (s : State)
    (hk : Off kp [.regs, .ctrs, .rge, .integ, .pins, .health, .cmd, .errs, .errCounts, .history, .out]) :
    shown kp (recallOut id c x sel d s) = shown kp s := by
  simp only [off_cons, off_nil, and_true] at hk
  unfold recallOut
  simp only
  (repeat' split) <;> simp (maxDischargeDepth := 9) [hk]

@[simp] theorem recallBy_shown {kp : Area → Bool} (op id : Nat) (sel : Flight → Strm → State → (Nat ⊕ List Nat) × State) (d : Conduct) (s : State) (s0 : State) (hsel : ∀ c x s, shown kp (sel c x s).2 = shown kp s)
    (hk : Off kp [.regs, .ctrs, .rge, .integ, .pins, .health, .cmd, .pwr, .errs, .errCounts, .history, .out]) :
    shown kp (after (recallBy op id sel d s) s0) = shown kp s := by
  simp only [off_cons, off_nil, and_true] at hk
  unfold recallBy
  refine (serve_shown _ _ _ _ _ (fun c s => ?_) (by simp [hk])).trans (by simp [hk])
  split
  · simp (maxDischargeDepth := 9) [hk]
  · have e := fun x => selection_shown (kp := kp) sel c x s (hsel c x s)
    split <;> rename_i heq <;> replace e := (congrArg (fun q => shown kp q.2) heq).symm.trans (e _) <;> simp at e <;> simp (maxDischargeDepth := 9) [e, hk]

@[simp] theorem bookReads_shown {kp : Area → Bool} (id : Nat) (s : State)
    (hk : Off kp [.regs, .ctrs, .rge, .integ, .flw, .history, .out]) : shown kp (bookReads id s) = shown kp s := by
  simp only [off_cons, off_nil, and_true] at hk
  unfold bookReads
  try dsimp only
  (repeat' split) <;> (try simp (maxDischargeDepth := 9) [hk]) <;> (repeat (refine shown_of_pair (by assumption) ?_; simp (maxDischargeDepth := 9) [hk]))

theorem execDescriptorFetch_shown {kp : Area → Bool} (t : Nat) (desc : Option (List Byte)) (segs : List (Option (List Byte))) (s : State) (s0 : State)
    (hk : Off kp [.now, .regs, .ctrs, .snaps, .rge, .integ, .pins, .cmd, .flw, .med, .pwr, .mov, .errs, .errCounts, .history, .out]) :
    shown kp (after (execDescriptorFetch t desc segs s) s0) = shown kp s := by
  simp only [off_cons, off_nil, and_true] at hk
  unfold execDescriptorFetch
  try dsimp only
  (repeat' split) <;> (try simp (maxDischargeDepth := 9) [hk]) <;> (repeat (refine shown_of_pair (by assumption) ?_; simp (maxDischargeDepth := 9) [hk]))

theorem execRecallTime_shown {kp : Area → Bool} (t : Nat) (id : Nat) (d : Conduct) (s : State) (s0 : State)
    (hk : Off kp [.now, .regs, .ctrs, .rge, .integ, .pins, .health, .cmd, .pwr, .errs, .errCounts, .history, .out]) :
    shown kp (after (execRecallTime t id d s) s0) = shown kp s := by
  simp only [off_cons, off_nil, and_true] at hk
  simp (maxDischargeDepth := 9) [execRecallTime, hk]

theorem execRecallRecord_shown {kp : Area → Bool} (t : Nat) (id : Nat) (d : Conduct) (s : State) (s0 : State)
    (hk : Off kp [.now, .regs, .ctrs, .rge, .integ, .pins, .health, .cmd, .pwr, .errs, .errCounts, .history, .out]) :
    shown kp (after (execRecallRecord t id d s) s0) = shown kp s := by
  simp only [off_cons, off_nil, and_true] at hk
  simp (maxDischargeDepth := 9) [execRecallRecord, hk]

theorem execRecallRange_shown {kp : Area → Bool} (t : Nat) (id : Nat) (s : State) (s0 : State)
    (hk : Off kp [.now, .regs, .ctrs, .rge, .integ, .pins, .health, .cmd, .pwr, .errs, .errCounts, .history, .out]) :
    shown kp (after (execRecallRange t id s) s0) = shown kp s := by
  simp only [off_cons, off_nil, and_true] at hk
  simp (maxDischargeDepth := 9) [execRecallRange, hk]

@[simp] theorem keepExport_shown {kp : Area → Bool} (e : ExpCtx) (s : State)
    (hk : Off kp [.cmd]) : shown kp (keepExport e s) = shown kp s := by
  simp only [off_cons, off_nil, and_true] at hk
  simp (maxDischargeDepth := 9) [keepExport, hk]

@[simp] theorem exportOut_shown {kp : Area → Bool} (id : Nat) (c : Flight) (e : ExpCtx) (rs : List (Nat × Rec)) (s : State)
    (hk : Off kp [.regs, .ctrs, .rge, .integ, .health, .errs, .errCounts, .history, .out]) :
    shown kp (exportOut id c e rs s) = shown kp s := by
  simp only [off_cons, off_nil, and_true] at hk
  simp (maxDischargeDepth := 9) [exportOut, hk]

@[simp] theorem exportFail_shown {kp : Area → Bool} (id : Nat) (b : Bad) (c : Flight) (s : State)
    (hk : Off kp [.regs, .ctrs, .rge, .integ, .pins, .health, .cmd, .errs, .errCounts, .history, .out]) : shown kp (exportFail id b c s) = shown kp s := by
  simp only [off_cons, off_nil, and_true] at hk
  simp (maxDischargeDepth := 9) [exportFail, hk]

@[simp] theorem exportReads_shown {kp : Area → Bool} (x : Strm) (verify : Bool) (rs : List (Nat × Rec)) (s : State)
    (hk : Off kp [.regs, .ctrs, .rge, .integ, .history, .out]) : shown kp (exportReads x verify rs s).2 = shown kp s := by
  simp only [off_cons, off_nil, and_true] at hk
  simp (maxDischargeDepth := 9) [exportReads, hk]

@[simp] theorem exportSign_shown {kp : Area → Bool} (id : Nat) (c : Flight) (x : Strm) (l : List Nat) (s : State)
    (hk : Off kp [.draws, .regs, .ctrs, .rge, .integ, .health, .cmd, .errs, .errCounts, .history, .out]) :
    shown kp (exportSign id c x l s) = shown kp s := by
  simp only [off_cons, off_nil, and_true] at hk
  simp (maxDischargeDepth := 9) [exportSign, hk]

@[simp] theorem exportBuild_shown {kp : Area → Bool} (id : Nat) (c : Flight) (x : Strm) (l : List Nat) (s : State)
    (hk : Off kp [.draws, .regs, .ctrs, .rge, .integ, .pins, .health, .cmd, .errs, .errCounts, .history, .out]) :
    shown kp (exportBuild id c x l s) = shown kp s := by
  simp only [off_cons, off_nil, and_true] at hk
  unfold exportBuild
  try dsimp only
  (repeat' split) <;> (try simp (maxDischargeDepth := 9) [hk]) <;> (repeat (refine shown_of_pair (by assumption) ?_; simp (maxDischargeDepth := 9) [hk]))

@[simp] theorem exportResume_shown {kp : Area → Bool} (id : Nat) (c : Flight) (x : Strm) (s : State)
    (hk : Off kp [.regs, .ctrs, .rge, .integ, .pins, .health, .cmd, .errs, .errCounts, .history, .out]) :
    shown kp (exportResume id c x s) = shown kp s := by
  simp only [off_cons, off_nil, and_true] at hk
  unfold exportResume
  try dsimp only
  (repeat' split) <;> (try simp (maxDischargeDepth := 9) [hk]) <;> (repeat (refine shown_of_pair (by assumption) ?_; simp (maxDischargeDepth := 9) [hk]))

theorem execExportRange_shown {kp : Area → Bool} (t : Nat) (id : Nat) (s : State) (s0 : State)
    (hk : Off kp [.now, .draws, .regs, .ctrs, .rge, .integ, .pins, .health, .cmd, .pwr, .errs, .errCounts, .history, .out]) :
    shown kp (after (execExportRange t id s) s0) = shown kp s := by
  simp only [off_cons, off_nil, and_true] at hk
  unfold execExportRange
  simp only
  split
  · simp [hk]
  · refine (serve_shown _ _ _ _ _ (fun c s => ?_) (by simp [hk])).trans (by simp [hk])
    split
    · simp (maxDischargeDepth := 9) [hk]
    · split
      · simp (maxDischargeDepth := 9) [hk]
      · have e := selRange_shown (kp := kp) c ‹_› s
        split <;> rename_i heq <;> simp [heq, hk] at e <;> simp (maxDischargeDepth := 9) [e, hk]

@[simp] theorem storeGrain_shown {kp : Area → Bool} (n : Nat) (x : Ns) (cls : Nat) (bad : List Nat) (g : Nat) (s : State)
    (hk : Off kp [.regs, .ctrs, .rge, .integ, .health, .cmd, .brc, .med, .history, .out]) : shown kp (storeGrain n x cls bad g s).2 = shown kp s := by
  simp only [off_cons, off_nil, and_true] at hk
  simp (maxDischargeDepth := 9) [storeGrain, hk]

@[simp] theorem storeGrains_shown {kp : Area → Bool} (n : Nat) (x : Ns) (cls : Nat) (bad : List Nat) (gs : List Nat) (s : State)
    (hk : Off kp [.regs, .ctrs, .rge, .integ, .health, .cmd, .brc, .med, .history, .out]) : shown kp (storeGrains n x cls bad gs s).2 = shown kp s := by
  simp only [off_cons, off_nil, and_true] at hk
  unfold storeGrains
  refine shown_foldl_snd _ _ (fun a g => ?_) _
  simp (maxDischargeDepth := 9) [hk]

@[simp] theorem noteWrote_shown {kp : Area → Bool} (id : Nat) (n : Nat) (a : Nat) (k : Nat) (s : State)
    (hk : Off kp [.cmd]) : shown kp (noteWrote id n a k s) = shown kp s := by
  simp only [off_cons, off_nil, and_true] at hk
  simp (maxDischargeDepth := 9) [noteWrote, hk]

@[simp] theorem makeWay_shown {kp : Area → Bool} (key : Nat) (cls : Nat) (x : Ns) (a : Nat) (k : Nat) (s : State)
    (hk : Off kp [.regs, .ctrs, .rge, .integ, .pith, .pins, .health, .cmd, .flw, .med, .history, .out, .harvest]) : shown kp (makeWay key cls x a k s).2 = shown kp s := by
  simp only [off_cons, off_nil, and_true] at hk
  simp (maxDischargeDepth := 9) [makeWay, hk]

@[simp] theorem writeData_shown {kp : Area → Bool} (n : Nat) (x : Ns) (cls : Nat) (a : Nat) (k : Nat) (keep : List Nat) (d : List Byte) (bad : List Nat) (s : State)
    (hk : Off kp [.regs, .ctrs, .rge, .integ, .pith, .pins, .health, .cmd, .brc, .flw, .med, .history, .out, .harvest]) : shown kp (writeData n x cls a k keep d bad s).2 = shown kp s := by
  simp only [off_cons, off_nil, and_true] at hk
  simp (maxDischargeDepth := 9) [writeData, hk]

@[simp] theorem readGrains_shown {kp : Area → Bool} (x : Ns) (x1 : List Nat) (x2 : State)
    (hk : Off kp [.regs, .ctrs, .rge, .integ, .history, .out]) : shown kp (readGrains x x1 x2).2 = shown kp x2 := by
  simp only [off_cons, off_nil, and_true] at hk
  induction x1 generalizing x2 with
  | nil => rfl
  | cons g t ih =>
    simp only [readGrains]
    split; · exact ih _
    split; · simp (maxDischargeDepth := 9) [hk]
    split <;> (repeat' split) <;> (try simp (maxDischargeDepth := 9) [ih, hk]) <;> (try (refine shown_of_pair (by assumption) ?_; (repeat' split) <;> simp (maxDischargeDepth := 9) [hk]))

@[simp] theorem grainFail_shown {kp : Area → Bool} (id : Nat) (b : BadGrain) (c : Flight) (s : State)
    (hk : Off kp [.regs, .ctrs, .rge, .integ, .pins, .health, .cmd, .errs, .errCounts, .history, .out]) : shown kp (grainFail id b c s) = shown kp s := by
  simp only [off_cons, off_nil, and_true] at hk
  simp (maxDischargeDepth := 9) [grainFail, hk]

theorem execWriteBlocks_shown {kp : Area → Bool} (t : Nat) (id : Nat) (data : Option (List Byte)) (bad : List Nat) (s : State) (s0 : State)
    (hk : Off kp [.now, .regs, .ctrs, .rge, .integ, .pith, .pins, .health, .cmd, .brc, .flw, .med, .pwr, .errs, .errCounts, .history, .out, .harvest]) :
    shown kp (after (execWriteBlocks t id data bad s) s0) = shown kp s := by
  simp only [off_cons, off_nil, and_true] at hk
  unfold execWriteBlocks
  refine (serve_shown _ _ _ _ _ (fun c s => ?_) (by simp [hk])).trans (by simp [hk])
  try dsimp only
  (repeat' split) <;> (try simp (maxDischargeDepth := 9) [hk]) <;> (repeat (refine shown_of_pair (by assumption) ?_; simp (maxDischargeDepth := 9) [hk]))

theorem execReadBlocks_shown {kp : Area → Bool} (t : Nat) (id : Nat) (s : State) (s0 : State)
    (hk : Off kp [.now, .regs, .ctrs, .rge, .integ, .pins, .health, .cmd, .pwr, .errs, .errCounts, .history, .out]) :
    shown kp (after (execReadBlocks t id s) s0) = shown kp s := by
  simp only [off_cons, off_nil, and_true] at hk
  unfold execReadBlocks
  refine (serve_shown _ _ _ _ _ (fun c s => ?_) (by simp [hk])).trans (by simp [hk])
  try dsimp only
  (repeat' split) <;> (try simp (maxDischargeDepth := 9) [hk]) <;> (repeat (refine shown_of_pair (by assumption) ?_; simp (maxDischargeDepth := 9) [hk]))

@[simp] theorem dealloc_shown {kp : Area → Bool} (n : Nat) (x : Ns) (a : Nat) (k : Nat) (keep : List Nat) (s : State)
    (hk : Off kp [.cmd, .zst, .med]) : shown kp (dealloc n x a k keep s) = shown kp s := by
  simp only [off_cons, off_nil, and_true] at hk
  simp (maxDischargeDepth := 9) [dealloc, hk]

theorem execDeallocate_shown {kp : Area → Bool} (t : Nat) (id : Nat) (s : State) (s0 : State)
    (hk : Off kp [.now, .regs, .ctrs, .rge, .integ, .pins, .health, .cmd, .zst, .med, .pwr, .errs, .errCounts, .history, .out]) :
    shown kp (after (execDeallocate t id s) s0) = shown kp s := by
  simp only [off_cons, off_nil, and_true] at hk
  unfold execDeallocate
  refine (serve_shown _ _ _ _ _ (fun c s => ?_) (by simp [hk])).trans (by simp [hk])
  (repeat' split) <;> simp (maxDischargeDepth := 9) [hk]

theorem execMaintVerify_shown {kp : Area → Bool} (t : Nat) (id : Nat) (s : State) (s0 : State)
    (hk : Off kp [.now, .regs, .ctrs, .rge, .integ, .pins, .health, .cmd, .pwr, .errs, .errCounts, .history, .out]) :
    shown kp (after (execMaintVerify t id s) s0) = shown kp s := by
  simp only [off_cons, off_nil, and_true] at hk
  unfold execMaintVerify
  refine (maint_shown _ _ _ _ _ (fun c s => ?_) (by simp [hk])).trans (by simp [hk])
  try dsimp only
  (repeat' split) <;> (try simp (maxDischargeDepth := 9) [hk]) <;> (repeat (refine shown_of_pair (by assumption) ?_; simp (maxDischargeDepth := 9) [hk]))

@[simp] theorem decide__shown {kp : Area → Bool} (d : Nat) (s : State)
    (hk : Off kp [.regs, .ctrs, .rge, .integ, .flw, .history, .out]) : shown kp (decide_ d s) = shown kp s := by
  simp only [off_cons, off_nil, and_true] at hk
  unfold decide_
  (repeat' split) <;> simp_all (maxDischargeDepth := 9)

theorem execWindowDecision_shown {kp : Area → Bool} (t : Nat) (d : Nat) (reads : List QRead) (s : State) (s0 : State)
    (hk : Off kp [.now, .regs, .ctrs, .rge, .integ, .flw, .history, .out]) : shown kp (after (execWindowDecision t d reads s) s0) = shown kp s := by
  simp only [off_cons, off_nil, and_true] at hk
  simp (maxDischargeDepth := 9) [execWindowDecision, hk]
  (repeat' split) <;> simp_all (maxDischargeDepth := 9)

theorem execWindowOpen_shown {kp : Area → Bool} (t : Nat) (d : Nat) (s : State) (s0 : State)
    (hk : Off kp [.now, .regs, .ctrs, .rge, .integ, .flw, .history, .out]) :
    shown kp (after (execWindowOpen t d s) s0) = shown kp s := by
  simp only [off_cons, off_nil, and_true] at hk
  simp (maxDischargeDepth := 9) [execWindowOpen, hk]
  (repeat' split) <;> simp_all (maxDischargeDepth := 9)

@[simp] theorem resumeOp_shown {kp : Area → Bool} (d : Nat) (s : State)
    (hk : Off kp [.flw, .out]) : shown kp (resumeOp d s) = shown kp s := by
  simp only [off_cons, off_nil, and_true] at hk
  unfold resumeOp
  (repeat' split) <;> simp_all (maxDischargeDepth := 9)

theorem execWindowClose_shown {kp : Area → Bool} (t : Nat) (d : Nat) (s : State) (s0 : State)
    (hk : Off kp [.now, .flw, .med, .out]) : shown kp (after (execWindowClose t d s) s0) = shown kp s := by
  simp only [off_cons, off_nil, and_true] at hk
  simp (maxDischargeDepth := 9) [execWindowClose, hk]
  (repeat' split) <;> simp_all (maxDischargeDepth := 9)

theorem execProtectedStretchEnd_shown {kp : Area → Bool} (t : Nat) (d : Nat) (s : State) (s0 : State)
    (hk : Off kp [.now, .flw, .out]) : shown kp (after (execProtectedStretchEnd t d s) s0) = shown kp s := by
  simp only [off_cons, off_nil, and_true] at hk
  simp (maxDischargeDepth := 9) [execProtectedStretchEnd, hk]
  (repeat' split) <;> simp_all (maxDischargeDepth := 9)

theorem execEraseIssue_shown {kp : Area → Bool} (t : Nat) (d : Nat) (b : Nat) (s : State) (s0 : State)
    (hk : Off kp [.now, .flw, .med, .out]) : shown kp (after (execEraseIssue t d b s) s0) = shown kp s := by
  simp only [off_cons, off_nil, and_true] at hk
  simp (maxDischargeDepth := 9) [execEraseIssue, hk]
  (repeat' split) <;> simp_all (maxDischargeDepth := 9)

@[simp] theorem eraseDone_shown {kp : Area → Bool} (d : Nat) (b : Nat) (s : State)
    (hk : Off kp [.med]) : shown kp (eraseDone d b s) = shown kp s := by
  simp only [off_cons, off_nil, and_true] at hk
  unfold eraseDone
  (repeat' split) <;> simp_all (maxDischargeDepth := 9)

@[simp] theorem eraseChecked_shown {kp : Area → Bool} (d : Nat) (b : Nat) (blank : Bool) (s : State)
    (hk : Off kp [.regs, .ctrs, .rge, .integ, .pith, .pins, .health, .cmd, .flw, .med, .history, .out, .harvest]) :
    shown kp (eraseChecked d b blank s) = shown kp s := by
  simp only [off_cons, off_nil, and_true] at hk
  simp (maxDischargeDepth := 9) [eraseChecked, hk]

theorem execNandEraseComplete_shown {kp : Area → Bool} (t : Nat) (d : Nat) (ok : Bool) (raws : List (Nat × Nat)) (s : State) (s0 : State)
    (hk : Off kp [.now, .regs, .ctrs, .rge, .integ, .pith, .pins, .health, .cmd, .flw, .med, .history, .out, .harvest]) : shown kp (after (execNandEraseComplete t d ok raws s) s0) = shown kp s := by
  simp only [off_cons, off_nil, and_true] at hk
  simp (maxDischargeDepth := 9) [execNandEraseComplete, hk]
  (repeat' split) <;> simp_all (maxDischargeDepth := 9)

@[simp] theorem rewriteRows_shown {kp : Area → Bool} (p : ProgQ) (s : State)
    (hk : Off kp [.flw, .med, .out]) : shown kp (rewriteRows p s) = shown kp s := by
  simp only [off_cons, off_nil, and_true] at hk
  simp (maxDischargeDepth := 9) [rewriteRows, hk]

@[simp] theorem countMoveFail_shown {kp : Area → Bool} (p : ProgQ) (s : State)
    (hk : Off kp [.regs, .ctrs, .rge, .integ, .history, .out]) : shown kp (countMoveFail p s) = shown kp s := by
  simp only [off_cons, off_nil, and_true] at hk
  simp (maxDischargeDepth := 9) [countMoveFail, hk]

theorem execNandProgramComplete_shown {kp : Area → Bool} (t : Nat) (d : Nat) (ok : Bool) (parity : Option Bool) (s : State) (s0 : State)
    (hk : Off kp [.now, .regs, .ctrs, .rge, .integ, .pith, .pins, .health, .cmd, .flw, .med, .history, .out, .harvest]) :
    shown kp (after (execNandProgramComplete t d ok parity s) s0) = shown kp s := by
  simp only [off_cons, off_nil, and_true] at hk
  unfold execNandProgramComplete
  try dsimp only
  (repeat' split) <;> (try simp (maxDischargeDepth := 9) [hk]) <;> (repeat (refine shown_of_pair (by assumption) ?_; simp (maxDischargeDepth := 9) [hk]))

@[simp] theorem walk_shown {kp : Area → Bool} (d : Nat) (ef : Nat) (x2 : Nat) (x3 : List (Option (Nat × Bool))) (x4 : State)
    (hk : Off kp [.regs, .ctrs, .rge, .integ, .history, .out]) : shown kp (walk d ef x2 x3 x4).2 = shown kp x4 := by
  simp only [off_cons, off_nil, and_true] at hk
  induction x3 generalizing ef x2 x4 with
  | nil => rfl
  | cons p t ih =>
    rcases p with _ | ⟨c, sum⟩
    · exact ih _ _ _
    · have e := meet_shown (kp := kp) 47 (segOfDie d) (chanOf d) sum x4 (by simp [hk])
      simp only [walk]
      split <;> simp (maxDischargeDepth := 9) [hk, ih]

@[simp] theorem ladder_shown {kp : Area → Bool} (d : Nat) (x : Die) (w : CwRead) (s : State)
    (hk : Off kp [.regs, .ctrs, .rge, .integ, .history, .out]) : shown kp (ladder d x w s).2 = shown kp s := by
  simp only [off_cons, off_nil, and_true] at hk
  simp (maxDischargeDepth := 9) [ladder, hk]

@[simp] theorem refreshOf_shown {kp : Area → Bool} (d : Nat) (b : Nat) (s : State)
    (hk : Off kp [.regs, .ctrs, .rge, .integ, .pith, .pins, .health, .cmd, .flw, .med, .history, .out, .harvest]) :
    shown kp (refreshOf d b s) = shown kp s := by
  simp only [off_cons, off_nil, and_true] at hk
  unfold refreshOf
  (repeat' split) <;> simp_all (maxDischargeDepth := 9)

@[simp] theorem ladderReads_shown {kp : Area → Bool} (d : Nat) (b : Nat) (pg : Nat) (best : Nat) (n : Nat) (x : Die) (s : State)
    (hk : Off kp [.out]) : shown kp (ladderReads d b pg best n x s) = shown kp s := by
  simp only [off_cons, off_nil, and_true] at hk
  simp (maxDischargeDepth := 9) [ladderReads, hk]

@[simp] theorem readWear_shown {kp : Area → Bool} (d : Nat) (b : Nat) (l : List CwOut) (patrol : Bool) (x : Die) (site : Site) (s : State)
    (hk : Off kp [.regs, .ctrs, .rge, .integ, .pith, .pins, .health, .cmd, .flw, .med, .history, .out, .harvest]) : shown kp (readWear d b l patrol x site s) = shown kp s := by
  simp only [off_cons, off_nil, and_true] at hk
  simp (maxDischargeDepth := 9) [readWear, hk]

@[simp] theorem rebuildReads_shown {kp : Area → Bool} (d : Nat) (b : Nat) (pg : Nat) (x : Die) (s : State)
    (hk : Off kp [.out]) : shown kp (rebuildReads d b pg x s) = shown kp s := by
  simp only [off_cons, off_nil, and_true] at hk
  unfold rebuildReads
  refine shown_foldl _ _ (fun s a => ?_) _
  try dsimp only
  (repeat' split) <;> (try simp (maxDischargeDepth := 9) [hk]) <;> (repeat (refine shown_of_pair (by assumption) ?_; simp (maxDischargeDepth := 9) [hk]))

@[simp] theorem readLost_shown {kp : Area → Bool} (d : Nat) (b : Nat) (pg : Nat) (w : CwRead) (ef : Nat) (id : Option Nat) (x : Die) (site : Site) (s : State)
    (hk : Off kp [.regs, .ctrs, .rge, .integ, .pith, .pins, .health, .cmd, .flw, .med, .errs, .errCounts, .history, .out, .harvest]) : shown kp (readLost d b pg w ef id x site s) = shown kp s := by
  simp only [off_cons, off_nil, and_true] at hk
  unfold readLost
  extract_lets whole
  have h1 : shown kp (if whole = true then meet 47 (segOfDie d) (chanOf d) w.badSum s else (false, 0, s)).2.2 = shown kp s := by
    split <;> simp [hk]
  generalize (if whole = true then meet 47 (segOfDie d) (chanOf d) w.badSum s else (false, 0, s)) = r at h1 ⊢
  obtain ⟨m47, e47, s1⟩ := r
  simp only at h1
  rw [← h1]; clear h1
  dsimp -zeta only
  extract_lets s2 e s3 s4 s5
  have h5 : shown kp s5 = shown kp s1 := by
    simp only [s5, s4, s3, s2]
    (repeat' split) <;> simp (maxDischargeDepth := 9) [hk]
  clear_value s5
  (repeat' split) <;> simp (maxDischargeDepth := 9) [hk, h5]

@[simp] theorem readCauses_shown {kp : Area → Bool} (n : Nat) (x : Die) (id : Option Nat) (s : State)
    (hk : Off kp [.rge]) : shown kp (readCauses n x id s) = shown kp s := by
  simp only [off_cons, off_nil, and_true] at hk
  simp (maxDischargeDepth := 9) [readCauses, hk]

@[simp] theorem ladders_shown {kp : Area → Bool} (d : Nat) (x : Die) (x2 : List CwRead) (x3 : State)
    (hk : Off kp [.regs, .ctrs, .rge, .integ, .history, .out]) : shown kp (ladders d x x2 x3).2 = shown kp x3 := by
  simp only [off_cons, off_nil, and_true] at hk
  induction x2 generalizing x3 with
  | nil => rfl
  | cons w t ih => simp (maxDischargeDepth := 9) [ladders, ih, hk]

@[simp] theorem pageRead_shown {kp : Area → Bool} (d : Nat) (b : Nat) (pg : Nat) (best : Nat) (l : List CwRead) (id : Option Nat) (x : Die) (s : State)
    (hk : Off kp [.regs, .ctrs, .rge, .integ, .pith, .pins, .health, .cmd, .flw, .med, .errs, .errCounts, .history, .out, .harvest]) : shown kp (pageRead d b pg best l id x s) = shown kp s := by
  simp only [off_cons, off_nil, and_true] at hk
  simp (maxDischargeDepth := 9) [pageRead, hk]

@[simp] theorem marginRead_shown {kp : Area → Bool} (d : Nat) (b : Nat) (pg : Nat) (l : List CwRead) (x : Die) (s : State)
    (hk : Off kp [.regs, .ctrs, .rge, .integ, .pith, .pins, .health, .cmd, .flw, .med, .history, .out, .harvest]) : shown kp (marginRead d b pg l x s) = shown kp s := by
  simp only [off_cons, off_nil, and_true] at hk
  simp (maxDischargeDepth := 9) [marginRead, hk]

@[simp] theorem maintRead_shown {kp : Area → Bool} (d : Nat) (prec : Nat) (x : Die) (s : State)
    (hk : Off kp [.med]) : shown kp (maintRead d prec x s).2 = shown kp s := by
  simp only [off_cons, off_nil, and_true] at hk
  simp (maxDischargeDepth := 9) [maintRead, hk]

theorem execNandReadComplete_shown {kp : Area → Bool} (t : Nat) (d : Nat) (b : Nat) (pg : Nat) (best : Nat) (l : List CwRead) (use : ReadUse) (s : State) (s0 : State)
    (hk : Off kp [.now, .regs, .ctrs, .rge, .integ, .pith, .pins, .health, .cmd, .flw, .med, .errs, .errCounts, .history, .out, .harvest]) : shown kp (after (execNandReadComplete t d b pg best l use s) s0) = shown kp s := by
  simp only [off_cons, off_nil, and_true] at hk
  simp (maxDischargeDepth := 9) [execNandReadComplete, hk]
  (repeat' split) <;> simp_all (maxDischargeDepth := 9)

@[simp] theorem markLost_shown {kp : Area → Bool} (seg : Nat) (s : State)
    (hk : Off kp [.cmd, .med]) : shown kp (markLost seg s) = shown kp s := by
  simp only [off_cons, off_nil, and_true] at hk
  simp (maxDischargeDepth := 9) [markLost, hk]

@[simp] theorem checkChannel_shown {kp : Area → Bool} (c : Nat) (s : State)
    (hk : Off kp [.pith, .flw]) : shown kp (checkChannel c s) = shown kp s := by
  simp only [off_cons, off_nil, and_true] at hk
  simp (maxDischargeDepth := 9) [checkChannel, hk]

@[simp] theorem loseDie_shown {kp : Area → Bool} (d : Nat) (ef : Nat) (s : State)
    (hk : Off kp [.regs, .ctrs, .rge, .integ, .pith, .pins, .health, .cmd, .flw, .med, .history, .out, .harvest]) :
    shown kp (loseDie d ef s) = shown kp s := by
  simp only [off_cons, off_nil, and_true] at hk
  unfold loseDie
  (repeat' split) <;> simp_all (maxDischargeDepth := 9)

theorem execNandOpTimeout_shown {kp : Area → Bool} (t : Nat) (d : Nat) (s : State) (s0 : State)
    (hk : Off kp [.now, .regs, .ctrs, .rge, .integ, .pith, .pins, .health, .cmd, .flw, .med, .history, .out, .harvest]) :
    shown kp (after (execNandOpTimeout t d s) s0) = shown kp s := by
  simp only [off_cons, off_nil, and_true] at hk
  simp (maxDischargeDepth := 9) [execNandOpTimeout, hk]
  (repeat' split) <;> simp_all (maxDischargeDepth := 9)

theorem execChannelRetrain_shown {kp : Area → Bool} (t : Nat) (c : Nat) (s : State) (s0 : State)
    (hk : Off kp [.now, .flw, .med, .out]) : shown kp (after (execChannelRetrain t c s) s0) = shown kp s := by
  simp only [off_cons, off_nil, and_true] at hk
  simp (maxDischargeDepth := 9) [execChannelRetrain, hk]

@[simp] theorem flashBrace_shown {kp : Area → Bool} (s : State) (hk : Off kp [.flw, .med, .out]) : shown kp (flashBrace s) = shown kp s := by
  simp only [off_cons, off_nil, and_true] at hk
  simp (maxDischargeDepth := 9) [flashBrace, hk]

theorem execFlwSnapNow_shown {kp : Area → Bool} (t : Nat) (n : Nat) (s : State) (s0 : State)
    (hk : Off kp [.now, .regs, .ctrs, .snaps, .rge, .integ, .flw, .pwr, .mov, .history, .out]) :
    shown kp (after (execFlwSnapNow t n s) s0) = shown kp s := by
  simp only [off_cons, off_nil, and_true] at hk
  simp (maxDischargeDepth := 9) [execFlwSnapNow, hk]

theorem execDiagRead_shown {kp : Area → Bool} (t : Nat) (id : Nat) (flips : List Nat) (s : State) (s0 : State)
    (hk : Off kp [.now, .regs, .ctrs, .rge, .integ, .pins, .health, .cmd, .pwr, .errs, .errCounts, .history, .out]) : shown kp (after (execDiagRead t id flips s) s0) = shown kp s := by
  simp only [off_cons, off_nil, and_true] at hk
  unfold execDiagRead
  refine (serve_shown _ _ _ _ _ (fun c s => ?_) (by simp [hk])).trans (by simp [hk])
  simp only
  (repeat' split) <;> simp (maxDischargeDepth := 9) [hk]

end Sys2Proof.Machine
end

