-- ==== Sys2Proof/Laws/FrameEngines.lean ====
section
/-!
SUPPORT. What each operation leaves as it was: the Brace Unit, integrity, Dispatchers, cores, engine jobs, the Security Gate and the Data Movers. A lemma `f_shown` says that `f` changes
no part of the state outside the list it names; commands have theirs in this form too, of the state after them.
-/
set_option linter.unusedSimpArgs false
set_option linter.unusedVariables false
set_option linter.unusedTactic false
set_option linter.unreachableTactic false

namespace Sys2Proof.Machine

@[simp] theorem queueHealth_shown {kp : Area → Bool} (s : State) (hk : Off kp [.pith]) : shown kp (queueHealth s) = shown kp s := by
  simp only [off_cons, off_nil, and_true] at hk
  simp (maxDischargeDepth := 9) [queueHealth, hk]

@[simp] theorem onBrc_shown {kp : Area → Bool} (f : Brc → Brc) (s : State)
    (hk : Off kp [.brc]) : shown kp (onBrc f s) = shown kp s := by
  simp only [off_cons, off_nil, and_true] at hk
  simp (maxDischargeDepth := 9) [onBrc, hk]

@[simp] theorem sample_shown {kp : Area → Bool} (vsys : Nat) (vhu : Nat) (warnN : Bool) (huOk : Bool) (s : State)
    (hk : Off kp [.brc]) : shown kp (sample vsys vhu warnN huOk s) = shown kp s := by
  simp only [off_cons, off_nil, and_true] at hk
  simp (maxDischargeDepth := 9) [sample, hk]

@[simp] theorem brcNotice_shown {kp : Area → Bool} (kind : Nat) (seq : Nat) (value : Nat) (s : State)
    (hk : Off kp [.regs, .ctrs, .rge, .integ, .history, .out]) : shown kp (brcNotice kind seq value s) = shown kp s := by
  simp only [off_cons, off_nil, and_true] at hk
  simp (maxDischargeDepth := 9) [brcNotice, hk]

@[simp] theorem enterBrace_shown {kp : Area → Bool} (cause : Nat) (s : State)
    (hk : Off kp [.regs, .ctrs, .snaps, .rge, .integ, .pins, .cmd, .brc, .flw, .med, .pwr, .mov, .history, .out]) :
    shown kp (enterBrace cause s) = shown kp s := by
  simp only [off_cons, off_nil, and_true] at hk
  simp (maxDischargeDepth := 9) [enterBrace, hk]

theorem execPowerWarning_shown {kp : Area → Bool} (t : Nat) (vsys : Nat) (vhu : Nat) (warnN : Bool) (huOk : Bool) (s : State) (s0 : State)
    (hk : Off kp [.now, .regs, .ctrs, .snaps, .rge, .integ, .pins, .cmd, .brc, .flw, .med, .pwr, .mov, .history, .out]) :
    shown kp (after (execPowerWarning t vsys vhu warnN huOk s) s0) = shown kp s := by
  simp only [off_cons, off_nil, and_true] at hk
  simp (maxDischargeDepth := 9) [execPowerWarning, hk]

@[simp] theorem setCover_shown {kp : Area → Bool} (s : State)
    (hk : Off kp [.draws, .brc, .med]) : shown kp (setCover s) = shown kp s := by
  simp only [off_cons, off_nil, and_true] at hk
  simp (maxDischargeDepth := 9) [setCover, hk]

@[simp] theorem measure_shown {kp : Area → Bool} (pbrace : Nat) (rate : Nat) (ceff : Option Nat) (s : State)
    (hk : Off kp [.draws, .regs, .ctrs, .rge, .integ, .pins, .brc, .med, .history, .out]) :
    shown kp (measure pbrace rate ceff s) = shown kp s := by
  simp only [off_cons, off_nil, and_true] at hk
  simp (maxDischargeDepth := 9) [measure, hk]

@[simp] theorem queueMeasure_shown {kp : Area → Bool} (seq : Nat) (s : State)
    (hk : Off kp [.pith]) : shown kp (queueMeasure seq s) = shown kp s := by
  simp only [off_cons, off_nil, and_true] at hk
  simp (maxDischargeDepth := 9) [queueMeasure, hk]

@[simp] theorem drainJournal_shown {kp : Area → Bool} (s : State)
    (hk : Off kp [.regs, .ctrs, .rge, .integ, .pith, .history, .out]) : shown kp (drainJournal s) = shown kp s := by
  simp only [off_cons, off_nil, and_true] at hk
  unfold drainJournal
  (repeat' split) <;> simp_all (maxDischargeDepth := 9)

@[simp] theorem addHist_shown {kp : Area → Bool} (h : BHist) (s : State)
    (hk : Off kp [.brc]) : shown kp (addHist h s) = shown kp s := by
  simp only [off_cons, off_nil, and_true] at hk
  simp (maxDischargeDepth := 9) [addHist, hk]

@[simp] theorem flushJournal_shown {kp : Area → Bool} (seq : Nat) (pbrace : Nat) (rate : Nat) (ceff : Option Nat) (s : State)
    (hk : Off kp [.draws, .regs, .ctrs, .rge, .integ, .pith, .pins, .brc, .med, .history, .out]) :
    shown kp (flushJournal seq pbrace rate ceff s) = shown kp s := by
  simp only [off_cons, off_nil, and_true] at hk
  unfold flushJournal
  have h2 : ∀ (l : List Nat) (s : State), shown kp (l.foldl (fun s k => match strmOf s k with
    | some x => if x.next = 0 then s else queueJ 3 x.seg (some k) (chainHead k x (x.next - 1) x.head) s
    | none => s) s) = shown kp s := by
    intro l s; refine shown_foldl _ _ (fun s a => ?_) _; (repeat' split) <;> simp [hk]
  simp only [drainJournal_shown, queueJ_shown, queueMeasure_shown, queueHealth_shown, queueFences_shown, measure_shown, off_cons_iff, off_nil_iff, and_true, hk, and_self]
  exact (h2 _ _).trans (by simp [hk])

@[simp] theorem flushInto_shown {kp : Area → Bool} (g : Nat) (l : Tab (List StoneItem)) (s : State)
    (hk : Off kp [.regs, .ctrs, .rge, .integ, .health, .cmd, .med, .history, .out]) : shown kp (flushInto g l s).2 = shown kp s := by
  simp only [off_cons, off_nil, and_true] at hk
  simp (maxDischargeDepth := 9) [flushInto, hk]

@[simp] theorem flushSegment_shown {kp : Area → Bool} (seg : Nat) (s : State)
    (hk : Off kp [.draws, .regs, .ctrs, .rge, .integ, .pith, .health, .cmd, .brc, .med, .history, .out]) : shown kp (flushSegment seg s) = shown kp s := by
  simp only [off_cons, off_nil, and_true] at hk
  simp (maxDischargeDepth := 9) [flushSegment, hk]

@[simp] theorem finishFlush_shown {kp : Area → Bool} (pbrace : Nat) (t34 : Nat) (t37 : Nat) (v3 : Nat) (v7 : Nat) (low : Bool) (s : State)
    (hk : Off kp [.draws, .regs, .ctrs, .rge, .integ, .pith, .pins, .health, .cmd, .brc, .med, .history, .out]) :
    shown kp (finishFlush pbrace t34 t37 v3 v7 low s) = shown kp s := by
  simp only [off_cons, off_nil, and_true] at hk
  unfold finishFlush
  simp (maxDischargeDepth := 9) [hk]

theorem execExitWaitStart_shown {kp : Area → Bool} (t : Nat) (vsys : Nat) (vhu : Nat) (warnN : Bool) (huOk : Bool) (s : State) (s0 : State)
    (hk : Off kp [.now, .brc]) : shown kp (after (execExitWaitStart t vsys vhu warnN huOk s) s0) = shown kp s := by
  simp only [off_cons, off_nil, and_true] at hk
  simp (maxDischargeDepth := 9) [execExitWaitStart, hk]

theorem execExitWaitRestart_shown {kp : Area → Bool} (t : Nat) (vsys : Nat) (vhu : Nat) (warnN : Bool) (huOk : Bool) (s : State) (s0 : State)
    (hk : Off kp [.now, .regs, .ctrs, .rge, .integ, .brc, .history, .out]) :
    shown kp (after (execExitWaitRestart t vsys vhu warnN huOk s) s0) = shown kp s := by
  simp only [off_cons, off_nil, and_true] at hk
  simp (maxDischargeDepth := 9) [execExitWaitRestart, hk]

@[simp] theorem restoreReserve_shown {kp : Area → Bool} (i : FImage) (s : State)
    (hk : Off kp [.pith, .med]) : shown kp (restoreReserve i s) = shown kp s := by
  simp only [off_cons, off_nil, and_true] at hk
  simp (maxDischargeDepth := 9) [restoreReserve, hk]

@[simp] theorem completeHist_shown {kp : Area → Bool} (exited : Nat) (outcome : Nat) (s : State)
    (hk : Off kp [.pith, .brc]) : shown kp (completeHist exited outcome s) = shown kp s := by
  simp only [off_cons, off_nil, and_true] at hk
  unfold completeHist
  (repeat' split) <;> simp_all (maxDischargeDepth := 9)

@[simp] theorem exitBrace_shown {kp : Area → Bool} (s : State)
    (hk : Off kp [.regs, .ctrs, .rge, .integ, .pith, .pins, .cmd, .brc, .flw, .med, .pwr, .history, .out]) :
    shown kp (exitBrace s) = shown kp s := by
  simp only [off_cons, off_nil, and_true] at hk
  simp (maxDischargeDepth := 9) [exitBrace, hk]

theorem execBraceExit_shown {kp : Area → Bool} (t : Nat) (s : State) (s0 : State)
    (hk : Off kp [.now, .regs, .ctrs, .rge, .integ, .pith, .pins, .cmd, .brc, .flw, .med, .pwr, .history, .out]) :
    shown kp (after (execBraceExit t s) s0) = shown kp s := by
  simp only [off_cons, off_nil, and_true] at hk
  simp (maxDischargeDepth := 9) [execBraceExit, hk]
  (repeat' split) <;> simp_all (maxDischargeDepth := 9)

@[simp] theorem execBrcSnapNow_shown {kp : Area → Bool} (t : Nat) (s : State) (s0 : State)
    (hk : Off kp [.now, .snaps]) : shown kp (after (execBrcSnapNow t s) s0) = shown kp s := by
  simp only [off_cons, off_nil, and_true] at hk
  simp (maxDischargeDepth := 9) [execBrcSnapNow, hk]

theorem execDetectorHoldoffEnd_shown {kp : Area → Bool} (t : Nat) (k : Nat) (s : State) (s0 : State)
    (hk : Off kp [.now, .regs, .ctrs, .rge, .integ, .history, .out]) :
    shown kp (after (execDetectorHoldoffEnd t k s) s0) = shown kp s := by
  simp only [off_cons, off_nil, and_true] at hk
  simp (maxDischargeDepth := 9) [execDetectorHoldoffEnd, hk]
  (repeat' split) <;> simp_all (maxDischargeDepth := 9)

@[simp] theorem presetTally_shown {kp : Area → Bool} (a : Nat) (s : State)
    (hk : Off kp [.ctrs, .integ]) : shown kp (presetTally a s) = shown kp s := by
  simp only [off_cons, off_nil, and_true] at hk
  simp (maxDischargeDepth := 9) [presetTally, hk]

@[simp] theorem testTriad_shown {kp : Area → Bool} (k : Nat) (pos : Nat) (s : State)
    (hk : Off kp [.regs, .ctrs, .rge, .integ, .pith, .history, .out]) : shown kp (testTriad k pos s) = shown kp s := by
  simp only [off_cons, off_nil, and_true] at hk
  simp (maxDischargeDepth := 9) [testTriad, hk]

@[simp] theorem fireInstant_shown {kp : Area → Bool} (s : State)
    (hk : Off kp [.draws, .regs, .ctrs, .rge, .integ, .pith, .pins, .health, .cmd, .flw, .med, .history, .out, .harvest]) : shown kp (fireInstant s) = shown kp s := by
  simp only [off_cons, off_nil, and_true] at hk
  unfold fireInstant
  try dsimp only
  (repeat' split) <;> (try simp (maxDischargeDepth := 9) [hk]) <;> (repeat (refine shown_of_pair (by assumption) ?_; simp (maxDischargeDepth := 9) [hk]))

@[simp] theorem fireAll_shown {kp : Area → Bool} (x0 : Nat) (x1 : State)
    (hk : Off kp [.draws, .regs, .ctrs, .rge, .integ, .pith, .pins, .health, .cmd, .flw, .med, .history, .out, .harvest]) : shown kp (fireAll x0 x1) = shown kp x1 := by
  simp only [off_cons, off_nil, and_true] at hk
  fun_induction fireAll x0 x1 <;> simp_all (maxDischargeDepth := 9)

@[simp] theorem arm_shown {kp : Area → Bool} (s : State)
    (hk : Off kp [.draws, .regs, .ctrs, .rge, .integ, .pith, .pins, .health, .cmd, .flw, .med, .history, .out, .harvest]) : shown kp (arm s) = shown kp s := by
  simp only [off_cons, off_nil, and_true] at hk
  simp (maxDischargeDepth := 9) [arm, hk]

@[simp] theorem intInjWrite_shown {kp : Area → Bool} (w : Word) (be : Nat) (s : State)
    (hk : Off kp [.draws, .regs, .ctrs, .rge, .integ, .pith, .pins, .health, .cmd, .flw, .med, .history, .out, .harvest]) : shown kp (intInjWrite w be s) = shown kp s := by
  simp only [off_cons, off_nil, and_true] at hk
  simp (maxDischargeDepth := 9) [intInjWrite, hk]
  (repeat' split) <;> simp_all (maxDischargeDepth := 9)

theorem execInjectionArm_shown {kp : Area → Bool} (t : Nat) (w : Word) (be : Nat) (s : State) (s0 : State)
    (hk : Off kp [.now, .draws, .regs, .ctrs, .rge, .integ, .pith, .pins, .health, .cmd, .flw, .med, .history, .out, .harvest]) :
    shown kp (after (execInjectionArm t w be s) s0) = shown kp s := by
  simp only [off_cons, off_nil, and_true] at hk
  simp (maxDischargeDepth := 9) [execInjectionArm, hk]

theorem execInjectionDisarm_shown {kp : Area → Bool} (t : Nat) (w : Word) (be : Nat) (s : State) (s0 : State)
    (hk : Off kp [.now, .draws, .regs, .ctrs, .rge, .integ, .pith, .pins, .health, .cmd, .flw, .med, .history, .out, .harvest]) :
    shown kp (after (execInjectionDisarm t w be s) s0) = shown kp s := by
  simp only [off_cons, off_nil, and_true] at hk
  simp (maxDischargeDepth := 9) [execInjectionDisarm, hk]

@[simp] theorem intBypassWrite_shown {kp : Area → Bool} (w : Word) (be : Nat) (s : State)
    (hk : Off kp [.regs, .integ]) : shown kp (intBypassWrite w be s) = shown kp s := by
  simp only [off_cons, off_nil, and_true] at hk
  simp (maxDischargeDepth := 9) [intBypassWrite, hk]
  (repeat' split) <;> simp_all (maxDischargeDepth := 9)

theorem execBypassOpen_shown {kp : Area → Bool} (t : Nat) (w : Word) (be : Nat) (s : State) (s0 : State)
    (hk : Off kp [.now, .regs, .integ]) : shown kp (after (execBypassOpen t w be s) s0) = shown kp s := by
  simp only [off_cons, off_nil, and_true] at hk
  simp (maxDischargeDepth := 9) [execBypassOpen, hk]

theorem execBypassWindowEnd_shown {kp : Area → Bool} (t : Nat) (s : State) (s0 : State)
    (hk : Off kp [.now, .regs, .integ]) : shown kp (after (execBypassWindowEnd t s) s0) = shown kp s := by
  simp only [off_cons, off_nil, and_true] at hk
  simp (maxDischargeDepth := 9) [execBypassWindowEnd, hk]
  (repeat' split) <;> simp_all (maxDischargeDepth := 9)

@[simp] theorem execIntSnapNow_shown {kp : Area → Bool} (t : Nat) (s : State) (s0 : State)
    (hk : Off kp [.now, .snaps]) : shown kp (after (execIntSnapNow t s) s0) = shown kp s := by
  simp only [off_cons, off_nil, and_true] at hk
  simp (maxDischargeDepth := 9) [execIntSnapNow, hk]

@[simp] theorem repairRow_shown {kp : Area → Bool} (arr : Nat) (row : Nat) (k : Nat) (s : State)
    (hk : Off kp [.regs, .ctrs, .rge, .integ, .pith, .history, .out]) : shown kp (repairRow arr row k s) = shown kp s := by
  simp only [off_cons, off_nil, and_true] at hk
  simp (maxDischargeDepth := 9) [repairRow, hk]

@[simp] theorem scrubFinding_shown {kp : Area → Bool} (s : State) (x : SramFind)
    (hk : Off kp [.draws, .regs, .ctrs, .rge, .integ, .pith, .pins, .health, .cmd, .history, .out]) : shown kp (scrubFinding s x) = shown kp s := by
  simp only [off_cons, off_nil, and_true] at hk
  simp (maxDischargeDepth := 9) [scrubFinding, hk]

theorem execSramScrub_shown {kp : Area → Bool} (t : Nat) (finds : List SramFind) (s : State) (s0 : State)
    (hk : Off kp [.now, .draws, .regs, .ctrs, .rge, .integ, .pith, .pins, .health, .cmd, .history, .out]) :
    shown kp (after (execSramScrub t finds s) s0) = shown kp s := by
  simp only [off_cons, off_nil, and_true] at hk
  simp (maxDischargeDepth := 9) [execSramScrub, hk]

theorem execHealthSave_shown {kp : Area → Bool} (t : Nat) (s : State) (s0 : State)
    (hk : Off kp [.now, .regs, .ctrs, .rge, .integ, .pith, .health, .pwr, .history, .out]) :
    shown kp (after (execHealthSave t s) s0) = shown kp s := by
  simp only [off_cons, off_nil, and_true] at hk
  simp (maxDischargeDepth := 9) [execHealthSave, hk]

theorem execMonitorOscillatorCheck_shown {kp : Area → Bool} (t : Nat) (ppm : Nat) (s : State) (s0 : State)
    (hk : Off kp [.now, .regs, .ctrs, .rge, .integ, .history, .out]) :
    shown kp (after (execMonitorOscillatorCheck t ppm s) s0) = shown kp s := by
  simp only [off_cons, off_nil, and_true] at hk
  simp (maxDischargeDepth := 9) [execMonitorOscillatorCheck, hk]

theorem execFlitCrcError_shown {kp : Area → Bool} (t : Nat) (s : State) (s0 : State)
    (hk : Off kp [.now, .regs, .ctrs, .rge, .integ, .history, .out]) : shown kp (after (execFlitCrcError t s) s0) = shown kp s := by
  simp only [off_cons, off_nil, and_true] at hk
  simp (maxDischargeDepth := 9) [execFlitCrcError, hk]

@[simp] theorem voidAll_shown {kp : Area → Bool} (cause : Nat) (s : State)
    (hk : Off kp [.rge]) : shown kp (voidAll cause s) = shown kp s := by
  simp only [off_cons, off_nil, and_true] at hk
  simp (maxDischargeDepth := 9) [voidAll, hk]

theorem execLinkStateChange_shown {kp : Area → Bool} (t : Nat) (link : Link) (speed : Nat) (width : Nat) (s : State) (s0 : State)
    (hk : Off kp [.now, .regs, .ctrs, .rge, .integ, .pins, .pwr, .history, .out]) :
    shown kp (after (execLinkStateChange t link speed width s) s0) = shown kp s := by
  simp only [off_cons, off_nil, and_true] at hk
  simp (maxDischargeDepth := 9) [execLinkStateChange, hk]

@[simp] theorem deliver_shown {kp : Area → Bool} (k : Nat) (key : Nat) (i : Item) (s : State)
    (hk : Off kp [.regs, .ctrs, .rge, .integ, .dxr, .dsp, .history, .out]) : shown kp (deliver k key i s).2 = shown kp s := by
  simp only [off_cons, off_nil, and_true] at hk
  simp (maxDischargeDepth := 9) [deliver, hk]

@[simp] theorem postItem_shown {kp : Area → Bool} (k : Nat) (content : List Byte) (p : Nat) (due : Nat) (s : State)
    (hk : Off kp [.dsp]) : shown kp (postItem k content p due s).2 = shown kp s := by
  simp only [off_cons, off_nil, and_true] at hk
  simp (maxDischargeDepth := 9) [postItem, hk]
  (repeat' split) <;> simp_all (maxDischargeDepth := 9)

@[simp] theorem popHand_shown {kp : Area → Bool} (f : Hand → Bool) (s : State)
    (hk : Off kp [.dxr]) : shown kp (popHand f s).2 = shown kp s := by
  simp only [off_cons, off_nil, and_true] at hk
  simp (maxDischargeDepth := 9) [popHand, hk]

theorem execDispatcherPost_shown {kp : Area → Bool} (t : Nat) (k : Nat) (s : State) (s0 : State)
    (hk : Off kp [.now, .draws, .dxr, .dsp]) : shown kp (after (execDispatcherPost t k s) s0) = shown kp s := by
  simp only [off_cons, off_nil, and_true] at hk
  unfold execDispatcherPost
  simp only
  have e := popHand_shown (kp := kp) (fun h => match h with | .post c _ _ _ => c == k | _ => false) (tick t s) (by simp [hk])
  split
  · rename_i heq
    replace e := (congrArg (fun q => shown kp q.2) heq).symm.trans e
    simp [hk] at e
    (repeat' split) <;> simp (maxDischargeDepth := 9) [e, hk]
  · simp [hk]

theorem execDispatcherDone_shown {kp : Area → Bool} (t : Nat) (k : Nat) (s : State) (s0 : State)
    (hk : Off kp [.now, .regs, .dxr, .dsp]) : shown kp (after (execDispatcherDone t k s) s0) = shown kp s := by
  simp only [off_cons, off_nil, and_true] at hk
  unfold execDispatcherDone
  simp only
  have e := popHand_shown (kp := kp) (fun h => match h with | .done c _ => c == k | _ => false) (tick t s) (by simp [hk])
  split
  · rename_i heq
    replace e := (congrArg (fun q => shown kp q.2) heq).symm.trans e
    simp [hk] at e
    (repeat' split) <;> simp (maxDischargeDepth := 9) [e, hk]
  · simp [hk]

@[simp] theorem notifyItem_shown {kp : Area → Bool} (k : Nat) (source : Nat) (result : List Byte) (res : Nat) (s : State)
    (hk : Off kp [.dsp]) : shown kp (notifyItem k source result res s) = shown kp s := by
  simp only [off_cons, off_nil, and_true] at hk
  unfold notifyItem
  try dsimp only
  (repeat' split) <;> (try simp (maxDischargeDepth := 9) [hk]) <;> (repeat (refine shown_of_pair (by assumption) ?_; simp (maxDischargeDepth := 9) [hk]))

@[simp] theorem releaseOne_shown {kp : Area → Bool} (s : State) (key : Nat)
    (hk : Off kp [.dsp]) : shown kp (releaseOne s key) = shown kp s := by
  simp only [off_cons, off_nil, and_true] at hk
  unfold releaseOne
  (repeat' split) <;> simp_all (maxDischargeDepth := 9)

theorem execDelayRelease_shown {kp : Area → Bool} (t : Nat) (seg : Nat) (s : State) (s0 : State)
    (hk : Off kp [.now, .pwr, .dsp]) : shown kp (after (execDelayRelease t seg s) s0) = shown kp s := by
  simp only [off_cons, off_nil, and_true] at hk
  simp (maxDischargeDepth := 9) [execDelayRelease, hk]

@[simp] theorem progNotice_shown {kp : Area → Bool} (x : DRun) (pkind : Nat) (code : Nat) (epc : Nat) (eaddr : Nat) (s : State)
    (hk : Off kp [.regs, .ctrs, .rge, .integ, .history, .out]) : shown kp (progNotice x pkind code epc eaddr s) = shown kp s := by
  simp only [off_cons, off_nil, and_true] at hk
  simp (maxDischargeDepth := 9) [progNotice, hk]

@[simp] theorem endRun_shown {kp : Area → Bool} (r : Nat) (status : Nat) (result : Nat) (code : Nat) (epc : Nat) (eaddr : Nat) (ef : Nat) (s : State)
    (hk : Off kp [.regs, .ctrs, .rge, .integ, .cry, .zst, .dxr, .dsp, .mov, .errs, .errCounts, .history, .out, .mem]) :
    shown kp (endRun r status result code epc eaddr ef s) = shown kp s := by
  simp only [off_cons, off_nil, and_true] at hk
  unfold endRun
  (repeat' split) <;> simp_all (maxDischargeDepth := 9)

theorem execRunExit_shown {kp : Area → Bool} (t : Nat) (k : Nat) (s : State) (s0 : State)
    (hk : Off kp [.now, .regs, .ctrs, .rge, .integ, .cry, .zst, .dxr, .dsp, .mov, .errs, .errCounts, .history, .out, .mem]) :
    shown kp (after (execRunExit t k s) s0) = shown kp s := by
  simp only [off_cons, off_nil, and_true] at hk
  unfold execRunExit
  simp only
  have e := popHand_shown (kp := kp) (fun h => match h with | .exit c _ => c == k | _ => false) (tick t s) (by simp [hk])
  split
  · rename_i heq
    replace e := (congrArg (fun q => shown kp q.2) heq).symm.trans e
    simp [hk] at e
    (repeat' split) <;> simp (maxDischargeDepth := 9) [e, hk]
  · simp [hk]

@[simp] theorem setupRun_shown {kp : Area → Bool} (r : Nat) (k : Nat) (x : DRun) (img : List Byte) (s : State)
    (hk : Off kp [.dxr, .dsp, .mem]) : shown kp (setupRun r k x img s) = shown kp s := by
  simp only [off_cons, off_nil, and_true] at hk
  simp (maxDischargeDepth := 9) [setupRun, hk]

theorem execRunStart_shown {kp : Area → Bool} (t : Nat) (seg : Nat) (k : Nat) (w3 : Nat) (w4 : Nat) (s : State) (s0 : State)
    (hk : Off kp [.now, .regs, .ctrs, .rge, .integ, .dxr, .dsp, .history, .out, .mem]) :
    shown kp (after (execRunStart t seg k w3 w4 s) s0) = shown kp s := by
  simp only [off_cons, off_nil, and_true] at hk
  simp (maxDischargeDepth := 9) [execRunStart, hk]
  (repeat' split) <;> simp_all (maxDischargeDepth := 9)

@[simp] theorem restartRun_shown {kp : Area → Bool} (r : Nat) (s : State)
    (hk : Off kp [.cry, .zst, .dxr, .dsp, .mov, .mem]) : shown kp (restartRun r s) = shown kp s := by
  simp only [off_cons, off_nil, and_true] at hk
  unfold restartRun
  (repeat' split) <;> simp_all (maxDischargeDepth := 9)

theorem execDspSnapNow_shown {kp : Area → Bool} (t : Nat) (n : Nat) (s : State) (s0 : State)
    (hk : Off kp [.now, .regs, .ctrs, .snaps, .rge, .integ, .flw, .pwr, .mov, .history, .out]) :
    shown kp (after (execDspSnapNow t n s) s0) = shown kp s := by
  simp only [off_cons, off_nil, and_true] at hk
  simp (maxDischargeDepth := 9) [execDspSnapNow, hk]

@[simp] theorem hand_shown {kp : Area → Bool} (h : Hand) (s : State) (hk : Off kp [.dxr]) : shown kp (hand h s) = shown kp s := by
  simp only [off_cons, off_nil, and_true] at hk
  simp (maxDischargeDepth := 9) [hand, hk]

@[simp] theorem markStale_shown {kp : Area → Bool} (k : Nat) (key : Nat) (a : Nat) (x3 : List Byte) (x4 : State)
    (hk : Off kp [.dxr, .mem]) : shown kp (markStale k key a x3 x4) = shown kp x4 := by
  simp only [off_cons, off_nil, and_true] at hk
  fun_induction markStale k key a x3 x4 <;> simp_all (maxDischargeDepth := 9)

@[simp] theorem portStore_shown {kp : Area → Bool} (k : Nat) (p : Nat) (o : Nat) (l : List Byte) (s : State)
    (hk : Off kp [.dxr]) : shown kp (portStore k p o l s) = shown kp s := by
  simp only [off_cons, off_nil, and_true] at hk
  unfold portStore
  (repeat' split) <;> simp_all (maxDischargeDepth := 9)

@[simp] theorem dispStore_shown {kp : Area → Bool} (k : Nat) (o : Nat) (l : List Byte) (s : State)
    (hk : Off kp [.dxr]) : shown kp (dispStore k o l s) = shown kp s := by
  simp only [off_cons, off_nil, and_true] at hk
  simp (maxDischargeDepth := 9) [dispStore, hk]

@[simp] theorem storeAt_shown {kp : Area → Bool} (k : Nat) (x : Target) (l : List Byte) (s : State)
    (hk : Off kp [.dxr, .mem]) : shown kp (storeAt k x l s) = shown kp s := by
  simp only [off_cons, off_nil, and_true] at hk
  unfold storeAt
  (repeat' split) <;> simp_all (maxDischargeDepth := 9)

@[simp] theorem doStores_shown {kp : Area → Bool} (k : Nat) (l : List (Kind × Nat × List Byte)) (s : State)
    (hk : Off kp [.dxr, .mem]) : shown kp (doStores k l s) = shown kp s := by
  simp only [off_cons, off_nil, and_true] at hk
  unfold doStores
  refine shown_foldl _ _ (fun s a => ?_) _
  (repeat' split) <;> simp_all (maxDischargeDepth := 9)

@[simp] theorem afterFetch_shown {kp : Area → Bool} (s : State) (hk : Off kp [.draws]) : shown kp (afterFetch s) = shown kp s := by
  simp only [off_cons, off_nil, and_true] at hk
  simp (maxDischargeDepth := 9) [afterFetch, hk]

@[simp] theorem wrapNotice_shown {kp : Area → Bool} (k : Nat) (old : Nat) (new : Nat) (s : State)
    (hk : Off kp [.draws, .regs, .ctrs, .rge, .integ, .history, .out]) : shown kp (wrapNotice k old new s) = shown kp s := by
  simp only [off_cons, off_nil, and_true] at hk
  simp (maxDischargeDepth := 9) [wrapNotice, hk]

@[simp] theorem addCycles_shown {kp : Area → Bool} (k : Nat) (n : Nat) (s : State)
    (hk : Off kp [.draws, .regs, .ctrs, .rge, .integ, .dxr, .history, .out]) : shown kp (addCycles k n s) = shown kp s := by
  simp only [off_cons, off_nil, and_true] at hk
  simp (maxDischargeDepth := 9) [addCycles, hk]

@[simp] theorem addRetired_shown {kp : Area → Bool} (k : Nat) (n : Nat) (s : State)
    (hk : Off kp [.draws, .regs, .ctrs, .rge, .integ, .dxr, .history, .out]) : shown kp (addRetired k n s) = shown kp s := by
  simp only [off_cons, off_nil, and_true] at hk
  simp (maxDischargeDepth := 9) [addRetired, hk]

@[simp] theorem takeExc_shown {kp : Area → Bool} (k : Nat) (e : Exc) (epc : Nat) (ef : Nat) (s : State)
    (hk : Off kp [.draws, .regs, .ctrs, .rge, .integ, .cry, .zst, .dxr, .dsp, .mov, .errs, .errCounts, .history, .out, .mem]) :
    shown kp (takeExc k e epc ef s) = shown kp s := by
  simp only [off_cons, off_nil, and_true] at hk
  simp (maxDischargeDepth := 9) [takeExc, hk]
  (repeat' split) <;> simp_all (maxDischargeDepth := 9)

@[simp] theorem coreSram_shown {kp : Area → Bool} (k : Nat) (p : Nat × Nat) (dbl : Bool) (s : State)
    (hk : Off kp [.draws, .regs, .ctrs, .rge, .integ, .pith, .pins, .health, .cmd, .history, .out]) : shown kp (coreSram k p dbl s) = shown kp s := by
  simp only [off_cons, off_nil, and_true] at hk
  simp (maxDischargeDepth := 9) [coreSram, hk]

@[simp] theorem excDetectors_shown {kp : Area → Bool} (k : Nat) (way : Issue) (e : Exc) (ef : Nat) (s : State)
    (hk : Off kp [.draws, .regs, .ctrs, .rge, .integ, .pith, .pins, .health, .cmd, .mov, .history, .out]) : shown kp (excDetectors k way e ef s) = shown kp s := by
  simp only [off_cons, off_nil, and_true] at hk
  simp (maxDischargeDepth := 9) [excDetectors, hk]

@[simp] theorem selMask_shown {kp : Area → Bool} (sel : Nat) (s : State)
    (hk : Off kp [.regs]) : shown kp (selMask sel s) = shown kp s := by
  simp only [off_cons, off_nil, and_true] at hk
  simp (maxDischargeDepth := 9) [selMask, hk]

@[simp] theorem doGett_shown {kp : Area → Bool} (k : Nat) (d : Nat) (a : Nat) (p : Nat) (c : DCore) (s : State)
    (hk : Off kp [.regs, .ctrs, .rge, .integ, .dxr, .dsp, .history, .out]) : shown kp (doGett k d a p c s) = shown kp s := by
  simp only [off_cons, off_nil, and_true] at hk
  simp (maxDischargeDepth := 9) [doGett, hk]
  (repeat' split) <;> simp_all (maxDischargeDepth := 9)

@[simp] theorem commit_shown {kp : Area → Bool} (k : Nat) (c : DCore) (m : Tab Nat) (l : List Syl) (next : Nat) (s : State)
    (hk : Off kp [.regs, .ctrs, .rge, .integ, .dxr, .dsp, .history, .out, .mem]) : shown kp (commit k c m l next s) = shown kp s := by
  simp only [off_cons, off_nil, and_true] at hk
  unfold commit
  (repeat' split) <;> simp_all (maxDischargeDepth := 9)

@[simp] theorem flagAccess_shown {kp : Area → Bool} (k : Nat) (l : List Syl) (s : State)
    (hk : Off kp [.regs, .ctrs, .rge, .integ, .history, .out]) : shown kp (flagAccess k l s).2.2 = shown kp s := by
  simp only [off_cons, off_nil, and_true] at hk
  unfold flagAccess
  (repeat' split) <;> simp (maxDischargeDepth := 9) [hk]

@[simp] theorem finish_shown {kp : Area → Bool} (k : Nat) (e : Option Exc) (s : State)
    (hk : Off kp [.draws, .regs, .ctrs, .rge, .integ, .cry, .zst, .dxr, .dsp, .mov, .errs, .errCounts, .history, .out, .mem]) :
    shown kp (finish k e s) = shown kp s := by
  simp only [off_cons, off_nil, and_true] at hk
  unfold finish
  (repeat' split) <;> simp_all (maxDischargeDepth := 9)

@[simp] theorem endRep_shown {kp : Area → Bool} (k : Nat) (words : Nat) (s : State)
    (hk : Off kp [.draws, .regs, .ctrs, .rge, .integ, .dxr, .history, .out]) : shown kp (endRep k words s) = shown kp s := by
  simp only [off_cons, off_nil, and_true] at hk
  simp (maxDischargeDepth := 9) [endRep, hk]

@[simp] theorem execSyls_shown {kp : Area → Bool} (k : Nat) (way : Issue) (b : Bundle) (next : Nat) (s : State)
    (hk : Off kp [.draws, .regs, .ctrs, .rge, .integ, .pith, .pins, .health, .cmd, .cry, .zst, .dxr, .dsp, .mov, .errs, .errCounts, .history, .out, .mem]) :
    shown kp (execSyls k way b next s).2 = shown kp s := by
  simp only [off_cons, off_nil, and_true] at hk
  simp (maxDischargeDepth := 9) [execSyls, hk]
  (repeat' split) <;> simp_all (maxDischargeDepth := 9)

@[simp] theorem startGet_shown {kp : Area → Bool} (k : Nat) (d : Nat) (a : Nat) (c : DCore) (words : List Word) (acts : List Syl) (s : State)
    (hk : Off kp [.regs, .dxr, .dsp]) : shown kp (startGet k d a c words acts s) = shown kp s := by
  simp only [off_cons, off_nil, and_true] at hk
  simp (maxDischargeDepth := 9) [startGet, hk]

@[simp] theorem issuePlain_shown {kp : Area → Bool} (k : Nat) (way : Issue) (b : Bundle) (words : List Word) (s : State)
    (hk : Off kp [.draws, .regs, .ctrs, .rge, .integ, .pith, .pins, .health, .cmd, .cry, .zst, .dxr, .dsp, .mov, .errs, .errCounts, .history, .out, .mem]) :
    shown kp (issuePlain k way b words s) = shown kp s := by
  simp only [off_cons, off_nil, and_true] at hk
  simp (maxDischargeDepth := 9) [issuePlain, hk]
  (repeat' split) <;> simp_all (maxDischargeDepth := 9)

@[simp] theorem issueRep_shown {kp : Area → Bool} (k : Nat) (n : Src) (b : Bundle) (s : State)
    (hk : Off kp [.draws, .regs, .ctrs, .rge, .integ, .dxr, .history, .out]) : shown kp (issueRep k n b s) = shown kp s := by
  simp only [off_cons, off_nil, and_true] at hk
  simp (maxDischargeDepth := 9) [issueRep, hk]

@[simp] theorem repPass_shown {kp : Area → Bool} (k : Nat) (way : Issue) (b : Bundle) (s : State)
    (hk : Off kp [.draws, .regs, .ctrs, .rge, .integ, .pith, .pins, .health, .cmd, .cry, .zst, .dxr, .dsp, .mov, .errs, .errCounts, .history, .out, .mem]) :
    shown kp (repPass k way b s) = shown kp s := by
  simp only [off_cons, off_nil, and_true] at hk
  simp (maxDischargeDepth := 9) [repPass, hk]

@[simp] theorem resetCore_shown {kp : Area → Bool} (k : Nat) (s : State)
    (hk : Off kp [.dxr]) : shown kp (resetCore k s) = shown kp s := by
  simp only [off_cons, off_nil, and_true] at hk
  simp (maxDischargeDepth := 9) [resetCore, hk]

@[simp] theorem returnItem_shown {kp : Area → Bool} (k : Nat) (s : State)
    (hk : Off kp [.dsp]) : shown kp (returnItem k s) = shown kp s := by
  simp only [off_cons, off_nil, and_true] at hk
  unfold returnItem
  (repeat' split) <;> simp_all (maxDischargeDepth := 9)

@[simp] theorem requeueRun_shown {kp : Area → Bool} (r : Nat) (s : State)
    (hk : Off kp [.cry, .zst, .dxr, .dsp, .mov, .mem]) : shown kp (requeueRun r s) = shown kp s := by
  simp only [off_cons, off_nil, and_true] at hk
  unfold requeueRun
  (repeat' split) <;> simp_all (maxDischargeDepth := 9)

@[simp] theorem lastHouse_shown {kp : Area → Bool} (seg : Nat) (s : State)
    (hk : Off kp [.draws, .regs, .ctrs, .rge, .integ, .pith, .pins, .health, .cmd, .cry, .brc, .zst, .med, .dxr, .dsp, .mov, .history, .out, .mem]) :
    shown kp (lastHouse seg s) = shown kp s := by
  simp only [off_cons, off_nil, and_true] at hk
  unfold lastHouse
  (repeat' split) <;> simp_all (maxDischargeDepth := 9)

@[simp] theorem quarantineCore_shown {kp : Area → Bool} (k : Nat) (s : State)
    (hk : Off kp [.draws, .regs, .ctrs, .rge, .integ, .pith, .pins, .health, .cmd, .cry, .brc, .zst, .med, .dxr, .dsp, .mov, .history, .out, .mem]) :
    shown kp (quarantineCore k s) = shown kp s := by
  simp only [off_cons, off_nil, and_true] at hk
  simp (maxDischargeDepth := 9) [quarantineCore, hk]

@[simp] theorem failItem_shown {kp : Area → Bool} (k : Nat) (key : Nat) (dt : Nat) (ef : Nat) (s : State)
    (hk : Off kp [.draws, .regs, .ctrs, .rge, .integ, .pins, .health, .cmd, .dxr, .dsp, .errs, .errCounts, .history, .out]) : shown kp (failItem k key dt ef s) = shown kp s := by
  simp only [off_cons, off_nil, and_true] at hk
  unfold failItem
  try dsimp only
  (repeat' split) <;> (try simp (maxDischargeDepth := 9) [hk]) <;> (repeat (refine shown_of_pair (by assumption) ?_; simp (maxDischargeDepth := 9) [hk]))

@[simp] theorem idleFault_shown {kp : Area → Bool} (k : Nat) (ef : Nat) (s : State)
    (hk : Off kp [.draws, .regs, .ctrs, .rge, .integ, .pins, .health, .cmd, .dxr, .history, .out]) : shown kp (idleFault k ef s) = shown kp s := by
  simp only [off_cons, off_nil, and_true] at hk
  simp (maxDischargeDepth := 9) [idleFault, hk]

@[simp] theorem coreFault_shown {kp : Area → Bool} (k : Nat) (dt : Nat) (ef : Nat) (s : State)
    (hk : Off kp [.draws, .regs, .ctrs, .rge, .integ, .pith, .pins, .health, .cmd, .cry, .brc, .zst, .med, .dxr, .dsp, .mov, .errs, .errCounts, .history, .out, .mem]) : shown kp (coreFault k dt ef s) = shown kp s := by
  simp only [off_cons, off_nil, and_true] at hk
  simp (maxDischargeDepth := 9) [coreFault, hk]
  (repeat' split) <;> simp_all (maxDischargeDepth := 9)

@[simp] theorem issueChecks_shown {kp : Area → Bool} (k : Nat) (way : Issue) (s : State)
    (hk : Off kp [.draws, .regs, .ctrs, .rge, .integ, .pith, .pins, .health, .cmd, .cry, .brc, .zst, .med, .dxr, .dsp, .mov, .errs, .errCounts, .history, .out, .mem]) :
    shown kp (issueChecks k way s).2 = shown kp s := by
  simp only [off_cons, off_nil, and_true] at hk
  simp (maxDischargeDepth := 9) [issueChecks, hk]

@[simp] theorem issueBundle_shown {kp : Area → Bool} (k : Nat) (way : Issue) (s : State)
    (hk : Off kp [.draws, .regs, .ctrs, .rge, .integ, .pith, .pins, .health, .cmd, .cry, .brc, .zst, .med, .dxr, .dsp, .mov, .errs, .errCounts, .history, .out, .mem]) :
    shown kp (issueBundle k way s) = shown kp s := by
  simp only [off_cons, off_nil, and_true] at hk
  simp (maxDischargeDepth := 9) [issueBundle, hk]
  (repeat' split) <;> simp_all (maxDischargeDepth := 9)

theorem execBundleIssue_shown {kp : Area → Bool} (t : Nat) (k : Nat) (way : Issue) (s : State) (s0 : State)
    (hk : Off kp [.now, .draws, .regs, .ctrs, .rge, .integ, .pith, .pins, .health, .cmd, .cry, .brc, .zst, .med, .dxr, .dsp, .mov, .errs, .errCounts, .history, .out, .mem]) :
    shown kp (after (execBundleIssue t k way s) s0) = shown kp s := by
  simp only [off_cons, off_nil, and_true] at hk
  simp (maxDischargeDepth := 9) [execBundleIssue, hk]

@[simp] theorem issuePass_shown {kp : Area → Bool} (k : Nat) (way : Issue) (s : State)
    (hk : Off kp [.draws, .regs, .ctrs, .rge, .integ, .pith, .pins, .health, .cmd, .cry, .brc, .zst, .med, .dxr, .dsp, .mov, .errs, .errCounts, .history, .out, .mem]) :
    shown kp (issuePass k way s) = shown kp s := by
  simp only [off_cons, off_nil, and_true] at hk
  simp (maxDischargeDepth := 9) [issuePass, hk]
  (repeat' split) <;> simp_all (maxDischargeDepth := 9)

theorem execRepPass_shown {kp : Area → Bool} (t : Nat) (k : Nat) (way : Issue) (s : State) (s0 : State)
    (hk : Off kp [.now, .draws, .regs, .ctrs, .rge, .integ, .pith, .pins, .health, .cmd, .cry, .brc, .zst, .med, .dxr, .dsp, .mov, .errs, .errCounts, .history, .out, .mem]) :
    shown kp (after (execRepPass t k way s) s0) = shown kp s := by
  simp only [off_cons, off_nil, and_true] at hk
  simp (maxDischargeDepth := 9) [execRepPass, hk]

@[simp] theorem finishGet_shown {kp : Area → Bool} (k : Nat) (tok : Nat) (s : State)
    (hk : Off kp [.draws, .regs, .ctrs, .rge, .integ, .dxr, .dsp, .history, .out, .mem]) :
    shown kp (finishGet k tok s) = shown kp s := by
  simp only [off_cons, off_nil, and_true] at hk
  simp (maxDischargeDepth := 9) [finishGet, hk]
  (repeat' split) <;> simp_all (maxDischargeDepth := 9)

theorem execGetDeliver_shown {kp : Area → Bool} (t : Nat) (seg : Nat) (s : State) (s0 : State)
    (hk : Off kp [.now, .draws, .regs, .ctrs, .rge, .integ, .dxr, .dsp, .history, .out, .mem]) :
    shown kp (after (execGetDeliver t seg s) s0) = shown kp s := by
  simp only [off_cons, off_nil, and_true] at hk
  simp (maxDischargeDepth := 9) [execGetDeliver, hk]
  (repeat' split) <;> simp_all (maxDischargeDepth := 9)

theorem execBudgetException_shown {kp : Area → Bool} (t : Nat) (k : Nat) (s : State) (s0 : State)
    (hk : Off kp [.now, .draws, .regs, .ctrs, .rge, .integ, .cry, .zst, .dxr, .dsp, .mov, .errs, .errCounts, .history, .out, .mem]) :
    shown kp (after (execBudgetException t k s) s0) = shown kp s := by
  simp only [off_cons, off_nil, and_true] at hk
  simp (maxDischargeDepth := 9) [execBudgetException, hk]

theorem execEventException_shown {kp : Area → Bool} (t : Nat) (k : Nat) (s : State) (s0 : State)
    (hk : Off kp [.now, .draws, .regs, .ctrs, .rge, .integ, .cry, .zst, .dxr, .dsp, .mov, .errs, .errCounts, .history, .out, .mem]) :
    shown kp (after (execEventException t k s) s0) = shown kp s := by
  simp only [off_cons, off_nil, and_true] at hk
  simp (maxDischargeDepth := 9) [execEventException, hk]

@[simp] theorem jobResult_shown {kp : Area → Bool} (k : Nat) (source : Nat) (status : Nat) (result : List Byte) (res : Nat) (notify : Bool) (s : State)
    (hk : Off kp [.regs, .ctrs, .rge, .integ, .cry, .zst, .dxr, .dsp, .mov, .errs, .errCounts, .history, .out, .mem]) :
    shown kp (jobResult k source status result res notify s) = shown kp s := by
  simp only [off_cons, off_nil, and_true] at hk
  simp (maxDischargeDepth := 9) [jobResult, hk]
  (repeat' split) <;> simp_all (maxDischargeDepth := 9)

@[simp] theorem zjEnd_shown {kp : Area → Bool} (k : Nat) (d : List Byte) (status : Nat) (reason : Nat) (inDone : Nat) (outDone : Nat) (crc : Nat) (s : State)
    (hk : Off kp [.regs, .ctrs, .rge, .integ, .cry, .zst, .dxr, .dsp, .mov, .errs, .errCounts, .history, .out, .mem]) :
    shown kp (zjEnd k d status reason inDone outDone crc s) = shown kp s := by
  simp only [off_cons, off_nil, and_true] at hk
  simp (maxDischargeDepth := 9) [zjEnd, hk]

@[simp] theorem zjTake_shown {kp : Area → Bool} (k : Nat) (f : Nat → Bool) (s : State)
    (hk : Off kp [.dxr]) : shown kp (zjTake k f s).2 = shown kp s := by
  simp only [off_cons, off_nil, and_true] at hk
  unfold zjTake
  (repeat' split) <;> simp_all (maxDischargeDepth := 9)

@[simp] theorem zjSubmit_shown {kp : Area → Bool} (k : Nat) (d : List Byte) (s : State)
    (hk : Off kp [.regs, .ctrs, .rge, .integ, .cry, .zst, .pwr, .dxr, .dsp, .mov, .errs, .errCounts, .history, .out, .mem]) :
    shown kp (zjSubmit k d s) = shown kp s := by
  simp only [off_cons, off_nil, and_true] at hk
  unfold zjSubmit
  (repeat' split) <;> simp_all (maxDischargeDepth := 9)

theorem execZestCompressJob_shown {kp : Area → Bool} (t : Nat) (k : Nat) (s : State) (s0 : State)
    (hk : Off kp [.now, .regs, .ctrs, .rge, .integ, .cry, .zst, .pwr, .dxr, .dsp, .mov, .errs, .errCounts, .history, .out, .mem]) :
    shown kp (after (execZestCompressJob t k s) s0) = shown kp s := by
  simp only [off_cons, off_nil, and_true] at hk
  unfold execZestCompressJob
  have e := zjTake_shown (kp := kp) k (· != 2) (tick t s) (by simp [hk])
  split <;> rename_i heq <;> simp [heq, hk] at e <;> (repeat' split) <;> simp (maxDischargeDepth := 9) [e, hk]

theorem execZestDecompressJob_shown {kp : Area → Bool} (t : Nat) (k : Nat) (s : State) (s0 : State)
    (hk : Off kp [.now, .regs, .ctrs, .rge, .integ, .cry, .zst, .pwr, .dxr, .dsp, .mov, .errs, .errCounts, .history, .out, .mem]) :
    shown kp (after (execZestDecompressJob t k s) s0) = shown kp s := by
  simp only [off_cons, off_nil, and_true] at hk
  unfold execZestDecompressJob
  have e := zjTake_shown (kp := kp) k (· == 2) (tick t s) (by simp [hk])
  split <;> rename_i heq <;> simp [heq, hk] at e <;> (repeat' split) <;> simp (maxDischargeDepth := 9) [e, hk]

@[simp] theorem zjFinish_shown {kp : Area → Bool} (j : ZJob) (bad : List Nat) (s : State)
    (hk : Off kp [.regs, .ctrs, .rge, .integ, .pins, .health, .cmd, .cry, .zst, .dxr, .dsp, .mov, .errs, .errCounts, .history, .out, .mem]) :
    shown kp (zjFinish j bad s) = shown kp s := by
  simp only [off_cons, off_nil, and_true] at hk
  simp (maxDischargeDepth := 9) [zjFinish, hk]

theorem execZestJobComplete_shown {kp : Area → Bool} (t : Nat) (seg : Nat) (comp : Bool) (bad : List Nat) (s : State) (s0 : State)
    (hk : Off kp [.now, .regs, .ctrs, .rge, .integ, .pins, .health, .cmd, .cry, .zst, .dxr, .dsp, .mov, .errs, .errCounts, .history, .out, .mem]) : shown kp (after (execZestJobComplete t seg comp bad s) s0) = shown kp s := by
  simp only [off_cons, off_nil, and_true] at hk
  simp (maxDischargeDepth := 9) [execZestJobComplete, hk]
  (repeat' split) <;> simp_all (maxDischargeDepth := 9)

@[simp] theorem cjEnd_shown {kp : Area → Bool} (k : Nat) (d : List Byte) (status : Nat) (cmp : Option Bool) (h : Nat) (inDone : Nat) (outDone : Nat) (s : State)
    (hk : Off kp [.regs, .ctrs, .rge, .integ, .cry, .zst, .dxr, .dsp, .mov, .errs, .errCounts, .history, .out, .mem]) :
    shown kp (cjEnd k d status cmp h inDone outDone s) = shown kp s := by
  simp only [off_cons, off_nil, and_true] at hk
  simp (maxDischargeDepth := 9) [cjEnd, hk]

@[simp] theorem onCtx_shown {kp : Area → Bool} (key : Nat) (f : Ctx → Ctx) (s : State)
    (hk : Off kp [.cry]) : shown kp (onCtx key f s) = shown kp s := by
  simp only [off_cons, off_nil, and_true] at hk
  simp (maxDischargeDepth := 9) [onCtx, hk]

@[simp] theorem freeCtx_shown {kp : Area → Bool} (key : Nat) (s : State)
    (hk : Off kp [.cry]) : shown kp (freeCtx key s) = shown kp s := by
  simp only [off_cons, off_nil, and_true] at hk
  simp (maxDischargeDepth := 9) [freeCtx, hk]

@[simp] theorem poisonCtx_shown {kp : Area → Bool} (key : Nat) (s : State)
    (hk : Off kp [.cry]) : shown kp (poisonCtx key s) = shown kp s := by
  simp only [off_cons, off_nil, and_true] at hk
  simp (maxDischargeDepth := 9) [poisonCtx, hk]

@[simp] theorem allocCtx_shown {kp : Area → Bool} (k : Nat) (page : Nat) (alg : Nat) (s : State)
    (hk : Off kp [.cry]) : shown kp (allocCtx k page alg s).2 = shown kp s := by
  simp only [off_cons, off_nil, and_true] at hk
  unfold allocCtx
  (repeat' split) <;> simp_all (maxDischargeDepth := 9)

@[simp] theorem grantHold_shown {kp : Area → Bool} (seg : Nat) (s : State)
    (hk : Off kp [.cry]) : shown kp (grantHold seg s) = shown kp s := by
  simp only [off_cons, off_nil, and_true] at hk
  unfold grantHold
  (repeat' split) <;> simp_all (maxDischargeDepth := 9)

@[simp] theorem cjSubmit_shown {kp : Area → Bool} (k : Nat) (d : List Byte) (s : State)
    (hk : Off kp [.regs, .ctrs, .rge, .integ, .cry, .zst, .dxr, .dsp, .mov, .errs, .errCounts, .history, .out, .mem]) :
    shown kp (cjSubmit k d s) = shown kp s := by
  simp only [off_cons, off_nil, and_true] at hk
  simp (maxDischargeDepth := 9) [cjSubmit, hk]
  (repeat' split) <;> simp_all (maxDischargeDepth := 9)

@[simp] theorem cjTake_shown {kp : Area → Bool} (k : Nat) (f : Nat → Bool) (s : State)
    (hk : Off kp [.dxr]) : shown kp (cjTake k f s).2 = shown kp s := by
  simp only [off_cons, off_nil, and_true] at hk
  unfold cjTake
  (repeat' split) <;> simp_all (maxDischargeDepth := 9)

@[simp] theorem cjRow_shown {kp : Area → Bool} (t : Nat) (k : Nat) (f : Nat → Bool) (s : State) (s0 : State)
    (hk : Off kp [.now, .regs, .ctrs, .rge, .integ, .cry, .zst, .dxr, .dsp, .mov, .errs, .errCounts, .history, .out, .mem]) :
    shown kp (after (cjRow t k f s) s0) = shown kp s := by
  simp only [off_cons, off_nil, and_true] at hk
  unfold cjRow
  have e := cjTake_shown (kp := kp) k f (tick t s) (by simp [hk])
  split <;> rename_i heq <;> simp [heq, hk] at e <;> simp (maxDischargeDepth := 9) [e, hk]

theorem execCryptoInit_shown {kp : Area → Bool} (t : Nat) (k : Nat) (s : State) (s0 : State)
    (hk : Off kp [.now, .regs, .ctrs, .rge, .integ, .cry, .zst, .dxr, .dsp, .mov, .errs, .errCounts, .history, .out, .mem]) :
    shown kp (after (execCryptoInit t k s) s0) = shown kp s := by
  simp only [off_cons, off_nil, and_true] at hk
  simp (maxDischargeDepth := 9) [execCryptoInit, hk]

theorem execCryptoUpdate_shown {kp : Area → Bool} (t : Nat) (k : Nat) (s : State) (s0 : State)
    (hk : Off kp [.now, .regs, .ctrs, .rge, .integ, .cry, .zst, .dxr, .dsp, .mov, .errs, .errCounts, .history, .out, .mem]) :
    shown kp (after (execCryptoUpdate t k s) s0) = shown kp s := by
  simp only [off_cons, off_nil, and_true] at hk
  simp (maxDischargeDepth := 9) [execCryptoUpdate, hk]

theorem execCryptoFinal_shown {kp : Area → Bool} (t : Nat) (k : Nat) (s : State) (s0 : State)
    (hk : Off kp [.now, .regs, .ctrs, .rge, .integ, .cry, .zst, .dxr, .dsp, .mov, .errs, .errCounts, .history, .out, .mem]) :
    shown kp (after (execCryptoFinal t k s) s0) = shown kp s := by
  simp only [off_cons, off_nil, and_true] at hk
  simp (maxDischargeDepth := 9) [execCryptoFinal, hk]

theorem execCryptoFree_shown {kp : Area → Bool} (t : Nat) (k : Nat) (s : State) (s0 : State)
    (hk : Off kp [.now, .regs, .ctrs, .rge, .integ, .cry, .zst, .dxr, .dsp, .mov, .errs, .errCounts, .history, .out, .mem]) :
    shown kp (after (execCryptoFree t k s) s0) = shown kp s := by
  simp only [off_cons, off_nil, and_true] at hk
  simp (maxDischargeDepth := 9) [execCryptoFree, hk]

theorem execCryptoOneshot_shown {kp : Area → Bool} (t : Nat) (k : Nat) (s : State) (s0 : State)
    (hk : Off kp [.now, .regs, .ctrs, .rge, .integ, .cry, .zst, .dxr, .dsp, .mov, .errs, .errCounts, .history, .out, .mem]) :
    shown kp (after (execCryptoOneshot t k s) s0) = shown kp s := by
  simp only [off_cons, off_nil, and_true] at hk
  simp (maxDischargeDepth := 9) [execCryptoOneshot, hk]

theorem execCryptoChainCheck_shown {kp : Area → Bool} (t : Nat) (k : Nat) (s : State) (s0 : State)
    (hk : Off kp [.now, .regs, .ctrs, .rge, .integ, .cry, .zst, .dxr, .dsp, .mov, .errs, .errCounts, .history, .out, .mem]) :
    shown kp (after (execCryptoChainCheck t k s) s0) = shown kp s := by
  simp only [off_cons, off_nil, and_true] at hk
  simp (maxDischargeDepth := 9) [execCryptoChainCheck, hk]

theorem execCryptoRandom_shown {kp : Area → Bool} (t : Nat) (k : Nat) (s : State) (s0 : State)
    (hk : Off kp [.now, .regs, .ctrs, .rge, .integ, .cry, .zst, .dxr, .dsp, .mov, .errs, .errCounts, .history, .out, .mem]) :
    shown kp (after (execCryptoRandom t k s) s0) = shown kp s := by
  simp only [off_cons, off_nil, and_true] at hk
  simp (maxDischargeDepth := 9) [execCryptoRandom, hk]

theorem execGcmHoldGrant_shown {kp : Area → Bool} (t : Nat) (seg : Nat) (s : State) (s0 : State)
    (hk : Off kp [.now, .cry]) : shown kp (after (execGcmHoldGrant t seg s) s0) = shown kp s := by
  simp only [off_cons, off_nil, and_true] at hk
  simp (maxDischargeDepth := 9) [execGcmHoldGrant, hk]

@[simp] theorem quarantineLane_shown {kp : Area → Bool} (seg : Nat) (lane : Nat) (s : State)
    (hk : Off kp [.integ]) : shown kp (quarantineLane seg lane s) = shown kp s := by
  simp only [off_cons, off_nil, and_true] at hk
  simp (maxDischargeDepth := 9) [quarantineLane, hk]

@[simp] theorem dropSlot_shown {kp : Area → Bool} (j : CJob) (s : State)
    (hk : Off kp [.cry]) : shown kp (dropSlot j s) = shown kp s := by
  simp only [off_cons, off_nil, and_true] at hk
  unfold dropSlot
  (repeat' split) <;> simp_all (maxDischargeDepth := 9)

@[simp] theorem dropJob_shown {kp : Area → Bool} (n : Nat) (s : State) (hk : Off kp [.cry]) : shown kp (dropJob n s) = shown kp s := by
  simp only [off_cons, off_nil, and_true] at hk
  simp (maxDischargeDepth := 9) [dropJob, hk]

@[simp] theorem cjFail_shown {kp : Area → Bool} (n : Nat) (j : CJob) (s : State)
    (hk : Off kp [.regs, .ctrs, .rge, .integ, .cry, .zst, .dxr, .dsp, .mov, .errs, .errCounts, .history, .out, .mem]) :
    shown kp (cjFail n j s) = shown kp s := by
  simp only [off_cons, off_nil, and_true] at hk
  simp (maxDischargeDepth := 9) [cjFail, hk]

@[simp] theorem cjRetry_shown {kp : Area → Bool} (n : Nat) (j : CJob) (lane : Option Nat) (ef : Nat) (s : State)
    (hk : Off kp [.regs, .ctrs, .rge, .integ, .pins, .health, .cmd, .cry, .zst, .dxr, .dsp, .mov, .errs, .errCounts, .history, .out, .mem]) : shown kp (cjRetry n j lane ef s) = shown kp s := by
  simp only [off_cons, off_nil, and_true] at hk
  unfold cjRetry
  (repeat' split) <;> simp_all (maxDischargeDepth := 9)

@[simp] theorem cjStore_shown {kp : Area → Bool} (n : Nat) (j : CJob) (r : CDone) (read : Nat) (s : State)
    (hk : Off kp [.regs, .ctrs, .rge, .integ, .cry, .zst, .dxr, .dsp, .mov, .errs, .errCounts, .history, .out, .mem]) :
    shown kp (cjStore n j r read s) = shown kp s := by
  simp only [off_cons, off_nil, and_true] at hk
  unfold cjStore
  simp only
  (repeat' split) <;> simp (maxDischargeDepth := 9) [hk]

@[simp] theorem cjFinish_shown {kp : Area → Bool} (n : Nat) (j : CJob) (flags_ : Bool) (s : State)
    (hk : Off kp [.draws, .regs, .ctrs, .rge, .integ, .cry, .zst, .dxr, .dsp, .mov, .errs, .errCounts, .history, .out, .mem]) :
    shown kp (cjFinish n j flags_ s) = shown kp s := by
  simp only [off_cons, off_nil, and_true] at hk
  unfold cjFinish
  simp only
  (repeat' split) <;> simp (maxDischargeDepth := 9) [hk]

theorem execCryptoJobComplete_shown {kp : Area → Bool} (t : Nat) (n : Nat) (bus : Bool) (differ : Bool) (flags_ : Bool) (lane : Nat) (finds : List SramFind) (s : State) (s0 : State)
    (hk : Off kp [.now, .draws, .regs, .ctrs, .rge, .integ, .pith, .pins, .health, .cmd, .cry, .zst, .dxr, .dsp, .mov, .errs, .errCounts, .history, .out, .mem]) : shown kp (after (execCryptoJobComplete t n bus differ flags_ lane finds s) s0) = shown kp s := by
  simp only [off_cons, off_nil, and_true] at hk
  simp (maxDischargeDepth := 9) [execCryptoJobComplete, hk]
  (repeat' split) <;> simp_all (maxDischargeDepth := 9)

@[simp] theorem setAlarm_shown {kp : Area → Bool} (s : State) (hk : Off kp [.regs]) : shown kp (setAlarm s) = shown kp s := by
  simp only [off_cons, off_nil, and_true] at hk
  simp (maxDischargeDepth := 9) [setAlarm, hk]

@[simp] theorem clearStaging_shown {kp : Area → Bool} (f : Nat) (s : State)
    (hk : Off kp [.regs]) : shown kp (clearStaging f s) = shown kp s := by
  simp only [off_cons, off_nil, and_true] at hk
  simp (maxDischargeDepth := 9) [clearStaging, hk]

@[simp] theorem zeroize_shown {kp : Area → Bool} (s : State)
    (hk : Off kp [.regs, .ctrs, .rge, .integ, .life, .cmd, .cry, .zst, .dxr, .dsp, .mov, .errs, .errCounts, .history, .out, .mem]) :
    shown kp (zeroize s) = shown kp s := by
  simp only [off_cons, off_nil, and_true] at hk
  simp (maxDischargeDepth := 9) [zeroize, hk]

theorem execTamperAlarm_shown {kp : Area → Bool} (t : Nat) (n : Nat) (s : State) (s0 : State)
    (hk : Off kp [.now, .regs, .ctrs, .rge, .integ, .life, .cmd, .cry, .zst, .dxr, .dsp, .mov, .errs, .errCounts, .history, .out, .mem]) :
    shown kp (after (execTamperAlarm t n s) s0) = shown kp s := by
  simp only [off_cons, off_nil, and_true] at hk
  simp (maxDischargeDepth := 9) [execTamperAlarm, hk]

theorem execKeyRederive_shown {kp : Area → Bool} (t : Nat) (s : State) (s0 : State)
    (hk : Off kp [.now, .draws, .regs, .ctrs, .rge, .integ, .pith, .life, .dbg, .cmd, .cry, .med, .pwr, .dxr, .dsp, .history, .out, .vault, .lstate, .drkCut, .level]) :
    shown kp (after (execKeyRederive t s) s0) = shown kp s := by
  simp only [off_cons, off_nil, and_true] at hk
  simp (maxDischargeDepth := 9) [execKeyRederive, hk]

theorem execRngHealthFail_shown {kp : Area → Bool} (t : Nat) (s : State) (s0 : State)
    (hk : Off kp [.now, .regs, .ctrs, .rge, .integ, .cry, .history, .out]) :
    shown kp (after (execRngHealthFail t s) s0) = shown kp s := by
  simp only [off_cons, off_nil, and_true] at hk
  simp (maxDischargeDepth := 9) [execRngHealthFail, hk]

theorem execRngRecovered_shown {kp : Area → Bool} (t : Nat) (s : State) (s0 : State)
    (hk : Off kp [.now, .draws, .regs, .ctrs, .rge, .integ, .pith, .life, .dbg, .cmd, .cry, .med, .pwr, .dxr, .dsp, .history, .out, .vault, .lstate, .drkCut, .level]) :
    shown kp (after (execRngRecovered t s) s0) = shown kp s := by
  simp only [off_cons, off_nil, and_true] at hk
  simp (maxDischargeDepth := 9) [execRngRecovered, hk]

theorem execDrbgReseed_shown {kp : Area → Bool} (t : Nat) (s : State) (s0 : State)
    (hk : Off kp [.now, .draws]) : shown kp (after (execDrbgReseed t s) s0) = shown kp s := by
  simp only [off_cons, off_nil, and_true] at hk
  simp (maxDischargeDepth := 9) [execDrbgReseed, hk]

@[simp] theorem execExportKeySet_shown {kp : Area → Bool} (t : Nat) (f : Nat) (s : State) (s0 : State)
    (hk : Off kp [.now, .regs, .cry]) : shown kp (after (execExportKeySet t f s) s0) = shown kp s := by
  simp only [off_cons, off_nil, and_true] at hk
  simp (maxDischargeDepth := 9) [execExportKeySet, hk]

@[simp] theorem execExportKeyClear_shown {kp : Area → Bool} (t : Nat) (f : Nat) (s : State) (s0 : State)
    (hk : Off kp [.now, .regs, .cry]) : shown kp (after (execExportKeyClear t f s) s0) = shown kp s := by
  simp only [off_cons, off_nil, and_true] at hk
  simp (maxDischargeDepth := 9) [execExportKeyClear, hk]

@[simp] theorem cryCtrlWrite_shown {kp : Area → Bool} (w : Word) (be : Nat) (s : State)
    (hk : Off kp [.regs]) : shown kp (cryCtrlWrite w be s) = shown kp s := by
  simp only [off_cons, off_nil, and_true] at hk
  simp (maxDischargeDepth := 9) [cryCtrlWrite, hk]

theorem execCryCtrlWrite_shown {kp : Area → Bool} (t : Nat) (w : Word) (be : Nat) (s : State) (s0 : State)
    (hk : Off kp [.now, .regs]) : shown kp (after (execCryCtrlWrite t w be s) s0) = shown kp s := by
  simp only [off_cons, off_nil, and_true] at hk
  simp (maxDischargeDepth := 9) [execCryCtrlWrite, hk]

@[simp] theorem execCrySnapNow_shown {kp : Area → Bool} (t : Nat) (s : State) (s0 : State)
    (hk : Off kp [.now, .snaps]) : shown kp (after (execCrySnapNow t s) s0) = shown kp s := by
  simp only [off_cons, off_nil, and_true] at hk
  simp (maxDischargeDepth := 9) [execCrySnapNow, hk]

@[simp] theorem spdmSend_shown {kp : Area → Bool} (req : List Byte) (resp : List Byte) (s : State)
    (hk : Off kp [.cry, .out]) : shown kp (spdmSend req resp s) = shown kp s := by
  simp only [off_cons, off_nil, and_true] at hk
  simp (maxDischargeDepth := 9) [spdmSend, hk]

@[simp] theorem spdmError_shown {kp : Area → Bool} (req : List Byte) (code : Nat) (s : State)
    (hk : Off kp [.out]) : shown kp (spdmError req code s) = shown kp s := by
  simp only [off_cons, off_nil, and_true] at hk
  simp (maxDischargeDepth := 9) [spdmError, hk]

@[simp] theorem spdmServe_shown {kp : Area → Bool} (req : List Byte) (f : State → State) (s : State) (s0 : State) (hf : ∀ s, shown kp (f s) = shown kp s)
    (hk : Off kp [.out]) : shown kp (after (spdmServe req f s) s0) = shown kp s := by
  simp only [off_cons, off_nil, and_true] at hk
  simp (maxDischargeDepth := 9) [spdmServe, hk, hf]

@[simp] theorem spdmKeyed_shown {kp : Area → Bool} (req : List Byte) (f : State → State) (s : State) (s0 : State) (hf : ∀ s, shown kp (f s) = shown kp s)
    (hk : Off kp [.out]) : shown kp (after (spdmKeyed req f s) s0) = shown kp s := by
  simp only [off_cons, off_nil, and_true] at hk
  simp (maxDischargeDepth := 9) [spdmKeyed, hk, hf]

theorem execSpdmGetVersion_shown {kp : Area → Bool} (t : Nat) (req : List Byte) (s : State) (s0 : State)
    (hk : Off kp [.now, .cry, .out]) : shown kp (after (execSpdmGetVersion t req s) s0) = shown kp s := by
  simp only [off_cons, off_nil, and_true] at hk
  simp (maxDischargeDepth := 9) [execSpdmGetVersion, hk]

theorem execSpdmGetCapabilities_shown {kp : Area → Bool} (t : Nat) (req : List Byte) (s : State) (s0 : State)
    (hk : Off kp [.now, .cry, .out]) : shown kp (after (execSpdmGetCapabilities t req s) s0) = shown kp s := by
  simp only [off_cons, off_nil, and_true] at hk
  simp (maxDischargeDepth := 9) [execSpdmGetCapabilities, hk]

theorem execSpdmNegotiateAlgorithms_shown {kp : Area → Bool} (t : Nat) (req : List Byte) (s : State) (s0 : State)
    (hk : Off kp [.now, .cry, .out]) : shown kp (after (execSpdmNegotiateAlgorithms t req s) s0) = shown kp s := by
  simp only [off_cons, off_nil, and_true] at hk
  simp (maxDischargeDepth := 9) [execSpdmNegotiateAlgorithms, hk]

theorem execSpdmGetDigests_shown {kp : Area → Bool} (t : Nat) (req : List Byte) (s : State) (s0 : State)
    (hk : Off kp [.now, .cry, .out]) : shown kp (after (execSpdmGetDigests t req s) s0) = shown kp s := by
  simp only [off_cons, off_nil, and_true] at hk
  simp (maxDischargeDepth := 9) [execSpdmGetDigests, hk]

theorem execSpdmGetCertificate_shown {kp : Area → Bool} (t : Nat) (req : List Byte) (s : State) (s0 : State)
    (hk : Off kp [.now, .cry, .out]) : shown kp (after (execSpdmGetCertificate t req s) s0) = shown kp s := by
  simp only [off_cons, off_nil, and_true] at hk
  simp (maxDischargeDepth := 9) [execSpdmGetCertificate, hk]

@[simp] theorem spdmSign_shown {kp : Area → Bool} (msg : List Byte) (s : State)
    (hk : Off kp [.draws]) : shown kp (spdmSign msg s).2 = shown kp s := by
  simp only [off_cons, off_nil, and_true] at hk
  simp (maxDischargeDepth := 9) [spdmSign, hk]

theorem execSpdmChallenge_shown {kp : Area → Bool} (t : Nat) (req : List Byte) (s : State) (s0 : State)
    (hk : Off kp [.now, .draws, .cry, .out]) : shown kp (after (execSpdmChallenge t req s) s0) = shown kp s := by
  simp only [off_cons, off_nil, and_true] at hk
  simp (maxDischargeDepth := 9) [execSpdmChallenge, hk]

theorem execSpdmGetMeasurements_shown {kp : Area → Bool} (t : Nat) (req : List Byte) (s : State) (s0 : State)
    (hk : Off kp [.now, .draws, .cry, .out]) : shown kp (after (execSpdmGetMeasurements t req s) s0) = shown kp s := by
  simp only [off_cons, off_nil, and_true] at hk
  simp (maxDischargeDepth := 9) [execSpdmGetMeasurements, hk]

@[simp] theorem onDram_shown {kp : Area → Bool} (n : Nat) (f : Dram → Dram) (s : State)
    (hk : Off kp [.mov]) : shown kp (onDram n f s) = shown kp s := by
  simp only [off_cons, off_nil, and_true] at hk
  simp (maxDischargeDepth := 9) [onDram, hk]

@[simp] theorem onDBank_shown {kp : Area → Bool} (n : Nat) (b : Nat) (f : DBank → DBank) (s : State)
    (hk : Off kp [.mov]) : shown kp (onDBank n b f s) = shown kp s := by
  simp only [off_cons, off_nil, and_true] at hk
  simp (maxDischargeDepth := 9) [onDBank, hk]

@[simp] theorem serveSlot_shown {kp : Area → Bool} (n : Nat) (sub : Nat) (s : State)
    (hk : Off kp [.mov]) : shown kp (serveSlot n sub s) = shown kp s := by
  simp only [off_cons, off_nil, and_true] at hk
  unfold serveSlot
  try dsimp only
  (repeat' split) <;> (try simp (maxDischargeDepth := 9) [hk]) <;> (repeat (refine shown_of_pair (by assumption) ?_; simp (maxDischargeDepth := 9) [hk]))

@[simp] theorem serveSlots_shown {kp : Area → Bool} (n : Nat) (x1 : Nat) (x2 : State)
    (hk : Off kp [.mov]) : shown kp (serveSlots n x1 x2) = shown kp x2 := by
  simp only [off_cons, off_nil, and_true] at hk
  fun_induction serveSlots n x1 x2 <;> simp_all (maxDischargeDepth := 9)

@[simp] theorem arrive_shown {kp : Area → Bool} (n : Nat) (s : State) (r : DramReq)
    (hk : Off kp [.regs, .ctrs, .rge, .integ, .mov, .history, .out]) : shown kp (arrive n s r) = shown kp s := by
  simp only [off_cons, off_nil, and_true] at hk
  simp (maxDischargeDepth := 9) [arrive, hk]

@[simp] theorem dramServe_shown {kp : Area → Bool} (n : Nat) (reqs : List DramReq) (k : Nat) (s : State)
    (hk : Off kp [.regs, .ctrs, .rge, .integ, .mov, .history, .out]) : shown kp (dramServe n reqs k s) = shown kp s := by
  simp only [off_cons, off_nil, and_true] at hk
  simp (maxDischargeDepth := 9) [dramServe, hk]

@[simp] theorem dmEnd_shown {kp : Area → Bool} (k : Nat) (d : List Byte) (status : Nat) (cmp : Option Bool) (done : Nat) (crc : Nat) (s : State)
    (hk : Off kp [.regs, .ctrs, .rge, .integ, .cry, .zst, .dxr, .dsp, .mov, .errs, .errCounts, .history, .out, .mem]) :
    shown kp (dmEnd k d status cmp done crc s) = shown kp s := by
  simp only [off_cons, off_nil, and_true] at hk
  simp (maxDischargeDepth := 9) [dmEnd, hk]

@[simp] theorem onChannel_shown {kp : Area → Bool} (c : Nat) (f : DmCh → DmCh) (s : State)
    (hk : Off kp [.mov]) : shown kp (onChannel c f s) = shown kp s := by
  simp only [off_cons, off_nil, and_true] at hk
  simp (maxDischargeDepth := 9) [onChannel, hk]

@[simp] theorem askHost_shown {kp : Area → Bool} (c : Nat) (s : State)
    (hk : Off kp [.mov]) : shown kp (askHost c s) = shown kp s := by
  simp only [off_cons, off_nil, and_true] at hk
  unfold askHost
  try dsimp only
  (repeat' split) <;> (try simp (maxDischargeDepth := 9) [hk]) <;> (repeat (refine shown_of_pair (by assumption) ?_; simp (maxDischargeDepth := 9) [hk]))

@[simp] theorem dmSubmit_shown {kp : Area → Bool} (k : Nat) (p : Nat) (d : List Byte) (s : State)
    (hk : Off kp [.regs, .ctrs, .rge, .integ, .cry, .zst, .dxr, .dsp, .mov, .errs, .errCounts, .history, .out, .mem]) :
    shown kp (dmSubmit k p d s) = shown kp s := by
  simp only [off_cons, off_nil, and_true] at hk
  simp (maxDischargeDepth := 9) [dmSubmit, hk]
  (repeat' split) <;> simp_all (maxDischargeDepth := 9)

@[simp] theorem dmRow_shown {kp : Area → Bool} (t : Nat) (k : Nat) (f : Nat → Bool) (s : State) (s0 : State)
    (hk : Off kp [.now, .regs, .ctrs, .rge, .integ, .cry, .zst, .dxr, .dsp, .mov, .errs, .errCounts, .history, .out, .mem]) :
    shown kp (after (dmRow t k f s) s0) = shown kp s := by
  simp only [off_cons, off_nil, and_true] at hk
  simp (maxDischargeDepth := 9) [dmRow, hk]
  (repeat' split) <;> simp_all (maxDischargeDepth := 9)

theorem execDmCopy_shown {kp : Area → Bool} (t : Nat) (k : Nat) (s : State) (s0 : State)
    (hk : Off kp [.now, .regs, .ctrs, .rge, .integ, .cry, .zst, .dxr, .dsp, .mov, .errs, .errCounts, .history, .out, .mem]) :
    shown kp (after (execDmCopy t k s) s0) = shown kp s := by
  simp only [off_cons, off_nil, and_true] at hk
  simp (maxDischargeDepth := 9) [execDmCopy, hk]

theorem execDmHostRead_shown {kp : Area → Bool} (t : Nat) (k : Nat) (s : State) (s0 : State)
    (hk : Off kp [.now, .regs, .ctrs, .rge, .integ, .cry, .zst, .dxr, .dsp, .mov, .errs, .errCounts, .history, .out, .mem]) :
    shown kp (after (execDmHostRead t k s) s0) = shown kp s := by
  simp only [off_cons, off_nil, and_true] at hk
  simp (maxDischargeDepth := 9) [execDmHostRead, hk]

theorem execDmHostWrite_shown {kp : Area → Bool} (t : Nat) (k : Nat) (s : State) (s0 : State)
    (hk : Off kp [.now, .regs, .ctrs, .rge, .integ, .cry, .zst, .dxr, .dsp, .mov, .errs, .errCounts, .history, .out, .mem]) :
    shown kp (after (execDmHostWrite t k s) s0) = shown kp s := by
  simp only [off_cons, off_nil, and_true] at hk
  simp (maxDischargeDepth := 9) [execDmHostWrite, hk]

theorem execDmRecordRead_shown {kp : Area → Bool} (t : Nat) (k : Nat) (s : State) (s0 : State)
    (hk : Off kp [.now, .regs, .ctrs, .rge, .integ, .cry, .zst, .dxr, .dsp, .mov, .errs, .errCounts, .history, .out, .mem]) :
    shown kp (after (execDmRecordRead t k s) s0) = shown kp s := by
  simp only [off_cons, off_nil, and_true] at hk
  simp (maxDischargeDepth := 9) [execDmRecordRead, hk]

theorem execDmFill_shown {kp : Area → Bool} (t : Nat) (k : Nat) (s : State) (s0 : State)
    (hk : Off kp [.now, .regs, .ctrs, .rge, .integ, .cry, .zst, .dxr, .dsp, .mov, .errs, .errCounts, .history, .out, .mem]) :
    shown kp (after (execDmFill t k s) s0) = shown kp s := by
  simp only [off_cons, off_nil, and_true] at hk
  simp (maxDischargeDepth := 9) [execDmFill, hk]

@[simp] theorem dmPop_shown {kp : Area → Bool} (c : Nat) (halt : Bool) (s : State)
    (hk : Off kp [.mov]) : shown kp (dmPop c halt s) = shown kp s := by
  simp only [off_cons, off_nil, and_true] at hk
  simp (maxDischargeDepth := 9) [dmPop, hk]

@[simp] theorem dmFail_shown {kp : Area → Bool} (c : Nat) (x : DmDesc) (status : Nat) (done : Nat) (third : Option Nat) (s : State)
    (hk : Off kp [.regs, .ctrs, .rge, .integ, .pins, .health, .cmd, .cry, .zst, .dxr, .dsp, .mov, .errs, .errCounts, .history, .out, .mem]) : shown kp (dmFail c x status done third s) = shown kp s := by
  simp only [off_cons, off_nil, and_true] at hk
  unfold dmFail
  (repeat' split) <;> simp_all (maxDischargeDepth := 9)

@[simp] theorem dmRetry_shown {kp : Area → Bool} (c : Nat) (x : DmDesc) (status : Nat) (done : Nat) (dt : Nat) (ef : Nat) (s : State)
    (hk : Off kp [.regs, .ctrs, .rge, .integ, .pins, .health, .cmd, .cry, .zst, .dxr, .dsp, .mov, .errs, .errCounts, .history, .out, .mem]) : shown kp (dmRetry c x status done dt ef s) = shown kp s := by
  simp only [off_cons, off_nil, and_true] at hk
  simp (maxDischargeDepth := 9) [dmRetry, hk]

@[simp] theorem dmFinish_shown {kp : Area → Bool} (c : Nat) (x : DmDesc) (l : List Byte) (s : State)
    (hk : Off kp [.regs, .ctrs, .rge, .integ, .cry, .zst, .dxr, .dsp, .mov, .errs, .errCounts, .history, .out, .mem]) :
    shown kp (dmFinish c x l s) = shown kp s := by
  simp only [off_cons, off_nil, and_true] at hk
  simp (maxDischargeDepth := 9) [dmFinish, hk]

@[simp] theorem dmRead_shown {kp : Area → Bool} (x : DmDesc) (s : State)
    (hk : Off kp [.regs, .ctrs, .rge, .integ, .history, .out]) : shown kp (dmRead x s).2 = shown kp s := by
  simp only [off_cons, off_nil, and_true] at hk
  unfold dmRead
  try dsimp only
  (repeat' split) <;> (try simp (maxDischargeDepth := 9) [hk]) <;> (repeat (refine shown_of_pair (by assumption) ?_; simp (maxDischargeDepth := 9) [hk]))

@[simp] theorem dmNext_shown {kp : Area → Bool} (seg : Nat) (k : Nat) (s : State)
    (hk : Off kp [.mov]) : shown kp (dmNext seg k s) = shown kp s := by
  simp only [off_cons, off_nil, and_true] at hk
  simp (maxDischargeDepth := 9) [dmNext, hk]

@[simp] theorem dmFinds_shown {kp : Area → Bool} (seg : Nat) (dram : List DramFind) (sram : List SramFind) (s : State)
    (hk : Off kp [.draws, .regs, .ctrs, .rge, .integ, .pith, .pins, .health, .cmd, .mov, .history, .out]) : shown kp (dmFinds seg dram sram s).2 = shown kp s := by
  simp only [off_cons, off_nil, and_true] at hk
  simp (maxDischargeDepth := 9) [dmFinds, hk]

theorem execDmDescriptorComplete_shown {kp : Area → Bool} (t : Nat) (seg : Nat) (c : Nat) (differ : Bool) (units : Nat) (dram : List DramFind) (sram : List SramFind) (s : State) (s0 : State)
    (hk : Off kp [.now, .draws, .regs, .ctrs, .rge, .integ, .pith, .pins, .health, .cmd, .cry, .zst, .dxr, .dsp, .mov, .errs, .errCounts, .history, .out, .mem]) : shown kp (after (execDmDescriptorComplete t seg c differ units dram sram s) s0) = shown kp s := by
  simp only [off_cons, off_nil, and_true] at hk
  simp (maxDischargeDepth := 9) [execDmDescriptorComplete, hk]
  (repeat' split) <;> simp_all (maxDischargeDepth := 9)

@[simp] theorem takeResume_shown {kp : Area → Bool} (k : Nat) (f : Nat → Bool) (s : State)
    (hk : Off kp [.dxr]) : shown kp (takeResume k f s).2 = shown kp s := by
  simp only [off_cons, off_nil, and_true] at hk
  unfold takeResume
  (repeat' split) <;> simp_all (maxDischargeDepth := 9)

theorem execDmResume_shown {kp : Area → Bool} (t : Nat) (k : Nat) (s : State) (s0 : State)
    (hk : Off kp [.now, .dxr, .mov]) : shown kp (after (execDmResume t k s) s0) = shown kp s := by
  simp only [off_cons, off_nil, and_true] at hk
  unfold execDmResume
  simp only
  split
  · have e := takeResume_shown (kp := kp) k (· != 1) (tick t s) (by simp [hk])
    split <;> rename_i heq <;> simp [heq, hk] at e <;> (try split) <;> simp (maxDischargeDepth := 9) [e, hk]
  · simp [hk]

theorem execDmAbandon_shown {kp : Area → Bool} (t : Nat) (k : Nat) (s : State) (s0 : State)
    (hk : Off kp [.now, .regs, .ctrs, .rge, .integ, .cry, .zst, .dxr, .dsp, .mov, .errs, .errCounts, .history, .out, .mem]) :
    shown kp (after (execDmAbandon t k s) s0) = shown kp s := by
  simp only [off_cons, off_nil, and_true] at hk
  unfold execDmAbandon
  have e := takeResume_shown (kp := kp) k (· == 1) (tick t s) (by simp [hk])
  split <;> rename_i heq <;> simp [heq, hk] at e <;> simp (maxDischargeDepth := 9) [e, hk]

theorem execDmvSnapNow_shown {kp : Area → Bool} (t : Nat) (n : Nat) (s : State) (s0 : State)
    (hk : Off kp [.now, .regs, .ctrs, .snaps, .rge, .integ, .flw, .pwr, .mov, .history, .out]) :
    shown kp (after (execDmvSnapNow t n s) s0) = shown kp s := by
  simp only [off_cons, off_nil, and_true] at hk
  simp (maxDischargeDepth := 9) [execDmvSnapNow, hk]

@[simp] theorem hwWrite_shown {kp : Area → Bool} (f : Nat) (o : Nat) (w : Word) (be : Nat) (s : State)
    (hk : Off kp [.regs]) : shown kp (hwWrite f o w be s) = shown kp s := by
  simp only [off_cons, off_nil, and_true] at hk
  simp (maxDischargeDepth := 9) [hwWrite, hk]

theorem execDspfHwWrite_shown {kp : Area → Bool} (t : Nat) (f : Nat) (o : Nat) (w : Word) (be : Nat) (s : State) (s0 : State)
    (hk : Off kp [.now, .regs]) : shown kp (after (execDspfHwWrite t f o w be s) s0) = shown kp s := by
  simp only [off_cons, off_nil, and_true] at hk
  simp (maxDischargeDepth := 9) [execDspfHwWrite, hk]

theorem execDramZeroFill_shown {kp : Area → Bool} (t : Nat) (n : Nat) (s : State) (s0 : State)
    (hk : Off kp [.now, .mov]) : shown kp (after (execDramZeroFill t n s) s0) = shown kp s := by
  simp only [off_cons, off_nil, and_true] at hk
  simp (maxDischargeDepth := 9) [execDramZeroFill, hk]

@[simp] theorem dramTrain_shown {kp : Area → Bool} (n : Nat) (due : Bool) (name : String) (f : Dram → Dram) (s : State)
    (hk : Off kp [.med, .mov, .out]) : shown kp (dramTrain n due name f s) = shown kp s := by
  simp only [off_cons, off_nil, and_true] at hk
  unfold dramTrain
  try dsimp only
  (repeat' split) <;> (try simp (maxDischargeDepth := 9) [hk]) <;> (repeat (refine shown_of_pair (by assumption) ?_; simp (maxDischargeDepth := 9) [hk]))

theorem execDramZqCalibration_shown {kp : Area → Bool} (t : Nat) (n : Nat) (s : State) (s0 : State)
    (hk : Off kp [.now, .med, .mov, .out]) : shown kp (after (execDramZqCalibration t n s) s0) = shown kp s := by
  simp only [off_cons, off_nil, and_true] at hk
  simp (maxDischargeDepth := 9) [execDramZqCalibration, hk]

theorem execDramRecentre_shown {kp : Area → Bool} (t : Nat) (n : Nat) (temp : Nat) (s : State) (s0 : State)
    (hk : Off kp [.now, .med, .mov, .out]) : shown kp (after (execDramRecentre t n temp s) s0) = shown kp s := by
  simp only [off_cons, off_nil, and_true] at hk
  simp (maxDischargeDepth := 9) [execDramRecentre, hk]

theorem execDramRefresh_shown {kp : Area → Bool} (t : Nat) (n : Nat) (postpone : Bool) (s : State) (s0 : State)
    (hk : Off kp [.now, .mov, .out]) : shown kp (after (execDramRefresh t n postpone s) s0) = shown kp s := by
  simp only [off_cons, off_nil, and_true] at hk
  simp (maxDischargeDepth := 9) [execDramRefresh, hk]

theorem execDramRfm_shown {kp : Area → Bool} (t : Nat) (n : Nat) (b : Nat) (s : State) (s0 : State)
    (hk : Off kp [.now, .regs, .ctrs, .rge, .integ, .mov, .history, .out]) :
    shown kp (after (execDramRfm t n b s) s0) = shown kp s := by
  simp only [off_cons, off_nil, and_true] at hk
  simp (maxDischargeDepth := 9) [execDramRfm, hk]

@[simp] theorem refreshOne_shown {kp : Area → Bool} (n : Nat) (r : Nat) (b : Nat) (s : State)
    (hk : Off kp [.regs, .ctrs, .rge, .integ, .mov, .history, .out]) : shown kp (refreshOne n r b s) = shown kp s := by
  simp only [off_cons, off_nil, and_true] at hk
  unfold refreshOne
  try dsimp only
  (repeat' split) <;> (try simp (maxDischargeDepth := 9) [hk]) <;> (repeat (refine shown_of_pair (by assumption) ?_; simp (maxDischargeDepth := 9) [hk]))

@[simp] theorem refreshNear_shown {kp : Area → Bool} (n : Nat) (r : Nat) (b : Nat) (s : State)
    (hk : Off kp [.regs, .ctrs, .rge, .integ, .mov, .history, .out]) : shown kp (refreshNear n r b s) = shown kp s := by
  simp only [off_cons, off_nil, and_true] at hk
  simp (maxDischargeDepth := 9) [refreshNear, hk]

theorem execNeighbourRefresh_shown {kp : Area → Bool} (t : Nat) (n : Nat) (b : Nat) (acts : List Nat) (reqs : List DramReq) (slots : Nat) (s : State) (s0 : State)
    (hk : Off kp [.now, .regs, .ctrs, .rge, .integ, .mov, .history, .out]) : shown kp (after (execNeighbourRefresh t n b acts reqs slots s) s0) = shown kp s := by
  simp only [off_cons, off_nil, and_true] at hk
  simp (maxDischargeDepth := 9) [execNeighbourRefresh, hk]

theorem execRatWindowClear_shown {kp : Area → Bool} (t : Nat) (n : Nat) (s : State) (s0 : State)
    (hk : Off kp [.now, .mov]) : shown kp (after (execRatWindowClear t n s) s0) = shown kp s := by
  simp only [off_cons, off_nil, and_true] at hk
  simp (maxDischargeDepth := 9) [execRatWindowClear, hk]

@[simp] theorem drmCount_shown {kp : Area → Bool} (n : Nat) (s : State)
    (hk : Off kp [.draws, .regs, .ctrs, .rge, .integ, .history, .out]) : shown kp (drmCount n s) = shown kp s := by
  simp only [off_cons, off_nil, and_true] at hk
  simp (maxDischargeDepth := 9) [drmCount, hk]

@[simp] theorem execDrmSnapNow_shown {kp : Area → Bool} (t : Nat) (n : Nat) (s : State) (s0 : State)
    (hk : Off kp [.now, .draws, .regs, .ctrs, .snaps, .rge, .integ, .flw, .pwr, .mov, .history, .out]) :
    shown kp (after (execDrmSnapNow t n s) s0) = shown kp s := by
  simp only [off_cons, off_nil, and_true] at hk
  simp (maxDischargeDepth := 9) [execDrmSnapNow, hk]

end Sys2Proof.Machine
end

