-- ==== Sys2Proof/Laws/FrameService.lean ====
section
/-!
SUPPORT. What each operation leaves as it was: programs, logs, firmware, NVMe, the register file, reset, start-up, debug and the sideband. A lemma `f_shown` says that `f` changes
no part of the state outside the list it names; commands have theirs in this form too, of the state after them.
-/
set_option linter.unusedSimpArgs false
set_option linter.unusedVariables false
set_option linter.unusedTactic false
set_option linter.unreachableTactic false

namespace Sys2Proof.Machine

theorem execProgLoad_shown {kp : Area → Bool} (t : Nat) (id : Nat) (data : Option (List Byte)) (s : State) (s0 : State)
    (hk : Off kp [.now, .regs, .ctrs, .rge, .integ, .pins, .health, .cmd, .pwr, .dsp, .errs, .errCounts, .history, .out]) :
    shown kp (after (execProgLoad t id data s) s0) = shown kp s := by
  simp only [off_cons, off_nil, and_true] at hk
  unfold execProgLoad
  refine (serve_shown _ _ _ _ _ (fun c s => ?_) (by simp [hk])).trans (by simp [hk])
  try dsimp only
  (repeat' split) <;> (try simp (maxDischargeDepth := 9) [hk]) <;> (repeat (refine shown_of_pair (by assumption) ?_; simp (maxDischargeDepth := 9) [hk]))

theorem execProgUnload_shown {kp : Area → Bool} (t : Nat) (id : Nat) (s : State) (s0 : State)
    (hk : Off kp [.now, .regs, .ctrs, .rge, .integ, .pins, .health, .cmd, .pwr, .dsp, .errs, .errCounts, .history, .out]) :
    shown kp (after (execProgUnload t id s) s0) = shown kp s := by
  simp only [off_cons, off_nil, and_true] at hk
  simp (maxDischargeDepth := 9) [execProgUnload, hk]

theorem queueRun_shown {kp : Area → Bool} (id : Nat) (c : Flight) (seg : Nat) (s u : State)
    (hk : Off kp [.dsp]) (h : queueRun id c seg s = some u) : shown kp u = shown kp s := by
  unfold queueRun at h
  split at h
  · exact absurd h (by simp)
  · simp only [Option.some.injEq] at h
    subst h
    simp [hk]

theorem execProgRun_shown {kp : Area → Bool} (t : Nat) (id : Nat) (s : State) (s0 : State)
    (hk : Off kp [.now, .regs, .ctrs, .rge, .integ, .pins, .health, .cmd, .pwr, .dsp, .errs, .errCounts, .history, .out]) : shown kp (after (execProgRun t id s) s0) = shown kp s := by
  simp only [off_cons, off_nil, and_true] at hk
  unfold execProgRun
  simp only
  split
  · simp [hk]
  · refine (serve_shown _ _ _ _ _ (fun c s => ?_) (by simp [hk])).trans (by simp [hk])
    (repeat' split)
    all_goals first | (rename_i heq; rw [queueRun_shown _ _ _ _ _ (by simp [hk]) heq]) | simp (maxDischargeDepth := 9) [hk]

theorem execIdentify_shown {kp : Area → Bool} (t : Nat) (id : Nat) (s : State) (s0 : State)
    (hk : Off kp [.now, .regs, .ctrs, .rge, .integ, .pins, .health, .cmd, .pwr, .errs, .errCounts, .history, .out]) :
    shown kp (after (execIdentify t id s) s0) = shown kp s := by
  simp only [off_cons, off_nil, and_true] at hk
  unfold execIdentify
  refine (serve_shown _ _ _ _ _ (fun c s => ?_) (by simp [hk])).trans (by simp [hk])
  (repeat' split) <;> simp (maxDischargeDepth := 9) [hk]

theorem execGetLog_shown {kp : Area → Bool} (t : Nat) (id : Nat) (s : State) (s0 : State)
    (hk : Off kp [.now, .regs, .ctrs, .rge, .integ, .pins, .health, .cmd, .pwr, .errs, .errCounts, .history, .out]) :
    shown kp (after (execGetLog t id s) s0) = shown kp s := by
  simp only [off_cons, off_nil, and_true] at hk
  simp (maxDischargeDepth := 9) [execGetLog, hk]

@[simp] theorem fwNotice_shown {kp : Area → Bool} (kind : Nat) (slot : Nat) (cause : Nat) (svn : Nat) (rev : List Byte) (s : State)
    (hk : Off kp [.regs, .ctrs, .rge, .integ, .history, .out]) : shown kp (fwNotice kind slot cause svn rev s) = shown kp s := by
  simp only [off_cons, off_nil, and_true] at hk
  simp (maxDischargeDepth := 9) [fwNotice, hk]

@[simp] theorem onSlot_shown {kp : Area → Bool} (n : Nat) (f : BootSlot → BootSlot) (s : State)
    (hk : Off kp [.pith]) : shown kp (onSlot n f s) = shown kp s := by
  simp only [off_cons, off_nil, and_true] at hk
  simp (maxDischargeDepth := 9) [onSlot, hk]

@[simp] theorem slotRecord_shown {kp : Area → Bool} (n : Nat) (kind : Nat) (s : State)
    (hk : Off kp [.pith]) : shown kp (slotRecord n kind s) = shown kp s := by
  simp only [off_cons, off_nil, and_true] at hk
  simp (maxDischargeDepth := 9) [slotRecord, hk]

@[simp] theorem eraseSlot_shown {kp : Area → Bool} (n : Nat) (s : State)
    (hk : Off kp [.regs, .ctrs, .rge, .integ, .pith, .history, .out]) : shown kp (eraseSlot n s) = shown kp s := by
  simp only [off_cons, off_nil, and_true] at hk
  simp (maxDischargeDepth := 9) [eraseSlot, hk]

@[simp] theorem commitWrite_shown {kp : Area → Bool} (n : Nat) (act : Bool) (s : State)
    (hk : Off kp [.regs, .ctrs, .rge, .integ, .pith, .history, .out]) : shown kp (commitWrite n act s).2.2 = shown kp s := by
  simp only [off_cons, off_nil, and_true] at hk
  unfold commitWrite
  dsimp only
  (repeat' split) <;> simp (maxDischargeDepth := 9) [hk]

/-- What a commit of firmware posts once its command has completed. -/
@[simp] theorem commitWrite_note_shown {kp : Area → Bool} (n : Nat) (act : Bool) (s u : State)
    (hk : Off kp [.regs, .ctrs, .rge, .integ, .pith, .history, .out]) : shown kp ((commitWrite n act s).2.1 u) = shown kp u := by
  simp only [off_cons, off_nil, and_true] at hk
  unfold commitWrite
  dsimp only
  (repeat' split) <;> simp (maxDischargeDepth := 9) [hk]

@[simp] theorem commitActivate_shown {kp : Area → Bool} (n : Nat) (s : State)
    (hk : Off kp [.regs, .ctrs, .rge, .integ, .pith, .history, .out]) : shown kp (commitActivate n s).2.2 = shown kp s := by
  simp only [off_cons, off_nil, and_true] at hk
  unfold commitActivate
  dsimp only
  (repeat' split) <;> simp (maxDischargeDepth := 9) [hk]

/-- What a commit of firmware posts once its command has completed. -/
@[simp] theorem commitActivate_note_shown {kp : Area → Bool} (n : Nat) (s u : State)
    (hk : Off kp [.regs, .ctrs, .rge, .integ, .pith, .history, .out]) : shown kp ((commitActivate n s).2.1 u) = shown kp u := by
  simp only [off_cons, off_nil, and_true] at hk
  unfold commitActivate
  dsimp only
  (repeat' split) <;> simp (maxDischargeDepth := 9) [hk]

@[simp] theorem slotUnit_shown {kp : Area → Bool} (n : Nat) (s : State)
    (hk : Off kp [.med]) : shown kp (slotUnit n s).2 = shown kp s := by
  simp only [off_cons, off_nil, and_true] at hk
  simp (maxDischargeDepth := 9) [slotUnit, hk]

theorem execFwCommitWrite_shown {kp : Area → Bool} (t : Nat) (id : Nat) (s : State) (s0 : State)
    (hk : Off kp [.now, .regs, .ctrs, .rge, .integ, .pith, .pins, .health, .cmd, .med, .pwr, .errs, .errCounts, .history, .out]) :
    shown kp (after (execFwCommitWrite t id s) s0) = shown kp s := by
  simp only [off_cons, off_nil, and_true] at hk
  unfold execFwCommitWrite
  extract_lets u
  split
  · simp (maxDischargeDepth := 9) [u, hk]
  · refine (serve_shown _ _ _ _ _ (fun c s => ?_) (by simp [hk])).trans (by simp [u, hk])
    split
    · rfl
    split <;> (try dsimp only) <;> (try simp (maxDischargeDepth := 9) [hk]) <;> (repeat (refine shown_of_pair (by assumption) ?_; simp (maxDischargeDepth := 9) [hk]))

theorem execFwCommitActivate_shown {kp : Area → Bool} (t : Nat) (id : Nat) (s : State) (s0 : State)
    (hk : Off kp [.now, .regs, .ctrs, .rge, .integ, .pith, .pins, .health, .cmd, .med, .pwr, .errs, .errCounts, .history, .out]) :
    shown kp (after (execFwCommitActivate t id s) s0) = shown kp s := by
  simp only [off_cons, off_nil, and_true] at hk
  unfold execFwCommitActivate
  extract_lets u
  split
  · simp (maxDischargeDepth := 9) [u, hk]
  · refine (serve_shown _ _ _ _ _ (fun c s => ?_) (by simp [hk])).trans (by simp [u, hk])
    split
    · rfl
    split <;> (try dsimp only) <;> (try simp (maxDischargeDepth := 9) [hk]) <;> (repeat (refine shown_of_pair (by assumption) ?_; simp (maxDischargeDepth := 9) [hk]))

@[simp] theorem onNvme_shown {kp : Area → Bool} (f : Nvme → Nvme) (s : State)
    (hk : Off kp [.cmd]) : shown kp (onNvme f s) = shown kp s := by
  simp only [off_cons, off_nil, and_true] at hk
  simp (maxDischargeDepth := 9) [onNvme, hk]

@[simp] theorem nvEnd_shown {kp : Area → Bool} (sq : Nat) (cmd : List Byte) (status : Nat) (result : Nat) (s : State)
    (hk : Off kp [.rge, .errs, .errCounts, .out]) : shown kp (nvEnd sq cmd status result s) = shown kp s := by
  simp only [off_cons, off_nil, and_true] at hk
  have h2 : ∀ (s : State) a b, shown kp { s with errs := a, errCounts := b } = shown kp s := by intro s a b; simp [shown, hk]
  unfold nvEnd
  simp only
  by_cases h : status = 0
  · simp only [h, if_true]; split <;> simp (maxDischargeDepth := 9) [hk]
  · simp only [h, if_false]; split <;> simp (maxDischargeDepth := 9) [hk, h2]

@[simp] theorem nvDone_shown {kp : Area → Bool} (sq : Nat) (cmd : List Byte) (outcome : Nat) (s : State)
    (hk : Off kp [.rge, .errs, .errCounts, .out]) : shown kp (nvDone sq cmd outcome s) = shown kp s := by
  simp only [off_cons, off_nil, and_true] at hk
  simp (maxDischargeDepth := 9) [nvDone, hk]

@[simp] theorem nvHold_shown {kp : Area → Bool} (sq : Nat) (cmd : List Byte) (s : State)
    (hk : Off kp [.cmd]) : shown kp (nvHold sq cmd s) = shown kp s := by
  simp only [off_cons, off_nil, and_true] at hk
  simp (maxDischargeDepth := 9) [nvHold, hk]

@[simp] theorem nvTake_shown {kp : Area → Bool} (sq : Nat) (cmd : List Byte) (s : State)
    (hk : Off kp [.cmd]) : shown kp (nvTake sq cmd s) = shown kp s := by
  simp only [off_cons, off_nil, and_true] at hk
  simp (maxDischargeDepth := 9) [nvTake, hk]

@[simp] theorem nvServe_shown {kp : Area → Bool} (admin : Bool) (op : Nat) (sq : Nat) (cmd : List Byte) (f : State → State) (s : State) (s0 : State) (hf : ∀ s, shown kp (f s) = shown kp s)
    (hk : Off kp [.rge, .cmd, .errs, .errCounts, .out]) : shown kp (after (nvServe admin op sq cmd f s) s0) = shown kp s := by
  simp only [off_cons, off_nil, and_true] at hk
  simp (maxDischargeDepth := 9) [nvServe, hk, hf]

@[simp] theorem nvAdm_shown {kp : Area → Bool} (op : Nat) (cmd : List Byte) (f : State → State) (s : State) (s0 : State) (hf : ∀ s, shown kp (f s) = shown kp s)
    (hk : Off kp [.rge, .cmd, .errs, .errCounts, .out]) : shown kp (after (nvAdm op cmd f s) s0) = shown kp s := by
  simp only [off_cons, off_nil, and_true] at hk
  simp (maxDischargeDepth := 9) [nvAdm, hk, hf]

theorem execNvmeCreateIoCq_shown {kp : Area → Bool} (t : Nat) (cmd : List Byte) (s : State) (s0 : State)
    (hk : Off kp [.now, .rge, .cmd, .errs, .errCounts, .out]) : shown kp (after (execNvmeCreateIoCq t cmd s) s0) = shown kp s := by
  simp only [off_cons, off_nil, and_true] at hk
  unfold execNvmeCreateIoCq
  refine (nvAdm_shown _ _ _ _ _ (fun s => ?_) (by simp [hk])).trans (by simp [hk])
  (repeat' split) <;> simp (maxDischargeDepth := 9) [hk]

theorem execNvmeCreateIoSq_shown {kp : Area → Bool} (t : Nat) (cmd : List Byte) (s : State) (s0 : State)
    (hk : Off kp [.now, .rge, .cmd, .errs, .errCounts, .out]) : shown kp (after (execNvmeCreateIoSq t cmd s) s0) = shown kp s := by
  simp only [off_cons, off_nil, and_true] at hk
  unfold execNvmeCreateIoSq
  refine (nvAdm_shown _ _ _ _ _ (fun s => ?_) (by simp [hk])).trans (by simp [hk])
  (repeat' split) <;> simp (maxDischargeDepth := 9) [hk]

@[simp] theorem nvDrain_shown {kp : Area → Bool} (q : Nat) (s : State)
    (hk : Off kp [.rge, .cmd, .errs, .errCounts, .out]) : shown kp (nvDrain q s) = shown kp s := by
  simp only [off_cons, off_nil, and_true] at hk
  simp (maxDischargeDepth := 9) [nvDrain, hk]

theorem execNvmeDeleteIoSq_shown {kp : Area → Bool} (t : Nat) (cmd : List Byte) (s : State) (s0 : State)
    (hk : Off kp [.now, .rge, .cmd, .errs, .errCounts, .out]) : shown kp (after (execNvmeDeleteIoSq t cmd s) s0) = shown kp s := by
  simp only [off_cons, off_nil, and_true] at hk
  simp (maxDischargeDepth := 9) [execNvmeDeleteIoSq, hk]

theorem execNvmeDeleteIoCq_shown {kp : Area → Bool} (t : Nat) (cmd : List Byte) (s : State) (s0 : State)
    (hk : Off kp [.now, .rge, .cmd, .errs, .errCounts, .out]) : shown kp (after (execNvmeDeleteIoCq t cmd s) s0) = shown kp s := by
  simp only [off_cons, off_nil, and_true] at hk
  simp (maxDischargeDepth := 9) [execNvmeDeleteIoCq, hk]

theorem execNvmeIdentify_shown {kp : Area → Bool} (t : Nat) (cmd : List Byte) (s : State) (s0 : State)
    (hk : Off kp [.now, .regs, .ctrs, .rge, .integ, .health, .cmd, .errs, .errCounts, .history, .out]) :
    shown kp (after (execNvmeIdentify t cmd s) s0) = shown kp s := by
  simp only [off_cons, off_nil, and_true] at hk
  unfold execNvmeIdentify
  refine (nvAdm_shown _ _ _ _ _ (fun s => ?_) (by simp [hk])).trans (by simp [hk])
  (repeat' split) <;> simp (maxDischargeDepth := 9) [hk]

theorem execNvmeGetLogPage_shown {kp : Area → Bool} (t : Nat) (cmd : List Byte) (s : State) (s0 : State)
    (hk : Off kp [.now, .draws, .regs, .ctrs, .rge, .integ, .health, .cmd, .pwr, .errs, .errCounts, .history, .out]) :
    shown kp (after (execNvmeGetLogPage t cmd s) s0) = shown kp s := by
  simp only [off_cons, off_nil, and_true] at hk
  simp (maxDischargeDepth := 9) [execNvmeGetLogPage, hk]
  (repeat' split) <;> simp_all (maxDischargeDepth := 9)

theorem execNvmeAbort_shown {kp : Area → Bool} (t : Nat) (cmd : List Byte) (s : State) (s0 : State)
    (hk : Off kp [.now, .rge, .cmd, .errs, .errCounts, .out]) : shown kp (after (execNvmeAbort t cmd s) s0) = shown kp s := by
  simp only [off_cons, off_nil, and_true] at hk
  unfold execNvmeAbort
  refine (nvAdm_shown _ _ _ _ _ (fun s => ?_) (by simp [hk])).trans (by simp [hk])
  dsimp only
  (repeat' split) <;> simp (maxDischargeDepth := 9) [hk]

theorem execNvmeSetFeatures_shown {kp : Area → Bool} (t : Nat) (cmd : List Byte) (s : State) (s0 : State)
    (hk : Off kp [.now, .rge, .cmd, .errs, .errCounts, .out]) : shown kp (after (execNvmeSetFeatures t cmd s) s0) = shown kp s := by
  simp only [off_cons, off_nil, and_true] at hk
  unfold execNvmeSetFeatures
  try dsimp only
  (repeat' split) <;> (try simp (maxDischargeDepth := 9) [hk]) <;> (repeat (refine shown_of_pair (by assumption) ?_; simp (maxDischargeDepth := 9) [hk]))

theorem execNvmeGetFeatures_shown {kp : Area → Bool} (t : Nat) (cmd : List Byte) (s : State) (s0 : State)
    (hk : Off kp [.now, .rge, .cmd, .errs, .errCounts, .out]) : shown kp (after (execNvmeGetFeatures t cmd s) s0) = shown kp s := by
  simp only [off_cons, off_nil, and_true] at hk
  unfold execNvmeGetFeatures
  (repeat' split) <;> simp_all (maxDischargeDepth := 9)

theorem execNvmeAsyncEventRequest_shown {kp : Area → Bool} (t : Nat) (cmd : List Byte) (s : State) (s0 : State)
    (hk : Off kp [.now, .rge, .cmd, .errs, .errCounts, .out]) :
    shown kp (after (execNvmeAsyncEventRequest t cmd s) s0) = shown kp s := by
  simp only [off_cons, off_nil, and_true] at hk
  unfold execNvmeAsyncEventRequest
  refine (nvAdm_shown _ _ _ _ _ (fun s => ?_) (by simp [hk])).trans (by simp [hk])
  (repeat' split) <;> simp (maxDischargeDepth := 9) [hk]

theorem execNvmeFirmwareCommit_shown {kp : Area → Bool} (t : Nat) (cmd : List Byte) (s : State) (s0 : State)
    (hk : Off kp [.now, .regs, .ctrs, .rge, .integ, .pith, .cmd, .med, .errs, .errCounts, .history, .out]) :
    shown kp (after (execNvmeFirmwareCommit t cmd s) s0) = shown kp s := by
  simp only [off_cons, off_nil, and_true] at hk
  unfold execNvmeFirmwareCommit
  refine (nvAdm_shown _ _ _ _ _ (fun s => ?_) (by simp [hk])).trans (by simp [hk])
  dsimp only
  (repeat' split) <;> (try simp (maxDischargeDepth := 9) [hk]) <;> (repeat (refine shown_of_pair (by assumption) ?_; simp (maxDischargeDepth := 9) [hk]))

theorem execNvmeFwImageDownload_shown {kp : Area → Bool} (t : Nat) (cmd : List Byte) (data : Option (List Byte)) (s : State) (s0 : State)
    (hk : Off kp [.now, .rge, .cmd, .errs, .errCounts, .out]) :
    shown kp (after (execNvmeFwImageDownload t cmd data s) s0) = shown kp s := by
  simp only [off_cons, off_nil, and_true] at hk
  unfold execNvmeFwImageDownload
  (repeat' split) <;> simp_all (maxDischargeDepth := 9)

@[simp] theorem nvWake_shown {kp : Area → Bool} (l : List Nat) (sq : Nat) (cmd : List Byte) (f : State → State) (s : State)
    (hf : shown kp (f s) = shown kp s) (hk : Off kp [.cmd, .pwr]) : shown kp (nvWake l sq cmd f s) = shown kp s := by
  simp only [off_cons, off_nil, and_true] at hk
  unfold nvWake
  dsimp only
  split
  · exact hf
  · rw [nvHold_shown _ _ _ (by simp [hk])]
    exact shown_foldl _ _ (fun s d => by simp [hk]) _

@[simp] theorem nvBlock_shown {kp : Area → Bool} (op sq : Nat) (cmd : List Byte) (write key : Bool) (f : Flight → Ns → State → State) (s : State) (s0 : State) (hf : ∀ c x s, shown kp (f c x s) = shown kp s)
    (hk : Off kp [.regs, .ctrs, .rge, .integ, .pins, .health, .cmd, .pwr, .errs, .errCounts, .history, .out]) :
    shown kp (after (nvBlock op sq cmd write key f s) s0) = shown kp s := by
  simp only [off_cons, off_nil, and_true] at hk
  unfold nvBlock
  split
  · simp (maxDischargeDepth := 9) [hk]
  · refine (nvServe_shown _ _ _ _ _ _ _ (fun s => ?_) (by simp [hk])).trans (by simp [hk])
    simp only
    (repeat' split) <;> simp (maxDischargeDepth := 9) [hk, hf]

theorem execNvmeFlush_shown {kp : Area → Bool} (t : Nat) (sq : Nat) (cmd : List Byte) (s : State) (s0 : State)
    (hk : Off kp [.now, .rge, .cmd, .errs, .errCounts, .out]) : shown kp (after (execNvmeFlush t sq cmd s) s0) = shown kp s := by
  simp only [off_cons, off_nil, and_true] at hk
  simp (maxDischargeDepth := 9) [execNvmeFlush, hk]

@[simp] theorem nvBad_shown {kp : Area → Bool} (sq : Nat) (cmd : List Byte) (b : BadGrain) (s : State)
    (hk : Off kp [.regs, .ctrs, .rge, .integ, .pins, .health, .cmd, .errs, .errCounts, .history, .out]) : shown kp (nvBad sq cmd b s) = shown kp s := by
  simp only [off_cons, off_nil, and_true] at hk
  simp (maxDischargeDepth := 9) [nvBad, hk]

theorem execNvmeWrite_shown {kp : Area → Bool} (t : Nat) (sq : Nat) (cmd : List Byte) (data : Option (List Byte)) (bad : List Nat) (s : State) (s0 : State)
    (hk : Off kp [.now, .regs, .ctrs, .rge, .integ, .pith, .pins, .health, .cmd, .brc, .flw, .med, .pwr, .errs, .errCounts, .history, .out, .harvest]) :
    shown kp (after (execNvmeWrite t sq cmd data bad s) s0) = shown kp s := by
  simp only [off_cons, off_nil, and_true] at hk
  unfold execNvmeWrite
  refine (nvBlock_shown _ _ _ _ _ _ _ _ (fun c x s => ?_) (by simp [hk])).trans (by simp [hk])
  dsimp only
  (repeat' split) <;> (try simp (maxDischargeDepth := 9) [hk]) <;> (repeat (refine shown_of_pair (by assumption) ?_; simp (maxDischargeDepth := 9) [hk]))

theorem execNvmeRead_shown {kp : Area → Bool} (t : Nat) (sq : Nat) (cmd : List Byte) (s : State) (s0 : State)
    (hk : Off kp [.now, .regs, .ctrs, .rge, .integ, .pins, .health, .cmd, .pwr, .errs, .errCounts, .history, .out]) :
    shown kp (after (execNvmeRead t sq cmd s) s0) = shown kp s := by
  simp only [off_cons, off_nil, and_true] at hk
  unfold execNvmeRead
  refine (nvBlock_shown _ _ _ _ _ _ _ _ (fun c x s => ?_) (by simp [hk])).trans (by simp [hk])
  dsimp only
  (repeat' split) <;> (try simp (maxDischargeDepth := 9) [hk]) <;> (repeat (refine shown_of_pair (by assumption) ?_; simp (maxDischargeDepth := 9) [hk]))

theorem execNvmeDatasetManagement_shown {kp : Area → Bool} (t : Nat) (sq : Nat) (cmd : List Byte) (data : Option (List Byte)) (s : State) (s0 : State)
    (hk : Off kp [.now, .rge, .cmd, .zst, .med, .pwr, .errs, .errCounts, .out]) :
    shown kp (after (execNvmeDatasetManagement t sq cmd data s) s0) = shown kp s := by
  simp only [off_cons, off_nil, and_true] at hk
  unfold execNvmeDatasetManagement
  refine (nvServe_shown _ _ _ _ _ _ _ (fun s => ?_) (by simp [hk])).trans (by simp [hk])
  have h2 : ∀ (l : List (Nat × Nat)) (s : State), shown kp (l.foldl (fun s r => match nsOf s 1 with | some x => dealloc 1 x r.2 r.1 [] s | none => s) s) = shown kp s := by
    intro l s; refine shown_foldl _ _ (fun s a => ?_) _; split <;> simp [hk]
  dsimp only
  split; · simp [hk]
  · simp [hk]
  split; · simp [hk]
  split; · simp [hk]
  exact nvWake_shown _ _ _ _ _ ((nvDone_shown _ _ _ _ (by simp [hk])).trans (h2 _ _)) (by simp [hk])

@[simp] theorem nvReset_shown {kp : Area → Bool} (s : State)
    (hk : Off kp [.cmd]) : shown kp (nvReset s) = shown kp s := by
  simp only [off_cons, off_nil, and_true] at hk
  simp (maxDischargeDepth := 9) [nvReset, hk]

@[simp] theorem nvmeWrite_shown {kp : Area → Bool} (o : Nat) (w : Nat) (s : State)
    (hk : Off kp [.cmd]) : shown kp (nvmeWrite o w s) = shown kp s := by
  simp only [off_cons, off_nil, and_true] at hk
  unfold nvmeWrite
  try dsimp only
  (repeat' split) <;> (try simp (maxDischargeDepth := 9) [hk]) <;> (repeat (refine shown_of_pair (by assumption) ?_; simp (maxDischargeDepth := 9) [hk]))

@[simp] theorem zestFault_shown {kp : Area → Bool} (n : Nat) (j : ZJob) (write : Bool) (ef : Nat) (s : State)
    (hk : Off kp [.draws, .regs, .ctrs, .rge, .integ, .pins, .health, .cmd, .cry, .zst, .dxr, .dsp, .mov, .errs, .errCounts, .history, .out, .mem]) : shown kp (zestFault n j write ef s) = shown kp s := by
  simp only [off_cons, off_nil, and_true] at hk
  simp (maxDischargeDepth := 9) [zestFault, hk]
  (repeat' split) <;> simp_all (maxDischargeDepth := 9)

@[simp] theorem commandFault_shown {kp : Area → Bool} (id : Nat) (c : Flight) (ef : Nat) (s : State)
    (hk : Off kp [.regs, .ctrs, .rge, .integ, .pins, .health, .cmd, .errs, .errCounts, .history, .out]) : shown kp (commandFault id c ef s) = shown kp s := by
  simp only [off_cons, off_nil, and_true] at hk
  simp (maxDischargeDepth := 9) [commandFault, hk]

theorem execFabricTimeout_shown {kp : Area → Bool} (t : Nat) (work : Work) (write : Bool) (units : Nat) (s : State) (s0 : State)
    (hk : Off kp [.now, .draws, .regs, .ctrs, .rge, .integ, .pith, .pins, .health, .cmd, .cry, .brc, .zst, .med, .dxr, .dsp, .mov, .errs, .errCounts, .history, .out, .mem]) : shown kp (after (execFabricTimeout t work write units s) s0) = shown kp s := by
  simp only [off_cons, off_nil, and_true] at hk
  simp (maxDischargeDepth := 9) [execFabricTimeout, hk]
  (repeat' split) <;> simp_all (maxDischargeDepth := 9)

theorem execHeartbeatMiss_shown {kp : Area → Bool} (t : Nat) (k : Nat) (s : State) (s0 : State)
    (hk : Off kp [.now, .draws, .regs, .ctrs, .rge, .integ, .pith, .pins, .health, .cmd, .cry, .brc, .zst, .med, .dxr, .dsp, .mov, .errs, .errCounts, .history, .out, .mem]) :
    shown kp (after (execHeartbeatMiss t k s) s0) = shown kp s := by
  simp only [off_cons, off_nil, and_true] at hk
  simp (maxDischargeDepth := 9) [execHeartbeatMiss, hk]

@[simp] theorem hostReadBad_shown {kp : Area → Bool} (k : Nat) (ef : Nat) (work : Work) (s : State)
    (hk : Off kp [.regs, .ctrs, .rge, .integ, .pins, .health, .cmd, .cry, .zst, .dxr, .dsp, .mov, .errs, .errCounts, .history, .out, .mem]) :
    shown kp (hostReadBad k ef work s) = shown kp s := by
  simp only [off_cons, off_nil, and_true] at hk
  unfold hostReadBad
  (repeat' split) <;> simp_all (maxDischargeDepth := 9)

theorem execHostReadCompletion_shown {kp : Area → Bool} (t : Nat) (work : Work) (ok : Bool) (data : List Byte) (s : State) (s0 : State)
    (hk : Off kp [.now, .regs, .ctrs, .rge, .integ, .pins, .health, .cmd, .cry, .zst, .dxr, .dsp, .mov, .errs, .errCounts, .history, .out, .mem]) :
    shown kp (after (execHostReadCompletion t work ok data s) s0) = shown kp s := by
  simp only [off_cons, off_nil, and_true] at hk
  unfold execHostReadCompletion
  (repeat' split) <;> simp_all (maxDischargeDepth := 9)

theorem execHostReadTimeout_shown {kp : Area → Bool} (t : Nat) (work : Work) (s : State) (s0 : State)
    (hk : Off kp [.now, .regs, .ctrs, .rge, .integ, .pins, .health, .cmd, .cry, .zst, .dxr, .dsp, .mov, .errs, .errCounts, .history, .out, .mem]) :
    shown kp (after (execHostReadTimeout t work s) s0) = shown kp s := by
  simp only [off_cons, off_nil, and_true] at hk
  simp (maxDischargeDepth := 9) [execHostReadTimeout, hk]

@[simp] theorem bar2Read_shown {kp : Area → Bool} (a : Nat) (s : State)
    (hk : Off kp [.regs, .ctrs, .snaps, .rge, .integ, .pins, .cmd, .flw, .med, .pwr, .mov, .history, .out]) : shown kp (bar2Read a s).2 = shown kp s := by
  simp only [off_cons, off_nil, and_true] at hk
  simp (maxDischargeDepth := 9) [bar2Read, hk]
  (repeat' split) <;> simp_all (maxDischargeDepth := 9)

@[simp] theorem lcsWrite_shown {kp : Area → Bool} (a : Nat) (v : Word) (be : Nat) (s : State)
    (hk : Off kp [.draws, .regs, .ctrs, .snaps, .rge, .integ, .pith, .life, .dbg, .cmd, .med, .pwr, .dxr, .dsp, .history, .out, .vault, .lstate, .drkCut, .level]) :
    shown kp (lcsWrite a v be s) = shown kp s := by
  simp only [off_cons, off_nil, and_true] at hk
  simp (maxDischargeDepth := 9) [lcsWrite, hk]

@[simp] theorem pwmWrite_shown {kp : Area → Bool} (a : Nat) (v : Word) (be : Nat) (s : State)
    (hk : Off kp [.now, .regs, .ctrs, .snaps, .rge, .integ, .cmd, .pwr, .history, .out]) :
    shown kp (pwmWrite a v be s) = shown kp s := by
  simp only [off_cons, off_nil, and_true] at hk
  unfold pwmWrite
  (repeat' split) <;> simp_all (maxDischargeDepth := 9)

@[simp] theorem cadWrite_shown {kp : Area → Bool} (a : Nat) (v : Word) (be : Nat) (s : State)
    (hk : Off kp [.now, .regs, .snaps, .cad]) : shown kp (cadWrite a v be s) = shown kp s := by
  simp only [off_cons, off_nil, and_true] at hk
  simp (maxDischargeDepth := 9) [cadWrite, hk]

@[simp] theorem brcWrite_shown {kp : Area → Bool} (a : Nat) (v : Word) (be : Nat) (s : State)
    (hk : Off kp [.now, .regs, .snaps]) : shown kp (brcWrite a v be s) = shown kp s := by
  simp only [off_cons, off_nil, and_true] at hk
  simp (maxDischargeDepth := 9) [brcWrite, hk]

@[simp] theorem pthCommand_shown {kp : Area → Bool} (v : Word) (s : State)
    (hk : Off kp [.now, .regs, .ctrs, .rge, .integ, .pith, .history, .out]) : shown kp (pthCommand v s) = shown kp s := by
  simp only [off_cons, off_nil, and_true] at hk
  unfold pthCommand
  (repeat' split) <;> simp_all (maxDischargeDepth := 9)

@[simp] theorem pthWrite_shown {kp : Area → Bool} (a : Nat) (v : Word) (be : Nat) (s : State)
    (hk : Off kp [.now, .regs, .ctrs, .snaps, .rge, .integ, .pith, .history, .out]) : shown kp (pthWrite a v be s) = shown kp s := by
  simp only [off_cons, off_nil, and_true] at hk
  simp (maxDischargeDepth := 9) [pthWrite, hk]

@[simp] theorem fnWinWrite_shown {kp : Area → Bool} (a : Nat) (v : Word) (be : Nat) (s : State)
    (hk : Off kp [.now, .draws, .regs, .ctrs, .rge, .integ, .cmd, .cry, .zst, .dxr, .dsp, .mov, .history, .out, .mem]) :
    shown kp (fnWinWrite a v be s) = shown kp s := by
  simp only [off_cons, off_nil, and_true] at hk
  unfold fnWinWrite
  dsimp only
  (repeat' split) <;> simp (maxDischargeDepth := 9) [hk]

@[simp] theorem rindWrite_shown {kp : Area → Bool} (a : Nat) (v : Word) (be : Nat) (s : State)
    (hk : Off kp [.now, .draws, .regs, .ctrs, .snaps, .rge, .integ, .pith, .pins, .health, .cmd, .cry, .zst, .flw, .med, .dxr, .dsp, .mov, .history, .out, .harvest, .mem]) :
    shown kp (rindWrite a v be s) = shown kp s := by
  simp only [off_cons, off_nil, and_true] at hk
  simp (maxDischargeDepth := 9) [rindWrite, hk]

@[simp] theorem bar2Write_shown {kp : Area → Bool} (a : Nat) (v : Word) (be : Nat) (s : State)
    (hk : Off kp [.now, .draws, .regs, .ctrs, .snaps, .cad, .rge, .integ, .pith, .life, .dbg, .pins, .health, .cmd, .cry, .zst, .flw, .med, .pwr, .dxr, .dsp, .mov, .history, .out, .vault, .lstate, .drkCut, .level, .harvest, .mem]) :
    shown kp (bar2Write a v be s) = shown kp s := by
  simp only [off_cons, off_nil, and_true] at hk
  unfold bar2Write
  (repeat' split) <;> simp (maxDischargeDepth := 9) [hk]

@[simp] theorem msixWrite_shown {kp : Area → Bool} (f : Nat) (o : Nat) (v : Word) (be : Nat) (s : State)
    (hk : Off kp [.regs, .rge, .out]) : shown kp (msixWrite f o v be s) = shown kp s := by
  simp only [off_cons, off_nil, and_true] at hk
  simp (maxDischargeDepth := 9) [msixWrite, hk]

@[simp] theorem ringCommand_shown {kp : Area → Bool} (f : Nat) (v : Word) (s : State)
    (hk : Off kp [.now, .regs, .rge]) : shown kp (ringCommand f v s) = shown kp s := by
  simp only [off_cons, off_nil, and_true] at hk
  unfold ringCommand
  (repeat' split) <;> simp_all (maxDischargeDepth := 9)

@[simp] theorem fnWrite_shown {kp : Area → Bool} (f : Nat) (a : Nat) (v : Word) (be : Nat) (s : State)
    (hk : Off kp [.now, .regs, .snaps, .rge, .cry]) : shown kp (fnWrite f a v be s) = shown kp s := by
  simp only [off_cons, off_nil, and_true] at hk
  simp (maxDischargeDepth := 9) [fnWrite, hk]

@[simp] theorem bar0Write_shown {kp : Area → Bool} (f : Nat) (o : Nat) (v : Word) (be : Nat) (s : State)
    (hk : Off kp [.now, .draws, .regs, .ctrs, .snaps, .rge, .integ, .cmd, .cry, .flw, .pwr, .mov, .history, .out]) :
    shown kp (bar0Write f o v be s) = shown kp s := by
  simp only [off_cons, off_nil, and_true] at hk
  simp (maxDischargeDepth := 9) [bar0Write, hk]

@[simp] theorem regWrite_shown {kp : Area → Bool} (a : Nat) (v : Word) (be : Nat) (s : State)
    (hk : Off kp [.now, .draws, .regs, .ctrs, .snaps, .cad, .rge, .integ, .pith, .life, .dbg, .pins, .health, .cmd, .cry, .zst, .flw, .med, .pwr, .dxr, .dsp, .mov, .history, .out, .vault, .lstate, .drkCut, .level, .harvest, .mem]) :
    shown kp (regWrite a v be s) = shown kp s := by
  simp only [off_cons, off_nil, and_true] at hk
  simp (maxDischargeDepth := 9) [regWrite, hk]

theorem execRegisterWrite_shown {kp : Area → Bool} (t : Nat) (a : Nat) (v : Word) (be : Nat) (s : State) (s0 : State)
    (hk : Off kp [.now, .draws, .regs, .ctrs, .snaps, .cad, .rge, .integ, .pith, .life, .dbg, .pins, .health, .cmd, .cry, .zst, .flw, .med, .pwr, .dxr, .dsp, .mov, .history, .out, .vault, .lstate, .drkCut, .level, .harvest, .mem]) :
    shown kp (after (execRegisterWrite t a v be s) s0) = shown kp s := by
  simp only [off_cons, off_nil, and_true] at hk
  simp (maxDischargeDepth := 9) [execRegisterWrite, hk]

theorem execBlockLock_shown {kp : Area → Bool} (t : Nat) (blk : Nat) (v : Word) (be : Nat) (s : State) (s0 : State)
    (hk : Off kp [.now, .draws, .regs, .ctrs, .snaps, .cad, .rge, .integ, .pith, .life, .dbg, .pins, .health, .cmd, .cry, .zst, .flw, .med, .pwr, .dxr, .dsp, .mov, .history, .out, .vault, .lstate, .drkCut, .level, .harvest, .mem]) :
    shown kp (after (execBlockLock t blk v be s) s0) = shown kp s := by
  simp only [off_cons, off_nil, and_true] at hk
  simp (maxDischargeDepth := 9) [execBlockLock, hk]

@[simp] theorem onBoot_shown {kp : Area → Bool} (f : Boot → Boot) (s : State)
    (hk : Off kp [.boot]) (h0 : kp .powered = false ∨ ∀ x, (f x).powered = x.powered) (h1 : kp .inReset = false ∨ ∀ x, (f x).inReset = x.inReset) (h2 : kp .testMode = false ∨ ∀ x, (f x).testMode = x.testMode) (h3 : kp .floor = false ∨ ∀ x, (f x).floor = x.floor) :
    shown kp (onBoot f s) = shown kp s := by
  simp only [off_cons, off_nil, and_true] at hk
  have e0 : keep (kp .powered) (f s.boot).powered = keep (kp .powered) s.boot.powered := by rcases h0 with e | e <;> simp [e]
  have e1 : keep (kp .inReset) (f s.boot).inReset = keep (kp .inReset) s.boot.inReset := by rcases h1 with e | e <;> simp [e]
  have e2 : keep (kp .testMode) (f s.boot).testMode = keep (kp .testMode) s.boot.testMode := by rcases h2 with e | e <;> simp [e]
  have e3 : keep (kp .floor) (f s.boot).floor = keep (kp .floor) s.boot.floor := by rcases h3 with e | e <;> simp [e]
  simp [onBoot, shown, hk, e0, e1, e2, e3]

@[simp] theorem onPins_shown {kp : Area → Bool} (f : Pins → Pins) (s : State)
    (hk : Off kp [.pins]) : shown kp (onPins f s) = shown kp s := by
  simp only [off_cons, off_nil, and_true] at hk
  simp (maxDischargeDepth := 9) [onPins, hk]

@[simp] theorem loseBlock_shown {kp : Area → Bool} (n : Nat) (b : Nat) (s : State)
    (hk : Off kp [.draws, .cmd]) : shown kp (loseBlock n b s) = shown kp s := by
  simp only [off_cons, off_nil, and_true] at hk
  unfold loseBlock
  (repeat' split) <;> simp_all (maxDischargeDepth := 9)

@[simp] theorem loseItem_shown {kp : Area → Bool} (s : State) (i : StoneItem)
    (hk : Off kp [.draws, .cmd]) : shown kp (loseItem s i) = shown kp s := by
  simp only [off_cons, off_nil, and_true] at hk
  unfold loseItem
  (repeat' split) <;> simp_all (maxDischargeDepth := 9)

@[simp] theorem loseStone_shown {kp : Area → Bool} (s : State)
    (hk : Off kp [.draws, .cmd, .med]) : shown kp (loseStone s) = shown kp s := by
  simp only [off_cons, off_nil, and_true] at hk
  simp (maxDischargeDepth := 9) [loseStone, hk]

@[simp] theorem wipe_shown {kp : Area → Bool} (s : State)
    (hk : Off kp [.regs, .rge, .integ, .dbg, .pins, .cmd, .zst, .flw, .med, .dxr, .dsp, .mov, .errs, .errCounts, .history, .level, .mem]) :
    shown kp (wipe s) = shown kp s := by
  simp only [off_cons, off_nil, and_true] at hk
  simp [wipe, shown, hk, quietMed]

@[simp] theorem wipeSoft_shown {kp : Area → Bool} (s : State)
    (hk : Off kp [.draws, .regs, .rge, .integ, .dbg, .pins, .cmd, .zst, .flw, .med, .dxr, .dsp, .mov, .errs, .errCounts, .history, .level, .mem]) : shown kp (wipeSoft s) = shown kp s := by
  simp only [off_cons, off_nil, and_true] at hk
  unfold wipeSoft
  dsimp only
  (repeat' split) <;> simp (maxDischargeDepth := 9) [hk]

@[simp] theorem resetNow_shown {kp : Area → Bool} (s : State)
    (hk : Off kp [.draws, .regs, .ctrs, .snaps, .rge, .integ, .life, .dbg, .boot, .pins, .cmd, .cry, .brc, .zst, .flw, .med, .pwr, .dxr, .dsp, .mov, .errs, .errCounts, .history, .out, .inReset, .level, .mem]) :
    shown kp (resetNow s) = shown kp s := by
  simp only [off_cons, off_nil, and_true] at hk
  have e : shown kp (wipeSoft s) = shown kp s := by simp [hk]
  unfold resetNow
  simp only
  generalize wipeSoft s = w at *
  (repeat' split) <;> (try rw [modeNotice_shown _ _ _ (by simp [hk])]) <;> rw [← e] <;> simp [shown, hk]

@[simp] theorem resetRequest_shown {kp : Area → Bool} (soft : Bool) (s : State)
    (hk : Off kp [.draws, .regs, .ctrs, .snaps, .rge, .integ, .life, .dbg, .boot, .pins, .cmd, .cry, .brc, .zst, .flw, .med, .pwr, .dxr, .dsp, .mov, .errs, .errCounts, .history, .out, .inReset, .level, .mem]) : shown kp (resetRequest soft s) = shown kp s := by
  simp only [off_cons, off_nil, and_true] at hk
  simp (maxDischargeDepth := 9) [resetRequest, hk]

theorem execResetNAssert_shown {kp : Area → Bool} (t : Nat) (s : State) (s0 : State)
    (hk : Off kp [.now, .draws, .regs, .ctrs, .snaps, .rge, .integ, .life, .dbg, .boot, .pins, .cmd, .cry, .brc, .zst, .flw, .med, .pwr, .dxr, .dsp, .mov, .errs, .errCounts, .history, .out, .inReset, .level, .mem]) :
    shown kp (after (execResetNAssert t s) s0) = shown kp s := by
  simp only [off_cons, off_nil, and_true] at hk
  simp (maxDischargeDepth := 9) [execResetNAssert, hk]

theorem execBootWatchdog_shown {kp : Area → Bool} (t : Nat) (s : State) (s0 : State)
    (hk : Off kp [.now, .draws, .regs, .ctrs, .snaps, .rge, .integ, .life, .dbg, .boot, .pins, .cmd, .cry, .brc, .zst, .flw, .med, .pwr, .dxr, .dsp, .mov, .errs, .errCounts, .history, .out, .inReset, .level, .mem]) :
    shown kp (after (execBootWatchdog t s) s0) = shown kp s := by
  simp only [off_cons, off_nil, and_true] at hk
  simp (maxDischargeDepth := 9) [execBootWatchdog, hk]

theorem execBraceFlushComplete_shown {kp : Area → Bool} (t : Nat) (pbrace : Nat) (t34 : Nat) (t37 : Nat) (v3 : Nat) (v7 : Nat) (low : Bool) (s : State) (s0 : State)
    (hk : Off kp [.now, .draws, .regs, .ctrs, .snaps, .rge, .integ, .pith, .life, .dbg, .boot, .pins, .health, .cmd, .cry, .brc, .zst, .flw, .med, .pwr, .dxr, .dsp, .mov, .errs, .errCounts, .history, .out, .inReset, .level, .mem]) :
    shown kp (after (execBraceFlushComplete t pbrace t34 t37 v3 v7 low s) s0) = shown kp s := by
  simp only [off_cons, off_nil, and_true] at hk
  simp (maxDischargeDepth := 9) [execBraceFlushComplete, hk]

@[simp] theorem lostHist_shown {kp : Area → Bool} (s : State) (hk : Off kp [.draws, .brc]) : shown kp (lostHist s) = shown kp s := by
  simp only [off_cons, off_nil, and_true] at hk
  simp (maxDischargeDepth := 9) [lostHist, hk]

@[simp] theorem powerOff_shown {kp : Area → Bool} (s : State)
    (hk : Off kp [.draws, .regs, .loaded, .ctrs, .snaps, .cad, .rge, .integ, .life, .dbg, .boot, .pins, .health, .cmd, .cry, .brc, .zst, .flw, .med, .pwr, .dxr, .dsp, .mov, .errs, .errCounts, .history, .powered, .inReset, .testMode, .floor, .vault, .lstate, .drkCut, .level, .mem]) :
    shown kp (powerOff s) = shown kp s := by
  simp only [off_cons, off_nil, and_true] at hk
  have e : shown kp (wipe (loseStone (lostHist s))) = shown kp s := by simp [hk]
  simp only [powerOff, ← e]
  simp [shown, hk]

theorem execPowerLoss_shown {kp : Area → Bool} (t : Nat) (units : List (Nat × Nat)) (torn : Nat) (copies : List (Nat × Nat)) (s : State) (s0 : State)
    (hk : Off kp [.now, .draws, .regs, .loaded, .ctrs, .snaps, .cad, .rge, .integ, .pith, .life, .dbg, .boot, .pins, .health, .cmd, .cry, .brc, .zst, .flw, .med, .pwr, .dxr, .dsp, .mov, .errs, .errCounts, .history, .powered, .inReset, .testMode, .floor, .vault, .lstate, .drkCut, .level, .mem]) :
    shown kp (after (execPowerLoss t units torn copies s) s0) = shown kp s := by
  simp only [off_cons, off_nil, and_true] at hk
  simp (maxDischargeDepth := 9) [execPowerLoss, hk]

@[simp] theorem linkReset_shown {kp : Area → Bool} (link : Link) (s : State)
    (hk : Off kp [.regs, .ctrs, .rge, .integ, .pins, .cmd, .cry, .zst, .dxr, .dsp, .mov, .history, .out, .mem]) :
    shown kp (linkReset link s) = shown kp s := by
  simp only [off_cons, off_nil, and_true] at hk
  simp (maxDischargeDepth := 9) [linkReset, hk]

theorem execPerstAssert_shown {kp : Area → Bool} (t : Nat) (s : State) (s0 : State)
    (hk : Off kp [.now, .regs, .ctrs, .rge, .integ, .boot, .pins, .cmd, .cry, .zst, .dxr, .dsp, .mov, .history, .out, .mem]) :
    shown kp (after (execPerstAssert t s) s0) = shown kp s := by
  simp only [off_cons, off_nil, and_true] at hk
  simp (maxDischargeDepth := 9) [execPerstAssert, hk]

@[simp] theorem startLink_shown {kp : Area → Bool} (s : State) (hk : Off kp [.pins]) : shown kp (startLink s) = shown kp s := by
  simp only [off_cons, off_nil, and_true] at hk
  simp (maxDischargeDepth := 9) [startLink, hk]

theorem execPerstRelease_shown {kp : Area → Bool} (t : Nat) (s : State) (s0 : State)
    (hk : Off kp [.now, .boot, .pins]) : shown kp (after (execPerstRelease t s) s0) = shown kp s := by
  simp only [off_cons, off_nil, and_true] at hk
  simp (maxDischargeDepth := 9) [execPerstRelease, hk]

theorem execLinkReset_shown {kp : Area → Bool} (t : Nat) (hot : Bool) (s : State) (s0 : State)
    (hk : Off kp [.now, .regs, .ctrs, .rge, .integ, .pins, .cmd, .cry, .zst, .dxr, .dsp, .mov, .history, .out, .mem]) :
    shown kp (after (execLinkReset t hot s) s0) = shown kp s := by
  simp only [off_cons, off_nil, and_true] at hk
  simp (maxDischargeDepth := 9) [execLinkReset, hk]

theorem execConfigRequest_shown {kp : Area → Bool} (t : Nat) (s : State) (s0 : State)
    (hk : Off kp [.now, .out]) : shown kp (after (execConfigRequest t s) s0) = shown kp s := by
  simp only [off_cons, off_nil, and_true] at hk
  simp (maxDischargeDepth := 9) [execConfigRequest, hk]

@[simp] theorem loadParams_shown {kp : Area → Bool} (s : State) (hk : Off kp [.loaded]) : shown kp (loadParams s) = shown kp s := by
  simp only [off_cons, off_nil, and_true] at hk
  simp (maxDischargeDepth := 9) [loadParams, hk]

@[simp] theorem voteLife_shown {kp : Area → Bool} (s : State)
    (hk : Off kp [.regs, .ctrs, .rge, .integ, .pith, .life, .history, .out, .vault, .lstate]) :
    shown kp (voteLife s) = shown kp s := by
  simp only [off_cons, off_nil, and_true] at hk
  simp (maxDischargeDepth := 9) [voteLife, hk]

@[simp] theorem voteSlots_shown {kp : Area → Bool} (s : State)
    (hk : Off kp [.regs, .ctrs, .rge, .integ, .pith, .history, .out]) : shown kp (voteSlots s) = shown kp s := by
  simp only [off_cons, off_nil, and_true] at hk
  unfold voteSlots
  dsimp only
  refine (shown_foldl _ _ (fun s i => ?_) _).trans (shown_foldl _ _ (fun s i => ?_) _)
  · split <;> simp (maxDischargeDepth := 9) [hk]
  · simp (maxDischargeDepth := 9) [hk]

@[simp] theorem afterVotes_shown {kp : Area → Bool} (s : State)
    (hk : Off kp [.draws, .regs, .ctrs, .rge, .integ, .pith, .life, .history, .out, .lstate]) : shown kp (afterVotes s) = shown kp s := by
  simp only [off_cons, off_nil, and_true] at hk
  simp (maxDischargeDepth := 9) [afterVotes, hk]

@[simp] theorem burnFuses_shown {kp : Area → Bool} (s : State) (hk : Off kp [.integ]) : shown kp (burnFuses s) = shown kp s := by
  simp only [off_cons, off_nil, and_true] at hk
  simp (maxDischargeDepth := 9) [burnFuses, hk]

@[simp] theorem slotNotice_shown {kp : Area → Bool} (kind : Nat) (n : Nat) (cause : Nat) (s : State)
    (hk : Off kp [.regs, .ctrs, .rge, .integ, .history, .out]) : shown kp (slotNotice kind n cause s) = shown kp s := by
  simp only [off_cons, off_nil, and_true] at hk
  unfold slotNotice
  (repeat' split) <;> simp_all (maxDischargeDepth := 9)

@[simp] theorem enterRescue_shown {kp : Area → Bool} (cause : Nat) (s : State)
    (hk : Off kp [.regs, .ctrs, .rge, .integ, .boot, .history, .out]) : shown kp (enterRescue cause s) = shown kp s := by
  simp only [off_cons, off_nil, and_true] at hk
  simp (maxDischargeDepth := 9) [enterRescue, hk]

@[simp] theorem chooseProgram_shown {kp : Area → Bool} (x0 : Nat) (x1 : List Nat) (x2 : State)
    (hk : Off kp [.regs, .ctrs, .rge, .integ, .pith, .boot, .history, .out]) : shown kp (chooseProgram x0 x1 x2) = shown kp x2 := by
  simp only [off_cons, off_nil, and_true] at hk
  have h2 : ∀ (r : Running) (s : State), shown kp (onBoot (fun b => { b with running := r, cause := 0 }) s) = shown kp s := by intro r s; simp [hk]
  induction x0 generalizing x1 x2 with
  | zero => simp [chooseProgram, hk]
  | succ n ih =>
    have hs : ∀ (k : Nat) (bad : List Nat) (s : State), shown kp (match (slotOf s k).image with
        | some i => if i.mainOk then onBoot (fun b => { b with running := if k = 0 then .mainA else .mainB, cause := 0 }) s
                    else chooseProgram n (k :: bad) s
        | none => enterRescue 2 s) = shown kp s := by
      intro k bad s
      split
      · split <;> simp [h2, ih]
      · simp [hk]
    simp only [chooseProgram]
    split; · simp [hk]
    split; · simp [hk]
    split; · simp [hk]
    split
    · split
      · exact (hs _ _ _).trans (by simp [hk])
      · simp [hk]
    split; · exact hs _ _ _
    split; · exact (hs _ _ _).trans (by simp [hk])
    split
    · exact (hs _ _ _).trans (by simp [hk])
    · simp [hk]

@[simp] theorem measureBoot_shown {kp : Area → Bool} (env : BootEnv) (s : State)
    (hk : Off kp [.boot]) : shown kp (measureBoot env s) = shown kp s := by
  simp only [off_cons, off_nil, and_true] at hk
  simp (maxDischargeDepth := 9) [measureBoot, hk]

@[simp] theorem disableSeg_shown {kp : Area → Bool} (n : Nat) (s : State)
    (hk : Off kp [.boot]) : shown kp (disableSeg n s) = shown kp s := by
  simp only [off_cons, off_nil, and_true] at hk
  simp (maxDischargeDepth := 9) [disableSeg, hk]

@[simp] theorem unusedDie_shown {kp : Area → Bool} (inj : List Nat) (s : State) (d : Nat)
    (hk : Off kp [.regs, .ctrs, .rge, .integ, .history, .out]) : shown kp (unusedDie inj s d) = shown kp s := by
  simp only [off_cons, off_nil, and_true] at hk
  simp (maxDischargeDepth := 9) [unusedDie, hk]

@[simp] theorem fixDies_shown {kp : Area → Bool} (env : BootEnv) (s : State) (seg : Nat)
    (hk : Off kp [.regs, .ctrs, .rge, .integ, .pith, .boot, .flw, .history, .out]) : shown kp (fixDies env s seg) = shown kp s := by
  simp only [off_cons, off_nil, and_true] at hk
  simp (maxDischargeDepth := 9) [fixDies, hk]

@[simp] theorem findDies_shown {kp : Area → Bool} (env : BootEnv) (s : State) (seg : Nat)
    (hk : Off kp [.regs, .ctrs, .rge, .integ, .pith, .boot, .pins, .health, .cmd, .flw, .med, .history, .out, .harvest]) :
    shown kp (findDies env s seg) = shown kp s := by
  simp only [off_cons, off_nil, and_true] at hk
  simp (maxDischargeDepth := 9) [findDies, hk]

@[simp] theorem trainCmds_shown {kp : Area → Bool} (c : Nat) (cap : Nat) (last : Nat) (l : Tab Die) (s : State)
    (hk : Off kp [.out]) : shown kp (trainCmds c cap last l s) = shown kp s := by
  simp only [off_cons, off_nil, and_true] at hk
  simp (maxDischargeDepth := 9) [trainCmds, hk]

@[simp] theorem trainChannel_shown {kp : Area → Bool} (env : BootEnv) (s : State) (c : Nat)
    (hk : Off kp [.regs, .ctrs, .rge, .integ, .pith, .pins, .health, .cmd, .flw, .med, .history, .out, .harvest]) :
    shown kp (trainChannel env s c) = shown kp s := by
  simp only [off_cons, off_nil, and_true] at hk
  unfold trainChannel
  try dsimp only
  (repeat' split) <;> (try simp (maxDischargeDepth := 9) [hk]) <;> (repeat (refine shown_of_pair (by assumption) ?_; simp (maxDischargeDepth := 9) [hk]))

@[simp] theorem giveSpares_shown {kp : Area → Bool} (s : State) (seg : Nat)
    (hk : Off kp [.flw]) : shown kp (giveSpares s seg) = shown kp s := by
  simp only [off_cons, off_nil, and_true] at hk
  simp (maxDischargeDepth := 9) [giveSpares, hk]

@[simp] theorem layBands_shown {kp : Area → Bool} (env : BootEnv) (s : State) (seg : Nat)
    (hk : Off kp [.med]) : shown kp (layBands env s seg) = shown kp s := by
  simp only [off_cons, off_nil, and_true] at hk
  simp (maxDischargeDepth := 9) [layBands, hk]

@[simp] theorem classify_shown {kp : Area → Bool} (env : BootEnv) (s : State) (seg : Nat)
    (hk : Off kp [.med]) : shown kp (classify env s seg) = shown kp s := by
  simp only [off_cons, off_nil, and_true] at hk
  simp (maxDischargeDepth := 9) [classify, hk]

@[simp] theorem trainDram_shown {kp : Area → Bool} (env : BootEnv) (cold : Bool) (s : State) (seg : Nat)
    (hk : Off kp [.boot, .mov]) : shown kp (trainDram env cold s seg) = shown kp s := by
  simp only [off_cons, off_nil, and_true] at hk
  unfold trainDram
  (repeat' split) <;> simp_all (maxDischargeDepth := 9)

@[simp] theorem clampRegions_shown {kp : Area → Bool} (s : State) (seg : Nat)
    (hk : Off kp [.regs]) : shown kp (clampRegions s seg) = shown kp s := by
  simp only [off_cons, off_nil, and_true] at hk
  simp (maxDischargeDepth := 9) [clampRegions, hk]

@[simp] theorem readRegions_shown {kp : Area → Bool} (s : State) (seg : Nat)
    (hk : Off kp [.regs, .cmd, .med]) : shown kp (readRegions s seg) = shown kp s := by
  simp only [off_cons, off_nil, and_true] at hk
  simp (maxDischargeDepth := 9) [readRegions, hk]

@[simp] theorem readRoles_shown {kp : Area → Bool} (s : State) (seg : Nat)
    (hk : Off kp [.dsp]) : shown kp (readRoles s seg) = shown kp s := by
  simp only [off_cons, off_nil, and_true] at hk
  simp (maxDischargeDepth := 9) [readRoles, hk]

@[simp] theorem scanJournal_shown {kp : Area → Bool} (s : State)
    (hk : Off kp [.regs, .ctrs, .rge, .integ, .pith, .history, .out]) : shown kp (scanJournal s) = shown kp s := by
  simp only [off_cons, off_nil, and_true] at hk
  simp (maxDischargeDepth := 9) [scanJournal, hk]

@[simp] theorem resumeCadence_shown {kp : Area → Bool} (s : State)
    (hk : Off kp [.regs, .ctrs, .cad, .rge, .integ, .history, .out]) : shown kp (resumeCadence s) = shown kp s := by
  simp only [off_cons, off_nil, and_true] at hk
  simp (maxDischargeDepth := 9) [resumeCadence, hk]

@[simp] theorem runStart_shown {kp : Area → Bool} (s : State)
    (hk : Off kp [.regs, .ctrs, .rge, .integ, .pith, .history, .out]) : shown kp (runStart s) = shown kp s := by
  simp only [off_cons, off_nil, and_true] at hk
  simp (maxDischargeDepth := 9) [runStart, hk]

@[simp] theorem voteRoots_shown {kp : Area → Bool} (s : State)
    (hk : Off kp [.regs, .ctrs, .rge, .integ, .pith, .cmd, .history, .out]) : shown kp (voteRoots s) = shown kp s := by
  simp only [off_cons, off_nil, and_true] at hk
  simp (maxDischargeDepth := 9) [voteRoots, hk]

@[simp] theorem markDamaged_shown {kp : Area → Bool} (k : Nat) (n : Nat) (s : State)
    (hk : Off kp [.regs, .ctrs, .rge, .integ, .pins, .cmd, .history, .out]) : shown kp (markDamaged k n s) = shown kp s := by
  simp only [off_cons, off_nil, and_true] at hk
  simp (maxDischargeDepth := 9) [markDamaged, hk]

@[simp] theorem reload_shown {kp : Area → Bool} (env : BootEnv) (s : State)
    (hk : Off kp [.regs, .ctrs, .rge, .integ, .boot, .pins, .cmd, .med, .history, .out]) : shown kp (reload env s) = shown kp s := by
  simp only [off_cons, off_nil, and_true] at hk
  simp (maxDischargeDepth := 9) [reload, hk]

@[simp] theorem replayCopies_shown {kp : Area → Bool} (s : State)
    (hk : Off kp [.cmd]) : shown kp (replayCopies s) = shown kp s := by
  simp only [off_cons, off_nil, and_true] at hk
  simp (maxDischargeDepth := 9) [replayCopies, hk]

@[simp] theorem verifyHeads_shown {kp : Area → Bool} (s : State)
    (hk : Off kp [.regs, .ctrs, .rge, .integ, .pins, .cmd, .history, .out]) : shown kp (verifyHeads s) = shown kp s := by
  simp only [off_cons, off_nil, and_true] at hk
  unfold verifyHeads
  refine shown_foldl _ _ (fun s g => ?_) _
  (repeat' split) <;> simp (maxDischargeDepth := 9) [hk]

@[simp] theorem resumeStreams_shown {kp : Area → Bool} (cold : Bool) (s : State)
    (hk : Off kp [.regs, .ctrs, .cad, .rge, .integ, .cmd, .history, .out]) : shown kp (resumeStreams cold s) = shown kp s := by
  simp only [off_cons, off_nil, and_true] at hk
  simp (maxDischargeDepth := 9) [resumeStreams, hk]

@[simp] theorem restoreFences_shown {kp : Area → Bool} (s : State) (hk : Off kp [.cad]) : shown kp (restoreFences s) = shown kp s := by
  simp only [off_cons, off_nil, and_true] at hk
  unfold restoreFences
  (repeat' split) <;> simp_all (maxDischargeDepth := 9)

@[simp] theorem restoreHealth_shown {kp : Area → Bool} (s : State)
    (hk : Off kp [.health]) : shown kp (restoreHealth s) = shown kp s := by
  simp only [off_cons, off_nil, and_true] at hk
  simp (maxDischargeDepth := 9) [restoreHealth, hk]

@[simp] theorem closeHist_shown {kp : Area → Bool} (s : State) (hk : Off kp [.pith, .brc]) : shown kp (closeHist s) = shown kp s := by
  simp only [off_cons, off_nil, and_true] at hk
  unfold closeHist
  (repeat' split) <;> simp_all (maxDischargeDepth := 9)

@[simp] theorem resumeMeasure_shown {kp : Area → Bool} (s : State)
    (hk : Off kp [.draws, .brc, .med]) : shown kp (resumeMeasure s) = shown kp s := by
  simp only [off_cons, off_nil, and_true] at hk
  simp (maxDischargeDepth := 9) [resumeMeasure, hk]
  (repeat' split) <;> simp_all (maxDischargeDepth := 9)

@[simp] theorem replay_shown {kp : Area → Bool} (env : BootEnv) (cold : Bool) (s : State)
    (hk : Off kp [.draws, .regs, .ctrs, .cad, .rge, .integ, .pith, .boot, .pins, .health, .cmd, .brc, .med, .history, .out, .harvest]) :
    shown kp (replay env cold s) = shown kp s := by
  simp only [off_cons, off_nil, and_true] at hk
  simp (maxDischargeDepth := 9) [replay, hk]

@[simp] theorem requeueHurt_shown {kp : Area → Bool} (s : State) (seg : Nat)
    (hk : Off kp [.med]) : shown kp (requeueHurt s seg) = shown kp s := by
  simp only [off_cons, off_nil, and_true] at hk
  simp (maxDischargeDepth := 9) [requeueHurt, hk]

@[simp] theorem powerUp_shown {kp : Area → Bool} (env : BootEnv) (s : State)
    (hk : Off kp [.regs, .ctrs, .rge, .integ, .pith, .boot, .pins, .health, .cmd, .flw, .med, .dsp, .mov, .history, .out, .harvest]) :
    shown kp (powerUp env s) = shown kp s := by
  simp only [off_cons, off_nil, and_true] at hk
  simp (maxDischargeDepth := 9) [powerUp, hk]

@[simp] theorem bootVotes_shown {kp : Area → Bool} (env : BootEnv) (cold : Bool) (s : State)
    (hk : Off kp [.draws, .regs, .loaded, .ctrs, .rge, .integ, .pith, .life, .boot, .pins, .cry, .history, .out, .vault, .lstate]) :
    shown kp (bootVotes env cold s) = shown kp s := by
  simp only [off_cons, off_nil, and_true] at hk
  simp (maxDischargeDepth := 9) [bootVotes, hk]

@[simp] theorem bootDevice_shown {kp : Area → Bool} (env : BootEnv) (cold : Bool) (s : State)
    (hk : Off kp [.draws, .regs, .ctrs, .cad, .rge, .integ, .pith, .boot, .pins, .health, .cmd, .cry, .brc, .flw, .med, .pwr, .dxr, .dsp, .mov, .history, .out, .harvest]) :
    shown kp (bootDevice env cold s) = shown kp s := by
  simp only [off_cons, off_nil, and_true] at hk
  simp (maxDischargeDepth := 9) [bootDevice, hk]

@[simp] theorem startBoot_shown {kp : Area → Bool} (env : BootEnv) (s : State)
    (hk : Off kp [.draws, .regs, .loaded, .ctrs, .cad, .rge, .integ, .pith, .life, .boot, .pins, .health, .cmd, .cry, .brc, .flw, .med, .pwr, .dxr, .dsp, .mov, .history, .out, .inReset, .testMode, .vault, .lstate, .harvest]) :
    shown kp (startBoot env s) = shown kp s := by
  simp only [off_cons, off_nil, and_true] at hk
  simp (maxDischargeDepth := 9) [startBoot, hk]

theorem execPowerOn_shown {kp : Area → Bool} (t : Nat) (resetN : Bool) (perstN : Bool) (env : BootEnv) (s : State) (s0 : State)
    (hk : Off kp [.now, .draws, .regs, .loaded, .ctrs, .cad, .rge, .integ, .pith, .life, .boot, .pins, .health, .cmd, .cry, .brc, .flw, .med, .pwr, .dxr, .dsp, .mov, .history, .out, .powered, .inReset, .testMode, .vault, .lstate, .harvest]) :
    shown kp (after (execPowerOn t resetN perstN env s) s0) = shown kp s := by
  simp only [off_cons, off_nil, and_true] at hk
  simp (maxDischargeDepth := 9) [execPowerOn, hk]

theorem execResetNRelease_shown {kp : Area → Bool} (t : Nat) (env : BootEnv) (s : State) (s0 : State)
    (hk : Off kp [.now, .draws, .regs, .loaded, .ctrs, .cad, .rge, .integ, .pith, .life, .boot, .pins, .health, .cmd, .cry, .brc, .flw, .med, .pwr, .dxr, .dsp, .mov, .history, .out, .inReset, .testMode, .vault, .lstate, .harvest]) :
    shown kp (after (execResetNRelease t env s) s0) = shown kp s := by
  simp only [off_cons, off_nil, and_true] at hk
  simp (maxDischargeDepth := 9) [execResetNRelease, hk]

theorem execConfigReady_shown {kp : Area → Bool} (t : Nat) (s : State) (s0 : State)
    (hk : Off kp [.now, .boot]) : shown kp (after (execConfigReady t s) s0) = shown kp s := by
  simp only [off_cons, off_nil, and_true] at hk
  simp (maxDischargeDepth := 9) [execConfigReady, hk]

@[simp] theorem eraseRehearsed_shown {kp : Area → Bool} (s : State) (seg : Nat)
    (hk : Off kp [.pith, .med]) : shown kp (eraseRehearsed s seg) = shown kp s := by
  simp only [off_cons, off_nil, and_true] at hk
  simp (maxDischargeDepth := 9) [eraseRehearsed, hk]

@[simp] theorem firstArrival_shown {kp : Area → Bool} (s : State)
    (hk : Off kp [.regs, .ctrs, .rge, .integ, .pith, .boot, .history, .out, .floor]) : shown kp (firstArrival s) = shown kp s := by
  simp only [off_cons, off_nil, and_true] at hk
  unfold firstArrival
  (repeat' split) <;> simp_all (maxDischargeDepth := 9)

@[simp] theorem enterPlain_shown {kp : Area → Bool} (s : State)
    (hk : Off kp [.draws, .regs, .ctrs, .rge, .integ, .pith, .cmd, .history, .out]) : shown kp (enterPlain s) = shown kp s := by
  simp only [off_cons, off_nil, and_true] at hk
  simp (maxDischargeDepth := 9) [enterPlain, hk]

theorem execReplayComplete_shown {kp : Area → Bool} (t : Nat) (pdev : Nat) (rate : Nat) (s : State) (s0 : State)
    (hk : Off kp [.now, .draws, .regs, .ctrs, .rge, .integ, .pith, .boot, .pins, .cmd, .brc, .med, .history, .out, .floor]) :
    shown kp (after (execReplayComplete t pdev rate s) s0) = shown kp s := by
  simp only [off_cons, off_nil, and_true] at hk
  simp (maxDischargeDepth := 9) [execReplayComplete, hk]

@[simp] theorem jtagOut_shown {kp : Area → Bool} (n : Nat) (v : Nat) (s : State)
    (hk : Off kp [.dbg, .out]) : shown kp (jtagOut n v s) = shown kp s := by
  simp only [off_cons, off_nil, and_true] at hk
  simp (maxDischargeDepth := 9) [jtagOut, hk]

@[simp] theorem selectIr_shown {kp : Area → Bool} (code : Nat) (s : State)
    (hk : Off kp [.dbg]) : shown kp (selectIr code s) = shown kp s := by
  simp only [off_cons, off_nil, and_true] at hk
  simp (maxDischargeDepth := 9) [selectIr, hk]

@[simp] theorem jtag_shown {kp : Area → Bool} (t : Nat) (code : Nat) (f : State → State) (s : State) (hf : ∀ s, shown kp (f s) = shown kp s)
    (hk : Off kp [.now, .dbg]) : shown kp (jtag t code f s) = shown kp s := by
  simp only [off_cons, off_nil, and_true] at hk
  simp (maxDischargeDepth := 9) [jtag, hk, hf]

@[simp] theorem jtagDebug_shown {kp : Area → Bool} (t : Nat) (code : Nat) (f : State → State) (s : State) (hf : ∀ s, shown kp (f s) = shown kp s)
    (hk : Off kp [.now, .dbg, .out]) : shown kp (jtagDebug t code f s) = shown kp s := by
  simp only [off_cons, off_nil, and_true] at hk
  simp (maxDischargeDepth := 9) [jtagDebug, hk, hf]

theorem execJtagExtest_shown {kp : Area → Bool} (t : Nat) (cap : Nat) (shift : Nat) (s : State) (s0 : State)
    (hk : Off kp [.now, .draws, .regs, .ctrs, .snaps, .rge, .integ, .life, .dbg, .boot, .pins, .cmd, .cry, .brc, .zst, .flw, .med, .pwr, .dxr, .dsp, .mov, .errs, .errCounts, .history, .out, .inReset, .level, .mem]) :
    shown kp (after (execJtagExtest t cap shift s) s0) = shown kp s := by
  simp only [off_cons, off_nil, and_true] at hk
  simp (maxDischargeDepth := 9) [execJtagExtest, hk]

theorem execJtagSamplePreload_shown {kp : Area → Bool} (t : Nat) (cap : Nat) (shift : Nat) (s : State) (s0 : State)
    (hk : Off kp [.now, .dbg, .out]) : shown kp (after (execJtagSamplePreload t cap shift s) s0) = shown kp s := by
  simp only [off_cons, off_nil, and_true] at hk
  simp (maxDischargeDepth := 9) [execJtagSamplePreload, hk]

theorem execJtagIdcode_shown {kp : Area → Bool} (t : Nat) (s : State) (s0 : State)
    (hk : Off kp [.now, .dbg, .out]) : shown kp (after (execJtagIdcode t s) s0) = shown kp s := by
  simp only [off_cons, off_nil, and_true] at hk
  simp (maxDischargeDepth := 9) [execJtagIdcode, hk]

theorem execJtagBypass_shown {kp : Area → Bool} (t : Nat) (s : State) (s0 : State)
    (hk : Off kp [.now, .dbg, .out]) : shown kp (after (execJtagBypass t s) s0) = shown kp s := by
  simp only [off_cons, off_nil, and_true] at hk
  simp (maxDischargeDepth := 9) [execJtagBypass, hk]

theorem execTapReset_shown {kp : Area → Bool} (t : Nat) (s : State) (s0 : State)
    (hk : Off kp [.now, .regs, .ctrs, .rge, .integ, .dbg, .cmd, .med, .pwr, .dxr, .dsp, .history, .out, .level]) :
    shown kp (after (execTapReset t s) s0) = shown kp s := by
  simp only [off_cons, off_nil, and_true] at hk
  simp (maxDischargeDepth := 9) [execTapReset, hk]

theorem execDbgStatus_shown {kp : Area → Bool} (t : Nat) (s : State) (s0 : State)
    (hk : Off kp [.now, .dbg, .out]) : shown kp (after (execDbgStatus t s) s0) = shown kp s := by
  simp only [off_cons, off_nil, and_true] at hk
  simp (maxDischargeDepth := 9) [execDbgStatus, hk]

theorem execDbgChal_shown {kp : Area → Bool} (t : Nat) (s : State) (s0 : State)
    (hk : Off kp [.now, .draws, .life, .dbg, .out]) : shown kp (after (execDbgChal t s) s0) = shown kp s := by
  simp only [off_cons, off_nil, and_true] at hk
  simp (maxDischargeDepth := 9) [execDbgChal, hk]

theorem execDbgGrant_shown {kp : Area → Bool} (t : Nat) (v : Word) (s : State) (s0 : State)
    (hk : Off kp [.now, .dbg, .out]) : shown kp (after (execDbgGrant t v s) s0) = shown kp s := by
  simp only [off_cons, off_nil, and_true] at hk
  unfold execDbgGrant
  rw [after_next]
  refine (jtagDebug_shown _ _ _ _ (fun s => ?_) (by simp [hk])).trans rfl
  refine onDbg_shown _ _ (by simp [hk]) (.inr fun x => ?_)
  split <;> rfl

@[simp] theorem openSession_shown {kp : Area → Bool} (v : Nat) (s : State)
    (hk : Off kp [.regs, .ctrs, .rge, .integ, .life, .dbg, .cmd, .med, .pwr, .dxr, .dsp, .history, .out, .level]) :
    shown kp (openSession v s) = shown kp s := by
  simp only [off_cons, off_nil, and_true] at hk
  simp (maxDischargeDepth := 9) [openSession, hk]
  (repeat' split) <;> simp_all (maxDischargeDepth := 9)

@[simp] theorem emptyGrant_shown {kp : Area → Bool} (s : State) (hk : Off kp [.dbg]) : shown kp (emptyGrant s) = shown kp s := by
  simp only [off_cons, off_nil, and_true] at hk
  simp (maxDischargeDepth := 9) [emptyGrant, hk]

theorem execDbgOpen_shown {kp : Area → Bool} (t : Nat) (v : Nat) (s : State) (s0 : State)
    (hk : Off kp [.now, .regs, .ctrs, .rge, .integ, .life, .dbg, .cmd, .med, .pwr, .dxr, .dsp, .history, .out, .level]) :
    shown kp (after (execDbgOpen t v s) s0) = shown kp s := by
  simp only [off_cons, off_nil, and_true] at hk
  simp (maxDischargeDepth := 9) [execDbgOpen, hk]

theorem execDbgClose_shown {kp : Area → Bool} (t : Nat) (s : State) (s0 : State)
    (hk : Off kp [.now, .regs, .ctrs, .rge, .integ, .dbg, .cmd, .med, .pwr, .dxr, .dsp, .history, .out, .level]) :
    shown kp (after (execDbgClose t s) s0) = shown kp s := by
  simp only [off_cons, off_nil, and_true] at hk
  simp (maxDischargeDepth := 9) [execDbgClose, hk]

@[simp] theorem dapEnd_shown {kp : Area → Bool} (op : DapOp) (data : Nat) (s : State)
    (hk : Off kp [.dbg]) : shown kp (dapEnd op data s) = shown kp s := by
  simp only [off_cons, off_nil, and_true] at hk
  simp (maxDischargeDepth := 9) [dapEnd, hk]

@[simp] theorem dap_shown {kp : Area → Bool} (t : Nat) (who : Nat) (addr : Nat) (data : Nat) (f : State → State) (s : State) (hf : ∀ s, shown kp (f s) = shown kp s)
    (hk : Off kp [.now, .dbg, .out]) : shown kp (dap t who addr data f s) = shown kp s := by
  simp only [off_cons, off_nil, and_true] at hk
  simp (maxDischargeDepth := 9) [dap, hk, hf]

@[simp] theorem wakeCore_shown {kp : Area → Bool} (k : Nat) (s : State)
    (hk : Off kp [.regs, .ctrs, .snaps, .rge, .integ, .pins, .cmd, .flw, .med, .pwr, .mov, .history, .out]) : shown kp (wakeCore k s) = shown kp s := by
  simp only [off_cons, off_nil, and_true] at hk
  simp (maxDischargeDepth := 9) [wakeCore, hk]

@[simp] theorem coreAccess_shown {kp : Area → Bool} (k : Nat) (f : State → State) (s : State) (hf : ∀ s, shown kp (f s) = shown kp s)
    (hk : Off kp [.regs, .ctrs, .snaps, .rge, .integ, .dbg, .pins, .cmd, .flw, .med, .pwr, .mov, .history, .out]) :
    shown kp (coreAccess k f s) = shown kp s := by
  simp only [off_cons, off_nil, and_true] at hk
  simp (maxDischargeDepth := 9) [coreAccess, hk, hf]

@[simp] theorem haltedAccess_shown {kp : Area → Bool} (k : Nat) (f : State → State) (s : State) (hf : ∀ s, shown kp (f s) = shown kp s)
    (hk : Off kp [.regs, .ctrs, .snaps, .rge, .integ, .dbg, .pins, .cmd, .flw, .med, .pwr, .mov, .history, .out]) :
    shown kp (haltedAccess k f s) = shown kp s := by
  simp only [off_cons, off_nil, and_true] at hk
  simp (maxDischargeDepth := 9) [haltedAccess, hk, hf]

@[simp] theorem dapCoreRead_shown {kp : Area → Bool} (k : Nat) (addr : Nat) (s : State)
    (hk : Off kp [.dbg]) : shown kp (dapCoreRead k addr s) = shown kp s := by
  simp only [off_cons, off_nil, and_true] at hk
  unfold dapCoreRead
  (repeat' split) <;> simp_all (maxDischargeDepth := 9)

@[simp] theorem dapCoreWrite_shown {kp : Area → Bool} (k : Nat) (addr : Nat) (v : Nat) (s : State)
    (hk : Off kp [.dbg, .dxr, .mem]) : shown kp (dapCoreWrite k addr v s) = shown kp s := by
  simp only [off_cons, off_nil, and_true] at hk
  unfold dapCoreWrite
  (repeat' split) <;> simp_all (maxDischargeDepth := 9)

theorem execDapRead_shown {kp : Area → Bool} (t : Nat) (who : Nat) (addr : Nat) (s : State) (s0 : State)
    (hk : Off kp [.now, .regs, .ctrs, .snaps, .rge, .integ, .dbg, .pins, .cmd, .flw, .med, .pwr, .mov, .history, .out]) :
    shown kp (after (execDapRead t who addr s) s0) = shown kp s := by
  simp only [off_cons, off_nil, and_true] at hk
  have h2 : ∀ a (s : State), shown kp (match bar2Read a s with
        | (some v, s) => dapEnd .done v s
        | (none, s) => dapEnd .busError 0xFFFFFFFF s) = shown kp s := by
    intro a s
    have e := bar2Read_shown (kp := kp) a s (by simp [hk])
    split <;> rename_i heq <;> simp [heq] at e <;> simp [e, hk]
  unfold execDapRead
  rw [after_next]
  refine (dap_shown _ _ _ _ _ _ (fun s => ?_) (by simp [hk])).trans rfl
  split
  · split
    · simp [hk]
    · exact h2 _ _
  · split <;> simp (maxDischargeDepth := 9) [hk]

@[simp] theorem ctlHalt_shown {kp : Area → Bool} (k : Nat) (s : State)
    (hk : Off kp [.dbg, .med, .dxr, .dsp]) : shown kp (ctlHalt k s) = shown kp s := by
  simp only [off_cons, off_nil, and_true] at hk
  unfold ctlHalt
  (repeat' split) <;> simp_all (maxDischargeDepth := 9)

@[simp] theorem ctlResume_shown {kp : Area → Bool} (k : Nat) (s : State)
    (hk : Off kp [.dbg, .med, .dxr, .dsp]) : shown kp (ctlResume k s) = shown kp s := by
  simp only [off_cons, off_nil, and_true] at hk
  simp (maxDischargeDepth := 9) [ctlResume, hk]

@[simp] theorem ctlStep_shown {kp : Area → Bool} (k : Nat) (way : Issue) (s : State)
    (hk : Off kp [.draws, .regs, .ctrs, .rge, .integ, .pith, .dbg, .pins, .health, .cmd, .cry, .brc, .zst, .med, .dxr, .dsp, .mov, .errs, .errCounts, .history, .out, .mem]) :
    shown kp (ctlStep k way s) = shown kp s := by
  simp only [off_cons, off_nil, and_true] at hk
  simp (maxDischargeDepth := 9) [ctlStep, hk]

@[simp] theorem ctlSstep_shown {kp : Area → Bool} (on : Bool) (k : Nat) (s : State)
    (hk : Off kp [.dbg, .dxr]) : shown kp (ctlSstep on k s) = shown kp s := by
  simp only [off_cons, off_nil, and_true] at hk
  simp (maxDischargeDepth := 9) [ctlSstep, hk]

theorem execDapHalt_shown {kp : Area → Bool} (t : Nat) (who : Nat) (s : State) (s0 : State)
    (hk : Off kp [.now, .regs, .ctrs, .snaps, .rge, .integ, .dbg, .pins, .cmd, .flw, .med, .pwr, .dxr, .dsp, .mov, .history, .out]) :
    shown kp (after (execDapHalt t who s) s0) = shown kp s := by
  simp only [off_cons, off_nil, and_true] at hk
  simp (maxDischargeDepth := 9) [execDapHalt, hk]

theorem execDapResume_shown {kp : Area → Bool} (t : Nat) (who : Nat) (s : State) (s0 : State)
    (hk : Off kp [.now, .regs, .ctrs, .snaps, .rge, .integ, .dbg, .pins, .cmd, .flw, .med, .pwr, .dxr, .dsp, .mov, .history, .out]) :
    shown kp (after (execDapResume t who s) s0) = shown kp s := by
  simp only [off_cons, off_nil, and_true] at hk
  simp (maxDischargeDepth := 9) [execDapResume, hk]

theorem execDapSingleStep_shown {kp : Area → Bool} (t : Nat) (who : Nat) (way : Issue) (s : State) (s0 : State)
    (hk : Off kp [.now, .draws, .regs, .ctrs, .snaps, .rge, .integ, .pith, .dbg, .pins, .health, .cmd, .cry, .brc, .zst, .flw, .med, .pwr, .dxr, .dsp, .mov, .errs, .errCounts, .history, .out, .mem]) :
    shown kp (after (execDapSingleStep t who way s) s0) = shown kp s := by
  simp only [off_cons, off_nil, and_true] at hk
  simp (maxDischargeDepth := 9) [execDapSingleStep, hk]

theorem execDapSetSstep_shown {kp : Area → Bool} (t : Nat) (who : Nat) (s : State) (s0 : State)
    (hk : Off kp [.now, .regs, .ctrs, .snaps, .rge, .integ, .dbg, .pins, .cmd, .flw, .med, .pwr, .dxr, .mov, .history, .out]) :
    shown kp (after (execDapSetSstep t who s) s0) = shown kp s := by
  simp only [off_cons, off_nil, and_true] at hk
  simp (maxDischargeDepth := 9) [execDapSetSstep, hk]

theorem execDapClearSstep_shown {kp : Area → Bool} (t : Nat) (who : Nat) (s : State) (s0 : State)
    (hk : Off kp [.now, .regs, .ctrs, .snaps, .rge, .integ, .dbg, .pins, .cmd, .flw, .med, .pwr, .dxr, .mov, .history, .out]) :
    shown kp (after (execDapClearSstep t who s) s0) = shown kp s := by
  simp only [off_cons, off_nil, and_true] at hk
  simp (maxDischargeDepth := 9) [execDapClearSstep, hk]

@[simp] theorem ctlWrite_shown {kp : Area → Bool} (k : Nat) (v : Nat) (s : State)
    (hk : Off kp [.draws, .regs, .ctrs, .rge, .integ, .pith, .dbg, .pins, .health, .cmd, .cry, .brc, .zst, .med, .dxr, .dsp, .mov, .errs, .errCounts, .history, .out, .mem]) :
    shown kp (ctlWrite k v s) = shown kp s := by
  simp only [off_cons, off_nil, and_true] at hk
  unfold ctlWrite
  (repeat' split) <;> simp (maxDischargeDepth := 9) [hk]

theorem execDapWrite_shown {kp : Area → Bool} (t : Nat) (who : Nat) (addr : Nat) (v : Nat) (s : State) (s0 : State)
    (hk : Off kp [.now, .draws, .regs, .ctrs, .snaps, .cad, .rge, .integ, .pith, .life, .dbg, .pins, .health, .cmd, .cry, .brc, .zst, .flw, .med, .pwr, .dxr, .dsp, .mov, .errs, .errCounts, .history, .out, .vault, .lstate, .drkCut, .level, .harvest, .mem]) :
    shown kp (after (execDapWrite t who addr v s) s0) = shown kp s := by
  simp only [off_cons, off_nil, and_true] at hk
  unfold execDapWrite
  rw [after_next]
  refine dap_shown _ _ _ _ _ _ (fun s => ?_) (by simp [hk])
  (repeat' split) <;> simp (maxDischargeDepth := 9) [hk]

@[simp] theorem refreshCopies_shown {kp : Area → Bool} (s : State) (hk : Off kp [.pins]) : shown kp (refreshCopies s) = shown kp s := by
  simp only [off_cons, off_nil, and_true] at hk
  simp (maxDischargeDepth := 9) [refreshCopies, hk]

theorem execTempSample_shown {kp : Area → Bool} (t : Nat) (reads : List Nat) (s : State) (s0 : State)
    (hk : Off kp [.now, .regs, .ctrs, .rge, .integ, .pins, .health, .cmd, .pwr, .history, .out]) :
    shown kp (after (execTempSample t reads s) s0) = shown kp s := by
  simp only [off_cons, off_nil, and_true] at hk
  simp (maxDischargeDepth := 9) [execTempSample, hk]

@[simp] theorem smbRead_shown {kp : Area → Bool} (t : Nat) (code : Nat) (block : Bool) (data : State → List Byte) (s : State)
    (hk : Off kp [.now, .out]) : shown kp (smbRead t code block data s) = shown kp s := by
  simp only [off_cons, off_nil, and_true] at hk
  simp (maxDischargeDepth := 9) [smbRead, hk]

theorem execSmbStatusByte_shown {kp : Area → Bool} (t : Nat) (s : State) (s0 : State)
    (hk : Off kp [.now, .out]) : shown kp (after (execSmbStatusByte t s) s0) = shown kp s := by
  simp only [off_cons, off_nil, and_true] at hk
  simp (maxDischargeDepth := 9) [execSmbStatusByte, hk]

theorem execSmbModes_shown {kp : Area → Bool} (t : Nat) (s : State) (s0 : State)
    (hk : Off kp [.now, .out]) : shown kp (after (execSmbModes t s) s0) = shown kp s := by
  simp only [off_cons, off_nil, and_true] at hk
  simp (maxDischargeDepth := 9) [execSmbModes, hk]

@[simp] theorem alertHigh_shown {kp : Area → Bool} (s : State) (hk : Off kp [.pins, .out]) : shown kp (alertHigh s) = shown kp s := by
  simp only [off_cons, off_nil, and_true] at hk
  simp (maxDischargeDepth := 9) [alertHigh, hk]

theorem execSmbCrit_shown {kp : Area → Bool} (t : Nat) (s : State) (s0 : State)
    (hk : Off kp [.now, .pins, .out]) : shown kp (after (execSmbCrit t s) s0) = shown kp s := by
  simp only [off_cons, off_nil, and_true] at hk
  simp (maxDischargeDepth := 9) [execSmbCrit, hk]

theorem execSmbSensorTemp_shown {kp : Area → Bool} (t : Nat) (n : Nat) (s : State) (s0 : State)
    (hk : Off kp [.now, .out]) : shown kp (after (execSmbSensorTemp t n s) s0) = shown kp s := by
  simp only [off_cons, off_nil, and_true] at hk
  simp (maxDischargeDepth := 9) [execSmbSensorTemp, hk]

theorem execSmbTempNow_shown {kp : Area → Bool} (t : Nat) (s : State) (s0 : State)
    (hk : Off kp [.now, .out]) : shown kp (after (execSmbTempNow t s) s0) = shown kp s := by
  simp only [off_cons, off_nil, and_true] at hk
  simp (maxDischargeDepth := 9) [execSmbTempNow, hk]

theorem execSmbHealthBlock_shown {kp : Area → Bool} (t : Nat) (s : State) (s0 : State)
    (hk : Off kp [.now, .out]) : shown kp (after (execSmbHealthBlock t s) s0) = shown kp s := by
  simp only [off_cons, off_nil, and_true] at hk
  simp (maxDischargeDepth := 9) [execSmbHealthBlock, hk]

theorem execSmbBraceSummary_shown {kp : Area → Bool} (t : Nat) (s : State) (s0 : State)
    (hk : Off kp [.now, .out]) : shown kp (after (execSmbBraceSummary t s) s0) = shown kp s := by
  simp only [off_cons, off_nil, and_true] at hk
  simp (maxDischargeDepth := 9) [execSmbBraceSummary, hk]

theorem execSmbSerial_shown {kp : Area → Bool} (t : Nat) (s : State) (s0 : State)
    (hk : Off kp [.now, .out]) : shown kp (after (execSmbSerial t s) s0) = shown kp s := by
  simp only [off_cons, off_nil, and_true] at hk
  simp (maxDischargeDepth := 9) [execSmbSerial, hk]

theorem execSmbAlertResponse_shown {kp : Area → Bool} (t : Nat) (s : State) (s0 : State)
    (hk : Off kp [.now, .pins, .out]) : shown kp (after (execSmbAlertResponse t s) s0) = shown kp s := by
  simp only [off_cons, off_nil, and_true] at hk
  simp (maxDischargeDepth := 9) [execSmbAlertResponse, hk]

theorem execSmbClockTimeout_shown {kp : Area → Bool} (t : Nat) (s : State) (s0 : State)
    (hk : Off kp [.now, .out]) : shown kp (after (execSmbClockTimeout t s) s0) = shown kp s := by
  simp only [off_cons, off_nil, and_true] at hk
  simp (maxDischargeDepth := 9) [execSmbClockTimeout, hk]

end Sys2Proof.Machine
end

