-- ==== Sys2Proof/Laws/Tab.lean ====
section
/-!
SUPPORT. The laws of sparse tables: a read after a write, other entries left alone, and the canonical form kept.
-/
namespace Sys2Proof.Machine

variable {α : Type}

/-! ## A lower bound on every listed number, and the canonical form -/

/-- Every number listed in `t` is above `k`. -/
theorem tabWf_cons {j : Nat} {b : α} {t : Tab α} : TabWf ((j, b) :: t) = true ↔ (∀ p ∈ t, j < p.1) ∧ TabWf t = true := by
  induction t generalizing j b with
  | nil => simp [TabWf]
  | cons q t ih =>
    obtain ⟨k, c⟩ := q
    simp only [TabWf, Bool.and_eq_true, decide_eq_true_eq]
    constructor
    · rintro ⟨h, w⟩
      refine ⟨fun p hp => ?_, w⟩
      rcases List.mem_cons.mp hp with rfl | hp
      · exact h
      · exact Nat.lt_trans h ((ih.mp w).1 p hp)
    · rintro ⟨h, w⟩
      exact ⟨h _ List.mem_cons_self, w⟩

theorem mem_tput {k : Nat} {a : α} {t : Tab α} {p : Nat × α} (h : p ∈ tput k a t) : p = (k, a) ∨ p ∈ t := by
  induction t with
  | nil => simpa [tput] using h
  | cons q t ih =>
    obtain ⟨j, b⟩ := q
    simp only [tput] at h
    split at h
    · rcases List.mem_cons.mp h with h | h
      · exact .inl h
      · exact .inr (List.mem_cons_of_mem _ h)
    · split at h
      · rcases List.mem_cons.mp h with h | h
        · exact .inl h
        · exact .inr h
      · rcases List.mem_cons.mp h with h | h
        · exact .inr (h ▸ List.mem_cons_self)
        · rcases ih h with h | h
          · exact .inl h
          · exact .inr (List.mem_cons_of_mem _ h)

theorem mem_tdel {k : Nat} {t : Tab α} {p : Nat × α} (h : p ∈ tdel k t) : p ∈ t := by
  induction t with
  | nil => simp [tdel] at h
  | cons q t ih =>
    obtain ⟨j, b⟩ := q
    simp only [tdel] at h
    split at h
    · exact List.mem_cons_of_mem _ h
    · split at h
      · exact h
      · rcases List.mem_cons.mp h with h | h
        · exact h ▸ List.mem_cons_self
        · exact List.mem_cons_of_mem _ (ih h)

@[simp] theorem tabWf_tput {k : Nat} {a : α} {t : Tab α} (h : TabWf t = true) : TabWf (tput k a t) = true := by
  induction t with
  | nil => rfl
  | cons q t ih =>
    obtain ⟨j, b⟩ := q
    obtain ⟨h1, h2⟩ := tabWf_cons.mp h
    simp only [tput]
    split
    · rename_i e; subst e; exact tabWf_cons.mpr ⟨h1, h2⟩
    · split
      · rename_i e
        exact tabWf_cons.mpr ⟨fun p hp => by
          rcases List.mem_cons.mp hp with rfl | hp
          · exact e
          · exact Nat.lt_trans e (h1 p hp), h⟩
      · rename_i n1 n2
        refine tabWf_cons.mpr ⟨fun p hp => ?_, ih h2⟩
        rcases mem_tput hp with rfl | hp
        · show j < k; omega
        · exact h1 p hp

@[simp] theorem tabWf_tdel {k : Nat} {t : Tab α} (h : TabWf t = true) : TabWf (tdel k t) = true := by
  induction t with
  | nil => rfl
  | cons q t ih =>
    obtain ⟨j, b⟩ := q
    obtain ⟨h1, h2⟩ := tabWf_cons.mp h
    simp only [tdel]
    split
    · exact h2
    · split
      · exact h
      · exact tabWf_cons.mpr ⟨fun p hp => h1 p (mem_tdel hp), ih h2⟩

@[simp] theorem tabWf_tset [DecidableEq α] {d : α} {k : Nat} {a : α} {t : Tab α} (h : TabWf t = true) : TabWf (tset d k a t) = true := by
  unfold tset
  split
  · exact tabWf_tdel h
  · exact tabWf_tput h

theorem tabWf_filter {f : Nat × α → Bool} {t : Tab α} (h : TabWf t = true) : TabWf (t.filter f) = true := by
  induction t with
  | nil => rfl
  | cons q t ih =>
    obtain ⟨j, b⟩ := q
    obtain ⟨h1, h2⟩ := tabWf_cons.mp h
    simp only [List.filter]
    split
    · exact tabWf_cons.mpr ⟨fun p hp => h1 p (List.mem_filter.mp hp).1, ih h2⟩
    · exact ih h2

/-! ## Reading what was written -/

@[simp] theorem tget_tput_self {k : Nat} {a : α} {t : Tab α} : tget k (tput k a t) = some a := by
  induction t with
  | nil => simp [tput, tget]
  | cons q t ih =>
    obtain ⟨j, b⟩ := q
    simp only [tput]
    split
    · simp [tget]
    · split
      · simp [tget]
      · rename_i h1 h2
        simp [tget, h1, h2, ih]

theorem tget_tput_ne {k n : Nat} {a : α} {t : Tab α} (h : n ≠ k) : tget n (tput k a t) = tget n t := by
  induction t with
  | nil => simp [tput, tget, h]
  | cons q t ih =>
    obtain ⟨j, b⟩ := q
    simp only [tput]
    split
    · rename_i e; subst e; simp [tget, h]
    · split
      · rename_i h1 h2
        by_cases h3 : n = j
        · subst h3; simp [tget, h]; omega
        · by_cases h4 : n < k
          · simp only [tget, h, h4, h3, if_true, if_false]
            rw [if_pos (by omega)]
          · simp [tget, h, h4]
      · simp [tget, ih]

theorem tget_eq_none_of_lt {k : Nat} {t : Tab α} (h : ∀ p ∈ t, k < p.1) : tget k t = none := by
  cases t with
  | nil => rfl
  | cons q t =>
    obtain ⟨j, b⟩ := q
    have := h (j, b) List.mem_cons_self
    simp only [tget]
    rw [if_neg (by simp only at this; omega), if_pos this]

@[simp] theorem tget_tdel_self {k : Nat} {t : Tab α} (h : TabWf t = true) : tget k (tdel k t) = none := by
  induction t with
  | nil => rfl
  | cons q t ih =>
    obtain ⟨j, b⟩ := q
    obtain ⟨h1, h2⟩ := tabWf_cons.mp h
    simp only [tdel]
    split
    · rename_i e; subst e; exact tget_eq_none_of_lt h1
    · split
      · rename_i n1 n2; simp [tget, n1, n2]
      · rename_i n1 n2; simp [tget, n1, n2, ih h2]

theorem tget_tdel_ne {k n : Nat} {t : Tab α} (w : TabWf t = true) (h : n ≠ k) : tget n (tdel k t) = tget n t := by
  induction t with
  | nil => rfl
  | cons q t ih =>
    obtain ⟨j, b⟩ := q
    obtain ⟨h1, h2⟩ := tabWf_cons.mp w
    simp only [tdel]
    split
    · rename_i e; subst e
      simp only [tget, h, if_false]
      split
      · rename_i l
        exact tget_eq_none_of_lt fun p hp => Nat.lt_trans l (h1 p hp)
      · rfl
    · split
      · rfl
      · simp [tget, ih h2]

@[simp] theorem tgetD_tput_self {d : α} {k : Nat} {a : α} {t : Tab α} : tgetD d k (tput k a t) = a := by simp [tgetD]

theorem tgetD_tput_ne {d : α} {k n : Nat} {a : α} {t : Tab α} (h : n ≠ k) : tgetD d n (tput k a t) = tgetD d n t := by
  simp [tgetD, tget_tput_ne h]

/-- A table whose unlisted numbers stand for `d` reads back what was written. -/
@[simp] theorem tgetD_tset_self [DecidableEq α] {d : α} {k : Nat} {a : α} {t : Tab α} (h : TabWf t = true) :
    tgetD d k (tset d k a t) = a := by
  unfold tset
  split
  · rename_i e; simp [tgetD, tget_tdel_self h, e]
  · simp

theorem tgetD_tset_ne [DecidableEq α] {d : α} {k n : Nat} {a : α} {t : Tab α} (w : TabWf t = true) (h : n ≠ k) :
    tgetD d n (tset d k a t) = tgetD d n t := by
  unfold tset
  split
  · simp [tgetD, tget_tdel_ne w h]
  · exact tgetD_tput_ne h

end Sys2Proof.Machine
end

