-- ==== Sys2Proof/Laws/Memory.lean ====
section
/-!
SUPPORT. The laws of the cores' memories: every memory operation keeps the canonical form, a read gives what the last write of that
byte stored, and a write leaves every other byte alone.
-/
namespace Sys2Proof.Machine

/-! ## One memory -/

theorem cellsWf_iff {m : List Host.Cell} : cellsWf m = true ↔ TabWf m = true ∧ ∀ p ∈ m, p.2 ≠ 0 := by
  simp [cellsWf]

theorem cellsWf_set {m : List Host.Cell} (a : Nat) (b : Byte) (h : cellsWf m = true) : cellsWf (tset (0 : Byte) a b m) = true := by
  obtain ⟨h1, h2⟩ := cellsWf_iff.mp h
  refine cellsWf_iff.mpr ⟨tabWf_tset h1, fun p hp => ?_⟩
  unfold tset at hp
  split at hp
  · exact h2 p (mem_tdel hp)
  · rename_i e
    rcases mem_tput hp with rfl | hp
    · exact e
    · exact h2 p hp

theorem cellsWf_putBytes (a : Nat) (l : List Byte) {m : List Host.Cell} (h : cellsWf m = true) : cellsWf (putBytes a l m) = true := by
  induction l generalizing a m with
  | nil => exact h
  | cons b t ih => exact ih (a + 1) (cellsWf_set a b h)

theorem cellsWf_clearBytes (a n : Nat) {m : List Host.Cell} (h : cellsWf m = true) : cellsWf (clearBytes a n m) = true := by
  obtain ⟨h1, h2⟩ := cellsWf_iff.mp h
  exact cellsWf_iff.mpr ⟨tabWf_filter h1, fun p hp => h2 p (List.mem_filter.mp hp).1⟩

/-- Bytes outside those stored read as before. -/
theorem tgetD_putBytes_out (a x : Nat) (l : List Byte) {m : List Host.Cell} (h : TabWf m = true) (o : x < a ∨ a + l.length ≤ x) :
    tgetD (0 : Byte) x (putBytes a l m) = tgetD 0 x m := by
  induction l generalizing a m with
  | nil => rfl
  | cons b t ih =>
    simp only [List.length_cons] at o
    have e := ih (a + 1) (m := tset (0 : Byte) a b m) (tabWf_tset h) (by omega)
    exact e.trans (tgetD_tset_ne h (by omega))

/-- A byte stored reads back. -/
theorem tgetD_putBytes_in (a i : Nat) (l : List Byte) {m : List Host.Cell} (h : TabWf m = true) (o : i < l.length) :
    tgetD (0 : Byte) (a + i) (putBytes a l m) = l[i] := by
  induction l generalizing a i m with
  | nil => simp at o
  | cons b t ih =>
    cases i with
    | zero =>
      have e := tgetD_putBytes_out (a + 1) a t (m := tset (0 : Byte) a b m) (tabWf_tset h) (.inl (by omega))
      exact e.trans (tgetD_tset_self h)
    | succ i =>
      have e := ih (a + 1) i (m := tset (0 : Byte) a b m) (tabWf_tset h) (by simpa using o)
      rw [show a + (i + 1) = a + 1 + i by omega]
      exact e

/-! ## All the memories -/

theorem memoryWf_iff {t : Tab (List Host.Cell)} :
    Memory.wf t = true ↔ TabWf t = true ∧ ∀ p ∈ t, cellsWf p.2 = true ∧ p.2 ≠ [] := by
  simp [Memory.wf]

theorem tget_mem {α : Type} {k : Nat} {t : Tab α} {a : α} (h : tget k t = some a) : (k, a) ∈ t := by
  induction t with
  | nil => simp [tget] at h
  | cons q t ih =>
    obtain ⟨j, b⟩ := q
    simp only [tget] at h
    split at h
    · rename_i e; subst e; simp at h; exact h ▸ List.mem_cons_self
    · split at h
      · simp at h
      · exact List.mem_cons_of_mem _ (ih h)

theorem memoryWf_get {t : Tab (List Host.Cell)} (k : Nat) (h : Memory.wf t = true) : cellsWf (tgetD [] k t) = true := by
  unfold tgetD
  cases e : tget k t with
  | none => rfl
  | some m => exact ((memoryWf_iff.mp h).2 _ (tget_mem e)).1

/-- Replacing one memory by a canonical one keeps the form. -/
theorem memoryWf_set {t : Tab (List Host.Cell)} (k : Nat) (m : List Host.Cell) (h : Memory.wf t = true) (hm : cellsWf m = true) :
    Memory.wf (tset [] k m t) = true := by
  obtain ⟨h1, h2⟩ := memoryWf_iff.mp h
  refine memoryWf_iff.mpr ⟨tabWf_tset h1, fun p hp => ?_⟩
  unfold tset at hp
  split at hp
  · exact h2 p (mem_tdel hp)
  · rename_i e
    rcases mem_tput hp with rfl | hp
    · exact ⟨hm, e⟩
    · exact h2 p hp

theorem onMem_wf (key : Nat) (f : List Host.Cell → List Host.Cell) (s : State) (h : Memory.wf s.dxr.mem = true)
    (hf : ∀ m, cellsWf m = true → cellsWf (f m) = true) : Memory.wf (onMem key f s).dxr.mem = true :=
  memoryWf_set key _ h (hf _ (memoryWf_get key h))

theorem writeMem_wf (key a : Nat) (l : List Byte) (s : State) (h : Memory.wf s.dxr.mem = true) :
    Memory.wf (writeMem key a l s).dxr.mem = true :=
  onMem_wf key _ s h fun _ hm => cellsWf_putBytes a l hm

theorem clearMem_wf (key a n : Nat) (s : State) (h : Memory.wf s.dxr.mem = true) :
    Memory.wf (clearMem key a n s).dxr.mem = true :=
  onMem_wf key _ s h fun _ hm => cellsWf_clearBytes a n hm

/-- After a write, a stored byte reads back. -/
theorem memOfKey_writeMem (key a : Nat) (l : List Byte) (s : State) (h : Memory.wf s.dxr.mem = true) :
    memOfKey (writeMem key a l s) key = putBytes a l (memOfKey s key) :=
  tgetD_tset_self (memoryWf_iff.mp h).1

/-- A write to one memory leaves the others alone. -/
theorem memOfKey_writeMem_ne (key k a : Nat) (l : List Byte) (s : State) (h : Memory.wf s.dxr.mem = true) (n : k ≠ key) :
    memOfKey (writeMem key a l s) k = memOfKey s k :=
  tgetD_tset_ne (memoryWf_iff.mp h).1 n

end Sys2Proof.Machine
end

