-- ==== Sys2Proof/Laws/Kept.lean ====
section
/-!
SUPPORT. Every operation keeps `Safe` and only lets the figures of `Grows` grow. `Kept z x` says so of what a state shows, seen from
a first state `z`; a lemma `f_kept` takes it through `f`.
-/
set_option linter.unusedTactic false
set_option linter.unreachableTactic false

namespace Sys2Proof.Machine

/-- The parts that `Safe` and `Grows` speak of. -/
def km : Area → Bool
  | .powered | .inReset | .testMode | .floor | .vault | .lstate | .drkCut | .level | .harvest | .mem => true
  | _ => false

/-- What is shown is that of a safe state, grown from `z`. -/
def Kept (z : State) (x : Shown) : Prop := ∃ s, x = shown km s ∧ Grows z s ∧ Safe s

theorem kept_iff (z s : State) : Kept z (shown km s) ↔ Grows z s ∧ Safe s := by
  refine ⟨fun ⟨t, e, g, h⟩ => ?_, fun h => ⟨s, rfl, h⟩⟩
  simp only [shown, km, keep_true, keep_false, Shown.mk.injEq, Option.some.injEq, true_and] at e
  obtain ⟨e1, e2, e3, e4, e5, e6, e7, e8, e9, e10⟩ := e
  constructor
  · constructor
    · rw [e7]; exact g.drkCut
    · rw [e4]; exact g.floor
    · rw [e9]; exact g.harvest
  · constructor
    · rw [e10]; exact h.mem
    · rw [e5, e8]; exact h.vaultLevel
    · rw [e6, e8]; exact h.scrapLevel
    · rw [e2, e8]; exact h.resetLevel
    · rw [e1, e8]; exact h.offLevel
    · rw [e3, e8]; exact h.testLevel
    · rw [e5, e6]; exact h.vaultState

@[simp] theorem kept_ite {z : State} (c : Prop) [Decidable c] (a b : Shown) : Kept z (if c then a else b) ↔ (c → Kept z a) ∧ (¬ c → Kept z b) := by
  by_cases h : c <;> simp [h]

@[simp] theorem kept_foldl {z : State} {α : Type} (f : State → α → State) (l : List α) (h : ∀ s a, Kept z (shown km s) → Kept z (shown km (f s a))) (s : State)
    (hz : Kept z (shown km s)) : Kept z (shown km (l.foldl f s)) := by
  induction l generalizing s with
  | nil => exact hz
  | cons a t ih => exact ih _ (h _ _ hz)

@[simp] theorem kept_foldl_snd {z : State} {α β : Type} (f : β × State → α → β × State) (l : List α) (h : ∀ a x, Kept z (shown km a.2) → Kept z (shown km (f a x).2))
    (a : β × State) (hz : Kept z (shown km a.2)) : Kept z (shown km (l.foldl f a).2) := by
  induction l generalizing a with
  | nil => exact hz
  | cons x t ih => exact ih _ (h _ _ hz)

/-- The state of a pair, where the pair has been taken apart. -/
theorem kept_of_pair {z : State} {α : Type} {p : α × State} {a : α} {b : State} (h : p = (a, b)) (e : Kept z (shown km p.2)) : Kept z (shown km b) := by
  rw [h] at e; exact e

@[simp] theorem km_pending : km .pending = false := by decide
@[simp] theorem km_now : km .now = false := by decide
@[simp] theorem km_draws : km .draws = false := by decide
@[simp] theorem km_regs : km .regs = false := by decide
@[simp] theorem km_loaded : km .loaded = false := by decide
@[simp] theorem km_ctrs : km .ctrs = false := by decide
@[simp] theorem km_snaps : km .snaps = false := by decide
@[simp] theorem km_cad : km .cad = false := by decide
@[simp] theorem km_rge : km .rge = false := by decide
@[simp] theorem km_integ : km .integ = false := by decide
@[simp] theorem km_pith : km .pith = false := by decide
@[simp] theorem km_life : km .life = false := by decide
@[simp] theorem km_dbg : km .dbg = false := by decide
@[simp] theorem km_boot : km .boot = false := by decide
@[simp] theorem km_pins : km .pins = false := by decide
@[simp] theorem km_health : km .health = false := by decide
@[simp] theorem km_cmd : km .cmd = false := by decide
@[simp] theorem km_cry : km .cry = false := by decide
@[simp] theorem km_brc : km .brc = false := by decide
@[simp] theorem km_zst : km .zst = false := by decide
@[simp] theorem km_flw : km .flw = false := by decide
@[simp] theorem km_med : km .med = false := by decide
@[simp] theorem km_pwr : km .pwr = false := by decide
@[simp] theorem km_dxr : km .dxr = false := by decide
@[simp] theorem km_dsp : km .dsp = false := by decide
@[simp] theorem km_mov : km .mov = false := by decide
@[simp] theorem km_errs : km .errs = false := by decide
@[simp] theorem km_errCounts : km .errCounts = false := by decide
@[simp] theorem km_history : km .history = false := by decide
@[simp] theorem km_out : km .out = false := by decide
@[simp] theorem km_powered : km .powered = true := by decide
@[simp] theorem km_inReset : km .inReset = true := by decide
@[simp] theorem km_testMode : km .testMode = true := by decide
@[simp] theorem km_floor : km .floor = true := by decide
@[simp] theorem km_vault : km .vault = true := by decide
@[simp] theorem km_lstate : km .lstate = true := by decide
@[simp] theorem km_drkCut : km .drkCut = true := by decide
@[simp] theorem km_level : km .level = true := by decide
@[simp] theorem km_harvest : km .harvest = true := by decide
@[simp] theorem km_mem : km .mem = true := by decide
/-- Everything `Safe` speaks of but the debug level. -/
def kl : Area → Bool
  | .powered | .inReset | .testMode | .floor | .vault | .lstate | .drkCut | .harvest | .mem => true
  | _ => false
@[simp] theorem kl_pending : kl .pending = false := by decide
@[simp] theorem kl_now : kl .now = false := by decide
@[simp] theorem kl_draws : kl .draws = false := by decide
@[simp] theorem kl_regs : kl .regs = false := by decide
@[simp] theorem kl_loaded : kl .loaded = false := by decide
@[simp] theorem kl_ctrs : kl .ctrs = false := by decide
@[simp] theorem kl_snaps : kl .snaps = false := by decide
@[simp] theorem kl_cad : kl .cad = false := by decide
@[simp] theorem kl_rge : kl .rge = false := by decide
@[simp] theorem kl_integ : kl .integ = false := by decide
@[simp] theorem kl_pith : kl .pith = false := by decide
@[simp] theorem kl_life : kl .life = false := by decide
@[simp] theorem kl_dbg : kl .dbg = false := by decide
@[simp] theorem kl_boot : kl .boot = false := by decide
@[simp] theorem kl_pins : kl .pins = false := by decide
@[simp] theorem kl_health : kl .health = false := by decide
@[simp] theorem kl_cmd : kl .cmd = false := by decide
@[simp] theorem kl_cry : kl .cry = false := by decide
@[simp] theorem kl_brc : kl .brc = false := by decide
@[simp] theorem kl_zst : kl .zst = false := by decide
@[simp] theorem kl_flw : kl .flw = false := by decide
@[simp] theorem kl_med : kl .med = false := by decide
@[simp] theorem kl_pwr : kl .pwr = false := by decide
@[simp] theorem kl_dxr : kl .dxr = false := by decide
@[simp] theorem kl_dsp : kl .dsp = false := by decide
@[simp] theorem kl_mov : kl .mov = false := by decide
@[simp] theorem kl_errs : kl .errs = false := by decide
@[simp] theorem kl_errCounts : kl .errCounts = false := by decide
@[simp] theorem kl_history : kl .history = false := by decide
@[simp] theorem kl_out : kl .out = false := by decide
@[simp] theorem kl_powered : kl .powered = true := by decide
@[simp] theorem kl_inReset : kl .inReset = true := by decide
@[simp] theorem kl_testMode : kl .testMode = true := by decide
@[simp] theorem kl_floor : kl .floor = true := by decide
@[simp] theorem kl_vault : kl .vault = true := by decide
@[simp] theorem kl_lstate : kl .lstate = true := by decide
@[simp] theorem kl_drkCut : kl .drkCut = true := by decide
@[simp] theorem kl_level : kl .level = false := by decide
@[simp] theorem kl_harvest : kl .harvest = true := by decide
@[simp] theorem kl_mem : kl .mem = true := by decide
theorem kl_fields {s t : State} (e : shown kl t = shown kl s) : t.boot.powered = s.boot.powered ∧ t.boot.inReset = s.boot.inReset ∧ t.boot.testMode = s.boot.testMode ∧ t.boot.floor = s.boot.floor ∧ t.life.vault = s.life.vault ∧ t.life.lstate = s.life.lstate ∧ t.life.drkCut = s.life.drkCut ∧ t.med.harvest = s.med.harvest ∧ t.dxr.mem = s.dxr.mem := by
  simpa [shown] using e
/-- The debug level alone. -/
def klv : Area → Bool
  | .level => true
  | _ => false
@[simp] theorem klv_pending : klv .pending = false := by decide
@[simp] theorem klv_now : klv .now = false := by decide
@[simp] theorem klv_draws : klv .draws = false := by decide
@[simp] theorem klv_regs : klv .regs = false := by decide
@[simp] theorem klv_loaded : klv .loaded = false := by decide
@[simp] theorem klv_ctrs : klv .ctrs = false := by decide
@[simp] theorem klv_snaps : klv .snaps = false := by decide
@[simp] theorem klv_cad : klv .cad = false := by decide
@[simp] theorem klv_rge : klv .rge = false := by decide
@[simp] theorem klv_integ : klv .integ = false := by decide
@[simp] theorem klv_pith : klv .pith = false := by decide
@[simp] theorem klv_life : klv .life = false := by decide
@[simp] theorem klv_dbg : klv .dbg = false := by decide
@[simp] theorem klv_boot : klv .boot = false := by decide
@[simp] theorem klv_pins : klv .pins = false := by decide
@[simp] theorem klv_health : klv .health = false := by decide
@[simp] theorem klv_cmd : klv .cmd = false := by decide
@[simp] theorem klv_cry : klv .cry = false := by decide
@[simp] theorem klv_brc : klv .brc = false := by decide
@[simp] theorem klv_zst : klv .zst = false := by decide
@[simp] theorem klv_flw : klv .flw = false := by decide
@[simp] theorem klv_med : klv .med = false := by decide
@[simp] theorem klv_pwr : klv .pwr = false := by decide
@[simp] theorem klv_dxr : klv .dxr = false := by decide
@[simp] theorem klv_dsp : klv .dsp = false := by decide
@[simp] theorem klv_mov : klv .mov = false := by decide
@[simp] theorem klv_errs : klv .errs = false := by decide
@[simp] theorem klv_errCounts : klv .errCounts = false := by decide
@[simp] theorem klv_history : klv .history = false := by decide
@[simp] theorem klv_out : klv .out = false := by decide
@[simp] theorem klv_powered : klv .powered = false := by decide
@[simp] theorem klv_inReset : klv .inReset = false := by decide
@[simp] theorem klv_testMode : klv .testMode = false := by decide
@[simp] theorem klv_floor : klv .floor = false := by decide
@[simp] theorem klv_vault : klv .vault = false := by decide
@[simp] theorem klv_lstate : klv .lstate = false := by decide
@[simp] theorem klv_drkCut : klv .drkCut = false := by decide
@[simp] theorem klv_level : klv .level = true := by decide
@[simp] theorem klv_harvest : klv .harvest = false := by decide
@[simp] theorem klv_mem : klv .mem = false := by decide
theorem klv_fields {s t : State} (e : shown klv t = shown klv s) : t.dbg.level = s.dbg.level := by
  simpa [shown] using e
/-- The lifecycle state alone. -/
def kls : Area → Bool
  | .lstate => true
  | _ => false
@[simp] theorem kls_pending : kls .pending = false := by decide
@[simp] theorem kls_now : kls .now = false := by decide
@[simp] theorem kls_draws : kls .draws = false := by decide
@[simp] theorem kls_regs : kls .regs = false := by decide
@[simp] theorem kls_loaded : kls .loaded = false := by decide
@[simp] theorem kls_ctrs : kls .ctrs = false := by decide
@[simp] theorem kls_snaps : kls .snaps = false := by decide
@[simp] theorem kls_cad : kls .cad = false := by decide
@[simp] theorem kls_rge : kls .rge = false := by decide
@[simp] theorem kls_integ : kls .integ = false := by decide
@[simp] theorem kls_pith : kls .pith = false := by decide
@[simp] theorem kls_life : kls .life = false := by decide
@[simp] theorem kls_dbg : kls .dbg = false := by decide
@[simp] theorem kls_boot : kls .boot = false := by decide
@[simp] theorem kls_pins : kls .pins = false := by decide
@[simp] theorem kls_health : kls .health = false := by decide
@[simp] theorem kls_cmd : kls .cmd = false := by decide
@[simp] theorem kls_cry : kls .cry = false := by decide
@[simp] theorem kls_brc : kls .brc = false := by decide
@[simp] theorem kls_zst : kls .zst = false := by decide
@[simp] theorem kls_flw : kls .flw = false := by decide
@[simp] theorem kls_med : kls .med = false := by decide
@[simp] theorem kls_pwr : kls .pwr = false := by decide
@[simp] theorem kls_dxr : kls .dxr = false := by decide
@[simp] theorem kls_dsp : kls .dsp = false := by decide
@[simp] theorem kls_mov : kls .mov = false := by decide
@[simp] theorem kls_errs : kls .errs = false := by decide
@[simp] theorem kls_errCounts : kls .errCounts = false := by decide
@[simp] theorem kls_history : kls .history = false := by decide
@[simp] theorem kls_out : kls .out = false := by decide
@[simp] theorem kls_powered : kls .powered = false := by decide
@[simp] theorem kls_inReset : kls .inReset = false := by decide
@[simp] theorem kls_testMode : kls .testMode = false := by decide
@[simp] theorem kls_floor : kls .floor = false := by decide
@[simp] theorem kls_vault : kls .vault = false := by decide
@[simp] theorem kls_lstate : kls .lstate = true := by decide
@[simp] theorem kls_drkCut : kls .drkCut = false := by decide
@[simp] theorem kls_level : kls .level = false := by decide
@[simp] theorem kls_harvest : kls .harvest = false := by decide
@[simp] theorem kls_mem : kls .mem = false := by decide
theorem kls_fields {s t : State} (e : shown kls t = shown kls s) : t.life.lstate = s.life.lstate := by
  simpa [shown] using e
/-- VAULT alone. -/
def kvt : Area → Bool
  | .vault => true
  | _ => false
@[simp] theorem kvt_pending : kvt .pending = false := by decide
@[simp] theorem kvt_now : kvt .now = false := by decide
@[simp] theorem kvt_draws : kvt .draws = false := by decide
@[simp] theorem kvt_regs : kvt .regs = false := by decide
@[simp] theorem kvt_loaded : kvt .loaded = false := by decide
@[simp] theorem kvt_ctrs : kvt .ctrs = false := by decide
@[simp] theorem kvt_snaps : kvt .snaps = false := by decide
@[simp] theorem kvt_cad : kvt .cad = false := by decide
@[simp] theorem kvt_rge : kvt .rge = false := by decide
@[simp] theorem kvt_integ : kvt .integ = false := by decide
@[simp] theorem kvt_pith : kvt .pith = false := by decide
@[simp] theorem kvt_life : kvt .life = false := by decide
@[simp] theorem kvt_dbg : kvt .dbg = false := by decide
@[simp] theorem kvt_boot : kvt .boot = false := by decide
@[simp] theorem kvt_pins : kvt .pins = false := by decide
@[simp] theorem kvt_health : kvt .health = false := by decide
@[simp] theorem kvt_cmd : kvt .cmd = false := by decide
@[simp] theorem kvt_cry : kvt .cry = false := by decide
@[simp] theorem kvt_brc : kvt .brc = false := by decide
@[simp] theorem kvt_zst : kvt .zst = false := by decide
@[simp] theorem kvt_flw : kvt .flw = false := by decide
@[simp] theorem kvt_med : kvt .med = false := by decide
@[simp] theorem kvt_pwr : kvt .pwr = false := by decide
@[simp] theorem kvt_dxr : kvt .dxr = false := by decide
@[simp] theorem kvt_dsp : kvt .dsp = false := by decide
@[simp] theorem kvt_mov : kvt .mov = false := by decide
@[simp] theorem kvt_errs : kvt .errs = false := by decide
@[simp] theorem kvt_errCounts : kvt .errCounts = false := by decide
@[simp] theorem kvt_history : kvt .history = false := by decide
@[simp] theorem kvt_out : kvt .out = false := by decide
@[simp] theorem kvt_powered : kvt .powered = false := by decide
@[simp] theorem kvt_inReset : kvt .inReset = false := by decide
@[simp] theorem kvt_testMode : kvt .testMode = false := by decide
@[simp] theorem kvt_floor : kvt .floor = false := by decide
@[simp] theorem kvt_vault : kvt .vault = true := by decide
@[simp] theorem kvt_lstate : kvt .lstate = false := by decide
@[simp] theorem kvt_drkCut : kvt .drkCut = false := by decide
@[simp] theorem kvt_level : kvt .level = false := by decide
@[simp] theorem kvt_harvest : kvt .harvest = false := by decide
@[simp] theorem kvt_mem : kvt .mem = false := by decide
theorem kvt_fields {s t : State} (e : shown kvt t = shown kvt s) : t.life.vault = s.life.vault := by
  simpa [shown] using e
/-- What a lifecycle transition leaves. -/
def kt : Area → Bool
  | .floor | .vault | .drkCut | .harvest | .mem => true
  | _ => false
@[simp] theorem kt_pending : kt .pending = false := by decide
@[simp] theorem kt_now : kt .now = false := by decide
@[simp] theorem kt_draws : kt .draws = false := by decide
@[simp] theorem kt_regs : kt .regs = false := by decide
@[simp] theorem kt_loaded : kt .loaded = false := by decide
@[simp] theorem kt_ctrs : kt .ctrs = false := by decide
@[simp] theorem kt_snaps : kt .snaps = false := by decide
@[simp] theorem kt_cad : kt .cad = false := by decide
@[simp] theorem kt_rge : kt .rge = false := by decide
@[simp] theorem kt_integ : kt .integ = false := by decide
@[simp] theorem kt_pith : kt .pith = false := by decide
@[simp] theorem kt_life : kt .life = false := by decide
@[simp] theorem kt_dbg : kt .dbg = false := by decide
@[simp] theorem kt_boot : kt .boot = false := by decide
@[simp] theorem kt_pins : kt .pins = false := by decide
@[simp] theorem kt_health : kt .health = false := by decide
@[simp] theorem kt_cmd : kt .cmd = false := by decide
@[simp] theorem kt_cry : kt .cry = false := by decide
@[simp] theorem kt_brc : kt .brc = false := by decide
@[simp] theorem kt_zst : kt .zst = false := by decide
@[simp] theorem kt_flw : kt .flw = false := by decide
@[simp] theorem kt_med : kt .med = false := by decide
@[simp] theorem kt_pwr : kt .pwr = false := by decide
@[simp] theorem kt_dxr : kt .dxr = false := by decide
@[simp] theorem kt_dsp : kt .dsp = false := by decide
@[simp] theorem kt_mov : kt .mov = false := by decide
@[simp] theorem kt_errs : kt .errs = false := by decide
@[simp] theorem kt_errCounts : kt .errCounts = false := by decide
@[simp] theorem kt_history : kt .history = false := by decide
@[simp] theorem kt_out : kt .out = false := by decide
@[simp] theorem kt_powered : kt .powered = false := by decide
@[simp] theorem kt_inReset : kt .inReset = false := by decide
@[simp] theorem kt_testMode : kt .testMode = false := by decide
@[simp] theorem kt_floor : kt .floor = true := by decide
@[simp] theorem kt_vault : kt .vault = true := by decide
@[simp] theorem kt_lstate : kt .lstate = false := by decide
@[simp] theorem kt_drkCut : kt .drkCut = true := by decide
@[simp] theorem kt_level : kt .level = false := by decide
@[simp] theorem kt_harvest : kt .harvest = true := by decide
@[simp] theorem kt_mem : kt .mem = true := by decide
theorem kt_fields {s t : State} (e : shown kt t = shown kt s) : t.boot.floor = s.boot.floor ∧ t.life.vault = s.life.vault ∧ t.life.drkCut = s.life.drkCut ∧ t.med.harvest = s.med.harvest ∧ t.dxr.mem = s.dxr.mem := by
  simpa [shown] using e
/-- What an entry to RETURNED leaves. -/
def ku : Area → Bool
  | .floor | .drkCut | .harvest | .mem => true
  | _ => false
@[simp] theorem ku_pending : ku .pending = false := by decide
@[simp] theorem ku_now : ku .now = false := by decide
@[simp] theorem ku_draws : ku .draws = false := by decide
@[simp] theorem ku_regs : ku .regs = false := by decide
@[simp] theorem ku_loaded : ku .loaded = false := by decide
@[simp] theorem ku_ctrs : ku .ctrs = false := by decide
@[simp] theorem ku_snaps : ku .snaps = false := by decide
@[simp] theorem ku_cad : ku .cad = false := by decide
@[simp] theorem ku_rge : ku .rge = false := by decide
@[simp] theorem ku_integ : ku .integ = false := by decide
@[simp] theorem ku_pith : ku .pith = false := by decide
@[simp] theorem ku_life : ku .life = false := by decide
@[simp] theorem ku_dbg : ku .dbg = false := by decide
@[simp] theorem ku_boot : ku .boot = false := by decide
@[simp] theorem ku_pins : ku .pins = false := by decide
@[simp] theorem ku_health : ku .health = false := by decide
@[simp] theorem ku_cmd : ku .cmd = false := by decide
@[simp] theorem ku_cry : ku .cry = false := by decide
@[simp] theorem ku_brc : ku .brc = false := by decide
@[simp] theorem ku_zst : ku .zst = false := by decide
@[simp] theorem ku_flw : ku .flw = false := by decide
@[simp] theorem ku_med : ku .med = false := by decide
@[simp] theorem ku_pwr : ku .pwr = false := by decide
@[simp] theorem ku_dxr : ku .dxr = false := by decide
@[simp] theorem ku_dsp : ku .dsp = false := by decide
@[simp] theorem ku_mov : ku .mov = false := by decide
@[simp] theorem ku_errs : ku .errs = false := by decide
@[simp] theorem ku_errCounts : ku .errCounts = false := by decide
@[simp] theorem ku_history : ku .history = false := by decide
@[simp] theorem ku_out : ku .out = false := by decide
@[simp] theorem ku_powered : ku .powered = false := by decide
@[simp] theorem ku_inReset : ku .inReset = false := by decide
@[simp] theorem ku_testMode : ku .testMode = false := by decide
@[simp] theorem ku_floor : ku .floor = true := by decide
@[simp] theorem ku_vault : ku .vault = false := by decide
@[simp] theorem ku_lstate : ku .lstate = false := by decide
@[simp] theorem ku_drkCut : ku .drkCut = true := by decide
@[simp] theorem ku_level : ku .level = false := by decide
@[simp] theorem ku_harvest : ku .harvest = true := by decide
@[simp] theorem ku_mem : ku .mem = true := by decide
theorem ku_fields {s t : State} (e : shown ku t = shown ku s) : t.boot.floor = s.boot.floor ∧ t.life.drkCut = s.life.drkCut ∧ t.med.harvest = s.med.harvest ∧ t.dxr.mem = s.dxr.mem := by
  simpa [shown] using e
/-- Everything but VAULT. -/
def kw : Area → Bool
  | .powered | .inReset | .testMode | .floor | .lstate | .drkCut | .level | .harvest | .mem => true
  | _ => false
@[simp] theorem kw_pending : kw .pending = false := by decide
@[simp] theorem kw_now : kw .now = false := by decide
@[simp] theorem kw_draws : kw .draws = false := by decide
@[simp] theorem kw_regs : kw .regs = false := by decide
@[simp] theorem kw_loaded : kw .loaded = false := by decide
@[simp] theorem kw_ctrs : kw .ctrs = false := by decide
@[simp] theorem kw_snaps : kw .snaps = false := by decide
@[simp] theorem kw_cad : kw .cad = false := by decide
@[simp] theorem kw_rge : kw .rge = false := by decide
@[simp] theorem kw_integ : kw .integ = false := by decide
@[simp] theorem kw_pith : kw .pith = false := by decide
@[simp] theorem kw_life : kw .life = false := by decide
@[simp] theorem kw_dbg : kw .dbg = false := by decide
@[simp] theorem kw_boot : kw .boot = false := by decide
@[simp] theorem kw_pins : kw .pins = false := by decide
@[simp] theorem kw_health : kw .health = false := by decide
@[simp] theorem kw_cmd : kw .cmd = false := by decide
@[simp] theorem kw_cry : kw .cry = false := by decide
@[simp] theorem kw_brc : kw .brc = false := by decide
@[simp] theorem kw_zst : kw .zst = false := by decide
@[simp] theorem kw_flw : kw .flw = false := by decide
@[simp] theorem kw_med : kw .med = false := by decide
@[simp] theorem kw_pwr : kw .pwr = false := by decide
@[simp] theorem kw_dxr : kw .dxr = false := by decide
@[simp] theorem kw_dsp : kw .dsp = false := by decide
@[simp] theorem kw_mov : kw .mov = false := by decide
@[simp] theorem kw_errs : kw .errs = false := by decide
@[simp] theorem kw_errCounts : kw .errCounts = false := by decide
@[simp] theorem kw_history : kw .history = false := by decide
@[simp] theorem kw_out : kw .out = false := by decide
@[simp] theorem kw_powered : kw .powered = true := by decide
@[simp] theorem kw_inReset : kw .inReset = true := by decide
@[simp] theorem kw_testMode : kw .testMode = true := by decide
@[simp] theorem kw_floor : kw .floor = true := by decide
@[simp] theorem kw_vault : kw .vault = false := by decide
@[simp] theorem kw_lstate : kw .lstate = true := by decide
@[simp] theorem kw_drkCut : kw .drkCut = true := by decide
@[simp] theorem kw_level : kw .level = true := by decide
@[simp] theorem kw_harvest : kw .harvest = true := by decide
@[simp] theorem kw_mem : kw .mem = true := by decide
theorem kw_fields {s t : State} (e : shown kw t = shown kw s) : t.boot.powered = s.boot.powered ∧ t.boot.inReset = s.boot.inReset ∧ t.boot.testMode = s.boot.testMode ∧ t.boot.floor = s.boot.floor ∧ t.life.lstate = s.life.lstate ∧ t.life.drkCut = s.life.drkCut ∧ t.dbg.level = s.dbg.level ∧ t.med.harvest = s.med.harvest ∧ t.dxr.mem = s.dxr.mem := by
  simpa [shown] using e
theorem km_fields {s t : State} (e : shown km t = shown km s) : t.boot.powered = s.boot.powered ∧ t.boot.inReset = s.boot.inReset ∧ t.boot.testMode = s.boot.testMode ∧ t.boot.floor = s.boot.floor ∧ t.life.vault = s.life.vault ∧ t.life.lstate = s.life.lstate ∧ t.life.drkCut = s.life.drkCut ∧ t.med.harvest = s.med.harvest ∧ t.dxr.mem = s.dxr.mem := by
  simp [shown] at e
  obtain ⟨e1, e2, e3, e4, e5, e6, e7, e8, e9, e10⟩ := e
  exact ⟨e1, e2, e3, e4, e5, e6, e7, e9, e10⟩

@[simp] theorem withModes_kept {z : State} (mcause : Nat) (f : State → State) (s : State) (hf : ∀ s, Kept z (shown km s) → Kept z (shown km (f s)))
    (hz : Kept z (shown km s)) :
    Kept z (shown km (withModes mcause f s)) := by
  simp (maxDischargeDepth := 9) [withModes, hz, hf]

@[simp] theorem segWrite_kept {z : State} (n : Nat) (a : Nat) (v : Word) (be : Nat) (f : State → State) (s : State) (hf : ∀ s, Kept z (shown km s) → Kept z (shown km (f s)))
    (hz : Kept z (shown km s)) :
    Kept z (shown km (segWrite n a v be f s)) := by
  simp (maxDischargeDepth := 9) [segWrite, hz, hf]

theorem onMem_kept {z : State} (key : Nat) (f : List Host.Cell → List Host.Cell) (s : State) (hf : ∀ m, cellsWf m = true → cellsWf (f m) = true)
   
    (hz : Kept z (shown km s)) : Kept z (shown km (onMem key f s)) := by
  obtain ⟨g, h⟩ := (kept_iff _ _).mp hz
  exact (kept_iff _ _).mpr ⟨⟨g.drkCut, g.floor, g.harvest⟩, ⟨onMem_wf key f s h.mem hf, h.vaultLevel, h.scrapLevel, h.resetLevel, h.offLevel, h.testLevel, h.vaultState⟩⟩

@[simp] theorem writeMem_kept {z : State} (key : Nat) (a : Nat) (l : List Byte) (s : State) (hz : Kept z (shown km s)) :
    Kept z (shown km (writeMem key a l s)) := by
  exact onMem_kept _ _ _ (fun _ h => cellsWf_putBytes _ _ h) hz

@[simp] theorem clearMem_kept {z : State} (key : Nat) (a : Nat) (n : Nat) (s : State) (hz : Kept z (shown km s)) :
    Kept z (shown km (clearMem key a n s)) := by
  exact onMem_kept _ _ _ (fun _ h => cellsWf_clearBytes _ _ h) hz

@[simp] theorem clearCore_kept {z : State} (k : Nat) (s : State) (hz : Kept z (shown km s)) : Kept z (shown km (clearCore k s)) := by
  simp (maxDischargeDepth := 9) [clearCore, hz]

@[simp] theorem cleanRun_kept {z : State} (r : Nat) (s : State) (hz : Kept z (shown km s)) : Kept z (shown km (cleanRun r s)) := by
  have h2 : ∀ (s : State) (a : Zst) (b : Cry), shown km { s with zst := a, cry := b } = shown km s := by intro s a b; simp [shown]
  unfold cleanRun
  (repeat' split) <;> simp (maxDischargeDepth := 9) [h2, hz]

@[simp] theorem dropRuns_kept {z : State} (f : Nat) (s : State) (hz : Kept z (shown km s)) : Kept z (shown km (dropRuns f s)) := by
  unfold dropRuns
  (repeat' split) <;> simp_all (maxDischargeDepth := 9)

@[simp] theorem resetFunction_kept {z : State} (f : Nat) (s : State) (hz : Kept z (shown km s)) :
    Kept z (shown km (resetFunction f s)) := by
  simp (maxDischargeDepth := 9) [resetFunction, hz]

@[simp] theorem execFunctionDisable_kept {z : State} (t : Nat) (f : Nat) (ctl : Nat) (s : State) (s0 : State)
    (hz : Kept z (shown km s)) :
    Kept z (shown km (after (execFunctionDisable t f ctl s) s0)) := by
  simp (maxDischargeDepth := 9) [execFunctionDisable, hz]
  (repeat' split) <;> simp_all (maxDischargeDepth := 9)

@[simp] theorem resetVfs_kept {z : State} (p : Nat → Bool) (s : State) (hz : Kept z (shown km s)) :
    Kept z (shown km (resetVfs p s)) := by
  unfold resetVfs
  (repeat' split) <;> simp_all (maxDischargeDepth := 9)

theorem execFunctionLevelReset_kept {z : State} (t : Nat) (f : Nat) (s : State) (s0 : State) (hz : Kept z (shown km s)) :
    Kept z (shown km (after (execFunctionLevelReset t f s) s0)) := by
  simp (maxDischargeDepth := 9) [execFunctionLevelReset, hz]

theorem execSriovVfChange_kept {z : State} (t : Nat) (ve : Bool) (num : Nat) (s : State) (s0 : State)
    (hz : Kept z (shown km s)) :
    Kept z (shown km (after (execSriovVfChange t ve num s) s0)) := by
  simp (maxDischargeDepth := 9) [execSriovVfChange, hz]

@[simp] theorem checkHarvest_kept {z : State} (s : State) (hz : Kept z (shown km s)) : Kept z (shown km (checkHarvest s)) := by
  have h2 : ∀ s, Kept z (shown km s) → Kept z (shown km (withModes 1 (onMed fun m => { m with harvest := true }) s)) := by
    intro s hz
    refine withModes_kept _ _ _ ?_ hz
    intro s hz
    obtain ⟨g, h⟩ := (kept_iff _ _).mp hz
    exact (kept_iff _ _).mpr ⟨⟨g.drkCut, g.floor, fun _ => rfl⟩, ⟨h.mem, h.vaultLevel, h.scrapLevel, h.resetLevel, h.offLevel, h.testLevel, h.vaultState⟩⟩
  unfold checkHarvest
  simp only
  (repeat' split) <;> simp (maxDischargeDepth := 9) [h2, hz]

@[simp] theorem retireBlockF_kept {z : State} (ef : Nat) (d : Nat) (b : Nat) (cause : Nat) (s : State) (hz : Kept z (shown km s)) :
    Kept z (shown km (retireBlockF ef d b cause s)) := by
  unfold retireBlockF
  try dsimp only
  (repeat' split) <;> (try simp (maxDischargeDepth := 9) [hz]) <;> (repeat (refine kept_of_pair (by assumption) ?_; simp (maxDischargeDepth := 9) [hz]))

@[simp] theorem retireBlock_kept {z : State} (d : Nat) (b : Nat) (cause : Nat) (s : State) (hz : Kept z (shown km s)) :
    Kept z (shown km (retireBlock d b cause s)) := by
  unfold retireBlock
  try dsimp only
  (repeat' split) <;> (try simp (maxDischargeDepth := 9) [hz]) <;> (repeat (refine kept_of_pair (by assumption) ?_; simp (maxDischargeDepth := 9) [hz]))

theorem execSlcMove_kept {z : State} (t : Nat) (seg : Nat) (bad : List (Nat × Nat × Nat)) (s : State) (s0 : State) (hz : Kept z (shown km s)) :
    Kept z (shown km (after (execSlcMove t seg bad s) s0)) := by
  unfold execSlcMove
  try dsimp only
  (repeat' split) <;> (try simp (maxDischargeDepth := 9) [hz]) <;> (repeat (refine kept_of_pair (by assumption) ?_; simp (maxDischargeDepth := 9) [hz]))

theorem execGarbageCollection_kept {z : State} (t : Nat) (seg : Nat) (bad : List (Nat × Nat × Nat)) (s : State) (s0 : State) (hz : Kept z (shown km s)) :
    Kept z (shown km (after (execGarbageCollection t seg bad s) s0)) := by
  unfold execGarbageCollection
  try dsimp only
  (repeat' split) <;> (try simp (maxDischargeDepth := 9) [hz]) <;> (repeat (refine kept_of_pair (by assumption) ?_; simp (maxDischargeDepth := 9) [hz]))

@[simp] theorem foreground_kept {z : State} (key : Nat) (seg : Nat) (n : Nat) (cls : Nat) (s : State) (hz : Kept z (shown km s)) :
    Kept z (shown km (foreground key seg n cls s).2) := by
  unfold foreground
  try dsimp only
  (repeat' split) <;> (try simp (maxDischargeDepth := 9) [hz]) <;> (repeat (refine kept_of_pair (by assumption) ?_; simp (maxDischargeDepth := 9) [hz]))

theorem execWearMove_kept {z : State} (t : Nat) (seg : Nat) (bad : List (Nat × Nat × Nat)) (s : State) (s0 : State) (hz : Kept z (shown km s)) :
    Kept z (shown km (after (execWearMove t seg bad s) s0)) := by
  unfold execWearMove
  try dsimp only
  (repeat' split) <;> (try simp (maxDischargeDepth := 9) [hz]) <;> (repeat (refine kept_of_pair (by assumption) ?_; simp (maxDischargeDepth := 9) [hz]))

@[simp] theorem queueRefresh_kept {z : State} (k : Nat) (l : List (Nat × Nat)) (s : State) (hz : Kept z (shown km s)) :
    Kept z (shown km (queueRefresh k l s)) := by
  unfold queueRefresh
  exact kept_foldl _ _ (fun s a h => retireBlock_kept _ _ _ _ h) _ (by simp [hz])

theorem execRetentionRefresh_kept {z : State} (t : Nat) (k : Nat) (s : State) (s0 : State) (hz : Kept z (shown km s)) :
    Kept z (shown km (after (execRetentionRefresh t k s) s0)) := by
  unfold execRetentionRefresh
  try dsimp only
  (repeat' split) <;> (try simp (maxDischargeDepth := 9) [hz]) <;> (repeat (refine kept_of_pair (by assumption) ?_; simp (maxDischargeDepth := 9) [hz]))

theorem execAgeRefresh_kept {z : State} (t : Nat) (k : Nat) (s : State) (s0 : State) (hz : Kept z (shown km s)) :
    Kept z (shown km (after (execAgeRefresh t k s) s0)) := by
  simp (maxDischargeDepth := 9) [execAgeRefresh, hz]
  (repeat' split) <;> simp_all (maxDischargeDepth := 9)

@[simp] theorem track_kept {z : State} (f : State → State) (s : State) (hf : ∀ s, Kept z (shown km s) → Kept z (shown km (f s)))
    (hz : Kept z (shown km s)) :
    Kept z (shown km (track f s)) := by
  simp (maxDischargeDepth := 9) [track, hz, hf]

@[simp] theorem serve_kept {z : State} (op : Nat) (id : Nat) (f : Flight → State → State) (s : State) (s0 : State) (hf : ∀ c s, Kept z (shown km s) → Kept z (shown km (f c s)))
    (hz : Kept z (shown km s)) :
    Kept z (shown km (after (serve op id f s) s0)) := by
  unfold serve
  (repeat' split) <;> simp_all (maxDischargeDepth := 9)

@[simp] theorem maint_kept {z : State} (kind : Nat) (id : Nat) (f : Flight → State → State) (s : State) (s0 : State) (hf : ∀ c s, Kept z (shown km s) → Kept z (shown km (f c s)))
    (hz : Kept z (shown km s)) :
    Kept z (shown km (after (maint kind id f s) s0)) := by
  unfold maint
  (repeat' split) <;> simp_all (maxDischargeDepth := 9)

theorem execMaintCompact_kept {z : State} (t : Nat) (id : Nat) (s : State) (s0 : State) (hz : Kept z (shown km s)) :
    Kept z (shown km (after (execMaintCompact t id s) s0)) := by
  unfold execMaintCompact
  refine maint_kept _ _ _ _ _ (fun c s hz => ?_) (by simp [hz])
  try dsimp only
  (repeat' split) <;> (try simp (maxDischargeDepth := 9) [hz]) <;> (repeat (refine kept_of_pair (by assumption) ?_; simp (maxDischargeDepth := 9) [hz]))

theorem execSealServiceStart_kept {z : State} (t k : Nat) (s : State) (s0 : State) (hz : Kept z (shown km s)) :
    Kept z (shown km (after (execSealServiceStart t k s) s0)) := by
  unfold execSealServiceStart
  try dsimp only
  (repeat' split) <;> (try simp (maxDischargeDepth := 9) [hz]) <;> (repeat (refine kept_of_pair (by assumption) ?_; simp (maxDischargeDepth := 9) [hz]))

@[simp] theorem makeWay_kept {z : State} (key : Nat) (cls : Nat) (x : Ns) (a : Nat) (k : Nat) (s : State) (hz : Kept z (shown km s)) :
    Kept z (shown km (makeWay key cls x a k s).2) := by
  unfold makeWay
  refine kept_foldl_snd _ _ (fun p m hz => ?_) _ hz
  (repeat' split) <;> (try simp (maxDischargeDepth := 9) [hz]) <;> (repeat (refine kept_of_pair (by assumption) ?_; simp (maxDischargeDepth := 9) [hz]))

@[simp] theorem writeData_kept {z : State} (n : Nat) (x : Ns) (cls a k : Nat) (keep : List Nat) (d : List Byte) (bad : List Nat) (s : State) (hz : Kept z (shown km s)) :
    Kept z (shown km (writeData n x cls a k keep d bad s).2) := by
  unfold writeData
  try dsimp only
  (repeat' split) <;> (try simp (maxDischargeDepth := 9) [hz]) <;> (repeat (refine kept_of_pair (by assumption) ?_; simp (maxDischargeDepth := 9) [hz]))

theorem execWriteBlocks_kept {z : State} (t : Nat) (id : Nat) (data : Option (List Byte)) (bad : List Nat) (s : State) (s0 : State) (hz : Kept z (shown km s)) :
    Kept z (shown km (after (execWriteBlocks t id data bad s) s0)) := by
  unfold execWriteBlocks
  refine serve_kept _ _ _ _ _ (fun c s hz => ?_) (by simp [hz])
  dsimp only
  split
  · simp (maxDischargeDepth := 9) [hz]
  split
  · simp (maxDischargeDepth := 9) [hz]
  split
  · simp (maxDischargeDepth := 9) [hz]
  split
  · exact hz
  split
  · rename_i h; exact kept_of_pair h (by simp (maxDischargeDepth := 9) [hz])
  · rename_i u hu
    have hu' : Kept z (shown km u) := kept_of_pair hu (by simp (maxDischargeDepth := 9) [hz])
    split
    · rename_i h; exact kept_of_pair h (by simp (maxDischargeDepth := 9) [hu'])
    · rename_i v hv
      have hv' : Kept z (shown km v) := kept_of_pair hv (by simp (maxDischargeDepth := 9) [hu'])
      split <;> rename_i h <;> have hw := kept_of_pair (z := z) h (by simp [hv']) <;> simp (maxDischargeDepth := 9) [hw]

@[simp] theorem eraseChecked_kept {z : State} (d : Nat) (b : Nat) (blank : Bool) (s : State) (hz : Kept z (shown km s)) :
    Kept z (shown km (eraseChecked d b blank s)) := by
  unfold eraseChecked
  split
  · exact hz
  · simp only
    split
    · simp (maxDischargeDepth := 9) [hz]
    split
    · split
      · apply retireBlock_kept; simp (maxDischargeDepth := 9) [hz]
      · simp (maxDischargeDepth := 9) [hz]
    · rw [meet_shown _ _ _ _ _ (by simp), shown_set_flw _ _ (by simp)]; exact hz

theorem execNandEraseComplete_kept {z : State} (t : Nat) (d : Nat) (ok : Bool) (raws : List (Nat × Nat)) (s : State) (s0 : State)
    (hz : Kept z (shown km s)) :
    Kept z (shown km (after (execNandEraseComplete t d ok raws s) s0)) := by
  unfold execNandEraseComplete
  try dsimp only
  (repeat' split) <;> (try simp (maxDischargeDepth := 9) [hz]) <;> (repeat (refine kept_of_pair (by assumption) ?_; simp (maxDischargeDepth := 9) [hz]))

theorem execNandProgramComplete_kept {z : State} (t : Nat) (d : Nat) (ok : Bool) (parity : Option Bool) (s : State) (s0 : State) (hz : Kept z (shown km s)) :
    Kept z (shown km (after (execNandProgramComplete t d ok parity s) s0)) := by
  unfold execNandProgramComplete
  try dsimp only
  (repeat' split) <;> (try simp (maxDischargeDepth := 9) [hz]) <;> (repeat (refine kept_of_pair (by assumption) ?_; simp (maxDischargeDepth := 9) [hz]))

@[simp] theorem refreshOf_kept {z : State} (d : Nat) (b : Nat) (s : State) (hz : Kept z (shown km s)) :
    Kept z (shown km (refreshOf d b s)) := by
  unfold refreshOf
  (repeat' split) <;> simp_all (maxDischargeDepth := 9)

@[simp] theorem readWear_kept {z : State} (d : Nat) (b : Nat) (l : List CwOut) (patrol : Bool) (x : Die) (site : Site) (s : State) (hz : Kept z (shown km s)) :
    Kept z (shown km (readWear d b l patrol x site s)) := by
  unfold readWear
  simp only
  (repeat' split) <;> simp (maxDischargeDepth := 9) [hz]

@[simp] theorem readLost_kept {z : State} (d : Nat) (b : Nat) (pg : Nat) (w : CwRead) (ef : Nat) (id : Option Nat) (x : Die) (site : Site) (s : State) (hz : Kept z (shown km s)) :
    Kept z (shown km (readLost d b pg w ef id x site s)) := by
  unfold readLost
  extract_lets whole
  have h1 : Kept z (shown km (if whole = true then meet 47 (segOfDie d) (chanOf d) w.badSum s else (false, 0, s)).2.2) := by
    split <;> simp [hz]
  generalize (if whole = true then meet 47 (segOfDie d) (chanOf d) w.badSum s else (false, 0, s)) = r at h1 ⊢
  obtain ⟨m47, e47, s1⟩ := r
  simp only at h1
  dsimp -zeta only
  extract_lets s2 e s3 s4 s5
  have h5 : Kept z (shown km s5) := by
    simp only [s5, s4, s3, s2]
    (repeat' split) <;> simp (maxDischargeDepth := 9) [h1]
  clear_value s5
  (repeat' split) <;> simp (maxDischargeDepth := 9) [h5]

@[simp] theorem pageRead_kept {z : State} (d : Nat) (b : Nat) (pg : Nat) (best : Nat) (l : List CwRead) (id : Option Nat) (x : Die) (s : State) (hz : Kept z (shown km s)) :
    Kept z (shown km (pageRead d b pg best l id x s)) := by
  unfold pageRead
  dsimp only
  (repeat' split) <;> first
    | (simp (maxDischargeDepth := 9) [hz]; done)
    | exact kept_foldl _ _ (fun s a hz => readLost_kept _ _ _ _ _ _ _ _ _ hz) _ (by simp (maxDischargeDepth := 9) [hz])

@[simp] theorem marginRead_kept {z : State} (d : Nat) (b : Nat) (pg : Nat) (l : List CwRead) (x : Die) (s : State) (hz : Kept z (shown km s)) :
    Kept z (shown km (marginRead d b pg l x s)) := by
  unfold marginRead
  try dsimp only
  (repeat' split) <;> (try simp (maxDischargeDepth := 9) [hz]) <;> (repeat (refine kept_of_pair (by assumption) ?_; simp (maxDischargeDepth := 9) [hz]))

theorem execNandReadComplete_kept {z : State} (t : Nat) (d : Nat) (b : Nat) (pg : Nat) (best : Nat) (l : List CwRead) (use : ReadUse) (s : State) (s0 : State) (hz : Kept z (shown km s)) :
    Kept z (shown km (after (execNandReadComplete t d b pg best l use s) s0)) := by
  unfold execNandReadComplete
  try dsimp only
  (repeat' split) <;> (try simp (maxDischargeDepth := 9) [hz]) <;> (repeat (refine kept_of_pair (by assumption) ?_; simp (maxDischargeDepth := 9) [hz]))

@[simp] theorem loseDie_kept {z : State} (d : Nat) (ef : Nat) (s : State) (hz : Kept z (shown km s)) :
    Kept z (shown km (loseDie d ef s)) := by
  unfold loseDie
  (repeat' split) <;> simp_all (maxDischargeDepth := 9)

theorem execNandOpTimeout_kept {z : State} (t : Nat) (d : Nat) (s : State) (s0 : State) (hz : Kept z (shown km s)) :
    Kept z (shown km (after (execNandOpTimeout t d s) s0)) := by
  simp (maxDischargeDepth := 9) [execNandOpTimeout, hz]
  (repeat' split) <;> simp_all (maxDischargeDepth := 9)

@[simp] theorem fireInstant_kept {z : State} (s : State) (hz : Kept z (shown km s)) : Kept z (shown km (fireInstant s)) := by
  unfold fireInstant
  dsimp only
  rw [fireOne_shown _ (by simp)]
  split; · simp [hz]
  split; · simp [hz]
  split; · rw [shown_foldl _ _ (fun s a => by simp)]; exact hz
  split; · simp [hz]
  split; · split <;> simp [hz]
  split <;> simp [hz]

@[simp] theorem fireAll_kept {z : State} (x0 : Nat) (x1 : State) (hz : Kept z (shown km x1)) :
    Kept z (shown km (fireAll x0 x1)) := by
  fun_induction fireAll x0 x1 <;> simp_all (maxDischargeDepth := 9)

@[simp] theorem arm_kept {z : State} (s : State) (hz : Kept z (shown km s)) : Kept z (shown km (arm s)) := by
  unfold arm
  dsimp only
  split <;> simp [hz]

@[simp] theorem intInjWrite_kept {z : State} (w : Word) (be : Nat) (s : State) (hz : Kept z (shown km s)) : Kept z (shown km (intInjWrite w be s)) := by
  unfold intInjWrite
  dsimp only
  (repeat' split) <;> simp [hz]

theorem execInjectionArm_kept {z : State} (t : Nat) (w : Word) (be : Nat) (s s0 : State) (hz : Kept z (shown km s)) :
    Kept z (shown km (after (execInjectionArm t w be s) s0)) := intInjWrite_kept w be (tick t s) (by simp [hz])

theorem execInjectionDisarm_kept {z : State} (t : Nat) (w : Word) (be : Nat) (s s0 : State) (hz : Kept z (shown km s)) :
    Kept z (shown km (after (execInjectionDisarm t w be s) s0)) := intInjWrite_kept w be (tick t s) (by simp [hz])

@[simp] theorem endRun_kept {z : State} (r : Nat) (status : Nat) (result : Nat) (code : Nat) (epc : Nat) (eaddr : Nat) (ef : Nat) (s : State)
    (hz : Kept z (shown km s)) :
    Kept z (shown km (endRun r status result code epc eaddr ef s)) := by
  unfold endRun
  (repeat' split) <;> simp_all (maxDischargeDepth := 9)

theorem execRunExit_kept {z : State} (t : Nat) (k : Nat) (s : State) (s0 : State) (hz : Kept z (shown km s)) :
    Kept z (shown km (after (execRunExit t k s) s0)) := by
  unfold execRunExit
  simp only
  have e := popHand_shown (kp := km) (fun h => match h with | .exit c _ => c == k | _ => false) (tick t s) (by simp)
  split
  · rename_i heq
    replace e := (congrArg (fun q => shown km q.2) heq).symm.trans e
    simp at e
    (repeat' split) <;> simp (maxDischargeDepth := 9) [e, hz]
  · simp [hz]

@[simp] theorem setupRun_kept {z : State} (r : Nat) (k : Nat) (x : DRun) (img : List Byte) (s : State)
    (hz : Kept z (shown km s)) :
    Kept z (shown km (setupRun r k x img s)) := by
  simp (maxDischargeDepth := 9) [setupRun, hz]

theorem execRunStart_kept {z : State} (t : Nat) (seg : Nat) (k : Nat) (w3 : Nat) (w4 : Nat) (s : State) (s0 : State)
    (hz : Kept z (shown km s)) :
    Kept z (shown km (after (execRunStart t seg k w3 w4 s) s0)) := by
  simp (maxDischargeDepth := 9) [execRunStart, hz]
  (repeat' split) <;> simp_all (maxDischargeDepth := 9)

@[simp] theorem restartRun_kept {z : State} (r : Nat) (s : State) (hz : Kept z (shown km s)) : Kept z (shown km (restartRun r s)) := by
  unfold restartRun
  (repeat' split) <;> simp_all (maxDischargeDepth := 9)

@[simp] theorem markStale_kept {z : State} (k : Nat) (key : Nat) (a : Nat) (x3 : List Byte) (x4 : State)
    (hz : Kept z (shown km x4)) :
    Kept z (shown km (markStale k key a x3 x4)) := by
  fun_induction markStale k key a x3 x4 <;> simp_all (maxDischargeDepth := 9)

@[simp] theorem storeAt_kept {z : State} (k : Nat) (x : Target) (l : List Byte) (s : State) (hz : Kept z (shown km s)) :
    Kept z (shown km (storeAt k x l s)) := by
  unfold storeAt
  (repeat' split) <;> simp_all (maxDischargeDepth := 9)

@[simp] theorem doStores_kept {z : State} (k : Nat) (l : List (Kind × Nat × List Byte)) (s : State) (hz : Kept z (shown km s)) :
    Kept z (shown km (doStores k l s)) := by
  unfold doStores
  refine kept_foldl _ _ (fun s a h => ?_) _ hz
  (repeat' split) <;> simp_all (maxDischargeDepth := 9)

@[simp] theorem takeExc_kept {z : State} (k : Nat) (e : Exc) (epc : Nat) (ef : Nat) (s : State) (hz : Kept z (shown km s)) :
    Kept z (shown km (takeExc k e epc ef s)) := by
  simp (maxDischargeDepth := 9) [takeExc, hz]
  (repeat' split) <;> simp_all (maxDischargeDepth := 9)

@[simp] theorem commit_kept {z : State} (k : Nat) (c : DCore) (m : Tab Nat) (l : List Syl) (next : Nat) (s : State)
    (hz : Kept z (shown km s)) :
    Kept z (shown km (commit k c m l next s)) := by
  unfold commit
  (repeat' split) <;> simp_all (maxDischargeDepth := 9)

@[simp] theorem finish_kept {z : State} (k : Nat) (e : Option Exc) (s : State) (hz : Kept z (shown km s)) :
    Kept z (shown km (finish k e s)) := by
  unfold finish
  (repeat' split) <;> simp_all (maxDischargeDepth := 9)

@[simp] theorem execSyls_kept {z : State} (k : Nat) (way : Issue) (b : Bundle) (next : Nat) (s : State)
    (hz : Kept z (shown km s)) :
    Kept z (shown km (execSyls k way b next s).2) := by
  simp (maxDischargeDepth := 9) [execSyls, hz]
  (repeat' split) <;> simp_all (maxDischargeDepth := 9)

@[simp] theorem issuePlain_kept {z : State} (k : Nat) (way : Issue) (b : Bundle) (words : List Word) (s : State)
    (hz : Kept z (shown km s)) :
    Kept z (shown km (issuePlain k way b words s)) := by
  simp (maxDischargeDepth := 9) [issuePlain, hz]
  (repeat' split) <;> simp_all (maxDischargeDepth := 9)

@[simp] theorem repPass_kept {z : State} (k : Nat) (way : Issue) (b : Bundle) (s : State) (hz : Kept z (shown km s)) :
    Kept z (shown km (repPass k way b s)) := by
  simp (maxDischargeDepth := 9) [repPass, hz]

@[simp] theorem requeueRun_kept {z : State} (r : Nat) (s : State) (hz : Kept z (shown km s)) : Kept z (shown km (requeueRun r s)) := by
  unfold requeueRun
  (repeat' split) <;> simp_all (maxDischargeDepth := 9)

@[simp] theorem lastHouse_kept {z : State} (seg : Nat) (s : State) (hz : Kept z (shown km s)) :
    Kept z (shown km (lastHouse seg s)) := by
  unfold lastHouse
  (repeat' split) <;> simp_all (maxDischargeDepth := 9)

@[simp] theorem quarantineCore_kept {z : State} (k : Nat) (s : State) (hz : Kept z (shown km s)) :
    Kept z (shown km (quarantineCore k s)) := by
  simp (maxDischargeDepth := 9) [quarantineCore, hz]

@[simp] theorem coreFault_kept {z : State} (k : Nat) (dt : Nat) (ef : Nat) (s : State) (hz : Kept z (shown km s)) :
    Kept z (shown km (coreFault k dt ef s)) := by
  simp (maxDischargeDepth := 9) [coreFault, hz]
  (repeat' split) <;> simp_all (maxDischargeDepth := 9)

@[simp] theorem issueChecks_kept {z : State} (k : Nat) (way : Issue) (s : State) (hz : Kept z (shown km s)) :
    Kept z (shown km (issueChecks k way s).2) := by
  simp (maxDischargeDepth := 9) [issueChecks, hz]

@[simp] theorem issueBundle_kept {z : State} (k : Nat) (way : Issue) (s : State) (hz : Kept z (shown km s)) :
    Kept z (shown km (issueBundle k way s)) := by
  simp (maxDischargeDepth := 9) [issueBundle, hz]
  (repeat' split) <;> simp_all (maxDischargeDepth := 9)

theorem execBundleIssue_kept {z : State} (t : Nat) (k : Nat) (way : Issue) (s : State) (s0 : State)
    (hz : Kept z (shown km s)) :
    Kept z (shown km (after (execBundleIssue t k way s) s0)) := by
  simp (maxDischargeDepth := 9) [execBundleIssue, hz]

@[simp] theorem issuePass_kept {z : State} (k : Nat) (way : Issue) (s : State) (hz : Kept z (shown km s)) :
    Kept z (shown km (issuePass k way s)) := by
  simp (maxDischargeDepth := 9) [issuePass, hz]
  (repeat' split) <;> simp_all (maxDischargeDepth := 9)

theorem execRepPass_kept {z : State} (t : Nat) (k : Nat) (way : Issue) (s : State) (s0 : State)
    (hz : Kept z (shown km s)) :
    Kept z (shown km (after (execRepPass t k way s) s0)) := by
  simp (maxDischargeDepth := 9) [execRepPass, hz]

@[simp] theorem finishGet_kept {z : State} (k : Nat) (tok : Nat) (s : State) (hz : Kept z (shown km s)) :
    Kept z (shown km (finishGet k tok s)) := by
  simp (maxDischargeDepth := 9) [finishGet, hz]
  (repeat' split) <;> simp_all (maxDischargeDepth := 9)

theorem execGetDeliver_kept {z : State} (t : Nat) (seg : Nat) (s : State) (s0 : State) (hz : Kept z (shown km s)) :
    Kept z (shown km (after (execGetDeliver t seg s) s0)) := by
  simp (maxDischargeDepth := 9) [execGetDeliver, hz]
  (repeat' split) <;> simp_all (maxDischargeDepth := 9)

theorem execBudgetException_kept {z : State} (t : Nat) (k : Nat) (s : State) (s0 : State) (hz : Kept z (shown km s)) :
    Kept z (shown km (after (execBudgetException t k s) s0)) := by
  simp (maxDischargeDepth := 9) [execBudgetException, hz]

theorem execEventException_kept {z : State} (t : Nat) (k : Nat) (s : State) (s0 : State) (hz : Kept z (shown km s)) :
    Kept z (shown km (after (execEventException t k s) s0)) := by
  simp (maxDischargeDepth := 9) [execEventException, hz]

@[simp] theorem jobResult_kept {z : State} (k : Nat) (source : Nat) (status : Nat) (result : List Byte) (res : Nat) (notify : Bool) (s : State)
    (hz : Kept z (shown km s)) :
    Kept z (shown km (jobResult k source status result res notify s)) := by
  simp (maxDischargeDepth := 9) [jobResult, hz]
  (repeat' split) <;> simp_all (maxDischargeDepth := 9)

@[simp] theorem zjEnd_kept {z : State} (k : Nat) (d : List Byte) (status : Nat) (reason : Nat) (inDone : Nat) (outDone : Nat) (crc : Nat) (s : State)
    (hz : Kept z (shown km s)) :
    Kept z (shown km (zjEnd k d status reason inDone outDone crc s)) := by
  simp (maxDischargeDepth := 9) [zjEnd, hz]

@[simp] theorem zjSubmit_kept {z : State} (k : Nat) (d : List Byte) (s : State) (hz : Kept z (shown km s)) :
    Kept z (shown km (zjSubmit k d s)) := by
  unfold zjSubmit
  try dsimp only
  (repeat' split) <;> (try simp (maxDischargeDepth := 9) [hz]) <;> (repeat (refine kept_of_pair (by assumption) ?_; simp (maxDischargeDepth := 9) [hz]))

theorem execZestCompressJob_kept {z : State} (t : Nat) (k : Nat) (s : State) (s0 : State) (hz : Kept z (shown km s)) :
    Kept z (shown km (after (execZestCompressJob t k s) s0)) := by
  unfold execZestCompressJob
  have e := zjTake_shown (kp := km) k (· != 2) (tick t s) (by simp)
  split <;> rename_i heq <;> replace e := (congrArg (fun q => shown km q.2) heq).symm.trans e <;> simp at e <;> simp (maxDischargeDepth := 9) [e, hz]

theorem execZestDecompressJob_kept {z : State} (t : Nat) (k : Nat) (s : State) (s0 : State) (hz : Kept z (shown km s)) :
    Kept z (shown km (after (execZestDecompressJob t k s) s0)) := by
  unfold execZestDecompressJob
  have e := zjTake_shown (kp := km) k (· == 2) (tick t s) (by simp)
  split <;> rename_i heq <;> replace e := (congrArg (fun q => shown km q.2) heq).symm.trans e <;> simp at e <;> simp (maxDischargeDepth := 9) [e, hz]

@[simp] theorem zjFinish_kept {z : State} (j : ZJob) (bad : List Nat) (s : State) (hz : Kept z (shown km s)) :
    Kept z (shown km (zjFinish j bad s)) := by
  simp (maxDischargeDepth := 9) [zjFinish, hz]

theorem execZestJobComplete_kept {z : State} (t : Nat) (seg : Nat) (comp : Bool) (bad : List Nat) (s : State) (s0 : State) (hz : Kept z (shown km s)) :
    Kept z (shown km (after (execZestJobComplete t seg comp bad s) s0)) := by
  unfold execZestJobComplete
  try dsimp only
  (repeat' split) <;> (try simp (maxDischargeDepth := 9) [hz]) <;> (repeat (refine kept_of_pair (by assumption) ?_; simp (maxDischargeDepth := 9) [hz]))

@[simp] theorem cjEnd_kept {z : State} (k : Nat) (d : List Byte) (status : Nat) (cmp : Option Bool) (h : Nat) (inDone : Nat) (outDone : Nat) (s : State)
    (hz : Kept z (shown km s)) :
    Kept z (shown km (cjEnd k d status cmp h inDone outDone s)) := by
  simp (maxDischargeDepth := 9) [cjEnd, hz]

@[simp] theorem cjSubmit_kept {z : State} (k : Nat) (d : List Byte) (s : State) (hz : Kept z (shown km s)) :
    Kept z (shown km (cjSubmit k d s)) := by
  simp (maxDischargeDepth := 9) [cjSubmit, hz]
  (repeat' split) <;> simp_all (maxDischargeDepth := 9)

@[simp] theorem cjRow_kept {z : State} (t : Nat) (k : Nat) (f : Nat → Bool) (s : State) (s0 : State) (hz : Kept z (shown km s)) :
    Kept z (shown km (after (cjRow t k f s) s0)) := by
  unfold cjRow
  have e := cjTake_shown (kp := km) k f (tick t s) (by simp)
  split <;> rename_i heq <;> replace e := (congrArg (fun q => shown km q.2) heq).symm.trans e <;> simp at e <;> simp (maxDischargeDepth := 9) [e, hz]

theorem execCryptoInit_kept {z : State} (t : Nat) (k : Nat) (s : State) (s0 : State) (hz : Kept z (shown km s)) :
    Kept z (shown km (after (execCryptoInit t k s) s0)) := by
  simp (maxDischargeDepth := 9) [execCryptoInit, hz]

theorem execCryptoUpdate_kept {z : State} (t : Nat) (k : Nat) (s : State) (s0 : State) (hz : Kept z (shown km s)) :
    Kept z (shown km (after (execCryptoUpdate t k s) s0)) := by
  simp (maxDischargeDepth := 9) [execCryptoUpdate, hz]

theorem execCryptoFinal_kept {z : State} (t : Nat) (k : Nat) (s : State) (s0 : State) (hz : Kept z (shown km s)) :
    Kept z (shown km (after (execCryptoFinal t k s) s0)) := by
  simp (maxDischargeDepth := 9) [execCryptoFinal, hz]

theorem execCryptoFree_kept {z : State} (t : Nat) (k : Nat) (s : State) (s0 : State) (hz : Kept z (shown km s)) :
    Kept z (shown km (after (execCryptoFree t k s) s0)) := by
  simp (maxDischargeDepth := 9) [execCryptoFree, hz]

theorem execCryptoOneshot_kept {z : State} (t : Nat) (k : Nat) (s : State) (s0 : State) (hz : Kept z (shown km s)) :
    Kept z (shown km (after (execCryptoOneshot t k s) s0)) := by
  simp (maxDischargeDepth := 9) [execCryptoOneshot, hz]

theorem execCryptoChainCheck_kept {z : State} (t : Nat) (k : Nat) (s : State) (s0 : State) (hz : Kept z (shown km s)) :
    Kept z (shown km (after (execCryptoChainCheck t k s) s0)) := by
  simp (maxDischargeDepth := 9) [execCryptoChainCheck, hz]

theorem execCryptoRandom_kept {z : State} (t : Nat) (k : Nat) (s : State) (s0 : State) (hz : Kept z (shown km s)) :
    Kept z (shown km (after (execCryptoRandom t k s) s0)) := by
  simp (maxDischargeDepth := 9) [execCryptoRandom, hz]

@[simp] theorem cjFail_kept {z : State} (n : Nat) (j : CJob) (s : State) (hz : Kept z (shown km s)) :
    Kept z (shown km (cjFail n j s)) := by
  simp (maxDischargeDepth := 9) [cjFail, hz]

@[simp] theorem cjRetry_kept {z : State} (n : Nat) (j : CJob) (lane : Option Nat) (ef : Nat) (s : State) (hz : Kept z (shown km s)) :
    Kept z (shown km (cjRetry n j lane ef s)) := by
  unfold cjRetry
  (repeat' split) <;> simp_all (maxDischargeDepth := 9)

@[simp] theorem cjStore_kept {z : State} (n : Nat) (j : CJob) (r : CDone) (read : Nat) (s : State) (hz : Kept z (shown km s)) :
    Kept z (shown km (cjStore n j r read s)) := by
  unfold cjStore
  (repeat' split) <;> simp_all (maxDischargeDepth := 9)

@[simp] theorem cjFinish_kept {z : State} (n : Nat) (j : CJob) (flags_ : Bool) (s : State) (hz : Kept z (shown km s)) :
    Kept z (shown km (cjFinish n j flags_ s)) := by
  simp (maxDischargeDepth := 9) [cjFinish, hz]

theorem execCryptoJobComplete_kept {z : State} (t : Nat) (n : Nat) (bus : Bool) (differ : Bool) (flags_ : Bool) (lane : Nat) (finds : List SramFind) (s : State) (s0 : State) (hz : Kept z (shown km s)) :
    Kept z (shown km (after (execCryptoJobComplete t n bus differ flags_ lane finds s) s0)) := by
  simp (maxDischargeDepth := 9) [execCryptoJobComplete, hz]
  (repeat' split) <;> simp_all (maxDischargeDepth := 9)

theorem kept_level {z s t : State} (hz :
    Kept z (shown km s)) (e : shown kl t = shown kl s) (hv : s.life.vault = true → t.dbg.level ≠ .full)
    (h : t.dbg.level ≠ .closed → s.life.lstate ≠ .scrapped ∧ s.boot.inReset = false ∧ s.boot.powered = true ∧ s.boot.testMode = false) :
    Kept z (shown km t) := by
  obtain ⟨g, k⟩ := (kept_iff _ _).mp hz
  obtain ⟨e1, e2, e3, e4, e5, e6, e7, e9, e10⟩ := kl_fields e
  refine (kept_iff _ _).mpr ⟨⟨?_, ?_, ?_⟩, ⟨?_, ?_, ?_, ?_, ?_, ?_, ?_⟩⟩
  · rw [e7]; exact g.drkCut
  · rw [e4]; exact g.floor
  · rw [e9]; exact g.harvest
  · rw [e10]; exact k.mem
  · rw [e5]; exact hv
  · rw [e6]; intro q; refine Classical.byContradiction fun c => ?_; exact (h c).1 q
  · rw [e2]; intro q; refine Classical.byContradiction fun c => ?_; simp [(h c).2.1] at q
  · rw [e1]; intro q; refine Classical.byContradiction fun c => ?_; simp [(h c).2.2.1] at q
  · rw [e3]; intro q; refine Classical.byContradiction fun c => ?_; simp [(h c).2.2.2] at q
  · rw [e5, e6]; exact k.vaultState

/-- With no session open, only the memories, what grows and VAULT's states are left to show. -/
theorem kept_closed {z s t : State} (hz : Kept z (shown km s)) (c : t.dbg.level = .closed) (m : Memory.wf t.dxr.mem = true) (d : s.life.drkCut = true → t.life.drkCut = true)
    (f : s.boot.floor ≤ t.boot.floor) (hv : s.med.harvest = true → t.med.harvest = true) (v : t.life.vault = true → t.life.lstate = .provisioned ∨ t.life.lstate = .sealed) : Kept z (shown km t) := by
  obtain ⟨g, -⟩ := (kept_iff _ _).mp hz
  exact (kept_iff _ _).mpr ⟨⟨fun h => d (g.drkCut h), Nat.le_trans g.floor f, fun h => hv (g.harvest h)⟩,
    ⟨m, fun _ => by simp [c], fun _ => c, fun _ => c, fun _ => c, fun _ => c, v⟩⟩

theorem setLevel_level (l : DLevel) (s : State) : (setLevel l s).dbg.level = l := by
  have e : shown klv (setLevel l s) = shown klv (if s.dbg.level = l then s else onDbg (fun d => { d with level := l }) (sleepShallow l s)) := by
    unfold setLevel
    split
    · rfl
    · simp only [withModes, track]
      rw [shown_foldl _ _ (fun s a => by split <;> simp)]
      (repeat' split) <;> simp
  have e := klv_fields e
  rw [e]
  split
  · assumption
  · rfl

theorem setLevel_kept {z : State} (l : DLevel) (s : State) (hz : Kept z (shown km s)) (hv : s.life.vault = true → l ≠ .full)
    (h : l ≠ .closed → s.life.lstate ≠ .scrapped ∧ s.boot.inReset = false ∧ s.boot.powered = true ∧ s.boot.testMode = false) :
    Kept z (shown km (setLevel l s)) :=
  kept_level hz (setLevel_shown _ _ (by simp)) (by rw [setLevel_level]; exact hv) (by rw [setLevel_level]; exact h)

@[simp] theorem setLevel_closed_kept {z : State} (s : State) (hz : Kept z (shown km s)) : Kept z (shown km (setLevel .closed s)) :=
  setLevel_kept _ _ hz (fun _ => by simp) (fun h => absurd rfl h)

theorem enterLife_lstate (l : LState) (s : State) : (enterLife l s).life.lstate = l := by
  have e : shown kls (enterLife l s) = shown kls (onLife (fun x => { x with lstate := l, since := s.cad.frame }) s) := by
    unfold enterLife; simp
  exact kls_fields e

theorem transition_kept {z : State} (l : LState) (s : State) (hz : Kept z (shown km s)) (h : s.life.vault = true → l = .provisioned ∨ l = .sealed) :
    Kept z (shown km (transition l s)) := by
  have e : shown kt (transition l s) = shown kt s := by unfold transition; simp
  have e0 : shown kls (transition l s) = shown kls (enterLife l s) := by unfold transition; simp
  have el : shown klv (transition l s) = shown klv (setLevel .closed (enterLife l s)) := by unfold transition; simp
  have e1 := (kls_fields e0).trans (enterLife_lstate l s)
  have e2 := (klv_fields el).trans (setLevel_level .closed _)
  obtain ⟨e4, e5, e7, e9, e10⟩ := kt_fields e
  obtain ⟨-, k⟩ := (kept_iff _ _).mp hz
  exact kept_closed hz e2 (e10 ▸ k.mem) (by rw [e7]; exact id) (Nat.le_of_eq e4.symm) (by rw [e9]; exact id) (by rw [e5, e1]; exact h)

@[simp] theorem enterReturned_kept {z : State} (s : State) (hz : Kept z (shown km s)) : Kept z (shown km (enterReturned s)) := by
  have e : shown ku (enterReturned s) = shown ku s := by unfold enterReturned; simp
  have e0 : shown kvt (enterReturned s) = shown kvt (onLife (fun l => { l with vault := false }) s) := by unfold enterReturned; simp
  have el : shown klv (enterReturned s) = shown klv (setLevel .closed (disableSlots (enterLife .returned (onLife (fun l => { l with vault := false }) s)))) := by unfold enterReturned; simp
  have e2 := (klv_fields el).trans (setLevel_level .closed _)
  have e5 : (enterReturned s).life.vault = false := kvt_fields e0
  obtain ⟨e4, e7, e9, e10⟩ := ku_fields e
  obtain ⟨-, k⟩ := (kept_iff _ _).mp hz
  exact kept_closed hz e2 (e10 ▸ k.mem) (by rw [e7]; exact id) (Nat.le_of_eq e4.symm) (by rw [e9]; exact id) (by rw [e5]; exact fun h => absurd h (by simp))

theorem vaultEnter_kept {z : State} (s : State) (hz : Kept z (shown km s)) (hl : lcsListed s 4 = true) :
    Kept z (shown km (lcsEffect 4 s)) := by
  simp only [lcsEffect]
  split
  · exact hz
  · have hst : s.life.lstate = .provisioned ∨ s.life.lstate = .sealed := by simpa [lcsListed] using hl
    generalize hq : withModes 1 (fun s => commitLife (onLife (fun l => { l with vault := true, vaultFrame := s.cad.frame }) s)) s = q
    have e : shown kw q = shown kw s := by rw [← hq]; unfold withModes; simp
    obtain ⟨e1, e2, e3, e4, e6, e7, e8, e9, e10⟩ := kw_fields e
    obtain ⟨g, k⟩ := (kept_iff _ _).mp hz
    have base : q.dbg.level ≠ .full → Kept z (shown km q) := fun n => by
      refine (kept_iff _ _).mpr ⟨⟨?_, ?_, ?_⟩, ⟨?_, fun _ => n, ?_, ?_, ?_, ?_, fun _ => by rw [e6]; exact hst⟩⟩
      · rw [e7]; exact g.drkCut
      · rw [e4]; exact g.floor
      · rw [e9]; exact g.harvest
      · rw [e10]; exact k.mem
      · rw [e6, e8]; exact k.scrapLevel
      · rw [e2, e8]; exact k.resetLevel
      · rw [e1, e8]; exact k.offLevel
      · rw [e3, e8]; exact k.testLevel
    split
    · rename_i hf
      have f := setLevel_shown (kp := kl) .observe q (by simp)
      obtain ⟨f1, f2, f3, f4, f5, f6, f7, f9, f10⟩ := kl_fields f
      have fl := setLevel_level .observe q
      rw [e8] at hf
      refine (kept_iff _ _).mpr ⟨⟨?_, ?_, ?_⟩, ⟨?_, fun _ => by simp [fl], ?_, ?_, ?_, ?_, fun _ => by rw [f6, e6]; exact hst⟩⟩
      · rw [f7, e7]; exact g.drkCut
      · rw [f4, e4]; exact g.floor
      · rw [f9, e9]; exact g.harvest
      · rw [f10, e10]; exact k.mem
      · rw [f6, e6]; intro c; rcases hst with h | h <;> simp [h] at c
      · rw [f2, e2]; intro c; simp [k.resetLevel c] at hf
      · rw [f1, e1]; intro c; simp [k.offLevel c] at hf
      · rw [f3, e3]; intro c; simp [k.testLevel c] at hf
    · rename_i hf
      exact base hf

theorem lcsEffect_kept {z : State} (op : Nat) (s : State) (hz : Kept z (shown km s)) (hl : lcsListed s op = true) : Kept z (shown km (lcsEffect op s)) := by
  by_cases h4 : op = 4
  · subst h4; exact vaultEnter_kept s hz hl
  · unfold lcsEffect
    split
    · simp [hz]
    · refine transition_kept _ _ ?_ (fun _ => .inl rfl)
      simp [hz]
    · exact transition_kept _ _ hz (fun _ => .inr rfl)
    · exact absurd rfl h4
    · simp [hz]
    · obtain ⟨g, k⟩ := (kept_iff _ _).mp hz
      have hr : s.life.lstate = .returned := by simpa [lcsListed] using hl
      have hv : s.life.vault ≠ true := fun c => by rcases k.vaultState c with h | h <;> simp [hr] at h
      refine transition_kept _ _ ?_ (fun c => absurd c hv)
      exact (kept_iff _ _).mpr ⟨⟨fun _ => rfl, g.floor, g.harvest⟩, ⟨k.mem, k.vaultLevel, k.scrapLevel, k.resetLevel, k.offLevel, k.testLevel, k.vaultState⟩⟩
    · exact hz

@[simp] theorem lcsRun_kept {z : State} (op : Nat) (s : State) (hz : Kept z (shown km s)) : Kept z (shown km (lcsRun op s)) := by
  unfold lcsRun
  split; · simp [hz]
  split; · simp [hz]
  split; · simp [hz]
  split
  · simp [hz]
  · rename_i h _ _
    rw [lcsEnd_shown _ _ (by simp)]
    exact lcsEffect_kept _ _ hz (by simpa using h)

@[simp] theorem lcsContinue_kept {z : State} (s : State) (hz : Kept z (shown km s)) : Kept z (shown km (lcsContinue s)) := by
  simp (maxDischargeDepth := 9) [lcsContinue, hz]

@[simp] theorem lcsCommand_kept {z : State} (op : Nat) (s : State) (hz : Kept z (shown km s)) :
    Kept z (shown km (lcsCommand op s)) := by
  simp (maxDischargeDepth := 9) [lcsCommand, hz]

@[simp] theorem lcsCmdWrite_kept {z : State} (op : Nat) (s : State) (hz : Kept z (shown km s)) :
    Kept z (shown km (lcsCmdWrite op s)) := by
  simp (maxDischargeDepth := 9) [lcsCmdWrite, hz]

theorem execLcsPrepare_kept {z : State} (t : Nat) (s : State) (s0 : State) (hz : Kept z (shown km s)) :
    Kept z (shown km (after (execLcsPrepare t s) s0)) := by
  simp (maxDischargeDepth := 9) [execLcsPrepare, hz]

theorem execLcsProvision_kept {z : State} (t : Nat) (s : State) (s0 : State) (hz : Kept z (shown km s)) :
    Kept z (shown km (after (execLcsProvision t s) s0)) := by
  simp (maxDischargeDepth := 9) [execLcsProvision, hz]

theorem execLcsSeal_kept {z : State} (t : Nat) (s : State) (s0 : State) (hz : Kept z (shown km s)) :
    Kept z (shown km (after (execLcsSeal t s) s0)) := by
  simp (maxDischargeDepth := 9) [execLcsSeal, hz]

theorem execLcsVaultEnter_kept {z : State} (t : Nat) (s : State) (s0 : State) (hz : Kept z (shown km s)) :
    Kept z (shown km (after (execLcsVaultEnter t s) s0)) := by
  simp (maxDischargeDepth := 9) [execLcsVaultEnter, hz]

theorem execLcsReturn_kept {z : State} (t : Nat) (s : State) (s0 : State) (hz : Kept z (shown km s)) :
    Kept z (shown km (after (execLcsReturn t s) s0)) := by
  simp (maxDischargeDepth := 9) [execLcsReturn, hz]

theorem execLcsScrap_kept {z : State} (t : Nat) (s : State) (s0 : State) (hz : Kept z (shown km s)) :
    Kept z (shown km (after (execLcsScrap t s) s0)) := by
  simp (maxDischargeDepth := 9) [execLcsScrap, hz]

theorem execLcsChallenge_kept {z : State} (t : Nat) (s : State) (s0 : State) (hz : Kept z (shown km s)) :
    Kept z (shown km (after (execLcsChallenge t s) s0)) := by
  simp (maxDischargeDepth := 9) [execLcsChallenge, hz]

theorem execVppPithRangeChange_kept {z : State} (t : Nat) (ok : Bool) (s : State) (s0 : State)
    (hz : Kept z (shown km s)) :
    Kept z (shown km (after (execVppPithRangeChange t ok s) s0)) := by
  simp (maxDischargeDepth := 9) [execVppPithRangeChange, hz]

@[simp] theorem zeroize_kept {z : State} (s : State) (hz : Kept z (shown km s)) : Kept z (shown km (zeroize s)) := by
  unfold zeroize
  have h0 : Kept z (shown km (s.cry.jobs.foldl (fun s p => cjFail p.1 p.2 s) s)) := kept_foldl _ _ (fun s a h => cjFail_kept _ _ _ h) _ hz
  simp (maxDischargeDepth := 9) [h0]

theorem execTamperAlarm_kept {z : State} (t : Nat) (n : Nat) (s : State) (s0 : State) (hz : Kept z (shown km s)) :
    Kept z (shown km (after (execTamperAlarm t n s) s0)) := by
  simp (maxDischargeDepth := 9) [execTamperAlarm, hz]

theorem execKeyRederive_kept {z : State} (t : Nat) (s : State) (s0 : State) (hz : Kept z (shown km s)) :
    Kept z (shown km (after (execKeyRederive t s) s0)) := by
  simp (maxDischargeDepth := 9) [execKeyRederive, hz]

theorem execRngRecovered_kept {z : State} (t : Nat) (s : State) (s0 : State) (hz : Kept z (shown km s)) :
    Kept z (shown km (after (execRngRecovered t s) s0)) := by
  simp (maxDischargeDepth := 9) [execRngRecovered, hz]

@[simp] theorem spdmServe_kept {z : State} (req : List Byte) (f : State → State) (s : State) (s0 : State) (hf : ∀ s, Kept z (shown km s) → Kept z (shown km (f s)))
    (hz : Kept z (shown km s)) :
    Kept z (shown km (after (spdmServe req f s) s0)) := by
  simp (maxDischargeDepth := 9) [spdmServe, hz, hf]

@[simp] theorem spdmKeyed_kept {z : State} (req : List Byte) (f : State → State) (s : State) (s0 : State) (hf : ∀ s, Kept z (shown km s) → Kept z (shown km (f s)))
    (hz : Kept z (shown km s)) :
    Kept z (shown km (after (spdmKeyed req f s) s0)) := by
  unfold spdmKeyed
  (repeat' split) <;> simp_all (maxDischargeDepth := 9)

@[simp] theorem dmEnd_kept {z : State} (k : Nat) (d : List Byte) (status : Nat) (cmp : Option Bool) (done : Nat) (crc : Nat) (s : State)
    (hz : Kept z (shown km s)) :
    Kept z (shown km (dmEnd k d status cmp done crc s)) := by
  simp (maxDischargeDepth := 9) [dmEnd, hz]

@[simp] theorem dmSubmit_kept {z : State} (k : Nat) (p : Nat) (d : List Byte) (s : State) (hz : Kept z (shown km s)) :
    Kept z (shown km (dmSubmit k p d s)) := by
  simp (maxDischargeDepth := 9) [dmSubmit, hz]
  (repeat' split) <;> simp_all (maxDischargeDepth := 9)

@[simp] theorem dmRow_kept {z : State} (t : Nat) (k : Nat) (f : Nat → Bool) (s : State) (s0 : State) (hz : Kept z (shown km s)) :
    Kept z (shown km (after (dmRow t k f s) s0)) := by
  simp (maxDischargeDepth := 9) [dmRow, hz]
  (repeat' split) <;> simp_all (maxDischargeDepth := 9)

theorem execDmCopy_kept {z : State} (t : Nat) (k : Nat) (s : State) (s0 : State) (hz : Kept z (shown km s)) :
    Kept z (shown km (after (execDmCopy t k s) s0)) := by
  simp (maxDischargeDepth := 9) [execDmCopy, hz]

theorem execDmHostRead_kept {z : State} (t : Nat) (k : Nat) (s : State) (s0 : State) (hz : Kept z (shown km s)) :
    Kept z (shown km (after (execDmHostRead t k s) s0)) := by
  simp (maxDischargeDepth := 9) [execDmHostRead, hz]

theorem execDmHostWrite_kept {z : State} (t : Nat) (k : Nat) (s : State) (s0 : State) (hz : Kept z (shown km s)) :
    Kept z (shown km (after (execDmHostWrite t k s) s0)) := by
  simp (maxDischargeDepth := 9) [execDmHostWrite, hz]

theorem execDmRecordRead_kept {z : State} (t : Nat) (k : Nat) (s : State) (s0 : State) (hz : Kept z (shown km s)) :
    Kept z (shown km (after (execDmRecordRead t k s) s0)) := by
  simp (maxDischargeDepth := 9) [execDmRecordRead, hz]

theorem execDmFill_kept {z : State} (t : Nat) (k : Nat) (s : State) (s0 : State) (hz : Kept z (shown km s)) :
    Kept z (shown km (after (execDmFill t k s) s0)) := by
  simp (maxDischargeDepth := 9) [execDmFill, hz]

@[simp] theorem dmFail_kept {z : State} (c : Nat) (x : DmDesc) (status : Nat) (done : Nat) (third : Option Nat) (s : State) (hz : Kept z (shown km s)) :
    Kept z (shown km (dmFail c x status done third s)) := by
  unfold dmFail
  try dsimp only
  (repeat' split) <;> (try simp (maxDischargeDepth := 9) [hz]) <;> (repeat (refine kept_of_pair (by assumption) ?_; simp (maxDischargeDepth := 9) [hz]))

@[simp] theorem dmRetry_kept {z : State} (c : Nat) (x : DmDesc) (status : Nat) (done : Nat) (dt : Nat) (ef : Nat) (s : State) (hz : Kept z (shown km s)) :
    Kept z (shown km (dmRetry c x status done dt ef s)) := by
  unfold dmRetry
  try dsimp only
  (repeat' split) <;> (try simp (maxDischargeDepth := 9) [hz]) <;> (repeat (refine kept_of_pair (by assumption) ?_; simp (maxDischargeDepth := 9) [hz]))

@[simp] theorem dmFinish_kept {z : State} (c : Nat) (x : DmDesc) (l : List Byte) (s : State) (hz : Kept z (shown km s)) :
    Kept z (shown km (dmFinish c x l s)) := by
  simp (maxDischargeDepth := 9) [dmFinish, hz]

theorem execDmDescriptorComplete_kept {z : State} (t : Nat) (seg : Nat) (c : Nat) (differ : Bool) (units : Nat) (dram : List DramFind) (sram : List SramFind) (s : State) (s0 : State) (hz : Kept z (shown km s)) :
    Kept z (shown km (after (execDmDescriptorComplete t seg c differ units dram sram s) s0)) := by
  unfold execDmDescriptorComplete
  try dsimp only
  (repeat' split) <;> (try simp (maxDischargeDepth := 9) [hz]) <;> (repeat (refine kept_of_pair (by assumption) ?_; simp (maxDischargeDepth := 9) [hz]))

theorem execDmAbandon_kept {z : State} (t : Nat) (k : Nat) (s : State) (s0 : State) (hz : Kept z (shown km s)) :
    Kept z (shown km (after (execDmAbandon t k s) s0)) := by
  unfold execDmAbandon
  have e := takeResume_shown (kp := km) k (· == 1) (tick t s) (by simp)
  split <;> rename_i heq <;> replace e := (congrArg (fun q => shown km q.2) heq).symm.trans e <;> simp at e
  · rw [after_next]
    refine kept_foldl _ _ (fun s a h => dmEnd_kept _ _ _ _ _ _ _ h) _ ?_
    simp [e, hz]
  · simp [e, hz]

@[simp] theorem nvServe_kept {z : State} (admin : Bool) (op : Nat) (sq : Nat) (cmd : List Byte) (f : State → State) (s : State) (s0 : State) (hf : ∀ s, Kept z (shown km s) → Kept z (shown km (f s)))
    (hz : Kept z (shown km s)) :
    Kept z (shown km (after (nvServe admin op sq cmd f s) s0)) := by
  simp (maxDischargeDepth := 9) [nvServe, hz, hf]

@[simp] theorem nvAdm_kept {z : State} (op : Nat) (cmd : List Byte) (f : State → State) (s : State) (s0 : State) (hf : ∀ s, Kept z (shown km s) → Kept z (shown km (f s)))
    (hz : Kept z (shown km s)) :
    Kept z (shown km (after (nvAdm op cmd f s) s0)) := by
  unfold nvAdm
  (repeat' split) <;> simp_all (maxDischargeDepth := 9)

theorem nvWake_kept {z : State} (l : List Nat) (sq : Nat) (cmd : List Byte) (f : State → State) (s : State)
    (hf : Kept z (shown km (f s))) (hz : Kept z (shown km s)) : Kept z (shown km (nvWake l sq cmd f s)) := by
  unfold nvWake
  dsimp only
  split
  · exact hf
  · rw [nvHold_shown _ _ _ (by simp)]
    exact kept_foldl _ _ (fun s d h => by simp [h]) _ hz

@[simp] theorem nvBlock_kept {z : State} (op sq : Nat) (cmd : List Byte) (write key : Bool) (f : Flight → Ns → State → State) (s : State) (s0 : State)
    (hf : ∀ c x s, Kept z (shown km s) → Kept z (shown km (f c x s)))
    (hz : Kept z (shown km s)) :
    Kept z (shown km (after (nvBlock op sq cmd write key f s) s0)) := by
  unfold nvBlock
  split
  · exact hz
  · refine nvServe_kept _ _ _ _ _ _ _ (fun s hz => ?_) hz
    dsimp only
    (repeat' split) <;> simp (maxDischargeDepth := 9) [hz, hf, nvWake_kept]

theorem execNvmeWrite_kept {z : State} (t : Nat) (sq : Nat) (cmd : List Byte) (data : Option (List Byte)) (bad : List Nat) (s : State) (s0 : State) (hz : Kept z (shown km s)) :
    Kept z (shown km (after (execNvmeWrite t sq cmd data bad s) s0)) := by
  unfold execNvmeWrite
  refine nvBlock_kept _ _ _ _ _ _ _ _ (fun c x s hz => ?_) (by simp [hz])
  split
  · simp (maxDischargeDepth := 9) [hz]
  dsimp only
  split
  · simp (maxDischargeDepth := 9) [hz]
  split
  · rename_i h
    have hw := kept_of_pair (z := z) h (by simp (maxDischargeDepth := 9) [hz])
    simp (maxDischargeDepth := 9) [hw]
  · rename_i v hv
    have hv' : Kept z (shown km v) := kept_of_pair hv (by simp (maxDischargeDepth := 9) [hz])
    split <;> rename_i h <;> have hw := kept_of_pair (z := z) h (by simp [hv']) <;> simp (maxDischargeDepth := 9) [hw]

@[simp] theorem zestFault_kept {z : State} (n : Nat) (j : ZJob) (write : Bool) (ef : Nat) (s : State) (hz : Kept z (shown km s)) :
    Kept z (shown km (zestFault n j write ef s)) := by
  unfold zestFault
  simp only
  (repeat' split) <;> simp (maxDischargeDepth := 9) [hz]

theorem execFabricTimeout_kept {z : State} (t : Nat) (work : Work) (write : Bool) (units : Nat) (s : State) (s0 : State) (hz : Kept z (shown km s)) :
    Kept z (shown km (after (execFabricTimeout t work write units s) s0)) := by
  simp (maxDischargeDepth := 9) [execFabricTimeout, hz]
  (repeat' split) <;> simp_all (maxDischargeDepth := 9)

theorem execHeartbeatMiss_kept {z : State} (t : Nat) (k : Nat) (s : State) (s0 : State) (hz : Kept z (shown km s)) :
    Kept z (shown km (after (execHeartbeatMiss t k s) s0)) := by
  simp (maxDischargeDepth := 9) [execHeartbeatMiss, hz]

@[simp] theorem hostReadBad_kept {z : State} (k : Nat) (ef : Nat) (work : Work) (s : State) (hz : Kept z (shown km s)) :
    Kept z (shown km (hostReadBad k ef work s)) := by
  unfold hostReadBad
  try dsimp only
  (repeat' split) <;> (try simp (maxDischargeDepth := 9) [hz]) <;> (repeat (refine kept_of_pair (by assumption) ?_; simp (maxDischargeDepth := 9) [hz]))

theorem execHostReadCompletion_kept {z : State} (t : Nat) (work : Work) (ok : Bool) (data : List Byte) (s : State) (s0 : State)
    (hz : Kept z (shown km s)) :
    Kept z (shown km (after (execHostReadCompletion t work ok data s) s0)) := by
  unfold execHostReadCompletion
  (repeat' split) <;> simp_all (maxDischargeDepth := 9)

theorem execHostReadTimeout_kept {z : State} (t : Nat) (work : Work) (s : State) (s0 : State) (hz : Kept z (shown km s)) :
    Kept z (shown km (after (execHostReadTimeout t work s) s0)) := by
  simp (maxDischargeDepth := 9) [execHostReadTimeout, hz]

@[simp] theorem lcsWrite_kept {z : State} (a : Nat) (v : Word) (be : Nat) (s : State) (hz : Kept z (shown km s)) :
    Kept z (shown km (lcsWrite a v be s)) := by
  simp (maxDischargeDepth := 9) [lcsWrite, hz]

@[simp] theorem fnWinWrite_kept {z : State} (a : Nat) (v : Word) (be : Nat) (s : State) (hz : Kept z (shown km s)) :
    Kept z (shown km (fnWinWrite a v be s)) := by
  unfold fnWinWrite
  dsimp only
  (repeat' split) <;> simp (maxDischargeDepth := 9) [hz]

@[simp] theorem rindWrite_kept {z : State} (a : Nat) (v : Word) (be : Nat) (s : State) (hz : Kept z (shown km s)) :
    Kept z (shown km (rindWrite a v be s)) := by
  simp (maxDischargeDepth := 9) [rindWrite, hz]

@[simp] theorem bar2Write_kept {z : State} (a : Nat) (v : Word) (be : Nat) (s : State) (hz : Kept z (shown km s)) :
    Kept z (shown km (bar2Write a v be s)) := by
  unfold bar2Write
  (repeat' split) <;> simp (maxDischargeDepth := 9) [hz]

@[simp] theorem regWrite_kept {z : State} (a : Nat) (v : Word) (be : Nat) (s : State) (hz : Kept z (shown km s)) :
    Kept z (shown km (regWrite a v be s)) := by
  simp (maxDischargeDepth := 9) [regWrite, hz]

theorem execRegisterWrite_kept {z : State} (t : Nat) (a : Nat) (v : Word) (be : Nat) (s : State) (s0 : State)
    (hz : Kept z (shown km s)) :
    Kept z (shown km (after (execRegisterWrite t a v be s) s0)) := by
  simp (maxDischargeDepth := 9) [execRegisterWrite, hz]

theorem execBlockLock_kept {z : State} (t : Nat) (blk : Nat) (v : Word) (be : Nat) (s : State) (s0 : State)
    (hz : Kept z (shown km s)) :
    Kept z (shown km (after (execBlockLock t blk v be s) s0)) := by
  simp (maxDischargeDepth := 9) [execBlockLock, hz]

@[simp] theorem wipe_kept {z : State} (s : State) (hz : Kept z (shown km s)) : Kept z (shown km (wipe s)) := by
  obtain ⟨g, k⟩ := (kept_iff _ _).mp hz
  exact (kept_iff _ _).mpr ⟨⟨g.drkCut, g.floor, g.harvest⟩, ⟨rfl, fun _ => by simp [wipe], fun _ => rfl, fun _ => rfl, fun _ => rfl, fun _ => rfl, k.vaultState⟩⟩

@[simp] theorem wipeSoft_kept {z : State} (s : State) (hz : Kept z (shown km s)) :
    Kept z (shown km (wipeSoft s)) := by
  unfold wipeSoft
  try dsimp only
  (repeat' split) <;> (try simp (maxDischargeDepth := 9) [hz]) <;> (repeat (refine kept_of_pair (by assumption) ?_; simp (maxDischargeDepth := 9) [hz]))

@[simp] theorem resetNow_kept {z : State} (s : State) (hz : Kept z (shown km s)) :
    Kept z (shown km (resetNow s)) := by
  have hc : (wipeSoft s).dbg.level = .closed := by unfold wipeSoft; dsimp only; (repeat' split) <;> rfl
  have hz : Kept z (shown km (wipeSoft s)) := by simp [hz]
  unfold resetNow
  simp only
  generalize wipeSoft s = w at *
  obtain ⟨g, k⟩ := (kept_iff _ _).mp hz
  have key : ∀ t : State, t.dbg = w.dbg → t.dxr = w.dxr → t.med = w.med → t.boot.floor = w.boot.floor → t.life.vault = w.life.vault →
      t.life.lstate = w.life.lstate → t.life.drkCut = w.life.drkCut → Kept z (shown km t) := fun t e1 e2 e3 e4 e5 e6 e7 =>
    kept_closed hz (by rw [e1]; exact hc) (by rw [e2]; exact k.mem) (by rw [e7]; exact id) (Nat.le_of_eq e4.symm) (by rw [e3]; exact id) (by rw [e5, e6]; exact k.vaultState)
  generalize hn : (if w.boot.service = true then w.boot.attempts else min 3 (w.boot.attempts + 1)) = n
  split
  · rw [modeNotice_shown _ _ _ (by simp)]
    exact key _ rfl rfl rfl rfl rfl rfl rfl
  · split
    · exact key _ rfl rfl rfl rfl rfl rfl rfl
    · rw [modeNotice_shown _ _ _ (by simp)]
      exact key _ rfl rfl rfl rfl rfl rfl rfl

@[simp] theorem resetRequest_kept {z : State} (soft : Bool) (s : State) (hz : Kept z (shown km s)) :
    Kept z (shown km (resetRequest soft s)) := by
  have hq : ∀ c : Bool, Kept z (shown km (if c then s else onBoot (fun b => { b with soft := soft }) s)) := by
    intro c; split <;> simp [hz]
  unfold resetRequest
  simp only
  generalize he : (if s.boot.resetPending = true then s else onBoot (fun b => { b with soft := soft }) s) = w
  have hw : Kept z (shown km w) := he ▸ hq _
  split; · exact hw
  split
  · rename_i ht
    obtain ⟨g, k⟩ := (kept_iff _ _).mp hw
    exact kept_closed hw (k.testLevel ht) k.mem id (Nat.le_refl _) id k.vaultState
  · split <;> simp [hw]

theorem execResetNAssert_kept {z : State} (t : Nat) (s : State) (s0 : State) (hz : Kept z (shown km s)) :
    Kept z (shown km (after (execResetNAssert t s) s0)) := by
  simp (maxDischargeDepth := 9) [execResetNAssert, hz]

theorem execBootWatchdog_kept {z : State} (t : Nat) (s : State) (s0 : State) (hz : Kept z (shown km s)) :
    Kept z (shown km (after (execBootWatchdog t s) s0)) := by
  simp (maxDischargeDepth := 9) [execBootWatchdog, hz]

theorem execBraceFlushComplete_kept {z : State} (t : Nat) (pbrace : Nat) (t34 : Nat) (t37 : Nat) (v3 : Nat) (v7 : Nat) (low : Bool) (s : State) (s0 : State)
    (hz : Kept z (shown km s)) :
    Kept z (shown km (after (execBraceFlushComplete t pbrace t34 t37 v3 v7 low s) s0)) := by
  simp (maxDischargeDepth := 9) [execBraceFlushComplete, hz]

@[simp] theorem powerOff_kept {z : State} (s : State) (hz : Kept z (shown km s)) : Kept z (shown km (powerOff s)) := by
  have hz : Kept z (shown km (wipe (loseStone (lostHist s)))) := by simp [hz]
  unfold powerOff
  simp only
  generalize wipe (loseStone (lostHist s)) = w at *
  obtain ⟨g, k⟩ := (kept_iff _ _).mp hz
  exact (kept_iff _ _).mpr ⟨⟨g.drkCut, g.floor, g.harvest⟩, ⟨k.mem, fun h => absurd h (by simp), fun _ => rfl, fun _ => rfl, fun _ => rfl, fun _ => rfl, fun h => absurd h (by simp)⟩⟩

theorem execPowerLoss_kept {z : State} (t : Nat) (units : List (Nat × Nat)) (torn : Nat) (copies : List (Nat × Nat)) (s : State) (s0 : State)
    (hz : Kept z (shown km s)) :
    Kept z (shown km (after (execPowerLoss t units torn copies s) s0)) := by
  simp (maxDischargeDepth := 9) [execPowerLoss, hz]

@[simp] theorem linkReset_kept {z : State} (link : Link) (s : State) (hz : Kept z (shown km s)) :
    Kept z (shown km (linkReset link s)) := by
  simp (maxDischargeDepth := 9) [linkReset, hz]

theorem execPerstAssert_kept {z : State} (t : Nat) (s : State) (s0 : State) (hz : Kept z (shown km s)) :
    Kept z (shown km (after (execPerstAssert t s) s0)) := by
  simp (maxDischargeDepth := 9) [execPerstAssert, hz]

theorem execLinkReset_kept {z : State} (t : Nat) (hot : Bool) (s : State) (s0 : State) (hz : Kept z (shown km s)) :
    Kept z (shown km (after (execLinkReset t hot s) s0)) := by
  simp (maxDischargeDepth := 9) [execLinkReset, hz]

theorem voteLife_kept {z : State} (s : State) (hz : Kept z (shown km s)) (hc : s.dbg.level = .closed) :
    Kept z (shown km (voteLife s)) := by
  unfold voteLife
  simp only
  generalize hq : readTriad 1 0 (lifeDefault (triadOf s 1 0)) s = q
  have e : shown km q.2 = shown km s := by rw [← hq]; simp
  have hz : Kept z (shown km q.2) := e ▸ hz
  have hc : q.2.dbg.level = .closed := by
    have e : shown klv q.2 = shown klv s := by rw [← hq]; simp
    exact (klv_fields e).trans hc
  obtain ⟨g, k⟩ := (kept_iff _ _).mp hz
  refine kept_closed hz hc k.mem id (Nat.le_refl _) id (fun h => ?_)
  simp only [onLife, Bool.and_eq_true, Bool.or_eq_true, beq_iff_eq] at h ⊢
  rcases h.2 with h | h
  · left; rw [h]; rfl
  · right; rw [h]; rfl

theorem afterVotes_kept {z : State} (s : State) (hz : Kept z (shown km s)) (hc : s.dbg.level = .closed) :
    Kept z (shown km (afterVotes s)) := by
  have h0 : Kept z (shown km (if s.life.drkCut && s.life.lstate == .returned then enterLife .scrapped s else s)) := by
    split
    · rename_i h
      obtain ⟨-, k⟩ := (kept_iff _ _).mp hz
      have hr : s.life.lstate = .returned := by simp at h; exact h.2
      have hv : s.life.vault ≠ true := fun c => by rcases k.vaultState c with h | h <;> simp [hr] at h
      have e : shown kt (enterLife .scrapped s) = shown kt s := by unfold enterLife; simp
      have el : shown klv (enterLife .scrapped s) = shown klv s := by unfold enterLife; simp
      obtain ⟨e4, e5, e7, e9, e10⟩ := kt_fields e
      exact kept_closed hz ((klv_fields el).trans hc) (e10 ▸ k.mem) (by rw [e7]; exact id) (Nat.le_of_eq e4.symm) (by rw [e9]; exact id) (by rw [e5]; exact fun c => absurd c hv)
    · exact hz
  unfold afterVotes
  simp only
  generalize (if s.life.drkCut && s.life.lstate == .returned then enterLife .scrapped s else s) = q at *
  (repeat' split) <;> simp [h0]

@[simp] theorem findDies_kept {z : State} (env : BootEnv) (s : State) (seg : Nat) (hz : Kept z (shown km s)) :
    Kept z (shown km (findDies env s seg)) := by
  unfold findDies
  simp only
  split
  · rw [disableSeg_shown _ _ (by simp)]
    apply kept_foldl _ _ (fun s a h => loseDie_kept _ _ _ h)
    rw [shown_foldl _ _ (fun s a => by simp)]
    simp [hz]
  · apply kept_foldl _ _ (fun s a h => loseDie_kept _ _ _ h)
    rw [shown_foldl _ _ (fun s a => by simp)]
    simp [hz]

@[simp] theorem trainChannel_kept {z : State} (env : BootEnv) (s : State) (c : Nat) (hz : Kept z (shown km s)) :
    Kept z (shown km (trainChannel env s c)) := by
  unfold trainChannel
  dsimp only
  (repeat' split) <;> first
    | exact hz
    | (simp (maxDischargeDepth := 9) [hz]; done)
    | exact kept_foldl _ _ (fun s a hz => loseDie_kept _ _ _ hz) _ (by simp (maxDischargeDepth := 9) [hz])

@[simp] theorem replay_kept {z : State} (env : BootEnv) (cold : Bool) (s : State) (hz : Kept z (shown km s)) :
    Kept z (shown km (replay env cold s)) := by
  simp (maxDischargeDepth := 9) [replay, hz]

@[simp] theorem powerUp_kept {z : State} (env : BootEnv) (s : State) (hz : Kept z (shown km s)) :
    Kept z (shown km (powerUp env s)) := by
  unfold powerUp
  (repeat' split) <;> simp_all (maxDischargeDepth := 9)

theorem bootVotes_kept {z : State} (env : BootEnv) (cold : Bool) (s : State)
    (hz : Kept z (shown km s)) (hc : s.dbg.level = .closed) :
    Kept z (shown km (bootVotes env cold s)) := by
  unfold bootVotes
  simp only
  generalize hq : loadParams _ = q
  have hz1 : Kept z (shown km q) := by rw [← hq]; simp [hz]
  have c1 : q.dbg.level = .closed := by
    have e : shown klv q = shown klv s := by rw [← hq]; simp
    exact (klv_fields e).trans hc
  have c2 : (voteSlots (voteLife q)).dbg.level = .closed := by
    have e : shown klv (voteSlots (voteLife q)) = shown klv q := by simp
    exact (klv_fields e).trans c1
  have hz2 : Kept z (shown km (voteSlots (voteLife q))) := by
    rw [voteSlots_shown _ (by simp)]; exact voteLife_kept q hz1 c1
  generalize voteSlots (voteLife q) = v at *
  have hz3 : Kept z (shown km (burnFuses (afterVotes v))) := by
    rw [burnFuses_shown _ (by simp)]; exact afterVotes_kept v hz2 c2
  have hz4 : Kept z (shown km (if cold = true then burnFuses (afterVotes v) else v)) := by
    split
    · exact hz3
    · exact hz2
  generalize (if cold = true then burnFuses (afterVotes v) else v) = u at *
  split <;> simp [hz4]

@[simp] theorem bootDevice_kept {z : State} (env : BootEnv) (cold : Bool) (s : State) (hz : Kept z (shown km s)) :
    Kept z (shown km (bootDevice env cold s)) := by
  unfold bootDevice
  simp only
  generalize hm : measureBoot env _ = m
  have h1 : Kept z (shown km m) := by rw [← hm]; simp [hz]
  generalize hp : (if cold = true then powerUp env m else _) = p
  have h2 : Kept z (shown km p) := by rw [← hp]; split <;> simp [h1]
  generalize hb : onBoot (fun b => { b with step := 7 }) _ = b
  have h3 : Kept z (shown km b) := by
    have h : Kept z (shown km ((List.range 32).foldl (trainChannel env) p)) := kept_foldl _ _ (fun s a h => trainChannel_kept _ _ _ h) _ h2
    rw [← hb]; simp [h]
  generalize hr : (if b.boot.running = Running.rom then _ else replay env cold b) = r
  have h4 : Kept z (shown km r) := by rw [← hr]; (repeat' split) <;> simp [h3]
  have h5 : ∀ (l : List Nat), Kept z (shown km (l.foldl (fun s k => resetCore k s) (resetCore rindCore r))) := by intro l; simp [h4]
  generalize hl : List.foldl (fun s k => resetCore k s) (resetCore rindCore r) _ = u
  have h6 : Kept z (shown km u) := by rw [← hl]; exact h5 _
  simp [h6]

theorem startBoot_kept {z : State} (env : BootEnv) (s : State) (hz : Kept z (shown km s)) (hc : s.dbg.level = .closed) :
    Kept z (shown km (startBoot env s)) := by
  unfold startBoot
  simp only
  generalize hw : onBoot _ s = w
  have h0 : Kept z (shown km w) := by
    subst hw
    obtain ⟨g, k⟩ := (kept_iff _ _).mp hz
    exact kept_closed hz hc k.mem id (Nat.le_refl _) id k.vaultState
  have c0 : w.dbg.level = .closed := by subst hw; exact hc
  split
  · exact h0
  · exact bootDevice_kept _ _ _ (bootVotes_kept _ _ _ h0 c0)

@[simp] theorem execPowerOn_kept {z : State} (t : Nat) (resetN perstN : Bool) (env : BootEnv) (s s0 : State)
    (hz : Kept z (shown km s)) :
    Kept z (shown km (after (execPowerOn t resetN perstN env s) s0)) := by
  have hz : Kept z (shown km (tick t s)) := by simp [hz]
  unfold execPowerOn
  simp only
  generalize tick t s = s at *
  split
  · exact hz
  · rename_i hp
    obtain ⟨g, k⟩ := (kept_iff _ _).mp hz
    have c : s.dbg.level = .closed := k.offLevel (by simpa using hp)
    have h1 : Kept z (shown km (onBoot (fun b => { b with powered := true, powerAt := s.now, resetN := resetN, perstN := perstN, inReset := true, attempts := 0 }) s)) :=
      kept_closed hz c k.mem id (Nat.le_refl _) id k.vaultState
    rw [after_next]
    split
    · exact startBoot_kept env _ h1 c
    · exact h1

@[simp] theorem execResetNRelease_kept {z : State} (t : Nat) (env : BootEnv) (s s0 : State) (hz : Kept z (shown km s)) :
    Kept z (shown km (after (execResetNRelease t env s) s0)) := by
  have hz : Kept z (shown km (onBoot (fun b => { b with resetN := true }) (tick t s))) := by simp [hz]
  unfold execResetNRelease
  simp only
  generalize onBoot (fun b => { b with resetN := true }) (tick t s) = s at *
  split
  · rename_i hp
    obtain ⟨-, k⟩ := (kept_iff _ _).mp hz
    exact startBoot_kept env _ hz (k.resetLevel (by simp at hp; exact hp.1.2))
  · exact hz

@[simp] theorem firstArrival_kept {z : State} (s : State) (hz : Kept z (shown km s)) : Kept z (shown km (firstArrival s)) := by
  unfold firstArrival
  split; · exact hz
  split; · exact hz
  split; · exact hz
  simp only
  split
  · rename_i i _ _ h
    rw [fwNotice_shown _ _ _ _ _ _ (by simp)]
    have e := slotNotice_shown (kp := km)
    generalize hq : slotNotice _ _ _ _ = q at *
    have hq : Kept z (shown km q) := by rw [← hq]; simp [hz]
    obtain ⟨g, k⟩ := (kept_iff _ _).mp hq
    exact (kept_iff _ _).mpr ⟨⟨g.drkCut, Nat.le_trans g.floor (Nat.le_of_lt h.1), g.harvest⟩, ⟨k.mem, k.vaultLevel, k.scrapLevel, k.resetLevel, k.offLevel, k.testLevel, k.vaultState⟩⟩
  · simp [hz]

theorem execReplayComplete_kept {z : State} (t : Nat) (pdev : Nat) (rate : Nat) (s : State) (s0 : State)
    (hz : Kept z (shown km s)) :
    Kept z (shown km (after (execReplayComplete t pdev rate s) s0)) := by
  simp (maxDischargeDepth := 9) [execReplayComplete, hz]

@[simp] theorem jtag_kept {z : State} (t : Nat) (code : Nat) (f : State → State) (s : State) (hf : ∀ s, Kept z (shown km s) → Kept z (shown km (f s)))
    (hz : Kept z (shown km s)) :
    Kept z (shown km (jtag t code f s)) := by
  simp (maxDischargeDepth := 9) [jtag, hz, hf]

@[simp] theorem jtagDebug_kept {z : State} (t : Nat) (code : Nat) (f : State → State) (s : State) (hf : ∀ s, Kept z (shown km s) → Kept z (shown km (f s)))
    (hz : Kept z (shown km s)) :
    Kept z (shown km (jtagDebug t code f s)) := by
  unfold jtagDebug
  (repeat' split) <;> simp_all (maxDischargeDepth := 9)

theorem execJtagExtest_kept {z : State} (t : Nat) (cap : Nat) (shift : Nat) (s : State) (s0 : State)
    (hz : Kept z (shown km s)) :
    Kept z (shown km (after (execJtagExtest t cap shift s) s0)) := by
  unfold execJtagExtest
  (repeat' split) <;> simp_all (maxDischargeDepth := 9)

theorem execTapReset_kept {z : State} (t : Nat) (s : State) (s0 : State) (hz : Kept z (shown km s)) :
    Kept z (shown km (after (execTapReset t s) s0)) := by
  unfold execTapReset
  (repeat' split) <;> simp_all (maxDischargeDepth := 9)

theorem openSession_kept {z : State} (v : Nat) (s : State) (hz : Kept z (shown km s)) (hd : debugThere s = true) :
    Kept z (shown km (openSession v s)) := by
  have hd : ((s.boot.powered = true ∧ s.boot.inReset = false) ∧ s.boot.testMode = false) ∧ ¬ s.life.lstate = .scrapped := by
    simpa [debugThere] using hd
  unfold openSession
  split
  · exact hz
  · rename_i l hl
    have hf : s.life.vault = true → l ≠ .full := by
      intro hv
      unfold levelFor at hl
      split at hl
      · simp at hl; subst hl; simp
      · simp [hv] at hl; subst hl; simp
      · simp at hl
    split
    · exact setLevel_kept _ _ hz hf (fun _ => ⟨hd.2, hd.1.1.2, hd.1.1.1, hd.1.2⟩)
    · split
      · exact hz
      · have e := checkGrant_shown (kp := km) s.dbg.grant (levelNeeds s l) s (by simp)
        generalize checkGrant s.dbg.grant (levelNeeds s l) s = q at *
        have hq : Kept z (shown km q.2) := e ▸ hz
        obtain ⟨e1, e2, e3, e4, e5, e6, e7, e9, e10⟩ := km_fields e
        simp only
        split
        · exact setLevel_kept _ _ hq (by rw [e5]; exact hf) (fun _ => by rw [e6, e2, e1, e3]; exact ⟨hd.2, hd.1.1.2, hd.1.1.1, hd.1.2⟩)
        · exact hq

theorem execDbgOpen_kept {z : State} (t : Nat) (v : Nat) (s : State) (s0 : State) (hz : Kept z (shown km s)) :
    Kept z (shown km (after (execDbgOpen t v s) s0)) := by
  unfold execDbgOpen jtagDebug jtag
  simp only [after_next]
  have h0 : Kept z (shown km (selectIr 0x13 (tick t s))) := by simp [hz]
  split
  · split
    · rename_i hd
      rw [emptyGrant_shown _ (by simp)]
      exact openSession_kept _ _ h0 hd
    · simp [hz]
  · simp [hz]

theorem execDbgClose_kept {z : State} (t : Nat) (s : State) (s0 : State) (hz : Kept z (shown km s)) :
    Kept z (shown km (after (execDbgClose t s) s0)) := by
  unfold execDbgClose
  (repeat' split) <;> simp_all (maxDischargeDepth := 9)

@[simp] theorem dap_kept {z : State} (t : Nat) (who : Nat) (addr : Nat) (data : Nat) (f : State → State) (s : State) (hf : ∀ s, Kept z (shown km s) → Kept z (shown km (f s)))
    (hz : Kept z (shown km s)) :
    Kept z (shown km (dap t who addr data f s)) := by
  unfold dap
  (repeat' split) <;> simp_all (maxDischargeDepth := 9)

@[simp] theorem coreAccess_kept {z : State} (k : Nat) (f : State → State) (s : State) (hf : ∀ s, Kept z (shown km s) → Kept z (shown km (f s)))
    (hz : Kept z (shown km s)) :
    Kept z (shown km (coreAccess k f s)) := by
  simp (maxDischargeDepth := 9) [coreAccess, hz, hf]

@[simp] theorem haltedAccess_kept {z : State} (k : Nat) (f : State → State) (s : State) (hf : ∀ s, Kept z (shown km s) → Kept z (shown km (f s)))
    (hz : Kept z (shown km s)) :
    Kept z (shown km (haltedAccess k f s)) := by
  unfold haltedAccess
  (repeat' split) <;> simp_all (maxDischargeDepth := 9)

@[simp] theorem dapCoreWrite_kept {z : State} (k : Nat) (addr : Nat) (v : Nat) (s : State) (hz : Kept z (shown km s)) :
    Kept z (shown km (dapCoreWrite k addr v s)) := by
  unfold dapCoreWrite
  (repeat' split) <;> simp_all (maxDischargeDepth := 9)

@[simp] theorem ctlStep_kept {z : State} (k : Nat) (way : Issue) (s : State) (hz : Kept z (shown km s)) :
    Kept z (shown km (ctlStep k way s)) := by
  simp (maxDischargeDepth := 9) [ctlStep, hz]

theorem execDapSingleStep_kept {z : State} (t : Nat) (who : Nat) (way : Issue) (s : State) (s0 : State)
    (hz : Kept z (shown km s)) :
    Kept z (shown km (after (execDapSingleStep t who way s) s0)) := by
  unfold execDapSingleStep
  (repeat' split) <;> simp_all (maxDischargeDepth := 9)

@[simp] theorem ctlWrite_kept {z : State} (k : Nat) (v : Nat) (s : State) (hz : Kept z (shown km s)) :
    Kept z (shown km (ctlWrite k v s)) := by
  unfold ctlWrite
  (repeat' split) <;> simp (maxDischargeDepth := 9) [hz]

theorem execDapWrite_kept {z : State} (t : Nat) (who : Nat) (addr : Nat) (v : Nat) (s : State) (s0 : State)
    (hz : Kept z (shown km s)) :
    Kept z (shown km (after (execDapWrite t who addr v s) s0)) := by
  unfold execDapWrite
  rw [after_next]
  refine dap_kept _ _ _ _ _ _ (fun s hs => ?_) (by simp [hz])
  (repeat' split) <;> simp_all (maxDischargeDepth := 9)

end Sys2Proof.Machine
end

