-- ==== Sys2Proof/Laws/Notices.lean ====
section
/-!
SUPPORT. What the posting of a notice, the raising of a detector and the posting of a completion leave of the Ring Engine: they move
the tail, the phase and the coalescing of the ring they write to and a function's notice numbering, and nothing else.
-/
namespace Sys2Proof.Machine

/-- A function entry without its notice numbering and hold. -/
def Func.rest (e : Func) : Func := { e with seq := 0, lost := 0, held := [] }

/-- A ring without what an entry written to it moves. -/
def Ring.rest (r : Ring) : Ring := { r with dev := 0, phase := true, coalN := 0, coalFirst := none, reserved := 0 }

/-- From `s` to `t` notices may have been posted, messages sent and entries written; the Ring Engine's functions, rings and commands in
flight are otherwise as they were. -/
structure Quiet (s t : State) : Prop where
  flights : t.rge.flights = s.rge.flights
  nextFlight : t.rge.nextFlight = s.rge.nextFlight
  vfEnable : t.rge.vfEnable = s.rge.vfEnable
  numVfs : t.rge.numVfs = s.rge.numVfs
  lastSweep : t.rge.lastSweep = s.rge.lastSweep
  func : ∀ f, (funcOf t f).rest = (funcOf s f).rest
  ring : ∀ k, (ringOf t k).map Ring.rest = (ringOf s k).map Ring.rest

theorem Quiet.refl (s : State) : Quiet s s := ⟨rfl, rfl, rfl, rfl, rfl, fun _ => rfl, fun _ => rfl⟩

theorem Quiet.trans {a b c : State} (h : Quiet a b) (k : Quiet b c) : Quiet a c :=
  ⟨k.flights.trans h.flights, k.nextFlight.trans h.nextFlight, k.vfEnable.trans h.vfEnable, k.numVfs.trans h.numVfs,
    k.lastSweep.trans h.lastSweep, fun f => (k.func f).trans (h.func f), fun j => (k.ring j).trans (h.ring j)⟩

/-- Whatever leaves the Ring Engine alone. -/
theorem Quiet.of_rge {s t : State} (h : t.rge = s.rge) : Quiet s t := by
  refine ⟨by rw [h], by rw [h], by rw [h], by rw [h], by rw [h], fun f => ?_, fun k => ?_⟩ <;> simp [funcOf, ringOf, h]

/-- A change elsewhere comes first. -/
theorem Quiet.since {s t u : State} (h : Quiet t u) (e : t.rge = s.rge) : Quiet s u := (Quiet.of_rge e).trans h

theorem Quiet.st {s t : State} (h : Quiet s t) (f : Nat) : (funcOf t f).st = (funcOf s f).st :=
  show (funcOf t f).rest.st = (funcOf s f).rest.st from by rw [h.func f]

theorem Quiet.ready {s t : State} (h : Quiet s t) (f : Nat) : fnReady t f = fnReady s f := by
  simp [fnReady, h.st, h.vfEnable, h.numVfs]

theorem tget_tmod {α : Type} (k n : Nat) (g : α → α) (t : Tab α) : tget n (tmod k g t) = if n = k then (tget n t).map g else tget n t := by
  unfold tmod
  split
  · rename_i a h
    split
    · subst n; rw [tget_tput_self, h]; rfl
    · exact tget_tput_ne ‹_›
  · rename_i h
    split
    · subst n; rw [h]; rfl
    · rfl

theorem ringOf_onRing (k n : Nat) (g : Ring → Ring) (s : State) : ringOf (onRing k g s) n = if n = k then (ringOf s n).map g else ringOf s n :=
  tget_tmod _ _ _ _

/-- A change of a ring that an entry written to it makes. -/
theorem quiet_onRing (k : Nat) (g : Ring → Ring) (h : ∀ r, (g r).rest = r.rest) (s : State) : Quiet s (onRing k g s) := by
  refine ⟨rfl, rfl, rfl, rfl, rfl, fun _ => rfl, fun n => ?_⟩
  rw [ringOf_onRing]
  split
  · cases ringOf s n <;> simp [h]
  · rfl

/-- A function that is not absent may have its notice numbering changed. -/
theorem quiet_onFunc (f : Nat) (g : Func → Func) (s : State) (hr : (funcOf s f).st ≠ .absent) (h : ∀ e, (g e).rest = e.rest) : Quiet s (onFunc f g s) := by
  have hs : ∀ e, (g e).st = e.st := fun e => show (g e).rest.st = e.rest.st from by rw [h e]
  refine ⟨rfl, rfl, rfl, rfl, rfl, fun n => ?_, fun _ => rfl⟩
  have hn : g (funcOf s f) ≠ {} := fun e => hr (by rw [← hs, e])
  have ht : (onFunc f g s).rge.funcs = tput f (g (funcOf s f)) s.rge.funcs := if_neg hn
  unfold funcOf at ht ⊢
  rw [ht]
  by_cases e : n = f
  · subst n; rw [tgetD_tput_self]; exact h _
  · rw [tgetD_tput_ne e]

theorem quiet_sendVector (f v : Nat) (s : State) : Quiet s (sendVector f v s) := by
  unfold sendVector
  split
  · exact .refl s
  split
  · exact .of_rge rfl
  · exact ⟨rfl, rfl, rfl, rfl, rfl, fun _ => rfl, fun _ => rfl⟩

theorem quiet_coalesce (k : Nat) (s : State) : Quiet s (coalesce k s) := by
  unfold coalesce
  split
  · exact .refl s
  · split
    · exact .refl s
    · simp only
      split
      · exact Quiet.trans (quiet_onRing k (fun q => { q with coalN := 0, coalFirst := none }) (fun _ => rfl) s) (quiet_sendVector _ _ _)
      · rename_i r _ _ _
        exact quiet_onRing k (fun q => { q with coalN := r.coalN + 1, coalFirst := some (r.coalFirst.getD s.now) }) (fun _ => rfl) s

theorem quiet_writeNotice (k : Nat) (r : Ring) (n : Notice) (s : State) : Quiet s (writeNotice k r n s) :=
  ((quiet_onRing k advance (fun _ => rfl) (emit (.notice r.fn (r.base + 32 * r.dev) (nflags r n) n) s)).since (s := s) rfl).trans
    (quiet_coalesce k _)

theorem fireOne_rge (s : State) : (fireOne s).rge = s.rge := of_one (a := .rge) (by simp)

theorem quiet_postCore (f typ src : Nat) (p : List Byte) (s : State) : Quiet s (postCore f typ src p s).2 := by
  unfold postCore
  simp only
  generalize hw : (if f = 0 then _ else s : State) = w
  have hq : Quiet s w := by subst w; split <;> exact .of_rge rfl
  have hf : funcOf w f = funcOf s f := by subst w; split <;> rfl
  split
  · exact hq
  · rename_i hr
    have hr : (funcOf s f).st = .ready := by simpa using hr
    have h1 : Quiet w (onFunc f (fun e => { e with seq := (e.seq + 1) % 65536 }) w) :=
      quiet_onFunc f _ w (by rw [hf, hr]; simp) (fun _ => rfl)
    have h2 : ∀ g : Func → Func, (∀ e, (g e).rest = e.rest) → Quiet (onFunc f (fun e => { e with seq := (e.seq + 1) % 65536 }) w) (onFunc f g (onFunc f (fun e => { e with seq := (e.seq + 1) % 65536 }) w)) :=
      fun g hg => quiet_onFunc f g _ (by rw [h1.st, hf, hr]; simp) hg
    have hl := h2 (fun e => { e with lost := satAdd 65535 e.lost 1 }) (fun _ => rfl)
    have hz := h2 (fun e => { e with lost := 0 }) (fun _ => rfl)
    have hh : ∀ n : Notice, Quiet w (onFunc f (fun e => { e with held := e.held ++ [n], lost := 0 }) (onFunc f (fun e => { e with seq := (e.seq + 1) % 65536 }) w)) :=
      fun n => h1.trans (h2 (fun e => { e with held := e.held ++ [n], lost := 0 }) (fun _ => rfl))
    split
    · exact hq.trans (h1.trans (hl.trans (.of_rge (fireOne_rge _))))
    · split
      · split
        · exact hq.trans (h1.trans (hz.trans (quiet_writeNotice _ _ _ _)))
        · split
          · exact hq.trans (hh _)
          · exact hq.trans (h1.trans hl)
      · split
        · exact hq.trans (hh _)
        · exact hq.trans (h1.trans hl)

theorem quiet_raiseCore (k : Nat) (x : Site) (ef : Nat) (s : State) : Quiet s (raiseCore k x ef s).2 := by
  unfold raiseCore
  simp only
  generalize hw : onInt _ (setCtr _ _ _) = w
  have hq : w.rge = s.rge := by subst w; rfl
  split
  · exact .of_rge hq
  · split
    · exact .of_rge hq
    · exact (quiet_postCore _ _ _ _ _).since hq

theorem quiet_dropped (f ef : Nat) (s : State) : Quiet s (dropped f ef s) := by
  unfold dropped
  simp only
  generalize hr : raiseCore 12 _ ef _ = r
  have hq : Quiet s r.2 := by subst r; exact (quiet_raiseCore _ _ _ _).since rfl
  split
  · exact hq.trans ((quiet_raiseCore 12 { func := 0 } 0 _).since (s := r.2) rfl)
  · exact hq

theorem quiet_raiseF (k : Nat) (x : Site) (ef : Nat) (s : State) : Quiet s (raiseF k x ef s) := by
  have h := quiet_raiseCore k x ef s
  unfold raiseF
  split
  · rename_i e; rw [e] at h; exact h.trans (quiet_dropped _ _ _)
  · rename_i e; rw [e] at h; exact h

theorem quiet_raise (k : Nat) (x : Site) (s : State) : Quiet s (raise k x s) := quiet_raiseF k x 0 s

theorem quiet_post (f typ src : Nat) (p : List Byte) (s : State) : Quiet s (post f typ src p s) := by
  have h := quiet_postCore f typ src p s
  unfold post
  split
  · rename_i e; rw [e] at h; exact h.trans (quiet_dropped _ _ _)
  · rename_i e; rw [e] at h; exact h

theorem quiet_bump (a n : Nat) (s : State) : Quiet s (bump a n s) := by
  unfold bump
  simp only
  split
  · exact (quiet_post _ _ _ _ _).since rfl
  · exact .of_rge rfl

theorem quiet_bumpTally (a k : Nat) (x : Site) (s : State) : Quiet s (bumpTally a k x s) := by
  unfold bumpTally
  simp only
  split
  · exact .refl s
  · split
    · exact (quiet_raise _ _ _).since rfl
    · exact .of_rge rfl

theorem quiet_bumpTallyQuiet (a : Nat) (s : State) : Quiet s (bumpTallyQuiet a s) := .of_rge rfl

theorem quiet_bumpHealth (k n : Nat) (s : State) : Quiet s (bumpHealth k n s) := by
  unfold bumpHealth
  simp only
  split
  · exact (quiet_post _ _ _ _ _).since rfl
  · exact .of_rge rfl

theorem quiet_bumpHealthBy (k u n : Nat) (s : State) : Quiet s (bumpHealthBy k u n s) :=
  (quiet_bumpHealth _ _ _).since rfl

theorem quiet_healthNotice (kind seg arg value : Nat) (s : State) : Quiet s (healthNotice kind seg arg value s) := quiet_post _ _ _ _ _

theorem quiet_fnNotice (f fevent err : Nat) (s : State) : Quiet s (fnNotice f fevent err s) := quiet_post _ _ _ _ _

theorem quiet_ringNotice (r : Ring) (event status addr : Nat) (s : State) : Quiet s (ringNotice r event status addr s) := quiet_post _ _ _ _ _

theorem quiet_exhaust (status nsid : Nat) (s : State) : Quiet s (exhaust status nsid s) :=
  ((quiet_bumpHealth 14 1 (setDegraded s)).since (of_one (a := .rge) (by simp))).trans (quiet_healthNotice _ _ _ _ _)

theorem quiet_modeNotice (prev mcause : Nat) (s : State) : Quiet s (modeNotice prev mcause s) := by
  unfold modeNotice
  simp only
  generalize (0 :: _ : List Nat) = l
  generalize modePayload prev mcause s = p
  induction l generalizing s with
  | nil => exact .refl s
  | cons a t ih => exact (quiet_post a 0x06 0xFFFF p s).trans (ih _)

theorem quiet_output (c : Flight) (data : List Byte) (s : State) : Quiet s (output c data s) := by
  unfold output
  split
  · exact .refl s
  · exact (quiet_bumpHealthBy _ _ _ _).since rfl

/-- A completion takes its command out of flight and writes at most one entry. -/
theorem quiet_writeCompletion (k : Nat) (c : Flight) (a b d : Nat) (s : State) : Quiet s (writeCompletion k c a b d s) := by
  have h1 := quiet_onRing k (fun q => { q with reserved := q.reserved - 1 }) (fun _ => rfl) s
  unfold writeCompletion
  split
  · exact .refl s
  · split
    · exact h1
    · have h2 : ∀ o, Quiet s (onRing k advance (emit o (onRing k (fun q => { q with reserved := q.reserved - 1 }) s))) :=
        fun o => h1.trans ((quiet_onRing k advance (fun _ => rfl) (emit o _)).since rfl)
      simp only
      split
      · exact h2 _
      · exact (h2 _).trans (quiet_coalesce _ _)

/-- A command's completion takes it out of flight, and of the functions, rings and other commands changes nothing. -/
theorem completeX_rest (id status result : Nat) (x : ErrInfo) (s : State) :
    ∃ w e, Quiet s w ∧ (completeX id status result x s).rge = { w.rge with flights := if (tget id s.rge.flights).isSome then tdel id s.rge.flights else s.rge.flights, ended := e } := by
  unfold completeX
  split
  · rename_i h; exact ⟨s, s.rge.ended, .refl s, by rw [h]; rfl⟩
  · rename_i c h
    have hd : ∀ w, Quiet s w → ∃ v e, Quiet s v ∧ (dropFlight id w).rge = { v.rge with flights := if (tget id s.rge.flights).isSome then tdel id s.rge.flights else s.rge.flights, ended := e } := by
      intro w q; exact ⟨w, noteEnd w.now c w.rge.ended, q, by simp [dropFlight, onRge, h, q.flights]⟩
    split
    · exact hd s (.refl s)
    · simp only
      apply hd
      have he : Quiet s (if isErr (shownStatus c status) = true then logErr c (shownStatus c status) x s else s) := by
        split <;> exact .of_rge rfl
      split
      · exact he.trans (quiet_writeCompletion _ _ _ _ _ _)
      · exact he

theorem completeX_flights (id status result : Nat) (x : ErrInfo) (s : State) (h : TabWf s.rge.flights = true) :
    tget id (completeX id status result x s).rge.flights = none := by
  obtain ⟨w, _, -, e⟩ := completeX_rest id status result x s
  rw [e]
  simp only
  split
  · exact tget_tdel_self h
  · rename_i k; simpa using k

theorem completeX_func (id status result : Nat) (x : ErrInfo) (s : State) (f : Nat) :
    (funcOf (completeX id status result x s) f).rest = (funcOf s f).rest := by
  obtain ⟨w, _, q, e⟩ := completeX_rest id status result x s
  simp only [funcOf, e]
  exact q.func f

theorem completeX_ring (id status result : Nat) (x : ErrInfo) (s : State) (k : Nat) :
    (ringOf (completeX id status result x s) k).map Ring.rest = (ringOf s k).map Ring.rest := by
  obtain ⟨w, _, q, e⟩ := completeX_rest id status result x s
  simp only [ringOf, e]
  exact q.ring k

theorem Quiet.canPost {s t : State} (h : Quiet s t) {c : Flight} (k : CanPost s c) : CanPost t c := by
  obtain ⟨h1, j, r, h2, h3, h4⟩ := k
  refine ⟨by rw [h.st]; exact h1, ?_⟩
  have hr := h.ring j
  rw [h3] at hr
  cases e : ringOf t j with
  | none => rw [e] at hr; simp at hr
  | some q =>
    rw [e] at hr
    have hq : q.rest.stopped = r.rest.stopped := by simp at hr; rw [hr]
    refine ⟨j, q, ?_, e, hq.trans h4⟩
    have hc := h.ring (ringKey c.fn true c.ring)
    unfold cqKey at h2 ⊢
    cases e1 : ringOf s (ringKey c.fn true c.ring) with
    | none => rw [e1] at h2; cases h2
    | some x =>
      rw [e1] at h2 hc
      cases e2 : ringOf t (ringKey c.fn true c.ring) with
      | none => rw [e2] at hc; cases hc
      | some y =>
        rw [e2] at hc
        have : y.rest.cq = x.rest.cq := by simp at hc; rw [hc]
        have : y.cq = x.cq := this
        simp only [this]; exact h2

theorem coalesce_out (k : Nat) (s : State) {o : Out} (h : o ∈ s.out) : o ∈ (coalesce k s).out := by
  unfold coalesce
  split
  · exact h
  · split
    · exact h
    · simp only
      split
      · unfold sendVector
        split
        · exact h
        split
        · exact List.mem_cons_of_mem _ h
        · exact h
      · exact h

/-- A command that can be completed has its completion written. -/
theorem completeX_posted {id : Nat} {c : Flight} {s : State} (hf : tget id s.rge.flights = some c) (hp : CanPost s c) (status result : Nat) (x : ErrInfo) :
    Posted c status result (completeX id status result x s) := by
  obtain ⟨h1, k, r, h2, h3, h4⟩ := hp
  unfold completeX
  rw [hf]
  simp only
  rw [if_neg (by simpa using h1)]
  generalize hw : (if isErr (shownStatus c status) = true then logErr c (shownStatus c status) x s else s) = w
  have hr : w.rge = s.rge := by subst w; split <;> rfl
  have h2 : cqKey w c.fn c.ring = some k := by simpa [cqKey, ringOf, hr] using h2
  have h3 : ringOf w k = some r := by simpa [ringOf, hr] using h3
  rw [h2]
  show Posted c status result (writeCompletion _ _ _ _ _ _)
  unfold writeCompletion
  rw [h3]
  simp only [h4, Bool.false_eq_true, if_false]
  split
  · exact ⟨_, _, _, List.mem_cons_self .., rfl, rfl, rfl⟩
  · exact ⟨_, _, _, coalesce_out _ _ (List.mem_cons_self ..), rfl, rfl, rfl⟩

theorem complete_posted {id : Nat} {c : Flight} {s : State} (hf : tget id s.rge.flights = some c) (hp : CanPost s c) (status result : Nat) :
    Posted c status result (complete id status result s) := completeX_posted hf hp status result {}

/-- After changes that are quiet, too. -/
theorem Quiet.posted {id : Nat} {c : Flight} {s t : State} (q : Quiet s t) (hf : tget id s.rge.flights = some c) (hp : CanPost s c) (status result : Nat) (x : ErrInfo) :
    Posted c status result (completeX id status result x t) :=
  completeX_posted (by rw [q.flights]; exact hf) (q.canPost hp) status result x

/-- A command in service is served. -/
theorem InService.serve {op id : Nat} {c : Flight} {s : State} (h : InService op id c s) (f : Flight → State → State) : serve op id f s = .next (f c s) := by
  unfold Machine.serve
  rw [h.flight]
  simp only
  rw [if_pos ⟨h.code, h.may⟩, h.alive]

/-! ## What has been sent stays sent -/

/-- Everything that had left the part in `s` is on record in `t`. -/
def Later (s t : State) : Prop := ∀ o ∈ s.out, o ∈ t.out

theorem Later.refl (s : State) : Later s s := fun _ h => h
theorem Later.trans {a b c : State} (h : Later a b) (k : Later b c) : Later a c := fun o ho => k o (h o ho)
theorem Later.of_out {s t : State} (h : t.out = s.out) : Later s t := fun o ho => by rw [h]; exact ho
theorem Later.since {s t u : State} (h : Later t u) (e : t.out = s.out) : Later s u := (Later.of_out e).trans h
theorem later_emit (o : Out) (s : State) : Later s (emit o s) := fun _ h => List.mem_cons_of_mem _ h
theorem later_coalesce (k : Nat) (s : State) : Later s (coalesce k s) := fun _ h => coalesce_out k s h

theorem later_writeNotice (k : Nat) (r : Ring) (n : Notice) (s : State) : Later s (writeNotice k r n s) :=
  fun _ h => coalesce_out k _ (List.mem_cons_of_mem _ h)

theorem later_postCore (f typ src : Nat) (p : List Byte) (s : State) : Later s (postCore f typ src p s).2 := by
  have hfire : ∀ s, (fireOne s).out = s.out := fun s => of_one (a := .out) (by simp)
  unfold postCore
  simp only
  generalize hw : (if f = 0 then _ else s : State) = w
  have hq : w.out = s.out := by subst w; split <;> rfl
  generalize hs1 : onFunc f (fun e => { e with seq := (e.seq + 1) % 65536 }) w = s1
  have e1 : s1.out = s.out := by subst s1; exact hq
  have k1 : ∀ g, Later s (onFunc f g s1) := fun g => .of_out e1
  split
  · exact .of_out hq
  · split
    · exact (k1 _).trans (.of_out (hfire _))
    · split
      · split
        · exact (k1 _).trans (later_writeNotice _ _ _ _)
        · split <;> exact k1 _
      · split <;> exact k1 _

theorem later_raiseCore (k : Nat) (x : Site) (ef : Nat) (s : State) : Later s (raiseCore k x ef s).2 := by
  unfold raiseCore
  simp only
  generalize hw : onInt _ (setCtr _ _ _) = w
  have hq : w.out = s.out := by subst w; rfl
  split
  · exact .of_out hq
  · split
    · exact .of_out hq
    · exact (later_postCore _ _ _ _ _).since hq

theorem later_dropped (f ef : Nat) (s : State) : Later s (dropped f ef s) := by
  unfold dropped
  simp only
  generalize hr : raiseCore 12 _ ef _ = r
  have hq : Later s r.2 := by subst r; exact (later_raiseCore _ _ _ _).since rfl
  split
  · exact hq.trans ((later_raiseCore 12 { func := 0 } 0 _).since (s := r.2) rfl)
  · exact hq

theorem later_raiseF (k : Nat) (x : Site) (ef : Nat) (s : State) : Later s (raiseF k x ef s) := by
  have h := later_raiseCore k x ef s
  unfold raiseF
  split
  · rename_i e; rw [e] at h; exact h.trans (later_dropped _ _ _)
  · rename_i e; rw [e] at h; exact h

theorem later_raise (k : Nat) (x : Site) (s : State) : Later s (raise k x s) := later_raiseF k x 0 s

theorem later_post (f typ src : Nat) (p : List Byte) (s : State) : Later s (post f typ src p s) := by
  have h := later_postCore f typ src p s
  unfold post
  split
  · rename_i e; rw [e] at h; exact h.trans (later_dropped _ _ _)
  · rename_i e; rw [e] at h; exact h

theorem later_bump (a n : Nat) (s : State) : Later s (bump a n s) := by
  unfold bump
  simp only
  split
  · exact (later_post _ _ _ _ _).since rfl
  · exact .of_out rfl

theorem later_bumpHealth (k n : Nat) (s : State) : Later s (bumpHealth k n s) := by
  unfold bumpHealth
  simp only
  split
  · exact (later_post _ _ _ _ _).since rfl
  · exact .of_out rfl

theorem later_bumpHealthBy (k u n : Nat) (s : State) : Later s (bumpHealthBy k u n s) := (later_bumpHealth _ _ _).since rfl

theorem later_modeNotice (prev mcause : Nat) (s : State) : Later s (modeNotice prev mcause s) := by
  unfold modeNotice
  simp only
  generalize (0 :: _ : List Nat) = l
  generalize modePayload prev mcause s = p
  induction l generalizing s with
  | nil => exact .refl s
  | cons a t ih => exact (later_post a 0x06 0xFFFF p s).trans (ih _)

theorem later_writeCompletion (k : Nat) (c : Flight) (a b d : Nat) (s : State) : Later s (writeCompletion k c a b d s) := by
  unfold writeCompletion
  split
  · exact .refl s
  · split
    · exact .of_out rfl
    · simp only
      have h : ∀ o, Later s (onRing k advance (emit o (onRing k (fun q => { q with reserved := q.reserved - 1 }) s))) :=
        fun o => ((later_emit o (onRing k _ s)).since (s := s) rfl).trans (.of_out rfl)
      split
      · exact h _
      · exact (h _).trans (later_coalesce _ _)

theorem later_completeX (id status result : Nat) (x : ErrInfo) (s : State) : Later s (completeX id status result x s) := by
  unfold completeX
  split
  · exact .refl s
  · rename_i c h
    split
    · exact .of_out rfl
    · simp only
      have he : Later s (if isErr (shownStatus c status) = true then logErr c (shownStatus c status) x s else s) := by
        split <;> exact .of_out rfl
      split
      · exact (he.trans (later_writeCompletion _ _ _ _ _ _)).trans (.of_out rfl)
      · exact he.trans (.of_out rfl)

/-- A command's output data has been sent when its function is not resetting. -/
theorem output_sent (c : Flight) (data : List Byte) (s : State) (h : (funcOf s c.fn).st ≠ .resetting) :
    Out.output c.fn c.ring c.cid (scatter c.sgl data) ∈ (output c data s).out := by
  unfold output
  rw [if_neg (by simpa using h)]
  exact later_bumpHealthBy _ _ _ _ _ (List.mem_cons_self ..)

theorem Posted.later {c : Flight} {status result : Nat} {s t : State} (h : Posted c status result s) (k : Later s t) : Posted c status result t := by
  obtain ⟨a, b, e, h1, h2⟩ := h
  exact ⟨a, b, e, k _ h1, h2⟩

/-! ## Logs and notices -/

theorem writeNotice_integ (k : Nat) (r : Ring) (n : Notice) (s : State) : (writeNotice k r n s).integ = s.integ := of_one (a := .integ) (by simp)
theorem writeNotice_history (k : Nat) (r : Ring) (n : Notice) (s : State) : (writeNotice k r n s).history = s.history := of_one (a := .history) (by simp)
theorem clearArm_integ (s : State) : (clearArm s).integ = s.integ := of_one (a := .integ) (by simp)
theorem fireOne_log (s : State) : (fireOne s).integ.log = s.integ.log := by
  unfold fireOne
  split
  · rw [clearArm_integ]; rfl
  · rfl

theorem integ_onFunc (f : Nat) (g : Func → Func) (s : State) : (onFunc f g s).integ = s.integ := rfl

theorem postCore_log (f typ src : Nat) (p : List Byte) (s : State) : (postCore f typ src p s).2.integ.log = s.integ.log := by
  unfold postCore
  simp only
  generalize hw : (if f = 0 then _ else s : State) = w
  have hq : w.integ.log = s.integ.log := by subst w; split <;> rfl
  rw [← hq]
  generalize hs1 : onFunc f (fun e => { e with seq := (e.seq + 1) % 65536 }) w = s1
  have e1 : s1.integ = w.integ := by subst s1; rfl
  split
  · rfl
  · split
    · rw [fireOne_log, integ_onFunc, e1]
    · split
      · split
        · rw [writeNotice_integ, integ_onFunc, e1]
        · split <;> rw [integ_onFunc, e1]
      · split <;> rw [integ_onFunc, e1]

theorem postCore_history (f typ src : Nat) (p : List Byte) (s : State) : (postCore f typ src p s).2.history =
    if f = 0 then ({ typ := typ, seq := (funcOf s f).seq, lost := (funcOf s f).lost, src := src, time := evTime s, payload := fit 16 p } :: s.history).take 1024 else s.history := by
  have hfire : ∀ s, (fireOne s).history = s.history := fun s => of_one (a := .history) (by simp)
  unfold postCore
  simp only
  generalize hw : (if f = 0 then _ else s : State) = w
  have hq : w.history = if f = 0 then ({ typ := typ, seq := (funcOf s f).seq, lost := (funcOf s f).lost, src := src, time := evTime s, payload := fit 16 p } :: s.history).take 1024 else s.history := by
    subst w; split <;> rfl
  rw [← hq]
  split
  · rfl
  · split
    · rw [hfire]; rfl
    · split
      · split
        · rw [writeNotice_history]; rfl
        · split <;> rfl
      · split <;> rfl

/-- The log entry of a raising, before what is discarded. -/
theorem raiseCore_log (k : Nat) (x : Site) (ef : Nat) (s : State) :
    ∃ e, e.dt = k ∧ e.time = evTime s ∧ (raiseCore k x ef s).2.integ.log = (e :: s.integ.log).take 496 := by
  unfold raiseCore
  simp only
  generalize he : Ev.mk _ _ _ _ _ _ _ _ = e
  have h1 : e.dt = k := by subst e; rfl
  have h2 : e.time = evTime s := by subst e; rfl
  refine ⟨e, h1, h2, ?_⟩
  split
  · rfl
  · split
    · rfl
    · rw [postCore_log]; rfl

theorem mem_take_cons {α : Type} {a b : α} {l : List α} {n : Nat} (h : a ∈ l.take n) : a ∈ (b :: l).take (n + 1) := by
  rw [List.take_succ_cons]; exact List.mem_cons_of_mem _ h

theorem take_take_mem {α : Type} {a b : α} {l : List α} {n m : Nat} (h : a ∈ l.take n) (hm : n < m) : a ∈ (b :: (l.take n)).take m := by
  cases m with
  | zero => omega
  | succ m =>
    rw [List.take_succ_cons]
    refine List.mem_cons_of_mem _ ?_
    rw [List.take_take, Nat.min_eq_right (by omega)]; exact h

theorem setCtr_log (a v : Nat) (s : State) : (setCtr a v s).integ.log = s.integ.log := rfl

theorem raiseCore_log' (k : Nat) (x : Site) (ef a v : Nat) (s : State) :
    ∃ e, (raiseCore k x ef (setCtr a v s)).2.integ.log = (e :: s.integ.log).take 496 := by
  obtain ⟨e, -, -, h⟩ := raiseCore_log k x ef (setCtr a v s)
  rw [setCtr_log] at h
  exact ⟨e, h⟩

theorem dropped_log (f ef : Nat) (s : State) {e : Ev} {m : List Ev} (h : s.integ.log = (e :: m).take 496) : e ∈ (dropped f ef s).integ.log := by
  unfold dropped
  simp only
  obtain ⟨e1, h1⟩ := raiseCore_log' 12 { func := f } ef (Reg.fnNoticeDrop f) (satAdd 0xFFFFFFFF (ctr s (Reg.fnNoticeDrop f)) 1) s
  generalize raiseCore 12 { func := f } _ _ = r at h1 ⊢
  rw [h] at h1
  simp only [List.take_succ_cons] at h1
  split
  · obtain ⟨e2, h2⟩ := raiseCore_log' 12 { func := 0 } 0 (Reg.fnNoticeDrop 0) (satAdd 0xFFFFFFFF (ctr r.2 (Reg.fnNoticeDrop 0)) 1) r.2
    rw [h2, h1]
    simp
  · rw [h1]; simp

/-- A raising is in the detector log. -/
theorem raiseF_logged (k : Nat) (x : Site) (ef : Nat) (s : State) : Logged k (raiseF k x ef s) := by
  obtain ⟨e, h1, -, h2⟩ := raiseCore_log k x ef s
  refine ⟨e, ?_, h1⟩
  unfold raiseF
  split
  · rename_i h; rw [h] at h2; exact dropped_log _ _ _ h2
  · rename_i h; rw [h] at h2; simp only at h2; rw [h2]; simp

theorem raise_logged (k : Nat) (x : Site) (s : State) : Logged k (raise k x s) := raiseF_logged k x 0 s

theorem raiseCore_history (k : Nat) (x : Site) (ef : Nat) (s : State) :
    (raiseCore k x ef s).2.history = s.history ∨ ∃ n, (raiseCore k x ef s).2.history = (n :: s.history).take 1024 := by
  unfold raiseCore
  simp only
  generalize hw : onInt _ (setCtr _ _ _) = w
  have hq : w.history = s.history := by subst w; rfl
  split
  · exact .inl hq
  · split
    · exact .inl hq
    · rw [postCore_history]
      rw [if_pos rfl]
      exact .inr ⟨_, by simp only [onInt, hq]; rfl⟩

/-- A notice posted to function 0 is among those posted. -/
theorem post_noticed (typ src : Nat) (p : List Byte) (s : State) : Noticed typ p (post 0 typ src p s) := by
  have h0 := postCore_history 0 typ src p s
  rw [if_pos rfl] at h0
  generalize hn : Notice.mk _ _ _ _ _ _ = n at h0
  have h1 : n.typ = typ ∧ n.payload = fit 16 p := by subst n; exact ⟨rfl, rfl⟩
  refine ⟨n, ?_, h1⟩
  unfold post
  split
  · rename_i w h
    rw [h] at h0
    have h0 : w.history = (n :: s.history).take 1024 := h0
    unfold dropped
    simp only
    generalize hr : raiseCore 12 _ _ _ = r
    have k1 := raiseCore_history 12 { func := 0 } (by assumption) (setCtr (Reg.fnNoticeDrop 0) (satAdd 0xFFFFFFFF (ctr w (Reg.fnNoticeDrop 0)) 1) w)
    rw [hr] at k1
    have k1 : r.2.history = w.history ∨ ∃ n, r.2.history = (n :: w.history).take 1024 := k1
    rw [h0] at k1
    have k2 : (∃ m, r.2.history = (n :: m).take 1024) ∨ ∃ a m, r.2.history = (a :: n :: m).take 1024 := by
      rcases k1 with k1 | ⟨a, k1⟩
      · exact .inl ⟨_, k1⟩
      · exact .inr ⟨a, s.history.take 1023, by rw [k1]; simp [List.take_succ_cons]⟩
    split
    · have k3 := raiseCore_history 12 { func := 0 } 0 (setCtr (Reg.fnNoticeDrop 0) (satAdd 0xFFFFFFFF (ctr r.2 (Reg.fnNoticeDrop 0)) 1) r.2)
      have k3 : _ = r.2.history ∨ ∃ b, _ = (b :: r.2.history).take 1024 := k3
      rcases k3 with k3 | ⟨b, k3⟩ <;> rcases k2 with ⟨m, k2⟩ | ⟨a, m, k2⟩ <;> rw [k3, k2] <;> simp
    · rcases k2 with ⟨m, k2⟩ | ⟨a, m, k2⟩ <;> rw [k2] <;> simp
  · rename_i w h
    rw [h] at h0
    simp only at h0
    rw [h0]; simp

end Sys2Proof.Machine
end

