-- ==== Sys2Proof/Laws/Serve.lean ====
section
/-!
SUPPORT. What serving a host command, a reset, a frame boundary and the sideband leave: the pieces from which a command's effect is put
together.
-/
namespace Sys2Proof.Machine

theorem meet_unarmed {s : State} (h : s.integ.armed = false) (k seg unit : Nat) (real : Bool) : meet k seg unit real s = (real, 0, s) := by
  simp [meet, injHits, h]

theorem tick_le {t : Nat} {s : State} (h : t ≤ s.now) : tick t s = s := by
  unfold tick; rw [Nat.max_eq_left h]

theorem funcOf_onFunc {f : Nat} {g : Func → Func} {s : State} (h : g (funcOf s f) ≠ {}) : funcOf (onFunc f g s) f = g (funcOf s f) := by
  have ht : (onFunc f g s).rge.funcs = tput f (g (funcOf s f)) s.rge.funcs := if_neg h
  unfold funcOf at ht ⊢; rw [ht, tgetD_tput_self]

theorem func_ne {e : Func} (h : e.st ≠ .absent) : e ≠ {} := by intro k; exact h (by rw [k])

/-- prove `Completes` from the outcome -/
theorem completes_of {c : Instr} {s u : State} {P : State → Prop} (h : exec c s = .next u) (k : P u) : Completes c s P := ⟨u, h, k⟩

theorem dropRuns_rge (f : Nat) (s : State) : ∃ fl e, (dropRuns f s).rge = { s.rge with flights := fl, ended := e } := by
  unfold dropRuns
  simp only
  generalize List.map _ _ = l
  suffices h : ∀ w : State, ∃ fl e, (l.foldl (fun s p => cleanRun p.1 (dropFlight p.2 s)) w).rge = { w.rge with flights := fl, ended := e } from h s
  induction l with
  | nil => intro w; exact ⟨_, _, rfl⟩
  | cons a t ih =>
    intro w
    obtain ⟨fl, n, e⟩ := ih (cleanRun a.1 (dropFlight a.2 w))
    refine ⟨fl, n, ?_⟩
    rw [List.foldl_cons, e, show ∀ k s, (cleanRun k s).rge = s.rge from fun k s => of_one (a := .rge) (by simp)]
    rfl

theorem dropRuns_func (f g : Nat) (s : State) : funcOf (dropRuns f s) g = funcOf s g := by
  obtain ⟨fl, n, e⟩ := dropRuns_rge f s
  simp [funcOf, e]

theorem quiet_endBoundFailed (id : Nat) (s : State) : Quiet s (endBoundFailed id s) := by
  unfold endBoundFailed
  split
  · exact .refl s
  · split
    · exact .refl s
    · rename_i c _ _
      dsimp only
      generalize hy : (if c.bound = Bound.bounded then rememberDone c s else s) = y
      have q : Quiet s y := by rw [← hy]; split <;> exact .of_rge rfl
      split
      · exact q.trans ((quiet_bump _ _ _).since rfl)
      · exact q

theorem quiet_foldl {α : Type} (g : State → α → State) (h : ∀ s a, Quiet s (g s a)) (l : List α) (s : State) : Quiet s (l.foldl g s) := by
  induction l generalizing s with
  | nil => exact .refl s
  | cons a t ih => exact (h s a).trans (ih _)

/-- What a reset does to the Ring Engine: the function is resetting, its runs are gone, and flights of its that had not begun too. -/
theorem resetFunction_shape (f : Nat) (s : State) (h : (funcOf s f).st = .ready) :
    ∃ y e, Quiet (dropRuns f (fnNotice f 3 0 (onFunc f (fun e => { e with st := .resetting, held := [], deleting := none }) s))) y ∧
      (resetFunction f s).rge = { y.rge with flights := tfilter (fun _ c => !(c.fn == f && !c.begun)) y.rge.flights, ended := e } := by
  unfold resetFunction
  rw [if_neg (by rw [h]; decide)]
  exact ⟨_, _, quiet_foldl _ (fun s id => quiet_endBoundFailed id s) _ _, rfl⟩

theorem resetFunction_st (f : Nat) (s : State) (h : (funcOf s f).st = .ready) : (funcOf (resetFunction f s) f).st = .resetting := by
  obtain ⟨y, n, q, e⟩ := resetFunction_shape f s h
  have k : (funcOf (onFunc f (fun e => { e with st := .resetting, held := [], deleting := none }) s) f).st = .resetting := by
    rw [funcOf_onFunc (func_ne (by simp))]
  have : (funcOf (resetFunction f s) f).st = (funcOf y f).st := by unfold funcOf; rw [e]
  rw [this, q.st, dropRuns_func, (quiet_fnNotice f 3 0 _).st, k]

theorem InService.tick {op id : Nat} {c : Flight} {s : State} (h : InService op id c s) (t : Nat) : InService op id c (tick t s) :=
  ⟨h.flight, h.code, h.may, h.alive, h.post⟩

theorem rgeQ {s t : State} (h : t.rge = s.rge) : Quiet s t := .of_rge h

theorem quiet_cadNotice (a b c : Nat) (s : State) : Quiet s (cadNotice a b c s) := quiet_post _ _ _ _ _

theorem posted_of {id : Nat} {c : Flight} {op : Nat} {s t : State} (h : InService op id c s) (q : Quiet s t) (status result : Nat) (x : ErrInfo) : Posted c status result (completeX id status result x t) :=
  q.posted h.flight h.post _ _ _

theorem postedR {id : Nat} {c : Flight} {op : Nat} {s t : State} (h : InService op id c s) (q : t.rge = s.rge) (status result : Nat) (x : ErrInfo) : Posted c status result (completeX id status result x t) :=
  (rgeQ q).posted h.flight h.post _ _ _

theorem cmd_completeX (id a b : Nat) (x : ErrInfo) (s : State) : (completeX id a b x s).cmd = s.cmd := of_one (a := .cmd) (by simp)

theorem cmd_complete (id a b : Nat) (s : State) : (complete id a b s).cmd = s.cmd := of_one (a := .cmd) (by simp)

/-- A fuse triad written is at most a wrapped counter's notice. -/
theorem quiet_putTriad (k : Nat) (w : Triad) (s : State) : Quiet s (putTriad k w s) := by
  unfold putTriad
  split
  · exact (quiet_bump _ _ _).since rfl
  · exact .of_rge rfl

theorem cmd_writeSlot (i : Nat) (e : Bool) (r n : Nat) (l : List Byte) (s : State) : (writeSlot i e r n l s).cmd = s.cmd := of_one (a := .cmd) (by simp)

/-- Watching the bound's suspensions changes only when they ended. -/
theorem track_cmd (f : State → State) (s : State) : ∃ e, (track f s).cmd = { (f s).cmd with suspEnd := e } := by
  unfold track
  simp only
  generalize f s = w
  suffices h : ∀ (l : List Nat) (p : Nat → Bool) (q v : State), ∃ e, (l.foldl (fun q n => if p n then onCmd (fun c => { c with suspEnd := tput n v.now c.suspEnd }) q else q) q).cmd = { q.cmd with suspEnd := e } from h _ (fun n => boundSuspended s n && !boundSuspended w n) w w
  intro l
  induction l with
  | nil => intro p q v; exact ⟨_, rfl⟩
  | cons a t ih =>
    intro p q v
    obtain ⟨e, h⟩ := ih p (if p a then onCmd (fun c => { c with suspEnd := tput a v.now c.suspEnd }) q else q) v
    refine ⟨e, ?_⟩
    rw [List.foldl_cons, h]
    split <;> rfl

theorem relevelNow_streams (n : Nat) (s : State) : (relevelNow n s).cmd.streams = s.cmd.streams := by
  unfold relevelNow
  simp only
  obtain ⟨e, h⟩ := track_cmd (fun s' => switchLevel n (targetLevel s n) (onPwr (fun p => { p with volt := min p.volt (targetLevel s n), raising := tdel n p.raising }) s')) s
  have hs : ∀ n l s, (switchLevel n l s).cmd = s.cmd := fun _ _ _ => of_one (a := .cmd) (by simp)
  rw [h]
  simp only [hs]; rfl

theorem startBoot_facts (env : BootEnv) (s : State) : (startBoot env s).boot.powered = s.boot.powered ∧ (startBoot env s).boot.inReset = false ∧ (startBoot env s).boot.testMode = env.testMode := by
  unfold startBoot
  simp only
  generalize hw : onBoot (fun b => _) s = w
  have e1 : w.boot.powered = s.boot.powered := by rw [← hw]; rfl
  have e2 : w.boot.inReset = false := by rw [← hw]; rfl
  have e3 : w.boot.testMode = env.testMode := by rw [← hw]; rfl
  split
  · exact ⟨e1, e2, e3⟩
  · exact ⟨(of_one (a := .powered) (by simp)).trans e1, (of_one (a := .inReset) (by simp)).trans e2, (of_one (a := .testMode) (by simp)).trans e3⟩

theorem wipe_loseStone (s : State) : (wipe (loseStone s)).regs = [] ∧ (wipe (loseStone s)).rge = {} := ⟨rfl, rfl⟩

theorem wipeSoft_stone (s : State) : (wipeSoft s).med.stone = [] := by
  unfold wipeSoft
  dsimp only
  (repeat' split) <;> rfl

theorem resetNow_facts (s : State) : (resetNow s).boot.inReset = true ∧ (resetNow s).med.stone = [] := by
  have h1 : ∀ a b s, (modeNotice a b s).boot = s.boot := fun _ _ _ => of_one (a := .boot) (by simp)
  have h3 : ∀ a b s, (modeNotice a b s).med = s.med := fun _ _ _ => of_one (a := .med) (by simp)
  have key : ∀ (c d : Prop) [Decidable c] [Decidable d] (p q : Nat) (z : State), z.boot.inReset = true ∧ z.med.stone = [] →
      (if c then modeNotice p 3 z else if d then z else modeNotice q 1 z).boot.inReset = true ∧ (if c then modeNotice p 3 z else if d then z else modeNotice q 1 z).med.stone = [] := by
    intro c d _ _ p q z h
    split
    · rw [h1, h3]; exact h
    · split
      · exact h
      · rw [h1, h3]; exact h
  exact key _ _ _ _ _ ⟨rfl, wipeSoft_stone s⟩

theorem resetRequest_facts (soft : Bool) (s : State) (h1 : s.boot.inReset = false) (h2 : s.boot.testMode = false) :
    (resetRequest soft s).boot.resetPending = true ∧ (resetRequest soft s).brc.flushing = true
      ∨ (resetRequest soft s).boot.inReset = true ∧ (resetRequest soft s).med.stone = [] := by
  unfold resetRequest
  dsimp only
  have e : ∀ c : Prop, [Decidable c] → (if c then s else onBoot (fun b => { b with soft := soft }) s).boot.inReset = false
      ∧ (if c then s else onBoot (fun b => { b with soft := soft }) s).boot.testMode = false := by
    intro c _; split <;> exact ⟨h1, h2⟩
  obtain ⟨e1, e2⟩ := e (s.boot.resetPending = true)
  generalize (if s.boot.resetPending = true then s else onBoot (fun b => { b with soft := soft }) s) = w at e1 e2 ⊢
  rw [if_neg (by simp [e1]), if_neg (by simp [e2])]
  split
  · rename_i h; exact .inl ⟨rfl, h⟩
  · exact .inr (resetNow_facts _)

theorem cad_cadNotice (a b c : Nat) (s : State) : (cadNotice a b c s).cad = s.cad := of_one (a := .cad) (by simp)

theorem adoptMode_cad (s : State) : (adoptMode s).2.cad.frame = s.cad.frame ∧ (adoptMode s).2.cad.frameStart = s.cad.frameStart
    ∧ (s.cad.mode ≠ .master → (adoptMode s).2.cad.mode = .master → (adoptMode s).2.cad.st = .master) := by
  unfold adoptMode; simp only; split
  · exact ⟨rfl, rfl, fun h k => absurd k h⟩
  · split
    · simp [onCad, setMean]
    · split
      · rename_i h; simp [onCad, h]
      · rename_i h _; simp [onCad, h]

theorem steer_cad (s : State) : (steer s).cad.frame = s.cad.frame ∧ (steer s).cad.frameStart = s.cad.frameStart
    ∧ (steer s).cad.mode = s.cad.mode ∧ (steer s).cad.st = s.cad.st := by
  unfold steer; split <;> simp [onCad, setMean]

/-- A turn of the frame count below its end. -/
theorem frameTurn_cad (b : Nat) (s : State) (h : s.cad.frame < 0xFFFFFFFFFF) : (frameTurn b s).2.cad.frame = s.cad.frame + 1 ∧ (frameTurn b s).2.cad.frameStart = b
    ∧ (s.cad.mode ≠ .master → (frameTurn b s).2.cad.mode = .master → (frameTurn b s).2.cad.st = .master) := by
  have k0 : (onCad (fun c => countHold (nextFrame b (odoLatch c))) s).cad.frame = s.cad.frame + 1 ∧ (onCad (fun c => countHold (nextFrame b (odoLatch c))) s).cad.frameStart = b
      ∧ (onCad (fun c => countHold (nextFrame b (odoLatch c))) s).cad.mode = s.cad.mode := by
    have : ¬ (0xFFFFFFFFFF ≤ (odoLatch s.cad).frame) := by simp [odoLatch]; omega
    simp only [onCad]
    unfold countHold nextFrame
    rw [if_neg this]
    split <;> simp [odoLatch]
  unfold frameTurn
  dsimp only
  generalize (onCad (fun c => countHold (nextFrame b (odoLatch c))) s) = w at k0
  obtain ⟨a1, a2, a3⟩ := adoptMode_cad w
  obtain ⟨b1, b2, b3, b4⟩ := steer_cad (adoptMode w).2
  refine ⟨b1.trans (a1.trans k0.1), b2.trans (a2.trans k0.2.1), fun hm k => ?_⟩
  rw [b4]; rw [b3] at k
  exact a3 (by rw [k0.2.2]; exact hm) k

/-- What follows a turn leaves the frame and the state of the unit. -/
theorem afterTurn_cad (s : State) : (afterTurn s).cad.frame = s.cad.frame ∧ (afterTurn s).cad.frameStart = s.cad.frameStart
    ∧ (afterTurn s).cad.mode = s.cad.mode ∧ (afterTurn s).cad.st = s.cad.st := by
  have km : (mediaBoundary (driveOut s)).cad = (driveOut s).cad := of_one (a := .cad) (by simp)
  unfold afterTurn
  rw [km]
  unfold driveOut; split
  · split <;> simp [onCad, emit]
  · simp [onCad, emit]

theorem cad_turnNotice (k : Nat) (s : State) : (turnNotice k s).cad = s.cad := cad_cadNotice _ _ _ _

theorem boundary_frame (b : Nat) (s : State) (h : s.cad.frame < 0xFFFFFFFFFF) : (boundary b s).cad.frame = s.cad.frame + 1 ∧ (boundary b s).cad.frameStart = b := by
  obtain ⟨h1, h2, -⟩ := frameTurn_cad b s h
  unfold boundary
  dsimp only
  rw [(afterTurn_cad _).1, (afterTurn_cad _).2.1]
  split
  · rw [cad_turnNotice]; exact ⟨h1, h2⟩
  · exact ⟨h1, h2⟩

theorem edgeTaken_frame (d : Bool) (s : State) (h : s.cad.frame < 0xFFFFFFFFFF) : (edgeTaken d s).cad.frame = s.cad.frame + 1 ∧ (edgeTaken d s).cad.frameStart = s.now := by
  obtain ⟨h1, h2, -⟩ := frameTurn_cad s.now s h
  unfold edgeTaken
  dsimp only
  rw [(afterTurn_cad _).1, (afterTurn_cad _).2.1]
  split
  · rw [cad_turnNotice]; exact ⟨h1, h2⟩
  · split
    · rw [cad_turnNotice]; exact ⟨h1, h2⟩
    · exact ⟨h1, h2⟩

theorem holdLimit_frame (s : State) : (holdLimit s).cad.frame = s.cad.frame ∧ (holdLimit s).cad.frameStart = s.cad.frameStart ∧ (holdLimit s).cad.mode = s.cad.mode
    ∧ ((holdLimit s).cad.st = s.cad.st ∨ (holdLimit s).cad.st = .free) := by
  have hm : (meet 15 0xFF 0xFFFF false s).2.2.cad = s.cad := of_one (a := .cad) (by simp)
  have hr : ∀ a b c s, (raiseF a b c s).cad = s.cad := fun a b c s => of_one (a := .cad) (by simp)
  unfold holdLimit
  simp only
  split
  · split
    · simp [cad_cadNotice, onCad, hr, hm]
    · simp [hr, onCad, hm]
  · simp

theorem enterHoldover_cad (s : State) : (enterHoldover s).cad.frame = s.cad.frame ∧ (enterHoldover s).cad.frameStart = s.cad.frameStart ∧ (enterHoldover s).cad.mode = s.cad.mode
    ∧ ((enterHoldover s).cad.st = .holdover ∨ (enterHoldover s).cad.st = .free) := by
  have hr : ∀ a b s, (raise a b s).cad = s.cad := fun a b s => of_one (a := .cad) (by simp)
  unfold enterHoldover
  simp only
  generalize hw : turnNotice 1 _ = w
  have k : w.cad.frame = s.cad.frame ∧ w.cad.frameStart = s.cad.frameStart ∧ w.cad.mode = s.cad.mode ∧ w.cad.st = .holdover := by
    rw [← hw, cad_turnNotice, hr]; exact ⟨rfl, rfl, rfl, rfl⟩
  obtain ⟨k1, k2, k3, k4⟩ := k
  obtain ⟨a, b, c, d⟩ := holdLimit_frame w
  split
  · exact ⟨a.trans k1, b.trans k2, c.trans k3, by rw [k4] at d; exact d⟩
  · exact ⟨k1, k2, k3, .inl k4⟩

theorem lateExpiry_frame (s : State) (h : s.cad.frame < 0xFFFFFFFFFF) : (lateExpiry s).cad.frame = s.cad.frame + 1 ∧ (lateExpiry s).cad.frameStart = s.cad.frameStart + s.cad.period + lateW s + 1
    ∧ (s.cad.mode ≠ .master → if (lateExpiry s).cad.mode = .master then (lateExpiry s).cad.st = .master else (lateExpiry s).cad.st = .holdover ∨ (lateExpiry s).cad.st = .free) := by
  obtain ⟨h1, h2, h3⟩ := frameTurn_cad (s.cad.frameStart + s.cad.period + lateW s + 1) s h
  have e : lateExpiry s = afterTurn (if (frameTurn (s.cad.frameStart + s.cad.period + lateW s + 1) s).2.cad.mode = .master
      then turnNotice 1 (frameTurn (s.cad.frameStart + s.cad.period + lateW s + 1) s).2 else enterHoldover (frameTurn (s.cad.frameStart + s.cad.period + lateW s + 1) s).2) := rfl
  rw [e]
  clear e
  generalize (frameTurn (s.cad.frameStart + s.cad.period + lateW s + 1) s).2 = w at h1 h2 h3 ⊢
  rw [(afterTurn_cad _).1, (afterTurn_cad _).2.1, (afterTurn_cad _).2.2.1, (afterTurn_cad _).2.2.2]
  split
  · rename_i hm
    rw [cad_turnNotice]
    exact ⟨h1, h2, fun k => by rw [if_pos hm]; exact h3 k hm⟩
  · rename_i hm
    obtain ⟨a, b, c, d⟩ := enterHoldover_cad w
    exact ⟨a.trans h1, b.trans h2, fun _ => by rw [c, if_neg hm]; exact d⟩

theorem mem_jinsert_self (e : JEntry) (l : List JEntry) : e ∈ jinsert e l := by
  induction l with
  | nil => simp [jinsert]
  | cons a t ih => simp only [jinsert]; split <;> simp [ih]

theorem mem_queueJ (etype src : Nat) (key : Option Nat) (body : List Byte) (s : State) : ∃ e ∈ (queueJ etype src key body s).pith.jq, e.etype = etype ∧ e.body = body ∧ e.src = src ∧ e.key = key :=
  ⟨_, mem_jinsert_self _ _, rfl, rfl, rfl, rfl⟩

theorem tget_tfilter {α : Type} {p : Nat → α → Bool} {k : Nat} {t : Tab α} {a : α} (h : tget k (tfilter p t) = some a) : p k a = true := by
  have := tget_mem h
  simpa using (List.mem_filter.mp this).2

theorem quiet_known {s t : State} (q : Quiet s t) (k : Nat) : (ringOf t k).map (·.known) = (ringOf s k).map (·.known) := by
  have h := q.ring k
  have h := congrArg (Option.map Ring.known) h
  simpa [Option.map_map, Function.comp_def, Ring.rest] using h

theorem known_onRing {k n pos : Nat} {r : Ring} {g : Ring → Ring} {s t : State} (h : ringOf s k = some r) (hg : (g r).known = pos) : (ringOf (onRing k g s) k).map (·.known) = some pos := by
  rw [ringOf_onRing, if_pos rfl, h]; simp [hg]

theorem resetFunction_rge (f : Nat) (s : State) : (resetFunction f s).rge.vfEnable = s.rge.vfEnable := by
  by_cases hr : (funcOf s f).st = .ready
  · obtain ⟨y, n, q, e⟩ := resetFunction_shape f s hr
    have e1 : (resetFunction f s).rge.vfEnable = y.rge.vfEnable := by rw [e]
    obtain ⟨fl, n, e2⟩ := dropRuns_rge f (fnNotice f 3 0 (onFunc f (fun e => { e with st := .resetting, held := [], deleting := none }) s))
    rw [e1, q.vfEnable, congrArg Rge.vfEnable e2]
    exact (quiet_fnNotice f 3 0 _).vfEnable
  · unfold resetFunction; rw [if_pos (by simpa using hr)]

theorem resetFunction_other (f g : Nat) (s : State) (h : g ≠ f) : (funcOf (resetFunction f s) g).st = (funcOf s g).st := by
  by_cases hr : (funcOf s f).st = .ready
  · obtain ⟨y, n, q, e⟩ := resetFunction_shape f s hr
    have e1 : (funcOf (resetFunction f s) g).st = (funcOf y g).st := by unfold funcOf; rw [e]
    have hx : (onFunc f (fun e => { e with st := .resetting, held := [], deleting := none }) s).rge.funcs = tput f { funcOf s f with st := .resetting, held := [], deleting := none } s.rge.funcs := if_neg (func_ne (by simp))
    rw [e1, q.st, dropRuns_func, (quiet_fnNotice f 3 0 _).st]
    unfold funcOf at hx ⊢
    rw [hx, tgetD_tput_ne h]
  · unfold resetFunction; rw [if_pos (by simpa using hr)]

theorem resetVfs_st (p : Nat → Bool) (s : State) : (funcOf (resetVfs p s) 0).st = (funcOf s 0).st := by
  unfold resetVfs
  generalize hl : List.filter _ _ = l
  have : ∀ g ∈ l, g ≠ 0 := by rw [← hl]; intro g hg; have := (List.mem_filter.mp hg).2; simp at this; exact this.1
  clear hl
  induction l generalizing s with
  | nil => rfl
  | cons a t ih =>
    rw [List.foldl_cons, ih _ (fun g hg => this g (List.mem_cons_of_mem _ hg))]
    exact resetFunction_other a 0 s (fun h => this a (List.mem_cons_self ..) h.symm)

theorem linkReset_facts (l : Link) (s : State) (h : (funcOf s 0).st = .ready) : (linkReset l s).pins.link = l ∧ (linkReset l s).rge.vfEnable = false ∧ (funcOf (linkReset l s) 0).st = .resetting := by
  unfold linkReset
  simp only
  refine ⟨rfl, ?_, ?_⟩
  · exact resetFunction_rge _ _
  · refine resetFunction_st 0 _ ?_
    exact (resetVfs_st _ s).trans h

theorem outPosted {op id : Nat} {c : Flight} {s : State} (h : InService op id c s) (l : List Byte) : Posted c 0 0 (complete id 0 0 (output c l s)) ∧ Out.output c.fn c.ring c.cid (scatter c.sgl l) ∈ (complete id 0 0 (output c l s)).out :=
  ⟨posted_of h (quiet_output _ _ _) _ _ _, later_completeX _ _ _ _ _ _ (output_sent _ _ _ h.post.1)⟩

theorem slotOf_onSlot (n : Nat) (f : BootSlot → BootSlot) (s : State) : slotOf (onSlot n f s) n = f (slotOf s n) := by
  unfold slotOf onSlot onPith; simp only; by_cases h : n = 0 <;> simp [h]

theorem slotOf_pith {s t : State} (h : t.pith = s.pith) (n : Nat) : slotOf t n = slotOf s n := by unfold slotOf; rw [h]

theorem slotOf_record (n k : Nat) (s : State) : (slotOf (slotRecord n k s) n).recs.map (·.skind) = (slotOf s n).recs.map (·.skind) ++ [k] ∧ (slotOf (slotRecord n k s) n).image = (slotOf s n).image := by
  unfold slotRecord; simp only; rw [slotOf_onSlot]; simp

theorem pith_fwNotice (a b c d : Nat) (l : List Byte) (s : State) : (fwNotice a b c d l s).pith = s.pith := of_one (a := .pith) (by simp)

theorem pith_complete (a b c : Nat) (s : State) : (complete a b c s).pith = s.pith := of_one (a := .pith) (by simp)

theorem slotOf_erase (n : Nat) (s : State) : (slotOf (eraseSlot n s) n).recs = [] := by
  have hb : ∀ a n s, (bump a n s).pith = s.pith := fun a n s => of_one (a := .pith) (by simp)
  unfold eraseSlot; simp only
  rw [slotOf_pith (hb _ _ _)]
  have : slotOf (onSlot n (fun _ => { image := none, recs := [] }) s) n = { image := none, recs := [] } := slotOf_onSlot n _ s
  show (slotOf (onPith _ (onSlot n _ s)) n).recs = []
  unfold slotOf at this ⊢
  simp only [onPith] at this ⊢
  rw [this]

theorem tget_tmap {α : Type} (f : Nat → α → α) (k : Nat) (t : Tab α) : tget k (tmap f t) = (tget k t).map (f k) := by
  unfold tmap
  induction t with
  | nil => rfl
  | cons p t ih =>
    obtain ⟨j, b⟩ := p
    simp only [List.map_cons, tget]
    split
    · subst j; rfl
    · split
      · rfl
      · exact ih

theorem strmOf_onStrm (k n : Nat) (f : Strm → Strm) (s : State) : strmOf (onStrm k f s) n = if n = k then (strmOf s n).map f else strmOf s n := tget_tmod _ _ _ _

theorem strmOf_cmd {s t : State} (h : t.cmd.streams = s.cmd.streams) (k : Nat) : strmOf t k = strmOf s k := by unfold strmOf; rw [h]

theorem boundEnds_streams (id : Nat) (c : Flight) (d : Conduct) (s : State) : (boundEnds id c d s).cmd.streams = s.cmd.streams := by
  have hm : ∀ a b d e s, (meet a b d e s).2.2.cmd = s.cmd := fun a b d e s => of_one (a := .cmd) (by simp)
  have hr : ∀ a b c s, (raiseF a b c s).cmd = s.cmd := fun a b c s => of_one (a := .cmd) (by simp)
  have ht : ∀ a s, (bumpTallyQuiet a s).cmd = s.cmd := fun a s => of_one (a := .cmd) (by simp)
  have hb : ∀ a n s, (bump a n s).cmd = s.cmd := fun a n s => of_one (a := .cmd) (by simp)
  have hv : ∀ a n s, (voidBound a n s).cmd.streams = s.cmd.streams := by intro a n s; unfold voidBound; rw [hb]; rfl
  have hn : ∀ c n s, (noteMax c n s).cmd.streams = s.cmd.streams := by intro c n s; unfold noteMax; simp only [onCmd]; split <;> rfl
  have hd : ∀ c s, (rememberDone c s).cmd.streams = s.cmd.streams := by intro c s; unfold rememberDone; dsimp only [onCmd]; split <;> rfl
  unfold boundEnds
  split
  · rfl
  · simp only
    generalize hq : (if (c.isSeal && c.bound == Bound.bounded) = true then meet 25 c.seg 0xFFFF false s else (false, 0, s)) = q
    have hq' : q.2.2.cmd.streams = s.cmd.streams := by rw [← hq]; split; rw [hm]; rfl
    have hbb : ∀ (p : Prop) [Decidable p] n (w : State), (if p then noteMax c n w else w).cmd.streams = w.cmd.streams := by
      intro p _ n w; split; exact hn _ _ _; rfl
    have hbc : ∀ (p : Prop) [Decidable p] (w : State), (if p then rememberDone c w else w).cmd.streams = w.cmd.streams := by
      intro p _ w; split; exact hd _ _; rfl
    have hx : ∀ a w, (if bypassed w 25 = true then w else bumpTallyQuiet a w).cmd.streams = w.cmd.streams := by
      intro a w; split
      · rfl
      · exact congrArg (·.streams) (ht _ _)
    generalize q.2.2.now - c.pipAt + (if q.1 = true then 50000 else 0) = ns
    split
    · rw [hv, hbc, hbb]; exact hq'
    · split
      · rw [hr, hx, hbc, hbb]; exact hq'
      · rw [hbc, hbb]; exact hq'

theorem endBound_streams (id : Nat) (d : Conduct) (f : State → State) (s : State) : (endBound id d f s).cmd.streams = (f s).cmd.streams := by
  unfold endBound
  split
  · rfl
  · exact boundEnds_streams _ _ _ _

/-- What R198 chains of a stream: its next number, its last stamp and its head. -/
def chained (s : State) (k : Nat) : Option (Nat × Nat × List Byte) := (strmOf s k).map fun y => (y.next, y.lastStamp, y.head)

theorem chained_cmd {s t : State} (h : t.cmd = s.cmd) (k : Nat) : chained t k = chained s k := by unfold chained strmOf; rw [h]

theorem chained_repoint (j : Nat) (l : List ((Nat × Nat × Nat) × (Nat × Nat))) (s : State) (k : Nat) : chained (repoint j l s) k = chained s k := by
  unfold chained strmOf repoint
  simp only [onMed, onCmd]
  rw [tget_tmap, Option.map_map]
  rfl

theorem chained_verifyRow (j r : Nat) (s : State) (k : Nat) : chained (verifyRow j r s) k = chained s k := by
  unfold verifyRow
  simp only
  generalize hw : (if _ = 0 then s else _ : State) = w
  have e : w.cmd = s.cmd := by rw [← hw]; split; rfl; exact of_one (a := .cmd) (by simp)
  exact (chained_repoint j _ w k).trans (chained_cmd e k)

theorem chained_foldl {α : Type} {f : State → α → State} {k : Nat} (h : ∀ s a, chained (f s a) k = chained s k) (l : List α) (s : State) : chained (l.foldl f s) k = chained s k := by
  induction l generalizing s with
  | nil => rfl
  | cons a t ih => rw [List.foldl_cons, ih, h]

theorem chained_layCws (j : Nat) (l : List Cw) (s : State) (k : Nat) : chained (layCws j l s) k = chained s k := by
  unfold layCws
  simp only
  rw [chained_foldl (fun s r => (chained_verifyRow j r _ k).trans (chained_cmd (of_one (a := .cmd) (by simp)) k))]
  exact chained_foldl (fun s x => chained_cmd (of_one (a := .cmd) (by simp)) k) _ s

theorem chained_layFlush (k : Nat) : ∀ (bs : List Nat) (l : List Cw) (s : State), chained (layFlush bs l s).2 k = chained s k
  | [], l, s => rfl
  | b :: t, l, s => by
    unfold layFlush
    split
    · rfl
    · exact (chained_layFlush k t _ _).trans ((chained_layCws b _ _ k).trans rfl)

theorem chained_addStone (seg : Nat) (i : StoneItem) (s : State) (k : Nat) : chained (addStone seg i s) k = chained s k := by
  unfold addStone flushAlone
  split
  · exact chained_layFlush k _ _ _
  · rfl

theorem fold_head (id : Nat) (c : Flight) (x : Strm) (h p : List Byte) (s : State) (hx : strmOf s c.stream = some x) :
    (strmOf (fold id c x h p s).2 c.stream).map (fun y => (y.next, y.lastStamp, y.head)) =
      some (x.next + 1, stampNow s, chainTag (chainKey s c.nsid) x.head (foldHeader s c x h p (stampNow s))) := by
  unfold fold
  simp only
  have hd : ∃ d, (if x.codec = 3 then draw s else s) = { s with draws := d } := by
    split
    · exact ⟨_, rfl⟩
    · exact ⟨s.draws, rfl⟩
  obtain ⟨d, e⟩ := hd
  rw [e]
  have es : issueStamp { s with draws := d } = (stampNow s, onCad (fun c => { c with lastStamp := stampNow s }) { s with draws := d }) := rfl
  simp only [es]
  have hh : foldHeader (onCad (fun c => { c with lastStamp := stampNow s }) { s with draws := d }) c x h p (stampNow s) = foldHeader s c x h p (stampNow s) := rfl
  have hk : chainKey (onCad (fun c => { c with lastStamp := stampNow s }) { s with draws := d }) c.nsid = chainKey s c.nsid := rfl
  simp only [hh, hk]
  have hw : ∀ r g n, (strmOf (onStrm c.stream (fun y => { y with recs := tput x.next r y.recs, next := n, head := g, lastStamp := stampNow s }) s) c.stream) = none → False := by
    intro r g n; rw [strmOf_onStrm, if_pos rfl, hx]; simp
  generalize hv : onStrm c.stream _ (onCad _ _) = v
  have key : (strmOf v c.stream).map (fun y => (y.next, y.lastStamp, y.head)) = some (x.next + 1, stampNow s, chainTag (chainKey s c.nsid) x.head (foldHeader s c x h p (stampNow s))) := by
    rw [← hv, strmOf_onStrm, if_pos rfl]
    show (Option.map _ (strmOf s c.stream)).map _ = _
    rw [hx]; rfl
  generalize hi : StoneItem.mk _ _ _ _ _ _ _ _ _ _ = i
  have k2 : chained (addStone x.seg i v) c.stream = chained v c.stream := chained_addStone _ _ _ _
  generalize addStone x.seg i v = u at k2 ⊢
  refine (chained_cmd (of_one (a := .cmd) ?_) _).trans (k2.trans key)
  simp

theorem badCopies_unarmed (seg : Nat) (s : State) (h : s.integ.armed = false) : badCopies seg 10 s = (0, s) := by
  unfold badCopies
  rw [meet_unarmed h]; rfl

/-- With no injection armed none becomes armed by a notice. -/
theorem unarmed_postCore {s : State} (h : s.integ.armed = false) (f typ src : Nat) (p : List Byte) : (postCore f typ src p s).2.integ.armed = false := by
  unfold postCore
  simp only
  generalize hw : (if f = 0 then _ else s : State) = w
  have e : w.integ = s.integ := by subst w; split <;> rfl
  have hh : injHits w 12 0xFF 0xFFFF = false := by
    unfold injHits; rw [e, h]; simp
  have hi : ∀ k r n z, (writeNotice k r n z).integ = z.integ := fun k r n z => of_one (a := .integ) (by simp)
  split
  · rw [e]; exact h
  · split
    · rename_i hx; rw [hh] at hx; simp at hx
    · split
      · split
        · rw [hi]; show w.integ.armed = _; rw [e]; exact h
        · split <;> (show w.integ.armed = _; rw [e]; exact h)
      · split <;> (show w.integ.armed = _; rw [e]; exact h)

theorem unarmed_raiseCore {s : State} (h : s.integ.armed = false) (k : Nat) (x : Site) (ef : Nat) : (raiseCore k x ef s).2.integ.armed = false := by
  have hp : (injPast k s).integ.armed = false := h
  unfold raiseCore
  simp only
  generalize hw : onInt _ (setCtr _ _ _) = w
  have e : w.integ.armed = false := by subst w; exact hp
  clear hw hp
  split
  · exact e
  · split
    · exact e
    · generalize hv : onInt _ w = v
      have e : v.integ.armed = false := by subst v; exact e
      exact unarmed_postCore e _ _ _ _

theorem unarmed_dropped {s : State} (h : s.integ.armed = false) (f ef : Nat) : (dropped f ef s).integ.armed = false := by
  unfold dropped
  simp only
  generalize hz : setCtr _ _ s = z
  have hz : z.integ.armed = false := by rw [← hz]; exact h
  have k := unarmed_raiseCore hz 12 { func := f } ef
  generalize raiseCore 12 { func := f } ef z = r at k ⊢
  split
  · exact unarmed_raiseCore (s := setCtr (Reg.fnNoticeDrop 0) (satAdd 0xFFFFFFFF (ctr r.2 (Reg.fnNoticeDrop 0)) 1) r.2) k _ _ _
  · exact k

theorem unarmed_post {s : State} (h : s.integ.armed = false) (f typ src : Nat) (p : List Byte) : (post f typ src p s).integ.armed = false := by
  have k := unarmed_postCore h f typ src p
  unfold post
  split
  · rename_i e; rw [e] at k; exact unarmed_dropped k _ _
  · rename_i e; rw [e] at k; exact k

theorem unarmed_bump {s : State} (h : s.integ.armed = false) (a n : Nat) : (bump a n s).integ.armed = false := by
  unfold bump
  simp only
  split
  · exact unarmed_post (s := setCtr a ((ctr s a + n) % 2 ^ 48) s) h _ _ _ _
  · exact h

/-- Notices may be posted and counters moved; no injection becomes armed. -/
def Mild (s t : State) : Prop := Quiet s t ∧ Later s t ∧ t.cmd = s.cmd ∧ (s.integ.armed = false → t.integ.armed = false)

theorem Mild.refl (s : State) : Mild s s := ⟨.refl s, .refl s, rfl, id⟩

theorem Mild.trans {a b c : State} (h : Mild a b) (k : Mild b c) : Mild a c := ⟨h.1.trans k.1, h.2.1.trans k.2.1, k.2.2.1.trans h.2.2.1, fun x => k.2.2.2 (h.2.2.2 x)⟩

theorem mild_bump (a n : Nat) (s : State) : Mild s (bump a n s) := ⟨quiet_bump _ _ _, later_bump _ _ _, of_one (a := .cmd) (by simp), fun h => unarmed_bump h _ _⟩

theorem mild_ite (p : Prop) [Decidable p] {s a b : State} (h : Mild s a) (k : Mild s b) : Mild s (if p then a else b) := by split <;> assumption

theorem mild_foldl {α : Type} (f : State → α → State) (h : ∀ s a, Mild s (f s a)) (l : List α) (s : State) : Mild s (l.foldl f s) := by
  induction l generalizing s with
  | nil => exact .refl s
  | cons a t ih => exact (h s a).trans (ih _)

/-- A stored object that decodes opens without an event. -/
theorem openObject_sound {s : State} (h : s.integ.armed = false) (seg n : Nat) : (openObject seg n false s).1 = false ∧ Mild s (openObject seg n false s).2 := by
  unfold openObject openTries
  simp only [meet_unarmed h]
  exact ⟨rfl, mild_bump _ _ _⟩

theorem openAll_sound (x : Strm) (rs : List (Nat × Rec)) (hc : ∀ q ∈ rs, (recContent q.2).isNone = false) (i : Nat) (s : State) (h : s.integ.armed = false) :
    (openAll x i rs s).1 = none ∧ Mild s (openAll x i rs s).2 := by
  induction rs generalizing i s with
  | nil => exact ⟨rfl, .refl s⟩
  | cons a t ih =>
    obtain ⟨n, r⟩ := a
    have hr := hc (n, r) (List.mem_cons_self ..)
    have ht : ∀ q ∈ t, (recContent q.2).isNone = false := fun q hq => hc q (List.mem_cons_of_mem _ hq)
    unfold openAll
    split
    · exact ih ht _ _ h
    · obtain ⟨k1, k2⟩ := openObject_sound h x.seg r.payload.length
      have hr : (recContent r).isNone = false := hr
      rw [hr]
      generalize openObject x.seg r.payload.length false s = q at k1 k2
      obtain ⟨b, q⟩ := q
      simp only at k1 k2
      subst b
      obtain ⟨e1, e2⟩ := ih ht (i + 1) q (k2.2.2.2 h)
      exact ⟨e1, k2.trans e2⟩

theorem readEvents_unarmed (x : Strm) (v r : Bool) (rs : List (Nat × Rec)) (s : State) (h : s.integ.armed = false) (hc : ∀ q ∈ rs, (recContent q.2).isNone = false) :
    (readEvents x v r rs s).1 = none ∧ Mild s (readEvents x v r rs s).2 := by
  unfold readEvents
  simp only
  have k : (if (!r) = true ∨ v = true then openAll x 0 rs s else (none, s)).1 = none ∧ Mild s (if (!r) = true ∨ v = true then openAll x 0 rs s else (none, s)).2 := by
    split
    · exact openAll_sound x rs hc 0 s h
    · exact ⟨rfl, .refl s⟩
  generalize (if (!r) = true ∨ v = true then openAll x 0 rs s else (none, s)) = q at k
  obtain ⟨b, w⟩ := q
  simp only at k
  obtain ⟨k1, k⟩ := k
  subst b
  cases rs with
  | nil => exact ⟨rfl, k⟩
  | cons p t => simp only [badCopies_unarmed x.seg w (k.2.2.2 h)]; exact ⟨rfl, k⟩

theorem countReads_unarmed (x : Strm) (v r : Bool) (rs : List (Nat × Rec)) (s : State) (h : s.integ.armed = false) (hc : ∀ q ∈ rs, (recContent q.2).isNone = false) :
    (countReads x v r rs s).1 = none ∧ Mild s (countReads x v r rs s).2 := by
  obtain ⟨k1, k2⟩ := readEvents_unarmed x v r rs s h hc
  unfold countReads
  refine ⟨k1, k2.trans (mild_foldl _ (fun s p => ?_) _ _)⟩
  simp only
  have h1 : Mild s (if p.2.band.isSome then bump (Reg.cryCipherLo x.seg) p.2.stored s else s) := mild_ite _ (mild_bump _ _ _) (.refl s)
  exact mild_ite _ (h1.trans (mild_bump _ _ _)) h1

theorem selection_quiet (sel : Flight → Strm → State → (Nat ⊕ List Nat) × State) (hs : ∀ c x s, Quiet s (sel c x s).2) (c : Flight) (x : Strm) (s : State) : Quiet s (selection sel c x s).2 := by
  unfold selection; split
  · exact .refl s
  · exact hs _ _ _

theorem snapSel_quiet (k : Nat) (b : Bool) (n : Nat) (s : State) : Quiet s (snapSel k b n s).2 := by
  unfold snapSel; split
  · exact .refl s
  · split
    · exact .refl s
    · simp only; split
      · exact quiet_bump _ _ _
      · exact .refl s

theorem selTime_quiet (c : Flight) (x : Strm) (s : State) : Quiet s (selTime c x s).2 := by
  unfold selTime; split
  · exact snapSel_quiet _ _ _ _
  · exact .refl s

theorem selRecord_quiet (c : Flight) (x : Strm) (s : State) : Quiet s (selRecord c x s).2 := by
  unfold selRecord; simp only; split
  · exact .refl s
  · split <;> exact .refl s

theorem selRange_quiet (c : Flight) (x : Strm) (s : State) : Quiet s (selRange c x s).2 := by
  unfold selRange; split
  · exact .refl s
  · exact snapSel_quiet _ _ _ _

theorem later_boundEnds (id : Nat) (c : Flight) (d : Conduct) (s : State) : Later s (boundEnds id c d s) := by
  have hf : ∀ s, (fireOne s).out = s.out := fun s => of_one (a := .out) (by simp)
  have hm : ∀ a b d e s, Later s (meet a b d e s).2.2 := by
    intro a b d e s; unfold meet; split
    · exact .of_out (hf s)
    · exact .refl s
  unfold boundEnds
  split
  · exact .refl s
  · simp only
    generalize hq : (if (c.isSeal && c.bound == Bound.bounded) = true then meet 25 c.seg 0xFFFF false s else (false, 0, s)) = q
    have hq' : Later s q.2.2 := by
      rw [← hq]; split
      · exact hm _ _ _ _ _
      · exact .refl s
    generalize q.2.2.now - c.pipAt + (if q.1 = true then 50000 else 0) = ns
    have h1 : Later s (if c.bound = .bounded then noteMax c ns q.2.2 else q.2.2) := by
      split
      · exact hq'.trans (.of_out rfl)
      · exact hq'
    generalize (if c.bound = .bounded then noteMax c ns q.2.2 else q.2.2) = a at h1 ⊢
    have h2 : Later s (if c.bound = .bounded then rememberDone c a else a) := by
      split
      · exact h1.trans (.of_out rfl)
      · exact h1
    generalize (if c.bound = .bounded then rememberDone c a else a) = b at h2 ⊢
    split
    · exact h2.trans ((later_bump _ _ _).since rfl)
    · split
      · split
        · exact h2.trans (later_raiseF _ _ _ _)
        · exact h2.trans ((later_raiseF _ _ _ _).since rfl)
      · exact h2

theorem later_endBound (id : Nat) (d : Conduct) (f : State → State) (s : State) : Later (f s) (endBound id d f s) := by
  unfold endBound
  split
  · exact .refl _
  · exact later_boundEnds _ _ _ _

theorem firstFault_none (s : State) (x : Strm) (content : Bool) (l : List (List Byte)) (off len : Nat) (rs : List (Nat × Rec)) (i : Nat)
    (h : ∀ p ∈ rs, p.2.lost = false ∧ p.2.damaged = false ∧ (recContent p.2).isNone = false) : firstFault s x false content l off len i rs = none := by
  induction rs generalizing i with
  | nil => rfl
  | cons p t ih =>
    obtain ⟨n, r⟩ := p
    unfold firstFault
    have h1 : recFault s x false content n r = none := by
      unfold recFault
      have := h (n, r) (List.mem_cons_self ..)
      simp only at this
      rw [if_neg (by simp [this.1]), if_neg (by simp [this.2.1]), if_neg (by simp [this.2.2]), if_neg (by simp)]
    simp only [h1, ite_self]
    exact ih (i + 1) fun p hp => h p (List.mem_cons_of_mem _ hp)

theorem later_onFlight (id : Nat) (g : Flight → Flight) (s : State) : Later s (onFlight id g s) := .of_out rfl

theorem recallOut_sent (id : Nat) (c : Flight) (x : Strm) (l : List Nat) (d : Conduct) (w : State) (ha : w.integ.armed = false) (hk : nsKeyOk w c.nsid = true) (hv : nbit (dfld c 26 1) 3 = false)
    (hr : ∀ n r, n ∈ l → tget n x.recs = some r → r.lost = false ∧ r.damaged = false ∧ (recContent r).isNone = false) (hp : (funcOf w c.fn).st ≠ .resetting) :
    Out.output c.fn c.ring c.cid (scatter c.sgl (window (outputOf ((recsOf x l).map fun p => recBytes (nbit (dfld c 26 1) 0) (nbit (dfld c 26 1) 2) p.2)) (dfld c 32 8) c.len)) ∈ (recallOut id c x l d w).out := by
  have hr' : ∀ p ∈ recsOf x l, p.2.lost = false ∧ p.2.damaged = false ∧ (recContent p.2).isNone = false := by
    intro p hp
    obtain ⟨n, hn, e⟩ := List.mem_filterMap.mp hp
    cases hg : tget n x.recs with
    | none => rw [hg] at e; simp at e
    | some r => rw [hg] at e; simp at e; rw [← e]; exact hr n r hn hg
  unfold recallOut
  rw [if_neg (by simp [hk])]
  simp only
  generalize hz : (if spreadOut _ _ = true then onFlight id (fun c => { c with voids := 11 :: c.voids }) (keepSel c l w) else keepSel c l w) = z
  have za : z.integ.armed = false := by rw [← hz]; split <;> exact ha
  have zp : (funcOf z c.fn).st ≠ .resetting := by rw [← hz]; split <;> exact hp
  obtain ⟨k1, k2⟩ := countReads_unarmed x (nbit (dfld c 26 1) 3) (nbit (dfld c 26 1) 2) (recsOf x l) z za fun q hq => (hr' q hq).2.2
  generalize hq : countReads x (nbit (dfld c 26 1) 3) (nbit (dfld c 26 1) 2) (recsOf x l) z = q at k1 k2
  have hq2 : countReads x (nbit (dfld c 26 1) 3) (nbit (dfld c 26 1) 2) (List.filterMap (fun n => Option.map (fun r => (n, r)) (tget n x.recs)) l) z = q := hq
  obtain ⟨b, q⟩ := q
  simp only at k1 k2
  subst b
  rw [hq2]
  simp only [Option.isSome_none, Bool.false_eq_true, if_false]
  have hrf : ∀ b o, recallFault x false b o (dfld c 32 8) c.len (recsOf x l) q = (none, q) := by
    intro b o; unfold recallFault; simp [firstFault_none q x b o _ _ _ 0 hr']
  unfold recsOf at hrf ⊢
  rw [hv, hrf]
  unfold recallEnd
  simp only
  refine later_endBound id d _ q _ (later_completeX _ _ _ _ _ _ (output_sent _ _ _ ?_))
  rw [k2.1.st]; exact zp

theorem recall_sent (op id : Nat) (sel : Flight → Strm → State → (Nat ⊕ List Nat) × State) (hs : ∀ c x s, Quiet s (sel c x s).2) (c : Flight) (x : Strm) (l : List Nat) (d : Conduct) (s w : State) (h : InService op id c s)
    (h1 : selection sel c x s = (.inr l, w)) (ha : w.integ.armed = false) (hx : strmOf s c.stream = some x) (hk : nsKeyOk w c.nsid = true) (hv : nbit (dfld c 26 1) 3 = false)
    (hr : ∀ n r, n ∈ l → tget n x.recs = some r → r.lost = false ∧ r.damaged = false ∧ (recContent r).isNone = false) :
    ∃ u, recallBy op id sel d s = .next u ∧ Out.output c.fn c.ring c.cid (scatter c.sgl (window (outputOf ((recsOf x l).map fun p => recBytes (nbit (dfld c 26 1) 0) (nbit (dfld c 26 1) 2) p.2)) (dfld c 32 8) c.len)) ∈ u.out := by
  have hq := selection_quiet sel hs c x s
  rw [h1] at hq
  unfold recallBy
  rw [h.serve, hx]
  simp only [h1]
  exact ⟨_, rfl, recallOut_sent id c x l d w ha hk hv hr (by rw [hq.st]; exact h.post.1)⟩

theorem wakeNow_awake {n : Nat} {s : State} (h : domSleep s n = 0) : wakeNow n s = s := by unfold wakeNow; rw [if_pos h]

theorem segWrite_awake {n a : Nat} {v : Word} {be : Nat} {f : State → State} {s : State} (h1 : segOn s n = true) (h2 : domSleep s n = 0) (h3 : n < 4) : segWrite n a v be f s = f s := by
  have h4 : sleepOf s n = 0 := by
    have := h2; unfold domSleep at this; rwa [if_neg (by show n ≠ 4; omega)] at this
  unfold segWrite
  rw [if_neg (by simp [h1]), if_pos (by omega), wakeNow_awake h2]

theorem strobe_snap {n a : Nat} {s : State} (h1 : segOn s n = true) (h2 : domSleep s n = 0) (h3 : n < 4) (h4 : segCounters a n ≠ []) (h5 : a ≠ Reg.clsSnap n) :
    (strobe n a s).ctrs = s.ctrs ∧ (strobe n a s).snaps = (snapAll (segCounters a n) s).snaps ∧ (strobe n a s).draws = s.draws := by
  unfold strobe
  rw [segWrite_awake h1 h2 h3]
  unfold segRegWrite
  simp only
  rw [if_pos h4, if_pos (by decide)]
  unfold takeSnap
  simp only
  rw [if_neg h5]
  have c : (writeCommon a 1 15 s).ctrs = s.ctrs := of_one (a := .ctrs) (by simp)
  have d : (writeCommon a 1 15 s).snaps = s.snaps := of_one (a := .snaps) (by simp)
  have e : (writeCommon a 1 15 s).draws = s.draws := of_one (a := .draws) (by simp)
  generalize writeCommon a 1 15 s = w at c d e ⊢
  refine ⟨c, ?_, e⟩
  unfold snapAll ctr
  simp only [c, d]

theorem setLevel_dbg (l : DLevel) (s : State) : (setLevel l s).dbg = { s.dbg with level := l } := by
  unfold setLevel
  split
  · rename_i h; rw [← h]
  · simp only
    have h1 : ∀ f s, (track f s).dbg = (f s).dbg := fun f s => by
      unfold track
      simp only
      generalize f s = w
      suffices h : ∀ (L : List Nat) (p : Nat → Bool) (v q : State), (L.foldl (fun q n => if p n then onCmd (fun c => { c with suspEnd := tput n v.now c.suspEnd }) q else q) q).dbg = q.dbg from h _ (fun n => boundSuspended s n && !boundSuspended w n) w w
      intro L
      induction L with
      | nil => intros; rfl
      | cons a t ih => intro p v q; rw [List.foldl_cons, ih]; split <;> rfl
    have h2 : ∀ m f s, (withModes m f s).dbg = (f s).dbg := fun m f s => by
      unfold withModes
      simp only
      split
      · rfl
      · exact of_one (a := .dbg) (by simp)
    have h3 : ∀ s, (leaveFull s).dbg = s.dbg := fun s => of_one (a := .dbg) (by simp)
    have h4 : (sleepShallow l s).dbg = s.dbg := of_one (a := .dbg) (by simp)
    rw [h1, h2]
    split
    · rw [h3]; exact congrArg (fun d : Dbg => { d with level := l }) h4
    · exact congrArg (fun d : Dbg => { d with level := l }) h4

theorem jtag_on {t code : Nat} {f : State → State} {s : State} (h : s.boot.powered = true) : jtag t code f s = f (selectIr code (tick t s)) := by
  unfold jtag; simp only; rw [if_pos (by exact h)]

theorem debug_powered {s : State} (h : debugThere s = true) : s.boot.powered = true := by
  unfold debugThere at h; simp at h; exact h.1.1.1

theorem jtagDebug_on {t code : Nat} {f : State → State} {s : State} (h : debugThere s = true) : jtagDebug t code f s = f (selectIr code (tick t s)) := by
  unfold jtagDebug; rw [jtag_on (debug_powered h), if_pos (by exact h)]

theorem dap_on {t k addr data : Nat} {f : State → State} {s : State} (h : debugThere s = true) (hl : s.dbg.level ≠ .closed) :
    ∃ x : State, dap t k addr data f s = f x ∧ ∃ d o, x = { tick t s with dbg := d, out := o } ∧ d.level = s.dbg.level := by
  unfold dap
  rw [jtagDebug_on h]
  simp only
  rw [if_neg (by exact hl)]
  exact ⟨_, rfl, _, _, rfl, rfl⟩

theorem coreAccess_on {k : Nat} {f : State → State} {s x : State} (h : Reachable k s) {d : Dbg} {o : List Out} {t : Nat} (hx : x = { tick t s with dbg := d, out := o }) (hd : d.level = s.dbg.level) :
    coreAccess k f x = f x := by
  unfold coreAccess
  rw [if_neg (by
    rw [hx]; show ¬ (d.level ≠ .full ∨ k > rindCore)
    rw [hd, h.level]; simp; exact h.core.2)]
  have : wakeCore k x = x := by unfold wakeCore; exact if_pos (by rw [hx]; exact h.awake)
  rw [this, ite_self]

theorem core_put {k : Nat} {f : DCore → DCore} {s : State} (h : f (coreOf s k) ≠ {}) : coreOf (onCore k f s) k = f (coreOf s k) := by
  unfold coreOf onCore onDxr tset
  simp only
  rw [if_neg (by exact h), tgetD_tput_self]

theorem core_ne {c : DCore} (h : c.st ≠ .held) : c ≠ {} := by intro k; exact h (by rw [k])

theorem setG_st (n : Nat) (v : BitVec 64) (c : DCore) : (c.setG n v).st = c.st := by
  rfl

theorem setPs_st (a b v : Nat) (c : DCore) : (c.setPs a b v).st = c.st := rfl

theorem noteHalted_core (k : Nat) (y : State) : coreOf (noteHalted y) k = coreOf y k := rfl

theorem halt_core {k : Nat} (s : State) : (coreOf (haltCore k s) k).st = .halted := by
  unfold haltCore
  simp only
  rw [noteHalted_core, core_put (core_ne (by simp))]

theorem dapEnd_core (a : DapOp) (b : Nat) (s : State) (k : Nat) : coreOf (dapEnd a b s) k = coreOf s k := rfl

theorem NvAdmin.serve {op : Nat} {cmd : List Byte} {s : State} (h : NvAdmin op cmd s) (f : State → State) (t : Nat) : nvAdm op cmd f (tick t s) = .next (f (nvTake 0 cmd (tick t s))) := by
  have hw : nvWaits (tick t s) true cmd = false := by
    unfold nvWaits; rw [show (tick t s).brc = s.brc from rfl, h.brace]; simp
  unfold nvAdm nvServe
  simp only
  rw [if_neg (by
    rw [show nvReady (tick t s) = nvReady s from rfl, h.ready, h.code]
    simp), if_neg (by rw [hw]; simp), if_neg (by rw [h.code]; simp), if_neg (by rw [show nvBarred (tick t s) true cmd = nvBarred s true cmd from rfl, h.allowed]; simp)]

theorem NvIo.serve {op sq : Nat} {cmd : List Byte} {s : State} (h : NvIo op sq cmd s) (f : State → State) (t : Nat) : nvServe false op sq cmd f (tick t s) = .next (f (nvTake sq cmd (tick t s))) := by
  have hw : nvWaits (tick t s) false cmd = false := by
    unfold nvWaits; rw [show (tick t s).brc = s.brc from rfl, show (tick t s).boot = s.boot from rfl, h.brace, h.service]; simp
  unfold nvServe
  simp only
  have q := h.queue
  rw [if_neg (by
    rw [show nvReady (tick t s) = nvReady s from rfl, show (tick t s).cmd = s.cmd from rfl, h.ready, h.code]
    simp [q]), if_neg (by rw [hw]; simp), if_neg (by rw [h.code]; simp), if_neg (by rw [show nvBarred (tick t s) false cmd = nvBarred s false cmd from rfl, h.allowed]; simp)]

theorem later_sendVector (f v : Nat) (s : State) : Later s (sendVector f v s) := by
  unfold sendVector
  split
  · exact .refl s
  · split
    · exact later_emit _ _
    · exact .of_out rfl

theorem nvEnd_done (sq : Nat) (cmd : List Byte) (status result : Nat) (s : State) : NvDone sq cmd status result (nvEnd sq cmd status result s) := by
  unfold nvEnd NvDone
  simp only
  generalize (if status = 0 then s else _ : State) = w
  have k : Out.nvme sq (fld cmd 2 2) status result ∈ (emit (.nvme sq (fld cmd 2 2) status result) w).out := List.mem_cons_self ..
  split
  · exact later_sendVector _ _ _ _ k
  · exact k

theorem later_nvEnd (sq : Nat) (cmd : List Byte) (status result : Nat) (s : State) : Later s (nvEnd sq cmd status result s) := by
  unfold nvEnd
  simp only
  generalize hw : (if status = 0 then s else _ : State) = w
  have e : w.out = s.out := by rw [← hw]; split <;> rfl
  have k : Later s (emit (.nvme sq (fld cmd 2 2) status result) w) := (later_emit _ _).since e
  split
  · exact k.trans (later_sendVector _ _ _)
  · exact k

theorem cmd_nvEnd (sq : Nat) (cmd : List Byte) (status result : Nat) (s : State) : (nvEnd sq cmd status result s).cmd = s.cmd := of_one (a := .cmd) (by simp)

theorem pith_nvEnd (sq : Nat) (cmd : List Byte) (status result : Nat) (s : State) : (nvEnd sq cmd status result s).pith = s.pith := of_one (a := .pith) (by simp)

theorem unle_lt : ∀ l : List Byte, unle l < 256 ^ l.length
  | [] => by simp [unle]
  | b :: t => by
    have := unle_lt t
    have := b.isLt
    simp only [unle, List.length_cons, Nat.pow_succ]
    omega

theorem slice_length (l : List Byte) (o n : Nat) : (slice l o n).length = n := by
  simp [slice]

theorem fld_lt (l : List Byte) (o n : Nat) : fld l o n < 256 ^ n := by
  have := unle_lt (slice l o n); rwa [slice_length] at this

theorem blockChecks_nv (sq : Nat) (cmd : List Byte) (t : Nat) (s : State) (c : Flight) (x : Ns) (write key : Bool) :
    blockChecks (nvTake sq cmd (tick t s)) c x write key = blockChecks s c x write key := by
  have e : ∀ n, floorMet (nvTake sq cmd (tick t s)) n = floorMet s n := by
    intro n
    have h : ∀ k, heldBytes (nvTake sq cmd (tick t s)) k = heldBytes s k := fun k => rfl
    have g : gcCanFree (nvTake sq cmd (tick t s)) n = gcCanFree s n := by
      unfold gcCanFree
      simp only [h]
      rfl
    unfold floorMet
    rw [g]
    rfl
  have f : belowFloor (nvTake sq cmd (tick t s)) = belowFloor s := by
    unfold belowFloor floorBits
    rw [show floorMet (nvTake sq cmd (tick t s)) = floorMet s from funext e]
  unfold blockChecks
  rw [f]
  rfl

theorem nvIo_block {op sq : Nat} {cmd : List Byte} {write key : Bool} {f : Flight → Ns → State → State} {s : State} {x : Ns} {t : Nat} (h : NvIo op sq cmd s) (h0 : s.cry.rederive = false)
    (h1 : cdw cmd 1 = 1) (h2 : nvNs s = some x) (h3 : s.integ.deadSeg = []) (h4 : blockChecks s (nvFlight s sq cmd (fld cmd 40 8) (cdw cmd 12 % 65536 + 1)) x write key = none)
    (h5 : ∀ n, domSleep s n = 0) :
    nvBlock op sq cmd write key f (tick t s) = .next (f (nvFlight (nvTake sq cmd (tick t s)) sq cmd (fld cmd 40 8) (cdw cmd 12 % 65536 + 1)) x (nvTake sq cmd (tick t s))) := by
  unfold nvBlock
  rw [if_neg (by rw [show (tick t s).cry = s.cry from rfl, h0]; simp), h.serve]
  simp only
  rw [if_pos h1, show nvNs (nvTake sq cmd (tick t s)) = some x from h2]
  simp only
  rw [blockChecks_nv, show blockChecks s (nvFlight (nvTake sq cmd (tick t s)) sq cmd (fld cmd 40 8) (cdw cmd 12 % 65536 + 1)) x write key = none from h4]
  simp only
  rw [if_pos (by rw [show (nvTake sq cmd (tick t s)).integ = s.integ from rfl, h3]; simp)]
  have : ∀ l g, nvWake l sq cmd g (nvTake sq cmd (tick t s)) = g (nvTake sq cmd (tick t s)) := by
    intro l g; unfold nvWake
    rw [if_pos (by simp [show ∀ n, domSleep (nvTake sq cmd (tick t s)) n = 0 from h5])]
  rw [this]

theorem dfld_pack24 (s : State) (sq : Nat) (cmd : List Byte) (a n : Nat) (ha : a < 2 ^ 64) (hn : n < 2 ^ 32) : dfld (nvFlight s sq cmd a n) 24 8 = a ∧ dfld (nvFlight s sq cmd a n) 32 4 = n := by
  constructor
  · simp only [dfld, nvFlight, fld, slice, pack, le, List.cons_append, List.nil_append, List.drop_succ_cons, List.drop_zero, List.take_succ_cons, List.take_zero, List.length_cons, List.length_nil, Nat.sub_self, List.replicate, List.append_nil, unle, BitVec.toNat_ofNat]
    omega
  · simp only [dfld, nvFlight, fld, slice, pack, le, List.cons_append, List.nil_append, List.drop_succ_cons, List.drop_zero, List.take_succ_cons, List.take_zero, List.length_cons, List.length_nil, Nat.sub_self, List.replicate, List.append_nil, unle, BitVec.toNat_ofNat]
    omega

theorem sendVector_sent (f v : Nat) (s : State) (h : (funcOf s f).st ≠ .resetting) : Out.msix f v ∈ (sendVector f v s).out ∨ f * 4096 + v ∈ (sendVector f v s).rge.pba := by
  unfold sendVector
  rw [if_neg (by simpa using h)]
  split
  · exact .inl (List.mem_cons_self ..)
  · right
    show _ ∈ (if s.rge.pba.contains _ then _ else _ : List Nat)
    split
    · rename_i h; simpa using h
    · exact List.mem_cons_self ..

theorem later_flushHeld (f : Nat) : ∀ (n : Nat) (s : State), Later s (flushHeld f n s)
  | 0, s => .refl s
  | n + 1, s => by
    unfold flushHeld
    split
    · split
      · exact (Later.trans (later_writeNotice _ _ _ _) (later_flushHeld f n _)).since rfl
      · exact .refl s
    · exact .refl s

theorem stopped_quiet {s t : State} (q : Quiet s t) (k : Nat) : (ringOf t k).map (·.stopped) = (ringOf s k).map (·.stopped) := by
  have := congrArg (Option.map Ring.stopped) (q.ring k)
  simpa [Option.map_map, Function.comp_def, Ring.rest] using this

theorem quietOf_quiet {s t : State} (q : Quiet s t) (k : Nat) : (ringOf t k).map (·.quiet) = (ringOf s k).map (·.quiet) := by
  have := congrArg (Option.map Ring.quiet) (q.ring k)
  simpa [Option.map_map, Function.comp_def, Ring.rest] using this

end Sys2Proof.Machine
end

