-- ==== Sys2Proof/Laws/Units.lean ====
section
/-!
SUPPORT. The engines and media: hand-overs, stored bytes, dies and the wheel, injections, Brace, crypto jobs and SPDM.
-/
namespace Sys2Proof.Machine

theorem takeHand_find {f : Hand → Bool} {h : Hand} : ∀ {l : List Hand}, l.find? f = some h → (takeHand f l).1 = some h
  | [], e => by cases e
  | a :: t, e => by
    unfold takeHand
    by_cases q : f a = true
    · rw [if_pos q]; simpa [List.find?, q] using e
    · rw [if_neg q]
      simp only [Bool.not_eq_true] at q
      exact takeHand_find (by simpa [List.find?, q] using e)

theorem getBytes_putBytes (m : List Host.Cell) (h : TabWf m = true) (a : Nat) (l : List Byte) : getBytes (putBytes a l m) a l.length = l := by
  have key : ∀ n i (_ : i + n = l.length), getBytes (putBytes a l m) (a + i) n = l.drop i := by
    intro n
    induction n with
    | zero => intro i hi; rw [List.drop_eq_nil_of_le (by omega)]; rfl
    | succ n ih =>
      intro i hi
      have := tgetD_putBytes_in a i l h (by omega)
      unfold getBytes
      rw [this, show a + i + 1 = a + (i + 1) by omega, ih (i + 1) (by omega)]
      rw [← List.drop_eq_getElem_cons (by omega)]
  have := key l.length 0 (by omega)
  simpa using this

theorem readMem_writeMem (key a : Nat) (l : List Byte) (s : State) (h : Memory.wf s.dxr.mem = true) : readMem (writeMem key a l s) key a l.length = l := by
  unfold readMem
  rw [memOfKey_writeMem key a l s h]
  exact getBytes_putBytes _ ((cellsWf_iff.mp (memoryWf_get key h)).1) _ _

theorem zjTake_take {k : Nat} {f : Nat → Bool} {d : List Byte} {s : State} (h : (zjTake k f s).1 = some d) :
    ∃ l, zjTake k f s = (some d, onDxr (fun x => { x with hands := l }) s) := by
  unfold zjTake at h ⊢
  split at h
  · split at h
    · rename_i hh; simp only at h; rw [if_pos hh, h]; exact ⟨_, rfl⟩
    · cases h
  · cases h

/-! Laying units on the media leaves Stone's items as they are: one lemma for each operation of Layout. -/

theorem stone_foldl {β : Type} (g : State → β → State) (hg : ∀ s b, (g s b).med.stone = s.med.stone) : ∀ (l : List β) (s : State), (l.foldl g s).med.stone = s.med.stone
  | [], _ => rfl
  | b :: l, s => by rw [List.foldl_cons, stone_foldl g hg l, hg]

theorem stone_takeToken (p u : Nat) (s : State) : (takeToken p u s).2.med.stone = s.med.stone := by
  unfold takeToken
  (repeat' split) <;> rfl

theorem stone_nextProgram (d : Nat) (s : State) : (nextProgram d s).med.stone = s.med.stone := by
  have hp : ∀ l, (pickProg d l s).2.med.stone = s.med.stone := by
    intro l
    unfold pickProg
    dsimp only
    split
    · rfl
    · split
      · rfl
      · rename_i p _
        split
        · have k := stone_takeToken p.prec d s
          generalize takeToken p.prec d s = q at k
          obtain ⟨_ | _, w⟩ := q <;> exact k
        · rfl
  unfold nextProgram
  split
  · rfl
  · split
    · rfl
    · rename_i x _ _
      have h := hp x.progs
      generalize pickProg d x.progs s = q at h
      obtain ⟨_ | p, w⟩ := q
      · exact h
      · exact (congrArg Med.stone (of_one (a := .med) (by simp))).trans h

theorem stone_programUnit (k r m d cls prec : Nat) (u : SUnit) (s : State) : (programUnit k r m d cls prec u s).med.stone = s.med.stone := by
  unfold programUnit
  rw [stone_nextProgram]
  show (putUnit k r m u s).med.stone = _
  unfold putUnit
  have h : ∀ a b n s, (bumpHealthBy a b n s).med = s.med := fun a b n s => of_one (a := .med) (by simp)
  dsimp only
  rw [h]; rfl

theorem stone_rowSeq (k r : Nat) (s : State) : (rowSeq k r s).2.med.stone = s.med.stone := by
  unfold rowSeq
  split <;> rfl

theorem stone_padRow (k r cls prec : Nat) (s : State) : (padRow k r cls prec s).med.stone = s.med.stone := by
  unfold padRow
  dsimp only
  rw [stone_foldl _ (fun s p => by split; rfl; exact stone_programUnit _ _ _ _ _ _ _ _), stone_rowSeq]

theorem stone_prepare (k use : Nat) (s : State) : (prepare k use s).med.stone = s.med.stone := by
  unfold prepare
  split
  · show (if _ then s else startErase k s).med.stone = _
    split
    · rfl
    · unfold startErase
      split
      · rfl
      · show (List.foldl _ s _).med.stone = _
        exact stone_foldl _ (fun s p => congrArg Med.stone (show (queueJ _ _ _ _ s).med = s.med from of_one (a := .med) (by simp))) _ _
  · rfl

theorem stone_openFor (seg : Nat) (slc : Bool) (limit : Nat) (fits : State → Nat → Bool) (s : State) : (openFor seg slc limit fits s).2.med.stone = s.med.stone := by
  have hf : ∀ s : State, ((if !reserveReady s seg then (none, s)
    else match pickFree s seg slc with
      | some k => if bandReady s k then (if fits (openBand k s) k then some k else none, openBand k s) else (none, prepare k 1 s)
      | none => if !slc ∨ !slcMayGrow s seg limit then (none, s) else match pickFree s seg false with
        | some k => (none, prepare k 1 (setSlc k true s))
        | none => (none, s) : Option Nat × State)).2.med.stone = s.med.stone := by
    intro s
    split
    · rfl
    · split
      · split
        · rfl
        · exact stone_prepare _ _ _
      · split
        · rfl
        · split
          · exact stone_prepare _ _ _
          · rfl
  unfold openFor
  dsimp only
  split
  · split
    · rfl
    · refine (hf _).trans ?_
      unfold closeBand padBand
      exact stone_foldl _ (fun s r => stone_padRow _ _ _ _ _) _ _
  · exact hf s

theorem stone_layFill (slc : Bool) (limit : Nat) (pad : Bool) (f : Fill) (s : State) : (layFill slc limit pad f s).2.med.stone = s.med.stone := by
  unfold layFill
  dsimp only
  have ho := stone_openFor f.seg slc limit (fun s' k => (freeUnit s' k (avoidDies s f)).isSome) s
  generalize openFor f.seg slc limit (fun s' k => (freeUnit s' k (avoidDies s f)).isSome) s = o at ho ⊢
  obtain ⟨_ | k, w⟩ := o
  · exact ho
  · dsimp only
    split
    · exact ho
    · rename_i r m d _
      have h : ∀ u, (programUnit k r m d f.cls f.prec u (rowSeq k r w).2).med.stone = s.med.stone := by
        intro u; rw [stone_programUnit, stone_rowSeq]; exact ho
      have e : ∀ (p : Prop) [Decidable p] (z : State), (if p then padRow k r f.cls f.prec z else z).med.stone = z.med.stone := by
        intro p _ z; split
        · exact stone_padRow _ _ _ _ _
        · rfl
      rw [e]
      split
      · exact h _
      · exact h _

theorem stone_layFills (slc : Bool) (limit : Nat) (pad : Bool) (p : Fill → Bool) (s : State) : (layFills slc limit pad p s).med.stone = s.med.stone := by
  unfold layFills
  refine stone_foldl _ (fun s f => ?_) _ _
  split
  · rfl
  · have h := stone_layFill slc limit pad f s
    generalize layFill slc limit pad f s = o at h ⊢
    dsimp only
    split <;> exact h

theorem length_fit (n : Nat) (l : List Byte) : (fit n l).length = n := slice_length l 0 n

theorem stone_startPrograms (seg : Nat) (s : State) : (startPrograms seg s).med.stone = s.med.stone :=
  stone_foldl _ (fun s d => stone_nextProgram d s) _ _

theorem stone_layItem (seg : Nat) (i : StoneItem) (no : Nat) (s : State) : (layItem seg i no s).med.stone = s.med.stone := by
  have h : ∀ s, (settleFills seg s).med.stone = s.med.stone := fun s => by
    unfold settleFills
    dsimp only
    rw [stone_startPrograms, stone_layFills, stone_layFills]
  unfold layItem
  split
  · rw [h]; rfl
  · exact h s

theorem formRecord_raw {seg : Nat} {raw by_ : Bool} {bad : List Nat} {i : StoneItem} {x : Strm} {r : Rec} {s : State} (h1 : strmOf s i.a = some x) (h2 : tget i.b x.recs = some r)
    (h3 : nbit x.zest 7 = false) : (strmOf (formRecord seg raw by_ bad i s) i.a).map (fun x => (tget i.b x.recs).map fun r => r.stored) = some (some r.len) := by
  unfold formRecord
  rw [h1]
  simp only [h2]
  rw [if_pos (by rw [h3]; simp)]
  have v : (if by_ = true then bump (Reg.zstBypassLo seg) 1 s else s).cmd = s.cmd := by
    split
    · exact of_one (a := .cmd) (by simp)
    · rfl
  generalize (if by_ = true then bump (Reg.zstBypassLo seg) 1 s else s) = w at v
  unfold onRec
  rw [strmOf_onStrm, if_pos rfl, show strmOf w i.a = some x from (strmOf_cmd (congrArg CmdSt.streams v) _).trans h1]
  show some ((tget i.b (tmod i.b _ x.recs)).map _) = _
  rw [tget_tmod, if_pos rfl, h2]; rfl

theorem stoneDrain_raw (t seg : Nat) (s z : State) (hb : drainOn s seg = true) (bad : List Nat) (finds : List DramFind) (i : StoneItem) (x : Strm) (r : Rec) (hz : dramFindings seg finds (updateBypass seg (tick t s)) = z)
    (h1 : (tgetD [] seg z.med.stone).find? (!·.draining) = some i) (h2 : i.isRec = true) (h3 : strmOf z i.a = some x) (h4 : tget i.b x.recs = some r) (h5 : nbit x.zest 7 = false) :
    Completes (.stoneDrain t seg bad finds) s fun u => (strmOf u i.a).map (fun x => (tget i.b x.recs).map fun r => r.stored) = some (some r.len)
      ∧ tgetD [] seg u.med.stone = beginFirst (nbit z.zst.bypass seg || rescue z) z.now (z.med.drains + 1) (tgetD [] seg z.med.stone) := by
    have hx : exec (.stoneDrain t seg bad finds) s = execStoneDrain t seg bad finds s := rfl
    have hd : drainOn (updateBypass seg (tick t s)) seg = true := hb
    unfold execStoneDrain at hx
    simp only at hx
    rw [hd, hz] at hx
    simp only [Bool.not_true, Bool.false_eq_true, if_false, h1, h2, if_true] at hx
    refine completes_of hx ?_
    generalize hw : onMed _ (onStone seg _ _) = w
    have w1 : strmOf w i.a = some x := by rw [← hw]; exact h3
    have w2 : tgetD [] seg w.med.stone = beginFirst (nbit z.zst.bypass seg || rescue z) z.now (z.med.drains + 1) (tgetD [] seg z.med.stone) := by
      rw [← hw]
      show tgetD [] seg (tput seg _ _) = _
      rw [tgetD_tput_self]
    have l1 : ∀ s', (layItem seg i (z.med.drains + 1) s').cmd = s'.cmd := fun s' => of_one (a := .cmd) (by simp)
    refine ⟨?_, ?_⟩
    · rw [strmOf_cmd (congrArg CmdSt.streams (l1 _)) i.a]
      exact formRecord_raw w1 h4 h5
    · rw [stone_layItem, show (formRecord _ _ _ _ _ w).med = w.med from of_one (a := .med) (by simp), w2]

theorem tget_onDie (d : Nat) (f : Die → Die) (s : State) : tget d (onDie d f s).flw.dies = (tget d s.flw.dies).map f := by
  show tget d (tmod d f s.flw.dies) = _
  rw [tget_tmod, if_pos rfl]

theorem flw_bump (a n : Nat) (s : State) : (bump a n s).flw = s.flw := of_one (a := .flw) (by simp)

theorem flw_raiseF (a : Nat) (x : Site) (b : Nat) (s : State) : (raiseF a x b s).flw = s.flw := of_one (a := .flw) (by simp)

theorem flw_unless (p : Bool) (a : Nat) (s : State) : (if p = true then s else bumpTallyQuiet a s).flw = s.flw := by cases p <;> rfl

theorem flw_foldEmit (f : State → DRead → Out) : ∀ (l : List DRead) (s : State), (l.foldl (fun s r => emit (f s r) s) s).flw = s.flw
  | [], _ => rfl
  | r :: l, s => by rw [List.foldl_cons, flw_foldEmit f l]; rfl

theorem openWindow_die (d dp : Nat) (x : Die) (s : State) (h : tget d s.flw.dies = some x) :
    ∃ q, q = serveReads s.now (xferNs s d x) true s.now (tgetD {} (chanOf d) s.flw.chans).xferEnd (serveOrder x.queue)
      ∧ tget d (openWindow d dp s).flw.dies = some { x with decided := none, opened := some (s.now, q.1 - s.now), going := q.2.2.1, queue := q.2.2.2 } := by
  refine ⟨_, rfl, ?_⟩
  unfold openWindow
  rw [h]
  simp only
  generalize hm : meetPos 38 (segOfDie d) (chanOf d) x.pos (decide (s.now - dp > 25000)) s = m
  have m1 : m.2.2.flw = s.flw := by rw [← hm]; exact of_one (a := .flw) (by simp)
  have m2 : m.2.2.now = s.now := by rw [← hm]; exact of_one (a := .now) (by simp)
  have m3 : xferNs m.2.2 d x = xferNs s d x := by unfold xferNs; rw [m1]
  rw [m1, m2, m3]
  split
  · rw [flw_raiseF, flw_unless, flw_bump, flw_foldEmit fun s r => .nand (chanOf d) x.pos (.pageRead r.blk r.page (firstLevels s d r.blk))]
    show tget d (onDie _ _ _).flw.dies = _
    rw [tget_onDie, m1, h]; rfl
  · rw [flw_bump, flw_foldEmit fun s r => .nand (chanOf d) x.pos (.pageRead r.blk r.page (firstLevels s d r.blk))]
    show tget d (onDie _ _ _).flw.dies = _
    rw [tget_onDie, m1, h]; rfl

theorem resumeOp_die (k d : Nat) (s : State) : ∃ f : Die → Die, tget d (resumeOp k s).flw.dies = (tget d s.flw.dies).map f ∧ (∀ y, (f y).opened = y.opened) ∧ ∀ y o, tget d s.flw.dies = some y → y.op = some o → o.susp = false → f y = y := by
  unfold resumeOp
  split
  · exact ⟨id, by simp, fun _ => rfl, fun _ _ _ _ _ => rfl⟩
  · rename_i x hx
    split
    · exact ⟨id, by simp, fun _ => rfl, fun _ _ _ _ _ => rfl⟩
    · rename_i o ho
      split
      · exact ⟨id, by simp, fun _ => rfl, fun _ _ _ _ _ => rfl⟩
      · rename_i hc
        by_cases e : d = k
        · refine ⟨fun y => { y with op := some { o with susp := false, at_ := s.now } }, by rw [e]; exact tget_onDie k _ s, fun _ => rfl, fun y o' hy ho' hs => ?_⟩
          rw [e, hx] at hy; obtain rfl := Option.some.inj hy
          rw [ho] at ho'; obtain rfl := Option.some.inj ho'
          rw [hs] at hc; simp at hc
        · refine ⟨id, ?_, fun _ => rfl, fun _ _ _ _ _ => rfl⟩
          show tget d (tmod k _ s.flw.dies) = _
          rw [tget_tmod, if_neg e]; simp

theorem foldl_resume (l : List Nat) (d : Nat) (y : Die) (o : DieOp) (ho : y.op = some o) (hs : o.susp = false) : ∀ s : State, tget d s.flw.dies = some y → tget d (l.foldl (fun s k => resumeOp k s) s).flw.dies = some y := by
  induction l with
  | nil => intro s h; exact h
  | cons a t ih =>
    intro s h
    rw [List.foldl_cons]
    refine ih _ ?_
    obtain ⟨f, h1, -, h3⟩ := resumeOp_die a d s
    rw [h1, h]
    exact congrArg some (h3 y o h ho hs)

theorem bumpTally_integ {a k : Nat} {x : Site} {s : State} (h : ctr s a < 0xFFFFFFFE) : (bumpTally a k x s).integ = s.integ := by
  unfold bumpTally
  simp only
  rw [if_neg (by omega), if_neg (by omega)]; rfl

theorem startWake_pins (d : Nat) (s : State) : (startWake d s).pins = s.pins := of_one (a := .pins) (by simp)

theorem eraseDone_flw (d b : Nat) (s : State) : (eraseDone d b s).flw = s.flw := of_one (a := .flw) (by simp)

theorem detect_unarmed {k : Nat} {x : Site} {s : State} (h1 : s.integ.armed = false) (h2 : s.integ.bypass = none) : detect k x true s = (true, raiseF k x 0 s) := by
  unfold detect
  rw [meet_unarmed h1]
  simp only [if_true]
  unfold bypassed
  rw [h2]; rfl

theorem brc_withModes (m : Nat) (f : State → State) (s : State) : (withModes m f s).brc = (f s).brc := by
  unfold withModes
  simp only
  split
  · rfl
  · exact of_one (a := .brc) (by simp)

theorem brc_track (f : State → State) (s : State) : (track f s).brc = (f s).brc := by
  unfold track
  simp only
  generalize f s = w
  suffices h : ∀ (L : List Nat) (p : Nat → Bool) (v q : State), (L.foldl (fun q n => if p n then onCmd (fun c => { c with suspEnd := tput n v.now c.suspEnd }) q else q) q).brc = q.brc from h _ (fun n => boundSuspended s n && !boundSuspended w n) w w
  intro L
  induction L with
  | nil => intros; rfl
  | cons a t ih => intro p v q; rw [List.foldl_cons, ih]; split <;> rfl

theorem brc_relevelAll (s : State) : (relevelAll s).brc = s.brc := of_one (a := .brc) (by simp)

theorem brc_notice (a b c : Nat) (s : State) : (brcNotice a b c s).brc = s.brc := of_one (a := .brc) (by simp)

theorem brc_alertLow (s : State) : (alertLow s).brc = s.brc := of_one (a := .brc) (by simp)

theorem enterBrace_facts (c : Nat) (s : State) (h1 : s.brc.active = false) (h2 : s.life.lstate ≠ .scrapped) (h3 : s.cry.closed = false) :
    ∃ b, (enterBrace c s).brc = b ∧ b.active = true ∧ b.flushing = true ∧ b.cause = c ∧ b.flushSeq = (s.brc.flushSeq + 1) % 65536 ∧ b.ref = s.now ∧ b.exitWait = none := by
  unfold enterBrace
  rw [if_neg (by rw [h1]; simp)]
  simp only
  rw [brc_notice, brc_alertLow, brc_relevelAll]
  have hf : ∀ (l : List Nat) (w : State), (l.foldl (fun s k => if sleepOf s k = 1 then wakeNow k s else s) w).brc = w.brc := by
    intro l
    induction l with
    | nil => intro w; rfl
    | cons a t ih =>
      intro w
      rw [List.foldl_cons, ih]
      split
      · exact of_one (a := .brc) (by simp)
      · rfl
  have hu : ∀ w : State, (updateFloor w).brc = w.brc := fun w => of_one (a := .brc) (by simp)
  rw [hu, hf]
  have e : ∀ w : State, (flashBrace (closeBypass (disarm (bump Reg.brcEntriesLo 1 w)))).brc = w.brc := fun w => of_one (a := .brc) (by simp)
  rw [e]
  show ∃ b, (withModes 1 _ s).brc = b ∧ _
  rw [brc_withModes]
  have hs : (s.life.lstate != .scrapped) = true := by simpa using h2
  refine ⟨_, rfl, rfl, ?_, rfl, ?_, rfl, rfl⟩
  · show (s.life.lstate != .scrapped && !s.cry.closed) = true
    rw [hs, h3]; rfl
  · show (if (s.life.lstate != .scrapped && !s.cry.closed) = true then _ else _ : Nat) = _
    rw [hs, h3]; rfl

theorem cjTake_take {k : Nat} {f : Nat → Bool} {d : List Byte} {s : State} (h : (cjTake k f s).1 = some d) :
    ∃ l, cjTake k f s = (some d, onDxr (fun x => { x with hands := l }) s) := by
  unfold cjTake at h ⊢
  split at h
  · split at h
    · rename_i hh; simp only at h; rw [if_pos hh, h]; exact ⟨_, rfl⟩
    · cases h
  · cases h

theorem tfind_tput {α : Type} {p : Nat → α → Bool} {k : Nat} {a : α} : ∀ {t : Tab α}, tfind p t = none → tfind p (tput k a t) = none ∨ tfind p (tput k a t) = some (k, a)
  | [], _ => by
    unfold tput tfind
    by_cases h : p k a = true
    · right; simp [List.find?, h]
    · left; simp [List.find?, h]
  | (j, b) :: t, e => by
    unfold tfind at e
    simp only [List.find?_cons] at e
    by_cases hb : p j b = true
    · simp [hb] at e
    · simp only [Bool.not_eq_true] at hb
      simp only [hb] at e
      have ih := tfind_tput (k := k) (a := a) (t := t) e
      unfold tput
      split
      · by_cases h : p k a = true
        · right; simp [tfind, List.find?, h]
        · left; simp only [Bool.not_eq_true] at h; unfold tfind; simp only [List.find?_cons, h]; exact e
      · split
        · by_cases h : p k a = true
          · right; simp [tfind, List.find?, h]
          · left; simp only [Bool.not_eq_true] at h; unfold tfind; simp only [List.find?_cons, h, hb]; exact e
        · unfold tfind at ih ⊢
          simp only [List.find?_cons, hb]
          exact ih

theorem grantHold_jobs (seg n : Nat) (j : CJob) (s : State) (h : tfind (fun _ j => j.seg == seg && waitsHold j) s.cry.jobs = none) :
    ∃ o, tget n (grantHold seg (onCry (fun c => { c with jobs := tput n j c.jobs, nextJob := n + 1 }) s)).cry.jobs = some { j with hold := o } ∧ (cjOp j.desc ≠ 5 → o = j.hold) := by
  unfold grantHold
  rcases tfind_tput (k := n) (a := j) h with e | e
  · rw [show tfind _ (onCry (fun c => { c with jobs := tput n j c.jobs, nextJob := n + 1 }) s).cry.jobs = none from e]
    exact ⟨j.hold, tget_tput_self, fun _ => rfl⟩
  · have hw := List.find?_some e
    rw [show tfind _ (onCry (fun c => { c with jobs := tput n j c.jobs, nextJob := n + 1 }) s).cry.jobs = some (n, j) from e]
    simp only
    have h5 : cjOp j.desc = 5 := by
      simp only [Bool.and_eq_true] at hw
      have := hw.2
      unfold waitsHold at this
      simp only [Bool.and_eq_true, beq_iff_eq] at this
      exact this.1.1
    split
    · exact ⟨_, tget_tput_self, fun q => absurd h5 q⟩
    · exact ⟨j.hold, tget_tput_self, fun _ => rfl⟩

theorem cjSubmit_queued {k : Nat} {d : List Byte} {s : State} (h : cjCheck s k (pageOf s k) d = none) (hf : tfind (fun _ j => j.seg == k / 4 && waitsHold j) s.cry.jobs = none) :
    ∃ j, tget s.cry.nextJob (cjSubmit k d s).cry.jobs = some j ∧ j.desc = d ∧ j.core = k ∧ j.page = pageOf s k
      ∧ ((cjOp d = 1 ∨ cjOp d = 5 ∨ cjOp d = 6) → j.slot = tfree (k / 4 * 64) 64 s.cry.ctxs)
      ∧ (¬ (cjOp d = 1 ∨ cjOp d = 5 ∨ cjOp d = 6) → j.slot = (ctxOf s (k / 4) (pageOf s k) (cjCtx d)).map (·.1))
      ∧ (cjOp d ≠ 5 → j.hold = none) := by
  unfold cjSubmit
  simp only
  rw [h]
  simp only
  generalize hq : (if cjOp d = 1 ∨ cjOp d = 5 ∨ cjOp d = 6 then allocCtx k (pageOf s k) (cjAlg d) s else ((ctxOf s (k / 4) (pageOf s k) (cjCtx d)).map (·.1), s)) = q
  have q1 : q.2.cry.jobs = s.cry.jobs ∧ q.2.cry.nextJob = s.cry.nextJob := by
    rw [← hq]
    split
    · unfold allocCtx; split <;> exact ⟨rfl, rfl⟩
    · exact ⟨rfl, rfl⟩
  have q2 : (cjOp d = 1 ∨ cjOp d = 5 ∨ cjOp d = 6) → q.1 = tfree (k / 4 * 64) 64 s.cry.ctxs := by
    intro c
    rw [← hq, if_pos c]
    unfold allocCtx
    split
    · rename_i e; exact e.symm
    · rename_i e; exact e.symm
  have q3 : ¬ (cjOp d = 1 ∨ cjOp d = 5 ∨ cjOp d = 6) → q.1 = (ctxOf s (k / 4) (pageOf s k) (cjCtx d)).map (·.1) := by
    intro c; rw [← hq, if_neg c]
  obtain ⟨o, g1, g2⟩ := grantHold_jobs (k / 4) s.cry.nextJob { seg := k / 4, core := k, page := pageOf s k, desc := d, slot := q.1 } q.2 (by rw [q1.1]; exact hf)
  have e : (onCry (fun c => { c with jobs := tput c.nextJob { seg := k / 4, core := k, page := pageOf s k, desc := d, slot := q.1 } c.jobs, nextJob := c.nextJob + 1 }) q.2) =
      onCry (fun c => { c with jobs := tput s.cry.nextJob { seg := k / 4, core := k, page := pageOf s k, desc := d, slot := q.1 } c.jobs, nextJob := s.cry.nextJob + 1 }) q.2 := by
    unfold onCry
    simp only [q1.2]
  rw [e]
  exact ⟨_, g1, rfl, rfl, rfl, q2, q3, g2⟩

theorem cjRow_queued {t k n : Nat} {d : List Byte} {s : State} {c : Instr} (hc : exec c s = cjRow t k (opIs n) s) (h : cjCheck s k (pageOf s k) d = none)
    (hf : tfind (fun _ j => j.seg == k / 4 && waitsHold j) s.cry.jobs = none) (ht : (cjTake k (opIs n) (tick t s)).1 = some d) :
    Completes c s fun u => ∃ j, tget s.cry.nextJob u.cry.jobs = some j ∧ j.desc = d ∧ j.core = k ∧ j.page = pageOf s k
      ∧ ((cjOp d = 1 ∨ cjOp d = 5 ∨ cjOp d = 6) → j.slot = tfree (k / 4 * 64) 64 s.cry.ctxs)
      ∧ (¬ (cjOp d = 1 ∨ cjOp d = 5 ∨ cjOp d = 6) → j.slot = (ctxOf s (k / 4) (pageOf s k) (cjCtx d)).map (·.1))
      ∧ (cjOp d ≠ 5 → j.hold = none) := by
  obtain ⟨l, e⟩ := cjTake_take ht
  refine completes_of (hc.trans (by unfold cjRow; rw [e])) ?_
  exact cjSubmit_queued (s := onDxr (fun x => { x with hands := l }) (tick t s)) h hf

theorem jobResult_facts (k source status : Nat) (bs : List Byte) (res : Nat) (notify : Bool) (x : State) (hl : bs.length = 16) (hs : status ≠ 0x0605) (hw : Memory.wf x.dxr.mem = true)
    (hm : mapOk x (k / 4) res 16 true = true) (hr : nbit (tgetD 3 (k / 4) x.dsp.role) (k % 4) = true) :
    readMem (jobResult k source status bs res notify x) (k / 4) res 16 = bs ∧ (jobResult k source status bs res notify x).cry = x.cry := by
  unfold jobResult
  simp only
  have x5 : jobRange x k res 16 true = true := by
    unfold jobRange
    rw [if_pos (by unfold isHouse; rw [hr]; simp)]
  have x6 : (jobRange x k res 16 true && mapOk x (k / 4) res 16 true) = true := by rw [x5, hm]; rfl
  simp only [x6, if_true, if_neg hs]
  generalize hy : onDxr (fun d => { d with jobAt := tset 0 (k / 4) (writeMem (k / 4) res bs x).now d.jobAt }) (writeMem (k / 4) res bs x) = y
  have y1 : readMem y (k / 4) res 16 = bs := by
    rw [← hy, ← hl]; exact readMem_writeMem _ _ _ _ hw
  have y2 : y.cry = x.cry := by rw [← hy]; rfl
  have z1 : ∀ a b c d, (notifyItem a b c d y).cry = y.cry := fun a b c d => of_one (a := .cry) (by simp)
  have z2 : ∀ a b c d, (notifyItem a b c d y).dxr.mem = y.dxr.mem := fun a b c d => of_one (a := .mem) (by simp)
  split
  · refine ⟨?_, by rw [z1, y2]⟩
    unfold readMem memOfKey at y1 ⊢
    rw [z2]; exact y1
  · exact ⟨y1, y2⟩

theorem spdmServe_ok {req : List Byte} {f : State → State} {s : State} (h1 : s.boot.cfgReady = true) (h2 : spdmVersion req = true) (t : Nat) : spdmServe req f (tick t s) = .next (f (tick t s)) := by
  unfold spdmServe
  rw [if_neg (by rw [show (tick t s).boot = s.boot from rfl, h1]; simp), if_neg (by rw [h2]; simp)]

theorem spdmKeyed_ok {req : List Byte} {f : State → State} {s : State} (h1 : s.boot.cfgReady = true) (h2 : spdmVersion req = true) (h3 : attestOk s = true) (t : Nat) : spdmKeyed req f (tick t s) = .next (f (tick t s)) := by
  unfold spdmKeyed
  rw [spdmServe_ok h1 h2, if_pos (by exact h3)]

theorem foldl_drawSalt (l : List Nat) : ∀ s : State, (l.foldl (fun s f => drawSalt f s) s).cry.rederive = s.cry.rederive ∧ (l.foldl (fun s f => drawSalt f s) s).cry.rngOk = s.cry.rngOk
    ∧ (l.foldl (fun s f => drawSalt f s) s).cry.expKeys = s.cry.expKeys ∧ (l.foldl (fun s f => drawSalt f s) s).life = s.life := by
  induction l with
  | nil => intro s; exact ⟨rfl, rfl, rfl, rfl⟩
  | cons a t ih =>
    intro s
    obtain ⟨a1, a2, a3, a4⟩ := ih (drawSalt a s)
    rw [List.foldl_cons]
    have e : (drawSalt a s).cry.rederive = s.cry.rederive ∧ (drawSalt a s).cry.rngOk = s.cry.rngOk ∧ (drawSalt a s).cry.expKeys = s.cry.expKeys ∧ (drawSalt a s).life = s.life := by
      unfold drawSalt
      split <;> exact ⟨rfl, rfl, rfl, rfl⟩
    exact ⟨a1.trans e.1, a2.trans e.2.1, a3.trans e.2.2.1, a4.trans e.2.2.2⟩

theorem cry_clearStaging (f : Nat) (s : State) : (clearStaging f s).cry = s.cry := of_one (a := .cry) (by simp)

end Sys2Proof.Machine
end

