-- ==== Sys2Proof/Laws/Cores.lean ====
section
/-!
SUPPORT. Dexar cores, runs and items, the power manager and the Data Movers.
-/
namespace Sys2Proof.Machine

theorem coreOf_dxr {s t : State} (h : t.dxr = s.dxr) (k : Nat) : coreOf t k = coreOf s k := by unfold coreOf; rw [h]

theorem core_other {j k : Nat} {f : DCore → DCore} {s : State} (hf : f (coreOf s k) ≠ {}) (h : j ≠ k) : coreOf (onCore k f s) j = coreOf s j := by
  unfold coreOf onCore onDxr at *
  show tgetD {} j (tset {} k (f (tgetD {} k s.dxr.cores)) s.dxr.cores) = _
  unfold tset
  rw [if_neg hf]
  exact tgetD_tput_ne h

theorem issue_st {k : Nat} {s : State} (h : mayIssue s k = true) : (coreOf s k).st = .running := by
  unfold mayIssue at h
  simp only [Bool.and_eq_true, beq_iff_eq] at h
  exact h.1.1.2

theorem addCycles_eq {k n : Nat} {s : State} (h : (coreOf s k).cycle.toNat + n < 2 ^ 48) :
    addCycles k n s = onCore k (fun c => { c with cycle := (coreOf s k).cycle + BitVec.ofNat 48 n, issuedAt := s.now }) s := by
  unfold addCycles wrapNotice
  simp only
  rw [if_neg]
  rw [BitVec.toNat_add, BitVec.toNat_ofNat, Nat.mod_eq_of_lt (a := n) (by omega), Nat.mod_eq_of_lt (by omega)]
  omega

theorem addRetired_eq {k : Nat} {s : State} (h : (coreOf s k).retired.toNat + 1 < 2 ^ 48) :
    addRetired k 1 s = onCore k (fun c => { c with retired := (coreOf s k).retired + 1 }) s := by
  unfold addRetired wrapNotice
  simp only
  rw [if_neg (by rw [BitVec.toNat_add, BitVec.toNat_ofNat, Nat.mod_eq_of_lt (a := 1) (by omega), Nat.mod_eq_of_lt (by omega)]; omega)]
  rfl

/-- The state in which a bundle is decoded. -/
theorem issue_ready {k : Nat} {way : Issue} {s : State} (h : Issues k way s) (t : Nat) :
    issueChecks k way (tick t s) = (true, onCore k (fun c => { c with cycle := (coreOf s k).cycle + BitVec.ofNat 48 way.cycles, issuedAt := (tick t s).now }) (tick t s)) := by
  obtain ⟨h1, h2, h3, h4, h5⟩ := h.sound
  have e1 : detect 26 (coreSite (tick t s) k) way.parity (tick t s) = (false, tick t s) := by
    unfold detect
    rw [meet_unarmed (s := tick t s) h.unarmed.1, h1]; rfl
  unfold issueChecks
  rw [e1]
  simp only [Bool.false_eq_true, if_false]
  rw [h2]
  exact congrArg (Prod.mk true) (addCycles_eq (s := tick t s) h.count.1)

theorem fetchFromPc_eq {s z : State} (hm : z.dxr.mem = s.dxr.mem) (h1 : z.dxr.stale = s.dxr.stale) (h2 : s.dxr.stale = []) (k : Nat) :
    ∀ n pc, fetchFromPc z k pc n = fetchFromPc s k pc n
  | 0, _ => rfl
  | n + 1, pc => by
    unfold fetchFromPc
    rw [fetchFromPc_eq hm h1 h2 k n]
    have : ∀ a b i, fetchWord z a b i = fetchWord s a b i := by
      intro a b i
      unfold fetchWord readMem memOfKey
      rw [hm, h1, h2]; rfl
    rw [this]

theorem cyc_core {k : Nat} {v : BitVec 48} {n t : Nat} {s : State} (h : mayIssue s k = true) :
    coreOf (onCore k (fun c => { c with cycle := v, issuedAt := n }) (tick t s)) k = { coreOf s k with cycle := v, issuedAt := n } :=
  core_put (s := tick t s) (core_ne (by show (coreOf s k).st ≠ .held; rw [issue_st h]; simp))

theorem issue_decodes {k : Nat} {way : Issue} {s : State} (h : Issues k way s) (t : Nat) :
    decodeAt (onCore k (fun c => { c with cycle := (coreOf s k).cycle + BitVec.ofNat 48 way.cycles, issuedAt := (tick t s).now }) (tick t s)) k way = decodeAt s k way := by
  unfold decodeAt
  simp only
  rw [cyc_core h.may, fetchFromPc_eq (s := s) rfl rfl h.fresh]
  rfl

theorem issue_plain {k : Nat} {way : Issue} {s : State} (h : Issues k way s) {b : Bundle} (hb : decodeAt s k way = .ok b) (hr : b.rep = none) (t : Nat) :
    ∃ ws, exec (.bundleIssue t k way) s = .next (issuePlain k way b ws (onCore k (fun c => { c with cycle := (coreOf s k).cycle + BitVec.ofNat 48 way.cycles, issuedAt := (tick t s).now }) (tick t s))) := by
  generalize hz : onCore k (fun c => { c with cycle := (coreOf s k).cycle + BitVec.ofNat 48 way.cycles, issuedAt := (tick t s).now }) (tick t s) = z
  refine ⟨(fetchFromPc z k (coreOf z k).pc.toNat 8).take b.words, ?_⟩
  rw [← hz]
  simp only [exec, execBundleIssue]
  rw [if_pos (by exact h.may)]
  unfold issueBundle
  rw [issue_ready h t]
  simp only [Bool.not_true, Bool.false_eq_true, if_false]
  rw [issue_decodes h t, hb]
  simp only [hr]
  unfold afterFetch
  rw [if_pos (by exact (congrArg List.isEmpty h.fresh : _))]

/-- The state in which a bundle without REP executes. -/
def inBundle (t k : Nat) (way : Issue) (s : State) : State :=
  onCore k (fun c => c.setPs 15 15 0) (onCore k (fun c => { c with cycle := (coreOf s k).cycle + BitVec.ofNat 48 way.cycles, issuedAt := (tick t s).now }) (tick t s))

theorem inBundle_core {t k : Nat} {way : Issue} {s : State} (h : mayIssue s k = true) : coreOf (inBundle t k way s) k = issuedCore (max s.now t) way (coreOf s k) := by
  have e := cyc_core (k := k) (v := (coreOf s k).cycle + BitVec.ofNat 48 way.cycles) (n := (tick t s).now) (t := t) h
  unfold inBundle
  rw [core_put (core_ne (by rw [setPs_st, e]; show (coreOf s k).st ≠ .held; rw [issue_st h]; simp)), e]
  rfl

theorem inBundle_other {t k j : Nat} {way : Issue} {s : State} (h : mayIssue s k = true) (hj : j ≠ k) : coreOf (inBundle t k way s) j = coreOf s j := by
  have e := cyc_core (k := k) (v := (coreOf s k).cycle + BitVec.ofNat 48 way.cycles) (n := (tick t s).now) (t := t) h
  unfold inBundle
  rw [core_other (core_ne (by rw [setPs_st, e]; show (coreOf s k).st ≠ .held; rw [issue_st h]; simp)) hj]
  exact core_other (s := tick t s) (core_ne (by show (coreOf s k).st ≠ .held; rw [issue_st h]; simp)) hj

/-- A bundle without REP, GET, BRK or TRAP whose acting syllables raise nothing. -/
theorem bundle_commits {t k : Nat} {way : Issue} {s : State} (h : Issues k way s) {b : Bundle} (hb : decodeAt s k way = .ok b) (hr : b.rep = none)
    {acts : List Syl} (ha : b.syls.filter (·.acts (issuedCore (max s.now t) way (coreOf s k))) = acts) (hg : getOf acts = none)
    (hk : ∀ x ∈ acts, ∀ v, x.op ≠ .brk v ∧ x.op ≠ .trap v)
    (he : actExcs (inBundle t k way s) k (issuedCore (max s.now t) way (coreOf s k)) way false acts = []) :
    exec (.bundleIssue t k way) s = .next (addRetired k 1 (commit k (issuedCore (max s.now t) way (coreOf s k))
      (bundleReads (inBundle t k way s) k (issuedCore (max s.now t) way (coreOf s k)) acts) acts ((coreOf s k).pc.toNat + 4 * b.words) (inBundle t k way s))) := by
  obtain ⟨ws, e⟩ := issue_plain h hb hr t
  rw [e]
  congr 1
  unfold issuePlain
  simp only
  rw [show onCore k (fun c => c.setPs 15 15 0) (onCore k (fun c => { c with cycle := (coreOf s k).cycle + BitVec.ofNat 48 way.cycles, issuedAt := (tick t s).now }) (tick t s)) = inBundle t k way s from rfl,
    inBundle_core h.may, ha, hg]
  simp only
  have hf : ∀ l, flagAccess k l (inBundle t k way s) = (false, 0, inBundle t k way s) := by
    intro l
    unfold flagAccess
    split
    · simp only
      rw [meet_unarmed (s := inBundle t k way s) h.unarmed.1 _ _ _ _]; rfl
    · rfl
  rw [if_pos]
  rotate_left
  · rw [Bool.and_eq_true]
    refine ⟨?_, ?_⟩
    · unfold execSyls
      simp only
      rw [inBundle_core h.may, ha, hf]
      simp only
      rw [he]
      rfl
    · rw [Bool.not_eq_true', List.any_eq_false]
      intro x hx
      obtain hb := hk x hx
      split
      · exact absurd ‹_› (hb _).1
      · exact absurd ‹_› (hb _).2
      · simp
  unfold execSyls
  simp only
  rw [inBundle_core h.may, ha, hf]
  simp only
  rw [he]
  simp [firstExc, issuedCore, DCore.setPs]

theorem loopCheck_keeps (a : Nat) : ∀ n c, (loopCheck a n c).st = c.st ∧ (loopCheck a n c).retired = c.retired
  | 0, _ => ⟨rfl, rfl⟩
  | n + 1, c => by
    unfold loopCheck
    split
    · exact ⟨rfl, rfl⟩
    · simp only
      split
      · exact ⟨rfl, rfl⟩
      · split
        · exact ⟨rfl, rfl⟩
        · exact loopCheck_keeps a n _

/-- A completed bundle that writes registers and no memory. -/
theorem bundle_regs {t k w next : Nat} {way : Issue} {m : Tab Nat} {l : List Syl} {n : DCore} {s : State} (h : Issues k way s)
    (hc : cOf l = none) (hn : next = (coreOf s k).pc.toNat + 4 * w)
    (hw : writeAll k (isHouse (inBundle t k way s) k) (issuedCore (max s.now t) way (coreOf s k)) m l = n)
    (h1 : n.st = (coreOf s k).st) (h2 : n.retired = (coreOf s k).retired) (h3 : l.flatMap (sylStores (issuedCore (max s.now t) way (coreOf s k)) m) = []) :
    let u := addRetired k 1 (commit k (issuedCore (max s.now t) way (coreOf s k)) m l next (inBundle t k way s))
    coreOf u k = passedCore w (issuedCore (max s.now t) way (coreOf s k)) n ∧ u.dxr.mem = s.dxr.mem ∧ ∀ j, j ≠ k → coreOf u j = coreOf s j := by
  intro u
  obtain ⟨L, hL⟩ : ∃ L, loopCheck (coreOf s k).pc.toNat 3 { n with pc := BitVec.ofNat 32 next } = L := ⟨_, rfl⟩
  have hs : L.st ≠ .held := by rw [← hL, (loopCheck_keeps _ _ _).1]; show n.st ≠ _; rw [h1, issue_st h.may]; simp
  have hr : L.retired = (coreOf s k).retired := by rw [← hL, (loopCheck_keeps _ _ _).2]; exact h2
  have hq : commit k (issuedCore (max s.now t) way (coreOf s k)) m l next (inBundle t k way s) = onCore k (fun _ => L) (inBundle t k way s) := by
    unfold commit
    simp only
    rw [hc, hw, h3]
    show doStores k [] (onCore k (fun _ => loopCheck (coreOf s k).pc.toNat 3 { n with pc := BitVec.ofNat 32 next }) (inBundle t k way s)) = _
    rw [hL]; rfl
  have h5 : coreOf (onCore k (fun _ => L) (inBundle t k way s)) k = L := core_put (core_ne hs)
  have hu : u = onCore k (fun c => { c with retired := L.retired + 1 }) (onCore k (fun _ => L) (inBundle t k way s)) := by
    show addRetired k 1 _ = _
    rw [hq, addRetired_eq (by rw [h5, hr]; have := h.count.2; omega), h5]
  have hp : passedCore w (issuedCore (max s.now t) way (coreOf s k)) n = { L with retired := L.retired + 1 } := by
    rw [← hL, hn]; rfl
  rw [hu, hp]
  have h6 : (fun (c : DCore) => { c with retired := L.retired + 1 }) (coreOf (onCore k (fun _ => L) (inBundle t k way s)) k) ≠ {} := by
    rw [h5]; exact core_ne hs
  refine ⟨?_, rfl, fun j hj => ?_⟩
  · rw [core_put h6, h5]
  · rw [core_other h6 hj, core_other (core_ne hs) hj]
    exact inBundle_other h.may hj

theorem le_length : ∀ n v, (le n v).length = n
  | 0, _ => rfl
  | n + 1, v => by unfold le; rw [List.length_cons, le_length n]

theorem markStale_facts (k key : Nat) : ∀ (l : List Byte) (a : Nat) (s : State), (markStale k key a l s).dxr.cores = s.dxr.cores ∧ (markStale k key a l s).dxr.mem = s.dxr.mem
  | [], _, _ => ⟨rfl, rfl⟩
  | _ :: t, a, s => by
    unfold markStale
    simp only
    obtain ⟨h1, h2⟩ := markStale_facts k key t (a + 1) (if (s.dxr.stale.any fun x => x.mem == key && x.addr == a) = true then s else onDxr (fun d => { d with stale := d.stale ++ [{ core := k, mem := key, addr := a, old := tgetD 0 a (memOfKey s key) }] }) s)
    rw [h1, h2]
    split <;> exact ⟨rfl, rfl⟩

theorem storeAt_mem (k key a : Nat) (l : List Byte) (s : State) : ∃ z : State, z.dxr.cores = s.dxr.cores ∧ z.dxr.mem = s.dxr.mem ∧ storeAt k (.mem key a) l s = writeMem key a l z := by
  unfold storeAt
  simp only
  split
  · exact ⟨_, (markStale_facts _ _ _ _ _).1, (markStale_facts _ _ _ _ _).2, rfl⟩
  · exact ⟨s, rfl, rfl, rfl⟩

theorem local_target {k : Nat} {kd : Kind} {a n : Nat} {s : State} (h : a < 0x1000000) : target s k kd a n = localTarget k (!isHouse s k) kd a n := if_pos h

/-- An aligned access to local memory raises nothing. -/
theorem access_fine {s z : State} {k n slot ea : Nat} {way : Issue} {kd : Kind} {x : Target} (h : Issues k way s) (hz : isHouse z k = isHouse s k)
    (h1 : ea % n = 0) (h2 : ea < 0x1000000) (h3 : localTarget k (!isHouse s k) kd ea n = some x) : accessExc z k slot way false (kd, ea, n) = [] := by
  obtain ⟨_, _, p1, p2, _⟩ := h.sound
  unfold accessExc
  simp only
  rw [if_neg (by omega), local_target h2, hz, h3, p1, p2]
  simp

theorem isHouse_isTrap {s : State} {k : Nat} (c : DCore) (h : isHouse s k = true) : pstateOf (isHouse s k) c = setBits c.pstate 0 0 1 := by rw [h]; rfl

theorem bump_core (a n k : Nat) (s : State) : coreOf (bump a n s) k = coreOf s k := coreOf_dxr (of_one (a := .dxr) (by simp)) k

theorem raiseF_core (a : Nat) (x : Site) (b k : Nat) (s : State) : coreOf (raiseF a x b s) k = coreOf s k := coreOf_dxr (of_one (a := .dxr) (by simp)) k

/-- A house core takes an exception. -/
theorem takeExc_core {k : Nat} {e : Exc} {epc ef : Nat} {s : State} (h : isHouse s k = true) (hs : (coreOf s k).st = .running ∨ (coreOf s k).st = .waiting)
    (hx : e.code < 0x10 → (coreOf s k).exl = false) :
    ∃ a, (∀ x, e.eaddr = some x → a = x) ∧ coreOf (takeExc k e epc ef s) k = { trappedCore e a epc (coreOf s k) with st := .running } := by
  unfold takeExc
  simp only
  rw [if_neg (by
    rintro ⟨-, q1, q2⟩
    simp only [decide_eq_true_eq] at q1
    rw [hx q1] at q2; cases q2), if_pos h]
  refine ⟨e.eaddr.getD (freeVal s), ?_, ?_⟩
  · intro x hx; rw [hx]; rfl
  · have key : ∀ (a : Nat) (z : State), coreOf z k = coreOf s k →
      coreOf (onCore k (fun c => { ((((c.setPs 12 12 1).setPs 11 11 0).setPs 14 13 0).setPs 15 15 0) with pc := BitVec.ofNat 32 (c.evec.toNat + 0x40 * e.code) })
        (onCore k (fun c => { c with epstate := pstateOf (isHouse s k) c, epc := BitVec.ofNat 32 epc, ecause := BitVec.ofNat 11 (e.slot * 256 + e.code), eaddr := BitVec.ofNat 64 a, lastExc := e.code, get := none, getWords := [], getReads := [], st := if c.st = .waiting then .running else c.st }) z)) k
      = { trappedCore e a epc (coreOf s k) with st := .running } := by
      intro a z hzk
      have hst : (if (coreOf s k).st = .waiting then CoreSt.running else (coreOf s k).st) = .running := by
        rcases hs with q | q <;> simp [q]
      have e1 : coreOf (onCore k (fun c => { c with epstate := pstateOf (isHouse s k) c, epc := BitVec.ofNat 32 epc, ecause := BitVec.ofNat 11 (e.slot * 256 + e.code), eaddr := BitVec.ofNat 64 a, lastExc := e.code, get := none, getWords := [], getReads := [], st := if c.st = .waiting then .running else c.st }) z) k = { coreOf s k with epstate := pstateOf (isHouse s k) (coreOf s k), epc := BitVec.ofNat 32 epc, ecause := BitVec.ofNat 11 (e.slot * 256 + e.code), eaddr := BitVec.ofNat 64 a, lastExc := e.code, get := none, getWords := [], getReads := [], st := .running } := by
        rw [core_put (core_ne (by rw [hzk]; show (if (coreOf s k).st = .waiting then CoreSt.running else (coreOf s k).st) ≠ .held; rw [hst]; simp)), hzk, hst]
      rw [core_put (by rw [e1]; exact core_ne (by show CoreSt.running ≠ .held; simp)), e1, isHouse_isTrap _ h]
      clear e1 hst hzk
      generalize coreOf s k = c
      simp only [trappedCore, DCore.setPs]
    cases he : e.eaddr with
    | none => exact key _ _ ((bump_core _ _ _ _).trans (by rfl))
    | some x => exact key _ _ ((bump_core _ _ _ _).trans (by rfl))

theorem cleanRun_facts (r : Nat) (x : DRun) (s : State) (h : tget r s.dsp.runs = some x) : (cleanRun r s).rge = s.rge ∧ (cleanRun r s).dsp.runs = tdel r s.dsp.runs := by
  refine ⟨of_one (a := .rge) (by simp), ?_⟩
  unfold cleanRun
  rw [h]
  simp only
  have hc : ∀ k s, (clearCore k s).dsp = s.dsp := fun k s => of_one (a := .dsp) (by simp)
  have hm : ∀ a b c s, (clearMem a b c s).dsp = s.dsp := fun a b c s => of_one (a := .dsp) (by simp)
  have hf : ∀ p s, (freeContexts p s).dsp = s.dsp := fun p s => of_one (a := .dsp) (by simp)
  cases x.core with
  | none => rfl
  | some k =>
    show tdel r (clearCore k _).dsp.runs = _
    rw [hc, hm, hm, hf]
    rfl

theorem endRun_facts {r status result code epc eaddr ef : Nat} {x : DRun} {c : Flight} {s : State} (h : tget r s.dsp.runs = some x) (h2 : tget x.id s.rge.flights = some c)
    (h3 : CanPost s c) : Posted c status result (endRun r status result code epc eaddr ef s) ∧ (endRun r status result code epc eaddr ef s).dsp.runs = tdel r s.dsp.runs := by
  unfold endRun
  rw [h]
  simp only
  obtain ⟨c1, c2⟩ := cleanRun_facts r x s h
  generalize cleanRun r s = y at c1 c2
  have d1 : Posted c status result (complete x.id status result y) := (Quiet.of_rge c1).posted h2 h3 _ _ _
  have d2 : (complete x.id status result y).dsp = y.dsp := of_one (a := .dsp) (by simp)
  have hpn : ∀ a b c d e s, (progNotice a b c d e s).dsp = s.dsp := fun a b c d e s => of_one (a := .dsp) (by simp)
  have hf : ∀ (l : List Nat) (z : State), Later z (l.foldl (fun s _ => progNotice x 4 0 0 0 s) z) ∧ (l.foldl (fun s _ => progNotice x 4 0 0 0 s) z).dsp = z.dsp := by
    intro l
    induction l with
    | nil => exact fun z => ⟨.refl z, rfl⟩
    | cons a t ih => exact fun z => ⟨(later_post _ _ _ _ _).trans (ih _).1, (ih _).2.trans (hpn _ _ _ _ _ _)⟩
  obtain ⟨l1, l2⟩ := hf (List.range x.retries) (complete x.id status result y)
  generalize List.foldl (fun s _ => progNotice x 4 0 0 0 s) (complete x.id status result y) (List.range x.retries) = z at l1 l2 ⊢
  have d1 := d1.later l1
  have d2 := l2.trans d2
  generalize hw : (if status = 0x0605 then bumpTallyQuiet (Reg.dspSandbox x.seg) (raiseF 9 { seg := x.seg, unit := x.core.getD 0, func := x.fn, loc := eaddr } ef z)
    else if status = 0x0604 then bump (Reg.dspBudgetLo x.seg) 1 z else z) = w
  have q1 : Later z w := by
    rw [← hw]
    split
    · exact (later_raiseF _ _ _ _).trans (.of_out rfl)
    · split
      · exact later_bump _ _ _
      · exact .refl z
  have q2 : w.dsp = z.dsp := by
    rw [← hw]
    split
    · exact of_one (a := .dsp) (by simp)
    · split
      · exact of_one (a := .dsp) (by simp)
      · rfl
  refine ⟨?_, ?_⟩
  · split
    · exact d1.later q1
    · exact d1.later (q1.trans (later_post _ _ _ _ _))
  · split
    · rw [q2, d2, c2]
    · rw [hpn, q2, d2, c2]

theorem repc_core (k : Nat) (v : BitVec 32) (s : State) (h : (coreOf s k).st ≠ .held) :
    coreOf (onCore k (fun c => { c.setPs 15 15 1 with repc := v }) s) k = { (coreOf s k).setPs 15 15 1 with repc := v } := by
  have e : ∀ (a b w : Nat) (c : DCore), c.st ≠ .held → ({ c.setPs a b w with repc := v } : DCore) ≠ {} := fun a b w c h => core_ne h
  exact core_put (e 15 15 1 _ h)

theorem injPast_promoted (k : Nat) (s : State) : (injPast k s).integ.promoted = s.integ.promoted := by
  rfl

theorem fireOne_promoted (s : State) : (fireOne s).integ.promoted = s.integ.promoted := by
  unfold fireOne
  split
  · rw [clearArm_integ]; rfl
  · rfl

theorem postCore_promoted (f typ src : Nat) (p : List Byte) (s : State) : (postCore f typ src p s).2.integ.promoted = s.integ.promoted := by
  unfold postCore
  simp only
  generalize hw : (if f = 0 then _ else s : State) = w
  have hq : w.integ.promoted = s.integ.promoted := by subst w; split <;> rfl
  rw [← hq]
  generalize hs1 : onFunc f (fun e => { e with seq := (e.seq + 1) % 65536 }) w = s1
  have e1 : s1.integ = w.integ := by subst s1; rfl
  split
  · rfl
  · split
    · rw [fireOne_promoted, integ_onFunc, e1]
    · split
      · split
        · rw [writeNotice_integ, integ_onFunc, e1]
        · split <;> rw [integ_onFunc, e1]
      · split <;> rw [integ_onFunc, e1]

theorem raiseCore_promoted (k : Nat) (x : Site) (ef : Nat) (s : State) : (raiseCore k x ef s).2.integ.promoted = s.integ.promoted := by
  have h := injPast_promoted k s
  unfold raiseCore
  simp only
  generalize Ev.mk _ _ _ _ _ _ _ _ = e
  generalize injPast k s = w at h ⊢
  split
  · exact h
  · split
    · exact h
    · rw [postCore_promoted]; exact h

theorem dropped_promoted (f ef : Nat) (s : State) : (dropped f ef s).integ.promoted = s.integ.promoted := by
  unfold dropped
  simp only
  have h1 := raiseCore_promoted 12 { func := f } ef (setCtr (Reg.fnNoticeDrop f) (satAdd 0xFFFFFFFF (ctr s (Reg.fnNoticeDrop f)) 1) s)
  generalize raiseCore 12 { func := f } _ _ = r at h1 ⊢
  split
  · rw [raiseCore_promoted]; exact h1
  · exact h1

theorem post_promoted (f typ src : Nat) (p : List Byte) (s : State) : (post f typ src p s).integ.promoted = s.integ.promoted := by
  have h := postCore_promoted f typ src p s
  unfold post
  split
  · rename_i e; rw [e] at h; rw [dropped_promoted]; exact h
  · rename_i e; rw [e] at h; exact h

theorem bump_promoted (a n : Nat) (s : State) : (bump a n s).integ.promoted = s.integ.promoted := by
  unfold bump
  simp only
  split
  · rw [post_promoted]; rfl
  · rfl

theorem longestWait_awaits {s : State} {seg k : Nat} (h : longestWait s seg = some k) : awaits s k = true := by
  unfold longestWait at h
  have key : ∀ (l : List Nat) (b : Option Nat), (∀ j, b = some j → awaits s j = true) → ∀ j,
      l.foldl (fun b k => if awaits s k && (findItem s k ((coreOf s k).get.getD (0, 0)).2).isSome then
        (match b with
        | none => some k
        | some j => if (coreOf s k).waitAt < (coreOf s j).waitAt then some k else some j)
      else b) b = some j → awaits s j = true := by
    intro l
    induction l with
    | nil => intro b hb j hj; exact hb j hj
    | cons a l ih =>
      intro b hb j hj
      refine ih _ ?_ j hj
      intro j' hj'
      simp only at hj'
      split at hj'
      · rename_i ha
        rw [Bool.and_eq_true] at ha
        cases b with
        | none => cases hj'; exact ha.1
        | some q =>
          simp only at hj'
          split at hj'
          · cases hj'; exact ha.1
          · cases hj'; exact hb _ rfl
      · exact hb _ hj'
  exact key _ none (by simp) k h

theorem addRetired_core {k n : Nat} {s : State} (h : (coreOf s k).st ≠ .held) :
    coreOf (addRetired k n s) k = { coreOf s k with retired := (coreOf s k).retired + BitVec.ofNat 48 n } ∧ (addRetired k n s).dsp = s.dsp := by
  have w : ∀ k a b s, (wrapNotice k a b s).dxr = s.dxr := fun k a b s => of_one (a := .dxr) (by simp)
  have w2 : ∀ k a b s, (wrapNotice k a b s).dsp = s.dsp := fun k a b s => of_one (a := .dsp) (by simp)
  unfold addRetired
  simp only
  refine ⟨?_, by rw [w2]; rfl⟩
  rw [coreOf_dxr (w _ _ _ _), core_put (core_ne (by exact h))]

theorem loopCheck_g (a : Nat) : ∀ n c, (loopCheck a n c).g = c.g ∧ (loopCheck a n c).mailbox = c.mailbox ∧ (loopCheck a n c).item = c.item
  | 0, _ => ⟨rfl, rfl, rfl⟩
  | n + 1, c => by
    unfold loopCheck
    split
    · exact ⟨rfl, rfl, rfl⟩
    · simp only
      split
      · exact ⟨rfl, rfl, rfl⟩
      · split
        · exact ⟨rfl, rfl, rfl⟩
        · exact loopCheck_g a n _

theorem gave_core (k d : Nat) (v : W64) (s : State) :
    coreOf (onCore k (fun x => { x.setG d v with st := .running, get := none, getWords := [], getReads := [], gated := false }) s) k
      = { (coreOf s k).setG d v with st := .running, get := none, getWords := [], getReads := [], gated := false } := by
  have e : ∀ c : DCore, ({ c.setG d v with st := .running, get := none, getWords := [], getReads := [], gated := false } : DCore) ≠ {} := by
    intro c; exact core_ne (fun q => by cases q)
  exact core_put (e _)

theorem takeHand_at {f : Hand → Bool} {h : Hand} {post : List Hand} (hf : f h = true) : ∀ {pre : List Hand}, (∀ x ∈ pre, f x = false) →
    takeHand f (pre ++ h :: post) = (some h, pre ++ post)
  | [], _ => by unfold takeHand; simp [hf]
  | a :: l, e => by
    have e1 := e a (List.mem_cons_self ..)
    have ih := takeHand_at (post := post) hf (pre := l) (fun x hx => e x (List.mem_cons_of_mem _ hx))
    rw [List.cons_append]
    unfold takeHand
    rw [if_neg (by rw [e1]; simp), ih]
    rfl

theorem popHand_at {f : Hand → Bool} {h : Hand} {pre post : List Hand} {s : State} (hh : s.dxr.hands = pre ++ h :: post) (hf : f h = true) (hp : ∀ x ∈ pre, f x = false) :
    popHand f s = (some h, onDxr (fun d => { d with hands := pre ++ post }) s) := by
  unfold popHand
  rw [hh, takeHand_at hf hp]

theorem poststat_core {k v : Nat} {s : State} (h : (coreOf s k).st ≠ .held) : (coreOf (onCore k (fun c => { c with poststat := v }) s) k).poststat = v := by
  rw [core_put (core_ne (by exact h))]

theorem mem_foldl_dueInsert (f : Place → Option (Nat × Nat)) : ∀ (l : Tab Item) (b : List (Nat × Nat × Nat)) (y : Nat × Nat × Nat),
    (y ∈ b ∨ ∃ p ∈ l, ∃ d o, f p.2.place = some (d, o) ∧ y = (d, o, p.1)) →
    y ∈ l.foldl (fun l p => match f p.2.place with | some (d, o) => dueInsert (d, o, p.1) l | none => l) b
  | [], b, y, h => by
    rcases h with h | ⟨p, h, -⟩
    · exact h
    · cases h
  | a :: l, b, y, h => by
    have hm : ∀ (x y : Nat × Nat × Nat) (l : List (Nat × Nat × Nat)), (y = x ∨ y ∈ l) → y ∈ dueInsert x l := by
      intro x y l
      induction l with
      | nil => intro h; simpa [dueInsert] using h
      | cons z l ih =>
        intro h
        unfold dueInsert
        split
        · simpa using h
        · rcases h with h | h
          · exact List.mem_cons_of_mem _ (ih (.inl h))
          · rcases List.mem_cons.mp h with h | h
            · rw [h]; exact List.mem_cons_self ..
            · exact List.mem_cons_of_mem _ (ih (.inr h))
    rw [List.foldl_cons]
    refine mem_foldl_dueInsert f l _ y ?_
    rcases h with h | ⟨p, hp, d, o, h1, h2⟩
    · left
      split
      · exact hm _ _ _ (.inr h)
      · exact h
    · rcases List.mem_cons.mp hp with hp | hp
      · left
        rw [← hp, h1]
        exact hm _ _ _ (.inl h2)
      · exact .inr ⟨p, hp, d, o, h1, h2⟩

theorem mem_dueItems {s : State} {seg key : Nat} {i : Item} {f : Place → Option (Nat × Nat)} {d o : Nat} (h : tget key s.dsp.items = some i) (hk : key / 4096 = seg)
    (hf : f i.place = some (d, o)) : key ∈ dueItems s seg f := by
  unfold dueItems
  rw [List.mem_map]
  refine ⟨(d, o, key), mem_foldl_dueInsert f _ _ _ (.inr ⟨(key, i), ?_, d, o, hf, rfl⟩), rfl⟩
  unfold itemsOf tfilter
  rw [List.mem_filter]
  exact ⟨tget_mem h, by simp [hk]⟩

theorem releaseOne_items (s : State) (key j : Nat) : tget j (releaseOne s key).dsp.items = if j = key then (tget j s.dsp.items).map (fun i => { i with source := 6, place := .ready s.dsp.order }) else tget j s.dsp.items := by
  unfold releaseOne
  split
  · rename_i i h
    by_cases e : j = key
    · rw [if_pos e, e, h]; exact tget_tput_self
    · rw [if_neg e]; exact tget_tput_ne e
  · rename_i h
    split
    · rename_i e; rw [e, h]; rfl
    · rfl

theorem foldl_release (key : Nat) (i : Item) : ∀ (l : List Nat) (s : State),
    ((∃ n, tget key s.dsp.items = some { i with source := 6, place := .ready n }) ∨ (key ∈ l ∧ tget key s.dsp.items = some i)) →
    ∃ n, tget key (l.foldl releaseOne s).dsp.items = some { i with source := 6, place := .ready n }
  | [], s, h => by
    rcases h with h | ⟨h, -⟩
    · exact h
    · cases h
  | a :: l, s, h => by
    rw [List.foldl_cons]
    refine foldl_release key i l _ ?_
    rw [releaseOne_items]
    rcases h with ⟨n, h⟩ | ⟨h, h2⟩
    · left
      split
      · rw [h]; exact ⟨_, rfl⟩
      · exact ⟨n, h⟩
    · by_cases e : key = a
      · left; rw [if_pos e, h2]; exact ⟨_, rfl⟩
      · right
        rw [if_neg e]
        exact ⟨(List.mem_cons.mp h).resolve_left e, h2⟩

/-- The Power Manager without what a change of levels moves. -/
def Pwr.rest (p : Pwr) : Pwr := { p with volt := 0, level := [], raising := [] }

theorem pwr_bump (a n : Nat) (s : State) : (bump a n s).pwr = s.pwr := of_one (a := .pwr) (by simp)

theorem rest_switchLevel (n l : Nat) (s : State) : (switchLevel n l s).pwr.rest = s.pwr.rest := by
  unfold switchLevel
  split
  · rfl
  · rw [pwr_bump]; rfl

theorem rest_lowerVolt (s : State) : (lowerVolt s).pwr.rest = s.pwr.rest := by
  unfold lowerVolt
  split <;> rfl

theorem rest_relevel (s : State) (n : Nat) : (relevel s n).pwr.rest = s.pwr.rest := by
  unfold relevel
  simp only
  split
  · rw [rest_lowerVolt, rest_switchLevel]; rfl
  · split
    · split <;> rfl
    · rfl

theorem rest_foldl {α : Type} (f : State → α → State) (h : ∀ s a, (f s a).pwr.rest = s.pwr.rest) : ∀ (l : List α) (s : State), (l.foldl f s).pwr.rest = s.pwr.rest
  | [], _ => rfl
  | a :: l, s => by rw [List.foldl_cons, rest_foldl f h l, h]

theorem pwr_track (f : State → State) (s : State) : (track f s).pwr = (f s).pwr := by
  unfold track
  simp only
  generalize f s = w
  have : ∀ (l : List Nat) (q : State) (p : Nat → Bool) (v : Nat), (l.foldl (fun q n => if p n then onCmd (fun c => { c with suspEnd := tput n v c.suspEnd }) q else q) q).pwr = q.pwr := by
    intro l
    induction l with
    | nil => intro q p v; rfl
    | cons a l ih =>
      intro q p v
      rw [List.foldl_cons, ih]
      split <;> rfl
  exact this _ w (fun n => boundSuspended s n && !boundSuspended w n) w.now

theorem rest_relevelAll (s : State) : (relevelAll s).pwr.rest = s.pwr.rest := by
  unfold relevelAll
  rw [pwr_track]
  exact rest_foldl relevel rest_relevel _ s

theorem rest_field {α : Type} {f : Pwr → α} (h : ∀ p, f p.rest = f p) {s t : State} (e : t.pwr.rest = s.pwr.rest) : f t.pwr = f s.pwr := by
  rw [← h, e, h]

theorem rest_setCap (n v : Nat) (s : State) : (setCap n v s).pwr.cap = tset 0 n v s.pwr.cap ∧ (setCap n v s).pwr.temps = s.pwr.temps ∧ (setCap n v s).pwr.tempAt = s.pwr.tempAt := by
  have ha : (accrue n s).pwr.cap = s.pwr.cap ∧ (accrue n s).pwr.temps = s.pwr.temps ∧ (accrue n s).pwr.tempAt = s.pwr.tempAt := by
    unfold accrue
    simp only
    rw [pwr_bump]
    exact ⟨rfl, rfl, rfl⟩
  unfold setCap
  simp only
  generalize hz : onPwr _ (accrue n s) = z
  have z1 : z.pwr.cap = tset 0 n v s.pwr.cap ∧ z.pwr.temps = s.pwr.temps ∧ z.pwr.tempAt = s.pwr.tempAt := by
    rw [← hz]
    exact ⟨congrArg (tset 0 n v) ha.1, ha.2.1, ha.2.2⟩
  split
  · have e : (track (fun s => relevel s n) z).pwr.rest = z.pwr.rest := by rw [pwr_track]; exact rest_relevel _ _
    exact ⟨(rest_field (f := Pwr.cap) (fun _ => rfl) e).trans z1.1, (rest_field (f := Pwr.temps) (fun _ => rfl) e).trans z1.2.1,
      (rest_field (f := Pwr.tempAt) (fun _ => rfl) e).trans z1.2.2⟩
  · exact z1

theorem foldl_proposal (busy : List (Nat × Nat)) (s0 : State) (k : Nat) : ∀ (l : List Nat) (s : State),
    (∀ m, propose s m (busy.getD m (0, 1)) = propose s0 m (busy.getD m (0, 1))) →
    (k ∈ l ∨ tget k s.pwr.proposal = some (propose s0 k (busy.getD k (0, 1)))) →
    tget k (l.foldl (fun s n => onPwr (fun p => { p with proposal := tput n (propose s n (busy.getD n (0, 1))) p.proposal }) s) s).pwr.proposal = some (propose s0 k (busy.getD k (0, 1)))
  | [], s, _, h => by
    rcases h with h | h
    · cases h
    · exact h
  | a :: l, s, hp, h => by
    rw [List.foldl_cons]
    refine foldl_proposal busy s0 k l _ (fun m => hp m) ?_
    by_cases e : k = a
    · right
      rw [← e, ← hp k]
      exact tget_tput_self
    · rcases h with h | h
      · left; exact (List.mem_cons.mp h).resolve_left e
      · right
        refine Eq.trans ?_ h
        exact tget_tput_ne e

theorem foldl_proposal_govAt (busy : List (Nat × Nat)) : ∀ (l : List Nat) (s : State),
    (l.foldl (fun s n => onPwr (fun p => { p with proposal := tput n (propose s n (busy.getD n (0, 1))) p.proposal }) s) s).pwr.govAt = s.pwr.govAt
  | [], s => rfl
  | a :: l, s => by rw [List.foldl_cons, foldl_proposal_govAt busy l]; rfl

theorem ctr_set {a v : Nat} {s : State} (h : v ≠ 0) : ctr (setCtr a v s) a = v := by
  unfold ctr setCtr tset
  simp only
  rw [if_neg h, tgetD_tput_self]

theorem temps_setCap (n v : Nat) (s : State) : (setCap n v s).pwr.temps = s.pwr.temps ∧ (setCap n v s).pwr.tempAt = s.pwr.tempAt := (rest_setCap n v s).2

theorem temps_throttleAt (s : State) (n : Nat) : (throttleAt s n).pwr.temps = s.pwr.temps ∧ (throttleAt s n).pwr.tempAt = s.pwr.tempAt := by
  unfold throttleAt
  simp only
  generalize (if atLeast (tempOf s n) (fieldOf s Reg.pwmTherm 7 0) = true then 1 else if belowC (tempOf s n) (fieldOf s Reg.pwmTherm 7 0 - fieldOf s Reg.pwmTherm 15 8) = true then 2 else 0) = z
  split
  · exact ⟨rfl, rfl⟩
  · split
    · exact temps_setCap _ _ _
    · exact ⟨rfl, rfl⟩

theorem temps_crit (s : State) : (updateCritTemp s).pwr.temps = s.pwr.temps ∧ (updateCritTemp s).pwr.tempAt = s.pwr.tempAt := by
  have h1 : ∀ a b s, (critEvent a b s).pwr = s.pwr := fun a b s => of_one (a := .pwr) (by simp)
  have h2 : ∀ s, (alertLow s).pwr = s.pwr := fun s => of_one (a := .pwr) (by simp)
  have h3 : ∀ a b c d s, (healthNotice a b c d s).pwr = s.pwr := fun a b c d s => of_one (a := .pwr) (by simp)
  unfold updateCritTemp
  simp only
  split
  · exact ⟨rfl, rfl⟩
  · split
    · rw [h1, h2, h3]; exact ⟨rfl, rfl⟩
    · show (alertLow _).pwr.temps = _ ∧ (alertLow _).pwr.tempAt = _
      rw [h2, h3]; exact ⟨rfl, rfl⟩

theorem pwr_refresh (s : State) : (refreshCopies s).pwr = s.pwr := by
  unfold refreshCopies
  generalize sideband s = b
  split <;> rfl

theorem temp_reads (t : Nat) (reads : List Nat) (s : State) : Completes (.tempSample t reads) s fun u => u.pwr.tempAt = max s.now t ∧ ∃ add, (add = 0 ∨ add = 80) ∧
      u.pwr.temps = (List.range 5).foldl (fun m k => tset 0 k (reads.getD k 0 + add) m) s.pwr.temps := by
  refine completes_of rfl ?_
  rw [pwr_refresh]
  have hacc : (accrueHealth (tick t s)).pwr = { s.pwr with tempAt := max s.now t } ∧ (accrueHealth (tick t s)).now = max s.now t := by
    have h1 : ∀ a b c s, (bumpHealthBy a b c s).pwr = s.pwr := fun a b c s => of_one (a := .pwr) (by simp)
    have h2 : ∀ a b s, (bumpHist a b s).pwr = s.pwr := fun a b s => of_one (a := .pwr) (by simp)
    have h3 : ∀ a b c s, (bumpHealthBy a b c s).now = s.now := fun a b c s => of_one (a := .now) (by simp)
    have h4 : ∀ a b s, (bumpHist a b s).now = s.now := fun a b s => of_one (a := .now) (by simp)
    unfold accrueHealth
    simp only
    constructor
    · show ({ (bumpHealthBy _ _ _ _).pwr with tempAt := _ } : Pwr) = _
      rw [h1, h2]; rfl
    · show (bumpHealthBy _ _ _ _).now = _
      rw [h3, h4]; rfl
  have hm1 : ∀ a b c d s, (meet a b c d s).2.2.pwr = s.pwr := fun a b c d s => of_one (a := .pwr) (by simp)
  have hm2 : ∀ a b c d s, (meet a b c d s).2.2.now = s.now := fun a b c d s => of_one (a := .now) (by simp)
  unfold takeReads
  simp only
  have hmp := hm1 29 0xFF 0xFFFF false (accrueHealth (tick t s))
  have hmn := hm2 29 0xFF 0xFFFF false (accrueHealth (tick t s))
  generalize meet 29 0xFF 0xFFFF false (accrueHealth (tick t s)) = m at hmp hmn ⊢
  generalize hz : (if m.1 = true then onPwr (fun p => { p with injUntil := m.2.2.now + 1000000000 }) m.2.2 else m.2.2) = z
  have z1 : z.pwr.temps = s.pwr.temps ∧ z.now = max s.now t := by
    rw [← hz]
    split
    · exact ⟨by show m.2.2.pwr.temps = _; rw [hmp, hacc.1], by show m.2.2.now = _; rw [hmn, hacc.2]⟩
    · exact ⟨by rw [hmp, hacc.1], by rw [hmn, hacc.2]⟩
  have hf : ∀ (l : List Nat) (s : State), (l.foldl throttleAt s).pwr.temps = s.pwr.temps ∧ (l.foldl throttleAt s).pwr.tempAt = s.pwr.tempAt := by
    intro l
    induction l with
    | nil => intro s; exact ⟨rfl, rfl⟩
    | cons a l ih => intro s; rw [List.foldl_cons, (ih _).1, (ih _).2]; exact temps_throttleAt s a
  rw [(temps_crit _).1, (temps_crit _).2]
  generalize hy : onHealth _ _ = y
  have y1 : y.pwr.tempAt = max s.now t ∧ ∃ add, (add = 0 ∨ add = 80) ∧ y.pwr.temps = (List.range 5).foldl (fun m k => tset 0 k (reads.getD k 0 + add) m) s.pwr.temps := by
    rw [← hy]
    refine ⟨z1.2, (if z.now < z.pwr.injUntil then 80 else 0), by split <;> simp, ?_⟩
    exact congrArg (List.foldl (fun m n => tset 0 n (reads.getD n 0 + (if z.now < z.pwr.injUntil then 80 else 0)) m) · (List.range 5)) z1.1
  obtain ⟨f1, f2⟩ := hf [0, 1, 2, 3] y
  generalize List.foldl throttleAt y [0, 1, 2, 3] = w at f1 f2 ⊢
  have hs : ∀ w, (shedRuns w).pwr.temps = w.pwr.temps ∧ (shedRuns w).pwr.tempAt = w.pwr.tempAt := fun _ => ⟨rfl, rfl⟩
  rw [(hs w).1, (hs w).2]
  exact ⟨f2.trans y1.1, y1.2.imp fun add h => ⟨h.1, f1.trans h.2⟩⟩

theorem flag_regs (a i b v : Nat) (f : Pwr → Pwr) (s : State) {t : Nat} : (setCtr b v (setFlag a i (onPwr f (tick t s)))).regs = (setFlag a i s).regs := rfl

theorem flag_pwr (a i b v : Nat) (s : State) {f : Pwr → Pwr} {t : Nat} : (setCtr b v (setFlag a i (onPwr f (tick t s)))).pwr = f s.pwr := rfl

theorem getBytes_putBytes_out (m : List Host.Cell) (h : TabWf m = true) (a b : Nat) (l : List Byte) : ∀ n, (b + n ≤ a ∨ a + l.length ≤ b) →
    getBytes (putBytes a l m) b n = getBytes m b n := by
  intro n
  induction n generalizing b with
  | zero => intro _; rfl
  | succ n ih =>
    intro o
    unfold getBytes
    rw [tgetD_putBytes_out a b l h (by omega), ih (b + 1) (by omega)]

theorem readMem_writeMem_out (key a b n : Nat) (l : List Byte) (s : State) (h : Memory.wf s.dxr.mem = true) (o : b + n ≤ a ∨ a + l.length ≤ b) :
    readMem (writeMem key a l s) key b n = readMem s key b n := by
  unfold readMem
  rw [memOfKey_writeMem _ _ _ _ h]
  exact getBytes_putBytes_out _ (cellsWf_iff.mp (memoryWf_get _ h)).1 a b l n o

theorem mov_jobResult {k source status : Nat} {bs : List Byte} {res : Nat} {notify : Bool} {s : State} (h : status ≠ 0x0605) : (jobResult k source status bs res notify s).mov = s.mov := by
  unfold jobResult
  simp only
  rw [if_neg h]
  have hn : ∀ a b c d s, (notifyItem a b c d s).mov = s.mov := fun a b c d s => of_one (a := .mov) (by simp)
  split
  · rw [hn]; split <;> rfl
  · split <;> rfl

theorem out_jobResult {k source status : Nat} {bs : List Byte} {res : Nat} {notify : Bool} {s : State} (h : status ≠ 0x0605) : (jobResult k source status bs res notify s).out = s.out := by
  unfold jobResult
  simp only
  rw [if_neg h]
  have hn : ∀ a b c d s, (notifyItem a b c d s).out = s.out := fun a b c d s => of_one (a := .out) (by simp)
  split
  · rw [hn]; split <;> rfl
  · split <;> rfl

theorem dram_put (n : Nat) (f : Dram → Dram) (s : State) : dramOf (onDram n f s) n = f (dramOf s n) := by
  unfold dramOf onDram onMov
  simp only
  rw [tgetD_tput_self]

theorem dram_emit (o : Out) (n : Nat) (s : State) : dramOf (emit o s) n = dramOf s n := rfl

theorem dram_mov {s t : State} (h : t.mov = s.mov) (n : Nat) : dramOf t n = dramOf s n := by unfold dramOf; rw [h]

end Sys2Proof.Machine
end

