-- ==== Sys2Proof/Laws/Gate.lean ====
section
/-!
SUPPORT. The Pith Array's ports and banks, triad words, lifecycle commands and register writes.
-/
namespace Sys2Proof.Machine

theorem port_onPort (p : Nat) (g : PPort → PPort) (s : State) : portOf (onPort p g s) p = g (portOf s p) := tgetD_tput_self

theorem port_pith {s u : State} (h : u.pith.ports = s.pith.ports) (p : Nat) : portOf u p = portOf s p := by unfold portOf; rw [h]

theorem bank_set {o : BankOp} (h : o ≠ .idle) (b : Nat) (s : State) : bankOp (setBank b o s) b = o := by
  show tgetD .idle b (tset .idle b o s.pith.ops) = o
  unfold tset
  rw [if_neg h]
  exact tgetD_tput_self

theorem bank_pith {s u : State} (h : u.pith.ops = s.pith.ops) (b : Nat) : bankOp u b = bankOp s b := by unfold bankOp; rw [h]

theorem gate_refused {code p : Nat} {s : State} (h : portAllowed code p = false) : portGate code p s = (some 2, s) := by
  unfold portGate; rw [if_pos (by rw [h]; rfl)]

theorem gate_locked {code p : Nat} {s : State} (h : portAllowed code p = true) (h2 : admitted s p (unlocksFor code) = false) :
    portGate code p s = (some 1, lockPort p s) := by
  unfold portGate; rw [if_neg (by rw [h]; simp), if_pos (by rw [h2]; rfl)]

theorem gate_open {code p : Nat} {s : State} (h : portAllowed code p = true) (h2 : admitted s p (unlocksFor code) = true) (h3 : p = 0 → s.brc.active = false)
    (h4 : paramBusy s code = false) :
    portGate code p s = (none, if unlocksFor code = 0 then s else onPort p (fun q => { q with keys := q.keys.drop (unlocksFor code) }) s) := by
  unfold portGate
  rw [if_neg (by rw [h]; simp), if_neg (by rw [h2]; simp)]
  dsimp only
  generalize e : (if unlocksFor code = 0 then s else onPort p (fun q => { q with keys := q.keys.drop (unlocksFor code) }) s) = u
  have e1 : u.brc = s.brc := by rw [← e]; split <;> rfl
  have e2 : paramBusy u code = paramBusy s code := by rw [← e]; split <;> rfl
  rw [e1, e2, h4, if_neg (by rintro (⟨a, b⟩ | a); · rw [h3 a] at b; cases b
                             · cases a)]

theorem lockPort_facts (p : Nat) (s : State) : (portOf (lockPort p s) p).keys = [] ∧ (portOf (lockPort p s) p).firstKey = false
    ∧ (lockPort p s).regs = (if p = 0 then setFlag Reg.pthStatus 30 s else s).regs := by
  have e : (lockPort p s).pith = (onPort p (fun q => { q with keys := [], firstKey := false }) s).pith := by
    unfold lockPort keyErr; split
    · exact of_one (a := .pith) (by simp)
    · rfl
  rw [port_pith (congrArg Pith.ports e), port_onPort]
  refine ⟨rfl, rfl, ?_⟩
  have k : ∀ a i : Nat, ∀ u : State, (setFlag a i (onPort p (fun q => { q with keys := [], firstKey := false }) u)).regs = (setFlag a i u).regs := fun _ _ _ => rfl
  unfold lockPort keyErr
  split
  · exact k _ _ _
  · rfl

theorem nextWaiting_one {s : State} {p b : Nat} {o : BankOp} (h : ∀ w ∈ s.pith.waiting, w.2.1 ≠ b) {u : State} (hu : u.pith.waiting = s.pith.waiting ++ [(p, b, o)]) :
    nextWaiting u b = some (p, b, o) := by
  unfold nextWaiting
  rw [hu, List.filter_append, List.filter_eq_nil_iff.mpr (by intro w hw; simp only [beq_iff_eq]; exact h w hw)]
  simp

/-- Taking the bank's token changes none of the Pith Array. -/
theorem holdToken_pith (b : Nat) (o : BankOp) (s : State) : (holdToken b o s).pith = s.pith := of_one (a := .pith) (by simp)

theorem startOp_facts {p b : Nat} {o : BankOp} {s : State} (hb : bankOp s b = .idle) (hw : writerIn s b = false) (hv : s.pins.vppOk = true) (h : ∀ w ∈ s.pith.waiting, w.2.1 ≠ b) (hm : opMayStart s b o = true) (ho : restart s.now o ≠ .idle) :
    bankOp (startOp p b o s) b = restart s.now o ∧ portOf (startOp p b o s) p = { portOf s p with busy := true, done := false } := by
  unfold startOp startNext
  rw [if_pos ⟨hb, by rw [Bool.not_eq_true']; exact hw, hv⟩, nextWaiting_one h rfl]
  dsimp only
  have hm' : ∀ u : State, u.med = s.med → opMayStart u b o = true := by
    intro u hu; unfold opMayStart tokenFree at hm ⊢; rw [hu]; exact hm
  rw [if_pos (hm' (onPith (fun q => { q with waiting := q.waiting ++ [(p, b, o)] }) (onPort p (fun q => { q with busy := true, done := false }) s)) rfl)]
  rw [bank_pith (congrArg Pith.ops (holdToken_pith ..)), port_pith (congrArg Pith.ports (holdToken_pith ..))]
  refine ⟨?_, ?_⟩
  · exact bank_set ho b _
  · rw [← port_onPort p (fun q => { q with busy := true, done := false }) s]
    exact port_pith rfl p

theorem port_startNext (b p : Nat) (s : State) : portOf (startNext b s) p = portOf s p := by
  unfold startNext
  split
  · split
    · split
      · exact port_pith (congrArg Pith.ports (holdToken_pith ..)) p
      · rfl
    · rfl
  · rfl

theorem pith_bump (a n : Nat) (s : State) : (bump a n s).pith = s.pith := of_one (a := .pith) (by simp)

theorem startNext_pith (b : Nat) (s : State) : (startNext b s).pith.units = s.pith.units ∧ (startNext b s).pith.erases = s.pith.erases ∧ (startNext b s).pith.retired = s.pith.retired
    ∧ (startNext b s).integ = s.integ := by
  unfold startNext
  split
  · split
    · split
      · rw [holdToken_pith]; exact ⟨rfl, rfl, rfl, of_one (a := .integ) (by simp)⟩
      · exact ⟨rfl, rfl, rfl, rfl⟩
    · exact ⟨rfl, rfl, rfl, rfl⟩
  · exact ⟨rfl, rfl, rfl, rfl⟩

theorem pith_raiseF (a : Nat) (x : Site) (b : Nat) (s : State) : (raiseF a x b s).pith = s.pith := of_one (a := .pith) (by simp)

theorem pith_tallyQ (a : Nat) (s : State) : (bumpTallyQuiet a s).pith = s.pith := of_one (a := .pith) (by simp)

theorem tany_filter {α : Type} {f g : Nat → α → Bool} (h : ∀ k a, f k a = true → g k a = false) (t : Tab α) : tany g (tfilter f t) = false := by
  unfold tany tfilter
  rw [List.any_eq_false]
  intro x hx
  rw [List.mem_filter] at hx
  rw [h _ _ hx.2]; simp

theorem logged_mono {k : Nat} {s u : State} (h : u.integ = s.integ) (l : Logged k s) : Logged k u := by unfold Logged; rw [h]; exact l

theorem place_fold : ∀ (l : List JEntry) (acc : List JEntry) (p : Pith), 
    (l.foldl (fun a e => ((a.1 ++ [(placeEntry e a.2).1], (placeEntry e a.2).2) : List JEntry × Pith)) (acc, p)).1.map (fun x => (x.etype, x.src, x.body))
      = acc.map (fun x => (x.etype, x.src, x.body)) ++ l.map (fun x => (x.etype, x.src, x.body))
  | [], acc, p => by simp
  | e :: l, acc, p => by
    rw [List.foldl_cons, place_fold l]
    simp only [List.map_append, List.map_cons, List.map_nil, List.append_assoc, List.singleton_append]
    rfl

theorem put_triad (ty ix : Nat) (w : Triad) (s : State) : (triadOf (putTriad (triadKey ty ix) w s) ty ix).c0 = w.c0 ∧ (triadOf (putTriad (triadKey ty ix) w s) ty ix).c1 = w.c1
    ∧ (triadOf (putTriad (triadKey ty ix) w s) ty ix).c2 = w.c2 := by
  have : ∀ x : Triad, ∀ u : State, (∃ m, u.pith.triads = tput (triadKey ty ix) x m) → triadOf u ty ix = x := by
    rintro x u ⟨m, hm⟩; unfold triadOf; rw [hm]; exact tgetD_tput_self
  by_cases h : w.used > triadSlots (triadKey ty ix / 65536)
  · rw [this { w with used := 2 } (putTriad (triadKey ty ix) w s) ⟨_, by unfold putTriad onPith; rw [if_pos h, pith_bump]⟩]
    exact ⟨rfl, rfl, rfl⟩
  · rw [this w (putTriad (triadKey ty ix) w s) ⟨_, by unfold putTriad onPith; dsimp only; rw [if_neg h]⟩]
    exact ⟨rfl, rfl, rfl⟩

theorem vote_three {w : Triad} {c : TCopy} (h0 : w.c0 = some c) (h1 : w.c1 = some c) (h2 : w.c2 = some c) (hok : c.ok = true) : vote w = .value c := by
  unfold vote cleanCopies
  rw [h0, h1, h2]
  simp [hok]

theorem vote_write (ty ix : Nat) (v : List Byte) (s : State) : ∃ c, vote (triadOf (writeTriad ty ix v s) ty ix) = .value c ∧ c.value = fit 24 v := by
  unfold writeTriad
  dsimp only
  generalize hw : Triad.mk _ _ _ _ _ _ _ _ = w
  obtain ⟨a, b, c⟩ := put_triad ty ix w s
  subst hw
  exact ⟨_, vote_three a b c rfl, rfl⟩

theorem pith_putTriad (k : Nat) (w : Triad) (s : State) : (putTriad k w s).pith = { s.pith with hgen := (putTriad k w s).pith.hgen, triads := (putTriad k w s).pith.triads } := by
  unfold putTriad onPith; dsimp only
  split
  · rw [pith_bump]
  · rfl

theorem setp (l : Tab (List Byte)) (s : State) : (setParams l s).pith = { s.pith with params := l, pgen := (s.pith.pgen + 1) % 2 ^ 32, pvalid := true } := by
  unfold setParams
  show { (bump Reg.pthErasesLo 1 s).pith with params := l, pgen := ((bump Reg.pthErasesLo 1 s).pith.pgen + 1) % 2 ^ 32, pvalid := true } = _
  rw [pith_bump]

theorem port_setParams (p : Nat) (l : Tab (List Byte)) (s : State) : portOf (setParams l s) p = portOf s p := by unfold portOf; rw [setp]

theorem lcs_tick (op t : Nat) (s : State) (h : flagOf s Reg.lcsCtrl 31 = false) : lcsCmdWrite op (tick t s) = lcsCommand op (tick t s) := by
  unfold lcsCmdWrite
  rw [if_neg]
  rintro ⟨a, -⟩
  rw [show flagOf (tick t s) Reg.lcsCtrl 31 = flagOf s Reg.lcsCtrl 31 from rfl, h] at a
  cases a

theorem life_setLevel (l : DLevel) (s : State) : (setLevel l s).life = s.life := of_one (a := .life) (by simp)

theorem pith_setLevel (l : DLevel) (s : State) : (setLevel l s).pith = s.pith := of_one (a := .pith) (by simp)

theorem life_modeNotice (p m : Nat) (s : State) : (modeNotice p m s).life = s.life := of_one (a := .life) (by simp)

theorem pith_modeNotice (p m : Nat) (s : State) : (modeNotice p m s).pith = s.pith := of_one (a := .pith) (by simp)

theorem dbg_modeNotice (p m : Nat) (s : State) : (modeNotice p m s).dbg = s.dbg := of_one (a := .dbg) (by simp)

theorem life_withModes (m : Nat) (f : State → State) (s : State) : (withModes m f s).life = (f s).life := by
  unfold withModes; simp only; split
  · rfl
  · exact life_modeNotice _ _ _

theorem pith_withModes (m : Nat) (f : State → State) (s : State) : (withModes m f s).pith = (f s).pith := by
  unfold withModes; simp only; split
  · rfl
  · exact pith_modeNotice _ _ _

theorem dbg_withModes (m : Nat) (f : State → State) (s : State) : (withModes m f s).dbg = (f s).dbg := by
  unfold withModes; simp only; split
  · rfl
  · exact dbg_modeNotice _ _ _

theorem life_writeTriad (a b : Nat) (v : List Byte) (s : State) : (writeTriad a b v s).life = s.life := of_one (a := .life) (by simp)

theorem cad_writeTriad (a b : Nat) (v : List Byte) (s : State) : (writeTriad a b v s).cad = s.cad := of_one (a := .cad) (by simp)

theorem life_writeSlot (i : Nat) (e : Bool) (r n : Nat) (l : List Byte) (s : State) : (writeSlot i e r n l s).life = s.life := of_one (a := .life) (by simp)

theorem cad_writeSlot (i : Nat) (e : Bool) (r n : Nat) (l : List Byte) (s : State) : (writeSlot i e r n l s).cad = s.cad := of_one (a := .cad) (by simp)

theorem triad_pith {s u : State} (h : u.pith = s.pith) (a b : Nat) : triadOf u a b = triadOf s a b := by unfold triadOf; rw [h]

theorem enterLife_life (l : LState) (s : State) : (enterLife l s).life = { s.life with lstate := l, since := s.cad.frame } := life_writeTriad _ _ _ _

theorem transition_facts (l : LState) (s : State) : (transition l s).life = { s.life with lstate := l, since := s.cad.frame } ∧ (transition l s).dbg.level = .closed
    ∧ (transition l s).pith = (enterLife l s).pith := by
  unfold transition
  refine ⟨?_, ?_, ?_⟩
  · rw [life_modeNotice, life_setLevel, enterLife_life]
  · rw [dbg_modeNotice, setLevel_level]
  · rw [pith_modeNotice, pith_setLevel]

theorem vote_life (l : LState) (s : State) : ∃ c, vote (triadOf (transition l s) 1 0) = .value c ∧ c.value = fit 24 (lifeValue { s.life with lstate := l, since := s.cad.frame }) := by
  rw [triad_pith (transition_facts l s).2.2]
  exact vote_write 1 0 _ _

theorem disable_life (s : State) : (disableSlots s).life = s.life := of_one (a := .life) (by simp)

theorem returned_facts (s : State) : (enterReturned s).life = { s.life with vault := false, lstate := .returned, since := s.cad.frame } ∧ (enterReturned s).dbg.level = .closed := by
  unfold enterReturned
  refine ⟨?_, ?_⟩
  · rw [life_modeNotice, life_setLevel, disable_life, enterLife_life]; rfl
  · rw [dbg_modeNotice, setLevel_level]

theorem lcs_one {op : Nat} {s : State} (h : lcsListed s op = false) : lcsCommand op s = lcsStop 1 (onLife (fun l => { l with confirm := none }) s) := by
  unfold lcsCommand
  dsimp only
  rw [if_pos (by rw [show lcsListed (onLife (fun l => { l with confirm := none }) s) op = lcsListed s op from rfl, h]; simp)]

theorem lcs_listed {op : Nat} {s : State} (h : lcsListed s op = true) (h2 : op = 2 → s.life.prepared = true) :
    ¬ ((!lcsListed (onLife (fun l => { l with confirm := none }) s) op) = true ∨ (op = 2 ∧ (!(onLife (fun l => { l with confirm := none }) s).life.prepared) = true)) := by
  rw [show lcsListed (onLife (fun l => { l with confirm := none }) s) op = lcsListed s op from rfl, h]
  rintro (a | ⟨a, b⟩)
  · cases a
  · rw [show (onLife (fun l => { l with confirm := none }) s).life.prepared = s.life.prepared from rfl, h2 a] at b; cases b

theorem lcs_four {op : Nat} {s : State} (h : lcsListed s op = true) (h2 : op = 2 → s.life.prepared = true) (h3 : (lcsConfirmValue op).isSome = true) (h4 : s.life.confirm ≠ lcsConfirmValue op) :
    lcsCommand op s = lcsStop 4 (onLife (fun l => { l with confirm := none }) s) := by
  unfold lcsCommand
  dsimp only
  rw [if_neg (lcs_listed h h2), if_pos ⟨h3, h4⟩]

theorem lcs_three {op : Nat} {s : State} (h : lcsListed s op = true) (h2 : op = 2 → s.life.prepared = true) (h3 : lcsConfirmValue op = none ∨ s.life.confirm = lcsConfirmValue op) (h4 : lcsBusy s op = true) :
    lcsCommand op s = lcsStop 3 (onLife (fun l => { l with confirm := none }) s) := by
  unfold lcsCommand
  dsimp only
  rw [if_neg (lcs_listed h h2), if_neg (by rintro ⟨a, b⟩; rcases h3 with k | k; · rw [k] at a; cases a
                                           · exact b k), if_pos (by exact h4)]

theorem lcs_go {op : Nat} {s : State} (h : lcsListed s op = true) (h2 : op = 2 → s.life.prepared = true) (h3 : lcsConfirmValue op = none ∨ s.life.confirm = lcsConfirmValue op) (h4 : lcsBusy s op = false) :
    lcsCommand op s = if (lcsAuth op (onLife (fun l => { l with confirm := none }) s)).1 then lcsRun op (lcsAuth op (onLife (fun l => { l with confirm := none }) s)).2
      else lcsStop 2 (lcsAuth op (onLife (fun l => { l with confirm := none }) s)).2 := by
  unfold lcsCommand
  dsimp only
  rw [if_neg (lcs_listed h h2), if_neg (by rintro ⟨a, b⟩; rcases h3 with k | k; · rw [k] at a; cases a
                                           · exact b k), if_neg (by rw [show lcsBusy (onLife (fun l => { l with confirm := none }) s) op = lcsBusy s op from rfl, h4]; simp)]

theorem lcs_run {op : Nat} {s : State} (h7 : op ≠ 7) (h : lcsListed s op = true) (h2 : op = 2 → s.life.heldSalt.isSome = true) (h3 : lcsWaits s op = false) :
    lcsRun op s = lcsEnd 0 (lcsEffect op s) := by
  unfold lcsRun
  rw [if_neg h7, if_neg (by rw [h]; simp), if_neg (by rintro ⟨a, b⟩; have := h2 a; rw [Option.isNone_iff_eq_none] at b; rw [b] at this; cases this), if_neg (by rw [h3]; simp)]

theorem params_writeTriad (a b : Nat) (v : List Byte) (s : State) : (writeTriad a b v s).pith.params = s.pith.params := by
  unfold writeTriad; dsimp only; rw [pith_putTriad]

theorem life_refuse (e : Nat) (s : State) : (refuseAuth e s).life = s.life := of_one (a := .life) (by simp)

theorem pith_refuse (e : Nat) (s : State) : (refuseAuth e s).pith = s.pith := of_one (a := .pith) (by simp)

theorem startNext_none {b : Nat} {s : State} (h : nextWaiting s b = none) : startNext b s = s := by
  unfold startNext
  split
  · rw [h]
  · rfl

theorem waiting_none {b : Nat} {s : State} (h : ∀ w ∈ s.pith.waiting, w.2.1 ≠ b) : nextWaiting s b = none := by
  unfold nextWaiting
  rw [List.filter_eq_nil_iff.mpr (by intro w hw; simp only [beq_iff_eq]; exact h w hw)]
  rfl

theorem startAll_none (s : State) (h : s.pith.waiting = []) : ∀ l : List Nat, l.foldl (fun s b => startNext b s) s = s
  | [] => rfl
  | b :: l => by
    rw [List.foldl_cons, startNext_none (waiting_none (by rw [h]; simp)), startAll_none s h l]

theorem startNext_sole {p b : Nat} {o : BankOp} {s : State} (h : s.pith.waiting = [(p, b, o)]) (hb : bankOp s b = .idle) (hw : writerIn s b = false) (hv : s.pins.vppOk = true)
    (hm : opMayStart s b o = true) : startNext b s = holdToken b o (setBank b (restart s.now o) (onPith (fun q => { q with waiting := [] }) s)) := by
  have e : nextWaiting s b = some (p, b, o) := by unfold nextWaiting; rw [h]; simp
  unfold startNext
  rw [if_pos ⟨hb, by rw [hw]; rfl, hv⟩, e]
  dsimp only
  rw [if_pos hm]
  unfold onPith
  dsimp only
  rw [h]
  simp

theorem startAll_sole {p b : Nat} {o : BankOp} {s : State} (h : s.pith.waiting = [(p, b, o)]) (hb : bankOp s b = .idle) (hw : writerIn s b = false) (hv : s.pins.vppOk = true)
    (hx : opMayStart s b o = true) : ∀ l : List Nat, b ∈ l → l.foldl (fun s b => startNext b s) s = holdToken b o (setBank b (restart s.now o) (onPith (fun q => { q with waiting := [] }) s))
  | [], hm => by cases hm
  | j :: l, hm => by
    rw [List.foldl_cons]
    by_cases hj : j = b
    · rw [hj, startNext_sole h hb hw hv hx]
      exact startAll_none _ (congrArg Pith.waiting (holdToken_pith ..)) l
    · rw [startNext_none (waiting_none (by rw [h]; intro w hw; rw [List.mem_singleton.mp hw]; exact fun k => hj k.symm))]
      exact startAll_sole h hb hw hv hx l ((List.mem_cons.mp hm).resolve_left (fun k => hj k.symm))

theorem runPuts_none {s : State} (h : s.pith.waitPuts = []) : runPuts s = s := by
  unfold runPuts
  rw [h]
  show onPith _ s = s
  unfold onPith
  rw [← h]

theorem continue_none {s : State} (h1 : s.life.chal = false) (h2 : s.life.busy = false) : lcsContinue s = s := by
  unfold lcsContinue; simp only
  rw [h1]
  simp only [Bool.false_eq_true, if_false]
  rw [h2]; rfl

def tolDef : RegDef := ⟨"CAD_TOL", 0x30010, 0x0, 1, [⟨31, 0, .rwl, 1000, .span ⟨100, none⟩ ⟨10000, none⟩⟩]⟩

def lcsDef : RegDef := ⟨"LCS_CTRL", 0x10000, 0x0, 1, [⟨31, 31, .rw, 0, .all⟩]⟩

theorem tolAt : regAt Reg.cadTol = some tolDef := by decide

theorem lcsAt : regAt Reg.lcsCtrl = some lcsDef := by decide

theorem cad_plain {a be : Nat} {v : Word} {s : State} (h : a / 0x10000 = 3) (h1 : a ≠ Reg.cadSnap) (h2 : a ≠ Reg.cadCtrl) : regWrite a v be s = writeCommon a v be s := by
  have hr : regSeg a = none := by unfold regSeg; simp only; rw [if_pos (by omega)]
  unfold regWrite bar2Write
  rw [if_neg (by omega), hr]
  dsimp only
  rw [show absentSeg a = none from by unfold absentSeg; rw [if_neg (by omega), hr]]
  dsimp only
  rw [h]
  unfold cadWrite
  simp only
  rw [if_neg h1, if_neg h2]

theorem lcs_plain (v : Word) (be : Nat) (s : State) : regWrite (0x10000 * 1) v be s = writeCommon Reg.lcsCtrl v be (onLife (fun l => { l with confirm := none }) s) := by
  unfold regWrite bar2Write
  rw [if_neg (by decide), show regSeg (0x10000 * 1) = none by decide]
  dsimp only
  rw [show absentSeg (0x10000 * 1) = none by decide]
  dsimp only
  rw [show 0x10000 * 1 / 0x10000 = 1 by decide]
  unfold lcsWrite
  rw [if_neg (by decide), if_neg (by decide)]
  simp only
  rw [if_neg (by decide), if_neg (by rintro ⟨k, -⟩; revert k; decide)]
  rfl

theorem setBits_all (w : Word) (x : Nat) : setBits w 31 0 x = BitVec.ofNat 32 x := by
  apply BitVec.eq_of_toNat_eq
  unfold setBits
  simp only [BitVec.toNat_ofNat, Nat.shiftRight_zero, Nat.pow_zero, Nat.mul_one]
  have := w.isLt
  omega

theorem bits_all (w : Word) : bits w 31 0 = w.toNat := by
  unfold bits
  have := w.isLt
  simp only [Nat.shiftRight_zero]
  omega

theorem clamp_le {lo hi x : Nat} (h : lo ≤ hi) : clamp lo hi x ≤ hi := by unfold clamp; split <;> (try split) <;> omega

theorem merge_all (w v : Word) : merge w v 15 = v := by
  unfold merge
  rw [show beMask 15 = 0xFFFFFFFF by decide]
  apply BitVec.eq_of_toNat_eq
  have := v.isLt
  rw [Nat.sub_self, Nat.and_zero, Nat.zero_or, show v.toNat &&& 0xFFFFFFFF = v.toNat % 2 ^ 32 from Nat.and_two_pow_sub_one_eq_mod v.toNat 32]
  rw [BitVec.toNat_ofNat]; omega

theorem tol_written (old v : Word) : written tolDef Reg.cadTol old v 15 false = BitVec.ofNat 32 (clamp 100 10000 v.toNat) := by
  have e : written tolDef Reg.cadTol old v 15 false = setBits (setBits old 31 0 (bits (merge old v 15) 31 0)) 31 0 (clamp 100 10000 (bits (setBits old 31 0 (bits (merge old v 15) 31 0)) 31 0)) := rfl
  rw [e, merge_all, bits_all, setBits_all, setBits_all, bits_all, BitVec.ofNat_toNat, BitVec.setWidth_eq]

theorem tol_locked (old v : Word) (be : Nat) : written tolDef Reg.cadTol old v be true = old := rfl

theorem bit31 (w : Word) : nbit (setBits w 31 31 1).toNat 31 = true := by
  have := w.isLt
  unfold setBits nbit
  simp only [BitVec.toNat_ofNat, Nat.shiftRight_eq_div_pow, beq_iff_eq]
  omega

theorem lcs_written (old : Word) (b : Bool) : nbit (written lcsDef Reg.lcsCtrl old 0x80000000 8 b).toNat 31 = true := by
  unfold written
  simp only
  split
  · exact bit31 _
  · have k : bits (merge old 0x80000000 8) 31 31 = 1 := by
      unfold merge bits
      rw [show beMask 8 = 0xFF000000 by decide, show (0x80000000 : Word).toNat &&& 0xFF000000 = 2 ^ 31 by decide, BitVec.toNat_ofNat, Nat.shiftRight_eq_div_pow]
      have h1 : (old.toNat &&& (0xFFFFFFFF - 0xFF000000)) < 2 ^ 31 := Nat.lt_of_le_of_lt Nat.and_le_right (by decide)
      have h2 : 2 ^ 31 ||| (old.toNat &&& (0xFFFFFFFF - 0xFF000000)) = 2 ^ 31 + (old.toNat &&& (0xFFFFFFFF - 0xFF000000)) := by
        have := Nat.two_pow_add_eq_or_of_lt h1 1
        rw [Nat.mul_one] at this
        exact this.symm
      rw [Nat.or_comm, h2]
      omega
    show nbit (setBits (setBits old 31 31 (bits (merge old 0x80000000 8) 31 31)) 31 31 (bits (setBits old 31 31 (bits (merge old 0x80000000 8) 31 31)) 31 31)).toNat 31 = true
    rw [k, show bits (setBits old 31 31 1) 31 31 = 1 from by have := bit31 old; unfold nbit at this; unfold bits; simpa using this]
    exact bit31 _

end Sys2Proof.Machine
end

