-- ==== Sys2Proof/Laws/Now.lean ====
section
/-!
SUPPORT. What every command does to the time of the newest command: it moves it on to its own instant.
-/
set_option linter.unusedTactic false
set_option linter.unreachableTactic false

namespace Sys2Proof.Machine

@[simp] theorem tick_self (s : State) : tick s.now s = s := by unfold tick; rw [Nat.max_self]

@[simp] theorem cjRow_now (t : Nat) (k : Nat) (f : Nat → Bool) (s : State) (s0 : State) : shown (one .now) (after (cjRow t k f s) s0) = shown (one .now) (tick t s) := by
  unfold cjRow
  have e := cjTake_shown (kp := one .now) k f (tick t s) (by simp)
  split <;> rename_i heq <;> simp [heq] at e <;> simp (maxDischargeDepth := 9) [e]

@[simp] theorem dmRow_now (t : Nat) (k : Nat) (f : Nat → Bool) (s : State) (s0 : State) : shown (one .now) (after (dmRow t k f s) s0) = shown (one .now) (tick t s) := by
  simp (maxDischargeDepth := 9) [dmRow]
  (repeat' split) <;> simp_all (maxDischargeDepth := 9)

@[simp] theorem jtag_now (t : Nat) (code : Nat) (f : State → State) (s : State) (hf : ∀ s, shown (one .now) (f s) = shown (one .now) s) :
    shown (one .now) (jtag t code f s) = shown (one .now) (tick t s) := by
  simp (maxDischargeDepth := 9) [jtag, hf]

@[simp] theorem jtagDebug_now (t : Nat) (code : Nat) (f : State → State) (s : State) (hf : ∀ s, shown (one .now) (f s) = shown (one .now) s) :
    shown (one .now) (jtagDebug t code f s) = shown (one .now) (tick t s) := by
  simp (maxDischargeDepth := 9) [jtagDebug, hf]

@[simp] theorem dap_now (t : Nat) (who : Nat) (addr : Nat) (data : Nat) (f : State → State) (s : State) (hf : ∀ s, shown (one .now) (f s) = shown (one .now) s) :
    shown (one .now) (dap t who addr data f s) = shown (one .now) (tick t s) := by
  simp (maxDischargeDepth := 9) [dap, hf]

@[simp] theorem smbRead_now (t c : Nat) (b : Bool) (f : State → List Byte) (s : State) : shown (one .now) (smbRead t c b f s) = shown (one .now) (tick t s) := by
  simp (maxDischargeDepth := 9) [smbRead]

@[simp] theorem tick_past {u s : State} (h : shown (one .now) s = shown (one .now) u) : shown (one .now) (tick u.now s) = shown (one .now) s := by
  have e : s.now = u.now := of_one (a := .now) h
  unfold tick
  rw [← e, Nat.max_self]

theorem execPowerOn_now (t : Nat) (resetN : Bool) (perstN : Bool) (env : BootEnv) (s : State) (s0 : State)     : shown (one .now) (after (execPowerOn t resetN perstN env s) s0) = shown (one .now) (tick t s) := by
  simp (maxDischargeDepth := 9) [execPowerOn]

theorem execResetNAssert_now (t : Nat) (s : State) (s0 : State)     : shown (one .now) (after (execResetNAssert t s) s0) = shown (one .now) (tick t s) := by
  simp (maxDischargeDepth := 9) [execResetNAssert]

theorem execBootWatchdog_now (t : Nat) (s : State) (s0 : State)     : shown (one .now) (after (execBootWatchdog t s) s0) = shown (one .now) (tick t s) := by
  simp (maxDischargeDepth := 9) [execBootWatchdog]

theorem execPerstAssert_now (t : Nat) (s : State) (s0 : State)     : shown (one .now) (after (execPerstAssert t s) s0) = shown (one .now) (tick t s) := by
  simp (maxDischargeDepth := 9) [execPerstAssert]

theorem execLinkReset_now (t : Nat) (hot : Bool) (s : State) (s0 : State)     : shown (one .now) (after (execLinkReset t hot s) s0) = shown (one .now) (tick t s) := by
  simp (maxDischargeDepth := 9) [execLinkReset]

theorem execConfigReady_now (t : Nat) (s : State) (s0 : State)     : shown (one .now) (after (execConfigReady t s) s0) = shown (one .now) (tick t s) := by
  simp (maxDischargeDepth := 9) [execConfigReady]

theorem execConfigRequest_now (t : Nat) (s : State) (s0 : State)     : shown (one .now) (after (execConfigRequest t s) s0) = shown (one .now) (tick t s) := by
  simp (maxDischargeDepth := 9) [execConfigRequest]

theorem execReplayComplete_now (t : Nat) (pdev : Nat) (rate : Nat) (s : State) (s0 : State)     : shown (one .now) (after (execReplayComplete t pdev rate s) s0) = shown (one .now) (tick t s) := by
  simp (maxDischargeDepth := 9) [execReplayComplete]

theorem execCadInEdge_now (t : Nat) (finds : List (Nat × DramFind)) (s : State) (s0 : State) : shown (one .now) (after (execCadInEdge t finds s) s0) = shown (one .now) (tick t s) := by
  simp (maxDischargeDepth := 9) [execCadInEdge]

theorem execUnitFrameBoundary_now (t : Nat) (finds : List (Nat × DramFind)) (s : State) (s0 : State) : shown (one .now) (after (execUnitFrameBoundary t finds s) s0) = shown (one .now) (tick t s) := by
  simp (maxDischargeDepth := 9) [execUnitFrameBoundary]

theorem execLateWindowExpiry_now (t : Nat) (finds : List (Nat × DramFind)) (s : State) (s0 : State) : shown (one .now) (after (execLateWindowExpiry t finds s) s0) = shown (one .now) (tick t s) := by
  simp (maxDischargeDepth := 9) [execLateWindowExpiry]

theorem execEdgesAbsent_now (t : Nat) (s : State) (s0 : State)     : shown (one .now) (after (execEdgesAbsent t s) s0) = shown (one .now) (tick t s) := by
  simp (maxDischargeDepth := 9) [execEdgesAbsent]
  (repeat' split) <;> simp_all (maxDischargeDepth := 9)

theorem execHoldoverLimit_now (t : Nat) (s : State) (s0 : State)     : shown (one .now) (after (execHoldoverLimit t s) s0) = shown (one .now) (tick t s) := by
  simp (maxDischargeDepth := 9) [execHoldoverLimit]

theorem execCadOutPulseEnd_now (t : Nat) (s : State) (s0 : State)     : shown (one .now) (after (execCadOutPulseEnd t s) s0) = shown (one .now) (tick t s) := by
  simp (maxDischargeDepth := 9) [execCadOutPulseEnd]

theorem execFrameExhausted_now (t : Nat) (s : State) (s0 : State)     : shown (one .now) (after (execFrameExhausted t s) s0) = shown (one .now) (tick t s) := by
  simp (maxDischargeDepth := 9) [execFrameExhausted]

theorem execCadenceRecordDue_now (t : Nat) (s : State) (s0 : State)     : shown (one .now) (after (execCadenceRecordDue t s) s0) = shown (one .now) (tick t s) := by
  simp (maxDischargeDepth := 9) [execCadenceRecordDue]

theorem execPpsCapture_now (t : Nat) (s : State) (s0 : State)     : shown (one .now) (after (execPpsCapture t s) s0) = shown (one .now) (tick t s) := by
  have hc : ∀ s, shown (one .now) (execPpsCapture.capture s) = shown (one .now) s := by
    intro s; unfold execPpsCapture.capture; simp only; (repeat' split) <;> simp (maxDischargeDepth := 9) []
  unfold execPpsCapture
  simp only
  (repeat' split) <;> simp (maxDischargeDepth := 9) [hc]

theorem execOdoPulse_now (t : Nat) (high : Nat) (s : State) (s0 : State)     : shown (one .now) (after (execOdoPulse t high s) s0) = shown (one .now) (tick t s) := by
  simp (maxDischargeDepth := 9) [execOdoPulse]

theorem execIncidentEdge_now (t : Nat) (n : Nat) (low : Nat) (s : State) (s0 : State)     : shown (one .now) (after (execIncidentEdge t n low s) s0) = shown (one .now) (tick t s) := by
  simp (maxDischargeDepth := 9) [execIncidentEdge]

theorem execFenceEnd_now (t : Nat) (slot : Nat) (s : State) (s0 : State)     : shown (one .now) (after (execFenceEnd t slot s) s0) = shown (one .now) (tick t s) := by
  simp (maxDischargeDepth := 9) [execFenceEnd]
  (repeat' split) <;> simp_all (maxDischargeDepth := 9)

@[simp] theorem execCadSnapNow_now (t : Nat) (s : State) (s0 : State)     : shown (one .now) (after (execCadSnapNow t s) s0) = shown (one .now) (tick t s) := by
  simp (maxDischargeDepth := 9) [execCadSnapNow]

@[simp] theorem execFunctionEnable_now (t : Nat) (f : Nat) (ctl : Nat) (s : State) (s0 : State)     : shown (one .now) (after (execFunctionEnable t f ctl s) s0) = shown (one .now) (tick t s) := by
  simp (maxDischargeDepth := 9) [execFunctionEnable]

@[simp] theorem execFunctionDisable_now (t : Nat) (f : Nat) (ctl : Nat) (s : State) (s0 : State)     : shown (one .now) (after (execFunctionDisable t f ctl s) s0) = shown (one .now) (tick t s) := by
  simp (maxDischargeDepth := 9) [execFunctionDisable]
  (repeat' split) <;> simp_all (maxDischargeDepth := 9)

@[simp] theorem execQuotaWrite_now (t : Nat) (f : Nat) (q : Quota) (v : Nat) (s : State) (s0 : State)     : shown (one .now) (after (execQuotaWrite t f q v s) s0) = shown (one .now) (tick t s) := by
  simp (maxDischargeDepth := 9) [execQuotaWrite]

@[simp] theorem execRingCreate_now (t : Nat) (f : Nat) (i : Nat) (s : State) (s0 : State)     : shown (one .now) (after (execRingCreate t f i s) s0) = shown (one .now) (tick t s) := by
  simp (maxDischargeDepth := 9) [execRingCreate]

@[simp] theorem execRingDelete_now (t : Nat) (f : Nat) (sub : Bool) (i : Nat) (s : State) (s0 : State)     : shown (one .now) (after (execRingDelete t f sub i s) s0) = shown (one .now) (tick t s) := by
  simp (maxDischargeDepth := 9) [execRingDelete]

theorem execRingDeleteDone_now (t : Nat) (f : Nat) (s : State) (s0 : State)     : shown (one .now) (after (execRingDeleteDone t f s) s0) = shown (one .now) (tick t s) := by
  simp (maxDischargeDepth := 9) [execRingDeleteDone]
  (repeat' split) <;> simp_all (maxDischargeDepth := 9)

@[simp] theorem execRingQuery_now (t : Nat) (f : Nat) (sub : Bool) (i : Nat) (s : State) (s0 : State)     : shown (one .now) (after (execRingQuery t f sub i s) s0) = shown (one .now) (tick t s) := by
  simp (maxDischargeDepth := 9) [execRingQuery]
  (repeat' split) <;> simp_all (maxDischargeDepth := 9)

@[simp] theorem execDoorbellBaseWrite_now (t : Nat) (f : Nat) (hi : Bool) (v : Word) (be : Nat) (s : State) (s0 : State)     : shown (one .now) (after (execDoorbellBaseWrite t f hi v be s) s0) = shown (one .now) (tick t s) := by
  simp (maxDischargeDepth := 9) [execDoorbellBaseWrite]

theorem execPipSubmissionTail_now (t : Nat) (f : Nat) (w : Word) (be : Nat) (s : State) (s0 : State)     : shown (one .now) (after (execPipSubmissionTail t f w be s) s0) = shown (one .now) (tick t s) := by
  simp (maxDischargeDepth := 9) [execPipSubmissionTail]

theorem execPipCompletionHead_now (t : Nat) (f : Nat) (w : Word) (be : Nat) (s : State) (s0 : State)     : shown (one .now) (after (execPipCompletionHead t f w be s) s0) = shown (one .now) (tick t s) := by
  simp (maxDischargeDepth := 9) [execPipCompletionHead]

theorem execSweep_now (t : Nat) (reads : List DoorbellRead) (s : State) (s0 : State)     : shown (one .now) (after (execSweep t reads s) s0) = shown (one .now) (tick t s) := by
  simp (maxDischargeDepth := 9) [execSweep]

theorem execDescriptorFetch_now (t : Nat) (desc : Option (List Byte)) (segs : List (Option (List Byte))) (s : State) (s0 : State) : shown (one .now) (after (execDescriptorFetch t desc segs s) s0) = shown (one .now) (tick t s) := by
  unfold execDescriptorFetch
  try dsimp only
  (repeat' split) <;> (try simp (maxDischargeDepth := 9) []) <;> (repeat (refine shown_of_pair (by assumption) ?_; simp (maxDischargeDepth := 9) []))

theorem execRingStoppedNotice_now (t : Nat) (f : Nat) (sub : Bool) (i : Nat) (bad : Bool) (s : State) (s0 : State) : shown (one .now) (after (execRingStoppedNotice t f sub i bad s) s0) = shown (one .now) (tick t s) := by
  unfold execRingStoppedNotice
  try dsimp only
  (repeat' split) <;> (try simp (maxDischargeDepth := 9) []) <;> (repeat (refine shown_of_pair (by assumption) ?_; simp (maxDischargeDepth := 9) []))

theorem execNoticeWriteHeld_now (t : Nat) (f : Nat) (s : State) (s0 : State)     : shown (one .now) (after (execNoticeWriteHeld t f s) s0) = shown (one .now) (tick t s) := by
  simp (maxDischargeDepth := 9) [execNoticeWriteHeld]

theorem execCoalesceTimer_now (t : Nat) (f : Nat) (i : Nat) (s : State) (s0 : State)     : shown (one .now) (after (execCoalesceTimer t f i s) s0) = shown (one .now) (tick t s) := by
  simp (maxDischargeDepth := 9) [execCoalesceTimer]
  (repeat' split) <;> simp_all (maxDischargeDepth := 9)

theorem execFunctionLevelReset_now (t : Nat) (f : Nat) (s : State) (s0 : State)     : shown (one .now) (after (execFunctionLevelReset t f s) s0) = shown (one .now) (tick t s) := by
  simp (maxDischargeDepth := 9) [execFunctionLevelReset]

theorem execSriovVfChange_now (t : Nat) (ve : Bool) (num : Nat) (s : State) (s0 : State)     : shown (one .now) (after (execSriovVfChange t ve num s) s0) = shown (one .now) (tick t s) := by
  simp (maxDischargeDepth := 9) [execSriovVfChange]

theorem execFunctionResetDone_now (t : Nat) (f : Nat) (s : State) (s0 : State)     : shown (one .now) (after (execFunctionResetDone t f s) s0) = shown (one .now) (tick t s) := by
  simp (maxDischargeDepth := 9) [execFunctionResetDone]

@[simp] theorem execFnSnapNow_now (t : Nat) (f : Nat) (s : State) (s0 : State)     : shown (one .now) (after (execFnSnapNow t f s) s0) = shown (one .now) (tick t s) := by
  simp (maxDischargeDepth := 9) [execFnSnapNow]

theorem execIdentify_now (t : Nat) (id : Nat) (s : State) (s0 : State)     : shown (one .now) (after (execIdentify t id s) s0) = shown (one .now) (tick t s) := by
  unfold execIdentify
  refine (serve_shown _ _ _ _ _ (fun c s => ?_) (by simp [])).trans (by simp [])
  (repeat' split) <;> simp (maxDischargeDepth := 9) []

theorem execNsCreate_now (t : Nat) (id : Nat) (s : State) (s0 : State)     : shown (one .now) (after (execNsCreate t id s) s0) = shown (one .now) (tick t s) := by
  simp (maxDischargeDepth := 9) [execNsCreate]

theorem execNsDelete_now (t : Nat) (id : Nat) (s : State) (s0 : State)     : shown (one .now) (after (execNsDelete t id s) s0) = shown (one .now) (tick t s) := by
  simp (maxDischargeDepth := 9) [execNsDelete]

theorem execStreamCreate_now (t : Nat) (id : Nat) (s : State) (s0 : State)     : shown (one .now) (after (execStreamCreate t id s) s0) = shown (one .now) (tick t s) := by
  simp (maxDischargeDepth := 9) [execStreamCreate]

theorem execStreamDelete_now (t : Nat) (id : Nat) (s : State) (s0 : State)     : shown (one .now) (after (execStreamDelete t id s) s0) = shown (one .now) (tick t s) := by
  simp (maxDischargeDepth := 9) [execStreamDelete]

theorem execStreamQuery_now (t : Nat) (id : Nat) (s : State) (s0 : State)     : shown (one .now) (after (execStreamQuery t id s) s0) = shown (one .now) (tick t s) := by
  unfold execStreamQuery
  refine (serve_shown _ _ _ _ _ (fun c s => ?_) (by simp [])).trans (by simp [])
  (repeat' split) <;> simp (maxDischargeDepth := 9) []

theorem execGetLog_now (t : Nat) (id : Nat) (s : State) (s0 : State)     : shown (one .now) (after (execGetLog t id s) s0) = shown (one .now) (tick t s) := by
  simp (maxDischargeDepth := 9) [execGetLog]

theorem execAbortCmd_now (t : Nat) (id : Nat) (s : State) (s0 : State)     : shown (one .now) (after (execAbortCmd t id s) s0) = shown (one .now) (tick t s) := by
  simp (maxDischargeDepth := 9) [execAbortCmd]

theorem execFenceRelease_now (t : Nat) (id : Nat) (s : State) (s0 : State)     : shown (one .now) (after (execFenceRelease t id s) s0) = shown (one .now) (tick t s) := by
  unfold execFenceRelease
  refine (serve_shown _ _ _ _ _ (fun c s => ?_) (by simp [])).trans (by simp [])
  simp only
  (repeat' split) <;> simp (maxDischargeDepth := 9) []

theorem execProgLoad_now (t : Nat) (id : Nat) (data : Option (List Byte)) (s : State) (s0 : State) : shown (one .now) (after (execProgLoad t id data s) s0) = shown (one .now) (tick t s) := by
  unfold execProgLoad
  refine (serve_shown _ _ _ _ _ (fun c s => ?_) (by simp)).trans (by simp)
  try dsimp only
  (repeat' split) <;> (try simp (maxDischargeDepth := 9)) <;> (repeat (refine shown_of_pair (by assumption) ?_; simp (maxDischargeDepth := 9)))

theorem execProgUnload_now (t : Nat) (id : Nat) (s : State) (s0 : State)     : shown (one .now) (after (execProgUnload t id s) s0) = shown (one .now) (tick t s) := by
  simp (maxDischargeDepth := 9) [execProgUnload]

theorem execFwDownload_now (t : Nat) (id : Nat) (data : Option (List Byte)) (s : State) (s0 : State) : shown (one .now) (after (execFwDownload t id data s) s0) = shown (one .now) (tick t s) := by
  unfold execFwDownload
  refine (serve_shown _ _ _ _ _ (fun c s => ?_) (by simp)).trans (by simp)
  try dsimp only
  (repeat' split) <;> (try simp (maxDischargeDepth := 9)) <;> (repeat (refine shown_of_pair (by assumption) ?_; simp (maxDischargeDepth := 9)))

theorem execFwCommitWrite_now (t : Nat) (id : Nat) (s : State) (s0 : State) : shown (one .now) (after (execFwCommitWrite t id s) s0) = shown (one .now) (tick t s) := by
  unfold execFwCommitWrite
  extract_lets u
  split
  · simp (maxDischargeDepth := 9) [u]
  · refine (serve_shown _ _ _ _ _ (fun c s => ?_) (by simp)).trans (by simp [u])
    split
    · rfl
    split <;> (try dsimp only) <;> (try simp (maxDischargeDepth := 9)) <;> (repeat (refine shown_of_pair (by assumption) ?_; simp (maxDischargeDepth := 9)))

theorem execFwCommitActivate_now (t : Nat) (id : Nat) (s : State) (s0 : State) : shown (one .now) (after (execFwCommitActivate t id s) s0) = shown (one .now) (tick t s) := by
  unfold execFwCommitActivate
  extract_lets u
  split
  · simp (maxDischargeDepth := 9) [u]
  · refine (serve_shown _ _ _ _ _ (fun c s => ?_) (by simp)).trans (by simp [u])
    split
    · rfl
    split <;> (try dsimp only) <;> (try simp (maxDischargeDepth := 9)) <;> (repeat (refine shown_of_pair (by assumption) ?_; simp (maxDischargeDepth := 9)))

theorem execDepotBegin_now (t : Nat) (id : Nat) (s : State) (s0 : State)     : shown (one .now) (after (execDepotBegin t id s) s0) = shown (one .now) (tick t s) := by
  simp (maxDischargeDepth := 9) [execDepotBegin]

theorem execDepotStop_now (t : Nat) (id : Nat) (s : State) (s0 : State)     : shown (one .now) (after (execDepotStop t id s) s0) = shown (one .now) (tick t s) := by
  simp (maxDischargeDepth := 9) [execDepotStop]

theorem execDepotWindowEnd_now (t : Nat) (s : State) (s0 : State)     : shown (one .now) (after (execDepotWindowEnd t s) s0) = shown (one .now) (tick t s) := by
  simp (maxDischargeDepth := 9) [execDepotWindowEnd]
  (repeat' split) <;> simp_all (maxDischargeDepth := 9)

theorem execDiagRead_now (t : Nat) (id : Nat) (flips : List Nat) (s : State) (s0 : State) : shown (one .now) (after (execDiagRead t id flips s) s0) = shown (one .now) (tick t s) := by
  unfold execDiagRead
  refine (serve_shown _ _ _ _ _ (fun c s => ?_) (by simp [])).trans (by simp [])
  try dsimp only
  (repeat' split) <;> (try simp (maxDischargeDepth := 9) []) <;> (repeat (refine shown_of_pair (by assumption) ?_; simp (maxDischargeDepth := 9) []))

theorem execSealRec_now (t : Nat) (id : Nat) (s : State) (s0 : State)     : shown (one .now) (after (execSealRec t id s) s0) = shown (one .now) (tick t s) := by
  unfold execSealRec
  refine (serve_shown _ _ _ _ _ (fun c s => ?_) (by simp [])).trans (by simp [])
  (repeat' split) <;> simp (maxDischargeDepth := 9) []

theorem execSealServiceStart_now (t : Nat) (k : Nat) (s : State) (s0 : State) : shown (one .now) (after (execSealServiceStart t k s) s0) = shown (one .now) (tick t s) := by
  unfold execSealServiceStart
  try dsimp only
  (repeat' split) <;> (try simp (maxDischargeDepth := 9) []) <;> (repeat (refine shown_of_pair (by assumption) ?_; simp (maxDischargeDepth := 9) []))

theorem execSealFold_now (t : Nat) (id : Nat) (data : Option (List Byte)) (d : Conduct) (postBad : Bool) (s : State) (s0 : State)     : shown (one .now) (after (execSealFold t id data d postBad s) s0) = shown (one .now) (tick t s) := by
  simp (maxDischargeDepth := 9) [execSealFold]
  (repeat' split) <;> simp_all (maxDischargeDepth := 9)

theorem execRecallTime_now (t : Nat) (id : Nat) (d : Conduct) (s : State) (s0 : State)     : shown (one .now) (after (execRecallTime t id d s) s0) = shown (one .now) (tick t s) := by
  simp (maxDischargeDepth := 9) [execRecallTime]

theorem execRecallRecord_now (t : Nat) (id : Nat) (d : Conduct) (s : State) (s0 : State)     : shown (one .now) (after (execRecallRecord t id d s) s0) = shown (one .now) (tick t s) := by
  simp (maxDischargeDepth := 9) [execRecallRecord]

theorem execRecallRange_now (t : Nat) (id : Nat) (s : State) (s0 : State)     : shown (one .now) (after (execRecallRange t id s) s0) = shown (one .now) (tick t s) := by
  simp (maxDischargeDepth := 9) [execRecallRange]

theorem execWriteBlocks_now (t : Nat) (id : Nat) (data : Option (List Byte)) (bad : List Nat) (s : State) (s0 : State) : shown (one .now) (after (execWriteBlocks t id data bad s) s0) = shown (one .now) (tick t s) := by
  unfold execWriteBlocks
  refine (serve_shown _ _ _ _ _ (fun c s => ?_) (by simp [])).trans (by simp [])
  try dsimp only
  (repeat' split) <;> (try simp (maxDischargeDepth := 9) []) <;> (repeat (refine shown_of_pair (by assumption) ?_; simp (maxDischargeDepth := 9) []))

theorem execReadBlocks_now (t : Nat) (id : Nat) (s : State) (s0 : State) : shown (one .now) (after (execReadBlocks t id s) s0) = shown (one .now) (tick t s) := by
  unfold execReadBlocks
  refine (serve_shown _ _ _ _ _ (fun c s => ?_) (by simp)).trans (by simp)
  try dsimp only
  (repeat' split) <;> (try simp (maxDischargeDepth := 9)) <;> (repeat (refine shown_of_pair (by assumption) ?_; simp (maxDischargeDepth := 9)))

theorem execDeallocate_now (t : Nat) (id : Nat) (s : State) (s0 : State)     : shown (one .now) (after (execDeallocate t id s) s0) = shown (one .now) (tick t s) := by
  unfold execDeallocate
  refine (serve_shown _ _ _ _ _ (fun c s => ?_) (by simp [])).trans (by simp [])
  (repeat' split) <;> simp (maxDischargeDepth := 9) []

theorem execLockRange_now (t : Nat) (id : Nat) (s : State) (s0 : State)     : shown (one .now) (after (execLockRange t id s) s0) = shown (one .now) (tick t s) := by
  unfold execLockRange
  refine (serve_shown _ _ _ _ _ (fun c s => ?_) (by simp [])).trans (by simp [])
  (repeat' split) <;> simp (maxDischargeDepth := 9) []

theorem execReleaseRange_now (t : Nat) (id : Nat) (s : State) (s0 : State)     : shown (one .now) (after (execReleaseRange t id s) s0) = shown (one .now) (tick t s) := by
  unfold execReleaseRange
  refine (serve_shown _ _ _ _ _ (fun c s => ?_) (by simp [])).trans (by simp [])
  (repeat' split) <;> simp (maxDischargeDepth := 9) []

theorem execExportRange_now (t : Nat) (id : Nat) (s : State) (s0 : State)     : shown (one .now) (after (execExportRange t id s) s0) = shown (one .now) (tick t s) := by
  unfold execExportRange
  simp only
  split
  · simp []
  · refine (serve_shown _ _ _ _ _ (fun c s => ?_) (by simp [])).trans (by simp [])
    split
    · simp (maxDischargeDepth := 9) []
    · split
      · simp (maxDischargeDepth := 9) []
      · have e := selRange_shown (kp := one .now) c ‹_› s
        split <;> rename_i heq <;> simp [heq] at e <;> simp (maxDischargeDepth := 9) [e]

theorem execProgRun_now (t id : Nat) (s s0 : State) : shown (one .now) (after (execProgRun t id s) s0) = shown (one .now) (tick t s) := by
  unfold execProgRun
  simp only
  split
  · simp []
  · refine (serve_shown _ _ _ _ _ (fun c s => ?_) (by simp [])).trans (by simp [])
    (repeat' split)
    all_goals first | (rename_i heq; rw [queueRun_shown _ _ _ _ _ (by simp []) heq]) | simp (maxDischargeDepth := 9) []

theorem execMaintPatrol_now (t : Nat) (id : Nat) (s : State) (s0 : State) : shown (one .now) (after (execMaintPatrol t id s) s0) = shown (one .now) (tick t s) := by
  unfold execMaintPatrol
  refine (serve_shown _ _ _ _ _ (fun c s => ?_) (by simp)).trans (by simp)
  try dsimp only
  (repeat' split) <;> (try simp (maxDischargeDepth := 9)) <;> (repeat (refine shown_of_pair (by assumption) ?_; simp (maxDischargeDepth := 9)))

theorem execMaintCompact_now (t : Nat) (id : Nat) (s : State) (s0 : State)     : shown (one .now) (after (execMaintCompact t id s) s0) = shown (one .now) (tick t s) := by
  simp (maxDischargeDepth := 9) [execMaintCompact]

theorem execMaintVerify_now (t : Nat) (id : Nat) (s : State) (s0 : State) : shown (one .now) (after (execMaintVerify t id s) s0) = shown (one .now) (tick t s) := by
  unfold execMaintVerify
  refine (maint_shown _ _ _ _ _ (fun c s => ?_) (by simp [])).trans (by simp [])
  try dsimp only
  (repeat' split) <;> (try simp (maxDischargeDepth := 9) []) <;> (repeat (refine shown_of_pair (by assumption) ?_; simp (maxDischargeDepth := 9) []))

theorem execNvmeDeleteIoSq_now (t : Nat) (cmd : List Byte) (s : State) (s0 : State)     : shown (one .now) (after (execNvmeDeleteIoSq t cmd s) s0) = shown (one .now) (tick t s) := by
  simp (maxDischargeDepth := 9) [execNvmeDeleteIoSq]

theorem execNvmeCreateIoSq_now (t : Nat) (cmd : List Byte) (s : State) (s0 : State)     : shown (one .now) (after (execNvmeCreateIoSq t cmd s) s0) = shown (one .now) (tick t s) := by
  unfold execNvmeCreateIoSq
  refine (nvAdm_shown _ _ _ _ _ (fun s => ?_) (by simp [])).trans (by simp [])
  (repeat' split) <;> simp (maxDischargeDepth := 9) []

theorem execNvmeGetLogPage_now (t : Nat) (cmd : List Byte) (s : State) (s0 : State)     : shown (one .now) (after (execNvmeGetLogPage t cmd s) s0) = shown (one .now) (tick t s) := by
  simp (maxDischargeDepth := 9) [execNvmeGetLogPage]
  (repeat' split) <;> simp_all (maxDischargeDepth := 9)

theorem execNvmeDeleteIoCq_now (t : Nat) (cmd : List Byte) (s : State) (s0 : State)     : shown (one .now) (after (execNvmeDeleteIoCq t cmd s) s0) = shown (one .now) (tick t s) := by
  simp (maxDischargeDepth := 9) [execNvmeDeleteIoCq]

theorem execNvmeCreateIoCq_now (t : Nat) (cmd : List Byte) (s : State) (s0 : State)     : shown (one .now) (after (execNvmeCreateIoCq t cmd s) s0) = shown (one .now) (tick t s) := by
  unfold execNvmeCreateIoCq
  refine (nvAdm_shown _ _ _ _ _ (fun s => ?_) (by simp [])).trans (by simp [])
  (repeat' split) <;> simp (maxDischargeDepth := 9) []

theorem execNvmeIdentify_now (t : Nat) (cmd : List Byte) (s : State) (s0 : State)     : shown (one .now) (after (execNvmeIdentify t cmd s) s0) = shown (one .now) (tick t s) := by
  unfold execNvmeIdentify
  refine (nvAdm_shown _ _ _ _ _ (fun s => ?_) (by simp [])).trans (by simp [])
  (repeat' split) <;> simp (maxDischargeDepth := 9) []

theorem execNvmeAbort_now (t : Nat) (cmd : List Byte) (s : State) (s0 : State) : shown (one .now) (after (execNvmeAbort t cmd s) s0) = shown (one .now) (tick t s) := by
  unfold execNvmeAbort
  refine (nvAdm_shown _ _ _ _ _ (fun s => ?_) (by simp [])).trans (by simp [])
  dsimp only
  (repeat' split) <;> simp (maxDischargeDepth := 9) []

theorem execNvmeSetFeatures_now (t : Nat) (cmd : List Byte) (s : State) (s0 : State) : shown (one .now) (after (execNvmeSetFeatures t cmd s) s0) = shown (one .now) (tick t s) := by
  unfold execNvmeSetFeatures
  try dsimp only
  (repeat' split) <;> (try simp (maxDischargeDepth := 9)) <;> (repeat (refine shown_of_pair (by assumption) ?_; simp (maxDischargeDepth := 9)))

theorem execNvmeGetFeatures_now (t : Nat) (cmd : List Byte) (s : State) (s0 : State)     : shown (one .now) (after (execNvmeGetFeatures t cmd s) s0) = shown (one .now) (tick t s) := by
  unfold execNvmeGetFeatures
  (repeat' split) <;> simp_all (maxDischargeDepth := 9)

theorem execNvmeAsyncEventRequest_now (t : Nat) (cmd : List Byte) (s : State) (s0 : State)     : shown (one .now) (after (execNvmeAsyncEventRequest t cmd s) s0) = shown (one .now) (tick t s) := by
  unfold execNvmeAsyncEventRequest
  refine (nvAdm_shown _ _ _ _ _ (fun s => ?_) (by simp [])).trans (by simp [])
  (repeat' split) <;> simp (maxDischargeDepth := 9) []

theorem execNvmeFirmwareCommit_now (t : Nat) (cmd : List Byte) (s : State) (s0 : State) : shown (one .now) (after (execNvmeFirmwareCommit t cmd s) s0) = shown (one .now) (tick t s) := by
  unfold execNvmeFirmwareCommit
  refine (nvAdm_shown _ _ _ _ _ (fun s => ?_) (by simp)).trans (by simp)
  try dsimp only
  (repeat' split) <;> (try simp (maxDischargeDepth := 9)) <;> (repeat (refine shown_of_pair (by assumption) ?_; simp (maxDischargeDepth := 9)))

theorem execNvmeFwImageDownload_now (t : Nat) (cmd : List Byte) (data : Option (List Byte)) (s : State) (s0 : State)     : shown (one .now) (after (execNvmeFwImageDownload t cmd data s) s0) = shown (one .now) (tick t s) := by
  unfold execNvmeFwImageDownload
  (repeat' split) <;> simp_all (maxDischargeDepth := 9)

theorem execNvmeFlush_now (t : Nat) (sq : Nat) (cmd : List Byte) (s : State) (s0 : State)     : shown (one .now) (after (execNvmeFlush t sq cmd s) s0) = shown (one .now) (tick t s) := by
  simp (maxDischargeDepth := 9) [execNvmeFlush]

theorem execNvmeWrite_now (t : Nat) (sq : Nat) (cmd : List Byte) (data : Option (List Byte)) (bad : List Nat) (s : State) (s0 : State) : shown (one .now) (after (execNvmeWrite t sq cmd data bad s) s0) = shown (one .now) (tick t s) := by
  unfold execNvmeWrite
  refine (nvBlock_shown _ _ _ _ _ _ _ _ (fun c x s => ?_) (by simp [])).trans (by simp [])
  dsimp only
  (repeat' split) <;> (try simp (maxDischargeDepth := 9) []) <;> (repeat (refine shown_of_pair (by assumption) ?_; simp (maxDischargeDepth := 9) []))

theorem execNvmeRead_now (t : Nat) (sq : Nat) (cmd : List Byte) (s : State) (s0 : State) : shown (one .now) (after (execNvmeRead t sq cmd s) s0) = shown (one .now) (tick t s) := by
  unfold execNvmeRead
  refine (nvBlock_shown _ _ _ _ _ _ _ _ (fun c x s => ?_) (by simp)).trans (by simp)
  try dsimp only
  (repeat' split) <;> (try simp (maxDischargeDepth := 9)) <;> (repeat (refine shown_of_pair (by assumption) ?_; simp (maxDischargeDepth := 9)))

theorem execNvmeDatasetManagement_now (t : Nat) (sq : Nat) (cmd : List Byte) (data : Option (List Byte)) (s : State) (s0 : State) : shown (one .now) (after (execNvmeDatasetManagement t sq cmd data s) s0) = shown (one .now) (tick t s) := by
  unfold execNvmeDatasetManagement
  refine (nvServe_shown _ _ _ _ _ _ _ (fun s => ?_) (by simp)).trans (by simp)
  have h2 : ∀ (l : List (Nat × Nat)) (s : State), shown (one .now) (l.foldl (fun s r => match nsOf s 1 with | some x => dealloc 1 x r.2 r.1 [] s | none => s) s) = shown (one .now) s := by
    intro l s; refine shown_foldl _ _ (fun s a => ?_) _; split <;> simp
  dsimp only
  split; · simp
  · simp
  split; · simp
  split; · simp
  exact nvWake_shown _ _ _ _ _ ((nvDone_shown _ _ _ _ (by simp)).trans (h2 _ _)) (by simp)

theorem execClassSFetchStall_now (t : Nat) (f : Nat) (i : Nat) (s : State) (s0 : State)     : shown (one .now) (after (execClassSFetchStall t f i s) s0) = shown (one .now) (tick t s) := by
  simp (maxDischargeDepth := 9) [execClassSFetchStall]
  (repeat' split) <;> simp_all (maxDischargeDepth := 9)

theorem execClsSnapNow_now (t : Nat) (n : Nat) (s : State) (s0 : State)     : shown (one .now) (after (execClsSnapNow t n s) s0) = shown (one .now) (tick t s) := by
  simp (maxDischargeDepth := 9) [execClsSnapNow]

theorem execHoldExpiry_now (t : Nat) (s : State) (s0 : State)     : shown (one .now) (after (execHoldExpiry t s) s0) = shown (one .now) (tick t s) := by
  simp (maxDischargeDepth := 9) [execHoldExpiry]

theorem execRetentionNoticeDue_now (t : Nat) (s : State) (s0 : State)     : shown (one .now) (after (execRetentionNoticeDue t s) s0) = shown (one .now) (tick t s) := by
  simp (maxDischargeDepth := 9) [execRetentionNoticeDue]

theorem execIdxSnapNow_now (t : Nat) (n : Nat) (s : State) (s0 : State)     : shown (one .now) (after (execIdxSnapNow t n s) s0) = shown (one .now) (tick t s) := by
  simp (maxDischargeDepth := 9) [execIdxSnapNow]

theorem execZestCompressJob_now (t : Nat) (k : Nat) (s : State) (s0 : State)     : shown (one .now) (after (execZestCompressJob t k s) s0) = shown (one .now) (tick t s) := by
  unfold execZestCompressJob
  have e := zjTake_shown (kp := one .now) k (· != 2) (tick t s) (by simp [])
  split <;> rename_i heq <;> simp [heq] at e <;> (repeat' split) <;> simp (maxDischargeDepth := 9) [e]

theorem execZestDecompressJob_now (t : Nat) (k : Nat) (s : State) (s0 : State)     : shown (one .now) (after (execZestDecompressJob t k s) s0) = shown (one .now) (tick t s) := by
  unfold execZestDecompressJob
  have e := zjTake_shown (kp := one .now) k (· == 2) (tick t s) (by simp [])
  split <;> rename_i heq <;> simp [heq] at e <;> (repeat' split) <;> simp (maxDischargeDepth := 9) [e]

theorem execZestJobComplete_now (t : Nat) (seg : Nat) (comp : Bool) (bad : List Nat) (s : State) (s0 : State) : shown (one .now) (after (execZestJobComplete t seg comp bad s) s0) = shown (one .now) (tick t s) := by
  unfold execZestJobComplete
  try dsimp only
  (repeat' split) <;> (try simp (maxDischargeDepth := 9) []) <;> (repeat (refine shown_of_pair (by assumption) ?_; simp (maxDischargeDepth := 9) []))

theorem execZstSnapNow_now (t : Nat) (n : Nat) (s : State) (s0 : State)     : shown (one .now) (after (execZstSnapNow t n s) s0) = shown (one .now) (tick t s) := by
  simp (maxDischargeDepth := 9) [execZstSnapNow]

theorem execStoneDrain_now (t : Nat) (seg : Nat) (bad : List Nat) (finds : List DramFind) (s : State) (s0 : State) : shown (one .now) (after (execStoneDrain t seg bad finds s) s0) = shown (one .now) (tick t s) := by
  unfold execStoneDrain
  try dsimp only
  (repeat' split) <;> (try simp (maxDischargeDepth := 9)) <;> (repeat (refine shown_of_pair (by assumption) ?_; simp (maxDischargeDepth := 9)))

theorem execRecordDrainComplete_now (t : Nat) (seg : Nat) (s : State) (s0 : State)     : shown (one .now) (after (execRecordDrainComplete t seg s) s0) = shown (one .now) (tick t s) := by
  simp (maxDischargeDepth := 9) [execRecordDrainComplete]
  (repeat' split) <;> simp_all (maxDischargeDepth := 9)

theorem execPartialUnitTimeout_now (t : Nat) (k : Nat) (s : State) (s0 : State)     : shown (one .now) (after (execPartialUnitTimeout t k s) s0) = shown (one .now) (tick t s) := by
  simp (maxDischargeDepth := 9) [execPartialUnitTimeout]
  (repeat' split) <;> simp_all (maxDischargeDepth := 9)

theorem execSlcMove_now (t : Nat) (seg : Nat) (bad : List (Nat × Nat × Nat)) (s : State) (s0 : State) : shown (one .now) (after (execSlcMove t seg bad s) s0) = shown (one .now) (tick t s) := by
  unfold execSlcMove
  try dsimp only
  (repeat' split) <;> (try simp (maxDischargeDepth := 9) []) <;> (repeat (refine shown_of_pair (by assumption) ?_; simp (maxDischargeDepth := 9) []))

theorem execMapCheckpoint_now (t : Nat) (seg : Nat) (s : State) (s0 : State) : shown (one .now) (after (execMapCheckpoint t seg s) s0) = shown (one .now) (tick t s) := by
  unfold execMapCheckpoint
  try dsimp only
  (repeat' split) <;> (try simp (maxDischargeDepth := 9) []) <;> (repeat (refine shown_of_pair (by assumption) ?_; simp (maxDischargeDepth := 9) []))

theorem execGarbageCollection_now (t : Nat) (seg : Nat) (bad : List (Nat × Nat × Nat)) (s : State) (s0 : State) : shown (one .now) (after (execGarbageCollection t seg bad s) s0) = shown (one .now) (tick t s) := by
  unfold execGarbageCollection
  try dsimp only
  (repeat' split) <;> (try simp (maxDischargeDepth := 9)) <;> (repeat (refine shown_of_pair (by assumption) ?_; simp (maxDischargeDepth := 9)))

theorem execWearMove_now (t : Nat) (seg : Nat) (bad : List (Nat × Nat × Nat)) (s : State) (s0 : State) : shown (one .now) (after (execWearMove t seg bad s) s0) = shown (one .now) (tick t s) := by
  unfold execWearMove
  try dsimp only
  (repeat' split) <;> (try simp (maxDischargeDepth := 9)) <;> (repeat (refine shown_of_pair (by assumption) ?_; simp (maxDischargeDepth := 9)))

theorem execPatrolPassEnd_now (t : Nat) (seg : Nat) (finds : List DramFind) (s : State) (s0 : State)     : shown (one .now) (after (execPatrolPassEnd t seg finds s) s0) = shown (one .now) (tick t s) := by
  simp (maxDischargeDepth := 9) [execPatrolPassEnd]

theorem execRetentionRefresh_now (t : Nat) (k : Nat) (s : State) (s0 : State) : shown (one .now) (after (execRetentionRefresh t k s) s0) = shown (one .now) (tick t s) := by
  unfold execRetentionRefresh
  try dsimp only
  (repeat' split) <;> (try simp (maxDischargeDepth := 9)) <;> (repeat (refine shown_of_pair (by assumption) ?_; simp (maxDischargeDepth := 9)))

theorem execAgeRefresh_now (t : Nat) (k : Nat) (s : State) (s0 : State)     : shown (one .now) (after (execAgeRefresh t k s) s0) = shown (one .now) (tick t s) := by
  simp (maxDischargeDepth := 9) [execAgeRefresh]
  (repeat' split) <;> simp_all (maxDischargeDepth := 9)

theorem execMaintTokenHandoff_now (t : Nat) (res : Nat) (s : State) (s0 : State) : shown (one .now) (after (execMaintTokenHandoff t res s) s0) = shown (one .now) (tick t s) := by
  simp (maxDischargeDepth := 9) [execMaintTokenHandoff]

theorem execMedSnapNow_now (t : Nat) (n : Nat) (s : State) (s0 : State)     : shown (one .now) (after (execMedSnapNow t n s) s0) = shown (one .now) (tick t s) := by
  simp (maxDischargeDepth := 9) [execMedSnapNow]

theorem execChannelRetrain_now (t : Nat) (c : Nat) (s : State) (s0 : State)     : shown (one .now) (after (execChannelRetrain t c s) s0) = shown (one .now) (tick t s) := by
  simp (maxDischargeDepth := 9) [execChannelRetrain]

theorem execWindowDecision_now (t : Nat) (d : Nat) (reads : List QRead) (s : State) (s0 : State) : shown (one .now) (after (execWindowDecision t d reads s) s0) = shown (one .now) (tick t s) := by
  unfold execWindowDecision
  try dsimp only
  (repeat' split) <;> (try simp (maxDischargeDepth := 9) []) <;> (repeat (refine shown_of_pair (by assumption) ?_; simp (maxDischargeDepth := 9) []))

theorem execWindowClose_now (t : Nat) (d : Nat) (s : State) (s0 : State)     : shown (one .now) (after (execWindowClose t d s) s0) = shown (one .now) (tick t s) := by
  simp (maxDischargeDepth := 9) [execWindowClose]
  (repeat' split) <;> simp_all (maxDischargeDepth := 9)

theorem execProtectedStretchEnd_now (t : Nat) (d : Nat) (s : State) (s0 : State)     : shown (one .now) (after (execProtectedStretchEnd t d s) s0) = shown (one .now) (tick t s) := by
  simp (maxDischargeDepth := 9) [execProtectedStretchEnd]
  (repeat' split) <;> simp_all (maxDischargeDepth := 9)

theorem execEraseIssue_now (t : Nat) (d : Nat) (b : Nat) (s : State) (s0 : State)     : shown (one .now) (after (execEraseIssue t d b s) s0) = shown (one .now) (tick t s) := by
  simp (maxDischargeDepth := 9) [execEraseIssue]
  (repeat' split) <;> simp_all (maxDischargeDepth := 9)

theorem execNandEraseComplete_now (t : Nat) (d : Nat) (ok : Bool) (raws : List (Nat × Nat)) (s : State) (s0 : State)     : shown (one .now) (after (execNandEraseComplete t d ok raws s) s0) = shown (one .now) (tick t s) := by
  simp (maxDischargeDepth := 9) [execNandEraseComplete]
  (repeat' split) <;> simp_all (maxDischargeDepth := 9)

theorem execNandProgramComplete_now (t : Nat) (d : Nat) (ok : Bool) (parity : Option Bool) (s : State) (s0 : State) : shown (one .now) (after (execNandProgramComplete t d ok parity s) s0) = shown (one .now) (tick t s) := by
  unfold execNandProgramComplete
  try dsimp only
  (repeat' split) <;> (try simp (maxDischargeDepth := 9) []) <;> (repeat (refine shown_of_pair (by assumption) ?_; simp (maxDischargeDepth := 9) []))

theorem execNandReadComplete_now (t : Nat) (d : Nat) (b : Nat) (pg : Nat) (best : Nat) (l : List CwRead) (use : ReadUse) (s : State) (s0 : State) : shown (one .now) (after (execNandReadComplete t d b pg best l use s) s0) = shown (one .now) (tick t s) := by
  unfold execNandReadComplete
  try dsimp only
  (repeat' split) <;> (try simp (maxDischargeDepth := 9)) <;> (repeat (refine shown_of_pair (by assumption) ?_; simp (maxDischargeDepth := 9)))

theorem execNandOpTimeout_now (t : Nat) (d : Nat) (s : State) (s0 : State)     : shown (one .now) (after (execNandOpTimeout t d s) s0) = shown (one .now) (tick t s) := by
  simp (maxDischargeDepth := 9) [execNandOpTimeout]
  (repeat' split) <;> simp_all (maxDischargeDepth := 9)

theorem execFlwSnapNow_now (t : Nat) (n : Nat) (s : State) (s0 : State)     : shown (one .now) (after (execFlwSnapNow t n s) s0) = shown (one .now) (tick t s) := by
  simp (maxDischargeDepth := 9) [execFlwSnapNow]

theorem execDetectorHoldoffEnd_now (t : Nat) (k : Nat) (s : State) (s0 : State)     : shown (one .now) (after (execDetectorHoldoffEnd t k s) s0) = shown (one .now) (tick t s) := by
  simp (maxDischargeDepth := 9) [execDetectorHoldoffEnd]
  (repeat' split) <;> simp_all (maxDischargeDepth := 9)

theorem execInjectionArm_now (t : Nat) (w : Word) (be : Nat) (s : State) (s0 : State)     : shown (one .now) (after (execInjectionArm t w be s) s0) = shown (one .now) (tick t s) := by
  simp (maxDischargeDepth := 9) [execInjectionArm]

theorem execInjectionDisarm_now (t : Nat) (w : Word) (be : Nat) (s : State) (s0 : State)     : shown (one .now) (after (execInjectionDisarm t w be s) s0) = shown (one .now) (tick t s) := by
  simp (maxDischargeDepth := 9) [execInjectionDisarm]

theorem execBypassOpen_now (t : Nat) (w : Word) (be : Nat) (s : State) (s0 : State)     : shown (one .now) (after (execBypassOpen t w be s) s0) = shown (one .now) (tick t s) := by
  simp (maxDischargeDepth := 9) [execBypassOpen]

theorem execBypassWindowEnd_now (t : Nat) (s : State) (s0 : State)     : shown (one .now) (after (execBypassWindowEnd t s) s0) = shown (one .now) (tick t s) := by
  simp (maxDischargeDepth := 9) [execBypassWindowEnd]
  (repeat' split) <;> simp_all (maxDischargeDepth := 9)

@[simp] theorem execIntSnapNow_now (t : Nat) (s : State) (s0 : State)     : shown (one .now) (after (execIntSnapNow t s) s0) = shown (one .now) (tick t s) := by
  simp (maxDischargeDepth := 9) [execIntSnapNow]

theorem execSramScrub_now (t : Nat) (finds : List SramFind) (s : State) (s0 : State)     : shown (one .now) (after (execSramScrub t finds s) s0) = shown (one .now) (tick t s) := by
  simp (maxDischargeDepth := 9) [execSramScrub]

theorem execHealthSave_now (t : Nat) (s : State) (s0 : State)     : shown (one .now) (after (execHealthSave t s) s0) = shown (one .now) (tick t s) := by
  simp (maxDischargeDepth := 9) [execHealthSave]

theorem execFabricTimeout_now (t : Nat) (work : Work) (write : Bool) (units : Nat) (s : State) (s0 : State) : shown (one .now) (after (execFabricTimeout t work write units s) s0) = shown (one .now) (tick t s) := by
  unfold execFabricTimeout
  try dsimp only
  (repeat' split) <;> (try simp (maxDischargeDepth := 9)) <;> (repeat (refine shown_of_pair (by assumption) ?_; simp (maxDischargeDepth := 9)))

theorem execHeartbeatMiss_now (t : Nat) (k : Nat) (s : State) (s0 : State)     : shown (one .now) (after (execHeartbeatMiss t k s) s0) = shown (one .now) (tick t s) := by
  simp (maxDischargeDepth := 9) [execHeartbeatMiss]

theorem execHostReadTimeout_now (t : Nat) (work : Work) (s : State) (s0 : State)     : shown (one .now) (after (execHostReadTimeout t work s) s0) = shown (one .now) (tick t s) := by
  simp (maxDischargeDepth := 9) [execHostReadTimeout]

theorem execPowerWarning_now (t : Nat) (vsys : Nat) (vhu : Nat) (warnN : Bool) (huOk : Bool) (s : State) (s0 : State)     : shown (one .now) (after (execPowerWarning t vsys vhu warnN huOk s) s0) = shown (one .now) (tick t s) := by
  simp (maxDischargeDepth := 9) [execPowerWarning]

theorem execBraceFlushComplete_now (t : Nat) (pbrace : Nat) (t34 : Nat) (t37 : Nat) (v3 : Nat) (v7 : Nat) (low : Bool) (s : State) (s0 : State)     : shown (one .now) (after (execBraceFlushComplete t pbrace t34 t37 v3 v7 low s) s0) = shown (one .now) (tick t s) := by
  simp (maxDischargeDepth := 9) [execBraceFlushComplete]

theorem execExitWaitRestart_now (t : Nat) (vsys : Nat) (vhu : Nat) (warnN : Bool) (huOk : Bool) (s : State) (s0 : State)     : shown (one .now) (after (execExitWaitRestart t vsys vhu warnN huOk s) s0) = shown (one .now) (tick t s) := by
  simp (maxDischargeDepth := 9) [execExitWaitRestart]

theorem execBraceExit_now (t : Nat) (s : State) (s0 : State)     : shown (one .now) (after (execBraceExit t s) s0) = shown (one .now) (tick t s) := by
  simp (maxDischargeDepth := 9) [execBraceExit]
  (repeat' split) <;> simp_all (maxDischargeDepth := 9)

@[simp] theorem execBrcSnapNow_now (t : Nat) (s : State) (s0 : State)     : shown (one .now) (after (execBrcSnapNow t s) s0) = shown (one .now) (tick t s) := by
  simp (maxDischargeDepth := 9) [execBrcSnapNow]

theorem execCryptoInit_now (t : Nat) (k : Nat) (s : State) (s0 : State)     : shown (one .now) (after (execCryptoInit t k s) s0) = shown (one .now) (tick t s) := by
  simp (maxDischargeDepth := 9) [execCryptoInit]

theorem execCryptoUpdate_now (t : Nat) (k : Nat) (s : State) (s0 : State)     : shown (one .now) (after (execCryptoUpdate t k s) s0) = shown (one .now) (tick t s) := by
  simp (maxDischargeDepth := 9) [execCryptoUpdate]

theorem execCryptoFinal_now (t : Nat) (k : Nat) (s : State) (s0 : State)     : shown (one .now) (after (execCryptoFinal t k s) s0) = shown (one .now) (tick t s) := by
  simp (maxDischargeDepth := 9) [execCryptoFinal]

theorem execCryptoFree_now (t : Nat) (k : Nat) (s : State) (s0 : State)     : shown (one .now) (after (execCryptoFree t k s) s0) = shown (one .now) (tick t s) := by
  simp (maxDischargeDepth := 9) [execCryptoFree]

theorem execCryptoOneshot_now (t : Nat) (k : Nat) (s : State) (s0 : State)     : shown (one .now) (after (execCryptoOneshot t k s) s0) = shown (one .now) (tick t s) := by
  simp (maxDischargeDepth := 9) [execCryptoOneshot]

theorem execCryptoChainCheck_now (t : Nat) (k : Nat) (s : State) (s0 : State)     : shown (one .now) (after (execCryptoChainCheck t k s) s0) = shown (one .now) (tick t s) := by
  simp (maxDischargeDepth := 9) [execCryptoChainCheck]

theorem execCryptoRandom_now (t : Nat) (k : Nat) (s : State) (s0 : State)     : shown (one .now) (after (execCryptoRandom t k s) s0) = shown (one .now) (tick t s) := by
  simp (maxDischargeDepth := 9) [execCryptoRandom]

theorem execGcmHoldGrant_now (t : Nat) (seg : Nat) (s : State) (s0 : State)     : shown (one .now) (after (execGcmHoldGrant t seg s) s0) = shown (one .now) (tick t s) := by
  simp (maxDischargeDepth := 9) [execGcmHoldGrant]

theorem execCryptoJobComplete_now (t : Nat) (n : Nat) (bus : Bool) (differ : Bool) (flags_ : Bool) (lane : Nat) (finds : List SramFind) (s : State) (s0 : State) : shown (one .now) (after (execCryptoJobComplete t n bus differ flags_ lane finds s) s0) = shown (one .now) (tick t s) := by
  unfold execCryptoJobComplete
  try dsimp only
  (repeat' split) <;> (try simp (maxDischargeDepth := 9)) <;> (repeat (refine shown_of_pair (by assumption) ?_; simp (maxDischargeDepth := 9)))

theorem execTamperAlarm_now (t : Nat) (n : Nat) (s : State) (s0 : State)     : shown (one .now) (after (execTamperAlarm t n s) s0) = shown (one .now) (tick t s) := by
  simp (maxDischargeDepth := 9) [execTamperAlarm]

theorem execKeyRederive_now (t : Nat) (s : State) (s0 : State)     : shown (one .now) (after (execKeyRederive t s) s0) = shown (one .now) (tick t s) := by
  simp (maxDischargeDepth := 9) [execKeyRederive]

theorem execRngHealthFail_now (t : Nat) (s : State) (s0 : State)     : shown (one .now) (after (execRngHealthFail t s) s0) = shown (one .now) (tick t s) := by
  simp (maxDischargeDepth := 9) [execRngHealthFail]

theorem execRngRecovered_now (t : Nat) (s : State) (s0 : State)     : shown (one .now) (after (execRngRecovered t s) s0) = shown (one .now) (tick t s) := by
  simp (maxDischargeDepth := 9) [execRngRecovered]

theorem execDrbgReseed_now (t : Nat) (s : State) (s0 : State)     : shown (one .now) (after (execDrbgReseed t s) s0) = shown (one .now) (tick t s) := by
  simp (maxDischargeDepth := 9) [execDrbgReseed]

@[simp] theorem execExportKeySet_now (t : Nat) (f : Nat) (s : State) (s0 : State)     : shown (one .now) (after (execExportKeySet t f s) s0) = shown (one .now) (tick t s) := by
  simp (maxDischargeDepth := 9) [execExportKeySet]

@[simp] theorem execExportKeyClear_now (t : Nat) (f : Nat) (s : State) (s0 : State)     : shown (one .now) (after (execExportKeyClear t f s) s0) = shown (one .now) (tick t s) := by
  simp (maxDischargeDepth := 9) [execExportKeyClear]

theorem execCryCtrlWrite_now (t : Nat) (w : Word) (be : Nat) (s : State) (s0 : State)     : shown (one .now) (after (execCryCtrlWrite t w be s) s0) = shown (one .now) (tick t s) := by
  simp (maxDischargeDepth := 9) [execCryCtrlWrite]

@[simp] theorem execCrySnapNow_now (t : Nat) (s : State) (s0 : State)     : shown (one .now) (after (execCrySnapNow t s) s0) = shown (one .now) (tick t s) := by
  simp (maxDischargeDepth := 9) [execCrySnapNow]

theorem execSpdmGetVersion_now (t : Nat) (req : List Byte) (s : State) (s0 : State)     : shown (one .now) (after (execSpdmGetVersion t req s) s0) = shown (one .now) (tick t s) := by
  simp (maxDischargeDepth := 9) [execSpdmGetVersion]

theorem execSpdmGetCapabilities_now (t : Nat) (req : List Byte) (s : State) (s0 : State)     : shown (one .now) (after (execSpdmGetCapabilities t req s) s0) = shown (one .now) (tick t s) := by
  simp (maxDischargeDepth := 9) [execSpdmGetCapabilities]

theorem execSpdmNegotiateAlgorithms_now (t : Nat) (req : List Byte) (s : State) (s0 : State)     : shown (one .now) (after (execSpdmNegotiateAlgorithms t req s) s0) = shown (one .now) (tick t s) := by
  simp (maxDischargeDepth := 9) [execSpdmNegotiateAlgorithms]

theorem execSpdmGetDigests_now (t : Nat) (req : List Byte) (s : State) (s0 : State)     : shown (one .now) (after (execSpdmGetDigests t req s) s0) = shown (one .now) (tick t s) := by
  simp (maxDischargeDepth := 9) [execSpdmGetDigests]

theorem execSpdmGetCertificate_now (t : Nat) (req : List Byte) (s : State) (s0 : State)     : shown (one .now) (after (execSpdmGetCertificate t req s) s0) = shown (one .now) (tick t s) := by
  simp (maxDischargeDepth := 9) [execSpdmGetCertificate]

theorem execSpdmChallenge_now (t : Nat) (req : List Byte) (s : State) (s0 : State)     : shown (one .now) (after (execSpdmChallenge t req s) s0) = shown (one .now) (tick t s) := by
  simp (maxDischargeDepth := 9) [execSpdmChallenge]

theorem execSpdmGetMeasurements_now (t : Nat) (req : List Byte) (s : State) (s0 : State)     : shown (one .now) (after (execSpdmGetMeasurements t req s) s0) = shown (one .now) (tick t s) := by
  simp (maxDischargeDepth := 9) [execSpdmGetMeasurements]

theorem execBundleIssue_now (t : Nat) (k : Nat) (way : Issue) (s : State) (s0 : State)     : shown (one .now) (after (execBundleIssue t k way s) s0) = shown (one .now) (tick t s) := by
  simp (maxDischargeDepth := 9) [execBundleIssue]

theorem execRepPass_now (t : Nat) (k : Nat) (way : Issue) (s : State) (s0 : State)     : shown (one .now) (after (execRepPass t k way s) s0) = shown (one .now) (tick t s) := by
  simp (maxDischargeDepth := 9) [execRepPass]

theorem execBudgetException_now (t : Nat) (k : Nat) (s : State) (s0 : State)     : shown (one .now) (after (execBudgetException t k s) s0) = shown (one .now) (tick t s) := by
  simp (maxDischargeDepth := 9) [execBudgetException]

theorem execEventException_now (t : Nat) (k : Nat) (s : State) (s0 : State)     : shown (one .now) (after (execEventException t k s) s0) = shown (one .now) (tick t s) := by
  simp (maxDischargeDepth := 9) [execEventException]

theorem execCoreClockGate_now (t : Nat) (k : Nat) (s : State) (s0 : State)     : shown (one .now) (after (execCoreClockGate t k s) s0) = shown (one .now) (tick t s) := by
  simp (maxDischargeDepth := 9) [execCoreClockGate]
  (repeat' split) <;> simp_all (maxDischargeDepth := 9)

theorem execGetDeliver_now (t : Nat) (seg : Nat) (s : State) (s0 : State)     : shown (one .now) (after (execGetDeliver t seg s) s0) = shown (one .now) (tick t s) := by
  simp (maxDischargeDepth := 9) [execGetDeliver]
  (repeat' split) <;> simp_all (maxDischargeDepth := 9)

theorem execDispatcherPost_now (t : Nat) (k : Nat) (s : State) (s0 : State)     : shown (one .now) (after (execDispatcherPost t k s) s0) = shown (one .now) (tick t s) := by
  unfold execDispatcherPost
  simp only
  have e := popHand_shown (kp := one .now) (fun h => match h with | .post c _ _ _ => c == k | _ => false) (tick t s) (by simp [])
  split
  · rename_i heq
    replace e := (congrArg (fun q => shown (one .now) q.2) heq).symm.trans e
    simp [] at e
    (repeat' split) <;> simp (maxDischargeDepth := 9) [e]
  · simp []

theorem execDispatcherDone_now (t : Nat) (k : Nat) (s : State) (s0 : State)     : shown (one .now) (after (execDispatcherDone t k s) s0) = shown (one .now) (tick t s) := by
  unfold execDispatcherDone
  simp only
  have e := popHand_shown (kp := one .now) (fun h => match h with | .done c _ => c == k | _ => false) (tick t s) (by simp [])
  split
  · rename_i heq
    replace e := (congrArg (fun q => shown (one .now) q.2) heq).symm.trans e
    simp [] at e
    (repeat' split) <;> simp (maxDischargeDepth := 9) [e]
  · simp []

theorem execRunExit_now (t : Nat) (k : Nat) (s : State) (s0 : State)     : shown (one .now) (after (execRunExit t k s) s0) = shown (one .now) (tick t s) := by
  unfold execRunExit
  simp only
  have e := popHand_shown (kp := one .now) (fun h => match h with | .exit c _ => c == k | _ => false) (tick t s) (by simp [])
  split
  · rename_i heq
    replace e := (congrArg (fun q => shown (one .now) q.2) heq).symm.trans e
    simp [] at e
    (repeat' split) <;> simp (maxDischargeDepth := 9) [e]
  · simp []

theorem execDelayRelease_now (t : Nat) (seg : Nat) (s : State) (s0 : State)     : shown (one .now) (after (execDelayRelease t seg s) s0) = shown (one .now) (tick t s) := by
  simp (maxDischargeDepth := 9) [execDelayRelease]

theorem execRunStart_now (t : Nat) (seg : Nat) (k : Nat) (w3 : Nat) (w4 : Nat) (s : State) (s0 : State)     : shown (one .now) (after (execRunStart t seg k w3 w4 s) s0) = shown (one .now) (tick t s) := by
  simp (maxDischargeDepth := 9) [execRunStart]
  (repeat' split) <;> simp_all (maxDischargeDepth := 9)

theorem execDspfHwWrite_now (t : Nat) (f : Nat) (o : Nat) (w : Word) (be : Nat) (s : State) (s0 : State)     : shown (one .now) (after (execDspfHwWrite t f o w be s) s0) = shown (one .now) (tick t s) := by
  simp (maxDischargeDepth := 9) [execDspfHwWrite]

theorem execDspSnapNow_now (t : Nat) (n : Nat) (s : State) (s0 : State)     : shown (one .now) (after (execDspSnapNow t n s) s0) = shown (one .now) (tick t s) := by
  simp (maxDischargeDepth := 9) [execDspSnapNow]

theorem execDramZeroFill_now (t : Nat) (n : Nat) (s : State) (s0 : State)     : shown (one .now) (after (execDramZeroFill t n s) s0) = shown (one .now) (tick t s) := by
  simp (maxDischargeDepth := 9) [execDramZeroFill]

theorem execDramZqCalibration_now (t : Nat) (n : Nat) (s : State) (s0 : State)     : shown (one .now) (after (execDramZqCalibration t n s) s0) = shown (one .now) (tick t s) := by
  simp (maxDischargeDepth := 9) [execDramZqCalibration]

theorem execDramRecentre_now (t : Nat) (n : Nat) (temp : Nat) (s : State) (s0 : State)     : shown (one .now) (after (execDramRecentre t n temp s) s0) = shown (one .now) (tick t s) := by
  simp (maxDischargeDepth := 9) [execDramRecentre]

theorem execDramRefresh_now (t : Nat) (n : Nat) (postpone : Bool) (s : State) (s0 : State)     : shown (one .now) (after (execDramRefresh t n postpone s) s0) = shown (one .now) (tick t s) := by
  simp (maxDischargeDepth := 9) [execDramRefresh]

theorem execDramRfm_now (t : Nat) (n : Nat) (b : Nat) (s : State) (s0 : State)     : shown (one .now) (after (execDramRfm t n b s) s0) = shown (one .now) (tick t s) := by
  simp (maxDischargeDepth := 9) [execDramRfm]

theorem execNeighbourRefresh_now (t : Nat) (n : Nat) (b : Nat) (acts : List Nat) (reqs : List DramReq) (slots : Nat) (s : State) (s0 : State) : shown (one .now) (after (execNeighbourRefresh t n b acts reqs slots s) s0) = shown (one .now) (tick t s) := by
  unfold execNeighbourRefresh
  try dsimp only
  (repeat' split) <;> (try simp (maxDischargeDepth := 9) []) <;> (repeat (refine shown_of_pair (by assumption) ?_; simp (maxDischargeDepth := 9) []))

theorem execRatWindowClear_now (t : Nat) (n : Nat) (s : State) (s0 : State)     : shown (one .now) (after (execRatWindowClear t n s) s0) = shown (one .now) (tick t s) := by
  simp (maxDischargeDepth := 9) [execRatWindowClear]

theorem execDmCopy_now (t : Nat) (k : Nat) (s : State) (s0 : State)     : shown (one .now) (after (execDmCopy t k s) s0) = shown (one .now) (tick t s) := by
  simp (maxDischargeDepth := 9) [execDmCopy]

theorem execDmHostRead_now (t : Nat) (k : Nat) (s : State) (s0 : State)     : shown (one .now) (after (execDmHostRead t k s) s0) = shown (one .now) (tick t s) := by
  simp (maxDischargeDepth := 9) [execDmHostRead]

theorem execDmHostWrite_now (t : Nat) (k : Nat) (s : State) (s0 : State)     : shown (one .now) (after (execDmHostWrite t k s) s0) = shown (one .now) (tick t s) := by
  simp (maxDischargeDepth := 9) [execDmHostWrite]

theorem execDmRecordRead_now (t : Nat) (k : Nat) (s : State) (s0 : State)     : shown (one .now) (after (execDmRecordRead t k s) s0) = shown (one .now) (tick t s) := by
  simp (maxDischargeDepth := 9) [execDmRecordRead]

theorem execDmFill_now (t : Nat) (k : Nat) (s : State) (s0 : State)     : shown (one .now) (after (execDmFill t k s) s0) = shown (one .now) (tick t s) := by
  simp (maxDischargeDepth := 9) [execDmFill]

theorem execDmDescriptorComplete_now (t : Nat) (seg : Nat) (c : Nat) (differ : Bool) (units : Nat) (dram : List DramFind) (sram : List SramFind) (s : State) (s0 : State) : shown (one .now) (after (execDmDescriptorComplete t seg c differ units dram sram s) s0) = shown (one .now) (tick t s) := by
  unfold execDmDescriptorComplete
  try dsimp only
  (repeat' split) <;> (try simp (maxDischargeDepth := 9)) <;> (repeat (refine shown_of_pair (by assumption) ?_; simp (maxDischargeDepth := 9)))

theorem execDmResume_now (t : Nat) (k : Nat) (s : State) (s0 : State)     : shown (one .now) (after (execDmResume t k s) s0) = shown (one .now) (tick t s) := by
  unfold execDmResume
  simp only
  split
  · have e := takeResume_shown (kp := one .now) k (· != 1) (tick t s) (by simp [])
    split <;> rename_i heq <;> simp [heq] at e <;> (try split) <;> simp (maxDischargeDepth := 9) [e]
  · simp []

theorem execDmAbandon_now (t : Nat) (k : Nat) (s : State) (s0 : State)     : shown (one .now) (after (execDmAbandon t k s) s0) = shown (one .now) (tick t s) := by
  unfold execDmAbandon
  have e := takeResume_shown (kp := one .now) k (· == 1) (tick t s) (by simp [])
  split <;> rename_i heq <;> simp [heq] at e <;> simp (maxDischargeDepth := 9) [e]

@[simp] theorem execDrmSnapNow_now (t : Nat) (n : Nat) (s : State) (s0 : State)     : shown (one .now) (after (execDrmSnapNow t n s) s0) = shown (one .now) (tick t s) := by
  simp (maxDischargeDepth := 9) [execDrmSnapNow]

theorem execDmvSnapNow_now (t : Nat) (n : Nat) (s : State) (s0 : State)     : shown (one .now) (after (execDmvSnapNow t n s) s0) = shown (one .now) (tick t s) := by
  simp (maxDischargeDepth := 9) [execDmvSnapNow]

@[simp] theorem execPthKeyWrite_now (t : Nat) (p : Nat) (v : Word) (s : State) (s0 : State)     : shown (one .now) (after (execPthKeyWrite t p v s) s0) = shown (one .now) (tick t s) := by
  simp (maxDischargeDepth := 9) [execPthKeyWrite]

theorem execPithUnlockTimeout_now (t : Nat) (p : Nat) (s : State) (s0 : State)     : shown (one .now) (after (execPithUnlockTimeout t p s) s0) = shown (one .now) (tick t s) := by
  simp (maxDischargeDepth := 9) [execPithUnlockTimeout]

theorem execPageProgram_now (t : Nat) (p : Nat) (sector : Nat) (page : Nat) (units : List (Nat × List Byte)) (s : State) (s0 : State)     : shown (one .now) (after (execPageProgram t p sector page units s) s0) = shown (one .now) (tick t s) := by
  unfold execPageProgram
  simp only
  have e := portGate_shown (kp := one .now) 0x10 p (tick t s) (by simp [])
  split <;> rename_i heq <;> simp [heq] at e <;> (repeat' split) <;> simp (maxDischargeDepth := 9) [e]

theorem execSectorErase_now (t : Nat) (p : Nat) (sector : Nat) (s : State) (s0 : State)     : shown (one .now) (after (execSectorErase t p sector s) s0) = shown (one .now) (tick t s) := by
  unfold execSectorErase
  simp only
  have e := portGate_shown (kp := one .now) 0x20 p (tick t s) (by simp [])
  split <;> rename_i heq <;> simp [heq] at e <;> (repeat' split) <;> simp (maxDischargeDepth := 9) [e]

theorem execEraseSuspend_now (t : Nat) (p : Nat) (b : Nat) (s : State) (s0 : State)     : shown (one .now) (after (execEraseSuspend t p b s) s0) = shown (one .now) (tick t s) := by
  unfold execEraseSuspend
  simp only
  have e := portGate_shown (kp := one .now) 0x21 p (tick t s) (by simp [])
  split <;> rename_i heq <;> simp [heq] at e <;> (repeat' split) <;> simp (maxDischargeDepth := 9) [e]

theorem execEraseResume_now (t : Nat) (p : Nat) (b : Nat) (s : State) (s0 : State)     : shown (one .now) (after (execEraseResume t p b s) s0) = shown (one .now) (tick t s) := by
  unfold execEraseResume
  simp only
  have e := portGate_shown (kp := one .now) 0x22 p (tick t s) (by simp [])
  split <;> rename_i heq <;> simp [heq] at e <;> (repeat' split) <;> simp (maxDischargeDepth := 9) [e]

theorem execBlankCheck_now (t : Nat) (p : Nat) (sector : Nat) (s : State) (s0 : State)     : shown (one .now) (after (execBlankCheck t p sector s) s0) = shown (one .now) (tick t s) := by
  unfold execBlankCheck
  simp only
  have e := portGate_shown (kp := one .now) 0x30 p (tick t s) (by simp [])
  split <;> rename_i heq <;> simp [heq] at e <;> (repeat' split) <;> simp (maxDischargeDepth := 9) [e]

@[simp] theorem execParamPut_now (t : Nat) (p : Nat) (typ : Nat) (ix : Nat) (data : List Byte) (s : State) (s0 : State)     : shown (one .now) (after (execParamPut t p typ ix data s) s0) = shown (one .now) (tick t s) := by
  unfold execParamPut
  simp only
  have e := portGate_shown (kp := one .now) 0x40 p (tick t s) (by simp [])
  split <;> rename_i heq <;> simp [heq] at e <;> (repeat' split) <;> simp (maxDischargeDepth := 9) [e]

@[simp] theorem execParamDelete_now (t : Nat) (p : Nat) (typ : Nat) (ix : Nat) (s : State) (s0 : State)     : shown (one .now) (after (execParamDelete t p typ ix s) s0) = shown (one .now) (tick t s) := by
  unfold execParamDelete
  simp only
  have e := portGate_shown (kp := one .now) 0x41 p (tick t s) (by simp [])
  split <;> rename_i heq <;> simp [heq] at e <;> (repeat' split) <;> simp (maxDischargeDepth := 9) [e]

@[simp] theorem execParamGet_now (t : Nat) (p : Nat) (typ : Nat) (ix : Nat) (s : State) (s0 : State)     : shown (one .now) (after (execParamGet t p typ ix s) s0) = shown (one .now) (tick t s) := by
  unfold execParamGet
  simp only
  have e := portGate_shown (kp := one .now) 0x42 p (tick t s) (by simp [])
  split <;> rename_i heq <;> simp [heq] at e <;> (repeat' split) <;> simp (maxDischargeDepth := 9) [e]

theorem execPithEraseComplete_now (t : Nat) (b : Nat) (clean : Bool) (s : State) (s0 : State)     : shown (one .now) (after (execPithEraseComplete t b clean s) s0) = shown (one .now) (tick t s) := by
  simp (maxDischargeDepth := 9) [execPithEraseComplete]
  (repeat' split) <;> simp_all (maxDischargeDepth := 9)

theorem execPithProgramComplete_now (t : Nat) (b : Nat) (ok : Bool) (s : State) (s0 : State)     : shown (one .now) (after (execPithProgramComplete t b ok s) s0) = shown (one .now) (tick t s) := by
  simp (maxDischargeDepth := 9) [execPithProgramComplete]
  (repeat' split) <;> simp_all (maxDischargeDepth := 9)

theorem execJournalProgram_now (t : Nat) (s : State) (s0 : State)     : shown (one .now) (after (execJournalProgram t s) s0) = shown (one .now) (tick t s) := by
  simp (maxDischargeDepth := 9) [execJournalProgram]
  (repeat' split) <;> simp_all (maxDischargeDepth := 9)

theorem execNewEpoch_now (t : Nat) (s : State) (s0 : State)     : shown (one .now) (after (execNewEpoch t s) s0) = shown (one .now) (tick t s) := by
  simp (maxDischargeDepth := 9) [execNewEpoch]

@[simp] theorem execPthSnapNow_now (t : Nat) (s : State) (s0 : State)     : shown (one .now) (after (execPthSnapNow t s) s0) = shown (one .now) (tick t s) := by
  simp (maxDischargeDepth := 9) [execPthSnapNow]

theorem execGovernorDecision_now (t : Nat) (busy : List (Nat × Nat)) (s : State) (s0 : State)     : shown (one .now) (after (execGovernorDecision t busy s) s0) = shown (one .now) (tick t s) := by
  simp (maxDischargeDepth := 9) [execGovernorDecision]

theorem execVregSettled_now (t : Nat) (s : State) (s0 : State)     : shown (one .now) (after (execVregSettled t s) s0) = shown (one .now) (tick t s) := by
  simp (maxDischargeDepth := 9) [execVregSettled]

theorem execVregSettleTimeout_now (t : Nat) (s : State) (s0 : State)     : shown (one .now) (after (execVregSettleTimeout t s) s0) = shown (one .now) (tick t s) := by
  simp (maxDischargeDepth := 9) [execVregSettleTimeout]

theorem execSegmentSleepEntry_now (t : Nat) (n : Nat) (s : State) (s0 : State)     : shown (one .now) (after (execSegmentSleepEntry t n s) s0) = shown (one .now) (tick t s) := by
  simp (maxDischargeDepth := 9) [execSegmentSleepEntry]

theorem execRindSleepEntry_now (t : Nat) (s : State) (s0 : State)     : shown (one .now) (after (execRindSleepEntry t s) s0) = shown (one .now) (tick t s) := by
  simp (maxDischargeDepth := 9) [execRindSleepEntry]

theorem execDomainWake_now (t : Nat) (d : Nat) (s : State) (s0 : State)     : shown (one .now) (after (execDomainWake t d s) s0) = shown (one .now) (tick t s) := by
  simp (maxDischargeDepth := 9) [execDomainWake]

theorem execWakeComplete_now (t : Nat) (d : Nat) (s : State) (s0 : State)     : shown (one .now) (after (execWakeComplete t d s) s0) = shown (one .now) (tick t s) := by
  simp (maxDischargeDepth := 9) [execWakeComplete]

theorem execTempSample_now (t : Nat) (reads : List Nat) (s : State) (s0 : State)     : shown (one .now) (after (execTempSample t reads s) s0) = shown (one .now) (tick t s) := by
  simp (maxDischargeDepth := 9) [execTempSample]

theorem execThrottleStep_now (t : Nat) (n : Nat) (s : State) (s0 : State)     : shown (one .now) (after (execThrottleStep t n s) s0) = shown (one .now) (tick t s) := by
  simp (maxDischargeDepth := 9) [execThrottleStep]
  (repeat' split) <;> simp_all (maxDischargeDepth := 9)

theorem execThermalShedBegin_now (t : Nat) (s : State) (s0 : State)     : shown (one .now) (after (execThermalShedBegin t s) s0) = shown (one .now) (tick t s) := by
  simp (maxDischargeDepth := 9) [execThermalShedBegin]

theorem execThermalShedEnd_now (t : Nat) (s : State) (s0 : State)     : shown (one .now) (after (execThermalShedEnd t s) s0) = shown (one .now) (tick t s) := by
  simp (maxDischargeDepth := 9) [execThermalShedEnd]
  (repeat' split) <;> simp_all (maxDischargeDepth := 9)

@[simp] theorem execPwmSnapNow_now (t : Nat) (s : State) (s0 : State)     : shown (one .now) (after (execPwmSnapNow t s) s0) = shown (one .now) (tick t s) := by
  simp (maxDischargeDepth := 9) [execPwmSnapNow]

theorem execLcsPrepare_now (t : Nat) (s : State) (s0 : State)     : shown (one .now) (after (execLcsPrepare t s) s0) = shown (one .now) (tick t s) := by
  simp (maxDischargeDepth := 9) [execLcsPrepare]

theorem execLcsProvision_now (t : Nat) (s : State) (s0 : State)     : shown (one .now) (after (execLcsProvision t s) s0) = shown (one .now) (tick t s) := by
  simp (maxDischargeDepth := 9) [execLcsProvision]

theorem execLcsSeal_now (t : Nat) (s : State) (s0 : State)     : shown (one .now) (after (execLcsSeal t s) s0) = shown (one .now) (tick t s) := by
  simp (maxDischargeDepth := 9) [execLcsSeal]

theorem execLcsVaultEnter_now (t : Nat) (s : State) (s0 : State)     : shown (one .now) (after (execLcsVaultEnter t s) s0) = shown (one .now) (tick t s) := by
  simp (maxDischargeDepth := 9) [execLcsVaultEnter]

theorem execLcsReturn_now (t : Nat) (s : State) (s0 : State)     : shown (one .now) (after (execLcsReturn t s) s0) = shown (one .now) (tick t s) := by
  simp (maxDischargeDepth := 9) [execLcsReturn]

theorem execLcsScrap_now (t : Nat) (s : State) (s0 : State)     : shown (one .now) (after (execLcsScrap t s) s0) = shown (one .now) (tick t s) := by
  simp (maxDischargeDepth := 9) [execLcsScrap]

theorem execLcsChallenge_now (t : Nat) (s : State) (s0 : State)     : shown (one .now) (after (execLcsChallenge t s) s0) = shown (one .now) (tick t s) := by
  simp (maxDischargeDepth := 9) [execLcsChallenge]

theorem execLcsSnapNow_now (t : Nat) (s : State) (s0 : State)     : shown (one .now) (after (execLcsSnapNow t s) s0) = shown (one .now) (tick t s) := by
  simp (maxDischargeDepth := 9) [execLcsSnapNow]

theorem execJtagExtest_now (t : Nat) (cap : Nat) (shift : Nat) (s : State) (s0 : State)     : shown (one .now) (after (execJtagExtest t cap shift s) s0) = shown (one .now) (tick t s) := by
  simp (maxDischargeDepth := 9) [execJtagExtest]

theorem execJtagSamplePreload_now (t : Nat) (cap : Nat) (shift : Nat) (s : State) (s0 : State)     : shown (one .now) (after (execJtagSamplePreload t cap shift s) s0) = shown (one .now) (tick t s) := by
  simp (maxDischargeDepth := 9) [execJtagSamplePreload]

theorem execJtagIdcode_now (t : Nat) (s : State) (s0 : State)     : shown (one .now) (after (execJtagIdcode t s) s0) = shown (one .now) (tick t s) := by
  simp (maxDischargeDepth := 9) [execJtagIdcode]

theorem execJtagBypass_now (t : Nat) (s : State) (s0 : State)     : shown (one .now) (after (execJtagBypass t s) s0) = shown (one .now) (tick t s) := by
  simp (maxDischargeDepth := 9) [execJtagBypass]

theorem execDbgStatus_now (t : Nat) (s : State) (s0 : State)     : shown (one .now) (after (execDbgStatus t s) s0) = shown (one .now) (tick t s) := by
  simp (maxDischargeDepth := 9) [execDbgStatus]

theorem execDbgChal_now (t : Nat) (s : State) (s0 : State)     : shown (one .now) (after (execDbgChal t s) s0) = shown (one .now) (tick t s) := by
  simp (maxDischargeDepth := 9) [execDbgChal]

theorem execDbgGrant_now (t : Nat) (v : Word) (s : State) (s0 : State)     : shown (one .now) (after (execDbgGrant t v s) s0) = shown (one .now) (tick t s) := by
  unfold execDbgGrant
  rw [after_next]
  refine (jtagDebug_now _ _ _ _ (fun s => ?_)).trans rfl
  refine onDbg_shown _ _ (by simp []) (.inr fun x => ?_)
  split <;> rfl

theorem execDbgOpen_now (t : Nat) (v : Nat) (s : State) (s0 : State)     : shown (one .now) (after (execDbgOpen t v s) s0) = shown (one .now) (tick t s) := by
  simp (maxDischargeDepth := 9) [execDbgOpen]

theorem execDbgClose_now (t : Nat) (s : State) (s0 : State)     : shown (one .now) (after (execDbgClose t s) s0) = shown (one .now) (tick t s) := by
  simp (maxDischargeDepth := 9) [execDbgClose]

theorem execTapReset_now (t : Nat) (s : State) (s0 : State)     : shown (one .now) (after (execTapReset t s) s0) = shown (one .now) (tick t s) := by
  simp (maxDischargeDepth := 9) [execTapReset]

theorem execDapRead_now (t : Nat) (who : Nat) (addr : Nat) (s : State) (s0 : State)     : shown (one .now) (after (execDapRead t who addr s) s0) = shown (one .now) (tick t s) := by
  have h2 : ∀ a (s : State), shown (one .now) (match bar2Read a s with
        | (some v, s) => dapEnd .done v s
        | (none, s) => dapEnd .busError 0xFFFFFFFF s) = shown (one .now) s := by
    intro a s
    have e := bar2Read_shown (kp := one .now) a s (by simp [])
    split <;> rename_i heq <;> simp [heq] at e <;> simp [e]
  unfold execDapRead
  rw [after_next]
  refine (dap_now _ _ _ _ _ _ (fun s => ?_)).trans rfl
  split
  · split
    · simp []
    · exact h2 _ _
  · split <;> simp (maxDischargeDepth := 9) []

theorem execDapHalt_now (t : Nat) (who : Nat) (s : State) (s0 : State)     : shown (one .now) (after (execDapHalt t who s) s0) = shown (one .now) (tick t s) := by
  simp (maxDischargeDepth := 9) [execDapHalt]

theorem execDapResume_now (t : Nat) (who : Nat) (s : State) (s0 : State)     : shown (one .now) (after (execDapResume t who s) s0) = shown (one .now) (tick t s) := by
  simp (maxDischargeDepth := 9) [execDapResume]

theorem execDapSingleStep_now (t : Nat) (who : Nat) (way : Issue) (s : State) (s0 : State)     : shown (one .now) (after (execDapSingleStep t who way s) s0) = shown (one .now) (tick t s) := by
  simp (maxDischargeDepth := 9) [execDapSingleStep]

theorem execDapSetSstep_now (t : Nat) (who : Nat) (s : State) (s0 : State)     : shown (one .now) (after (execDapSetSstep t who s) s0) = shown (one .now) (tick t s) := by
  simp (maxDischargeDepth := 9) [execDapSetSstep]

theorem execDapClearSstep_now (t : Nat) (who : Nat) (s : State) (s0 : State)     : shown (one .now) (after (execDapClearSstep t who s) s0) = shown (one .now) (tick t s) := by
  simp (maxDischargeDepth := 9) [execDapClearSstep]

theorem execSmbStatusByte_now (t : Nat) (s : State) (s0 : State)     : shown (one .now) (after (execSmbStatusByte t s) s0) = shown (one .now) (tick t s) := by
  simp (maxDischargeDepth := 9) [execSmbStatusByte]

theorem execSmbModes_now (t : Nat) (s : State) (s0 : State)     : shown (one .now) (after (execSmbModes t s) s0) = shown (one .now) (tick t s) := by
  simp (maxDischargeDepth := 9) [execSmbModes]

theorem execSmbCrit_now (t : Nat) (s : State) (s0 : State)     : shown (one .now) (after (execSmbCrit t s) s0) = shown (one .now) (tick t s) := by
  simp (maxDischargeDepth := 9) [execSmbCrit]

theorem execSmbSensorTemp_now (t : Nat) (n : Nat) (s : State) (s0 : State)     : shown (one .now) (after (execSmbSensorTemp t n s) s0) = shown (one .now) (tick t s) := by
  simp (maxDischargeDepth := 9) [execSmbSensorTemp]

theorem execSmbTempNow_now (t : Nat) (s : State) (s0 : State)     : shown (one .now) (after (execSmbTempNow t s) s0) = shown (one .now) (tick t s) := by
  simp (maxDischargeDepth := 9) [execSmbTempNow]

theorem execSmbHealthBlock_now (t : Nat) (s : State) (s0 : State)     : shown (one .now) (after (execSmbHealthBlock t s) s0) = shown (one .now) (tick t s) := by
  simp (maxDischargeDepth := 9) [execSmbHealthBlock]

theorem execSmbBraceSummary_now (t : Nat) (s : State) (s0 : State)     : shown (one .now) (after (execSmbBraceSummary t s) s0) = shown (one .now) (tick t s) := by
  simp (maxDischargeDepth := 9) [execSmbBraceSummary]

theorem execSmbSerial_now (t : Nat) (s : State) (s0 : State)     : shown (one .now) (after (execSmbSerial t s) s0) = shown (one .now) (tick t s) := by
  simp (maxDischargeDepth := 9) [execSmbSerial]

theorem execSmbAlertResponse_now (t : Nat) (s : State) (s0 : State)     : shown (one .now) (after (execSmbAlertResponse t s) s0) = shown (one .now) (tick t s) := by
  simp (maxDischargeDepth := 9) [execSmbAlertResponse]

theorem execSmbClockTimeout_now (t : Nat) (s : State) (s0 : State)     : shown (one .now) (after (execSmbClockTimeout t s) s0) = shown (one .now) (tick t s) := by
  simp (maxDischargeDepth := 9) [execSmbClockTimeout]

theorem execPowerLoss_now (t : Nat) (units : List (Nat × Nat)) (torn : Nat) (copies : List (Nat × Nat)) (s : State) (s0 : State)     : shown (one .now) (after (execPowerLoss t units torn copies s) s0) = shown (one .now) (tick t s) := by
  simp (maxDischargeDepth := 9) [execPowerLoss]

theorem execResetNRelease_now (t : Nat) (env : BootEnv) (s : State) (s0 : State)     : shown (one .now) (after (execResetNRelease t env s) s0) = shown (one .now) (tick t s) := by
  simp (maxDischargeDepth := 9) [execResetNRelease]

theorem execPerstRelease_now (t : Nat) (s : State) (s0 : State)     : shown (one .now) (after (execPerstRelease t s) s0) = shown (one .now) (tick t s) := by
  simp (maxDischargeDepth := 9) [execPerstRelease]

theorem execLinkStateChange_now (t : Nat) (link : Link) (speed : Nat) (width : Nat) (s : State) (s0 : State)     : shown (one .now) (after (execLinkStateChange t link speed width s) s0) = shown (one .now) (tick t s) := by
  simp (maxDischargeDepth := 9) [execLinkStateChange]

theorem execHostReadCompletion_now (t : Nat) (work : Work) (ok : Bool) (data : List Byte) (s : State) (s0 : State)     : shown (one .now) (after (execHostReadCompletion t work ok data s) s0) = shown (one .now) (tick t s) := by
  unfold execHostReadCompletion
  (repeat' split) <;> simp_all (maxDischargeDepth := 9)

theorem execFlitCrcError_now (t : Nat) (s : State) (s0 : State)     : shown (one .now) (after (execFlitCrcError t s) s0) = shown (one .now) (tick t s) := by
  simp (maxDischargeDepth := 9) [execFlitCrcError]

theorem execExitWaitStart_now (t : Nat) (vsys : Nat) (vhu : Nat) (warnN : Bool) (huOk : Bool) (s : State) (s0 : State)     : shown (one .now) (after (execExitWaitStart t vsys vhu warnN huOk s) s0) = shown (one .now) (tick t s) := by
  simp (maxDischargeDepth := 9) [execExitWaitStart]

theorem execWindowOpen_now (t : Nat) (d : Nat) (s : State) (s0 : State)     : shown (one .now) (after (execWindowOpen t d s) s0) = shown (one .now) (tick t s) := by
  simp (maxDischargeDepth := 9) [execWindowOpen]
  (repeat' split) <;> simp_all (maxDischargeDepth := 9)

theorem execVppPithRangeChange_now (t : Nat) (ok : Bool) (s : State) (s0 : State)     : shown (one .now) (after (execVppPithRangeChange t ok s) s0) = shown (one .now) (tick t s) := by
  simp (maxDischargeDepth := 9) [execVppPithRangeChange]

theorem execMonitorOscillatorCheck_now (t : Nat) (ppm : Nat) (s : State) (s0 : State)     : shown (one .now) (after (execMonitorOscillatorCheck t ppm s) s0) = shown (one .now) (tick t s) := by
  simp (maxDischargeDepth := 9) [execMonitorOscillatorCheck]

@[simp] theorem pwmWrite_now (a : Nat) (v : Word) (be : Nat) (s : State) : shown (one .now) (pwmWrite a v be s) = shown (one .now) s := by
  unfold pwmWrite; (repeat' split) <;> simp_all (maxDischargeDepth := 9)

@[simp] theorem cadWrite_now (a : Nat) (v : Word) (be : Nat) (s : State) : shown (one .now) (cadWrite a v be s) = shown (one .now) s := by
  unfold cadWrite; simp only; (repeat' split) <;> simp_all (maxDischargeDepth := 9)

@[simp] theorem brcWrite_now (a : Nat) (v : Word) (be : Nat) (s : State) : shown (one .now) (brcWrite a v be s) = shown (one .now) s := by
  unfold brcWrite; simp only; (repeat' split) <;> simp_all (maxDischargeDepth := 9)

@[simp] theorem pthCommand_now (v : Word) (s : State) : shown (one .now) (pthCommand v s) = shown (one .now) s := by
  unfold pthCommand; simp only; (repeat' split) <;> simp_all (maxDischargeDepth := 9)

@[simp] theorem pthWrite_now (a : Nat) (v : Word) (be : Nat) (s : State) : shown (one .now) (pthWrite a v be s) = shown (one .now) s := by
  unfold pthWrite; simp only; (repeat' split) <;> simp_all (maxDischargeDepth := 9)

@[simp] theorem fnWinWrite_now (a : Nat) (v : Word) (be : Nat) (s : State) : shown (one .now) (fnWinWrite a v be s) = shown (one .now) s := by
  unfold fnWinWrite; dsimp only; (repeat' split) <;> simp (maxDischargeDepth := 9)

@[simp] theorem rindWrite_now (a : Nat) (v : Word) (be : Nat) (s : State) : shown (one .now) (rindWrite a v be s) = shown (one .now) s := by
  unfold rindWrite; dsimp only
  have h2 : ∀ (c : Prop) [Decidable c] (f : CmdSt → CmdSt) (u : State), shown (one .now) (if c then onCmd f u else u) = shown (one .now) u := by
    intro c _ f u; split <;> simp
  (repeat' split) <;> simp (maxDischargeDepth := 9) [h2]

@[simp] theorem bar2Write_now (a : Nat) (v : Word) (be : Nat) (s : State) : shown (one .now) (bar2Write a v be s) = shown (one .now) s := by
  unfold bar2Write; (repeat' split) <;> simp (maxDischargeDepth := 9)

@[simp] theorem ringCommand_now (f : Nat) (v : Word) (s : State) : shown (one .now) (ringCommand f v s) = shown (one .now) s := by
  unfold ringCommand; simp only; (repeat' split) <;> simp_all (maxDischargeDepth := 9)

@[simp] theorem fnWrite_now (f a : Nat) (v : Word) (be : Nat) (s : State) : shown (one .now) (fnWrite f a v be s) = shown (one .now) s := by
  unfold fnWrite; dsimp only; (repeat' split) <;> simp (maxDischargeDepth := 9)

@[simp] theorem bar0Write_now (f o : Nat) (v : Word) (be : Nat) (s : State) : shown (one .now) (bar0Write f o v be s) = shown (one .now) s := by
  unfold bar0Write; (repeat' split) <;> simp_all (maxDischargeDepth := 9)

@[simp] theorem regWrite_now (a : Nat) (v : Word) (be : Nat) (s : State) : shown (one .now) (regWrite a v be s) = shown (one .now) s := by
  unfold regWrite; split <;> simp

theorem execDapWrite_now (t : Nat) (who : Nat) (addr : Nat) (v : Nat) (s : State) (s0 : State)     : shown (one .now) (after (execDapWrite t who addr v s) s0) = shown (one .now) (tick t s) := by
  unfold execDapWrite
  (repeat' split) <;> simp_all (maxDischargeDepth := 9)

theorem execBlockLock_now (t : Nat) (blk : Nat) (v : Word) (be : Nat) (s : State) (s0 : State)     : shown (one .now) (after (execBlockLock t blk v be s) s0) = shown (one .now) (tick t s) := by
  simp (maxDischargeDepth := 9) [execBlockLock]

theorem execRegisterWrite_now (t : Nat) (a : Nat) (v : Word) (be : Nat) (s : State) (s0 : State)     : shown (one .now) (after (execRegisterWrite t a v be s) s0) = shown (one .now) (tick t s) := by
  simp (maxDischargeDepth := 9) [execRegisterWrite]
end Sys2Proof.Machine
end

