-- ==== Sys2Proof/WellFormed.lean ====
section
/-!
DEFINITION. Well-formed commands: every operand lies in the range that the part's own interface can carry. The smoke test
of each check stands in Tests/Slice0.lean.
-/
namespace Sys2Proof

/-- The instant at which a command happens. -/
def Instr.time : Instr → Nat
  | .powerOn t _ _ _ => t
  | .resetNAssert t => t
  | .bootWatchdog t => t
  | .perstAssert t => t
  | .linkReset t _ => t
  | .configReady t => t
  | .configRequest t => t
  | .replayComplete t _ _ => t
  | .cadInEdge t _ => t
  | .unitFrameBoundary t _ => t
  | .lateWindowExpiry t _ => t
  | .edgesAbsent t => t
  | .holdoverLimit t => t
  | .cadOutPulseEnd t => t
  | .frameExhausted t => t
  | .cadenceRecordDue t => t
  | .ppsCapture t => t
  | .odoPulse t _ => t
  | .incidentEdge t _ _ => t
  | .fenceEnd t _ => t
  | .cadSnapNow t => t
  | .functionEnable t _ _ => t
  | .functionDisable t _ _ => t
  | .quotaWrite t _ _ _ => t
  | .ringCreate t _ _ => t
  | .ringDelete t _ _ _ => t
  | .ringDeleteDone t _ => t
  | .ringQuery t _ _ _ => t
  | .doorbellBaseWrite t _ _ _ _ => t
  | .pipSubmissionTail t _ _ _ => t
  | .pipCompletionHead t _ _ _ => t
  | .sweep t _ => t
  | .descriptorFetch t _ _ => t
  | .ringStoppedNotice t _ _ _ _ => t
  | .noticeWriteHeld t _ => t
  | .coalesceTimer t _ _ => t
  | .functionLevelReset t _ => t
  | .sriovVfChange t _ _ => t
  | .functionResetDone t _ => t
  | .fnSnapNow t _ => t
  | .identify t _ => t
  | .nsCreate t _ => t
  | .nsDelete t _ => t
  | .streamCreate t _ => t
  | .streamDelete t _ => t
  | .streamQuery t _ => t
  | .getLog t _ => t
  | .abortCmd t _ => t
  | .fenceRelease t _ => t
  | .progLoad t _ _ => t
  | .progUnload t _ => t
  | .fwDownload t _ _ => t
  | .fwCommitWrite t _ => t
  | .fwCommitActivate t _ => t
  | .depotBegin t _ => t
  | .depotStop t _ => t
  | .depotWindowEnd t => t
  | .diagRead t _ _ => t
  | .sealRec t _ => t
  | .sealServiceStart t _ => t
  | .sealFold t _ _ _ _ => t
  | .recallTime t _ _ => t
  | .recallRecord t _ _ => t
  | .recallRange t _ => t
  | .writeBlocks t _ _ _ => t
  | .readBlocks t _ => t
  | .deallocate t _ => t
  | .lockRange t _ => t
  | .releaseRange t _ => t
  | .exportRange t _ => t
  | .progRun t _ => t
  | .maintPatrol t _ => t
  | .maintCompact t _ => t
  | .maintVerify t _ => t
  | .nvmeDeleteIoSq t _ => t
  | .nvmeCreateIoSq t _ => t
  | .nvmeGetLogPage t _ => t
  | .nvmeDeleteIoCq t _ => t
  | .nvmeCreateIoCq t _ => t
  | .nvmeIdentify t _ => t
  | .nvmeAbort t _ => t
  | .nvmeSetFeatures t _ => t
  | .nvmeGetFeatures t _ => t
  | .nvmeAsyncEventRequest t _ => t
  | .nvmeFirmwareCommit t _ => t
  | .nvmeFwImageDownload t _ _ => t
  | .nvmeFlush t _ _ => t
  | .nvmeWrite t _ _ _ _ => t
  | .nvmeRead t _ _ => t
  | .nvmeDatasetManagement t _ _ _ => t
  | .classSFetchStall t _ _ => t
  | .clsSnapNow t _ => t
  | .holdExpiry t => t
  | .retentionNoticeDue t => t
  | .idxSnapNow t _ => t
  | .zestCompressJob t _ => t
  | .zestDecompressJob t _ => t
  | .zestJobComplete t _ _ _ => t
  | .zstSnapNow t _ => t
  | .stoneDrain t _ _ _ => t
  | .recordDrainComplete t _ => t
  | .partialUnitTimeout t _ => t
  | .slcMove t _ _ => t
  | .mapCheckpoint t _ => t
  | .garbageCollection t _ _ => t
  | .wearMove t _ _ => t
  | .patrolPassEnd t _ _ => t
  | .retentionRefresh t _ => t
  | .ageRefresh t _ => t
  | .maintTokenHandoff t _ => t
  | .medSnapNow t _ => t
  | .channelRetrain t _ => t
  | .windowDecision t _ _ => t
  | .windowClose t _ => t
  | .protectedStretchEnd t _ => t
  | .eraseIssue t _ _ => t
  | .nandEraseComplete t _ _ _ => t
  | .nandProgramComplete t _ _ _ => t
  | .nandReadComplete t _ _ _ _ _ _ => t
  | .nandOpTimeout t _ => t
  | .flwSnapNow t _ => t
  | .detectorHoldoffEnd t _ => t
  | .injectionArm t _ _ => t
  | .injectionDisarm t _ _ => t
  | .bypassOpen t _ _ => t
  | .bypassWindowEnd t => t
  | .intSnapNow t => t
  | .sramScrub t _ => t
  | .healthSave t => t
  | .fabricTimeout t _ _ _ => t
  | .heartbeatMiss t _ => t
  | .hostReadTimeout t _ => t
  | .powerWarning t _ _ _ _ => t
  | .braceFlushComplete t _ _ _ _ _ _ => t
  | .exitWaitRestart t _ _ _ _ => t
  | .braceExit t => t
  | .brcSnapNow t => t
  | .cryptoInit t _ => t
  | .cryptoUpdate t _ => t
  | .cryptoFinal t _ => t
  | .cryptoFree t _ => t
  | .cryptoOneshot t _ => t
  | .cryptoChainCheck t _ => t
  | .cryptoRandom t _ => t
  | .gcmHoldGrant t _ => t
  | .cryptoJobComplete t _ _ _ _ _ _ => t
  | .tamperAlarm t _ => t
  | .keyRederive t => t
  | .rngHealthFail t => t
  | .rngRecovered t => t
  | .drbgReseed t => t
  | .exportKeySet t _ => t
  | .exportKeyClear t _ => t
  | .cryCtrlWrite t _ _ => t
  | .crySnapNow t => t
  | .spdmGetVersion t _ => t
  | .spdmGetCapabilities t _ => t
  | .spdmNegotiateAlgorithms t _ => t
  | .spdmGetDigests t _ => t
  | .spdmGetCertificate t _ => t
  | .spdmChallenge t _ => t
  | .spdmGetMeasurements t _ => t
  | .bundleIssue t _ _ => t
  | .repPass t _ _ => t
  | .budgetException t _ => t
  | .eventException t _ => t
  | .coreClockGate t _ => t
  | .getDeliver t _ => t
  | .dispatcherPost t _ => t
  | .dispatcherDone t _ => t
  | .runExit t _ => t
  | .delayRelease t _ => t
  | .runStart t _ _ _ _ => t
  | .dspfHwWrite t _ _ _ _ => t
  | .dspSnapNow t _ => t
  | .dramZeroFill t _ => t
  | .dramZqCalibration t _ => t
  | .dramRecentre t _ _ => t
  | .dramRefresh t _ _ => t
  | .dramRfm t _ _ => t
  | .neighbourRefresh t _ _ _ _ _ => t
  | .ratWindowClear t _ => t
  | .dmCopy t _ => t
  | .dmHostRead t _ => t
  | .dmHostWrite t _ => t
  | .dmRecordRead t _ => t
  | .dmFill t _ => t
  | .dmDescriptorComplete t _ _ _ _ _ _ => t
  | .dmResume t _ => t
  | .dmAbandon t _ => t
  | .drmSnapNow t _ => t
  | .dmvSnapNow t _ => t
  | .pthKeyWrite t _ _ => t
  | .pithUnlockTimeout t _ => t
  | .pageProgram t _ _ _ _ => t
  | .sectorErase t _ _ => t
  | .eraseSuspend t _ _ => t
  | .eraseResume t _ _ => t
  | .blankCheck t _ _ => t
  | .paramPut t _ _ _ _ => t
  | .paramDelete t _ _ _ => t
  | .paramGet t _ _ _ => t
  | .pithEraseComplete t _ _ => t
  | .pithProgramComplete t _ _ => t
  | .journalProgram t => t
  | .newEpoch t => t
  | .pthSnapNow t => t
  | .governorDecision t _ => t
  | .vregSettled t => t
  | .vregSettleTimeout t => t
  | .segmentSleepEntry t _ => t
  | .rindSleepEntry t => t
  | .domainWake t _ => t
  | .wakeComplete t _ => t
  | .tempSample t _ => t
  | .throttleStep t _ => t
  | .thermalShedBegin t => t
  | .thermalShedEnd t => t
  | .pwmSnapNow t => t
  | .lcsPrepare t => t
  | .lcsProvision t => t
  | .lcsSeal t => t
  | .lcsVaultEnter t => t
  | .lcsReturn t => t
  | .lcsScrap t => t
  | .lcsChallenge t => t
  | .lcsSnapNow t => t
  | .jtagExtest t _ _ => t
  | .jtagSamplePreload t _ _ => t
  | .jtagIdcode t => t
  | .jtagBypass t => t
  | .dbgStatus t => t
  | .dbgChal t => t
  | .dbgGrant t _ => t
  | .dbgOpen t _ => t
  | .dbgClose t => t
  | .tapReset t => t
  | .dapRead t _ _ => t
  | .dapWrite t _ _ _ => t
  | .dapHalt t _ => t
  | .dapResume t _ => t
  | .dapSingleStep t _ _ => t
  | .dapSetSstep t _ => t
  | .dapClearSstep t _ => t
  | .smbStatusByte t => t
  | .smbModes t => t
  | .smbCrit t => t
  | .smbSensorTemp t _ => t
  | .smbTempNow t => t
  | .smbHealthBlock t => t
  | .smbBraceSummary t => t
  | .smbSerial t => t
  | .smbAlertResponse t => t
  | .smbClockTimeout t => t
  | .blockLock t _ _ _ => t
  | .registerWrite t _ _ _ => t
  | .powerLoss t _ _ _ => t
  | .resetNRelease t _ => t
  | .perstRelease t => t
  | .linkStateChange t _ _ _ => t
  | .hostReadCompletion t _ _ _ => t
  | .flitCrcError t => t
  | .exitWaitStart t _ _ _ _ => t
  | .windowOpen t _ => t
  | .vppPithRangeChange t _ => t
  | .monitorOscillatorCheck t _ => t

/-- The operands beside the instant lie in their ranges. -/
def Instr.operandsOk : Instr → Bool
  | .powerOn _ _ _ _ => true
  | .resetNAssert _ => true
  | .bootWatchdog _ => true
  | .perstAssert _ => true
  | .linkReset _ _ => true
  | .configReady _ => true
  | .configRequest _ => true
  | .replayComplete _ _ _ => true
  | .cadInEdge _ finds => finds.all fun x => decide (x.1 < 4)
  | .unitFrameBoundary _ finds => finds.all fun x => decide (x.1 < 4)
  | .lateWindowExpiry _ finds => finds.all fun x => decide (x.1 < 4)
  | .edgesAbsent _ => true
  | .holdoverLimit _ => true
  | .cadOutPulseEnd _ => true
  | .frameExhausted _ => true
  | .cadenceRecordDue _ => true
  | .ppsCapture _ => true
  | .odoPulse _ _ => true
  | .incidentEdge _ n _ => decide (n < 2)
  | .fenceEnd _ slot => decide (slot < 17)
  | .cadSnapNow _ => true
  | .functionEnable _ f ctl => decide (f < 256) && decide (ctl < 256)
  | .functionDisable _ f ctl => decide (f < 256) && decide (ctl < 256)
  | .quotaWrite _ f _ _ => decide (f < 256)
  | .ringCreate _ f i => decide (f < 256) && decide (i < 4096)
  | .ringDelete _ f _ i => decide (f < 256) && decide (i < 4096)
  | .ringDeleteDone _ f => decide (f < 256)
  | .ringQuery _ f _ i => decide (f < 256) && decide (i < 4096)
  | .doorbellBaseWrite _ f _ _ be => decide (f < 256) && decide (be < 16)
  | .pipSubmissionTail _ f _ be => decide (f < 256) && decide (be < 16)
  | .pipCompletionHead _ f _ be => decide (f < 256) && decide (be < 16)
  | .sweep _ _ => true
  | .descriptorFetch _ _ _ => true
  | .ringStoppedNotice _ f _ i _ => decide (f < 256) && decide (i < 4096)
  | .noticeWriteHeld _ f => decide (f < 256)
  | .coalesceTimer _ f i => decide (f < 256) && decide (i < 4096)
  | .functionLevelReset _ f => decide (f < 256)
  | .sriovVfChange _ _ num => decide (num < 256)
  | .functionResetDone _ f => decide (f < 256)
  | .fnSnapNow _ f => decide (f < 256)
  | .identify _ _ => true
  | .nsCreate _ _ => true
  | .nsDelete _ _ => true
  | .streamCreate _ _ => true
  | .streamDelete _ _ => true
  | .streamQuery _ _ => true
  | .getLog _ _ => true
  | .abortCmd _ _ => true
  | .fenceRelease _ _ => true
  | .progLoad _ _ _ => true
  | .progUnload _ _ => true
  | .fwDownload _ _ _ => true
  | .fwCommitWrite _ _ => true
  | .fwCommitActivate _ _ => true
  | .depotBegin _ _ => true
  | .depotStop _ _ => true
  | .depotWindowEnd _ => true
  | .diagRead _ _ _ => true
  | .sealRec _ _ => true
  | .sealServiceStart _ k => decide (k < 8192)
  | .sealFold _ _ _ _ _ => true
  | .recallTime _ _ _ => true
  | .recallRecord _ _ _ => true
  | .recallRange _ _ => true
  | .writeBlocks _ _ _ _ => true
  | .readBlocks _ _ => true
  | .deallocate _ _ => true
  | .lockRange _ _ => true
  | .releaseRange _ _ => true
  | .exportRange _ _ => true
  | .progRun _ _ => true
  | .maintPatrol _ _ => true
  | .maintCompact _ _ => true
  | .maintVerify _ _ => true
  | .nvmeDeleteIoSq _ _ => true
  | .nvmeCreateIoSq _ _ => true
  | .nvmeGetLogPage _ _ => true
  | .nvmeDeleteIoCq _ _ => true
  | .nvmeCreateIoCq _ _ => true
  | .nvmeIdentify _ _ => true
  | .nvmeAbort _ _ => true
  | .nvmeSetFeatures _ _ => true
  | .nvmeGetFeatures _ _ => true
  | .nvmeAsyncEventRequest _ _ => true
  | .nvmeFirmwareCommit _ _ => true
  | .nvmeFwImageDownload _ _ _ => true
  | .nvmeFlush _ _ _ => true
  | .nvmeWrite _ _ _ _ _ => true
  | .nvmeRead _ _ _ => true
  | .nvmeDatasetManagement _ _ _ _ => true
  | .classSFetchStall _ f i => decide (f < 256) && decide (i < 4096)
  | .clsSnapNow _ n => decide (n < 4)
  | .holdExpiry _ => true
  | .retentionNoticeDue _ => true
  | .idxSnapNow _ n => decide (n < 4)
  | .zestCompressJob _ k => decide (k < 17)
  | .zestDecompressJob _ k => decide (k < 17)
  | .zestJobComplete _ seg _ _ => decide (seg < 4)
  | .zstSnapNow _ n => decide (n < 4)
  | .stoneDrain _ seg _ _ => decide (seg < 4)
  | .recordDrainComplete _ seg => decide (seg < 4)
  | .partialUnitTimeout _ k => decide (k < 8192)
  | .slcMove _ seg _ => decide (seg < 4)
  | .mapCheckpoint _ seg => decide (seg < 4)
  | .garbageCollection _ seg _ => decide (seg < 4)
  | .wearMove _ seg _ => decide (seg < 4)
  | .patrolPassEnd _ seg _ => decide (seg < 4)
  | .retentionRefresh _ k => decide (k < 2 ^ 26)
  | .ageRefresh _ k => decide (k < 2 ^ 26)
  | .maintTokenHandoff _ _ => true
  | .medSnapNow _ n => decide (n < 4)
  | .channelRetrain _ c => decide (c < 32)
  | .windowDecision _ d _ => decide (d < 512)
  | .windowClose _ d => decide (d < 512)
  | .protectedStretchEnd _ d => decide (d < 512)
  | .eraseIssue _ d _ => decide (d < 512)
  | .nandEraseComplete _ d _ _ => decide (d < 512)
  | .nandProgramComplete _ d _ _ => decide (d < 512)
  | .nandReadComplete _ d _ _ best l _ => decide (d < 512) && decide (1 ≤ best) && decide (best ≤ 6) && l.all fun c => decide (c.cw < 16) && decide (c.tries.length ≤ 9)
  | .nandOpTimeout _ d => decide (d < 512)
  | .flwSnapNow _ n => decide (n < 4)
  | .detectorHoldoffEnd _ k => decide (k < 64)
  | .injectionArm _ _ be => decide (be < 16)
  | .injectionDisarm _ _ be => decide (be < 16)
  | .bypassOpen _ _ be => decide (be < 16)
  | .bypassWindowEnd _ => true
  | .intSnapNow _ => true
  | .sramScrub _ _ => true
  | .healthSave _ => true
  | .fabricTimeout _ _ _ _ => true
  | .heartbeatMiss _ k => decide (k < 17)
  | .hostReadTimeout _ _ => true
  | .powerWarning _ _ _ _ _ => true
  | .braceFlushComplete _ _ _ _ _ _ _ => true
  | .exitWaitRestart _ _ _ _ _ => true
  | .braceExit _ => true
  | .brcSnapNow _ => true
  | .cryptoInit _ k => decide (k < 17)
  | .cryptoUpdate _ k => decide (k < 17)
  | .cryptoFinal _ k => decide (k < 17)
  | .cryptoFree _ k => decide (k < 17)
  | .cryptoOneshot _ k => decide (k < 17)
  | .cryptoChainCheck _ k => decide (k < 17)
  | .cryptoRandom _ k => decide (k < 17)
  | .gcmHoldGrant _ seg => decide (seg < 4)
  | .cryptoJobComplete _ _ _ _ _ _ _ => true
  | .tamperAlarm _ n => decide (n < 4)
  | .keyRederive _ => true
  | .rngHealthFail _ => true
  | .rngRecovered _ => true
  | .drbgReseed _ => true
  | .exportKeySet _ f => decide (f < 256)
  | .exportKeyClear _ f => decide (f < 256)
  | .cryCtrlWrite _ _ be => decide (be < 16)
  | .crySnapNow _ => true
  | .spdmGetVersion _ _ => true
  | .spdmGetCapabilities _ _ => true
  | .spdmNegotiateAlgorithms _ _ => true
  | .spdmGetDigests _ _ => true
  | .spdmGetCertificate _ _ => true
  | .spdmChallenge _ _ => true
  | .spdmGetMeasurements _ _ => true
  | .bundleIssue _ k _ => decide (k < 17)
  | .repPass _ k _ => decide (k < 17)
  | .budgetException _ k => decide (k < 17)
  | .eventException _ k => decide (k < 17)
  | .coreClockGate _ k => decide (k < 16)
  | .getDeliver _ seg => decide (seg < 4)
  | .dispatcherPost _ k => decide (k < 17)
  | .dispatcherDone _ k => decide (k < 17)
  | .runExit _ k => decide (k < 17)
  | .delayRelease _ seg => decide (seg < 4)
  | .runStart _ seg k _ _ => decide (seg < 4) && decide (k < 16)
  | .dspfHwWrite _ f _ _ be => decide (f < 256) && decide (be < 16)
  | .dspSnapNow _ n => decide (n < 4)
  | .dramZeroFill _ n => decide (n < 4)
  | .dramZqCalibration _ n => decide (n < 4)
  | .dramRecentre _ n _ => decide (n < 4)
  | .dramRefresh _ n _ => decide (n < 4)
  | .dramRfm _ n b => decide (n < 4) && decide (b < 128)
  | .neighbourRefresh _ n b _ reqs _ => decide (n < 4) && decide (b < 128) && reqs.all fun r => decide (r.port < 7)
  | .ratWindowClear _ n => decide (n < 4)
  | .dmCopy _ k => decide (k < 17)
  | .dmHostRead _ k => decide (k < 17)
  | .dmHostWrite _ k => decide (k < 17)
  | .dmRecordRead _ k => decide (k < 17)
  | .dmFill _ k => decide (k < 17)
  | .dmDescriptorComplete _ seg _ _ _ _ _ => decide (seg < 4)
  | .dmResume _ k => decide (k < 17)
  | .dmAbandon _ k => decide (k < 17)
  | .drmSnapNow _ n => decide (n < 4)
  | .dmvSnapNow _ n => decide (n < 4)
  | .pthKeyWrite _ p _ => decide (p < 4)
  | .pithUnlockTimeout _ p => decide (p < 4)
  | .pageProgram _ p _ _ _ => decide (p < 4)
  | .sectorErase _ p _ => decide (p < 4)
  | .eraseSuspend _ p b => decide (p < 4) && decide (b < 8)
  | .eraseResume _ p b => decide (p < 4) && decide (b < 8)
  | .blankCheck _ p _ => decide (p < 4)
  | .paramPut _ p typ ix _ => decide (p < 4) && decide (typ < 256) && decide (ix < 256)
  | .paramDelete _ p typ ix => decide (p < 4) && decide (typ < 256) && decide (ix < 256)
  | .paramGet _ p typ ix => decide (p < 4) && decide (typ < 256) && decide (ix < 256)
  | .pithEraseComplete _ b _ => decide (b < 8)
  | .pithProgramComplete _ b _ => decide (b < 8)
  | .journalProgram _ => true
  | .newEpoch _ => true
  | .pthSnapNow _ => true
  | .governorDecision _ _ => true
  | .vregSettled _ => true
  | .vregSettleTimeout _ => true
  | .segmentSleepEntry _ n => decide (n < 4)
  | .rindSleepEntry _ => true
  | .domainWake _ d => decide (d < 5)
  | .wakeComplete _ d => decide (d < 5)
  | .tempSample _ _ => true
  | .throttleStep _ n => decide (n < 4)
  | .thermalShedBegin _ => true
  | .thermalShedEnd _ => true
  | .pwmSnapNow _ => true
  | .lcsPrepare _ => true
  | .lcsProvision _ => true
  | .lcsSeal _ => true
  | .lcsVaultEnter _ => true
  | .lcsReturn _ => true
  | .lcsScrap _ => true
  | .lcsChallenge _ => true
  | .lcsSnapNow _ => true
  | .jtagExtest _ cap shift => decide (cap < 2 ^ 4380) && decide (shift < 2 ^ 4380)
  | .jtagSamplePreload _ cap shift => decide (cap < 2 ^ 4380) && decide (shift < 2 ^ 4380)
  | .jtagIdcode _ => true
  | .jtagBypass _ => true
  | .dbgStatus _ => true
  | .dbgChal _ => true
  | .dbgGrant _ _ => true
  | .dbgOpen _ v => decide (v < 256)
  | .dbgClose _ => true
  | .tapReset _ => true
  | .dapRead _ who addr => decide (who < 64) && decide (addr < 2 ^ 64)
  | .dapWrite _ who addr v => decide (who < 64) && decide (addr < 2 ^ 64) && decide (v < 2 ^ 64)
  | .dapHalt _ who => decide (who < 64)
  | .dapResume _ who => decide (who < 64)
  | .dapSingleStep _ who _ => decide (who < 64)
  | .dapSetSstep _ who => decide (who < 64)
  | .dapClearSstep _ who => decide (who < 64)
  | .smbStatusByte _ => true
  | .smbModes _ => true
  | .smbCrit _ => true
  | .smbSensorTemp _ n => decide (n < 5)
  | .smbTempNow _ => true
  | .smbHealthBlock _ => true
  | .smbBraceSummary _ => true
  | .smbSerial _ => true
  | .smbAlertResponse _ => true
  | .smbClockTimeout _ => true
  | .blockLock _ blk _ be => decide (1 ≤ blk) && decide (blk ≤ 17) && decide (be < 16)
  | .registerWrite _ a _ be => decide (a % 4 = 0) && decide (a < 0x1000000 * 257) && decide (be < 16)
  | .powerLoss _ _ _ _ => true
  | .resetNRelease _ _ => true
  | .perstRelease _ => true
  | .linkStateChange _ _ speed width => decide (speed ≤ 6) && decide (width ≤ 16)
  | .hostReadCompletion _ _ _ _ => true
  | .flitCrcError _ => true
  | .exitWaitStart _ _ _ _ _ => true
  | .windowOpen _ d => decide (d < 512)
  | .vppPithRangeChange _ _ => true
  | .monitorOscillatorCheck _ _ => true

/-- A command is well formed when its instant fits the 64-bit timebase count and its operands lie in their ranges. -/
def Instr.wf (i : Instr) : Bool := decide (i.time < 2 ^ 64) && i.operandsOk

theorem Instr.time_lt {i : Instr} (h : i.wf = true) : i.time < 2 ^ 64 := by
  have := (Bool.and_eq_true _ _).mp h
  exact of_decide_eq_true this.1

end Sys2Proof
end

