-- ==== Sys2Proof/Laws/PerInstr.lean ====
section
/-!
SUPPORT. A fact about every command as syntax, one lemma for each constructor: the instant a command carries is the one
that `Instr.time` reads (`Timed`).
-/
namespace Sys2Proof.Laws.Timed

/-- The instant at which a well-formed command happens fits the 64-bit timebase count. -/
def Statement (i : Instr) : Prop := i.wf = true → i.time < 2 ^ 64

theorem powerOn (t : Nat) (resetN : Bool) (perstN : Bool) (env : BootEnv) : Statement (.powerOn t resetN perstN env) := by
  intro h; exact Instr.time_lt h

theorem resetNAssert (t : Nat) : Statement (.resetNAssert t) := by
  intro h; exact Instr.time_lt h

theorem bootWatchdog (t : Nat) : Statement (.bootWatchdog t) := by
  intro h; exact Instr.time_lt h

theorem perstAssert (t : Nat) : Statement (.perstAssert t) := by
  intro h; exact Instr.time_lt h

theorem linkReset (t : Nat) (hot : Bool) : Statement (.linkReset t hot) := by
  intro h; exact Instr.time_lt h

theorem configReady (t : Nat) : Statement (.configReady t) := by
  intro h; exact Instr.time_lt h

theorem configRequest (t : Nat) : Statement (.configRequest t) := by
  intro h; exact Instr.time_lt h

theorem replayComplete (t : Nat) (pdev : Nat) (rate : Nat) : Statement (.replayComplete t pdev rate) := by
  intro h; exact Instr.time_lt h

theorem cadInEdge (t : Nat) (finds : List (Nat × DramFind)) : Statement (.cadInEdge t finds) := by
  intro h; exact Instr.time_lt h

theorem unitFrameBoundary (t : Nat) (finds : List (Nat × DramFind)) : Statement (.unitFrameBoundary t finds) := by
  intro h; exact Instr.time_lt h

theorem lateWindowExpiry (t : Nat) (finds : List (Nat × DramFind)) : Statement (.lateWindowExpiry t finds) := by
  intro h; exact Instr.time_lt h

theorem edgesAbsent (t : Nat) : Statement (.edgesAbsent t) := by
  intro h; exact Instr.time_lt h

theorem holdoverLimit (t : Nat) : Statement (.holdoverLimit t) := by
  intro h; exact Instr.time_lt h

theorem cadOutPulseEnd (t : Nat) : Statement (.cadOutPulseEnd t) := by
  intro h; exact Instr.time_lt h

theorem frameExhausted (t : Nat) : Statement (.frameExhausted t) := by
  intro h; exact Instr.time_lt h

theorem cadenceRecordDue (t : Nat) : Statement (.cadenceRecordDue t) := by
  intro h; exact Instr.time_lt h

theorem ppsCapture (t : Nat) : Statement (.ppsCapture t) := by
  intro h; exact Instr.time_lt h

theorem odoPulse (t : Nat) (high : Nat) : Statement (.odoPulse t high) := by
  intro h; exact Instr.time_lt h

theorem incidentEdge (t : Nat) (n : Nat) (low : Nat) : Statement (.incidentEdge t n low) := by
  intro h; exact Instr.time_lt h

theorem fenceEnd (t : Nat) (slot : Nat) : Statement (.fenceEnd t slot) := by
  intro h; exact Instr.time_lt h

theorem cadSnapNow (t : Nat) : Statement (.cadSnapNow t) := by
  intro h; exact Instr.time_lt h

theorem functionEnable (t : Nat) (f : Nat) (ctl : Nat) : Statement (.functionEnable t f ctl) := by
  intro h; exact Instr.time_lt h

theorem functionDisable (t : Nat) (f : Nat) (ctl : Nat) : Statement (.functionDisable t f ctl) := by
  intro h; exact Instr.time_lt h

theorem quotaWrite (t : Nat) (f : Nat) (q : Quota) (v : Nat) : Statement (.quotaWrite t f q v) := by
  intro h; exact Instr.time_lt h

theorem ringCreate (t : Nat) (f : Nat) (i : Nat) : Statement (.ringCreate t f i) := by
  intro h; exact Instr.time_lt h

theorem ringDelete (t : Nat) (f : Nat) (sub : Bool) (i : Nat) : Statement (.ringDelete t f sub i) := by
  intro h; exact Instr.time_lt h

theorem ringDeleteDone (t : Nat) (f : Nat) : Statement (.ringDeleteDone t f) := by
  intro h; exact Instr.time_lt h

theorem ringQuery (t : Nat) (f : Nat) (sub : Bool) (i : Nat) : Statement (.ringQuery t f sub i) := by
  intro h; exact Instr.time_lt h

theorem doorbellBaseWrite (t : Nat) (f : Nat) (hi : Bool) (v : Word) (be : Nat) : Statement (.doorbellBaseWrite t f hi v be) := by
  intro h; exact Instr.time_lt h

theorem pipSubmissionTail (t : Nat) (f : Nat) (w : Word) (be : Nat) : Statement (.pipSubmissionTail t f w be) := by
  intro h; exact Instr.time_lt h

theorem pipCompletionHead (t : Nat) (f : Nat) (w : Word) (be : Nat) : Statement (.pipCompletionHead t f w be) := by
  intro h; exact Instr.time_lt h

theorem sweep (t : Nat) (reads : List DoorbellRead) : Statement (.sweep t reads) := by
  intro h; exact Instr.time_lt h

theorem descriptorFetch (t : Nat) (desc : Option (List Byte)) (segs : List (Option (List Byte))) : Statement (.descriptorFetch t desc segs) := by
  intro h; exact Instr.time_lt h

theorem ringStoppedNotice (t : Nat) (f : Nat) (sub : Bool) (i : Nat) (bad : Bool) : Statement (.ringStoppedNotice t f sub i bad) := by
  intro h; exact Instr.time_lt h

theorem noticeWriteHeld (t : Nat) (f : Nat) : Statement (.noticeWriteHeld t f) := by
  intro h; exact Instr.time_lt h

theorem coalesceTimer (t : Nat) (f : Nat) (i : Nat) : Statement (.coalesceTimer t f i) := by
  intro h; exact Instr.time_lt h

theorem functionLevelReset (t : Nat) (f : Nat) : Statement (.functionLevelReset t f) := by
  intro h; exact Instr.time_lt h

theorem sriovVfChange (t : Nat) (ve : Bool) (num : Nat) : Statement (.sriovVfChange t ve num) := by
  intro h; exact Instr.time_lt h

theorem functionResetDone (t : Nat) (f : Nat) : Statement (.functionResetDone t f) := by
  intro h; exact Instr.time_lt h

theorem fnSnapNow (t : Nat) (f : Nat) : Statement (.fnSnapNow t f) := by
  intro h; exact Instr.time_lt h

theorem identify (t : Nat) (id : Nat) : Statement (.identify t id) := by
  intro h; exact Instr.time_lt h

theorem nsCreate (t : Nat) (id : Nat) : Statement (.nsCreate t id) := by
  intro h; exact Instr.time_lt h

theorem nsDelete (t : Nat) (id : Nat) : Statement (.nsDelete t id) := by
  intro h; exact Instr.time_lt h

theorem streamCreate (t : Nat) (id : Nat) : Statement (.streamCreate t id) := by
  intro h; exact Instr.time_lt h

theorem streamDelete (t : Nat) (id : Nat) : Statement (.streamDelete t id) := by
  intro h; exact Instr.time_lt h

theorem streamQuery (t : Nat) (id : Nat) : Statement (.streamQuery t id) := by
  intro h; exact Instr.time_lt h

theorem getLog (t : Nat) (id : Nat) : Statement (.getLog t id) := by
  intro h; exact Instr.time_lt h

theorem abortCmd (t : Nat) (id : Nat) : Statement (.abortCmd t id) := by
  intro h; exact Instr.time_lt h

theorem fenceRelease (t : Nat) (id : Nat) : Statement (.fenceRelease t id) := by
  intro h; exact Instr.time_lt h

theorem progLoad (t : Nat) (id : Nat) (data : Option (List Byte)) : Statement (.progLoad t id data) := by
  intro h; exact Instr.time_lt h

theorem progUnload (t : Nat) (id : Nat) : Statement (.progUnload t id) := by
  intro h; exact Instr.time_lt h

theorem fwDownload (t : Nat) (id : Nat) (data : Option (List Byte)) : Statement (.fwDownload t id data) := by
  intro h; exact Instr.time_lt h

theorem fwCommitWrite (t : Nat) (id : Nat) : Statement (.fwCommitWrite t id) := by
  intro h; exact Instr.time_lt h

theorem fwCommitActivate (t : Nat) (id : Nat) : Statement (.fwCommitActivate t id) := by
  intro h; exact Instr.time_lt h

theorem depotBegin (t : Nat) (id : Nat) : Statement (.depotBegin t id) := by
  intro h; exact Instr.time_lt h

theorem depotStop (t : Nat) (id : Nat) : Statement (.depotStop t id) := by
  intro h; exact Instr.time_lt h

theorem depotWindowEnd (t : Nat) : Statement (.depotWindowEnd t) := by
  intro h; exact Instr.time_lt h

theorem diagRead (t : Nat) (id : Nat) (flips : List Nat) : Statement (.diagRead t id flips) := by
  intro h; exact Instr.time_lt h

theorem sealRec (t : Nat) (id : Nat) : Statement (.sealRec t id) := by
  intro h; exact Instr.time_lt h

theorem sealServiceStart (t : Nat) (k : Nat) : Statement (.sealServiceStart t k) := by
  intro h; exact Instr.time_lt h

theorem sealFold (t : Nat) (id : Nat) (data : Option (List Byte)) (d : Conduct) (postBad : Bool) : Statement (.sealFold t id data d postBad) := by
  intro h; exact Instr.time_lt h

theorem recallTime (t : Nat) (id : Nat) (d : Conduct) : Statement (.recallTime t id d) := by
  intro h; exact Instr.time_lt h

theorem recallRecord (t : Nat) (id : Nat) (d : Conduct) : Statement (.recallRecord t id d) := by
  intro h; exact Instr.time_lt h

theorem recallRange (t : Nat) (id : Nat) : Statement (.recallRange t id) := by
  intro h; exact Instr.time_lt h

theorem writeBlocks (t : Nat) (id : Nat) (data : Option (List Byte)) (bad : List Nat) : Statement (.writeBlocks t id data bad) := by
  intro h; exact Instr.time_lt h

theorem readBlocks (t : Nat) (id : Nat) : Statement (.readBlocks t id) := by
  intro h; exact Instr.time_lt h

theorem deallocate (t : Nat) (id : Nat) : Statement (.deallocate t id) := by
  intro h; exact Instr.time_lt h

theorem lockRange (t : Nat) (id : Nat) : Statement (.lockRange t id) := by
  intro h; exact Instr.time_lt h

theorem releaseRange (t : Nat) (id : Nat) : Statement (.releaseRange t id) := by
  intro h; exact Instr.time_lt h

theorem exportRange (t : Nat) (id : Nat) : Statement (.exportRange t id) := by
  intro h; exact Instr.time_lt h

theorem progRun (t : Nat) (id : Nat) : Statement (.progRun t id) := by
  intro h; exact Instr.time_lt h

theorem maintPatrol (t : Nat) (id : Nat) : Statement (.maintPatrol t id) := by
  intro h; exact Instr.time_lt h

theorem maintCompact (t : Nat) (id : Nat) : Statement (.maintCompact t id) := by
  intro h; exact Instr.time_lt h

theorem maintVerify (t : Nat) (id : Nat) : Statement (.maintVerify t id) := by
  intro h; exact Instr.time_lt h

theorem nvmeDeleteIoSq (t : Nat) (cmd : List Byte) : Statement (.nvmeDeleteIoSq t cmd) := by
  intro h; exact Instr.time_lt h

theorem nvmeCreateIoSq (t : Nat) (cmd : List Byte) : Statement (.nvmeCreateIoSq t cmd) := by
  intro h; exact Instr.time_lt h

theorem nvmeGetLogPage (t : Nat) (cmd : List Byte) : Statement (.nvmeGetLogPage t cmd) := by
  intro h; exact Instr.time_lt h

theorem nvmeDeleteIoCq (t : Nat) (cmd : List Byte) : Statement (.nvmeDeleteIoCq t cmd) := by
  intro h; exact Instr.time_lt h

theorem nvmeCreateIoCq (t : Nat) (cmd : List Byte) : Statement (.nvmeCreateIoCq t cmd) := by
  intro h; exact Instr.time_lt h

theorem nvmeIdentify (t : Nat) (cmd : List Byte) : Statement (.nvmeIdentify t cmd) := by
  intro h; exact Instr.time_lt h

theorem nvmeAbort (t : Nat) (cmd : List Byte) : Statement (.nvmeAbort t cmd) := by
  intro h; exact Instr.time_lt h

theorem nvmeSetFeatures (t : Nat) (cmd : List Byte) : Statement (.nvmeSetFeatures t cmd) := by
  intro h; exact Instr.time_lt h

theorem nvmeGetFeatures (t : Nat) (cmd : List Byte) : Statement (.nvmeGetFeatures t cmd) := by
  intro h; exact Instr.time_lt h

theorem nvmeAsyncEventRequest (t : Nat) (cmd : List Byte) : Statement (.nvmeAsyncEventRequest t cmd) := by
  intro h; exact Instr.time_lt h

theorem nvmeFirmwareCommit (t : Nat) (cmd : List Byte) : Statement (.nvmeFirmwareCommit t cmd) := by
  intro h; exact Instr.time_lt h

theorem nvmeFwImageDownload (t : Nat) (cmd : List Byte) (data : Option (List Byte)) : Statement (.nvmeFwImageDownload t cmd data) := by
  intro h; exact Instr.time_lt h

theorem nvmeFlush (t : Nat) (sq : Nat) (cmd : List Byte) : Statement (.nvmeFlush t sq cmd) := by
  intro h; exact Instr.time_lt h

theorem nvmeWrite (t : Nat) (sq : Nat) (cmd : List Byte) (data : Option (List Byte)) (bad : List Nat) : Statement (.nvmeWrite t sq cmd data bad) := by
  intro h; exact Instr.time_lt h

theorem nvmeRead (t : Nat) (sq : Nat) (cmd : List Byte) : Statement (.nvmeRead t sq cmd) := by
  intro h; exact Instr.time_lt h

theorem nvmeDatasetManagement (t : Nat) (sq : Nat) (cmd : List Byte) (data : Option (List Byte)) : Statement (.nvmeDatasetManagement t sq cmd data) := by
  intro h; exact Instr.time_lt h

theorem classSFetchStall (t : Nat) (f : Nat) (i : Nat) : Statement (.classSFetchStall t f i) := by
  intro h; exact Instr.time_lt h

theorem clsSnapNow (t : Nat) (n : Nat) : Statement (.clsSnapNow t n) := by
  intro h; exact Instr.time_lt h

theorem holdExpiry (t : Nat) : Statement (.holdExpiry t) := by
  intro h; exact Instr.time_lt h

theorem retentionNoticeDue (t : Nat) : Statement (.retentionNoticeDue t) := by
  intro h; exact Instr.time_lt h

theorem idxSnapNow (t : Nat) (n : Nat) : Statement (.idxSnapNow t n) := by
  intro h; exact Instr.time_lt h

theorem zestCompressJob (t : Nat) (k : Nat) : Statement (.zestCompressJob t k) := by
  intro h; exact Instr.time_lt h

theorem zestDecompressJob (t : Nat) (k : Nat) : Statement (.zestDecompressJob t k) := by
  intro h; exact Instr.time_lt h

theorem zestJobComplete (t : Nat) (seg : Nat) (comp : Bool) (bad : List Nat) : Statement (.zestJobComplete t seg comp bad) := by
  intro h; exact Instr.time_lt h

theorem zstSnapNow (t : Nat) (n : Nat) : Statement (.zstSnapNow t n) := by
  intro h; exact Instr.time_lt h

theorem stoneDrain (t : Nat) (seg : Nat) (bad : List Nat) (finds : List DramFind) : Statement (.stoneDrain t seg bad finds) := by
  intro h; exact Instr.time_lt h

theorem recordDrainComplete (t : Nat) (seg : Nat) : Statement (.recordDrainComplete t seg) := by
  intro h; exact Instr.time_lt h

theorem partialUnitTimeout (t : Nat) (k : Nat) : Statement (.partialUnitTimeout t k) := by
  intro h; exact Instr.time_lt h

theorem slcMove (t : Nat) (seg : Nat) (bad : List (Nat × Nat × Nat)) : Statement (.slcMove t seg bad) := by
  intro h; exact Instr.time_lt h

theorem mapCheckpoint (t : Nat) (seg : Nat) : Statement (.mapCheckpoint t seg) := by
  intro h; exact Instr.time_lt h

theorem garbageCollection (t : Nat) (seg : Nat) (bad : List (Nat × Nat × Nat)) : Statement (.garbageCollection t seg bad) := by
  intro h; exact Instr.time_lt h

theorem wearMove (t : Nat) (seg : Nat) (bad : List (Nat × Nat × Nat)) : Statement (.wearMove t seg bad) := by
  intro h; exact Instr.time_lt h

theorem patrolPassEnd (t : Nat) (seg : Nat) (finds : List DramFind) : Statement (.patrolPassEnd t seg finds) := by
  intro h; exact Instr.time_lt h

theorem retentionRefresh (t : Nat) (k : Nat) : Statement (.retentionRefresh t k) := by
  intro h; exact Instr.time_lt h

theorem ageRefresh (t : Nat) (k : Nat) : Statement (.ageRefresh t k) := by
  intro h; exact Instr.time_lt h

theorem maintTokenHandoff (t : Nat) (res : Nat) : Statement (.maintTokenHandoff t res) := by
  intro h; exact Instr.time_lt h

theorem medSnapNow (t : Nat) (n : Nat) : Statement (.medSnapNow t n) := by
  intro h; exact Instr.time_lt h

theorem channelRetrain (t : Nat) (c : Nat) : Statement (.channelRetrain t c) := by
  intro h; exact Instr.time_lt h

theorem windowDecision (t : Nat) (d : Nat) (reads : List QRead) : Statement (.windowDecision t d reads) := by
  intro h; exact Instr.time_lt h

theorem windowClose (t : Nat) (d : Nat) : Statement (.windowClose t d) := by
  intro h; exact Instr.time_lt h

theorem protectedStretchEnd (t : Nat) (d : Nat) : Statement (.protectedStretchEnd t d) := by
  intro h; exact Instr.time_lt h

theorem eraseIssue (t : Nat) (d : Nat) (b : Nat) : Statement (.eraseIssue t d b) := by
  intro h; exact Instr.time_lt h

theorem nandEraseComplete (t : Nat) (d : Nat) (ok : Bool) (raws : List (Nat × Nat)) : Statement (.nandEraseComplete t d ok raws) := by
  intro h; exact Instr.time_lt h

theorem nandProgramComplete (t : Nat) (d : Nat) (ok : Bool) (parity : Option Bool) : Statement (.nandProgramComplete t d ok parity) := by
  intro h; exact Instr.time_lt h

theorem nandReadComplete (t : Nat) (d : Nat) (b : Nat) (pg : Nat) (best : Nat) (cws : List CwRead) (use : ReadUse) : Statement (.nandReadComplete t d b pg best cws use) := by
  intro h; exact Instr.time_lt h

theorem nandOpTimeout (t : Nat) (d : Nat) : Statement (.nandOpTimeout t d) := by
  intro h; exact Instr.time_lt h

theorem flwSnapNow (t : Nat) (n : Nat) : Statement (.flwSnapNow t n) := by
  intro h; exact Instr.time_lt h

theorem detectorHoldoffEnd (t : Nat) (k : Nat) : Statement (.detectorHoldoffEnd t k) := by
  intro h; exact Instr.time_lt h

theorem injectionArm (t : Nat) (w : Word) (be : Nat) : Statement (.injectionArm t w be) := by
  intro h; exact Instr.time_lt h

theorem injectionDisarm (t : Nat) (w : Word) (be : Nat) : Statement (.injectionDisarm t w be) := by
  intro h; exact Instr.time_lt h

theorem bypassOpen (t : Nat) (w : Word) (be : Nat) : Statement (.bypassOpen t w be) := by
  intro h; exact Instr.time_lt h

theorem bypassWindowEnd (t : Nat) : Statement (.bypassWindowEnd t) := by
  intro h; exact Instr.time_lt h

theorem intSnapNow (t : Nat) : Statement (.intSnapNow t) := by
  intro h; exact Instr.time_lt h

theorem sramScrub (t : Nat) (finds : List SramFind) : Statement (.sramScrub t finds) := by
  intro h; exact Instr.time_lt h

theorem healthSave (t : Nat) : Statement (.healthSave t) := by
  intro h; exact Instr.time_lt h

theorem fabricTimeout (t : Nat) (work : Work) (write : Bool) (units : Nat) : Statement (.fabricTimeout t work write units) := by
  intro h; exact Instr.time_lt h

theorem heartbeatMiss (t : Nat) (k : Nat) : Statement (.heartbeatMiss t k) := by
  intro h; exact Instr.time_lt h

theorem hostReadTimeout (t : Nat) (work : Work) : Statement (.hostReadTimeout t work) := by
  intro h; exact Instr.time_lt h

theorem powerWarning (t : Nat) (vsys : Nat) (vhu : Nat) (warnN : Bool) (huOk : Bool) : Statement (.powerWarning t vsys vhu warnN huOk) := by
  intro h; exact Instr.time_lt h

theorem braceFlushComplete (t : Nat) (pbrace : Nat) (t34 : Nat) (t37 : Nat) (v3 : Nat) (v7 : Nat) (low : Bool) : Statement (.braceFlushComplete t pbrace t34 t37 v3 v7 low) := by
  intro h; exact Instr.time_lt h

theorem exitWaitRestart (t : Nat) (vsys : Nat) (vhu : Nat) (warnN : Bool) (huOk : Bool) : Statement (.exitWaitRestart t vsys vhu warnN huOk) := by
  intro h; exact Instr.time_lt h

theorem braceExit (t : Nat) : Statement (.braceExit t) := by
  intro h; exact Instr.time_lt h

theorem brcSnapNow (t : Nat) : Statement (.brcSnapNow t) := by
  intro h; exact Instr.time_lt h

theorem cryptoInit (t : Nat) (k : Nat) : Statement (.cryptoInit t k) := by
  intro h; exact Instr.time_lt h

theorem cryptoUpdate (t : Nat) (k : Nat) : Statement (.cryptoUpdate t k) := by
  intro h; exact Instr.time_lt h

theorem cryptoFinal (t : Nat) (k : Nat) : Statement (.cryptoFinal t k) := by
  intro h; exact Instr.time_lt h

theorem cryptoFree (t : Nat) (k : Nat) : Statement (.cryptoFree t k) := by
  intro h; exact Instr.time_lt h

theorem cryptoOneshot (t : Nat) (k : Nat) : Statement (.cryptoOneshot t k) := by
  intro h; exact Instr.time_lt h

theorem cryptoChainCheck (t : Nat) (k : Nat) : Statement (.cryptoChainCheck t k) := by
  intro h; exact Instr.time_lt h

theorem cryptoRandom (t : Nat) (k : Nat) : Statement (.cryptoRandom t k) := by
  intro h; exact Instr.time_lt h

theorem gcmHoldGrant (t : Nat) (seg : Nat) : Statement (.gcmHoldGrant t seg) := by
  intro h; exact Instr.time_lt h

theorem cryptoJobComplete (t : Nat) (n : Nat) (bus : Bool) (differ : Bool) (flags_ : Bool) (lane : Nat) (finds : List SramFind) : Statement (.cryptoJobComplete t n bus differ flags_ lane finds) := by
  intro h; exact Instr.time_lt h

theorem tamperAlarm (t : Nat) (n : Nat) : Statement (.tamperAlarm t n) := by
  intro h; exact Instr.time_lt h

theorem keyRederive (t : Nat) : Statement (.keyRederive t) := by
  intro h; exact Instr.time_lt h

theorem rngHealthFail (t : Nat) : Statement (.rngHealthFail t) := by
  intro h; exact Instr.time_lt h

theorem rngRecovered (t : Nat) : Statement (.rngRecovered t) := by
  intro h; exact Instr.time_lt h

theorem drbgReseed (t : Nat) : Statement (.drbgReseed t) := by
  intro h; exact Instr.time_lt h

theorem exportKeySet (t : Nat) (f : Nat) : Statement (.exportKeySet t f) := by
  intro h; exact Instr.time_lt h

theorem exportKeyClear (t : Nat) (f : Nat) : Statement (.exportKeyClear t f) := by
  intro h; exact Instr.time_lt h

theorem cryCtrlWrite (t : Nat) (w : Word) (be : Nat) : Statement (.cryCtrlWrite t w be) := by
  intro h; exact Instr.time_lt h

theorem crySnapNow (t : Nat) : Statement (.crySnapNow t) := by
  intro h; exact Instr.time_lt h

theorem spdmGetVersion (t : Nat) (req : List Byte) : Statement (.spdmGetVersion t req) := by
  intro h; exact Instr.time_lt h

theorem spdmGetCapabilities (t : Nat) (req : List Byte) : Statement (.spdmGetCapabilities t req) := by
  intro h; exact Instr.time_lt h

theorem spdmNegotiateAlgorithms (t : Nat) (req : List Byte) : Statement (.spdmNegotiateAlgorithms t req) := by
  intro h; exact Instr.time_lt h

theorem spdmGetDigests (t : Nat) (req : List Byte) : Statement (.spdmGetDigests t req) := by
  intro h; exact Instr.time_lt h

theorem spdmGetCertificate (t : Nat) (req : List Byte) : Statement (.spdmGetCertificate t req) := by
  intro h; exact Instr.time_lt h

theorem spdmChallenge (t : Nat) (req : List Byte) : Statement (.spdmChallenge t req) := by
  intro h; exact Instr.time_lt h

theorem spdmGetMeasurements (t : Nat) (req : List Byte) : Statement (.spdmGetMeasurements t req) := by
  intro h; exact Instr.time_lt h

theorem bundleIssue (t : Nat) (k : Nat) (way : Issue) : Statement (.bundleIssue t k way) := by
  intro h; exact Instr.time_lt h

theorem repPass (t : Nat) (k : Nat) (way : Issue) : Statement (.repPass t k way) := by
  intro h; exact Instr.time_lt h

theorem budgetException (t : Nat) (k : Nat) : Statement (.budgetException t k) := by
  intro h; exact Instr.time_lt h

theorem eventException (t : Nat) (k : Nat) : Statement (.eventException t k) := by
  intro h; exact Instr.time_lt h

theorem coreClockGate (t : Nat) (k : Nat) : Statement (.coreClockGate t k) := by
  intro h; exact Instr.time_lt h

theorem getDeliver (t : Nat) (seg : Nat) : Statement (.getDeliver t seg) := by
  intro h; exact Instr.time_lt h

theorem dispatcherPost (t : Nat) (k : Nat) : Statement (.dispatcherPost t k) := by
  intro h; exact Instr.time_lt h

theorem dispatcherDone (t : Nat) (k : Nat) : Statement (.dispatcherDone t k) := by
  intro h; exact Instr.time_lt h

theorem runExit (t : Nat) (k : Nat) : Statement (.runExit t k) := by
  intro h; exact Instr.time_lt h

theorem delayRelease (t : Nat) (seg : Nat) : Statement (.delayRelease t seg) := by
  intro h; exact Instr.time_lt h

theorem runStart (t : Nat) (seg : Nat) (k : Nat) (w3 : Nat) (w4 : Nat) : Statement (.runStart t seg k w3 w4) := by
  intro h; exact Instr.time_lt h

theorem dspfHwWrite (t : Nat) (f : Nat) (o : Nat) (w : Word) (be : Nat) : Statement (.dspfHwWrite t f o w be) := by
  intro h; exact Instr.time_lt h

theorem dspSnapNow (t : Nat) (n : Nat) : Statement (.dspSnapNow t n) := by
  intro h; exact Instr.time_lt h

theorem dramZeroFill (t : Nat) (n : Nat) : Statement (.dramZeroFill t n) := by
  intro h; exact Instr.time_lt h

theorem dramZqCalibration (t : Nat) (n : Nat) : Statement (.dramZqCalibration t n) := by
  intro h; exact Instr.time_lt h

theorem dramRecentre (t : Nat) (n : Nat) (temp : Nat) : Statement (.dramRecentre t n temp) := by
  intro h; exact Instr.time_lt h

theorem dramRefresh (t : Nat) (n : Nat) (postpone : Bool) : Statement (.dramRefresh t n postpone) := by
  intro h; exact Instr.time_lt h

theorem dramRfm (t : Nat) (n : Nat) (b : Nat) : Statement (.dramRfm t n b) := by
  intro h; exact Instr.time_lt h

theorem neighbourRefresh (t : Nat) (n : Nat) (b : Nat) (acts : List Nat) (reqs : List DramReq) (slots : Nat) : Statement (.neighbourRefresh t n b acts reqs slots) := by
  intro h; exact Instr.time_lt h

theorem ratWindowClear (t : Nat) (n : Nat) : Statement (.ratWindowClear t n) := by
  intro h; exact Instr.time_lt h

theorem dmCopy (t : Nat) (k : Nat) : Statement (.dmCopy t k) := by
  intro h; exact Instr.time_lt h

theorem dmHostRead (t : Nat) (k : Nat) : Statement (.dmHostRead t k) := by
  intro h; exact Instr.time_lt h

theorem dmHostWrite (t : Nat) (k : Nat) : Statement (.dmHostWrite t k) := by
  intro h; exact Instr.time_lt h

theorem dmRecordRead (t : Nat) (k : Nat) : Statement (.dmRecordRead t k) := by
  intro h; exact Instr.time_lt h

theorem dmFill (t : Nat) (k : Nat) : Statement (.dmFill t k) := by
  intro h; exact Instr.time_lt h

theorem dmDescriptorComplete (t : Nat) (seg : Nat) (c : Nat) (differ : Bool) (units : Nat) (dram : List DramFind) (sram : List SramFind) : Statement (.dmDescriptorComplete t seg c differ units dram sram) := by
  intro h; exact Instr.time_lt h

theorem dmResume (t : Nat) (k : Nat) : Statement (.dmResume t k) := by
  intro h; exact Instr.time_lt h

theorem dmAbandon (t : Nat) (k : Nat) : Statement (.dmAbandon t k) := by
  intro h; exact Instr.time_lt h

theorem drmSnapNow (t : Nat) (n : Nat) : Statement (.drmSnapNow t n) := by
  intro h; exact Instr.time_lt h

theorem dmvSnapNow (t : Nat) (n : Nat) : Statement (.dmvSnapNow t n) := by
  intro h; exact Instr.time_lt h

theorem pthKeyWrite (t : Nat) (p : Nat) (v : Word) : Statement (.pthKeyWrite t p v) := by
  intro h; exact Instr.time_lt h

theorem pithUnlockTimeout (t : Nat) (p : Nat) : Statement (.pithUnlockTimeout t p) := by
  intro h; exact Instr.time_lt h

theorem pageProgram (t : Nat) (p : Nat) (sector : Nat) (page : Nat) (units : List (Nat × List Byte)) : Statement (.pageProgram t p sector page units) := by
  intro h; exact Instr.time_lt h

theorem sectorErase (t : Nat) (p : Nat) (sector : Nat) : Statement (.sectorErase t p sector) := by
  intro h; exact Instr.time_lt h

theorem eraseSuspend (t : Nat) (p : Nat) (b : Nat) : Statement (.eraseSuspend t p b) := by
  intro h; exact Instr.time_lt h

theorem eraseResume (t : Nat) (p : Nat) (b : Nat) : Statement (.eraseResume t p b) := by
  intro h; exact Instr.time_lt h

theorem blankCheck (t : Nat) (p : Nat) (sector : Nat) : Statement (.blankCheck t p sector) := by
  intro h; exact Instr.time_lt h

theorem paramPut (t : Nat) (p : Nat) (typ : Nat) (ix : Nat) (data : List Byte) : Statement (.paramPut t p typ ix data) := by
  intro h; exact Instr.time_lt h

theorem paramDelete (t : Nat) (p : Nat) (typ : Nat) (ix : Nat) : Statement (.paramDelete t p typ ix) := by
  intro h; exact Instr.time_lt h

theorem paramGet (t : Nat) (p : Nat) (typ : Nat) (ix : Nat) : Statement (.paramGet t p typ ix) := by
  intro h; exact Instr.time_lt h

theorem pithEraseComplete (t : Nat) (b : Nat) (clean : Bool) : Statement (.pithEraseComplete t b clean) := by
  intro h; exact Instr.time_lt h

theorem pithProgramComplete (t : Nat) (b : Nat) (ok : Bool) : Statement (.pithProgramComplete t b ok) := by
  intro h; exact Instr.time_lt h

theorem journalProgram (t : Nat) : Statement (.journalProgram t) := by
  intro h; exact Instr.time_lt h

theorem newEpoch (t : Nat) : Statement (.newEpoch t) := by
  intro h; exact Instr.time_lt h

theorem pthSnapNow (t : Nat) : Statement (.pthSnapNow t) := by
  intro h; exact Instr.time_lt h

theorem governorDecision (t : Nat) (busy : List (Nat × Nat)) : Statement (.governorDecision t busy) := by
  intro h; exact Instr.time_lt h

theorem vregSettled (t : Nat) : Statement (.vregSettled t) := by
  intro h; exact Instr.time_lt h

theorem vregSettleTimeout (t : Nat) : Statement (.vregSettleTimeout t) := by
  intro h; exact Instr.time_lt h

theorem segmentSleepEntry (t : Nat) (n : Nat) : Statement (.segmentSleepEntry t n) := by
  intro h; exact Instr.time_lt h

theorem rindSleepEntry (t : Nat) : Statement (.rindSleepEntry t) := by
  intro h; exact Instr.time_lt h

theorem domainWake (t : Nat) (d : Nat) : Statement (.domainWake t d) := by
  intro h; exact Instr.time_lt h

theorem wakeComplete (t : Nat) (d : Nat) : Statement (.wakeComplete t d) := by
  intro h; exact Instr.time_lt h

theorem tempSample (t : Nat) (reads : List Nat) : Statement (.tempSample t reads) := by
  intro h; exact Instr.time_lt h

theorem throttleStep (t : Nat) (n : Nat) : Statement (.throttleStep t n) := by
  intro h; exact Instr.time_lt h

theorem thermalShedBegin (t : Nat) : Statement (.thermalShedBegin t) := by
  intro h; exact Instr.time_lt h

theorem thermalShedEnd (t : Nat) : Statement (.thermalShedEnd t) := by
  intro h; exact Instr.time_lt h

theorem pwmSnapNow (t : Nat) : Statement (.pwmSnapNow t) := by
  intro h; exact Instr.time_lt h

theorem lcsPrepare (t : Nat) : Statement (.lcsPrepare t) := by
  intro h; exact Instr.time_lt h

theorem lcsProvision (t : Nat) : Statement (.lcsProvision t) := by
  intro h; exact Instr.time_lt h

theorem lcsSeal (t : Nat) : Statement (.lcsSeal t) := by
  intro h; exact Instr.time_lt h

theorem lcsVaultEnter (t : Nat) : Statement (.lcsVaultEnter t) := by
  intro h; exact Instr.time_lt h

theorem lcsReturn (t : Nat) : Statement (.lcsReturn t) := by
  intro h; exact Instr.time_lt h

theorem lcsScrap (t : Nat) : Statement (.lcsScrap t) := by
  intro h; exact Instr.time_lt h

theorem lcsChallenge (t : Nat) : Statement (.lcsChallenge t) := by
  intro h; exact Instr.time_lt h

theorem lcsSnapNow (t : Nat) : Statement (.lcsSnapNow t) := by
  intro h; exact Instr.time_lt h

theorem jtagExtest (t : Nat) (cap : Nat) (shift : Nat) : Statement (.jtagExtest t cap shift) := by
  intro h; exact Instr.time_lt h

theorem jtagSamplePreload (t : Nat) (cap : Nat) (shift : Nat) : Statement (.jtagSamplePreload t cap shift) := by
  intro h; exact Instr.time_lt h

theorem jtagIdcode (t : Nat) : Statement (.jtagIdcode t) := by
  intro h; exact Instr.time_lt h

theorem jtagBypass (t : Nat) : Statement (.jtagBypass t) := by
  intro h; exact Instr.time_lt h

theorem dbgStatus (t : Nat) : Statement (.dbgStatus t) := by
  intro h; exact Instr.time_lt h

theorem dbgChal (t : Nat) : Statement (.dbgChal t) := by
  intro h; exact Instr.time_lt h

theorem dbgGrant (t : Nat) (v : Word) : Statement (.dbgGrant t v) := by
  intro h; exact Instr.time_lt h

theorem dbgOpen (t : Nat) (v : Nat) : Statement (.dbgOpen t v) := by
  intro h; exact Instr.time_lt h

theorem dbgClose (t : Nat) : Statement (.dbgClose t) := by
  intro h; exact Instr.time_lt h

theorem tapReset (t : Nat) : Statement (.tapReset t) := by
  intro h; exact Instr.time_lt h

theorem dapRead (t : Nat) (who : Nat) (addr : Nat) : Statement (.dapRead t who addr) := by
  intro h; exact Instr.time_lt h

theorem dapWrite (t : Nat) (who : Nat) (addr : Nat) (v : Nat) : Statement (.dapWrite t who addr v) := by
  intro h; exact Instr.time_lt h

theorem dapHalt (t : Nat) (who : Nat) : Statement (.dapHalt t who) := by
  intro h; exact Instr.time_lt h

theorem dapResume (t : Nat) (who : Nat) : Statement (.dapResume t who) := by
  intro h; exact Instr.time_lt h

theorem dapSingleStep (t : Nat) (who : Nat) (way : Issue) : Statement (.dapSingleStep t who way) := by
  intro h; exact Instr.time_lt h

theorem dapSetSstep (t : Nat) (who : Nat) : Statement (.dapSetSstep t who) := by
  intro h; exact Instr.time_lt h

theorem dapClearSstep (t : Nat) (who : Nat) : Statement (.dapClearSstep t who) := by
  intro h; exact Instr.time_lt h

theorem smbStatusByte (t : Nat) : Statement (.smbStatusByte t) := by
  intro h; exact Instr.time_lt h

theorem smbModes (t : Nat) : Statement (.smbModes t) := by
  intro h; exact Instr.time_lt h

theorem smbCrit (t : Nat) : Statement (.smbCrit t) := by
  intro h; exact Instr.time_lt h

theorem smbSensorTemp (t : Nat) (n : Nat) : Statement (.smbSensorTemp t n) := by
  intro h; exact Instr.time_lt h

theorem smbTempNow (t : Nat) : Statement (.smbTempNow t) := by
  intro h; exact Instr.time_lt h

theorem smbHealthBlock (t : Nat) : Statement (.smbHealthBlock t) := by
  intro h; exact Instr.time_lt h

theorem smbBraceSummary (t : Nat) : Statement (.smbBraceSummary t) := by
  intro h; exact Instr.time_lt h

theorem smbSerial (t : Nat) : Statement (.smbSerial t) := by
  intro h; exact Instr.time_lt h

theorem smbAlertResponse (t : Nat) : Statement (.smbAlertResponse t) := by
  intro h; exact Instr.time_lt h

theorem smbClockTimeout (t : Nat) : Statement (.smbClockTimeout t) := by
  intro h; exact Instr.time_lt h

theorem blockLock (t : Nat) (blk : Nat) (v : Word) (be : Nat) : Statement (.blockLock t blk v be) := by
  intro h; exact Instr.time_lt h

theorem registerWrite (t : Nat) (a : Nat) (v : Word) (be : Nat) : Statement (.registerWrite t a v be) := by
  intro h; exact Instr.time_lt h

theorem powerLoss (t : Nat) (units : List (Nat × Nat)) (torn : Nat) (copies : List (Nat × Nat)) : Statement (.powerLoss t units torn copies) := by
  intro h; exact Instr.time_lt h

theorem resetNRelease (t : Nat) (env : BootEnv) : Statement (.resetNRelease t env) := by
  intro h; exact Instr.time_lt h

theorem perstRelease (t : Nat) : Statement (.perstRelease t) := by
  intro h; exact Instr.time_lt h

theorem linkStateChange (t : Nat) (link : Link) (speed : Nat) (width : Nat) : Statement (.linkStateChange t link speed width) := by
  intro h; exact Instr.time_lt h

theorem hostReadCompletion (t : Nat) (work : Work) (ok : Bool) (data : List Byte) : Statement (.hostReadCompletion t work ok data) := by
  intro h; exact Instr.time_lt h

theorem flitCrcError (t : Nat) : Statement (.flitCrcError t) := by
  intro h; exact Instr.time_lt h

theorem exitWaitStart (t : Nat) (vsys : Nat) (vhu : Nat) (warnN : Bool) (huOk : Bool) : Statement (.exitWaitStart t vsys vhu warnN huOk) := by
  intro h; exact Instr.time_lt h

theorem windowOpen (t : Nat) (d : Nat) : Statement (.windowOpen t d) := by
  intro h; exact Instr.time_lt h

theorem vppPithRangeChange (t : Nat) (ok : Bool) : Statement (.vppPithRangeChange t ok) := by
  intro h; exact Instr.time_lt h

theorem monitorOscillatorCheck (t : Nat) (ppm : Nat) : Statement (.monitorOscillatorCheck t ppm) := by
  intro h; exact Instr.time_lt h

end Sys2Proof.Laws.Timed
end

