-- ==== Sys2Proof/Laws/State.lean ====
section
/-!
SUPPORT. What each update of a part of the state reads as, field by field: no proof needs to unfold a record update. (The frame lemmas
work on whole updates and do not use these.)
-/
namespace Sys2Proof.Machine

@[simp] theorem onCad_pending (f : Cad → Cad) (s : State) : (onCad f s).pending = s.pending := rfl
@[simp] theorem onCad_now (f : Cad → Cad) (s : State) : (onCad f s).now = s.now := rfl
@[simp] theorem onCad_draws (f : Cad → Cad) (s : State) : (onCad f s).draws = s.draws := rfl
@[simp] theorem onCad_regs (f : Cad → Cad) (s : State) : (onCad f s).regs = s.regs := rfl
@[simp] theorem onCad_loaded (f : Cad → Cad) (s : State) : (onCad f s).loaded = s.loaded := rfl
@[simp] theorem onCad_ctrs (f : Cad → Cad) (s : State) : (onCad f s).ctrs = s.ctrs := rfl
@[simp] theorem onCad_snaps (f : Cad → Cad) (s : State) : (onCad f s).snaps = s.snaps := rfl
@[simp] theorem onCad_cad (f : Cad → Cad) (s : State) : (onCad f s).cad = f s.cad := rfl
@[simp] theorem onCad_rge (f : Cad → Cad) (s : State) : (onCad f s).rge = s.rge := rfl
@[simp] theorem onCad_integ (f : Cad → Cad) (s : State) : (onCad f s).integ = s.integ := rfl
@[simp] theorem onCad_pith (f : Cad → Cad) (s : State) : (onCad f s).pith = s.pith := rfl
@[simp] theorem onCad_life (f : Cad → Cad) (s : State) : (onCad f s).life = s.life := rfl
@[simp] theorem onCad_dbg (f : Cad → Cad) (s : State) : (onCad f s).dbg = s.dbg := rfl
@[simp] theorem onCad_boot (f : Cad → Cad) (s : State) : (onCad f s).boot = s.boot := rfl
@[simp] theorem onCad_pins (f : Cad → Cad) (s : State) : (onCad f s).pins = s.pins := rfl
@[simp] theorem onCad_health (f : Cad → Cad) (s : State) : (onCad f s).health = s.health := rfl
@[simp] theorem onCad_cmd (f : Cad → Cad) (s : State) : (onCad f s).cmd = s.cmd := rfl
@[simp] theorem onCad_cry (f : Cad → Cad) (s : State) : (onCad f s).cry = s.cry := rfl
@[simp] theorem onCad_brc (f : Cad → Cad) (s : State) : (onCad f s).brc = s.brc := rfl
@[simp] theorem onCad_zst (f : Cad → Cad) (s : State) : (onCad f s).zst = s.zst := rfl
@[simp] theorem onCad_flw (f : Cad → Cad) (s : State) : (onCad f s).flw = s.flw := rfl
@[simp] theorem onCad_med (f : Cad → Cad) (s : State) : (onCad f s).med = s.med := rfl
@[simp] theorem onCad_pwr (f : Cad → Cad) (s : State) : (onCad f s).pwr = s.pwr := rfl
@[simp] theorem onCad_dxr (f : Cad → Cad) (s : State) : (onCad f s).dxr = s.dxr := rfl
@[simp] theorem onCad_dsp (f : Cad → Cad) (s : State) : (onCad f s).dsp = s.dsp := rfl
@[simp] theorem onCad_mov (f : Cad → Cad) (s : State) : (onCad f s).mov = s.mov := rfl
@[simp] theorem onCad_errs (f : Cad → Cad) (s : State) : (onCad f s).errs = s.errs := rfl
@[simp] theorem onCad_errCounts (f : Cad → Cad) (s : State) : (onCad f s).errCounts = s.errCounts := rfl
@[simp] theorem onCad_history (f : Cad → Cad) (s : State) : (onCad f s).history = s.history := rfl
@[simp] theorem onCad_out (f : Cad → Cad) (s : State) : (onCad f s).out = s.out := rfl

@[simp] theorem onInt_pending (f : Integ → Integ) (s : State) : (onInt f s).pending = s.pending := rfl
@[simp] theorem onInt_now (f : Integ → Integ) (s : State) : (onInt f s).now = s.now := rfl
@[simp] theorem onInt_draws (f : Integ → Integ) (s : State) : (onInt f s).draws = s.draws := rfl
@[simp] theorem onInt_regs (f : Integ → Integ) (s : State) : (onInt f s).regs = s.regs := rfl
@[simp] theorem onInt_loaded (f : Integ → Integ) (s : State) : (onInt f s).loaded = s.loaded := rfl
@[simp] theorem onInt_ctrs (f : Integ → Integ) (s : State) : (onInt f s).ctrs = s.ctrs := rfl
@[simp] theorem onInt_snaps (f : Integ → Integ) (s : State) : (onInt f s).snaps = s.snaps := rfl
@[simp] theorem onInt_cad (f : Integ → Integ) (s : State) : (onInt f s).cad = s.cad := rfl
@[simp] theorem onInt_rge (f : Integ → Integ) (s : State) : (onInt f s).rge = s.rge := rfl
@[simp] theorem onInt_integ (f : Integ → Integ) (s : State) : (onInt f s).integ = f s.integ := rfl
@[simp] theorem onInt_pith (f : Integ → Integ) (s : State) : (onInt f s).pith = s.pith := rfl
@[simp] theorem onInt_life (f : Integ → Integ) (s : State) : (onInt f s).life = s.life := rfl
@[simp] theorem onInt_dbg (f : Integ → Integ) (s : State) : (onInt f s).dbg = s.dbg := rfl
@[simp] theorem onInt_boot (f : Integ → Integ) (s : State) : (onInt f s).boot = s.boot := rfl
@[simp] theorem onInt_pins (f : Integ → Integ) (s : State) : (onInt f s).pins = s.pins := rfl
@[simp] theorem onInt_health (f : Integ → Integ) (s : State) : (onInt f s).health = s.health := rfl
@[simp] theorem onInt_cmd (f : Integ → Integ) (s : State) : (onInt f s).cmd = s.cmd := rfl
@[simp] theorem onInt_cry (f : Integ → Integ) (s : State) : (onInt f s).cry = s.cry := rfl
@[simp] theorem onInt_brc (f : Integ → Integ) (s : State) : (onInt f s).brc = s.brc := rfl
@[simp] theorem onInt_zst (f : Integ → Integ) (s : State) : (onInt f s).zst = s.zst := rfl
@[simp] theorem onInt_flw (f : Integ → Integ) (s : State) : (onInt f s).flw = s.flw := rfl
@[simp] theorem onInt_med (f : Integ → Integ) (s : State) : (onInt f s).med = s.med := rfl
@[simp] theorem onInt_pwr (f : Integ → Integ) (s : State) : (onInt f s).pwr = s.pwr := rfl
@[simp] theorem onInt_dxr (f : Integ → Integ) (s : State) : (onInt f s).dxr = s.dxr := rfl
@[simp] theorem onInt_dsp (f : Integ → Integ) (s : State) : (onInt f s).dsp = s.dsp := rfl
@[simp] theorem onInt_mov (f : Integ → Integ) (s : State) : (onInt f s).mov = s.mov := rfl
@[simp] theorem onInt_errs (f : Integ → Integ) (s : State) : (onInt f s).errs = s.errs := rfl
@[simp] theorem onInt_errCounts (f : Integ → Integ) (s : State) : (onInt f s).errCounts = s.errCounts := rfl
@[simp] theorem onInt_history (f : Integ → Integ) (s : State) : (onInt f s).history = s.history := rfl
@[simp] theorem onInt_out (f : Integ → Integ) (s : State) : (onInt f s).out = s.out := rfl

@[simp] theorem onRge_pending (f : Rge → Rge) (s : State) : (onRge f s).pending = s.pending := rfl
@[simp] theorem onRge_now (f : Rge → Rge) (s : State) : (onRge f s).now = s.now := rfl
@[simp] theorem onRge_draws (f : Rge → Rge) (s : State) : (onRge f s).draws = s.draws := rfl
@[simp] theorem onRge_regs (f : Rge → Rge) (s : State) : (onRge f s).regs = s.regs := rfl
@[simp] theorem onRge_loaded (f : Rge → Rge) (s : State) : (onRge f s).loaded = s.loaded := rfl
@[simp] theorem onRge_ctrs (f : Rge → Rge) (s : State) : (onRge f s).ctrs = s.ctrs := rfl
@[simp] theorem onRge_snaps (f : Rge → Rge) (s : State) : (onRge f s).snaps = s.snaps := rfl
@[simp] theorem onRge_cad (f : Rge → Rge) (s : State) : (onRge f s).cad = s.cad := rfl
@[simp] theorem onRge_rge (f : Rge → Rge) (s : State) : (onRge f s).rge = f s.rge := rfl
@[simp] theorem onRge_integ (f : Rge → Rge) (s : State) : (onRge f s).integ = s.integ := rfl
@[simp] theorem onRge_pith (f : Rge → Rge) (s : State) : (onRge f s).pith = s.pith := rfl
@[simp] theorem onRge_life (f : Rge → Rge) (s : State) : (onRge f s).life = s.life := rfl
@[simp] theorem onRge_dbg (f : Rge → Rge) (s : State) : (onRge f s).dbg = s.dbg := rfl
@[simp] theorem onRge_boot (f : Rge → Rge) (s : State) : (onRge f s).boot = s.boot := rfl
@[simp] theorem onRge_pins (f : Rge → Rge) (s : State) : (onRge f s).pins = s.pins := rfl
@[simp] theorem onRge_health (f : Rge → Rge) (s : State) : (onRge f s).health = s.health := rfl
@[simp] theorem onRge_cmd (f : Rge → Rge) (s : State) : (onRge f s).cmd = s.cmd := rfl
@[simp] theorem onRge_cry (f : Rge → Rge) (s : State) : (onRge f s).cry = s.cry := rfl
@[simp] theorem onRge_brc (f : Rge → Rge) (s : State) : (onRge f s).brc = s.brc := rfl
@[simp] theorem onRge_zst (f : Rge → Rge) (s : State) : (onRge f s).zst = s.zst := rfl
@[simp] theorem onRge_flw (f : Rge → Rge) (s : State) : (onRge f s).flw = s.flw := rfl
@[simp] theorem onRge_med (f : Rge → Rge) (s : State) : (onRge f s).med = s.med := rfl
@[simp] theorem onRge_pwr (f : Rge → Rge) (s : State) : (onRge f s).pwr = s.pwr := rfl
@[simp] theorem onRge_dxr (f : Rge → Rge) (s : State) : (onRge f s).dxr = s.dxr := rfl
@[simp] theorem onRge_dsp (f : Rge → Rge) (s : State) : (onRge f s).dsp = s.dsp := rfl
@[simp] theorem onRge_mov (f : Rge → Rge) (s : State) : (onRge f s).mov = s.mov := rfl
@[simp] theorem onRge_errs (f : Rge → Rge) (s : State) : (onRge f s).errs = s.errs := rfl
@[simp] theorem onRge_errCounts (f : Rge → Rge) (s : State) : (onRge f s).errCounts = s.errCounts := rfl
@[simp] theorem onRge_history (f : Rge → Rge) (s : State) : (onRge f s).history = s.history := rfl
@[simp] theorem onRge_out (f : Rge → Rge) (s : State) : (onRge f s).out = s.out := rfl

@[simp] theorem onHealth_pending (f : Health → Health) (s : State) : (onHealth f s).pending = s.pending := rfl
@[simp] theorem onHealth_now (f : Health → Health) (s : State) : (onHealth f s).now = s.now := rfl
@[simp] theorem onHealth_draws (f : Health → Health) (s : State) : (onHealth f s).draws = s.draws := rfl
@[simp] theorem onHealth_regs (f : Health → Health) (s : State) : (onHealth f s).regs = s.regs := rfl
@[simp] theorem onHealth_loaded (f : Health → Health) (s : State) : (onHealth f s).loaded = s.loaded := rfl
@[simp] theorem onHealth_ctrs (f : Health → Health) (s : State) : (onHealth f s).ctrs = s.ctrs := rfl
@[simp] theorem onHealth_snaps (f : Health → Health) (s : State) : (onHealth f s).snaps = s.snaps := rfl
@[simp] theorem onHealth_cad (f : Health → Health) (s : State) : (onHealth f s).cad = s.cad := rfl
@[simp] theorem onHealth_rge (f : Health → Health) (s : State) : (onHealth f s).rge = s.rge := rfl
@[simp] theorem onHealth_integ (f : Health → Health) (s : State) : (onHealth f s).integ = s.integ := rfl
@[simp] theorem onHealth_pith (f : Health → Health) (s : State) : (onHealth f s).pith = s.pith := rfl
@[simp] theorem onHealth_life (f : Health → Health) (s : State) : (onHealth f s).life = s.life := rfl
@[simp] theorem onHealth_dbg (f : Health → Health) (s : State) : (onHealth f s).dbg = s.dbg := rfl
@[simp] theorem onHealth_boot (f : Health → Health) (s : State) : (onHealth f s).boot = s.boot := rfl
@[simp] theorem onHealth_pins (f : Health → Health) (s : State) : (onHealth f s).pins = s.pins := rfl
@[simp] theorem onHealth_health (f : Health → Health) (s : State) : (onHealth f s).health = f s.health := rfl
@[simp] theorem onHealth_cmd (f : Health → Health) (s : State) : (onHealth f s).cmd = s.cmd := rfl
@[simp] theorem onHealth_cry (f : Health → Health) (s : State) : (onHealth f s).cry = s.cry := rfl
@[simp] theorem onHealth_brc (f : Health → Health) (s : State) : (onHealth f s).brc = s.brc := rfl
@[simp] theorem onHealth_zst (f : Health → Health) (s : State) : (onHealth f s).zst = s.zst := rfl
@[simp] theorem onHealth_flw (f : Health → Health) (s : State) : (onHealth f s).flw = s.flw := rfl
@[simp] theorem onHealth_med (f : Health → Health) (s : State) : (onHealth f s).med = s.med := rfl
@[simp] theorem onHealth_pwr (f : Health → Health) (s : State) : (onHealth f s).pwr = s.pwr := rfl
@[simp] theorem onHealth_dxr (f : Health → Health) (s : State) : (onHealth f s).dxr = s.dxr := rfl
@[simp] theorem onHealth_dsp (f : Health → Health) (s : State) : (onHealth f s).dsp = s.dsp := rfl
@[simp] theorem onHealth_mov (f : Health → Health) (s : State) : (onHealth f s).mov = s.mov := rfl
@[simp] theorem onHealth_errs (f : Health → Health) (s : State) : (onHealth f s).errs = s.errs := rfl
@[simp] theorem onHealth_errCounts (f : Health → Health) (s : State) : (onHealth f s).errCounts = s.errCounts := rfl
@[simp] theorem onHealth_history (f : Health → Health) (s : State) : (onHealth f s).history = s.history := rfl
@[simp] theorem onHealth_out (f : Health → Health) (s : State) : (onHealth f s).out = s.out := rfl

@[simp] theorem onPith_pending (f : Pith → Pith) (s : State) : (onPith f s).pending = s.pending := rfl
@[simp] theorem onPith_now (f : Pith → Pith) (s : State) : (onPith f s).now = s.now := rfl
@[simp] theorem onPith_draws (f : Pith → Pith) (s : State) : (onPith f s).draws = s.draws := rfl
@[simp] theorem onPith_regs (f : Pith → Pith) (s : State) : (onPith f s).regs = s.regs := rfl
@[simp] theorem onPith_loaded (f : Pith → Pith) (s : State) : (onPith f s).loaded = s.loaded := rfl
@[simp] theorem onPith_ctrs (f : Pith → Pith) (s : State) : (onPith f s).ctrs = s.ctrs := rfl
@[simp] theorem onPith_snaps (f : Pith → Pith) (s : State) : (onPith f s).snaps = s.snaps := rfl
@[simp] theorem onPith_cad (f : Pith → Pith) (s : State) : (onPith f s).cad = s.cad := rfl
@[simp] theorem onPith_rge (f : Pith → Pith) (s : State) : (onPith f s).rge = s.rge := rfl
@[simp] theorem onPith_integ (f : Pith → Pith) (s : State) : (onPith f s).integ = s.integ := rfl
@[simp] theorem onPith_pith (f : Pith → Pith) (s : State) : (onPith f s).pith = f s.pith := rfl
@[simp] theorem onPith_life (f : Pith → Pith) (s : State) : (onPith f s).life = s.life := rfl
@[simp] theorem onPith_dbg (f : Pith → Pith) (s : State) : (onPith f s).dbg = s.dbg := rfl
@[simp] theorem onPith_boot (f : Pith → Pith) (s : State) : (onPith f s).boot = s.boot := rfl
@[simp] theorem onPith_pins (f : Pith → Pith) (s : State) : (onPith f s).pins = s.pins := rfl
@[simp] theorem onPith_health (f : Pith → Pith) (s : State) : (onPith f s).health = s.health := rfl
@[simp] theorem onPith_cmd (f : Pith → Pith) (s : State) : (onPith f s).cmd = s.cmd := rfl
@[simp] theorem onPith_cry (f : Pith → Pith) (s : State) : (onPith f s).cry = s.cry := rfl
@[simp] theorem onPith_brc (f : Pith → Pith) (s : State) : (onPith f s).brc = s.brc := rfl
@[simp] theorem onPith_zst (f : Pith → Pith) (s : State) : (onPith f s).zst = s.zst := rfl
@[simp] theorem onPith_flw (f : Pith → Pith) (s : State) : (onPith f s).flw = s.flw := rfl
@[simp] theorem onPith_med (f : Pith → Pith) (s : State) : (onPith f s).med = s.med := rfl
@[simp] theorem onPith_pwr (f : Pith → Pith) (s : State) : (onPith f s).pwr = s.pwr := rfl
@[simp] theorem onPith_dxr (f : Pith → Pith) (s : State) : (onPith f s).dxr = s.dxr := rfl
@[simp] theorem onPith_dsp (f : Pith → Pith) (s : State) : (onPith f s).dsp = s.dsp := rfl
@[simp] theorem onPith_mov (f : Pith → Pith) (s : State) : (onPith f s).mov = s.mov := rfl
@[simp] theorem onPith_errs (f : Pith → Pith) (s : State) : (onPith f s).errs = s.errs := rfl
@[simp] theorem onPith_errCounts (f : Pith → Pith) (s : State) : (onPith f s).errCounts = s.errCounts := rfl
@[simp] theorem onPith_history (f : Pith → Pith) (s : State) : (onPith f s).history = s.history := rfl
@[simp] theorem onPith_out (f : Pith → Pith) (s : State) : (onPith f s).out = s.out := rfl

@[simp] theorem onPwr_pending (f : Pwr → Pwr) (s : State) : (onPwr f s).pending = s.pending := rfl
@[simp] theorem onPwr_now (f : Pwr → Pwr) (s : State) : (onPwr f s).now = s.now := rfl
@[simp] theorem onPwr_draws (f : Pwr → Pwr) (s : State) : (onPwr f s).draws = s.draws := rfl
@[simp] theorem onPwr_regs (f : Pwr → Pwr) (s : State) : (onPwr f s).regs = s.regs := rfl
@[simp] theorem onPwr_loaded (f : Pwr → Pwr) (s : State) : (onPwr f s).loaded = s.loaded := rfl
@[simp] theorem onPwr_ctrs (f : Pwr → Pwr) (s : State) : (onPwr f s).ctrs = s.ctrs := rfl
@[simp] theorem onPwr_snaps (f : Pwr → Pwr) (s : State) : (onPwr f s).snaps = s.snaps := rfl
@[simp] theorem onPwr_cad (f : Pwr → Pwr) (s : State) : (onPwr f s).cad = s.cad := rfl
@[simp] theorem onPwr_rge (f : Pwr → Pwr) (s : State) : (onPwr f s).rge = s.rge := rfl
@[simp] theorem onPwr_integ (f : Pwr → Pwr) (s : State) : (onPwr f s).integ = s.integ := rfl
@[simp] theorem onPwr_pith (f : Pwr → Pwr) (s : State) : (onPwr f s).pith = s.pith := rfl
@[simp] theorem onPwr_life (f : Pwr → Pwr) (s : State) : (onPwr f s).life = s.life := rfl
@[simp] theorem onPwr_dbg (f : Pwr → Pwr) (s : State) : (onPwr f s).dbg = s.dbg := rfl
@[simp] theorem onPwr_boot (f : Pwr → Pwr) (s : State) : (onPwr f s).boot = s.boot := rfl
@[simp] theorem onPwr_pins (f : Pwr → Pwr) (s : State) : (onPwr f s).pins = s.pins := rfl
@[simp] theorem onPwr_health (f : Pwr → Pwr) (s : State) : (onPwr f s).health = s.health := rfl
@[simp] theorem onPwr_cmd (f : Pwr → Pwr) (s : State) : (onPwr f s).cmd = s.cmd := rfl
@[simp] theorem onPwr_cry (f : Pwr → Pwr) (s : State) : (onPwr f s).cry = s.cry := rfl
@[simp] theorem onPwr_brc (f : Pwr → Pwr) (s : State) : (onPwr f s).brc = s.brc := rfl
@[simp] theorem onPwr_zst (f : Pwr → Pwr) (s : State) : (onPwr f s).zst = s.zst := rfl
@[simp] theorem onPwr_flw (f : Pwr → Pwr) (s : State) : (onPwr f s).flw = s.flw := rfl
@[simp] theorem onPwr_med (f : Pwr → Pwr) (s : State) : (onPwr f s).med = s.med := rfl
@[simp] theorem onPwr_pwr (f : Pwr → Pwr) (s : State) : (onPwr f s).pwr = f s.pwr := rfl
@[simp] theorem onPwr_dxr (f : Pwr → Pwr) (s : State) : (onPwr f s).dxr = s.dxr := rfl
@[simp] theorem onPwr_dsp (f : Pwr → Pwr) (s : State) : (onPwr f s).dsp = s.dsp := rfl
@[simp] theorem onPwr_mov (f : Pwr → Pwr) (s : State) : (onPwr f s).mov = s.mov := rfl
@[simp] theorem onPwr_errs (f : Pwr → Pwr) (s : State) : (onPwr f s).errs = s.errs := rfl
@[simp] theorem onPwr_errCounts (f : Pwr → Pwr) (s : State) : (onPwr f s).errCounts = s.errCounts := rfl
@[simp] theorem onPwr_history (f : Pwr → Pwr) (s : State) : (onPwr f s).history = s.history := rfl
@[simp] theorem onPwr_out (f : Pwr → Pwr) (s : State) : (onPwr f s).out = s.out := rfl

@[simp] theorem onCmd_pending (f : CmdSt → CmdSt) (s : State) : (onCmd f s).pending = s.pending := rfl
@[simp] theorem onCmd_now (f : CmdSt → CmdSt) (s : State) : (onCmd f s).now = s.now := rfl
@[simp] theorem onCmd_draws (f : CmdSt → CmdSt) (s : State) : (onCmd f s).draws = s.draws := rfl
@[simp] theorem onCmd_regs (f : CmdSt → CmdSt) (s : State) : (onCmd f s).regs = s.regs := rfl
@[simp] theorem onCmd_loaded (f : CmdSt → CmdSt) (s : State) : (onCmd f s).loaded = s.loaded := rfl
@[simp] theorem onCmd_ctrs (f : CmdSt → CmdSt) (s : State) : (onCmd f s).ctrs = s.ctrs := rfl
@[simp] theorem onCmd_snaps (f : CmdSt → CmdSt) (s : State) : (onCmd f s).snaps = s.snaps := rfl
@[simp] theorem onCmd_cad (f : CmdSt → CmdSt) (s : State) : (onCmd f s).cad = s.cad := rfl
@[simp] theorem onCmd_rge (f : CmdSt → CmdSt) (s : State) : (onCmd f s).rge = s.rge := rfl
@[simp] theorem onCmd_integ (f : CmdSt → CmdSt) (s : State) : (onCmd f s).integ = s.integ := rfl
@[simp] theorem onCmd_pith (f : CmdSt → CmdSt) (s : State) : (onCmd f s).pith = s.pith := rfl
@[simp] theorem onCmd_life (f : CmdSt → CmdSt) (s : State) : (onCmd f s).life = s.life := rfl
@[simp] theorem onCmd_dbg (f : CmdSt → CmdSt) (s : State) : (onCmd f s).dbg = s.dbg := rfl
@[simp] theorem onCmd_boot (f : CmdSt → CmdSt) (s : State) : (onCmd f s).boot = s.boot := rfl
@[simp] theorem onCmd_pins (f : CmdSt → CmdSt) (s : State) : (onCmd f s).pins = s.pins := rfl
@[simp] theorem onCmd_health (f : CmdSt → CmdSt) (s : State) : (onCmd f s).health = s.health := rfl
@[simp] theorem onCmd_cmd (f : CmdSt → CmdSt) (s : State) : (onCmd f s).cmd = f s.cmd := rfl
@[simp] theorem onCmd_cry (f : CmdSt → CmdSt) (s : State) : (onCmd f s).cry = s.cry := rfl
@[simp] theorem onCmd_brc (f : CmdSt → CmdSt) (s : State) : (onCmd f s).brc = s.brc := rfl
@[simp] theorem onCmd_zst (f : CmdSt → CmdSt) (s : State) : (onCmd f s).zst = s.zst := rfl
@[simp] theorem onCmd_flw (f : CmdSt → CmdSt) (s : State) : (onCmd f s).flw = s.flw := rfl
@[simp] theorem onCmd_med (f : CmdSt → CmdSt) (s : State) : (onCmd f s).med = s.med := rfl
@[simp] theorem onCmd_pwr (f : CmdSt → CmdSt) (s : State) : (onCmd f s).pwr = s.pwr := rfl
@[simp] theorem onCmd_dxr (f : CmdSt → CmdSt) (s : State) : (onCmd f s).dxr = s.dxr := rfl
@[simp] theorem onCmd_dsp (f : CmdSt → CmdSt) (s : State) : (onCmd f s).dsp = s.dsp := rfl
@[simp] theorem onCmd_mov (f : CmdSt → CmdSt) (s : State) : (onCmd f s).mov = s.mov := rfl
@[simp] theorem onCmd_errs (f : CmdSt → CmdSt) (s : State) : (onCmd f s).errs = s.errs := rfl
@[simp] theorem onCmd_errCounts (f : CmdSt → CmdSt) (s : State) : (onCmd f s).errCounts = s.errCounts := rfl
@[simp] theorem onCmd_history (f : CmdSt → CmdSt) (s : State) : (onCmd f s).history = s.history := rfl
@[simp] theorem onCmd_out (f : CmdSt → CmdSt) (s : State) : (onCmd f s).out = s.out := rfl

@[simp] theorem onMed_pending (f : Med → Med) (s : State) : (onMed f s).pending = s.pending := rfl
@[simp] theorem onMed_now (f : Med → Med) (s : State) : (onMed f s).now = s.now := rfl
@[simp] theorem onMed_draws (f : Med → Med) (s : State) : (onMed f s).draws = s.draws := rfl
@[simp] theorem onMed_regs (f : Med → Med) (s : State) : (onMed f s).regs = s.regs := rfl
@[simp] theorem onMed_loaded (f : Med → Med) (s : State) : (onMed f s).loaded = s.loaded := rfl
@[simp] theorem onMed_ctrs (f : Med → Med) (s : State) : (onMed f s).ctrs = s.ctrs := rfl
@[simp] theorem onMed_snaps (f : Med → Med) (s : State) : (onMed f s).snaps = s.snaps := rfl
@[simp] theorem onMed_cad (f : Med → Med) (s : State) : (onMed f s).cad = s.cad := rfl
@[simp] theorem onMed_rge (f : Med → Med) (s : State) : (onMed f s).rge = s.rge := rfl
@[simp] theorem onMed_integ (f : Med → Med) (s : State) : (onMed f s).integ = s.integ := rfl
@[simp] theorem onMed_pith (f : Med → Med) (s : State) : (onMed f s).pith = s.pith := rfl
@[simp] theorem onMed_life (f : Med → Med) (s : State) : (onMed f s).life = s.life := rfl
@[simp] theorem onMed_dbg (f : Med → Med) (s : State) : (onMed f s).dbg = s.dbg := rfl
@[simp] theorem onMed_boot (f : Med → Med) (s : State) : (onMed f s).boot = s.boot := rfl
@[simp] theorem onMed_pins (f : Med → Med) (s : State) : (onMed f s).pins = s.pins := rfl
@[simp] theorem onMed_health (f : Med → Med) (s : State) : (onMed f s).health = s.health := rfl
@[simp] theorem onMed_cmd (f : Med → Med) (s : State) : (onMed f s).cmd = s.cmd := rfl
@[simp] theorem onMed_cry (f : Med → Med) (s : State) : (onMed f s).cry = s.cry := rfl
@[simp] theorem onMed_brc (f : Med → Med) (s : State) : (onMed f s).brc = s.brc := rfl
@[simp] theorem onMed_zst (f : Med → Med) (s : State) : (onMed f s).zst = s.zst := rfl
@[simp] theorem onMed_flw (f : Med → Med) (s : State) : (onMed f s).flw = s.flw := rfl
@[simp] theorem onMed_med (f : Med → Med) (s : State) : (onMed f s).med = f s.med := rfl
@[simp] theorem onMed_pwr (f : Med → Med) (s : State) : (onMed f s).pwr = s.pwr := rfl
@[simp] theorem onMed_dxr (f : Med → Med) (s : State) : (onMed f s).dxr = s.dxr := rfl
@[simp] theorem onMed_dsp (f : Med → Med) (s : State) : (onMed f s).dsp = s.dsp := rfl
@[simp] theorem onMed_mov (f : Med → Med) (s : State) : (onMed f s).mov = s.mov := rfl
@[simp] theorem onMed_errs (f : Med → Med) (s : State) : (onMed f s).errs = s.errs := rfl
@[simp] theorem onMed_errCounts (f : Med → Med) (s : State) : (onMed f s).errCounts = s.errCounts := rfl
@[simp] theorem onMed_history (f : Med → Med) (s : State) : (onMed f s).history = s.history := rfl
@[simp] theorem onMed_out (f : Med → Med) (s : State) : (onMed f s).out = s.out := rfl

@[simp] theorem onDxr_pending (f : Dxr → Dxr) (s : State) : (onDxr f s).pending = s.pending := rfl
@[simp] theorem onDxr_now (f : Dxr → Dxr) (s : State) : (onDxr f s).now = s.now := rfl
@[simp] theorem onDxr_draws (f : Dxr → Dxr) (s : State) : (onDxr f s).draws = s.draws := rfl
@[simp] theorem onDxr_regs (f : Dxr → Dxr) (s : State) : (onDxr f s).regs = s.regs := rfl
@[simp] theorem onDxr_loaded (f : Dxr → Dxr) (s : State) : (onDxr f s).loaded = s.loaded := rfl
@[simp] theorem onDxr_ctrs (f : Dxr → Dxr) (s : State) : (onDxr f s).ctrs = s.ctrs := rfl
@[simp] theorem onDxr_snaps (f : Dxr → Dxr) (s : State) : (onDxr f s).snaps = s.snaps := rfl
@[simp] theorem onDxr_cad (f : Dxr → Dxr) (s : State) : (onDxr f s).cad = s.cad := rfl
@[simp] theorem onDxr_rge (f : Dxr → Dxr) (s : State) : (onDxr f s).rge = s.rge := rfl
@[simp] theorem onDxr_integ (f : Dxr → Dxr) (s : State) : (onDxr f s).integ = s.integ := rfl
@[simp] theorem onDxr_pith (f : Dxr → Dxr) (s : State) : (onDxr f s).pith = s.pith := rfl
@[simp] theorem onDxr_life (f : Dxr → Dxr) (s : State) : (onDxr f s).life = s.life := rfl
@[simp] theorem onDxr_dbg (f : Dxr → Dxr) (s : State) : (onDxr f s).dbg = s.dbg := rfl
@[simp] theorem onDxr_boot (f : Dxr → Dxr) (s : State) : (onDxr f s).boot = s.boot := rfl
@[simp] theorem onDxr_pins (f : Dxr → Dxr) (s : State) : (onDxr f s).pins = s.pins := rfl
@[simp] theorem onDxr_health (f : Dxr → Dxr) (s : State) : (onDxr f s).health = s.health := rfl
@[simp] theorem onDxr_cmd (f : Dxr → Dxr) (s : State) : (onDxr f s).cmd = s.cmd := rfl
@[simp] theorem onDxr_cry (f : Dxr → Dxr) (s : State) : (onDxr f s).cry = s.cry := rfl
@[simp] theorem onDxr_brc (f : Dxr → Dxr) (s : State) : (onDxr f s).brc = s.brc := rfl
@[simp] theorem onDxr_zst (f : Dxr → Dxr) (s : State) : (onDxr f s).zst = s.zst := rfl
@[simp] theorem onDxr_flw (f : Dxr → Dxr) (s : State) : (onDxr f s).flw = s.flw := rfl
@[simp] theorem onDxr_med (f : Dxr → Dxr) (s : State) : (onDxr f s).med = s.med := rfl
@[simp] theorem onDxr_pwr (f : Dxr → Dxr) (s : State) : (onDxr f s).pwr = s.pwr := rfl
@[simp] theorem onDxr_dxr (f : Dxr → Dxr) (s : State) : (onDxr f s).dxr = f s.dxr := rfl
@[simp] theorem onDxr_dsp (f : Dxr → Dxr) (s : State) : (onDxr f s).dsp = s.dsp := rfl
@[simp] theorem onDxr_mov (f : Dxr → Dxr) (s : State) : (onDxr f s).mov = s.mov := rfl
@[simp] theorem onDxr_errs (f : Dxr → Dxr) (s : State) : (onDxr f s).errs = s.errs := rfl
@[simp] theorem onDxr_errCounts (f : Dxr → Dxr) (s : State) : (onDxr f s).errCounts = s.errCounts := rfl
@[simp] theorem onDxr_history (f : Dxr → Dxr) (s : State) : (onDxr f s).history = s.history := rfl
@[simp] theorem onDxr_out (f : Dxr → Dxr) (s : State) : (onDxr f s).out = s.out := rfl

@[simp] theorem onCry_pending (f : Cry → Cry) (s : State) : (onCry f s).pending = s.pending := rfl
@[simp] theorem onCry_now (f : Cry → Cry) (s : State) : (onCry f s).now = s.now := rfl
@[simp] theorem onCry_draws (f : Cry → Cry) (s : State) : (onCry f s).draws = s.draws := rfl
@[simp] theorem onCry_regs (f : Cry → Cry) (s : State) : (onCry f s).regs = s.regs := rfl
@[simp] theorem onCry_loaded (f : Cry → Cry) (s : State) : (onCry f s).loaded = s.loaded := rfl
@[simp] theorem onCry_ctrs (f : Cry → Cry) (s : State) : (onCry f s).ctrs = s.ctrs := rfl
@[simp] theorem onCry_snaps (f : Cry → Cry) (s : State) : (onCry f s).snaps = s.snaps := rfl
@[simp] theorem onCry_cad (f : Cry → Cry) (s : State) : (onCry f s).cad = s.cad := rfl
@[simp] theorem onCry_rge (f : Cry → Cry) (s : State) : (onCry f s).rge = s.rge := rfl
@[simp] theorem onCry_integ (f : Cry → Cry) (s : State) : (onCry f s).integ = s.integ := rfl
@[simp] theorem onCry_pith (f : Cry → Cry) (s : State) : (onCry f s).pith = s.pith := rfl
@[simp] theorem onCry_life (f : Cry → Cry) (s : State) : (onCry f s).life = s.life := rfl
@[simp] theorem onCry_dbg (f : Cry → Cry) (s : State) : (onCry f s).dbg = s.dbg := rfl
@[simp] theorem onCry_boot (f : Cry → Cry) (s : State) : (onCry f s).boot = s.boot := rfl
@[simp] theorem onCry_pins (f : Cry → Cry) (s : State) : (onCry f s).pins = s.pins := rfl
@[simp] theorem onCry_health (f : Cry → Cry) (s : State) : (onCry f s).health = s.health := rfl
@[simp] theorem onCry_cmd (f : Cry → Cry) (s : State) : (onCry f s).cmd = s.cmd := rfl
@[simp] theorem onCry_cry (f : Cry → Cry) (s : State) : (onCry f s).cry = f s.cry := rfl
@[simp] theorem onCry_brc (f : Cry → Cry) (s : State) : (onCry f s).brc = s.brc := rfl
@[simp] theorem onCry_zst (f : Cry → Cry) (s : State) : (onCry f s).zst = s.zst := rfl
@[simp] theorem onCry_flw (f : Cry → Cry) (s : State) : (onCry f s).flw = s.flw := rfl
@[simp] theorem onCry_med (f : Cry → Cry) (s : State) : (onCry f s).med = s.med := rfl
@[simp] theorem onCry_pwr (f : Cry → Cry) (s : State) : (onCry f s).pwr = s.pwr := rfl
@[simp] theorem onCry_dxr (f : Cry → Cry) (s : State) : (onCry f s).dxr = s.dxr := rfl
@[simp] theorem onCry_dsp (f : Cry → Cry) (s : State) : (onCry f s).dsp = s.dsp := rfl
@[simp] theorem onCry_mov (f : Cry → Cry) (s : State) : (onCry f s).mov = s.mov := rfl
@[simp] theorem onCry_errs (f : Cry → Cry) (s : State) : (onCry f s).errs = s.errs := rfl
@[simp] theorem onCry_errCounts (f : Cry → Cry) (s : State) : (onCry f s).errCounts = s.errCounts := rfl
@[simp] theorem onCry_history (f : Cry → Cry) (s : State) : (onCry f s).history = s.history := rfl
@[simp] theorem onCry_out (f : Cry → Cry) (s : State) : (onCry f s).out = s.out := rfl

@[simp] theorem onDsp_pending (f : Dsp → Dsp) (s : State) : (onDsp f s).pending = s.pending := rfl
@[simp] theorem onDsp_now (f : Dsp → Dsp) (s : State) : (onDsp f s).now = s.now := rfl
@[simp] theorem onDsp_draws (f : Dsp → Dsp) (s : State) : (onDsp f s).draws = s.draws := rfl
@[simp] theorem onDsp_regs (f : Dsp → Dsp) (s : State) : (onDsp f s).regs = s.regs := rfl
@[simp] theorem onDsp_loaded (f : Dsp → Dsp) (s : State) : (onDsp f s).loaded = s.loaded := rfl
@[simp] theorem onDsp_ctrs (f : Dsp → Dsp) (s : State) : (onDsp f s).ctrs = s.ctrs := rfl
@[simp] theorem onDsp_snaps (f : Dsp → Dsp) (s : State) : (onDsp f s).snaps = s.snaps := rfl
@[simp] theorem onDsp_cad (f : Dsp → Dsp) (s : State) : (onDsp f s).cad = s.cad := rfl
@[simp] theorem onDsp_rge (f : Dsp → Dsp) (s : State) : (onDsp f s).rge = s.rge := rfl
@[simp] theorem onDsp_integ (f : Dsp → Dsp) (s : State) : (onDsp f s).integ = s.integ := rfl
@[simp] theorem onDsp_pith (f : Dsp → Dsp) (s : State) : (onDsp f s).pith = s.pith := rfl
@[simp] theorem onDsp_life (f : Dsp → Dsp) (s : State) : (onDsp f s).life = s.life := rfl
@[simp] theorem onDsp_dbg (f : Dsp → Dsp) (s : State) : (onDsp f s).dbg = s.dbg := rfl
@[simp] theorem onDsp_boot (f : Dsp → Dsp) (s : State) : (onDsp f s).boot = s.boot := rfl
@[simp] theorem onDsp_pins (f : Dsp → Dsp) (s : State) : (onDsp f s).pins = s.pins := rfl
@[simp] theorem onDsp_health (f : Dsp → Dsp) (s : State) : (onDsp f s).health = s.health := rfl
@[simp] theorem onDsp_cmd (f : Dsp → Dsp) (s : State) : (onDsp f s).cmd = s.cmd := rfl
@[simp] theorem onDsp_cry (f : Dsp → Dsp) (s : State) : (onDsp f s).cry = s.cry := rfl
@[simp] theorem onDsp_brc (f : Dsp → Dsp) (s : State) : (onDsp f s).brc = s.brc := rfl
@[simp] theorem onDsp_zst (f : Dsp → Dsp) (s : State) : (onDsp f s).zst = s.zst := rfl
@[simp] theorem onDsp_flw (f : Dsp → Dsp) (s : State) : (onDsp f s).flw = s.flw := rfl
@[simp] theorem onDsp_med (f : Dsp → Dsp) (s : State) : (onDsp f s).med = s.med := rfl
@[simp] theorem onDsp_pwr (f : Dsp → Dsp) (s : State) : (onDsp f s).pwr = s.pwr := rfl
@[simp] theorem onDsp_dxr (f : Dsp → Dsp) (s : State) : (onDsp f s).dxr = s.dxr := rfl
@[simp] theorem onDsp_dsp (f : Dsp → Dsp) (s : State) : (onDsp f s).dsp = f s.dsp := rfl
@[simp] theorem onDsp_mov (f : Dsp → Dsp) (s : State) : (onDsp f s).mov = s.mov := rfl
@[simp] theorem onDsp_errs (f : Dsp → Dsp) (s : State) : (onDsp f s).errs = s.errs := rfl
@[simp] theorem onDsp_errCounts (f : Dsp → Dsp) (s : State) : (onDsp f s).errCounts = s.errCounts := rfl
@[simp] theorem onDsp_history (f : Dsp → Dsp) (s : State) : (onDsp f s).history = s.history := rfl
@[simp] theorem onDsp_out (f : Dsp → Dsp) (s : State) : (onDsp f s).out = s.out := rfl

@[simp] theorem onMov_pending (f : Mov → Mov) (s : State) : (onMov f s).pending = s.pending := rfl
@[simp] theorem onMov_now (f : Mov → Mov) (s : State) : (onMov f s).now = s.now := rfl
@[simp] theorem onMov_draws (f : Mov → Mov) (s : State) : (onMov f s).draws = s.draws := rfl
@[simp] theorem onMov_regs (f : Mov → Mov) (s : State) : (onMov f s).regs = s.regs := rfl
@[simp] theorem onMov_loaded (f : Mov → Mov) (s : State) : (onMov f s).loaded = s.loaded := rfl
@[simp] theorem onMov_ctrs (f : Mov → Mov) (s : State) : (onMov f s).ctrs = s.ctrs := rfl
@[simp] theorem onMov_snaps (f : Mov → Mov) (s : State) : (onMov f s).snaps = s.snaps := rfl
@[simp] theorem onMov_cad (f : Mov → Mov) (s : State) : (onMov f s).cad = s.cad := rfl
@[simp] theorem onMov_rge (f : Mov → Mov) (s : State) : (onMov f s).rge = s.rge := rfl
@[simp] theorem onMov_integ (f : Mov → Mov) (s : State) : (onMov f s).integ = s.integ := rfl
@[simp] theorem onMov_pith (f : Mov → Mov) (s : State) : (onMov f s).pith = s.pith := rfl
@[simp] theorem onMov_life (f : Mov → Mov) (s : State) : (onMov f s).life = s.life := rfl
@[simp] theorem onMov_dbg (f : Mov → Mov) (s : State) : (onMov f s).dbg = s.dbg := rfl
@[simp] theorem onMov_boot (f : Mov → Mov) (s : State) : (onMov f s).boot = s.boot := rfl
@[simp] theorem onMov_pins (f : Mov → Mov) (s : State) : (onMov f s).pins = s.pins := rfl
@[simp] theorem onMov_health (f : Mov → Mov) (s : State) : (onMov f s).health = s.health := rfl
@[simp] theorem onMov_cmd (f : Mov → Mov) (s : State) : (onMov f s).cmd = s.cmd := rfl
@[simp] theorem onMov_cry (f : Mov → Mov) (s : State) : (onMov f s).cry = s.cry := rfl
@[simp] theorem onMov_brc (f : Mov → Mov) (s : State) : (onMov f s).brc = s.brc := rfl
@[simp] theorem onMov_zst (f : Mov → Mov) (s : State) : (onMov f s).zst = s.zst := rfl
@[simp] theorem onMov_flw (f : Mov → Mov) (s : State) : (onMov f s).flw = s.flw := rfl
@[simp] theorem onMov_med (f : Mov → Mov) (s : State) : (onMov f s).med = s.med := rfl
@[simp] theorem onMov_pwr (f : Mov → Mov) (s : State) : (onMov f s).pwr = s.pwr := rfl
@[simp] theorem onMov_dxr (f : Mov → Mov) (s : State) : (onMov f s).dxr = s.dxr := rfl
@[simp] theorem onMov_dsp (f : Mov → Mov) (s : State) : (onMov f s).dsp = s.dsp := rfl
@[simp] theorem onMov_mov (f : Mov → Mov) (s : State) : (onMov f s).mov = f s.mov := rfl
@[simp] theorem onMov_errs (f : Mov → Mov) (s : State) : (onMov f s).errs = s.errs := rfl
@[simp] theorem onMov_errCounts (f : Mov → Mov) (s : State) : (onMov f s).errCounts = s.errCounts := rfl
@[simp] theorem onMov_history (f : Mov → Mov) (s : State) : (onMov f s).history = s.history := rfl
@[simp] theorem onMov_out (f : Mov → Mov) (s : State) : (onMov f s).out = s.out := rfl

@[simp] theorem onBrc_pending (f : Brc → Brc) (s : State) : (onBrc f s).pending = s.pending := rfl
@[simp] theorem onBrc_now (f : Brc → Brc) (s : State) : (onBrc f s).now = s.now := rfl
@[simp] theorem onBrc_draws (f : Brc → Brc) (s : State) : (onBrc f s).draws = s.draws := rfl
@[simp] theorem onBrc_regs (f : Brc → Brc) (s : State) : (onBrc f s).regs = s.regs := rfl
@[simp] theorem onBrc_loaded (f : Brc → Brc) (s : State) : (onBrc f s).loaded = s.loaded := rfl
@[simp] theorem onBrc_ctrs (f : Brc → Brc) (s : State) : (onBrc f s).ctrs = s.ctrs := rfl
@[simp] theorem onBrc_snaps (f : Brc → Brc) (s : State) : (onBrc f s).snaps = s.snaps := rfl
@[simp] theorem onBrc_cad (f : Brc → Brc) (s : State) : (onBrc f s).cad = s.cad := rfl
@[simp] theorem onBrc_rge (f : Brc → Brc) (s : State) : (onBrc f s).rge = s.rge := rfl
@[simp] theorem onBrc_integ (f : Brc → Brc) (s : State) : (onBrc f s).integ = s.integ := rfl
@[simp] theorem onBrc_pith (f : Brc → Brc) (s : State) : (onBrc f s).pith = s.pith := rfl
@[simp] theorem onBrc_life (f : Brc → Brc) (s : State) : (onBrc f s).life = s.life := rfl
@[simp] theorem onBrc_dbg (f : Brc → Brc) (s : State) : (onBrc f s).dbg = s.dbg := rfl
@[simp] theorem onBrc_boot (f : Brc → Brc) (s : State) : (onBrc f s).boot = s.boot := rfl
@[simp] theorem onBrc_pins (f : Brc → Brc) (s : State) : (onBrc f s).pins = s.pins := rfl
@[simp] theorem onBrc_health (f : Brc → Brc) (s : State) : (onBrc f s).health = s.health := rfl
@[simp] theorem onBrc_cmd (f : Brc → Brc) (s : State) : (onBrc f s).cmd = s.cmd := rfl
@[simp] theorem onBrc_cry (f : Brc → Brc) (s : State) : (onBrc f s).cry = s.cry := rfl
@[simp] theorem onBrc_brc (f : Brc → Brc) (s : State) : (onBrc f s).brc = f s.brc := rfl
@[simp] theorem onBrc_zst (f : Brc → Brc) (s : State) : (onBrc f s).zst = s.zst := rfl
@[simp] theorem onBrc_flw (f : Brc → Brc) (s : State) : (onBrc f s).flw = s.flw := rfl
@[simp] theorem onBrc_med (f : Brc → Brc) (s : State) : (onBrc f s).med = s.med := rfl
@[simp] theorem onBrc_pwr (f : Brc → Brc) (s : State) : (onBrc f s).pwr = s.pwr := rfl
@[simp] theorem onBrc_dxr (f : Brc → Brc) (s : State) : (onBrc f s).dxr = s.dxr := rfl
@[simp] theorem onBrc_dsp (f : Brc → Brc) (s : State) : (onBrc f s).dsp = s.dsp := rfl
@[simp] theorem onBrc_mov (f : Brc → Brc) (s : State) : (onBrc f s).mov = s.mov := rfl
@[simp] theorem onBrc_errs (f : Brc → Brc) (s : State) : (onBrc f s).errs = s.errs := rfl
@[simp] theorem onBrc_errCounts (f : Brc → Brc) (s : State) : (onBrc f s).errCounts = s.errCounts := rfl
@[simp] theorem onBrc_history (f : Brc → Brc) (s : State) : (onBrc f s).history = s.history := rfl
@[simp] theorem onBrc_out (f : Brc → Brc) (s : State) : (onBrc f s).out = s.out := rfl

@[simp] theorem onLife_pending (f : Life → Life) (s : State) : (onLife f s).pending = s.pending := rfl
@[simp] theorem onLife_now (f : Life → Life) (s : State) : (onLife f s).now = s.now := rfl
@[simp] theorem onLife_draws (f : Life → Life) (s : State) : (onLife f s).draws = s.draws := rfl
@[simp] theorem onLife_regs (f : Life → Life) (s : State) : (onLife f s).regs = s.regs := rfl
@[simp] theorem onLife_loaded (f : Life → Life) (s : State) : (onLife f s).loaded = s.loaded := rfl
@[simp] theorem onLife_ctrs (f : Life → Life) (s : State) : (onLife f s).ctrs = s.ctrs := rfl
@[simp] theorem onLife_snaps (f : Life → Life) (s : State) : (onLife f s).snaps = s.snaps := rfl
@[simp] theorem onLife_cad (f : Life → Life) (s : State) : (onLife f s).cad = s.cad := rfl
@[simp] theorem onLife_rge (f : Life → Life) (s : State) : (onLife f s).rge = s.rge := rfl
@[simp] theorem onLife_integ (f : Life → Life) (s : State) : (onLife f s).integ = s.integ := rfl
@[simp] theorem onLife_pith (f : Life → Life) (s : State) : (onLife f s).pith = s.pith := rfl
@[simp] theorem onLife_life (f : Life → Life) (s : State) : (onLife f s).life = f s.life := rfl
@[simp] theorem onLife_dbg (f : Life → Life) (s : State) : (onLife f s).dbg = s.dbg := rfl
@[simp] theorem onLife_boot (f : Life → Life) (s : State) : (onLife f s).boot = s.boot := rfl
@[simp] theorem onLife_pins (f : Life → Life) (s : State) : (onLife f s).pins = s.pins := rfl
@[simp] theorem onLife_health (f : Life → Life) (s : State) : (onLife f s).health = s.health := rfl
@[simp] theorem onLife_cmd (f : Life → Life) (s : State) : (onLife f s).cmd = s.cmd := rfl
@[simp] theorem onLife_cry (f : Life → Life) (s : State) : (onLife f s).cry = s.cry := rfl
@[simp] theorem onLife_brc (f : Life → Life) (s : State) : (onLife f s).brc = s.brc := rfl
@[simp] theorem onLife_zst (f : Life → Life) (s : State) : (onLife f s).zst = s.zst := rfl
@[simp] theorem onLife_flw (f : Life → Life) (s : State) : (onLife f s).flw = s.flw := rfl
@[simp] theorem onLife_med (f : Life → Life) (s : State) : (onLife f s).med = s.med := rfl
@[simp] theorem onLife_pwr (f : Life → Life) (s : State) : (onLife f s).pwr = s.pwr := rfl
@[simp] theorem onLife_dxr (f : Life → Life) (s : State) : (onLife f s).dxr = s.dxr := rfl
@[simp] theorem onLife_dsp (f : Life → Life) (s : State) : (onLife f s).dsp = s.dsp := rfl
@[simp] theorem onLife_mov (f : Life → Life) (s : State) : (onLife f s).mov = s.mov := rfl
@[simp] theorem onLife_errs (f : Life → Life) (s : State) : (onLife f s).errs = s.errs := rfl
@[simp] theorem onLife_errCounts (f : Life → Life) (s : State) : (onLife f s).errCounts = s.errCounts := rfl
@[simp] theorem onLife_history (f : Life → Life) (s : State) : (onLife f s).history = s.history := rfl
@[simp] theorem onLife_out (f : Life → Life) (s : State) : (onLife f s).out = s.out := rfl

@[simp] theorem onDbg_pending (f : Dbg → Dbg) (s : State) : (onDbg f s).pending = s.pending := rfl
@[simp] theorem onDbg_now (f : Dbg → Dbg) (s : State) : (onDbg f s).now = s.now := rfl
@[simp] theorem onDbg_draws (f : Dbg → Dbg) (s : State) : (onDbg f s).draws = s.draws := rfl
@[simp] theorem onDbg_regs (f : Dbg → Dbg) (s : State) : (onDbg f s).regs = s.regs := rfl
@[simp] theorem onDbg_loaded (f : Dbg → Dbg) (s : State) : (onDbg f s).loaded = s.loaded := rfl
@[simp] theorem onDbg_ctrs (f : Dbg → Dbg) (s : State) : (onDbg f s).ctrs = s.ctrs := rfl
@[simp] theorem onDbg_snaps (f : Dbg → Dbg) (s : State) : (onDbg f s).snaps = s.snaps := rfl
@[simp] theorem onDbg_cad (f : Dbg → Dbg) (s : State) : (onDbg f s).cad = s.cad := rfl
@[simp] theorem onDbg_rge (f : Dbg → Dbg) (s : State) : (onDbg f s).rge = s.rge := rfl
@[simp] theorem onDbg_integ (f : Dbg → Dbg) (s : State) : (onDbg f s).integ = s.integ := rfl
@[simp] theorem onDbg_pith (f : Dbg → Dbg) (s : State) : (onDbg f s).pith = s.pith := rfl
@[simp] theorem onDbg_life (f : Dbg → Dbg) (s : State) : (onDbg f s).life = s.life := rfl
@[simp] theorem onDbg_dbg (f : Dbg → Dbg) (s : State) : (onDbg f s).dbg = f s.dbg := rfl
@[simp] theorem onDbg_boot (f : Dbg → Dbg) (s : State) : (onDbg f s).boot = s.boot := rfl
@[simp] theorem onDbg_pins (f : Dbg → Dbg) (s : State) : (onDbg f s).pins = s.pins := rfl
@[simp] theorem onDbg_health (f : Dbg → Dbg) (s : State) : (onDbg f s).health = s.health := rfl
@[simp] theorem onDbg_cmd (f : Dbg → Dbg) (s : State) : (onDbg f s).cmd = s.cmd := rfl
@[simp] theorem onDbg_cry (f : Dbg → Dbg) (s : State) : (onDbg f s).cry = s.cry := rfl
@[simp] theorem onDbg_brc (f : Dbg → Dbg) (s : State) : (onDbg f s).brc = s.brc := rfl
@[simp] theorem onDbg_zst (f : Dbg → Dbg) (s : State) : (onDbg f s).zst = s.zst := rfl
@[simp] theorem onDbg_flw (f : Dbg → Dbg) (s : State) : (onDbg f s).flw = s.flw := rfl
@[simp] theorem onDbg_med (f : Dbg → Dbg) (s : State) : (onDbg f s).med = s.med := rfl
@[simp] theorem onDbg_pwr (f : Dbg → Dbg) (s : State) : (onDbg f s).pwr = s.pwr := rfl
@[simp] theorem onDbg_dxr (f : Dbg → Dbg) (s : State) : (onDbg f s).dxr = s.dxr := rfl
@[simp] theorem onDbg_dsp (f : Dbg → Dbg) (s : State) : (onDbg f s).dsp = s.dsp := rfl
@[simp] theorem onDbg_mov (f : Dbg → Dbg) (s : State) : (onDbg f s).mov = s.mov := rfl
@[simp] theorem onDbg_errs (f : Dbg → Dbg) (s : State) : (onDbg f s).errs = s.errs := rfl
@[simp] theorem onDbg_errCounts (f : Dbg → Dbg) (s : State) : (onDbg f s).errCounts = s.errCounts := rfl
@[simp] theorem onDbg_history (f : Dbg → Dbg) (s : State) : (onDbg f s).history = s.history := rfl
@[simp] theorem onDbg_out (f : Dbg → Dbg) (s : State) : (onDbg f s).out = s.out := rfl

@[simp] theorem onBoot_pending (f : Boot → Boot) (s : State) : (onBoot f s).pending = s.pending := rfl
@[simp] theorem onBoot_now (f : Boot → Boot) (s : State) : (onBoot f s).now = s.now := rfl
@[simp] theorem onBoot_draws (f : Boot → Boot) (s : State) : (onBoot f s).draws = s.draws := rfl
@[simp] theorem onBoot_regs (f : Boot → Boot) (s : State) : (onBoot f s).regs = s.regs := rfl
@[simp] theorem onBoot_loaded (f : Boot → Boot) (s : State) : (onBoot f s).loaded = s.loaded := rfl
@[simp] theorem onBoot_ctrs (f : Boot → Boot) (s : State) : (onBoot f s).ctrs = s.ctrs := rfl
@[simp] theorem onBoot_snaps (f : Boot → Boot) (s : State) : (onBoot f s).snaps = s.snaps := rfl
@[simp] theorem onBoot_cad (f : Boot → Boot) (s : State) : (onBoot f s).cad = s.cad := rfl
@[simp] theorem onBoot_rge (f : Boot → Boot) (s : State) : (onBoot f s).rge = s.rge := rfl
@[simp] theorem onBoot_integ (f : Boot → Boot) (s : State) : (onBoot f s).integ = s.integ := rfl
@[simp] theorem onBoot_pith (f : Boot → Boot) (s : State) : (onBoot f s).pith = s.pith := rfl
@[simp] theorem onBoot_life (f : Boot → Boot) (s : State) : (onBoot f s).life = s.life := rfl
@[simp] theorem onBoot_dbg (f : Boot → Boot) (s : State) : (onBoot f s).dbg = s.dbg := rfl
@[simp] theorem onBoot_boot (f : Boot → Boot) (s : State) : (onBoot f s).boot = f s.boot := rfl
@[simp] theorem onBoot_pins (f : Boot → Boot) (s : State) : (onBoot f s).pins = s.pins := rfl
@[simp] theorem onBoot_health (f : Boot → Boot) (s : State) : (onBoot f s).health = s.health := rfl
@[simp] theorem onBoot_cmd (f : Boot → Boot) (s : State) : (onBoot f s).cmd = s.cmd := rfl
@[simp] theorem onBoot_cry (f : Boot → Boot) (s : State) : (onBoot f s).cry = s.cry := rfl
@[simp] theorem onBoot_brc (f : Boot → Boot) (s : State) : (onBoot f s).brc = s.brc := rfl
@[simp] theorem onBoot_zst (f : Boot → Boot) (s : State) : (onBoot f s).zst = s.zst := rfl
@[simp] theorem onBoot_flw (f : Boot → Boot) (s : State) : (onBoot f s).flw = s.flw := rfl
@[simp] theorem onBoot_med (f : Boot → Boot) (s : State) : (onBoot f s).med = s.med := rfl
@[simp] theorem onBoot_pwr (f : Boot → Boot) (s : State) : (onBoot f s).pwr = s.pwr := rfl
@[simp] theorem onBoot_dxr (f : Boot → Boot) (s : State) : (onBoot f s).dxr = s.dxr := rfl
@[simp] theorem onBoot_dsp (f : Boot → Boot) (s : State) : (onBoot f s).dsp = s.dsp := rfl
@[simp] theorem onBoot_mov (f : Boot → Boot) (s : State) : (onBoot f s).mov = s.mov := rfl
@[simp] theorem onBoot_errs (f : Boot → Boot) (s : State) : (onBoot f s).errs = s.errs := rfl
@[simp] theorem onBoot_errCounts (f : Boot → Boot) (s : State) : (onBoot f s).errCounts = s.errCounts := rfl
@[simp] theorem onBoot_history (f : Boot → Boot) (s : State) : (onBoot f s).history = s.history := rfl
@[simp] theorem onBoot_out (f : Boot → Boot) (s : State) : (onBoot f s).out = s.out := rfl

@[simp] theorem onPins_pending (f : Pins → Pins) (s : State) : (onPins f s).pending = s.pending := rfl
@[simp] theorem onPins_now (f : Pins → Pins) (s : State) : (onPins f s).now = s.now := rfl
@[simp] theorem onPins_draws (f : Pins → Pins) (s : State) : (onPins f s).draws = s.draws := rfl
@[simp] theorem onPins_regs (f : Pins → Pins) (s : State) : (onPins f s).regs = s.regs := rfl
@[simp] theorem onPins_loaded (f : Pins → Pins) (s : State) : (onPins f s).loaded = s.loaded := rfl
@[simp] theorem onPins_ctrs (f : Pins → Pins) (s : State) : (onPins f s).ctrs = s.ctrs := rfl
@[simp] theorem onPins_snaps (f : Pins → Pins) (s : State) : (onPins f s).snaps = s.snaps := rfl
@[simp] theorem onPins_cad (f : Pins → Pins) (s : State) : (onPins f s).cad = s.cad := rfl
@[simp] theorem onPins_rge (f : Pins → Pins) (s : State) : (onPins f s).rge = s.rge := rfl
@[simp] theorem onPins_integ (f : Pins → Pins) (s : State) : (onPins f s).integ = s.integ := rfl
@[simp] theorem onPins_pith (f : Pins → Pins) (s : State) : (onPins f s).pith = s.pith := rfl
@[simp] theorem onPins_life (f : Pins → Pins) (s : State) : (onPins f s).life = s.life := rfl
@[simp] theorem onPins_dbg (f : Pins → Pins) (s : State) : (onPins f s).dbg = s.dbg := rfl
@[simp] theorem onPins_boot (f : Pins → Pins) (s : State) : (onPins f s).boot = s.boot := rfl
@[simp] theorem onPins_pins (f : Pins → Pins) (s : State) : (onPins f s).pins = f s.pins := rfl
@[simp] theorem onPins_health (f : Pins → Pins) (s : State) : (onPins f s).health = s.health := rfl
@[simp] theorem onPins_cmd (f : Pins → Pins) (s : State) : (onPins f s).cmd = s.cmd := rfl
@[simp] theorem onPins_cry (f : Pins → Pins) (s : State) : (onPins f s).cry = s.cry := rfl
@[simp] theorem onPins_brc (f : Pins → Pins) (s : State) : (onPins f s).brc = s.brc := rfl
@[simp] theorem onPins_zst (f : Pins → Pins) (s : State) : (onPins f s).zst = s.zst := rfl
@[simp] theorem onPins_flw (f : Pins → Pins) (s : State) : (onPins f s).flw = s.flw := rfl
@[simp] theorem onPins_med (f : Pins → Pins) (s : State) : (onPins f s).med = s.med := rfl
@[simp] theorem onPins_pwr (f : Pins → Pins) (s : State) : (onPins f s).pwr = s.pwr := rfl
@[simp] theorem onPins_dxr (f : Pins → Pins) (s : State) : (onPins f s).dxr = s.dxr := rfl
@[simp] theorem onPins_dsp (f : Pins → Pins) (s : State) : (onPins f s).dsp = s.dsp := rfl
@[simp] theorem onPins_mov (f : Pins → Pins) (s : State) : (onPins f s).mov = s.mov := rfl
@[simp] theorem onPins_errs (f : Pins → Pins) (s : State) : (onPins f s).errs = s.errs := rfl
@[simp] theorem onPins_errCounts (f : Pins → Pins) (s : State) : (onPins f s).errCounts = s.errCounts := rfl
@[simp] theorem onPins_history (f : Pins → Pins) (s : State) : (onPins f s).history = s.history := rfl
@[simp] theorem onPins_out (f : Pins → Pins) (s : State) : (onPins f s).out = s.out := rfl

@[simp] theorem tick_pending (t : Nat) (s : State) : (tick t s).pending = s.pending := rfl
@[simp] theorem tick_draws (t : Nat) (s : State) : (tick t s).draws = s.draws := rfl
@[simp] theorem tick_regs (t : Nat) (s : State) : (tick t s).regs = s.regs := rfl
@[simp] theorem tick_loaded (t : Nat) (s : State) : (tick t s).loaded = s.loaded := rfl
@[simp] theorem tick_ctrs (t : Nat) (s : State) : (tick t s).ctrs = s.ctrs := rfl
@[simp] theorem tick_snaps (t : Nat) (s : State) : (tick t s).snaps = s.snaps := rfl
@[simp] theorem tick_cad (t : Nat) (s : State) : (tick t s).cad = s.cad := rfl
@[simp] theorem tick_rge (t : Nat) (s : State) : (tick t s).rge = s.rge := rfl
@[simp] theorem tick_integ (t : Nat) (s : State) : (tick t s).integ = s.integ := rfl
@[simp] theorem tick_pith (t : Nat) (s : State) : (tick t s).pith = s.pith := rfl
@[simp] theorem tick_life (t : Nat) (s : State) : (tick t s).life = s.life := rfl
@[simp] theorem tick_dbg (t : Nat) (s : State) : (tick t s).dbg = s.dbg := rfl
@[simp] theorem tick_boot (t : Nat) (s : State) : (tick t s).boot = s.boot := rfl
@[simp] theorem tick_pins (t : Nat) (s : State) : (tick t s).pins = s.pins := rfl
@[simp] theorem tick_health (t : Nat) (s : State) : (tick t s).health = s.health := rfl
@[simp] theorem tick_cmd (t : Nat) (s : State) : (tick t s).cmd = s.cmd := rfl
@[simp] theorem tick_cry (t : Nat) (s : State) : (tick t s).cry = s.cry := rfl
@[simp] theorem tick_brc (t : Nat) (s : State) : (tick t s).brc = s.brc := rfl
@[simp] theorem tick_zst (t : Nat) (s : State) : (tick t s).zst = s.zst := rfl
@[simp] theorem tick_flw (t : Nat) (s : State) : (tick t s).flw = s.flw := rfl
@[simp] theorem tick_med (t : Nat) (s : State) : (tick t s).med = s.med := rfl
@[simp] theorem tick_pwr (t : Nat) (s : State) : (tick t s).pwr = s.pwr := rfl
@[simp] theorem tick_dxr (t : Nat) (s : State) : (tick t s).dxr = s.dxr := rfl
@[simp] theorem tick_dsp (t : Nat) (s : State) : (tick t s).dsp = s.dsp := rfl
@[simp] theorem tick_mov (t : Nat) (s : State) : (tick t s).mov = s.mov := rfl
@[simp] theorem tick_errs (t : Nat) (s : State) : (tick t s).errs = s.errs := rfl
@[simp] theorem tick_errCounts (t : Nat) (s : State) : (tick t s).errCounts = s.errCounts := rfl
@[simp] theorem tick_history (t : Nat) (s : State) : (tick t s).history = s.history := rfl
@[simp] theorem tick_out (t : Nat) (s : State) : (tick t s).out = s.out := rfl

@[simp] theorem draw_pending  (s : State) : (draw s).pending = s.pending := rfl
@[simp] theorem draw_now  (s : State) : (draw s).now = s.now := rfl
@[simp] theorem draw_regs  (s : State) : (draw s).regs = s.regs := rfl
@[simp] theorem draw_loaded  (s : State) : (draw s).loaded = s.loaded := rfl
@[simp] theorem draw_ctrs  (s : State) : (draw s).ctrs = s.ctrs := rfl
@[simp] theorem draw_snaps  (s : State) : (draw s).snaps = s.snaps := rfl
@[simp] theorem draw_cad  (s : State) : (draw s).cad = s.cad := rfl
@[simp] theorem draw_rge  (s : State) : (draw s).rge = s.rge := rfl
@[simp] theorem draw_integ  (s : State) : (draw s).integ = s.integ := rfl
@[simp] theorem draw_pith  (s : State) : (draw s).pith = s.pith := rfl
@[simp] theorem draw_life  (s : State) : (draw s).life = s.life := rfl
@[simp] theorem draw_dbg  (s : State) : (draw s).dbg = s.dbg := rfl
@[simp] theorem draw_boot  (s : State) : (draw s).boot = s.boot := rfl
@[simp] theorem draw_pins  (s : State) : (draw s).pins = s.pins := rfl
@[simp] theorem draw_health  (s : State) : (draw s).health = s.health := rfl
@[simp] theorem draw_cmd  (s : State) : (draw s).cmd = s.cmd := rfl
@[simp] theorem draw_cry  (s : State) : (draw s).cry = s.cry := rfl
@[simp] theorem draw_brc  (s : State) : (draw s).brc = s.brc := rfl
@[simp] theorem draw_zst  (s : State) : (draw s).zst = s.zst := rfl
@[simp] theorem draw_flw  (s : State) : (draw s).flw = s.flw := rfl
@[simp] theorem draw_med  (s : State) : (draw s).med = s.med := rfl
@[simp] theorem draw_pwr  (s : State) : (draw s).pwr = s.pwr := rfl
@[simp] theorem draw_dxr  (s : State) : (draw s).dxr = s.dxr := rfl
@[simp] theorem draw_dsp  (s : State) : (draw s).dsp = s.dsp := rfl
@[simp] theorem draw_mov  (s : State) : (draw s).mov = s.mov := rfl
@[simp] theorem draw_errs  (s : State) : (draw s).errs = s.errs := rfl
@[simp] theorem draw_errCounts  (s : State) : (draw s).errCounts = s.errCounts := rfl
@[simp] theorem draw_history  (s : State) : (draw s).history = s.history := rfl
@[simp] theorem draw_out  (s : State) : (draw s).out = s.out := rfl

@[simp] theorem emit_pending (o : Out) (s : State) : (emit o s).pending = s.pending := rfl
@[simp] theorem emit_now (o : Out) (s : State) : (emit o s).now = s.now := rfl
@[simp] theorem emit_draws (o : Out) (s : State) : (emit o s).draws = s.draws := rfl
@[simp] theorem emit_regs (o : Out) (s : State) : (emit o s).regs = s.regs := rfl
@[simp] theorem emit_loaded (o : Out) (s : State) : (emit o s).loaded = s.loaded := rfl
@[simp] theorem emit_ctrs (o : Out) (s : State) : (emit o s).ctrs = s.ctrs := rfl
@[simp] theorem emit_snaps (o : Out) (s : State) : (emit o s).snaps = s.snaps := rfl
@[simp] theorem emit_cad (o : Out) (s : State) : (emit o s).cad = s.cad := rfl
@[simp] theorem emit_rge (o : Out) (s : State) : (emit o s).rge = s.rge := rfl
@[simp] theorem emit_integ (o : Out) (s : State) : (emit o s).integ = s.integ := rfl
@[simp] theorem emit_pith (o : Out) (s : State) : (emit o s).pith = s.pith := rfl
@[simp] theorem emit_life (o : Out) (s : State) : (emit o s).life = s.life := rfl
@[simp] theorem emit_dbg (o : Out) (s : State) : (emit o s).dbg = s.dbg := rfl
@[simp] theorem emit_boot (o : Out) (s : State) : (emit o s).boot = s.boot := rfl
@[simp] theorem emit_pins (o : Out) (s : State) : (emit o s).pins = s.pins := rfl
@[simp] theorem emit_health (o : Out) (s : State) : (emit o s).health = s.health := rfl
@[simp] theorem emit_cmd (o : Out) (s : State) : (emit o s).cmd = s.cmd := rfl
@[simp] theorem emit_cry (o : Out) (s : State) : (emit o s).cry = s.cry := rfl
@[simp] theorem emit_brc (o : Out) (s : State) : (emit o s).brc = s.brc := rfl
@[simp] theorem emit_zst (o : Out) (s : State) : (emit o s).zst = s.zst := rfl
@[simp] theorem emit_flw (o : Out) (s : State) : (emit o s).flw = s.flw := rfl
@[simp] theorem emit_med (o : Out) (s : State) : (emit o s).med = s.med := rfl
@[simp] theorem emit_pwr (o : Out) (s : State) : (emit o s).pwr = s.pwr := rfl
@[simp] theorem emit_dxr (o : Out) (s : State) : (emit o s).dxr = s.dxr := rfl
@[simp] theorem emit_dsp (o : Out) (s : State) : (emit o s).dsp = s.dsp := rfl
@[simp] theorem emit_mov (o : Out) (s : State) : (emit o s).mov = s.mov := rfl
@[simp] theorem emit_errs (o : Out) (s : State) : (emit o s).errs = s.errs := rfl
@[simp] theorem emit_errCounts (o : Out) (s : State) : (emit o s).errCounts = s.errCounts := rfl
@[simp] theorem emit_history (o : Out) (s : State) : (emit o s).history = s.history := rfl

@[simp] theorem setCtr_pending (a v : Nat) (s : State) : (setCtr a v s).pending = s.pending := rfl
@[simp] theorem setCtr_now (a v : Nat) (s : State) : (setCtr a v s).now = s.now := rfl
@[simp] theorem setCtr_draws (a v : Nat) (s : State) : (setCtr a v s).draws = s.draws := rfl
@[simp] theorem setCtr_regs (a v : Nat) (s : State) : (setCtr a v s).regs = s.regs := rfl
@[simp] theorem setCtr_loaded (a v : Nat) (s : State) : (setCtr a v s).loaded = s.loaded := rfl
@[simp] theorem setCtr_snaps (a v : Nat) (s : State) : (setCtr a v s).snaps = s.snaps := rfl
@[simp] theorem setCtr_cad (a v : Nat) (s : State) : (setCtr a v s).cad = s.cad := rfl
@[simp] theorem setCtr_rge (a v : Nat) (s : State) : (setCtr a v s).rge = s.rge := rfl
@[simp] theorem setCtr_integ (a v : Nat) (s : State) : (setCtr a v s).integ = s.integ := rfl
@[simp] theorem setCtr_pith (a v : Nat) (s : State) : (setCtr a v s).pith = s.pith := rfl
@[simp] theorem setCtr_life (a v : Nat) (s : State) : (setCtr a v s).life = s.life := rfl
@[simp] theorem setCtr_dbg (a v : Nat) (s : State) : (setCtr a v s).dbg = s.dbg := rfl
@[simp] theorem setCtr_boot (a v : Nat) (s : State) : (setCtr a v s).boot = s.boot := rfl
@[simp] theorem setCtr_pins (a v : Nat) (s : State) : (setCtr a v s).pins = s.pins := rfl
@[simp] theorem setCtr_health (a v : Nat) (s : State) : (setCtr a v s).health = s.health := rfl
@[simp] theorem setCtr_cmd (a v : Nat) (s : State) : (setCtr a v s).cmd = s.cmd := rfl
@[simp] theorem setCtr_cry (a v : Nat) (s : State) : (setCtr a v s).cry = s.cry := rfl
@[simp] theorem setCtr_brc (a v : Nat) (s : State) : (setCtr a v s).brc = s.brc := rfl
@[simp] theorem setCtr_zst (a v : Nat) (s : State) : (setCtr a v s).zst = s.zst := rfl
@[simp] theorem setCtr_flw (a v : Nat) (s : State) : (setCtr a v s).flw = s.flw := rfl
@[simp] theorem setCtr_med (a v : Nat) (s : State) : (setCtr a v s).med = s.med := rfl
@[simp] theorem setCtr_pwr (a v : Nat) (s : State) : (setCtr a v s).pwr = s.pwr := rfl
@[simp] theorem setCtr_dxr (a v : Nat) (s : State) : (setCtr a v s).dxr = s.dxr := rfl
@[simp] theorem setCtr_dsp (a v : Nat) (s : State) : (setCtr a v s).dsp = s.dsp := rfl
@[simp] theorem setCtr_mov (a v : Nat) (s : State) : (setCtr a v s).mov = s.mov := rfl
@[simp] theorem setCtr_errs (a v : Nat) (s : State) : (setCtr a v s).errs = s.errs := rfl
@[simp] theorem setCtr_errCounts (a v : Nat) (s : State) : (setCtr a v s).errCounts = s.errCounts := rfl
@[simp] theorem setCtr_history (a v : Nat) (s : State) : (setCtr a v s).history = s.history := rfl
@[simp] theorem setCtr_out (a v : Nat) (s : State) : (setCtr a v s).out = s.out := rfl

@[simp] theorem setWord_pending (a : Nat) (w : Word) (s : State) : (setWord a w s).pending = s.pending := rfl
@[simp] theorem setWord_now (a : Nat) (w : Word) (s : State) : (setWord a w s).now = s.now := rfl
@[simp] theorem setWord_draws (a : Nat) (w : Word) (s : State) : (setWord a w s).draws = s.draws := rfl
@[simp] theorem setWord_loaded (a : Nat) (w : Word) (s : State) : (setWord a w s).loaded = s.loaded := rfl
@[simp] theorem setWord_ctrs (a : Nat) (w : Word) (s : State) : (setWord a w s).ctrs = s.ctrs := rfl
@[simp] theorem setWord_snaps (a : Nat) (w : Word) (s : State) : (setWord a w s).snaps = s.snaps := rfl
@[simp] theorem setWord_cad (a : Nat) (w : Word) (s : State) : (setWord a w s).cad = s.cad := rfl
@[simp] theorem setWord_rge (a : Nat) (w : Word) (s : State) : (setWord a w s).rge = s.rge := rfl
@[simp] theorem setWord_integ (a : Nat) (w : Word) (s : State) : (setWord a w s).integ = s.integ := rfl
@[simp] theorem setWord_pith (a : Nat) (w : Word) (s : State) : (setWord a w s).pith = s.pith := rfl
@[simp] theorem setWord_life (a : Nat) (w : Word) (s : State) : (setWord a w s).life = s.life := rfl
@[simp] theorem setWord_dbg (a : Nat) (w : Word) (s : State) : (setWord a w s).dbg = s.dbg := rfl
@[simp] theorem setWord_boot (a : Nat) (w : Word) (s : State) : (setWord a w s).boot = s.boot := rfl
@[simp] theorem setWord_pins (a : Nat) (w : Word) (s : State) : (setWord a w s).pins = s.pins := rfl
@[simp] theorem setWord_health (a : Nat) (w : Word) (s : State) : (setWord a w s).health = s.health := rfl
@[simp] theorem setWord_cmd (a : Nat) (w : Word) (s : State) : (setWord a w s).cmd = s.cmd := rfl
@[simp] theorem setWord_cry (a : Nat) (w : Word) (s : State) : (setWord a w s).cry = s.cry := rfl
@[simp] theorem setWord_brc (a : Nat) (w : Word) (s : State) : (setWord a w s).brc = s.brc := rfl
@[simp] theorem setWord_zst (a : Nat) (w : Word) (s : State) : (setWord a w s).zst = s.zst := rfl
@[simp] theorem setWord_flw (a : Nat) (w : Word) (s : State) : (setWord a w s).flw = s.flw := rfl
@[simp] theorem setWord_med (a : Nat) (w : Word) (s : State) : (setWord a w s).med = s.med := rfl
@[simp] theorem setWord_pwr (a : Nat) (w : Word) (s : State) : (setWord a w s).pwr = s.pwr := rfl
@[simp] theorem setWord_dxr (a : Nat) (w : Word) (s : State) : (setWord a w s).dxr = s.dxr := rfl
@[simp] theorem setWord_dsp (a : Nat) (w : Word) (s : State) : (setWord a w s).dsp = s.dsp := rfl
@[simp] theorem setWord_mov (a : Nat) (w : Word) (s : State) : (setWord a w s).mov = s.mov := rfl
@[simp] theorem setWord_errs (a : Nat) (w : Word) (s : State) : (setWord a w s).errs = s.errs := rfl
@[simp] theorem setWord_errCounts (a : Nat) (w : Word) (s : State) : (setWord a w s).errCounts = s.errCounts := rfl
@[simp] theorem setWord_history (a : Nat) (w : Word) (s : State) : (setWord a w s).history = s.history := rfl
@[simp] theorem setWord_out (a : Nat) (w : Word) (s : State) : (setWord a w s).out = s.out := rfl

@[simp] theorem setField_pending (a hi lo v : Nat) (s : State) : (setField a hi lo v s).pending = s.pending := rfl
@[simp] theorem setField_now (a hi lo v : Nat) (s : State) : (setField a hi lo v s).now = s.now := rfl
@[simp] theorem setField_draws (a hi lo v : Nat) (s : State) : (setField a hi lo v s).draws = s.draws := rfl
@[simp] theorem setField_loaded (a hi lo v : Nat) (s : State) : (setField a hi lo v s).loaded = s.loaded := rfl
@[simp] theorem setField_ctrs (a hi lo v : Nat) (s : State) : (setField a hi lo v s).ctrs = s.ctrs := rfl
@[simp] theorem setField_snaps (a hi lo v : Nat) (s : State) : (setField a hi lo v s).snaps = s.snaps := rfl
@[simp] theorem setField_cad (a hi lo v : Nat) (s : State) : (setField a hi lo v s).cad = s.cad := rfl
@[simp] theorem setField_rge (a hi lo v : Nat) (s : State) : (setField a hi lo v s).rge = s.rge := rfl
@[simp] theorem setField_integ (a hi lo v : Nat) (s : State) : (setField a hi lo v s).integ = s.integ := rfl
@[simp] theorem setField_pith (a hi lo v : Nat) (s : State) : (setField a hi lo v s).pith = s.pith := rfl
@[simp] theorem setField_life (a hi lo v : Nat) (s : State) : (setField a hi lo v s).life = s.life := rfl
@[simp] theorem setField_dbg (a hi lo v : Nat) (s : State) : (setField a hi lo v s).dbg = s.dbg := rfl
@[simp] theorem setField_boot (a hi lo v : Nat) (s : State) : (setField a hi lo v s).boot = s.boot := rfl
@[simp] theorem setField_pins (a hi lo v : Nat) (s : State) : (setField a hi lo v s).pins = s.pins := rfl
@[simp] theorem setField_health (a hi lo v : Nat) (s : State) : (setField a hi lo v s).health = s.health := rfl
@[simp] theorem setField_cmd (a hi lo v : Nat) (s : State) : (setField a hi lo v s).cmd = s.cmd := rfl
@[simp] theorem setField_cry (a hi lo v : Nat) (s : State) : (setField a hi lo v s).cry = s.cry := rfl
@[simp] theorem setField_brc (a hi lo v : Nat) (s : State) : (setField a hi lo v s).brc = s.brc := rfl
@[simp] theorem setField_zst (a hi lo v : Nat) (s : State) : (setField a hi lo v s).zst = s.zst := rfl
@[simp] theorem setField_flw (a hi lo v : Nat) (s : State) : (setField a hi lo v s).flw = s.flw := rfl
@[simp] theorem setField_med (a hi lo v : Nat) (s : State) : (setField a hi lo v s).med = s.med := rfl
@[simp] theorem setField_pwr (a hi lo v : Nat) (s : State) : (setField a hi lo v s).pwr = s.pwr := rfl
@[simp] theorem setField_dxr (a hi lo v : Nat) (s : State) : (setField a hi lo v s).dxr = s.dxr := rfl
@[simp] theorem setField_dsp (a hi lo v : Nat) (s : State) : (setField a hi lo v s).dsp = s.dsp := rfl
@[simp] theorem setField_mov (a hi lo v : Nat) (s : State) : (setField a hi lo v s).mov = s.mov := rfl
@[simp] theorem setField_errs (a hi lo v : Nat) (s : State) : (setField a hi lo v s).errs = s.errs := rfl
@[simp] theorem setField_errCounts (a hi lo v : Nat) (s : State) : (setField a hi lo v s).errCounts = s.errCounts := rfl
@[simp] theorem setField_history (a hi lo v : Nat) (s : State) : (setField a hi lo v s).history = s.history := rfl
@[simp] theorem setField_out (a hi lo v : Nat) (s : State) : (setField a hi lo v s).out = s.out := rfl

@[simp] theorem setFlag_pending (a i : Nat) (s : State) : (setFlag a i s).pending = s.pending := rfl
@[simp] theorem setFlag_now (a i : Nat) (s : State) : (setFlag a i s).now = s.now := rfl
@[simp] theorem setFlag_draws (a i : Nat) (s : State) : (setFlag a i s).draws = s.draws := rfl
@[simp] theorem setFlag_loaded (a i : Nat) (s : State) : (setFlag a i s).loaded = s.loaded := rfl
@[simp] theorem setFlag_ctrs (a i : Nat) (s : State) : (setFlag a i s).ctrs = s.ctrs := rfl
@[simp] theorem setFlag_snaps (a i : Nat) (s : State) : (setFlag a i s).snaps = s.snaps := rfl
@[simp] theorem setFlag_cad (a i : Nat) (s : State) : (setFlag a i s).cad = s.cad := rfl
@[simp] theorem setFlag_rge (a i : Nat) (s : State) : (setFlag a i s).rge = s.rge := rfl
@[simp] theorem setFlag_integ (a i : Nat) (s : State) : (setFlag a i s).integ = s.integ := rfl
@[simp] theorem setFlag_pith (a i : Nat) (s : State) : (setFlag a i s).pith = s.pith := rfl
@[simp] theorem setFlag_life (a i : Nat) (s : State) : (setFlag a i s).life = s.life := rfl
@[simp] theorem setFlag_dbg (a i : Nat) (s : State) : (setFlag a i s).dbg = s.dbg := rfl
@[simp] theorem setFlag_boot (a i : Nat) (s : State) : (setFlag a i s).boot = s.boot := rfl
@[simp] theorem setFlag_pins (a i : Nat) (s : State) : (setFlag a i s).pins = s.pins := rfl
@[simp] theorem setFlag_health (a i : Nat) (s : State) : (setFlag a i s).health = s.health := rfl
@[simp] theorem setFlag_cmd (a i : Nat) (s : State) : (setFlag a i s).cmd = s.cmd := rfl
@[simp] theorem setFlag_cry (a i : Nat) (s : State) : (setFlag a i s).cry = s.cry := rfl
@[simp] theorem setFlag_brc (a i : Nat) (s : State) : (setFlag a i s).brc = s.brc := rfl
@[simp] theorem setFlag_zst (a i : Nat) (s : State) : (setFlag a i s).zst = s.zst := rfl
@[simp] theorem setFlag_flw (a i : Nat) (s : State) : (setFlag a i s).flw = s.flw := rfl
@[simp] theorem setFlag_med (a i : Nat) (s : State) : (setFlag a i s).med = s.med := rfl
@[simp] theorem setFlag_pwr (a i : Nat) (s : State) : (setFlag a i s).pwr = s.pwr := rfl
@[simp] theorem setFlag_dxr (a i : Nat) (s : State) : (setFlag a i s).dxr = s.dxr := rfl
@[simp] theorem setFlag_dsp (a i : Nat) (s : State) : (setFlag a i s).dsp = s.dsp := rfl
@[simp] theorem setFlag_mov (a i : Nat) (s : State) : (setFlag a i s).mov = s.mov := rfl
@[simp] theorem setFlag_errs (a i : Nat) (s : State) : (setFlag a i s).errs = s.errs := rfl
@[simp] theorem setFlag_errCounts (a i : Nat) (s : State) : (setFlag a i s).errCounts = s.errCounts := rfl
@[simp] theorem setFlag_history (a i : Nat) (s : State) : (setFlag a i s).history = s.history := rfl
@[simp] theorem setFlag_out (a i : Nat) (s : State) : (setFlag a i s).out = s.out := rfl

@[simp] theorem onFunc_pending (f : Nat) (g : Func → Func) (s : State) : (onFunc f g s).pending = s.pending := rfl
@[simp] theorem onFunc_now (f : Nat) (g : Func → Func) (s : State) : (onFunc f g s).now = s.now := rfl
@[simp] theorem onFunc_draws (f : Nat) (g : Func → Func) (s : State) : (onFunc f g s).draws = s.draws := rfl
@[simp] theorem onFunc_regs (f : Nat) (g : Func → Func) (s : State) : (onFunc f g s).regs = s.regs := rfl
@[simp] theorem onFunc_loaded (f : Nat) (g : Func → Func) (s : State) : (onFunc f g s).loaded = s.loaded := rfl
@[simp] theorem onFunc_ctrs (f : Nat) (g : Func → Func) (s : State) : (onFunc f g s).ctrs = s.ctrs := rfl
@[simp] theorem onFunc_snaps (f : Nat) (g : Func → Func) (s : State) : (onFunc f g s).snaps = s.snaps := rfl
@[simp] theorem onFunc_cad (f : Nat) (g : Func → Func) (s : State) : (onFunc f g s).cad = s.cad := rfl
@[simp] theorem onFunc_integ (f : Nat) (g : Func → Func) (s : State) : (onFunc f g s).integ = s.integ := rfl
@[simp] theorem onFunc_pith (f : Nat) (g : Func → Func) (s : State) : (onFunc f g s).pith = s.pith := rfl
@[simp] theorem onFunc_life (f : Nat) (g : Func → Func) (s : State) : (onFunc f g s).life = s.life := rfl
@[simp] theorem onFunc_dbg (f : Nat) (g : Func → Func) (s : State) : (onFunc f g s).dbg = s.dbg := rfl
@[simp] theorem onFunc_boot (f : Nat) (g : Func → Func) (s : State) : (onFunc f g s).boot = s.boot := rfl
@[simp] theorem onFunc_pins (f : Nat) (g : Func → Func) (s : State) : (onFunc f g s).pins = s.pins := rfl
@[simp] theorem onFunc_health (f : Nat) (g : Func → Func) (s : State) : (onFunc f g s).health = s.health := rfl
@[simp] theorem onFunc_cmd (f : Nat) (g : Func → Func) (s : State) : (onFunc f g s).cmd = s.cmd := rfl
@[simp] theorem onFunc_cry (f : Nat) (g : Func → Func) (s : State) : (onFunc f g s).cry = s.cry := rfl
@[simp] theorem onFunc_brc (f : Nat) (g : Func → Func) (s : State) : (onFunc f g s).brc = s.brc := rfl
@[simp] theorem onFunc_zst (f : Nat) (g : Func → Func) (s : State) : (onFunc f g s).zst = s.zst := rfl
@[simp] theorem onFunc_flw (f : Nat) (g : Func → Func) (s : State) : (onFunc f g s).flw = s.flw := rfl
@[simp] theorem onFunc_med (f : Nat) (g : Func → Func) (s : State) : (onFunc f g s).med = s.med := rfl
@[simp] theorem onFunc_pwr (f : Nat) (g : Func → Func) (s : State) : (onFunc f g s).pwr = s.pwr := rfl
@[simp] theorem onFunc_dxr (f : Nat) (g : Func → Func) (s : State) : (onFunc f g s).dxr = s.dxr := rfl
@[simp] theorem onFunc_dsp (f : Nat) (g : Func → Func) (s : State) : (onFunc f g s).dsp = s.dsp := rfl
@[simp] theorem onFunc_mov (f : Nat) (g : Func → Func) (s : State) : (onFunc f g s).mov = s.mov := rfl
@[simp] theorem onFunc_errs (f : Nat) (g : Func → Func) (s : State) : (onFunc f g s).errs = s.errs := rfl
@[simp] theorem onFunc_errCounts (f : Nat) (g : Func → Func) (s : State) : (onFunc f g s).errCounts = s.errCounts := rfl
@[simp] theorem onFunc_history (f : Nat) (g : Func → Func) (s : State) : (onFunc f g s).history = s.history := rfl
@[simp] theorem onFunc_out (f : Nat) (g : Func → Func) (s : State) : (onFunc f g s).out = s.out := rfl

@[simp] theorem onRing_pending (k : Nat) (g : Ring → Ring) (s : State) : (onRing k g s).pending = s.pending := rfl
@[simp] theorem onRing_now (k : Nat) (g : Ring → Ring) (s : State) : (onRing k g s).now = s.now := rfl
@[simp] theorem onRing_draws (k : Nat) (g : Ring → Ring) (s : State) : (onRing k g s).draws = s.draws := rfl
@[simp] theorem onRing_regs (k : Nat) (g : Ring → Ring) (s : State) : (onRing k g s).regs = s.regs := rfl
@[simp] theorem onRing_loaded (k : Nat) (g : Ring → Ring) (s : State) : (onRing k g s).loaded = s.loaded := rfl
@[simp] theorem onRing_ctrs (k : Nat) (g : Ring → Ring) (s : State) : (onRing k g s).ctrs = s.ctrs := rfl
@[simp] theorem onRing_snaps (k : Nat) (g : Ring → Ring) (s : State) : (onRing k g s).snaps = s.snaps := rfl
@[simp] theorem onRing_cad (k : Nat) (g : Ring → Ring) (s : State) : (onRing k g s).cad = s.cad := rfl
@[simp] theorem onRing_integ (k : Nat) (g : Ring → Ring) (s : State) : (onRing k g s).integ = s.integ := rfl
@[simp] theorem onRing_pith (k : Nat) (g : Ring → Ring) (s : State) : (onRing k g s).pith = s.pith := rfl
@[simp] theorem onRing_life (k : Nat) (g : Ring → Ring) (s : State) : (onRing k g s).life = s.life := rfl
@[simp] theorem onRing_dbg (k : Nat) (g : Ring → Ring) (s : State) : (onRing k g s).dbg = s.dbg := rfl
@[simp] theorem onRing_boot (k : Nat) (g : Ring → Ring) (s : State) : (onRing k g s).boot = s.boot := rfl
@[simp] theorem onRing_pins (k : Nat) (g : Ring → Ring) (s : State) : (onRing k g s).pins = s.pins := rfl
@[simp] theorem onRing_health (k : Nat) (g : Ring → Ring) (s : State) : (onRing k g s).health = s.health := rfl
@[simp] theorem onRing_cmd (k : Nat) (g : Ring → Ring) (s : State) : (onRing k g s).cmd = s.cmd := rfl
@[simp] theorem onRing_cry (k : Nat) (g : Ring → Ring) (s : State) : (onRing k g s).cry = s.cry := rfl
@[simp] theorem onRing_brc (k : Nat) (g : Ring → Ring) (s : State) : (onRing k g s).brc = s.brc := rfl
@[simp] theorem onRing_zst (k : Nat) (g : Ring → Ring) (s : State) : (onRing k g s).zst = s.zst := rfl
@[simp] theorem onRing_flw (k : Nat) (g : Ring → Ring) (s : State) : (onRing k g s).flw = s.flw := rfl
@[simp] theorem onRing_med (k : Nat) (g : Ring → Ring) (s : State) : (onRing k g s).med = s.med := rfl
@[simp] theorem onRing_pwr (k : Nat) (g : Ring → Ring) (s : State) : (onRing k g s).pwr = s.pwr := rfl
@[simp] theorem onRing_dxr (k : Nat) (g : Ring → Ring) (s : State) : (onRing k g s).dxr = s.dxr := rfl
@[simp] theorem onRing_dsp (k : Nat) (g : Ring → Ring) (s : State) : (onRing k g s).dsp = s.dsp := rfl
@[simp] theorem onRing_mov (k : Nat) (g : Ring → Ring) (s : State) : (onRing k g s).mov = s.mov := rfl
@[simp] theorem onRing_errs (k : Nat) (g : Ring → Ring) (s : State) : (onRing k g s).errs = s.errs := rfl
@[simp] theorem onRing_errCounts (k : Nat) (g : Ring → Ring) (s : State) : (onRing k g s).errCounts = s.errCounts := rfl
@[simp] theorem onRing_history (k : Nat) (g : Ring → Ring) (s : State) : (onRing k g s).history = s.history := rfl
@[simp] theorem onRing_out (k : Nat) (g : Ring → Ring) (s : State) : (onRing k g s).out = s.out := rfl

@[simp] theorem onFlight_pending (i : Nat) (g : Flight → Flight) (s : State) : (onFlight i g s).pending = s.pending := rfl
@[simp] theorem onFlight_now (i : Nat) (g : Flight → Flight) (s : State) : (onFlight i g s).now = s.now := rfl
@[simp] theorem onFlight_draws (i : Nat) (g : Flight → Flight) (s : State) : (onFlight i g s).draws = s.draws := rfl
@[simp] theorem onFlight_regs (i : Nat) (g : Flight → Flight) (s : State) : (onFlight i g s).regs = s.regs := rfl
@[simp] theorem onFlight_loaded (i : Nat) (g : Flight → Flight) (s : State) : (onFlight i g s).loaded = s.loaded := rfl
@[simp] theorem onFlight_ctrs (i : Nat) (g : Flight → Flight) (s : State) : (onFlight i g s).ctrs = s.ctrs := rfl
@[simp] theorem onFlight_snaps (i : Nat) (g : Flight → Flight) (s : State) : (onFlight i g s).snaps = s.snaps := rfl
@[simp] theorem onFlight_cad (i : Nat) (g : Flight → Flight) (s : State) : (onFlight i g s).cad = s.cad := rfl
@[simp] theorem onFlight_integ (i : Nat) (g : Flight → Flight) (s : State) : (onFlight i g s).integ = s.integ := rfl
@[simp] theorem onFlight_pith (i : Nat) (g : Flight → Flight) (s : State) : (onFlight i g s).pith = s.pith := rfl
@[simp] theorem onFlight_life (i : Nat) (g : Flight → Flight) (s : State) : (onFlight i g s).life = s.life := rfl
@[simp] theorem onFlight_dbg (i : Nat) (g : Flight → Flight) (s : State) : (onFlight i g s).dbg = s.dbg := rfl
@[simp] theorem onFlight_boot (i : Nat) (g : Flight → Flight) (s : State) : (onFlight i g s).boot = s.boot := rfl
@[simp] theorem onFlight_pins (i : Nat) (g : Flight → Flight) (s : State) : (onFlight i g s).pins = s.pins := rfl
@[simp] theorem onFlight_health (i : Nat) (g : Flight → Flight) (s : State) : (onFlight i g s).health = s.health := rfl
@[simp] theorem onFlight_cmd (i : Nat) (g : Flight → Flight) (s : State) : (onFlight i g s).cmd = s.cmd := rfl
@[simp] theorem onFlight_cry (i : Nat) (g : Flight → Flight) (s : State) : (onFlight i g s).cry = s.cry := rfl
@[simp] theorem onFlight_brc (i : Nat) (g : Flight → Flight) (s : State) : (onFlight i g s).brc = s.brc := rfl
@[simp] theorem onFlight_zst (i : Nat) (g : Flight → Flight) (s : State) : (onFlight i g s).zst = s.zst := rfl
@[simp] theorem onFlight_flw (i : Nat) (g : Flight → Flight) (s : State) : (onFlight i g s).flw = s.flw := rfl
@[simp] theorem onFlight_med (i : Nat) (g : Flight → Flight) (s : State) : (onFlight i g s).med = s.med := rfl
@[simp] theorem onFlight_pwr (i : Nat) (g : Flight → Flight) (s : State) : (onFlight i g s).pwr = s.pwr := rfl
@[simp] theorem onFlight_dxr (i : Nat) (g : Flight → Flight) (s : State) : (onFlight i g s).dxr = s.dxr := rfl
@[simp] theorem onFlight_dsp (i : Nat) (g : Flight → Flight) (s : State) : (onFlight i g s).dsp = s.dsp := rfl
@[simp] theorem onFlight_mov (i : Nat) (g : Flight → Flight) (s : State) : (onFlight i g s).mov = s.mov := rfl
@[simp] theorem onFlight_errs (i : Nat) (g : Flight → Flight) (s : State) : (onFlight i g s).errs = s.errs := rfl
@[simp] theorem onFlight_errCounts (i : Nat) (g : Flight → Flight) (s : State) : (onFlight i g s).errCounts = s.errCounts := rfl
@[simp] theorem onFlight_history (i : Nat) (g : Flight → Flight) (s : State) : (onFlight i g s).history = s.history := rfl
@[simp] theorem onFlight_out (i : Nat) (g : Flight → Flight) (s : State) : (onFlight i g s).out = s.out := rfl

@[simp] theorem onNs_pending (n : Nat) (g : Ns → Ns) (s : State) : (onNs n g s).pending = s.pending := rfl
@[simp] theorem onNs_now (n : Nat) (g : Ns → Ns) (s : State) : (onNs n g s).now = s.now := rfl
@[simp] theorem onNs_draws (n : Nat) (g : Ns → Ns) (s : State) : (onNs n g s).draws = s.draws := rfl
@[simp] theorem onNs_regs (n : Nat) (g : Ns → Ns) (s : State) : (onNs n g s).regs = s.regs := rfl
@[simp] theorem onNs_loaded (n : Nat) (g : Ns → Ns) (s : State) : (onNs n g s).loaded = s.loaded := rfl
@[simp] theorem onNs_ctrs (n : Nat) (g : Ns → Ns) (s : State) : (onNs n g s).ctrs = s.ctrs := rfl
@[simp] theorem onNs_snaps (n : Nat) (g : Ns → Ns) (s : State) : (onNs n g s).snaps = s.snaps := rfl
@[simp] theorem onNs_cad (n : Nat) (g : Ns → Ns) (s : State) : (onNs n g s).cad = s.cad := rfl
@[simp] theorem onNs_rge (n : Nat) (g : Ns → Ns) (s : State) : (onNs n g s).rge = s.rge := rfl
@[simp] theorem onNs_integ (n : Nat) (g : Ns → Ns) (s : State) : (onNs n g s).integ = s.integ := rfl
@[simp] theorem onNs_pith (n : Nat) (g : Ns → Ns) (s : State) : (onNs n g s).pith = s.pith := rfl
@[simp] theorem onNs_life (n : Nat) (g : Ns → Ns) (s : State) : (onNs n g s).life = s.life := rfl
@[simp] theorem onNs_dbg (n : Nat) (g : Ns → Ns) (s : State) : (onNs n g s).dbg = s.dbg := rfl
@[simp] theorem onNs_boot (n : Nat) (g : Ns → Ns) (s : State) : (onNs n g s).boot = s.boot := rfl
@[simp] theorem onNs_pins (n : Nat) (g : Ns → Ns) (s : State) : (onNs n g s).pins = s.pins := rfl
@[simp] theorem onNs_health (n : Nat) (g : Ns → Ns) (s : State) : (onNs n g s).health = s.health := rfl
@[simp] theorem onNs_cry (n : Nat) (g : Ns → Ns) (s : State) : (onNs n g s).cry = s.cry := rfl
@[simp] theorem onNs_brc (n : Nat) (g : Ns → Ns) (s : State) : (onNs n g s).brc = s.brc := rfl
@[simp] theorem onNs_zst (n : Nat) (g : Ns → Ns) (s : State) : (onNs n g s).zst = s.zst := rfl
@[simp] theorem onNs_flw (n : Nat) (g : Ns → Ns) (s : State) : (onNs n g s).flw = s.flw := rfl
@[simp] theorem onNs_med (n : Nat) (g : Ns → Ns) (s : State) : (onNs n g s).med = s.med := rfl
@[simp] theorem onNs_pwr (n : Nat) (g : Ns → Ns) (s : State) : (onNs n g s).pwr = s.pwr := rfl
@[simp] theorem onNs_dxr (n : Nat) (g : Ns → Ns) (s : State) : (onNs n g s).dxr = s.dxr := rfl
@[simp] theorem onNs_dsp (n : Nat) (g : Ns → Ns) (s : State) : (onNs n g s).dsp = s.dsp := rfl
@[simp] theorem onNs_mov (n : Nat) (g : Ns → Ns) (s : State) : (onNs n g s).mov = s.mov := rfl
@[simp] theorem onNs_errs (n : Nat) (g : Ns → Ns) (s : State) : (onNs n g s).errs = s.errs := rfl
@[simp] theorem onNs_errCounts (n : Nat) (g : Ns → Ns) (s : State) : (onNs n g s).errCounts = s.errCounts := rfl
@[simp] theorem onNs_history (n : Nat) (g : Ns → Ns) (s : State) : (onNs n g s).history = s.history := rfl
@[simp] theorem onNs_out (n : Nat) (g : Ns → Ns) (s : State) : (onNs n g s).out = s.out := rfl

@[simp] theorem onStrm_pending (k : Nat) (g : Strm → Strm) (s : State) : (onStrm k g s).pending = s.pending := rfl
@[simp] theorem onStrm_now (k : Nat) (g : Strm → Strm) (s : State) : (onStrm k g s).now = s.now := rfl
@[simp] theorem onStrm_draws (k : Nat) (g : Strm → Strm) (s : State) : (onStrm k g s).draws = s.draws := rfl
@[simp] theorem onStrm_regs (k : Nat) (g : Strm → Strm) (s : State) : (onStrm k g s).regs = s.regs := rfl
@[simp] theorem onStrm_loaded (k : Nat) (g : Strm → Strm) (s : State) : (onStrm k g s).loaded = s.loaded := rfl
@[simp] theorem onStrm_ctrs (k : Nat) (g : Strm → Strm) (s : State) : (onStrm k g s).ctrs = s.ctrs := rfl
@[simp] theorem onStrm_snaps (k : Nat) (g : Strm → Strm) (s : State) : (onStrm k g s).snaps = s.snaps := rfl
@[simp] theorem onStrm_cad (k : Nat) (g : Strm → Strm) (s : State) : (onStrm k g s).cad = s.cad := rfl
@[simp] theorem onStrm_rge (k : Nat) (g : Strm → Strm) (s : State) : (onStrm k g s).rge = s.rge := rfl
@[simp] theorem onStrm_integ (k : Nat) (g : Strm → Strm) (s : State) : (onStrm k g s).integ = s.integ := rfl
@[simp] theorem onStrm_pith (k : Nat) (g : Strm → Strm) (s : State) : (onStrm k g s).pith = s.pith := rfl
@[simp] theorem onStrm_life (k : Nat) (g : Strm → Strm) (s : State) : (onStrm k g s).life = s.life := rfl
@[simp] theorem onStrm_dbg (k : Nat) (g : Strm → Strm) (s : State) : (onStrm k g s).dbg = s.dbg := rfl
@[simp] theorem onStrm_boot (k : Nat) (g : Strm → Strm) (s : State) : (onStrm k g s).boot = s.boot := rfl
@[simp] theorem onStrm_pins (k : Nat) (g : Strm → Strm) (s : State) : (onStrm k g s).pins = s.pins := rfl
@[simp] theorem onStrm_health (k : Nat) (g : Strm → Strm) (s : State) : (onStrm k g s).health = s.health := rfl
@[simp] theorem onStrm_cry (k : Nat) (g : Strm → Strm) (s : State) : (onStrm k g s).cry = s.cry := rfl
@[simp] theorem onStrm_brc (k : Nat) (g : Strm → Strm) (s : State) : (onStrm k g s).brc = s.brc := rfl
@[simp] theorem onStrm_zst (k : Nat) (g : Strm → Strm) (s : State) : (onStrm k g s).zst = s.zst := rfl
@[simp] theorem onStrm_flw (k : Nat) (g : Strm → Strm) (s : State) : (onStrm k g s).flw = s.flw := rfl
@[simp] theorem onStrm_med (k : Nat) (g : Strm → Strm) (s : State) : (onStrm k g s).med = s.med := rfl
@[simp] theorem onStrm_pwr (k : Nat) (g : Strm → Strm) (s : State) : (onStrm k g s).pwr = s.pwr := rfl
@[simp] theorem onStrm_dxr (k : Nat) (g : Strm → Strm) (s : State) : (onStrm k g s).dxr = s.dxr := rfl
@[simp] theorem onStrm_dsp (k : Nat) (g : Strm → Strm) (s : State) : (onStrm k g s).dsp = s.dsp := rfl
@[simp] theorem onStrm_mov (k : Nat) (g : Strm → Strm) (s : State) : (onStrm k g s).mov = s.mov := rfl
@[simp] theorem onStrm_errs (k : Nat) (g : Strm → Strm) (s : State) : (onStrm k g s).errs = s.errs := rfl
@[simp] theorem onStrm_errCounts (k : Nat) (g : Strm → Strm) (s : State) : (onStrm k g s).errCounts = s.errCounts := rfl
@[simp] theorem onStrm_history (k : Nat) (g : Strm → Strm) (s : State) : (onStrm k g s).history = s.history := rfl
@[simp] theorem onStrm_out (k : Nat) (g : Strm → Strm) (s : State) : (onStrm k g s).out = s.out := rfl

@[simp] theorem onRec_pending (k n : Nat) (g : Rec → Rec) (s : State) : (onRec k n g s).pending = s.pending := rfl
@[simp] theorem onRec_now (k n : Nat) (g : Rec → Rec) (s : State) : (onRec k n g s).now = s.now := rfl
@[simp] theorem onRec_draws (k n : Nat) (g : Rec → Rec) (s : State) : (onRec k n g s).draws = s.draws := rfl
@[simp] theorem onRec_regs (k n : Nat) (g : Rec → Rec) (s : State) : (onRec k n g s).regs = s.regs := rfl
@[simp] theorem onRec_loaded (k n : Nat) (g : Rec → Rec) (s : State) : (onRec k n g s).loaded = s.loaded := rfl
@[simp] theorem onRec_ctrs (k n : Nat) (g : Rec → Rec) (s : State) : (onRec k n g s).ctrs = s.ctrs := rfl
@[simp] theorem onRec_snaps (k n : Nat) (g : Rec → Rec) (s : State) : (onRec k n g s).snaps = s.snaps := rfl
@[simp] theorem onRec_cad (k n : Nat) (g : Rec → Rec) (s : State) : (onRec k n g s).cad = s.cad := rfl
@[simp] theorem onRec_rge (k n : Nat) (g : Rec → Rec) (s : State) : (onRec k n g s).rge = s.rge := rfl
@[simp] theorem onRec_integ (k n : Nat) (g : Rec → Rec) (s : State) : (onRec k n g s).integ = s.integ := rfl
@[simp] theorem onRec_pith (k n : Nat) (g : Rec → Rec) (s : State) : (onRec k n g s).pith = s.pith := rfl
@[simp] theorem onRec_life (k n : Nat) (g : Rec → Rec) (s : State) : (onRec k n g s).life = s.life := rfl
@[simp] theorem onRec_dbg (k n : Nat) (g : Rec → Rec) (s : State) : (onRec k n g s).dbg = s.dbg := rfl
@[simp] theorem onRec_boot (k n : Nat) (g : Rec → Rec) (s : State) : (onRec k n g s).boot = s.boot := rfl
@[simp] theorem onRec_pins (k n : Nat) (g : Rec → Rec) (s : State) : (onRec k n g s).pins = s.pins := rfl
@[simp] theorem onRec_health (k n : Nat) (g : Rec → Rec) (s : State) : (onRec k n g s).health = s.health := rfl
@[simp] theorem onRec_cry (k n : Nat) (g : Rec → Rec) (s : State) : (onRec k n g s).cry = s.cry := rfl
@[simp] theorem onRec_brc (k n : Nat) (g : Rec → Rec) (s : State) : (onRec k n g s).brc = s.brc := rfl
@[simp] theorem onRec_zst (k n : Nat) (g : Rec → Rec) (s : State) : (onRec k n g s).zst = s.zst := rfl
@[simp] theorem onRec_flw (k n : Nat) (g : Rec → Rec) (s : State) : (onRec k n g s).flw = s.flw := rfl
@[simp] theorem onRec_med (k n : Nat) (g : Rec → Rec) (s : State) : (onRec k n g s).med = s.med := rfl
@[simp] theorem onRec_pwr (k n : Nat) (g : Rec → Rec) (s : State) : (onRec k n g s).pwr = s.pwr := rfl
@[simp] theorem onRec_dxr (k n : Nat) (g : Rec → Rec) (s : State) : (onRec k n g s).dxr = s.dxr := rfl
@[simp] theorem onRec_dsp (k n : Nat) (g : Rec → Rec) (s : State) : (onRec k n g s).dsp = s.dsp := rfl
@[simp] theorem onRec_mov (k n : Nat) (g : Rec → Rec) (s : State) : (onRec k n g s).mov = s.mov := rfl
@[simp] theorem onRec_errs (k n : Nat) (g : Rec → Rec) (s : State) : (onRec k n g s).errs = s.errs := rfl
@[simp] theorem onRec_errCounts (k n : Nat) (g : Rec → Rec) (s : State) : (onRec k n g s).errCounts = s.errCounts := rfl
@[simp] theorem onRec_history (k n : Nat) (g : Rec → Rec) (s : State) : (onRec k n g s).history = s.history := rfl
@[simp] theorem onRec_out (k n : Nat) (g : Rec → Rec) (s : State) : (onRec k n g s).out = s.out := rfl

@[simp] theorem onNvme_pending (g : Nvme → Nvme) (s : State) : (onNvme g s).pending = s.pending := rfl
@[simp] theorem onNvme_now (g : Nvme → Nvme) (s : State) : (onNvme g s).now = s.now := rfl
@[simp] theorem onNvme_draws (g : Nvme → Nvme) (s : State) : (onNvme g s).draws = s.draws := rfl
@[simp] theorem onNvme_regs (g : Nvme → Nvme) (s : State) : (onNvme g s).regs = s.regs := rfl
@[simp] theorem onNvme_loaded (g : Nvme → Nvme) (s : State) : (onNvme g s).loaded = s.loaded := rfl
@[simp] theorem onNvme_ctrs (g : Nvme → Nvme) (s : State) : (onNvme g s).ctrs = s.ctrs := rfl
@[simp] theorem onNvme_snaps (g : Nvme → Nvme) (s : State) : (onNvme g s).snaps = s.snaps := rfl
@[simp] theorem onNvme_cad (g : Nvme → Nvme) (s : State) : (onNvme g s).cad = s.cad := rfl
@[simp] theorem onNvme_rge (g : Nvme → Nvme) (s : State) : (onNvme g s).rge = s.rge := rfl
@[simp] theorem onNvme_integ (g : Nvme → Nvme) (s : State) : (onNvme g s).integ = s.integ := rfl
@[simp] theorem onNvme_pith (g : Nvme → Nvme) (s : State) : (onNvme g s).pith = s.pith := rfl
@[simp] theorem onNvme_life (g : Nvme → Nvme) (s : State) : (onNvme g s).life = s.life := rfl
@[simp] theorem onNvme_dbg (g : Nvme → Nvme) (s : State) : (onNvme g s).dbg = s.dbg := rfl
@[simp] theorem onNvme_boot (g : Nvme → Nvme) (s : State) : (onNvme g s).boot = s.boot := rfl
@[simp] theorem onNvme_pins (g : Nvme → Nvme) (s : State) : (onNvme g s).pins = s.pins := rfl
@[simp] theorem onNvme_health (g : Nvme → Nvme) (s : State) : (onNvme g s).health = s.health := rfl
@[simp] theorem onNvme_cry (g : Nvme → Nvme) (s : State) : (onNvme g s).cry = s.cry := rfl
@[simp] theorem onNvme_brc (g : Nvme → Nvme) (s : State) : (onNvme g s).brc = s.brc := rfl
@[simp] theorem onNvme_zst (g : Nvme → Nvme) (s : State) : (onNvme g s).zst = s.zst := rfl
@[simp] theorem onNvme_flw (g : Nvme → Nvme) (s : State) : (onNvme g s).flw = s.flw := rfl
@[simp] theorem onNvme_med (g : Nvme → Nvme) (s : State) : (onNvme g s).med = s.med := rfl
@[simp] theorem onNvme_pwr (g : Nvme → Nvme) (s : State) : (onNvme g s).pwr = s.pwr := rfl
@[simp] theorem onNvme_dxr (g : Nvme → Nvme) (s : State) : (onNvme g s).dxr = s.dxr := rfl
@[simp] theorem onNvme_dsp (g : Nvme → Nvme) (s : State) : (onNvme g s).dsp = s.dsp := rfl
@[simp] theorem onNvme_mov (g : Nvme → Nvme) (s : State) : (onNvme g s).mov = s.mov := rfl
@[simp] theorem onNvme_errs (g : Nvme → Nvme) (s : State) : (onNvme g s).errs = s.errs := rfl
@[simp] theorem onNvme_errCounts (g : Nvme → Nvme) (s : State) : (onNvme g s).errCounts = s.errCounts := rfl
@[simp] theorem onNvme_history (g : Nvme → Nvme) (s : State) : (onNvme g s).history = s.history := rfl
@[simp] theorem onNvme_out (g : Nvme → Nvme) (s : State) : (onNvme g s).out = s.out := rfl

@[simp] theorem onPort_pending (p : Nat) (g : PPort → PPort) (s : State) : (onPort p g s).pending = s.pending := rfl
@[simp] theorem onPort_now (p : Nat) (g : PPort → PPort) (s : State) : (onPort p g s).now = s.now := rfl
@[simp] theorem onPort_draws (p : Nat) (g : PPort → PPort) (s : State) : (onPort p g s).draws = s.draws := rfl
@[simp] theorem onPort_regs (p : Nat) (g : PPort → PPort) (s : State) : (onPort p g s).regs = s.regs := rfl
@[simp] theorem onPort_loaded (p : Nat) (g : PPort → PPort) (s : State) : (onPort p g s).loaded = s.loaded := rfl
@[simp] theorem onPort_ctrs (p : Nat) (g : PPort → PPort) (s : State) : (onPort p g s).ctrs = s.ctrs := rfl
@[simp] theorem onPort_snaps (p : Nat) (g : PPort → PPort) (s : State) : (onPort p g s).snaps = s.snaps := rfl
@[simp] theorem onPort_cad (p : Nat) (g : PPort → PPort) (s : State) : (onPort p g s).cad = s.cad := rfl
@[simp] theorem onPort_rge (p : Nat) (g : PPort → PPort) (s : State) : (onPort p g s).rge = s.rge := rfl
@[simp] theorem onPort_integ (p : Nat) (g : PPort → PPort) (s : State) : (onPort p g s).integ = s.integ := rfl
@[simp] theorem onPort_life (p : Nat) (g : PPort → PPort) (s : State) : (onPort p g s).life = s.life := rfl
@[simp] theorem onPort_dbg (p : Nat) (g : PPort → PPort) (s : State) : (onPort p g s).dbg = s.dbg := rfl
@[simp] theorem onPort_boot (p : Nat) (g : PPort → PPort) (s : State) : (onPort p g s).boot = s.boot := rfl
@[simp] theorem onPort_pins (p : Nat) (g : PPort → PPort) (s : State) : (onPort p g s).pins = s.pins := rfl
@[simp] theorem onPort_health (p : Nat) (g : PPort → PPort) (s : State) : (onPort p g s).health = s.health := rfl
@[simp] theorem onPort_cmd (p : Nat) (g : PPort → PPort) (s : State) : (onPort p g s).cmd = s.cmd := rfl
@[simp] theorem onPort_cry (p : Nat) (g : PPort → PPort) (s : State) : (onPort p g s).cry = s.cry := rfl
@[simp] theorem onPort_brc (p : Nat) (g : PPort → PPort) (s : State) : (onPort p g s).brc = s.brc := rfl
@[simp] theorem onPort_zst (p : Nat) (g : PPort → PPort) (s : State) : (onPort p g s).zst = s.zst := rfl
@[simp] theorem onPort_flw (p : Nat) (g : PPort → PPort) (s : State) : (onPort p g s).flw = s.flw := rfl
@[simp] theorem onPort_med (p : Nat) (g : PPort → PPort) (s : State) : (onPort p g s).med = s.med := rfl
@[simp] theorem onPort_pwr (p : Nat) (g : PPort → PPort) (s : State) : (onPort p g s).pwr = s.pwr := rfl
@[simp] theorem onPort_dxr (p : Nat) (g : PPort → PPort) (s : State) : (onPort p g s).dxr = s.dxr := rfl
@[simp] theorem onPort_dsp (p : Nat) (g : PPort → PPort) (s : State) : (onPort p g s).dsp = s.dsp := rfl
@[simp] theorem onPort_mov (p : Nat) (g : PPort → PPort) (s : State) : (onPort p g s).mov = s.mov := rfl
@[simp] theorem onPort_errs (p : Nat) (g : PPort → PPort) (s : State) : (onPort p g s).errs = s.errs := rfl
@[simp] theorem onPort_errCounts (p : Nat) (g : PPort → PPort) (s : State) : (onPort p g s).errCounts = s.errCounts := rfl
@[simp] theorem onPort_history (p : Nat) (g : PPort → PPort) (s : State) : (onPort p g s).history = s.history := rfl
@[simp] theorem onPort_out (p : Nat) (g : PPort → PPort) (s : State) : (onPort p g s).out = s.out := rfl

@[simp] theorem onBand_pending (k : Nat) (g : Band → Band) (s : State) : (onBand k g s).pending = s.pending := rfl
@[simp] theorem onBand_now (k : Nat) (g : Band → Band) (s : State) : (onBand k g s).now = s.now := rfl
@[simp] theorem onBand_draws (k : Nat) (g : Band → Band) (s : State) : (onBand k g s).draws = s.draws := rfl
@[simp] theorem onBand_regs (k : Nat) (g : Band → Band) (s : State) : (onBand k g s).regs = s.regs := rfl
@[simp] theorem onBand_loaded (k : Nat) (g : Band → Band) (s : State) : (onBand k g s).loaded = s.loaded := rfl
@[simp] theorem onBand_ctrs (k : Nat) (g : Band → Band) (s : State) : (onBand k g s).ctrs = s.ctrs := rfl
@[simp] theorem onBand_snaps (k : Nat) (g : Band → Band) (s : State) : (onBand k g s).snaps = s.snaps := rfl
@[simp] theorem onBand_cad (k : Nat) (g : Band → Band) (s : State) : (onBand k g s).cad = s.cad := rfl
@[simp] theorem onBand_rge (k : Nat) (g : Band → Band) (s : State) : (onBand k g s).rge = s.rge := rfl
@[simp] theorem onBand_integ (k : Nat) (g : Band → Band) (s : State) : (onBand k g s).integ = s.integ := rfl
@[simp] theorem onBand_pith (k : Nat) (g : Band → Band) (s : State) : (onBand k g s).pith = s.pith := rfl
@[simp] theorem onBand_life (k : Nat) (g : Band → Band) (s : State) : (onBand k g s).life = s.life := rfl
@[simp] theorem onBand_dbg (k : Nat) (g : Band → Band) (s : State) : (onBand k g s).dbg = s.dbg := rfl
@[simp] theorem onBand_boot (k : Nat) (g : Band → Band) (s : State) : (onBand k g s).boot = s.boot := rfl
@[simp] theorem onBand_pins (k : Nat) (g : Band → Band) (s : State) : (onBand k g s).pins = s.pins := rfl
@[simp] theorem onBand_health (k : Nat) (g : Band → Band) (s : State) : (onBand k g s).health = s.health := rfl
@[simp] theorem onBand_cmd (k : Nat) (g : Band → Band) (s : State) : (onBand k g s).cmd = s.cmd := rfl
@[simp] theorem onBand_cry (k : Nat) (g : Band → Band) (s : State) : (onBand k g s).cry = s.cry := rfl
@[simp] theorem onBand_brc (k : Nat) (g : Band → Band) (s : State) : (onBand k g s).brc = s.brc := rfl
@[simp] theorem onBand_zst (k : Nat) (g : Band → Band) (s : State) : (onBand k g s).zst = s.zst := rfl
@[simp] theorem onBand_flw (k : Nat) (g : Band → Band) (s : State) : (onBand k g s).flw = s.flw := rfl
@[simp] theorem onBand_pwr (k : Nat) (g : Band → Band) (s : State) : (onBand k g s).pwr = s.pwr := rfl
@[simp] theorem onBand_dxr (k : Nat) (g : Band → Band) (s : State) : (onBand k g s).dxr = s.dxr := rfl
@[simp] theorem onBand_dsp (k : Nat) (g : Band → Band) (s : State) : (onBand k g s).dsp = s.dsp := rfl
@[simp] theorem onBand_mov (k : Nat) (g : Band → Band) (s : State) : (onBand k g s).mov = s.mov := rfl
@[simp] theorem onBand_errs (k : Nat) (g : Band → Band) (s : State) : (onBand k g s).errs = s.errs := rfl
@[simp] theorem onBand_errCounts (k : Nat) (g : Band → Band) (s : State) : (onBand k g s).errCounts = s.errCounts := rfl
@[simp] theorem onBand_history (k : Nat) (g : Band → Band) (s : State) : (onBand k g s).history = s.history := rfl
@[simp] theorem onBand_out (k : Nat) (g : Band → Band) (s : State) : (onBand k g s).out = s.out := rfl

@[simp] theorem onStone_pending (n : Nat) (g : List StoneItem → List StoneItem) (s : State) : (onStone n g s).pending = s.pending := rfl
@[simp] theorem onStone_now (n : Nat) (g : List StoneItem → List StoneItem) (s : State) : (onStone n g s).now = s.now := rfl
@[simp] theorem onStone_draws (n : Nat) (g : List StoneItem → List StoneItem) (s : State) : (onStone n g s).draws = s.draws := rfl
@[simp] theorem onStone_regs (n : Nat) (g : List StoneItem → List StoneItem) (s : State) : (onStone n g s).regs = s.regs := rfl
@[simp] theorem onStone_loaded (n : Nat) (g : List StoneItem → List StoneItem) (s : State) : (onStone n g s).loaded = s.loaded := rfl
@[simp] theorem onStone_ctrs (n : Nat) (g : List StoneItem → List StoneItem) (s : State) : (onStone n g s).ctrs = s.ctrs := rfl
@[simp] theorem onStone_snaps (n : Nat) (g : List StoneItem → List StoneItem) (s : State) : (onStone n g s).snaps = s.snaps := rfl
@[simp] theorem onStone_cad (n : Nat) (g : List StoneItem → List StoneItem) (s : State) : (onStone n g s).cad = s.cad := rfl
@[simp] theorem onStone_rge (n : Nat) (g : List StoneItem → List StoneItem) (s : State) : (onStone n g s).rge = s.rge := rfl
@[simp] theorem onStone_integ (n : Nat) (g : List StoneItem → List StoneItem) (s : State) : (onStone n g s).integ = s.integ := rfl
@[simp] theorem onStone_pith (n : Nat) (g : List StoneItem → List StoneItem) (s : State) : (onStone n g s).pith = s.pith := rfl
@[simp] theorem onStone_life (n : Nat) (g : List StoneItem → List StoneItem) (s : State) : (onStone n g s).life = s.life := rfl
@[simp] theorem onStone_dbg (n : Nat) (g : List StoneItem → List StoneItem) (s : State) : (onStone n g s).dbg = s.dbg := rfl
@[simp] theorem onStone_boot (n : Nat) (g : List StoneItem → List StoneItem) (s : State) : (onStone n g s).boot = s.boot := rfl
@[simp] theorem onStone_pins (n : Nat) (g : List StoneItem → List StoneItem) (s : State) : (onStone n g s).pins = s.pins := rfl
@[simp] theorem onStone_health (n : Nat) (g : List StoneItem → List StoneItem) (s : State) : (onStone n g s).health = s.health := rfl
@[simp] theorem onStone_cmd (n : Nat) (g : List StoneItem → List StoneItem) (s : State) : (onStone n g s).cmd = s.cmd := rfl
@[simp] theorem onStone_cry (n : Nat) (g : List StoneItem → List StoneItem) (s : State) : (onStone n g s).cry = s.cry := rfl
@[simp] theorem onStone_brc (n : Nat) (g : List StoneItem → List StoneItem) (s : State) : (onStone n g s).brc = s.brc := rfl
@[simp] theorem onStone_zst (n : Nat) (g : List StoneItem → List StoneItem) (s : State) : (onStone n g s).zst = s.zst := rfl
@[simp] theorem onStone_flw (n : Nat) (g : List StoneItem → List StoneItem) (s : State) : (onStone n g s).flw = s.flw := rfl
@[simp] theorem onStone_pwr (n : Nat) (g : List StoneItem → List StoneItem) (s : State) : (onStone n g s).pwr = s.pwr := rfl
@[simp] theorem onStone_dxr (n : Nat) (g : List StoneItem → List StoneItem) (s : State) : (onStone n g s).dxr = s.dxr := rfl
@[simp] theorem onStone_dsp (n : Nat) (g : List StoneItem → List StoneItem) (s : State) : (onStone n g s).dsp = s.dsp := rfl
@[simp] theorem onStone_mov (n : Nat) (g : List StoneItem → List StoneItem) (s : State) : (onStone n g s).mov = s.mov := rfl
@[simp] theorem onStone_errs (n : Nat) (g : List StoneItem → List StoneItem) (s : State) : (onStone n g s).errs = s.errs := rfl
@[simp] theorem onStone_errCounts (n : Nat) (g : List StoneItem → List StoneItem) (s : State) : (onStone n g s).errCounts = s.errCounts := rfl
@[simp] theorem onStone_history (n : Nat) (g : List StoneItem → List StoneItem) (s : State) : (onStone n g s).history = s.history := rfl
@[simp] theorem onStone_out (n : Nat) (g : List StoneItem → List StoneItem) (s : State) : (onStone n g s).out = s.out := rfl

@[simp] theorem onCore_pending (k : Nat) (g : DCore → DCore) (s : State) : (onCore k g s).pending = s.pending := rfl
@[simp] theorem onCore_now (k : Nat) (g : DCore → DCore) (s : State) : (onCore k g s).now = s.now := rfl
@[simp] theorem onCore_draws (k : Nat) (g : DCore → DCore) (s : State) : (onCore k g s).draws = s.draws := rfl
@[simp] theorem onCore_regs (k : Nat) (g : DCore → DCore) (s : State) : (onCore k g s).regs = s.regs := rfl
@[simp] theorem onCore_loaded (k : Nat) (g : DCore → DCore) (s : State) : (onCore k g s).loaded = s.loaded := rfl
@[simp] theorem onCore_ctrs (k : Nat) (g : DCore → DCore) (s : State) : (onCore k g s).ctrs = s.ctrs := rfl
@[simp] theorem onCore_snaps (k : Nat) (g : DCore → DCore) (s : State) : (onCore k g s).snaps = s.snaps := rfl
@[simp] theorem onCore_cad (k : Nat) (g : DCore → DCore) (s : State) : (onCore k g s).cad = s.cad := rfl
@[simp] theorem onCore_rge (k : Nat) (g : DCore → DCore) (s : State) : (onCore k g s).rge = s.rge := rfl
@[simp] theorem onCore_integ (k : Nat) (g : DCore → DCore) (s : State) : (onCore k g s).integ = s.integ := rfl
@[simp] theorem onCore_pith (k : Nat) (g : DCore → DCore) (s : State) : (onCore k g s).pith = s.pith := rfl
@[simp] theorem onCore_life (k : Nat) (g : DCore → DCore) (s : State) : (onCore k g s).life = s.life := rfl
@[simp] theorem onCore_dbg (k : Nat) (g : DCore → DCore) (s : State) : (onCore k g s).dbg = s.dbg := rfl
@[simp] theorem onCore_boot (k : Nat) (g : DCore → DCore) (s : State) : (onCore k g s).boot = s.boot := rfl
@[simp] theorem onCore_pins (k : Nat) (g : DCore → DCore) (s : State) : (onCore k g s).pins = s.pins := rfl
@[simp] theorem onCore_health (k : Nat) (g : DCore → DCore) (s : State) : (onCore k g s).health = s.health := rfl
@[simp] theorem onCore_cmd (k : Nat) (g : DCore → DCore) (s : State) : (onCore k g s).cmd = s.cmd := rfl
@[simp] theorem onCore_cry (k : Nat) (g : DCore → DCore) (s : State) : (onCore k g s).cry = s.cry := rfl
@[simp] theorem onCore_brc (k : Nat) (g : DCore → DCore) (s : State) : (onCore k g s).brc = s.brc := rfl
@[simp] theorem onCore_zst (k : Nat) (g : DCore → DCore) (s : State) : (onCore k g s).zst = s.zst := rfl
@[simp] theorem onCore_flw (k : Nat) (g : DCore → DCore) (s : State) : (onCore k g s).flw = s.flw := rfl
@[simp] theorem onCore_med (k : Nat) (g : DCore → DCore) (s : State) : (onCore k g s).med = s.med := rfl
@[simp] theorem onCore_pwr (k : Nat) (g : DCore → DCore) (s : State) : (onCore k g s).pwr = s.pwr := rfl
@[simp] theorem onCore_dsp (k : Nat) (g : DCore → DCore) (s : State) : (onCore k g s).dsp = s.dsp := rfl
@[simp] theorem onCore_mov (k : Nat) (g : DCore → DCore) (s : State) : (onCore k g s).mov = s.mov := rfl
@[simp] theorem onCore_errs (k : Nat) (g : DCore → DCore) (s : State) : (onCore k g s).errs = s.errs := rfl
@[simp] theorem onCore_errCounts (k : Nat) (g : DCore → DCore) (s : State) : (onCore k g s).errCounts = s.errCounts := rfl
@[simp] theorem onCore_history (k : Nat) (g : DCore → DCore) (s : State) : (onCore k g s).history = s.history := rfl
@[simp] theorem onCore_out (k : Nat) (g : DCore → DCore) (s : State) : (onCore k g s).out = s.out := rfl

@[simp] theorem onMem_pending (k : Nat) (g : List Host.Cell → List Host.Cell) (s : State) : (onMem k g s).pending = s.pending := rfl
@[simp] theorem onMem_now (k : Nat) (g : List Host.Cell → List Host.Cell) (s : State) : (onMem k g s).now = s.now := rfl
@[simp] theorem onMem_draws (k : Nat) (g : List Host.Cell → List Host.Cell) (s : State) : (onMem k g s).draws = s.draws := rfl
@[simp] theorem onMem_regs (k : Nat) (g : List Host.Cell → List Host.Cell) (s : State) : (onMem k g s).regs = s.regs := rfl
@[simp] theorem onMem_loaded (k : Nat) (g : List Host.Cell → List Host.Cell) (s : State) : (onMem k g s).loaded = s.loaded := rfl
@[simp] theorem onMem_ctrs (k : Nat) (g : List Host.Cell → List Host.Cell) (s : State) : (onMem k g s).ctrs = s.ctrs := rfl
@[simp] theorem onMem_snaps (k : Nat) (g : List Host.Cell → List Host.Cell) (s : State) : (onMem k g s).snaps = s.snaps := rfl
@[simp] theorem onMem_cad (k : Nat) (g : List Host.Cell → List Host.Cell) (s : State) : (onMem k g s).cad = s.cad := rfl
@[simp] theorem onMem_rge (k : Nat) (g : List Host.Cell → List Host.Cell) (s : State) : (onMem k g s).rge = s.rge := rfl
@[simp] theorem onMem_integ (k : Nat) (g : List Host.Cell → List Host.Cell) (s : State) : (onMem k g s).integ = s.integ := rfl
@[simp] theorem onMem_pith (k : Nat) (g : List Host.Cell → List Host.Cell) (s : State) : (onMem k g s).pith = s.pith := rfl
@[simp] theorem onMem_life (k : Nat) (g : List Host.Cell → List Host.Cell) (s : State) : (onMem k g s).life = s.life := rfl
@[simp] theorem onMem_dbg (k : Nat) (g : List Host.Cell → List Host.Cell) (s : State) : (onMem k g s).dbg = s.dbg := rfl
@[simp] theorem onMem_boot (k : Nat) (g : List Host.Cell → List Host.Cell) (s : State) : (onMem k g s).boot = s.boot := rfl
@[simp] theorem onMem_pins (k : Nat) (g : List Host.Cell → List Host.Cell) (s : State) : (onMem k g s).pins = s.pins := rfl
@[simp] theorem onMem_health (k : Nat) (g : List Host.Cell → List Host.Cell) (s : State) : (onMem k g s).health = s.health := rfl
@[simp] theorem onMem_cmd (k : Nat) (g : List Host.Cell → List Host.Cell) (s : State) : (onMem k g s).cmd = s.cmd := rfl
@[simp] theorem onMem_cry (k : Nat) (g : List Host.Cell → List Host.Cell) (s : State) : (onMem k g s).cry = s.cry := rfl
@[simp] theorem onMem_brc (k : Nat) (g : List Host.Cell → List Host.Cell) (s : State) : (onMem k g s).brc = s.brc := rfl
@[simp] theorem onMem_zst (k : Nat) (g : List Host.Cell → List Host.Cell) (s : State) : (onMem k g s).zst = s.zst := rfl
@[simp] theorem onMem_flw (k : Nat) (g : List Host.Cell → List Host.Cell) (s : State) : (onMem k g s).flw = s.flw := rfl
@[simp] theorem onMem_med (k : Nat) (g : List Host.Cell → List Host.Cell) (s : State) : (onMem k g s).med = s.med := rfl
@[simp] theorem onMem_pwr (k : Nat) (g : List Host.Cell → List Host.Cell) (s : State) : (onMem k g s).pwr = s.pwr := rfl
@[simp] theorem onMem_dsp (k : Nat) (g : List Host.Cell → List Host.Cell) (s : State) : (onMem k g s).dsp = s.dsp := rfl
@[simp] theorem onMem_mov (k : Nat) (g : List Host.Cell → List Host.Cell) (s : State) : (onMem k g s).mov = s.mov := rfl
@[simp] theorem onMem_errs (k : Nat) (g : List Host.Cell → List Host.Cell) (s : State) : (onMem k g s).errs = s.errs := rfl
@[simp] theorem onMem_errCounts (k : Nat) (g : List Host.Cell → List Host.Cell) (s : State) : (onMem k g s).errCounts = s.errCounts := rfl
@[simp] theorem onMem_history (k : Nat) (g : List Host.Cell → List Host.Cell) (s : State) : (onMem k g s).history = s.history := rfl
@[simp] theorem onMem_out (k : Nat) (g : List Host.Cell → List Host.Cell) (s : State) : (onMem k g s).out = s.out := rfl

@[simp] theorem onCtx_pending (k : Nat) (g : Ctx → Ctx) (s : State) : (onCtx k g s).pending = s.pending := rfl
@[simp] theorem onCtx_now (k : Nat) (g : Ctx → Ctx) (s : State) : (onCtx k g s).now = s.now := rfl
@[simp] theorem onCtx_draws (k : Nat) (g : Ctx → Ctx) (s : State) : (onCtx k g s).draws = s.draws := rfl
@[simp] theorem onCtx_regs (k : Nat) (g : Ctx → Ctx) (s : State) : (onCtx k g s).regs = s.regs := rfl
@[simp] theorem onCtx_loaded (k : Nat) (g : Ctx → Ctx) (s : State) : (onCtx k g s).loaded = s.loaded := rfl
@[simp] theorem onCtx_ctrs (k : Nat) (g : Ctx → Ctx) (s : State) : (onCtx k g s).ctrs = s.ctrs := rfl
@[simp] theorem onCtx_snaps (k : Nat) (g : Ctx → Ctx) (s : State) : (onCtx k g s).snaps = s.snaps := rfl
@[simp] theorem onCtx_cad (k : Nat) (g : Ctx → Ctx) (s : State) : (onCtx k g s).cad = s.cad := rfl
@[simp] theorem onCtx_rge (k : Nat) (g : Ctx → Ctx) (s : State) : (onCtx k g s).rge = s.rge := rfl
@[simp] theorem onCtx_integ (k : Nat) (g : Ctx → Ctx) (s : State) : (onCtx k g s).integ = s.integ := rfl
@[simp] theorem onCtx_pith (k : Nat) (g : Ctx → Ctx) (s : State) : (onCtx k g s).pith = s.pith := rfl
@[simp] theorem onCtx_life (k : Nat) (g : Ctx → Ctx) (s : State) : (onCtx k g s).life = s.life := rfl
@[simp] theorem onCtx_dbg (k : Nat) (g : Ctx → Ctx) (s : State) : (onCtx k g s).dbg = s.dbg := rfl
@[simp] theorem onCtx_boot (k : Nat) (g : Ctx → Ctx) (s : State) : (onCtx k g s).boot = s.boot := rfl
@[simp] theorem onCtx_pins (k : Nat) (g : Ctx → Ctx) (s : State) : (onCtx k g s).pins = s.pins := rfl
@[simp] theorem onCtx_health (k : Nat) (g : Ctx → Ctx) (s : State) : (onCtx k g s).health = s.health := rfl
@[simp] theorem onCtx_cmd (k : Nat) (g : Ctx → Ctx) (s : State) : (onCtx k g s).cmd = s.cmd := rfl
@[simp] theorem onCtx_brc (k : Nat) (g : Ctx → Ctx) (s : State) : (onCtx k g s).brc = s.brc := rfl
@[simp] theorem onCtx_zst (k : Nat) (g : Ctx → Ctx) (s : State) : (onCtx k g s).zst = s.zst := rfl
@[simp] theorem onCtx_flw (k : Nat) (g : Ctx → Ctx) (s : State) : (onCtx k g s).flw = s.flw := rfl
@[simp] theorem onCtx_med (k : Nat) (g : Ctx → Ctx) (s : State) : (onCtx k g s).med = s.med := rfl
@[simp] theorem onCtx_pwr (k : Nat) (g : Ctx → Ctx) (s : State) : (onCtx k g s).pwr = s.pwr := rfl
@[simp] theorem onCtx_dxr (k : Nat) (g : Ctx → Ctx) (s : State) : (onCtx k g s).dxr = s.dxr := rfl
@[simp] theorem onCtx_dsp (k : Nat) (g : Ctx → Ctx) (s : State) : (onCtx k g s).dsp = s.dsp := rfl
@[simp] theorem onCtx_mov (k : Nat) (g : Ctx → Ctx) (s : State) : (onCtx k g s).mov = s.mov := rfl
@[simp] theorem onCtx_errs (k : Nat) (g : Ctx → Ctx) (s : State) : (onCtx k g s).errs = s.errs := rfl
@[simp] theorem onCtx_errCounts (k : Nat) (g : Ctx → Ctx) (s : State) : (onCtx k g s).errCounts = s.errCounts := rfl
@[simp] theorem onCtx_history (k : Nat) (g : Ctx → Ctx) (s : State) : (onCtx k g s).history = s.history := rfl
@[simp] theorem onCtx_out (k : Nat) (g : Ctx → Ctx) (s : State) : (onCtx k g s).out = s.out := rfl

@[simp] theorem onDie_pending (d : Nat) (g : Die → Die) (s : State) : (onDie d g s).pending = s.pending := rfl
@[simp] theorem onDie_now (d : Nat) (g : Die → Die) (s : State) : (onDie d g s).now = s.now := rfl
@[simp] theorem onDie_draws (d : Nat) (g : Die → Die) (s : State) : (onDie d g s).draws = s.draws := rfl
@[simp] theorem onDie_regs (d : Nat) (g : Die → Die) (s : State) : (onDie d g s).regs = s.regs := rfl
@[simp] theorem onDie_loaded (d : Nat) (g : Die → Die) (s : State) : (onDie d g s).loaded = s.loaded := rfl
@[simp] theorem onDie_ctrs (d : Nat) (g : Die → Die) (s : State) : (onDie d g s).ctrs = s.ctrs := rfl
@[simp] theorem onDie_snaps (d : Nat) (g : Die → Die) (s : State) : (onDie d g s).snaps = s.snaps := rfl
@[simp] theorem onDie_cad (d : Nat) (g : Die → Die) (s : State) : (onDie d g s).cad = s.cad := rfl
@[simp] theorem onDie_rge (d : Nat) (g : Die → Die) (s : State) : (onDie d g s).rge = s.rge := rfl
@[simp] theorem onDie_integ (d : Nat) (g : Die → Die) (s : State) : (onDie d g s).integ = s.integ := rfl
@[simp] theorem onDie_pith (d : Nat) (g : Die → Die) (s : State) : (onDie d g s).pith = s.pith := rfl
@[simp] theorem onDie_life (d : Nat) (g : Die → Die) (s : State) : (onDie d g s).life = s.life := rfl
@[simp] theorem onDie_dbg (d : Nat) (g : Die → Die) (s : State) : (onDie d g s).dbg = s.dbg := rfl
@[simp] theorem onDie_boot (d : Nat) (g : Die → Die) (s : State) : (onDie d g s).boot = s.boot := rfl
@[simp] theorem onDie_pins (d : Nat) (g : Die → Die) (s : State) : (onDie d g s).pins = s.pins := rfl
@[simp] theorem onDie_health (d : Nat) (g : Die → Die) (s : State) : (onDie d g s).health = s.health := rfl
@[simp] theorem onDie_cmd (d : Nat) (g : Die → Die) (s : State) : (onDie d g s).cmd = s.cmd := rfl
@[simp] theorem onDie_cry (d : Nat) (g : Die → Die) (s : State) : (onDie d g s).cry = s.cry := rfl
@[simp] theorem onDie_brc (d : Nat) (g : Die → Die) (s : State) : (onDie d g s).brc = s.brc := rfl
@[simp] theorem onDie_zst (d : Nat) (g : Die → Die) (s : State) : (onDie d g s).zst = s.zst := rfl
@[simp] theorem onDie_med (d : Nat) (g : Die → Die) (s : State) : (onDie d g s).med = s.med := rfl
@[simp] theorem onDie_pwr (d : Nat) (g : Die → Die) (s : State) : (onDie d g s).pwr = s.pwr := rfl
@[simp] theorem onDie_dxr (d : Nat) (g : Die → Die) (s : State) : (onDie d g s).dxr = s.dxr := rfl
@[simp] theorem onDie_dsp (d : Nat) (g : Die → Die) (s : State) : (onDie d g s).dsp = s.dsp := rfl
@[simp] theorem onDie_mov (d : Nat) (g : Die → Die) (s : State) : (onDie d g s).mov = s.mov := rfl
@[simp] theorem onDie_errs (d : Nat) (g : Die → Die) (s : State) : (onDie d g s).errs = s.errs := rfl
@[simp] theorem onDie_errCounts (d : Nat) (g : Die → Die) (s : State) : (onDie d g s).errCounts = s.errCounts := rfl
@[simp] theorem onDie_history (d : Nat) (g : Die → Die) (s : State) : (onDie d g s).history = s.history := rfl
@[simp] theorem onDie_out (d : Nat) (g : Die → Die) (s : State) : (onDie d g s).out = s.out := rfl

@[simp] theorem onChan_pending (c : Nat) (g : Chan → Chan) (s : State) : (onChan c g s).pending = s.pending := rfl
@[simp] theorem onChan_now (c : Nat) (g : Chan → Chan) (s : State) : (onChan c g s).now = s.now := rfl
@[simp] theorem onChan_draws (c : Nat) (g : Chan → Chan) (s : State) : (onChan c g s).draws = s.draws := rfl
@[simp] theorem onChan_regs (c : Nat) (g : Chan → Chan) (s : State) : (onChan c g s).regs = s.regs := rfl
@[simp] theorem onChan_loaded (c : Nat) (g : Chan → Chan) (s : State) : (onChan c g s).loaded = s.loaded := rfl
@[simp] theorem onChan_ctrs (c : Nat) (g : Chan → Chan) (s : State) : (onChan c g s).ctrs = s.ctrs := rfl
@[simp] theorem onChan_snaps (c : Nat) (g : Chan → Chan) (s : State) : (onChan c g s).snaps = s.snaps := rfl
@[simp] theorem onChan_cad (c : Nat) (g : Chan → Chan) (s : State) : (onChan c g s).cad = s.cad := rfl
@[simp] theorem onChan_rge (c : Nat) (g : Chan → Chan) (s : State) : (onChan c g s).rge = s.rge := rfl
@[simp] theorem onChan_integ (c : Nat) (g : Chan → Chan) (s : State) : (onChan c g s).integ = s.integ := rfl
@[simp] theorem onChan_pith (c : Nat) (g : Chan → Chan) (s : State) : (onChan c g s).pith = s.pith := rfl
@[simp] theorem onChan_life (c : Nat) (g : Chan → Chan) (s : State) : (onChan c g s).life = s.life := rfl
@[simp] theorem onChan_dbg (c : Nat) (g : Chan → Chan) (s : State) : (onChan c g s).dbg = s.dbg := rfl
@[simp] theorem onChan_boot (c : Nat) (g : Chan → Chan) (s : State) : (onChan c g s).boot = s.boot := rfl
@[simp] theorem onChan_pins (c : Nat) (g : Chan → Chan) (s : State) : (onChan c g s).pins = s.pins := rfl
@[simp] theorem onChan_health (c : Nat) (g : Chan → Chan) (s : State) : (onChan c g s).health = s.health := rfl
@[simp] theorem onChan_cmd (c : Nat) (g : Chan → Chan) (s : State) : (onChan c g s).cmd = s.cmd := rfl
@[simp] theorem onChan_cry (c : Nat) (g : Chan → Chan) (s : State) : (onChan c g s).cry = s.cry := rfl
@[simp] theorem onChan_brc (c : Nat) (g : Chan → Chan) (s : State) : (onChan c g s).brc = s.brc := rfl
@[simp] theorem onChan_zst (c : Nat) (g : Chan → Chan) (s : State) : (onChan c g s).zst = s.zst := rfl
@[simp] theorem onChan_med (c : Nat) (g : Chan → Chan) (s : State) : (onChan c g s).med = s.med := rfl
@[simp] theorem onChan_pwr (c : Nat) (g : Chan → Chan) (s : State) : (onChan c g s).pwr = s.pwr := rfl
@[simp] theorem onChan_dxr (c : Nat) (g : Chan → Chan) (s : State) : (onChan c g s).dxr = s.dxr := rfl
@[simp] theorem onChan_dsp (c : Nat) (g : Chan → Chan) (s : State) : (onChan c g s).dsp = s.dsp := rfl
@[simp] theorem onChan_mov (c : Nat) (g : Chan → Chan) (s : State) : (onChan c g s).mov = s.mov := rfl
@[simp] theorem onChan_errs (c : Nat) (g : Chan → Chan) (s : State) : (onChan c g s).errs = s.errs := rfl
@[simp] theorem onChan_errCounts (c : Nat) (g : Chan → Chan) (s : State) : (onChan c g s).errCounts = s.errCounts := rfl
@[simp] theorem onChan_history (c : Nat) (g : Chan → Chan) (s : State) : (onChan c g s).history = s.history := rfl
@[simp] theorem onChan_out (c : Nat) (g : Chan → Chan) (s : State) : (onChan c g s).out = s.out := rfl

@[simp] theorem onChannel_pending (c : Nat) (g : DmCh → DmCh) (s : State) : (onChannel c g s).pending = s.pending := rfl
@[simp] theorem onChannel_now (c : Nat) (g : DmCh → DmCh) (s : State) : (onChannel c g s).now = s.now := rfl
@[simp] theorem onChannel_draws (c : Nat) (g : DmCh → DmCh) (s : State) : (onChannel c g s).draws = s.draws := rfl
@[simp] theorem onChannel_regs (c : Nat) (g : DmCh → DmCh) (s : State) : (onChannel c g s).regs = s.regs := rfl
@[simp] theorem onChannel_loaded (c : Nat) (g : DmCh → DmCh) (s : State) : (onChannel c g s).loaded = s.loaded := rfl
@[simp] theorem onChannel_ctrs (c : Nat) (g : DmCh → DmCh) (s : State) : (onChannel c g s).ctrs = s.ctrs := rfl
@[simp] theorem onChannel_snaps (c : Nat) (g : DmCh → DmCh) (s : State) : (onChannel c g s).snaps = s.snaps := rfl
@[simp] theorem onChannel_cad (c : Nat) (g : DmCh → DmCh) (s : State) : (onChannel c g s).cad = s.cad := rfl
@[simp] theorem onChannel_rge (c : Nat) (g : DmCh → DmCh) (s : State) : (onChannel c g s).rge = s.rge := rfl
@[simp] theorem onChannel_integ (c : Nat) (g : DmCh → DmCh) (s : State) : (onChannel c g s).integ = s.integ := rfl
@[simp] theorem onChannel_pith (c : Nat) (g : DmCh → DmCh) (s : State) : (onChannel c g s).pith = s.pith := rfl
@[simp] theorem onChannel_life (c : Nat) (g : DmCh → DmCh) (s : State) : (onChannel c g s).life = s.life := rfl
@[simp] theorem onChannel_dbg (c : Nat) (g : DmCh → DmCh) (s : State) : (onChannel c g s).dbg = s.dbg := rfl
@[simp] theorem onChannel_boot (c : Nat) (g : DmCh → DmCh) (s : State) : (onChannel c g s).boot = s.boot := rfl
@[simp] theorem onChannel_pins (c : Nat) (g : DmCh → DmCh) (s : State) : (onChannel c g s).pins = s.pins := rfl
@[simp] theorem onChannel_health (c : Nat) (g : DmCh → DmCh) (s : State) : (onChannel c g s).health = s.health := rfl
@[simp] theorem onChannel_cmd (c : Nat) (g : DmCh → DmCh) (s : State) : (onChannel c g s).cmd = s.cmd := rfl
@[simp] theorem onChannel_cry (c : Nat) (g : DmCh → DmCh) (s : State) : (onChannel c g s).cry = s.cry := rfl
@[simp] theorem onChannel_brc (c : Nat) (g : DmCh → DmCh) (s : State) : (onChannel c g s).brc = s.brc := rfl
@[simp] theorem onChannel_zst (c : Nat) (g : DmCh → DmCh) (s : State) : (onChannel c g s).zst = s.zst := rfl
@[simp] theorem onChannel_flw (c : Nat) (g : DmCh → DmCh) (s : State) : (onChannel c g s).flw = s.flw := rfl
@[simp] theorem onChannel_med (c : Nat) (g : DmCh → DmCh) (s : State) : (onChannel c g s).med = s.med := rfl
@[simp] theorem onChannel_pwr (c : Nat) (g : DmCh → DmCh) (s : State) : (onChannel c g s).pwr = s.pwr := rfl
@[simp] theorem onChannel_dxr (c : Nat) (g : DmCh → DmCh) (s : State) : (onChannel c g s).dxr = s.dxr := rfl
@[simp] theorem onChannel_dsp (c : Nat) (g : DmCh → DmCh) (s : State) : (onChannel c g s).dsp = s.dsp := rfl
@[simp] theorem onChannel_errs (c : Nat) (g : DmCh → DmCh) (s : State) : (onChannel c g s).errs = s.errs := rfl
@[simp] theorem onChannel_errCounts (c : Nat) (g : DmCh → DmCh) (s : State) : (onChannel c g s).errCounts = s.errCounts := rfl
@[simp] theorem onChannel_history (c : Nat) (g : DmCh → DmCh) (s : State) : (onChannel c g s).history = s.history := rfl
@[simp] theorem onChannel_out (c : Nat) (g : DmCh → DmCh) (s : State) : (onChannel c g s).out = s.out := rfl

@[simp] theorem onDram_pending (n : Nat) (g : Dram → Dram) (s : State) : (onDram n g s).pending = s.pending := rfl
@[simp] theorem onDram_now (n : Nat) (g : Dram → Dram) (s : State) : (onDram n g s).now = s.now := rfl
@[simp] theorem onDram_draws (n : Nat) (g : Dram → Dram) (s : State) : (onDram n g s).draws = s.draws := rfl
@[simp] theorem onDram_regs (n : Nat) (g : Dram → Dram) (s : State) : (onDram n g s).regs = s.regs := rfl
@[simp] theorem onDram_loaded (n : Nat) (g : Dram → Dram) (s : State) : (onDram n g s).loaded = s.loaded := rfl
@[simp] theorem onDram_ctrs (n : Nat) (g : Dram → Dram) (s : State) : (onDram n g s).ctrs = s.ctrs := rfl
@[simp] theorem onDram_snaps (n : Nat) (g : Dram → Dram) (s : State) : (onDram n g s).snaps = s.snaps := rfl
@[simp] theorem onDram_cad (n : Nat) (g : Dram → Dram) (s : State) : (onDram n g s).cad = s.cad := rfl
@[simp] theorem onDram_rge (n : Nat) (g : Dram → Dram) (s : State) : (onDram n g s).rge = s.rge := rfl
@[simp] theorem onDram_integ (n : Nat) (g : Dram → Dram) (s : State) : (onDram n g s).integ = s.integ := rfl
@[simp] theorem onDram_pith (n : Nat) (g : Dram → Dram) (s : State) : (onDram n g s).pith = s.pith := rfl
@[simp] theorem onDram_life (n : Nat) (g : Dram → Dram) (s : State) : (onDram n g s).life = s.life := rfl
@[simp] theorem onDram_dbg (n : Nat) (g : Dram → Dram) (s : State) : (onDram n g s).dbg = s.dbg := rfl
@[simp] theorem onDram_boot (n : Nat) (g : Dram → Dram) (s : State) : (onDram n g s).boot = s.boot := rfl
@[simp] theorem onDram_pins (n : Nat) (g : Dram → Dram) (s : State) : (onDram n g s).pins = s.pins := rfl
@[simp] theorem onDram_health (n : Nat) (g : Dram → Dram) (s : State) : (onDram n g s).health = s.health := rfl
@[simp] theorem onDram_cmd (n : Nat) (g : Dram → Dram) (s : State) : (onDram n g s).cmd = s.cmd := rfl
@[simp] theorem onDram_cry (n : Nat) (g : Dram → Dram) (s : State) : (onDram n g s).cry = s.cry := rfl
@[simp] theorem onDram_brc (n : Nat) (g : Dram → Dram) (s : State) : (onDram n g s).brc = s.brc := rfl
@[simp] theorem onDram_zst (n : Nat) (g : Dram → Dram) (s : State) : (onDram n g s).zst = s.zst := rfl
@[simp] theorem onDram_flw (n : Nat) (g : Dram → Dram) (s : State) : (onDram n g s).flw = s.flw := rfl
@[simp] theorem onDram_med (n : Nat) (g : Dram → Dram) (s : State) : (onDram n g s).med = s.med := rfl
@[simp] theorem onDram_pwr (n : Nat) (g : Dram → Dram) (s : State) : (onDram n g s).pwr = s.pwr := rfl
@[simp] theorem onDram_dxr (n : Nat) (g : Dram → Dram) (s : State) : (onDram n g s).dxr = s.dxr := rfl
@[simp] theorem onDram_dsp (n : Nat) (g : Dram → Dram) (s : State) : (onDram n g s).dsp = s.dsp := rfl
@[simp] theorem onDram_errs (n : Nat) (g : Dram → Dram) (s : State) : (onDram n g s).errs = s.errs := rfl
@[simp] theorem onDram_errCounts (n : Nat) (g : Dram → Dram) (s : State) : (onDram n g s).errCounts = s.errCounts := rfl
@[simp] theorem onDram_history (n : Nat) (g : Dram → Dram) (s : State) : (onDram n g s).history = s.history := rfl
@[simp] theorem onDram_out (n : Nat) (g : Dram → Dram) (s : State) : (onDram n g s).out = s.out := rfl

@[simp] theorem onDBank_pending (n b : Nat) (g : DBank → DBank) (s : State) : (onDBank n b g s).pending = s.pending := rfl
@[simp] theorem onDBank_now (n b : Nat) (g : DBank → DBank) (s : State) : (onDBank n b g s).now = s.now := rfl
@[simp] theorem onDBank_draws (n b : Nat) (g : DBank → DBank) (s : State) : (onDBank n b g s).draws = s.draws := rfl
@[simp] theorem onDBank_regs (n b : Nat) (g : DBank → DBank) (s : State) : (onDBank n b g s).regs = s.regs := rfl
@[simp] theorem onDBank_loaded (n b : Nat) (g : DBank → DBank) (s : State) : (onDBank n b g s).loaded = s.loaded := rfl
@[simp] theorem onDBank_ctrs (n b : Nat) (g : DBank → DBank) (s : State) : (onDBank n b g s).ctrs = s.ctrs := rfl
@[simp] theorem onDBank_snaps (n b : Nat) (g : DBank → DBank) (s : State) : (onDBank n b g s).snaps = s.snaps := rfl
@[simp] theorem onDBank_cad (n b : Nat) (g : DBank → DBank) (s : State) : (onDBank n b g s).cad = s.cad := rfl
@[simp] theorem onDBank_rge (n b : Nat) (g : DBank → DBank) (s : State) : (onDBank n b g s).rge = s.rge := rfl
@[simp] theorem onDBank_integ (n b : Nat) (g : DBank → DBank) (s : State) : (onDBank n b g s).integ = s.integ := rfl
@[simp] theorem onDBank_pith (n b : Nat) (g : DBank → DBank) (s : State) : (onDBank n b g s).pith = s.pith := rfl
@[simp] theorem onDBank_life (n b : Nat) (g : DBank → DBank) (s : State) : (onDBank n b g s).life = s.life := rfl
@[simp] theorem onDBank_dbg (n b : Nat) (g : DBank → DBank) (s : State) : (onDBank n b g s).dbg = s.dbg := rfl
@[simp] theorem onDBank_boot (n b : Nat) (g : DBank → DBank) (s : State) : (onDBank n b g s).boot = s.boot := rfl
@[simp] theorem onDBank_pins (n b : Nat) (g : DBank → DBank) (s : State) : (onDBank n b g s).pins = s.pins := rfl
@[simp] theorem onDBank_health (n b : Nat) (g : DBank → DBank) (s : State) : (onDBank n b g s).health = s.health := rfl
@[simp] theorem onDBank_cmd (n b : Nat) (g : DBank → DBank) (s : State) : (onDBank n b g s).cmd = s.cmd := rfl
@[simp] theorem onDBank_cry (n b : Nat) (g : DBank → DBank) (s : State) : (onDBank n b g s).cry = s.cry := rfl
@[simp] theorem onDBank_brc (n b : Nat) (g : DBank → DBank) (s : State) : (onDBank n b g s).brc = s.brc := rfl
@[simp] theorem onDBank_zst (n b : Nat) (g : DBank → DBank) (s : State) : (onDBank n b g s).zst = s.zst := rfl
@[simp] theorem onDBank_flw (n b : Nat) (g : DBank → DBank) (s : State) : (onDBank n b g s).flw = s.flw := rfl
@[simp] theorem onDBank_med (n b : Nat) (g : DBank → DBank) (s : State) : (onDBank n b g s).med = s.med := rfl
@[simp] theorem onDBank_pwr (n b : Nat) (g : DBank → DBank) (s : State) : (onDBank n b g s).pwr = s.pwr := rfl
@[simp] theorem onDBank_dxr (n b : Nat) (g : DBank → DBank) (s : State) : (onDBank n b g s).dxr = s.dxr := rfl
@[simp] theorem onDBank_dsp (n b : Nat) (g : DBank → DBank) (s : State) : (onDBank n b g s).dsp = s.dsp := rfl
@[simp] theorem onDBank_errs (n b : Nat) (g : DBank → DBank) (s : State) : (onDBank n b g s).errs = s.errs := rfl
@[simp] theorem onDBank_errCounts (n b : Nat) (g : DBank → DBank) (s : State) : (onDBank n b g s).errCounts = s.errCounts := rfl
@[simp] theorem onDBank_history (n b : Nat) (g : DBank → DBank) (s : State) : (onDBank n b g s).history = s.history := rfl
@[simp] theorem onDBank_out (n b : Nat) (g : DBank → DBank) (s : State) : (onDBank n b g s).out = s.out := rfl
@[simp] theorem onDBank_mov (n b : Nat) (f : DBank → DBank) (s : State) : (onDBank n b f s).mov = { s.mov with drams := tput n { dramOf s n with banks := tput b (f (tgetD {} b (dramOf s n).banks)) (dramOf s n).banks } s.mov.drams } := rfl

@[simp] theorem onSlot_pending (n : Nat) (g : BootSlot → BootSlot) (s : State) : (onSlot n g s).pending = s.pending := rfl
@[simp] theorem onSlot_now (n : Nat) (g : BootSlot → BootSlot) (s : State) : (onSlot n g s).now = s.now := rfl
@[simp] theorem onSlot_draws (n : Nat) (g : BootSlot → BootSlot) (s : State) : (onSlot n g s).draws = s.draws := rfl
@[simp] theorem onSlot_regs (n : Nat) (g : BootSlot → BootSlot) (s : State) : (onSlot n g s).regs = s.regs := rfl
@[simp] theorem onSlot_loaded (n : Nat) (g : BootSlot → BootSlot) (s : State) : (onSlot n g s).loaded = s.loaded := rfl
@[simp] theorem onSlot_ctrs (n : Nat) (g : BootSlot → BootSlot) (s : State) : (onSlot n g s).ctrs = s.ctrs := rfl
@[simp] theorem onSlot_snaps (n : Nat) (g : BootSlot → BootSlot) (s : State) : (onSlot n g s).snaps = s.snaps := rfl
@[simp] theorem onSlot_cad (n : Nat) (g : BootSlot → BootSlot) (s : State) : (onSlot n g s).cad = s.cad := rfl
@[simp] theorem onSlot_rge (n : Nat) (g : BootSlot → BootSlot) (s : State) : (onSlot n g s).rge = s.rge := rfl
@[simp] theorem onSlot_integ (n : Nat) (g : BootSlot → BootSlot) (s : State) : (onSlot n g s).integ = s.integ := rfl
@[simp] theorem onSlot_life (n : Nat) (g : BootSlot → BootSlot) (s : State) : (onSlot n g s).life = s.life := rfl
@[simp] theorem onSlot_dbg (n : Nat) (g : BootSlot → BootSlot) (s : State) : (onSlot n g s).dbg = s.dbg := rfl
@[simp] theorem onSlot_boot (n : Nat) (g : BootSlot → BootSlot) (s : State) : (onSlot n g s).boot = s.boot := rfl
@[simp] theorem onSlot_pins (n : Nat) (g : BootSlot → BootSlot) (s : State) : (onSlot n g s).pins = s.pins := rfl
@[simp] theorem onSlot_health (n : Nat) (g : BootSlot → BootSlot) (s : State) : (onSlot n g s).health = s.health := rfl
@[simp] theorem onSlot_cmd (n : Nat) (g : BootSlot → BootSlot) (s : State) : (onSlot n g s).cmd = s.cmd := rfl
@[simp] theorem onSlot_cry (n : Nat) (g : BootSlot → BootSlot) (s : State) : (onSlot n g s).cry = s.cry := rfl
@[simp] theorem onSlot_brc (n : Nat) (g : BootSlot → BootSlot) (s : State) : (onSlot n g s).brc = s.brc := rfl
@[simp] theorem onSlot_zst (n : Nat) (g : BootSlot → BootSlot) (s : State) : (onSlot n g s).zst = s.zst := rfl
@[simp] theorem onSlot_flw (n : Nat) (g : BootSlot → BootSlot) (s : State) : (onSlot n g s).flw = s.flw := rfl
@[simp] theorem onSlot_med (n : Nat) (g : BootSlot → BootSlot) (s : State) : (onSlot n g s).med = s.med := rfl
@[simp] theorem onSlot_pwr (n : Nat) (g : BootSlot → BootSlot) (s : State) : (onSlot n g s).pwr = s.pwr := rfl
@[simp] theorem onSlot_dxr (n : Nat) (g : BootSlot → BootSlot) (s : State) : (onSlot n g s).dxr = s.dxr := rfl
@[simp] theorem onSlot_dsp (n : Nat) (g : BootSlot → BootSlot) (s : State) : (onSlot n g s).dsp = s.dsp := rfl
@[simp] theorem onSlot_mov (n : Nat) (g : BootSlot → BootSlot) (s : State) : (onSlot n g s).mov = s.mov := rfl
@[simp] theorem onSlot_errs (n : Nat) (g : BootSlot → BootSlot) (s : State) : (onSlot n g s).errs = s.errs := rfl
@[simp] theorem onSlot_errCounts (n : Nat) (g : BootSlot → BootSlot) (s : State) : (onSlot n g s).errCounts = s.errCounts := rfl
@[simp] theorem onSlot_history (n : Nat) (g : BootSlot → BootSlot) (s : State) : (onSlot n g s).history = s.history := rfl
@[simp] theorem onSlot_out (n : Nat) (g : BootSlot → BootSlot) (s : State) : (onSlot n g s).out = s.out := rfl

@[simp] theorem tick_now (t : Nat) (s : State) : (tick t s).now = max s.now t := rfl
@[simp] theorem draw_draws (s : State) : (draw s).draws = s.draws + 1 := rfl
@[simp] theorem emit_out (o : Out) (s : State) : (emit o s).out = o :: s.out := rfl
@[simp] theorem setCtr_ctrs (a v : Nat) (s : State) : (setCtr a v s).ctrs = tset 0 a v s.ctrs := rfl

end Sys2Proof.Machine
end

