-- ==== Sys2Proof/Machine/Package.lean ====
section
/-!
DEFINITION. The package: rows, quadrants and the ball map, and the boundary-scan cells of the balls (R782 to R788, R806).
-/
namespace Sys2Proof.Machine

/-! ## Rows and quadrants (R782, R783) -/

/-- The letters of a row number's last place. -/
def rowLetters : List Char := ['A', 'B', 'C', 'D', 'E', 'F', 'G', 'H', 'J', 'K', 'L', 'M', 'N', 'P', 'T', 'U', 'V', 'W', 'Y']

/-- Name of row `i`, 1 to 56: A to Y, AA to AY, BA to BW (R782). -/
def rowName (i : Nat) : List Char :=
  let c := rowLetters.getD ((i - 1) % 19) 'A'
  if i ≤ 19 then [c] else if i ≤ 38 then ['A', c] else ['B', c]

/-- Segment of the quadrant that ball (i, j) lies in (R783). -/
def quadrant (i j : Nat) : Nat := if i ≤ 28 then (if j ≤ 28 then 0 else 1) else (if j ≤ 28 then 3 else 2)

/-- Local coordinates x and y of ball (i, j) (R783). -/
def localX (i : Nat) : Nat := if i ≤ 28 then i else 57 - i
def localY (j : Nat) : Nat := if j ≤ 28 then j else 57 - j

/-! ## What a ball carries -/

/-- What a ball carries: ground, a rail, nothing, or a signal: of a NAND channel, of a DRAM sub-channel (`b` for block B), of a PCIe lane,
or one of the part's own. `k` numbers the signal among those of its name. -/
inductive Ball where
  | vss | vddCore | vddSoc | vddRind | vddqDram | vddqNand | vddaPcie | vddhPcie | vddIo | vppPith | reserved
  | nand (chan : Nat) (sig : String) (k : Nat)
  | dram (seg : Nat) (b : Bool) (sig : String) (k : Nat)
  | lane (sig : String) (k : Nat)
  | own (sig : String)
  deriving DecidableEq, Repr

/-- Ball `d`, `p` of the tile of NAND channel `c` (R784). -/
def nandBall (c d p : Nat) : Ball :=
  let s := Ball.nand c
  match d, p with
  | 1, p => s "DQ" (p - 1)
  | 2, 1 => s "DQS_T" 0 | 2, 2 => s "DQS_C" 0 | 2, 3 => s "DQ" 4 | 2, _ => s "DQ" 5
  | 3, 1 => s "DQ" 6 | 3, 2 => s "DQ" 7 | 3, 3 => s "RE_T" 0 | 3, _ => s "RE_C" 0
  | 4, 1 => s "WE_N" 0 | 4, 2 => s "CLE" 0 | 4, 3 => s "ALE" 0 | 4, _ => s "WP_N" 0
  | 5, p => s "CE_N" (p - 1)
  | 6, p => s "CE_N" (p + 3)
  | _, 1 => s "RB_N" 0 | _, 2 => s "NZQ" 0 | _, 3 => .vddqNand | _, _ => .vss

/-- Ball `d`, `p` of block A or B of Segment `n`'s DRAM channel (R785). -/
def dramBall (n : Nat) (b : Bool) (d p : Nat) : Ball :=
  let s := Ball.dram n b
  if d ≤ 4 then
    let q := (if d ≤ 2 then 0 else 5) + (p - 1) / 3
    let o := (p - 1) % 3
    if d % 2 = 1 then (if o = 2 then s "DQS_T" q else s "DQ" (4 * q + o))
    else if o = 2 then s "DQS_C" q else s "DQ" (4 * q + 2 + o)
  else if d = 5 then (if p = 15 then s "CK_T" 0 else s "CA" (p - 1))
  else match p with
    | 1 => s "CK_C" 0 | 2 => s "CS_N" 0 | 3 => s "CS_N" 1 | 4 => s "ALERT_N" 0
    | 5 => if b then s "ZQ" 0 else s "RESET_N" 0
    | p => if p % 2 = 0 then .vddqDram else .vss

/-- The corner of SEG0 and SEG1 (R786). -/
def pcieBall (i j : Nat) : Ball :=
  let lane := if 4 ≤ j ∧ j ≤ 11 then some (j - 4) else if 46 ≤ j ∧ j ≤ 53 then some (61 - j) else none
  match i, lane with
  | 1, some k => .lane "PETp" k
  | 2, some k => .lane "PETn" k
  | 4, some k => .lane "PERp" k
  | 5, some k => .lane "PERn" k
  | 8, _ => if j = 4 then .own "REFCLKp" else if j = 5 then .own "REFCLKn" else if j = 7 then .own "PCIE_RCAL"
            else if j = 53 then .own "PERST_N" else if j = 52 then .own "CLKREQ_N" else .vss
  | 10, _ => if localY j % 2 = 0 then .vddaPcie else .vss
  | 12, _ => if localY j % 2 = 0 then .vddaPcie else .vss
  | 11, _ => if localY j % 2 = 0 then .vddhPcie else .vss
  | _, _ => .vss

/-- Rows BU, BV and BW of the corner of SEG3, columns 1 to 12 (R787). -/
def ownRow : Nat → List String
  | 54 => ["PLAIN", "RESCUE_N", "SEG_EN[0]", "SEG_EN[1]", "SEG_EN[2]", "SEG_EN[3]", "XTAL_IN", "XTAL_OUT", "THERM_DP", "THERM_DN",
           "VCORE_SENSE_P", "VCORE_SENSE_N"]
  | 55 => ["TCK", "TMS", "TDI", "TDO", "TRST_N", "SMB_CLK", "SMB_DAT", "SMB_ALERT_N", "AVS_CLK", "AVS_MDATA", "AVS_SDATA", "TEST_MODE"]
  | 56 => ["CAD_IN", "CAD_OUT", "PPS_IN", "ODO_IN", "INCIDENT_N[0]", "INCIDENT_N[1]", "PWR_WARN_N", "HOLDUP_OK", "VSENSE_SYS", "VSENSE_GND",
           "VSENSE_HU", "RESET_N"]
  | _ => []

/-- The corner of SEG3 (R787). -/
def ownBall (i j : Nat) : Ball :=
  if i = 53 then (if j ≤ 8 then .vddIo else .vppPith)
  else match (ownRow i)[j - 1]? with
    | some n => .own n
    | none => .vss

/-- The area that R788 assigns. -/
def coreBall (i j : Nat) : Ball :=
  let edge := fun (n : Nat) => (decide (14 ≤ n) && decide (n ≤ 17)) || (decide (40 ≤ n) && decide (n ≤ 43))
  if (i + j) % 2 = 0 then .vss
  else if 27 ≤ i ∧ i ≤ 30 ∧ 27 ≤ j ∧ j ≤ 30 then .vddRind
  else if edge i || edge j then .vddSoc
  else .vddCore

/-- The ball in row `i`, column `j`, each 1 to 56. -/
def ballAt (i j : Nat) : Ball :=
  let n := quadrant i j
  let x := localX i
  let y := localY j
  if x ≤ 12 ∧ y ≤ 12 then
    (if n ≤ 1 then pcieBall i j
     else if n = 3 then ownBall i j
     else if (i = 55 ∨ i = 56) ∧ 45 ≤ j ∧ j ≤ 52 then .reserved else .vss)
  else if x ≤ 7 ∧ 13 ≤ y then nandBall (8 * n + (y - 13) / 4) x ((y - 13) % 4 + 1)
  else if y ≤ 7 ∧ 13 ≤ x then nandBall (8 * n + 4 + (x - 13) / 4) y ((x - 13) % 4 + 1)
  else if 8 ≤ x ∧ x ≤ 13 ∧ 14 ≤ y then dramBall n false (x - 7) (y - 13)
  else if 8 ≤ y ∧ y ≤ 13 ∧ 14 ≤ x then dramBall n true (y - 7) (x - 13)
  else if 14 ≤ x ∧ 14 ≤ y then coreBall i j
  else .vss

/-! ## Boundary scan (R806) -/

/-- The part's own balls that have no cells. -/
def uncovered : List String :=
  ["REFCLKp", "REFCLKn", "PCIE_RCAL", "XTAL_IN", "XTAL_OUT", "THERM_DP", "THERM_DN", "VSENSE_SYS", "VSENSE_GND", "VSENSE_HU",
   "VCORE_SENSE_P", "VCORE_SENSE_N", "TCK", "TMS", "TDI", "TDO", "TRST_N"]

/-- A ball has an input, an output and an output-enable cell. -/
def covered : Ball → Bool
  | .nand _ sig _ => sig != "NZQ"
  | .dram _ _ sig _ => sig != "ZQ"
  | .own sig => !uncovered.contains sig
  | _ => false

/-- Covered balls of row `i` in columns below `j`. -/
def coveredIn (i j : Nat) : Nat := ((List.range (j - 1)).filter fun c => covered (ballAt i (c + 1))).length

/-- Number of the input cell of ball (i, j) from TDO; its output and output-enable cells follow. -/
def cellOf (i j : Nat) : Option Nat :=
  if covered (ballAt i j) then some (3 * ((List.range (i - 1)).foldl (fun n r => n + coveredIn (r + 1) 57) 0 + coveredIn i j)) else none

/-- The level that a ball is driven to by EXTEST, if its output-enable cell drives it (R751, R806). -/
def extestDrive (s : State) (i j : Nat) : Option Bool := match cellOf i j with
  | some n => if s.dbg.extest && s.dbg.bsr.testBit (n + 2) then some (s.dbg.bsr.testBit (n + 1)) else none
  | none => none

end Sys2Proof.Machine
end

