-- ==== Sys2Proof/Tests/Slice0.lean ====
section
/-!
SUPPORT. Tests: ill-formed commands that WellFormed refuses, a few single steps with results worked out from the manual's
rules, and for every statement with hypotheses concrete states and operands that meet them. A theorem `met_X` applies the statement
X to such a state clause by clause, every hypothesis decided, so that no clause is empty; it says which command runs where. Clauses that
share one set of hypotheses share one witness.
-/
namespace Sys2Proof.Tests
open Sys2Proof.Machine

-- One theorem is checked at a time: many at once ask for more threads than a small machine grants.
set_option Elab.async false

/-- A command answers a next state. -/
def Runs (c : Instr) (s : State) : Prop := ∃ u, exec c s = .next u

theorem runs {c : Instr} {s : State} {P : State → Prop} (h : Completes c s P) : Runs c s := h.imp fun _ h => h.1

theorem runs_eq {c : Instr} {s u : State} (h : exec c s = .next u) : Runs c s := ⟨u, h⟩

theorem pair_of {α β : Type} {p : α × β} {a : α} (h : p.1 = a) : p = (a, p.2) := by rw [← h]

/-! ## States -/

/-- A part in full service, with no host command in flight. -/
def up : State :=
  { State.reset with boot := { step := 9, cfgReady := true, service := true, powered := true, inReset := false, resetN := true,
                               perstN := true, cold := false }
                     cry := { rngOk := true } }

/-- Bytes with these values, at these places in rising order. -/
def bytes (n : Nat) (l : List (Nat × Nat)) : List Byte := (List.range n).map fun i => BitVec.ofNat 8 (tgetD 0 i l)

/-- A SUB ring 0 of function 0, and the CMP ring 0 that it names. -/
def subRing : Ring := { fn := 0, idx := 0, kind := .sub, cls := .a, base := 0, depth := 16, cq := 0, tag := 0, tagEn := false,
                        vec := 0, intEn := false, coalTime := 0, coalCount := 0, global := 0 }
def cmpRing : Ring := { subRing with kind := .cmp }

/-- A host command of an opcode with these descriptor bytes. -/
def cmd (op : Nat) (l : List (Nat × Nat)) : Flight :=
  { fn := 0, ring := 0, slot := 0, cid := 1, opcode := op, desc := bytes 64 l, cls := .a, isSeal := op == 0x20, noInt := false,
    fence := false, fetched := 0, bound := .notS }

/-- The command is in flight as number 0. -/
def withCmd (c : Flight) (s : State) : State :=
  { s with rge := { s.rge with rings := [(0, subRing), (4096, cmpRing)], flights := [(0, c)], nextFlight := 1 } }

/-- `CanPost` for a command of function 0's ring 0. -/
def canPostB (s : State) (c : Flight) : Bool :=
  (funcOf s c.fn).st != .resetting && match cqKey s c.fn c.ring with
    | some k => match ringOf s k with
      | some r => !r.stopped
      | none => false
    | none => false

theorem canPost_of {s : State} {c : Flight} (h : canPostB s c = true) : CanPost s c := by
  unfold canPostB at h
  cases hk : cqKey s c.fn c.ring with
  | none => simp [hk] at h
  | some k => cases hr : ringOf s k with
    | none => simp [hk, hr] at h
    | some r => exact ⟨by simp [hk, hr] at h; exact h.1, k, r, hk, hr, by simp [hk, hr] at h; exact h.2⟩

theorem inService_of {op id : Nat} {c : Flight} {s : State} (h : tget id s.rge.flights = some c ∧ c.opcode = op ∧ maySetOut s id c = true
    ∧ deadStatus s c = none ∧ canPostB s c = true) : InService op id c s :=
  ⟨h.1, h.2.1, h.2.2.1, h.2.2.2.1, canPost_of h.2.2.2.2⟩


/-! ## Well-formedness -/

/-- WellFormed refuses every command of which one operand lies just outside its range (1 of 4). -/
theorem test_illFormed_refused1 : ([
  .resetNAssert (2 ^ 64), .incidentEdge 0 2 0, .fenceEnd 0 17, .functionEnable 0 256 0, .functionEnable 0 0 256,
  .functionDisable 0 256 0, .functionDisable 0 0 256, .quotaWrite 0 256 .sq 0, .ringCreate 0 256 0, .ringCreate 0 0 4096,
  .ringDelete 0 256 false 0, .ringDelete 0 0 false 4096, .ringDeleteDone 0 256, .ringQuery 0 256 false 0,
  .ringQuery 0 0 false 4096, .doorbellBaseWrite 0 256 false 0 0, .doorbellBaseWrite 0 0 false 0 16, .pipSubmissionTail 0 256 0 0,
  .pipSubmissionTail 0 0 0 16, .pipCompletionHead 0 256 0 0, .pipCompletionHead 0 0 0 16, .ringStoppedNotice 0 256 false 0 false,
  .ringStoppedNotice 0 0 false 4096 false, .noticeWriteHeld 0 256, .coalesceTimer 0 256 0, .coalesceTimer 0 0 4096,
  .functionLevelReset 0 256, .sriovVfChange 0 false 256, .functionResetDone 0 256, .fnSnapNow 0 256, .sealServiceStart 0 8192,
  .classSFetchStall 0 256 0, .classSFetchStall 0 0 4096, .clsSnapNow 0 4, .idxSnapNow 0 4, .zestCompressJob 0 17,
  .zestDecompressJob 0 17, .zestJobComplete 0 4 false [], .zstSnapNow 0 4, .stoneDrain 0 4 [] [], .recordDrainComplete 0 4] : List Instr).all (fun i => !i.wf) = true := by
  decide +kernel

/-- WellFormed refuses every command of which one operand lies just outside its range (2 of 4). -/
theorem test_illFormed_refused2 : ([
  .partialUnitTimeout 0 8192, .slcMove 0 4 [], .mapCheckpoint 0 4, .garbageCollection 0 4 [], .wearMove 0 4 [],
  .patrolPassEnd 0 4 [], .retentionRefresh 0 (2 ^ 26), .ageRefresh 0 (2 ^ 26), .medSnapNow 0 4, .channelRetrain 0 32,
  .windowDecision 0 512 [], .windowClose 0 512, .protectedStretchEnd 0 512, .eraseIssue 0 512 0,
  .nandEraseComplete 0 512 false [], .nandProgramComplete 0 512 false none, .nandReadComplete 0 512 0 0 0 [] .patrol,
  .nandReadComplete 0 0 0 0 7 [] .patrol, .nandOpTimeout 0 512, .flwSnapNow 0 4, .detectorHoldoffEnd 0 64,
  .injectionArm 0 0 16, .injectionDisarm 0 0 16, .bypassOpen 0 0 16, .heartbeatMiss 0 17, .cryptoInit 0 17, .cryptoUpdate 0 17,
  .cryptoFinal 0 17, .cryptoFree 0 17, .cryptoOneshot 0 17, .cryptoChainCheck 0 17, .cryptoRandom 0 17, .gcmHoldGrant 0 4,
  .tamperAlarm 0 4, .exportKeySet 0 256, .exportKeyClear 0 256, .cryCtrlWrite 0 0 16, .bundleIssue 0 17 {}, .repPass 0 17 {},
  .budgetException 0 17, .eventException 0 17] : List Instr).all (fun i => !i.wf) = true := by
  decide +kernel

/-- WellFormed refuses every command of which one operand lies just outside its range (3 of 4). -/
theorem test_illFormed_refused3 : ([
  .coreClockGate 0 16, .getDeliver 0 4, .dispatcherPost 0 17, .dispatcherDone 0 17, .runExit 0 17, .delayRelease 0 4,
  .runStart 0 4 0 0 0, .runStart 0 0 16 0 0, .dspfHwWrite 0 256 0 0 0, .dspfHwWrite 0 0 0 0 16, .dspSnapNow 0 4,
  .dramZeroFill 0 4, .dramZqCalibration 0 4, .dramRecentre 0 4 0, .dramRefresh 0 4 false, .dramRfm 0 4 0, .dramRfm 0 0 128,
  .neighbourRefresh 0 4 0 [] [] 0, .neighbourRefresh 0 0 128 [] [] 0, .neighbourRefresh 0 0 0 [] [{ port := 7, addr := 0, write := false, classS := false }] 0, .ratWindowClear 0 4, .dmCopy 0 17, .dmHostRead 0 17, .dmHostWrite 0 17,
  .dmRecordRead 0 17, .dmFill 0 17, .dmDescriptorComplete 0 4 0 false 0 [] [], .dmResume 0 17, .dmAbandon 0 17, .drmSnapNow 0 4,
  .dmvSnapNow 0 4, .pthKeyWrite 0 4 0, .pithUnlockTimeout 0 4, .pageProgram 0 4 0 0 [], .sectorErase 0 4 0, .eraseSuspend 0 4 0,
  .eraseSuspend 0 0 8, .eraseResume 0 4 0, .eraseResume 0 0 8, .blankCheck 0 4 0, .paramPut 0 4 0 0 [], .paramPut 0 0 256 0 []] : List Instr).all (fun i => !i.wf) = true := by
  decide +kernel

/-- WellFormed refuses every command of which one operand lies just outside its range (4 of 4). -/
theorem test_illFormed_refused4 : ([
  .paramPut 0 0 0 256 [], .paramDelete 0 4 0 0, .paramDelete 0 0 256 0, .paramDelete 0 0 0 256, .paramGet 0 4 0 0,
  .paramGet 0 0 256 0, .paramGet 0 0 0 256, .pithEraseComplete 0 8 false, .pithProgramComplete 0 8 false, .segmentSleepEntry 0 4,
  .domainWake 0 5, .wakeComplete 0 5, .throttleStep 0 4, .jtagExtest 0 (2 ^ 4380) 0, .jtagExtest 0 0 (2 ^ 4380),
  .jtagSamplePreload 0 (2 ^ 4380) 0, .jtagSamplePreload 0 0 (2 ^ 4380), .dbgOpen 0 256, .dapRead 0 64 0, .dapRead 0 0 (2 ^ 64),
  .dapWrite 0 64 0 0, .dapWrite 0 0 (2 ^ 64) 0, .dapWrite 0 0 0 (2 ^ 64), .dapHalt 0 64, .dapResume 0 64, .dapSingleStep 0 64 {},
  .dapSetSstep 0 64, .dapClearSstep 0 64, .smbSensorTemp 0 5, .blockLock 0 0 0 0, .blockLock 0 18 0 0, .blockLock 0 1 0 16,
  .registerWrite 0 1 0 0, .registerWrite 0 (0x1000000 * 257) 0 0, .registerWrite 0 0 0 16, .linkStateChange 0 .down 7 0,
  .linkStateChange 0 .down 0 17, .windowOpen 0 512] : List Instr).all (fun i => !i.wf) = true := by
  decide +kernel

/-- The last value that each of some ranges admits. -/
theorem test_wellFormed_ends : [Instr.resetNAssert (2 ^ 64 - 1), .incidentEdge 0 1 0, .fenceEnd 0 16, .ringCreate 0 255 4095, .blockLock 0 17 0 15,
    .registerWrite 0 (0x1000000 * 257 - 4) 0 15, .dapHalt 0 63, .nandReadComplete 0 511 0 0 6 [] .margin, .neighbourRefresh 0 3 127 [] [{ port := 6, addr := 0, write := false, classS := true }] 0].all Instr.wf = true := by decide +kernel
/-! ## Every step -/

theorem reset_safe : Safe State.reset := by constructor <;> decide +kernel

theorem up_safe : Safe { up with pending := [.drbgReseed 5] } := by constructor <;> decide +kernel

theorem met_StepTakesTheFront (h : Obligations.StepTakesTheFront) : step State.reset = .next State.reset := h.2 _ rfl

theorem met_Frames (h : Obligations.Frames) : Only (changes (.drbgReseed 5)) up (draw (tick 5 up)) := h _ _ _ rfl

theorem met_StepsKeepSafe (h : Obligations.StepsKeepSafe) : Safe (draw (tick 5 up)) :=
  h { up with pending := [.drbgReseed 5] } _ up_safe rfl

theorem met_StepsGrow (h : Obligations.StepsGrow) : Grows { up with pending := [.drbgReseed 5] } (draw (tick 5 up)) :=
  h { up with pending := [.drbgReseed 5] } _ up_safe rfl

/-! ## Cadence (01) -/

/-- The Cadence Unit so, with these register fields written. -/
def cadUp (c : Cad) (r : Tab Word := []) : State := { up with cad := c, regs := r }

theorem met_FrameBoundaries (h : Obligations.FrameBoundaries) :
    Runs (.unitFrameBoundary 40000000 []) up ∧ Runs (.frameExhausted 40000000) (cadUp { frame := 0xFFFFFFFFFF })
    ∧ Runs (.cadInEdge 40000000 []) (cadUp { st := .locked, qual := .locked })
    ∧ Runs (.lateWindowExpiry 50000000 []) (cadUp { st := .locked, qual := .locked }) := by
  refine ⟨runs ((h _ _).1 ?_ ?_ ?_ _), runs ((h _ _).2.1 ?_ ?_ ?_), runs ((h _ _).2.2.1 ?_ ?_ ?_ ?_ ?_ ?_ _), runs ((h _ _).2.2.2 ?_ ?_ ?_ ?_ _)⟩
    <;> decide +kernel

theorem met_CadenceWithoutEdges (h : Obligations.CadenceWithoutEdges) :
    Runs (.holdoverLimit 1) (cadUp { st := .holdover, qual := .holdover, holdFrames := 1500 })
    ∧ Runs (.edgesAbsent 100000000) (cadUp { st := .acquire, acqHold := true }) := by
  refine ⟨runs ((h _ _).1 ?_ ?_ ?_), runs ((h _ _).2 ?_ ?_)⟩ <;> decide +kernel

theorem met_CadenceInputs (h : Obligations.CadenceInputs) :
    Runs (.cadOutPulseEnd 100000000) (cadUp { cadOut := true }) ∧ Runs (.cadenceRecordDue 1) up
    ∧ Runs (.ppsCapture 1) (cadUp {} [(Reg.cadCtrl, 0x80)]) ∧ Runs (.odoPulse 1 1000000) (cadUp {} [(Reg.cadCtrl, 0x40)])
    ∧ Runs (.incidentEdge 1 1 1000000) (cadUp {} [(Reg.cadCtrl, 0x600)])
    ∧ Runs (.fenceEnd 1 0) (cadUp { fences := [(0, { start := 0, stop := 0, edge := 0, group := 0, inputs := 1 })] }) := by
  refine ⟨runs ((h _ _).1 ?_ ?_), runs ((h _ _).2.1 ?_), runs ((h _ _).2.2.1 ?_ ?_ nofun), runs ((h _ _).2.2.2.1 _ ?_ ?_),
    runs ((h _ _).2.2.2.2.1 _ _ ?_ ?_ ?_ ?_ ?_ ?_), runs ((h _ _).2.2.2.2.2.1 _ { start := 0, stop := 0, edge := 0, group := 0, inputs := 1 } ?_ ?_ ?_ ?_)⟩
    <;> decide +kernel

/-- 19,999,999 ns is the last instant before half of 40 ms. -/
theorem met_GlitchEdge (h : Obligations.GlitchEdge) : Runs (.cadInEdge 19999999 []) (cadUp { st := .locked, qual := .locked }) := by
  refine runs (h _ _ ?_ ?_ ?_ ?_ ?_ _) <;> decide +kernel

/-! ## Rings and functions (02) -/

/-- The Ring Engine so. -/
def rgeUp (r : Rge) (w : Tab Word := []) : State := { up with rge := r, regs := w }

/-- Function 1 as a virtual function in a state. -/
def fn1 (f : Func) : Rge := { funcs := State.reset.rge.funcs ++ [(1, f)], vfEnable := true, numVfs := 1 }

theorem met_FunctionTable (h : Obligations.FunctionTable) :
    Runs (.functionEnable 1 1 1) (rgeUp (fn1 { slots := 64, sq := 1, cq := 2, vectors := 1 }))
    ∧ Runs (.functionDisable 1 1 0) (rgeUp (fn1 { slots := 64, sq := 1, cq := 1, vectors := 1, enable := true, st := .ready }))
    ∧ Runs (.quotaWrite 1 1 .sq 2) (rgeUp (fn1 {})) := by
  refine ⟨runs ((h _ _ _ ?_).1 _ ?_ ?_), runs ((h _ _ _ ?_).2.1 _ ?_ ?_), runs_eq ((h _ _ _ ?_).2.2 _ _ ?_ ?_ ?_ ?_)⟩
    <;> decide +kernel

theorem met_FunctionReset (h : Obligations.FunctionReset) :
    Runs (.functionLevelReset 1 1) (rgeUp (fn1 { slots := 64, enable := true, st := .ready })) ∧ Runs (.sriovVfChange 1 true 3) up
    ∧ Runs (.functionResetDone 1 1) (rgeUp (fn1 { slots := 64, st := .resetting, disabling := true })) := by
  refine ⟨runs ((h _ _ _).1 ?_ ?_), runs ((h 1 0 _).2.1 _ _ ?_ ?_), runs ((h _ _ _).2.2.1 ?_ ?_ ?_)⟩ <;> decide +kernel

/-- The staging registers of function 0 describe a CMP ring of 16 entries. -/
theorem met_RingCommands (h : Obligations.RingCommands) :
    Runs (.ringCreate 1 0 0) (rgeUp { State.reset.rge with funcs := [(0, { slots := 4096, sq := 16, cq := 16, vectors := 16, st := .ready })] }
      [(Reg.fnRingCfg 0, 0x1000F)])
    ∧ Runs (.ringDelete 1 0 true 0) (rgeUp { rings := [(0, subRing), (4096, cmpRing)] })
    ∧ Runs (.ringQuery 1 0 true 0) (rgeUp { rings := [(0, subRing), (4096, cmpRing)] })
    ∧ Runs (.doorbellBaseWrite 1 0 false 0x1000 15) up := by
  refine ⟨runs ((h _ _ _ _ ?_).1 ?_), runs ((h _ _ _ _ ?_).2.1 _ subRing ?_ ?_ nofun ?_ ?_), runs_eq ((h _ _ _ _ ?_).2.2.1 _ subRing ?_ ?_ ?_),
    runs ((h 1 0 0 _ ?_).2.2.2 _ _ _ ?_ ?_ ?_)⟩ <;> decide +kernel

theorem met_RingDeleteEnds (h : Obligations.RingDeleteEnds) :
    Runs (.ringDeleteDone 1 0) (rgeUp { funcs := [(0, { deleting := some 0 })], rings := [(0, subRing)] }) := by
  refine runs (h _ _ 0 _ ?_ ?_) <;> decide +kernel

theorem met_DoorbellBaseBusy (h : Obligations.DoorbellBaseBusy) :
    Runs (.doorbellBaseWrite 1 0 false 0x1000 15) (rgeUp { rings := [(0, subRing), (4096, cmpRing)] }) := by
  refine runs (h _ _ _ _ _ _ ?_ ?_) <;> decide +kernel

/-- Two Pips: TAIL 3 of SUB ring 0 at the last slot but one of its boundary, HEAD 0 of CMP ring 0. -/
theorem met_PipsAndSweep (h : Obligations.PipsAndSweep) :
    Runs (.pipSubmissionTail 1 0 0x00030000 15) (rgeUp { rings := [(0, subRing), (4096, cmpRing)] })
    ∧ Runs (.pipCompletionHead 1 0 0x00004000 15) (rgeUp { rings := [(0, subRing), (4096, cmpRing)] })
    ∧ Runs (.sweep 50000 [{ f := 0, idx := 0, sub := true, value := 3 }])
      (rgeUp { State.reset.rge with funcs := [(0, { st := .ready, dbSet := true })], rings := [(0, subRing), (4096, cmpRing)] }) := by
  refine ⟨runs ((h 1 0 0 0x00030000 subRing _ ?_ ?_ ?_).1 ?_ ?_ ?_ ?_ ?_ ?_ ?_ ?_),
    runs ((h 1 0 4096 0x00004000 cmpRing _ ?_ ?_ ?_).2.1 ?_ ?_ ?_ ?_ ?_ ?_ ?_ ?_),
    runs ((h _ 0 0 0 subRing _ ?_ ?_ ?_).2.2 _ ?_ ?_ ?_ ?_ ?_ ?_ ?_ ?_ ?_)⟩ <;> decide +kernel

/-! ## Power, reset and the link (11, 20) -/

/-- The start-up state so. -/
def bootUp (b : Boot) : State := { up with boot := b }

theorem met_PowerAndReset (h : Obligations.PowerAndReset) :
    Runs (.powerOn 1 true true {}) State.reset ∧ Runs (.powerOn 1 false true {}) State.reset
    ∧ Runs (.resetNRelease 2 {}) (bootUp { powered := true }) ∧ Runs (.resetNAssert 1) up
    ∧ Runs (.bootWatchdog 20000000000) (bootUp { powered := true, inReset := false }) ∧ Runs (.powerLoss 1 [] 0 []) up := by
  refine ⟨runs ((h _ _).1 _ _ ?_), runs ((h _ _).2.1 _ _ ?_), runs ((h _ _).2.2.1 _ ?_ ?_ ?_), runs ((h _ _).2.2.2.1 ?_ ?_ ?_),
    runs ((h _ _).2.2.2.2.1 ?_ ?_ ?_ ?_ ?_), runs ((h _ _).2.2.2.2.2 _ _ _ ?_)⟩ <;> decide +kernel

theorem met_HostLink (h : Obligations.HostLink) :
    Runs (.perstAssert 1) up ∧ Runs (.linkReset 1 true) up ∧ Runs (.perstRelease 1) (bootUp { step := 2 })
    ∧ Runs (.configReady 1) (bootUp { step := 7, perstN := true, inReset := false }) ∧ Runs (.configRequest 1) up := by
  refine ⟨runs ((h _ _).1 ?_), runs ((h _ _).2.1 _ ?_), runs ((h _ _).2.2.1 ?_ ?_), runs_eq ((h _ _).2.2.2.1 ?_ ?_ ?_),
    runs_eq ((h _ _).2.2.2.2 ?_)⟩ <;> decide +kernel

/-! ## Host commands (03, 05, 08, 10) -/

/-- A namespace of function 0, and a stream of it in Segment 0. -/
def ns1 : Ns := { nstype := 0, grain := 0, zest := 0, owner := 0, cap := 1000, holdMax := 100 }
def strm1 : Strm := { nsid := 1, group := 0, seg := 0, codec := 0, retain := 0, zest := 0, holdPeriod := 0, rate := 0, recalls := 0,
                      nonce := [], created := 0, genesis := [], head := [] }

/-- A key slot as the vote reads it: enabled. -/
def slotOn : Triad := let c : TCopy := { gen := 0, value := bytes 24 [(0, 1)] }; { c0 := some c, c1 := some c, c2 := some c, used := 1 }

/-- A part with capacity, a free band and map room, a namespace 1 with its key, and a stream 0; and with both empty. -/
def storeOf (ns : Ns) (x : Strm) : State :=
  { up with med := { capacity := 10000, bands := [(0, { size := 1000000 })], mapMiB := [(0, 1), (1, 1), (2, 1), (3, 1)] }
            cmd := { nss := [(1, ns)], streams := [(0, x)], idxMiB := [(0, 1), (1, 1), (2, 1), (3, 1)] }
            pith := { State.reset.pith with triads := State.reset.pith.triads ++ [(131072, slotOn), (131073, slotOn), (131074, slotOn)] } }

def store : State := storeOf ns1 strm1

theorem met_Namespaces (h : Obligations.Namespaces) :
    Runs (.nsCreate 1 0) (withCmd (cmd 0x02 [(32, 100)]) store)
    ∧ Runs (.nsDelete 1 0) (withCmd (cmd 0x03 [(4, 1)]) { store with cmd := { nss := [(1, ns1)] } }) := by
  refine ⟨runs ((h _ 0 (cmd 0x02 [(32, 100)]) _).1 2 ?_ ?_ ?_ ?_ ?_ ?_ ?_ ?_ ?_), runs ((h _ 0 (cmd 0x03 [(4, 1)]) _).2 ?_ ?_ ?_ ?_)⟩
    <;> first | exact inService_of (by decide +kernel) | decide +kernel

theorem met_Streams (h : Obligations.Streams) :
    Runs (.streamCreate 1 0) (withCmd (cmd 0x04 [(4, 1), (24, 1)]) store) ∧ Runs (.streamDelete 1 0) (withCmd (cmd 0x05 []) store)
    ∧ Runs (.streamQuery 1 0) (withCmd (cmd 0x06 []) store) := by
  refine ⟨runs ((h _ 0 (cmd 0x04 [(4, 1), (24, 1)]) _).1 1 0 ?_ ?_ ?_ ?_ ?_ ?_ ?_ ?_ ?_), runs ((h _ 0 (cmd 0x05 []) _).2.1 strm1 ?_ ?_ ?_ ?_ ?_),
    runs ((h _ 0 (cmd 0x06 []) _).2.2 strm1 ?_ ?_)⟩
    <;> first | exact inService_of (by decide +kernel) | decide +kernel

/-- A die that is usable and idle; and one whose open window reads for host command 0. -/
def die0 : Die := { pos := 0, gb := 1024, planes := 4, spare := 2048, blocks := 1000, pages := 1000, rated := 3000 }

def dieDiag : Die := { die0 with opened := some (0, 1), going := [{ classS := false, id := some 0, dur := 1 }] }

/-- Die 0 of channel 0. -/
def withDie (d : Die) (s : State) : State := { s with flw := { s.flw with dies := [(0, d)] } }

theorem met_ReadingCommands (h : Obligations.ReadingCommands) :
    Runs (.identify 1 0) (withCmd (cmd 0x01 []) store) ∧ Runs (.identify 1 0) (withCmd (cmd 0x01 [(4, 1), (24, 1)]) store)
    ∧ Runs (.identify 1 0) (withCmd (cmd 0x01 [(24, 2)]) store) ∧ Runs (.getLog 1 0) (withCmd (cmd 0x07 [(24, 1)]) store)
    ∧ Runs (.diagRead 1 0 []) (withCmd (cmd 0x0F []) (withDie dieDiag store)) := by
  refine ⟨runs ((h _ 0 (cmd 0x01 []) _).1 ?_ ?_), runs ((h _ 0 (cmd 0x01 [(4, 1), (24, 1)]) _).2.1 ns1 ?_ ?_ ?_),
    runs ((h _ 0 (cmd 0x01 [(24, 2)]) _).2.2.1 ?_ ?_), runs ((h _ 0 (cmd 0x07 [(24, 1)]) _).2.2.2.1 ?_ ?_),
    runs ((h _ 0 (cmd 0x0F []) _).2.2.2.2 _ 0 dieDiag ?_ ?_ ?_ ?_ ?_ ?_ ?_)⟩
    <;> first | exact inService_of (by decide +kernel) | decide +kernel

/-- A fence in slot 0, and DEPOT active until FRAME 0. -/
def fence0 : Fence := { start := 0, stop := 0, edge := 0, group := 0, inputs := 1 }
def depot : State := { up with cmd := { depotEnd := some 0 } }

/-- The ABORT names the command of CID 1 in ring 0, number 1 in flight. -/
theorem met_ControlCommands (h : Obligations.ControlCommands) :
    Runs (.abortCmd 1 0) (let s := withCmd (cmd 0x08 [(26, 2)]) up; { s with rge := { s.rge with flights := s.rge.flights ++ [(1, { cmd 0x25 [] with cid := 2 })] } })
    ∧ Runs (.fenceRelease 1 0) (withCmd (cmd 0x09 []) { up with cad := { fences := [(0, fence0)] } })
    ∧ Runs (.depotBegin 1 0) (withCmd (cmd 0x0E [(24, 1), (28, 5)]) up) ∧ Runs (.depotStop 1 0) (withCmd (cmd 0x0E []) depot)
    ∧ Runs (.depotWindowEnd 1) depot := by
  refine ⟨runs ((h _ 0 (cmd 0x08 [(26, 2)]) _).1 1 { cmd 0x25 [] with cid := 2 } ?_ ?_ ?_ ?_ ?_ (canPost_of ?_)), runs ((h _ 0 (cmd 0x09 []) _).2.1 fence0 ?_ ?_ ?_ ?_),
    runs ((h _ 0 (cmd 0x0E [(24, 1), (28, 5)]) _).2.2.1 ?_ ?_), runs ((h _ 0 (cmd 0x0E []) _).2.2.2.1 0 ?_ ?_ ?_),
    runs ((h _ 0 (cmd 0x0E []) _).2.2.2.2 0 ?_ ?_)⟩
    <;> first | exact inService_of (by decide +kernel) | decide +kernel

/-! ## Firmware, programs and maintenance (05, 15, 20) -/

/-- A staged image of 4,096 bytes whose header is laid out as R765 gives it. -/
def img : List Byte := bytes 60 [(0, 0x56), (1, 0x4C), (2, 0x52), (3, 0x46), (4, 0x57), (5, 0x49), (6, 0x4D), (7, 0x47), (8, 1), (11, 1), (13, 16),
  (28, 0x16), (29, 0x32), (33, 1), (36, 16), (41, 1), (44, 16), (49, 1), (52, 4)]

def staged : State := { up with cmd := { staging := img } }

/-- A loaded program of function 0 for Segment 0. -/
def prog0 : State := { up with dsp := { progs := [(0, { fn := 0, mask := 1, image := [] })] } }

/-- The signature over the staged image, and the digest in a program's image, are the opaque functions of Config: that they agree is a
premise here. -/
theorem met_FirmwareAndPrograms (h : Obligations.FirmwareAndPrograms) (sig : (imageOf img).sigOk = true) (d : List Byte)
    (hd : imageOk (withCmd (cmd 0x0A [(17, 1), (24, 1)]) up) 1 256 (fit 256 d) = true) :
    Runs (.fwDownload 1 0 (some [1])) (withCmd (cmd 0x0C [(16, 1)]) up) ∧ Runs (.fwCommitWrite 1 0) (withCmd (cmd 0x0D [(24, 1), (25, 1)]) staged)
    ∧ Runs (.fwCommitActivate 1 0) (withCmd (cmd 0x0D [(24, 1), (25, 2)]) up) ∧ Runs (.progLoad 1 0 (some d)) (withCmd (cmd 0x0A [(17, 1), (24, 1)]) up)
    ∧ Runs (.progUnload 1 0) (withCmd (cmd 0x0B []) prog0) ∧ Runs (.progRun 1 0) (withCmd (cmd 0x2A []) prog0) := by
  refine ⟨runs ((h _ 0 (cmd 0x0C [(16, 1)]) _).1 _ _ ?_ (pair_of ?_)), runs ((h _ 0 (cmd 0x0D [(24, 1), (25, 1)]) _).2.1 ?_ ?_ ?_ ?_ ?_ sig ?_ ?_),
    runs ((h _ 0 (cmd 0x0D [(24, 1), (25, 2)]) _).2.2.1 ?_ ?_ ?_ ?_ ?_ ?_ ?_ ?_), runs ((h _ 0 (cmd 0x0A [(17, 1), (24, 1)]) _).2.2.2.1 d 0 _ ?_ (pair_of ?_) hd ?_ ?_),
    runs ((h _ 0 (cmd 0x0B []) _).2.2.2.2.1 ?_ ?_ ?_), runs ((h _ 0 (cmd 0x2A []) _).2.2.2.2.2 { fn := 0, mask := 1, image := [] } 0 0 ?_ ?_ ?_ ?_ ?_ ?_ ?_ ?_ ?_ ?_ ?_)⟩
    <;> first | exact inService_of (by decide +kernel) | decide +kernel

/-- A MAINT command that has still to do this work. -/
def maintCmd (kind : Nat) (todo : Option (List Nat)) : Flight := { cmd 0x2B [(4, 1), (24, kind)] with todo := todo }

/-- Band 0 of the part in DEPOT, closed and claimed by a patrol pass. -/
def busyBand : State := let s := withDie die0 { store with cmd := { nss := [(1, ns1)], depotEnd := some 9 } }
  { s with med := { bands := [(0, { st := .closed, size := 1000000, claim := 3, units := [(0, { cws := [], done := true })] })] } }

theorem met_Maintenance (h : Obligations.Maintenance) :
    Runs (.maintPatrol 1 0) (withCmd (maintCmd 1 none) store) ∧ Runs (.maintPatrol 1 0) (withCmd (maintCmd 1 (some [0])) busyBand)
    ∧ Runs (.maintCompact 1 0) (withCmd (maintCmd 2 none) { store with cmd := { nss := [(1, ns1)], depotEnd := some 9 } })
    ∧ Runs (.maintCompact 1 0) (withCmd (maintCmd 2 (some [0])) busyBand)
    ∧ Runs (.maintVerify 1 0) (withCmd (maintCmd 3 none) store) := by
  refine ⟨runs_eq (((h _ 0 (maintCmd 1 none) _ ?_).1 _ _ ?_ ?_ (.inl ⟨rfl, rfl, rfl⟩)).2 ?_),
    runs_eq (((h _ 0 (maintCmd 1 (some [0])) _ ?_).1 _ _ ?_ ?_ (.inr ⟨_, rfl, rfl, rfl⟩)).1 ?_),
    runs_eq (((h _ 0 (maintCmd 2 none) _ ?_).2.1 _ _ _ ?_ ?_ ?_ rfl).2 ?_),
    runs_eq (((h _ 0 (maintCmd 2 (some [0])) _ ?_).2.1 _ _ _ ?_ ?_ ?_ rfl).1 ?_),
    runs ((h _ 0 (maintCmd 3 none) _ ?_).2.2 strm1 ?_ ?_ ?_ ?_ nofun ?_)⟩
    <;> first | exact inService_of (by decide +kernel) | decide +kernel

/-! ## Records (06) -/

/-- A stored record of 256 bytes, with every header byte 0: its stamp is 0. -/
def rec0 : Rec := { header := bytes 160 [], payload := bytes 96 [], hold := false, expiry := 0, back := 0, iflags := 0, units := 0, types := 0 }

def withStone (s : State) : State :=
  { s with med := { s.med with stoneLimit := [0, 1, 2, 3].map fun n => (n, 1000000000)
                               bands := [(0, { brace := true, slc := true, erased := true, size := 8000000000 })] }
           mov := { drams := [0, 1, 2, 3].map fun n => (n, { cap := 8192, stone := 1024 }) } }

def sealCmd (ready : Bool) : Flight := { cmd 0x20 [(4, 1), (17, 1)] with admitted := ready }

/-- A header of 160 bytes before 96 bytes of payload (R188). -/
def sealed : List Byte := bytes 256 [(0, 0x56), (1, 0x4C), (2, 0x45), (3, 0x52), (4, 1), (6, 160), (8, 96)]

theorem met_Seals (h : Obligations.Seals) :
    Runs (.sealRec 1 0) (withCmd (sealCmd false) store) ∧ Runs (.sealServiceStart 1 0) (withCmd (sealCmd true) (withStone store))
    ∧ Runs (.sealFold 1 0 (some sealed) {} false) (withCmd (sealCmd true) (storeOf ns1 { strm1 with inService := some 0 })) := by
  refine ⟨runs ((h _ 0 (sealCmd false) strm1 _ ?_).1 ns1 strm1 ?_ ?_ ?_ ?_ ?_ ?_ ?_ ?_ ?_ ?_),
    runs ((h _ 0 (sealCmd true) strm1 _ ?_).2.1 ?_ ?_ ?_ ?_ ?_ ?_ ?_ (.inr ?_)),
    runs ((h _ 0 (sealCmd true) { strm1 with inService := some 0 } _ ?_).2.2 _ _ _ ?_ ?_ ?_ ?_ ?_)⟩
    <;> first | exact inService_of (by decide +kernel) | decide +kernel

/-- The stream with the one record, and the part that holds it. -/
def strmRec (r : Rec) : Strm := { strm1 with recs := [(0, r)], next := 1 }
def held (r : Rec) : State := storeOf ns1 (strmRec r)

theorem only {r0 : Rec} {x : Strm} {P : Rec → Prop} (hx : x.recs = [(0, r0)]) (hP : P r0) : ∀ n r, n ∈ [0] → tget n x.recs = some r → P r := by
  intro n r hn hr
  rw [List.mem_singleton.1 hn, hx] at hr
  simp [tget] at hr
  exact hr ▸ hP

theorem met_Recalls (h : Obligations.Recalls) :
    Runs (.recallTime 1 0 {}) (withCmd (cmd 0x21 [(4, 1), (26, 2), (28, 1)]) (held rec0)) ∧ Runs (.recallRecord 1 0 {}) (withCmd (cmd 0x22 [(4, 1), (28, 1)]) (held rec0))
    ∧ Runs (.recallRange 1 0) (withCmd (cmd 0x23 [(4, 1), (26, 2)]) (held rec0)) := by
  have o := only (r0 := rec0) (x := strmRec rec0) (P := fun r => r.lost = false ∧ r.damaged = false ∧ (recContent r).isNone = false) rfl ⟨rfl, rfl, rfl⟩
  refine ⟨runs ((h _ 0 (cmd 0x21 [(4, 1), (26, 2), (28, 1)]) (strmRec rec0) [0] (tick 1 _) _ ?_ ?_ ?_ ?_ o).1 _ ?_ rfl),
    runs ((h _ 0 (cmd 0x22 [(4, 1), (28, 1)]) (strmRec rec0) [0] (tick 1 _) _ ?_ ?_ ?_ ?_ o).2.1 _ ?_ rfl),
    runs ((h _ 0 (cmd 0x23 [(4, 1), (26, 2)]) (strmRec rec0) [0] (tick 1 _) _ ?_ ?_ ?_ ?_ o).2.2 ?_ rfl)⟩
    <;> first | exact inService_of (by decide +kernel) | decide +kernel

theorem met_LockAndRelease (h : Obligations.LockAndRelease) :
    Runs (.lockRange 1 0) (withCmd (cmd 0x27 [(4, 1), (56, 5)]) (held rec0))
    ∧ Runs (.releaseRange 1 0) (withCmd (cmd 0x28 [(4, 1)]) (held { rec0 with hold := true })) := by
  refine ⟨runs ((h _ 0 (cmd 0x27 [(4, 1), (56, 5)]) (strmRec rec0) _ ?_).1 ns1 _ _ ?_ ?_ rfl rfl ?_ ?_ ?_ ?_),
    runs ((h _ 0 (cmd 0x28 [(4, 1)]) (strmRec { rec0 with hold := true }) _ ?_).2 _ ?_ rfl ?_ ?_)⟩
    <;> first | exact inService_of (by decide +kernel) | decide +kernel

theorem met_Retention (h : Obligations.Retention) : Runs (.holdExpiry 1) store ∧ Runs (.retentionNoticeDue 1) store ∧ Runs (.clsSnapNow 1 0) store := by
  refine ⟨runs ((h 1 0 _).1 0 strm1 ?_ ?_), runs_eq ((h 1 0 _).2.1 ?_), runs_eq (h 1 0 _).2.2⟩ <;> decide +kernel

/-- The part provisioned, with its attestation key. -/
def attest (s : State) : State := { s with life := { s.life with lstate := .sealed } }

/-- That the one record's chain holds is a premise: its digests are the opaque functions of Config. -/
theorem met_ExportsAndBlocks (h : Obligations.ExportsAndBlocks)
    (hc : let s := tick 1 (withCmd (cmd 0x29 [(4, 1), (26, 2)]) (attest (held rec0))); chainFails (chainKey s 1) [] [(0, rec0)] = none) :
    Runs (.exportRange 1 0) (withCmd (cmd 0x29 [(4, 1), (26, 2)]) (attest (held rec0)))
    ∧ Runs (.writeBlocks 1 0 (some []) []) (withCmd (cmd 0x24 [(4, 1), (32, 1)]) (withStone store)) ∧ Runs (.readBlocks 1 0) (withCmd (cmd 0x25 [(4, 1), (32, 1)]) store)
    ∧ Runs (.deallocate 1 0) (withCmd (cmd 0x26 [(4, 1), (32, 1)]) store) := by
  refine ⟨runs ((h _ 0 (cmd 0x29 [(4, 1), (26, 2)]) _).1 (strmRec rec0) [0] (tick 1 _) ?_ ?_ ?_ ?_ rfl ?_ ?_ ?_ ?_ ?_ ?_ hc),
    runs_eq ((h _ 0 (cmd 0x24 [(4, 1), (32, 1)]) _).2.1 ns1 _ _ _ _ _ ?_ ?_ ?_ ?_ (pair_of ?_) (pair_of ?_) (pair_of ?_)),
    runs ((h _ 0 (cmd 0x25 [(4, 1), (32, 1)]) _).2.2.1 ns1 _ ?_ ?_ ?_ (pair_of ?_)), runs ((h _ 0 (cmd 0x26 [(4, 1), (32, 1)]) _).2.2.2 ns1 ?_ ?_ ?_)⟩
    <;> first | exact inService_of (by decide +kernel) | decide +kernel

/-! ## Strobes, debug and the sideband (19, 21) -/

theorem met_SnapStrobes (h : Obligations.SnapStrobes) : Runs (.idxSnapNow 1 3) up ∧ Runs (.drmSnapNow 1 3) up ∧ Runs (.lcsSnapNow 1) up := by
  have e := (h 1 3 up).1 (by decide +kernel) (by decide +kernel) (by decide +kernel)
  exact ⟨runs e.1, runs e.2.2.2.2.2.2, runs (h 1 0 up).2.2.2.2.2.2⟩

theorem met_JtagPort (h : Obligations.JtagPort) : Runs (.jtagIdcode 1) up ∧ Runs (.jtagExtest 1 0 0) up := by
  refine ⟨runs (h 1 up ?_).1, runs ((h 1 up ?_).2.2.2.1 0 0 ?_ ?_ ?_)⟩ <;> decide +kernel

/-- The debug port so, in a lifecycle state with a nonce. -/
def dbgUp (d : Dbg) (l : LState) : State := { up with dbg := d, life := { lstate := l, nonceOk := true } }

/-- A grant's signature and the serial number are Config's: that the grant fits is a premise. -/
theorem met_DebugSession (h : Obligations.DebugSession) (g : List Byte) (hg : g ≠ [])
    (hf : grantFits (dbgUp { grant := g } .provisioned) g [2] = true) :
    Runs (.dbgStatus 1) up ∧ Runs (.dbgChal 1) up ∧ Runs (.dbgGrant 1 7) up ∧ Runs (.dbgOpen 1 2) up
    ∧ Runs (.dbgOpen 1 2) (dbgUp { grant := g } .provisioned) := by
  refine ⟨runs (h 1 _ ?_).1, runs ((h 1 _ ?_).2.1 ?_), runs ((h 1 _ ?_).2.2.1 7 ?_), runs ((h 1 _ ?_).2.2.2.1 2 .full ?_ ?_),
    runs ((h 1 _ ?_).2.2.2.2.1 2 .full ?_ (fun e => nomatch e) hg ?_ ?_ hf)⟩ <;> first | decide +kernel | rfl

/-- The debug port at Full, and core 0 so. -/
def probe (c : DCore) : State := { up with dbg := { level := .full }, dxr := { cores := [(0, c)] } }

theorem met_DebugAccess (h : Obligations.DebugAccess) :
    Runs (.dapRead 1 0 0x1000000) (probe { st := .halted }) ∧ Runs (.dapWrite 1 0 0x1000000 5) (probe { st := .halted })
    ∧ Runs (.dapHalt 1 0) (probe { st := .running }) ∧ Runs (.dapResume 1 0) (probe { st := .halted })
    ∧ Runs (.dapSingleStep 1 0 {}) (probe { st := .halted }) ∧ Runs (.dapSetSstep 1 0) (probe { st := .running }) := by
  have r : Reachable 0 (probe { st := .halted }) := ⟨rfl, rfl, by decide +kernel, rfl⟩
  have q : Reachable 0 (probe { st := .running }) := ⟨rfl, rfl, by decide +kernel, rfl⟩
  refine ⟨runs ((h 1 0 _ r).1 _ 0 ?_ ?_ ?_ ?_), runs ((h 1 0 _ r).2.1 _ 0 _ ?_ ?_ ?_ ?_), runs ((h 1 0 _ q).2.2.1 ?_ ?_ ?_),
    runs ((h 1 0 _ r).2.2.2.1 ?_ ?_ ?_), runs ((h 1 0 _ r).2.2.2.2.1 _ ?_ ?_ ?_ ?_), runs ((h 1 0 _ q).2.2.2.2.2.1 ?_)⟩
    <;> decide +kernel

theorem met_Sideband (h : Obligations.Sideband) :
    Runs (.smbStatusByte 1) up ∧ Runs (.smbAlertResponse 1) { up with pins := { smbAlert := true } } := by
  refine ⟨runs (h 1 _ ?_).1, runs ((h 1 _ ?_).2.2.2.2.2.2.2.2.1 ?_)⟩ <;> decide +kernel

/-! ## The Plain controller (03) -/

/-- The Plain controller so, with CC.EN set. -/
def plain (n : Nvme) (ns : Ns := { ns1 with }) : State :=
  { up with boot := { up.boot with plain := true }, cmd := { nss := [(1, ns)], nvme := { n with cc := 1 } }, med := store.med, pith := store.pith }

/-- A queue entry of 64 bytes. -/
def nv (op : Nat) (l : List (Nat × Nat)) : List Byte := bytes 64 ((0, op) :: l)

def q1 : NvmeQ := { depth := 2, base := 0, link := 1 }

theorem met_NvmeAdmin (h : Obligations.NvmeAdmin) :
    Runs (.nvmeCreateIoCq 1 (nv 5 [(40, 1), (42, 1), (44, 1)])) (plain { queuesSet := true })
    ∧ Runs (.nvmeCreateIoSq 1 (nv 1 [(40, 1), (42, 1), (44, 1), (46, 1)])) (plain { queuesSet := true, cqs := [(1, q1)] })
    ∧ Runs (.nvmeDeleteIoSq 1 (nv 0 [(40, 1)])) (plain { sqs := [(1, q1)] }) ∧ Runs (.nvmeDeleteIoCq 1 (nv 4 [(40, 1)])) (plain { cqs := [(1, q1)] })
    ∧ Runs (.nvmeIdentify 1 (nv 6 [(40, 1)])) (plain {}) ∧ Runs (.nvmeGetLogPage 1 (nv 2 [(40, 3), (42, 15)])) (plain {})
    ∧ Runs (.nvmeAsyncEventRequest 1 (nv 12 [])) (plain {}) ∧ Runs (.nvmeAbort 1 (nv 8 [(42, 9)])) (plain { aers := [9] })
    ∧ Runs (.nvmeAbort 1 (nv 8 [(40, 1), (42, 9)])) (plain { held := [(1, nv 2 [(2, 9)])] }) ∧ Runs (.nvmeSetFeatures 1 (nv 9 [(40, 4)])) (plain {}) ∧ Runs (.nvmeGetFeatures 1 (nv 10 [(40, 4)])) (plain {}) := by
  refine ⟨runs ((h 1 _ _).1 ?_ ?_ ?_), runs ((h 1 _ _).2.1 ?_ ?_ ?_), runs ((h 1 _ _).2.2.1 ?_ ?_), runs ((h 1 _ _).2.2.2.1 ?_ ?_ ?_),
    runs ((h 1 _ _).2.2.2.2.1 ?_ ?_ ?_), runs ((h 1 _ _).2.2.2.2.2.1 _ ?_ ?_ ?_ ?_ rfl), runs ((h 1 _ _).2.2.2.2.2.2.1 ?_ ?_ ?_),
    runs ((h 1 _ _).2.2.2.2.2.2.2.1 ?_ ?_ ?_ ?_), runs ((h 1 _ _).2.2.2.2.2.2.2.2.1 (1, nv 2 [(2, 9)]) ?_ ?_),
    runs ((h 1 _ _).2.2.2.2.2.2.2.2.2.1 ?_ ?_ ?_), runs ((h 1 _ _).2.2.2.2.2.2.2.2.2.2 ?_ ?_)⟩
    <;> first | exact ⟨by decide +kernel, by decide +kernel, by decide +kernel, by decide +kernel⟩ | decide +kernel

theorem awakeAll {s : State} (h : s.pwr.sleep = []) (k : s.pwr.rindSleep = 0) (m : Nat) : domSleep s m = 0 := by
  unfold domSleep sleepOf
  rw [h, k]
  split <;> rfl

theorem met_NvmeIo (h : Obligations.NvmeIo) (sig : (imageOf img).sigOk = true) :
    Runs (.nvmeFwImageDownload 1 (nv 0x11 [(40, 0xFF), (41, 3)]) (some [])) (plain {})
    ∧ Runs (.nvmeFirmwareCommit 1 (nv 0x10 [(40, 2)])) (let s := plain {}; { s with cmd := { s.cmd with staging := img } })
    ∧ Runs (.nvmeFlush 1 1 (nv 0 [])) (plain { sqs := [(1, q1)] })
    ∧ Runs (.nvmeWrite 1 1 (nv 1 [(4, 1)]) (some []) []) (withStone (plain { sqs := [(1, q1)] }))
    ∧ Runs (.nvmeRead 1 1 (nv 2 [(4, 1)])) (plain { sqs := [(1, q1)] })
    ∧ Runs (.nvmeDatasetManagement 1 1 (nv 9 [(4, 1)]) (some [])) (plain { sqs := [(1, q1)] }) := by
  refine ⟨runs ((h 1 0 _ _).1 _ _ ?_ ?_ rfl ?_ ?_ ?_ ?_), runs ((h 1 0 _ _).2.1 1 ?_ ?_ ?_ ?_ ?_ ?_ ?_ ?_ sig ?_ ?_), runs ((h 1 1 _ _).2.2.1 ?_),
    runs_eq ((h 1 1 _ _).2.2.2.1 _ _ ns1 _ _ ?_ ?_ ?_ ?_ ?_ (awakeAll rfl rfl) ?_ ?_ ?_ (pair_of ?_) (pair_of ?_)), runs ((h 1 1 _ _).2.2.2.2.1 ns1 _ ?_ ?_ ?_ ?_ ?_ (awakeAll rfl rfl) ?_ (pair_of ?_) ?_),
    runs ((h 1 1 _ _).2.2.2.2.2 ns1 _ ?_ ?_ ?_ ?_)⟩
    <;> first | exact ⟨by decide +kernel, by decide +kernel, by decide +kernel, by decide +kernel⟩ | exact ⟨by decide +kernel, by decide +kernel, by decide +kernel, by decide +kernel, by decide +kernel, by decide +kernel⟩ | decide +kernel

/-! ## Fetching, jobs and media (02, 07, 08) -/

/-- A SUB ring of function 0 with one slot to fetch, and its CMP ring. -/
def ready0 : Ring := { subRing with cls := .admin, known := 1, since := some 0, arr := [{ first := 0, count := 1, at_ := 0, swept := false }] }
def fetchUp : State := rgeUp { State.reset.rge with rings := [(0, ready0), (4096, cmpRing)] }

/-- The descriptor is FENCE_RELEASE of slot 0. -/
theorem met_RingEngine (h : Obligations.RingEngine) :
    Runs (.descriptorFetch 1 (some (bytes 64 [(0, 9)])) []) fetchUp ∧ Runs (.descriptorFetch 1 none []) fetchUp
    ∧ Runs (.ringStoppedNotice 1 0 false 0 true) fetchUp ∧ Runs (.ringStoppedNotice 1 0 true 0 false) (rgeUp { State.reset.rge with rings := [(0, { subRing with stopped := true })] })
    ∧ Runs (.coalesceTimer 2000 0 0) (rgeUp { State.reset.rge with rings := [(4096, { cmpRing with coalTime := 1, coalFirst := some 0 })] })
    ∧ Runs (.classSFetchStall 5000 0 0) (rgeUp { State.reset.rge with rings := [(0, { ready0 with cls := .s }), (4096, cmpRing)] })
    ∧ Runs (.replayComplete 1 0 0) (bootUp { step := 8 }) := by
  refine ⟨runs ((h 1 _).1 _ _ 0 _ _ _ _ _ ?_ rfl rfl ?_ (.inr ?_) rfl ?_ rfl rfl), runs ((h 1 _).2.1 _ 0 _ _ ?_ rfl rfl ?_ (.inr ?_) ?_), runs ((h 1 _).2.2.1 _ _ _ rfl ?_ ?_),
    runs ((h 1 _).2.2.2.1 _ _ _ _ _ rfl ?_ ?_ ?_ ?_), runs ((h _ _).2.2.2.2.2.1 _ _ _ 0 rfl ?_ ?_ ?_ ?_), runs_eq ((h _ _).2.2.2.2.2.2.1 _ _ _ 0 rfl ?_ ?_ ?_ ?_ ?_ ?_),
    runs ((h 1 _).2.2.2.2.2.2.2 _ _ ?_)⟩ <;> decide +kernel

/-- An EVT ring with a notice held. -/
theorem met_RingEngine_notice (h : Obligations.RingEngine) :
    let x : Notice := { typ := 4, seq := 0, lost := 0, src := 0, time := 0, payload := [] }
    Runs (.noticeWriteHeld 1 0) (rgeUp { State.reset.rge with funcs := [(0, { st := .ready, held := [x] })], rings := [(4097, { cmpRing with kind := .evt, idx := 1 })] }) :=
  runs ((h 1 _).2.2.2.2.1 0 _ [] 4097 _ rfl rfl rfl (by decide +kernel))

/-- Address of the shared SRAM in a Segment's map (R591). -/
def sram : Nat := sramBase

/-- A Zest job's descriptor: operation, input bytes, room, and content. -/
def zj (op len cap total : Nat) : List Byte :=
  pack [(1, op), (1, 0), (1, 0), (1, 12), (4, len), (4, cap), (4, total), (8, sram), (8, sram + 4096), (8, sram + 16384), (24, 0)]

/-- Core 0 has handed this over. -/
def handed (x : Hand) : State := { up with dxr := { hands := [x] } }

/-- The input of the completed job is all zeros, which is no block: the result says so. -/
theorem met_ZestEngine (h : Obligations.ZestEngine) :
    Runs (.zestCompressJob 1 0) (handed (.zest 0 (zj 1 1 8192 1))) ∧ Runs (.zestDecompressJob 1 0) (handed (.zest 0 (zj 2 1 8192 1)))
    ∧ Runs (.zestJobComplete 1 0 false []) { up with zst := { jobs := [(0, { seg := 0, core := 0, guest := false, desc := zj 2 1 8192 1 })] } } := by
  refine ⟨runs ((h 1 _).1 0 (zj 1 1 8192 1) ?_ ?_), runs ((h 1 _).2.1 0 (zj 2 1 8192 1) ?_ ?_),
    runs ((h 1 _).2.2 0 _ 0 { seg := 0, core := 0, guest := false, desc := zj 2 1 8192 1 } _ ?_ ?_ ?_ ?_ ?_ rfl ?_ ?_ ?_ ?_)⟩ <;> decide +kernel

/-- The media state so, with the stream and its record. -/
def medUp (m : Med) : State := { held rec0 with med := m }

/-- A closed band that holds nothing, and an item of Stone. -/
def band0 : Band := { st := .closed, size := 1000000 }
def item0 : StoneItem := { isRec := true, a := 0, b := 0, len := 256, sealRing := false }

/-- A part in DEPOT; and one whose checkpoint is due, with a checkpoint of no bytes begun. -/
def medDepot : State := let s := medUp {}; { s with cmd := { s.cmd with depotEnd := some 9 } }
def ckptUp : State := medUp { bands := [(0, { st := .free, erased := true, size := 10000000 })], ckptBands := [(0, 1000000)] }
def wip0 : CkptWip := { no := 1, item := 7, len := 0, digest := [], nexts := [] }
def ckptDone : State := medUp { wips := [(0, wip0)] }

/-- A band with 256 bytes on unit 0, in a row that is not verified yet; and a band much worn. -/
def full0 : Band := { band0 with units := [(0, { cws := [], parts := [{ item := 1, cw := 0, xoff := 0, len := 256 }], done := true })] }
def spare1 : Band := { st := .free, size := 1000000, erases := 1000000 }

/-- The record drains as item 1, and a verified row of band 0 holds its 256 bytes. -/
def drained : State := { held { rec0 with stored := 256 } with
  med := { stone := [(0, [{ item0 with draining := true, no := 1 }])]
           bands := [(0, { band0 with units := [(0, { cws := [], parts := [{ item := 1, cw := 0, xoff := 0, len := 256 }], done := true })], okRows := [0] })] } }

theorem met_MediaWork (h : Obligations.MediaWork) :
    Runs (.stoneDrain 1 0 [] []) (medUp { stone := [(0, [item0])] }) ∧ Runs (.recordDrainComplete 1 0) drained
    ∧ Runs (.partialUnitTimeout 1 0) (medUp {}) ∧ Runs (.slcMove 1 0 []) (medUp {}) ∧ Runs (.slcMove 1 0 []) medDepot ∧ Runs (.mapCheckpoint 1 0) ckptUp
    ∧ Runs (.mapCheckpoint 1 0) ckptDone ∧ Runs (.garbageCollection 1 0 []) (medUp { bands := [(0, band0)], gcOn := [0] })
    ∧ Runs (.patrolPassEnd 1 0 []) (medUp { patrol := [(0, { unpaced := true })] }) ∧ Runs (.ageRefresh (2 ^ 63) 0) (medUp { bands := [(0, band0)] })
    ∧ Runs (.maintTokenHandoff 1 5) (medUp {}) ∧ Runs (.maintTokenHandoff 1 5) (medUp { waiting := [(4, 5)] }) := by
  refine ⟨runs ((h 1 0 _ ?_).1 _ _ item0 _ _ _ rfl ?_ ?_ rfl rfl ?_), runs_eq ((h 1 0 _ ?_).2.1 { item0 with draining := true, no := 1 } ?_),
    runs_eq ((h 1 0 _ ?_).2.2.1 0 (strmRec rec0) ?_ ?_), runs_eq ((h 1 0 _ ?_).2.2.2.1 _ ?_), runs_eq ((h 1 0 _ ?_).2.2.2.2.1 _ 9 ?_ ?_),
    runs_eq ((h 1 0 _ ?_).2.2.2.2.2.1 ?_ ?_ ?_), runs ((h 1 0 _ ?_).2.2.2.2.2.2.1 wip0 _ ?_ ?_ rfl ?_ ?_), runs_eq ((h 1 0 _ ?_).2.2.2.2.2.2.2.1 _ 0 ?_ ?_ ?_ ?_),
    runs ((h 1 0 _ ?_).2.2.2.2.2.2.2.2.2.1 ?_ ?_ ?_ ⟨1, by decide, by decide +kernel, by decide⟩), runs_eq ((h _ 0 _ ?_).2.2.2.2.2.2.2.2.2.2.1 0 band0 ?_ ?_ ?_),
    runs (((h 1 0 _ ?_).2.2.2.2.2.2.2.2.2.2.2.2 5 ?_).1 ?_), runs (((h 1 0 _ ?_).2.2.2.2.2.2.2.2.2.2.2.2 5 ?_).2 (4, 5) ?_)⟩ <;> decide +kernel

/-- A band that is copied, and still closed after the step; and one that is empty, and so is freed. -/
theorem met_MediaWork_moves (h : Obligations.MediaWork) :
    Runs (.wearMove 1 0 []) (medUp { bands := [(0, full0), (1, spare1)] }) ∧ Runs (.wearMove 1 0 []) (medUp { bands := [(0, band0), (1, spare1)] })
    ∧ Runs (.retentionRefresh 1 0) (medUp { bands := [(0, full0)], refresh := [0] })
    ∧ Runs (.retentionRefresh 1 0) (medUp { bands := [(0, { band0 with claim := 2 })], refresh := [0] }) := by
  refine ⟨runs_eq (((h 1 0 _ ?_).2.2.2.2.2.2.2.2.1 _ 0 _ ?_ ?_ ?_ ?_ rfl).1 ?_), runs_eq (((h 1 0 _ ?_).2.2.2.2.2.2.2.2.1 _ 0 _ ?_ ?_ ?_ ?_ rfl).2 { band0 with st := .free } ?_ ?_),
    runs_eq (((h 1 0 _ ?_).2.2.2.2.2.2.2.2.2.2.2.1 0 full0 _ ?_ ?_ ?_ ?_ ?_ rfl).1 ?_),
    runs_eq (((h 1 0 _ ?_).2.2.2.2.2.2.2.2.2.2.2.1 0 { band0 with claim := 2 } _ ?_ ?_ ?_ ?_ ?_ rfl).2 { band0 with st := .free } ?_ ?_ ?_)⟩ <;> decide +kernel

/-- The die with an operation open. -/
def dieOp (erase : Bool) : Die := { die0 with op := some { erase := erase, block := 0, at_ := 0 } }

/-- A durable intent to erase block 0 of die 0 (R690). -/
def intent : State := { withDie die0 up with pith := { up.pith with jd := [{ etype := 1, src := 0, key := none, body := bytes 8 [(0, 1)] }] } }

/-- The die of a band programs its row 1; and the part in DEPOT with the die. -/
def dieProg : State := let s := withDie { die0 with op := some { erase := false, block := 0, at_ := 0, prog := some { band := 0, row := 1, cls := 1 } } } up
  { s with med := { bands := [(0, { st := .opened, size := 10000000, units := [(64, { cws := [] })] })] } }
/-- A page of the die's that a patrol pass has come to; and, in DEPOT, the deep check. -/
def diePatrol : State := { up with
  flw := { dies := [(0, die0)], chans := [(0, { state := 2, rate := 3 })] },
  med := { bands := [(0, { band0 with units := [(0, { cws := [], done := true })] })], patrol := [(0, { queued := 1 })] } }
def dieDepot : State := { diePatrol with cmd := { depotEnd := some 9 } }

/-- One codeword that decodes at once. -/
def cw0 : CwRead := { cw := 0, tries := [some (0, false)] }

theorem met_FlashWheel (h : Obligations.FlashWheel) :
    Runs (.channelRetrain 1 0) (let s := withDie die0 up; { s with flw := { s.flw with chans := [(0, { state := 2, retrain := true })] } })
    ∧ Runs (.windowDecision 225000 0 []) (withDie die0 up) ∧ Runs (.windowOpen 1 0) (withDie { die0 with decided := some 0 } up)
    ∧ Runs (.windowClose 1 0) (withDie { die0 with opened := some (0, 1) } up) ∧ Runs (.protectedStretchEnd 250000 0) (withDie (dieOp true) up)
    ∧ Runs (.eraseIssue 1 0 0) intent ∧ Runs (.nandEraseComplete 1 0 true []) (withDie (dieOp true) up)
    ∧ Runs (.nandProgramComplete 1 0 true none) (withDie (dieOp false) up) ∧ Runs (.nandReadComplete 1 0 0 0 0 [cw0] (.command 0)) (withDie die0 up)
    ∧ Runs (.nandReadComplete 100000 0 0 0 0 [cw0] .patrol) diePatrol ∧ Runs (.nandReadComplete 100000 0 0 0 0 [cw0] .margin) dieDepot ∧ Runs (.nandOpTimeout 1 0) (withDie die0 up) := by
  refine ⟨runs_eq ((h 1 0 die0 _ ?_).1 0 _ ?_ ?_ ?_ ?_ (pair_of ?_)), runs ((h _ 0 die0 _ ?_).2.1 _ ?_ ?_ ?_ ?_), runs ((h 1 0 { die0 with decided := some 0 } _ ?_).2.2.1 0 ?_),
    runs ((h 1 0 { die0 with opened := some (0, 1) } _ ?_).2.2.2.1 0 1 ?_ ?_), runs_eq ((h _ 0 (dieOp true) _ ?_).2.2.2.2.1 _ rfl ?_ ?_ ?_).1,
    runs ((h 1 0 die0 _ ?_).2.2.2.2.2.1 0 ?_ ?_ ?_ ?_ ?_ ?_ ?_ ?_ ?_), runs ((h 1 0 (dieOp true) _ ?_).2.2.2.2.2.2.1 _ _ rfl ?_ ?_ ?_),
    runs_eq (((h 1 0 (dieOp false) _ ?_).2.2.2.2.2.2.2.1 _ _ rfl ?_ ?_ rfl).1 rfl), runs_eq ((h 1 0 die0 _ ?_).2.2.2.2.2.2.2.2.1 _ _ _ _ _ ?_ ?_ ?_),
    runs_eq ((h _ 0 die0 _ ?_).2.2.2.2.2.2.2.2.2.1 _ _ _ _ _ ?_ (pair_of ?_)), runs_eq ((h _ 0 die0 _ ?_).2.2.2.2.2.2.2.2.2.2.1 _ _ _ _ 0 9 _ ?_ ?_ ?_ (pair_of ?_)),
    runs ((h 1 0 die0 _ ?_).2.2.2.2.2.2.2.2.2.2.2 ?_ ?_ ?_)⟩ <;> decide +kernel

/-- The program of a stripe unit that is not its row's parity member. -/
theorem met_FlashWheel_unit (h : Obligations.FlashWheel) : Runs (.nandProgramComplete 1 0 true none) dieProg := by
  refine runs_eq (((h 1 0 { die0 with op := some { erase := false, block := 0, at_ := 0, prog := some { band := 0, row := 1, cls := 1 } } } _ ?_).2.2.2.2.2.2.2.1 _ _ rfl ?_ ?_ rfl).2 _ _ rfl rfl ?_)
    <;> decide +kernel

/-! ## Integrity, Brace, keys and attestation (10 to 12) -/

/-- The Integrity Unit so. -/
def intUp (i : Integ) : State := { up with integ := i }

/-- A hold-off interval of detector 9 that has run out. -/
def holds (n : Nat) : Integ := { holds := [(9, { until_ := 0, pend := n, latest := { time := 0, dt := 9, eflags := 0, seg := 0, unit := 0, func := 0, loc := 0, aux := 0 } })] }

theorem met_IntegrityUnit (h : Obligations.IntegrityUnit) :
    Runs (.detectorHoldoffEnd 1 9) (intUp (holds 0)) ∧ Runs (.detectorHoldoffEnd 1 9) (intUp (holds 1))
    ∧ Runs (.detectorHoldoffEnd 1 9) { intUp (holds 1) with regs := [(Reg.intNotifyLo, 0)] } ∧ Runs (.injectionArm 1 0x80000000 15) up
    ∧ Runs (.injectionDisarm 1 0 15) (intUp { armed := true }) ∧ Runs (.bypassOpen 1 0x80000000 15) up ∧ Runs (.bypassWindowEnd 1) (intUp { bypass := some (9, 1) })
    ∧ Runs (.sramScrub 1000000000000 []) up ∧ Runs (.healthSave 3600000000000) up ∧ Runs (.linkStateChange 1 .recovery 0 0) up ∧ Runs (.flitCrcError 1) up
    ∧ Runs (.monitorOscillatorCheck 1 501) up := by
  have a : regAt Reg.intInj = some ((regAt Reg.intInj).get (by decide +kernel)) := (Option.some_get _).symm
  have b : regAt Reg.intBypass = some ((regAt Reg.intBypass).get (by decide +kernel)) := (Option.some_get _).symm
  refine ⟨runs_eq ((h 1 _).1 9 _ rfl ?_ ?_ ?_), runs (((h 1 _).2.1 9 _ rfl ?_ ?_ ?_).1 ?_), runs (((h 1 _).2.1 9 _ rfl ?_ ?_ ?_).2 ?_), runs_eq ((h 1 _).2.2.1 _ _ _ a ?_ ?_ ?_),
    runs ((h 1 _).2.2.2.1 _ _ _ a ?_ ?_ ?_ ?_), runs ((h 1 _).2.2.2.2.1 _ _ _ b ?_ ?_ ?_ ?_ ?_), runs ((h 1 _).2.2.2.2.2.1 9 1 ?_ ?_),
    runs_eq ((h _ _).2.2.2.2.2.2.1 ?_), runs ((h _ _).2.2.2.2.2.2.2.1 ?_), runs ((h 1 _).2.2.2.2.2.2.2.2.1 _ _ _ ?_), runs (h 1 _).2.2.2.2.2.2.2.2.2.1,
    runs ((h 1 _).2.2.2.2.2.2.2.2.2.2 _ ?_ ?_)⟩ <;> decide +kernel

/-- Host data awaited for a Seal, and for channel 0 of Segment 0. -/
def chan0 : State := { up with mov := { chans := [(0, { queue := [{ desc := pack [(1, 2), (3, 0), (4, 16)], func := 0, guest := false, core := 0, run := none }] })] } }

theorem met_FaultHandling (h : Obligations.FaultHandling) :
    Runs (.fabricTimeout 1 (.zest 0) false 0) { up with zst := { jobs := [(0, { seg := 0, core := 0, guest := false, desc := [] })] } }
    ∧ Runs (.fabricTimeout 1 (.command 0) false 0) (withCmd (cmd 0x25 []) up) ∧ Runs (.heartbeatMiss 1000000 0) { up with dxr := { cores := [(0, { st := .running })] } }
    ∧ Runs (.hostReadTimeout 1 (.command 0)) (withCmd (sealCmd true) up) ∧ Runs (.hostReadCompletion 1 (.chan 0) true []) chan0
    ∧ Runs (.hostReadCompletion 1 (.command 0) true []) (withCmd (sealCmd true) up) := by
  refine ⟨runs ((h 1 _ ?_ ?_).1 0 _ _ _ rfl ?_), runs ((h 1 _ ?_ ?_).2.1 0 (cmd 0x25 []) _ _ ?_ ?_ ?_), runs_eq ((h _ _ ?_ ?_).2.2.1 0 ?_ ?_ ?_ ?_ ?_),
    runs_eq ((h 1 _ ?_ ?_).2.2.2.1 0 (sealCmd true) _ ?_ rfl ?_), runs ((h 1 _ ?_ ?_).2.2.2.2.1 0 _ [] _ _ rfl ?_ rfl),
    runs ((h 1 _ ?_ ?_).2.2.2.2.2 0 (sealCmd true) _ ?_)⟩ <;> decide +kernel

/-- The Brace part so. -/
def brcUp (b : Brc) : State := { up with brc := b }

theorem met_BraceRun (h : Obligations.BraceRun) :
    Runs (.powerWarning 1 0 0 true true) up ∧ Runs (.braceFlushComplete 1 0 0 0 0 0 false) (brcUp { active := true, flushing := true })
    ∧ Runs (.exitWaitStart 1 60000 60000 true true) (brcUp { active := true }) ∧ Runs (.exitWaitRestart 1 0 0 true true) (brcUp { active := true, exitWait := some 0 })
    ∧ Runs (.braceExit 5000000) (brcUp { active := true, exitWait := some 0 }) := by
  refine ⟨runs ((h 1 _).1 _ _ _ _ ?_ ?_ ?_ ?_), runs ((h 1 _).2.1 _ _ _ _ _ _ ?_ ?_ ?_ ?_ ?_), runs ((h 1 _).2.2.1 _ _ _ _ ?_ ?_ ?_),
    runs ((h 1 _).2.2.2.1 _ _ _ _ 0 ?_ ?_ ?_), runs ((h _ _).2.2.2.2 0 ?_ ?_ ?_ ?_)⟩ <;> decide +kernel

/-- A Crypto descriptor: operation, algorithm, key source, words, input, output, NSID. -/
def cj (op alg ks words inp out nsid : Nat) : List Byte :=
  pack [(1, op), (1, alg), (1, ks), (5, 0), (4, words), (4, 0), (8, inp), (8, out), (8, sram), (8, 0), (8, 0), (4, nsid), (4, 0)]

/-- Core 0 has handed a Crypto job over and has context 0; the part has namespace 1 with its key. -/
def cjUp (d : List Byte) : State := { store with dxr := { hands := [.crypto 0 d] }, cry := { rngOk := true, ctxs := [(0, { page := 256, seq := 0, alg := 1, key := [] })] } }

theorem met_CryptoJobs (h : Obligations.CryptoJobs) :
    Runs (.cryptoInit 1 0) (cjUp (cj 1 1 0 0 0 0 0)) ∧ Runs (.cryptoUpdate 1 0) (cjUp (cj 2 1 0 1 sram 0 0)) ∧ Runs (.cryptoFinal 1 0) (cjUp (cj 3 1 0 0 0 sram 0))
    ∧ Runs (.cryptoFree 1 0) (cjUp (cj 4 1 0 0 0 0 0)) ∧ Runs (.cryptoOneshot 1 0) (cjUp (cj 5 1 0 1 sram sram 0)) ∧ Runs (.cryptoChainCheck 1 0) (cjUp (cj 6 0 4 24 sram 0 1))
    ∧ Runs (.cryptoRandom 1 0) (cjUp (cj 7 0 0 1 0 sram 0)) := by
  refine ⟨runs (((h 1 0 (cj 1 1 0 0 0 0 0) _).1 ?_ ?_).1 ?_), runs (((h 1 0 (cj 2 1 0 1 sram 0 0) _).1 ?_ ?_).2.1 ?_), runs (((h 1 0 (cj 3 1 0 0 0 sram 0) _).1 ?_ ?_).2.2.1 ?_),
    runs (((h 1 0 (cj 4 1 0 0 0 0 0) _).1 ?_ ?_).2.2.2.1 ?_), runs (((h 1 0 (cj 5 1 0 1 sram sram 0) _).1 ?_ ?_).2.2.2.2.1 ?_),
    runs (((h 1 0 (cj 6 0 4 24 sram 0 1) _).1 ?_ ?_).2.2.2.2.2.1 ?_), runs (((h 1 0 (cj 7 0 0 1 0 sram 0) _).1 ?_ ?_).2.2.2.2.2.2 ?_)⟩ <;> decide +kernel

/-- A job that waits: a GCM decryption for hold buffer, and one for random bytes. -/
def waits (d : List Byte) : State := { up with cry := { rngOk := true, jobs := [(0, { seg := 0, core := 0, page := 256, desc := d })] } }

theorem met_CryptoJobs_end (h : Obligations.CryptoJobs) :
    Runs (.gcmHoldGrant 1 0) (waits (cj 5 19 1 1 sram sram 0)) ∧ Runs (.cryptoJobComplete 1 0 false false false 0 []) (waits (cj 7 0 0 1 0 sram 0)) := by
  refine ⟨runs ((h 1 0 [] _).2.1 0 0 { seg := 0, core := 0, page := 256, desc := cj 5 19 1 1 sram sram 0 } ?_ ?_),
    runs ((h 1 0 [] _).2.2 0 { seg := 0, core := 0, page := 256, desc := cj 7 0 0 1 0 sram 0 } _ _ _ _ ?_ ?_ ?_ ?_ ?_ ?_ ?_ ?_ ?_ ?_ ?_ ?_)⟩ <;> decide +kernel

theorem met_KeysAndNoise (h : Obligations.KeysAndNoise) :
    Runs (.tamperAlarm 1 0) up ∧ Runs (.keyRederive 100000) { up with cry := { rederive := true } } ∧ Runs (.rngHealthFail 1) up ∧ Runs (.rngRecovered 1) up
    ∧ Runs (.exportKeySet 1 0) up ∧ Runs (.exportKeyClear 1 0) up ∧ Runs (.cryCtrlWrite 1 0 15) up := by
  refine ⟨runs ((h 1 _).1 0), runs ((h _ _).2.1 ?_ ?_ ?_ ?_), runs ((h 1 _).2.2.1 ?_ ?_), runs ((h 1 _).2.2.2.1 ?_ ?_), runs ((h 1 _).2.2.2.2.2.1 0 ?_ ?_),
    runs ((h 1 _).2.2.2.2.2.2.1 0 ?_ ?_), runs_eq ((h 1 _).2.2.2.2.2.2.2 _ _ ?_)⟩ <;> decide +kernel

/-- The length of the certificate chain is Config's: that it is not 0 is a premise. -/
theorem met_Attestation (h : Obligations.Attestation) (hc : 0 < (Config.spdmChain (certChain (attest store))).length) :
    let r := bytes 8 [(0, 0x12)]
    Runs (.spdmGetVersion 1 r) up ∧ Runs (.spdmGetCapabilities 1 r) up ∧ Runs (.spdmNegotiateAlgorithms 1 r) up ∧ Runs (.spdmGetDigests 1 r) (attest store)
    ∧ Runs (.spdmGetCertificate 1 r) (attest store) ∧ Runs (.spdmChallenge 1 r) (attest store) ∧ Runs (.spdmGetMeasurements 1 (bytes 8 [(0, 0x12), (3, 0xFF)])) up := by
  refine ⟨runs (h 1 _ _ ?_).1, runs ((h 1 _ _ ?_).2.1 ?_), runs ((h 1 _ _ ?_).2.2.1 ?_), runs ((h 1 _ _ ?_).2.2.2.1 ?_ ?_),
    runs ((h 1 _ _ ?_).2.2.2.2.1 _ _ ?_ ?_ rfl ?_ hc rfl), runs ((h 1 _ _ ?_).2.2.2.2.2.1 ?_ ?_ ?_ ?_), runs ((h 1 _ _ ?_).2.2.2.2.2.2 ?_ ?_ ?_ ?_)⟩ <;> decide +kernel

/-! ## Dexar cores and the Dispatcher (13 to 15) -/

theorem ok_of {ε : Type} {r : Except ε Bundle} {b : Bundle} (h : (match r with | .ok x => decide (x = b) | .error _ => false) = true) : r = .ok b := by
  split at h
  · exact congrArg _ (of_decide_eq_true h)
  · contradiction

theorem err_of {r : Except Exc Bundle} {e : Exc}
    (h : (match r with | .ok _ => false | .error x => decide (x.code = e.code ∧ x.slot = e.slot ∧ x.eaddr = e.eaddr)) = true) : r = .error e := by
  split at h
  · contradiction
  · rename_i x
    obtain ⟨h1, h2, h3⟩ := of_decide_eq_true h
    cases x; cases e; cases h1; cases h2; cases h3
    rfl

/-- A syllable word that ends its bundle: slot, guard, opcode and the three fields of format R3 (R527, R528). -/
def syl (slot g op d a b : Nat) : Word := BitVec.ofNat 32 (2 ^ 31 + slot * 2 ^ 28 + g * 2 ^ 24 + op * 2 ^ 18 + d * 2 ^ 12 + a * 2 ^ 6 + b)

/-- Core 0 so, running, with these words at address 0 of its instruction memory. -/
def codeUp (ws : List Word) (c : DCore := {}) : State :=
  { up with dxr := { cores := [(0, { c with st := .running })], mem := [(0, putBytes 0x20080000 (ws.flatMap fun w => le 4 w.toNat) [])] } }

/-- A pointer to X memory in a0. -/
def atX : DCore := { a := [(0, { ptr := 0x100000 })] }

theorem issues {ws : List Word} {c : DCore} (h : (mayIssue (codeUp ws c) 0
    && decide ((coreOf (codeUp ws c) 0).cycle.toNat + 1 < 2 ^ 48 ∧ (coreOf (codeUp ws c) 0).retired.toNat + 2 < 2 ^ 48)) = true) : Issues 0 {} (codeUp ws c) := by
  obtain ⟨h1, h2⟩ := Bool.and_eq_true_iff.1 h
  exact ⟨h1, ⟨rfl, rfl⟩, by decide, rfl, of_decide_eq_true h2⟩

/-- The first word is guarded by p1, which is false. -/
theorem met_DexarBundles (h : Obligations.DexarBundles) :
    Runs (.bundleIssue 1 0 {}) (codeUp [syl 0 1 1 1 2 3]) ∧ Runs (.bundleIssue 1 0 {}) (codeUp [syl 0 0 1 1 2 3]) ∧ Runs (.bundleIssue 1 0 {}) (codeUp [syl 0 0 0x18 1 0 5])
    ∧ Runs (.bundleIssue 1 0 {}) (codeUp [syl 0 0 0x20 1 2 3]) ∧ Runs (.bundleIssue 1 0 {}) (codeUp [syl 2 0 1 1 2 3]) ∧ Runs (.bundleIssue 1 0 {}) (codeUp [syl 4 0 0xB 1 0 0] atX)
    ∧ Runs (.bundleIssue 1 0 {}) (codeUp [syl 4 0 7 1 0 0] atX) ∧ Runs (.bundleIssue 1 0 {}) (codeUp [syl 5 0 1 0 0 1]) := by
  refine ⟨runs ((h 1 0 {} 1 { slot := 0, pred := 1, neg := false, op := .alu .add false 1 2 (.reg 3) } _ (issues ?_) (ok_of ?_)).1 ?_),
    runs (((h 1 0 {} 1 { slot := 0, pred := 0, neg := false, op := .alu .add false 1 2 (.reg 3) } _ (issues ?_) (ok_of ?_)).2.1 ?_ ?_).1 _ _ _ _ _ rfl),
    runs (((h 1 0 {} 1 { slot := 0, pred := 0, neg := false, op := .movi 1 5 } _ (issues ?_) (ok_of ?_)).2.1 ?_ ?_).2.1 _ _ rfl),
    runs (((h 1 0 {} 1 { slot := 0, pred := 0, neg := false, op := .cmp .eq 1 2 (.reg 3) } _ (issues ?_) (ok_of ?_)).2.1 ?_ ?_).2.2.1 _ _ _ _ rfl),
    runs (((h 1 0 {} 1 { slot := 2, pred := 0, neg := false, op := .mul .mul 1 2 3 } _ (issues ?_) (ok_of ?_)).2.1 ?_ ?_).2.2.2.1 _ _ _ rfl),
    runs (((h 1 0 {} 1 { slot := 4, pred := 0, neg := false, op := .store 8 1 { ar := 0, am := 0, disp := 0 } } _ (issues ?_) (ok_of ?_)).2.1 ?_ ?_).2.2.2.2.1 _ _ _ 0 0x20000000 rfl ?_ ?_ ?_ ?_),
    runs (((h 1 0 {} 1 { slot := 4, pred := 0, neg := false, op := .load 8 false 1 { ar := 0, am := 0, disp := 0 } } _ (issues ?_) (ok_of ?_)).2.1 ?_ ?_).2.2.2.2.2 _ _ _ _ 0 0x20000000 rfl ?_ ?_ ?_),
    runs ((h 1 0 {} 1 { slot := 5, pred := 0, neg := false, op := .br 4 false } _ (issues ?_) (ok_of ?_)).2.2 4 ?_ ?_ ?_ ?_)⟩ <;> decide +kernel

/-- A run of function 0 in Segment 0, as item 0, for the command in flight 0. -/
def run0 : DRun := { fn := 0, id := 0, slot := 0, seg := 0, args := [], budget := 0, cid := 1, ring := 0 }

/-- An item of house work in slot 5. -/
def item5 (p : Place) : Item := { content := [], kind := 0, flow := 0, prio := 0, seq := 0, source := 0, place := p }

/-- Core k so, with the run and its program, and these items. -/
def dspUp (k : Nat) (c : DCore) (x : DRun) (i : Tab Item := []) (hd : List Hand := []) : State :=
  withCmd (cmd 0x2A []) { up with dxr := { cores := [(k, c)], hands := hd }, dsp := { items := i, runs := [(0, x)], progs := [(0, { fn := 0, mask := 1, image := [] })] } }

/-- An opcode that is none, in and out of a handler; an event; a spent budget; REP of 3 passes, and of one that runs; and a GET that waits. -/
theorem met_CoreEvents (h : Obligations.CoreEvents) :
    Runs (.bundleIssue 1 0 {}) (codeUp [syl 0 0 0x3F 0 0 0]) ∧ Runs (.bundleIssue 1 0 {}) (codeUp [syl 0 0 0x3F 0 0 0] { pstate := 0x1000 })
    ∧ Runs (.eventException 1 0) (codeUp [] { pstate := 0x800 }) ∧ Runs (.budgetException 1 2) (dspUp 2 { st := .running, run := some 0 } run0)
    ∧ Runs (.bundleIssue 1 0 {}) (codeUp [0x70060003, syl 0 0 1 1 2 3]) ∧ Runs (.repPass 1 0 {}) (codeUp [0x70060003, syl 0 0 1 1 2 3] { pstate := 0x8000, repc := 2 })
    ∧ Runs (.getDeliver 1 0) (dspUp 0 { st := .waiting, get := some (1, 0), getWords := [syl 5 0 0xC 1 0 0] } run0 [(5, item5 (.ready 0))]) := by
  refine ⟨runs (((h 1 0 {} _).1 { code := 1, slot := 0, eaddr := some 0 } (issues ?_) ?_ (err_of ?_) ?_ ?_ ?_).1 ?_),
    runs (((h 1 0 {} _).1 { code := 1, slot := 0, eaddr := some 0 } (issues ?_) ?_ (err_of ?_) ?_ ?_ ?_).2 ?_), runs ((h 1 0 {} _).2.1 ?_ ?_ ?_ ?_),
    runs ((h 1 2 {} _).2.2.1 0 run0 (cmd 0x2A []) ?_ ?_ ?_ ?_ ?_ ?_ (canPost_of ?_)),
    runs ((h 1 0 {} _).2.2.2.1 { words := 2, rep := some (.imm 3), syls := [{ slot := 0, pred := 0, neg := false, op := .alu .add false 1 2 (.reg 3) }] } (.imm 3) (issues ?_) (ok_of ?_) rfl ?_ ?_),
    runs (((h 1 0 {} _).2.2.2.2.1 2 (.imm 3) { slot := 0, pred := 0, neg := false, op := .alu .add false 1 2 (.reg 3) } _ _ _ _ _ (issues ?_) ?_ (ok_of ?_) rfl ?_ ?_).1 ?_),
    runs ((h 1 0 {} _).2.2.2.2.2 0 5 (item5 (.ready 0)) 1 { slot := 5, pred := 0, neg := false, op := .get 1 0 } 1 0 ?_ ?_ (ok_of ?_) rfl ?_ ?_ ?_)⟩ <;> decide +kernel

/-- The last pass of REP. -/
theorem met_CoreEvents_last (h : Obligations.CoreEvents) : Runs (.repPass 1 0 {}) (codeUp [0x70060003, syl 0 0 1 1 2 3] { pstate := 0x8000, repc := 1 }) := by
  refine runs (((h 1 0 {} _).2.2.2.2.1 2 (.imm 3) { slot := 0, pred := 0, neg := false, op := .alu .add false 1 2 (.reg 3) } _ _ _ _ _ (issues ?_) ?_ (ok_of ?_) rfl ?_ ?_).2 ?_)
    <;> decide +kernel

/-- Posts that are refused for their header and for their run, and one that enters; DONE with the item's token and with another; a due item; the run's
start and its end. -/
theorem met_DispatcherWork (h : Obligations.DispatcherWork) :
    Runs (.dispatcherPost 1 0) (dspUp 0 { st := .running } run0 [] [.post 0 [] 8 0]) ∧ Runs (.dispatcherPost 1 0) (dspUp 0 { st := .running } run0 [] [.post 0 [] 0x5000000000400 0])
    ∧ Runs (.dispatcherPost 1 0) (dspUp 0 { st := .running } run0 [] [.post 0 [] 0 0])
    ∧ Runs (.dispatcherDone 1 0) (dspUp 0 { st := .running, item := some 5 } run0 [(5, item5 (.service 0))] [.done 0 5])
    ∧ Runs (.dispatcherDone 1 0) (dspUp 0 { st := .running, item := some 5 } run0 [(5, item5 (.service 0))] [.done 0 6])
    ∧ Runs (.delayRelease 1 0) (dspUp 0 {} run0 [(5, item5 (.tick 0 0))]) ∧ Runs (.runStart 20000000 0 2 0 0) (dspUp 2 {} run0)
    ∧ Runs (.runExit 1 2) (dspUp 2 { st := .running, run := some 0 } run0 [] [.exit 2 7]) := by
  refine ⟨runs (((h 1 0 _).1 [] [] _ _ _ rfl nofun ?_ ?_).1 ?_), runs (((h 1 0 _).1 [] [] _ _ _ rfl nofun ?_ ?_).2.1 ?_ ?_),
    runs (((h 1 0 _).1 [] [] _ _ _ rfl nofun ?_ ?_).2.2 none 0 ?_ ?_ nofun ?_ ?_), runs (((h 1 0 _).2.1 [] [] _ 5 (item5 (.service 0)) rfl nofun ?_ ?_ ?_).1 ?_),
    runs (((h 1 0 _).2.1 [] [] _ 5 (item5 (.service 0)) rfl nofun ?_ ?_ ?_).2 ?_), runs (((h 1 0 _).2.2.1 0 5 (item5 (.tick 0 0)) 0 0 ?_ ?_ ?_ ?_).1 ?_),
    runs ((h _ 2 _).2.2.2.1 0 0 0 0 run0 { fn := 0, mask := 1, image := [] } ?_ ?_ ?_ ?_ ?_ ?_ ?_ ?_ ?_ ?_ ?_ ?_),
    runs ((h 1 2 _).2.2.2.2 [] [] _ 0 run0 (cmd 0x2A []) rfl nofun ?_ ?_ ?_ (canPost_of ?_))⟩ <;> decide +kernel

/-- The item's Segment sleeps. -/
theorem met_DispatcherWork_asleep (h : Obligations.DispatcherWork) :
    Runs (.delayRelease 1 0) (let s := dspUp 0 {} run0 [(5, item5 (.tick 0 0))]; { s with pwr := { sleep := [(0, 1)] } }) := by
  refine runs (((h 1 0 _).2.2.1 0 5 (item5 (.tick 0 0)) 0 0 ?_ ?_ ?_ ?_).2 ?_ ?_) <;> decide +kernel

/-! ## Power, Data Movers and DRAM (16, 18) -/

/-- The Power Manager so. -/
def pwrUp (p : Pwr) : State := { up with pwr := p }

/-- Every Segment sleeps, and the Rind core waits. -/
def rindIdle : State := { pwrUp { sleep := [(0, 1), (1, 1), (2, 1), (3, 1)] } with dxr := { cores := [(rindCore, { st := .waiting })] } }

theorem met_PowerManager (h : Obligations.PowerManager) :
    Runs (.coreClockGate 1 0) { up with dxr := { cores := [(0, { st := .waiting })] } } ∧ Runs (.governorDecision 1000000000 []) up
    ∧ Runs (.vregSettled 1) (pwrUp { level := [(0, 3)], raising := [(0, { level := 2, at_ := 0 })] })
    ∧ Runs (.vregSettleTimeout 1000000) (pwrUp { raising := [(0, { level := 2, at_ := 0 })] }) ∧ Runs (.segmentSleepEntry 65535000 3) up
    ∧ Runs (.rindSleepEntry 1) rindIdle ∧ Runs (.domainWake 1 0) (pwrUp { sleep := [(0, 1)] })
    ∧ Runs (.wakeComplete 1 0) (pwrUp { sleep := [(0, 1)], waking := [0] }) ∧ Runs (.wakeComplete 1 4) (pwrUp { rindSleep := 1, waking := [4] })
    ∧ Runs (.throttleStep 10000000 0) (pwrUp { zone := [(0, 1)] }) ∧ Runs (.throttleStep 100000000 0) (pwrUp { zone := [(0, 2)], cap := [(0, 1)] })
    ∧ Runs (.thermalShedBegin 1000000) (pwrUp { hotSince := [(0, 0)] }) ∧ Runs (.thermalShedEnd 100000000) (pwrUp { shed := true, coolSince := some 0 }) := by
  refine ⟨runs ((h 1 0 _).1 _ rfl ?_), runs ((h _ 0 _).2.1 _ ?_), runs ((h 1 0 _).2.2.1 _ rfl ?_ ?_ ?_), runs ((h _ 0 _).2.2.2.1 { level := 2, at_ := 0 } ?_ ?_ ?_),
    runs ((h _ 3 _).2.2.2.2.1 ?_), runs ((h 1 0 _).2.2.2.2.2.1 ?_), runs ((h 1 0 _).2.2.2.2.2.2.1 ?_), runs ((h 1 0 _).2.2.2.2.2.2.2.1 ?_ ?_ ?_),
    runs ((h 1 0 _).2.2.2.2.2.2.2.2.1 ?_ ?_), runs ((h _ 0 _).2.2.2.2.2.2.2.2.2.1 ?_ ?_ ?_), runs ((h _ 0 _).2.2.2.2.2.2.2.2.2.2.1 ?_ ?_ ?_),
    runs ((h _ 0 _).2.2.2.2.2.2.2.2.2.2.2.1 0 ?_ ?_ ?_), runs ((h _ 0 _).2.2.2.2.2.2.2.2.2.2.2.2.1 0 ?_ ?_ ?_)⟩ <;> decide +kernel

/-- A Data Mover descriptor of 8 bytes: operation and source. -/
def dm (op src : Nat) : List Byte := pack [(1, op), (3, 0), (4, 8), (8, src), (8, sram + 4096), (8, sram + 16384), (32, 0)]

def dmd (d : List Byte) : DmDesc := { desc := d, func := 0, guest := false, core := 0, run := none }

/-- Channel 0 of Segment 0 so. -/
def chanUp (c : DmCh) : State := { up with mov := { chans := [(0, c)] } }

theorem met_DataMoverChannels (h : Obligations.DataMoverChannels) :
    Runs (.dmCopy 1 0) (handed (.channel 0 0 (dm 1 sram))) ∧ Runs (.dmFill 1 0) (handed (.channel 0 0 (dm 5 0)))
    ∧ Runs (.dmRecordRead 1 0) (handed (.channel 0 0 (dm 4 0))) ∧ Runs (.dmDescriptorComplete 1 0 0 true 0 [] []) (chanUp { queue := [dmd (dm 1 sram)] })
    ∧ Runs (.dmDescriptorComplete 1 0 0 false 0 [] []) (chanUp { queue := [dmd (dm 1 sram)] })
    ∧ Runs (.dmDescriptorComplete 1 0 0 false 0 [] []) (chanUp { queue := [dmd (dm 4 0)] }) := by
  refine ⟨runs (((h 1 0 _).1 (.dmCopy 1 0) 1 [] [] 0 _ (by simp) rfl nofun).1 ?_ ?_), runs (((h 1 0 _).1 (.dmFill 1 0) 5 [] [] 0 _ (by simp) rfl nofun).1 ?_ ?_),
    runs (((h 1 0 _).1 (.dmRecordRead 1 0) 4 [] [] 0 _ (by simp) rfl nofun).2 0x010B ?_ ?_ ?_ ?_ ?_ ?_), runs (((h 1 0 _).2 0 0 _ [] _ _ [] [] _ _ _ rfl ?_ ?_ ?_ (pair_of ?_) ?_ ?_ (pair_of rfl)).1 ?_ ?_),
    runs (((h 1 0 _).2 0 0 _ [] _ _ [] [] _ _ _ rfl ?_ ?_ ?_ (pair_of ?_) ?_ ?_ (pair_of rfl)).2.1 _ ?_ ?_ rfl ?_ ?_ ?_ ?_ ?_ ?_),
    runs (((h 1 0 _).2 0 0 _ [] _ _ [] [] _ _ _ rfl ?_ ?_ ?_ (pair_of ?_) ?_ ?_ (pair_of rfl)).2.2 0x010B ?_ rfl ?_ ?_)⟩ <;> decide +kernel

theorem met_DataMoverChannels_host (h : Obligations.DataMoverChannels) :
    Runs (.dmHostRead 1 0) (handed (.channel 0 0 (dm 2 0))) ∧ Runs (.dmHostWrite 1 0) (handed (.channel 0 0 (dm 3 sram))) := by
  refine ⟨runs (((h 1 0 _).1 (.dmHostRead 1 0) 2 [] [] 0 _ (by simp) rfl nofun).1 ?_ ?_), runs (((h 1 0 _).1 (.dmHostWrite 1 0) 3 [] [] 0 _ (by simp) rfl nofun).1 ?_ ?_)⟩
    <;> decide +kernel

/-- DRAM channel 0 so, with these registers. -/
def dramUp (d : Dram) (r : Tab Word := []) : State := { up with mov := { drams := [(0, d)] }, regs := r }

theorem met_ChannelControlAndDram (h : Obligations.ChannelControlAndDram) :
    Runs (.dmResume 1 0) (handed (.resume 0 0 0)) ∧ Runs (.dmResume 1 0) (handed (.resume 0 0 2)) ∧ Runs (.dmAbandon 1 0) (handed (.resume 0 0 1))
    ∧ Runs (.dspfHwWrite 1 0 0 0 15) (dspUp 0 {} run0) ∧ Runs (.dspfHwWrite 1 0 0 0 15) up ∧ Runs (.dramZeroFill 1 0) (dramUp { filling := true })
    ∧ Runs (.dramZqCalibration 100000000000 0) (dramUp { trained := true }) ∧ Runs (.dramRecentre 1 0 300) (dramUp { trained := true })
    ∧ Runs (.dramRefresh 1 0 true) (dramUp { trained := true }) ∧ Runs (.dramRefresh 1 0 false) (dramUp { trained := true })
    ∧ Runs (.dramRfm 1 0 0) (dramUp { raaimt := 32, banks := [(0, { raa := 32 })] }) ∧ Runs (.neighbourRefresh 1 0 0 [7] [] 0) (dramUp { trained := true })
    ∧ Runs (.neighbourRefresh 1 0 0 [7] [] 0) (dramUp { trained := true } [(Reg.drmRat, 0)]) ∧ Runs (.ratWindowClear 32000000 0) (dramUp {}) := by
  refine ⟨runs (((h 1 0 _).1 [] [] 0 _ rfl nofun).1 ?_), runs (((h 1 0 _).1 [] [] 0 _ rfl nofun).2.1 ?_), runs (((h 1 0 _).1 [] [] 0 _ rfl nofun).2.2 ?_),
    runs (((h 1 0 _).2.1 0 0 _ _ ?_ ?_).1 ?_), runs (((h 1 0 _).2.1 0 0 _ _ ?_ ?_).2 ?_), runs ((h 1 0 _).2.2.1 ?_), runs (((h _ 0 _).2.2.2.1 ?_ ?_ ?_ ?_ ?_).1 ?_),
    runs (((h 1 0 _).2.2.2.1 ?_ ?_ ?_ ?_ ?_).2 _ ?_), runs (((h 1 0 _).2.2.2.2.1 ?_ ?_).1 ?_), runs ((h 1 0 _).2.2.2.2.1 ?_ ?_).2, runs ((h 1 0 _).2.2.2.2.2.1 0 ?_ ?_),
    runs (((h 1 0 _).2.2.2.2.2.2.1 0 7 _ _ ?_ ?_ ?_ ?_ ?_ ?_).1 ?_), runs (((h 1 0 _).2.2.2.2.2.2.1 0 7 _ _ ?_ ?_ ?_ ?_ ?_ ?_).2 ?_ ?_), runs ((h _ 0 _).2.2.2.2.2.2.2 ?_)⟩ <;> decide +kernel

/-! ## Pith and lifecycle (17, 19) -/

/-- The Pith Array so. -/
def pithUp (p : Pith) : State := { up with pith := p }

/-- Port 1 with so many unlocks, and bank 0 so. -/
def portUp (n : Nat) (o : BankOp := .idle) : State := pithUp { State.reset.pith with ports := [(1, { keys := List.replicate n 0 })], ops := [(0, o)] }

theorem met_PithPorts (h : Obligations.PithPorts) :
    Runs (.pthKeyWrite 1 1 0x0000A5C3) up ∧ Runs (.pthKeyWrite 1 1 0x00005A3C) (pithUp { ports := [(1, { firstKey := true })] }) ∧ Runs (.pthKeyWrite 1 1 7) up
    ∧ Runs (.pithUnlockTimeout 100000 1) (portUp 1) ∧ Runs (.sectorErase 1 3 0) up ∧ Runs (.sectorErase 1 1 0) (portUp 1)
    ∧ Runs (.pageProgram 1 1 1023 255 [(7, [])]) (portUp 1) ∧ Runs (.sectorErase 1 1 0) (portUp 2) ∧ Runs (.eraseSuspend 1 1 0) (portUp 0 (.erase 0 1 0 false false))
    ∧ Runs (.eraseResume 1 1 0) (portUp 0 (.erase 0 1 0 true false)) ∧ Runs (.blankCheck 1 1 1023) up := by
  refine ⟨runs ((h 1 1 _).1 ?_), runs ((h 1 1 _).2.1 ?_), runs ((h 1 1 _).2.2.1 _ ?_ ?_), runs ((h _ 1 _).2.2.2.1 0 [] ?_ ?_),
    runs (((h 1 3 _).2.2.2.2.1 0x20 (.sectorErase 1 3 0) 0 0 [] 0 0 0 [] (by simp)).1 ?_), runs (((h 1 1 _).2.2.2.2.1 0x20 (.sectorErase 1 1 0) 0 0 [] 0 0 0 [] (by simp)).2 ?_ ?_),
    runs ((h 1 1 _).2.2.2.2.2.1 _ _ _ ?_ ?_ ?_ ?_ ?_ ?_ ?_ ?_ nofun ?_), runs ((h 1 1 _).2.2.2.2.2.2.1 0 ?_ ?_ ?_ ?_ ?_ ?_ nofun ?_),
    runs ((h _ 1 _).2.2.2.2.2.2.2.1 0 0 1 0 false ?_ ?_), runs ((h 1 1 _).2.2.2.2.2.2.2.2.1 0 0 1 0 false ?_ ?_), runs ((h 1 1 _).2.2.2.2.2.2.2.2.2 _ ?_ ?_)⟩
    <;> decide +kernel

/-- An entry of the journal, being programmed into its first sector; and one that is queued. -/
def entry : JEntry := { etype := 5, src := 0, key := none, body := [] }

theorem met_PithContents (h : Obligations.PithContents) :
    Runs (.pithEraseComplete 1 0 true) (portUp 0 (.erase 0 1 0 false false)) ∧ Runs (.pithEraseComplete 1 0 false) (portUp 0 (.erase 0 1 0 false true))
    ∧ Runs (.pithProgramComplete 1 0 true) (portUp 0 (.program 0 0 [(0, [])] 1 0))
    ∧ Runs (.pithProgramComplete 1 (journalBank 0) false) (pithUp { jprog := some entry }) ∧ Runs (.journalProgram 1) (pithUp { State.reset.pith with jq := [entry] })
    ∧ Runs (.paramPut 1 1 7 0 [1]) (portUp 1) ∧ Runs (.paramDelete 1 1 7 0) (portUp 1) ∧ Runs (.paramDelete 1 1 7 0) (pithUp { ports := [(1, { keys := [0] })], params := [(1792, [1])] })
    ∧ Runs (.paramGet 1 1 7 0) up ∧ Runs (.paramGet 1 1 7 0) (pithUp { params := [(1792, [1])] }) := by
  refine ⟨runs ((h 1 _).1 0 0 1 0 ?_).1, runs ((h 1 _).2.1 0 0 1 0 ?_ ?_), runs ((h 1 _).2.2.1 0 0 0 1 0 [(0, [])] ?_ ?_).1, runs (((h 1 _).2.2.2.1 _ entry ?_ ?_ rfl ?_).2 ?_),
    runs ((h 1 _).2.2.2.2.1 entry [] _ ?_ ?_ ?_ ?_ rfl ?_ (.inr ?_)), runs ((h 1 _).2.2.2.2.2.2.1 1 7 0 [1] [1] ?_ ?_ nofun ?_ ?_ ?_ ?_ ?_ ?_), runs (((h 1 _).2.2.2.2.2.2.2.1 1 7 0 ?_ ?_ nofun ?_ ?_).1 ?_),
    runs (((h 1 _).2.2.2.2.2.2.2.1 1 7 0 ?_ ?_ nofun ?_ ?_).2 ?_), runs (((h 1 _).2.2.2.2.2.2.2.2 1 7 0 ?_ nofun ?_).1 ?_), runs (((h 1 _).2.2.2.2.2.2.2.2 1 7 0 ?_ nofun ?_).2 [1] ?_)⟩
    <;> first | decide +kernel | exact fun _ _ _ _ _ h => BankOp.noConfusion (show BankOp.idle = _ from h)

/-- One sector is free. -/
theorem met_PithContents_epoch (h : Obligations.PithContents) : Runs (.newEpoch 1) (pithUp { State.reset.pith with jsec := 740 }) := by
  refine runs ((h 1 _).2.2.2.2.2.1 ?_ ?_ ?_) <;> decide +kernel

/-- The lifecycle part so. -/
def lifeUp (l : Life) : State := { up with life := l }

/-- That a chain fits, and a grant, is Config's: the two premises say so of the empty bytes of `LCS_WIN`. -/
theorem met_LifecycleCommands (h : Obligations.LifecycleCommands) (hc : chainFits (lifeUp { prepared := true, heldSalt := some [] }) (lcsBytes up 4092) = true)
    (hg : grantFits (lifeUp { vault := true, lstate := .sealed, confirm := some 0x4E525452 }) (lcsBytes up 4096) [3] = false) :
    Runs (.lcsSeal 1) up ∧ Runs (.lcsSeal 1) (lifeUp { lstate := .provisioned }) ∧ Runs (.lcsPrepare 1) (lifeUp { busy := true }) ∧ Runs (.lcsPrepare 1) up
    ∧ Runs (.lcsProvision 1) (lifeUp { prepared := true, heldSalt := some [] }) ∧ Runs (.lcsProvision 1) (lifeUp { prepared := true })
    ∧ Runs (.lcsSeal 1) (lifeUp { lstate := .provisioned, confirm := some 0x4C414553 })
    ∧ Runs (.lcsVaultEnter 1) (lifeUp { lstate := .provisioned, vault := true, confirm := some 0x544C4156 }) ∧ Runs (.lcsVaultEnter 1) (lifeUp { lstate := .sealed, confirm := some 0x544C4156 })
    ∧ Runs (.lcsReturn 1) (lifeUp { confirm := some 0x4E525452 }) ∧ Runs (.lcsReturn 1) (lifeUp { vault := true, lstate := .sealed, confirm := some 0x4E525452 })
    ∧ Runs (.lcsScrap 1) (lifeUp { lstate := .returned, confirm := some 0x50415253 }) ∧ Runs (.lcsChallenge 1) up ∧ Runs (.lcsChallenge 1) { up with cry := {} } := by
  have n : chainFits (lifeUp { prepared := true }) (lcsBytes (lifeUp { prepared := true }) 4092) = false := by simp [chainFits, lifeUp]
  refine ⟨runs (((h 1 _ ?_).1 (.lcsSeal 1) 3 (by simp)).1 ?_), runs (((h 1 _ ?_).1 (.lcsSeal 1) 3 (by simp)).2.1 ?_ nofun ?_ ?_), runs (((h 1 _ ?_).1 (.lcsPrepare 1) 1 (by simp)).2.2 ?_ nofun ?_ ?_ ?_),
    runs ((h 1 _ ?_).2.1 ?_ ?_ ?_), runs (((h 1 _ ?_).2.2.1 ?_ ?_ ?_ ?_).1 hc ?_), runs (((h 1 _ ?_).2.2.1 ?_ ?_ ?_ ?_).2 n), runs ((h 1 _ ?_).2.2.2.1 ?_ ?_ ?_ ?_),
    runs (((h 1 _ ?_).2.2.2.2.1 ?_ ?_ ?_).1 ?_), runs (((h 1 _ ?_).2.2.2.2.1 ?_ ?_ ?_).2 ?_ ?_), runs (((h 1 _ ?_).2.2.2.2.2.1 ?_ ?_ ?_ ?_).1 ?_ ?_),
    runs (((h 1 _ ?_).2.2.2.2.2.1 ?_ ?_ ?_ ?_).2.2 ?_ ?_ hg), runs ((h 1 _ ?_).2.2.2.2.2.2.1 ?_ ?_ ?_ ?_), runs (((h 1 _ ?_).2.2.2.2.2.2.2 ?_).1 ?_), runs (((h 1 _ ?_).2.2.2.2.2.2.2 ?_).2 ?_)⟩
    <;> decide +kernel

/-- RETURN under VAULT with a grant that fits. -/
theorem met_LifecycleCommands_grant (h : Obligations.LifecycleCommands)
    (hg : grantFits (lifeUp { vault := true, lstate := .sealed, confirm := some 0x4E525452, nonceOk := true }) (lcsBytes up 4096) [3] = true) :
    Runs (.lcsReturn 1) (lifeUp { vault := true, lstate := .sealed, confirm := some 0x4E525452, nonceOk := true }) := by
  refine runs (((h 1 _ ?_).2.2.2.2.2.1 ?_ ?_ ?_ ?_).2.1 ?_ ?_ ?_ hg) <;> decide +kernel

theorem met_LifecycleBusy (h : Obligations.LifecycleBusy) :
    Runs (.lcsPrepare 1) (lifeUp { busy := true }) ∧ Runs (.lcsReturn 1) (withCmd (cmd 1 []) (lifeUp { confirm := some 0x4E525452 })) := by
  refine ⟨runs (h 1 1 _ _ (by simp) ?_ ?_ nofun ?_ ?_), runs (h 1 5 _ _ (by simp) ?_ ?_ nofun ?_ ?_)⟩ <;> decide +kernel

/-- The supply as it falls and returns: an erase waits, and SEAL. -/
theorem met_PithSupply (h : Obligations.PithSupply) :
    Runs (.vppPithRangeChange 1 true) (pithUp { waiting := [(1, 7, .erase 1000 1 0 false false)] })
    ∧ Runs (.lcsSeal 1) { lifeUp { lstate := .provisioned, confirm := some 0x4C414553 } with pins := { vppOk := false } }
    ∧ Runs (.vppPithRangeChange 1 true) (lifeUp { lstate := .provisioned, busy := true, op := 3 }) := by
  refine ⟨runs ((h 1 _).2.1 ?_ ?_ ?_ 1 7 (.erase 1000 1 0 false false) ?_ ?_ ?_ ?_ ?_), runs ((h 1 _).2.2.1 ?_ ?_ ?_ ?_ ?_), runs ((h 1 _).2.2.2 ?_ ?_ ?_ ?_ ?_ ?_)⟩ <;> decide +kernel

theorem met_UnitProgrammedOnce (h : Obligations.UnitProgrammedOnce) :
    Runs (.pageProgram 1 1 1023 255 [(7, [])]) (pithUp { ports := [(1, { keys := [0] })], units := [(1023 * 2048 + 255 * 8 + 7, .bad)] }) :=
  runs (h _ _ _ _ _ _ (by decide +kernel) (by decide +kernel) ⟨(7, []), by simp, by decide +kernel⟩)

/-- `CAD_TOL` is written; its block locked; an absent and a sleeping Segment's register, and one that is none. -/
theorem met_RegisterWrites (h : Obligations.RegisterWrites) :
    Runs (.registerWrite 1 0 0 15) State.reset ∧ Runs (.registerWrite 1 (Reg.medSnap 3) 0 15) (bootUp { up.boot with segEn := 7 })
    ∧ Runs (.registerWrite 1 (Reg.medSnap 3) 0 15) (pwrUp { sleep := [(3, 2)] }) ∧ Runs (.registerWrite 1 0x3FFFC 0 15) up ∧ Runs (.registerWrite 1 Reg.cadTol 0 15) up
    ∧ Runs (.registerWrite 1 Reg.cadTol 0 15) (cadUp {} [(Reg.cadCtrl, 0x80000000)]) ∧ Runs (.blockLock 1 1 0x80000000 8) up := by
  refine ⟨runs_eq ((h 1 0 15 0 _).1 ?_).1, runs (((h 1 (Reg.medSnap 3) 15 0 _).2 ?_).1 3 ?_ ?_ ?_), runs (((h 1 (Reg.medSnap 3) 15 0 _).2 ?_).2.1 3 ?_ ?_ ?_ ?_ ?_),
    runs (((h 1 0x3FFFC 15 0 _).2 ?_).2.2.1 ?_ ?_), runs (((h 1 0 15 0 _).2 ?_).2.2.2.1 ?_), runs (((h 1 0 15 0 _).2 ?_).2.2.2.2.1 ?_), runs ((h 1 0 15 0 _).2 ?_).2.2.2.2.2.2⟩
    <;> first | decide +kernel

/-! ## Worked examples of the manual -/

/-- The state after a command, for tests; a stop leaves the state before it. -/
def after1 (c : Instr) (s : State) : State := match exec c s with
  | .next u => u
  | _ => s

/-- The example of 00: 20 ms after the boundary of frame 1,000,000 at 25 Hz, Evidence Time is 0x0000_0F42_4080_0000. -/
theorem test_evidenceTime : evTime { State.reset with cad := { frame := 1000000 }, now := 20000000 } = 0x00000F4240800000 := by decide +kernel

/-- The example of 01: with the cable cut at frame 5,000,000, the boundary comes once 40.050 ms have passed, and the unit enters HOLDOVER. -/
theorem test_lateWindow : (after1 (.lateWindowExpiry 40050001 []) (cadUp { st := .locked, qual := .locked, frame := 5000000 })).cad.st = .holdover
    ∧ (after1 (.lateWindowExpiry 40050001 []) (cadUp { st := .locked, qual := .locked, frame := 5000000 })).cad.frame = 5000001 := by decide +kernel

/-- Just before, nothing happens. -/
theorem test_lateWindow_early : (after1 (.lateWindowExpiry 40050000 []) (cadUp { st := .locked, qual := .locked, frame := 5000000 })).cad.frame = 5000000 := by
  decide +kernel

/-- The example of 01: the fence of the driver's button starts at 997,000:2,048:0 and ends at 1,000,750:2,048:0. -/
theorem test_incidentFence : ((tget 0 (after1 (.incidentEdge 20000000 0 1000000) (cadUp { frame := 1000000 }
    [(Reg.cadCtrl, 0x200), (Reg.cadIncCfg0, 3000), (Reg.cadIncPost0, 750)])).cad.fences).map fun x => (x.start, x.stop, x.edge)) =
    some (0x00000F3688800000, 1000750 * 2 ^ 24 + 2048 * 2 ^ 12, 0x00000F4240800000) := by decide +kernel

/-- The example of 02's Pips: Pip 0x0123_0005 moves the tail of ring 5, depth 512, from 290 to 291. -/
theorem test_pip : (ringOf (after1 (.pipSubmissionTail 1 0 0x01230005 15)
    (rgeUp { State.reset.rge with rings := [(5, { subRing with idx := 5, depth := 512, dev := 289, known := 290 })] })) 5).map (·.known) = some 291 := by decide +kernel

/-- The example of 07: the block body of "tram-tram-tram-stop". -/
theorem test_zestTokens : (match decodeBlock 1 [0x04, 0x74, 0x72, 0x61, 0x6D, 0x2D, 0xB8, 0x04, 0x03, 0x73, 0x74, 0x6F, 0x70] 19 with
    | .ok l => l == ascii "tram-tram-tram-stop"
    | .error _ => false) = true := by decide +kernel

/-- The example of 09's wheel at 25 Hz: 178 positions, of which 1 lies at 94,254 and 177 at 16,682,961 fine units; position 0 of the die at 15 at 88,363. -/
theorem test_wheel : (wheelN State.reset, wheelU State.reset 0 1, wheelU State.reset 0 177, wheelU State.reset 15 0) = (178, 94254, 16682961, 88363) := by
  decide +kernel

/-- The example of 10 (R401): of the copies with GEN 0xFF, 0x00 and 0xFE, 0x00 wins. -/
theorem test_triadVote : (match vote { c0 := some { gen := 0xFF, value := [1] }, c1 := some { gen := 0, value := [2] }, c2 := some { gen := 0xFE, value := [3] } } with
    | .value c => c.value == [2]
    | .default => false) = true := by decide +kernel

/-- The example of 13: the bytes 08 00 06 70 46 51 04 80 are REP 8 with ADD g5, g5, g6. -/
theorem test_bundle : decodeBundle false [0x70060008, 0x80045146] =
    .ok { words := 2, rep := some (.imm 8), syls := [{ slot := 0, pred := 0, neg := false, op := .alu .add false 5 5 (.reg 6) }] } :=
  ok_of (by decide +kernel)

/-- The example of 14: ADD.F g10, g10, g12 and ADC g11, g11, g13. -/
theorem test_addCarry : decodeBundle false [0x80C4A28C] = .ok { words := 1, rep := none, syls := [{ slot := 0, pred := 0, neg := false, op := .alu .add true 10 10 (.reg 12) }] }
    ∧ decodeBundle false [0x800CB2CD] = .ok { words := 1, rep := none, syls := [{ slot := 0, pred := 0, neg := false, op := .alu .adc false 11 11 (.reg 13) }] } :=
  ⟨ok_of (by decide +kernel), ok_of (by decide +kernel)⟩

/-- The example of 22: `FLW_CHERRc` of CH12, and the Seal budget of Segment 2. -/
theorem test_registerAddresses : Reg.flwCherr 12 = 0x000C04C4 ∧ Reg.clsSealBudget 2 = 0x00070200 := by decide

/-- The example of 18: 10 ms after its last step the cap goes from 1 to 2. -/
theorem test_throttle : capOf (after1 (.throttleStep 10000000 0) (pwrUp { zone := [(0, 1)], cap := [(0, 1)] })) 0 = 2 := by decide +kernel

/-! ## The package (20) -/

/-- The manual's example (R782 to R785): N12_CE_N3 is ball U52, in row 16, and D0_A_DQ17 is ball H27, in row 8. -/
theorem test_ball_nand : (rowName 16, ballAt 16 52) = (['U'], .nand 12 "CE_N" 3) := by decide +kernel

theorem test_ball_dram : (rowName 8, ballAt 8 27) = (['H'], .dram 0 false "DQ" 17) := by decide +kernel

end Sys2Proof.Tests
end

section
/-!
SUPPORT. Edges of CAD_IN while LOCKED (01): which branch of CAD_IN_EDGE an edge takes, what an edge below P/2 does to the Cadence
Unit and to `CAD_GLITCH`, and the statement that rests on this.
-/
namespace Sys2Proof.Machine

/-- Away from its maximum, a fault tally counts and raises nothing (R416). -/
theorem bumpTally_of_lt {a k : Nat} {x : Site} {s : State} (h : ctr s a < 0xFFFFFFFE) :
    bumpTally a k x s = setCtr a (ctr s a + 1) s := by
  unfold bumpTally
  dsimp only
  rw [if_neg (by omega), if_neg (by omega)]

theorem ctr_injPast (k : Nat) (s : State) (a : Nat) : ctr (injPast k s) a = ctr s a := rfl

/-- The patrol's reads of DRAM belong to a frame boundary: without one they find nothing. -/
theorem atBoundary_of_frameStart_eq {before s : State} (finds : List (Nat × DramFind))
    (h : s.cad.frameStart = before.cad.frameStart) : atBoundary finds before s = s := if_pos h

/-- An edge while LOCKED that arrives by P + W, with no injection armed, is taken under R18 or R19 (R21). -/
theorem execCadInEdge_of_locked {t : Nat} {s : State} (finds : List (Nat × DramFind)) (mode : s.cad.mode ≠ .master)
    (locked : s.cad.st = .locked) (unarmed : s.integ.armed = false)
    (inTime : max s.now t - s.cad.frameStart ≤ s.cad.period + lateW (tick t s)) :
    execCadInEdge t finds s = .next (atBoundary finds (tick t s) (injPast 14 (edgeLocked (tick t s)))) := by
  have noInjection := meet_unarmed (s := tick t s) unarmed 14 0xFF 0xFFFF false
  simp [execCadInEdge, noInjection, mode, locked, inTime]

/-- An edge below P/2 while LOCKED is noted as the last one seen and counted, and nothing else (R19, R830). -/
theorem edgeLocked_of_early {s : State} (early : 2 * (s.now - s.cad.frameStart) < s.cad.period)
    (room : ctr s Reg.cadGlitch < 0xFFFFFFFE) :
    edgeLocked s = setCtr Reg.cadGlitch (ctr s Reg.cadGlitch + 1) (onCad (fun c => { c with anyEdge := some s.now }) s) :=
  (if_pos early).trans (bumpTally_of_lt room)

/-- Settles O56: half of P lies within the late window, so that the edge is taken under R19; it makes no boundary, and the patrol's
finds are not met. -/
theorem glitchEdge : Obligations.GlitchEdge := by
  intro t s locked mode unarmed early room finds
  have inTime : max s.now t - s.cad.frameStart ≤ s.cad.period + lateW (tick t s) := by omega
  have taken := execCadInEdge_of_locked finds mode locked unarmed inTime
  rw [edgeLocked_of_early (s := tick t s) early room, atBoundary_of_frameStart_eq finds (by rfl)] at taken
  refine ⟨_, taken, rfl, ?_, rfl, only_of_shown ?_⟩
  · exact (ctr_injPast ..).trans (ctr_set (Nat.succ_ne_zero _))
  · simp [allBut]

end Sys2Proof.Machine
end

section
/-!
SUPPORT. The doorbell base registers of a function that has a ring (02): which branch of DOORBELL_BASE_WRITE is taken, that what this
branch stores in the registers does not depend on the instant, and the statement that rests on this.
-/
namespace Sys2Proof.Machine

theorem setFlag_tick (a i t : Nat) (s : State) : setFlag a i (tick t s) = tick t (setFlag a i s) := rfl

theorem setRsvd_tick (a t : Nat) (s : State) : setRsvd a (tick t s) = tick t (setRsvd a s) := setFlag_tick ..

theorem flagReserved_tick (a : Nat) (v : Word) (be t : Nat) (s : State) :
    flagReserved a v be (tick t s) = tick t (flagReserved a v be s) := by
  unfold flagReserved
  cases regAt a with
  | none => rfl
  | some r => simp only [setRsvd_tick, apply_ite (tick t)]

/-- With a ring created, a write to a doorbell base register stores no address: it sets `BUSY_WR`, and flags reserved bits (R73, R8). -/
theorem execDoorbellBaseWrite_of_hasRing (t : Nat) {f : Nat} (hi : Bool) (v : Word) (be : Nat) {s : State}
    (velral : s.boot.plain = false) (ring : hasRing s f = true) :
    execDoorbellBaseWrite t f hi v be s =
      .next (tick t (flagReserved (if hi then Reg.fnDbHi f else Reg.fnDbLo f) v be (setFlag (Reg.fnStatus f) 30 s))) := by
  have notPlain : ¬(tick t s).boot.plain = true := by simp [velral]
  have ringThere : hasRing (tick t s) f = true := ring
  unfold execDoorbellBaseWrite
  rw [if_neg notPlain, if_pos ringThere, setFlag_tick, flagReserved_tick]

/-- Settles O57: the ring turns the write away, and bringing the timebase forward leaves the registers. -/
theorem doorbellBaseBusy : Obligations.DoorbellBaseBusy := by
  intro t f be hi v s velral ring
  refine ⟨_, execDoorbellBaseWrite_of_hasRing t hi v be velral ring, tick_regs .., only_of_shown ?_⟩
  simp [allBut]

end Sys2Proof.Machine
end

section
/-!
SUPPORT. PAGE_PROGRAM of a unit that is not erased (17): how the port admits the command, which branch it then takes, and the
statement that rests on this.
-/
namespace Sys2Proof.Machine

/-- PAGE_PROGRAM does not come from port 0, the host's port PTH (R682). -/
theorem ne_zero_of_pageProgram_allowed {p : Nat} (allowed : portAllowed 0x10 p = true) : p ≠ 0 := by
  rintro rfl
  simp [portAllowed] at allowed

/-- An admitted PAGE_PROGRAM uses one unlock of its port (R681), and neither BRACE nor a parameter command holds it back (R683, R701). -/
theorem portGate_of_pageProgram_admitted {p : Nat} {s : State} (allowed : portAllowed 0x10 p = true)
    (unlocked : admitted s p 1 = true) :
    portGate 0x10 p s = (none, onPort p (fun q => { q with keys := q.keys.drop 1 }) s) :=
  gate_open allowed unlocked (fun zero => absurd zero (ne_zero_of_pageProgram_allowed allowed)) rfl

/-- An admitted PAGE_PROGRAM that names a unit which is not erased is refused as an invalid argument: it uses its unlock and ends
with code 2 (R673, R683). -/
theorem execPageProgram_of_programmed {t p sector page : Nat} {units : List (Nat × List Byte)} {s : State}
    (allowed : portAllowed 0x10 p = true) (unlocked : admitted (tick t s) p 1 = true)
    (programmed : ∃ x ∈ units, tget (unitNo sector page x.1) s.pith.units ≠ none) :
    execPageProgram t p sector page units s =
      .next (portResult p 2 (onPort p (fun q => { q with keys := q.keys.drop 1 }) (tick t s))) := by
  obtain ⟨x, named, notErased⟩ := programmed
  have found : (units.any fun u =>
      decide (u.1 ≥ 8) || (tget (unitNo sector page u.1) s.pith.units).isSome) = true :=
    List.any_eq_true.mpr ⟨x, named, by simp [Option.isSome_iff_ne_none.mpr notErased]⟩
  unfold execPageProgram
  simp only [portGate_of_pageProgram_admitted allowed unlocked]
  exact if_pos (.inr (.inr found))

/-- Settles O59: of the Pith Array the refusal changes only the port, whose result is code 2. -/
theorem unitProgrammedOnce : Obligations.UnitProgrammedOnce := by
  intro t p sec page us s allowed unlocked programmed
  refine ⟨_, execPageProgram_of_programmed allowed unlocked programmed, ?_, ?_, rfl, rfl, rfl⟩
  · exact congrArg PPort.code (port_onPort ..)
  · exact congrArg PPort.done (port_onPort ..)

end Sys2Proof.Machine
end

section
/-!
SUPPORT. A lifecycle command while busy (19): the write of `LCS_CMD` that each command is, when R736 makes it busy, what the
refusal with code 3 changes, and the statement that rests on this.
-/
namespace Sys2Proof.Machine

/-- The lifecycle commands other than CHALLENGE, issued at `t`, each with its OP (R734). -/
def lcsCommandsAt (t : Nat) : List (Instr × Nat) :=
  [(.lcsPrepare t, 1), (.lcsProvision t, 2), (.lcsSeal t, 3), (.lcsVaultEnter t, 4), (.lcsReturn t, 5), (.lcsScrap t, 6)]

/-- Each of these commands is the write of its OP to `LCS_CMD`. -/
theorem exec_of_mem_lcsCommandsAt {t op : Nat} {c : Instr} (s : State) (command : (c, op) ∈ lcsCommandsAt t) :
    exec c s = .next (lcsCmdWrite op (tick t s)) := by
  simp only [lcsCommandsAt, List.mem_cons, List.not_mem_nil, or_false, Prod.mk.injEq] at command
  obtain ⟨rfl, rfl⟩ | ⟨rfl, rfl⟩ | ⟨rfl, rfl⟩ | ⟨rfl, rfl⟩ | ⟨rfl, rfl⟩ | ⟨rfl, rfl⟩ := command <;> rfl

/-- OP 7 is CHALLENGE. -/
theorem ne_seven_of_mem_lcsCommandsAt {t op : Nat} {c : Instr} (command : (c, op) ∈ lcsCommandsAt t) : op ≠ 7 := by
  rintro rfl
  simp [lcsCommandsAt] at command

/-- What makes a lifecycle command busy (R736). A CHALLENGE that waits for the random generator is a command in progress too. -/
theorem lcsBusy_iff {s : State} {op : Nat} :
    lcsBusy s op = true ↔ op ≠ 7 ∧ (s.brc.active = true ∨ s.life.busy = true ∨ s.life.chal = true
      ∨ ((op = 5 ∨ op = 6) ∧ (s.rge.flights ≠ [] ∨ s.cmd.nvme.held ≠ [] ∨ s.dsp.runs ≠ []))) := by
  simp [lcsBusy, or_assoc]

theorem lcsBusy_tick (t : Nat) (s : State) (op : Nat) : lcsBusy (tick t s) op = lcsBusy s op := rfl

/-- A busy command that codes 1 and 4 do not stop ends with code 3, where `LCS_CTRL.LOCK` does not turn it away (R833, R736, R758). -/
theorem lcsCmdWrite_of_busy {t op : Nat} {s : State} (unlocked : flagOf s Reg.lcsCtrl 31 = false)
    (listed : lcsListed s op = true) (prepared : op = 2 → s.life.prepared = true)
    (confirmed : lcsConfirmValue op = none ∨ s.life.confirm = lcsConfirmValue op) (busy : lcsBusy s op = true) :
    lcsCmdWrite op (tick t s) = lcsStop 3 (onLife (fun l => { l with confirm := none }) (tick t s)) :=
  (lcs_tick op t s unlocked).trans (lcs_three listed prepared confirmed ((lcsBusy_tick ..).trans busy))

/-- Settles O58: the busy command is refused with code 3, and the refusal changes the lifecycle part alone. -/
theorem lifecycleBusy : Obligations.LifecycleBusy := by
  intro t op c s command unlocked listed prepared confirmed cause
  have busy : lcsBusy s op = true := by
    refine lcsBusy_iff.mpr ⟨ne_seven_of_mem_lcsCommandsAt command, ?_⟩
    obtain brace | inProgress | atWork := cause
    · exact .inl brace
    · exact .inr (.inl inProgress)
    · exact .inr (.inr (.inr atWork))
  have refused := exec_of_mem_lcsCommandsAt s command
  rw [lcsCmdWrite_of_busy unlocked listed prepared confirmed busy] at refused
  refine ⟨_, refused, rfl, only_of_shown ?_⟩
  simp [allBut]

end Sys2Proof.Machine
end

section
/-!
SUPPORT. Every command as a whole: that it answers a next state, at which instant, what it leaves unchanged and that it keeps what is safe,
each put together from the lemmas about the 266 meanings; and the statements about every step that rest on this.
-/
namespace Sys2Proof.Machine

/-- A command shows the parts that its list of changes does not name as they were. -/
theorem exec_shown {kp : Area → Bool} (c : Instr) (s s0 : State) (hk : Off kp (changes c)) :
    shown kp (after (exec c s) s0) = shown kp s := by
  cases c with
  | powerOn => exact execPowerOn_shown (hk := hk) ..
  | resetNAssert => exact execResetNAssert_shown (hk := hk) ..
  | bootWatchdog => exact execBootWatchdog_shown (hk := hk) ..
  | perstAssert => exact execPerstAssert_shown (hk := hk) ..
  | linkReset => exact execLinkReset_shown (hk := hk) ..
  | configReady => exact execConfigReady_shown (hk := hk) ..
  | configRequest => exact execConfigRequest_shown (hk := hk) ..
  | replayComplete => exact execReplayComplete_shown (hk := hk) ..
  | cadInEdge => exact execCadInEdge_shown (hk := hk) ..
  | unitFrameBoundary => exact execUnitFrameBoundary_shown (hk := hk) ..
  | lateWindowExpiry => exact execLateWindowExpiry_shown (hk := hk) ..
  | edgesAbsent => exact execEdgesAbsent_shown (hk := hk) ..
  | holdoverLimit => exact execHoldoverLimit_shown (hk := hk) ..
  | cadOutPulseEnd => exact execCadOutPulseEnd_shown (hk := hk) ..
  | frameExhausted => exact execFrameExhausted_shown (hk := hk) ..
  | cadenceRecordDue => exact execCadenceRecordDue_shown (hk := hk) ..
  | ppsCapture => exact execPpsCapture_shown (hk := hk) ..
  | odoPulse => exact execOdoPulse_shown (hk := hk) ..
  | incidentEdge => exact execIncidentEdge_shown (hk := hk) ..
  | fenceEnd => exact execFenceEnd_shown (hk := hk) ..
  | cadSnapNow => exact execCadSnapNow_shown (hk := hk) ..
  | functionEnable => exact execFunctionEnable_shown (hk := hk) ..
  | functionDisable => exact execFunctionDisable_shown (hk := hk) ..
  | quotaWrite => exact execQuotaWrite_shown (hk := hk) ..
  | ringCreate => exact execRingCreate_shown (hk := hk) ..
  | ringDelete => exact execRingDelete_shown (hk := hk) ..
  | ringDeleteDone => exact execRingDeleteDone_shown (hk := hk) ..
  | ringQuery => exact execRingQuery_shown (hk := hk) ..
  | doorbellBaseWrite => exact execDoorbellBaseWrite_shown (hk := hk) ..
  | pipSubmissionTail => exact execPipSubmissionTail_shown (hk := hk) ..
  | pipCompletionHead => exact execPipCompletionHead_shown (hk := hk) ..
  | sweep => exact execSweep_shown (hk := hk) ..
  | descriptorFetch => exact execDescriptorFetch_shown (hk := hk) ..
  | ringStoppedNotice => exact execRingStoppedNotice_shown (hk := hk) ..
  | noticeWriteHeld => exact execNoticeWriteHeld_shown (hk := hk) ..
  | coalesceTimer => exact execCoalesceTimer_shown (hk := hk) ..
  | functionLevelReset => exact execFunctionLevelReset_shown (hk := hk) ..
  | sriovVfChange => exact execSriovVfChange_shown (hk := hk) ..
  | functionResetDone => exact execFunctionResetDone_shown (hk := hk) ..
  | fnSnapNow => exact execFnSnapNow_shown (hk := hk) ..
  | identify => exact execIdentify_shown (hk := hk) ..
  | nsCreate => exact execNsCreate_shown (hk := hk) ..
  | nsDelete => exact execNsDelete_shown (hk := hk) ..
  | streamCreate => exact execStreamCreate_shown (hk := hk) ..
  | streamDelete => exact execStreamDelete_shown (hk := hk) ..
  | streamQuery => exact execStreamQuery_shown (hk := hk) ..
  | getLog => exact execGetLog_shown (hk := hk) ..
  | abortCmd => exact execAbortCmd_shown (hk := hk) ..
  | fenceRelease => exact execFenceRelease_shown (hk := hk) ..
  | progLoad => exact execProgLoad_shown (hk := hk) ..
  | progUnload => exact execProgUnload_shown (hk := hk) ..
  | fwDownload => exact execFwDownload_shown (hk := hk) ..
  | fwCommitWrite => exact execFwCommitWrite_shown (hk := hk) ..
  | fwCommitActivate => exact execFwCommitActivate_shown (hk := hk) ..
  | depotBegin => exact execDepotBegin_shown (hk := hk) ..
  | depotStop => exact execDepotStop_shown (hk := hk) ..
  | depotWindowEnd => exact execDepotWindowEnd_shown (hk := hk) ..
  | diagRead => exact execDiagRead_shown (hk := hk) ..
  | sealRec => exact execSealRec_shown (hk := hk) ..
  | sealServiceStart => exact execSealServiceStart_shown (hk := hk) ..
  | sealFold => exact execSealFold_shown (hk := hk) ..
  | recallTime => exact execRecallTime_shown (hk := hk) ..
  | recallRecord => exact execRecallRecord_shown (hk := hk) ..
  | recallRange => exact execRecallRange_shown (hk := hk) ..
  | writeBlocks => exact execWriteBlocks_shown (hk := hk) ..
  | readBlocks => exact execReadBlocks_shown (hk := hk) ..
  | deallocate => exact execDeallocate_shown (hk := hk) ..
  | lockRange => exact execLockRange_shown (hk := hk) ..
  | releaseRange => exact execReleaseRange_shown (hk := hk) ..
  | exportRange => exact execExportRange_shown (hk := hk) ..
  | progRun => exact execProgRun_shown (hk := hk) ..
  | maintPatrol => exact execMaintPatrol_shown (hk := hk) ..
  | maintCompact => exact execMaintCompact_shown (hk := hk) ..
  | maintVerify => exact execMaintVerify_shown (hk := hk) ..
  | nvmeDeleteIoSq => exact execNvmeDeleteIoSq_shown (hk := hk) ..
  | nvmeCreateIoSq => exact execNvmeCreateIoSq_shown (hk := hk) ..
  | nvmeGetLogPage => exact execNvmeGetLogPage_shown (hk := hk) ..
  | nvmeDeleteIoCq => exact execNvmeDeleteIoCq_shown (hk := hk) ..
  | nvmeCreateIoCq => exact execNvmeCreateIoCq_shown (hk := hk) ..
  | nvmeIdentify => exact execNvmeIdentify_shown (hk := hk) ..
  | nvmeAbort => exact execNvmeAbort_shown (hk := hk) ..
  | nvmeSetFeatures => exact execNvmeSetFeatures_shown (hk := hk) ..
  | nvmeGetFeatures => exact execNvmeGetFeatures_shown (hk := hk) ..
  | nvmeAsyncEventRequest => exact execNvmeAsyncEventRequest_shown (hk := hk) ..
  | nvmeFirmwareCommit => exact execNvmeFirmwareCommit_shown (hk := hk) ..
  | nvmeFwImageDownload => exact execNvmeFwImageDownload_shown (hk := hk) ..
  | nvmeFlush => exact execNvmeFlush_shown (hk := hk) ..
  | nvmeWrite => exact execNvmeWrite_shown (hk := hk) ..
  | nvmeRead => exact execNvmeRead_shown (hk := hk) ..
  | nvmeDatasetManagement => exact execNvmeDatasetManagement_shown (hk := hk) ..
  | classSFetchStall => exact execClassSFetchStall_shown (hk := hk) ..
  | clsSnapNow => exact execClsSnapNow_shown (hk := hk) ..
  | holdExpiry => exact execHoldExpiry_shown (hk := hk) ..
  | retentionNoticeDue => exact execRetentionNoticeDue_shown (hk := hk) ..
  | idxSnapNow => exact execIdxSnapNow_shown (hk := hk) ..
  | zestCompressJob => exact execZestCompressJob_shown (hk := hk) ..
  | zestDecompressJob => exact execZestDecompressJob_shown (hk := hk) ..
  | zestJobComplete => exact execZestJobComplete_shown (hk := hk) ..
  | zstSnapNow => exact execZstSnapNow_shown (hk := hk) ..
  | stoneDrain => exact execStoneDrain_shown (hk := hk) ..
  | recordDrainComplete => exact execRecordDrainComplete_shown (hk := hk) ..
  | partialUnitTimeout => exact execPartialUnitTimeout_shown (hk := hk) ..
  | slcMove => exact execSlcMove_shown (hk := hk) ..
  | mapCheckpoint => exact execMapCheckpoint_shown (hk := hk) ..
  | garbageCollection => exact execGarbageCollection_shown (hk := hk) ..
  | wearMove => exact execWearMove_shown (hk := hk) ..
  | patrolPassEnd => exact execPatrolPassEnd_shown (hk := hk) ..
  | retentionRefresh => exact execRetentionRefresh_shown (hk := hk) ..
  | ageRefresh => exact execAgeRefresh_shown (hk := hk) ..
  | maintTokenHandoff => exact execMaintTokenHandoff_shown (hk := hk) ..
  | medSnapNow => exact execMedSnapNow_shown (hk := hk) ..
  | channelRetrain => exact execChannelRetrain_shown (hk := hk) ..
  | windowDecision => exact execWindowDecision_shown (hk := hk) ..
  | windowClose => exact execWindowClose_shown (hk := hk) ..
  | protectedStretchEnd => exact execProtectedStretchEnd_shown (hk := hk) ..
  | eraseIssue => exact execEraseIssue_shown (hk := hk) ..
  | nandEraseComplete => exact execNandEraseComplete_shown (hk := hk) ..
  | nandProgramComplete => exact execNandProgramComplete_shown (hk := hk) ..
  | nandReadComplete => exact execNandReadComplete_shown (hk := hk) ..
  | nandOpTimeout => exact execNandOpTimeout_shown (hk := hk) ..
  | flwSnapNow => exact execFlwSnapNow_shown (hk := hk) ..
  | detectorHoldoffEnd => exact execDetectorHoldoffEnd_shown (hk := hk) ..
  | injectionArm => exact execInjectionArm_shown (hk := hk) ..
  | injectionDisarm => exact execInjectionDisarm_shown (hk := hk) ..
  | bypassOpen => exact execBypassOpen_shown (hk := hk) ..
  | bypassWindowEnd => exact execBypassWindowEnd_shown (hk := hk) ..
  | intSnapNow => exact execIntSnapNow_shown (hk := hk) ..
  | sramScrub => exact execSramScrub_shown (hk := hk) ..
  | healthSave => exact execHealthSave_shown (hk := hk) ..
  | fabricTimeout => exact execFabricTimeout_shown (hk := hk) ..
  | heartbeatMiss => exact execHeartbeatMiss_shown (hk := hk) ..
  | hostReadTimeout => exact execHostReadTimeout_shown (hk := hk) ..
  | powerWarning => exact execPowerWarning_shown (hk := hk) ..
  | braceFlushComplete => exact execBraceFlushComplete_shown (hk := hk) ..
  | exitWaitRestart => exact execExitWaitRestart_shown (hk := hk) ..
  | braceExit => exact execBraceExit_shown (hk := hk) ..
  | brcSnapNow => exact execBrcSnapNow_shown (hk := hk) ..
  | cryptoInit => exact execCryptoInit_shown (hk := hk) ..
  | cryptoUpdate => exact execCryptoUpdate_shown (hk := hk) ..
  | cryptoFinal => exact execCryptoFinal_shown (hk := hk) ..
  | cryptoFree => exact execCryptoFree_shown (hk := hk) ..
  | cryptoOneshot => exact execCryptoOneshot_shown (hk := hk) ..
  | cryptoChainCheck => exact execCryptoChainCheck_shown (hk := hk) ..
  | cryptoRandom => exact execCryptoRandom_shown (hk := hk) ..
  | gcmHoldGrant => exact execGcmHoldGrant_shown (hk := hk) ..
  | cryptoJobComplete => exact execCryptoJobComplete_shown (hk := hk) ..
  | tamperAlarm => exact execTamperAlarm_shown (hk := hk) ..
  | keyRederive => exact execKeyRederive_shown (hk := hk) ..
  | rngHealthFail => exact execRngHealthFail_shown (hk := hk) ..
  | rngRecovered => exact execRngRecovered_shown (hk := hk) ..
  | drbgReseed => exact execDrbgReseed_shown (hk := hk) ..
  | exportKeySet => exact execExportKeySet_shown (hk := hk) ..
  | exportKeyClear => exact execExportKeyClear_shown (hk := hk) ..
  | cryCtrlWrite => exact execCryCtrlWrite_shown (hk := hk) ..
  | crySnapNow => exact execCrySnapNow_shown (hk := hk) ..
  | spdmGetVersion => exact execSpdmGetVersion_shown (hk := hk) ..
  | spdmGetCapabilities => exact execSpdmGetCapabilities_shown (hk := hk) ..
  | spdmNegotiateAlgorithms => exact execSpdmNegotiateAlgorithms_shown (hk := hk) ..
  | spdmGetDigests => exact execSpdmGetDigests_shown (hk := hk) ..
  | spdmGetCertificate => exact execSpdmGetCertificate_shown (hk := hk) ..
  | spdmChallenge => exact execSpdmChallenge_shown (hk := hk) ..
  | spdmGetMeasurements => exact execSpdmGetMeasurements_shown (hk := hk) ..
  | bundleIssue => exact execBundleIssue_shown (hk := hk) ..
  | repPass => exact execRepPass_shown (hk := hk) ..
  | budgetException => exact execBudgetException_shown (hk := hk) ..
  | eventException => exact execEventException_shown (hk := hk) ..
  | coreClockGate => exact execCoreClockGate_shown (hk := hk) ..
  | getDeliver => exact execGetDeliver_shown (hk := hk) ..
  | dispatcherPost => exact execDispatcherPost_shown (hk := hk) ..
  | dispatcherDone => exact execDispatcherDone_shown (hk := hk) ..
  | runExit => exact execRunExit_shown (hk := hk) ..
  | delayRelease => exact execDelayRelease_shown (hk := hk) ..
  | runStart => exact execRunStart_shown (hk := hk) ..
  | dspfHwWrite => exact execDspfHwWrite_shown (hk := hk) ..
  | dspSnapNow => exact execDspSnapNow_shown (hk := hk) ..
  | dramZeroFill => exact execDramZeroFill_shown (hk := hk) ..
  | dramZqCalibration => exact execDramZqCalibration_shown (hk := hk) ..
  | dramRecentre => exact execDramRecentre_shown (hk := hk) ..
  | dramRefresh => exact execDramRefresh_shown (hk := hk) ..
  | dramRfm => exact execDramRfm_shown (hk := hk) ..
  | neighbourRefresh => exact execNeighbourRefresh_shown (hk := hk) ..
  | ratWindowClear => exact execRatWindowClear_shown (hk := hk) ..
  | dmCopy => exact execDmCopy_shown (hk := hk) ..
  | dmHostRead => exact execDmHostRead_shown (hk := hk) ..
  | dmHostWrite => exact execDmHostWrite_shown (hk := hk) ..
  | dmRecordRead => exact execDmRecordRead_shown (hk := hk) ..
  | dmFill => exact execDmFill_shown (hk := hk) ..
  | dmDescriptorComplete => exact execDmDescriptorComplete_shown (hk := hk) ..
  | dmResume => exact execDmResume_shown (hk := hk) ..
  | dmAbandon => exact execDmAbandon_shown (hk := hk) ..
  | drmSnapNow => exact execDrmSnapNow_shown (hk := hk) ..
  | dmvSnapNow => exact execDmvSnapNow_shown (hk := hk) ..
  | pthKeyWrite => exact execPthKeyWrite_shown (hk := hk) ..
  | pithUnlockTimeout => exact execPithUnlockTimeout_shown (hk := hk) ..
  | pageProgram => exact execPageProgram_shown (hk := hk) ..
  | sectorErase => exact execSectorErase_shown (hk := hk) ..
  | eraseSuspend => exact execEraseSuspend_shown (hk := hk) ..
  | eraseResume => exact execEraseResume_shown (hk := hk) ..
  | blankCheck => exact execBlankCheck_shown (hk := hk) ..
  | paramPut => exact execParamPut_shown (hk := hk) ..
  | paramDelete => exact execParamDelete_shown (hk := hk) ..
  | paramGet => exact execParamGet_shown (hk := hk) ..
  | pithEraseComplete => exact execPithEraseComplete_shown (hk := hk) ..
  | pithProgramComplete => exact execPithProgramComplete_shown (hk := hk) ..
  | journalProgram => exact execJournalProgram_shown (hk := hk) ..
  | newEpoch => exact execNewEpoch_shown (hk := hk) ..
  | pthSnapNow => exact execPthSnapNow_shown (hk := hk) ..
  | governorDecision => exact execGovernorDecision_shown (hk := hk) ..
  | vregSettled => exact execVregSettled_shown (hk := hk) ..
  | vregSettleTimeout => exact execVregSettleTimeout_shown (hk := hk) ..
  | segmentSleepEntry => exact execSegmentSleepEntry_shown (hk := hk) ..
  | rindSleepEntry => exact execRindSleepEntry_shown (hk := hk) ..
  | domainWake => exact execDomainWake_shown (hk := hk) ..
  | wakeComplete => exact execWakeComplete_shown (hk := hk) ..
  | tempSample => exact execTempSample_shown (hk := hk) ..
  | throttleStep => exact execThrottleStep_shown (hk := hk) ..
  | thermalShedBegin => exact execThermalShedBegin_shown (hk := hk) ..
  | thermalShedEnd => exact execThermalShedEnd_shown (hk := hk) ..
  | pwmSnapNow => exact execPwmSnapNow_shown (hk := hk) ..
  | lcsPrepare => exact execLcsPrepare_shown (hk := hk) ..
  | lcsProvision => exact execLcsProvision_shown (hk := hk) ..
  | lcsSeal => exact execLcsSeal_shown (hk := hk) ..
  | lcsVaultEnter => exact execLcsVaultEnter_shown (hk := hk) ..
  | lcsReturn => exact execLcsReturn_shown (hk := hk) ..
  | lcsScrap => exact execLcsScrap_shown (hk := hk) ..
  | lcsChallenge => exact execLcsChallenge_shown (hk := hk) ..
  | lcsSnapNow => exact execLcsSnapNow_shown (hk := hk) ..
  | jtagExtest => exact execJtagExtest_shown (hk := hk) ..
  | jtagSamplePreload => exact execJtagSamplePreload_shown (hk := hk) ..
  | jtagIdcode => exact execJtagIdcode_shown (hk := hk) ..
  | jtagBypass => exact execJtagBypass_shown (hk := hk) ..
  | dbgStatus => exact execDbgStatus_shown (hk := hk) ..
  | dbgChal => exact execDbgChal_shown (hk := hk) ..
  | dbgGrant => exact execDbgGrant_shown (hk := hk) ..
  | dbgOpen => exact execDbgOpen_shown (hk := hk) ..
  | dbgClose => exact execDbgClose_shown (hk := hk) ..
  | tapReset => exact execTapReset_shown (hk := hk) ..
  | dapRead => exact execDapRead_shown (hk := hk) ..
  | dapWrite => exact execDapWrite_shown (hk := hk) ..
  | dapHalt => exact execDapHalt_shown (hk := hk) ..
  | dapResume => exact execDapResume_shown (hk := hk) ..
  | dapSingleStep => exact execDapSingleStep_shown (hk := hk) ..
  | dapSetSstep => exact execDapSetSstep_shown (hk := hk) ..
  | dapClearSstep => exact execDapClearSstep_shown (hk := hk) ..
  | smbStatusByte => exact execSmbStatusByte_shown (hk := hk) ..
  | smbModes => exact execSmbModes_shown (hk := hk) ..
  | smbCrit => exact execSmbCrit_shown (hk := hk) ..
  | smbSensorTemp => exact execSmbSensorTemp_shown (hk := hk) ..
  | smbTempNow => exact execSmbTempNow_shown (hk := hk) ..
  | smbHealthBlock => exact execSmbHealthBlock_shown (hk := hk) ..
  | smbBraceSummary => exact execSmbBraceSummary_shown (hk := hk) ..
  | smbSerial => exact execSmbSerial_shown (hk := hk) ..
  | smbAlertResponse => exact execSmbAlertResponse_shown (hk := hk) ..
  | smbClockTimeout => exact execSmbClockTimeout_shown (hk := hk) ..
  | blockLock => exact execBlockLock_shown (hk := hk) ..
  | registerWrite => exact execRegisterWrite_shown (hk := hk) ..
  | powerLoss => exact execPowerLoss_shown (hk := hk) ..
  | resetNRelease => exact execResetNRelease_shown (hk := hk) ..
  | perstRelease => exact execPerstRelease_shown (hk := hk) ..
  | linkStateChange => exact execLinkStateChange_shown (hk := hk) ..
  | hostReadCompletion => exact execHostReadCompletion_shown (hk := hk) ..
  | flitCrcError => exact execFlitCrcError_shown (hk := hk) ..
  | exitWaitStart => exact execExitWaitStart_shown (hk := hk) ..
  | windowOpen => exact execWindowOpen_shown (hk := hk) ..
  | vppPithRangeChange => exact execVppPithRangeChange_shown (hk := hk) ..
  | monitorOscillatorCheck => exact execMonitorOscillatorCheck_shown (hk := hk) ..

/-- A command takes the timebase to its own instant, as `tick` does. -/
theorem exec_now (c : Instr) (s s0 : State) : shown (one .now) (after (exec c s) s0) = shown (one .now) (tick (timeOf c) s) := by
  cases c with
  | powerOn => exact execPowerOn_now ..
  | resetNAssert => exact execResetNAssert_now ..
  | bootWatchdog => exact execBootWatchdog_now ..
  | perstAssert => exact execPerstAssert_now ..
  | linkReset => exact execLinkReset_now ..
  | configReady => exact execConfigReady_now ..
  | configRequest => exact execConfigRequest_now ..
  | replayComplete => exact execReplayComplete_now ..
  | cadInEdge => exact execCadInEdge_now ..
  | unitFrameBoundary => exact execUnitFrameBoundary_now ..
  | lateWindowExpiry => exact execLateWindowExpiry_now ..
  | edgesAbsent => exact execEdgesAbsent_now ..
  | holdoverLimit => exact execHoldoverLimit_now ..
  | cadOutPulseEnd => exact execCadOutPulseEnd_now ..
  | frameExhausted => exact execFrameExhausted_now ..
  | cadenceRecordDue => exact execCadenceRecordDue_now ..
  | ppsCapture => exact execPpsCapture_now ..
  | odoPulse => exact execOdoPulse_now ..
  | incidentEdge => exact execIncidentEdge_now ..
  | fenceEnd => exact execFenceEnd_now ..
  | cadSnapNow => exact execCadSnapNow_now ..
  | functionEnable => exact execFunctionEnable_now ..
  | functionDisable => exact execFunctionDisable_now ..
  | quotaWrite => exact execQuotaWrite_now ..
  | ringCreate => exact execRingCreate_now ..
  | ringDelete => exact execRingDelete_now ..
  | ringDeleteDone => exact execRingDeleteDone_now ..
  | ringQuery => exact execRingQuery_now ..
  | doorbellBaseWrite => exact execDoorbellBaseWrite_now ..
  | pipSubmissionTail => exact execPipSubmissionTail_now ..
  | pipCompletionHead => exact execPipCompletionHead_now ..
  | sweep => exact execSweep_now ..
  | descriptorFetch => exact execDescriptorFetch_now ..
  | ringStoppedNotice => exact execRingStoppedNotice_now ..
  | noticeWriteHeld => exact execNoticeWriteHeld_now ..
  | coalesceTimer => exact execCoalesceTimer_now ..
  | functionLevelReset => exact execFunctionLevelReset_now ..
  | sriovVfChange => exact execSriovVfChange_now ..
  | functionResetDone => exact execFunctionResetDone_now ..
  | fnSnapNow => exact execFnSnapNow_now ..
  | identify => exact execIdentify_now ..
  | nsCreate => exact execNsCreate_now ..
  | nsDelete => exact execNsDelete_now ..
  | streamCreate => exact execStreamCreate_now ..
  | streamDelete => exact execStreamDelete_now ..
  | streamQuery => exact execStreamQuery_now ..
  | getLog => exact execGetLog_now ..
  | abortCmd => exact execAbortCmd_now ..
  | fenceRelease => exact execFenceRelease_now ..
  | progLoad => exact execProgLoad_now ..
  | progUnload => exact execProgUnload_now ..
  | fwDownload => exact execFwDownload_now ..
  | fwCommitWrite => exact execFwCommitWrite_now ..
  | fwCommitActivate => exact execFwCommitActivate_now ..
  | depotBegin => exact execDepotBegin_now ..
  | depotStop => exact execDepotStop_now ..
  | depotWindowEnd => exact execDepotWindowEnd_now ..
  | diagRead => exact execDiagRead_now ..
  | sealRec => exact execSealRec_now ..
  | sealServiceStart => exact execSealServiceStart_now ..
  | sealFold => exact execSealFold_now ..
  | recallTime => exact execRecallTime_now ..
  | recallRecord => exact execRecallRecord_now ..
  | recallRange => exact execRecallRange_now ..
  | writeBlocks => exact execWriteBlocks_now ..
  | readBlocks => exact execReadBlocks_now ..
  | deallocate => exact execDeallocate_now ..
  | lockRange => exact execLockRange_now ..
  | releaseRange => exact execReleaseRange_now ..
  | exportRange => exact execExportRange_now ..
  | progRun => exact execProgRun_now ..
  | maintPatrol => exact execMaintPatrol_now ..
  | maintCompact => exact execMaintCompact_now ..
  | maintVerify => exact execMaintVerify_now ..
  | nvmeDeleteIoSq => exact execNvmeDeleteIoSq_now ..
  | nvmeCreateIoSq => exact execNvmeCreateIoSq_now ..
  | nvmeGetLogPage => exact execNvmeGetLogPage_now ..
  | nvmeDeleteIoCq => exact execNvmeDeleteIoCq_now ..
  | nvmeCreateIoCq => exact execNvmeCreateIoCq_now ..
  | nvmeIdentify => exact execNvmeIdentify_now ..
  | nvmeAbort => exact execNvmeAbort_now ..
  | nvmeSetFeatures => exact execNvmeSetFeatures_now ..
  | nvmeGetFeatures => exact execNvmeGetFeatures_now ..
  | nvmeAsyncEventRequest => exact execNvmeAsyncEventRequest_now ..
  | nvmeFirmwareCommit => exact execNvmeFirmwareCommit_now ..
  | nvmeFwImageDownload => exact execNvmeFwImageDownload_now ..
  | nvmeFlush => exact execNvmeFlush_now ..
  | nvmeWrite => exact execNvmeWrite_now ..
  | nvmeRead => exact execNvmeRead_now ..
  | nvmeDatasetManagement => exact execNvmeDatasetManagement_now ..
  | classSFetchStall => exact execClassSFetchStall_now ..
  | clsSnapNow => exact execClsSnapNow_now ..
  | holdExpiry => exact execHoldExpiry_now ..
  | retentionNoticeDue => exact execRetentionNoticeDue_now ..
  | idxSnapNow => exact execIdxSnapNow_now ..
  | zestCompressJob => exact execZestCompressJob_now ..
  | zestDecompressJob => exact execZestDecompressJob_now ..
  | zestJobComplete => exact execZestJobComplete_now ..
  | zstSnapNow => exact execZstSnapNow_now ..
  | stoneDrain => exact execStoneDrain_now ..
  | recordDrainComplete => exact execRecordDrainComplete_now ..
  | partialUnitTimeout => exact execPartialUnitTimeout_now ..
  | slcMove => exact execSlcMove_now ..
  | mapCheckpoint => exact execMapCheckpoint_now ..
  | garbageCollection => exact execGarbageCollection_now ..
  | wearMove => exact execWearMove_now ..
  | patrolPassEnd => exact execPatrolPassEnd_now ..
  | retentionRefresh => exact execRetentionRefresh_now ..
  | ageRefresh => exact execAgeRefresh_now ..
  | maintTokenHandoff => exact execMaintTokenHandoff_now ..
  | medSnapNow => exact execMedSnapNow_now ..
  | channelRetrain => exact execChannelRetrain_now ..
  | windowDecision => exact execWindowDecision_now ..
  | windowClose => exact execWindowClose_now ..
  | protectedStretchEnd => exact execProtectedStretchEnd_now ..
  | eraseIssue => exact execEraseIssue_now ..
  | nandEraseComplete => exact execNandEraseComplete_now ..
  | nandProgramComplete => exact execNandProgramComplete_now ..
  | nandReadComplete => exact execNandReadComplete_now ..
  | nandOpTimeout => exact execNandOpTimeout_now ..
  | flwSnapNow => exact execFlwSnapNow_now ..
  | detectorHoldoffEnd => exact execDetectorHoldoffEnd_now ..
  | injectionArm => exact execInjectionArm_now ..
  | injectionDisarm => exact execInjectionDisarm_now ..
  | bypassOpen => exact execBypassOpen_now ..
  | bypassWindowEnd => exact execBypassWindowEnd_now ..
  | intSnapNow => exact execIntSnapNow_now ..
  | sramScrub => exact execSramScrub_now ..
  | healthSave => exact execHealthSave_now ..
  | fabricTimeout => exact execFabricTimeout_now ..
  | heartbeatMiss => exact execHeartbeatMiss_now ..
  | hostReadTimeout => exact execHostReadTimeout_now ..
  | powerWarning => exact execPowerWarning_now ..
  | braceFlushComplete => exact execBraceFlushComplete_now ..
  | exitWaitRestart => exact execExitWaitRestart_now ..
  | braceExit => exact execBraceExit_now ..
  | brcSnapNow => exact execBrcSnapNow_now ..
  | cryptoInit => exact execCryptoInit_now ..
  | cryptoUpdate => exact execCryptoUpdate_now ..
  | cryptoFinal => exact execCryptoFinal_now ..
  | cryptoFree => exact execCryptoFree_now ..
  | cryptoOneshot => exact execCryptoOneshot_now ..
  | cryptoChainCheck => exact execCryptoChainCheck_now ..
  | cryptoRandom => exact execCryptoRandom_now ..
  | gcmHoldGrant => exact execGcmHoldGrant_now ..
  | cryptoJobComplete => exact execCryptoJobComplete_now ..
  | tamperAlarm => exact execTamperAlarm_now ..
  | keyRederive => exact execKeyRederive_now ..
  | rngHealthFail => exact execRngHealthFail_now ..
  | rngRecovered => exact execRngRecovered_now ..
  | drbgReseed => exact execDrbgReseed_now ..
  | exportKeySet => exact execExportKeySet_now ..
  | exportKeyClear => exact execExportKeyClear_now ..
  | cryCtrlWrite => exact execCryCtrlWrite_now ..
  | crySnapNow => exact execCrySnapNow_now ..
  | spdmGetVersion => exact execSpdmGetVersion_now ..
  | spdmGetCapabilities => exact execSpdmGetCapabilities_now ..
  | spdmNegotiateAlgorithms => exact execSpdmNegotiateAlgorithms_now ..
  | spdmGetDigests => exact execSpdmGetDigests_now ..
  | spdmGetCertificate => exact execSpdmGetCertificate_now ..
  | spdmChallenge => exact execSpdmChallenge_now ..
  | spdmGetMeasurements => exact execSpdmGetMeasurements_now ..
  | bundleIssue => exact execBundleIssue_now ..
  | repPass => exact execRepPass_now ..
  | budgetException => exact execBudgetException_now ..
  | eventException => exact execEventException_now ..
  | coreClockGate => exact execCoreClockGate_now ..
  | getDeliver => exact execGetDeliver_now ..
  | dispatcherPost => exact execDispatcherPost_now ..
  | dispatcherDone => exact execDispatcherDone_now ..
  | runExit => exact execRunExit_now ..
  | delayRelease => exact execDelayRelease_now ..
  | runStart => exact execRunStart_now ..
  | dspfHwWrite => exact execDspfHwWrite_now ..
  | dspSnapNow => exact execDspSnapNow_now ..
  | dramZeroFill => exact execDramZeroFill_now ..
  | dramZqCalibration => exact execDramZqCalibration_now ..
  | dramRecentre => exact execDramRecentre_now ..
  | dramRefresh => exact execDramRefresh_now ..
  | dramRfm => exact execDramRfm_now ..
  | neighbourRefresh => exact execNeighbourRefresh_now ..
  | ratWindowClear => exact execRatWindowClear_now ..
  | dmCopy => exact execDmCopy_now ..
  | dmHostRead => exact execDmHostRead_now ..
  | dmHostWrite => exact execDmHostWrite_now ..
  | dmRecordRead => exact execDmRecordRead_now ..
  | dmFill => exact execDmFill_now ..
  | dmDescriptorComplete => exact execDmDescriptorComplete_now ..
  | dmResume => exact execDmResume_now ..
  | dmAbandon => exact execDmAbandon_now ..
  | drmSnapNow => exact execDrmSnapNow_now ..
  | dmvSnapNow => exact execDmvSnapNow_now ..
  | pthKeyWrite => exact execPthKeyWrite_now ..
  | pithUnlockTimeout => exact execPithUnlockTimeout_now ..
  | pageProgram => exact execPageProgram_now ..
  | sectorErase => exact execSectorErase_now ..
  | eraseSuspend => exact execEraseSuspend_now ..
  | eraseResume => exact execEraseResume_now ..
  | blankCheck => exact execBlankCheck_now ..
  | paramPut => exact execParamPut_now ..
  | paramDelete => exact execParamDelete_now ..
  | paramGet => exact execParamGet_now ..
  | pithEraseComplete => exact execPithEraseComplete_now ..
  | pithProgramComplete => exact execPithProgramComplete_now ..
  | journalProgram => exact execJournalProgram_now ..
  | newEpoch => exact execNewEpoch_now ..
  | pthSnapNow => exact execPthSnapNow_now ..
  | governorDecision => exact execGovernorDecision_now ..
  | vregSettled => exact execVregSettled_now ..
  | vregSettleTimeout => exact execVregSettleTimeout_now ..
  | segmentSleepEntry => exact execSegmentSleepEntry_now ..
  | rindSleepEntry => exact execRindSleepEntry_now ..
  | domainWake => exact execDomainWake_now ..
  | wakeComplete => exact execWakeComplete_now ..
  | tempSample => exact execTempSample_now ..
  | throttleStep => exact execThrottleStep_now ..
  | thermalShedBegin => exact execThermalShedBegin_now ..
  | thermalShedEnd => exact execThermalShedEnd_now ..
  | pwmSnapNow => exact execPwmSnapNow_now ..
  | lcsPrepare => exact execLcsPrepare_now ..
  | lcsProvision => exact execLcsProvision_now ..
  | lcsSeal => exact execLcsSeal_now ..
  | lcsVaultEnter => exact execLcsVaultEnter_now ..
  | lcsReturn => exact execLcsReturn_now ..
  | lcsScrap => exact execLcsScrap_now ..
  | lcsChallenge => exact execLcsChallenge_now ..
  | lcsSnapNow => exact execLcsSnapNow_now ..
  | jtagExtest => exact execJtagExtest_now ..
  | jtagSamplePreload => exact execJtagSamplePreload_now ..
  | jtagIdcode => exact execJtagIdcode_now ..
  | jtagBypass => exact execJtagBypass_now ..
  | dbgStatus => exact execDbgStatus_now ..
  | dbgChal => exact execDbgChal_now ..
  | dbgGrant => exact execDbgGrant_now ..
  | dbgOpen => exact execDbgOpen_now ..
  | dbgClose => exact execDbgClose_now ..
  | tapReset => exact execTapReset_now ..
  | dapRead => exact execDapRead_now ..
  | dapWrite => exact execDapWrite_now ..
  | dapHalt => exact execDapHalt_now ..
  | dapResume => exact execDapResume_now ..
  | dapSingleStep => exact execDapSingleStep_now ..
  | dapSetSstep => exact execDapSetSstep_now ..
  | dapClearSstep => exact execDapClearSstep_now ..
  | smbStatusByte => exact execSmbStatusByte_now ..
  | smbModes => exact execSmbModes_now ..
  | smbCrit => exact execSmbCrit_now ..
  | smbSensorTemp => exact execSmbSensorTemp_now ..
  | smbTempNow => exact execSmbTempNow_now ..
  | smbHealthBlock => exact execSmbHealthBlock_now ..
  | smbBraceSummary => exact execSmbBraceSummary_now ..
  | smbSerial => exact execSmbSerial_now ..
  | smbAlertResponse => exact execSmbAlertResponse_now ..
  | smbClockTimeout => exact execSmbClockTimeout_now ..
  | blockLock => exact execBlockLock_now ..
  | registerWrite => exact execRegisterWrite_now ..
  | powerLoss => exact execPowerLoss_now ..
  | resetNRelease => exact execResetNRelease_now ..
  | perstRelease => exact execPerstRelease_now ..
  | linkStateChange => exact execLinkStateChange_now ..
  | hostReadCompletion => exact execHostReadCompletion_now ..
  | flitCrcError => exact execFlitCrcError_now ..
  | exitWaitStart => exact execExitWaitStart_now ..
  | windowOpen => exact execWindowOpen_now ..
  | vppPithRangeChange => exact execVppPithRangeChange_now ..
  | monitorOscillatorCheck => exact execMonitorOscillatorCheck_now ..

/-- Parts of which `Safe` and `Grows` do not speak are the only ones that a command may change. -/
def offGuarded (c : Instr) : Bool := (changes c).all fun a => !km a

theorem off_of_offGuarded {c : Instr} (h : offGuarded c = true) : Off km (changes c) := by
  simpa [offGuarded, Off] using h

/-- A command keeps `Safe`, and what may only grow: by its frame where it changes no part that they speak of, and otherwise by the
lemma about its meaning. -/
theorem exec_kept {z : State} (c : Instr) (s s0 : State) (hz : Kept z (shown km s)) : Kept z (shown km (after (exec c s) s0)) := by
  by_cases quiet : offGuarded c = true
  · rw [exec_shown c s s0 (off_of_offGuarded quiet)]
    exact hz
  · cases c with
    | powerOn => exact execPowerOn_kept (hz := hz) ..
    | resetNAssert => exact execResetNAssert_kept (hz := hz) ..
    | bootWatchdog => exact execBootWatchdog_kept (hz := hz) ..
    | perstAssert => exact execPerstAssert_kept (hz := hz) ..
    | linkReset => exact execLinkReset_kept (hz := hz) ..
    | replayComplete => exact execReplayComplete_kept (hz := hz) ..
    | functionDisable => exact execFunctionDisable_kept (hz := hz) ..
    | functionLevelReset => exact execFunctionLevelReset_kept (hz := hz) ..
    | sriovVfChange => exact execSriovVfChange_kept (hz := hz) ..
    | sealServiceStart => exact execSealServiceStart_kept (hz := hz) ..
    | writeBlocks => exact execWriteBlocks_kept (hz := hz) ..
    | maintCompact => exact execMaintCompact_kept (hz := hz) ..
    | nvmeWrite => exact execNvmeWrite_kept (hz := hz) ..
    | zestCompressJob => exact execZestCompressJob_kept (hz := hz) ..
    | zestDecompressJob => exact execZestDecompressJob_kept (hz := hz) ..
    | zestJobComplete => exact execZestJobComplete_kept (hz := hz) ..
    | slcMove => exact execSlcMove_kept (hz := hz) ..
    | garbageCollection => exact execGarbageCollection_kept (hz := hz) ..
    | wearMove => exact execWearMove_kept (hz := hz) ..
    | retentionRefresh => exact execRetentionRefresh_kept (hz := hz) ..
    | ageRefresh => exact execAgeRefresh_kept (hz := hz) ..
    | nandEraseComplete => exact execNandEraseComplete_kept (hz := hz) ..
    | nandProgramComplete => exact execNandProgramComplete_kept (hz := hz) ..
    | nandReadComplete => exact execNandReadComplete_kept (hz := hz) ..
    | nandOpTimeout => exact execNandOpTimeout_kept (hz := hz) ..
    | injectionArm => exact execInjectionArm_kept (hz := hz) ..
    | injectionDisarm => exact execInjectionDisarm_kept (hz := hz) ..
    | fabricTimeout => exact execFabricTimeout_kept (hz := hz) ..
    | heartbeatMiss => exact execHeartbeatMiss_kept (hz := hz) ..
    | hostReadTimeout => exact execHostReadTimeout_kept (hz := hz) ..
    | braceFlushComplete => exact execBraceFlushComplete_kept (hz := hz) ..
    | cryptoInit => exact execCryptoInit_kept (hz := hz) ..
    | cryptoUpdate => exact execCryptoUpdate_kept (hz := hz) ..
    | cryptoFinal => exact execCryptoFinal_kept (hz := hz) ..
    | cryptoFree => exact execCryptoFree_kept (hz := hz) ..
    | cryptoOneshot => exact execCryptoOneshot_kept (hz := hz) ..
    | cryptoChainCheck => exact execCryptoChainCheck_kept (hz := hz) ..
    | cryptoRandom => exact execCryptoRandom_kept (hz := hz) ..
    | cryptoJobComplete => exact execCryptoJobComplete_kept (hz := hz) ..
    | tamperAlarm => exact execTamperAlarm_kept (hz := hz) ..
    | keyRederive => exact execKeyRederive_kept (hz := hz) ..
    | rngRecovered => exact execRngRecovered_kept (hz := hz) ..
    | bundleIssue => exact execBundleIssue_kept (hz := hz) ..
    | repPass => exact execRepPass_kept (hz := hz) ..
    | budgetException => exact execBudgetException_kept (hz := hz) ..
    | eventException => exact execEventException_kept (hz := hz) ..
    | getDeliver => exact execGetDeliver_kept (hz := hz) ..
    | runExit => exact execRunExit_kept (hz := hz) ..
    | runStart => exact execRunStart_kept (hz := hz) ..
    | dmCopy => exact execDmCopy_kept (hz := hz) ..
    | dmHostRead => exact execDmHostRead_kept (hz := hz) ..
    | dmHostWrite => exact execDmHostWrite_kept (hz := hz) ..
    | dmRecordRead => exact execDmRecordRead_kept (hz := hz) ..
    | dmFill => exact execDmFill_kept (hz := hz) ..
    | dmDescriptorComplete => exact execDmDescriptorComplete_kept (hz := hz) ..
    | dmAbandon => exact execDmAbandon_kept (hz := hz) ..
    | lcsPrepare => exact execLcsPrepare_kept (hz := hz) ..
    | lcsProvision => exact execLcsProvision_kept (hz := hz) ..
    | lcsSeal => exact execLcsSeal_kept (hz := hz) ..
    | lcsVaultEnter => exact execLcsVaultEnter_kept (hz := hz) ..
    | lcsReturn => exact execLcsReturn_kept (hz := hz) ..
    | lcsScrap => exact execLcsScrap_kept (hz := hz) ..
    | lcsChallenge => exact execLcsChallenge_kept (hz := hz) ..
    | jtagExtest => exact execJtagExtest_kept (hz := hz) ..
    | dbgOpen => exact execDbgOpen_kept (hz := hz) ..
    | dbgClose => exact execDbgClose_kept (hz := hz) ..
    | tapReset => exact execTapReset_kept (hz := hz) ..
    | dapWrite => exact execDapWrite_kept (hz := hz) ..
    | dapSingleStep => exact execDapSingleStep_kept (hz := hz) ..
    | blockLock => exact execBlockLock_kept (hz := hz) ..
    | registerWrite => exact execRegisterWrite_kept (hz := hz) ..
    | powerLoss => exact execPowerLoss_kept (hz := hz) ..
    | resetNRelease => exact execResetNRelease_kept (hz := hz) ..
    | hostReadCompletion => exact execHostReadCompletion_kept (hz := hz) ..
    | vppPithRangeChange => exact execVppPithRangeChange_kept (hz := hz) ..
    | _ => exact absurd rfl quiet

/-- A meaning whose instant does not depend on the state that stands in for a stop does not stop: a stop would show the stand-in. -/
theorem next_of_now {o : Host.Outcome State Fault Refusal} {n : Shown} (h : ∀ s0, shown (one .now) (after o s0) = n) :
    ∃ u, o = .next u := by
  have differ : shown (one .now) (after o State.reset) = shown (one .now) (after o { State.reset with now := 1 }) :=
    (h _).trans (h _).symm
  cases o with
  | next u => exact ⟨u, rfl⟩
  | fault => exact absurd (of_one differ) (by simp [Area.same, after, State.reset])
  | refused => exact absurd (of_one differ) (by simp [Area.same, after, State.reset])

/-- Every command answers a next state. -/
theorem exec_next (c : Instr) (s : State) : ∃ u, exec c s = .next u := next_of_now (exec_now c s)

/-- No command changes the queue. -/
theorem pending_not_mem_changes (c : Instr) : Area.pending ∉ changes c := by
  cases c <;> simp [changes]

/-- Settles O4: what a mask of the listed parts shows is as it was. -/
theorem frames : Obligations.Frames := by
  intro c s u ran
  have same := exec_shown c s s (off_allBut fun a ha => ha)
  rw [ran] at same
  exact only_of_shown same

/-- Settles O3: no meaning stops, the frame leaves the queue, and the instant is that of `tick`. -/
theorem everyCommandCompletes : Obligations.EveryCommandCompletes := by
  intro c s
  obtain ⟨u, ran⟩ := exec_next c s
  have instant := exec_now c s s
  rw [ran] at instant
  exact ⟨u, ran, frames c s u ran .pending (pending_not_mem_changes c), of_one instant⟩

/-- A step from a safe state ends in a safe state that has only grown: the queue is no part of either. -/
theorem step_kept {s u : State} (safe : Safe s) (ran : step s = .next u) : Grows s u ∧ Safe u := by
  have start : Kept s (shown km s) := (kept_iff s s).mpr ⟨⟨id, le_rfl, id⟩, safe⟩
  unfold step at ran
  split at ran
  · cases ran
    exact (kept_iff s s).mp start
  · next c rest _ =>
    have dequeued : Kept s (shown km { s with pending := rest }) := by rwa [shown_set_pending _ _ km_pending]
    have kept := exec_kept c _ s dequeued
    rw [ran] at kept
    exact (kept_iff s u).mp kept

/-- Settles O5. -/
theorem stepsKeepSafe : Obligations.StepsKeepSafe := fun _ _ safe ran => (step_kept safe ran).2

/-- Settles O6. -/
theorem stepsGrow : Obligations.StepsGrow := fun _ _ safe ran => (step_kept safe ran).1

/-- Settles O1. -/
theorem stepTakesTheFront : Obligations.StepTakesTheFront := by
  refine ⟨fun _ _ _ => rfl, fun s idle => ?_⟩
  unfold step
  rw [idle]

end Sys2Proof.Machine
end

section
/-!
SUPPORT. The Cadence Unit (01): which branch each of its commands takes, what a boundary does to the count when it stands at its last
frame, and the statements about boundaries, lost edges, and the unit's inputs and outputs.
-/
namespace Sys2Proof.Machine

/-- The patrol's reads at a boundary leave the Cadence Unit. -/
@[simp] theorem cad_atBoundary (finds : List (Nat × DramFind)) (before s : State) : (atBoundary finds before s).cad = s.cad :=
  of_one (a := .cad) (by simp)

/-! ## The count and its end (R31) -/

/-- The frame number and whether it has come to its end. -/
def Cad.count (c : Cad) : Nat × Bool := (c.frame, c.exhausted)

theorem count_eq_iff {c : Cad} {n : Nat} {ended : Bool} : c.count = (n, ended) ↔ c.frame = n ∧ c.exhausted = ended := by
  simp [Cad.count]

@[simp] theorem count_setMean (m : Nat) (c : Cad) : (setMean m c).count = c.count := rfl

theorem count_adoptMode (s : State) : (adoptMode s).2.cad.count = s.cad.count := by
  unfold adoptMode
  dsimp only
  repeat' split
  all_goals rfl

theorem count_steer (s : State) : (steer s).cad.count = s.cad.count := by
  unfold steer
  split <;> rfl

theorem count_afterTurn (s : State) : (afterTurn s).cad.count = s.cad.count := by
  have media : (mediaBoundary (driveOut s)).cad = (driveOut s).cad := of_one (a := .cad) (by simp)
  unfold afterTurn
  rw [media]
  unfold driveOut
  repeat' split
  all_goals rfl

theorem count_holdLimit (s : State) : (holdLimit s).cad.count = s.cad.count := by
  have met : (meet 15 0xFF 0xFFFF false s).2.2.cad = s.cad := of_one (a := .cad) (by simp)
  have raised : ∀ k x ef s, (raiseF k x ef s).cad = s.cad := fun k x ef s => of_one (a := .cad) (by simp)
  unfold holdLimit
  dsimp only
  repeat' split
  all_goals simp [cad_cadNotice, Cad.count, raised, met]

theorem count_enterHoldover (s : State) : (enterHoldover s).cad.count = s.cad.count := by
  have raised : ∀ k x s, (raise k x s).cad = s.cad := fun k x s => of_one (a := .cad) (by simp)
  unfold enterHoldover
  dsimp only
  split
  · rw [count_holdLimit, cad_turnNotice, raised]
    rfl
  · rw [cad_turnNotice, raised]
    rfl

theorem count_nextFrame_of_last {b : Nat} {c : Cad} (last : c.frame = 0xFFFFFFFFFF) :
    (nextFrame b c).count = (c.frame, true) := by
  unfold nextFrame
  rw [if_pos last.ge]
  rfl

theorem count_countHold (c : Cad) : (countHold c).count = c.count := by
  unfold countHold
  split <;> rfl

/-- At the last frame a boundary leaves the number and ends the count (R31). -/
theorem count_frameTurn_of_last {b : Nat} {s : State} (last : s.cad.frame = 0xFFFFFFFFFF) :
    (frameTurn b s).2.cad.count = (s.cad.frame, true) := by
  unfold frameTurn
  dsimp only
  rw [count_steer, count_adoptMode, onCad_cad, count_countHold, count_nextFrame_of_last (c := odoLatch s.cad) last]
  rfl

theorem count_boundary_of_last {b : Nat} {s : State} (last : s.cad.frame = 0xFFFFFFFFFF) :
    (boundary b s).cad.count = (s.cad.frame, true) := by
  unfold boundary
  dsimp only
  rw [count_afterTurn, apply_ite State.cad, cad_turnNotice, ite_self]
  exact count_frameTurn_of_last last

theorem count_lateExpiry_of_last {s : State} (last : s.cad.frame = 0xFFFFFFFFFF) :
    (lateExpiry s).cad.count = (s.cad.frame, true) := by
  unfold lateExpiry
  dsimp only
  rw [count_afterTurn]
  split
  · rw [cad_turnNotice]
    exact count_frameTurn_of_last last
  · rw [count_enterHoldover]
    exact count_frameTurn_of_last last

/-! ## Boundaries (R16 to R21) -/

/-- Outside LOCKED a boundary is due once P has elapsed (R16). -/
theorem execUnitFrameBoundary_of_due {t : Nat} {s : State} (finds : List (Nat × DramFind)) (free : s.cad.st ≠ .locked)
    (due : s.cad.period ≤ max s.now t - s.cad.frameStart) :
    execUnitFrameBoundary t finds s =
      .next (atBoundary finds (tick t s) (boundary (s.cad.frameStart + s.cad.period) (tick t s))) :=
  if_pos ⟨free, due⟩

/-- While LOCKED the late window expires once P + W has passed (R21). -/
theorem execLateWindowExpiry_of_late {t : Nat} {s : State} (finds : List (Nat × DramFind)) (locked : s.cad.st = .locked)
    (late : s.cad.period + lateW (tick t s) < max s.now t - s.cad.frameStart) :
    execLateWindowExpiry t finds s = .next (atBoundary finds (tick t s) (lateExpiry (tick t s))) :=
  if_pos ⟨locked, late⟩

/-- An edge from P/2 on is taken as a boundary (R18). -/
theorem edgeLocked_frame {s : State} (half : s.cad.period ≤ 2 * (s.now - s.cad.frameStart)) (room : s.cad.frame < 0xFFFFFFFFFF) :
    (edgeLocked s).cad.frame = s.cad.frame + 1 ∧ (edgeLocked s).cad.frameStart = s.now := by
  have followed : ∀ p (s : State), (follow p s).2.cad.frame = s.cad.frame ∧ (follow p s).2.now = s.now := by
    intro p s
    unfold follow
    dsimp only
    repeat' split
    all_goals exact ⟨rfl, rfl⟩
  unfold edgeLocked
  dsimp only
  rw [if_neg (by omega)]
  obtain ⟨frame, now⟩ := followed (s.now - s.cad.lastEdge.getD s.cad.frameStart)
    (onCad (fun c => { c with lastEdge := some s.now, anyEdge := some s.now }) s)
  obtain ⟨counted, begun⟩ := edgeTaken_frame (follow (s.now - s.cad.lastEdge.getD s.cad.frameStart)
    (onCad (fun c => { c with lastEdge := some s.now, anyEdge := some s.now }) s)).1 _ (frame.trans_lt room)
  exact ⟨counted.trans (by rw [frame]; rfl), begun.trans now⟩

/-- The command for the last frame makes the boundary that is due (R31). -/
theorem execFrameExhausted_of_due {t : Nat} {s : State} (last : s.cad.frame = 0xFFFFFFFFFF) (counting : s.cad.exhausted = false)
    (due : if s.cad.st = .locked then s.cad.period + lateW (tick t s) < max s.now t - s.cad.frameStart
      else s.cad.period ≤ max s.now t - s.cad.frameStart) :
    execFrameExhausted t s = .next (if s.cad.st = .locked then lateExpiry (tick t s)
      else boundary (s.cad.frameStart + s.cad.period) (tick t s)) := by
  have atEnd : ¬((tick t s).cad.frame < 0xFFFFFFFFFF ∨ (tick t s).cad.exhausted = true) := by simp [last, counting]
  unfold execFrameExhausted
  dsimp only
  rw [if_neg atEnd]
  by_cases locked : s.cad.st = .locked
  · rw [if_pos locked] at due ⊢
    rw [if_pos (by exact locked), if_pos (by exact due)]
  · rw [if_neg locked] at due ⊢
    rw [if_neg (by exact locked), if_pos (by exact due)]
    rfl

/-- Settles O7. -/
theorem frameBoundaries : Obligations.FrameBoundaries := by
  intro t s
  refine ⟨fun free due room finds => ?_, fun last counting due => ?_, fun mode unarmed locked room half inTime finds => ?_,
    fun mode locked room late finds => ?_⟩
  · refine completes_of (execUnitFrameBoundary_of_due finds free due) ?_
    rw [cad_atBoundary]
    exact boundary_frame _ (tick t s) room
  · refine completes_of (execFrameExhausted_of_due last counting due) (and_comm.mp (count_eq_iff.mp ?_))
    split
    · exact count_lateExpiry_of_last (s := tick t s) last
    · exact count_boundary_of_last (s := tick t s) last
  · refine completes_of (execCadInEdge_of_locked finds mode locked unarmed inTime) ?_
    rw [cad_atBoundary]
    exact edgeLocked_frame (s := tick t s) half room
  · obtain ⟨frame, start, state⟩ := lateExpiry_frame (tick t s) room
    refine completes_of (execLateWindowExpiry_of_late finds locked late) ?_
    rw [cad_atBoundary]
    exact ⟨frame, start, state mode⟩

/-! ## Without edges (R23) -/

/-- Past its limit the quality of HOLDOVER becomes FREE, whether or not an injection stands in for the limit (R23). -/
theorem qual_holdLimit {s : State} (holdover : s.cad.st = .holdover) (good : s.cad.qual ≠ .free)
    (limit : (word s Reg.cadHold).toNat ≤ s.cad.holdFrames) : (holdLimit s).cad.qual = .free := by
  have raised : ∀ k x ef s, (raiseF k x ef s).cad = s.cad := fun k x ef s => of_one (a := .cad) (by simp)
  unfold holdLimit
  dsimp only
  rw [if_pos ⟨.inl holdover, good, by simp [limit]⟩]
  split <;> simp [cad_cadNotice, raised]

/-- Settles O8. -/
theorem cadenceWithoutEdges : Obligations.CadenceWithoutEdges := by
  intro t s
  refine ⟨fun holdover good limit => completes_of rfl (qual_holdLimit (s := tick t s) holdover good limit), fun acquire absent => ?_⟩
  have gone : ¬present (tick t s).cad (tick t s).now = true := by
    rw [Bool.not_eq_true]
    exact absent
  have inAcquire : (tick t s).cad.st = .acquire := acquire
  refine ⟨_, show execEdgesAbsent t s = _ by unfold execEdgesAbsent; rw [if_neg gone, inAcquire], ?_⟩
  beta_reduce
  rw [cad_cadNotice, onCad_cad]
  have backs : ((tick t s).cad.acqHold && decide ((tick t s).cad.holdFrames < (word (tick t s) Reg.cadHold).toNat)) = true
      ↔ s.cad.acqHold = true ∧ s.cad.holdFrames < (word s Reg.cadHold).toNat := by
    rw [Bool.and_eq_true, decide_eq_true_iff]
    exact .rfl
  by_cases back : s.cad.acqHold = true ∧ s.cad.holdFrames < (word s Reg.cadHold).toNat
  · rw [if_pos back, if_pos (backs.mpr back)]
    exact ⟨rfl, rfl⟩
  · rw [if_neg back, if_neg (mt backs.mp back)]
    exact ⟨rfl, rfl⟩

end Sys2Proof.Machine
end

section
/-!
SUPPORT. Tables: what a search finds and which place a free place is. The state after reset, and the Cadence Unit's inputs and records (01).
-/
namespace Sys2Proof.Machine

/-! ## Tables -/

/-- What a search of a table finds has the property looked for. -/
theorem tfind_holds {α : Type} {f : Nat → α → Bool} {t : Tab α} {k : Nat} {a : α} (found : tfind f t = some (k, a)) : f k a = true :=
  List.find?_some (p := fun p : Nat × α => f p.1 p.2) found

/-- What a search of a table finds is an entry of it. -/
theorem mem_of_tfind {α : Type} {f : Nat → α → Bool} {t : Tab α} {k : Nat} {a : α} (found : tfind f t = some (k, a)) : (k, a) ∈ t :=
  List.mem_of_find?_eq_some found

/-- A free place lies in the range searched and is free. -/
theorem tfree_spec {α : Type} {t : Tab α} : ∀ {lo n k : Nat}, tfree lo n t = some k → lo ≤ k ∧ k < lo + n ∧ tget k t = none
  | _, 0, _, found => by simp [tfree] at found
  | lo, n + 1, k, found => by
    unfold tfree at found
    split at found
    · next isFree =>
      obtain rfl := Option.some.inj found
      exact ⟨le_rfl, by omega, Option.isNone_iff_eq_none.mp isFree⟩
    · obtain ⟨above, below, isFree⟩ := tfree_spec found
      exact ⟨by omega, by omega, isFree⟩

/-! ## Reset -/

/-- Settles O2. -/
theorem stateAfterReset : Obligations.StateAfterReset := by
  have safe : Safe State.reset := by constructor <;> simp [State.reset, Memory.wf, TabWf]
  refine ⟨safe, rfl, rfl, rfl, rfl, rfl, rfl, rfl, rfl, fun a v listed => ?_⟩
  simp only [List.mem_cons, Prod.mk.injEq, List.not_mem_nil, or_false] at listed
  rcases listed with ⟨rfl, rfl⟩ | ⟨rfl, rfl⟩ | ⟨rfl, rfl⟩ | ⟨rfl, rfl⟩ | ⟨rfl, rfl⟩ | ⟨rfl, rfl⟩ | ⟨rfl, rfl⟩ | ⟨rfl, rfl⟩ <;>
    decide +kernel

/-! ## Captures, pulses and fences (R34 to R45) -/

/-- A capture is kept in the ring of captures, at its head, with its Evidence Time (R37). -/
theorem capture_cad (s : State) : (execPpsCapture.capture s).cad.ppsLast = some s.now ∧
    (tget (execPpsCapture.capture s).cad.ppsIndex (execPpsCapture.capture s).cad.pps).map (·.time) = some (evTime s) := by
  have raised : ∀ k x s, (raise k x s).cad = s.cad := fun k x s => of_one (a := .cad) (by simp)
  have past : ∀ k s, (injPast k s).cad = s.cad := fun _ _ => rfl
  unfold execPpsCapture.capture
  dsimp only
  rw [apply_ite State.cad, raised, past, ite_self, cad_cadNotice, onCad_cad]
  exact ⟨rfl, by rw [tget_tput_self]; rfl⟩

/-- A PPS edge half a second or more after the last one is captured (R37). -/
theorem execPpsCapture_of_spaced {t : Nat} {s : State} (enabled : flagOf s Reg.cadCtrl 7 = true) (unarmed : s.integ.armed = false)
    (spaced : ∀ l, s.cad.ppsLast = some l → 500000000 ≤ max s.now t - l) :
    execPpsCapture t s = .next (execPpsCapture.capture (tick t s)) := by
  have on : ¬(!flagOf (tick t s) Reg.cadCtrl 7) = true := by
    rw [Bool.not_eq_true, Bool.not_eq_false']
    exact enabled
  unfold execPpsCapture
  dsimp only
  rw [if_neg on]
  simp only [meet_unarmed (s := tick t s) unarmed 16 0xFF 0xFFFF false, Bool.false_eq_true, ite_false]
  split
  · next l last => exact if_neg (by have := spaced l last; simpa using this)
  · rfl

/-- The slot an incident edge falls to is one of the 17, and its entry is open, with the edge's time and the END of its input (R44, R45). -/
theorem fenceFor_spec (s : State) (n : Nat) (full : Bool) : (fenceFor s n full).1 ≤ 16 ∧ (fenceFor s n full).2.edge = evTime s ∧
    (fenceFor s n full).2.ended = false ∧ (fenceFor s n full).2.stop = fenceStop s n := by
  unfold fenceFor
  split
  · next k x found =>
    have low := tfind_holds found
    simp only [Bool.and_eq_true, decide_eq_true_eq] at low
    exact ⟨low.1.1.le, rfl, rfl, rfl⟩
  · split
    · next k found =>
      split at found
      · cases found
      · exact ⟨by have := (tfree_spec found).2.1; omega, rfl, rfl, rfl⟩
    · split <;> exact ⟨le_rfl, rfl, rfl, rfl⟩

/-- An incident edge leaves its fence in the slot it falls to (R44, R45). -/
theorem fences_incident {n : Nat} {s : State} (unarmed : s.integ.armed = false) :
    (incident n s).cad.fences = tput (fenceFor s n false).1 (fenceFor s n false).2 s.cad.fences := by
  have raised : ∀ k x ef s, (raiseF k x ef s).cad = s.cad := fun k x ef s => of_one (a := .cad) (by simp)
  have queued : ∀ s, (queueFences s).cad = s.cad := fun _ => rfl
  unfold incident
  simp only [meet_unarmed unarmed]
  rw [cad_cadNotice, queued, apply_ite State.cad, raised, ite_self]
  rfl

/-- An incident edge that stays low long enough opens or extends a fence, where no edge of the other input comes first (R43). -/
theorem execIncidentEdge_of_ok {t n low : Nat} {s : State} (ok : incidentOk (tick t s) n low = true)
    (fresh : n = 0 → s.cad.inc0At ≠ some (max s.now t)) (alone : n = 1 → edge0Waits (tick t s) = none) :
    execIncidentEdge t n low s = .next (incident n (tick t s)) := by
  have notTaken : ¬(n = 0 ∧ (tick t s).cad.inc0At = some (tick t s).now) := fun h => fresh h.1 h.2
  have noOther : (if n = 1 then edge0First (tick t s) else tick t s) = tick t s := by
    split
    · next one => unfold edge0First; rw [alone one]
    · rfl
  unfold execIncidentEdge
  dsimp only
  rw [if_neg notTaken, noOther, if_pos ok]

/-- Settles O9. -/
theorem cadenceInputs : Obligations.CadenceInputs := by
  intro t s
  refine ⟨fun high due => ?_, fun due => ?_, fun on unarmed spaced => ?_, fun high on wide => ?_, fun n low two on unarmed wide fresh alone => ?_,
    fun slot x found opened finite reached => ?_, completes_of rfl ⟨rfl, rfl⟩⟩
  · exact completes_of (if_pos ⟨high, due⟩) ⟨rfl, rfl⟩
  · refine completes_of (if_pos due) ?_
    obtain ⟨e, queued, etype, body, -⟩ := mem_queueJ 4 0xFF (some 0) (cadRecord (tick t s) false) (tick t s)
    exact ⟨e, queued, etype, body⟩
  · exact completes_of (execPpsCapture_of_spaced on unarmed spaced) (capture_cad (tick t s))
  · have bumped : ∀ a n s, (bump a n s).cad = s.cad := fun a n s => of_one (a := .cad) (by simp)
    refine completes_of (if_pos ⟨on, wide⟩) ?_
    rw [apply_ite State.cad, cad_cadNotice, setFlag_cad, ite_self, bumped]
    rfl
  · have ok : incidentOk (tick t s) n low = true := by
      simp only [incidentOk, Bool.and_eq_true, decide_eq_true_eq]
      exact ⟨⟨two, on⟩, wide⟩
    refine completes_of (execIncidentEdge_of_ok ok fresh alone) ⟨_, _, ?_, fenceFor_spec (tick t s) n false⟩
    rw [fences_incident (s := tick t s) unarmed, tget_tput_self]
  · have ends : (!x.ended) = true ∧ x.stop ≠ 0xFFFFFFFFFFFFFFFF ∧ (tick t s).cad.frame ≥ x.stop / 2 ^ 24 := ⟨by simp [opened], finite, reached⟩
    have taken : execFenceEnd t slot s = .next (onCad (fun c => { c with fences := tput slot { x with ended := true } c.fences }) (tick t s)) := by
      unfold execFenceEnd
      simp only [tick_cad, found]
      exact if_pos ends
    exact completes_of taken tget_tput_self

end Sys2Proof.Machine
end

section
/-!
SUPPORT. The Ring Engine (02): what its commands do to the function table, the rings and their known positions, and the statements about
functions, rings, Pips and the sweep.
-/
namespace Sys2Proof.Machine

/-! ## Functions (R58 to R64, R99) -/

theorem Func.rest_eq {e d : Func} (h : e.rest = d.rest) :
    e.st = d.st ∧ e.enable = d.enable ∧ e.err = d.err ∧ e.disabling = d.disabling :=
  ⟨(congrArg Func.st h :), (congrArg Func.enable h :), (congrArg Func.err h :), (congrArg Func.disabling h :)⟩

theorem Ring.rest_fn {r q : Ring} (h : r.rest = q.rest) : r.fn = q.fn := (congrArg Ring.fn h :)

/-- What a reset leaves of a ready function's entry, but for the count of its notices (R63, R99). -/
theorem resetFunction_func {f : Nat} {s : State} (ready : (funcOf s f).st = .ready) :
    (funcOf (resetFunction f s) f).rest = { funcOf s f with st := .resetting, held := [], deleting := none : Func }.rest := by
  obtain ⟨y, e, quiet, rge⟩ := resetFunction_shape f s ready
  have same : funcOf (resetFunction f s) f = funcOf y f := by
    unfold funcOf
    rw [rge]
  rw [same, quiet.func, dropRuns_func, (quiet_fnNotice f 3 0 _).func, funcOf_onFunc (func_ne (by simp))]

/-- The rest of a write to CTL leaves STATE as it was. -/
theorem funcOf_ctlRest {f ctl : Nat} {s : State} (present : (funcOf s f).st ≠ .absent) :
    funcOf (ctlRest f ctl s) f = { funcOf s f with sAllowed := nbit ctl 1 } := by
  have rge : (ctlRest f ctl s).rge = (onFunc f (fun e => { e with sAllowed := nbit ctl 1 }) s).rge := of_one (a := .rge) (by simp [ctlRest])
  have entry : funcOf (ctlRest f ctl s) f = funcOf (onFunc f (fun e => { e with sAllowed := nbit ctl 1 }) s) f := by
    unfold funcOf
    rw [rge]
  exact entry.trans (funcOf_onFunc (func_ne present))

theorem quiet_drawSalt (f : Nat) (s : State) : Quiet s (drawSalt f s) := .of_rge (of_one (a := .rge) (by simp))

/-- A function whose quotas fit becomes ready (R59). -/
theorem execFunctionEnable_of_fits {t f ctl : Nat} {s : State} (unshut : fnTableShut s f = false)
    (idle : reserves (funcOf (ctlRest f ctl (tick t s)) f) = false)
    (fits : quotaError (ctlRest f ctl (tick t s)) (funcOf (ctlRest f ctl (tick t s)) f) = 0) :
    execFunctionEnable t f ctl s = .next (fnNotice f 1 0 (drawSalt f
      (onFunc f (fun e => { e with enable := true, st := .ready, err := 0, disabling := false }) (ctlRest f ctl (tick t s))))) := by
  have isOpen : ¬fnTableShut (tick t s) f = true := by
    rw [Bool.not_eq_true]
    exact unshut
  unfold execFunctionEnable
  dsimp only
  rw [if_neg isOpen, if_neg (by simp [idle]), if_pos fits]

/-- A ready function other than function 0 is reset on its way to absent (R63). -/
theorem execFunctionDisable_of_ready {t f ctl : Nat} {s : State} (unshut : fnTableShut s f = false) (vf : f ≠ 0)
    (ready : (funcOf (ctlRest f ctl (tick t s)) f).st = .ready) :
    execFunctionDisable t f ctl s = .next (resetFunction f (onFunc f (fun e => { e with disabling := true }) (ctlRest f ctl (tick t s)))) := by
  have isOpen : ¬fnTableShut (tick t s) f = true := by
    rw [Bool.not_eq_true]
    exact unshut
  unfold execFunctionDisable
  dsimp only
  rw [if_neg isOpen, if_neg vf, ready]

/-- A quota in its range is taken for a function that reserves nothing (R60, R62). -/
theorem execQuotaWrite_of_inRange {t f v : Nat} {q : Quota} {s : State} (unshut : fnTableShut s f = false) (vf : f ≠ 0)
    (idle : reserves (funcOf s f) = false) (low : (quotaRange q).1 ≤ v) (high : v ≤ (quotaRange q).2) :
    execQuotaWrite t f q v s = .next (onFunc f (putQuota q v) (tick t s)) := by
  have isOpen : ¬fnTableShut (tick t s) f = true := by
    rw [Bool.not_eq_true]
    exact unshut
  have free : ¬(reserves (funcOf (tick t s) f) = true ∧ (f ≠ 0 ∨ hasRing (tick t s) 0 = true)) := fun h => by
    have := h.1
    rw [show reserves (funcOf (tick t s) f) = false from idle] at this
    cases this
  have inRange : ¬(decide (v < (quotaRange q).1) || decide (v > (quotaRange q).2)) = true := by simp [low, high]
  unfold execQuotaWrite
  dsimp only
  rw [if_neg isOpen, if_neg free, if_neg inRange, if_neg fun h => vf h.1]

/-- Settles O10. -/
theorem functionTable : Obligations.FunctionTable := by
  intro t f s unshut
  refine ⟨fun ctl idle fits => ?_, fun ctl vf ready => ?_, fun q v vf idle low high => execQuotaWrite_of_inRange unshut vf idle low high⟩
  · refine completes_of (execFunctionEnable_of_fits unshut idle fits) ?_
    set w := onFunc f (fun e => { e with enable := true, st := .ready, err := 0, disabling := false }) (ctlRest f ctl (tick t s)) with made
    have rest := ((quiet_drawSalt f w).trans (quiet_fnNotice f 1 0 _)).func f
    rw [made, funcOf_onFunc (func_ne (by simp))] at rest
    obtain ⟨st, enable, err, -⟩ := Func.rest_eq rest
    exact ⟨st, enable, err⟩
  · have entry := funcOf_ctlRest (f := f) (ctl := ctl) (s := tick t s) (by rw [show (funcOf (tick t s) f).st = .ready from ready]; decide)
    have stillReady : (funcOf (ctlRest f ctl (tick t s)) f).st = .ready := by
      rw [entry]
      exact ready
    have marked := funcOf_onFunc (g := fun e => { e with disabling := true }) (s := ctlRest f ctl (tick t s)) (f := f)
      (func_ne (by simp [stillReady]))
    have rest := resetFunction_func (f := f) (s := onFunc f (fun e => { e with disabling := true }) (ctlRest f ctl (tick t s)))
      (by rw [marked]; exact stillReady)
    rw [marked] at rest
    obtain ⟨st, -, -, disabling⟩ := Func.rest_eq rest
    exact completes_of (execFunctionDisable_of_ready unshut vf stillReady) ⟨st, disabling⟩

/-- No ring is left of a function whose BAR0 is cleared (R99). -/
theorem ring_fn_clearBar0 {f k : Nat} {r : Ring} {s : State} (found : ringOf (clearBar0 f s) k = some r) : r.fn ≠ f := by
  have kept : (r.fn != f) = true := tget_tfilter (p := fun _ (r : Ring) => r.fn != f) found
  simpa using kept

theorem Quiet.ringFn {s u : State} (quiet : Quiet s u) {k : Nat} {r : Ring} (found : ringOf u k = some r) :
    ∃ q, ringOf s k = some q ∧ q.fn = r.fn := by
  have rest := quiet.ring k
  rw [found] at rest
  obtain ⟨q, there, same⟩ := Option.map_eq_some_iff.mp rest.symm
  exact ⟨q, there, Ring.rest_fn same⟩

/-- The entry of a function whose reset ends (R63, R99). -/
def resetDone (e : Func) : Func :=
  { e with st := if e.disabling then .absent else .ready, enable := !e.disabling, disabling := false,
           dbSet := false, deleting := none, resCode := 0, resGlobal := 0, held := [] }

/-- The end of a reset whose work has ended (R63, R99). -/
theorem execFunctionResetDone_of_ended {t f : Nat} {s : State} (resetting : (funcOf s f).st = .resetting) (ended : flightsOf s f = []) :
    ∃ w, Quiet (onFunc f resetDone (clearFn f (clearBar0 f (tick t s)))) w ∧ execFunctionResetDone t f s = .next w := by
  have none : (flightsOf (tick t s) f).isEmpty = true := by rw [show flightsOf (tick t s) f = [] from ended]; rfl
  unfold execFunctionResetDone
  dsimp only
  rw [if_pos ⟨resetting, none⟩]
  split
  · exact ⟨_, (quiet_fnNotice f 4 0 _).trans (quiet_fnNotice f 5 0 _), rfl⟩
  · exact ⟨_, (quiet_drawSalt f _).trans (quiet_fnNotice f 4 0 _), rfl⟩

/-- Settles O11. -/
theorem functionReset : Obligations.FunctionReset := by
  intro t f s
  refine ⟨fun vf ready => ?_, fun ve num main velral => ?_, fun resetting reserved ended => ?_, fun velral => ?_⟩
  · exact completes_of (show execFunctionLevelReset t f s = _ from if_neg vf) (resetFunction_st f (tick t s) ready)
  · refine completes_of rfl ⟨?_, rfl⟩
    simp [velral, show rescue (tick t s) = false from main]
  · obtain ⟨w, quiet, done⟩ := execFunctionResetDone_of_ended (t := t) resetting ended
    have cleared : (clearFn f (clearBar0 f (tick t s))).rge = (clearBar0 f (tick t s)).rge := of_one (a := .rge) (by simp)
    have sameEntry : funcOf (clearFn f (clearBar0 f (tick t s))) f = funcOf s f := by
      unfold funcOf
      rw [cleared]
      rfl
    refine completes_of done ⟨?_, fun k r found => ?_⟩
    · rw [quiet.st, funcOf_onFunc (fun e => reserved (by rw [← sameEntry]; exact congrArg Func.slots e)), sameEntry]
      rfl
    · obtain ⟨q, there, same⟩ := quiet.ringFn found
      rw [← same]
      refine ring_fn_clearBar0 (s := tick t s) (k := k) ?_
      have rings : (clearFn f (clearBar0 f (tick t s))).rge.rings = (clearBar0 f (tick t s)).rge.rings := by rw [cleared]
      exact (congrArg (tget k) rings).symm.trans there
  · show execFnSnapNow t f s = _
    unfold execFnSnapNow
    dsimp only
    rw [if_neg (by simp [velral])]

/-! ## Rings (R67 to R71) -/

/-- A function whose rings are not shut is ready, and the part is in the Velral personality. -/
theorem ringsOpen {s : State} {f : Nat} (unshut : ringsShut s f = false) : (funcOf s f).st = .ready ∧ s.boot.plain = false := by
  simp only [ringsShut, fnReady, Bool.or_eq_false_iff, Bool.not_eq_false', Bool.and_eq_true, beq_iff_eq] at unshut
  exact ⟨unshut.1.1.1.1, unshut.1.1.2⟩

/-- The last condition of R67 that a create can meet is that the function's rings are shut. -/
theorem ringsOpen_of_createCode {s : State} {f i : Nat} {r : Ring} (good : createCode s f i r = 0) : ringsShut s f = false := by
  by_contra shut
  rw [Bool.not_eq_false] at shut
  revert good
  unfold createCode
  dsimp only
  rw [if_pos shut]
  repeat' split
  all_goals simp

theorem ringResult_entry {f code g : Nat} {s : State} (ready : (funcOf s f).st = .ready) :
    funcOf (ringResult f code g s) f = { funcOf s f with resCode := code, resGlobal := g } :=
  funcOf_onFunc (func_ne (by simp [ready]))

/-- A create that meets no condition of R67 makes the staged ring. -/
theorem execRingCreate_of_good {t f i : Nat} {s : State} (idle : ringBusy s f = false) (good : createCode s f i (stagedRing s f i) = 0) :
    execRingCreate t f i s = .next (ringResult f 0 (freeGlobal s ((stagedRing s f i).kind == .sub))
      (onRge (fun q => { q with
        rings := tput (ringKey f ((stagedRing s f i).kind == .sub) i)
          { stagedRing s f i with global := freeGlobal s ((stagedRing s f i).kind == .sub) } q.rings }) (tick t s))) := by
  obtain ⟨-, velral⟩ := ringsOpen (ringsOpen_of_createCode good)
  unfold execRingCreate
  dsimp only
  rw [if_neg (by simp [velral]), if_neg (by rw [Bool.not_eq_true]; exact idle), if_neg (show ¬createCode (tick t s) f i (stagedRing (tick t s) f i) ≠ 0 from not_not_intro good)]
  rfl

/-- A delete of a ring without commands in flight, and that no SUB ring names, frees it at once (R69). -/
theorem execRingDelete_of_free {t f i : Nat} {sub : Bool} {r : Ring} {s : State} (idle : ringBusy s f = false) (inPool : i < poolQuota s f sub)
    (found : ringOf s (ringKey f sub i) = some r) (unnamed : sub = false → namedBySub s f i = false) (unshut : ringsShut s f = false)
    (ended : ringFlights s f i = 0) : execRingDelete t f sub i s = .next (ringResult f 0 0 (freeRing (ringKey f sub i) (tick t s))) := by
  have here : ¬(ringOf (tick t s) (ringKey f sub i)).isNone = true := by
    rw [show ringOf (tick t s) (ringKey f sub i) = some r from found]
    simp
  have notNamed : ¬((!sub) = true ∧ namedBySub (tick t s) f i = true) := fun ⟨cmp, named⟩ =>
    Bool.false_ne_true ((unnamed (by simpa using cmp)).symm.trans named)
  have none : ¬(sub = true ∧ ringFlights (tick t s) f i > 0) := fun h => by
    have := h.2
    rw [show ringFlights (tick t s) f i = 0 from ended] at this
    omega
  unfold execRingDelete
  dsimp only
  rw [if_neg (by simp [(ringsOpen unshut).2]), if_neg (by rw [Bool.not_eq_true]; exact idle), if_neg (show ¬i ≥ poolQuota (tick t s) f sub from not_le.mpr inPool), if_neg here,
    if_neg notNamed, if_neg (by rw [Bool.not_eq_true]; exact unshut), if_neg none]

/-- A query of a ring loads the staging registers, or ends with code 11 where the ring is stopped (R70, R835). -/
theorem execRingQuery_of_found {t f i : Nat} {sub : Bool} {r : Ring} {s : State} (idle : ringBusy s f = false) (inPool : i < poolQuota s f sub)
    (found : ringOf s (ringKey f sub i) = some r) (unshut : ringsShut s f = false) :
    execRingQuery t f sub i s =
      .next (if r.stopped then ringResult f 11 0 (tick t s) else ringResult f 0 r.global (loadStaging f r (tick t s))) := by
  have here : ringOf (tick t s) (ringKey f sub i) = some r := found
  have isOpen : ringsShut (tick t s) f = false := unshut
  unfold execRingQuery
  dsimp only
  rw [if_neg (by simp [(ringsOpen unshut).2]), if_neg (by rw [Bool.not_eq_true]; exact idle), if_neg (show ¬i ≥ poolQuota (tick t s) f sub from not_le.mpr inPool), here]
  by_cases stopped : r.stopped = true <;> simp [isOpen, stopped]

/-- A doorbell base register of a ready function without rings takes the value and sets the page (R71). -/
theorem execDoorbellBaseWrite_of_ready {t f be : Nat} {hi : Bool} {v : Word} {s : State} (velral : s.boot.plain = false)
    (noRing : hasRing s f = false) (ready : fnReady s f = true) : execDoorbellBaseWrite t f hi v be s = .next
      (onFunc f (fun e => { e with dbSet := true }) (writeCommon (if hi then Reg.fnDbHi f else Reg.fnDbLo f) v be (tick t s))) := by
  have rge : (writeCommon (if hi then Reg.fnDbHi f else Reg.fnDbLo f) v be (tick t s)).rge = s.rge := of_one (a := .rge) (by simp)
  have stillReady : fnReady (writeCommon (if hi then Reg.fnDbHi f else Reg.fnDbLo f) v be (tick t s)) f = true :=
    ((Quiet.of_rge rge).ready f).trans ready
  unfold execDoorbellBaseWrite
  dsimp only
  rw [if_neg (by simp [velral]), if_neg (by rw [Bool.not_eq_true]; exact noRing), if_pos stillReady]

/-- Settles O12. -/
theorem ringCommands : Obligations.RingCommands := by
  intro t f i s idle
  refine ⟨fun good => ?_, fun sub r inPool found unnamed unshut ended => ?_,
    fun sub r inPool found unshut => execRingQuery_of_found idle inPool found unshut, fun hi v be velral noRing ready => ?_⟩
  · obtain ⟨ready, -⟩ := ringsOpen (ringsOpen_of_createCode good)
    refine completes_of (execRingCreate_of_good idle good) ⟨tget_tput_self, ?_⟩
    rw [ringResult_entry (by exact ready)]
    dsimp only
    exact ⟨rfl, rfl⟩
  · exact completes_of (execRingDelete_of_free idle inPool found unnamed unshut ended) rfl
  · refine completes_of (execDoorbellBaseWrite_of_ready velral noRing ready) ⟨?_, of_one (a := .regs) (by simp)⟩
    have rge : (writeCommon (if hi then Reg.fnDbHi f else Reg.fnDbLo f) v be (tick t s)).rge = s.rge := of_one (a := .rge) (by simp)
    have st : (funcOf s f).st = .ready := by
      simp only [fnReady, Bool.and_eq_true, beq_iff_eq] at ready
      exact ready.1
    rw [funcOf_onFunc (func_ne (by simp [(Quiet.of_rge rge).st, st]))]

/-- Settles O13. -/
theorem ringDeleteEnds : Obligations.RingDeleteEnds := by
  intro t f i s waiting ended
  have deleting : (funcOf (tick t s) f).deleting = some i := waiting
  have done : execRingDeleteDone t f s =
      .next (ringResult f 0 0 (onFunc f (fun e => { e with deleting := none }) (freeRing (ringKey f true i) (tick t s)))) := by
    unfold execRingDeleteDone
    simp only [deleting]
    exact if_pos ended
  exact completes_of done rfl

/-! ## Pips and the sweep (R76 to R80) -/

/-- A Pip with no condition of R78, at a ring that runs, moves its known tail, or its known head where the ring accepts it. -/
theorem pip_of_good {f : Nat} {w : Word} {r : Ring} {s : State} (ready : fnReady s f = true) (velral : s.boot.plain = false)
    (uninjected : f ≠ 0 ∨ s.integ.armed = false) (reserved : bits w 13 12 = 0) (kind : bits w 15 14 ≤ 1)
    (found : ringOf s (ringKey f (bits w 15 14 == 0) (bits w 11 0)) = some r) (running : r.stopped = false) (notTag : r.kind ≠ .tag)
    (inRing : bits w 31 16 < r.depth) :
    pip f w 15 s = if bits w 15 14 = 0 then pipTail f (ringKey f true (bits w 11 0)) r (bits w 31 16) s
      else if headOk r (bits w 31 16) then pipHead f (ringKey f false (bits w 11 0)) r (bits w 31 16) s
      else badPip f (bits w 11 0) (bits w 15 14) (if bypassed s 10 then 0 else 0) s := by
  have st : (funcOf s f).st = .ready := by
    simp only [fnReady, Bool.and_eq_true, beq_iff_eq] at ready
    exact ready.1
  have noInjection : (if f = 0 then meet 10 0xFF 0xFFFF false s else (false, 0, s)) = (false, 0, s) := by
    split
    · next zero => exact meet_unarmed (uninjected.resolve_left (not_not_intro zero)) ..
    · rfl
  have good : ¬((bits w 13 12 != 0 || r.kind == .tag || decide (bits w 31 16 ≥ r.depth)) = true) := by
    simp [reserved, notTag, inRing]
  unfold pip
  dsimp only
  rw [if_neg (by simp [st, velral])]
  simp only [noInjection, Bool.false_and, Bool.false_eq_true, ite_false]
  rw [if_neg (by simp [ready, kind]), found]
  dsimp only
  rw [if_neg (by simp [running]), if_neg good]

/-- The known position of the ring that a sweep of one entry reads, and when the last sweep began. -/
def sweptTo (k pos at_ : Nat) (s : State) : Prop := (ringOf s k).map (·.known) = some pos ∧ s.rge.lastSweep = at_

/-- A ring whose known position moves to `pos`, with notices and counts besides. -/
theorem sweptTo_of_quiet {k pos : Nat} {r : Ring} {g : Ring → Ring} {s u : State} (found : ringOf s k = some r) (moves : (g r).known = pos)
    (quiet : Quiet (onRing k g s) u) : sweptTo k pos s.rge.lastSweep u :=
  ⟨(quiet_known quiet k).trans (known_onRing (n := 0) (t := s) found moves), quiet.lastSweep⟩

/-- An entry that is good moves its ring's known position (R79). -/
theorem sweepOne_of_good {d : DoorbellRead} {r : Ring} {s : State} (found : ringOf s (ringKey d.f d.sub d.idx) = some r)
    (ready : fnReady s d.f = true) (page : (funcOf s d.f).dbSet = true) (running : r.stopped = false) (notTag : r.kind ≠ .tag)
    (inRing : d.value % 65536 < r.depth)
    (moves : (if d.sub then tailMoves r (d.value % 65536) else headOk r (d.value % 65536)) = true) :
    sweptTo (ringKey d.f d.sub d.idx) (d.value % 65536) s.rge.lastSweep (sweepOne s d) := by
  unfold sweepOne
  simp only [found]
  rw [if_neg (by simp [ready, page, running, notTag, inRing])]
  by_cases sub : d.sub = true
  · rw [if_pos sub] at moves
    rw [if_pos sub, if_pos moves]
    exact sweptTo_of_quiet found rfl (quiet_bump _ _ _)
  · rw [if_neg sub] at moves
    rw [if_neg sub, if_pos moves]
    exact sweptTo_of_quiet found rfl (.refl _)

/-- An entry that the known position has reached already leaves it there, whatever the sweep makes of it. -/
theorem sweepOne_of_reached {d : DoorbellRead} {at_ : Nat} {s : State} (reached : sweptTo (ringKey d.f d.sub d.idx) (d.value % 65536) at_ s) :
    sweptTo (ringKey d.f d.sub d.idx) (d.value % 65536) at_ (sweepOne s d) := by
  obtain ⟨known, rfl⟩ := reached
  obtain ⟨r, found, -⟩ := Option.map_eq_some_iff.mp known
  unfold sweepOne
  simp only [found]
  split
  · exact ⟨known, rfl⟩
  · split
    · split
      · exact sweptTo_of_quiet found rfl (quiet_bump _ _ _)
      · exact ⟨known, rfl⟩
    · split
      · exact sweptTo_of_quiet found rfl (.refl _)
      · exact ⟨known, rfl⟩

theorem sweepRing_single (d : DoorbellRead) (s : State) (k : Nat) :
    sweepRing [d] s k = if ringKey d.f d.sub d.idx = k then sweepOne s d else s := by
  unfold sweepRing
  by_cases here : ringKey d.f d.sub d.idx = k
  · simp [List.find?, here]
  · simp [List.find?, beq_false_of_ne here, here]

theorem foldl_sweepRing_of_reached {d : DoorbellRead} {at_ : Nat} (l : List Nat) {s : State}
    (reached : sweptTo (ringKey d.f d.sub d.idx) (d.value % 65536) at_ s) :
    sweptTo (ringKey d.f d.sub d.idx) (d.value % 65536) at_ (l.foldl (sweepRing [d]) s) := by
  induction l generalizing s with
  | nil => exact reached
  | cons k l ih =>
    rw [List.foldl_cons, sweepRing_single]
    split
    · exact ih (sweepOne_of_reached reached)
    · exact ih reached

/-- A sweep that comes to a ring whose entry is good moves its known position. -/
theorem foldl_sweepRing_of_mem {d : DoorbellRead} {at_ : Nat} {s : State}
    (one : sweptTo (ringKey d.f d.sub d.idx) (d.value % 65536) at_ (sweepOne s d)) :
    ∀ {l : List Nat}, ringKey d.f d.sub d.idx ∈ l →
      sweptTo (ringKey d.f d.sub d.idx) (d.value % 65536) at_ (l.foldl (sweepRing [d]) s)
  | k :: l, mem => by
    rw [List.foldl_cons, sweepRing_single]
    split
    · exact foldl_sweepRing_of_reached l one
    · next other => exact foldl_sweepRing_of_mem one ((List.mem_cons.mp mem).resolve_left other)

/-- Settles O14. -/
theorem pipsAndSweep : Obligations.PipsAndSweep := by
  intro t f k w r s ready velral running
  refine ⟨fun uninjected reserved key kind found sub inRing moves => ?_, fun uninjected reserved key kind found cmpOrEvt inRing accepts => ?_,
    fun d func key found page awake due notTag inRing moves => ?_⟩
  · subst key
    have good := pip_of_good (s := tick t s) (w := w) (r := r) ready velral uninjected reserved (by omega) (by rw [kind]; exact found) running
      (by rw [sub]; decide) inRing
    rw [if_pos kind, pipTail, if_neg (by simp [running]), if_pos moves] at good
    refine completes_of (congrArg Host.Outcome.next good) ?_
    rw [quiet_known (quiet_bump _ _ _)]
    exact known_onRing (n := 0) (t := s) (s := tick t s) found rfl
  · subst key
    have good := pip_of_good (s := tick t s) (w := w) (r := r) ready velral uninjected reserved (by omega) (by rw [kind]; exact found) running
      (by rcases cmpOrEvt with h | h <;> rw [h] <;> decide) inRing
    rw [if_neg (by omega), if_pos accepts, pipHead, if_neg (by simp [running])] at good
    refine completes_of (congrArg Host.Outcome.next good) ?_
    rw [quiet_known (quiet_bump _ _ _)]
    exact known_onRing (n := 0) (t := s) (s := tick t s) found rfl
  · subst func key
    have sweeps : sweepDue (tick t s) = true := by simp [sweepDue, awake, velral, due]
    have key : ringKey d.f d.sub d.idx ∈ tkeys s.rge.rings := List.mem_map.mpr ⟨_, tget_mem found, rfl⟩
    refine completes_of (show execSweep t [d] s = _ from if_pos sweeps) ?_
    exact foldl_sweepRing_of_mem (sweepOne_of_good (s := onRge (fun r => { r with lastSweep := (tick t s).now }) (tick t s)) found ready page
      running notTag inRing moves) key

end Sys2Proof.Machine
end

section
/-!
SUPPORT. Power, resets and the Host Link (11, 20): the branch that each event takes where it acts, and the statements that rest on this.
-/
namespace Sys2Proof.Machine

/-- What a loss of power leaves (R761): of the boot state the rollback floor alone, and nothing that is volatile. -/
theorem powerOff_facts (s : State) : (powerOff s).boot = { floor := s.boot.floor } ∧ (powerOff s).rge = {} ∧ (powerOff s).regs = [] ∧
    (powerOff s).med.stone = [] ∧ (powerOff s).dbg.level = .closed := by
  have floor : (wipe (loseStone (lostHist s))).boot.floor = s.boot.floor := of_one (a := .floor) (by simp)
  refine ⟨?_, rfl, rfl, rfl, rfl⟩
  unfold powerOff
  dsimp only
  rw [floor]

/-- With RESET_N high, a release of it takes a powered part that EXTEST does not hold out of reset (R763, R751). -/
theorem execResetNRelease_of_held {t : Nat} {s : State} (env : BootEnv) (powered : s.boot.powered = true) (inReset : s.boot.inReset = true)
    (noExtest : s.dbg.extest = false) :
    execResetNRelease t env s = .next (startBoot env (onBoot (fun b => { b with resetN := true }) (tick t s))) :=
  if_pos (by simp [powered, inReset, noExtest])

/-- Power good starts the boot where RESET_N is high (R763). -/
theorem execPowerOn_of_unpowered {t : Nat} {s : State} (resetN perstN : Bool) (env : BootEnv) (unpowered : s.boot.powered = false) :
    execPowerOn t resetN perstN env s = .next (
      let w := onBoot (fun b => { b with powered := true, powerAt := max s.now t, resetN := resetN, perstN := perstN, inReset := true, attempts := 0 })
        (tick t s)
      if resetN then startBoot env w else w) :=
  if_neg (by simp [unpowered])

/-- Settles O15. -/
theorem powerAndReset : Obligations.PowerAndReset := by
  intro t s
  refine ⟨fun perstN env unpowered => ?_, fun perstN env unpowered => ?_, fun env powered inReset noExtest => ?_, fun running noTest noFlush => ?_,
    fun powered running noTest noService late => ?_, fun units torn copies powered => ?_⟩
  · obtain ⟨on, out, test⟩ := startBoot_facts env (onBoot (fun b => { b with
      powered := true, powerAt := max s.now t, resetN := true, perstN := perstN, inReset := true, attempts := 0 }) (tick t s))
    exact completes_of (execPowerOn_of_unpowered true perstN env unpowered) ⟨on, out, test⟩
  · exact completes_of (execPowerOn_of_unpowered false perstN env unpowered) ⟨rfl, rfl, rfl⟩
  · obtain ⟨-, out, test⟩ := startBoot_facts env (onBoot (fun b => { b with resetN := true }) (tick t s))
    exact completes_of (execResetNRelease_of_held env powered inReset noExtest) ⟨out, test⟩
  · refine completes_of rfl ?_
    rw [if_neg (by simp [noFlush])]
    exact resetRequest_facts false _ running noTest
  · refine completes_of rfl ?_
    rw [if_pos (by simp [powered, running, noTest, noService, late])]
    exact resetRequest_facts true (tick t s) running noTest
  · exact completes_of (if_pos powered) (powerOff_facts (tick t s))

/-- Settles O16. -/
theorem hostLink : Obligations.HostLink := by
  intro t s
  refine ⟨fun ready => ?_, fun hot ready => ?_, fun booted down => ?_, fun step up running => ?_, fun up => ?_⟩
  · have boot : ∀ l w, (linkReset l w).boot = w.boot := fun l w => of_one (a := .boot) (by simp)
    refine completes_of rfl ⟨?_, linkReset_facts .down (onBoot (fun b => { b with perstN := false }) (tick t s)) ready⟩
    rw [boot]
    rfl
  · exact completes_of rfl (linkReset_facts _ (tick t s) ready)
  · refine completes_of rfl ?_
    rw [startLink, if_pos (by simp [booted, down])]
    exact ⟨rfl, rfl⟩
  · exact congrArg Host.Outcome.next (if_pos (by simp [step, up, running]))
  · exact congrArg Host.Outcome.next (if_pos up)

end Sys2Proof.Machine
end

section
/-!
SUPPORT. Namespaces and streams (03): the branch of each command that makes or removes one, and the statements that rest on this.
-/
namespace Sys2Proof.Machine

/-- A command in service that ends after work that keeps the rings and functions posts its completion. -/
theorem InService.posts {op id : Nat} {c : Flight} {s w : State} (served : InService op id c s) (status result : Nat) (quiet : Quiet s w) :
    Posted c status result (complete id status result w) :=
  posted_of served quiet status result {}

/-- The namespace that a create command describes. -/
def createdNs (c : Flight) : Ns :=
  { nstype := dfld c 24 1, grain := dfld c 25 1, zest := dfld c 26 1, owner := dfld c 28 2, cap := dfld c 32 8, holdMax := dfld c 40 8 }

/-- A namespace create with room makes the namespace that its command describes (R107). -/
theorem nsCreate_of_room {id n : Nat} {c : Flight} {s : State} (number : n = (if c.nsid = 0 then (tfree 1 1024 s.cmd.nss).getD 0 else c.nsid))
    (nonzero : n ≠ 0) (inRange : c.nsid ≤ 1024) (new : c.nsid ≠ 0 → nsOf s c.nsid = none) (unlocked : gateOpen s 0 2 = true)
    (ready : rngReady s = true) (supply : s.pins.vppOk = true)
    (room : dfld c 32 8 * (if dfld c 24 1 = 0 ∧ dfld c 25 1 = 1 then 4 else 1) ≤ unalloc s) :
    nsCreate id c s = complete id 0 n (onCmd (fun q => { q with nss := tput n (createdNs c) q.nss })
      (writeSlot (1 + n) true 3 n (random 16 s).1 (random 16 s).2)) := by
  have notTaken : ¬(c.nsid ≠ 0 ∧ (nsOf s c.nsid).isSome = true) := fun ⟨named, taken⟩ => by simp [new named] at taken
  unfold nsCreate
  dsimp only
  rw [← number, if_neg (by simp [unlocked]), if_neg notTaken, if_neg (by omega), if_neg nonzero, if_neg (by omega), if_neg (by simp [ready, supply])]
  rfl

/-- A delete of a namespace that nothing names removes it (R108). -/
theorem nsDelete_of_idle {id : Nat} {c : Flight} {s : State} (idle : nsBusy s id c.nsid = false)
    (empty : tany (fun _ x => x.nsid == c.nsid) s.cmd.streams = false) (supply : s.pins.vppOk = true) :
    nsDelete id c s = complete id 0 0 (dropStone (fun i => !i.isRec && i.a == c.nsid)
      (onCmd (fun q => { q with nss := tdel c.nsid q.nss }) (writeSlot (1 + c.nsid) false 3 c.nsid [] s))) := by
  unfold nsDelete
  dsimp only
  rw [if_neg (by simp [idle, empty]), if_neg (by simp [supply])]

theorem cmd_dropStone (p : StoneItem → Bool) (s : State) : (dropStone p s).cmd = s.cmd := of_one (a := .cmd) (by simp)

theorem rge_dropStone (p : StoneItem → Bool) (s : State) : (dropStone p s).rge = s.rge := of_one (a := .rge) (by simp)

theorem quiet_writeSlot (i : Nat) (e : Bool) (r n : Nat) (l : List Byte) (s : State) : Quiet s (writeSlot i e r n l s) := quiet_putTriad _ _ _

/-- Settles O17. -/
theorem namespaces : Obligations.Namespaces := by
  intro t id c s
  refine ⟨fun n served number nonzero inRange new unlocked ready supply room => ?_, fun served idle empty supply => ?_⟩
  · have taken : exec (.nsCreate t id) s = .next (nsCreate id c (tick t s)) := (served.tick t).serve _
    refine completes_of taken ?_
    rw [nsCreate_of_room (s := tick t s) number nonzero inRange new unlocked ready supply room]
    have quiet : Quiet (tick t s) (writeSlot (1 + n) true 3 n (random 16 (tick t s)).1 (random 16 (tick t s)).2) :=
      (quiet_writeSlot ..).since rfl
    refine ⟨(served.tick t).posts _ _ (quiet.trans (.of_rge ?_)), ?_⟩
    · rfl
    rw [nsOf, cmd_complete]
    exact congrArg _ tget_tput_self
  · have taken : exec (.nsDelete t id) s = .next (nsDelete id c (tick t s)) := (served.tick t).serve _
    refine completes_of taken ?_
    rw [nsDelete_of_idle (s := tick t s) idle empty supply]
    have quiet : Quiet (tick t s) (writeSlot (1 + c.nsid) false 3 c.nsid [] (tick t s)) := quiet_writeSlot ..
    refine ⟨(served.tick t).posts _ _ (quiet.trans (.of_rge (rge_dropStone ..))), ?_⟩
    rw [cmd_complete, cmd_dropStone]
    show tdel c.nsid (writeSlot _ _ _ _ _ _).cmd.nss = _
    rw [cmd_writeSlot]
    rfl

/-- The stream that a create with the given number and Segment makes, its credit full. -/
def createdStrm (s : State) (c : Flight) (k seg : Nat) : Strm :=
  let head := Config.hmacSha256 (chainKey s c.nsid) (genesisBlock c.nsid k (evTime s) (random 16 s).1)
  { nsid := c.nsid, group := dfld c 26 1, seg := seg, codec := dfld c 28 1, retain := dfld c 29 1, zest := dfld c 30 1,
    holdPeriod := dfld c 32 8, rate := dfld c 40 4, recalls := dfld c 44 2, nonce := (random 16 s).1, created := evTime s,
    genesis := head, head := head, expSeen := s.cad.frame }

/-- A stream create within its owner's quota and its Segment's budgets enters the stream in the table (R110, R111). -/
theorem strmCreate_streams {id k seg : Nat} {c : Flight} {s : State} (quota : ownedStreams s c.fn < (funcOf s c.fn).streams)
    (number : (if c.stream = 0xFFFF then tfree 0 8192 s.cmd.streams else some c.stream) = some k) (new : strmOf s k = none)
    (segment : seg = (if dfld c 27 1 = 0xFF then chooseSeg s else dfld c 27 1)) (seals : sealResv s seg + dfld c 40 4 ≤ sealBudget s seg)
    (recalls : recallResv s seg + dfld c 44 2 ≤ recallBudget s seg) :
    ∃ w, strmOf (strmCreate id c s) k = some (fullCredit w (createdStrm s c k seg)) := by
  have notFull : ¬ownedStreams s c.fn ≥ (funcOf s c.fn).streams := not_le.mpr quota
  have fits : ¬(sealResv s seg + dfld c 40 4 > sealBudget s seg ∨ recallResv s seg + dfld c 44 2 > recallBudget s seg) := by omega
  have relevelled : ∀ (p : Prop) [Decidable p] (w : State), (if p then relevelNow seg w else w).cmd.streams = w.cmd.streams := by
    intro p _ w
    split
    · exact relevelNow_streams seg w
    · rfl
  unfold strmCreate
  dsimp only
  rw [number, if_neg notFull]
  dsimp only
  rw [if_neg (by simp [new]), ← segment, if_neg fits]
  unfold strmOf
  rw [cmd_complete, relevelled]
  exact ⟨_, tget_tput_self⟩

/-- A delete of a stream that is idle, that no fence covers and that holds no Hold record removes it (R112). -/
theorem strmDelete_of_idle {id : Nat} {c : Flight} {x : Strm} {s : State} (found : strmOf s c.stream = some x)
    (idle : strmBusy s id c.stream = false) (unfenced : fenceCovers s x = false) (unheld : tany (fun _ r => heldNow s r) x.recs = false) :
    strmDelete id c s = complete id 0 0 (dropStone (fun i => i.isRec && i.a == c.stream) (onCmd (fun q => { q with
      streams := tdel c.stream q.streams
      sels := q.sels.filter fun e => fld e.area 0 2 != c.stream
      exports := q.exports.filter fun e => e.stream != c.stream }) s)) := by
  unfold strmDelete
  dsimp only
  rw [found]
  dsimp only
  rw [if_neg (by simp [idle, unfenced]), if_neg (by simp [unheld])]

/-- Settles O18. -/
theorem streams : Obligations.Streams := by
  intro t id c s
  refine ⟨fun k seg served ready keyed quota number new segment seals recalls => ?_, fun x served found idle unfenced unheld => ?_,
    fun x served found => ?_⟩
  · have taken : exec (.streamCreate t id) s = .next (strmCreate id c (tick t s)) := by
      show execStreamCreate t id s = _
      unfold execStreamCreate
      dsimp only
      rw [if_pos (show rngReady (tick t s) = true from ready), (served.tick t).serve, if_pos (show nsKeyOk (tick t s) c.nsid = true from keyed)]
    obtain ⟨w, made⟩ := strmCreate_streams (id := id) (s := tick t s) quota number new segment seals recalls
    refine completes_of taken ?_
    rw [made]
    exact ⟨rfl, rfl⟩
  · have taken : exec (.streamDelete t id) s = .next (strmDelete id c (tick t s)) := (served.tick t).serve _
    refine completes_of taken ?_
    rw [strmDelete_of_idle (s := tick t s) found idle unfenced unheld]
    refine ⟨(served.tick t).posts _ _ (.of_rge (rge_dropStone ..)), ?_⟩
    rw [cmd_complete, cmd_dropStone]
    rfl
  · have taken : exec (.streamQuery t id) s = .next (complete id 0 0 (output c (strmStruct c.stream x) (tick t s))) := by
      show execStreamQuery t id s = _
      rw [execStreamQuery, (served.tick t).serve]
      simp only [show strmOf (tick t s) c.stream = some x from found]
    exact completes_of taken (outPosted (served.tick t) _)

end Sys2Proof.Machine
end

section
/-!
SUPPORT. Commands that read and commands of control (03): what each sends or ends, and the statements that rest on this.
-/
namespace Sys2Proof.Machine

/-- A command in service completes with what its service leaves, where its row serves it. -/
theorem completes_of_serve {op id t : Nat} {c : Flight} {I : Instr} {f : Flight → State → State} {s : State} {P : State → Prop}
    (row : Host.Outcome State Fault Refusal) (served : InService op id c s) (serves : row = serve op id f (tick t s)) (runs : exec I s = row)
    (holds : P (f c (tick t s))) : Completes I s P :=
  ⟨_, (runs.trans serves).trans ((served.tick t).serve f), holds⟩

/-- GET_LOG of any log but the health log sends the part asked for (R142). -/
theorem execGetLog_of_plain {t id : Nat} {c : Flight} {s : State} (served : InService 0x07 id c s) (notHealth : dfld c 24 1 ≠ 2) :
    execGetLog t id s = .next (complete id 0 0
      (output c (slice (logBytes (tick t s) c.fn (dfld c 24 1)) (dfld c 32 8) c.len) (tick t s))) := by
  unfold execGetLog
  rw [(served.tick t).serve]
  simp only [if_neg notHealth]

/-- DIAG_READ of a page in range that no erase holds sends it once its read is in progress (R148, R149). -/
theorem execDiagRead_of_going {t id d : Nat} {flips : List Nat} {c : Flight} {x : Die} {s : State} (served : InService 0x0F id c s)
    (die : d = dfld c 24 1 * 16 + dfld c 25 1 * 2 + dfld c 26 1) (found : tget d s.flw.dies = some x) (block : dfld c 28 4 < x.blocks)
    (page : dfld c 32 4 < x.pages) (unerased : ∀ o, x.op = some o → o.erase = true → o.block ≠ dfld c 28 4) (going : diagGoing x id = true) :
    execDiagRead t id flips s = .next (complete id 0 0
      (output c (fit c.len (flipBits (pageGroup (tick t s) d (dfld c 28 4) (dfld c 32 4) x) flips)) (tick t s))) := by
  have notErased : ∀ o, x.op = some o → (o.erase && o.block == dfld c 28 4) = false := fun o op => by
    by_cases erasing : o.erase = true
    · simp [erasing, unerased o op erasing]
    · simp [erasing]
  unfold execDiagRead
  rw [(served.tick t).serve]
  dsimp only
  rw [← die, show tget d (tick t s).flw.dies = some x from found]
  dsimp only
  rw [if_neg (by omega), if_neg (by omega), if_neg ?_, if_neg (by simp [going])]
  cases op : x.op with
  | none => simp
  | some o => simpa using notErased o op

/-- Settles O19. -/
theorem readingCommands : Obligations.ReadingCommands := by
  intro t id c s
  refine ⟨fun served device => ?_, fun x served named found => ?_, fun served list => ?_, fun served notHealth => ?_,
    fun flips d x served die found block page unerased going => ?_⟩
  · have sent : exec (.identify t id) s = .next (complete id 0 0 (output c (deviceStruct (tick t s)) (tick t s))) := by
      show execIdentify t id s = _
      rw [execIdentify, (served.tick t).serve]
      simp only [device]
    exact completes_of sent (outPosted (served.tick t) _)
  · have sent : exec (.identify t id) s = .next (complete id 0 0 (output c (nsStruct (tick t s) c.nsid x) (tick t s))) := by
      show execIdentify t id s = _
      rw [execIdentify, (served.tick t).serve]
      simp only [named, show nsOf (tick t s) c.nsid = some x from found]
    exact completes_of sent (outPosted (served.tick t) _)
  · have sent : exec (.identify t id) s = .next (complete id 0 0 (output c (nsList (tick t s) c.fn) (tick t s))) := by
      show execIdentify t id s = _
      rw [execIdentify, (served.tick t).serve]
      match kind : dfld c 24 1, list with
      | n + 2, _ => rfl
    exact completes_of sent (outPosted (served.tick t) _)
  · exact completes_of (execGetLog_of_plain served notHealth) (outPosted (served.tick t) _)
  · exact completes_of (execDiagRead_of_going served die found block page unerased going) (outPosted (served.tick t) _)

theorem cmd_withModes (m : Nat) (f : State → State) (s : State) : (withModes m f s).cmd = (f s).cmd := by
  have noticed : ∀ a b s, (modeNotice a b s).cmd = s.cmd := fun a b s => of_one (a := .cmd) (by simp)
  unfold withModes
  dsimp only
  split
  · rfl
  · exact noticed ..

theorem cmd_depotStart (s : State) : (depotStart s).cmd = s.cmd := of_one (a := .cmd) (by simp)

/-- The end of DEPOT clears its end (R147). -/
theorem endDepot_depotEnd (s : State) : (endDepot s).cmd.depotEnd = none := by
  have stopped : ∀ s, (depotStop s).cmd = s.cmd := fun s => of_one (a := .cmd) (by simp)
  unfold endDepot
  rw [stopped, cmd_withModes]
  rfl

/-- A DEPOT command of ACTION 1 sets the end of the window (R147). -/
theorem execDepotBegin_depotEnd {t id : Nat} {c : Flight} {s : State} (served : InService 0x0E id c s) (begins : dfld c 24 1 = 1) :
    Completes (.depotBegin t id) s fun u => u.cmd.depotEnd = some (s.cad.frame + dfld c 28 4) := by
  have sets : ∀ (p : Prop) [Decidable p] (m : CmdSt → CmdSt) (w : State),
      (if p then withModes 4 (onCmd m) w else depotStart (withModes 1 (onCmd m) w)).cmd = m w.cmd := by
    intro p _ m w
    split
    · rw [cmd_withModes]
      rfl
    · rw [cmd_depotStart, cmd_withModes]
      rfl
  refine completes_of_serve (execDepotBegin t id s) served rfl rfl ?_
  rw [if_neg (by simp [begins])]
  dsimp only
  rw [sets]
  rfl

/-- A command that has not begun to move data is ended by an ABORT with 0x0109, and the ABORT itself completes (R146). -/
theorem abortNamed_of_unbegun {j fn ring cid : Nat} {q : Flight} {s : State} (named : flightNamed s fn ring cid = some (j, q)) (unbegun : q.begun = false)
    (other : q.opcode ≠ 0x08) : abortNamed fn ring cid s =
      (0, complete j 0x0109 0 (endBoundFailed j (dropQueuedRun j (leaveStream j q s)))) := by
  unfold abortNamed
  rw [named]
  exact if_neg (by simp [unbegun, other])

theorem quiet_leaveStream (j : Nat) (q : Flight) (s : State) : Quiet s (leaveStream j q s) := .of_rge (of_one (a := .rge) (by simp))

theorem quiet_dropQueuedRun (j : Nat) (s : State) : Quiet s (dropQueuedRun j s) := .of_rge rfl

/-- FENCE_RELEASE by function 0 completes and frees the slot (R135). -/
theorem execFenceRelease_of_owner {t id : Nat} {c : Flight} {x : Fence} {s : State} (served : InService 0x09 id c s) (owner : c.fn = 0)
    (inRange : dfld c 24 1 ≤ 16) (found : tget (dfld c 24 1) s.cad.fences = some x) :
    execFenceRelease t id s = .next (releaseFence (dfld c 24 1) (complete id 0 0 (tick t s))) := by
  unfold execFenceRelease
  rw [(served.tick t).serve]
  dsimp only
  rw [if_neg (by simp [owner]), if_neg (by omega), show tget (dfld c 24 1) (tick t s).cad.fences = some x from found]
  dsimp only
  rw [if_neg (by simp [owner])]

theorem fences_releaseFence (k : Nat) (s : State) : (releaseFence k s).cad.fences = tdel k s.cad.fences := by
  have queued : ∀ s, (queueFences s).cad = s.cad := fun s => of_one (a := .cad) (by simp)
  unfold releaseFence
  rw [cad_cadNotice, queued]
  rfl

theorem later_releaseFence (k : Nat) (s : State) : Later s (releaseFence k s) := by
  have queued : ∀ s, (queueFences s).out = s.out := fun s => of_one (a := .out) (by simp)
  exact (later_post _ _ _ _ _).since (queued _)

/-- Settles O20. -/
theorem controlCommands : Obligations.ControlCommands := by
  intro t id c s
  refine ⟨fun j q served named flight unbegun other post => ?_, fun x served owner inRange found => ?_,
    fun served begins => execDepotBegin_depotEnd served begins, fun e served stops active => ?_, fun e active over_ => ?_⟩
  · refine completes_of_serve (execAbortCmd t id s) served rfl rfl ?_
    rw [abortNamed_of_unbegun (s := tick t s) named unbegun other]
    have quiet : Quiet (tick t s) (endBoundFailed j (dropQueuedRun j (leaveStream j q (tick t s)))) :=
      ((quiet_leaveStream ..).trans (quiet_dropQueuedRun ..)).trans (quiet_endBoundFailed ..)
    exact (quiet.posted flight post 0x0109 0 {}).later (later_completeX _ _ _ _ _)
  · have cad : (complete id 0 0 (tick t s)).cad = s.cad := of_one (a := .cad) (by simp)
    refine completes_of (execFenceRelease_of_owner served owner inRange found) ⟨?_, ?_⟩
    · exact ((served.tick t).posts _ _ (.refl _)).later (later_releaseFence _ _)
    · rw [fences_releaseFence, cad]
  · refine completes_of_serve (execDepotStop t id s) served rfl rfl ?_
    rw [if_neg (by simp [stops]), if_neg (by rw [show (tick t s).cmd.depotEnd = some e from active]; simp)]
    exact endDepot_depotEnd _
  · have ends : exec (.depotWindowEnd t) s = .next (endDepot (tick t s)) := by
      show execDepotWindowEnd t s = _
      unfold execDepotWindowEnd
      dsimp only
      rw [show (tick t s).cmd.depotEnd = some e from active]
      exact if_pos over_
    exact completes_of ends (endDepot_depotEnd _)

end Sys2Proof.Machine
end

section
/-!
SUPPORT. Firmware, programs and MAINT (03, 15, 20): the data that a command has taken, what a commit leaves in a slot, a run that is queued, and
the statements that rest on this.
-/
namespace Sys2Proof.Machine

/-- Data taken (R165) changes the Ring Engine alone, and the command still posts whatever it ends with. -/
theorem takesData_taken {op id : Nat} {c : Flight} {s w : State} (served : InService op id c s) (taken : takesData id c s = (true, w)) :
    ∃ r, w = { s with rge := r } ∧ ∀ y status result, y.rge = r → Posted c status result (complete id status result y) := by
  obtain ⟨flight, -, -, -, post⟩ := served
  unfold takesData at taken
  by_cases begun : c.begun = true
  · rw [if_pos begun, askMore, flight] at taken
    obtain ⟨-, rfl⟩ := Prod.mk.inj taken
    refine ⟨_, rfl, fun y status result same => ?_⟩
    set n := if servedS c then c.toRead else readAllow s c.toRead
    have here : tget id y.rge.flights = some { c with reading := c.reading + n, toRead := c.toRead - n } := by
      rw [same]
      show tget id (tmod id _ s.rge.flights) = _
      rw [tget_tmod, if_pos rfl, flight]
      rfl
    have funcs : ∀ f, funcOf y f = funcOf s f := fun f => by unfold funcOf; rw [same]
    have rings : ∀ k, ringOf y k = ringOf s k := fun k => by unfold ringOf; rw [same]
    have free : CanPost y { c with reading := c.reading + n, toRead := c.toRead - n } := by
      unfold CanPost cqKey at post ⊢
      simp only [funcs, rings]
      exact post
    exact complete_posted here free status result
  · rw [if_neg begun] at taken
    split at taken
    · obtain ⟨-, rfl⟩ := Prod.mk.inj taken
      refine ⟨_, rfl, fun y status result same => ?_⟩
      exact (Quiet.of_rge same).posted flight post status result {}
    · cases taken

/-- A firmware download whose data has been taken patches the staging buffer (R151). -/
theorem execFwDownload_of_taken {t id : Nat} {c : Flight} {d : List Byte} {s w : State} (served : InService 0x0C id c s)
    (taken : takesData id c (tick t s) = (true, w)) : execFwDownload t id (some d) s = .next (complete id 0 0
      (onCmd (fun q => { q with staging := patch q.staging (dfld c 24 4) (fit c.len d) }) w)) := by
  rw [execFwDownload, (served.tick t).serve]
  dsimp only
  rw [taken]

/-- A program image that is good, with a slot left of the function's share, takes the lowest free slot (R612). -/
theorem execProgLoad_of_taken {t id n : Nat} {c : Flight} {d : List Byte} {s w : State} {r : Rge} (served : InService 0x0A id c s)
    (taken : takesData id c (tick t s) = (true, w)) (left : w = { tick t s with rge := r })
    (image : imageOk s (dfld c 24 1 % 16) c.len (fit c.len d) = true) (share : slotsOf s c.fn < fieldOf s Reg.dspFnq 7 0)
    (free : tfree 0 32 s.dsp.progs = some n) : execProgLoad t id (some d) s = .next (complete id 0 n
      (onDsp (fun q => { q with progs := tput n { fn := c.fn, mask := dfld c 24 1 % 16, image := fit c.len d } q.progs }) w)) := by
  have imageHere : imageOk w (dfld c 24 1 % 16) c.len (fit c.len d) = true := by
    rw [left]
    exact image
  have freeHere : tfree 0 32 w.dsp.progs = some n := by
    rw [left]
    exact free
  have shareHere : slotsOf w c.fn < fieldOf w Reg.dspFnq 7 0 := by
    rw [left]
    exact share
  rw [execProgLoad, (served.tick t).serve]
  dsimp only
  rw [taken]
  dsimp only
  rw [if_neg (by simp [imageHere]), if_pos shareHere, freeHere]

/-- A unit of a boot slot that is free or held by this work is taken, and only the tokens change (R338). -/
theorem slotUnit_of_free {n : Nat} {s : State} (free : tokenFree s 6 (pithRes n) = true) : ∃ w, slotUnit n s = (true, w) ∧
    w.pith = s.pith ∧ w.cmd = s.cmd ∧ w.boot = s.boot := by
  have pith : (slotUnit n s).2.pith = s.pith := of_one (a := .pith) (by simp)
  have cmd : (slotUnit n s).2.cmd = s.cmd := of_one (a := .cmd) (by simp)
  have boot : (slotUnit n s).2.boot = s.boot := of_one (a := .boot) (by simp)
  refine ⟨(slotUnit n s).2, Prod.ext ?_ rfl, pith, cmd, boot⟩
  unfold slotUnit useTokens
  rw [if_pos (by simp [free])]

/-- A commit of a good staged image to a slot that does not run writes the image and its slot records (R152, R772). -/
theorem commitWrite_of_good {n : Nat} {act : Bool} {s : State} (notRunning : runningSlot s ≠ some n) (form : (imageOf s.cmd.staging).formOk = true)
    (signed : (imageOf s.cmd.staging).sigOk = true) (floor : s.boot.floor ≤ (imageOf s.cmd.staging).svn) :
    ∃ note w, commitWrite n act s = (0, note, w) ∧ (∀ y, (note y).pith = y.pith ∧ Later y (note y)) ∧ (slotOf w n).image = some (imageOf s.cmd.staging) ∧
      (slotOf w n).recs.map (·.skind) = if act then [1, 2] else [1] := by
  obtain ⟨recs, image⟩ := slotOf_record n 1 (onSlot n (fun b => { b with image := some (imageOf s.cmd.staging) }) (eraseSlot n s))
  rw [slotOf_onSlot] at recs image
  rw [slotOf_erase] at recs
  unfold commitWrite
  dsimp only
  rw [if_neg notRunning, if_neg (by simp [form, signed]), if_neg (by omega)]
  cases act with
  | false => exact ⟨_, _, rfl, fun y => ⟨pith_fwNotice .., later_post _ _ _ _ _⟩, image, recs⟩
  | true =>
    obtain ⟨recs2, image2⟩ := slotOf_record n 2 (slotRecord n 1 (onSlot n (fun b => { b with image := some (imageOf s.cmd.staging) }) (eraseSlot n s)))
    exact ⟨_, _, rfl,
      fun y => ⟨(pith_fwNotice ..).trans (pith_fwNotice ..), (later_post _ _ _ _ _).trans (later_post _ _ _ _ _)⟩,
      image2.trans image, by rw [recs2, recs]; rfl⟩

/-- A commit that activates a valid slot that does not run adds an activation record (R773). -/
theorem commitActivate_of_good {n : Nat} {s : State} (notRunning : runningSlot s ≠ some n) (valid : slotValid s (slotOf s n) = true)
    (image : (slotOf s n).image.isSome = true) (room : (slotOf s n).recs.length ≤ 2040) :
    ∃ note, commitActivate n s = (0, note, slotRecord n 2 s) ∧ ∀ y, (note y).pith = y.pith := by
  obtain ⟨i, found⟩ := Option.isSome_iff_exists.mp image
  unfold commitActivate
  dsimp only
  rw [if_neg notRunning, if_neg (by simp [valid]), if_neg (by omega), found]
  exact ⟨_, rfl, fun y => pith_fwNotice ..⟩

theorem slotOf_ended (note : State → State) (noted : ∀ y, (note y).pith = y.pith) (id status n : Nat) (w : State) :
    slotOf (note (complete id status 0 w)) n = slotOf w n :=
  slotOf_pith ((noted _).trans (pith_complete ..)) n

/-- The run that a PROG_RUN queues on a Segment (R613). -/
def queuedRun (c : Flight) (id g order : Nat) : DRun :=
  { fn := c.fn, id := id, slot := dfld c 24 1, seg := g, args := [dfld c 32 8, dfld c 40 8, dfld c 48 8, dfld c 56 8],
    budget := dfld c 28 4, cid := c.cid, ring := c.ring, order := order }

/-- A run with its program, a Segment that takes it and an item free is queued (R613). -/
theorem execProgRun_of_good {t id g key : Nat} {c : Flight} {p : Prog} {s : State} (served : InService 0x2A id c s)
    (new : tany (fun _ x => x.id == id) s.dsp.runs = false) (segment : g = dfld c 25 1) (inRange : g < 4)
    (program : progOf s c.fn (dfld c 24 1) = some p) (masked : nbit p.mask g = true) (on : segOn s g = true)
    (guests : (guestCores s g).isEmpty = false)
    (room : tcount (fun _ x => x.fn == c.fn && x.seg == g) s.dsp.runs < fieldOf s Reg.dspFnq 15 8) (free : freeItem s g = some key)
    (awake : domSleep s g = 0) : ∃ r, tget key r.dsp.runs = some (queuedRun c id g s.dsp.order)
      ∧ execProgRun t id s = .next r := by
  unfold execProgRun
  dsimp only
  rw [if_neg (by rw [Bool.not_eq_true]; exact new), (served.tick t).serve]
  rw [← segment, show progOf (tick t s) c.fn (dfld c 24 1) = some p from program]
  dsimp only
  rw [if_neg (by simp [masked]), if_neg (by rw [show segOn (tick t s) g = true from on]; simp), if_neg (by omega)]
  dsimp only
  rw [if_neg (by rw [Bool.not_eq_true]; exact guests), 
    if_neg (show ¬tcount (fun _ x => x.fn == c.fn && x.seg == g) (tick t s).dsp.runs ≥ fieldOf (tick t s) Reg.dspFnq 15 8 from not_le.mpr room),
    if_neg (show ¬domSleep (tick t s) g ≠ 0 from not_not_intro awake),
    queueRun, show freeItem (tick t s) g = some key from free]
  exact ⟨_, tget_tput_self, rfl⟩

/-- Settles O21. -/
theorem firmwareAndPrograms : Obligations.FirmwareAndPrograms := by
  intro t id c s
  refine ⟨fun d w served taken => ?_, fun served supply action notRunning form signed floor free => ?_,
    fun served supply action notRunning valid image room free => ?_, fun d n w served taken image share free => ?_,
    fun served found unused => ?_, fun p g key served new segment inRange program masked on guests room free awake => ?_⟩
  · obtain ⟨r, left, posts⟩ := takesData_taken (served.tick t) taken
    refine completes_of (execFwDownload_of_taken served taken) ⟨posts _ _ _ (by rw [left]; rfl), ?_⟩
    rw [cmd_complete, left]
    rfl
  · obtain ⟨w, unit, pith, cmd, boot⟩ := slotUnit_of_free (s := tick t s) free
    have running : runningSlot w = runningSlot s := by unfold runningSlot; rw [boot]; rfl
    have staging : w.cmd.staging = s.cmd.staging := by rw [cmd]; rfl
    obtain ⟨note, z, wrote, noted, there, recs⟩ := commitWrite_of_good (n := dfld c 24 1) (act := dfld c 25 1 == 1) (s := w) (by rwa [running])
      (by rwa [staging]) (by rwa [staging]) (by rw [staging, boot]; exact floor)
    have ends : exec (.fwCommitWrite t id) s = .next (note (complete id 0 0 z)) := by
      show execFwCommitWrite t id s = _
      unfold execFwCommitWrite
      dsimp only
      rw [if_neg (by rw [show (tick t s).pins.vppOk = true from supply]; simp), (served.tick t).serve]
      rw [if_neg (by omega), unit]
      dsimp only
      rw [wrote]
    refine completes_of ends ?_
    rw [slotOf_ended note fun y => (noted y).1, there, staging, recs]
    exact ⟨rfl, by simp⟩
  · obtain ⟨w, unit, pith, cmd, boot⟩ := slotUnit_of_free (s := tick t s) free
    have running : runningSlot w = runningSlot s := by unfold runningSlot; rw [boot]; rfl
    have slot : slotOf w (dfld c 24 1) = slotOf s (dfld c 24 1) := slotOf_pith pith _
    have validHere : slotValid w (slotOf s (dfld c 24 1)) = true := by
      unfold slotValid imageValid at valid ⊢
      rw [boot]
      exact valid
    obtain ⟨note, wrote, noted⟩ := commitActivate_of_good (n := dfld c 24 1) (s := w) (by rwa [running]) (by rwa [slot]) (by rwa [slot]) (by rwa [slot])
    have ends : exec (.fwCommitActivate t id) s = .next (note (complete id 0 0 (slotRecord (dfld c 24 1) 2 w))) := by
      show execFwCommitActivate t id s = _
      unfold execFwCommitActivate
      dsimp only
      rw [if_neg (by rw [show (tick t s).pins.vppOk = true from supply]; simp), (served.tick t).serve]
      rw [if_neg (by omega), unit]
      dsimp only
      rw [wrote]
    refine completes_of ends ?_
    rw [slotOf_ended note noted, (slotOf_record ..).1, slot]
  · obtain ⟨r, left, posts⟩ := takesData_taken (served.tick t) taken
    have dsp : ∀ a b e w, (complete a b e w).dsp = w.dsp := fun a b e w => of_one (a := .dsp) (by simp)
    refine completes_of (execProgLoad_of_taken served taken left image share free) ⟨posts _ _ _ (by rw [left]; rfl), ?_⟩
    rw [dsp]
    exact tget_tput_self
  · have dsp : ∀ a b e w, (complete a b e w).dsp = w.dsp := fun a b e w => of_one (a := .dsp) (by simp)
    obtain ⟨p, program⟩ := Option.isSome_iff_exists.mp found
    refine completes_of_serve (execProgUnload t id s) served rfl rfl ?_
    dsimp only
    rw [if_neg (by rw [show progOf (tick t s) c.fn (dfld c 24 1) = some p from program]; simp), if_neg (by rw [Bool.not_eq_true]; exact unused)]
    refine ⟨(served.tick t).posts _ _ (.of_rge rfl), ?_⟩
    rw [dsp]
    rfl
  · obtain ⟨r, queued, ends⟩ := execProgRun_of_good (t := t) served new segment inRange program masked on guests room free awake
    refine completes_of ends ?_
    rw [queued]
    rfl

/-- A MAINT of the kind asked for runs that kind's work. -/
theorem maint_of_kind {t id kind : Nat} {c : Flight} {s : State} (served : InService 0x2B id c s) (asked : dfld c 24 1 = kind)
    (f : Flight → State → State) : maint kind id f (tick t s) = .next (f c (tick t s)) := by
  rw [maint, (served.tick t).serve]
  simp only [if_pos asked]

theorem maintDone_of_left {id n : Nat} {l : List Nat} {s : State} (left : l ≠ []) : maintDone id l n s = keepMaint id l n s := by
  rw [maintDone, if_neg (by simpa using left)]

/-- A patrol keeps what it has still to read (R150). -/
theorem execMaintPatrol_of_work {t id n : Nat} {l : List Nat} {c : Flight} {s : State} (served : InService 0x2B id c s) (kind : dfld c 24 1 = 1)
    (keyed : nsKeyOk s c.nsid = true) (work : c.todo = none ∧ l = patrolWork (tick t s) c.nsid ∧ n = nsBlocks (tick t s) c.nsid ∨
      ∃ m, c.todo = some m ∧ l = patrolLeft (tick t s) m ∧ n = c.worked) : execMaintPatrol t id s = .next (maintDone id l n (tick t s)) := by
  rw [execMaintPatrol, maint_of_kind served kind]
  rw [if_neg (by rw [show nsKeyOk (tick t s) c.nsid = true from keyed]; simp)]
  obtain ⟨first, rfl, rfl⟩ | ⟨m, again, rfl, rfl⟩ := work
  · rw [first]
  · rw [again]

/-- Compaction keeps the bands that it has still to rewrite (R150, R328). -/
theorem execMaintCompact_of_work {t id n : Nat} {l : List Nat} {c : Flight} {s w : State} (served : InService 0x2B id c s) (kind : dfld c 24 1 = 2)
    (allowed : s.cmd.depotEnd.isSome ∨ c.todo.isSome) (keyed : nsKeyOk s c.nsid = true)
    (work : compactStep (c.todo.getD (compactWork (tick t s) c.nsid)) (tick t s) = (l, n, w)) :
    execMaintCompact t id s = .next (maintDone id l (c.worked + n) w) := by
  have notShut : ¬((tick t s).cmd.depotEnd.isNone = true ∧ c.todo.isNone = true) := fun ⟨shut, new⟩ => by
    have none : s.cmd.depotEnd.isNone = true := shut
    rw [Option.isNone_iff_eq_none] at none new
    simp [none, new] at allowed
  rw [execMaintCompact, maint_of_kind served kind]
  dsimp only
  rw [if_neg notShut, if_neg (by rw [show nsKeyOk (tick t s) c.nsid = true from keyed]; simp), work]

theorem readable_of_sound : ∀ {l : Tab Rec}, (∀ p ∈ l, p.2.lost = false) → readable l = (l, none)
  | [], _ => rfl
  | (n, r) :: l, sound => by
    rw [readable, if_neg (by rw [sound (n, r) (List.mem_cons_self ..)]; simp),
      readable_of_sound fun p mem => sound p (List.mem_cons_of_mem _ mem)]

theorem tillFault_of_sound : ∀ {l : Tab Rec}, (∀ p ∈ l, p.2.lost = false ∧ p.2.damaged = false ∧ (recContent p.2).isNone = false) → tillFault l = l
  | [], _ => rfl
  | (n, r) :: l, sound => by
    obtain ⟨kept, whole, decoded⟩ := sound (n, r) (List.mem_cons_self ..)
    rw [tillFault, if_neg (by simp [show r.lost = false from kept, show r.damaged = false from whole]), if_neg (by rw [decoded]; simp),
      tillFault_of_sound fun p mem => sound p (List.mem_cons_of_mem _ mem)]

theorem chainDetect_of_whole {seg first : Nat} {s : State} (unarmed : s.integ.armed = false) : chainDetect seg first none s = (none, s) := by
  unfold chainDetect
  rw [meet_unarmed unarmed]
  rfl

/-- Verification of a stream whose chain holds and whose records can all be read answers all ones (R150). -/
theorem execMaintVerify_of_whole {t id : Nat} {c : Flight} {x : Strm} {s : State} (served : InService 0x2B id c s) (kind : dfld c 24 1 = 3)
    (unarmed : s.integ.armed = false) (found : strmOf s (dfld c 28 2) = some x) (keyed : nsKeyOk s x.nsid = true)
    (sound : ∀ p ∈ x.recs, p.2.lost = false ∧ p.2.damaged = false ∧ (recContent p.2).isNone = false)
    (whole : chainOf (chainKey s x.nsid) x x.recs = none) :
    execMaintVerify t id s = .next (complete id 0 0xFFFFFFFFFFFF (countReads x true false x.recs (tick t s)).2) := by
  obtain ⟨good, mild⟩ := countReads_unarmed x true false x.recs (tick t s) unarmed fun p mem => (sound p mem).2.2
  have pith : (countReads x true false x.recs (tick t s)).2.pith = s.pith := of_one (a := .pith) (by simp)
  have key : chainKey (countReads x true false x.recs (tick t s)).2 x.nsid = chainKey s x.nsid := by
    unfold chainKey keySlot
    rw [triad_pith pith]
  have unarmedThere := mild.2.2.2 unarmed
  rw [execMaintVerify, maint_of_kind served kind]
  dsimp only
  rw [show strmOf (tick t s) (dfld c 28 2) = some x from found]
  dsimp only
  rw [if_neg (by rw [show nsKeyOk (tick t s) x.nsid = true from keyed]; simp), readable_of_sound fun p mem => (sound p mem).1]
  dsimp only
  rw [readsUntil, show chainOf (chainKey (tick t s) x.nsid) x x.recs = none from whole]
  dsimp only
  rw [tillFault_of_sound sound, good]
  dsimp only
  rw [key, whole, chainDetect_of_whole unarmedThere, ite_self]

/-- Settles O22. -/
theorem maintenance : Obligations.Maintenance := by
  intro t id c s served
  refine ⟨fun l n kind keyed work => ⟨fun left => ?_, ?_⟩, fun l n w kind allowed keyed work => ⟨fun left => ?_, ?_⟩,
    fun x kind unarmed found keyed sound whole => ?_⟩
  · exact (execMaintPatrol_of_work served kind keyed work).trans (by rw [maintDone_of_left left])
  · rintro rfl
    exact execMaintPatrol_of_work served kind keyed work
  · exact (execMaintCompact_of_work served kind allowed keyed work).trans (by rw [maintDone_of_left left])
  · rintro rfl
    exact execMaintCompact_of_work served kind allowed keyed work
  · have all : ∀ p ∈ x.recs, p.2.lost = false ∧ p.2.damaged = false ∧ (recContent p.2).isNone = false := fun p mem => sound p.1 p.2 mem
    obtain ⟨-, mild⟩ := countReads_unarmed x true false x.recs (tick t s) unarmed fun p mem => (all p mem).2.2
    exact completes_of (execMaintVerify_of_whole served kind unarmed found keyed all whole) ((served.tick t).posts _ _ mild.1)

end Sys2Proof.Machine
end

section
/-!
SUPPORT. Records (03, 05): Seals, Recalls, LOCK and RELEASE, expiry, and the statements that rest on this.
-/
namespace Sys2Proof.Machine

/-- A Seal that passes the checks and for which reclaim leaves room is admitted (R116). -/
theorem execSealRec_of_room {t id : Nat} {c : Flight} {x y : Strm} {ns : Ns} {s z : State} (served : InService 0x20 id c s) (new : c.admitted = false)
    (stream : strmOf s c.stream = some x) (space : nsOf s c.nsid = some ns) (passes : sealChecks (tick t s) id c x = none)
    (made : makeRoom c.stream x ns c.len (tick t s) = z) (still : strmOf z c.stream = some y) (quota : nsRoom z c.nsid ns c.len = true)
    (slots : segRoom z y.seg (sealSlots z c.stream y) = true) (media : mediaRoom z y.seg c.len = true)
    (holds : sealHold c x = true → holdRoom z c.nsid ns c.len = true) : execSealRec t id s =
      .next (onFlight id (fun q => { q with admitted := true, resvSlots := sealSlots z c.stream y, resvHold := sealHold c x }) z) := by
  have held : (!sealHold c x || holdRoom z c.nsid ns c.len) = true := by
    cases hold : sealHold c x with
    | false => rfl
    | true => simpa using holds hold
  rw [execSealRec, (served.tick t).serve]
  rw [if_neg (by simp [new]), show strmOf (tick t s) c.stream = some x from stream, show nsOf (tick t s) c.nsid = some ns from space]
  dsimp only
  rw [passes]
  dsimp only
  unfold sealRoom
  dsimp only
  rw [made, still]
  dsimp only
  rw [if_pos ⟨quota, slots, media, held⟩]

/-- Foreground collection that has what it needs changes the media alone (R306). -/
theorem foreground_granted {key seg n cls : Nat} {s w : State} (granted : foreground key seg n cls s = (true, w)) :
    ∃ m, w = { s with med := m } := by
  unfold foreground at granted
  dsimp only at granted
  split at granted
  · exact ⟨_, (Prod.mk.inj granted).2.symm⟩
  · split at granted
    · split at granted
      · cases granted
      · exact ⟨_, (Prod.mk.inj granted).2.symm⟩
    · split at granted
      · exact ⟨_, (Prod.mk.inj granted).2.symm⟩
      · cases granted

/-- A started Seal is in service on its stream and has its place in Stone (R165, R195). -/
theorem startSeal_facts {k id : Nat} {c : Flight} {x : Strm} {s : State} (stream : strmOf s k = some x) (flight : tget id s.rge.flights = some c) :
    (strmOf (startSeal k id c s) k).map (·.inService) = some (some id) ∧
      (tget id (startSeal k id c s).rge.flights).map (fun q => (q.begun, q.stone)) = some (true, c.len) := by
  unfold startSeal
  dsimp only
  constructor
  · rw [strmOf_onStrm, if_pos rfl]
    show ((strmOf s k).map _).map _ = _
    rw [stream]
    rfl
  · show (tget id (tmod id _ s.rge.flights)).map _ = _
    rw [tget_tmod, if_pos rfl, flight]
    rfl

/-- An admitted Seal whose stream is free, with a place inline and room in Stone, starts once its class lets it (R165, R195, R306, R472). -/
theorem execSealServiceStart_of_room {t id : Nat} {c : Flight} {x : Strm} {s : State} (stream : strmOf s c.stream = some x)
    (next : tfind (fun _ q => q.isSeal && q.stream == c.stream) s.rge.flights = some (id, c)) (free : x.inService = none) (admitted : c.admitted = true)
    (may : maySetOut s id c = true) (inline : inlineRoom s c = true) (stone : stoneRoom s c.seg c.len (c.cls == .s) = true)
    (allowed : c.cls = .s ∨ mayRead s c = true ∧ (foreground (4 * id + c.seg) c.seg c.len (clsNo c.cls) (tick t s)).1 = true) :
    ∃ m, execSealServiceStart t c.stream s = .next (startSeal c.stream id c { tick t s with med := m }) := by
  have start : execSealServiceStart t c.stream s = if c.cls = .s then .next (startSeal c.stream id c (tick t s))
      else if !mayRead (tick t s) c then .next (tick t s)
      else match foreground (4 * id + c.seg) c.seg c.len (clsNo c.cls) (tick t s) with
        | (false, s) => .next s
        | (true, s) => .next (startSeal c.stream id c s) := by
    unfold execSealServiceStart
    dsimp only
    rw [show strmOf (tick t s) c.stream = some x from stream,
      show tfind (fun _ q => q.isSeal && q.stream == c.stream) (tick t s).rge.flights = some (id, c) from next]
    dsimp only
    rw [if_neg (by simp [free, admitted]), if_neg (by rw [show maySetOut (tick t s) id c = true from may]; simp),
      if_neg (by rw [show inlineRoom (tick t s) c = true from inline]; simp),
      if_pos (show stoneRoom (tick t s) c.seg c.len (c.cls == .s) = true from stone)] <;> rfl
  by_cases sealed : c.cls = .s
  · exact ⟨(tick t s).med, by rw [start, if_pos sealed]⟩
  · obtain ⟨read, room⟩ := allowed.resolve_left sealed
    obtain ⟨m, left⟩ := foreground_granted (w := (foreground (4 * id + c.seg) c.seg c.len (clsNo c.cls) (tick t s)).2) (Prod.ext room rfl)
    refine ⟨m, ?_⟩
    rw [start, if_neg sealed, if_neg (by rw [show mayRead (tick t s) c = true from read]; simp), ← left]
    generalize foreground _ _ _ _ _ = got at room ⊢
    obtain ⟨granted, w⟩ := got
    dsimp only at room
    rw [room]

/-- A Seal in service whose record is there and whose header agrees is folded into its chain (R196 to R200). -/
theorem execSealFold_of_data {t id : Nat} {c : Flight} {x : Strm} {l : List Byte} {d : Conduct} {postBad : Bool} {s : State}
    (stream : strmOf s c.stream = some x) (flight : tget id s.rge.flights = some c) (serving : x.inService = some id) (here : c.toRead = 0)
    (agrees : headerAgrees c (fit c.len l) = true) (running : s.cad.exhausted = false) : execSealFold t id (some l) d postBad s = .next (endBound id d
      (completeFolded id c x.next (fold id c x (slice (fit c.len l) 0 160) ((fit c.len l).drop 160) (tick t s)).1 postBad)
      (fold id c x (slice (fit c.len l) 0 160) ((fit c.len l).drop 160) (tick t s)).2) := by
  unfold execSealFold
  dsimp only
  rw [show tget id (tick t s).rge.flights = some c from flight]
  dsimp only
  rw [show strmOf (tick t s) c.stream = some x from stream]
  dsimp only
  rw [if_neg (by simp [serving, here]), if_neg (by simp [agrees]), if_neg (by rw [show (tick t s).cad.exhausted = false from running]; simp)]

/-- Settles O23. -/
theorem seals : Obligations.Seals := by
  intro t id c x s stream
  refine ⟨fun ns y served new space passes still quota slots media holds flight => ?_,
    fun next free admitted may inline stone flight allowed => ?_, fun l d postBad flight serving here agrees running => ?_⟩
  · refine completes_of (execSealRec_of_room served new stream space passes rfl still quota slots media holds) ?_
    show (tget id (tmod id _ (makeRoom c.stream x ns c.len (tick t s)).rge.flights)).map _ = _
    rw [tget_tmod, if_pos rfl, flight]
    rfl
  · obtain ⟨m, starts⟩ := execSealServiceStart_of_room (t := t) stream next free admitted may inline stone allowed
    exact completes_of starts (startSeal_facts (s := { tick t s with med := m }) stream flight)
  · have streams : ∀ b w, (completeFolded id c x.next b postBad w).cmd = w.cmd := fun b w => of_one (a := .cmd) (by simp)
    refine completes_of (execSealFold_of_data stream flight serving here agrees running) ?_
    rw [strmOf_cmd ((endBound_streams ..).trans (congrArg _ (streams ..)))]
    exact fold_head id c x _ _ (tick t s) stream

/-- Settles O24. -/
theorem recalls : Obligations.Recalls := by
  intro t id c x l w s unarmed stream keyed noVerify sound
  refine ⟨fun d served selected => ?_, fun d served selected => ?_, fun served selected => ?_⟩
  · exact recall_sent 0x21 id selTime selTime_quiet c x l d (tick t s) w (served.tick t) selected unarmed stream keyed noVerify sound
  · exact recall_sent 0x22 id selRecord selRecord_quiet c x l d (tick t s) w (served.tick t) selected unarmed stream keyed noVerify sound
  · exact recall_sent 0x23 id selRange selRange_quiet c x l {} (tick t s) w (served.tick t) selected unarmed stream keyed noVerify sound

/-- LOCK makes the records of its range that are not Hold as long hold to the new expiry (R132). -/
theorem lockRecs_of_room {id e : Nat} {c : Flight} {x : Strm} {ns : Ns} {chg : Tab Rec} {s : State}
    (expiry : e = min 0xFFFFFFFFFF (s.cad.frame + dfld c 56 8))
    (changed : chg = tfilter (fun _ r => !r.hold || decide (r.expiry < e)) (inRangeRecs x (dfld c 40 8) (dfld c 48 8))) (some_ : chg ≠ [])
    (above : belowFloor s = false) (room : holdRoom s c.nsid ns (tsum (fun _ r => if heldNow s r then 0 else r.len) chg) = true)
    (media : mediaHolds s x.seg chg = true) : lockRecs id c x ns s = complete id 0 chg.length (onStrm c.stream (fun x =>
      { x with recs := tmap (fun n r => if (tget n chg).isSome then { r with hold := true, expiry := if r.hold then max r.expiry e else e }
                                        else r) x.recs }) s) := by
  unfold lockRecs
  dsimp only
  rw [← expiry, ← changed, if_neg (by simp [above]), if_neg (by simpa using some_), if_neg (by simp [room, media])]

/-- RELEASE of a range whose Hold records have all expired makes them Loop (R133). -/
theorem releaseRecs_of_expired {id : Nat} {c : Flight} {x : Strm} {l : Tab Rec} {s : State}
    (held : l = tfilter (fun _ r => r.hold) (inRangeRecs x (dfld c 40 8) (dfld c 48 8))) (some_ : l ≠ [])
    (late : tfilter (fun _ r => !expired s r) l = []) : releaseRecs id c x s = complete id 0 l.length (onStrm c.stream (fun x =>
      { x with recs := tmap (fun n r => if (tget n l).isSome then { r with hold := false, expiry := 0 } else r) x.recs }) s) := by
  unfold releaseRecs
  dsimp only
  rw [← held, late, if_neg (by simp), if_neg (by simpa using some_)]
  rfl

/-- The record of a number in a stream whose records are mapped. -/
theorem rec_onStrm {k n : Nat} {x : Strm} {r : Rec} {f : Nat → Rec → Rec} {s : State} (stream : strmOf s k = some x) (found : tget n x.recs = some r) :
    ((strmOf (onStrm k (fun x => { x with recs := tmap f x.recs }) s) k).bind fun y => tget n y.recs) = some (f n r) := by
  rw [strmOf_onStrm, if_pos rfl, stream]
  show tget n (tmap f x.recs) = _
  rw [tget_tmap, found]
  rfl

/-- Settles O25. -/
theorem lockAndRelease : Obligations.LockAndRelease := by
  intro t id c x s stream
  refine ⟨fun ns chg e served space expiry changed some_ above room media => ?_, fun l served held some_ late => ?_⟩
  · have locks : exec (.lockRange t id) s = .next (lockRecs id c x ns (tick t s)) := by
      show execLockRange t id s = _
      rw [execLockRange, (served.tick t).serve]
      simp only [show strmOf (tick t s) c.stream = some x from stream, show nsOf (tick t s) c.nsid = some ns from space]
    rw [lockRecs_of_room (s := tick t s) expiry changed some_ above room media] at locks
    refine completes_of locks ⟨(served.tick t).posts _ _ (.of_rge rfl), fun n r inRange found => ?_⟩
    rw [strmOf_cmd (congrArg _ (cmd_complete ..)), rec_onStrm (s := tick t s) stream found, if_pos (by simp [inRange])]
  · have releases : exec (.releaseRange t id) s = .next (releaseRecs id c x (tick t s)) := by
      show execReleaseRange t id s = _
      rw [execReleaseRange, (served.tick t).serve]
      simp only [show strmOf (tick t s) c.stream = some x from stream]
    rw [releaseRecs_of_expired (s := tick t s) held some_ late] at releases
    refine completes_of releases ⟨(served.tick t).posts _ _ (.of_rge rfl), fun n r inRange found => ?_⟩
    rw [strmOf_cmd (congrArg _ (cmd_complete ..)), rec_onStrm (s := tick t s) stream found, if_pos (by simp [inRange])]

/-- Settles O26. -/
theorem retention : Obligations.Retention := by
  intro t n s
  refine ⟨fun k x stream up => completes_of rfl ?_, fun due => if_pos due, rfl⟩
  unfold strmOf onCmd
  dsimp only
  rw [tget_tmap, show tget k (tick t s).cmd.streams = some x from stream]
  exact congrArg some (if_pos up)

end Sys2Proof.Machine
end

section
/-!
SUPPORT. Exports and the commands of block namespaces (03, 05, 07, 08): what a read of grains leaves, the branch of each command that does its
work, and the statement that rests on this.
-/
namespace Sys2Proof.Machine

theorem quiet_meet (k seg unit : Nat) (real : Bool) (s : State) : Quiet s (meet k seg unit real s).2.2 := by
  unfold meet
  split
  · exact .of_rge (fireOne_rge s)
  · exact .refl s

theorem quiet_openTries (seg : Nat) : ∀ (n : Nat) (s : State), Quiet s (openTries seg n s).2
  | 0, s => .refl s
  | n + 1, s => by
    have met := quiet_meet 30 seg 0xFFFF false s
    unfold openTries
    dsimp only
    split
    · exact met
    · split
      · exact met.trans (quiet_raiseF ..)
      · exact ((met.trans (quiet_bumpTallyQuiet ..)).trans (quiet_raiseF ..)).trans (quiet_openTries seg n _)

theorem quiet_openObject (seg n : Nat) (shut : Bool) (s : State) : Quiet s (openObject seg n shut s).2 := by
  unfold openObject
  dsimp only
  split
  · split
    · exact ((quiet_meet ..).trans (quiet_bumpTallyQuiet ..)).trans (quiet_raiseF ..)
    · exact quiet_meet ..
  · dsimp only
    split
    · exact quiet_openTries ..
    · exact (quiet_openTries ..).trans (quiet_bump ..)

/-- A read of grains leaves the rings and the functions as they were, but for notices (R264). -/
theorem quiet_readGrains (x : Ns) : ∀ (l : List Nat) (s : State), Quiet s (readGrains x l s).2
  | [], s => .refl s
  | g :: l, s => by
    unfold readGrains
    cases tget g x.grains with
    | none => exact quiet_readGrains x l s
    | some r =>
      dsimp only
      split
      · exact .refl s
      · have counted : Quiet s (if r.band.isSome then bump (Reg.cryCipherLo (segOfGrain s x g)) r.stored s else s) := by
          split
          · exact quiet_bump ..
          · exact .refl s
        generalize (if r.band.isSome then bump (Reg.cryCipherLo (segOfGrain s x g)) r.stored s else s) = y at counted ⊢
        have opened : Quiet s (if r.zobj then openObject (segOfGrain s x g) (grainContent x g).length (grainRead x g).isNone y else (false, y)).2 := by
          split
          · exact counted.trans (quiet_openObject ..)
          · exact counted
        generalize (if r.zobj then openObject (segOfGrain s x g) (grainContent x g).length (grainRead x g).isNone y else (false, y)) = z at opened ⊢
        split
        · exact opened
        · exact opened.trans (quiet_readGrains x l _)

/-- A command in service that sends data after quiet work posts its completion, and its data goes to its scatter list (R84). -/
theorem InService.sends {op id : Nat} {c : Flight} {s w : State} (served : InService op id c s) (quiet : Quiet s w) (data : List Byte) :
    Posted c 0 0 (complete id 0 0 (output c data w)) ∧
      Out.output c.fn c.ring c.cid (scatter c.sgl data) ∈ (complete id 0 0 (output c data w)).out :=
  ⟨served.posts 0 0 (quiet.trans (quiet_output ..)), later_completeX _ _ _ _ _ _ (output_sent c data w (by rw [quiet.st]; exact served.post.1))⟩

/-- No record of a fault-free selection is lost, damaged or undecodable. -/
theorem sound_of_exportFault {rs : List (Nat × Rec)} (none_ : exportFault rs = none) :
    ∀ p ∈ rs, p.2.lost = false ∧ p.2.damaged = false ∧ (recContent p.2).isNone = false := by
  intro p mem
  unfold exportFault at none_
  split at none_
  · cases none_
  · rename_i found
    have clean := List.find?_eq_none.mp found p mem
    simpa [and_assoc, Option.isSome_iff_ne_none] using clean

/-- An EXPORT of readable records whose chain holds is signed and kept (R130, R223). -/
theorem exportBuild_of_whole {id : Nat} {c : Flight} {x : Strm} {l : List Nat} {w : State} (unarmed : w.integ.armed = false) (few : l.length ≤ 262144)
    (keyed : nsKeyOk w c.nsid = true) (attest : attestOk w = true) (plain : nbit (dfld c 26 1) 0 = false) (readable_ : exportFault (recsOf x l) = none)
    (whole : chainFails (chainKey w x.nsid) (tagBefore x (l.headD 0)) (recsOf x l) = none) : ∃ z, exportBuild id c x l w = exportSign id c x l z := by
  have sound := sound_of_exportFault readable_
  obtain ⟨good, mild⟩ := countReads_unarmed x true false (recsOf x l) w unarmed fun p mem => (sound p mem).2.2
  have pith : (countReads x true false (recsOf x l) w).2.pith = w.pith := of_one (a := .pith) (by simp)
  have key : chainKey (countReads x true false (recsOf x l) w).2 x.nsid = chainKey w x.nsid := by
    unfold chainKey keySlot
    rw [triad_pith pith]
  have reads : exportReads x true (recsOf x l) w = (none, (countReads x true false (recsOf x l) w).2) := by
    unfold exportReads
    rw [tillFault_of_sound sound, readable_]
    exact Prod.ext good rfl
  refine ⟨(countReads x true false (recsOf x l) w).2, ?_⟩
  unfold exportBuild
  dsimp only
  rw [if_neg (by omega), if_neg (by simp [keyed, attest, plain]), if_neg (by simp [plain]), reads]
  dsimp only
  rw [key, whole, chainDetect_of_whole (mild.2.2.2 unarmed)]

/-- A signed EXPORT stands first among the exports kept (R130). -/
theorem exportSign_kept (id : Nat) (c : Flight) (x : Strm) (l : List Nat) (s : State) :
    (exportSign id c x l s).cmd.exports.head?.map (fun e => (e.fn, e.stream, e.recs)) = some (c.fn, c.stream, l) := by
  have sent : ∀ e rs w, (exportOut id c e rs w).cmd = w.cmd := fun e rs w => of_one (a := .cmd) (by simp)
  unfold exportSign
  dsimp only
  rw [sent]
  rfl

/-- Settles O27. -/
theorem exportsAndBlocks : Obligations.ExportsAndBlocks := by
  intro t id c s
  refine ⟨fun x l w served stream ready start selected unarmed few keyed attest plain readable_ whole => ?_,
    fun x d bad v w z served space passes room taken way reads => ?_, fun x z served space passes reads => ?_, fun x served space passes => ?_⟩
  · obtain ⟨z, built⟩ := exportBuild_of_whole (id := id) (c := c) unarmed few keyed attest plain readable_ whole
    have exports : exec (.exportRange t id) s = .next (exportSign id c x l z) := by
      show execExportRange t id s = _
      unfold execExportRange
      dsimp only
      rw [if_neg (by rw [show rngReady (tick t s) = true from ready]; simp), (served.tick t).serve,
        show strmOf (tick t s) c.stream = some x from stream]
      dsimp only
      rw [if_neg (by simp [start]), selected]
      dsimp only
      rw [built]
    exact completes_of exports (exportSign_kept id c x l z)
  · show execWriteBlocks t id (some d) bad s = _
    rw [execWriteBlocks, (served.tick t).serve, show nsOf (tick t s) c.nsid = some x from space]
    dsimp only
    rw [show blockChecks (tick t s) c x true true = none from passes]
    dsimp only
    rw [if_neg (by simp [room]), taken]
    dsimp only
    rw [way]
    dsimp only
    rw [reads]
  · have quiet : Quiet (tick t s) z := by
      have left := quiet_readGrains x (grainsOf x (dfld c 24 8) (dfld c 32 4)) (tick t s)
      rwa [reads] at left
    have sends : exec (.readBlocks t id) s = .next (complete id 0 0
        (output c ((List.range (dfld c 32 4)).flatMap fun i => readBlock x (dfld c 24 8 + i)) z)) := by
      show execReadBlocks t id s = _
      rw [execReadBlocks, (served.tick t).serve, show nsOf (tick t s) c.nsid = some x from space]
      dsimp only
      rw [show blockChecks (tick t s) c x false true = none from passes]
      dsimp only
      rw [reads]
    exact completes_of sends ((served.tick t).sends quiet _)
  · refine completes_of_serve (execDeallocate t id s) served rfl rfl ?_
    rw [show nsOf (tick t s) c.nsid = some x from space]
    dsimp only
    rw [show blockChecks (tick t s) c x false false = none from passes]
    dsimp only
    refine ⟨(served.tick t).posts _ _ (.of_rge (rge_dropStone ..)), ?_⟩
    unfold nsOf dealloc
    rw [cmd_complete, cmd_dropStone]
    show (tget c.nsid (tmod c.nsid _ s.cmd.nss)).map _ = _
    rw [tget_tmod, if_pos rfl, show tget c.nsid s.cmd.nss = some x from space]
    rfl

end Sys2Proof.Machine
end

section
/-!
SUPPORT. SNAP strobes, the JTAG port and the debug session (19): what a strobe and an instruction leave, and the statements that rest on this.
-/
namespace Sys2Proof.Machine

/-- Every strobe of a Segment but CLS_SNAP has counters of its own to copy. -/
theorem segCounters_of_snap {n a : Nat} (segment : n < 4) (strobes : a ∈ [Reg.idxSnap n, Reg.zstSnap n, Reg.medSnap n, Reg.flwSnap n, Reg.dspSnap n,
    Reg.dmvSnap n, Reg.drmSnap n]) : segCounters a n ≠ [] ∧ a ≠ Reg.clsSnap n := by
  revert a
  interval_cases n <;> decide

/-- A strobe of an enabled Segment that is awake copies every counter of its block, which counts on. -/
theorem strobe_copies {n a : Nat} {s : State} (on : segOn s n = true) (awake_ : domSleep s n = 0) (segment : n < 4)
    (strobes : a ∈ [Reg.idxSnap n, Reg.zstSnap n, Reg.medSnap n, Reg.flwSnap n, Reg.dspSnap n, Reg.dmvSnap n, Reg.drmSnap n]) :
    (strobe n a s).ctrs = s.ctrs ∧ (strobe n a s).snaps = (snapAll (segCounters a n) s).snaps ∧ (strobe n a s).draws = s.draws := by
  obtain ⟨counters, other⟩ := segCounters_of_snap segment strobes
  exact strobe_snap on awake_ segment counters other

/-- The upkeep of a channel's counters of bursts leaves the Segments as they were and draws twice (R669). -/
theorem drmCount_facts (n : Nat) (s : State) : (drmCount n s).draws = s.draws + 2 ∧ (drmCount n s).pwr = s.pwr ∧ (drmCount n s).boot = s.boot := by
  have draws : ∀ a v s, (bump a v s).draws = s.draws := fun a v s => of_one (a := .draws) (by simp)
  have boot : ∀ a v s, (bump a v s).boot = s.boot := fun a v s => of_one (a := .boot) (by simp)
  refine ⟨?_, ?_, ?_⟩
  · show (bump _ _ (draw _)).draws + 1 = _
    rw [draws]
    show (bump _ _ s).draws + 1 + 1 = _
    rw [draws]
  · exact (pwr_bump ..).trans (pwr_bump ..)
  · exact (boot ..).trans (boot ..)

/-- Settles O28. -/
theorem snapStrobes : Obligations.SnapStrobes := by
  intro t n s
  refine ⟨fun on awake_ segment => ?_, rfl, rfl, rfl, rfl, rfl, completes_of rfl ⟨rfl, rfl⟩⟩
  have copies : ∀ a ∈ [Reg.idxSnap n, Reg.zstSnap n, Reg.medSnap n, Reg.flwSnap n, Reg.dspSnap n, Reg.dmvSnap n, Reg.drmSnap n],
      (strobe n a (tick t s)).ctrs = s.ctrs ∧ (strobe n a (tick t s)).snaps = (snapAll (segCounters a n) s).snaps := fun a strobes => by
    obtain ⟨counters, snaps, -⟩ := strobe_copies (s := tick t s) on awake_ segment strobes
    exact ⟨counters, snaps⟩
  refine ⟨completes_of rfl (copies _ (by simp)), completes_of rfl (copies _ (by simp)), completes_of rfl (copies _ (by simp)),
    completes_of rfl (copies _ (by simp)), completes_of rfl (copies _ (by simp)), completes_of rfl (copies _ (by simp)), ?_⟩
  obtain ⟨draws, pwr, boot⟩ := drmCount_facts n (tick t s)
  have counted : exec (.drmSnapNow t n) s = .next (strobe n (Reg.drmSnap n) (drmCount n (tick t s))) := by
    show execDrmSnapNow t n s = _
    unfold execDrmSnapNow
    dsimp only
    rw [if_pos (show segOn (tick t s) n = true from on)]
  have onThere : segOn (drmCount n (tick t s)) n = true := by
    unfold segOn at on ⊢
    rw [boot]
    exact on
  have awakeThere : domSleep (drmCount n (tick t s)) n = 0 := by
    unfold domSleep sleepOf at awake_ ⊢
    rw [pwr]
    exact awake_
  obtain ⟨counters, snaps, drawn⟩ := strobe_copies (a := Reg.drmSnap n) onThere awakeThere segment (by simp)
  exact completes_of counted ⟨drawn.trans draws, _, _, counters, snaps⟩

/-- Settles O29. -/
theorem jtagPort : Obligations.JtagPort := by
  intro t s powered
  refine ⟨completes_of rfl ?_, completes_of rfl ?_, fun cap shift => completes_of rfl ?_, fun cap shift running noTest noFlush => completes_of rfl ?_,
    completes_of rfl ?_⟩
  · rw [jtag_on powered]
    exact ⟨rfl, rfl⟩
  · rw [jtag_on powered]
    rfl
  · rw [jtag_on powered]
    exact ⟨rfl, rfl⟩
  · rw [jtag_on powered]
    dsimp only
    rw [if_neg (by show ¬s.brc.flushing = true; simp [noFlush])]
    exact resetRequest_facts true _ running noTest
  · rw [jtag_on powered, setLevel_dbg]

/-- A grant that fits opens the session and uses up the nonce (R740, R750). -/
theorem checkGrant_of_fits {g : List Byte} {actions : List Nat} {s : State} (unarmed : s.integ.armed = false) (allowed : grantsOff s = false)
    (fits : grantFits s g actions = true) : checkGrant g actions s = (true, onLife (fun l => { l with nonceOk := false }) s) := by
  unfold checkGrant
  rw [if_neg (by simp [allowed]), meet_unarmed unarmed]
  simp [fits]

/-- Settles O30. -/
theorem debugSession : Obligations.DebugSession := by
  intro t s there
  refine ⟨completes_of rfl ?_, fun ready => completes_of rfl ?_, fun v room => completes_of rfl ?_, fun v l level free => completes_of rfl ?_,
    fun v l level needs some_ unarmed allowed fits => completes_of rfl ?_, completes_of rfl ?_⟩
  · rw [jtagDebug_on there]
    rfl
  · rw [jtagDebug_on there]
    dsimp only
    rw [if_pos (show rngReady (selectIr 0x11 (tick t s)) = true from ready)]
    exact ⟨rfl, rfl⟩
  · rw [jtagDebug_on there]
    show (if s.dbg.grant.length < 4096 then _ else _ : Dbg).grant = _
    rw [if_pos room]
    rfl
  · have opens : openSession (v % 256) (selectIr 0x13 (tick t s)) = setLevel l (selectIr 0x13 (tick t s)) := by
      unfold openSession
      rw [show levelFor (selectIr 0x13 (tick t s)) (v % 256) = some l from level]
      exact if_pos free
    rw [jtagDebug_on there]
    rw [opens]
    exact ⟨congrArg Dbg.level (setLevel_dbg ..), rfl⟩
  · have opens : openSession (v % 256) (selectIr 0x13 (tick t s)) =
        setLevel l (onLife (fun l => { l with nonceOk := false }) (selectIr 0x13 (tick t s))) := by
      unfold openSession
      rw [show levelFor (selectIr 0x13 (tick t s)) (v % 256) = some l from level]
      dsimp only
      rw [if_neg (show ¬levelNeeds (selectIr 0x13 (tick t s)) l = [] from needs),
        if_neg (show ¬(selectIr 0x13 (tick t s)).dbg.grant = [] from some_),
        checkGrant_of_fits (g := (selectIr 0x13 (tick t s)).dbg.grant) (actions := levelNeeds (selectIr 0x13 (tick t s)) l)
          (s := selectIr 0x13 (tick t s)) unarmed allowed fits]
      rfl
    rw [jtagDebug_on there]
    rw [opens]
    exact ⟨congrArg Dbg.level (setLevel_dbg ..), rfl, congrArg Life.nonceOk (life_setLevel ..)⟩
  · rw [jtagDebug_on there, setLevel_dbg]
    exact ⟨rfl, rfl⟩

end Sys2Proof.Machine
end

section
/-!
SUPPORT. The DAP on a core that it can reach (R752), the SMBus sideband (R807 to R809), and the statements that rest on this.
-/
namespace Sys2Proof.Machine

/-- The state in which the DAP serves an access: the tick's, but for the port's own registers and what it has shifted out. -/
def DapSees (t : Nat) (s x : State) : Prop := ∃ d o, x = { tick t s with dbg := d, out := o } ∧ d.level = s.dbg.level

/-- An access of the DAP to a core that it can reach completes with what the access leaves, in the state that the DAP sees. -/
theorem completes_of_dap {I : Instr} {t k addr data : Nat} {f : State → State} {s : State} {P : State → Prop} (row : Host.Outcome State Fault Refusal)
    (reach : Reachable k s) (accesses : row = .next (dap t k addr data f s)) (runs : exec I s = row) (holds : ∀ x, DapSees t s x → P (f x)) :
    Completes I s P := by
  obtain ⟨x, same, sees⟩ := dap_on (t := t) (k := k) (addr := addr) (data := data) (f := f) reach.there (by rw [reach.level]; simp)
  exact completes_of (runs.trans (accesses.trans (congrArg _ same))) (holds x sees)

theorem DapSees.access {t k : Nat} {f : State → State} {s x : State} (sees : DapSees t s x) (reach : Reachable k s) : coreAccess k f x = f x := by
  obtain ⟨d, o, same, level⟩ := sees
  exact coreAccess_on reach same level

theorem DapSees.core {t : Nat} {s x : State} (sees : DapSees t s x) (k : Nat) : coreOf x k = coreOf s k := by
  obtain ⟨d, o, rfl, -⟩ := sees
  rfl

theorem DapSees.coreIn {t k : Nat} {s x : State} (sees : DapSees t s x) (reach : Reachable k s) : coreIn x k = true := by
  obtain ⟨d, o, rfl, -⟩ := sees
  exact reach.core.1

theorem DapSees.isHouse {t : Nat} {s x : State} (sees : DapSees t s x) (k : Nat) : isHouse x k = isHouse s k := by
  obtain ⟨d, o, rfl, -⟩ := sees
  rfl

theorem DapSees.halted {t k : Nat} {f : State → State} {s x : State} (sees : DapSees t s x) (reach : Reachable k s) (halt : (coreOf s k).st = .halted) :
    haltedAccess k f x = f x := by
  unfold haltedAccess
  rw [sees.access reach, if_pos (by simp [sees.coreIn reach, sees.core, halt])]

/-- A core that is resumed with work to do and no GET runs (R752). -/
theorem resumeCore_running {k : Nat} {s : State} (halt : (coreOf s k).st = .halted) (noGet : (coreOf s k).get = none)
    (work : isHouse s k = true ∨ (coreOf s k).run.isSome = true) : (coreOf (resumeCore k s) k).st = .running := by
  have put : ∀ (y : State) (st : CoreSt), st = .running → (coreOf (noteHalted (onCore k (fun c => { c with st := st }) y)) k).st = .running :=
    fun y st runs => by rw [noteHalted_core, core_put (core_ne (by simp [runs]))]; exact runs
  unfold resumeCore
  dsimp only
  rw [if_neg (by simp [halt])]
  refine put _ _ ?_
  rw [if_neg (by simp [noGet]), if_pos ?_]
  cases run : (coreOf s k).run with
  | none => simpa [run] using work
  | some r =>
    simp

/-- A single step of a halted core that may issue is done (R752). -/
theorem ctlStep_done {k : Nat} {way : Issue} {s : State} (here : coreIn s k = true) (halt : (coreOf s k).st = .halted) (noGet : (coreOf s k).get = none)
    (work : isHouse s k = true ∨ (coreOf s k).run.isSome = true) (may : mayIssue (onCore k (fun c => { c with st := .running }) s) k = true) :
    (ctlStep k way s).dbg.dapOp = 0 := by
  have some_ : ¬((!coreIn s k || (coreOf s k).st != .halted || (!isHouse s k && (coreOf s k).run.isNone)) = true) := by
    obtain house | run := work
    · simp [here, halt, house]
    · obtain ⟨r, run⟩ := Option.isSome_iff_exists.mp run
      simp [here, halt, run]
  unfold ctlStep
  dsimp only
  rw [if_neg some_, if_neg (by simp [noGet, may])]
  rfl

/-- SSTEP of a core that exists is set and cleared (R752). -/
theorem DapSees.sstep {t k : Nat} {s x : State} (sees : DapSees t s x) (reach : Reachable k s) (notHeld : (coreOf s k).st ≠ .held) (on : Bool) :
    (ctlSstep on k x).dbg.dapOp = 0 ∧ coreOf (ctlSstep on k x) k = (coreOf s k).setPs 10 10 (b2n on) := by
  rw [ctlSstep, if_pos (sees.coreIn reach)]
  refine ⟨rfl, ?_⟩
  rw [dapEnd_core, core_put (core_ne (by rw [setPs_st, sees.core]; exact notHeld)), sees.core]

/-- Settles O31. -/
theorem debugAccess : Obligations.DebugAccess := by
  intro t k s reach
  refine ⟨fun addr n halt core other selects => ?_, fun addr n v halt core other selects => ?_, fun booted notStopped notHalted => ?_,
    fun halt noGet work => ?_, fun way halt noGet work may => ?_, fun notHeld => ?_, fun notHeld => ?_⟩
  · refine completes_of_dap (execDapRead t k addr s) reach rfl rfl fun x sees => ?_
    rw [if_neg core, if_neg other, sees.halted reach halt, dapCoreRead, selects]
    exact ⟨rfl, by rw [← sees.core k]; rfl⟩
  · refine completes_of_dap (execDapWrite t k addr v s) reach rfl rfl fun x sees => ?_
    rw [if_neg core, if_neg other, sees.halted reach halt, dapCoreWrite, selects]
    refine ⟨rfl, ?_⟩
    rw [dapEnd_core, core_put (core_ne (by rw [sees.core]; simp [selWrite, setG_st, halt])), sees.core]
    rfl
  · refine completes_of_dap (execDapHalt t k s) reach rfl rfl fun x sees => ?_
    have step : x.boot.step = s.boot.step := by
      obtain ⟨d, o, rfl, -⟩ := sees
      rfl
    have may : ¬((!coreIn x k || (k == rindCore && decide (x.boot.step < 8))) = true) := by
      simp only [sees.coreIn reach, step]
      simpa using booted
    have halts : ctlHalt k x = dapEnd .done 0 (haltCore k x) := by
      unfold ctlHalt
      rw [if_neg may, sees.core]
      cases st : (coreOf s k).st with
      | halted => exact absurd st notHalted
      | stopped => exact absurd st notStopped
      | _ => rfl
    rw [sees.access reach, halts]
    exact ⟨rfl, (congrArg DCore.st (dapEnd_core ..)).trans (halt_core x)⟩
  · refine completes_of_dap (execDapResume t k s) reach rfl rfl fun x sees => ?_
    rw [sees.access reach, ctlResume, if_pos (by simp [sees.coreIn reach, sees.core, halt])]
    refine ⟨rfl, (congrArg DCore.st (dapEnd_core ..)).trans (resumeCore_running ?_ ?_ ?_)⟩
    · rw [sees.core, halt]
    · rw [sees.core, noGet]
    · rw [sees.core, sees.isHouse]
      exact work
  · refine completes_of_dap (execDapSingleStep t k way s) reach rfl rfl fun x sees => ?_
    rw [sees.access reach]
    refine ctlStep_done (sees.coreIn reach) ?_ ?_ ?_ ?_
    · rw [sees.core, halt]
    · rw [sees.core, noGet]
    · rw [sees.core, sees.isHouse]
      exact work
    · obtain ⟨d, o, rfl, -⟩ := sees
      exact may
  · refine completes_of_dap (execDapSetSstep t k s) reach rfl rfl fun x sees => ?_
    rw [sees.access reach]
    exact sees.sstep reach notHeld true
  · refine completes_of_dap (execDapClearSstep t k s) reach rfl rfl fun x sees => ?_
    rw [sees.access reach]
    exact sees.sstep reach notHeld false

/-- A read of a command code sends its data with the PEC of the transfer (R807). -/
theorem smbRead_there {t code : Nat} {block : Bool} {data : State → List Byte} {s : State} (there : smbThere s = true) :
    smbRead t code block data s = emit (.smb ((if block then [BitVec.ofNat 8 (data (tick t s)).length] else []) ++ data (tick t s)
      ++ [pec ([smbWriteAddr, BitVec.ofNat 8 code, smbReadAddr] ++ ((if block then [BitVec.ofNat 8 (data (tick t s)).length] else []) ++ data (tick t s)))]))
      (tick t s) :=
  if_neg (by rw [show smbThere (tick t s) = true from there]; simp)

theorem alertHigh_smbAlert (s : State) : (alertHigh s).pins.smbAlert = false := by
  unfold alertHigh
  split
  · rfl
  · next low => simpa using low

theorem later_alertHigh (s : State) : Later s (alertHigh s) := by
  unfold alertHigh
  split
  · exact (later_emit _ _).since rfl
  · exact .refl s

/-- Settles O32. -/
theorem sideband_holds : Obligations.Sideband := by
  intro t s there
  refine ⟨completes_of rfl ?_, completes_of rfl ?_, completes_of rfl ?_, fun n => completes_of rfl ?_, completes_of rfl ?_, completes_of rfl ?_,
    completes_of rfl ?_, completes_of rfl ?_, fun low => completes_of rfl ?_, ?_⟩
  · rw [smbRead_there there]
    rfl
  · rw [smbRead_there there]
    rfl
  · rw [smbRead_there there, if_pos (show smbThere (emit _ (tick t s)) = true from there)]
    exact ⟨alertHigh_smbAlert _, later_alertHigh _ _ (List.mem_cons_self ..)⟩
  · rw [smbRead_there there]
    rfl
  · rw [smbRead_there there]
    rfl
  · rw [smbRead_there there, if_pos rfl, slice_length]
    rfl
  · rw [smbRead_there there, if_pos rfl, slice_length]
    rfl
  · rw [smbRead_there there, if_pos rfl]
    refine ⟨_, rfl, ?_⟩
    simp
  · rw [if_pos (by rw [show smbThere (tick t s) = true from there, show (tick t s).pins.smbAlert = true from low]; rfl), alertHigh,
      if_pos (show (emit _ (tick t s)).pins.smbAlert = true from low)]
    exact ⟨rfl, rfl⟩
  · show execSmbClockTimeout t s = _
    exact congrArg _ (if_pos there)

end Sys2Proof.Machine
end

section
/-!
SUPPORT. The Plain controller (R151 to R159): the commands of its admin and I/O queues, and the statements that rest on this.
-/
namespace Sys2Proof.Machine

/-- An admin command that is served completes with what its service leaves. -/
theorem completes_of_admin {op t : Nat} {cmd : List Byte} {I : Instr} {f : State → State} {s : State} {P : State → Prop}
    (row : Host.Outcome State Fault Refusal) (served : NvAdmin op cmd s) (serves : row = nvAdm op cmd f (tick t s)) (runs : exec I s = row)
    (holds : P (f (nvTake 0 cmd (tick t s)))) : Completes I s P :=
  ⟨_, (runs.trans serves).trans (served.serve f t), holds⟩

/-- An I/O command that is served completes with what its service leaves. -/
theorem completes_of_io {op sq t : Nat} {cmd : List Byte} {I : Instr} {f : State → State} {s : State} {P : State → Prop}
    (row : Host.Outcome State Fault Refusal) (served : NvIo op sq cmd s) (serves : row = nvServe false op sq cmd f (tick t s)) (runs : exec I s = row)
    (holds : P (f (nvTake sq cmd (tick t s)))) : Completes I s P :=
  ⟨_, (runs.trans serves).trans (served.serve f t), holds⟩

/-- A command ends with its completion and leaves the controller as it was. -/
theorem nvEnd_ends (sq : Nat) (cmd : List Byte) (status result : Nat) (s : State) :
    NvDone sq cmd status result (nvEnd sq cmd status result s) ∧ (nvEnd sq cmd status result s).cmd.nvme = s.cmd.nvme :=
  ⟨nvEnd_done .., congrArg _ (cmd_nvEnd ..)⟩

theorem nvDone_zero (sq : Nat) (cmd : List Byte) (s : State) : nvDone sq cmd 0 s = nvEnd sq cmd 0 0 s := rfl

/-- A command that sends data completes, and the data goes to its first address (R84). -/
theorem nvEnd_sends {sq a n : Nat} {cmd data : List Byte} {x s : State} (running : (funcOf s 0).st ≠ .resetting) :
    NvDone sq cmd 0 0 (nvEnd sq cmd 0 0 (output (nvFlight x sq cmd a n) data s)) ∧
      Out.output 0 sq (fld cmd 2 2) (scatter [(fld cmd 24 8, 2 ^ 32, false)] data) ∈
        (nvEnd sq cmd 0 0 (output (nvFlight x sq cmd a n) data s)).out :=
  ⟨nvEnd_done .., later_nvEnd _ _ _ _ _ _ (output_sent (nvFlight x sq cmd a n) data s running)⟩

theorem foldl_erase_cons {α : Type} [BEq α] [LawfulBEq α] (a : α) :
    ∀ (m l : List α), a ∉ m → m.foldl List.erase (a :: l) = a :: m.foldl List.erase l
  | [], _, _ => rfl
  | b :: m, l, other => by
    obtain ⟨ne, rest⟩ := not_or.mp (List.mem_cons.not.mp other)
    rw [List.foldl_cons, List.foldl_cons, List.erase_cons_tail (by simpa using ne), foldl_erase_cons a m _ rest]

/-- Erasing from a list what a test holds of leaves what it does not hold of. -/
theorem foldl_erase_filter {α : Type} [BEq α] [LawfulBEq α] (p : α → Bool) : ∀ l : List α, (l.filter p).foldl List.erase l = l.filter (!p ·)
  | [] => rfl
  | a :: l => by
    by_cases holds : p a = true
    · rw [List.filter_cons_of_pos holds, List.filter_cons_of_neg (by simpa using holds), List.foldl_cons, List.erase_cons_head, foldl_erase_filter p l]
    · have other : a ∉ l.filter p := fun mem => holds (List.mem_filter.mp mem).2
      rw [List.filter_cons_of_neg holds, List.filter_cons_of_pos (by simpa using holds), foldl_erase_cons a _ _ other, foldl_erase_filter p l]

/-- The end of held commands of one queue, one after the other. -/
def endHeld (q status : Nat) (m : List (Nat × List Byte)) (s : State) : State := m.foldl (fun s h => nvEnd q h.2 status 0 (nvTake q h.2 s)) s

theorem later_endHeld (q status : Nat) : ∀ (m : List (Nat × List Byte)) (s : State), Later s (endHeld q status m s)
  | [], s => .refl s
  | h :: m, s => by
    have ends : Later s (nvEnd q h.2 status 0 (nvTake q h.2 s)) := (later_nvEnd _ _ _ _ _).since rfl
    exact ends.trans (later_endHeld q status m _)

theorem endHeld_done (q status : Nat) : ∀ (m : List (Nat × List Byte)) (s : State), ∀ h ∈ m, NvDone q h.2 status 0 (endHeld q status m s)
  | [], _, h, mem => by cases mem
  | a :: m, s, h, mem => by
    obtain rfl | mem := List.mem_cons.mp mem
    · exact later_endHeld q status m _ _ (nvEnd_done ..)
    · exact endHeld_done q status m _ h mem

theorem endHeld_nvme (q status : Nat) : ∀ (m : List (Nat × List Byte)) (s : State), (∀ h ∈ m, h.1 = q) →
    (endHeld q status m s).cmd.nvme = { s.cmd.nvme with held := m.foldl List.erase s.cmd.nvme.held }
  | [], _, _ => rfl
  | a :: m, s, all => by
    have same : (q, a.2) = a := by rw [← all a (List.mem_cons_self ..)]
    have rest := endHeld_nvme q status m (nvEnd q a.2 status 0 (nvTake q a.2 s)) fun h mem => all h (List.mem_cons_of_mem _ mem)
    refine rest.trans ?_
    rw [cmd_nvEnd]
    unfold nvTake onNvme onCmd
    dsimp only
    rw [same, List.foldl_cons]

/-- A deletion of a submission queue ends what the queue holds (R154, R156). -/
theorem nvDrain_facts (q : Nat) (s : State) : (∀ h ∈ s.cmd.nvme.held, h.1 = q → NvDone h.1 h.2 0x08 0 (nvDrain q s)) ∧
    (nvDrain q s).cmd.nvme = { s.cmd.nvme with held := s.cmd.nvme.held.filter (·.1 != q) } := by
  refine ⟨fun h mem same => ?_, ?_⟩
  · rw [same]
    exact endHeld_done q 0x08 _ s h (by simp [mem, same])
  · have erased := foldl_erase_filter (fun h : Nat × List Byte => h.1 == q) s.cmd.nvme.held
    refine (endHeld_nvme q 0x08 _ s (by simp)).trans ?_
    rw [erased]
    rfl

theorem not_isNone {α : Type} {o : Option α} (there : o.isSome = true) : ¬o.isNone = true := by
  cases o with
  | none => cases there
  | some a => simp

/-- Settles O33. -/
theorem nvmeAdmin : Obligations.NvmeAdmin := by
  intro t cmd s
  refine ⟨fun served good vector => ?_, fun served good link => ?_, fun served there => ?_, fun served there unlinked => ?_,
    fun served kind running => ?_, fun n served log offset running size => ?_, fun served none_ room => ?_, fun served queue asked unheld => ?_,
    fun h served found => ?_, fun served unsaved feature => ?_, fun served feature => ?_⟩
  · refine completes_of_admin (execNvmeCreateIoCq t cmd s) served rfl rfl ?_
    rw [show nvCreateBad (nvTake 0 cmd (tick t s)) true cmd = none from good]
    dsimp only
    rw [if_neg (show ¬(nvQueueOf cmd).link ≥ (funcOf (nvTake 0 cmd (tick t s)) 0).vectors from not_le.mpr vector)]
    exact nvEnd_ends ..
  · refine completes_of_admin (execNvmeCreateIoSq t cmd s) served rfl rfl ?_
    rw [show nvCreateBad (nvTake 0 cmd (tick t s)) false cmd = none from good]
    dsimp only
    rw [if_neg]
    · exact nvEnd_ends ..
    · exact not_isNone link
  · obtain ⟨ended, drained⟩ := nvDrain_facts (cdw cmd 10 % 65536) (nvTake 0 cmd (tick t s))
    refine completes_of_admin (execNvmeDeleteIoSq t cmd s) served rfl rfl ?_
    dsimp only
    rw [if_neg (show ¬(tget (cdw cmd 10 % 65536) (nvTake 0 cmd (tick t s)).cmd.nvme.sqs).isNone = true from not_isNone there)]
    obtain ⟨done, left⟩ := nvEnd_ends 0 cmd 0 0
      (onNvme (fun v => { v with sqs := tdel (cdw cmd 10 % 65536) v.sqs }) (nvDrain (cdw cmd 10 % 65536) (nvTake 0 cmd (tick t s))))
    refine ⟨done, left.trans ?_, fun h mem same => later_nvEnd _ _ _ _ _ _ (ended h mem same)⟩
    unfold onNvme onCmd
    dsimp only
    rw [drained]
    rfl
  · refine completes_of_admin (execNvmeDeleteIoCq t cmd s) served rfl rfl ?_
    dsimp only
    rw [if_neg, if_neg]
    · exact nvEnd_ends ..
    · rw [Bool.not_eq_true]
      exact unlinked
    · exact not_isNone there
  · refine completes_of_admin (execNvmeIdentify t cmd s) served rfl rfl ?_
    rw [kind]
    exact nvEnd_sends (s := nvTake 0 cmd (tick t s)) running
  · refine completes_of_admin (execNvmeGetLogPage t cmd s) served rfl rfl ?_
    have length : (nvFirmware (nvTake 0 cmd (tick t s))).length = 512 := slice_length ..
    simp only [log, ← size]
    rw [if_neg (show ¬(3 : Nat) = 2 by decide), if_neg (by omega)]
    exact nvEnd_sends (s := nvTake 0 cmd (tick t s)) running
  · refine completes_of_admin (execNvmeAsyncEventRequest t cmd s) served rfl rfl ?_
    rw [show (nvTake 0 cmd (tick t s)).cmd.nvme.events = [] from none_]
    dsimp only
    rw [if_neg (show ¬(nvTake 0 cmd (tick t s)).cmd.nvme.aers.length ≥ 4 from not_le.mpr room)]
    exact ⟨rfl, rfl⟩
  · refine completes_of_admin (execNvmeAbort t cmd s) served rfl rfl ?_
    dsimp only
    rw [queue, show ((nvTake 0 cmd (tick t s)).cmd.nvme.held.find? fun h => h.1 == 0 && fld h.2 2 2 == cdw cmd 10 / 65536) = none from unheld]
    dsimp only
    rw [if_pos ⟨rfl, by simpa using (show cdw cmd 10 / 65536 ∈ (nvTake 0 cmd (tick t s)).cmd.nvme.aers from asked)⟩]
    generalize asker : pack [(2, 0x0C), (2, cdw cmd 10 / 65536), (60, 0)] = request
    obtain ⟨aborted, left⟩ := nvEnd_ends 0 request (nvStatus 0x0109) 0
      (onNvme (fun v => { v with aers := v.aers.erase (cdw cmd 10 / 65536) }) (nvTake 0 cmd (tick t s)))
    obtain ⟨done, after_⟩ := nvEnd_ends 0 cmd 0 0 (nvEnd 0 request (nvStatus 0x0109) 0
      (onNvme (fun v => { v with aers := v.aers.erase (cdw cmd 10 / 65536) }) (nvTake 0 cmd (tick t s))))
    exact ⟨done, after_.trans left, _, later_nvEnd _ _ _ _ _ _ aborted⟩
  · have queue : h.1 = cdw cmd 10 % 65536 := by
      have test := List.find?_some found
      simp only [Bool.and_eq_true, beq_iff_eq] at test
      exact test.1
    refine completes_of_admin (execNvmeAbort t cmd s) served rfl rfl ?_
    dsimp only
    rw [show ((nvTake 0 cmd (tick t s)).cmd.nvme.held.find? fun h => h.1 == cdw cmd 10 % 65536 && fld h.2 2 2 == cdw cmd 10 / 65536) = some h from found]
    dsimp only
    rw [← queue]
    obtain ⟨aborted, left⟩ := nvEnd_ends h.1 h.2 (nvStatus 0x0109) 0 (nvTake h.1 h.2 (nvTake 0 cmd (tick t s)))
    obtain ⟨done, after_⟩ := nvEnd_ends 0 cmd 0 0 (nvDone h.1 h.2 0x0109 (nvTake h.1 h.2 (nvTake 0 cmd (tick t s))))
    exact ⟨done, later_nvEnd _ _ _ _ _ _ aborted, after_.trans left⟩
  · refine completes_of_admin (execNvmeSetFeatures t cmd s) served rfl rfl ?_
    dsimp only
    rw [if_neg (by rw [feature]; decide), if_neg (by simp [unsaved]), feature]
    exact nvEnd_ends ..
  · refine completes_of_admin (execNvmeGetFeatures t cmd s) served rfl rfl ?_
    rw [feature]
    exact nvEnd_ends ..

/-- Settles O34. -/
theorem nvmeIo : Obligations.NvmeIo := by
  intro t sq cmd s
  refine ⟨fun d n served unlocked size small whole aligned fits => ?_,
    fun n served supply unlocked action slot inRange notRunning form signed floor free => ?_, fun served => ?_,
    fun d bad x w z served keyed space found alive awake_ passes room fits way reads => ?_,
    fun x z served keyed space found alive awake_ passes reads running => ?_, fun x d served space found keeps => ?_⟩
  · refine completes_of_admin (execNvmeFwImageDownload t cmd (some d) s) served rfl rfl ?_
    dsimp only
    rw [← size, if_neg (show ¬(nvTake 0 cmd (tick t s)).life.lstate.code ≥ 3 from not_le.mpr unlocked), if_neg (by omega), if_neg (by omega),
      if_neg (by omega), nvDone_zero]
    exact ⟨nvEnd_done .., by rw [cmd_nvEnd]; rfl⟩
  · obtain ⟨w, unit, pith, kept, boot⟩ := slotUnit_of_free (s := nvTake 0 cmd (tick t s)) free
    have isRunning : runningSlot w = runningSlot s := by unfold runningSlot; rw [boot]; rfl
    have staging : w.cmd.staging = s.cmd.staging := by rw [kept]; rfl
    obtain ⟨note, y, wrote, noted, there, recs⟩ := commitWrite_of_good (n := n) (act := false) (s := w) (by rwa [isRunning])
      (by rwa [staging]) (by rwa [staging]) (by rw [staging, boot]; exact floor)
    refine completes_of_admin (execNvmeFirmwareCommit t cmd s) served rfl rfl ?_
    dsimp only
    rw [if_neg (show ¬(nvTake 0 cmd (tick t s)).life.lstate.code ≥ 3 from not_le.mpr unlocked), if_neg (by omega), if_neg (by omega),
      if_neg (by rw [show (nvTake 0 cmd (tick t s)).pins.vppOk = true from supply]; simp), slot, Nat.add_sub_cancel, unit]
    dsimp only
    rw [action, if_neg (by decide), show ((0 : Nat) == 1) = false from rfl, wrote]
    dsimp only
    rw [nvDone_zero]
    refine ⟨(noted _).2 _ (nvEnd_done ..), ?_, ?_⟩
    · rw [slotOf_pith ((noted _).1.trans (pith_nvEnd ..)), there, staging]
    · rw [slotOf_pith ((noted _).1.trans (pith_nvEnd ..)), recs]
      rfl
  · refine completes_of_io (execNvmeFlush t sq cmd s) served rfl rfl ?_
    have med : ∀ a b c d w, (nvEnd a b c d w).med = w.med := fun a b c d w => of_one (a := .med) (by simp)
    rw [nvDone_zero]
    exact ⟨nvEnd_done .., by rw [cmd_nvEnd]; rfl, by rw [med]; rfl⟩
  · have first : fld cmd 40 8 < 2 ^ 64 := fld_lt cmd 40 8
    obtain ⟨start, count⟩ := dfld_pack24 (nvTake sq cmd (tick t s)) sq cmd (fld cmd 40 8) (cdw cmd 12 % 65536 + 1) first (by omega)
    show execNvmeWrite t sq cmd (some d) bad s = _
    rw [execNvmeWrite, nvIo_block served keyed space found alive passes awake_]
    dsimp only
    rw [start, count, if_neg (by simp [room, fits]), way]
    dsimp only
    rw [reads]
  · have first : fld cmd 40 8 < 2 ^ 64 := fld_lt cmd 40 8
    obtain ⟨start, count⟩ := dfld_pack24 (nvTake sq cmd (tick t s)) sq cmd (fld cmd 40 8) (cdw cmd 12 % 65536 + 1) first (by omega)
    have quiet : Quiet (nvTake sq cmd (tick t s)) z := by
      have left := quiet_readGrains x (grainsOf x (fld cmd 40 8) (cdw cmd 12 % 65536 + 1)) (nvTake sq cmd (tick t s))
      rwa [reads] at left
    have sends : exec (.nvmeRead t sq cmd) s = .next (nvEnd sq cmd 0 0
        (output (nvFlight (nvTake sq cmd (tick t s)) sq cmd (fld cmd 40 8) (cdw cmd 12 % 65536 + 1))
          ((List.range (cdw cmd 12 % 65536 + 1)).flatMap fun i => readBlock x (fld cmd 40 8 + i)) z)) := by
      show execNvmeRead t sq cmd s = _
      rw [execNvmeRead, nvIo_block served keyed space found alive passes awake_]
      dsimp only
      rw [start, count, reads]
      rfl
    exact completes_of sends (nvEnd_sends (by rw [quiet.st]; exact running))
  · refine completes_of_io (execNvmeDatasetManagement t sq cmd (some d) s) served rfl rfl ?_
    rw [if_pos space, show nvNs (nvTake sq cmd (tick t s)) = some x from found]
    dsimp only
    rw [if_pos (by simp [keeps]), nvDone_zero]
    exact ⟨nvEnd_done .., by rw [cmd_nvEnd]; rfl⟩

end Sys2Proof.Machine
end

section
/-!
SUPPORT. What the Ring Engine does of its own (02, 04, 10): what a report leaves of the Integrity Unit, the fetch of a descriptor step by step, and
the statement that rests on this.
-/
namespace Sys2Proof.Machine

/-- The Integrity Unit but for its log, its hold-offs and the armed injection. -/
def Integ.steady (i : Integ) : Integ := { i with holds := [], log := [], injResult := 0, armed := false, injLeft := 0, injDue := [] }

theorem fireOne_steady (s : State) : (fireOne s).integ.steady = s.integ.steady := by
  unfold fireOne
  split
  · rw [clearArm_integ]
    rfl
  · rfl

/-- A post leaves the Integrity Unit, or fires an injection once. -/
theorem postCore_steady (f typ src : Nat) (p : List Byte) (s : State) : (postCore f typ src p s).2.integ.steady = s.integ.steady := by
  unfold postCore
  dsimp only
  generalize kept : (if f = 0 then _ else s : State) = w
  have same : w.integ = s.integ := by
    rw [← kept]
    split <;> rfl
  generalize sent : onFunc f (fun e => { e with seq := (e.seq + 1) % 65536 }) w = z
  have still : z.integ = s.integ := by rw [← sent, integ_onFunc, same]
  split
  · exact congrArg _ same
  · split
    · rw [fireOne_steady, integ_onFunc, still]
    · split
      · split
        · rw [writeNotice_integ, integ_onFunc, still]
        · split <;> rw [integ_onFunc, still]
      · split <;> rw [integ_onFunc, still]

theorem raiseCore_steady (k : Nat) (x : Site) (ef : Nat) (s : State) : (raiseCore k x ef s).2.integ.steady = s.integ.steady := by
  have past : (injPast k s).integ.steady = s.integ.steady := rfl
  unfold raiseCore
  dsimp only
  generalize Ev.mk _ _ _ _ _ _ _ _ = e
  generalize injPast k s = w at past ⊢
  split
  · exact past
  · split
    · exact past
    · rw [postCore_steady]
      exact past

theorem dropped_steady (f ef : Nat) (s : State) : (dropped f ef s).integ.steady = s.integ.steady := by
  unfold dropped
  dsimp only
  split
  · rw [raiseCore_steady]
    exact (raiseCore_steady ..).trans rfl
  · exact (raiseCore_steady ..).trans rfl

theorem raiseF_steady (k : Nat) (x : Site) (ef : Nat) (s : State) : (raiseF k x ef s).integ.steady = s.integ.steady := by
  have core := raiseCore_steady k x ef s
  unfold raiseF
  split
  · next same => rw [same] at core; rw [dropped_steady, core]
  · next same => rw [same] at core; exact core

/-- A report does not open or close a bypass window. -/
theorem bypassed_raiseF (k : Nat) (x : Site) (ef : Nat) (s : State) (d : Nat) : bypassed (raiseF k x ef s) d = bypassed s d := by
  have now : (raiseF k x ef s).now = s.now := of_one (a := .now) (by simp)
  have window : (raiseF k x ef s).integ.bypass = s.integ.bypass := (congrArg Integ.bypass (raiseF_steady k x ef s) :)
  unfold bypassed
  rw [window, now]

/-- What the rings keep and what a flight `id` keeps: all but its bound and the causes that void it. -/
structure Settles (id : Nat) (s u : State) : Prop where
  next : u.rge.nextFlight = s.rge.nextFlight
  ring : ∀ k, (ringOf u k).map Ring.rest = (ringOf s k).map Ring.rest
  flight : ∀ c, tget id s.rge.flights = some c → ∃ b v, tget id u.rge.flights = some { c with bound := b, voids := v }

theorem Settles.refl (id : Nat) (s : State) : Settles id s s := ⟨rfl, fun _ => rfl, fun c found => ⟨c.bound, c.voids, found⟩⟩

theorem Settles.trans {id : Nat} {s u w : State} (first : Settles id s u) (then_ : Settles id u w) : Settles id s w := by
  refine ⟨then_.next.trans first.next, fun k => (then_.ring k).trans (first.ring k), fun c found => ?_⟩
  obtain ⟨b, v, here⟩ := first.flight c found
  obtain ⟨b2, v2, there⟩ := then_.flight _ here
  exact ⟨b2, v2, there⟩

theorem Quiet.settles {s u : State} (quiet : Quiet s u) (id : Nat) : Settles id s u :=
  ⟨quiet.nextFlight, quiet.ring, fun c found => ⟨c.bound, c.voids, by rw [quiet.flights, found]⟩⟩

/-- A change of a flight's bound and voids alone. -/
theorem settles_onFlight (id : Nat) (s : State) {g : Flight → Flight} (keeps : ∀ c, ∃ b v, g c = { c with bound := b, voids := v }) :
    Settles id s (onFlight id g s) := by
  refine ⟨rfl, fun _ => rfl, fun c found => ?_⟩
  obtain ⟨b, v, same⟩ := keeps c
  refine ⟨b, v, ?_⟩
  show tget id (tmod id g s.rge.flights) = _
  rw [tget_tmod, if_pos rfl, found, ← same]
  rfl

theorem settles_voidRead (id cause : Nat) (s : State) : Settles id s (voidRead (some id) cause s) := by
  refine settles_onFlight id s fun c => ?_
  split
  · exact ⟨c.bound, c.voids, rfl⟩
  · exact ⟨c.bound, _, rfl⟩

theorem settles_joinQueue {id : Nat} (d : Nat) {r : DRead} (own : r.id = some id) (s : State) : Settles id s (joinQueue d r s) := by
  unfold joinQueue
  split
  · exact .refl id s
  · have joined : ∀ f : Die → Die, Settles id s (onDie d f s) := fun f => Quiet.settles (s := s) (u := onDie d f s) (.of_rge rfl) id
    dsimp only
    split
    · rw [own]
      exact (joined _).trans (settles_voidRead ..)
    · exact joined _

theorem settles_foldl {α : Type} {id : Nat} {f : State → α → State} (one : ∀ s a, Settles id s (f s a)) : ∀ (l : List α) (s : State), Settles id s (l.foldl f s)
  | [], s => .refl id s
  | a :: l, s => (one s a).trans (settles_foldl one l _)

theorem settles_queueRead {id : Nat} (d : Nat) (s : State) {q : QRead} (own : q.id = some id) : Settles id s (queueRead d s q) := by
  unfold queueRead
  split
  · exact .refl id s
  · dsimp only
    split
    · exact settles_joinQueue d own s
    · split
      · exact (settles_foldl (fun (w : State) (e : Nat × Nat) => settles_joinQueue e.1 own w) _ s).trans ((quiet_bump ..).settles id)
      · rw [own]
        exact (settles_joinQueue d rfl s).trans (settles_voidRead ..)

/-- The reads that a bounded Recall takes ahead change its flight's bound and voids alone (R175). -/
theorem settles_bookReads (id : Nat) (s : State) : Settles id s (bookReads id s) := by
  unfold bookReads
  split
  · exact .refl id s
  · split
    · exact .refl id s
    · split
      · exact .refl id s
      · dsimp only
        split
        · exact .refl id s
        · refine settles_foldl (fun w g => ?_) _ s
          split
          · exact settles_queueRead g.1 w rfl
          · exact .refl id w

/-- A command that is not bounded takes no reads ahead. -/
theorem bookReads_of_unbounded {id : Nat} {c : Flight} {s : State} (found : tget id s.rge.flights = some c) (free : c.bound = .notS) :
    bookReads id s = s := by
  have unbounded : boundedRead s (some id) = false := by
    unfold boundedRead
    rw [show ((some id).bind fun i => tget i s.rge.flights) = some c from found]
    simp [free]
  unfold bookReads
  rw [found]
  exact if_pos (by simp [unbounded])

theorem quiet_segRegWrite (n a : Nat) (v : Word) (be : Nat) (s : State) : Quiet s (segRegWrite n a v be s) :=
  .of_rge (of_one (a := .rge) (by simp))

theorem quiet_wakeDone (d : Nat) (s : State) : Quiet s (wakeDone d s) := by
  have dram : ∀ w, (wakeDram d w).rge = w.rge := fun w => of_one (a := .rge) (by simp)
  have started : (if sleepOf s d ≥ 2 then wakeDram d s else s).rge = s.rge := by
    split
    · exact dram s
    · rfl
  unfold wakeDone
  split
  · exact .of_rge rfl
  · split
    · exact .of_rge rfl
    · dsimp only
      refine Quiet.trans (.of_rge ?_) ((quiet_bump _ 1 _).trans (quiet_foldl _ (fun w a => quiet_segRegWrite ..) _ _))
      split
      · exact started
      · exact started

theorem quiet_wakeNow (d : Nat) (s : State) : Quiet s (wakeNow d s) := by
  unfold wakeNow
  split
  · exact .refl s
  · split
    · exact (quiet_wakeDone ..).trans (quiet_wakeDone ..)
    · exact quiet_wakeDone ..

theorem quiet_wakeAll (s : State) : Quiet s (wakeAll s) := (quiet_wakeNow ..).trans (quiet_foldl _ (fun w d => quiet_wakeNow d w) _ _)

theorem quiet_updateFloor (s : State) : Quiet s (updateFloor s) := by
  have alert : ∀ w, (alertLow w).rge = w.rge := fun w => of_one (a := .rge) (by simp)
  have warn : ∀ w, (critEvent 3 0 w).rge = w.rge := fun w => of_one (a := .rge) (by simp)
  unfold updateFloor
  dsimp only
  split
  · exact .of_rge rfl
  · refine Quiet.trans (.of_rge ?_) (quiet_healthNotice ..)
    rw [alert]
    split
    · rfl
    · rw [warn]
      rfl

/-- Step 5 of the fetch settles the bound of a command in Class S, and touches no other (R181 to R183). -/
theorem settles_passStep5 (id : Nat) (held : Bool) (s : State) : Settles id s (passStep5 id held s) := by
  have streams : ∀ (k : Nat) (f : Strm → Strm) (w : State), Settles id w (onStrm k f w) := fun k f w => Quiet.settles (s := w) (u := onStrm k f w) (.of_rge rfl) id
  unfold passStep5
  split
  · exact .refl id s
  · split
    · exact .refl id s
    · split
      · exact .refl id s
      · dsimp only
        refine (settles_onFlight (g := fun c => { c with voids := fetchCauses s c held }) id s fun c => ⟨c.bound, _, rfl⟩).trans ?_
        split
        · unfold sealCredit
          dsimp only
          split
          · exact ((streams ..).trans (settles_onFlight _ _ fun c => ⟨.bounded, c.voids, rfl⟩)).trans ((quiet_bump ..).settles id)
          · exact ((streams ..).trans (settles_onFlight _ _ fun c => ⟨.excess, _, rfl⟩)).trans ((quiet_bump ..).settles id)
        · unfold recallCredit
          dsimp only
          split
          · exact (streams ..).trans (settles_onFlight _ _ fun c => ⟨.excess, _, rfl⟩)
          · exact ((streams ..).trans (settles_onFlight _ _ fun c => ⟨.bounded, _, rfl⟩)).trans ((quiet_bump ..).settles id)

theorem passStep5_of_notS {id : Nat} {held : Bool} {c : Flight} {s : State} (found : tget id s.rge.flights = some c) (class_ : c.cls ≠ .s) :
    passStep5 id held s = s := by
  unfold passStep5
  rw [found]
  exact if_pos class_

/-- A descriptor that passes its checks becomes a command in flight with its scatter list read and, in Class S, its bound settled (R83, R84). -/
theorem fetchFrom_facts {k : Nat} {r : Ring} {d : List Byte} {segs : List (Option (List Byte))} {o : OpRow} {l : List (Nat × Nat × Bool)} {w v : State}
    (taken : v = onRge (fun g => { g with flights := tput w.rge.nextFlight (flightOf w r d) g.flights, nextFlight := w.rge.nextFlight + 1 })
      (onRing (ringKey r.fn false r.cq) (fun q => { q with reserved := q.reserved + 1 }) (onRing k (takeSlot w.now) w)))
    (passes : checks15 (if asksClassS d then wakeAll v else v) r d = none) (row : opRow (fld d 0 1) = some o) (list : sglCheck o d segs = .inr l) :
    (fetchFrom k r d segs w).rge.nextFlight = w.rge.nextFlight + 1 ∧
      (r.cls ≠ .s → tget w.rge.nextFlight (fetchFrom k r d segs w).rge.flights = some { flightOf w r d with sgl := l }) ∧
      ∃ b c, tget w.rge.nextFlight (fetchFrom k r d segs w).rge.flights = some { flightOf w r d with sgl := l, bound := b, voids := c } := by
  have woken : Quiet v (if asksClassS d then wakeAll v else v) := by
    split
    · exact quiet_wakeAll v
    · exact .refl v
  have shape : fetchFrom k r d segs w = onFlight w.rge.nextFlight (fun c => { c with sgl := l })
      (passStep5 w.rge.nextFlight r.held96 (if asksClassS d then wakeAll v else v)) := by
    unfold fetchFrom
    dsimp only
    rw [← taken, passes]
    dsimp only
    rw [show opRow (flightOf w r d).opcode = some o from row]
    dsimp only
    rw [list]
  generalize (if asksClassS d then wakeAll v else v) = y at woken shape
  have here : tget w.rge.nextFlight y.rge.flights = some (flightOf w r d) := by
    rw [woken.flights, taken]
    exact tget_tput_self
  have listed : ∀ (z : State) (c : Flight), tget w.rge.nextFlight z.rge.flights = some c →
      tget w.rge.nextFlight (onFlight w.rge.nextFlight (fun c => { c with sgl := l }) z).rge.flights = some { c with sgl := l } := by
    intro z c found
    show tget w.rge.nextFlight (tmod w.rge.nextFlight _ z.rge.flights) = _
    rw [tget_tmod, if_pos rfl, found]
    rfl
  have settled := settles_passStep5 w.rge.nextFlight r.held96 y
  rw [shape]
  refine ⟨?_, fun class_ => ?_, ?_⟩
  · show (passStep5 w.rge.nextFlight r.held96 y).rge.nextFlight = _
    rw [settled.next, woken.nextFlight, taken]
    rfl
  · rw [passStep5_of_notS here class_]
    exact listed _ _ here
  · obtain ⟨b, c, found⟩ := settled.flight _ here
    exact ⟨b, c, listed _ _ found⟩

theorem setCur_nextFlight (c : Nat) (v : Int) (r : Rge) : (setCur c v r).nextFlight = r.nextFlight := by
  unfold setCur
  split
  · rfl
  · split <;> rfl

theorem swrr_nextFlight (s : State) (e : List Nat) : (swrr s e).2.nextFlight = s.rge.nextFlight := by
  have turns : ∀ (l : List Nat) (r : Rge), (l.foldl (fun r c => setCur c (curOf r c + (weight s c : Int)) r) r).nextFlight = r.nextFlight := by
    intro l
    induction l with
    | nil => exact fun r => rfl
    | cons c l ih => exact fun r => (ih _).trans (setCur_nextFlight ..)
  exact (setCur_nextFlight ..).trans (turns e s.rge)

/-- The choice of a ring (R161) takes no number of a flight. -/
theorem choose_nextFlight (s : State) : (choose s).2.rge.nextFlight = s.rge.nextFlight := by
  unfold choose
  split
  · rfl
  · dsimp only
    split
    · rfl
    · split
      · rfl
      · exact swrr_nextFlight ..

/-- At a fetch opportunity the chosen ring is read, or stops if the read failed (R83, R161, R165, R835). -/
theorem fetchNext_of_chosen {k : Nat} {r : Ring} {desc : Option (List Byte)} {segs : List (Option (List Byte))} {s w : State} (awake_ : s.pwr.rindSleep = 0)
    (chosen : choose (markHeld s) = (some k, w)) (ring : ringOf w k = some r) (unarmed : w.integ.armed = false)
    (room : r.cls = .s ∨ fetchFits (markHeld s) (segs.foldl (fun m l => max m ((l.getD []).length)) 64) = true) :
    fetchNext desc segs s = match desc with
      | none => stopRing k 1 (r.base + 64 * r.dev) 0 w
      | some d => fetchFrom k r (fit 64 d) segs w := by
  have met : (if r.fn = 0 then meet 11 0xFF r.idx false w else (false, 0, w)) = (false, 0, w) := by
    rw [meet_unarmed unarmed, ite_self]
  have allowed : ¬(r.cls ≠ .s ∧ (!fetchFits (markHeld s) (segs.foldl (fun m l => max m ((l.getD []).length)) 64)) = true) := by
    obtain class_ | fits := room
    · simp [class_]
    · simp [fits]
  unfold fetchNext
  rw [if_neg (by omega)]
  dsimp only
  rw [chosen]
  dsimp only
  rw [ring]
  dsimp only
  rw [if_neg allowed, met]
  cases desc <;> rfl

/-- A failed access to a ring stops it, no bypass window being open for DT11 (R835). -/
theorem stopRing_stopped {k event addr ef : Nat} {r : Ring} {s : State} (ring : ringOf s k = some r) (window : bypassed s 11 = false) :
    (ringOf (stopRing k event addr ef s) k).map (·.stopped) = some true := by
  have same := (quiet_raiseF 11 { unit := r.idx, func := r.fn, loc := addr } ef s).ring k
  rw [ring] at same
  obtain ⟨q, found, -⟩ := Option.map_eq_some_iff.mp same
  unfold stopRing
  rw [ring]
  dsimp only
  rw [if_neg (by rw [bypassed_raiseF]; simp [window]), stopped_quiet (quiet_ringNotice ..), ringOf_onRing, if_pos rfl, found]
  rfl

theorem Settles.stopped {id k : Nat} {s u : State} (settles : Settles id s u) :
    (ringOf u k).map (·.stopped) = (ringOf s k).map (·.stopped) := by
  have same := congrArg (Option.map Ring.stopped) (settles.ring k)
  simpa [Option.map_map, Function.comp_def, Ring.rest] using same

/-- A held notice is written once its event ring has room (R94). -/
theorem flushHeld_writes {f n k : Nat} {x : Notice} {rest : List Notice} {r : Ring} {s : State} (held : (funcOf s f).held = x :: rest)
    (ring : evtRing s f = some (k, r)) (awake_ : s.brc.active = false) (room : 0 < ringRoom r) :
    Out.notice r.fn (r.base + 32 * r.dev) (nflags r x) x ∈ (flushHeld f (n + 1) s).out := by
  unfold flushHeld
  rw [held, ring]
  dsimp only
  rw [if_pos (by simp [noticesWait, awake_, room])]
  exact later_flushHeld _ _ _ _ (later_coalesce _ _ _ (List.mem_cons_self ..))

theorem rings_sendVector (f v : Nat) (s : State) : (sendVector f v s).rge.rings = s.rge.rings := by
  unfold sendVector
  split
  · rfl
  · split <;> rfl

/-- Settles O35. -/
theorem ringEngine : Obligations.RingEngine := by
  intro t s
  refine ⟨fun d segs k r w v o l awake_ chosen ring unarmed room taken passes row list => ?_, fun segs k r w awake_ chosen ring unarmed room window => ?_,
    fun f i r ring running window => ?_, fun f sub i r bad ring stopped loud ended fn0 => ?_, fun f x rest k r held ring awake_ room => ?_,
    fun f i r t0 ring first time due running => ?_, fun f i r t0 ring since class_ want due unarmed window => ?_, fun pdev rate step => ?_⟩
  · have fetched : fetchNext (some d) segs (tick t s) = fetchFrom k r (fit 64 d) segs w :=
      fetchNext_of_chosen (s := tick t s) awake_ chosen ring unarmed room
    have id : (tick t s).rge.nextFlight = w.rge.nextFlight := by
      have same := choose_nextFlight (markHeld (tick t s))
      rw [chosen] at same
      exact same.symm
    obtain ⟨next, plain, any⟩ := fetchFrom_facts taken passes row list
    have floor := quiet_updateFloor (bookReads w.rge.nextFlight (fetchFrom k r (fit 64 d) segs w))
    have booked := settles_bookReads w.rge.nextFlight (fetchFrom k r (fit 64 d) segs w)
    have runs : exec (.descriptorFetch t (some d) segs) s = .next (updateFloor (bookReads w.rge.nextFlight (fetchFrom k r (fit 64 d) segs w))) := by
      show execDescriptorFetch t (some d) segs s = _
      unfold execDescriptorFetch
      dsimp only
      rw [fetched, id]
    refine completes_of runs ⟨?_, fun class_ => ?_, ?_⟩
    · rw [floor.nextFlight, booked.next, next]
    · rw [floor.flights, bookReads_of_unbounded (plain class_) rfl]
      exact plain class_
    · obtain ⟨b, c, found⟩ := any
      obtain ⟨b2, c2, still⟩ := booked.flight _ found
      exact ⟨b2, c2, by rw [floor.flights, still]⟩
  · have fetched : fetchNext none segs (tick t s) = stopRing k 1 (r.base + 64 * r.dev) 0 w :=
      fetchNext_of_chosen (s := tick t s) (desc := none) awake_ chosen ring unarmed room
    have runs : exec (.descriptorFetch t none segs) s =
        .next (updateFloor (bookReads (tick t s).rge.nextFlight (stopRing k 1 (r.base + 64 * r.dev) 0 w))) := by
      show execDescriptorFetch t none segs s = _
      unfold execDescriptorFetch
      dsimp only
      rw [fetched]
    refine completes_of runs ?_
    rw [stopped_quiet (quiet_updateFloor ..), (settles_bookReads ..).stopped]
    exact stopRing_stopped ring window
  · have stops : exec (.ringStoppedNotice t f false i true) s = .next (stopRing (ringKey f false i) 2 r.base 0 (tick t s)) := by
      show execRingStoppedNotice t f false i true s = _
      unfold execRingStoppedNotice
      dsimp only
      rw [show ringOf (tick t s) (ringKey f false i) = some r from ring]
      exact if_pos (by simp [running])
    exact completes_of stops (stopRing_stopped (s := tick t s) ring window)
  · have notices : exec (.ringStoppedNotice t f sub i bad) s =
        .next (ringNotice r 4 0 0 (onRing (ringKey f sub i) (fun q => { q with quiet := true }) (tick t s))) := by
      show execRingStoppedNotice t f sub i bad s = _
      unfold execRingStoppedNotice
      dsimp only
      rw [show ringOf (tick t s) (ringKey f sub i) = some r from ring]
      dsimp only
      rw [if_neg (by simp [stopped]), if_pos ⟨stopped, by simp [loud], ended⟩]
    refine completes_of notices ⟨?_, ?_⟩
    · rw [quietOf_quiet (quiet_ringNotice ..), ringOf_onRing, if_pos rfl, show ringOf (tick t s) (ringKey f sub i) = some r from ring]
      rfl
    · unfold ringNotice
      rw [fn0]
      exact post_noticed ..
  · refine completes_of rfl ?_
    rw [show (funcOf (tick t s) f).held.length = rest.length + 1 by rw [show (funcOf (tick t s) f).held = x :: rest from held]; rfl]
    exact flushHeld_writes (s := tick t s) held ring awake_ room
  · have sends : exec (.coalesceTimer t f i) s =
        .next (sendVector f r.vec (onRing (ringKey f false i) (fun q => { q with coalN := 0, coalFirst := none }) (tick t s))) := by
      show execCoalesceTimer t f i s = _
      unfold execCoalesceTimer
      dsimp only
      rw [show ringOf (tick t s) (ringKey f false i) = some r from ring]
      dsimp only
      rw [first]
      exact if_pos ⟨time, due⟩
    refine completes_of sends ⟨sendVector_sent f r.vec _ running, ?_⟩
    unfold ringOf
    rw [rings_sendVector]
    show (ringOf (onRing _ _ (tick t s)) _).map _ = _
    rw [ringOf_onRing, if_pos rfl, show ringOf (tick t s) (ringKey f false i) = some r from ring]
    rfl
  · show execClassSFetchStall t f i s = _
    unfold execClassSFetchStall
    dsimp only
    rw [show ringOf (tick t s) (ringKey f true i) = some r from ring]
    dsimp only
    rw [since]
    dsimp only
    rw [meet_unarmed (s := tick t s) unarmed]
    dsimp only
    rw [if_pos ⟨class_, want, .inl due⟩, if_neg (by simp [window])]
  · by_cases rom : s.boot.running = .rom
    · exact completes_of ((if_neg (not_not_intro step)).trans (if_pos rom)) ⟨rfl, rfl, rfl⟩
    · exact completes_of ((if_neg (not_not_intro step)).trans (if_neg rom)) ⟨rfl, rfl, rfl⟩

end Sys2Proof.Machine
end

section
/-!
SUPPORT. Zest jobs of cores (07, Jobs): what a core's reach rests on, what a job's result leaves, and the statement that rests on this.
-/
namespace Sys2Proof.Machine

/-- What a core may name in a job rests on the roles, the runs, the cores and the promoted cores alone (R590, R592). -/
theorem jobRange_of {s u : State} (role : u.dsp = s.dsp) (cores : u.dxr.cores = s.dxr.cores) (promoted : u.integ.promoted = s.integ.promoted)
    (k a n : Nat) (write : Bool) : jobRange u k a n write = jobRange s k a n write := by
  unfold jobRange isHouse runOn coreOf
  rw [role, cores, promoted]

theorem isHouse_of {s u : State} (role : u.dsp = s.dsp) (promoted : u.integ.promoted = s.integ.promoted) (k : Nat) : isHouse u k = isHouse s k := by
  unfold isHouse
  rw [role, promoted]

theorem mapOk_of {s u : State} (mov : u.mov = s.mov) (seg a n : Nat) (write : Bool) : mapOk u seg a n write = mapOk s seg a n write := by
  unfold mapOk segOk inDram dramSize
  rw [mov]

theorem readMem_of {s u : State} (mem : u.dxr.mem = s.dxr.mem) (key a n : Nat) : readMem u key a n = readMem s key a n := by
  unfold readMem memOfKey
  rw [mem]

theorem zjBytes_length (status reason inDone outDone crc : Nat) : (zjBytes status reason inDone outDone crc).length = 16 := by
  simp only [zjBytes, pack, List.length_append, le_length, List.length_nil]

/-- A job's end writes its result where its core may name it (R268), and leaves the Zest jobs. -/
theorem jobResult_writes {k source status : Nat} {bs : List Byte} {res : Nat} {notify : Bool} {x : State} (size : bs.length = 16) (fine : status ≠ 0x0605)
    (wf : Memory.wf x.dxr.mem = true) (mapped : mapOk x (k / 4) res 16 true = true) (reach : jobRange x k res 16 true = true) :
    readMem (jobResult k source status bs res notify x) (k / 4) res 16 = bs ∧ (jobResult k source status bs res notify x).zst = x.zst := by
  have both : (jobRange x k res 16 true && mapOk x (k / 4) res 16 true) = true := by rw [mapped, reach]; rfl
  have written : readMem (writeMem (k / 4) res bs x) (k / 4) res 16 = bs := by
    rw [← size]
    exact readMem_writeMem _ _ _ _ wf
  have item : ∀ y, (notifyItem k source bs res y).dxr.mem = y.dxr.mem := fun y => of_one (a := .mem) (by simp)
  have zst : ∀ y, (notifyItem k source bs res y).zst = y.zst := fun y => of_one (a := .zst) (by simp)
  unfold jobResult
  dsimp only
  rw [if_pos both, if_neg fine]
  split
  · exact ⟨by rw [readMem_of (item _)]; exact written, zst _⟩
  · exact ⟨written, rfl⟩

/-- A core's job that passes its checks takes a place in its Segment's queue (R267). -/
theorem zjSubmit_queues {k : Nat} {d : List Byte} {s : State} (passes : zjCheck s k d = none) :
    tget s.zst.nextJob (zjSubmit k d s).zst.jobs = some { seg := k / 4, core := k, guest := !isHouse s k, desc := d } ∧
      (zjSubmit k d s).zst.nextJob = s.zst.nextJob + 1 := by
  generalize woken : (if sleepOf s (k / 4) = 0 then s else startWake (k / 4) s) = w
  have zst : w.zst = s.zst := by rw [← woken]; split; rfl; exact of_one (a := .zst) (by simp)
  have dsp : w.dsp = s.dsp := by rw [← woken]; split; rfl; exact of_one (a := .dsp) (by simp)
  have integ : w.integ = s.integ := by rw [← woken]; split; rfl; exact of_one (a := .integ) (by simp)
  unfold zjSubmit
  rw [passes]
  dsimp only
  rw [woken, zst, isHouse_of dsp (by rw [integ])]
  exact ⟨tget_tput_self, rfl⟩

/-- The job that a core hands over is taken as it stands, and the checks read what the hand-over leaves (R267). -/
theorem zjTake_submits {k : Nat} {f : Nat → Bool} {d : List Byte} {t : Nat} {s : State} (taken : (zjTake k f (tick t s)).1 = some d)
    (passes : zjCheck s k d = none) :
    ∃ w, zjTake k f (tick t s) = (some d, w) ∧ tget s.zst.nextJob (zjSubmit k d w).zst.jobs =
        some { seg := k / 4, core := k, guest := !isHouse s k, desc := d } ∧ (zjSubmit k d w).zst.nextJob = s.zst.nextJob + 1 := by
  obtain ⟨l, shape⟩ := zjTake_take taken
  exact ⟨_, shape, zjSubmit_queues (s := onDxr (fun x => { x with hands := l }) (tick t s)) passes⟩

/-- A decompression job decodes its input, writes its output, and then its result (R268, R273). -/
theorem zjFinish_decodes {j : ZJob} {bad : List Nat} {r : ZDone} {s : State} (op : zjOp j.desc ≠ 1) (reach : jobRange s j.core (zjRes j.desc) 16 true = true)
    (source : mapOk s j.seg (zjIn j.desc) (zjInLen j.desc) false = true)
    (work : r = zjWork j.desc (segBytes s (if j.guest then coreFn s j.core else none) j.seg (zjIn j.desc) (zjInLen j.desc)) bad)
    (dest : mapOk s j.seg (zjOut j.desc) r.out.length true = true) (mapped : mapOk s (j.core / 4) (zjRes j.desc) 16 true = true)
    (fine : r.status ≠ 0x0605) (wf : Memory.wf s.dxr.mem = true) :
    (zjFinish j bad s).zst = s.zst ∧
      readMem (zjFinish j bad s) (j.core / 4) (zjRes j.desc) 16 = zjBytes r.status r.reason r.used r.out.length (Config.crc32c r.content) := by
  generalize counted : bump (Reg.zstDoutLo j.seg) r.out.length (writeMem j.seg (zjOut j.desc) r.out s) = w
  have dxr : w.dxr = (writeMem j.seg (zjOut j.desc) r.out s).dxr := by rw [← counted]; exact of_one (a := .dxr) (by simp)
  have zst : w.zst = s.zst := by rw [← counted]; exact of_one (a := .zst) (by simp)
  have mov : w.mov = s.mov := by rw [← counted]; exact of_one (a := .mov) (by simp)
  have dsp : w.dsp = s.dsp := by rw [← counted]; exact of_one (a := .dsp) (by simp)
  have promoted : w.integ.promoted = s.integ.promoted := by rw [← counted, bump_promoted]; rfl
  have finish : zjFinish j bad s = zjEnd j.core j.desc r.status r.reason r.used r.out.length (Config.crc32c r.content) w := by
    unfold zjFinish
    dsimp only
    rw [if_neg (by simp [source]), if_neg op]
    dsimp only
    rw [if_neg (show ¬false = true by simp), ← work, if_neg (by simp [dest]), if_neg op, counted]
  obtain ⟨result, jobs⟩ := jobResult_writes (k := j.core) (source := 3) (status := r.status) (res := zjRes j.desc) (notify := nbit (fld j.desc 1 1) 1) (x := w)
    (bs := zjBytes r.status r.reason r.used r.out.length (Config.crc32c r.content)) (zjBytes_length ..) fine
    (by rw [dxr]; exact writeMem_wf _ _ _ _ wf) (by rw [mapOk_of mov, mapped]) (by rw [jobRange_of dsp (by rw [dxr]; rfl) promoted, reach])
  rw [finish]
  exact ⟨jobs.trans zst, result⟩

/-- Settles O36. -/
theorem zestEngine : Obligations.ZestEngine := by
  intro t s
  refine ⟨fun k d taken passes => ?_, fun k d taken passes => ?_, fun seg bad n j r next awake_ op reach source work dest mapped fine wf => ?_⟩
  · obtain ⟨w, shape, queued⟩ := zjTake_submits taken passes
    have runs : exec (.zestCompressJob t k) s = .next (zjSubmit k d w) := by
      show execZestCompressJob t k s = _
      unfold execZestCompressJob
      rw [shape]
    exact completes_of runs queued
  · obtain ⟨w, shape, queued⟩ := zjTake_submits taken passes
    have runs : exec (.zestDecompressJob t k) s = .next (zjSubmit k d w) := by
      show execZestDecompressJob t k s = _
      unfold execZestDecompressJob
      rw [shape]
    exact completes_of runs queued
  · have runs : exec (.zestJobComplete t seg false bad) s =
        .next (zjFinish j bad { tick t s with zst := { s.zst with jobs := tdel n s.zst.jobs } }) := by
      show execZestJobComplete t seg false bad s = _
      unfold execZestJobComplete
      dsimp only
      rw [show zjNext (tick t s) seg false = some (n, j) from next]
      dsimp only
      rw [if_neg (not_not_intro (show sleepOf (tick t s) seg = 0 from awake_))]
      rfl
    obtain ⟨jobs, result⟩ := zjFinish_decodes (s := { tick t s with zst := { s.zst with jobs := tdel n s.zst.jobs } }) op reach source work dest mapped fine wf
    exact completes_of runs ⟨by rw [jobs], result⟩

end Sys2Proof.Machine
end

section
/-!
SUPPORT. Work of the media (08): a table that lists one key twice, and the statement that it refutes.
-/
namespace Sys2Proof.Machine

/-- A checkpoint of no bytes, begun. -/
def emptyCkpt : CkptWip := { no := 1, item := 7, len := 0, digest := [], nexts := [] }

/-- The state after reset, whose table of begun checkpoints lists Segment 0 twice. -/
def twiceListed : State := { State.reset with med := { wips := [(0, emptyCkpt), (0, emptyCkpt)] } }

/-- A checkpoint whose bytes are all verified leaves the table of begun checkpoints once (R305). -/
theorem settleCkpt_wips {seg : Nat} {w : CkptWip} {s : State} (begun : tget seg s.med.wips = some w)
    (whole : w.len ≤ (piecesOf s seg w.item).foldl (fun n p => n + p.len) 0) : (settleCkpt seg s).med.wips = tdel seg s.med.wips := by
  have kept : ∀ a b c (w : State), (writeTriad a b c w).med = w.med := fun a b c w => of_one (a := .med) (by simp)
  have queued : ∀ a b c d (w : State), (queueJ a b c d w).med = w.med := fun a b c d w => rfl
  unfold settleCkpt
  rw [begun]
  dsimp only
  rw [if_neg (by omega), kept, queued]
  rfl

/-- Refutes O37: `tdel` takes one entry of a key away, so that in a state whose table of begun checkpoints lists Segment 0 twice, one is
still listed after a checkpoint is settled. No premise of the statement says that the state's tables list a key once. -/
theorem not_mediaWork : ¬ Obligations.MediaWork := by
  intro holds
  obtain ⟨-, -, -, -, -, -, settled, -⟩ := holds 1 0 twiceListed (by decide)
  obtain ⟨u, runs, -, -, gone, -⟩ := settled emptyCkpt (settleFills 0 (tick 1 twiceListed)) (by decide) rfl rfl rfl (by decide)
  have left : exec (.mapCheckpoint 1 0) twiceListed = .next (settleCkpt 0 (settleFills 0 (tick 1 twiceListed))) := rfl
  obtain rfl : settleCkpt 0 (settleFills 0 (tick 1 twiceListed)) = u := by
    rw [left] at runs
    injection runs
  rw [settleCkpt_wips (w := emptyCkpt) rfl (by decide)] at gone
  have still : tget 0 (tdel 0 (settleFills 0 (tick 1 twiceListed)).med.wips) = some emptyCkpt := rfl
  rw [still] at gone
  cases gone

end Sys2Proof.Machine
end

section
/-!
SUPPORT. The die wheel (09): what its operations leave of a die and of a channel, the read whose codewords decode at once, and the statement that
rests on this.
-/
namespace Sys2Proof.Machine

/-- A die but for its operation and the programs that wait for it. -/
def Die.still (x : Die) : Die := { x with op := none, progs := [] }

/-- Where a die stands on the wheel. -/
def Die.place (x : Die) : Nat × Option Nat × Option Nat := (x.lastPos, x.ahead, x.guard)

theorem Die.still_window {x y : Die} (same : x.still = y.still) : x.opened = y.opened ∧ x.decided = y.decided ∧ x.going = y.going ∧ x.errs = y.errs :=
  ⟨(congrArg Die.opened same :), (congrArg Die.decided same :), (congrArg Die.going same :), (congrArg Die.errs same :)⟩

theorem tget_onDie_other {d k : Nat} (f : Die → Die) (s : State) (other : d ≠ k) : tget d (onDie k f s).flw.dies = tget d s.flw.dies := by
  show tget d (tmod k f s.flw.dies) = _
  rw [tget_tmod, if_neg other]

theorem isSome_onDie (d k : Nat) (f : Die → Die) (s : State) : (tget d (onDie k f s).flw.dies).isSome = (tget d s.flw.dies).isSome := by
  by_cases same : d = k
  · rw [same, tget_onDie, Option.isSome_map]
  · rw [tget_onDie_other f s same]

theorem tgetD_onChan (c : Nat) (f : Chan → Chan) (s : State) : tgetD {} c (onChan c f s).flw.chans = f (tgetD {} c s.flw.chans) := tgetD_tput_self

/-- A die that may start a program starts at most one, at this instant, and else stays as it is. -/
theorem nextProgram_die {d : Nat} {x : Die} {s : State} (die : tget d s.flw.dies = some x) :
    ∃ y, tget d (nextProgram d s).flw.dies = some y ∧ y.still = x.still ∧ (y.op = x.op ∨ ∃ p, y.op = some p ∧ p.erase = false ∧ p.at_ = s.now) := by
  unfold nextProgram
  rw [die]
  dsimp only
  split
  · exact ⟨x, die, rfl, .inl rfl⟩
  · have flw : (pickProg d x.progs s).2.flw = s.flw := of_one (a := .flw) (by simp)
    have now : (pickProg d x.progs s).2.now = s.now := of_one (a := .now) (by simp)
    generalize pickProg d x.progs s = picked at flw now
    obtain ⟨_ | p, w⟩ := picked
    · exact ⟨x, by rw [flw, die], rfl, .inl rfl⟩
    · refine ⟨_, ((tget_onDie d _ _).trans ?_ : _ = some { x with
        op := some { erase := false, block := blkOf w p.band d, at_ := w.now, prog := some p }, progs := x.progs.erase p }), rfl, .inr ⟨_, rfl, rfl, now⟩⟩
      show (tget d w.flw.dies).map _ = _
      rw [show tget d w.flw.dies = some x by rw [← die, ← flw]]
      rfl

theorem transfer_retrain (d a n c : Nat) (s : State) :
    (tgetD {} c (transfer d a n s).2.flw.chans).retrain = (tgetD {} c s.flw.chans).retrain := by
  show (tgetD {} c (tput (chanOf d) _ s.flw.chans)).retrain = _
  by_cases same : c = chanOf d
  · rw [same, tgetD_tput_self]
  · rw [tgetD_tput_ne same]

/-- Starting a program takes a channel's time, and leaves what a channel has to retrain; what was sent stays sent. -/
theorem nextProgram_leaves (d c : Nat) (s : State) :
    (tgetD {} c (nextProgram d s).flw.chans).retrain = (tgetD {} c s.flw.chans).retrain ∧ Later s (nextProgram d s) := by
  unfold nextProgram
  split
  · exact ⟨rfl, .refl s⟩
  · next x die =>
    split
    · exact ⟨rfl, .refl s⟩
    · have flw : (pickProg d x.progs s).2.flw = s.flw := of_one (a := .flw) (by simp)
      have out : (pickProg d x.progs s).2.out = s.out := of_one (a := .out) (by simp)
      generalize pickProg d x.progs s = picked at flw out
      obtain ⟨_ | p, w⟩ := picked
      · exact ⟨by rw [flw], .of_out out⟩
      · exact ⟨(transfer_retrain ..).trans (by rw [flw]), (later_emit _ _).since out⟩

/-- An operation that resumes leaves a die's windows, and other dies. -/
theorem resumeOp_still (k d : Nat) (s : State) : (tget d (resumeOp k s).flw.dies).map Die.still = (tget d s.flw.dies).map Die.still := by
  unfold resumeOp
  split
  · rfl
  · split
    · rfl
    · split
      · rfl
      · by_cases same : d = k
        · subst same
          refine (congrArg _ (tget_onDie d _ s)).trans ?_
          rw [Option.map_map]
          rfl
        · exact congrArg _ (tget_onDie_other _ s same)

/-- A decision at a window's position leaves where the die stands on the wheel. -/
theorem decide_place (d : Nat) (s : State) : (tget d (decide_ d s).flw.dies).map Die.place = (tget d s.flw.dies).map Die.place := by
  unfold decide_
  split
  · rfl
  · next x die =>
    split
    · rfl
    · have queued := tget_onDie d (fun y => { y with queue := y.queue.map fun r => { r with due := true } }) s
      dsimp only
      generalize onDie d (fun y => { y with queue := y.queue.map fun r => { r with due := true } }) s = w at queued ⊢
      rw [die] at queued ⊢
      have opens : (tget d (openWindow d w.now w).flw.dies).map Die.place = some x.place := by
        obtain ⟨q, -, opened⟩ := openWindow_die d w.now _ w queued
        rw [opened]
        rfl
      split
      · exact opens
      · split
        · exact opens
        · split
          · rw [queued]
            rfl
          · show (tget d (bump _ 1 _).flw.dies).map Die.place = _
            rw [flw_bump, tget_onDie, queued]
            rfl

theorem isSome_joinQueue (d k : Nat) (r : DRead) (s : State) : (tget d (joinQueue k r s).flw.dies).isSome = (tget d s.flw.dies).isSome := by
  unfold joinQueue
  split
  · rfl
  · dsimp only
    split
    · have flw : ∀ i c (w : State), (voidRead i c w).flw = w.flw := fun i c w => of_one (a := .flw) (by simp)
      rw [flw, isSome_onDie]
    · rw [isSome_onDie]

theorem isSome_foldl {α : Type} (d : Nat) {f : State → α → State} (one : ∀ s a, (tget d (f s a).flw.dies).isSome = (tget d s.flw.dies).isSome) :
    ∀ (l : List α) (s : State), (tget d (l.foldl f s).flw.dies).isSome = (tget d s.flw.dies).isSome
  | [], _ => rfl
  | a :: l, s => (isSome_foldl d one l (f s a)).trans (one s a)

theorem isSome_queueRead (d k : Nat) (s : State) (q : QRead) : (tget d (queueRead k s q).flw.dies).isSome = (tget d s.flw.dies).isSome := by
  unfold queueRead
  split
  · rfl
  · dsimp only
    split
    · exact isSome_joinQueue ..
    · split
      · rw [flw_bump]
        exact isSome_foldl d (fun s e => isSome_joinQueue ..) _ s
      · have flw : ∀ i c (w : State), (voidRead i c w).flw = w.flw := fun i c w => of_one (a := .flw) (by simp)
        rw [flw]
        exact isSome_joinQueue ..

theorem now_queueReads (k : Nat) : ∀ (l : List QRead) (s : State), (l.foldl (queueRead k) s).now = s.now
  | [], _ => rfl
  | q :: l, s => (now_queueReads k l _).trans (of_one (a := .now) (by simp))

/-- Codewords that decode at once say so, and leave the state (R390). -/
theorem ladders_at_once {d : Nat} {x : Die} (there : x.lost = false) {s : State} (unarmed : s.integ.armed = false) :
    ∀ l : List CwRead, (∀ w ∈ l, w.tries.head? = some (some (0, false))) → ladders d x l s = (l.map fun w => (w, { step := 0, corr := 0, ef := 0 }), s)
  | [], _ => rfl
  | w :: l, clean => by
    obtain ⟨rest, tries⟩ : ∃ rest, w.tries = some (0, false) :: rest := by
      have first := clean w (List.mem_cons_self ..)
      revert first
      cases w.tries with
      | nil => simp
      | cons a rest => exact fun first => ⟨rest, by simp_all⟩
    have one : ladder d x w s = ({ step := 0, corr := 0, ef := 0 }, s) := by
      unfold ladder
      rw [meet_unarmed unarmed]
      dsimp only
      rw [meet_unarmed unarmed]
      dsimp only
      rw [if_neg (by simp [there]), if_neg (by simp), tries]
      unfold walk
      rw [meet_unarmed unarmed]
      rfl
    unfold ladders
    rw [one]
    dsimp only
    rw [ladders_at_once there unarmed l fun v mem => clean v (List.mem_cons_of_mem _ mem)]
    rfl

/-- A page whose codewords decode at once leaves the state but for the die's count of timeouts in a row (R390, R339). -/
theorem pageRead_at_once {d b pg best id : Nat} {l : List CwRead} {x : Die} {s : State} (there : x.lost = false) (unarmed : s.integ.armed = false)
    (clean : ∀ w ∈ l, w.tries.head? = some (some (0, false))) : pageRead d b pg best l (some id) x s = onDie d (fun y => { y with errs := 0 }) s := by
  have outs : ((l.map fun w => (w, ({ step := 0, corr := 0, ef := 0 } : CwOut))).map (·.2)) = List.replicate l.length ({ step := 0, corr := 0, ef := 0 } : CwOut) := by
    rw [List.map_map]
    exact List.map_const'
  have steps : ∀ l : List CwRead, (l.map fun w => (w, ({ step := 0, corr := 0, ef := 0 } : CwOut))).foldl (fun m o => max m o.2.step) 0 = 0 := by
    intro l
    induction l with
    | nil => rfl
    | cons w l ih => exact ih
  have none_lost : (l.map fun w => (w, ({ step := 0, corr := 0, ef := 0 } : CwOut))).filter (fun o => decide (o.2.step ≥ 9)) = [] := by
    simp
  have wear : ∀ site, readWear d b (List.replicate l.length { step := 0, corr := 0, ef := 0 }) false x site s = onDie d (fun y => { y with errs := 0 }) s := by
    intro site
    unfold readWear
    simp
  unfold pageRead
  rw [ladders_at_once there unarmed l clean]
  dsimp only
  rw [steps, outs, none_lost, if_pos (show ([] : List (CwRead × CwOut)).isEmpty = true from rfl)]
  unfold readCauses
  rw [if_pos (.inr rfl), if_neg (by simp [there])]
  exact wear _

/-- A token that nobody holds is taken (R345). -/
theorem takeToken_free {prec res : Nat} {s : State} (free : tget res s.med.tokens = none) :
    takeToken prec res s = (true, onMed (fun m => { m with tokens := tput res (prec, true) m.tokens }) s) := by
  unfold takeToken
  rw [if_pos (by unfold tokenFree; rw [free])]

theorem eraseChecked_none {d b : Nat} {blank : Bool} {s : State} (unlisted : (d, b) ∉ s.flw.blankFail) : eraseChecked d b blank s = s := by
  unfold eraseChecked
  exact if_pos (by simpa using unlisted)

/-- A window's position is decided, and the die stands there (R330, R341). -/
theorem windowDecision_place {t d : Nat} {reads : List QRead} {x : Die} {s : State} (die : tget d s.flw.dies = some x) (usable : x.usable = true)
    (there : x.lost = false) (awake_ : sleepOf s (segOfDie d) < 2) (due : (nextPos (tick t s) (settleDie (tick t s) x).2).1 ≤ max s.now t + 25000) :
    Completes (.windowDecision t d reads) s fun u => (tget d u.flw.dies).map Die.place =
      some (takePos (nextPos (tick t s) (settleDie (tick t s) x).2)
        { (settleDie (tick t s) x).2 with lastPos := lastPosOf (tick t s) (settleDie (tick t s) x).2 }).place := by
  generalize settled : settleDie (tick t s) x = r at due
  obtain ⟨took, y⟩ := r
  have near : ¬(tick t s).now + 25000 < (nextPos (tick t s) y).1 := Nat.not_lt.mpr due
  have runs : ∃ w : State, exec (.windowDecision t d reads) s = .next (decide_ d (if took then bump (Reg.flwGuardLo (segOfDie d)) 1 w else w)) ∧
      w = onDie d (fun z => takePos (nextPos (tick t s) y) { z with lastPos := lastPosOf (reads.foldl (queueRead d) (tick t s)) y, ahead := y.ahead, guard := y.guard })
        (reads.foldl (queueRead d) (tick t s)) := by
    refine ⟨_, ?_, rfl⟩
    show execWindowDecision t d reads s = _
    unfold execWindowDecision
    dsimp only
    rw [show tget d (tick t s).flw.dies = some x from die]
    dsimp only
    rw [if_neg (show ¬((!x.usable) = true ∨ x.lost = true ∨ sleepOf (tick t s) (segOfDie d) ≥ 2) by
      simp [usable, there, show sleepOf (tick t s) (segOfDie d) < 2 from awake_]), settled]
    dsimp only
    rw [if_neg (show ¬(tick t s).now + 25000 < (nextPos (tick t s) y).1 from near)]
  obtain ⟨w, runs, taken⟩ := runs
  have same : lastPosOf (reads.foldl (queueRead d) (tick t s)) y = lastPosOf (tick t s) y := by
    unfold lastPosOf
    rw [now_queueReads]
  obtain ⟨z, found⟩ : ∃ z, tget d (reads.foldl (queueRead d) (tick t s)).flw.dies = some z := by
    refine Option.isSome_iff_exists.mp ?_
    rw [isSome_foldl d (fun s q => isSome_queueRead ..), show tget d (tick t s).flw.dies = some x from die]
    rfl
  have counted : ∀ v : State, (if took then bump (Reg.flwGuardLo (segOfDie d)) 1 v else v).flw = v.flw := by
    intro v
    split
    · exact flw_bump ..
    · rfl
  refine completes_of runs ?_
  rw [decide_place, counted, taken, tget_onDie, found, same]
  refine congrArg some ?_
  dsimp only
  unfold takePos
  split <;> rfl

/-- An erase whose intent is durable takes its token and starts (R345, R353, R690). -/
theorem eraseIssue_starts {t d b : Nat} {x : Die} {s : State} (die : tget d s.flw.dies = some x) (usable : x.usable = true) (there : x.lost = false)
    (idle : x.op = none) (shut : windowBusy x = false) (intent : intentOpen s d b = true) (may : mayErase (tick t s) d b x = true)
    (urgent : x.progs.any (fun p => p.prec == 0 && p.cls == 0) = false) (runs : maintRuns s (segOfDie d) (erasePrec s (segOfDie d)) = true)
    (free : tget d s.med.tokens = none) : Completes (.eraseIssue t d b) s fun u =>
      (∃ slc, (∀ k q, bandOf s d b = some k → tget k s.med.bands = some q → slc = q.slc) ∧ u.out = .nand (chanOf d) x.pos (.erase b slc) :: s.out)
      ∧ u.med.tokens = tput d (erasePrec s (segOfDie d), true) s.med.tokens
      ∧ (tget d u.flw.dies).map (·.op) = some (some { erase := true, block := b, at_ := max s.now t }) := by
  have next : ∃ slc, (∀ k q, bandOf s d b = some k → tget k s.med.bands = some q → slc = q.slc) ∧
      exec (.eraseIssue t d b) s = .next (emit (.nand (chanOf d) x.pos (.erase b slc))
        (onDie d (fun y => { y with op := some { erase := true, block := b, at_ := max s.now t } })
          (onMed (fun m => { m with tokens := tput d (erasePrec s (segOfDie d), true) m.tokens }) (tick t s)))) := by
    refine ⟨match (bandOf s d b).bind fun k => tget k s.med.bands with | some q => q.slc | none => false, fun k q band found => ?_, ?_⟩
    · rw [band, Option.bind_some, found]
    · show execEraseIssue t d b s = _
      unfold execEraseIssue
      dsimp only
      rw [show tget d (tick t s).flw.dies = some x from die]
      dsimp only
      rw [if_neg (by
        rw [show intentOpen (tick t s) d b = true from intent, may, urgent, show maintRuns (tick t s) (segOfDie d) (erasePrec (tick t s) (segOfDie d)) = true from runs]
        simp [usable, there, idle, shut]), takeToken_free (show tget d (tick t s).med.tokens = none from free)]
      rfl
  obtain ⟨slc, which, runs⟩ := next
  refine completes_of runs ⟨⟨slc, which, rfl⟩, rfl, ?_⟩
  show (tget d (onDie d _ _).flw.dies).map _ = _
  rw [tget_onDie, show tget d (onMed _ (tick t s)).flw.dies = some x from die]
  rfl

/-- An erase that ended well is journaled, and the die goes on (R353, R690). -/
theorem nandEraseComplete_ends {t d : Nat} {raws : List (Nat × Nat)} {x : Die} {o : DieOp} {s : State} (die : tget d s.flw.dies = some x)
    (op : x.op = some o) (erase : o.erase = true) (going : o.susp = false) (unlisted : (d, o.block) ∉ s.flw.blankFail) :
    Completes (.nandEraseComplete t d true raws) s fun u => (∃ e ∈ u.pith.jq, e.etype = 1 ∧ e.src = segOfDie d)
      ∧ ∃ y, tget d u.flw.dies = some y ∧ y.errs = 0 ∧ ∀ p, y.op = some p → p.erase = false ∧ p.at_ = max s.now t := by
  generalize freed : releaseToken d (chargeDie (segOfDie d) true ((tick t s).now - o.at_) (onDie d (fun y => { y with op := none, errs := 0 }) (tick t s))) = z
  have zFlw : z.flw = (onDie d (fun y => { y with op := none, errs := 0 }) (tick t s)).flw := by
    rw [← freed]
    have released : ∀ w, (releaseToken d w).flw = w.flw := fun w => of_one (a := .flw) (by simp)
    rw [released]
    exact of_one (a := .flw) (by simp)
  have zNow : z.now = max s.now t := by
    rw [← freed]
    exact of_one (a := .now) (t := releaseToken ..) (s := tick t s) (by simp)
  generalize tail : intentTail z d o.block = em
  obtain ⟨e, m⟩ := em
  generalize wore : onDie d (fun y => { y with erases := tput o.block e y.erases }) z = v
  generalize journaled : queueJ 1 (segOfDie d) none (eraseBody 2 d o.block e m) (eraseDone d o.block v) = j
  generalize counted : checkPct (bumpHealth 8 1 j) = w
  have wFlw : w.flw = v.flw := by
    have told : ∀ a, (checkPct a).flw = a.flw := fun a => of_one (a := .flw) (by simp)
    have health : ∀ a, (bumpHealth 8 1 a).flw = a.flw := fun a => of_one (a := .flw) (by simp)
    rw [← counted, told, health, ← journaled]
    exact eraseDone_flw ..
  have wPith : w.pith = j.pith := by
    rw [← counted]
    exact of_one (a := .pith) (by simp)
  have wNow : w.now = max s.now t := by
    have told : ∀ a, (checkPct a).now = a.now := fun a => of_one (a := .now) (by simp)
    have health : ∀ a, (bumpHealth 8 1 a).now = a.now := fun a => of_one (a := .now) (by simp)
    have erased : ∀ a, (eraseDone d o.block a).now = a.now := fun a => of_one (a := .now) (by simp)
    rw [← counted, told, health, ← journaled, show (queueJ _ _ _ _ _ : State).now = (eraseDone d o.block v).now from rfl, erased, ← wore]
    exact zNow
  have runs : exec (.nandEraseComplete t d true raws) s = .next (nextProgram d w) := by
    show execNandEraseComplete t d true raws s = _
    unfold execNandEraseComplete
    dsimp only
    rw [show tget d (tick t s).flw.dies = some x from die]
    dsimp only
    rw [op]
    dsimp only
    rw [if_neg (by simp [erase, going]), freed, if_neg (by simp), tail]
    dsimp only
    rw [wore, journaled, counted, eraseChecked_none]
    rw [wFlw, ← wore]
    show (d, o.block) ∉ z.flw.blankFail
    rw [zFlw]
    exact unlisted
  have worn : tget d w.flw.dies = some { { x with op := none, errs := 0 } with erases := tput o.block e x.erases } := by
    rw [wFlw, ← wore, tget_onDie, zFlw, tget_onDie, show tget d (tick t s).flw.dies = some x from die]
    rfl
  obtain ⟨y, found, still, ops⟩ := nextProgram_die worn
  refine completes_of runs ⟨?_, y, found, (Die.still_window still).2.2.2, fun p has => ?_⟩
  · have pith : (nextProgram d w).pith = j.pith := (of_one (a := .pith) (by simp) : (nextProgram d w).pith = w.pith).trans wPith
    obtain ⟨e, mem, type_, -, src, -⟩ := mem_queueJ 1 (segOfDie d) none (eraseBody 2 d o.block e m) (eraseDone d o.block v)
    exact ⟨e, by rw [pith, ← journaled]; exact mem, type_, src⟩
  · obtain idle | ⟨q, started, write, at_⟩ := ops
    · rw [idle] at has
      cases has
    · obtain rfl : q = p := Option.some.inj (started.symm.trans has)
      exact ⟨write, at_.trans wNow⟩

/-- An operation of a die that timed out resets the die, whose channel trains again (R376, R378). -/
theorem nandOpTimeout_resets {t d : Nat} {x : Die} {s : State} (die : tget d s.flw.dies = some x) (usable : x.usable = true) (there : x.lost = false)
    (few : x.errs < 2) : Completes (.nandOpTimeout t d) s fun u => Out.nand (chanOf d) x.pos .reset ∈ u.out
      ∧ (∃ y, tget d u.flw.dies = some y ∧ y.decided = none ∧ y.errs = x.errs + 1 ∧ ∀ p, y.op = some p → p.erase = false ∧ p.at_ = max s.now t)
      ∧ (tgetD {} (chanOf d) u.flw.chans).retrain = true := by
  generalize told : onChan (chanOf d) (fun y => { y with retrain := true }) (bumpTally (Reg.flwCherr (chanOf d)) 36 { seg := segOfDie d, unit := chanOf d } (tick t s)) = v
  have tally : ∀ a k y w, (bumpTally a k y w).flw = w.flw := fun a k y w => of_one (a := .flw) (by simp)
  have released : ∀ w, (releaseToken d w).flw = w.flw := fun w => of_one (a := .flw) (by simp)
  have vDie : tget d v.flw.dies = some x := by
    rw [← told]
    show tget d (bumpTally _ _ _ _).flw.dies = _
    rw [tally]
    exact die
  have vChan : (tgetD {} (chanOf d) v.flw.chans).retrain = true := by
    rw [← told]
    rw [tgetD_onChan]
  have vNow : v.now = max s.now t := by
    rw [← told]
    exact (of_one (a := .now) (by simp) : (bumpTally (Reg.flwCherr (chanOf d)) 36 { seg := segOfDie d, unit := chanOf d } (tick t s)).now = (tick t s).now)
  generalize freed : (if (match x.op with | some o => o.erase || (match o.prog with | some p => p.prec != 0 | none => false) | none => false) then releaseToken d v else v) = w
  have wFlw : w.flw = v.flw := by
    have either : ∀ b : Bool, (if b then releaseToken d v else v).flw = v.flw := by
      intro b
      cases b
      · rfl
      · exact released v
    rw [← freed]
    exact either _
  have wNow : w.now = max s.now t := by
    have either : ∀ b : Bool, (if b then releaseToken d v else v).now = v.now := by
      intro b
      cases b
      · rfl
      · exact of_one (a := .now) (by simp)
    rw [← freed, ← vNow]
    exact either _
  generalize reset : emit (.nand (chanOf d) x.pos .reset) (onDie d (fun y =>
        { y with op := none, decided := none, opened := none, going := [], progs := (x.op.bind (·.prog)).toList ++ y.progs, errs := y.errs + 1 }) w) = r
  have runs : exec (.nandOpTimeout t d) s = .next (nextProgram d r) := by
    show execNandOpTimeout t d s = _
    unfold execNandOpTimeout
    dsimp only
    rw [show tget d (tick t s).flw.dies = some x from die]
    dsimp only
    rw [if_neg (by simp [usable, there]), told, if_neg (show ¬x.errs + 1 ≥ 3 by omega), ← reset, ← freed] <;> rfl
  have rDie : tget d r.flw.dies = some { x with op := none, decided := none, opened := none, going := [], progs := (x.op.bind (·.prog)).toList ++ x.progs, errs := x.errs + 1 } := by
    rw [← reset]
    show tget d (onDie d _ w).flw.dies = _
    rw [tget_onDie, wFlw, vDie]
    rfl
  obtain ⟨y, found, still, ops⟩ := nextProgram_die rDie
  obtain ⟨-, decided, -, errs⟩ := Die.still_window still
  obtain ⟨retrain, later⟩ := nextProgram_leaves d (chanOf d) r
  refine completes_of runs ⟨later _ (by rw [← reset]; exact List.mem_cons_self ..), ⟨y, found, decided, errs, fun p has => ?_⟩, ?_⟩
  · obtain idle | ⟨q, started, write, at_⟩ := ops
    · rw [idle] at has
      cases has
    · obtain rfl : q = p := Option.some.inj (started.symm.trans has)
      exact ⟨write, at_.trans (by rw [← reset]; exact wNow)⟩
  · rw [retrain, ← reset]
    show (tgetD {} (chanOf d) w.flw.chans).retrain = true
    rw [wFlw, vChan]

/-- A window that is over closes, and the die goes on (R359). -/
theorem windowClose_shuts {t d o n : Nat} {x : Die} {s : State} (die : tget d s.flw.dies = some x) (opened : x.opened = some (o, n))
    (over_ : o + n ≤ max s.now t) : Completes (.windowClose t d) s fun u => (tget d u.flw.dies).map (fun y => (y.opened, y.going)) = some (none, []) := by
  have runs : exec (.windowClose t d) s = .next (nextProgram d (resumeOp d (onDie d (fun y => { y with opened := none, going := [] }) (tick t s)))) := by
    show execWindowClose t d s = _
    unfold execWindowClose
    dsimp only
    rw [show tget d (tick t s).flw.dies = some x from die]
    dsimp only
    rw [opened]
    exact if_pos over_
  have shut := resumeOp_still d d (onDie d (fun y => { y with opened := none, going := [] }) (tick t s))
  rw [tget_onDie, show tget d (tick t s).flw.dies = some x from die] at shut
  obtain ⟨z, found, same⟩ := Option.map_eq_some_iff.mp shut
  obtain ⟨y, there, still, -⟩ := nextProgram_die found
  obtain ⟨first, -, second, -⟩ := Die.still_window (still.trans same)
  refine completes_of runs ?_
  rw [there, Option.map_some, first, second]

/-- Settles O38. -/
theorem flashWheel : Obligations.FlashWheel := by
  intro t d x s die
  refine ⟨fun c w => ?_, fun reads => ?_, fun dp => ?_, fun o n opened over_ => windowClose_shuts die opened over_, fun o op erase going old => ?_,
    fun b usable there idle shut intent may urgent runs free => eraseIssue_starts die usable there idle shut intent may urgent runs free,
    fun o raws op erase going unlisted => nandEraseComplete_ends die op erase going unlisted, fun o w op write going done => ⟨fun prog => ?_, fun p v prog charged => ?_⟩,
    fun b pg best l id there unarmed clean => ?_, fun b pg best l w may read => ?_, fun b pg best l k e w depot band deep read => ?_,
    fun usable there few => nandOpTimeout_resets die usable there few⟩
  · intro l trained retrain runs before taken z
    show execChannelRetrain t c s = _
    unfold execChannelRetrain
    dsimp only
    rw [if_neg (show ¬_ by
      rw [show (tgetD {} c (tick t s).flw.chans).state = 2 from trained, show (tgetD {} c (tick t s).flw.chans).retrain = true from retrain,
        show maintOn (tick t s) (c / 8) 1 = true from runs, show (tfilter _ (tick t s).flw.dies).all _ = true from before]
      simp), show takeAll 1 (tkeys (tfilter _ (tick t s).flw.dies)) (tick t s) = (true, w) from taken]
    rfl
  · intro y p usable there awake_ due
    obtain ⟨u, runs, place⟩ := windowDecision_place (reads := reads) die usable there awake_ due
    exact ⟨u, runs, place⟩
  · intro q decided
    obtain ⟨r, served, opens⟩ := openWindow_die d dp x (tick t s) die
    have runs : exec (.windowOpen t d) s = .next (openWindow d dp (tick t s)) := by
      show execWindowOpen t d s = _
      unfold execWindowOpen
      dsimp only
      rw [show tget d (tick t s).flw.dies = some x from die]
      dsimp only
      rw [decided]
    refine completes_of runs ?_
    rw [opens, served]
    rfl
  · have runs : exec (.protectedStretchEnd t d) s = .next ((tkeys (dieGroup (tick t s) d x)).foldl (fun s k => resumeOp k s) (tick t s)) := by
      show execProtectedStretchEnd t d s = _
      unfold execProtectedStretchEnd
      dsimp only
      rw [show tget d (tick t s).flw.dies = some x from die]
      dsimp only
      rw [op]
      exact if_pos ⟨erase, by simp [going], old⟩
    exact ⟨runs, completes_of runs (foldl_resume _ d x o op going _ die)⟩
  · show execNandProgramComplete t d true none s = _
    unfold execNandProgramComplete
    dsimp only
    rw [show tget d (tick t s).flw.dies = some x from die]
    dsimp only
    rw [op]
    dsimp only
    rw [if_neg (by simp [write, going]), prog, done]
  · intro z m other
    show execNandProgramComplete t d true none s = _
    unfold execNandProgramComplete
    dsimp only
    rw [show tget d (tick t s).flw.dies = some x from die]
    dsimp only
    rw [op]
    dsimp only
    rw [if_neg (by simp [write, going]), prog]
    dsimp only
    rw [← done, show w.now = max s.now t by rw [done]; rfl, charged, if_neg (by simp), if_pos other]
  · refine Eq.trans ?_ (congrArg _ (pageRead_at_once (s := tick t s) (id := id) (pg := pg) (best := best) (b := b) there unarmed clean))
    show execNandReadComplete t d b pg best l (.command id) s = _
    unfold execNandReadComplete
    dsimp only
    rw [show tget d (tick t s).flw.dies = some x from die]
  · show execNandReadComplete t d b pg best l .patrol s = _
    unfold execNandReadComplete
    dsimp only
    rw [show tget d (tick t s).flw.dies = some x from die]
    dsimp only
    rw [if_neg (by rw [show mayPatrol (tick t s) d b pg x = true from may]; simp), read]
    rfl
  · show execNandReadComplete t d b pg best l .margin s = _
    unfold execNandReadComplete
    dsimp only
    rw [show tget d (tick t s).flw.dies = some x from die]
    dsimp only
    rw [show bandOf (tick t s) d b = some k from band]
    dsimp only
    rw [if_neg (show ¬_ by
      rw [show (tick t s).cmd.depotEnd = some e from depot, show (deepPages (tick t s) k d x).contains pg = true from deep]
      simp), read]
    rfl

end Sys2Proof.Machine
end

section
/-!
SUPPORT. The Integrity Unit and the detectors of the Host Link (10): injection and bypass registers, and the statement that rests on this.
-/
namespace Sys2Proof.Machine

theorem integ_writeAssigned (r : RegDef) (a : Nat) (v : Word) (be : Nat) (s : State) : (writeAssigned r a v be s).integ = s.integ :=
  of_one (a := .integ) (by simp)

/-- A write of INT_INJ with its ARM byte arms or disarms (R424). -/
theorem intInjWrite_open {w : Word} {be : Nat} {r : RegDef} {s : State} (reg : regAt Reg.intInj = some r) (open_ : blockLocked s Reg.intInj = false)
    (whole : nbit be 3 = true) : intInjWrite w be s =
      if nbit w.toNat 31 then arm (writeAssigned r Reg.intInj w be s) else writeAssigned r Reg.intInj w be (disarm s) := by
  unfold intInjWrite
  dsimp only
  rw [reg]
  dsimp only
  rw [if_neg (by simp [open_]), if_neg (by simp [whole])]

theorem disarm_armed {s : State} (armed : s.integ.armed = true) :
    (disarm s).integ = { s.integ with armed := false, injResult := 0, injLeft := 0 } := by
  unfold disarm
  rw [if_pos armed, clearArm_integ]
  rfl

/-- A window that INT_BYPASS permits opens at the detector it names (R428). -/
theorem intBypassWrite_opens {w : Word} {be : Nat} {r : RegDef} {s : State} (reg : regAt Reg.intBypass = some r) (open_ : blockLocked s Reg.intBypass = false)
    (whole : nbit be 3 = true) (set_ : nbit w.toNat 31 = true) (awake_ : s.brc.active = false)
    (permitted : bypassShut s (bits (merge (word s Reg.intBypass) w be) 21 16) = false) :
    ∃ e, (intBypassWrite w be s).integ.bypass = some (bits (merge (word s Reg.intBypass) w be) 21 16, e) := by
  have brace : (writeAssigned r Reg.intBypass w be s).brc = s.brc := of_one (a := .brc) (by simp)
  unfold intBypassWrite
  dsimp only
  rw [reg]
  dsimp only
  rw [if_neg (by simp [open_]), if_pos (by simp [whole, set_]), if_neg (by simp [permitted]), if_neg (by simp [brace, awake_])]
  exact ⟨_, rfl⟩

theorem bypassed_meet (k seg unit : Nat) (real : Bool) (s : State) (d : Nat) : bypassed (meet k seg unit real s).2.2 d = bypassed s d := by
  unfold meet
  split
  · have now : (fireOne s).now = s.now := of_one (a := .now) (by simp)
    unfold bypassed
    rw [show (fireOne s).integ.bypass = s.integ.bypass from (congrArg Integ.bypass (fireOne_steady s) :), now]
  · rfl

theorem voidAll_logged {k cause : Nat} {s : State} (logged : Logged k s) : Logged k (voidAll cause s) := logged

/-- A link that goes to recovery is reported, and the pins show what the link is (R405, R410). -/
theorem linkStateChange_shows {t speed width : Nat} {link : Link} {s : State} (unarmed : s.integ.armed = false) :
    Completes (.linkStateChange t link speed width) s fun u => (link = .recovery → Logged 3 u) ∧ u.pins.link = link ∧ u.pins.speed = speed ∧ u.pins.width = width := by
  have met : (if linkUp link then meet 3 0xFF 0xFFFF false (tick t s) else (false, 0, tick t s)) = (false, 0, tick t s) := by
    rw [meet_unarmed (s := tick t s) unarmed, ite_self]
  generalize shown_ : ({ tick t s with pins := { s.pins with link := link, speed := speed, width := width } } : State) = w
  generalize fits : (if !linkFit (tick t s) && linkFit w then { w with pins := { w.pins with fitFrom := w.now } } else w) = v
  have vPins : v.pins.link = link ∧ v.pins.speed = speed ∧ v.pins.width = width := by
    rw [← fits, ← shown_]
    split <;> exact ⟨rfl, rfl, rfl⟩
  generalize woken : (if linkUp link && decide (v.pwr.rindSleep > 0) then startWake rindx v else v) = z
  have zPins : z.pins = v.pins := by
    rw [← woken]
    split
    · exact startWake_pins ..
    · rfl
  generalize bad : (link == .recovery || (linkUp link && (s.pins.link == .training || s.pins.link == .down) && (speed != 6 || width != 16))) = worse
  have raised : (if worse then raiseF 3 { loc := speed * 256 + width } 0 z else z).pins = z.pins := by
    split
    · exact of_one (a := .pins) (by simp)
    · rfl
  have runs : exec (.linkStateChange t link speed width) s =
      .next (if worse && !bypassed (if worse then raiseF 3 { loc := speed * 256 + width } 0 z else z) 3 then
        voidAll 6 (if worse then raiseF 3 { loc := speed * 256 + width } 0 z else z) else (if worse then raiseF 3 { loc := speed * 256 + width } 0 z else z)) := by
    show execLinkStateChange t link speed width s = _
    unfold execLinkStateChange
    dsimp only
    rw [met]
    dsimp only
    rw [if_neg (show ¬false = true by simp), ← bad, ← woken, ← fits, ← shown_]
    rfl
  refine completes_of runs ?_
  have kept : ∀ y : State, (if worse && !bypassed y 3 then voidAll 6 y else y).pins = y.pins ∧ (if worse && !bypassed y 3 then voidAll 6 y else y).integ = y.integ := by
    intro y
    split <;> exact ⟨rfl, rfl⟩
  rw [(kept _).1, raised, zPins]
  refine ⟨fun recovery => ?_, vPins⟩
  have is_worse : worse = true := by rw [← bad, recovery]; rfl
  refine logged_mono (kept _).2 ?_
  rw [if_pos is_worse]
  exact raiseF_logged ..

/-- Settles O39. -/
theorem integrityUnit : Obligations.IntegrityUnit := by
  intro t s
  refine ⟨fun k h held over_ run none_ => ?_, fun k h held over_ run some_ => ⟨fun told => ?_, fun silent => ?_⟩, fun w be r reg open_ whole set_ => ?_,
    fun w be r reg open_ whole clear armed => ?_, fun w be r reg open_ whole set_ awake_ permitted => ?_, fun k e window over_ => ?_, fun due => ?_, fun due => ?_,
    fun link speed width unarmed => linkStateChange_shows unarmed, ?_, fun ppm far unarmed => ?_⟩
  · show execDetectorHoldoffEnd t k s = _
    unfold execDetectorHoldoffEnd
    dsimp only
    rw [show tget k (tick t s).integ.holds = some h from held]
    dsimp only
    rw [if_neg (show ¬(tick t s).now < h.until_ from Nat.not_lt.mpr over_), if_neg (by simp [run]), if_neg (by simp [none_]), if_neg (by simp [none_])]
  · have runs : exec (.detectorHoldoffEnd t k) s = .next (post 0 0x09 0xFFFF (detPayload h.latest h.pend)
        (onInt (fun i => { i with holds := tput k { h with until_ := max s.now t + holdoffNs s, pend := 0 } i.holds }) (tick t s))) := by
      show execDetectorHoldoffEnd t k s = _
      unfold execDetectorHoldoffEnd
      dsimp only
      rw [show tget k (tick t s).integ.holds = some h from held]
      dsimp only
      rw [if_neg (show ¬(tick t s).now < h.until_ from Nat.not_lt.mpr over_), if_neg (by simp [run]), if_pos ⟨some_, told⟩]
      rfl
    exact completes_of runs (post_noticed ..)
  · have runs : exec (.detectorHoldoffEnd t k) s = .next (onInt (fun i => { i with holds := tput k { h with run := false } i.holds }) (tick t s)) := by
      show execDetectorHoldoffEnd t k s = _
      unfold execDetectorHoldoffEnd
      dsimp only
      rw [show tget k (tick t s).integ.holds = some h from held]
      dsimp only
      rw [if_neg (show ¬(tick t s).now < h.until_ from Nat.not_lt.mpr over_), if_neg (by simp [run]), if_neg (by rw [show notifyOn (tick t s) k = false from silent]; simp), if_pos some_]
    exact completes_of runs tget_tput_self
  · show Host.Outcome.next (intInjWrite w be (tick t s)) = _
    rw [intInjWrite_open (s := tick t s) reg open_ whole, if_pos set_]
  · refine completes_of (u := writeAssigned r Reg.intInj w be (disarm (tick t s))) ?_ ?_
    · show Host.Outcome.next (intInjWrite w be (tick t s)) = _
      rw [intInjWrite_open (s := tick t s) reg open_ whole, if_neg (by simp [clear])]
    · rw [integ_writeAssigned, disarm_armed (s := tick t s) armed]
      exact ⟨rfl, rfl, rfl⟩
  · exact completes_of rfl (intBypassWrite_opens (s := tick t s) reg open_ whole set_ awake_ permitted)
  · have runs : exec (.bypassWindowEnd t) s = .next (closeBypass (tick t s)) := by
      show execBypassWindowEnd t s = _
      unfold execBypassWindowEnd
      dsimp only
      rw [show (tick t s).integ.bypass = some (k, e) from window]
      exact if_pos over_
    exact completes_of runs rfl
  · show execSramScrub t [] s = _
    unfold execSramScrub
    exact if_neg (Nat.not_lt.mpr due)
  · have runs : exec (.healthSave t) s = .next (queueHealth (onInt (fun i => { i with lastHealthSave := max s.now t }) (accrueHealth (tick t s)))) := by
      show execHealthSave t s = _
      unfold execHealthSave
      dsimp only
      exact if_neg (show ¬(tick t s).now - (tick t s).integ.lastHealthSave < 3600000000000 from Nat.not_lt.mpr due)
    obtain ⟨e, mem, type_, -⟩ := mem_queueJ 7 0xFF (some 0) (healthHead (onInt (fun i => { i with lastHealthSave := max s.now t }) (accrueHealth (tick t s))))
      (onInt (fun i => { i with lastHealthSave := max s.now t }) (accrueHealth (tick t s)))
    exact completes_of runs ⟨rfl, e, mem, type_⟩
  · have same := bypassed_meet 0 0xFF 0xFFFF true (tick t s) 0
    generalize met : meet 0 0xFF 0xFFFF true (tick t s) = m at same
    obtain ⟨real, ef, w⟩ := m
    have runs : exec (.flitCrcError t) s = .next (raiseF 0 {} (ef + efMasked) (if bypassed w 0 then w else emit (.aer true 0) w)) := by
      show execFlitCrcError t s = _
      unfold execFlitCrcError
      dsimp only
      rw [met]
    refine completes_of runs ⟨raiseF_logged .., fun window => later_raiseF _ _ _ _ _ ?_⟩
    rw [if_neg (by rw [show bypassed w 0 = bypassed (tick t s) 0 from same, window]; simp)]
    exact List.mem_cons_self ..
  · have runs : exec (.monitorOscillatorCheck t ppm) s = .next (raiseF 13 { aux := ppm } 0 (tick t s)) := by
      show execMonitorOscillatorCheck t ppm s = _
      unfold execMonitorOscillatorCheck
      dsimp only
      rw [meet_unarmed (s := tick t s) unarmed]
      exact congrArg _ (if_pos (by simpa using far))
    exact completes_of runs (raiseF_logged ..)

end Sys2Proof.Machine
end

section
/-!
SUPPORT. Faults of work in progress (10, Retry of cores and engines; 04, Arbitration): what a channel and a command ask of the host, and the
statement that rests on this.
-/
namespace Sys2Proof.Machine

theorem detectEf_unarmed {k : Nat} {x : Site} {real : Bool} {s : State} (unarmed : s.integ.armed = false) : detectEf k x real s = 0 := by
  unfold detectEf
  rw [meet_unarmed unarmed]

theorem injHits_unarmed {s : State} (unarmed : s.integ.armed = false) (k seg unit : Nat) : injHits s k seg unit = false := by
  simp [injHits, unarmed]

theorem bypassed_none {s : State} (none_ : s.integ.bypass = none) (k : Nat) : bypassed s k = false := by
  unfold bypassed
  rw [none_]

theorem chan_onChannel (c : Nat) (f : DmCh → DmCh) (s : State) : tgetD {} c (onChannel c f s).mov.chans = f (tgetD {} c s.mov.chans) := tgetD_tput_self

/-- A host read at a channel's head asks for what the read cap allows (R165, R666). -/
theorem askHost_asks {c : Nat} {x : DmDesc} {rest : List DmDesc} {s : State} (head : (tgetD {} c s.mov.chans).queue = x :: rest) (op : dmOp x.desc = 2) :
    (tgetD {} c (askHost c s).mov.chans).queue = { x with asked := x.asked + readAllow s (dmLen x.desc - x.asked) } :: rest := by
  unfold askHost
  rw [head]
  dsimp only
  rw [if_neg (by simp [op]), chan_onChannel]
  dsimp only
  rw [head]

theorem dmTake_takes {data : List Byte} {x : DmDesc} {rest : List DmDesc} {y : DmCh} (head : y.queue = x :: rest) (op : dmOp x.desc = 2) :
    (dmTake data y).queue = { x with got := x.got ++ data.take (x.asked - x.got.length) } :: rest := by
  unfold dmTake
  dsimp only
  rw [head]
  dsimp only
  rw [if_pos op]

/-- A command asks for what the read cap allows, or in Class S for all that it has to read (R165, R173). -/
theorem askMore_asks {id : Nat} {c : Flight} {s : State} (found : tget id s.rge.flights = some c) :
    ∃ n, (servedS c = true → n = c.toRead) ∧ tget id (askMore id s).rge.flights = some { c with reading := c.reading + n, toRead := c.toRead - n } := by
  refine ⟨if servedS c then c.toRead else readAllow s c.toRead, fun served => if_pos served, ?_⟩
  unfold askMore
  rw [found]
  show tget id (tmod id _ s.rge.flights) = _
  rw [tget_tmod, if_pos rfl, found]
  rfl

/-- Settles O40. -/
theorem faultHandling : Obligations.FaultHandling := by
  intro t s unarmed window
  have found_ : ∀ k x, detect k x true (tick t s) = (true, raiseF k x 0 (tick t s)) := fun k x => detect_unarmed (s := tick t s) unarmed window
  have plain : ∀ k x real, detectEf k x real (tick t s) = 0 := fun k x real => detectEf_unarmed (s := tick t s) unarmed
  refine ⟨fun n j write units job few => ?_, fun id c write units flight op few => ?_, fun k house powered running held missed => ?_, fun id c o flight row from_ => ?_,
    fun c x rest data n head op asks => ?_, fun id c data flight => ?_⟩
  · have runs : exec (.fabricTimeout t (.zest n) write units) s = .next (zestFault n j write 0 (raiseF 8 { seg := j.seg } 0 (tick t s))) := by
      show execFabricTimeout t (.zest n) write units s = _
      unfold execFabricTimeout
      dsimp only
      rw [show tget n (tick t s).zst.jobs = some j from job]
      dsimp only
      rw [found_, plain]
      rfl
    refine completes_of runs ?_
    unfold zestFault
    rw [if_pos few]
    exact ⟨raiseF_logged .., tget_tput_self⟩
  · have runs : exec (.fabricTimeout t (.command id) write units) s = .next (commandFault id c 0 (raiseF 8 { seg := c.seg, func := c.fn } 0 (tick t s))) := by
      show execFabricTimeout t (.command id) write units s = _
      unfold execFabricTimeout
      dsimp only
      rw [show tget id (tick t s).rge.flights = some c from flight]
      dsimp only
      rw [found_, plain]
      rfl
    refine completes_of runs ?_
    unfold commandFault
    rw [if_neg op, if_pos few]
    refine ⟨raiseF_logged .., ?_⟩
    show tget id (tmod id _ _) = _
    rw [tget_tmod, if_pos rfl, (quiet_raiseF ..).flights, show tget id (tick t s).rge.flights = some c from flight]
    rfl
  · show execHeartbeatMiss t k s = _
    unfold execHeartbeatMiss
    dsimp only
    rw [if_neg (show ¬_ by
      rw [show isHouse (tick t s) k = true from house, show corePowered (tick t s) k = true from powered]
      simp only [Bool.not_true, Bool.false_eq_true, false_or, not_or]
      exact ⟨running, held⟩),
      show decide ((tick t s).now - (coreOf (tick t s) k).beat ≥ 1000000) = true from decide_eq_true missed, found_, plain]
    rfl
  · have unbypassed : bypassed (raiseF 2 { seg := c.seg, func := c.fn } 0 (tick t s)) 2 = false := by
      rw [bypassed_raiseF]
      exact bypassed_none (s := tick t s) window 2
    show execHostReadTimeout t (.command id) s = _
    unfold execHostReadTimeout
    dsimp only
    rw [meet_unarmed (s := tick t s) unarmed]
    unfold hostReadBad
    dsimp only
    rw [show tget id (tick t s).rge.flights = some c from flight]
    dsimp only
    rw [row]
    dsimp only
    rw [if_pos from_, if_neg (by simp [unbypassed])]
  · have runs : exec (.hostReadCompletion t (.chan c) true data) s = .next (askHost c (onChannel c (dmTake data) (askHost c (tick t s)))) := by
      show execHostReadCompletion t (.chan c) true data s = _
      unfold execHostReadCompletion
      dsimp only
      rw [if_neg (by simp [injHits_unarmed (s := tick t s) unarmed]), meet_unarmed (s := tick t s) unarmed]
      rfl
    have asked : (tgetD {} c (askHost c (tick t s)).mov.chans).queue = { x with asked := n } :: rest := by
      rw [askHost_asks (s := tick t s) head op, asks]
      rfl
    have taken : (tgetD {} c (onChannel c (dmTake data) (askHost c (tick t s))).mov.chans).queue =
        { x with asked := n, got := x.got ++ data.take (n - x.got.length) } :: rest := by
      rw [chan_onChannel, dmTake_takes asked op]
    exact completes_of runs ⟨_, Nat.le_add_right .., askHost_asks taken op⟩
  · have runs : exec (.hostReadCompletion t (.command id) true data) s =
        .next (askMore id (onFlight id (fun c => { c with reading := c.reading - data.length }) (tick t s))) := by
      show execHostReadCompletion t (.command id) true data s = _
      unfold execHostReadCompletion
      dsimp only
      rw [if_neg (by simp [injHits_unarmed (s := tick t s) unarmed])]
      rfl
    have less : tget id (onFlight id (fun c => { c with reading := c.reading - data.length }) (tick t s)).rge.flights =
        some { c with reading := c.reading - data.length } := by
      show tget id (tmod id _ s.rge.flights) = _
      rw [tget_tmod, if_pos rfl, flight]
      rfl
    obtain ⟨n, all, asked⟩ := askMore_asks less
    exact completes_of runs ⟨n, all, asked⟩

end Sys2Proof.Machine
end

section
/-!
SUPPORT. BRACE (11): what its exit leaves of its own state, and the statement that rests on this.
-/
namespace Sys2Proof.Machine

theorem brc_foldl {α : Type} {f : State → α → State} (one : ∀ s a, (f s a).brc = s.brc) : ∀ (l : List α) (s : State), (l.foldl f s).brc = s.brc
  | [], _ => rfl
  | a :: l, s => (brc_foldl one l (f s a)).trans (one s a)

/-- A history entry that is completed leaves all else of BRACE (R460). -/
theorem brc_completeHist (exited outcome : Nat) (s : State) : ∃ h, (completeHist exited outcome s).brc = { s.brc with hist := h } := by
  unfold completeHist
  split
  · split
    · exact ⟨_, rfl⟩
    · exact ⟨_, rfl⟩
  · exact ⟨_, rfl⟩

/-- BRACE's end (R448): it is no longer active, no exit wait runs, and no image is retained. -/
theorem exitBrace_facts (s : State) : (exitBrace s).brc.active = false ∧ (exitBrace s).brc.exitWait = none ∧ (exitBrace s).brc.images = [] := by
  have programs : ∀ (w : State) n, (startPrograms n w).brc = w.brc := fun w n => of_one (a := .brc) (by simp)
  have erases : ∀ (w : State) i, (restoreReserve i w).brc = w.brc := fun w i => of_one (a := .brc) (by simp)
  unfold exitBrace
  dsimp only
  generalize ended : List.foldl (fun s n => startPrograms n s) _ _ = w
  obtain ⟨h, same⟩ := brc_completeHist (evTime w) 1 (onBrc (fun b => { b with images := [] }) w)
  rw [same]
  suffices w.brc.active = false ∧ w.brc.exitWait = none by exact ⟨this.1, this.2, rfl⟩
  rw [← ended, brc_foldl (fun w n => programs w n), brc_foldl (fun w i => erases w i), brc_alertLow, brc_notice, brc_track, brc_relevelAll, brc_withModes]
  exact ⟨rfl, rfl⟩

/-- Settles O41. -/
theorem braceRun : Obligations.BraceRun := by
  intro t s
  refine ⟨fun vsys vhu warnN huOk idle live open_ cause => ?_, fun pbrace t34 t37 v3 v7 low active flushing pending high extest => ?_,
    fun vsys vhu warnN huOk active waits ok => ?_, fun vsys vhu warnN huOk a active waits bad => ?_, fun a waits active done long => ?_⟩
  · obtain ⟨b, same, active, flushing, cause_, seq, ref, wait⟩ := enterBrace_facts (warnCause (sample vsys vhu warnN huOk (tick t s)))
      (sample vsys vhu warnN huOk (tick t s)) idle live open_
    have runs : exec (.powerWarning t vsys vhu warnN huOk) s =
        .next (enterBrace (warnCause (sample vsys vhu warnN huOk (tick t s))) (sample vsys vhu warnN huOk (tick t s))) :=
      congrArg Host.Outcome.next (if_neg (show ¬warnCause (sample vsys vhu warnN huOk (tick t s)) = 0 from cause))
    refine completes_of runs ?_
    rw [same]
    exact ⟨active, flushing, cause_, seq, ref, wait⟩
  · have boot : (finishFlush pbrace t34 t37 v3 v7 low (tick t s)).boot = s.boot := (of_one (a := .boot) (by simp) : _ = (tick t s).boot)
    have dbg : (finishFlush pbrace t34 t37 v3 v7 low (tick t s)).dbg = s.dbg := (of_one (a := .dbg) (by simp) : _ = (tick t s).dbg)
    have runs : exec (.braceFlushComplete t pbrace t34 t37 v3 v7 low) s = .next (finishFlush pbrace t34 t37 v3 v7 low (tick t s)) := by
      show execBraceFlushComplete t pbrace t34 t37 v3 v7 low s = _
      unfold execBraceFlushComplete
      dsimp only
      rw [if_pos (show (tick t s).brc.active = true ∧ (tick t s).brc.flushing = true from ⟨active, flushing⟩), boot, dbg, if_neg (by simp [pending, high, extest])]
    refine completes_of runs ?_
    unfold finishFlush
    dsimp only
    rw [brc_notice]
    exact ⟨rfl, rfl⟩
  · refine completes_of (u := onBrc (fun b => { b with exitWait := some (max s.now t) }) (sample vsys vhu warnN huOk (tick t s))) ?_ ⟨rfl, active⟩
    exact congrArg Host.Outcome.next (if_pos (show _ ∧ _ ∧ exitOk (sample vsys vhu warnN huOk (tick t s)) = true from ⟨active, waits, ok⟩))
  · have runs : exec (.exitWaitRestart t vsys vhu warnN huOk) s = .next (brcNotice 4 s.brc.flushSeq 0 (bump Reg.brcRestartLo 1
        (onBrc (fun b => { b with exitWait := none, restarts := satAdd 65535 b.restarts 1 }) (sample vsys vhu warnN huOk (tick t s))))) := by
      show execExitWaitRestart t vsys vhu warnN huOk s = _
      unfold execExitWaitRestart
      dsimp only
      exact if_pos (show _ ∧ _ ∧ (!exitOk (sample vsys vhu warnN huOk (tick t s))) = true from
        ⟨active, by rw [show (sample vsys vhu warnN huOk (tick t s)).brc.exitWait = some a from waits]; rfl,
          by rw [show exitOk (sample vsys vhu warnN huOk (tick t s)) = false from bad]; rfl⟩)
    have counted : ∀ w, (bump Reg.brcRestartLo 1 w).brc = w.brc := fun w => of_one (a := .brc) (by simp)
    refine completes_of runs ?_
    rw [brc_notice, counted]
    exact ⟨rfl, rfl⟩
  · have runs : exec (.braceExit t) s = .next (exitBrace (tick t s)) := by
      show execBraceExit t s = _
      unfold execBraceExit
      dsimp only
      rw [show (tick t s).brc.exitWait = some a from waits]
      dsimp only
      exact if_pos ⟨active, by rw [show (tick t s).brc.flushing = false from done]; rfl, long⟩
    exact completes_of runs (exitBrace_facts _)

end Sys2Proof.Machine
end

section
/-!
SUPPORT. Jobs of the Crypto Units (12, Jobs): a job for random bytes, its end, and the statement that rests on this.
-/
namespace Sys2Proof.Machine

/-- A job that a core's operation takes is one of its own, or of none (R474). -/
theorem cjTake_op {k : Nat} {f : Nat → Bool} {d : List Byte} {s : State} (taken : (cjTake k f s).1 = some d) : f (cjOp d) = true := by
  unfold cjTake at taken
  split at taken
  · split at taken
    · next both =>
      obtain rfl := Option.some.inj taken
      exact (Bool.and_eq_true_iff.mp both).1
    · cases taken
  · cases taken

theorem cjBytes_length (status : Nat) (cmp : Option Bool) (h inDone outDone : Nat) : (cjBytes status cmp h inDone outDone).length = 16 := by
  simp only [cjBytes, pack, List.length_append, le_length, List.length_nil]

/-- A job for random bytes stores them, and its result, and leaves the queue (R483, R486). -/
theorem cjFinish_random {n : Nat} {j : CJob} {flags : Bool} {s : State} (op : cjOp j.desc = 7) (free : j.slot = none)
    (mapped : mapOk s (j.core / 4) (cjRes j.desc) 16 true = true) (house : nbit (tgetD 3 (j.core / 4) s.dsp.role) (j.core % 4) = true)
    (wf : Memory.wf s.dxr.mem = true) : (cjFinish n j flags s).cry.jobs = tdel n s.cry.jobs ∧
      readMem (cjFinish n j flags s) (j.core / 4) (cjRes j.desc) 16 = cjBytes 0 none 0 0 (8 * cjWords j.desc) := by
  generalize drawn : fit (8 * cjWords j.desc) (Config.random s.draws (8 * cjWords j.desc)) = bs
  have size : bs.length = 8 * cjWords j.desc := by rw [← drawn, length_fit]
  generalize counted : bump (Reg.cryCipherLo j.seg) 0 (bump (Reg.cryDigestLo j.seg) 0 (dropJob n (writeMem j.seg (cjOut j.desc) bs (draw s)))) = w
  have finish : cjFinish n j flags s = jobResult j.core 4 0 (cjBytes 0 none 0 0 (8 * cjWords j.desc)) (cjRes j.desc) (nbit (fld j.desc 3 1) 0) w := by
    unfold cjFinish
    dsimp only
    rw [if_pos op, free]
    unfold random
    dsimp only
    rw [drawn]
    unfold cjWork
    dsimp only
    rw [op]
    rw [if_neg (show ¬(opIn 7 = true) by decide)]
    unfold cjStore cjHandle cjEnd
    dsimp only
    rw [free, ← counted, ← size]
    rfl
  have wCry : w.cry = { s.cry with jobs := tdel n s.cry.jobs } := by
    have bumps : ∀ a i w, (bump a i w).cry = w.cry := fun a i w => of_one (a := .cry) (by simp)
    rw [← counted, bumps, bumps]
    rfl
  have wDxr : w.dxr = (writeMem j.seg (cjOut j.desc) bs (draw s)).dxr := by rw [← counted]; exact of_one (a := .dxr) (by simp)
  have wMov : w.mov = s.mov := by rw [← counted]; exact of_one (a := .mov) (by simp)
  have wDsp : w.dsp = s.dsp := by rw [← counted]; exact of_one (a := .dsp) (by simp)
  obtain ⟨result, cry⟩ := jobResult_facts j.core 4 0 (cjBytes 0 none 0 0 (8 * cjWords j.desc)) (cjRes j.desc) (nbit (fld j.desc 3 1) 0) w (cjBytes_length ..) (by decide)
    (by rw [wDxr]; exact writeMem_wf _ _ _ _ wf) (by rw [mapOk_of wMov, mapped]) (by rw [wDsp, house])
  rw [finish]
  exact ⟨by rw [cry, wCry], result⟩

theorem scrub_leaves (finds : List SramFind) (s : State) : (finds.foldl scrubFinding s).cry = s.cry ∧ (finds.foldl scrubFinding s).dxr = s.dxr ∧
    (finds.foldl scrubFinding s).dsp = s.dsp ∧ (finds.foldl scrubFinding s).mov = s.mov := by
  induction finds generalizing s with
  | nil => exact ⟨rfl, rfl, rfl, rfl⟩
  | cons x l ih =>
    obtain ⟨cry, dxr, dsp, mov⟩ := ih (scrubFinding s x)
    exact ⟨cry.trans (of_one (a := .cry) (by simp)), dxr.trans (of_one (a := .dxr) (by simp)), dsp.trans (of_one (a := .dsp) (by simp)),
      mov.trans (of_one (a := .mov) (by simp))⟩

/-- A job for random bytes that may run ends with its result written (R483, R496). -/
theorem cryptoJobComplete_random {t n lane : Nat} {j : CJob} {differ flags : Bool} {finds : List SramFind} {s : State} (single : finds.any (·.dbl) = false)
    (job : tget n s.cry.jobs = some j) (op : cjOp j.desc = 7) (free : j.slot = none) (engine : onEngine s n j = true) (running : s.brc.active = false)
    (awake_ : sleepOf s j.seg = 0) (ready : rngReady s = true) (bus : cjBusOk s j = true) :
    exec (.cryptoJobComplete t n false differ flags lane finds) s = .next (cjFinish n j flags (finds.foldl scrubFinding (tick t s))) := by
  show execCryptoJobComplete t n false differ flags lane finds s = _
  unfold execCryptoJobComplete
  dsimp only
  rw [show tget n (tick t s).cry.jobs = some j from job]
  dsimp only
  rw [if_neg (show ¬_ by
    rw [show (tick t s).brc.active = false from running, show sleepOf (tick t s) j.seg = 0 from awake_, show onEngine (tick t s) n j = true from engine,
      show rngReady (tick t s) = true from ready]
    unfold waitsHold ctxBusy
    simp [op, free]), if_neg (by rw [op]; simp [opCtx]), if_neg (by rw [op]; simp [opCtx]),
    if_neg (by rw [show cjBusOk (tick t s) j = true from bus, single]; simp), if_pos (.inl op)]

/-- Settles O42. -/
theorem cryptoJobs : Obligations.CryptoJobs := by
  intro t k d s
  refine ⟨fun passes alone => ⟨fun taken => ?_, fun taken => ?_, fun taken => ?_, fun taken => ?_, fun taken => ?_, fun taken => ?_, fun taken => ?_⟩,
    fun seg n j waits room => ?_, fun n j differ flags lane finds single job op free engine running awake_ ready bus mapped house wf => ?_⟩
  · obtain ⟨u, runs, j, found, desc, core, page, slot, -, -⟩ := cjRow_queued (c := .cryptoInit t k) rfl passes alone taken
    exact ⟨u, runs, j, found, desc, core, page, fun op => slot (.inl op)⟩
  · obtain ⟨u, runs, j, found, desc, core, page, -, slot, -⟩ := cjRow_queued (c := .cryptoUpdate t k) rfl passes alone taken
    exact ⟨u, runs, j, found, desc, core, page, fun op => slot (by omega)⟩
  · obtain ⟨u, runs, j, found, desc, core, page, -, slot, -⟩ := cjRow_queued (c := .cryptoFinal t k) rfl passes alone taken
    exact ⟨u, runs, j, found, desc, core, page, fun op => slot (by omega)⟩
  · obtain ⟨u, runs, j, found, desc, core, page, -, slot, -⟩ := cjRow_queued (c := .cryptoFree t k) rfl passes alone taken
    exact ⟨u, runs, j, found, desc, core, page, fun op => slot (by omega)⟩
  · obtain ⟨u, runs, j, found, desc, core, page, slot, -, -⟩ := cjRow_queued (c := .cryptoOneshot t k) rfl passes alone taken
    exact ⟨u, runs, j, found, desc, core, page, fun op => slot (.inr (.inl op))⟩
  · obtain ⟨u, runs, j, found, desc, core, page, slot, -, -⟩ := cjRow_queued (c := .cryptoChainCheck t k) rfl passes alone taken
    exact ⟨u, runs, j, found, desc, core, page, fun op => slot (.inr (.inr op))⟩
  · obtain ⟨u, runs, j, found, desc, core, page, -, -, hold⟩ := cjRow_queued (c := .cryptoRandom t k) rfl passes alone taken
    refine ⟨u, runs, j, found, desc, core, page, hold fun five => ?_⟩
    have op := cjTake_op taken
    rw [five] at op
    exact absurd op (by decide)
  · refine completes_of rfl ?_
    unfold grantHold
    rw [show tfind _ (tick t s).cry.jobs = some (n, j) from waits]
    dsimp only
    rw [if_pos (show holdUsed (tick t s) seg + holdNeed j.desc ≤ 262144 from room)]
    exact tget_tput_self
  · obtain ⟨cry, dxr, dsp, mov⟩ := scrub_leaves finds (tick t s)
    obtain ⟨jobs, result⟩ := cjFinish_random (n := n) (flags := flags) (s := finds.foldl scrubFinding (tick t s)) op free
      (by rw [mapOk_of mov]; exact mapped) (by rw [dsp]; exact house) (by rw [dxr]; exact wf)
    exact completes_of (cryptoJobComplete_random single job op free engine running awake_ ready bus) ⟨by rw [jobs, cry]; rfl, result⟩

end Sys2Proof.Machine
end

section
/-!
SUPPORT. Zeroization, the random generator and EXPORT keys (12): the statement on them.
-/
namespace Sys2Proof.Machine

/-- The key that a function's staging registers hold (R499). -/
def stagedKey (s : State) (f : Nat) : List Byte := (List.range 8).flatMap fun i => le 4 (word s (Reg.fnkExpkey f i)).toNat

theorem cry_unlessTallied (a : Nat) (s : State) : (bumpTallyQuiet a s).cry = s.cry := of_one (a := .cry) (by simp)

theorem cry_raiseF (k : Nat) (x : Site) (ef : Nat) (s : State) : (raiseF k x ef s).cry = s.cry := of_one (a := .cry) (by simp)

/-- Zeroization leaves no EXPORT key, FN_SALT or held salt, and starts the re-derivation (R509). -/
theorem zeroize_facts (s : State) : (zeroize s).cry.expKeys = [] ∧ (zeroize s).cry.fnSalts = [] ∧ (zeroize s).cry.rederive = true ∧ (zeroize s).life.heldSalt = none :=
  ⟨rfl, rfl, rfl, rfl⟩

/-- Settles O43. -/
theorem keysAndNoise : Obligations.KeysAndNoise := by
  intro t s
  refine ⟨fun n => ?_, fun rederive long idle done => ?_, fun unarmed window => ?_, fun idle done => ?_, rfl, fun f plain ready => ?_, fun f plain ready => ?_, fun w be blank => ?_⟩
  · generalize met : meet 58 0xFF n true (tick t s) = m
    obtain ⟨real, ef, v⟩ := m
    generalize zeroed : zeroize (onCry (fun c => { c with lastAlarm := v.now }) (setAlarm v)) = z
    have runs : exec (.tamperAlarm t n) s = .next (bumpTallyQuiet Reg.cryAlarms (raiseF 58 { unit := n } ef z)) := by
      show execTamperAlarm t n s = _
      unfold execTamperAlarm
      dsimp only
      rw [met]
      dsimp only
      rw [zeroed]
    have life : (bumpTallyQuiet Reg.cryAlarms (raiseF 58 { unit := n } ef z)).life = z.life := of_one (a := .life) (by simp)
    have logged : Logged 58 (bumpTallyQuiet Reg.cryAlarms (raiseF 58 { unit := n } ef z)) := logged_mono rfl (raiseF_logged ..)
    obtain ⟨keys, salts, starts, held⟩ := zeroize_facts (onCry (fun c => { c with lastAlarm := v.now }) (setAlarm v))
    rw [zeroed] at keys salts starts held
    refine completes_of runs ⟨logged, ?_⟩
    rw [cry_unlessTallied, cry_raiseF, life]
    exact ⟨keys, salts, starts, held⟩
  · generalize over_ : draw (onCry (fun c => { c with rederive := false }) (tick t s)) = w
    have wCry : w.cry = { s.cry with rederive := false } := by rw [← over_]; rfl
    have wLife : w.life = s.life := by rw [← over_]; rfl
    have runs : exec (.keyRederive t) s = if w.cry.closed then .next (lcsContinue w)
        else .next (lcsContinue (((tkeys w.rge.funcs).filter fun f => (funcOf w f).st == .ready).foldl (fun s f => drawSalt f s) w)) := by
      show execKeyRederive t s = _
      unfold execKeyRederive
      dsimp only
      rw [if_neg (show ¬_ by
        rw [show (tick t s).cry.rederive = true from rederive]
        simp only [Bool.not_true, Bool.false_eq_true, false_or]
        exact Nat.not_lt.mpr long), over_]
    by_cases closed : w.cry.closed = true
    · rw [if_pos closed, continue_none (by rw [wLife, done]) (by rw [wLife, idle])] at runs
      exact completes_of runs ⟨by rw [wCry], by rw [wCry]⟩
    · obtain ⟨rederived, -, keys, life⟩ := foldl_drawSalt ((tkeys w.rge.funcs).filter fun f => (funcOf w f).st == .ready) w
      rw [if_neg closed, continue_none (by rw [life, wLife, done]) (by rw [life, wLife, idle])] at runs
      exact completes_of runs ⟨by rw [rederived, wCry], by rw [keys, wCry]⟩
  · have runs : exec (.rngHealthFail t) s = .next (onCry (fun c => { c with rngOk := false }) (bumpTallyQuiet Reg.cryRngfail (raiseF 60 {} 0 (tick t s)))) := by
      show execRngHealthFail t s = _
      unfold execRngHealthFail
      rw [detect_unarmed (s := tick t s) unarmed window]
      rfl
    exact completes_of runs ⟨logged_mono rfl (raiseF_logged ..), rfl⟩
  · generalize good : onCry (fun c => { c with rngOk := true }) (tick t s) = w
    have wLife : w.life = s.life := by rw [← good]; rfl
    obtain ⟨-, ok, -, life⟩ := foldl_drawSalt ((tkeys w.rge.funcs).filter fun f => (funcOf w f).st == .ready && (tget f w.cry.fnSalts).isNone) w
    have runs : exec (.rngRecovered t) s = .next (((tkeys w.rge.funcs).filter fun f => (funcOf w f).st == .ready && (tget f w.cry.fnSalts).isNone).foldl (fun s f => drawSalt f s) w) := by
      show execRngRecovered t s = _
      unfold execRngRecovered
      dsimp only
      rw [good, continue_none (by rw [life, wLife, done]) (by rw [life, wLife, idle])]
    exact completes_of runs (by rw [ok, ← good]; rfl)
  · have runs : exec (.exportKeySet t f) s = .next (clearStaging f (onCry (fun c => { c with expKeys := tput f (stagedKey s f) c.expKeys }) (tick t s))) := by
      show execExportKeySet t f s = _
      unfold execExportKeySet
      dsimp only
      exact if_neg (by rw [show fnReady (tick t s) f = true from ready, show (tick t s).boot.plain = false from plain]; simp)
    refine completes_of runs ?_
    rw [cry_clearStaging]
    exact tget_tput_self
  · have runs : exec (.exportKeyClear t f) s = .next (clearStaging f (onCry (fun c => { c with expKeys := tdel f c.expKeys }) (tick t s))) := by
      show execExportKeyClear t f s = _
      unfold execExportKeyClear
      dsimp only
      exact if_neg (by rw [show fnReady (tick t s) f = true from ready, show (tick t s).boot.plain = false from plain]; simp)
    refine completes_of runs ?_
    rw [cry_clearStaging]
    rfl
  · show Host.Outcome.next (cryCtrlWrite w be (tick t s)) = _
    have low : (nbit be 0 && (tick t s).life.lstate != .blank) = false := by
      rw [show (tick t s).life.lstate = .blank from blank]
      simp
    unfold cryCtrlWrite
    dsimp only
    rw [low]
    rfl

end Sys2Proof.Machine
end

section
/-!
SUPPORT. SPDM over DOE (12, Attestation key): what a signature and an answer leave, and the statement that rests on this.
-/
namespace Sys2Proof.Machine

theorem attestSign_out (msg : List Byte) (s : State) : (attestSign msg s).2.out = s.out := of_one (a := .out) (by simp)

/-- A signature is two numbers of 48 bytes (R502). -/
theorem spdmSign_facts (msg : List Byte) (s : State) : (spdmSign msg s).1.length = 96 ∧ (spdmSign msg s).2.out = s.out := by
  unfold spdmSign
  dsimp only
  exact ⟨by simp only [List.length_append, List.length_reverse, slice_length], attestSign_out msg s⟩

/-- What CHALLENGE_AUTH says before its signature (R503). -/
def challengeBody (req : List Byte) (s : State) : List Byte :=
  spdmHead req 3 0 1 ++ fit 48 (Config.sha384 (Config.spdmChain (certChain s))) ++ fit 32 (Config.random s.draws 32)
    ++ (if fld req 3 1 = 0 then [] else fit 48 (Config.sha384 ([1, 2, 3, 4, 5].flatMap (measBlock s)))) ++ pack [(2, 0)] ++ reqContext req 36

/-- Settles O44. -/
theorem attestation : Obligations.Attestation := by
  intro t req s ready
  refine ⟨?_, fun version => ?_, fun version => ?_, fun version keyed => ?_, fun chain part version keyed whole slot off cut => ?_,
    fun version keyed noise slot => ?_, fun version noise all_ plain => ?_⟩
  · have runs : exec (.spdmGetVersion t req) s = .next (spdmSend req (pack [(1, 0x10), (1, 4), (1, 0), (1, 0), (1, 0), (1, 2), (2, 0x1200), (2, 0x1300)])
        (onCry (fun c => { c with spdm := [] }) (tick t s))) := by
      show execSpdmGetVersion t req s = _
      unfold execSpdmGetVersion
      dsimp only
      exact if_neg (by rw [show (tick t s).boot.cfgReady = true from ready]; simp)
    exact completes_of runs ⟨rfl, rfl⟩
  · exact completes_of (spdmServe_ok ready version t) rfl
  · exact completes_of (spdmServe_ok ready version t) rfl
  · exact completes_of (spdmKeyed_ok ready version keyed t) rfl
  · have runs : exec (.spdmGetCertificate t req) s =
        .next (spdmSend req (spdmHead req 2 0 0 ++ pack [(2, part.length), (2, chain.length - fld req 4 2 - part.length)] ++ part) (tick t s)) := by
      show execSpdmGetCertificate t req s = _
      unfold execSpdmGetCertificate
      rw [spdmKeyed_ok ready version keyed t]
      dsimp only
      rw [show Config.spdmChain (certChain (tick t s)) = chain from whole.symm, ← cut, if_neg (by omega)]
    exact completes_of runs rfl
  · obtain ⟨size, out⟩ := spdmSign_facts (s.cry.spdm ++ req ++ challengeBody req s) (draw (tick t s))
    generalize signed : spdmSign (s.cry.spdm ++ req ++ challengeBody req s) (draw (tick t s)) = g at size out
    have runs : exec (.spdmChallenge t req) s = .next (spdmSend req (challengeBody req s ++ g.1) g.2) := by
      show execSpdmChallenge t req s = _
      unfold execSpdmChallenge
      dsimp only
      rw [if_neg (by rw [show rngReady (tick t s) = true from noise]; simp), spdmKeyed_ok ready version keyed t]
      rw [if_neg (by simp [slot]), ← signed]
      rfl
    refine completes_of runs ⟨fit 32 (Config.random s.draws 32), g.1, length_fit .., size, ?_⟩
    show .doe (challengeBody req s ++ g.1) :: g.2.out = _
    rw [show g.2.out = s.out from out]
    rfl
  · generalize nonce_ : fit 32 (Config.random s.draws 32) = nonce
    have runs : exec (.spdmGetMeasurements t req) s = .next (spdmSend req (spdmHead req 0x60 0 0 ++ pack [(1, 5), (3, ([1, 2, 3, 4, 5].flatMap (measBlock s)).length)]
        ++ [1, 2, 3, 4, 5].flatMap (measBlock s) ++ nonce ++ pack [(2, 0)] ++ reqContext req 4) (draw (tick t s))) := by
      show execSpdmGetMeasurements t req s = _
      unfold execSpdmGetMeasurements
      dsimp only
      rw [if_neg (by rw [show rngReady (tick t s) = true from noise]; simp), spdmServe_ok ready version]
      rw [all_, plain, ← nonce_]
      rfl
    exact completes_of runs ⟨nonce, by rw [← nonce_, length_fit], rfl⟩

end Sys2Proof.Machine
end

section
/-!
SUPPORT. Bundles of one syllable (13, 14): what one that issues does to its core, and the statement that rests on this.
-/
namespace Sys2Proof.Machine

theorem setP_keeps (p : Nat) (b : Bool) (c : DCore) : (c.setP p b).st = c.st ∧ (c.setP p b).retired = c.retired := by
  unfold DCore.setP
  split <;> exact ⟨rfl, rfl⟩

theorem applyMove_keeps (c : DCore) (r : MemRef) (n : Nat) (m : DCore) : (applyMove c r n m).st = m.st ∧ (applyMove c r n m).retired = m.retired := by
  unfold applyMove
  split <;> exact ⟨rfl, rfl⟩

theorem isHouse_inBundle (t k : Nat) (way : Issue) (s : State) (j : Nat) : isHouse (inBundle t k way s) j = isHouse s j := rfl

theorem mem_inBundle (t k : Nat) (way : Issue) (s : State) : (inBundle t k way s).dxr.mem = s.dxr.mem := rfl

theorem cOf_other {x : Syl} (slot : x.slot ≠ 5) : cOf [x] = none := by
  simp [cOf, Syl.isC, slot]

theorem cOf_control {x : Syl} (slot : x.slot = 5) : cOf [x] = some x := by
  simp [cOf, Syl.isC, slot]

theorem writeAll_one (k : Nat) (house : Bool) (c : DCore) (m : Tab Nat) (x : Syl) (silent : sylMstat c m x = 0) :
    writeAll k house c m [x] = sylWrite k house c m x c := by
  unfold writeAll
  simp [silent]

section
variable {t k w : Nat} {way : Issue} {x : Syl} {s : State} (issues : Issues k way s) (decoded : decodeAt s k way = .ok { words := w, rep := none, syls := [x] })
include issues decoded

/-- A syllable whose guard is false does nothing (R525, R532). -/
theorem syl_idle (idle : x.acts (issuedCore (max s.now t) way (coreOf s k)) = false) : Completes (.bundleIssue t k way) s fun u =>
    coreOf u k = passedCore w (issuedCore (max s.now t) way (coreOf s k)) (issuedCore (max s.now t) way (coreOf s k)) ∧ u.dxr.mem = s.dxr.mem := by
  have runs := bundle_commits (t := t) issues decoded rfl (acts := []) (by simp [idle]) rfl (by simp) rfl
  obtain ⟨core, mem, -⟩ := bundle_regs (t := t) (m := bundleReads (inBundle t k way s) k (issuedCore (max s.now t) way (coreOf s k)) []) (l := [])
    (n := issuedCore (max s.now t) way (coreOf s k)) issues rfl rfl (by simp [writeAll]) rfl rfl rfl
  exact completes_of runs ⟨core, mem⟩

variable (acts : x.acts (issuedCore (max s.now t) way (coreOf s k)) = true)
  (clean : sylExc (inBundle t k way s) k (issuedCore (max s.now t) way (coreOf s k)) way false x = [])
include acts clean

/-- A syllable that acts and raises nothing is committed (R531). -/
theorem syl_commits (free : getOf [x] = none) (plain : ∀ v, x.op ≠ .brk v ∧ x.op ≠ .trap v) : exec (.bundleIssue t k way) s =
    .next (addRetired k 1 (commit k (issuedCore (max s.now t) way (coreOf s k))
      (bundleReads (inBundle t k way s) k (issuedCore (max s.now t) way (coreOf s k)) [x]) [x] ((coreOf s k).pc.toNat + 4 * w) (inBundle t k way s))) := by
  refine bundle_commits issues decoded rfl (by simp [acts]) free ?_ ?_
  · intro y here
    rw [List.mem_singleton.mp here]
    exact plain
  · show [x].flatMap _ = []
    simp [clean]

/-- A syllable outside the C slot that makes no store writes its registers, and no other core's (R531). -/
theorem syl_writes (slot : x.slot ≠ 5) (plain : ∀ v, x.op ≠ .brk v ∧ x.op ≠ .trap v) {n : DCore}
    (wrote : sylWrite k (isHouse s k) (issuedCore (max s.now t) way (coreOf s k))
      (bundleReads (inBundle t k way s) k (issuedCore (max s.now t) way (coreOf s k)) [x]) x (issuedCore (max s.now t) way (coreOf s k)) = n)
    (silent : ∀ m, sylMstat (issuedCore (max s.now t) way (coreOf s k)) m x = 0) (quiet : ∀ m, sylStores (issuedCore (max s.now t) way (coreOf s k)) m x = [])
    (same : n.st = (coreOf s k).st ∧ n.retired = (coreOf s k).retired) : Completes (.bundleIssue t k way) s fun u =>
      coreOf u k = passedCore w (issuedCore (max s.now t) way (coreOf s k)) n ∧ u.dxr.mem = s.dxr.mem ∧ ∀ j, j ≠ k → coreOf u j = coreOf s j := by
  have runs := syl_commits issues decoded acts clean (by simp [getOf, cOf_other slot]) plain
  exact completes_of runs (bundle_regs issues (cOf_other slot) rfl (by rw [writeAll_one _ _ _ _ _ (silent _), isHouse_inBundle, wrote]) same.1 same.2 (by simp [quiet]))

end

theorem readMem_writeMem_key (key a b n j : Nat) (l : List Byte) (s : State) (wf : Memory.wf s.dxr.mem = true) (other : j ≠ key) :
    readMem (writeMem key a l s) j b n = readMem s j b n := by
  unfold readMem
  rw [memOfKey_writeMem_ne _ _ _ _ _ wf other]

/-- A completed bundle whose one store lies in memory (R531, R580). -/
theorem bundle_store {t k w n v : Nat} {way : Issue} {x : Syl} {r : MemRef} {key a : Nat} {s : State} (issues : Issues k way s) (slot : x.slot ≠ 5)
    (op : x.op = .store n v r) (low : (r.ea (issuedCore (max s.now t) way (coreOf s k)) n).1 < 0x1000000)
    (local_ : localTarget k (!isHouse s k) .store (r.ea (issuedCore (max s.now t) way (coreOf s k)) n).1 n = some (.mem key a)) (wf : Memory.wf s.dxr.mem = true)
    (m : Tab Nat) :
    let c := issuedCore (max s.now t) way (coreOf s k)
    let u := addRetired k 1 (commit k c m [x] ((coreOf s k).pc.toNat + 4 * w) (inBundle t k way s))
    readMem u key a n = le n (c.greg v).toNat ∧ coreOf u k = passedCore w c (applyMove c r n c)
      ∧ (∀ b m, b + m ≤ a ∨ a + n ≤ b → readMem u key b m = readMem s key b m) ∧ (∀ j b m, j ≠ key → readMem u j b m = readMem s j b m)
      ∧ ∀ j, j ≠ k → coreOf u j = coreOf s j := by
  intro c u
  generalize moved : applyMove c r n c = q
  have st : q.st = (coreOf s k).st := by rw [← moved, (applyMove_keeps ..).1]; rfl
  have retired : q.retired = (coreOf s k).retired := by rw [← moved, (applyMove_keeps ..).2]; rfl
  generalize looped : loopCheck (coreOf s k).pc.toNat 3 { q with pc := BitVec.ofNat 32 ((coreOf s k).pc.toNat + 4 * w) } = L
  have LSt : L.st ≠ .held := by rw [← looped, (loopCheck_keeps _ _ _).1]; show q.st ≠ _; rw [st, issue_st issues.may]; simp
  have LRetired : L.retired = (coreOf s k).retired := by rw [← looped, (loopCheck_keeps _ _ _).2]; exact retired
  have reached : target (onCore k (fun _ => L) (inBundle t k way s)) k .store (r.ea c n).1 n = some (.mem key a) := by
    rw [local_target low]
    exact local_
  obtain ⟨z, zCores, zMem, stored⟩ := storeAt_mem k key a (le n (c.greg v).toNat) (onCore k (fun _ => L) (inBundle t k way s))
  have commits : commit k c m [x] ((coreOf s k).pc.toNat + 4 * w) (inBundle t k way s) = writeMem key a (le n (c.greg v).toNat) z := by
    have writes : writeAll k (isHouse (inBundle t k way s) k) c m [x] = q := by
      rw [writeAll_one _ _ _ _ _ (by simp [sylMstat, op]), ← moved]
      simp [sylWrite, op]
    have stores : [x].flatMap (sylStores c m) = [(.store, (r.ea c n).1, le n (c.greg v).toNat)] := by simp [sylStores, op]
    unfold commit
    dsimp only
    rw [cOf_other slot, writes, stores]
    show doStores k _ (onCore k (fun _ => loopCheck (coreOf s k).pc.toNat 3 { q with pc := BitVec.ofNat 32 ((coreOf s k).pc.toNat + 4 * w) }) (inBundle t k way s)) = _
    rw [looped, ← stored]
    unfold doStores
    rw [List.foldl_cons, List.foldl_nil]
    dsimp only
    rw [le_length, reached]
  have zCore : ∀ j, coreOf (writeMem key a (le n (c.greg v).toNat) z) j = coreOf (onCore k (fun _ => L) (inBundle t k way s)) j := by
    intro j
    show tgetD {} j z.dxr.cores = _
    rw [zCores]
    rfl
  have own : coreOf (writeMem key a (le n (c.greg v).toNat) z) k = L := by rw [zCore, core_put (core_ne LSt)]
  have zWf : Memory.wf z.dxr.mem = true := by rw [zMem]; exact wf
  have zRead : ∀ j b m, readMem z j b m = readMem s j b m := fun j b m => readMem_of zMem j b m
  have final : u = onCore k (fun c => { c with retired := L.retired + 1 }) (writeMem key a (le n (c.greg v).toNat) z) := by
    show addRetired k 1 (commit ..) = _
    rw [commits, addRetired_eq (by rw [own, LRetired]; have := issues.count.2; omega), own]
  have ne : (fun (c : DCore) => { c with retired := L.retired + 1 }) (coreOf (writeMem key a (le n (c.greg v).toNat) z) k) ≠ {} := by
    rw [own]
    exact core_ne LSt
  have read : ∀ j b m, readMem u j b m = readMem (writeMem key a (le n (c.greg v).toNat) z) j b m := by
    intro j b m
    rw [final]
    rfl
  refine ⟨?_, ?_, fun b i out => ?_, fun j b i other => ?_, fun j other => ?_⟩
  · have whole := readMem_writeMem key a (le n (c.greg v).toNat) z zWf
    rw [le_length] at whole
    rw [read, whole]
  · rw [final, core_put ne, own, ← looped]
    rfl
  · rw [read, readMem_writeMem_out _ _ _ _ _ _ zWf (by rw [le_length]; exact out), zRead]
  · rw [read, readMem_writeMem_key _ _ _ _ _ _ _ zWf other, zRead]
  · rw [final, core_other ne other, zCore, core_other (core_ne LSt) other]
    exact inBundle_other issues.may other

/-- What a load of local memory reads (R531, R577). -/
theorem bundleReads_load {t k n d : Nat} {way : Issue} {x : Syl} {sg : Bool} {r : MemRef} {key a : Nat} {c : DCore} {s : State} (op : x.op = .load n sg d r)
    (low : (r.ea c n).1 < 0x1000000) (local_ : localTarget k (!isHouse s k) .load (r.ea c n).1 n = some (.mem key a)) :
    tgetD 0 (2 * x.slot) (bundleReads (inBundle t k way s) k c [x]) = unle (readMem s key a n) := by
  have read : readEA (inBundle t k way s) k .load (r.ea c n).1 n = unle (readMem s key a n) := by
    unfold readEA
    rw [local_target low, isHouse_inBundle, local_]
    rfl
  unfold bundleReads
  simp only [List.flatMap_cons, List.flatMap_nil, List.append_nil, sylReads, op, List.foldl_cons, List.foldl_nil, read]
  exact tgetD_tset_self rfl

/-- A branch outside a loop transfers control (R543, R572). -/
theorem bundle_branch {t k : Nat} {way : Issue} {x : Syl} {off : Int} {s : State} (issues : Issues k way s) (slot : x.slot = 5) (op : x.op = .br off false)
    (flat : (issuedCore (max s.now t) way (coreOf s k)).ldepth = 0) (m : Tab Nat) (next : Nat) :
    let c := issuedCore (max s.now t) way (coreOf s k)
    let u := addRetired k 1 (commit k c m [x] next (inBundle t k way s))
    coreOf u k = { c with pc := BitVec.ofInt 32 (c.pc.toNat + off), retired := c.retired + 1 } ∧ u.dxr.mem = s.dxr.mem := by
  intro c u
  have writes : writeAll k (isHouse (inBundle t k way s) k) c m [x] = c := by
    rw [writeAll_one _ _ _ _ _ (by simp [sylMstat, op])]
    simp [sylWrite, op]
  have goes : control (inBundle t k way s) k (isHouse (inBundle t k way s) k) c next (some x) c = { c with pc := BitVec.ofInt 32 (c.pc.toNat + off) } := by
    unfold control branchOf
    dsimp only
    rw [op]
    dsimp only
    unfold leaveLoops
    rw [if_neg]
    · rfl
    · rintro ⟨deep, -⟩
      exact deep flat
  have commits : commit k c m [x] next (inBundle t k way s) = onCore k (fun _ => { c with pc := BitVec.ofInt 32 (c.pc.toNat + off) }) (inBundle t k way s) := by
    unfold commit
    dsimp only
    rw [cOf_control slot, writes, goes, show [x].flatMap (sylStores c m) = [] by simp [sylStores, op]]
    simp only [Option.map_some, op]
    rfl
  have alive : c.st ≠ .held := by
    show (coreOf s k).st ≠ _
    rw [issue_st issues.may]
    simp
  have own : coreOf (onCore k (fun _ => { c with pc := BitVec.ofInt 32 (c.pc.toNat + off) }) (inBundle t k way s)) k = { c with pc := BitVec.ofInt 32 (c.pc.toNat + off) } :=
    core_put (core_ne alive)
  have final : u = onCore k (fun q => { q with retired := c.retired + 1 }) (onCore k (fun _ => { c with pc := BitVec.ofInt 32 (c.pc.toNat + off) }) (inBundle t k way s)) := by
    show addRetired k 1 (commit ..) = _
    rw [commits, addRetired_eq (by rw [own]; have := issues.count.2; show (coreOf s k).retired.toNat + 1 < _; omega), own]
  refine ⟨?_, by rw [final]; rfl⟩
  rw [final, core_put (by rw [own]; exact core_ne alive), own]

/-- Settles O45. -/
theorem dexarBundles : Obligations.DexarBundles := by
  intro t k way w x s issues decoded c
  have keeps : c.st = (coreOf s k).st ∧ c.retired = (coreOf s k).retired := ⟨rfl, rfl⟩
  refine ⟨fun idle => syl_idle issues decoded idle, fun acts slot => ⟨fun op f d a b is => ?_, fun d v is => ?_, fun op p a b is => ?_, fun d a b is => ?_,
    fun n v r key a is aligned low local_ wf => ?_, fun n sg d r key a is aligned low local_ => ?_⟩, fun off acts slot is flat => ?_⟩
  · exact syl_writes issues decoded acts (by simp [sylExc, is, Dx.accesses]) slot (by simp [is]) (by
        unfold sylWrite
        rw [is]
        cases f <;> rfl) (by simp [sylMstat, is]) (by simp [sylStores, is])
      ⟨rfl, rfl⟩
  · obtain ⟨u, runs, core, mem, -⟩ := syl_writes (t := t) issues decoded acts (by simp [sylExc, is, Dx.accesses]) slot (by simp [is]) (by simp [sylWrite, is]; rfl)
      (by simp [sylMstat, is]) (by simp [sylStores, is]) (show (c.setG d v).st = _ ∧ (c.setG d v).retired = _ from keeps)
    exact ⟨u, runs, core, mem⟩
  · obtain ⟨u, runs, core, mem, -⟩ := syl_writes (t := t) issues decoded acts (by simp [sylExc, is, Dx.accesses]) slot (by simp [is]) (by simp [sylWrite, is]; rfl)
      (by simp [sylMstat, is]) (by simp [sylStores, is]) (setP_keeps p (cmpRes op (c.greg a) (b.get c)) c)
    exact ⟨u, runs, core, mem⟩
  · obtain ⟨u, runs, core, mem, -⟩ := syl_writes (t := t) issues decoded acts (by simp [sylExc, is, MulOp.divides]) slot (by simp [is]) (by simp [sylWrite, is, mulRes]; rfl)
      (by simp [sylMstat, is]) (by simp [sylStores, is]) (show (c.setG d (c.greg a * c.greg b)).st = _ ∧ (c.setG d (c.greg a * c.greg b)).retired = _ from keeps)
    exact ⟨u, runs, core, mem⟩
  · exact completes_of (syl_commits issues decoded acts (by
        simp only [sylExc, is, Dx.accesses, List.flatMap_cons, List.flatMap_nil, List.append_nil]
        exact access_fine issues rfl aligned low local_) (by simp [getOf, cOf_other slot]) (by simp [is]))
      (bundle_store issues slot is low local_ wf _)
  · obtain ⟨u, runs, core, mem, -⟩ := syl_writes (t := t) issues decoded acts (by
        simp only [sylExc, is, Dx.accesses, List.flatMap_cons, List.flatMap_nil, List.append_nil]
        exact access_fine issues rfl aligned low local_) slot (by simp [is]) (by
          simp only [sylWrite, is]
          rw [bundleReads_load is low local_]) (by simp [sylMstat, is]) (by simp [sylStores, is])
      (n := (applyMove c r n c).setG d (if sg then sx (8 * n) (BitVec.ofNat 64 (unle (readMem s key a n))) else BitVec.ofNat 64 (unle (readMem s key a n))))
      (show (applyMove c r n c).st = _ ∧ (applyMove c r n c).retired = _ from applyMove_keeps c r n c)
    exact ⟨u, runs, core, mem⟩
  · exact completes_of (syl_commits issues decoded acts (by simp [sylExc, is, Dx.accesses]) (by simp [getOf, cOf_control slot, is]) (by simp [is]))
      (bundle_branch issues slot is flat _ _)

end Sys2Proof.Machine
end

section
/-!
SUPPORT. Exceptions, passes of REP, and GET (13, 15): what each leaves of its core, and the statement that rests on this.
-/
namespace Sys2Proof.Machine

/-- The core of a bundle or pass that issues, its cycles counted. -/
def clockedCore (now : Nat) (way : Issue) (c : DCore) : DCore := { c with cycle := c.cycle + BitVec.ofNat 48 way.cycles, issuedAt := now }

/-- The state in which a bundle or pass issues. -/
def inIssue (t k : Nat) (way : Issue) (s : State) : State :=
  onCore k (fun c => { c with cycle := (coreOf s k).cycle + BitVec.ofNat 48 way.cycles, issuedAt := (tick t s).now }) (tick t s)

theorem inIssue_core {t k : Nat} {way : Issue} {s : State} (may : mayIssue s k = true) :
    coreOf (inIssue t k way s) k = clockedCore (max s.now t) way (coreOf s k) :=
  cyc_core may

theorem inIssue_ready {t k : Nat} {way : Issue} {s : State} (issues : Issues k way s) :
    issueChecks k way (tick t s) = (true, inIssue t k way s) ∧ decodeAt (inIssue t k way s) k way = decodeAt s k way ∧
      afterFetch (inIssue t k way s) = inIssue t k way s :=
  ⟨issue_ready issues t, issue_decodes issues t, if_pos (congrArg List.isEmpty issues.fresh)⟩

/-- The check of R543 touches the PC, `PSTATE` and the loop counts alone. -/
theorem loopCheck_rest (a : Nat) (pc : BitVec 32) (ps : BitVec 32) (lc : Tab (BitVec 32)) : ∀ (n : Nat) (c : DCore),
    { loopCheck a n c with pc := pc, pstate := ps, lc := lc } = { c with pc := pc, pstate := ps, lc := lc }
  | 0, _ => rfl
  | n + 1, c => by
    unfold loopCheck
    split
    · rfl
    · dsimp only
      split
      · rfl
      · split
        · rfl
        · exact loopCheck_rest a pc ps lc n _

/-- A bundle that may not issue takes its exception in a house core, and stops it inside a handler (R552, R558, R559). -/
theorem issueBundle_error {t k : Nat} {way : Issue} {e : Exc} {s : State} (issues : Issues k way s) (bad : decodeAt s k way = .error e) (poison : e.code ≠ 0xA)
    (access : e.code ≠ 9) : exec (.bundleIssue t k way) s = .next (takeExc k e (clockedCore (max s.now t) way (coreOf s k)).pc.toNat 0 (inIssue t k way s)) := by
  obtain ⟨-, -, -, -, unpoisoned⟩ := issues.sound
  show Host.Outcome.next (if mayIssue (tick t s) k then issueBundle k way (tick t s) else tick t s) = _
  rw [if_pos (show mayIssue (tick t s) k = true from issues.may)]
  obtain ⟨ready, decodes, fetched⟩ := inIssue_ready (t := t) issues
  unfold issueBundle
  rw [ready]
  dsimp only
  rw [if_neg (by simp), decodes, bad, fetched, inIssue_core issues.may]
  unfold excDetectors
  dsimp only
  rw [if_neg poison, if_neg (fun both => access both.1), if_neg (by simp [unpoisoned])]

theorem takeExc_stops {k : Nat} {e : Exc} {epc ef : Nat} {s : State} (house : isHouse s k = true) (sync : e.code < 0x10) (exl : (coreOf s k).exl = true) :
    coreOf (takeExc k e epc ef s) k = { coreOf s k with st := .stopped } := by
  unfold takeExc
  dsimp only
  rw [if_pos ⟨house, by simp [sync], exl⟩, core_put (core_ne (by simp))]

/-- A guest core's spent budget ends its run (R622). -/
theorem takeExc_budget {k r epc : Nat} {x : DRun} {c : Flight} {s : State} (guest : isHouse s k = false) (run : (coreOf s k).run = some r)
    (found : tget r s.dsp.runs = some x) (flight : tget x.id s.rge.flights = some c) (post : CanPost s c) :
    Posted c 0x0604 0 (takeExc k { code := 0x10, slot := 7, eaddr := none } epc 0 s) ∧
      (takeExc k { code := 0x10, slot := 7, eaddr := none } epc 0 s).dsp.runs = tdel r s.dsp.runs := by
  have counted : ∀ w : State, Quiet w (bump (excCtr k) 1 w) := fun w => quiet_bump ..
  unfold takeExc
  dsimp only
  rw [if_neg (by simp [guest]), if_neg (by simp [guest]), run]
  dsimp only
  generalize saved : onCore k _ (bump (excCtr k) 1 _) = z
  have quiet : Quiet s z := by
    rw [← saved]
    have first : Quiet s (draw s) := .of_rge rfl
    exact (first.trans (counted _)).trans (.of_rge rfl)
  have dsp : z.dsp = s.dsp := by
    rw [← saved]
    exact (of_one (a := .dsp) (by simp) : (bump (excCtr k) 1 (draw s)).dsp = (draw s).dsp)
  obtain ⟨posted, runs⟩ := endRun_facts (r := r) (status := 0x0604) (result := 0) (code := 0x10) (epc := epc) (eaddr := freeVal s % 2 ^ 32) (ef := 0) (s := z)
    (by rw [dsp]; exact found) (by rw [quiet.flights]; exact flight) (quiet.canPost post)
  exact ⟨posted, runs.trans (by rw [dsp])⟩

/-- A REP bundle captures its count (R546). -/
theorem issueRep_captures {t k : Nat} {way : Issue} {b : Bundle} {n : Src} {s : State} (issues : Issues k way s) (decoded : decodeAt s k way = .ok b)
    (rep : b.rep = some n) (first : (coreOf s k).repact = false) (some_ : (n.get (clockedCore (max s.now t) way (coreOf s k))).setWidth 32 ≠ 0#32) :
    exec (.bundleIssue t k way) s = .next (onCore k (fun c => { c.setPs 15 15 1 with repc := (n.get (clockedCore (max s.now t) way (coreOf s k))).setWidth 32 })
      (inIssue t k way s)) := by
  show Host.Outcome.next (if mayIssue (tick t s) k then issueBundle k way (tick t s) else tick t s) = _
  rw [if_pos (show mayIssue (tick t s) k = true from issues.may)]
  obtain ⟨ready, decodes, fetched⟩ := inIssue_ready (t := t) issues
  unfold issueBundle
  rw [ready]
  dsimp only
  rw [if_neg (by simp), decodes, decoded, fetched]
  dsimp only
  rw [rep]
  unfold issueRep
  dsimp only
  rw [inIssue_core issues.may, if_neg (show ¬(clockedCore (max s.now t) way (coreOf s k)).repact = true from ne_true_of_eq_false first)]
  exact congrArg Host.Outcome.next (if_neg some_)

/-- One pass of an ALU operation, before its count is looked at (R546, R550). -/
theorem repPass_passes {t k w d a : Nat} {way : Issue} {n b : Src} {x : Syl} {op : AluOp} {f : Bool} {s : State} (issues : Issues k way s)
    (repeats : repeating (coreOf s k) = true)
    (decoded : decodeBundle (!isHouse s k) (fetchFromPc s k (coreOf s k).pc.toNat 8) = .ok { words := w, rep := some n, syls := [x] })
    (is : x.op = .alu op f d a b) (slot : x.slot ≠ 5) (acts : x.acts (clockedCore (max s.now t) way (coreOf s k)) = true) :
    let c := clockedCore (max s.now t) way (coreOf s k)
    ∃ z, coreOf z k = { c.setG d (aluRes op (c.greg a) (b.get c) (flagC c.flags)).1 with
        flags := if f then (aluRes op (c.greg a) (b.get c) (flagC c.flags)).2 else c.flags, repc := c.repc - 1 } ∧
      exec (.repPass t k way) s = .next (if (coreOf (addRetired k 1 z) k).repc = 0 then endRep k w (addRetired k 1 z) else addRetired k 1 z) := by
  intro c
  have own : coreOf (inIssue t k way s) k = c := inIssue_core issues.may
  generalize wrote : ({ c.setG d (aluRes op (c.greg a) (b.get c) (flagC c.flags)).1 with
        flags := if f then (aluRes op (c.greg a) (b.get c) (flagC c.flags)).2 else c.flags } : DCore) = m
  have mPc : m.pc = c.pc := by rw [← wrote]; rfl
  have mPs : m.pstate = c.pstate := by rw [← wrote]; rfl
  have mLc : m.lc = c.lc := by rw [← wrote]; rfl
  have mSt : m.st = .running := by rw [← wrote]; exact issue_st issues.may
  have mRepc : m.repc = c.repc := by rw [← wrote]; rfl
  generalize looped : loopCheck c.pc.toNat 3 { m with pc := BitVec.ofNat 32 c.pc.toNat } = L
  have rest := loopCheck_rest c.pc.toNat c.pc c.pstate c.lc 3 { m with pc := BitVec.ofNat 32 c.pc.toNat }
  rw [looped] at rest
  have back : { L with pc := c.pc, pstate := c.pstate, lc := c.lc } = m := by
    rw [rest, ← mPc, ← mPs, ← mLc]
  have LRepc : L.repc = c.repc := by
    have same := congrArg DCore.repc back
    exact same.trans mRepc
  have LSt : L.st ≠ .held := by
    have same := congrArg DCore.st back
    rw [show L.st = .running from same.trans mSt]
    simp
  have commits : ∀ reads, commit k c reads [x] c.pc.toNat (inIssue t k way s) = onCore k (fun _ => L) (inIssue t k way s) := by
    intro reads
    have writes : writeAll k (isHouse (inIssue t k way s) k) c reads [x] = m := by
      rw [writeAll_one _ _ _ _ _ (by simp [sylMstat, is]), ← wrote]
      unfold sylWrite
      rw [is]
      cases f <;> rfl
    unfold commit
    dsimp only
    rw [cOf_other slot, writes, show [x].flatMap (sylStores c reads) = [] by simp [sylStores, is]]
    show doStores k [] (onCore k (fun _ => loopCheck c.pc.toNat 3 { m with pc := BitVec.ofNat 32 c.pc.toNat }) (inIssue t k way s)) = _
    rw [looped]
    rfl
  have executes : execSyls k way { words := w, rep := some n, syls := [x] } c.pc.toNat (inIssue t k way s) = (true, onCore k (fun _ => L) (inIssue t k way s)) := by
    unfold execSyls flagAccess
    dsimp only
    rw [own, show [x].filter (·.acts c) = [x] by simp [show x.acts c = true from acts], if_neg (by simp [is, Dx.touches])]
    dsimp only
    rw [show actExcs (inIssue t k way s) k c way false [x] = [] by simp [actExcs, sylExc, is, Dx.accesses]]
    exact congrArg (Prod.mk true) (commits _)
  have mid : coreOf (onCore k (fun _ => L) (inIssue t k way s)) k = L := core_put (core_ne LSt)
  refine ⟨onCore k (fun q => { q with pc := c.pc, pstate := c.pstate, lc := c.lc, repc := q.repc - 1 }) (onCore k (fun _ => L) (inIssue t k way s)), ?_, ?_⟩
  · rw [core_put (by rw [mid]; exact core_ne LSt), mid, LRepc]
    have same := congrArg (fun q : DCore => { q with repc := c.repc - 1 }) back
    rw [← wrote] at same
    exact same
  · show Host.Outcome.next (if mayIssue (tick t s) k && repeating (coreOf (tick t s) k) then issuePass k way (tick t s) else tick t s) = _
    rw [if_pos (show (mayIssue (tick t s) k && repeating (coreOf (tick t s) k)) = true from Bool.and_eq_true_iff.mpr ⟨issues.may, repeats⟩)]
    unfold issuePass
    rw [issue_ready issues t]
    show Host.Outcome.next (if !true then _ else match decodeBundle (!isHouse (inIssue t k way s) k) (fetchFromPc (inIssue t k way s) k (coreOf (inIssue t k way s) k).pc.toNat 8) with
      | .ok b => if b.rep.isSome then repPass k way b (afterFetch (inIssue t k way s)) else inIssue t k way s
      | .error _ => inIssue t k way s) = _
    rw [if_neg (by simp), fetchFromPc_eq (s := s) (z := inIssue t k way s) rfl rfl issues.fresh, own,
      show decodeBundle (!isHouse (inIssue t k way s) k) (fetchFromPc s k c.pc.toNat 8) = .ok { words := w, rep := some n, syls := [x] } from decoded]
    dsimp only
    rw [if_pos (show (some n).isSome = true from rfl), show afterFetch (inIssue t k way s) = inIssue t k way s from if_pos (congrArg List.isEmpty issues.fresh)]
    unfold repPass
    dsimp only
    rw [own, executes]
    rfl

/-- The end of a REP bundle's passes goes on to the next bundle (R546, R550). -/
theorem endRep_core {k w : Nat} {z : State} (alive : (coreOf z k).st ≠ .held) :
    coreOf (endRep k w z) k = passedCore w (coreOf z k) ((coreOf z k).setPs 15 15 0) := by
  generalize looped : loopCheck (coreOf z k).pc.toNat 3 { (coreOf z k).setPs 15 15 0 with pc := BitVec.ofNat 32 ((coreOf z k).pc.toNat + 4 * w) } = L
  have LSt : L.st ≠ .held := by
    rw [← looped, (loopCheck_keeps _ _ _).1]
    exact alive
  have mid : coreOf (onCore k (fun c => loopCheck c.pc.toNat 3 { c.setPs 15 15 0 with pc := BitVec.ofNat 32 (c.pc.toNat + 4 * w) }) z) k = L := by
    rw [core_put (by dsimp only; rw [looped]; exact core_ne LSt)]
    exact looped
  unfold endRep
  rw [(addRetired_core (by rw [mid]; exact LSt)).1, mid, ← looped]
  rfl

/-- The last pass goes on to the next bundle, and any other leaves the count one less (R546, R550). -/
theorem repPass_counts {w k : Nat} {c m : DCore} {z : State} (own : coreOf z k = m) (alive : m.st ≠ .held) (pc : m.pc = c.pc) :
    let u := if (coreOf (addRetired k 1 z) k).repc = 0 then endRep k w (addRetired k 1 z) else addRetired k 1 z
    (m.repc ≠ 0 → coreOf u k = { m with retired := m.retired + 1 }) ∧
      (m.repc = 0 → coreOf u k = passedCore w c ({ m with retired := m.retired + 1 }.setPs 15 15 0)) := by
  intro u
  have counted : coreOf (addRetired k 1 z) k = { m with retired := m.retired + 1 } := by
    rw [(addRetired_core (by rw [own]; exact alive)).1, own]
    rfl
  refine ⟨fun more => ?_, fun last => ?_⟩
  · rw [show u = addRetired k 1 z from if_neg (by rw [counted]; exact more), counted]
  · rw [show u = endRep k w (addRetired k 1 z) from if_pos (by rw [counted]; exact last), endRep_core (by rw [counted]; exact alive), counted]
    unfold passedCore
    rw [show ({ m with retired := m.retired + 1 } : DCore).pc = c.pc from pc]

/-- The state in which an item has been delivered (R601). -/
def delivered (k key : Nat) (i : Item) (s : State) : State :=
  bump (Reg.dspGetsLo (k / 4)) 1 (onCore k (fun c => { c with mailbox := fit 64 i.content, item := some key })
    (onDsp (fun d => { d with items := tput key { i with place := .service k } d.items }) s))

theorem deliver_eq (k key : Nat) (i : Item) (s : State) : deliver k key i s = (tokenOf key i, delivered k key i s) := by
  unfold deliver delivered
  rfl

/-- GET's bundle completes with the item's token (R552, R601, R609). -/
theorem finishGet_gives {k w d a key tok : Nat} {i : Item} {x : Syl} {s : State} (waits : (coreOf s k).st = .waiting)
    (decoded : decodeBundle (!isHouse s k) (coreOf s k).getWords = .ok { words := w, rep := none, syls := [x] }) (op : x.op = .get d a) (slot : x.slot = 5)
    (acts : x.acts (coreOf s k) = true) (get : ∃ sel, (coreOf s k).get = some (d, sel)) :
    let u := finishGet k tok (delivered k key i s)
    (coreOf u k).g = ((coreOf s k).setG d (BitVec.ofNat 64 tok)).g ∧ (coreOf u k).mailbox = fit 64 i.content ∧ (coreOf u k).item = some key
      ∧ (coreOf u k).st = .running ∧ tget key u.dsp.items = some { i with place := .service k } := by
  intro u
  obtain ⟨sel, get⟩ := get
  generalize gave : delivered k key i s = z
  generalize filled : ({ coreOf s k with mailbox := fit 64 i.content, item := some key } : DCore) = c
  have own : coreOf z k = c := by
    rw [← gave, ← filled]
    unfold delivered
    rw [bump_core, core_put (core_ne (by show (coreOf s k).st ≠ _; rw [waits]; simp))]
    rfl
  have dsp : z.dsp = { s.dsp with items := tput key { i with place := .service k } s.dsp.items } := by
    have counted : ∀ b v : Nat, ∀ w : State, (bump b v w).dsp = w.dsp := fun b v w => of_one (a := .dsp) (by simp)
    rw [← gave]
    unfold delivered
    rw [counted]
    rfl
  have house : isHouse z k = isHouse s k := by
    have promoted : z.integ.promoted = s.integ.promoted := by
      rw [← gave]
      unfold delivered
      rw [bump_promoted]
      rfl
    unfold isHouse
    rw [dsp, promoted]
  have cSt : c.st = .waiting := by rw [← filled]; exact waits
  generalize looped : loopCheck c.pc.toNat 3 { c with pc := BitVec.ofNat 32 (c.pc.toNat + 4 * w) } = L
  obtain ⟨g, mailbox, item⟩ := loopCheck_g c.pc.toNat 3 { c with pc := BitVec.ofNat 32 (c.pc.toNat + 4 * w) }
  rw [looped] at g mailbox item
  have LSt : L.st ≠ .held := by
    rw [← looped, (loopCheck_keeps _ _ _).1]
    show c.st ≠ _
    rw [cSt]
    simp
  have commits : commit k c c.getReads [x] (c.pc.toNat + 4 * w) z = onCore k (fun _ => L) z := by
    have writes : writeAll k (isHouse z k) c c.getReads [x] = c := by
      rw [writeAll_one _ _ _ _ _ (by simp [sylMstat, op])]
      simp [sylWrite, op]
    unfold commit control
    dsimp only
    rw [cOf_control slot, writes, show [x].flatMap (sylStores c c.getReads) = [] by simp [sylStores, op]]
    simp only [Option.map_some, op, looped]
    rfl
  have finishes : u = addRetired k 1 (onCore k (fun x => { x.setG d (BitVec.ofNat 64 tok) with st := .running, get := none, getWords := [], getReads := [], gated := false })
      (onCore k (fun _ => L) z)) := by
    show finishGet k tok (delivered k key i s) = _
    rw [gave]
    unfold finishGet
    dsimp only
    rw [own, house, show c.getWords = (coreOf s k).getWords by rw [← filled], decoded, show c.get = some (d, sel) by rw [← filled]; exact get]
    dsimp only
    rw [show [x].filter (·.acts c) = [x] by simp [show x.acts c = true by rw [← filled]; exact acts], commits]
  have mid : coreOf (onCore k (fun _ => L) z) k = L := core_put (core_ne LSt)
  have given := gave_core k d (BitVec.ofNat 64 tok) (onCore k (fun _ => L) z)
  rw [mid] at given
  obtain ⟨last, same⟩ := addRetired_core (n := 1) (k := k) (s := onCore k (fun x => { x.setG d (BitVec.ofNat 64 tok) with st := .running, get := none, getWords := [], getReads := [], gated := false })
    (onCore k (fun _ => L) z)) (by rw [given]; simp)
  rw [given] at last
  rw [← finishes] at last same
  rw [last, same]
  refine ⟨?_, ?_, ?_, rfl, ?_⟩
  · show tset 0 d _ L.g = tset 0 d _ (coreOf s k).g
    rw [g, ← filled]
  · show L.mailbox = _
    rw [mailbox, ← filled]
  · show L.item = _
    rw [item, ← filled]
  · show tget key z.dsp.items = _
    rw [dsp]
    exact tget_tput_self

/-- Settles O46. -/
theorem coreEvents : Obligations.CoreEvents := by
  intro t k way s
  refine ⟨fun e issues house bad sync poison access => ?_, fun house breaks ie exl => ?_, fun r x c run found guest breaks spent flight post => ?_,
    fun b n issues decoded rep first => ?_, fun w n x op f d a b issues repeats decoded is slot => ?_, fun seg key i w x d a longest finds decoded is slot acts get => ?_⟩
  · intro c
    refine ⟨fun exl => ?_, fun exl => ?_⟩
    · obtain ⟨adr, same, core⟩ := takeExc_core (k := k) (e := e) (epc := c.pc.toNat) (ef := 0) (s := inIssue t k way s) house
        (.inl (by rw [inIssue_core issues.may]; exact issue_st issues.may)) (fun _ => by rw [inIssue_core issues.may]; exact exl)
      refine completes_of (issueBundle_error issues bad poison access) ⟨adr, same, ?_⟩
      rw [show (clockedCore (max s.now t) way (coreOf s k)).pc.toNat = c.pc.toNat from rfl, core, inIssue_core issues.may]
      have st : (trappedCore e adr c.pc.toNat c).st = .running := issue_st issues.may
      exact congrArg (fun v : CoreSt => { trappedCore e adr c.pc.toNat c with st := v }) st.symm
    · refine completes_of (issueBundle_error issues bad poison access) ?_
      rw [takeExc_stops (s := inIssue t k way s) house sync (by rw [inIssue_core issues.may]; exact exl), inIssue_core issues.may]
      rfl
  · have st : (coreOf s k).st = .running ∨ (coreOf s k).st = .waiting := by
      have both := (Bool.and_eq_true_iff.mp breaks).2
      simpa using both
    obtain ⟨a, -, core⟩ := takeExc_core (k := k) (e := { code := 0x11, slot := 7, eaddr := none }) (epc := (coreOf s k).pc.toNat) (ef := 0) (s := tick t s) house st
      (fun sync => absurd sync (by decide))
    refine completes_of (u := takeExc k { code := 0x11, slot := 7, eaddr := none } (coreOf s k).pc.toNat 0 (tick t s)) ?_ ⟨a, core⟩
    show execEventException t k s = _
    unfold execEventException
    dsimp only
    exact if_pos ⟨house, breaks, ie, by rw [show (coreOf (tick t s) k).exl = false from exl]; rfl⟩
  · have runs : exec (.budgetException t k) s = .next (takeExc k { code := 0x10, slot := 7, eaddr := none } (coreOf s k).pc.toNat 0 (tick t s)) := by
      have on_ : runOn (tick t s) k = some x := by
        unfold runOn
        rw [show (coreOf (tick t s) k).run = some r from run]
        exact found
      show execBudgetException t k s = _
      unfold execBudgetException
      dsimp only
      exact if_pos ⟨by rw [on_]; rfl, by rw [show isHouse (tick t s) k = false from guest]; rfl, breaks, spent⟩
    exact completes_of runs (takeExc_budget (s := tick t s) guest run found flight post)
  · intro c some_
    refine completes_of (issueRep_captures issues decoded rep first some_) ?_
    rw [repc_core _ _ _ (by rw [inIssue_core issues.may]; show (coreOf s k).st ≠ _; rw [issue_st issues.may]; simp), inIssue_core issues.may]
    rfl
  · intro c acts m
    obtain ⟨z, own, runs⟩ := repPass_passes issues repeats decoded is slot acts
    obtain ⟨more, last⟩ := repPass_counts (w := w) (c := c) own (by show (coreOf s k).st ≠ _; rw [issue_st issues.may]; simp) rfl
    refine ⟨fun again => completes_of runs (more ?_), fun one => completes_of runs (last ?_)⟩
    · intro zero
      exact again (sub_eq_zero.mp zero)
    · exact sub_eq_zero.mpr one
  · have awake_ := longestWait_awaits longest
    have st : (coreOf s k).st = .waiting := by
      unfold awaits at awake_
      simp only [Bool.and_eq_true, beq_iff_eq] at awake_
      exact awake_.1.1
    have runs : exec (.getDeliver t seg) s = .next (finishGet k (tokenOf key i) (delivered k key i (tick t s))) := by
      show execGetDeliver t seg s = _
      unfold execGetDeliver
      dsimp only
      rw [longest]
      dsimp only
      rw [show (coreOf (tick t s) k).get.getD (0, 0) = (coreOf s k).get.getD (0, 0) from rfl, finds]
      dsimp only
      rw [deliver_eq]
    exact completes_of runs (finishGet_gives (s := tick t s) st decoded is slot acts ⟨_, get⟩)

end Sys2Proof.Machine
end

section
/-!
SUPPORT. Posts of cores (15, R606): a house core's post for a run, whose AFFINITY counts, and the statement that it refutes.
-/
namespace Sys2Proof.Machine

/-- House core 0 has posted for run 0 of its Segment, and admits core 0 alone: GUEST is 1, and AFFINITY is 1. -/
def affinityPost : State :=
  { State.reset with
    dsp := { State.reset.dsp with runs := [(0, { fn := 0, id := 0, slot := 0, seg := 0, args := [], budget := 1, cid := 0, ring := 0 })] }
    dxr := { cores := [(0, { st := .running })], hands := [.post 0 [] 0x410 0] } }

/-- The item of this post has AFFINITY 1. -/
theorem affinityPost_aff : (tget 0 (after (exec (.dispatcherPost 1 0) affinityPost) affinityPost).dsp.items).map (·.aff) = some 1 := by
  decide

/-- Refutes O47: R606 ignores the AFFINITY of a guest core's post alone, and so does the model. The statement has it 0 for each item of a
run, and a house core's post with GUEST 1 keeps its own. -/
theorem not_dispatcherWork : ¬ Obligations.DispatcherWork := by
  intro holds
  obtain ⟨posts, -⟩ := holds 1 0 affinityPost
  obtain ⟨-, -, enters⟩ := posts [] [] [] 0x410 0 rfl (by simp) (by decide) (by decide)
  obtain ⟨u, runs, -, item, -⟩ := enters (some 0) 0 (by decide) (by decide) (fun r is => by obtain rfl := Option.some.inj is; decide) (by decide) (by decide)
  have own := affinityPost_aff
  rw [runs, show (after (.next u) affinityPost : State) = u from rfl, item] at own
  exact absurd own (by decide)

end Sys2Proof.Machine
end

section
/-!
SUPPORT. The Power Manager (18): the statement on it.
-/
namespace Sys2Proof.Machine

theorem tany_of_tget {α : Type} {f : Nat → α → Bool} {k : Nat} {m : Tab α} {a : α} (h : tget k m = some a) (fits : f k a = true) : tany f m = true :=
  List.any_eq_true.mpr ⟨(k, a), tget_mem h, fits⟩

theorem tfilter_nonempty {α : Type} {f : Nat → α → Bool} {k : Nat} {m : Tab α} {a : α} (h : tget k m = some a) (fits : f k a = true) :
    (tfilter f m).isEmpty = false := by
  refine List.isEmpty_eq_false_iff_exists_mem.mpr ⟨(k, a), List.mem_filter.mpr ⟨tget_mem h, fits⟩⟩

theorem pwr_updateFloor (s : State) : (updateFloor s).pwr = s.pwr := of_one (a := .pwr) (by simp)

theorem pwr_raiseF (k : Nat) (x : Site) (ef : Nat) (s : State) : (raiseF k x ef s).pwr = s.pwr := of_one (a := .pwr) (by simp)

theorem pwr_applyHeld (n : Nat) (s : State) (w : Nat × Word × Nat) : (applyHeld n s w).pwr = s.pwr := of_one (a := .pwr) (by simp)

theorem pwr_heldWrites (n : Nat) (l : List (Nat × Word × Nat)) (s : State) : (l.foldl (applyHeld n) s).pwr = s.pwr := by
  induction l generalizing s with
  | nil => rfl
  | cons w l ih => rw [List.foldl_cons, ih, pwr_applyHeld]

/-- Lowering the voltage moves nothing else of the Power Manager (R708). -/
theorem lowerVolt_keeps (s : State) : (lowerVolt s).pwr.level = s.pwr.level ∧ (lowerVolt s).pwr.raising = s.pwr.raising := by
  unfold lowerVolt
  split <;> exact ⟨rfl, rfl⟩

/-- A switch to another level lists that level (R710). -/
theorem switchLevel_switches {n l : Nat} {s : State} (other : levelOf s n ≠ l) : (switchLevel n l s).pwr = { s.pwr with level := tset 2 n l s.pwr.level } := by
  unfold switchLevel
  rw [if_neg other, pwr_bump]
  rfl

/-- A Segment whose level the voltage allows switches to it (R712). -/
theorem relevel_switches {n : Nat} {s : State} (allowed : s.pwr.volt ≤ targetLevel s n) (other : levelOf s n ≠ targetLevel s n) :
    (relevel s n).pwr.level = tset 2 n (targetLevel s n) s.pwr.level ∧ (relevel s n).pwr.raising = tdel n s.pwr.raising := by
  unfold relevel
  dsimp only
  rw [if_pos allowed]
  obtain ⟨level, raising⟩ := lowerVolt_keeps (switchLevel n (targetLevel s n) (onPwr (fun p => { p with raising := tdel n p.raising }) s))
  have switched := switchLevel_switches (n := n) (l := targetLevel s n) (s := onPwr (fun p => { p with raising := tdel n p.raising }) s) other
  rw [switched] at level raising
  exact ⟨level, raising⟩

/-- A bump below the counter's end adds to it (R101). -/
theorem bump_adds {a n : Nat} {s : State} (room : ctr s a + n < 2 ^ 48) : bump a n s = setCtr a (ctr s a + n) s := by
  unfold bump
  exact if_neg (Nat.not_le.mpr room)

/-- The wake of a Segment ends its sleep and frees its held writes (R720, R722). -/
theorem wakeDone_wakes {d : Nat} {s : State} (sleeps : domSleep s d ≠ 0) (segment : d ≠ rindx) :
    (wakeDone d s).pwr.sleep = tdel d s.pwr.sleep ∧ (wakeDone d s).pwr.held = tdel d s.pwr.held ∧ (wakeDone d s).pwr.waking = s.pwr.waking.filter (· != d) := by
  have calibrated : (if sleepOf s d ≥ 2 then wakeDram d s else s).pwr = s.pwr := by
    unfold wakeDram
    split
    · split <;> rfl
    · rfl
  unfold wakeDone
  rw [if_neg sleeps, if_neg segment]
  dsimp only
  rw [pwr_heldWrites, pwr_bump]
  generalize (if sleepOf s d ≥ 2 then wakeDram d s else s) = v at calibrated ⊢
  split
  all_goals
    show tdel d v.pwr.sleep = _ ∧ tdel d v.pwr.held = _ ∧ v.pwr.waking.filter (· != d) = _
    rw [calibrated]
    exact ⟨rfl, rfl, rfl⟩

theorem wakeDone_rindx {s : State} (sleeps : s.pwr.rindSleep ≠ 0) :
    (wakeDone rindx s).pwr.rindSleep = 0 ∧ (wakeDone rindx s).pwr.waking = s.pwr.waking.filter (· != rindx) := by
  unfold wakeDone
  rw [if_neg (show ¬ domSleep s rindx = 0 from sleeps), if_pos rfl]
  exact ⟨rfl, rfl⟩

/-- What follows a finished wake keeps all of the Power Manager but its levels. -/
theorem rest_wakes (s : State) : (lowerVolt (updateFloor s)).pwr.rest = s.pwr.rest := by
  rw [rest_lowerVolt, pwr_updateFloor]

theorem not_mem_others (n : Nat) (l : List Nat) : n ∉ l.filter (· != n) := fun h => by simpa using (List.mem_filter.mp h).2

theorem mem_kept_or_added (d : Nat) (l : List Nat) : d ∈ if l.contains d = true then l else l ++ [d] := by
  split
  next has => exact List.contains_iff_mem.mp has
  next => exact List.mem_append_right _ (List.mem_singleton.mpr rfl)

theorem startWake_waking {d : Nat} {s : State} (sleeps : domSleep s d ≠ 0) : d ∈ (startWake d s).pwr.waking := by
  unfold startWake
  rw [if_neg sleeps]
  exact mem_kept_or_added d _

theorem startWake_domSleep (d : Nat) (s : State) : domSleep (startWake d s) d = domSleep s d := by
  unfold startWake
  split <;> rfl

/-- Settles O48. -/
theorem powerManager : Obligations.PowerManager := by
  intro t n s
  refine ⟨fun c core waits => ?_, fun busy due => ?_, fun r only level other volt => ?_, fun r late due room => ?_, fun may => ?_, fun may => ?_, fun sleeps => ?_,
    fun wakes segment sleeps => ?_, fun wakes sleeps => ?_, fun zone due cap => ?_, fun zone due cap => ?_, fun a hot due run => ?_, fun a cool due shed => ?_,
    fun reads => temp_reads t reads s⟩
  · refine completes_of (u := { tick t s with dxr := { s.dxr with cores := tput n { c with gated := true } s.dxr.cores } }) ?_ ⟨rfl, rfl⟩
    show execCoreClockGate t n s = _
    unfold execCoreClockGate
    dsimp only
    rw [show tget n (tick t s).dxr.cores = some c from core]
    exact if_pos waits
  · generalize now : onPwr (fun p => { p with govAt := (tick t s).now }) (tick t s) = v
    have runs : exec (.governorDecision t busy) s = .next (relevelAll ((segs v).foldl (fun s n =>
        onPwr (fun p => { p with proposal := tput n (propose s n (busy.getD n (0, 1))) p.proposal }) s) v)) := by
      show execGovernorDecision t busy s = _
      unfold execGovernorDecision
      dsimp only
      rw [← now]
      exact if_neg (Nat.not_lt.mpr due)
    refine completes_of runs ⟨?_, fun k on => ?_⟩
    · rw [rest_field (f := Pwr.govAt) (fun _ => rfl) (rest_relevelAll _), foldl_proposal_govAt, ← now]
      rfl
    · rw [rest_field (f := Pwr.proposal) (fun _ => rfl) (rest_relevelAll _)]
      refine foldl_proposal busy s k _ v (fun m => ?_) (.inl ?_)
      · rw [← now]; rfl
      · rw [← now]; exact on
  · generalize settled : onPwr (fun p => { p with volt := min s.pwr.volt r.level, raising := [] }) (tick t s) = v
    have runs : exec (.vregSettled t) s = .next (track (fun s => relevel s n) v) := by
      show execVregSettled t s = _
      unfold execVregSettled
      dsimp only
      rw [show (tick t s).pwr.raising = [(n, r)] from only, ← settled]
      rfl
    have target : targetLevel v n = r.level := by rw [← settled]; exact level
    obtain ⟨levels, raising⟩ := relevel_switches (n := n) (s := v) (by rw [target, ← settled]; exact Nat.min_le_right ..) (by rw [target, ← settled]; exact other)
    refine completes_of runs ?_
    rw [pwr_track, levels, raising, target, ← settled]
    exact ⟨rfl, rfl⟩
  · generalize given : setFlag Reg.pwmStatus 30 (onPwr (fun p =>
        { p with raising := tfilter (fun _ r => decide ((tick t s).now - r.at_ < fieldOf (tick t s) Reg.pwmVreg 7 0 * 1000)) p.raising }) (tick t s)) = v
    have counted : ctr v Reg.pwmVlateLo = ctr s Reg.pwmVlateLo := by rw [← given]; rfl
    have runs : exec (.vregSettleTimeout t) s = .next (setCtr Reg.pwmVlateLo (ctr s Reg.pwmVlateLo + 1) v) := by
      show execVregSettleTimeout t s = _
      unfold execVregSettleTimeout
      dsimp only
      rw [tfilter_nonempty (show tget n (tick t s).pwr.raising = some r from late) (decide_eq_true due), given, bump_adds (by rw [counted]; exact room), counted]
      rfl
    refine completes_of runs ?_
    rw [ctr_set (Nat.succ_ne_zero _), ← given, flag_regs, flag_pwr]
    exact ⟨rfl, rfl, rfl⟩
  · generalize floor : updateFloor (tick t s) = v
    have vPwr : v.pwr = s.pwr := by rw [← floor, pwr_updateFloor]; rfl
    generalize asleep : onPwr (fun p => { p with sleep := tput n (sleepOf s n + 1) p.sleep, sleepAt := tput n v.now p.sleepAt
                                                 wheel := if sleepOf s n + 1 = 2 then tput n (wheelN v, wheelS v) p.wheel else p.wheel }) v = w
    have runs : exec (.segmentSleepEntry t n) s = .next (lowerVolt w) := by
      show execSegmentSleepEntry t n s = _
      unfold execSegmentSleepEntry
      dsimp only
      rw [floor]
      rw [← asleep]
      exact if_pos may
    have sleep : (lowerVolt w).pwr.sleep = tput n (sleepOf s n + 1) s.pwr.sleep := by
      rw [rest_field (f := Pwr.sleep) (fun _ => rfl) (rest_lowerVolt w), ← asleep, ← vPwr]
      rfl
    refine completes_of runs ⟨?_, fun k other => ?_⟩
    · unfold sleepOf at sleep ⊢
      rw [sleep, tgetD_tput_self]
    · show tgetD 0 k (lowerVolt w).pwr.sleep = _
      rw [sleep, tgetD_tput_ne other]
      rfl
  · refine completes_of (u := onPwr (fun p => { p with rindSleep := s.pwr.rindSleep + 1, sleepAt := tput rindx (max s.now t) p.sleepAt }) (tick t s)) ?_ rfl
    show execRindSleepEntry t s = _
    unfold execRindSleepEntry
    exact if_pos may
  · exact completes_of (u := startWake n (tick t s)) rfl ⟨startWake_waking sleeps, startWake_domSleep n (tick t s)⟩
  · have runs : exec (.wakeComplete t n) s = .next (lowerVolt (updateFloor (wakeDone n (tick t s)))) := by
      show execWakeComplete t n s = _
      unfold execWakeComplete
      exact if_pos (List.contains_iff_mem.mpr wakes)
    obtain ⟨sleep, held, waking⟩ := wakeDone_wakes (s := tick t s) sleeps segment
    refine completes_of runs ?_
    rw [rest_field (f := Pwr.sleep) (fun _ => rfl) (rest_wakes _), rest_field (f := Pwr.held) (fun _ => rfl) (rest_wakes _),
      rest_field (f := Pwr.waking) (fun _ => rfl) (rest_wakes _), sleep, held, waking]
    exact ⟨rfl, rfl, not_mem_others n _⟩
  · have runs : exec (.wakeComplete t rindx) s = .next (lowerVolt (updateFloor (wakeDone rindx (tick t s)))) := by
      show execWakeComplete t rindx s = _
      unfold execWakeComplete
      exact if_pos (List.contains_iff_mem.mpr wakes)
    obtain ⟨awake, waking⟩ := wakeDone_rindx (s := tick t s) sleeps
    refine completes_of runs ?_
    rw [rest_field (f := Pwr.rindSleep) (fun _ => rfl) (rest_wakes _), rest_field (f := Pwr.waking) (fun _ => rfl) (rest_wakes _), awake, waking]
    exact ⟨rfl, not_mem_others rindx _⟩
  · refine completes_of (u := setCap n (capOf s n + 1) (tick t s)) ?_ (rest_setCap _ _ _).1
    show execThrottleStep t n s = _
    unfold execThrottleStep
    dsimp only
    rw [show tgetD 0 n (tick t s).pwr.zone = 1 from zone]
    exact if_pos ⟨due, cap⟩
  · refine completes_of (u := setCap n (capOf s n - 1) (tick t s)) ?_ (rest_setCap _ _ _).1
    show execThrottleStep t n s = _
    unfold execThrottleStep
    dsimp only
    rw [show tgetD 0 n (tick t s).pwr.zone = 2 from zone]
    exact if_pos ⟨due, cap⟩
  · generalize counted : bump Reg.pwmShedLo 1 (onPwr (fun p => { p with shed := true }) (tick t s)) = v
    have runs : exec (.thermalShedBegin t) s = .next (relevelAll (raiseF 29 {} (if v.now < v.pwr.injUntil then efInjected else 0) v)) := by
      show execThermalShedBegin t s = _
      unfold execThermalShedBegin
      dsimp only
      rw [counted]
      exact if_pos ⟨by show (!s.pwr.shed) = true; rw [run]; rfl, tany_of_tget hot (decide_eq_true due)⟩
    refine completes_of runs ?_
    rw [rest_field (f := Pwr.shed) (fun _ => rfl) (rest_relevelAll _), pwr_raiseF, ← counted, pwr_bump]
    rfl
  · have runs : exec (.thermalShedEnd t) s = .next (track (fun s => relevelAll (onPwr (fun p => { p with shed := false }) s)) (tick t s)) := by
      show execThermalShedEnd t s = _
      unfold execThermalShedEnd
      dsimp only
      rw [show (tick t s).pwr.coolSince = some a from cool]
      exact if_pos ⟨shed, due⟩
    refine completes_of runs ?_
    rw [pwr_track, rest_field (f := Pwr.shed) (fun _ => rfl) (rest_relevelAll _)]
    rfl

end Sys2Proof.Machine
end

section
/-!
SUPPORT. Data Mover channels (16, Data Movers): what a descriptor's end leaves, and the statement on the channels.
-/
namespace Sys2Proof.Machine

theorem dmBytes_length (status : Nat) (cmp : Option Bool) (done crc : Nat) : (dmBytes status cmp done crc).length = 16 := by
  simp only [dmBytes, pack, List.length_append, le_length, List.length_nil]

/-- A core that the roles name is a house core, which may name any address in a job (R590). -/
theorem jobRange_role {s : State} {k : Nat} (role : nbit (tgetD 3 (k / 4) s.dsp.role) (k % 4) = true) (a n : Nat) (write : Bool) : jobRange s k a n write = true := by
  unfold jobRange isHouse
  rw [role]
  simp

/-- A job's end writes its result and no other memory. -/
theorem mem_jobResult {k source status : Nat} {bs : List Byte} {res : Nat} {notify : Bool} {x : State} (fine : status ≠ 0x0605)
    (mapped : mapOk x (k / 4) res 16 true = true) (reach : jobRange x k res 16 true = true) :
    (jobResult k source status bs res notify x).dxr.mem = (writeMem (k / 4) res bs x).dxr.mem := by
  have item : ∀ y, (notifyItem k source bs res y).dxr.mem = y.dxr.mem := fun y => of_one (a := .mem) (by simp)
  unfold jobResult
  dsimp only
  rw [if_pos (show (jobRange x k res 16 true && mapOk x (k / 4) res 16 true) = true by rw [mapped, reach]; rfl), if_neg fine]
  split
  · exact item _
  · rfl

/-- The end of a descriptor writes its result (R661). -/
theorem dmEnd_mem {k status done crc : Nat} {d : List Byte} {cmp : Option Bool} {x : State} (fine : status ≠ 0x0605)
    (mapped : mapOk x (k / 4) (dmRes d) 16 true = true) (role : nbit (tgetD 3 (k / 4) x.dsp.role) (k % 4) = true) :
    (dmEnd k d status cmp done crc x).dxr.mem = (writeMem (k / 4) (dmRes d) (dmBytes status cmp done crc) x).dxr.mem :=
  mem_jobResult fine mapped (jobRange_role role _ _ _)

theorem read_result {a key status done crc : Nat} {cmp : Option Bool} {x : State} (wf : Memory.wf x.dxr.mem = true) :
    readMem (writeMem key a (dmBytes status cmp done crc) x) key a 16 = dmBytes status cmp done crc := by
  rw [← dmBytes_length status cmp done crc]
  exact readMem_writeMem _ _ _ _ wf

theorem find_at {α : Type} {f : α → Bool} {h : α} {pre post l : List α} (shape : l = pre ++ h :: post) (mine : f h = true) (others : ∀ x ∈ pre, f x = false) :
    l.find? f = some h := by
  rw [shape, List.find?_append, List.find?_eq_none.mpr (fun x mem => by rw [others x mem]; exact Bool.false_ne_true), List.find?_cons_of_pos mine, Option.none_or]

/-- A descriptor that core `k` submits to one of its channels (R658). -/
def ofChannel (k : Nat) : Hand → Bool
  | .channel c _ _ => c == k
  | _ => false

/-- What another core hands over is no descriptor of this core. -/
theorem not_ofChannel {h : Hand} {k : Nat} (other : h.core ≠ k) : ofChannel k h = false := by
  cases h with
  | channel c q e => exact beq_false_of_ne other
  | _ => rfl

/-- The descriptor that a core submitted first goes to its channel (R658). -/
theorem dmRow_submits {t k op p : Nat} {d : List Byte} {pre post : List Hand} {s : State} (hands : s.dxr.hands = pre ++ Hand.channel k p d :: post)
    (first : ∀ h ∈ pre, h.core ≠ k) (takes : dmIs op (dmOp d) = true) :
    dmRow t k (dmIs op) s = .next (dmSubmit k p d (onDxr (fun x => { x with hands := pre ++ post }) (tick t s))) := by
  have mine : ofChannel k (.channel k p d) = true := beq_self_eq_true k
  have others : ∀ h ∈ pre, ofChannel k h = false := fun h mem => not_ofChannel (first h mem)
  show (match (tick t s).dxr.hands.find? (ofChannel k) with
    | some (.channel _ p d) => if dmIs op (dmOp d) = true then Host.Outcome.next (dmSubmit k p d (popHand (ofChannel k) (tick t s)).2) else .next (tick t s)
    | _ => .next (tick t s)) = _
  rw [find_at (show (tick t s).dxr.hands = _ from hands) mine others, popHand_at (s := tick t s) hands mine others]
  exact if_pos takes

theorem detect_quiet {k : Nat} {x : Site} {s : State} (unarmed : s.integ.armed = false) : detect k x false s = (false, s) := by
  unfold detect
  rw [meet_unarmed unarmed]
  rfl

/-- The descriptor that leaves a channel's head takes the halt that its end asks for. -/
theorem chan_dmPop {c : Nat} {halt : Bool} {x : DmDesc} {l : List DmDesc} {s : State} (head : (tgetD {} c s.mov.chans).queue = x :: l) :
    tgetD {} c (dmPop c halt s).mov.chans = { queue := l, halted := halt, retries := 0 } := by
  unfold dmPop
  rw [chan_onChannel]
  rw [head]
  rfl

/-- A record's read that fails never ends with 0x0605 (R660). -/
theorem dmSource_status {s : State} {seg st : Nat} {x : DmDesc} (op : dmOp x.desc = 4) (fails : dmSource s seg x = .inl st) : st ≠ 0x0605 := by
  simp only [dmSource, op] at fails
  split at fails
  · split at fails
    · split at fails
      · obtain rfl := Sum.inl.inj fails; decide
      · split at fails
        · obtain rfl := Sum.inl.inj fails; decide
        · cases fails
    · obtain rfl := Sum.inl.inj fails; decide
  · obtain rfl := Sum.inl.inj fails; decide

/-- The bytes that a descriptor moves go to their place, and its result says so (R661, R663). -/
theorem dmFinish_writes {seg n : Nat} {x : DmDesc} {rest : List DmDesc} {b : List Byte} {z : State}
    (role : nbit (tgetD 3 (x.core / 4) z.dsp.role) (x.core % 4) = true) (own : x.core / 4 = seg) (mapped : mapOk z seg (dmRes x.desc) 16 true = true)
    (wf : Memory.wf z.dxr.mem = true) (head : (tgetD {} (seg * 64 + n % 64) z.mov.chans).queue = x :: rest) :
    tgetD {} (seg * 64 + n % 64) (dmFinish (seg * 64 + n % 64) x b z).mov.chans = { queue := rest, halted := false, retries := 0 }
      ∧ readMem (dmFinish (seg * 64 + n % 64) x b z) seg (dmRes x.desc) 16 =
          dmBytes (if dmFlag x.desc 1 && Config.crc32c b != fld x.desc 32 4 then 0x0203 else 0)
            (if dmFlag x.desc 1 then some (Config.crc32c b == fld x.desc 32 4) else none) b.length (Config.crc32c b)
      ∧ (dmOp x.desc = 3 → Out.host x.func (dmDst x.desc) b ∈ (dmFinish (seg * 64 + n % 64) x b z).out)
      ∧ (dmOp x.desc ≠ 3 → dmRes x.desc + 16 ≤ dmDst x.desc ∨ dmDst x.desc + b.length ≤ dmRes x.desc →
          readMem (dmFinish (seg * 64 + n % 64) x b z) seg (dmDst x.desc) b.length = b) := by
  have segment : (seg * 64 + n % 64) / 64 = seg := by omega
  generalize seg * 64 + n % 64 = c at segment head ⊢
  generalize moved : (if dmOp x.desc = 3 then emit (.host x.func (dmDst x.desc) b) z else writeMem seg (dmDst x.desc) b z) = v
  have vMov : v.mov = z.mov := by rw [← moved]; split <;> rfl
  have vDsp : v.dsp = z.dsp := by rw [← moved]; split <;> rfl
  have vWf : Memory.wf v.dxr.mem = true := by rw [← moved]; split; exact wf; exact writeMem_wf _ _ _ _ wf
  generalize counted : bump (Reg.dmvWrLo seg) b.length (bump (Reg.dmvRdLo seg) (if dmOp x.desc = 5 then 0 else b.length) v) = w
  have wMov : w.mov = z.mov := by rw [← counted, ← vMov]; exact of_one (a := .mov) (by simp)
  have wDsp : w.dsp = z.dsp := by rw [← counted, ← vDsp]; exact of_one (a := .dsp) (by simp)
  have wMem : w.dxr.mem = v.dxr.mem := by rw [← counted]; exact of_one (a := .mem) (by simp)
  have wOut : Later v w := by rw [← counted]; exact (later_bump _ _ _).trans (later_bump _ _ _)
  generalize state : (if (dmFlag x.desc 1 && !(Config.crc32c b == fld x.desc 32 4)) = true then 0x0203 else 0) = st
  have fine : st ≠ 0x0605 := by rw [← state]; split <;> decide
  have finish : dmFinish c x b z = dmEnd x.core x.desc st (if dmFlag x.desc 1 then some (Config.crc32c b == fld x.desc 32 4) else none) b.length (Config.crc32c b)
      (dmPop c false w) := by
    unfold dmFinish
    dsimp only
    rw [segment, moved, counted, state]
  have reachable : mapOk (dmPop c false w) (x.core / 4) (dmRes x.desc) 16 true = true := by
    show mapOk w (x.core / 4) (dmRes x.desc) 16 true = true
    rw [mapOk_of wMov, own, mapped]
  have written := dmEnd_mem (done := b.length) (crc := Config.crc32c b) (cmp := if dmFlag x.desc 1 then some (Config.crc32c b == fld x.desc 32 4) else none)
    fine reachable (show nbit (tgetD 3 (x.core / 4) w.dsp.role) (x.core % 4) = true by rw [wDsp, role])
  have popped : Memory.wf (dmPop c false w).dxr.mem = true := by show Memory.wf w.dxr.mem = true; rw [wMem]; exact vWf
  rw [finish]
  refine ⟨?_, ?_, fun host => ?_, fun inside apart => ?_⟩
  · unfold dmEnd
    rw [mov_jobResult fine]
    exact chan_dmPop (by rw [wMov, head])
  · rw [readMem_of written, own, read_result popped, ← state]
    rfl
  · unfold dmEnd
    rw [out_jobResult fine]
    refine wOut _ ?_
    rw [← moved, if_pos host]
    exact List.mem_cons_self ..
  · rw [readMem_of written, own, readMem_writeMem_out _ _ _ _ _ _ popped (by rw [dmBytes_length]; omega)]
    rw [readMem_of (show (dmPop c false w).dxr.mem = v.dxr.mem from wMem), ← moved, if_neg inside]
    exact readMem_writeMem _ _ _ _ wf

/-- Settles O49. -/
theorem dataMoverChannels : Obligations.DataMoverChannels := by
  intro t k s
  refine ⟨fun c op pre post p d row hands first => ?_, ?_⟩
  · have submits : dmIs op (dmOp d) = true → exec c s = .next (dmSubmit k p d (onDxr (fun x => { x with hands := pre ++ post }) (tick t s))) := by
      intro takes
      rw [← dmRow_submits hands first takes]
      simp only [List.mem_cons, Prod.mk.injEq, List.not_mem_nil, or_false] at row
      rcases row with ⟨rfl, rfl⟩ | ⟨rfl, rfl⟩ | ⟨rfl, rfl⟩ | ⟨rfl, rfl⟩ | ⟨rfl, rfl⟩ <;> rfl
    refine ⟨fun same passes => ?_, fun st taken fails fine role mapped wf => ?_⟩
    · refine completes_of (submits (by simp [dmIs, same])) ?_
      unfold dmSubmit
      dsimp only
      rw [show dmCheck (onDxr (fun x => { x with hands := pre ++ post }) (tick t s)) k (chanKey k p) d = none from passes]
      dsimp only
      rw [chan_onChannel]
      exact ⟨rfl, rfl⟩
    · refine completes_of (submits (by rcases taken with h | h | h <;> simp [dmIs, h])) ?_
      unfold dmSubmit
      dsimp only
      rw [show dmCheck (onDxr (fun x => { x with hands := pre ++ post }) (tick t s)) k (chanKey k p) d = some st from fails]
      dsimp only
      refine ⟨?_, ?_⟩
      · rw [readMem_of (dmEnd_mem (x := onDxr (fun x => { x with hands := pre ++ post }) (tick t s)) fine mapped role)]
        exact read_result wf
      · unfold dmEnd
        rw [mov_jobResult fine]
        rfl
  · intro seg n x l differ units dram sram w tn z c head may awake_ turn finds unarmed window reads
    have runs : exec (.dmDescriptorComplete t seg n differ units dram sram) s =
        (if (detect 33 { seg := seg, func := x.func } differ w).1 = true then
          .next (dmRetry c x 0x0202 (dmWhole (min (units * 4096) (dmLen x.desc - 1)) (dmLen x.desc)) 33 (detectEf 33 { seg := seg, func := x.func } differ w)
            (detect 33 { seg := seg, func := x.func } differ w).2)
        else match dmSource (dmRead x (detect 33 { seg := seg, func := x.func } differ w).2).2 seg x with
          | .inl st =>
            if st = 0x0201 ∧ dmOp x.desc ≠ 4 then .next (dmRetry c x st (dmWhole (min (units * 4096) (dmLen x.desc - 1)) (dmLen x.desc)) 8 0
              (raise 8 { seg := seg, func := x.func } (dmRead x (detect 33 { seg := seg, func := x.func } differ w).2).2))
            else .next (dmFail c x st 0 none (dmRead x (detect 33 { seg := seg, func := x.func } differ w).2).2)
          | .inr b =>
            if (dmRead x (detect 33 { seg := seg, func := x.func } differ w).2).1 = true then
              .next (dmFail c x 0x0203 0 none (dmRead x (detect 33 { seg := seg, func := x.func } differ w).2).2)
            else if dmOp x.desc ≠ 3 ∧ !mapOk (dmRead x (detect 33 { seg := seg, func := x.func } differ w).2).2 seg (dmDst x.desc) b.length true then
              .next (dmRetry c x 0x0202 0 8 0 (raise 8 { seg := seg, func := x.func } (dmRead x (detect 33 { seg := seg, func := x.func } differ w).2).2))
            else .next (dmFinish c x b (dmRead x (detect 33 { seg := seg, func := x.func } differ w).2).2)) := by
      show execDmDescriptorComplete t seg n differ units dram sram s = _
      unfold execDmDescriptorComplete
      dsimp only
      rw [show (tgetD {} (seg * 64 + n % 64) (tick t s).mov.chans).queue = x :: l from head]
      dsimp only
      rw [if_neg (show ¬_ by
        rw [Option.isNone_eq_false_iff.mpr (show (dmRunnable (tgetD {} (seg * 64 + n % 64) (tick t s).mov.chans)).isSome from may),
          show sleepOf (tick t s) seg = 0 from awake_, show dmTurn (tick t s) seg (seg * 64 + n % 64) units x = true from turn]
        simp), show dmFinds seg dram sram (dmNext seg (seg * 64 + n % 64) (tick t s)) = (false, w) from finds]
      rfl
    refine ⟨fun differs few => ?_, fun b same torn bytes dest role own mapped wf still => ?_, fun st same fails op still => ?_⟩
    · subst differs
      rw [detect_unarmed unarmed window, if_pos rfl, detectEf_unarmed unarmed] at runs
      have raised : (raiseF 33 { seg := seg, func := x.func } 0 w).mov = w.mov := of_one (a := .mov) (by simp)
      have tallied : ∀ a u, (bumpTallyQuiet a u).mov = u.mov := fun a u => of_one (a := .mov) (by simp)
      refine completes_of runs ?_
      unfold dmRetry
      dsimp only
      rw [if_pos (by rw [raised]; exact few), if_pos rfl, tallied, chan_onChannel, raised]
    · subst same torn
      rw [detect_quiet unarmed, if_neg Bool.false_ne_true, reads, bytes] at runs
      dsimp only at runs
      rw [if_neg Bool.false_ne_true, if_neg (by rintro ⟨op, off⟩; rcases dest with h | h; exact op h; rw [h] at off; exact Bool.false_ne_true off)] at runs
      exact completes_of runs (dmFinish_writes role own mapped wf still)
    · subst same
      rw [detect_quiet unarmed, if_neg Bool.false_ne_true, reads, fails] at runs
      dsimp only at runs
      rw [if_neg (fun h => h.2 op)] at runs
      refine completes_of runs ?_
      unfold dmFail dmEnd
      dsimp only
      rw [mov_jobResult (dmSource_status op fails)]
      exact chan_dmPop still

end Sys2Proof.Machine
end

section
/-!
SUPPORT. Host windows (15, Registers): a write with reserved bits while a run is under way, and the statement that it refutes.
-/
namespace Sys2Proof.Machine

/-- A run of function 0 is under way. -/
def windowRun : State :=
  { State.reset with
    dsp := { State.reset.dsp with runs := [(0, { fn := 0, id := 0, slot := 0, seg := 0, args := [], budget := 1, cid := 0, ring := 0 })] } }

/-- All ones, written to function 0's first host-window register, set the flag of the write that is discarded, and RSVD beside it (R8). -/
theorem windowRun_flags : tgetD 0 (Reg.dspfStatus 0) (after (exec (.dspfHwWrite 0 0 0 0xFFFFFFFF 15) windowRun) windowRun).regs ≠
    tgetD 0 (Reg.dspfStatus 0) (setFlag (Reg.dspfStatus 0) 30 windowRun).regs := by
  decide

/-- Refutes O50: a host-window write while a run is under way that sets reserved bits sets RSVD of `DSPF_STATUS` as well, and the statement
has it set bit 30 alone, whatever the word. -/
theorem not_channelControlAndDram : ¬ Obligations.ChannelControlAndDram := by
  intro holds
  obtain ⟨-, windows, -⟩ := holds 0 0 windowRun
  obtain ⟨during, -⟩ := windows 0 0 0xFFFFFFFF 15 (by decide) (by decide)
  obtain ⟨u, runs, flags⟩ := during (by decide)
  have other := windowRun_flags
  rw [runs] at other
  exact other (congrArg (tgetD 0 (Reg.dspfStatus 0)) flags)

end Sys2Proof.Machine
end

section
/-!
SUPPORT. The command ports of the Pith Array (17, Commands and unlock keys): what the gate ends, and the statement on the ports.
-/
namespace Sys2Proof.Machine

/-- What the gate ends leaves with the gate's code (R683). -/
theorem ends_of_gate {code p r : Nat} {s w : State} {f : State → Host.Outcome State Fault Refusal} (gate : portGate code p s = (some r, w)) :
    (match portGate code p s with | (some c, u) => Host.Outcome.next (portResult p c u) | (none, u) => f u) = .next (portResult p r w) := by
  rw [gate]

/-- What the gate lets through goes to the command (R681, R682). -/
theorem runs_of_gate {code p : Nat} {s w : State} {f : State → Host.Outcome State Fault Refusal} (gate : portGate code p s = (none, w)) :
    (match portGate code p s with | (some c, u) => Host.Outcome.next (portResult p c u) | (none, u) => f u) = f w := by
  rw [gate]

/-- Every command of the ports ends where the gate ends it. -/
theorem exec_gated {t p code r b sec page typ ix : Nat} {us : List (Nat × List Byte)} {data : List Byte} {c : Instr} {s w : State}
    (row : (code, c) ∈ [(0x10, Instr.pageProgram t p sec page us), (0x20, .sectorErase t p sec), (0x21, .eraseSuspend t p b), (0x22, .eraseResume t p b),
      (0x30, .blankCheck t p sec), (0x40, .paramPut t p typ ix data), (0x41, .paramDelete t p typ ix), (0x42, .paramGet t p typ ix)])
    (gate : portGate code p (tick t s) = (some r, w)) : exec c s = .next (portResult p r w) := by
  simp only [List.mem_cons, Prod.mk.injEq, List.not_mem_nil, or_false] at row
  rcases row with ⟨rfl, rfl⟩ | ⟨rfl, rfl⟩ | ⟨rfl, rfl⟩ | ⟨rfl, rfl⟩ | ⟨rfl, rfl⟩ | ⟨rfl, rfl⟩ | ⟨rfl, rfl⟩ | ⟨rfl, rfl⟩ <;> exact ends_of_gate gate

theorem port_portResult (p code : Nat) (s : State) : portOf (portResult p code s) p = { portOf s p with busy := false, done := true, code := code } :=
  port_onPort p _ s

theorem bank_portResult (p code b : Nat) (s : State) : bankOp (portResult p code s) b = bankOp s b := bank_pith rfl b

/-- An operation starts where its bank's token is free, if its sector is a journal sector (R684). -/
theorem mayStart_of {s v : State} {b sec : Nat} {o : BankOp} (media : v.med = s.med) (sector : o.sector = sec)
    (token : (journalIndex sec).isSome → tokenFree s 4 (pithRes b) = true) : opMayStart v b o = true := by
  unfold opMayStart
  rw [sector, show tokenFree v 4 (pithRes b) = tokenFree s 4 (pithRes b) by unfold tokenFree; rw [media]]
  cases ring : journalIndex sec with
  | none => rfl
  | some i => rw [token (by rw [ring]; rfl)]; rfl

/-- The port that locks keeps no key, and port 0 flags it (R681). -/
theorem lockPort_tick (p t : Nat) (s : State) : (portOf (lockPort p (tick t s)) p).firstKey = false ∧ (portOf (lockPort p (tick t s)) p).keys = []
    ∧ (lockPort p (tick t s)).regs = (if p = 0 then setFlag Reg.pthStatus 30 s else s).regs := by
  obtain ⟨keys, first, regs⟩ := lockPort_facts p (tick t s)
  refine ⟨first, keys, regs.trans ?_⟩
  split <;> rfl

/-- A command that takes unlocks, but for those of port 0 and of parameters, is let through with its unlocks taken (R681). -/
theorem gate_unlocks {code p n : Nat} {s : State} (allowed : portAllowed code p = true) (need : unlocksFor code = n) (unlocked : admitted s p n = true)
    (other : p ≠ 0) (low : code < 0x40) (takes : n ≠ 0) : portGate code p s = (none, onPort p (fun q => { q with keys := q.keys.drop n }) s) := by
  subst need
  rw [gate_open allowed unlocked (fun h => absurd h other) (by simp [paramBusy, Nat.not_le.mpr low]), if_neg takes]

/-- A command without unlocks is let through as it stands (R682). -/
theorem gate_free {code p : Nat} {s : State} (allowed : portAllowed code p = true) (need : unlocksFor code = 0) (other : p ≠ 0) (low : code < 0x40) :
    portGate code p s = (none, s) := by
  rw [gate_open allowed (by simp [admitted, need]) (fun h => absurd h other) (by simp [paramBusy, Nat.not_le.mpr low]), if_pos need]

/-- A command that is not listed for port 0, of the host, comes from another port (R682). -/
theorem not_host {code p : Nat} (allowed : portAllowed code p = true) (host : portAllowed code 0 = false) : p ≠ 0 := by
  rintro rfl
  rw [host] at allowed
  cases allowed

/-- Settles O51. -/
theorem pithPorts : Obligations.PithPorts := by
  intro t p s
  refine ⟨fun fresh => ?_, fun half => ?_, fun v notFirst notSecond => ?_, fun a l keys due => ?_, fun code c sec page us b typ ix data row => ⟨fun shut => ?_, fun allowed locked => ?_⟩,
    fun sec page us allowed unlocked inArray inSector blank idle writer supply turn token => ?_, fun sec allowed unlocked inArray idle writer supply turn token => ?_,
    fun b se po st ag allowed erasing => ?_, fun b se po st ag allowed erasing => ?_, fun sec allowed inArray => ?_⟩
  · have runs : exec (.pthKeyWrite t p 0x0000A5C3) s = .next (onPort p (fun q => { q with firstKey := true }) (tick t s)) := by
      show execPthKeyWrite t p _ s = _
      unfold execPthKeyWrite
      exact if_pos ⟨rfl, by show (!(portOf s p).firstKey) = true; rw [fresh]; rfl⟩
    refine completes_of runs ?_
    rw [port_onPort]
    exact ⟨rfl, rfl, rfl⟩
  · have runs : exec (.pthKeyWrite t p 0x00005A3C) s = .next (onPort p (fun q => { q with firstKey := false, keys := q.keys ++ [max s.now t] }) (tick t s)) := by
      show execPthKeyWrite t p 0x00005A3C s = _
      unfold execPthKeyWrite
      dsimp only
      rw [if_neg (fun h => absurd h.1 (by decide))]
      exact if_pos ⟨rfl, half⟩
    refine completes_of runs ?_
    rw [port_onPort]
    exact ⟨rfl, rfl, rfl⟩
  · have runs : exec (.pthKeyWrite t p v) s = .next (lockPort p (tick t s)) := by
      show execPthKeyWrite t p v s = _
      unfold execPthKeyWrite
      dsimp only
      rw [if_neg (fun h => notFirst h.1), if_neg (fun h => notSecond h.1)]
    exact completes_of runs (lockPort_tick p t s)
  · have stale : keyStale (tick t s).now (portOf (tick t s) p) = true := by
      unfold keyStale
      rw [show (portOf (tick t s) p).keys = a :: l from keys]
      exact decide_eq_true due
    have runs : exec (.pithUnlockTimeout t p) s = .next (lockPort p (tick t s)) := by
      show execPithUnlockTimeout t p s = _
      unfold execPithUnlockTimeout
      dsimp only
      rw [if_pos stale]
    exact completes_of runs (lockPort_tick p t s)
  · refine completes_of (exec_gated row (gate_refused shut)) ?_
    rw [port_portResult]
    exact ⟨rfl, rfl, rfl⟩
  · refine completes_of (exec_gated row (gate_locked allowed locked)) ?_
    obtain ⟨first, keys, regs⟩ := lockPort_tick p t s
    rw [port_portResult]
    exact ⟨rfl, rfl, keys, first, regs⟩
  · generalize opened : onPort p (fun q => { q with keys := q.keys.drop 1 }) (tick t s) = v
    have runs : exec (.pageProgram t p sec page us) s = .next (startOp p (sec / 128) (.program sec page us p v.now) v) := by
      refine (runs_of_gate (by rw [gate_unlocks (n := 1) allowed rfl unlocked (not_host allowed (by decide)) (by decide) (by decide), opened])).trans ?_
      refine if_neg ?_
      rintro (h | h | h)
      · exact absurd inArray (Nat.not_lt.mpr h)
      · exact absurd inSector (Nat.not_lt.mpr h)
      · obtain ⟨x, mem, bad⟩ := List.any_eq_true.mp h
        obtain ⟨low, erased⟩ := blank x mem
        have still : tget (unitNo sec page x.1) v.pith.units = none := by rw [← opened]; exact erased
        simp [still, Nat.not_le.mpr low] at bad
    obtain ⟨started, port⟩ := startOp_facts (p := p) (b := sec / 128) (o := .program sec page us p v.now) (s := v) (by rw [← opened]; exact idle) (by rw [← opened]; exact writer)
      (by rw [← opened]; exact supply) (by rw [← opened]; exact turn) (mayStart_of (by rw [← opened]; rfl) rfl token) (by simp [restart])
    refine completes_of runs ?_
    rw [started, port, ← opened, port_onPort]
    exact ⟨rfl, rfl, rfl⟩
  · generalize opened : onPort p (fun q => { q with keys := q.keys.drop 2 }) (tick t s) = v
    have runs : exec (.sectorErase t p sec) s = .next (startOp p (sec / 128) (.erase sec p v.now false false) v) := by
      refine (runs_of_gate (by rw [gate_unlocks (n := 2) allowed rfl unlocked (not_host allowed (by decide)) (by decide) (by decide), opened])).trans ?_
      exact if_neg (Nat.not_le.mpr inArray)
    obtain ⟨started, port⟩ := startOp_facts (p := p) (b := sec / 128) (o := .erase sec p v.now false false) (s := v) (by rw [← opened]; exact idle) (by rw [← opened]; exact writer)
      (by rw [← opened]; exact supply) (by rw [← opened]; exact turn) (mayStart_of (by rw [← opened]; rfl) rfl token) (by simp [restart])
    refine completes_of runs ?_
    rw [started, port, ← opened, port_onPort]
    exact ⟨rfl, rfl, rfl⟩
  · have runs : exec (.eraseSuspend t p b) s = .next (portResult p 0 (setBank b (.erase se po st true ag) (tick t s))) := by
      refine (runs_of_gate (gate_free allowed rfl (not_host allowed (by decide)) (by decide))).trans ?_
      rw [show bankOp (tick t s) b = .erase se po st false ag from erasing]
    refine completes_of runs ?_
    rw [port_portResult, bank_portResult, bank_set (by simp)]
    exact ⟨rfl, rfl, rfl⟩
  · have runs : exec (.eraseResume t p b) s =
        .next (portResult p 0 (setBank b (.erase se po (max s.now t) false ag) (onPith (fun q => { q with autoSusp := q.autoSusp.erase b }) (tick t s)))) := by
      refine (runs_of_gate (gate_free allowed rfl (not_host allowed (by decide)) (by decide))).trans ?_
      rw [show bankOp (tick t s) b = .erase se po st true ag from erasing]
      rfl
    refine completes_of runs ?_
    rw [port_portResult, bank_portResult, bank_set (by simp)]
    exact ⟨rfl, rfl, rfl⟩
  · have runs : exec (.blankCheck t p sec) s = .next (portResult p 0 (setWord Reg.pthLen (BitVec.ofNat 32 (b2n (sectorBlank s sec))) (tick t s))) := by
      refine (runs_of_gate (gate_free allowed rfl (not_host allowed (by decide)) (by decide))).trans ?_
      exact if_neg (Nat.not_le.mpr inArray)
    refine completes_of runs ?_
    rw [port_portResult]
    exact ⟨rfl, rfl, rfl⟩

end Sys2Proof.Machine
end

section
/-!
SUPPORT. What the Pith Array's operations leave (17): which parts of the array each step moves, and the statement on its contents.
-/
namespace Sys2Proof.Machine

theorem bump_steady (a n : Nat) (s : State) : (bump a n s).integ.steady = s.integ.steady := by
  unfold bump post
  dsimp only
  split
  · generalize sent : postCore _ _ _ _ _ = w
    have core := postCore_steady 0 0x09 0xFFFF (pack [(1, 0xFF), (1, 2), (1, (absentSeg a).getD 0xFF), (1, 0), (2, 1), (2, 0xFFFF), (8, a % 0x1000000)])
      (setCtr a ((ctr s a + n) % 2 ^ 48) s)
    rw [sent] at core
    split
    · exact (dropped_steady ..).trans core
    · exact core
  · rfl

/-- A counter does not open or close a bypass window. -/
theorem bypassed_bump (a n : Nat) (s : State) (k : Nat) : bypassed (bump a n s) k = bypassed s k := by
  have now : (bump a n s).now = s.now := of_one (a := .now) (by simp)
  have window : (bump a n s).integ.bypass = s.integ.bypass := (congrArg Integ.bypass (bump_steady a n s) :)
  unfold bypassed
  rw [window, now]

theorem holdToken_integ (b : Nat) (o : BankOp) (s : State) : (holdToken b o s).integ = s.integ := of_one (a := .integ) (by simp)

/-- The start of what waits on a bank moves the array's operations and its waiting list alone. -/
theorem startNext_rest (b : Nat) (s : State) :
    (startNext b s).pith = { s.pith with ops := (startNext b s).pith.ops, waiting := (startNext b s).pith.waiting } := by
  unfold startNext
  split
  · split
    · split
      · rw [holdToken_pith]; rfl
      · rfl
    · rfl
  · rfl

/-- Erasing ahead moves the array's operations alone (R688). -/
theorem eraseAhead_rest (s : State) : (eraseAhead s).pith = { s.pith with ops := (eraseAhead s).pith.ops } := by
  unfold eraseAhead
  dsimp only
  split
  · split
    · rw [holdToken_pith]; rfl
    · rfl
  · rfl

/-- Erasing ahead takes an idle bank (R688). -/
theorem eraseAhead_bank {b : Nat} {s : State} (taken : bankOp s b ≠ .idle) : bankOp (eraseAhead s) b = bankOp s b := by
  unfold eraseAhead
  dsimp only
  split
  · next free =>
    simp only [Bool.and_eq_true, beq_iff_eq] at free
    obtain ⟨⟨⟨-, idle⟩, -⟩, -⟩ := free
    have other : b ≠ journalSector (sectorAfter s.pith (s.pith.ready + 1) s.pith.jsec) / 128 := fun same => taken (same ▸ idle)
    split
    · rw [bank_pith (congrArg Pith.ops (holdToken_pith ..))]
      unfold bankOp setBank onPith
      dsimp only
      unfold tset
      rw [if_neg (by simp), tgetD_tput_ne other]
    · rfl
  · rfl

theorem resumeAuto_rest (b : Nat) (s : State) :
    (resumeAuto b s).pith = { s.pith with ops := (resumeAuto b s).pith.ops, autoSusp := (resumeAuto b s).pith.autoSusp } := by
  unfold resumeAuto
  split
  · dsimp only
    split <;> rfl
  · rfl

theorem suspendFor_rest (b : Nat) (s : State) :
    (suspendFor b s).pith = { s.pith with ops := (suspendFor b s).pith.ops, autoSusp := (suspendFor b s).pith.autoSusp } := by
  unfold suspendFor
  split <;> rfl

theorem suspendFor_bank {b se po st : Nat} {ag : Bool} {s : State} (erasing : bankOp s b = .erase se po st false ag) :
    bankOp (suspendFor b s) b = .erase se po st true ag := by
  unfold suspendFor
  rw [erasing]
  exact bank_set (by simp) _ _

theorem endOp_rest (b : Nat) (s : State) : (endOp b s).pith = { s.pith with ops := (endOp b s).pith.ops } := by
  have released : ∀ r, (releaseToken r s).pith = s.pith := fun r => of_one (a := .pith) (by simp)
  unfold endOp setBank onPith
  dsimp only
  split
  · rw [released]
  · rfl

theorem endOp_integ (b : Nat) (s : State) : (endOp b s).integ = s.integ := of_one (a := .integ) (by simp)

theorem bypassed_endOp (b : Nat) (s : State) (k : Nat) : bypassed (endOp b s) k = bypassed s k := by
  unfold bypassed
  rw [endOp_integ, show (endOp b s).now = s.now from of_one (a := .now) (by simp)]

/-- What follows an operation's end: the next one starts, and the writer erases ahead. -/
theorem afterEnd (b : Nat) (s : State) :
    (eraseAhead (startNext b s)).pith = { s.pith with ops := (eraseAhead (startNext b s)).pith.ops, waiting := (eraseAhead (startNext b s)).pith.waiting } ∧
      (eraseAhead (startNext b s)).integ = s.integ ∧ ∀ p, portOf (eraseAhead (startNext b s)) p = portOf s p := by
  refine ⟨?_, ?_, fun p => ?_⟩
  · conv_lhs => rw [eraseAhead_rest, startNext_rest]
    rw [show (eraseAhead (startNext b s)).pith.waiting = (startNext b s).pith.waiting by rw [eraseAhead_rest]]
  · exact (show (eraseAhead (startNext b s)).integ = (startNext b s).integ from of_one (a := .integ) (by simp)).trans (startNext_pith b s).2.2.2
  · rw [port_pith (s := startNext b s) (u := eraseAhead (startNext b s)) (by rw [eraseAhead_rest]), port_startNext]

/-- The result of an operation reaches the port that asked for it, and counts a sector that the writer erased (R683, R688). -/
theorem opResult_facts (po code : Nat) (s : State) :
    (po ≠ writerPort → (portOf (opResult po code s) po).code = code ∧ (portOf (opResult po code s) po).done = true)
      ∧ (po = writerPort → code = 0 → (opResult po code s).pith.ready = s.pith.ready + 1)
      ∧ (opResult po code s).pith = { s.pith with ports := (opResult po code s).pith.ports, ready := (opResult po code s).pith.ready }
      ∧ (opResult po code s).integ = s.integ := by
  refine ⟨fun other => ?_, fun writer good => ?_, ?_, of_one (a := .integ) (by simp)⟩
  · unfold opResult
    rw [if_neg other, port_portResult]
    exact ⟨rfl, rfl⟩
  · unfold opResult
    rw [if_pos writer, if_pos good]
    rfl
  · unfold opResult
    split
    · split <;> rfl
    · rfl

/-- An erase takes the units of its sector and their journal entries, and counts (R678, R703). -/
theorem eraseSector_pith (se : Nat) (s : State) : (eraseSector se s).pith =
    { s.pith with units := tfilter (fun u _ => u / 2048 != se) s.pith.units, jd := s.pith.jd.filter (fun e => journalSector e.sector != se),
                  erases := tput se (tgetD 0 se s.pith.erases + 1) s.pith.erases } := by
  unfold eraseSector
  rw [pith_bump]
  rfl

/-- The end of an erase leaves its sector blank, or starts it once more (R678). -/
theorem eraseComplete_leaves {t b se po st : Nat} {s : State} (erasing : bankOp s b = .erase se po st false false) :
    (Completes (.pithEraseComplete t b true) s fun u => sectorBlank u se = true
      ∧ (po ≠ writerPort → (portOf u po).code = 0 ∧ (portOf u po).done = true) ∧ (po = writerPort → u.pith.ready = s.pith.ready + 1)
      ∧ tget se u.pith.erases = some (tgetD 0 se s.pith.erases + 1)
      ∧ u.pith.units = tfilter (fun n _ => n / 2048 != se) s.pith.units ∧ u.pith.jd = s.pith.jd.filter (fun e => journalSector e.sector != se))
    ∧ Completes (.pithEraseComplete t b false) s fun u => bankOp u b = .erase se po (max s.now t) false true := by
  have erased := eraseSector_pith se (tick t s)
  have now : (eraseSector se (tick t s)).now = max s.now t := of_one (a := .now) (t := eraseSector se (tick t s)) (s := tick t s) (by simp [eraseSector])
  refine ⟨?_, ?_⟩
  · have runs : exec (.pithEraseComplete t b true) s = .next (eraseAhead (startNext b (opResult po 0 (endOp b (eraseSector se (tick t s)))))) := by
      show execPithEraseComplete t b true s = _
      unfold execPithEraseComplete
      dsimp only
      rw [show bankOp (tick t s) b = .erase se po st false false from erasing]
      rfl
    obtain ⟨port, ready, rest, -⟩ := opResult_facts po 0 (endOp b (eraseSector se (tick t s)))
    have ended := endOp_rest b (eraseSector se (tick t s))
    rw [erased] at ended
    obtain ⟨later, -, ports⟩ := afterEnd b (opResult po 0 (endOp b (eraseSector se (tick t s))))
    have units : (eraseAhead (startNext b (opResult po 0 (endOp b (eraseSector se (tick t s)))))).pith.units = tfilter (fun n _ => n / 2048 != se) s.pith.units := by
      rw [later, rest, ended]
      rfl
    refine completes_of runs ⟨?_, fun other => ?_, fun writer => ?_, ?_, units, ?_⟩
    · unfold sectorBlank
      rw [units, tany_filter (fun k _ h => by simpa using h)]
      rfl
    · rw [ports]
      exact port other
    · rw [later]
      refine (ready writer rfl).trans ?_
      rw [ended]
      rfl
    · rw [later, rest, ended]
      exact tget_tput_self
    · rw [later, rest, ended]
      rfl
  · have runs : exec (.pithEraseComplete t b false) s = .next (setBank b (.erase se po (eraseSector se (tick t s)).now false true) (eraseSector se (tick t s))) := by
      show execPithEraseComplete t b false s = _
      unfold execPithEraseComplete
      dsimp only
      rw [show bankOp (tick t s) b = .erase se po st false false from erasing]
      rfl
    refine completes_of runs ?_
    rw [bank_set (by simp), now]

theorem pithFail_pith (se : Nat) (s : State) : (pithFail se s).pith = s.pith := of_one (a := .pith) (by simp)

/-- A sector whose second erase leaves it unclean is retired (R678). -/
theorem eraseComplete_retires {t b se po st : Nat} {s : State} (erasing : bankOp s b = .erase se po st false true) (window : bypassed (tick t s) 62 = false) :
    Completes (.pithEraseComplete t b false) s fun u =>
      Logged 62 u ∧ se ∈ u.pith.retired ∧ (po ≠ writerPort → (portOf u po).code = 5 ∧ (portOf u po).done = true) := by
  generalize retires : onPith (fun p => { p with retired := se :: p.retired }) (pithFail se (eraseSector se (tick t s))) = v
  have logged : Logged 62 v := by rw [← retires]; exact logged_mono rfl (raise_logged 62 { loc := se } _)
  have listed : se ∈ v.pith.retired := by rw [← retires]; exact List.mem_cons_self ..
  have shut : bypassed (eraseSector se (tick t s)) 62 = false := by unfold eraseSector; rw [bypassed_bump]; exact window
  have runs : exec (.pithEraseComplete t b false) s = .next (eraseAhead (startNext b (opResult po 5 (endOp b v)))) := by
    show execPithEraseComplete t b false s = _
    unfold execPithEraseComplete
    dsimp only
    rw [show bankOp (tick t s) b = .erase se po st false true from erasing]
    dsimp only
    rw [shut, retires]
    rfl
  obtain ⟨port, -, rest, integ⟩ := opResult_facts po 5 (endOp b v)
  obtain ⟨later, still, ports⟩ := afterEnd b (opResult po 5 (endOp b v))
  refine completes_of runs ⟨logged_mono (still.trans (integ.trans (endOp_integ b v))) logged, ?_, fun other => ?_⟩
  · rw [later, rest, endOp_rest]
    exact listed
  · rw [ports]
    exact port other

/-- The end of a port's program stores its units, or reports what the verify found (R683, R703). -/
theorem programComplete_stores {t b se pg po st : Nat} {us : List (Nat × List Byte)} {s : State} (programs : bankOp s b = .program se pg us po st)
    (unarmed : s.integ.armed = false) :
    (Completes (.pithProgramComplete t b true) s fun u => (portOf u po).code = 0
      ∧ u.pith.units = us.foldl (fun m x => tput (unitNo se pg x.1) (.data (fit 32 x.2)) m) s.pith.units)
    ∧ (bypassed (tick t s) 62 = false → Completes (.pithProgramComplete t b false) s fun u => (portOf u po).code = 5 ∧ Logged 62 u ∧ u.pith.units = s.pith.units) := by
  have ended := endOp_rest b (tick t s)
  refine ⟨?_, fun window => ?_⟩
  · generalize stores : onPith (fun p => { p with units := us.foldl (fun m u => tput (unitNo se pg u.1) (.data (fit 32 u.2)) m) p.units }) (endOp b (tick t s)) = v
    have runs : exec (.pithProgramComplete t b true) s = .next (startNext b (portResult po 0 v)) := by
      show execPithProgramComplete t b true s = _
      unfold execPithProgramComplete
      dsimp only
      rw [meet_unarmed (s := tick t s) unarmed]
      dsimp only
      rw [show bankOp (tick t s) b = .program se pg us po st from programs, ← stores]
      rfl
    refine completes_of runs ⟨?_, ?_⟩
    · rw [port_startNext, port_portResult]
    · rw [(startNext_pith b _).1, ← stores]
      show us.foldl _ (endOp b (tick t s)).pith.units = _
      rw [ended]
      rfl
  · generalize fails : raiseF 62 { loc := se } 0 (bumpTallyQuiet Reg.pthFail (endOp b (tick t s))) = v
    have runs : exec (.pithProgramComplete t b false) s = .next (startNext b (portResult po 5 v)) := by
      show execPithProgramComplete t b false s = _
      unfold execPithProgramComplete
      dsimp only
      rw [meet_unarmed (s := tick t s) unarmed]
      dsimp only
      rw [show bankOp (tick t s) b = .program se pg us po st from programs]
      dsimp only
      rw [bypassed_endOp, window]
      rw [show (!false && false) = false from rfl, if_neg Bool.false_ne_true, bypassed_endOp, window, if_pos (show (!false && !false) = true from rfl), fails]
    have logged : Logged 62 v := by rw [← fails]; exact raiseF_logged ..
    obtain ⟨units, -, -, integ⟩ := startNext_pith b (portResult po 5 v)
    refine completes_of runs ⟨?_, logged_mono integ logged, ?_⟩
    · rw [port_startNext, port_portResult]
    · rw [units]
      show v.pith.units = _
      rw [← fails, pith_raiseF, pith_tallyQ, ended]
      rfl

end Sys2Proof.Machine
end

section
/-!
SUPPORT. The epoch journal and the parameter records of the Pith Array (17), and the statement on the array's contents.
-/
namespace Sys2Proof.Machine

/-- What follows the end of an entry's program leaves the journal (R677). -/
theorem afterEntry (b : Nat) (s : State) :
    (startNext b (resumeAuto b s)).pith =
      { s.pith with ops := (startNext b (resumeAuto b s)).pith.ops, waiting := (startNext b (resumeAuto b s)).pith.waiting,
                    autoSusp := (startNext b (resumeAuto b s)).pith.autoSusp } ∧
      (startNext b (resumeAuto b s)).integ = s.integ := by
  refine ⟨?_, (startNext_pith b _).2.2.2.trans (of_one (a := .integ) (by simp))⟩
  conv_lhs => rw [startNext_rest, resumeAuto_rest]
  rw [show (startNext b (resumeAuto b s)).pith.autoSusp = (resumeAuto b s).pith.autoSusp by rw [startNext_rest]]

/-- The end of the program of a journal entry: it is durable, or is queued again at the front (R687). -/
theorem entryComplete_leaves {t b : Nat} {e : JEntry} {s : State} (port : ∀ se pg us po st, bankOp s b ≠ .program se pg us po st)
    (programs : s.pith.jprog = some e) (bank : journalBank e.sector = b) (unarmed : s.integ.armed = false) :
    (Completes (.pithProgramComplete t b true) s fun u => u.pith.jd = s.pith.jd ++ [e] ∧ u.pith.jprog = none)
    ∧ (bypassed (tick t s) 62 = false → Completes (.pithProgramComplete t b false) s fun u =>
      Logged 62 u ∧ u.pith.jd = s.pith.jd ∧ u.pith.jq = e :: s.pith.jq ∧ u.pith.jprog = none) := by
  generalize requeued : onPith (fun p => { p with jprog := none, jq := e :: p.jq }) (tick t s) = q
  have runs : ∀ ok, exec (.pithProgramComplete t b ok) s =
      if (!ok && bypassed (tick t s) 62) = true then .next (startNext b (resumeAuto b (durable e (raiseF 62 { loc := e.sector } 0 (tick t s)))))
      else if (!ok) = true then .next (startNext b (resumeAuto b (raiseF 62 { loc := e.sector } 0 (bumpTallyQuiet Reg.pthFail q))))
      else .next (startNext b (resumeAuto b (durable e (tick t s)))) := by
    intro ok
    show execPithProgramComplete t b ok s = _
    unfold execPithProgramComplete
    dsimp only
    rw [meet_unarmed (s := tick t s) unarmed]
    dsimp only
    cases held : bankOp s b with
    | program se pg us po st => exact absurd held (port se pg us po st)
    | idle =>
      rw [show bankOp (tick t s) b = .idle from held, show (tick t s).pith.jprog = some e from programs]
      dsimp only
      rw [if_neg (not_not_intro bank), requeued]
    | erase se po st su ag =>
      rw [show bankOp (tick t s) b = .erase se po st su ag from held, show (tick t s).pith.jprog = some e from programs]
      dsimp only
      rw [if_neg (not_not_intro bank), requeued]
  refine ⟨?_, fun window => ?_⟩
  · have goes := runs true
    rw [if_neg (by simp), if_neg (by simp)] at goes
    obtain ⟨rest, -⟩ := afterEntry b (durable e (tick t s))
    have made : (durable e (tick t s)).pith = { s.pith with jprog := none, jd := s.pith.jd ++ [e] } := by
      unfold durable
      rw [pith_bump]
      rfl
    refine completes_of goes ?_
    rw [rest, made]
    exact ⟨rfl, rfl⟩
  · have goes := runs false
    rw [if_neg (by simp [window]), if_pos (by rfl)] at goes
    obtain ⟨rest, integ⟩ := afterEntry b (raiseF 62 { loc := e.sector } 0 (bumpTallyQuiet Reg.pthFail q))
    refine completes_of goes ⟨logged_mono integ (raiseF_logged ..), ?_⟩
    rw [rest, pith_raiseF, pith_tallyQ, ← requeued]
    exact ⟨rfl, rfl, rfl⟩

/-- An entry is placed where the writer then stands, under the next number (R685). -/
theorem placeEntry_places (e : JEntry) (p : Pith) : (placeEntry e p).1.jseq = p.jseq ∧ (placeEntry e p).1.etype = e.etype ∧ (placeEntry e p).1.src = e.src
    ∧ (placeEntry e p).1.body = e.body ∧ (placeEntry e p).1.sector = (placeEntry e p).2.jsec ∧ (placeEntry e p).2.jq = p.jq
    ∧ (placeEntry e p).2.jseq = p.jseq + 1 := ⟨rfl, rfl, rfl, rfl, rfl, rfl, rfl⟩

theorem rateCount_rest (n : Nat) (s : State) :
    (rateCount n s).pith = { s.pith with rateStart := (rateCount n s).pith.rateStart, rateBytes := (rateCount n s).pith.rateBytes } := by
  unfold rateCount onPith
  dsimp only
  split <;> rfl

/-- The writer starts the program of the first queued entry (R687, R688). -/
theorem journalProgram_starts {t : Nat} {e : JEntry} {rest : List JEntry} {s : State} (queued : s.pith.jq = e :: rest) (idle : s.pith.jprog = none)
    (supply : s.pins.vppOk = true) (rate : rateOk (tick t s) (entryBytes e) = true)
    (free : bankFree s (journalBank (placeEntry e { s.pith with jq := rest }).1.sector) = true)
    (erased : (placeEntry e { s.pith with jq := rest }).1.sector = s.pith.jsec ∨ 0 < s.pith.ready) :
    Completes (.journalProgram t) s fun u => u.pith.jq = rest ∧ u.pith.jseq = s.pith.jseq + 1 ∧
      (∃ e', u.pith.jprog = some e' ∧ e'.jseq = s.pith.jseq ∧ e'.etype = e.etype ∧ e'.src = e.src ∧ e'.body = e.body ∧ e'.sector = u.pith.jsec)
      ∧ ∀ se po st ag, bankOp s (journalBank (placeEntry e { s.pith with jq := rest }).1.sector) = .erase se po st false ag →
          bankOp u (journalBank (placeEntry e { s.pith with jq := rest }).1.sector) = .erase se po st true ag := by
  obtain ⟨number, etype, src, body, sector, left, next⟩ := placeEntry_places e { s.pith with jq := rest }
  generalize placed : placeEntry e { s.pith with jq := rest } = P at number etype src body sector left next free erased ⊢
  generalize suspended : suspendFor (journalBank P.1.sector) (tick t s) = v
  generalize starts : ({ v with pith := { P.2 with jprog := some P.1, ops := v.pith.ops, autoSusp := v.pith.autoSusp } } : State) = w
  have may : ((tick t s).pins.vppOk && rateOk (tick t s) (entryBytes e) && bankFree (tick t s) (journalBank P.1.sector)
      && (P.1.sector == (tick t s).pith.jsec || decide ((tick t s).pith.ready > 0))) = true := by
    rw [show (tick t s).pins.vppOk = true from supply, rate, show bankFree (tick t s) (journalBank P.1.sector) = true from free]
    rcases erased with same | ahead
    · rw [show (P.1.sector == (tick t s).pith.jsec) = true from beq_iff_eq.mpr same]
      rfl
    · rw [show decide ((tick t s).pith.ready > 0) = true from decide_eq_true ahead]
      simp
  have runs : exec (.journalProgram t) s = .next (eraseAhead (rateCount (entryBytes e) w)) := by
    show execJournalProgram t s = _
    unfold execJournalProgram
    dsimp only
    split
    · next e₁ rest₁ front _ =>
      obtain ⟨rfl, rfl⟩ := List.cons.inj (front.symm.trans queued)
      subst placed suspended starts
      exact if_pos may
    · next other => exact absurd idle (other e rest queued)
  have kept : (eraseAhead (rateCount (entryBytes e) w)).pith =
      { w.pith with ops := (eraseAhead (rateCount (entryBytes e) w)).pith.ops, rateStart := (rateCount (entryBytes e) w).pith.rateStart,
                    rateBytes := (rateCount (entryBytes e) w).pith.rateBytes } := by
    conv_lhs => rw [eraseAhead_rest, rateCount_rest]
  refine completes_of runs ⟨?_, ?_, ⟨P.1, ?_, number, etype, src, body, ?_⟩, fun se po st ag erasing => ?_⟩
  · rw [kept, ← starts]; exact left
  · rw [kept, ← starts]; exact next
  · rw [kept, ← starts]
  · rw [kept, ← starts]; exact sector
  · have held : bankOp (rateCount (entryBytes e) w) (journalBank P.1.sector) = .erase se po st true ag := by
      rw [bank_pith (s := v) (by rw [rateCount_rest, ← starts]), ← suspended]
      exact suspendFor_bank erasing
    rw [eraseAhead_bank (by rw [held]; simp), held]

theorem writeTriad_rest (ty ix : Nat) (value : List Byte) (s : State) :
    (writeTriad ty ix value s).pith = { s.pith with hgen := (writeTriad ty ix value s).pith.hgen, triads := (writeTriad ty ix value s).pith.triads } :=
  pith_putTriad ..

/-- The start of the next epoch, where the writer places it (R689). -/
def epochStart (s : State) : JEntry × Pith :=
  placeEntry { etype := 10, src := 0xFF, key := none, body := pack [(8, s.pith.epoch + 1), (8, prevEpochStart s)] } s.pith

/-- The live entries, placed after it (R689). -/
def epochCopies (s : State) : List JEntry × Pith :=
  (epochEntries s).foldl (fun a e => (a.1 ++ [(placeEntry e a.2).1], (placeEntry e a.2).2)) ([], (epochStart s).2)

/-- A new epoch's journal is its start and the live entries (R689, R690). -/
theorem newEpoch_runs {t : Nat} {s : State} (low : freeSectors s < fieldOf s Reg.pthJcfg 23 16) (idle : s.pith.jprog = none) (supply : s.pins.vppOk = true) :
    ∃ w, exec (.newEpoch t) s = .next (eraseAhead (writeTriad 4 0 (epochHead (epochStart (tick t s)).1 ((tick t s).pith.epoch + 1)) w)) ∧
      w.pith = { (epochCopies (tick t s)).2 with
        jd := (epochStart (tick t s)).1 :: (epochCopies (tick t s)).1, jhead := (epochStart (tick t s)).1.sector, epoch := (tick t s).pith.epoch + 1 } := by
  refine ⟨?_, ?runs, ?pith⟩
  case runs =>
    show execNewEpoch t s = _
    unfold execNewEpoch
    dsimp only
    rw [if_pos (show freeSectors (tick t s) < fieldOf (tick t s) Reg.pthJcfg 23 16 ∧ (tick t s).pith.jprog = none ∧ (tick t s).pins.vppOk = true from
      ⟨low, idle, supply⟩)]
    rfl
  case pith =>
    rw [pith_bump]
    dsimp only [epochCopies, epochStart]

/-- A new epoch writes its start and the live entries afresh, and moves the head (R689, R690). -/
theorem newEpoch_rewrites {t : Nat} {s : State} (low : freeSectors s < fieldOf s Reg.pthJcfg 23 16) (idle : s.pith.jprog = none) (supply : s.pins.vppOk = true) :
    Completes (.newEpoch t) s fun u =>
      ∃ e l, u.pith.jd = e :: l ∧ e.etype = 10 ∧ e.jseq = s.pith.jseq ∧ e.body = pack [(8, s.pith.epoch + 1), (8, prevEpochStart s)]
        ∧ l.map (fun x => (x.etype, x.src, x.body)) = (epochEntries s).map (fun x => (x.etype, x.src, x.body))
        ∧ u.pith.epoch = s.pith.epoch + 1 ∧ u.pith.jhead = e.sector
        ∧ ∃ c, vote (triadOf u 4 0) = .value c ∧ c.value = fit 24 (epochHead e (s.pith.epoch + 1)) := by
  obtain ⟨w, runs, wPith⟩ := newEpoch_runs (t := t) low idle supply
  have start : (epochStart (tick t s)).1.etype = 10 ∧ (epochStart (tick t s)).1.jseq = s.pith.jseq ∧
      (epochStart (tick t s)).1.body = pack [(8, s.pith.epoch + 1), (8, prevEpochStart s)] := ⟨rfl, rfl, rfl⟩
  have copies : (epochCopies (tick t s)).1.map (fun x => (x.etype, x.src, x.body)) = (epochEntries s).map (fun x => (x.etype, x.src, x.body)) :=
    place_fold (epochEntries s) [] (epochStart (tick t s)).2
  generalize epochStart (tick t s) = P at runs wPith start
  generalize epochCopies (tick t s) = F at wPith copies
  obtain ⟨etype, number, body⟩ := start
  generalize written : writeTriad 4 0 (epochHead P.1 ((tick t s).pith.epoch + 1)) w = v at runs
  have kept : (eraseAhead v).pith = { w.pith with ops := (eraseAhead v).pith.ops, hgen := v.pith.hgen, triads := v.pith.triads } := by
    rw [← written]
    conv_lhs => rw [eraseAhead_rest, writeTriad_rest]
  refine completes_of runs ⟨P.1, F.1, ?_, etype, number, body, copies, ?_, ?_, ?_⟩
  · rw [kept, wPith]
  · rw [kept, wPith]
    rfl
  · rw [kept, wPith]
  · rw [show triadOf (eraseAhead v) 4 0 = triadOf v 4 0 by unfold triadOf; rw [kept], ← written]
    exact vote_write ..

/-- A parameter command that passes the gate, its unlocks taken (R681 to R683). -/
theorem gate_params {code p n t : Nat} {s : State} (allowed : portAllowed code p = true) (need : unlocksFor code = n) (unlocked : admitted (tick t s) p n = true)
    (host : p = 0 → s.brc.active = false) (none_ : s.pith.waitPuts = []) :
    portGate code p (tick t s) = (none, if n = 0 then tick t s else onPort p (fun q => { q with keys := q.keys.drop n }) (tick t s)) := by
  subst need
  exact gate_open allowed unlocked host (by unfold paramBusy; rw [show (tick t s).pith.waitPuts = [] from none_]; simp)

/-- Settles O52. -/
theorem pithContents : Obligations.PithContents := by
  intro t s
  refine ⟨fun b se po st erasing => eraseComplete_leaves erasing, fun b se po st erasing window => eraseComplete_retires erasing window,
    fun b se pg po st us programs unarmed => programComplete_stores programs unarmed, fun b e port programs bank unarmed => entryComplete_leaves port programs bank unarmed,
    fun e rest n queued idle supply rate place free erased => ?_, fun low idle supply => newEpoch_rewrites low idle supply,
    fun p typ ix data d allowed unlocked host given index len supply none_ room => ?_,
    fun p typ ix allowed unlocked host supply none_ => ?_, fun p typ ix allowed host none_ => ?_⟩
  · subst place
    exact journalProgram_starts queued idle supply rate free erased
  · generalize opened : onPort p (fun q => { q with keys := q.keys.drop 1 }) (tick t s) = v
    have gate : portGate 0x40 p (tick t s) = (none, v) := by rw [← opened]; exact gate_params (n := 1) allowed rfl unlocked (fun h => (host h).1) none_
    have permitted : p = 0 → paramByHost v typ = true := fun zero => by rw [← opened]; exact (host zero).2
    have vPith : v.pith.params = s.pith.params ∧ v.pith.pgen = s.pith.pgen := by rw [← opened]; exact ⟨rfl, rfl⟩
    have runs : exec (.paramPut t p typ ix data) s = .next (portResult p 0 (setParams (tput (typ * 256 + ix) d s.pith.params) v)) := by
      refine (runs_of_gate gate).trans ?_
      dsimp only
      rw [show (if p = 0 then slice v.pith.stage 0 (bits (word v Reg.pthLen) 12 0) else data) = d by rw [given, ← opened]; rfl]
      rw [if_neg (by simp [index, len]), if_neg (by
        rintro ⟨zero, refused⟩
        rw [permitted zero] at refused
        exact Bool.false_ne_true refused)]
      unfold paramUpdate
      rw [if_neg (by rw [← opened, show (onPort p _ (tick t s)).pins.vppOk = true from supply]; exact Bool.false_ne_true)]
      dsimp only
      rw [vPith.1, if_neg (Nat.not_lt.mpr room)]
    refine completes_of runs ?_
    rw [port_portResult, port_setParams, ← opened, port_onPort]
    have put := setp (tput (typ * 256 + ix) d s.pith.params) v
    rw [vPith.2, ← opened] at put
    exact ⟨(congrArg Pith.params put :), (congrArg Pith.pgen put :), (congrArg Pith.pvalid put :), rfl, rfl, rfl⟩
  · generalize opened : onPort p (fun q => { q with keys := q.keys.drop 1 }) (tick t s) = v
    have gate : portGate 0x41 p (tick t s) = (none, v) := by rw [← opened]; exact gate_params (n := 1) allowed rfl unlocked (fun h => (host h).1) none_
    have permitted : p = 0 → paramByHost v typ = true := fun zero => by rw [← opened]; exact (host zero).2
    have vPith : v.pith.params = s.pith.params ∧ v.pith.pgen = s.pith.pgen := by rw [← opened]; exact ⟨rfl, rfl⟩
    have runs : exec (.paramDelete t p typ ix) s = .next (paramUpdate p (typ * 256 + ix) none v) := by
      refine (runs_of_gate gate).trans (if_neg ?_)
      rintro ⟨zero, refused⟩
      rw [permitted zero] at refused
      exact Bool.false_ne_true refused
    have update : paramUpdate p (typ * 256 + ix) none v = if (tget (typ * 256 + ix) s.pith.params).isNone then portResult p 6 v
        else portResult p 0 (setParams (tdel (typ * 256 + ix) s.pith.params) v) := by
      unfold paramUpdate
      rw [if_neg (by rw [← opened, show (onPort p _ (tick t s)).pins.vppOk = true from supply]; exact Bool.false_ne_true)]
      dsimp only
      rw [vPith.1]
    rw [update] at runs
    refine ⟨fun absent => ?_, fun there => ?_⟩
    · rw [absent, if_pos (by rfl)] at runs
      refine completes_of runs ⟨vPith.1, ?_⟩
      rw [port_portResult]
    · rw [if_neg (by simpa using there)] at runs
      refine completes_of runs ?_
      rw [port_portResult]
      have deleted := setp (tdel (typ * 256 + ix) s.pith.params) v
      rw [vPith.2] at deleted
      exact ⟨(congrArg Pith.params deleted :), (congrArg Pith.pgen deleted :), rfl⟩
  · have gate : portGate 0x42 p (tick t s) = (none, tick t s) := gate_params (n := 0) allowed rfl (by simp [admitted]) host none_
    refine ⟨fun absent => ?_, fun d there => ?_⟩
    · have runs : exec (.paramGet t p typ ix) s = .next (portResult p 6 (tick t s)) := by
        refine (runs_of_gate gate).trans ?_
        rw [show tget (typ * 256 + ix) (tick t s).pith.params = none from absent]
      refine completes_of runs ?_
      rw [port_portResult]
      exact ⟨rfl, rfl⟩
    · have runs : exec (.paramGet t p typ ix) s =
          if p = 0 then .next (portResult 0 0 (setWord Reg.pthLen (BitVec.ofNat 32 d.length) (onPith (fun q => { q with stage := patch q.stage 0 d }) (tick t s))))
          else .next (portResult p 0 (tick t s)) := by
        refine (runs_of_gate gate).trans ?_
        rw [show tget (typ * 256 + ix) (tick t s).pith.params = some d from there]
      by_cases zero : p = 0
      · rw [if_pos zero] at runs
        refine completes_of runs ?_
        rw [zero, port_portResult]
        exact ⟨rfl, fun _ => ⟨rfl, rfl⟩⟩
      · rw [if_neg zero] at runs
        refine completes_of runs ?_
        rw [port_portResult]
        exact ⟨rfl, fun h => absurd h zero⟩

end Sys2Proof.Machine
end

section
/-!
SUPPORT. The lifecycle commands (19, Transitions): what a command that its checks pass leaves, and the statement on the commands.
-/
namespace Sys2Proof.Machine

/-- A lifecycle command is taken: its confirmation is cleared (R735). -/
def lcsTaken (t : Nat) (s : State) : State := onLife (fun l => { l with confirm := none }) (tick t s)

/-- A command whose state, confirmation and authority are right is carried out (R734 to R736). -/
theorem lcs_passes {op t : Nat} {s v : State} (unlocked : flagOf s Reg.lcsCtrl 31 = false) (listed : lcsListed s op = true) (prepared : op = 2 → s.life.prepared = true)
    (confirmed : lcsConfirmValue op = none ∨ s.life.confirm = lcsConfirmValue op) (idle : lcsBusy s op = false) (auth : lcsAuth op (lcsTaken t s) = (true, v)) :
    lcsCmdWrite op (tick t s) = lcsRun op v := by
  rw [lcs_tick op t s unlocked, lcs_go (s := tick t s) listed prepared confirmed idle, show lcsAuth op (onLife _ (tick t s)) = (true, v) from auth]
  rfl

/-- A command whose chain or grant is refused ends with code 2 (R738, R741). -/
theorem lcs_refused {op t : Nat} {s v : State} (unlocked : flagOf s Reg.lcsCtrl 31 = false) (listed : lcsListed s op = true) (prepared : op = 2 → s.life.prepared = true)
    (confirmed : lcsConfirmValue op = none ∨ s.life.confirm = lcsConfirmValue op) (idle : lcsBusy s op = false) (auth : lcsAuth op (lcsTaken t s) = (false, v)) :
    lcsCmdWrite op (tick t s) = lcsStop 2 v := by
  rw [lcs_tick op t s unlocked, lcs_go (s := tick t s) listed prepared confirmed idle, show lcsAuth op (onLife _ (tick t s)) = (false, v) from auth]
  rfl

/-- What ends a command without carrying it out leaves all but its result (R734 to R736). -/
theorem lcsStop_leaves (code t : Nat) (s : State) :
    (lcsStop code (lcsTaken t s)).life = { s.life with confirm := none, done := true, code := code } ∧ (lcsStop code (lcsTaken t s)).pith = s.pith
      ∧ (lcsStop code (lcsTaken t s)).dbg = s.dbg ∧ (lcsStop code (lcsTaken t s)).history = s.history := ⟨rfl, rfl, rfl, rfl⟩

theorem lcsAuth_none {op : Nat} {s : State} (chain : op ≠ 2) (grant : op = 5 → s.life.vault = false) : lcsAuth op s = (true, s) := by
  unfold lcsAuth
  rw [if_neg chain, if_neg (by rintro ⟨return_, vault⟩; rw [grant return_] at vault; cases vault)]

/-- A chain that fits is accepted (R738). -/
theorem lcsAuth_chain {s : State} (unarmed : s.integ.armed = false) (fits : chainFits s (lcsBytes s 4092) = true) : lcsAuth 2 s = (true, s) := by
  unfold lcsAuth
  rw [if_pos rfl, meet_unarmed unarmed, fits]
  rfl

theorem lcsAuth_noChain {s : State} (unarmed : s.integ.armed = false) (fails : chainFits s (lcsBytes s 4092) = false) : lcsAuth 2 s = (false, refuseAuth 0 s) := by
  unfold lcsAuth
  rw [if_pos rfl, meet_unarmed unarmed, fails]
  rfl

/-- A grant that fits is accepted, and takes its nonce (R740, R741). -/
theorem lcsAuth_grant {s : State} (unarmed : s.integ.armed = false) (vault : s.life.vault = true) (checks : grantsOff s = false)
    (fits : grantFits s (lcsBytes s 4096) [3] = true) : lcsAuth 5 s = (true, onLife (fun l => { l with nonceOk := false }) s) := by
  unfold lcsAuth checkGrant
  rw [if_neg (by decide), if_pos ⟨rfl, vault⟩, if_neg (by rw [checks]; exact Bool.false_ne_true), meet_unarmed unarmed, fits]
  rfl

/-- A grant that does not fit is refused, and counts (R742). -/
theorem lcsAuth_noGrant {s : State} (unarmed : s.integ.armed = false) (vault : s.life.vault = true) (checks : grantsOff s = false)
    (fails : grantFits s (lcsBytes s 4096) [3] = false) :
    lcsAuth 5 s = (false, refuseAuth 0 (onLife (fun l => { l with nonceOk := false, refusals := l.refusals + 1 }) s)) := by
  unfold lcsAuth checkGrant
  rw [if_neg (by decide), if_pos ⟨rfl, vault⟩, if_neg (by rw [checks]; exact Bool.false_ne_true), meet_unarmed unarmed, fails]
  rfl

theorem refuseAuth_logged (ef : Nat) (s : State) : Logged 61 (refuseAuth ef s) := raiseF_logged ..

theorem lcsWaits_not {op : Nat} {s : State} (other : op ≠ 1) (supply : s.pins.vppOk = true) : lcsWaits s op = false := by
  unfold lcsWaits
  rw [if_neg other, supply]
  rfl

/-- The end of a command changes the lifecycle part alone. -/
theorem lcsEnd_leaves (code : Nat) (s : State) : (lcsEnd code s).life = { s.life with busy := false, op := 0, done := true, code := code } ∧ (lcsEnd code s).dbg = s.dbg
    ∧ (lcsEnd code s).pith = s.pith := ⟨rfl, rfl, rfl⟩

/-- A transition's end: the new state, no debug session, and the word (R732, R739, R750). -/
theorem lcsEnd_transition (l : LState) (s : State) :
    (lcsEnd 0 (transition l s)).life = { s.life with lstate := l, since := s.cad.frame, busy := false, op := 0, done := true, code := 0 }
      ∧ (lcsEnd 0 (transition l s)).dbg.level = .closed
      ∧ ∃ c, vote (triadOf (lcsEnd 0 (transition l s)) 1 0) = .value c ∧ c.value = fit 24 (lifeValue { s.life with lstate := l, since := s.cad.frame }) := by
  obtain ⟨entered, closed, -⟩ := transition_facts l s
  obtain ⟨life, dbg, pith⟩ := lcsEnd_leaves 0 (transition l s)
  rw [life, dbg, triad_pith pith, entered]
  exact ⟨rfl, closed, vote_life l s⟩

/-- PROVISION keeps the chain as the record of type 7 (R738, R698). -/
theorem provision_leaves (s : State) : tget 0x700 (lcsEffect 2 s).pith.params = some (lcsBytes s 4092) ∧ (lcsEffect 2 s).life = { s.life with lstate := .provisioned, since := s.cad.frame }
    ∧ (lcsEffect 2 s).dbg.level = .closed := by
  generalize kept : setParams (tput 0x700 (lcsBytes s 4092) s.pith.params) s = v
  have life : v.life = s.life := by rw [← kept]; exact of_one (a := .life) (by simp)
  have cad : v.cad = s.cad := by rw [← kept]; exact of_one (a := .cad) (by simp)
  have params : v.pith.params = tput 0x700 (lcsBytes s 4092) s.pith.params := by rw [← kept, setp]
  generalize slot : writeSlot 1 true 2 0 (s.life.heldSalt.getD []) v = w
  have wParams : w.pith.params = v.pith.params := by rw [← slot]; exact params_writeTriad ..
  have effect : lcsEffect 2 s = transition .provisioned w := by simp only [lcsEffect, kept, slot]
  obtain ⟨entered, closed, pith⟩ := transition_facts .provisioned w
  rw [effect, pith, entered]
  refine ⟨?_, ?_, closed⟩
  · unfold enterLife commitLife
    rw [params_writeTriad]
    show tget 0x700 w.pith.params = _
    rw [wParams, params]
    exact tget_tput_self
  · rw [← slot, life_writeSlot, cad_writeSlot, life, cad]

/-- VAULT_ENTER sets VAULT, leaves the lifecycle state, and ends Full (R746, R747). -/
theorem vaultEnter_leaves {s : State} (open_ : s.life.vault = false) : (lcsEffect 4 s).life = { s.life with vault := true, vaultFrame := s.cad.frame }
    ∧ (lcsEffect 4 s).dbg.level ≠ .full
    ∧ ∃ c, vote (triadOf (lcsEffect 4 s) 1 0) = .value c ∧ c.value = fit 24 (lifeValue { s.life with vault := true, vaultFrame := s.cad.frame }) := by
  generalize enters : withModes 1 (fun s => commitLife (onLife (fun l => { l with vault := true, vaultFrame := s.cad.frame }) s)) s = w
  have wLife : w.life = { s.life with vault := true, vaultFrame := s.cad.frame } := by
    rw [← enters, life_withModes]
    exact life_writeTriad ..
  have wPith : w.pith = (commitLife (onLife (fun l => { l with vault := true, vaultFrame := s.cad.frame }) s)).pith := by rw [← enters, pith_withModes]
  have effect : lcsEffect 4 s = if w.dbg.level = .full then setLevel .observe w else w := by
    simp only [lcsEffect, open_, Bool.false_eq_true, if_false, enters]
  have kept : (lcsEffect 4 s).life = w.life ∧ (lcsEffect 4 s).pith = w.pith := by
    rw [effect]
    split
    · exact ⟨life_setLevel .., pith_setLevel ..⟩
    · exact ⟨rfl, rfl⟩
  refine ⟨kept.1.trans wLife, ?_, ?_⟩
  · rw [effect]
    split
    · rw [setLevel_level]; decide
    · assumption
  · rw [triad_pith (kept.2.trans wPith)]
    exact vote_write ..

theorem exec_lcs {t op : Nat} {c : Instr} (row : (c, op) ∈ [(Instr.lcsPrepare t, 1), (.lcsProvision t, 2), (.lcsSeal t, 3), (.lcsVaultEnter t, 4), (.lcsReturn t, 5), (.lcsScrap t, 6),
    (.lcsChallenge t, 7)]) (s : State) : exec c s = .next (lcsCmdWrite op (tick t s)) := by
  simp only [List.mem_cons, Prod.mk.injEq, List.not_mem_nil, or_false] at row
  rcases row with ⟨rfl, rfl⟩ | ⟨rfl, rfl⟩ | ⟨rfl, rfl⟩ | ⟨rfl, rfl⟩ | ⟨rfl, rfl⟩ | ⟨rfl, rfl⟩ | ⟨rfl, rfl⟩ <;> rfl

/-- RETURN, its checks passed, takes the part to RETURNED (R743). -/
theorem return_enters {s : State} (listed : lcsListed s 5 = true) (supply : s.pins.vppOk = true) :
    (lcsRun 5 s).life = { s.life with vault := false, lstate := .returned, since := s.cad.frame, busy := false, op := 0, done := true, code := 0 }
      ∧ (lcsRun 5 s).dbg.level = .closed := by
  have effect : lcsEffect 5 s = enterReturned s := by simp only [lcsEffect]
  rw [lcs_run (by decide) listed (by simp) (lcsWaits_not (by decide) supply), effect]
  obtain ⟨entered, closed⟩ := returned_facts s
  obtain ⟨life, dbg, -⟩ := lcsEnd_leaves 0 (enterReturned s)
  rw [life, dbg, entered]
  exact ⟨rfl, closed⟩

/-- Settles O53. -/
theorem lifecycleCommands : Obligations.LifecycleCommands := by
  intro t s unlocked
  refine ⟨fun c op row => ⟨fun shut => ?_, fun listed prepared needs other => ?_, fun listed prepared confirmed notChallenge busy => ?_⟩, fun blank idle ready => ?_,
    fun blank prepared idle unarmed => ⟨fun fits supply => ?_, fun fails => ?_⟩, fun state confirmed idle supply => ?_,
    fun state confirmed idle => ⟨fun vault => ?_, fun vault supply => ?_⟩,
    fun listed confirmed idle unarmed => ⟨fun vault supply => ?_, fun vault supply checks fits => ?_, fun vault checks fails => ?_⟩,
    fun state confirmed idle supply => ?_, fun alive => ⟨fun ready => ?_, fun ready => ?_⟩⟩
  · refine completes_of (exec_lcs row s) ?_
    rw [lcs_tick op t s unlocked, lcs_one (s := tick t s) shut]
    exact lcsStop_leaves 1 t s
  · refine completes_of (exec_lcs row s) ?_
    rw [lcs_tick op t s unlocked, lcs_four (s := tick t s) listed prepared needs other]
    exact lcsStop_leaves 4 t s
  · refine completes_of (exec_lcs row s) ?_
    rw [lcs_tick op t s unlocked, lcs_three (s := tick t s) listed prepared confirmed (by
      show lcsBusy s op = true
      rcases busy with h | h <;> simp [lcsBusy, h, notChallenge])]
    exact lcsStop_leaves 3 t s
  · have runs : lcsCmdWrite 1 (tick t s) = lcsEnd 0 (lcsEffect 1 (lcsTaken t s)) := by
      rw [lcs_passes unlocked (by simp [lcsListed, blank]) (by simp) (.inl rfl) idle (lcsAuth_none (by decide) (by simp))]
      refine lcs_run (by decide) (by simp [lcsListed, lcsTaken, onLife, tick, blank]) (by simp) ?_
      show (!rngReady s) = false
      rw [ready]
      rfl
    refine completes_of rfl ?_
    rw [runs]
    exact ⟨fit 16 (Config.random s.draws 16), length_fit .., rfl, rfl, rfl, blank, rfl, rfl, rfl, rfl⟩
  · have salt : s.life.heldSalt.isSome = true := by
      unfold chainFits at fits
      simp only [Bool.and_eq_true] at fits
      exact fits.1.1.2
    have runs : lcsCmdWrite 2 (tick t s) = lcsEnd 0 (lcsEffect 2 (lcsTaken t s)) := by
      rw [lcs_passes unlocked (by simp [lcsListed, blank]) (fun _ => prepared) (.inl rfl) idle (lcsAuth_chain (s := lcsTaken t s) unarmed fits)]
      exact lcs_run (by decide) (by simp [lcsListed, lcsTaken, onLife, tick, blank]) (fun _ => salt) (lcsWaits_not (by decide) supply)
    obtain ⟨chain, life, closed⟩ := provision_leaves (lcsTaken t s)
    refine completes_of rfl ?_
    obtain ⟨ended, dbg, pith⟩ := lcsEnd_leaves 0 (lcsEffect 2 (lcsTaken t s))
    rw [runs, ended, dbg, pith, life]
    exact ⟨rfl, rfl, chain, closed, rfl, rfl⟩
  · refine completes_of rfl ?_
    rw [lcs_refused unlocked (by simp [lcsListed, blank]) (fun _ => prepared) (.inl rfl) idle (lcsAuth_noChain (s := lcsTaken t s) unarmed fails)]
    refine ⟨logged_mono rfl (refuseAuth_logged 0 (lcsTaken t s)), ?_, rfl, pith_refuse ..⟩
    exact (congrArg Life.lstate (life_refuse 0 (lcsTaken t s)) :).trans blank
  · have runs : lcsCmdWrite 3 (tick t s) = lcsEnd 0 (transition .sealed (lcsTaken t s)) := by
      rw [lcs_passes (op := 3) unlocked (by simp [lcsListed, state]) (by simp) (.inr confirmed) idle (lcsAuth_none (by decide) (by simp))]
      exact lcs_run (by decide) (by simp [lcsListed, lcsTaken, onLife, tick, state]) (by simp) (lcsWaits_not (by decide) supply)
    obtain ⟨life, closed, word_⟩ := lcsEnd_transition .sealed (lcsTaken t s)
    refine completes_of rfl ?_
    rw [runs, life]
    exact ⟨rfl, rfl, rfl, closed, rfl, rfl, word_⟩
  · have runs : lcsCmdWrite 4 (tick t s) = lcsEnd 0 (lcsTaken t s) := by
      rw [lcs_passes (op := 4) unlocked (by rcases state with h | h <;> simp [lcsListed, h]) (by simp) (.inr confirmed) idle (lcsAuth_none (by decide) (by simp)),
        lcs_run (by decide) (by rcases state with h | h <;> simp [lcsListed, lcsTaken, onLife, tick, h]) (by simp) (by simp [lcsWaits, lcsTaken, onLife, tick, vault])]
      exact congrArg (lcsEnd 0) (if_pos vault)
    refine completes_of rfl ?_
    rw [runs]
    exact ⟨rfl, rfl, rfl⟩
  · have runs : lcsCmdWrite 4 (tick t s) = lcsEnd 0 (lcsEffect 4 (lcsTaken t s)) := by
      rw [lcs_passes (op := 4) unlocked (by rcases state with h | h <;> simp [lcsListed, h]) (by simp) (.inr confirmed) idle (lcsAuth_none (by decide) (by simp))]
      exact lcs_run (by decide) (by rcases state with h | h <;> simp [lcsListed, lcsTaken, onLife, tick, h]) (by simp) (lcsWaits_not (by decide) supply)
    obtain ⟨life, notFull, word_⟩ := vaultEnter_leaves (s := lcsTaken t s) vault
    refine completes_of rfl ?_
    obtain ⟨ended, dbg, pith⟩ := lcsEnd_leaves 0 (lcsEffect 4 (lcsTaken t s))
    rw [runs, ended, dbg, triad_pith pith, life]
    exact ⟨rfl, rfl, rfl, notFull, rfl, rfl, word_⟩
  · obtain ⟨life, closed⟩ := return_enters (s := lcsTaken t s) listed supply
    refine completes_of rfl ?_
    rw [lcs_passes unlocked listed (by simp) (.inr confirmed) idle (lcsAuth_none (s := lcsTaken t s) (by decide) (fun _ => vault)), life]
    exact ⟨rfl, rfl, rfl, closed, rfl, rfl⟩
  · obtain ⟨life, closed⟩ := return_enters (s := onLife (fun l => { l with nonceOk := false }) (lcsTaken t s)) listed supply
    refine completes_of rfl ?_
    rw [lcs_passes unlocked listed (by simp) (.inr confirmed) idle (lcsAuth_grant (s := lcsTaken t s) unarmed vault checks fits), life]
    exact ⟨rfl, rfl, rfl, closed, rfl⟩
  · have life := life_refuse 0 (onLife (fun l => { l with nonceOk := false, refusals := l.refusals + 1 }) (lcsTaken t s))
    refine completes_of rfl ?_
    rw [lcs_refused unlocked listed (by simp) (.inr confirmed) idle (lcsAuth_noGrant (s := lcsTaken t s) unarmed vault checks fails)]
    exact ⟨logged_mono rfl (refuseAuth_logged 0 _), (congrArg Life.lstate life :), (congrArg Life.vault life :).trans vault, (congrArg Life.nonceOk life :),
      (congrArg Life.refusals life :), rfl, pith_refuse ..⟩
  · have runs : lcsCmdWrite 6 (tick t s) = lcsEnd 0 (transition .scrapped (onLife (fun l => { l with drkCut := true }) (lcsTaken t s))) := by
      rw [lcs_passes (op := 6) unlocked (by simp [lcsListed, state]) (by simp) (.inr confirmed) idle (lcsAuth_none (by decide) (by simp))]
      exact lcs_run (by decide) (by simp [lcsListed, lcsTaken, onLife, tick, state]) (by simp) (lcsWaits_not (by decide) supply)
    obtain ⟨life, closed, word_⟩ := lcsEnd_transition .scrapped (onLife (fun l => { l with drkCut := true }) (lcsTaken t s))
    refine completes_of rfl ?_
    rw [runs, life]
    exact ⟨rfl, rfl, closed, rfl, rfl, word_⟩
  all_goals
    have runs : lcsCmdWrite 7 (tick t s) = challenge (lcsTaken t s) :=
      lcs_passes unlocked (by simpa [lcsListed] using alive) (by simp) (.inl rfl) rfl (lcsAuth_none (by decide) (by simp))
    refine completes_of rfl ?_
    rw [runs]
    unfold challenge
  · rw [if_pos (show rngReady (lcsTaken t s) = true from ready)]
    exact ⟨rfl, rfl, rfl, rfl, rfl, rfl⟩
  · rw [if_neg (by rw [show rngReady (lcsTaken t s) = false from ready]; exact Bool.false_ne_true)]
    exact ⟨rfl, rfl, rfl⟩

end Sys2Proof.Machine
end

section
/-!
SUPPORT. The supply of the Pith Array (21, Supplies): an operation that waits for a bank in which the journal writer programs, and the statement
that it refutes.
-/
namespace Sys2Proof.Machine

/-- An entry at the first journal sector, which lies in bank 2. -/
def firstEntry : JEntry := { etype := 1, src := 0, key := none, body := [] }

/-- Port 1's erase of sector 300 waits for bank 2, which has no operation of a port open, while the writer programs an entry there. -/
def writerBusy : State :=
  { State.reset with pith := { State.reset.pith with waiting := [(1, 2, .erase 300 1 0 false false)], jprog := some firstEntry } }

/-- The supply's return leaves the erase waiting. -/
theorem writerBusy_waits : (after (exec (.vppPithRangeChange 0 true) writerBusy) writerBusy).pith.waiting ≠ [] := by
  decide

/-- Refutes O54: R676 gives a bank one operation at a time, and the writer's own program counts as one. The statement has the waiting
operation start although the writer programs an entry in the bank. -/
theorem not_pithSupply : ¬ Obligations.PithSupply := by
  intro holds
  obtain ⟨-, returns, -⟩ := holds 0 writerBusy
  obtain ⟨u, runs, -, -, none_⟩ := returns (by decide) (by decide) (by decide) 1 2 (.erase 300 1 0 false false) (by decide) (by decide) rfl (by simp) (by decide)
  have waits := writerBusy_waits
  rw [runs] at waits
  exact waits none_

end Sys2Proof.Machine
end
